-- ==== Sys2Proof/Word.lean ====
section
/-!
DEFINITION. The words of the NX16 management space and of its memories, and the sparse map
that holds every indexed piece of state.
-/

namespace Sys2Proof

/-- One byte of a memory, a datagram or a frame. -/
abbrev Byte := BitVec 8

/-- One 32-bit register of the management object space (R520). -/
abbrev Word := BitVec 32

/-- A sparse map: key and value pairs with keys strictly rising, and no value equal to what an
unlisted key reads as.  Equal maps are equal lists. -/
abbrev SMap (α : Type) := List (Nat × α)

/-- A byte memory: an address, a byte. -/
abbrev Memory := SMap Byte

/-- Rounding to nearest with ties away from zero of `n / d`, `d > 0` (R203). -/
def rnaDiv (n : Int) (d : Nat) : Int :=
  if n < 0 then - (((2 * n.natAbs + d) / (2 * d) : Nat) : Int)
  else (((2 * n.natAbs + d) / (2 * d) : Nat) : Int)

/-- `x` held to the range `lo` to `hi`. -/
def clampInt (lo hi x : Int) : Int := if x < lo then lo else if hi < x then hi else x

/-- Ceiling of `n / d` on naturals. -/
def ceilDiv (n d : Nat) : Nat := (n + d - 1) / d

end Sys2Proof
end

