-- ==== Sys2Proof/Syntax/Types.lean ====
section
/-!
DEFINITION. The operand types of the commands: units, memory references, step work, datagrams,
frames and the contents of a configuration image.  Types only; what they mean is in Machine/.
-/

namespace Sys2Proof

/-- A local-clock time: seconds and nanoseconds (R435). -/
structure Stamp where
  sec : Nat
  ns : Nat
  deriving DecidableEq, Repr

/-- A physical unit of the hierarchy (R6, Table 2-1).  Sites 0 to 4 are M0 to M4, 5 to 7 V0 to V2. -/
inductive UnitId where
  | cell (r : Fin 4) (b : Fin 9) (site : Fin 8)
  | walker (r : Fin 4) (b : Fin 9)
  | block (r : Fin 4) (b : Fin 9)
  | region (r : Fin 4)
  | text (t : Fin 5)
  | lane (d : Fin 5)
  | core (c : Fin 10)
  | port (x : Fin 2)
  | chip
  deriving DecidableEq, Repr

/-- A logical unit that runs scheduled steps: a block, a text cell or a decode lane (R344). -/
inductive StepUnit where
  | block (r : Fin 4) (lb : Fin 8)
  | text (t : Fin 4)
  | lane (d : Fin 4)
  deriving DecidableEq, Repr

/-- One of the 32 buffer slots of a cell's operand buffer (Table 3-7). -/
structure SlotId where
  u : UnitId
  slot : Fin 32
  deriving DecidableEq, Repr

/-- The three handle tables of Table 3-2; a block table belongs to a logical block. -/
inductive Space where
  | block (r : Fin 4) (lb : Fin 8)
  | shared
  | ddr
  deriving DecidableEq, Repr

/-- A handle and a byte offset (R71). -/
structure HRef where
  space : Space
  index : Nat
  off : Nat
  deriving DecidableEq, Repr

/-- Who issues a mortar operation: a step of a partition, or a control core, which skips the OWNER
check of R72. -/
structure Issuer where
  u : UnitId
  part : Option (Fin 16)
  deriving DecidableEq, Repr

/-- What the correction path finds in the words of the row that a read addresses (R85 to R87): 16 words of a block-memory
row, 8 of a granule of shared memory or DDR4, whose words 8 to 15 do not exist. -/
inductive Finding where
  | clean
  | single (word : Fin 16) (bit : Fin 72)
  | double (word : Fin 16)
  deriving DecidableEq, Repr

/-- What a parity check of an operand-buffer word finds at the first and at the second read (R84). -/
inductive Parity where
  | good
  | firstOnly
  | both
  deriving DecidableEq, Repr

/-- Where a mortar read goes. -/
inductive ReadTarget where
  | handle (h : HRef)
  | phys (space : Space) (addr : Nat)
  | slot (s : SlotId) (p : Parity)
  deriving DecidableEq, Repr

/-- The operand of MORTAR_READ: a granule read completes. -/
structure MortarIn where
  issuer : Issuer
  target : ReadTarget
  finding : Finding
  newerWrite : Bool
  linkError : Bool
  deriving DecidableEq, Repr

/-- One end of a move (Table 3-11): a handle and offset, or a slot and the byte offset in it. -/
inductive MoveEnd where
  | handle (h : HRef)
  | slot (s : SlotId) (off : Nat)
  deriving DecidableEq, Repr

/-- The compression code of a move descriptor. -/
inductive Comp where
  | none
  | compress
  | expand
  deriving DecidableEq, Repr

/-- A move descriptor (chapter 3, "Moves between levels"). -/
structure MoveDesc where
  issuer : Issuer
  src : MoveEnd
  dst : MoveEnd
  rowLen : Nat
  rows : Nat
  sStride : Nat
  dStride : Nat
  comp : Comp
  wide16 : Bool
  zero : Nat
  elems : Nat
  raiseFull : Bool
  deriving DecidableEq, Repr

/-- What the correction path finds when a move reads its source: which granule, in the order of the rows, and what. -/
structure MvFind where
  gran : Nat
  finding : Finding
  deriving DecidableEq, Repr

/-- A move that completes: its number, and what its reads find (R85). -/
structure MoveFin where
  id : Nat
  finds : List MvFind
  deriving DecidableEq, Repr

/-- A slot fence: the producer that issues it and the slot it covers (R53, R78). -/
structure SlotFence where
  producer : Issuer
  slot : SlotId
  deriving DecidableEq, Repr

/-- An encoder input: its level, and for how many nanoseconds it has been stable there (R111). -/
structure EncLevel where
  high : Bool
  stable : Nat
  deriving DecidableEq, Repr

/-- An operation that a step makes through a handle, as R72 checks it: read or write, and its length in bytes. -/
structure HUse where
  ref : HRef
  write : Bool
  len : Nat
  deriving DecidableEq, Repr

/-- A row of a memory for the patrol scrubber (R91). -/
inductive RowLoc where
  | block (r : Fin 4) (b : Fin 9) (bank : Fin 16) (row : Nat)
  | shared (bank : Fin 132) (row : Nat)
  deriving DecidableEq, Repr

/-- Kinds of step in the espalier tables and the soak step (Table 12-2, R356). -/
inductive StepKind where
  | lc
  | be
  | soak
  deriving DecidableEq, Repr

/-- The operand of STEP_START: the table entry that the step comes from, by its slot number, the item it takes or the set
it trains, and what its step program uses.  `cells` are the logical cells of the block that it engages, 0 to 3 for M0 to M3, 4
and 5 for V0 and V1; `bond` names the bonded pairs, 0 for (M0, M1) and 1 for (M2, M3), and no other pair exists (R56, R57).
`unready` are the items without a ready step, which the order of R358 passes over; `rivals` the other partitions that wait for
a shared text slot (R359). (DESIGN CHOICE, log entry 108) -/
structure StepDesc where
  unit : StepUnit
  kind : StepKind
  part : Fin 16
  prog : Nat
  wcet : Nat
  slot : Nat
  span : Nat
  ext : Bool
  cells : List (Fin 6)
  bond : List (Fin 2)
  item : Option Nat
  train : Option (Fin 8)
  bands : List Nat
  kv : Bool
  handles : List HUse
  unready : List Nat
  rivals : List (Fin 16)
  deriving DecidableEq, Repr

/-- Number formats of Table 7-1; codes 9 to 15 are reserved. -/
inductive Fmt where
  | int4
  | int8
  | int16
  | e4m3
  | e5m2
  | fp16
  | bf16
  | fp32
  | bil
  | reserved (code : Nat)
  deriving DecidableEq, Repr

/-- A tensor: element codes in row-major order. -/
structure Tensor where
  fmt : Fmt
  zp : Int
  shape : List Nat
  data : List Nat
  deriving DecidableEq, Repr

/-- The layer quantisation descriptor of Table 7-7. -/
structure QuantDesc where
  layer : Nat
  satThr : Fin 65536
  wide : Fin 4
  rerunHnd : Fin 64
  deriving DecidableEq, Repr

/-- One accumulator lane of a matrix tile: activations, weights, weight zero point, accumulator bias,
requantisation entry (Table 7-5), and the layer's wide weights, bias and entry for the lane (R224). -/
structure MatLane where
  acts : List Nat
  wts : List Nat
  zw : Int
  bias : Int
  entry : Nat
  wideWts : List Nat
  wideBias : Int
  wideEntry : Nat
  deriving DecidableEq, Repr

/-- A matrix tile: its number in the layer's tile order, and the pair that a wide re-run of it uses (R197, R222, R224). -/
structure MatWork where
  aFmt : Fmt
  wFmt : Fmt
  za : Int
  lanes : List MatLane
  quant : QuantDesc
  tile : Nat
  widePair : Fin 2
  deriving DecidableEq, Repr

/-- The shape of a sliding-window layer (R234 to R236, Table 8-3). -/
structure Window where
  kh : Nat
  kw : Nat
  sy : Nat
  sx : Nat
  dy : Nat
  dx : Nat
  padT : Nat
  padB : Nat
  padL : Nat
  padR : Nat
  mode : Nat
  padConst : Nat
  deriving DecidableEq, Repr

/-- A tile of a convolution layer: the input of shape [C, H, W], the layer's output channels, those of the tile from `co0`
on with their weights in the order of kernel row, kernel column, input channel, and the output positions of the tile
(R232, R233); its number and what its wide re-run uses (R224). -/
structure ConvWork where
  inp : Tensor
  win : Window
  wFmt : Fmt
  groups : Nat
  windowForm : Bool
  cout : Nat
  co0 : Nat
  pos : List (Nat × Nat)
  wts : List (List Nat)
  zws : List Int
  biases : List Int
  entries : List Nat
  wideWts : List (List Nat)
  wideBiases : List Int
  wideEntries : List Nat
  quant : QuantDesc
  tile : Nat
  widePair : Fin 2
  deriving DecidableEq, Repr

/-- Element-wise operators on floating values (R202). -/
inductive FpOp where
  | add
  | sub
  | mul
  | min
  | max
  deriving DecidableEq, Repr

/-- The table-assisted functions (R289 to R291). -/
inductive FpFun where
  | exp2
  | recip
  | rsqrt
  deriving DecidableEq, Repr

/-- Resampling operators (R252, R253). -/
inductive Resample where
  | area (f : Nat)
  | bilinear (wo ho : Nat)
  | nearest (wo ho : Nat)
  deriving DecidableEq, Repr

/-- A scale entry in its 64-bit layout (Table 7-6). -/
abbrev ScaleEntry := Nat

/-- A query row of an attention step: its query head, its FP32 elements, the positions it attends over and its own
(R283, R284). -/
structure AttnRow where
  head : Nat
  query : List Nat
  n : Nat
  pos : Nat
  deriving DecidableEq, Repr

/-- An attention step: the descriptor of Table 9-1 and the rows it computes, HKV × GRP of them for a position. -/
structure AttnWork where
  kvfmt : Fmt
  outFmt : Fmt
  hkv : Nat
  grp : Nat
  dim : Fin 4
  layersM1 : Fin 64
  layer : Nat
  seq : Nat
  causal : Bool
  maskOn : Bool
  maskHnd : Nat
  rq : Nat
  f : Nat
  sv : Nat
  rows : List AttnRow
  deriving DecidableEq, Repr

/-- What a step program did with the operands it read; the arithmetic is in Machine/.
(DESIGN CHOICE, log entry 108) -/
inductive StepWork where
  | control
  | matrix (w : MatWork)
  | conv (w : ConvWork)
  | pool (isMax : Bool) (inp : Tensor) (win : Window) (out : Fmt)
  | resample (r : Resample) (plane : Tensor)
  | eltAdd (a b : Tensor) (ka kb : Int) (entry : Nat)
  | eltMul (a b : Tensor) (entry : Nat)
  | eltFp (op : FpOp) (a b : Tensor) (out : Fmt) (zp : Int)
  | mulAdd (a b c : Tensor) (out : Fmt) (zp : Int)
  | table256 (tbl : List Nat) (inp : Tensor)
  | convert (inp : Tensor) (out : Fmt) (zp : Int)
  | quantise (inp : Tensor) (r : Nat) (out : Fmt) (zp : Int)
  | toBil (inp : Tensor) (thr : Nat)
  | fromBil (inp : Tensor)
  | dynQuant (inp : Tensor) (blk first : Nat) (out : Fmt)
  | dynDequant (q : Tensor) (blk first : Nat) (scales : List ScaleEntry) (out : Fmt) (zp : Int) (fields : List Nat)
  | lut (bits : Nat) (book : List Nat) (x : Tensor) (wts : List Byte) (blk first : Nat) (scales : List ScaleEntry)
      (fields : List Nat)
  | func (f : FpFun) (inp : Tensor)
  | attend (w : AttnWork)
  | kvWrite (seq layer pos hkv dim head : Nat) (kvfmt : Fmt) (proj : MatWork)
  | adapterProj (set : Fin 8) (proj : Nat) (x : Tensor) (base : Tensor)
  | decode
  | layout (band : Nat) (steer : Nat)
  | recognise (line : Nat) (bands : List Nat) (x0 x1 : Nat) (chars : Nat) (text image : List Byte) (inField : Bool)
  | prefill
  | fieldToken (fp32 : Bool) (logits : List (Nat × Nat))
  deriving DecidableEq, Repr

/-- Where a step's outputs go. -/
inductive Dest where
  | nowhere
  | slot (s : SlotId)
  | handle (h : HRef)
  deriving DecidableEq, Repr

/-- How a step ended. -/
inductive StepOutcome where
  | done
  | reexecuted (site : UnitId)
  | rolledBack
  | lost (cls : Nat)
  deriving DecidableEq, Repr

/-- The operand of STEP_END; `releases` names the bands whose last consumer the step was (R161), `uses` the tiles of other
layers that the step reads, as layer and tile, and `wide` the wide variant that it runs when one of them was written wide
(R224). -/
structure StepEndIn where
  unit : StepUnit
  outcome : StepOutcome
  work : StepWork
  uses : List (Nat × Nat)
  wide : StepWork
  dst : Dest
  releases : List Nat
  commit : Bool
  lastOfItem : Bool
  deriving DecidableEq, Repr

/-- What the PMBus regulator answered in one course (R41, R45). -/
structure PmbIn where
  voutMv : Nat
  poutCw : Nat
  deriving DecidableEq, Repr

/-- The operand of COURSE_BOUNDARY: the regulator's answer, the control cores that missed their kick, the region
controllers whose timing check of R406 fails, the temperature sensors in 1/8 degree. -/
structure CourseIn where
  pmb : Option PmbIn
  missedKick : List (Fin 10)
  badTiming : List (Fin 4)
  tempLogic : Int
  tempMemory : Int
  deriving DecidableEq, Repr

/-- A replica ring: a block's, or one of the memory die's quadrants (R39). -/
inductive Ring where
  | blk (r : Fin 4) (b : Fin 9)
  | mem (q : Fin 4)
  deriving DecidableEq, Repr

/-- The drive events of Table 4-4. -/
inductive Drive where
  | spRise
  | spFall
  | ledOn (c : Fin 3)
  | ledOff (c : Fin 3)
  deriving DecidableEq, Repr

/-- The operand of READOUT_COMPLETE: what a stream's receive pins carried in one readout, up to its end or to the
beginning of the next readout, and whether a crossing buffer was full (R38). -/
structure Readout where
  /-- Gen 1: the bytes on SNSn_D from the fall of SP on, each with its DCLK edge, true for a rising one. -/
  halves : List (Bool × Nat)
  /-- Gen 2 and Gen 3: the bits of each lane in the order of arrival; on Gen 2 the first is the last one before SP
  fell. -/
  lanes : List (List Bool)
  /-- Gen 2: the level of SNSn_FCLK at each of these bits. -/
  fclk : List Bool
  crossingFull : Bool
  deriving DecidableEq, Repr

/-- The operand of CAPTURE_REFERENCES: every line received of the capture's own triggers, first with the lamp off,
then with it on; the first 16 of each are discarded (R140). -/
structure CaptureIn where
  black : List (List Nat)
  white : List (List Nat)
  deriving DecidableEq, Repr

/-- An IP address; an IPv4 address is its 32-bit value. -/
structure Addr where
  v6 : Bool
  val : Nat
  deriving DecidableEq, Repr

/-- A UDP datagram on its way from a port to the JRT or NMP work. -/
structure DgIn where
  port : Fin 2
  src : Addr
  udp : Nat
  payload : List Byte
  deriving DecidableEq, Repr

/-- The functions that CONTROL and a drain name (Table 16-13 key 6). -/
inductive Target where
  | stream (n : Fin 16)
  | submit (s : Fin 32)
  | result (s : Fin 64)
  | partition (p : Fin 16)
  | adaptation
  deriving DecidableEq, Repr

/-- An edit of a page table, as the item manager requests it (R270, R272, R278, R280), for an item, a prefix anchor, or the
training of an adapter set (R329). -/
inductive KvEdit where
  | train (set : Fin 8)
  | trainEnd (set : Fin 8)
  | append (item : Nat) (overflowWork : Bool)
  | attach (item : Nat) (anchor : Nat) (positions : Nat)
  | release (item : Nat) (fromEntry : Nat)
  | anchor (slot : Nat) (entries : Nat)
  | clear (slot : Nat)
  deriving DecidableEq, Repr

/-- What the start-up self-test found (R494). -/
structure SelfTestIn where
  failed : List UnitId
  blockRows : List (Nat × Nat)
  sharedRows : List (Nat × Nat)
  sharedBanks : List (Fin 128)
  deriving DecidableEq, Repr

/-- A degradation that Table 13-2 answers with a variant. -/
inductive Degradation where
  | block (r : Fin 4)
  | region (r : Fin 4)
  | textUnit
  | laneUnit
  | ddr (ch : Fin 2)
  | port (x : Fin 2)
  deriving DecidableEq, Repr

/-- A gate control list entry (Table 14-4). -/
structure GateEntry where
  op : Nat
  gates : Nat
  interval : Nat
  deriving DecidableEq, Repr

/-- A variant of the lattice: tables, hedges as words of the hedge registers, DDR4 layout as entries of the DDR4 handle table,
gate lists and what it sheds (R395, R344, Table 16-9). -/
structure Variant where
  id : Nat
  degr : List Degradation
  courses : Nat
  regionTab : List (SMap (BitVec 64))
  unitTab : SMap (BitVec 32)
  /-- The lent tables, by lending partition (R367). -/
  lentTabs : List (Fin 16 × List (SMap (BitVec 64)))
  hedges : List (Nat × Word)
  ddrHandles : List (Nat × BitVec 64)
  gcl : List (List GateEntry)
  shedTr : List (Fin 8)
  shedSub : List (Fin 32)
  takesFromBe : List (Fin 16)
  deriving DecidableEq, Repr

/-- A dictionary's tables (Tables 10-2, 10-3): trie nodes, token texts, the class map. -/
structure DictCfg where
  nodes : SMap (BitVec 64)
  text : SMap (List Byte)
  cls : SMap Nat
  deriving DecidableEq, Repr

/-- The grammar table: masks of 4,096 bits, state entries of 64 bits, edges of 32 bits. -/
structure GrammarCfg where
  masks : SMap Nat
  entries : SMap (BitVec 64)
  edges : SMap (BitVec 32)
  deriving DecidableEq, Repr

/-- A piece of a prompt template (chapter 10, "Building a prompt"). -/
inductive Piece where
  | literal (ids : List Nat)
  | page
  | region (lines : List Nat)
  | field (f : Nat)
  deriving DecidableEq, Repr

/-- A field of a schema: name, descriptor (Table 10-4), stop strings. -/
structure FieldCfg where
  name : List Byte
  desc : BitVec 64
  stops : List (List Byte)
  template : List Piece
  deriving DecidableEq, Repr

/-- A schema: fields, template, prompt limit, the prefix anchor's table slot. -/
structure Schema where
  fields : List FieldCfg
  template : List Piece
  promptMax : Nat
  dict : Fin 4
  anchor : Option Nat
  deriving DecidableEq, Repr

/-- An admission entry: an IP prefix and the roles it allows (bit 0 result, 1 correction, 2 submit). -/
structure Admission where
  pfx : Addr
  len : Nat
  roles : Nat
  deriving DecidableEq, Repr

/-- An adapted projection: matrices of BF16 codes, A of r x in and B of out x r (R319). -/
structure Projection where
  inDim : Nat
  outDim : Nat
  a : List Nat
  b : List Nat
  deriving DecidableEq, Repr

/-- An adapter set as the image declares it (R319, R331). -/
structure AdaptCfg where
  origins : List Nat
  projs : List Projection
  scale : Nat
  b1 : Nat
  b2 : Nat
  eps : Nat
  lr : Nat
  clip : Nat
  modelHash : List Byte
  deriving DecidableEq, Repr

/-- The scales of a layer from which entries are derived at boot (R213 to R215). -/
structure ScaleDerive where
  sIn : Nat
  g : Nat
  sOut : Nat
  codes : List Nat
  fp32Mode : Bool
  deriving DecidableEq, Repr

/-- A shading reference set: black reference and gain per pixel and colour, in output sample order (R136), which of
them are defective (R142), and whose gain was clamped (R137). -/
structure RefSet where
  black : List Nat
  gain : List Nat
  defect : List Bool
  low : List Bool
  deriving DecidableEq, Repr

/-- A stream filter, gate and meter of IEEE 802.1Qci (R432). -/
structure Filter where
  byMac : Bool
  mac : Nat
  vid : Nat
  src : Addr
  dport : Nat
  maxSdu : Nat
  gate : List (Bool × Nat)
  cir : Nat
  cbs : Nat
  eir : Nat
  ebs : Nat
  deriving DecidableEq, Repr

/-- A stream whose duplicates are eliminated (R433). -/
structure FrerCfg where
  byMac : Bool
  mac : Nat
  vid : Nat
  src : Addr
  dport : Nat
  history : Nat
  resetMs : Nat
  deriving DecidableEq, Repr

/-- A port's addressing from the image (R422, R432). -/
structure PortNet where
  ip4 : Nat
  ip4Len : Nat
  gw4 : Nat
  ip6 : Option Nat
  ip6Len : Nat
  gw6 : Nat
  filters : List Filter
  dflt : Filter
  deriving DecidableEq, Repr

/-- A wrapped or clear role key of section 9 (R511). -/
structure RoleKey where
  role : Nat
  key : List Byte
  deriving DecidableEq, Repr

/-- Where a submitting session's records lie: the DDR4 page at which its reassembly space begins, the shared handle of its
band ring, buffers and bytes of each, and the DDR4 handle of its retention area (R161, R178).
(DESIGN CHOICE, log entry 123) -/
structure RecArea where
  sess : Nat
  page : Nat
  ring : Nat
  count : Nat
  bytes : Nat
  ret : Nat
  deriving DecidableEq, Repr

/-- What the sections of an image hold, in the manual's terms; `content` is what they place in memory: memory (36 shared,
37 DDR4), byte address, bytes. (DESIGN CHOICE, log entry 27) -/
structure ImageConfig where
  regs : List (Nat × Word)
  blockHandles : List (Nat × BitVec 64)
  sharedHandles : List (Nat × BitVec 64)
  ddrHandles : List (Nat × BitVec 64)
  persistent : List (Nat × Nat)
  mandatoryCfg : List Nat
  variants : List Variant
  admission : List Admission
  schemas : List Schema
  schemaOf : List (Nat × Nat)
  partOf : List (Nat × Nat)
  boundMs : List (Nat × Nat)
  egressUs : List (Nat × Nat)
  dicts : List DictCfg
  grammar : GrammarCfg
  symbols : List (List Byte)
  scales : List ScaleDerive
  refs : List (Nat × RefSet)
  afe : List (Nat × List (Nat × Bool))
  adapt : List AdaptCfg
  ports : List PortNet
  frer : List FrerCfg
  roleKeys : List RoleKey
  kvLayers : List (Nat × Nat)
  kvBase : Nat
  kvOvfPage : Nat
  spillSets : List (Nat × List Nat)
  recAreas : List RecArea
  content : List (Nat × Nat × List Byte)
  deriving DecidableEq, Repr

/-- The image that reads of an unconfigured device see. -/
def ImageConfig.blank : ImageConfig :=
  { regs := [], blockHandles := [], sharedHandles := [], ddrHandles := [], persistent := [],
    mandatoryCfg := [], variants := [], admission := [], schemas := [], schemaOf := [], partOf := [],
    boundMs := [], egressUs := [], dicts := [], grammar := ⟨[], [], []⟩, symbols := [], scales := [],
    refs := [], afe := [], adapt := [], ports := [], frer := [], roleKeys := [], kvLayers := [], kvBase := 0,
    kvOvfPage := 0, spillSets := [], recAreas := [], content := [] }

/-- A correction record, taken apart (R325). -/
structure CorrIn where
  item : Nat
  line : Bool
  index : Nat
  value : List Byte
  deriving DecidableEq, Repr

/-- The operand of ADAPT_UPDATE_END: per example the FP32 gradient codes of the set's elements, and, when a
gate is due, the hold-out scores of the candidate and of the published copy (R331, R333). -/
structure UpdateIn where
  set : Fin 8
  failed : Bool
  grads : List (List Nat)
  candHits : List Bool
  pubHits : List Bool
  deriving DecidableEq, Repr

/-- The layer-4 part of a received IP packet. -/
inductive L4 where
  | echo (ident seqNo : Nat) (data : List Byte)
  | udp (sport dport : Nat) (payload : List Byte)
  | groupQuery
  | neighbourSolicit (target : Nat)
  | neighbourAdvert (target : Nat)
  | routerAdvert
  | other (proto : Nat)
  deriving DecidableEq, Repr

/-- What an Ethernet frame carries. -/
inductive L3 where
  | arpRequest (senderIp senderMac targetIp : Nat)
  | arpReply (senderIp senderMac : Nat)
  | ipv4 (src dst : Nat) (fragment : Bool) (l4 : L4)
  | ipv6 (src dst : Nat) (extHeader : Bool) (fragment : Bool) (l4 : L4)
  | ptp (payload : List Byte)
  | pause
  | other (etherType : Nat)
  deriving DecidableEq, Repr

/-- The operand of FRAME_RECEIVE. (DESIGN CHOICE, log entry 111) -/
structure FrameIn where
  len : Nat
  fcsOk : Bool
  tags : List (Nat × Nat)
  rtag : Option Nat
  dst : Nat
  src : Nat
  l3 : L3
  crossingFull : Bool
  deriving DecidableEq, Repr

/-- A Sync as the servo sees it: receive time-stamp, origin time-stamp, correction in ns, interval in ns (R441). -/
structure SyncIn where
  port : Fin 2
  rx : Stamp
  origin : Stamp
  correction : Int
  interval : Nat
  deriving DecidableEq, Repr

/-- An Announce: the dataset compared by the running profile, as an ordered rank vector (R440).
(DEDUCED, log entry 109) -/
structure AnnounceIn where
  port : Fin 2
  qualified : Bool
  dataset : List Nat
  utcOffset : Int
  utcValid : Bool
  deriving DecidableEq, Repr

/-- The four times of a delay exchange, in ns: t2 - t1 and t4 - t3 for peer delay, or t4 - t3 and the Sync's
t2 - t1 for request-response (R441). -/
structure DelayIn where
  port : Fin 2
  ab : Int
  cd : Int
  deriving DecidableEq, Repr

/-- A JTAG instruction (R510). -/
inductive JtagInstr where
  | bypass
  | idcode
  | token
  | samplePreload
  | extest
  | extestPulse
  | extestTrain
  | vendorDebug (code : Nat)
  | other (code : Nat)
  deriving DecidableEq, Repr

/-- What FUSE_PROG programs (R510). -/
inductive FuseIn where
  | customerRoot (hash : List Byte)
  | wrapKey (key : List Byte)
  | net (port : Fin 2) (mode : Fin 8)
  deriving DecidableEq, Repr

/-- How a JTAG token arrives (R510). -/
inductive TokenIn where
  | viaNmp (d : DgIn)
  | viaJtag (token : List Byte)
  deriving DecidableEq, Repr

/-- How a long operation ended (R516). -/
inductive LongEnd where
  | done
  | failed (code : Nat)
  | aborted
  deriving DecidableEq, Repr

end Sys2Proof
end

