-- ==== Sys2Proof/Syntax.lean ====
section
/-!
DEFINITION. The commands of the NX16: one constructor per row of spec/opcode_table.json, in the
table's order, each with the operands that what happens outside the device supplies.
-/

namespace Sys2Proof

/-- The 137 operations and events of the table. -/
inductive Instr where
  | porstNFall
  | porstNRise (straps : Fin 4)
  | railUndervoltage
  | overTemperatureTrip
  | overTemperatureRelease
  | imageVerify
  | firmwareStart (linear16 : Bool)
  | sectionsLoaded (img : ImageConfig)
  | ddr4TrainingDone (aOk bOk : Bool)
  | ddr4InitDone
  | selfTestDone (r : SelfTestIn)
  | adapterAreasVerified
  | bootStageI (ms : Nat)
  | svnAdvance
  | courseBoundary (w : CourseIn)
  | slotTick
  | paceBelowFloor
  | paceWindow (ring : Ring) (count : Nat)
  | scheduleFault (r : Fin 4)
  | scheduleFaultRegionFail (r : Fin 4)
  | blockSilent (r : Fin 4) (b : Fin 9)
  | stepStart (d : StepDesc)
  | stepEnd (w : StepEndIn)
  | slotFenceDone (x : SlotFence)
  | slotRelease (s : SlotId)
  | slotWaitFault (s : SlotId) (awaited : Bool) (u : StepUnit)
  | memoryFenceDone (u : Issuer)
  | publicationFenceDone (core : Fin 10)
  | courseFenceDone (r : Fin 4)
  | mortarRead (w : MortarIn)
  | moveIssue (d : MoveDesc)
  | moveComplete (e : MoveFin)
  | bankCopyDone (bank : Fin 128)
  | patrolScrubRead (row : RowLoc) (finding : Finding)
  | encoderEdge (k : Fin 8) (a b : EncLevel)
  | timerTrigger (k : Fin 8)
  | deferredTrigger (k : Fin 8)
  | driveEvent (n : Fin 16) (e : Drive)
  | readoutComplete (n : Fin 16) (w : Readout)
  | bandWritten (n : Fin 16) (band : Nat)
  | retentionCopyDone (n : Fin 48) (item band : Nat)
  | transportStop (k : Fin 8)
  | afeConfigDone (n : Fin 16) (reads : List Nat)
  | afeSyncTimeout (n : Fin 16)
  | holdMinExpire (k : Fin 8)
  | captureReferences (n : Fin 16) (w : CaptureIn)
  | submitRecord (s : Fin 32) (bytes : List Byte) (last : Bool)
  | submitTimeout (s : Fin 32)
  | decodeStart (item : Nat)
  | kvTableEdit (e : KvEdit)
  | correction (session : Fin 64) (w : CorrIn)
  | adaptUpdateStart (set : Fin 8)
  | adaptUpdateEnd (w : UpdateIn)
  | adaptPublish (set : Fin 8)
  | preemption (part : Fin 16)
  | spillComplete (part : Fin 16)
  | spillRestore (part : Fin 16)
  | itemCutoff (item : Nat)
  | drainComplete (t : Target)
  | drainTimeout (part : Fin 16)
  | cellFailed (u : UnitId)
  | blockFailed (r : Fin 4) (b : Fin 9)
  | itemRerun (item : Nat)
  | variantSwitch
  | ddr4ChannelLost (ch : Fin 2)
  | portLost (x : Fin 2)
  | controlCoreFailed (c : Fin 10)
  | linkUp (x : Fin 2) (rate : Fin 5) (fullDuplex : Bool)
  | linkDown (x : Fin 2)
  | frameReceive (x : Fin 2) (f : FrameIn)
  | frameTransmit (x : Fin 2)
  | linkDownDiscard (x : Fin 2)
  | gateEntryStart (x : Fin 2)
  | preemptVerify (x : Fin 2) (ok : Bool)
  | arpEntryExpire (x : Fin 2) (a : Addr)
  | duplicateAddress (x : Fin 2) (a : Addr)
  | dhcpRenew (x : Fin 2)
  | dhcpRebind (x : Fin 2)
  | dhcpLeaseExpire (x : Fin 2)
  | syncReceived (w : SyncIn)
  | firstLock
  | announceReceived (w : AnnounceIn)
  | sourceTimeout
  | delayRequestTimer (x : Fin 2)
  | pdelayReqReceived (x : Fin 2) (payload : List Byte)
  | delayResponseReceived (w : DelayIn)
  | ppsPulse
  | ptpEventEdge (falling : Bool)
  | jrtOpen (d : DgIn)
  | jrtClose (d : DgIn)
  | jrtData (d : DgIn)
  | jrtAck (d : DgIn)
  | retransmitTimeout (s : Fin 96) (lane : Bool) (seq : Nat)
  | ackDelayExpire (s : Fin 96)
  | idleAck (s : Fin 96)
  | idleClose (s : Fin 96)
  | sessionStall (s : Fin 64)
  | sessionAbandon (s : Fin 64)
  | hello (d : DgIn)
  | nmpRead (d : DgIn)
  | nmpWrite (d : DgIn)
  | forceHoldWrite (d : DgIn)
  | ldgViolatedClear (d : DgIn)
  | evtOvfClear (d : DgIn)
  | adaptEnableWrite (d : DgIn)
  | inferOffWrite (d : DgIn)
  | partEnableWrite (d : DgIn)
  | streamEnable (d : DgIn)
  | streamDisable (d : DgIn)
  | submitSessionEnable (d : DgIn)
  | submitSessionDisable (d : DgIn)
  | resultSessionDisable (d : DgIn)
  | resultSessionClose (d : DgIn)
  | partitionEnable (d : DgIn)
  | partitionDisable (d : DgIn)
  | adaptationEnable (d : DgIn)
  | adaptationDisable (d : DgIn)
  | restart (d : DgIn)
  | attest (d : DgIn)
  | longStatus (d : DgIn)
  | longAbort (d : DgIn)
  | stageData (d : DgIn)
  | jtagToken (w : TokenIn)
  | fuseProg (w : FuseIn)
  | stageImage (d : DgIn)
  | captureStart (d : DgIn)
  | adapterCommit (d : DgIn)
  | ddr4Scrub (d : DgIn)
  | spareSelfTest (d : DgIn)
  | longOpEnd (handle : Nat) (e : LongEnd)
  | longHandleExpire (handle : Nat)
  | i2cIndexWrite (bytes : List Byte)
  | i2cRead (n : Nat)
  | ptpRefclkEdge
  | warmRestartStart
  | frerResetTimeout (stream : Nat)
  | jtagInstruction (i : JtagInstr)
  deriving DecidableEq, Repr

end Sys2Proof
end

