-- ==== Sys2Proof/Decode.lean ====
section
/-!
DEFINITION. Commands from table words.  spec/opcode_table.json gives no row a bit, so no word spells a command.
-/

namespace Sys2Proof

/-- The command that a word spells by the table's bits: none, since no row of the table gives bits.
(DEDUCED, log entry 107) -/
def decodeTableWord (_nbits _w : Nat) : Option Instr := none

end Sys2Proof
end

