-- ==== Sys2Proof/Machine/Sparse.lean ====
section
/-!
DEFINITION. The operations of a sparse map: reading, writing in canonical form, and the
predicate that says the form holds.  Every indexed state of the machine goes through these.
-/

namespace Sys2Proof.Machine

/-- What key `k` holds; an unlisted key holds `d`. (DESIGN CHOICE, log entry 3) -/
def smGet {α : Type} (d : α) : SMap α → Nat → α
  | [], _ => d
  | (a, v) :: r, k => if a = k then v else smGet d r k

/-- Puts an entry in front of the first entry with a larger key. -/
def smIns {α : Type} (k : Nat) (v : α) : SMap α → SMap α
  | [] => [(k, v)]
  | (a, w) :: r => if k < a then (k, v) :: (a, w) :: r else (a, w) :: smIns k v r

/-- Takes what is listed at key `k` out. -/
def smDel {α : Type} : SMap α → Nat → SMap α
  | [], _ => []
  | (a, w) :: r, k => if a = k then smDel r k else (a, w) :: smDel r k

/-- Writes `v` at key `k` keeping the canonical form: what was listed at `k` goes, and the default is not listed. -/
def smSet {α : Type} [DecidableEq α] (d : α) (m : SMap α) (k : Nat) (v : α) : SMap α :=
  if v = d then smDel m k else smIns k v (smDel m k)

/-- Applies `f` to what key `k` holds. -/
def smMod {α : Type} [DecidableEq α] (d : α) (m : SMap α) (k : Nat) (f : α → α) : SMap α :=
  smSet d m k (f (smGet d m k))

/-- Every listed key lies above `lo` in rising order and no entry equals the default. -/
def smOkFrom {α : Type} [DecidableEq α] (d : α) : Nat → SMap α → Bool
  | _, [] => true
  | lo, (a, v) :: r => decide (lo ≤ a) && decide (v ≠ d) && smOkFrom d (a + 1) r

/-- The canonical form of a sparse map. -/
def smOk {α : Type} [DecidableEq α] (d : α) (m : SMap α) : Bool := smOkFrom d 0 m

/-- What a byte of memory that nothing has written reads as: the zeros of R92 and R492
(DESIGN CHOICE before those rules have written them, log entry 3). -/
def memDefault : Byte := 0

/-- One byte of a memory. -/
def memRead (m : Memory) (a : Nat) : Byte := smGet memDefault m a

/-- `n` bytes from address `a`. -/
def memReads (m : Memory) (a : Nat) : Nat → List Byte
  | 0 => []
  | n + 1 => memRead m a :: memReads m (a + 1) n

/-- Writes the bytes at `a` and the addresses after it. -/
def memWrites (m : Memory) (a : Nat) : List Byte → Memory
  | [] => m
  | b :: r => memWrites (smSet memDefault m a b) (a + 1) r

/-- Writes one byte. -/
def memWrite (m : Memory) (a : Nat) (b : Byte) : Memory := smSet memDefault m a b

/-- The canonical form of a memory (strictly rising addresses, no entry reading as unlisted). -/
abbrev Memory.wf (m : Memory) : Bool := smOk memDefault m

/-- A little-endian unsigned number of the bytes. -/
def leNat : List Byte → Nat
  | [] => 0
  | b :: r => b.toNat + 256 * leNat r

/-- A big-endian unsigned number of the bytes. -/
def beNat (l : List Byte) : Nat := l.foldl (fun a b => a * 256 + b.toNat) 0

/-- `n` bytes of `v`, least significant first. -/
def leBytes (n v : Nat) : List Byte :=
  match n with
  | 0 => []
  | k + 1 => BitVec.ofNat 8 v :: leBytes k (v / 256)

/-- `n` bytes of `v`, most significant first. -/
def beBytes (n v : Nat) : List Byte := (leBytes n v).reverse

/-- Bits `[lo + w - 1 : lo]` of a number. -/
def bitsOf (v lo w : Nat) : Nat := (v >>> lo) % 2 ^ w

/-- `v` with bits `[lo + w - 1 : lo]` replaced by `x`. -/
def putBits (v lo w x : Nat) : Nat :=
  v - (bitsOf v lo w) * 2 ^ lo + (x % 2 ^ w) * 2 ^ lo

/-- Bit `i` of a number. -/
def bitOf (v i : Nat) : Bool := bitsOf v i 1 = 1

/-- A signed field of width `w`. -/
def signedOf (v w : Nat) : Int := if v < 2 ^ (w - 1) then (v : Int) else (v : Int) - 2 ^ w

/-- A signed number as a field of width `w`. -/
def toField (x : Int) (w : Nat) : Nat := (x % (2 ^ w : Int)).toNat

/-- 1 for true. -/
def b2n (b : Bool) : Nat := if b then 1 else 0

/-- Element `i` of a list, `d` beyond its end. -/
def nth {α : Type} (l : List α) (i : Nat) (d : α) : α := l.getD i d

/-- Replaces element `i` of a list by `f` of it. -/
def modNth {α : Type} (l : List α) (i : Nat) (f : α → α) : List α := l.modify i f

/-- Splits a list into runs of `n`, `fuel` of them at most. -/
def chunksOf {α : Type} (n : Nat) : Nat → List α → List (List α)
  | 0, _ => []
  | _, [] => []
  | k + 1, l => l.take n :: chunksOf n k (l.drop n)

/-- The largest element, 0 for none. -/
def maxNat (l : List Nat) : Nat := l.foldl Nat.max 0

end Sys2Proof.Machine
end

