-- ==== Sys2Proof/Machine/Cbor.lean ====
section
/-!
DEFINITION. CBOR (RFC 8949): the core deterministic encoding the device sends (R466), and a parser that accepts
any valid encoding and says whether an indefinite-length item occurs (R175).
-/

namespace Sys2Proof.Machine

/-- A CBOR data item; `other` holds floats and simple values the manual never uses. -/
inductive Cbor where
  | uint (n : Nat)
  | nint (n : Nat)
  | bytes (b : List Byte)
  | text (b : List Byte)
  | arr (l : List Cbor)
  | map (l : List (Cbor × Cbor))
  | tag (n : Nat) (v : Cbor)
  | bool (b : Bool)
  | null
  | other (n : Nat)
  deriving Repr

/-- The head of an item: major type and argument in the shortest form. -/
def cborHead (major n : Nat) : List Byte :=
  let m := major * 32
  if n < 24 then [BitVec.ofNat 8 (m + n)]
  else if n < 256 then BitVec.ofNat 8 (m + 24) :: beBytes 1 n
  else if n < 65536 then BitVec.ofNat 8 (m + 25) :: beBytes 2 n
  else if n < 2 ^ 32 then BitVec.ofNat 8 (m + 26) :: beBytes 4 n
  else BitVec.ofNat 8 (m + 27) :: beBytes 8 n

mutual
/-- The encoding of an item. -/
def Cbor.enc : Cbor → List Byte
  | .uint n => cborHead 0 n
  | .nint n => cborHead 1 n
  | .bytes b => cborHead 2 b.length ++ b
  | .text b => cborHead 3 b.length ++ b
  | .arr l => cborHead 4 l.length ++ encList l
  | .map l => cborHead 5 l.length ++ encPairs l
  | .tag n v => cborHead 6 n ++ v.enc
  | .bool b => [if b then 0xF5 else 0xF4]
  | .null => [0xF6]
  | .other n => cborHead 7 n
/-- The encodings of a list of items. -/
def encList : List Cbor → List Byte
  | [] => []
  | a :: l => a.enc ++ encList l
/-- The encodings of key and value pairs, in the order given. -/
def encPairs : List (Cbor × Cbor) → List Byte
  | [] => []
  | p :: l => encPair p ++ encPairs l
/-- One key and its value. -/
def encPair : Cbor × Cbor → List Byte
  | (a, b) => a.enc ++ b.enc
end

/-- Inserts a key and value in ascending key order. -/
def insKey (k : Nat) (v : Cbor) : List (Nat × Cbor) → List (Nat × Cbor)
  | [] => [(k, v)]
  | (a, w) :: r => if k ≤ a then (k, v) :: (a, w) :: r else (a, w) :: insKey k v r

/-- A map with unsigned keys in ascending order: the form of every record (R466). -/
def recordMap (l : List (Nat × Cbor)) : Cbor :=
  .map ((l.foldr (fun e acc => insKey e.1 e.2 acc) []).map (fun e => (.uint e.1, e.2)))

/-- The outcome of parsing a prefix of a byte stream. -/
inductive Parsed (α : Type) where
  | ok (v : α) (rest : List Byte)
  /-- The bytes end before the item does. -/
  | more
  | bad
  deriving Repr

/-- The head of an item: major type, argument, and whether the length is indefinite. -/
def parseHead : List Byte → Parsed (Nat × Nat × Bool)
  | [] => .more
  | b :: r =>
    let major := b.toNat / 32
    let info := b.toNat % 32
    let big := fun n => if r.length < n then Parsed.more else .ok (major, beNat (r.take n), false) (r.drop n)
    if info < 24 then .ok (major, info, false) r
    else if info = 24 then big 1
    else if info = 25 then big 2
    else if info = 26 then big 4
    else if info = 27 then big 8
    else if info = 31 then (if major = 0 ∨ major = 1 ∨ major = 6 then .bad else .ok (major, 0, true) r)
    else .bad

/-- Whether a byte string is well-formed UTF-8 (RFC 3629): expected continuation bytes, and the range of the
next byte. -/
def utf8From : Nat → Nat → Nat → List Byte → Bool
  | 0, _, _, [] => true
  | _ + 1, _, _, [] => false
  | 0, _, _, b :: r =>
    let v := b.toNat
    if v < 0x80 then utf8From 0 0 0 r
    else if 0xC2 ≤ v ∧ v ≤ 0xDF then utf8From 1 0x80 0xBF r
    else if v = 0xE0 then utf8From 2 0xA0 0xBF r
    else if v = 0xED then utf8From 2 0x80 0x9F r
    else if 0xE1 ≤ v ∧ v ≤ 0xEF then utf8From 2 0x80 0xBF r
    else if v = 0xF0 then utf8From 3 0x90 0xBF r
    else if 0xF1 ≤ v ∧ v ≤ 0xF3 then utf8From 3 0x80 0xBF r
    else if v = 0xF4 then utf8From 3 0x80 0x8F r
    else false
  | n + 1, lo, hi, b :: r => decide (lo ≤ b.toNat ∧ b.toNat ≤ hi) && utf8From n 0x80 0xBF r

/-- Whole, valid UTF-8. -/
def utf8Ok (l : List Byte) : Bool := utf8From 0 0 0 l

mutual
/-- Parses one item; the flag says whether an indefinite-length item occurs in it. -/
def parseItem : Nat → List Byte → Parsed (Cbor × Bool)
  | 0, _ => .bad
  | fuel + 1, l =>
    match parseHead l with
    | .more => .more
    | .bad => .bad
    | .ok (major, n, indef) r =>
      match major with
      | 0 => .ok (.uint n, false) r
      | 1 => .ok (.nint n, false) r
      | 2 =>
        if indef then parseChunks fuel false [] r
        else if r.length < n then .more else .ok (.bytes (r.take n), false) (r.drop n)
      | 3 =>
        if indef then parseChunks fuel true [] r
        else if r.length < n then .more
        else if utf8Ok (r.take n) then .ok (.text (r.take n), false) (r.drop n) else .bad
      | 4 =>
        (match parseSeq fuel (if indef then none else some n) r with
         | .ok (vs, i) r => .ok (.arr vs, i || indef) r
         | .more => .more
         | .bad => .bad)
      | 5 =>
        (match parseSeq fuel (if indef then none else some (2 * n)) r with
         | .ok (vs, i) r =>
           if vs.length % 2 = 1 then .bad else .ok (.map (pairUp vs), i || indef) r
         | .more => .more
         | .bad => .bad)
      | 6 =>
        (match parseItem fuel r with
         | .ok (v, i) r => .ok (.tag n v, i) r
         | .more => .more
         | .bad => .bad)
      | _ =>
        if indef then .bad
        else if n = 20 then .ok (.bool false, false) r
        else if n = 21 then .ok (.bool true, false) r
        else if n = 22 then .ok (.null, false) r
        else .ok (.other n, false) r
/-- Parses a known count of items, or items up to a break. -/
def parseSeq : Nat → Option Nat → List Byte → Parsed (List Cbor × Bool)
  | 0, _, _ => .bad
  | _ + 1, some 0, l => .ok ([], false) l
  | fuel + 1, cnt, l =>
    match cnt, l with
    | none, [] => .more
    | _, _ =>
      if cnt.isNone && decide (l.head? = some 0xFF) then .ok ([], true) (l.drop 1)
      else
        match parseItem fuel l with
        | .more => .more
        | .bad => .bad
        | .ok (v, i) r =>
          match parseSeq fuel (cnt.map (· - 1)) r with
          | .ok (vs, j) r => .ok (v :: vs, i || j) r
          | .more => .more
          | .bad => .bad
/-- Parses the chunks of an indefinite-length string. -/
def parseChunks : Nat → Bool → List Byte → List Byte → Parsed (Cbor × Bool)
  | 0, _, _, _ => .bad
  | fuel + 1, isText, acc, l =>
    match l with
    | [] => .more
    | b :: r =>
      if b = 0xFF then .ok (if isText then .text acc else .bytes acc, true) r
      else
        match parseItem fuel l with
        | .more => .more
        | .ok (.text t, false) r => if isText then parseChunks fuel isText (acc ++ t) r else .bad
        | .ok (.bytes t, false) r => if isText then .bad else parseChunks fuel isText (acc ++ t) r
        | _ => .bad
/-- Keys and values of a map from its items in order. -/
def pairUp : List Cbor → List (Cbor × Cbor)
  | a :: b :: r => (a, b) :: pairUp r
  | _ => []
end

/-- Parses one item from the front of a byte stream. -/
def parseCbor (l : List Byte) : Parsed (Cbor × Bool) := parseItem (2 * l.length + 2) l

/-- The value of an unsigned key of a map. -/
def Cbor.key (m : Cbor) (k : Nat) : Option Cbor :=
  match m with
  | .map l => (l.find? (fun e => match e.1 with | .uint n => decide (n = k) | _ => false)).map (·.2)
  | _ => none

/-- An unsigned value of a key. -/
def Cbor.nat (m : Cbor) (k : Nat) : Option Nat := match m.key k with | some (.uint n) => some n | _ => none
/-- A byte string value of a key. -/
def Cbor.bstr (m : Cbor) (k : Nat) : Option (List Byte) := match m.key k with | some (.bytes b) => some b | _ => none
/-- A text value of a key. -/
def Cbor.tstr (m : Cbor) (k : Nat) : Option (List Byte) := match m.key k with | some (.text b) => some b | _ => none
/-- A boolean value of a key. -/
def Cbor.flag (m : Cbor) (k : Nat) : Option Bool := match m.key k with | some (.bool b) => some b | _ => none

/-- The unsigned keys of a map; none when a key is of another kind or occurs twice. -/
def Cbor.keys (m : Cbor) : Option (List Nat) :=
  match m with
  | .map l =>
    let ks := l.filterMap (fun e => match e.1 with | .uint n => some n | _ => none)
    if ks.length = l.length ∧ ks.Nodup then some ks else none
  | _ => none

end Sys2Proof.Machine
end

