-- ==== Sys2Proof/Config.lean ====
section
/-!
DEFINITION. What the manual leaves open or gives only to a standard it names: every constant here has
no body, so no statement can rest on a value of it.
-/

namespace Sys2Proof.Config

/-- Numerator of the trim factor of a ring, set at manufacture (R39).  (PRESUMED, log entry 112) -/
opaque trimNum : Nat → Nat
/-- One less than its denominator. (PRESUMED, log entry 112) -/
opaque trimDen : Nat → Nat

/-- A byte behind the last byte that a writer has for a granule, which is always written whole (R70): the count of free
values drawn so far, and the position. (DESIGN CHOICE, log entry 117) -/
opaque padByte : Nat → Nat → Byte

/-- A fresh random value: BOOT_ID, a token nonce, an attestation nonce.  The argument is the count of
free values drawn so far. (DEDUCED, log entry 8) -/
opaque fresh : Nat → Nat

/-- The header of a PTP message that the device sends, by message type, port and count of messages sent: IEEE
1588-2019 gives its layout, the manual only the time fields that follow it. (PRESUMED, log entry 16) -/
opaque ptpHeader : Nat → Nat → Nat → List Byte

/-- A DHCPv4 message that the client sends, by its type (1 DISCOVER, 3 REQUEST), port and address: RFC 2131 gives
its layout. (PRESUMED, log entry 16) -/
opaque dhcpMessage : Nat → Nat → Nat → List Byte

/-- How many datagrams beyond the next expected one the device grants on lane 0 of a session (R459 names no
figure). (DESIGN CHOICE, log entry 17) -/
opaque jrtWindow : Nat

/-- Exposure midpoint, in ns of the local clock, of a line that no LED lit or that no trigger started: R123 gives none.
The argument is the count of free values drawn so far. (DESIGN CHOICE, log entry 18) -/
opaque darkMidpoint : Nat → Nat

/-- Receive time-stamp, in ns, of a record whose last byte has not arrived (R30 gives none).  The argument is the
count of free values drawn so far. (DESIGN CHOICE, log entry 19) -/
opaque recordStamp : Nat → Nat

/-- Paper threshold, settle lines, smallest rotated skew in 0.01° and deskew enable of record images: R29 sends records
through edge and skew detection, and no register gives these values for a submitting session.
(DESIGN CHOICE, log entry 20) -/
opaque recordThr : Nat
/-- Settle lines of record images. (DESIGN CHOICE, log entry 20) -/
opaque recordSettle : Nat
/-- Smallest rotated skew of record images. (DESIGN CHOICE, log entry 20) -/
opaque recordSkewMin : Nat
/-- Deskew enable of record images. (DESIGN CHOICE, log entry 20) -/
opaque recordDeskew : Bool

/-- Granules per plane line of a record's bands, by width: set by Poingo, and no register gives it for a session.
(DESIGN CHOICE, log entry 20) -/
opaque recordPitch : Nat → Nat

/-- Bias correction of a moment whose factor is 1, an FP32 code: R331 divides by 0 there and states no result.  The
argument is the update count. (DESIGN CHOICE, log entry 21) -/
opaque unitBias : Nat → Nat

/-- DETAIL of a fault-log entry whose class states none (Table 13-15), by class and count of free values drawn so
far. (DESIGN CHOICE, log entry 22) -/
opaque faultDetail : Nat → Nat → Nat

/-- DETAIL of a slot-wait fault, which names the slot and the awaited token in a form that the manual leaves open (R82).
(DESIGN CHOICE, log entry 22) -/
opaque slotWaitDetail : Nat → Bool → Nat

/-- Whether a lost DDR4 channel held the spooled records of a session's datagram: Poingo places them and the manual names no
place.  Arguments: channel, session, SEQ. (DESIGN CHOICE, log entry 23) -/
opaque spoolOn : Nat → Nat → Nat → Bool

/-- Whether VIO stays present when a rail falls below its range: the row names no rail. (DESIGN CHOICE, log entry 124) -/
opaque vioStays : Nat → Bool

/-- ECDSA verification over P-384 with SHA-384 of a message (FIPS 186-5): key as an uncompressed point, message, r and s.
The manual names the standard. (PRESUMED, log entry 12) -/
opaque ecdsaOk : List Byte → List Byte → List Byte → Bool

/-- HSS verification (RFC 8554, NIST SP 800-208), false for parameters outside R497: key, message, signature.
(PRESUMED, log entry 12) -/
opaque hssOk : List Byte → List Byte → List Byte → Bool

/-- The vendor root in the fuses: 48 bytes programmed at manufacture (R498). (PRESUMED, log entry 12) -/
opaque vendorRoot : List Byte

/-- The device ID: 8 bytes of the hash of the identity public key, derived from the fuse secret (R505).
(PRESUMED, log entry 12) -/
opaque deviceId : List Byte

/-- The identity certificate in the one-time store (R506). (PRESUMED, log entry 12) -/
opaque certificate : List Byte

/-- ES384 and HSS-LMS signatures of an attestation report with the identity keys (R505, R507): the bytes signed; for the
second, the tree and the leaf as well. (PRESUMED, log entry 12) -/
opaque es384Sign : List Byte → List Byte
/-- The HSS signature. (PRESUMED, log entry 12) -/
opaque hssSign : Nat → Nat → List Byte → List Byte

/-- AES-256 key unwrap (RFC 3394): wrapping key, wrapped key; none when its integrity check fails.
(PRESUMED, log entry 12) -/
opaque aesUnwrap : List Byte → List Byte → Option (List Byte)

/-- Whether a JTAG token carries both signatures under a root: root, token (R510). (DESIGN CHOICE, log entry 26) -/
opaque tokenSigned : List Byte → List Byte → Bool

/-- Whether a JTAG token's payload holds a device ID and a nonce (R510 gives no encoding of it): token, device ID,
nonce. (DESIGN CHOICE, log entry 26) -/
opaque tokenHolds : List Byte → List Byte → Nat → Bool

/-- The key of an argument within the argument map of LONG_START, by kind and position (Table 16-13 names none): below 24,
as every key of that table. (DEDUCED, log entry 24) -/
opaque argKeyOf : Nat → Nat → Fin 24
/-- The key as a number. (DEDUCED, log entry 24) -/
def argKey (kind pos : Nat) : Nat := (argKeyOf kind pos).val

/-- Reason text or result code that the manual does not state, by occasion: 0 a token that is not accepted, 1 a failed
staging whose cause has no code of Table 16-10, 2 to 8 long-operation refusals. (DESIGN CHOICE, log entry 25) -/
opaque reasonText : Nat → List Byte
/-- Result code likewise. (DESIGN CHOICE, log entry 25) -/
opaque resultCode : Nat → Nat

end Sys2Proof.Config
end

