-- ==== Sys2Proof/Machine/RegMap.lean ====
section
/-!
DEFINITION. The management object map of chapter 17: every register of Table 17-10 with its address
formula, its cold reset word (Table 17-9), and masks of its fields by the access and reset columns of
the register tables; and every named field as a bit range.
-/

namespace Sys2Proof.Machine

/-- The registers of Table 17-10, by the names of the tables.  RSB and SSB are the session bindings of
Table 17-7 for result and for submitting sessions. -/
inductive Reg where
  | ID_PART
  | ID_CAP
  | FW_VER
  | BUILD
  | UPTIME
  | SUM_STAT
  | SUM_CHG
  | STREAM_ST_LO
  | STREAM_ST_HI
  | SUB_EN
  | SUB_BOUND
  | RES_OPEN_LO
  | RES_OPEN_HI
  | RES_STALL_LO
  | RES_STALL_HI
  | PART_ST
  | GOV_CTRL
  | GOV_STATUS
  | GOV_POWER
  | PACE_BLK
  | PACE_MEM
  | REGION_MAP
  | CELL_MAP
  | UNIT_MAP
  | BM_ECC
  | SM_ECC
  | SM_SPARE
  | SNS_CFG
  | SNS_TIME
  | SNS_EXP
  | SNS_IF
  | SNS_RX
  | SNS_PAGE
  | SNS_CREDIT
  | SNS_STATE
  | SNS_PAGES
  | SNS_CNT0
  | SNS_CNT1
  | SHD_CFG
  | SHD_STAT
  | EDGE_CFG
  | SKEW_CFG
  | BAND_CFG
  | BAND_HND
  | COND_CNT
  | PAGE_GEOM
  | SNS_SEG
  | ENC_CFG
  | ENC_DIV
  | ENC_HOLD
  | ENC_STAT
  | HOLD_STAT
  | STITCH
  | SUB_CFG
  | SUB_LIM
  | SUB_ENV
  | SUB_CNT
  | DEC_EXP0
  | DEC_EXP1
  | DEC_CNT
  | QNT_CNT
  | QNT_FP
  | QNT_SKEW
  | KV_POOL_CFG
  | KV_POOL_STAT
  | KV_RESV
  | KV_OVF
  | KV_EPOCH_LO
  | KV_EPOCH_HI
  | KV_CNT0
  | KV_CNT1
  | TXT_DICT
  | TXT_VOCAB
  | TXT_GRAM
  | TXT_CNT0
  | TXT_CNT1
  | TXT_CNT2
  | ADAPT_CTRL
  | ADAPT_CFG
  | ADAPT_RING
  | ADAPT_STAT
  | ADAPT_SEQ
  | ADAPT_CNT0
  | ADAPT_CNT1
  | ADAPT_SET
  | ADAPT_SCORE
  | ADAPT_UPD
  | SCHED_CFG
  | SCHED_STAT
  | SCHED_CNT
  | HEDGE_SYS
  | PART_CFG
  | PART_BLK
  | PART_SPILL
  | PART_CTRL
  | PART_CNT
  | HEDGE
  | FAULT_CFG
  | VAR_STAT
  | VAR_SHED_SUB
  | SPARE_HEALTH
  | CORE_STAT
  | FAULT_CNT0
  | FAULT_CNT1
  | LDG_STAT
  | LDG_ITEM
  | FAULT_LOG_PTR
  | FAULT_LOG_W0
  | FAULT_LOG_W1
  | FAULT_LOG_W2
  | FAULT_LOG_W3
  | PORT_CFG
  | PORT_STAT
  | PORT_LAT
  | QUEUE_MAP
  | PORT_CNT0
  | PORT_CNT1
  | PORT_IP4
  | PORT_MAC_LO
  | PORT_MAC_HI
  | TIME_CTRL
  | TIME_STAT
  | TIME_SEC_LO
  | TIME_SEC_HI
  | TIME_NS
  | TIME_FRAC
  | TIME_RATE
  | TIME_OFFSET
  | TIME_PATH
  | TIME_SERVO
  | TIME_LIM
  | PPS_CFG
  | EVT_CFG
  | EVT_SEC_LO
  | EVT_SEC_HI
  | EVT_NS
  | TIME_CNT
  | JRT_CFG
  | JRT_TMR
  | JRT_SPOOL
  | JRT_QUOTA
  | JRT_CNT
  | CLASS_CFG
  | CLASS_STR
  | CLASS_SUB
  | CLASS_DEC
  | SESS_STAT
  | SESS_MAND
  | SESS_OPT
  | SESS_SPOOL
  | SESS_CNT0
  | SESS_CNT1
  | RSB_ADDR
  | RSB_PORT
  | RSB_ALT
  | RSB_OPEN
  | SSB_ADDR
  | SSB_PORT
  | SSB_ALT
  | SSB_OPEN
  | BOOT_STAT
  | BOOT_IMG
  | BOOT_ACT_LO
  | BOOT_ACT_HI
  | FUSE_STAT
  | DEV_ID_LO
  | DEV_ID_HI
  | BOOT_ID_LO
  | BOOT_ID_HI
  | TEMP
  | ATT_STAT
  | NMP_CNT
  | FUSE_NET
  | JTAG_NONCE
  | LONG_STAT
  | LONG_HND
  deriving DecidableEq, Repr

/-- One row of the map: address `base + s1 * i + s2 * j` for `i < n1`, `j < n2`; the cold reset word;
masks of the fields that a read clears (RC), that a WRITE changes (RW) or clears (W1C), that a warm
restart keeps, that the image gives at a cold boot, and at a warm boot; and of the reserved bits. -/
structure RegInfo where
  base : Nat
  s1 : Nat
  n1 : Nat
  s2 : Nat
  n2 : Nat
  cold : Nat
  rc : Nat
  rw : Nat
  w1c : Nat
  kept : Nat
  img : Nat
  imgWarm : Nat
  resv : Nat
  deriving DecidableEq, Repr

/-- Table 17-10 with the field tables of chapters 2 to 17. -/
def Reg.info : Reg → RegInfo
  | .ID_PART => ⟨0x0, 0, 1, 0, 1, 0x434c16b1, 0, 0, 0, 0, 0, 0, 0⟩
  | .ID_CAP => ⟨0x4, 0, 1, 0, 1, 0x7f35fffd, 0, 0, 0, 0, 0, 0, 0⟩
  | .FW_VER => ⟨0x8, 0, 1, 0, 1, 0, 0, 0, 0, 0, 0xffffffff, 0xffffffff, 0⟩
  | .BUILD => ⟨0x10, 4, 4, 0, 1, 0, 0, 0, 0, 0, 0xffffffff, 0xffffffff, 0⟩
  | .UPTIME => ⟨0x20, 0, 1, 0, 1, 0, 0, 0, 0, 0, 0, 0, 0⟩
  | .SUM_STAT => ⟨0x10000, 0, 1, 0, 1, 0, 0, 0, 0, 0x1880000, 0, 0, 0x3ffff⟩
  | .SUM_CHG => ⟨0x10004, 0, 1, 0, 1, 0, 0, 0, 0, 0xffff, 0, 0, 0⟩
  | .STREAM_ST_LO => ⟨0x10040, 0, 1, 0, 1, 0, 0, 0, 0, 0, 0, 0, 0⟩
  | .STREAM_ST_HI => ⟨0x10044, 0, 1, 0, 1, 0, 0, 0, 0, 0, 0, 0, 0⟩
  | .SUB_EN => ⟨0x10048, 0, 1, 0, 1, 0, 0, 0, 0, 0, 0, 0, 0⟩
  | .SUB_BOUND => ⟨0x1004c, 0, 1, 0, 1, 0, 0, 0, 0, 0, 0, 0, 0⟩
  | .RES_OPEN_LO => ⟨0x10050, 0, 1, 0, 1, 0, 0, 0, 0, 0, 0, 0, 0⟩
  | .RES_OPEN_HI => ⟨0x10054, 0, 1, 0, 1, 0, 0, 0, 0, 0, 0, 0, 0⟩
  | .RES_STALL_LO => ⟨0x10058, 0, 1, 0, 1, 0, 0, 0, 0, 0, 0, 0, 0⟩
  | .RES_STALL_HI => ⟨0x1005c, 0, 1, 0, 1, 0, 0, 0, 0, 0, 0, 0, 0⟩
  | .PART_ST => ⟨0x10060, 0, 1, 0, 1, 0, 0, 0, 0, 0, 0, 0, 0⟩
  | .GOV_CTRL => ⟨0x20000, 0, 1, 0, 1, 0xc000121a, 0, 0xffffffff, 0, 0xffffffff, 0, 0, 0⟩
  | .GOV_STATUS => ⟨0x20004, 0, 1, 0, 1, 0, 0, 0, 0, 0, 0, 0, 0⟩
  | .GOV_POWER => ⟨0x20008, 0, 1, 0, 1, 0, 0xffff, 0, 0, 0, 0, 0, 0⟩
  | .PACE_BLK => ⟨0x20100, 0x40, 4, 4, 9, 0, 0xfff00, 0, 0, 0, 0, 0, 0xff⟩
  | .PACE_MEM => ⟨0x20200, 4, 4, 0, 1, 0, 0xfff00, 0, 0, 0, 0, 0, 0xff⟩
  | .REGION_MAP => ⟨0x20400, 4, 4, 0, 1, 0x76543210, 0, 0, 0, 0xffffffff, 0, 0, 0⟩
  | .CELL_MAP => ⟨0x20500, 0x40, 4, 4, 9, 0x8688, 0, 0, 0, 0x3ffff, 0, 0, 0xfffc0000⟩
  | .UNIT_MAP => ⟨0x20600, 0, 1, 0, 1, 0xf688688, 0, 0, 0, 0xfffffff, 0, 0, 0xf0000000⟩
  | .BM_ECC => ⟨0x30000, 0x40, 4, 4, 9, 0, 0xffffff00, 0, 0, 0xff, 0, 0, 0⟩
  | .SM_ECC => ⟨0x30100, 4, 132, 0, 1, 0, 0xffffff00, 0, 0, 0xff, 0, 0, 0⟩
  | .SM_SPARE => ⟨0x30400, 4, 4, 0, 1, 0, 0, 0, 0, 0x8000007f, 0, 0, 0x3fffff80⟩
  | .SNS_CFG => ⟨0x40000, 0x80, 16, 0, 1, 0, 0, 0, 0, 0, 0xffffffff, 0xffffffff, 0⟩
  | .SNS_TIME => ⟨0x40004, 0x80, 16, 0, 1, 0, 0, 0, 0, 0, 0xffffffff, 0xffffffff, 0⟩
  | .SNS_EXP => ⟨0x40008, 0x80, 16, 4, 3, 0, 0, 0, 0, 0, 0xffffffff, 0xffffffff, 0⟩
  | .SNS_IF => ⟨0x40014, 0x80, 16, 0, 1, 0x800, 0, 0, 0, 0, 0xffffffff, 0xffffffff, 0⟩
  | .SNS_RX => ⟨0x40018, 0x80, 16, 0, 1, 0, 0, 0, 0, 0, 0xffff0000, 0xffff0000, 0xffff⟩
  | .SNS_PAGE => ⟨0x4001c, 0x80, 16, 0, 1, 0x3e8, 0, 0, 0, 0, 0xffffffff, 0xffffffff, 0⟩
  | .SNS_CREDIT => ⟨0x40020, 0x80, 16, 0, 1, 0x48000000, 0, 0, 0, 0, 0xf8000000, 0xf8000000, 0x7ffff⟩
  | .SNS_STATE => ⟨0x40024, 0x80, 16, 0, 1, 0, 0, 0, 0, 0, 0, 0, 0x3ffffff⟩
  | .SNS_PAGES => ⟨0x40028, 0x80, 16, 0, 1, 0, 0, 0, 0, 0, 0, 0, 0⟩
  | .SNS_CNT0 => ⟨0x4002c, 0x80, 16, 0, 1, 0, 0xffffffff, 0, 0, 0, 0, 0, 0⟩
  | .SNS_CNT1 => ⟨0x40030, 0x80, 16, 0, 1, 0, 0xffffffff, 0, 0, 0, 0, 0, 0⟩
  | .SHD_CFG => ⟨0x40034, 0x80, 16, 0, 1, 0xf0a28000, 0, 0, 0, 0x1800, 0xffffe000, 0xffffe000, 0x7ff⟩
  | .SHD_STAT => ⟨0x40038, 0x80, 16, 0, 1, 0, 0, 0, 0, 0xffffffff, 0, 0, 0⟩
  | .EDGE_CFG => ⟨0x4003c, 0x80, 16, 0, 1, 0x183010, 0, 0, 0, 0, 0xffffffff, 0xffffffff, 0⟩
  | .SKEW_CFG => ⟨0x40040, 0x80, 16, 0, 1, 0x85100040, 0, 0, 0, 0, 0xffffffff, 0xffffffff, 0⟩
  | .BAND_CFG => ⟨0x40044, 0x80, 16, 0, 1, 0, 0, 0, 0, 0, 0xffffffff, 0xffffffff, 0⟩
  | .BAND_HND => ⟨0x40048, 0x80, 16, 0, 1, 0, 0, 0, 0, 0, 0xffff00ff, 0xffff00ff, 0xff00⟩
  | .COND_CNT => ⟨0x4004c, 0x80, 16, 0, 1, 0, 0xffffffff, 0, 0, 0, 0, 0, 0⟩
  | .PAGE_GEOM => ⟨0x40050, 0x80, 16, 0, 1, 0, 0, 0, 0, 0, 0, 0, 0xc000⟩
  | .SNS_SEG => ⟨0x40800, 0x40, 16, 4, 16, 0, 0, 0, 0, 0, 0xffffffff, 0xffffffff, 0⟩
  | .ENC_CFG => ⟨0x41000, 0x20, 8, 0, 1, 0x4000000, 0, 0, 0, 0, 0xff000000, 0xff000000, 0xffffff⟩
  | .ENC_DIV => ⟨0x41004, 0x20, 8, 0, 1, 0x10000, 0, 0, 0, 0, 0xffffffff, 0xffffffff, 0⟩
  | .ENC_HOLD => ⟨0x41008, 0x20, 8, 0, 1, 0, 0, 0, 0, 0, 0xffffffff, 0xffffffff, 0⟩
  | .ENC_STAT => ⟨0x4100c, 0x20, 8, 0, 1, 0, 0xffffffff, 0, 0, 0, 0, 0, 0⟩
  | .HOLD_STAT => ⟨0x41010, 0x20, 8, 0, 1, 0, 0, 0x100, 0, 0, 0, 0, 0x7ffffe03⟩
  | .STITCH => ⟨0x42000, 0x40, 16, 4, 16, 0, 0, 0, 0, 0, 0xfffff800, 0xfffff800, 0x7ff⟩
  | .SUB_CFG => ⟨0x50000, 0x20, 32, 0, 1, 0x100000, 0, 0, 0, 0, 0x1fffffff, 0x1fffffff, 0⟩
  | .SUB_LIM => ⟨0x50004, 0x20, 32, 0, 1, 0x80c8199a, 0, 0, 0, 0, 0xffffffff, 0xffffffff, 0⟩
  | .SUB_ENV => ⟨0x50008, 0x20, 32, 0, 1, 0x3938700, 0, 0, 0, 0, 0xffffffff, 0xffffffff, 0⟩
  | .SUB_CNT => ⟨0x5000c, 0x20, 32, 0, 1, 0, 0xffffffff, 0, 0, 0, 0, 0, 0⟩
  | .DEC_EXP0 => ⟨0x50400, 0, 1, 0, 1, 0x1000ffff, 0, 0, 0, 0, 0xffffffff, 0xffffffff, 0⟩
  | .DEC_EXP1 => ⟨0x50404, 0, 1, 0, 1, 0x8000408, 0, 0, 0, 0, 0xffffffff, 0xffffffff, 0⟩
  | .DEC_CNT => ⟨0x50408, 0, 1, 0, 1, 0, 0xffffffff, 0, 0, 0, 0, 0, 0⟩
  | .QNT_CNT => ⟨0x70000, 4, 16, 0, 1, 0, 0xffffffff, 0, 0, 0, 0, 0, 0⟩
  | .QNT_FP => ⟨0x70040, 0, 1, 0, 1, 0, 0xffffffff, 0, 0, 0, 0, 0, 0⟩
  | .QNT_SKEW => ⟨0x70080, 4, 48, 0, 1, 0, 0xffffffff, 0, 0, 0, 0, 0, 0⟩
  | .KV_POOL_CFG => ⟨0x90000, 0, 1, 0, 1, 0x300008ff, 0, 0, 0, 0, 0xffffffff, 0xffffffff, 0⟩
  | .KV_POOL_STAT => ⟨0x90004, 0, 1, 0, 1, 0, 0, 0, 0, 0, 0, 0, 0⟩
  | .KV_RESV => ⟨0x90008, 0, 1, 0, 1, 0, 0, 0, 0, 0, 0xffff0000, 0xffff0000, 0⟩
  | .KV_OVF => ⟨0x9000c, 0, 1, 0, 1, 0, 0, 0, 0, 0, 0xffff0000, 0xffff0000, 0⟩
  | .KV_EPOCH_LO => ⟨0x90010, 0, 1, 0, 1, 0, 0, 0, 0, 0, 0, 0, 0⟩
  | .KV_EPOCH_HI => ⟨0x90014, 0, 1, 0, 1, 0, 0, 0, 0, 0, 0, 0, 0⟩
  | .KV_CNT0 => ⟨0x90018, 0, 1, 0, 1, 0, 0xffffffff, 0, 0, 0, 0, 0, 0⟩
  | .KV_CNT1 => ⟨0x9001c, 0, 1, 0, 1, 0, 0xffffffff, 0, 0, 0, 0, 0, 0⟩
  | .TXT_DICT => ⟨0xa0000, 0x10, 4, 0, 1, 0, 0, 0, 0, 0, 0xffffffe0, 0xffffffe0, 0x1f⟩
  | .TXT_VOCAB => ⟨0xa0004, 0x10, 4, 0, 1, 0, 0, 0, 0, 0, 0xfffffe00, 0xfffffe00, 0x1ff⟩
  | .TXT_GRAM => ⟨0xa0040, 0, 1, 0, 1, 0, 0, 0, 0, 0, 0xfffffffc, 0xfffffffc, 3⟩
  | .TXT_CNT0 => ⟨0xa0080, 0, 1, 0, 1, 0, 0xffffffff, 0, 0, 0, 0, 0, 0⟩
  | .TXT_CNT1 => ⟨0xa0084, 0, 1, 0, 1, 0, 0xffffffff, 0, 0, 0, 0, 0, 0⟩
  | .TXT_CNT2 => ⟨0xa0088, 0, 1, 0, 1, 0, 0xffffffff, 0, 0, 0, 0, 0, 0⟩
  | .ADAPT_CTRL => ⟨0xb0000, 0, 1, 0, 1, 0x73c84, 0, 0xe0000000, 0, 0, 0x83ffffff, 0x83ffffff, 0⟩
  | .ADAPT_CFG => ⟨0xb0004, 0, 1, 0, 1, 0x100000, 0, 0, 0, 0, 0xfffff000, 0xfffff000, 0xfff⟩
  | .ADAPT_RING => ⟨0xb0008, 0, 1, 0, 1, 0x80002000, 0, 0, 0, 0, 0xffffffff, 0xffffffff, 0⟩
  | .ADAPT_STAT => ⟨0xb000c, 0, 1, 0, 1, 0, 0, 0, 0, 0, 0, 0, 0x7ff⟩
  | .ADAPT_SEQ => ⟨0xb0010, 0, 1, 0, 1, 0, 0, 0, 0, 0, 0, 0, 0⟩
  | .ADAPT_CNT0 => ⟨0xb0020, 0, 1, 0, 1, 0, 0xffffffff, 0, 0, 0, 0, 0, 0⟩
  | .ADAPT_CNT1 => ⟨0xb0024, 0, 1, 0, 1, 0, 0xffffffff, 0, 0, 0, 0, 0, 0⟩
  | .ADAPT_SET => ⟨0xb0040, 0x10, 8, 0, 1, 0, 0, 0, 0, 0, 0xfe000000, 0xfe000000, 0⟩
  | .ADAPT_SCORE => ⟨0xb0044, 0x10, 8, 0, 1, 0, 0, 0, 0, 0, 0, 0, 0xff⟩
  | .ADAPT_UPD => ⟨0xb0048, 0x10, 8, 0, 1, 0, 0, 0, 0, 0, 0, 0, 0⟩
  | .SCHED_CFG => ⟨0xc0000, 0, 1, 0, 1, 0x10000, 0, 0, 0, 0, 0xf0000, 0xf0000, 0xffff⟩
  | .SCHED_STAT => ⟨0xc0010, 4, 4, 0, 1, 0, 0, 0, 0, 0, 0, 0, 0x3ff⟩
  | .SCHED_CNT => ⟨0xc0020, 4, 4, 0, 1, 0, 0xffffffff, 0, 0, 0, 0, 0, 0⟩
  | .HEDGE_SYS => ⟨0xc0040, 0, 1, 0, 1, 0x40, 0, 0, 0, 0, 0xffffffff, 0xffffffff, 0⟩
  | .PART_CFG => ⟨0xc0100, 0x20, 16, 0, 1, 0x32, 0, 0, 0, 0, 0xc3ffffff, 0xc3ffffff, 0⟩
  | .PART_BLK => ⟨0xc0104, 0x20, 16, 0, 1, 0, 0, 0, 0, 0, 0xffffffff, 0xffffffff, 0⟩
  | .PART_SPILL => ⟨0xc0108, 0x20, 16, 0, 1, 0, 0, 0, 0, 0, 0xffffffff, 0xffffffff, 0⟩
  | .PART_CTRL => ⟨0xc010c, 0x20, 16, 0, 1, 0, 0, 0xc0000000, 0, 0, 0x80000000, 0x80000000, 0x3fffffff⟩
  | .PART_CNT => ⟨0xc0110, 0x20, 16, 0, 1, 0, 0xffffffff, 0, 0, 0, 0, 0, 0⟩
  | .HEDGE => ⟨0xc1000, 0x40, 16, 4, 9, 0, 0, 0, 0, 0, 0xffffffff, 0xffffffff, 0⟩
  | .FAULT_CFG => ⟨0xd0000, 0, 1, 0, 1, 0x10281408, 0, 0, 0, 0, 0xffffffff, 0xffffffff, 0⟩
  | .VAR_STAT => ⟨0xd0004, 0, 1, 0, 1, 0, 0, 0, 0, 0xffef8000, 0, 0, 0x7fff⟩
  | .VAR_SHED_SUB => ⟨0xd0008, 0, 1, 0, 1, 0, 0, 0, 0, 0xffffffff, 0, 0, 0⟩
  | .SPARE_HEALTH => ⟨0xd0010, 4, 4, 0, 1, 0, 0, 0, 0, 0xfffffff0, 0, 0, 0xf⟩
  | .CORE_STAT => ⟨0xd0020, 0, 1, 0, 1, 0, 0, 0, 0, 0xfffff000, 0, 0, 0xfff⟩
  | .FAULT_CNT0 => ⟨0xd0028, 0, 1, 0, 1, 0, 0xffffffff, 0, 0, 0, 0, 0, 0⟩
  | .FAULT_CNT1 => ⟨0xd002c, 0, 1, 0, 1, 0, 0xffffffff, 0, 0, 0, 0, 0, 0⟩
  | .LDG_STAT => ⟨0xd0040, 0, 1, 0, 1, 0, 0xff00, 0, 0xffff0000, 0, 0, 0, 0xf⟩
  | .LDG_ITEM => ⟨0xd0080, 4, 8, 0, 1, 0, 0, 0, 0, 0, 0, 0, 0⟩
  | .FAULT_LOG_PTR => ⟨0xd0100, 0, 1, 0, 1, 0, 0, 0, 0, 0xffffffff, 0, 0, 0⟩
  | .FAULT_LOG_W0 => ⟨0xd1000, 0x10, 256, 0, 1, 0, 0, 0, 0, 0xffffffff, 0, 0, 0⟩
  | .FAULT_LOG_W1 => ⟨0xd1004, 0x10, 256, 0, 1, 0, 0, 0, 0, 0x3fffffff, 0, 0, 0xc0000000⟩
  | .FAULT_LOG_W2 => ⟨0xd1008, 0x10, 256, 0, 1, 0, 0, 0, 0, 0xffffffff, 0, 0, 0⟩
  | .FAULT_LOG_W3 => ⟨0xd100c, 0x10, 256, 0, 1, 0, 0, 0, 0, 0xffffffff, 0, 0, 0⟩
  | .PORT_CFG => ⟨0xe0000, 0x100, 2, 0, 1, 0x2ee, 0, 0, 0, 0, 0xffffffff, 0xffffffff, 0⟩
  | .PORT_STAT => ⟨0xe0004, 0x100, 2, 0, 1, 0, 0, 0, 0, 0, 0, 0, 0x1fffff⟩
  | .PORT_LAT => ⟨0xe0008, 0x100, 2, 0, 1, 0, 0, 0xffffffff, 0, 0xffffffff, 0xffffffff, 0, 0⟩
  | .QUEUE_MAP => ⟨0xe000c, 0x100, 2, 0, 1, 0x3fba3440, 0, 0, 0, 0, 0xffffffff, 0xffffffff, 0⟩
  | .PORT_CNT0 => ⟨0xe0010, 0x100, 2, 0, 1, 0, 0xffffffff, 0, 0, 0, 0, 0, 0⟩
  | .PORT_CNT1 => ⟨0xe0014, 0x100, 2, 0, 1, 0, 0xffffffff, 0, 0, 0, 0, 0, 0⟩
  | .PORT_IP4 => ⟨0xe0018, 0x100, 2, 0, 1, 0, 0, 0, 0, 0, 0, 0, 0⟩
  | .PORT_MAC_LO => ⟨0xe001c, 0x100, 2, 0, 1, 0, 0, 0, 0, 0, 0xffffffff, 0xffffffff, 0⟩
  | .PORT_MAC_HI => ⟨0xe0020, 0x100, 2, 0, 1, 0, 0, 0, 0, 0, 0xffff, 0xffff, 0xffff0000⟩
  | .TIME_CTRL => ⟨0xe1000, 0, 1, 0, 1, 0, 0, 0, 0, 0, 0xffff0000, 0xffff0000, 0xffff⟩
  | .TIME_STAT => ⟨0xe1004, 0, 1, 0, 1, 0, 0, 0, 0, 0x10000000, 0, 0, 0x7f⟩
  | .TIME_SEC_LO => ⟨0xe1008, 0, 1, 0, 1, 0, 0, 0, 0, 0, 0, 0, 0⟩
  | .TIME_SEC_HI => ⟨0xe100c, 0, 1, 0, 1, 0, 0, 0, 0, 0, 0, 0, 0xffff0000⟩
  | .TIME_NS => ⟨0xe1010, 0, 1, 0, 1, 0, 0, 0, 0, 0, 0, 0, 0xc0000000⟩
  | .TIME_FRAC => ⟨0xe1014, 0, 1, 0, 1, 0, 0, 0, 0, 0, 0, 0, 0⟩
  | .TIME_RATE => ⟨0xe1018, 0, 1, 0, 1, 0, 0, 0, 0, 0xffffffff, 0, 0, 0⟩
  | .TIME_OFFSET => ⟨0xe101c, 0, 1, 0, 1, 0, 0, 0, 0, 0, 0, 0, 0⟩
  | .TIME_PATH => ⟨0xe1020, 0, 1, 0, 1, 0, 0, 0, 0, 0, 0, 0, 0⟩
  | .TIME_SERVO => ⟨0xe1024, 0, 1, 0, 1, 0x44c0089, 0, 0, 0, 0, 0xffffffff, 0xffffffff, 0⟩
  | .TIME_LIM => ⟨0xe1028, 0, 1, 0, 1, 0x3e82710, 0, 0, 0, 0, 0xffffffff, 0xffffffff, 0⟩
  | .PPS_CFG => ⟨0xe102c, 0, 1, 0, 1, 0x40640000, 0, 0xffff, 0, 0xffff, 0xe1ffffff, 0xe1ff0000, 0x1e000000⟩
  | .EVT_CFG => ⟨0xe1030, 0, 1, 0, 1, 0, 0, 0xc0000000, 0x1000000, 0xc0000000, 0, 0, 0xffffff⟩
  | .EVT_SEC_LO => ⟨0xe1034, 0, 1, 0, 1, 0, 0xffffffff, 0, 0, 0, 0, 0, 0⟩
  | .EVT_SEC_HI => ⟨0xe1038, 0, 1, 0, 1, 0, 0, 0, 0, 0, 0, 0, 0xfffc0000⟩
  | .EVT_NS => ⟨0xe103c, 0, 1, 0, 1, 0, 0, 0, 0, 0, 0, 0, 0⟩
  | .TIME_CNT => ⟨0xe1040, 0, 1, 0, 1, 0, 0xffffffff, 0, 0, 0, 0, 0, 0⟩
  | .JRT_CFG => ⟨0xf0000, 0, 1, 0, 1, 0xca1c140a, 0, 0, 0, 0, 0xffffffff, 0xffffffff, 0⟩
  | .JRT_TMR => ⟨0xf0004, 0, 1, 0, 1, 0x1388c800, 0, 0, 0, 0, 0xffffffff, 0xffffffff, 0⟩
  | .JRT_SPOOL => ⟨0xf0008, 0, 1, 0, 1, 0x400, 0, 0, 0, 0, 0xffffffff, 0xffffffff, 0⟩
  | .JRT_QUOTA => ⟨0xf000c, 0, 1, 0, 1, 0x2000000, 0, 0, 0, 0, 0xffff0000, 0xffff0000, 0⟩
  | .JRT_CNT => ⟨0xf0010, 0, 1, 0, 1, 0, 0xffffffff, 0, 0, 0, 0, 0, 0⟩
  | .CLASS_CFG => ⟨0xf0100, 0x10, 32, 0, 1, 0, 0, 0, 0, 0, 0xffe00000, 0xffe00000, 0x7fff⟩
  | .CLASS_STR => ⟨0xf0104, 0x10, 32, 0, 1, 0, 0, 0, 0, 0, 0xffff, 0xffff, 0xffff0000⟩
  | .CLASS_SUB => ⟨0xf0108, 0x10, 32, 0, 1, 0, 0, 0, 0, 0, 0xffffffff, 0xffffffff, 0⟩
  | .CLASS_DEC => ⟨0xf010c, 0x10, 32, 0, 1, 0, 0, 0, 0, 0, 0xffffffff, 0xffffffff, 0⟩
  | .SESS_STAT => ⟨0xf0400, 0x20, 64, 0, 1, 0, 0, 0, 0, 0, 0, 0, 0x1fff⟩
  | .SESS_MAND => ⟨0xf0404, 0x20, 64, 0, 1, 0, 0, 0, 0, 0, 0, 0, 0⟩
  | .SESS_OPT => ⟨0xf0408, 0x20, 64, 0, 1, 0, 0, 0, 0, 0, 0, 0, 0⟩
  | .SESS_SPOOL => ⟨0xf040c, 0x20, 64, 0, 1, 0, 0, 0, 0, 0, 0, 0, 0⟩
  | .SESS_CNT0 => ⟨0xf0410, 0x20, 64, 0, 1, 0, 0xffffffff, 0, 0, 0, 0, 0, 0⟩
  | .SESS_CNT1 => ⟨0xf0414, 0x20, 64, 0, 1, 0, 0xffffffff, 0, 0, 0, 0, 0, 0⟩
  | .RSB_ADDR => ⟨0xf1000, 0x40, 64, 4, 4, 0, 0, 0, 0, 0, 0, 0, 0⟩
  | .RSB_PORT => ⟨0xf1010, 0x40, 64, 0, 1, 0, 0, 0, 0, 0, 0, 0, 0xfff⟩
  | .RSB_ALT => ⟨0xf1014, 0x40, 64, 4, 4, 0, 0, 0, 0, 0, 0, 0, 0⟩
  | .RSB_OPEN => ⟨0xf1024, 0x40, 64, 0, 1, 0, 0, 0, 0, 0, 0, 0, 0⟩
  | .SSB_ADDR => ⟨0xf2000, 0x40, 32, 4, 4, 0, 0, 0, 0, 0, 0, 0, 0⟩
  | .SSB_PORT => ⟨0xf2010, 0x40, 32, 0, 1, 0, 0, 0, 0, 0, 0, 0, 0xfff⟩
  | .SSB_ALT => ⟨0xf2014, 0x40, 32, 4, 4, 0, 0, 0, 0, 0, 0, 0, 0⟩
  | .SSB_OPEN => ⟨0xf2024, 0x40, 32, 0, 1, 0, 0, 0, 0, 0, 0, 0, 0⟩
  | .BOOT_STAT => ⟨0x100000, 0, 1, 0, 1, 0, 0, 0, 0, 0, 0, 0, 0⟩
  | .BOOT_IMG => ⟨0x100004, 0, 1, 0, 1, 0, 0, 0, 0, 0, 0, 0, 0xffffff⟩
  | .BOOT_ACT_LO => ⟨0x100008, 0, 1, 0, 1, 0, 0, 0, 0, 0, 0, 0, 0⟩
  | .BOOT_ACT_HI => ⟨0x10000c, 0, 1, 0, 1, 0, 0, 0, 0, 0, 0, 0, 0⟩
  | .FUSE_STAT => ⟨0x100010, 0, 1, 0, 1, 0, 0, 0, 0, 0x300000, 0, 0, 0xfffff⟩
  | .DEV_ID_LO => ⟨0x100014, 0, 1, 0, 1, 0, 0, 0, 0, 0, 0, 0, 0⟩
  | .DEV_ID_HI => ⟨0x100018, 0, 1, 0, 1, 0, 0, 0, 0, 0, 0, 0, 0⟩
  | .BOOT_ID_LO => ⟨0x10001c, 0, 1, 0, 1, 0, 0, 0, 0, 0, 0, 0, 0⟩
  | .BOOT_ID_HI => ⟨0x100020, 0, 1, 0, 1, 0, 0, 0, 0, 0, 0, 0, 0⟩
  | .TEMP => ⟨0x100024, 0, 1, 0, 1, 0, 0, 0, 0, 0, 0, 0, 0⟩
  | .ATT_STAT => ⟨0x100028, 0, 1, 0, 1, 0, 0, 0, 0, 0, 0, 0, 0x3ff⟩
  | .NMP_CNT => ⟨0x10002c, 0, 1, 0, 1, 0, 0xffffffff, 0, 0, 0, 0, 0, 0⟩
  | .FUSE_NET => ⟨0x100030, 0, 1, 0, 1, 0, 0, 0, 0, 0, 0, 0, 0xfffffff⟩
  | .JTAG_NONCE => ⟨0x100034, 0, 1, 0, 1, 0, 0, 0, 0, 0xffffffff, 0, 0, 0⟩
  | .LONG_STAT => ⟨0x100040, 8, 8, 0, 1, 0, 0, 0, 0, 0, 0, 0, 3⟩
  | .LONG_HND => ⟨0x100044, 8, 8, 0, 1, 0, 0, 0, 0, 0, 0, 0, 0xffff0000⟩

/-- Part 0 of the list of registers. -/
def regsPart0 : List Reg :=
  [.ID_PART, .ID_CAP, .FW_VER, .BUILD, .UPTIME, .SUM_STAT, .SUM_CHG, .STREAM_ST_LO, .STREAM_ST_HI,
   .SUB_EN, .SUB_BOUND, .RES_OPEN_LO, .RES_OPEN_HI, .RES_STALL_LO, .RES_STALL_HI, .PART_ST, .GOV_CTRL,
   .GOV_STATUS, .GOV_POWER, .PACE_BLK, .PACE_MEM, .REGION_MAP]

/-- Part 1 of the list of registers. -/
def regsPart1 : List Reg :=
  [.CELL_MAP, .UNIT_MAP, .BM_ECC, .SM_ECC, .SM_SPARE, .SNS_CFG, .SNS_TIME, .SNS_EXP, .SNS_IF, .SNS_RX,
   .SNS_PAGE, .SNS_CREDIT, .SNS_STATE, .SNS_PAGES, .SNS_CNT0, .SNS_CNT1, .SHD_CFG, .SHD_STAT,
   .EDGE_CFG, .SKEW_CFG, .BAND_CFG, .BAND_HND]

/-- Part 2 of the list of registers. -/
def regsPart2 : List Reg :=
  [.COND_CNT, .PAGE_GEOM, .SNS_SEG, .ENC_CFG, .ENC_DIV, .ENC_HOLD, .ENC_STAT, .HOLD_STAT, .STITCH,
   .SUB_CFG, .SUB_LIM, .SUB_ENV, .SUB_CNT, .DEC_EXP0, .DEC_EXP1, .DEC_CNT, .QNT_CNT, .QNT_FP,
   .QNT_SKEW, .KV_POOL_CFG, .KV_POOL_STAT, .KV_RESV]

/-- Part 3 of the list of registers. -/
def regsPart3 : List Reg :=
  [.KV_OVF, .KV_EPOCH_LO, .KV_EPOCH_HI, .KV_CNT0, .KV_CNT1, .TXT_DICT, .TXT_VOCAB, .TXT_GRAM,
   .TXT_CNT0, .TXT_CNT1, .TXT_CNT2, .ADAPT_CTRL, .ADAPT_CFG, .ADAPT_RING, .ADAPT_STAT, .ADAPT_SEQ,
   .ADAPT_CNT0, .ADAPT_CNT1, .ADAPT_SET, .ADAPT_SCORE, .ADAPT_UPD, .SCHED_CFG]

/-- Part 4 of the list of registers. -/
def regsPart4 : List Reg :=
  [.SCHED_STAT, .SCHED_CNT, .HEDGE_SYS, .PART_CFG, .PART_BLK, .PART_SPILL, .PART_CTRL, .PART_CNT,
   .HEDGE, .FAULT_CFG, .VAR_STAT, .VAR_SHED_SUB, .SPARE_HEALTH, .CORE_STAT, .FAULT_CNT0, .FAULT_CNT1,
   .LDG_STAT, .LDG_ITEM, .FAULT_LOG_PTR, .FAULT_LOG_W0, .FAULT_LOG_W1, .FAULT_LOG_W2]

/-- Part 5 of the list of registers. -/
def regsPart5 : List Reg :=
  [.FAULT_LOG_W3, .PORT_CFG, .PORT_STAT, .PORT_LAT, .QUEUE_MAP, .PORT_CNT0, .PORT_CNT1, .PORT_IP4,
   .PORT_MAC_LO, .PORT_MAC_HI, .TIME_CTRL, .TIME_STAT, .TIME_SEC_LO, .TIME_SEC_HI, .TIME_NS,
   .TIME_FRAC, .TIME_RATE, .TIME_OFFSET, .TIME_PATH, .TIME_SERVO, .TIME_LIM, .PPS_CFG]

/-- Part 6 of the list of registers. -/
def regsPart6 : List Reg :=
  [.EVT_CFG, .EVT_SEC_LO, .EVT_SEC_HI, .EVT_NS, .TIME_CNT, .JRT_CFG, .JRT_TMR, .JRT_SPOOL, .JRT_QUOTA,
   .JRT_CNT, .CLASS_CFG, .CLASS_STR, .CLASS_SUB, .CLASS_DEC, .SESS_STAT, .SESS_MAND, .SESS_OPT,
   .SESS_SPOOL, .SESS_CNT0, .SESS_CNT1, .RSB_ADDR, .RSB_PORT]

/-- Part 7 of the list of registers. -/
def regsPart7 : List Reg :=
  [.RSB_ALT, .RSB_OPEN, .SSB_ADDR, .SSB_PORT, .SSB_ALT, .SSB_OPEN, .BOOT_STAT, .BOOT_IMG, .BOOT_ACT_LO,
   .BOOT_ACT_HI, .FUSE_STAT, .DEV_ID_LO, .DEV_ID_HI, .BOOT_ID_LO, .BOOT_ID_HI, .TEMP, .ATT_STAT,
   .NMP_CNT, .FUSE_NET, .JTAG_NONCE, .LONG_STAT, .LONG_HND]

/-- Every register of Table 17-10, in address order of its rows. -/
def allRegs : List Reg :=
  regsPart0 ++ regsPart1 ++ regsPart2 ++ regsPart3 ++ regsPart4 ++ regsPart5 ++ regsPart6 ++ regsPart7

/-- A field of a register: its lowest bit and its width. -/
structure Fld where
  reg : Reg
  lo : Nat
  w : Nat
  deriving DecidableEq, Repr

namespace F

/-- ID_PART [31:16] VENDOR. -/
def ID_PART_VENDOR : Fld := ⟨.ID_PART, 16, 16⟩
/-- ID_PART [15:8] PART. -/
def ID_PART_PART : Fld := ⟨.ID_PART, 8, 8⟩
/-- ID_PART [7:0] REV. -/
def ID_PART_REV : Fld := ⟨.ID_PART, 0, 8⟩
/-- ID_CAP [31:27] STREAMS. -/
def ID_CAP_STREAMS : Fld := ⟨.ID_CAP, 27, 5⟩
/-- ID_CAP [26:25] REGIONS. -/
def ID_CAP_REGIONS : Fld := ⟨.ID_CAP, 25, 2⟩
/-- ID_CAP [24:21] BLOCKS. -/
def ID_CAP_BLOCKS : Fld := ⟨.ID_CAP, 21, 4⟩
/-- ID_CAP [20:17] CORES. -/
def ID_CAP_CORES : Fld := ⟨.ID_CAP, 17, 4⟩
/-- ID_CAP [16:11] RES_SESS. -/
def ID_CAP_RES_SESS : Fld := ⟨.ID_CAP, 11, 6⟩
/-- ID_CAP [10:6] SUB_SESS. -/
def ID_CAP_SUB_SESS : Fld := ⟨.ID_CAP, 6, 5⟩
/-- ID_CAP [5:2] PARTS. -/
def ID_CAP_PARTS : Fld := ⟨.ID_CAP, 2, 4⟩
/-- ID_CAP [1:0] PORTS. -/
def ID_CAP_PORTS : Fld := ⟨.ID_CAP, 0, 2⟩
/-- FW_VER [31:24] MAJOR. -/
def FW_VER_MAJOR : Fld := ⟨.FW_VER, 24, 8⟩
/-- FW_VER [23:16] MINOR. -/
def FW_VER_MINOR : Fld := ⟨.FW_VER, 16, 8⟩
/-- FW_VER [15:0] PATCH. -/
def FW_VER_PATCH : Fld := ⟨.FW_VER, 0, 16⟩
/-- BUILD [31:0] BUILD. -/
def BUILD_BUILD : Fld := ⟨.BUILD, 0, 32⟩
/-- UPTIME [31:0] SECONDS. -/
def UPTIME_SECONDS : Fld := ⟨.UPTIME, 0, 32⟩
/-- SUM_STAT [31:30] BOOT. -/
def SUM_STAT_BOOT : Fld := ⟨.SUM_STAT, 30, 2⟩
/-- SUM_STAT [29:27] TIME. -/
def SUM_STAT_TIME : Fld := ⟨.SUM_STAT, 27, 3⟩
/-- SUM_STAT [26] FAULT_HOLD. -/
def SUM_STAT_FAULT_HOLD : Fld := ⟨.SUM_STAT, 26, 1⟩
/-- SUM_STAT [25] LEDGER. -/
def SUM_STAT_LEDGER : Fld := ⟨.SUM_STAT, 25, 1⟩
/-- SUM_STAT [24] DEGRADED. -/
def SUM_STAT_DEGRADED : Fld := ⟨.SUM_STAT, 24, 1⟩
/-- SUM_STAT [23] SHED. -/
def SUM_STAT_SHED : Fld := ⟨.SUM_STAT, 23, 1⟩
/-- SUM_STAT [22] STREAM_FAULT. -/
def SUM_STAT_STREAM_FAULT : Fld := ⟨.SUM_STAT, 22, 1⟩
/-- SUM_STAT [21] STALLED. -/
def SUM_STAT_STALLED : Fld := ⟨.SUM_STAT, 21, 1⟩
/-- SUM_STAT [20] PACE. -/
def SUM_STAT_PACE : Fld := ⟨.SUM_STAT, 20, 1⟩
/-- SUM_STAT [19] SEC_LOST. -/
def SUM_STAT_SEC_LOST : Fld := ⟨.SUM_STAT, 19, 1⟩
/-- SUM_STAT [18] HOLD_ANY. -/
def SUM_STAT_HOLD_ANY : Fld := ⟨.SUM_STAT, 18, 1⟩
/-- SUM_CHG [31:16] CHANGES. -/
def SUM_CHG_CHANGES : Fld := ⟨.SUM_CHG, 16, 16⟩
/-- SUM_CHG [15:0] LOG. -/
def SUM_CHG_LOG : Fld := ⟨.SUM_CHG, 0, 16⟩
/-- STREAM_ST_LO [31:0] S0–S7. -/
def STREAM_ST_LO_S0_S7 : Fld := ⟨.STREAM_ST_LO, 0, 32⟩
/-- STREAM_ST_HI [31:0] S8–S15. -/
def STREAM_ST_HI_S8_S15 : Fld := ⟨.STREAM_ST_HI, 0, 32⟩
/-- SUB_EN [31:0] ENABLED. -/
def SUB_EN_ENABLED : Fld := ⟨.SUB_EN, 0, 32⟩
/-- SUB_BOUND [31:0] BOUND. -/
def SUB_BOUND_BOUND : Fld := ⟨.SUB_BOUND, 0, 32⟩
/-- RES_OPEN_LO [31:0] OPEN. -/
def RES_OPEN_LO_OPEN : Fld := ⟨.RES_OPEN_LO, 0, 32⟩
/-- RES_OPEN_HI [31:0] OPEN. -/
def RES_OPEN_HI_OPEN : Fld := ⟨.RES_OPEN_HI, 0, 32⟩
/-- RES_STALL_LO [31:0] STALLED. -/
def RES_STALL_LO_STALLED : Fld := ⟨.RES_STALL_LO, 0, 32⟩
/-- RES_STALL_HI [31:0] STALLED. -/
def RES_STALL_HI_STALLED : Fld := ⟨.RES_STALL_HI, 0, 32⟩
/-- PART_ST [31:0] P0–P15. -/
def PART_ST_P0_P15 : Fld := ⟨.PART_ST, 0, 32⟩
/-- GOV_CTRL [31] ENABLE. -/
def GOV_CTRL_ENABLE : Fld := ⟨.GOV_CTRL, 31, 1⟩
/-- GOV_CTRL [30:24] PMB_ADDR. -/
def GOV_CTRL_PMB_ADDR : Fld := ⟨.GOV_CTRL, 24, 7⟩
/-- GOV_CTRL [23:16] CAP_W. -/
def GOV_CTRL_CAP_W : Fld := ⟨.GOV_CTRL, 16, 8⟩
/-- GOV_CTRL [15:8] HYST. -/
def GOV_CTRL_HYST : Fld := ⟨.GOV_CTRL, 8, 8⟩
/-- GOV_CTRL [7:0] MARGIN. -/
def GOV_CTRL_MARGIN : Fld := ⟨.GOV_CTRL, 0, 8⟩
/-- GOV_STATUS [31:22] VCORE_MV. -/
def GOV_STATUS_VCORE_MV : Fld := ⟨.GOV_STATUS, 22, 10⟩
/-- GOV_STATUS [21:10] PMIN. -/
def GOV_STATUS_PMIN : Fld := ⟨.GOV_STATUS, 10, 12⟩
/-- GOV_STATUS [9:4] PMIN_BLK. -/
def GOV_STATUS_PMIN_BLK : Fld := ⟨.GOV_STATUS, 4, 6⟩
/-- GOV_STATUS [3] CAP_UNMET. -/
def GOV_STATUS_CAP_UNMET : Fld := ⟨.GOV_STATUS, 3, 1⟩
/-- GOV_STATUS [2] AT_MAX. -/
def GOV_STATUS_AT_MAX : Fld := ⟨.GOV_STATUS, 2, 1⟩
/-- GOV_STATUS [1] PMB_FAULT. -/
def GOV_STATUS_PMB_FAULT : Fld := ⟨.GOV_STATUS, 1, 1⟩
/-- GOV_STATUS [0] BELOW_FLOOR. -/
def GOV_STATUS_BELOW_FLOOR : Fld := ⟨.GOV_STATUS, 0, 1⟩
/-- GOV_POWER [31:16] POUT_CW. -/
def GOV_POWER_POUT_CW : Fld := ⟨.GOV_POWER, 16, 16⟩
/-- GOV_POWER [15:8] LOWER_CNT. -/
def GOV_POWER_LOWER_CNT : Fld := ⟨.GOV_POWER, 8, 8⟩
/-- GOV_POWER [7:0] RAISE_CNT. -/
def GOV_POWER_RAISE_CNT : Fld := ⟨.GOV_POWER, 0, 8⟩
/-- PACE_BLK [31:20] CUR. -/
def PACE_BLK_CUR : Fld := ⟨.PACE_BLK, 20, 12⟩
/-- PACE_BLK [19:8] LOW. -/
def PACE_BLK_LOW : Fld := ⟨.PACE_BLK, 8, 12⟩
/-- PACE_MEM [31:20] CUR. -/
def PACE_MEM_CUR : Fld := ⟨.PACE_MEM, 20, 12⟩
/-- PACE_MEM [19:8] LOW. -/
def PACE_MEM_LOW : Fld := ⟨.PACE_MEM, 8, 12⟩
/-- REGION_MAP [31:28] LBLK7. -/
def REGION_MAP_LBLK7 : Fld := ⟨.REGION_MAP, 28, 4⟩
/-- REGION_MAP [27:24] LBLK6. -/
def REGION_MAP_LBLK6 : Fld := ⟨.REGION_MAP, 24, 4⟩
/-- REGION_MAP [23:20] LBLK5. -/
def REGION_MAP_LBLK5 : Fld := ⟨.REGION_MAP, 20, 4⟩
/-- REGION_MAP [19:16] LBLK4. -/
def REGION_MAP_LBLK4 : Fld := ⟨.REGION_MAP, 16, 4⟩
/-- REGION_MAP [15:12] LBLK3. -/
def REGION_MAP_LBLK3 : Fld := ⟨.REGION_MAP, 12, 4⟩
/-- REGION_MAP [11:8] LBLK2. -/
def REGION_MAP_LBLK2 : Fld := ⟨.REGION_MAP, 8, 4⟩
/-- REGION_MAP [7:4] LBLK1. -/
def REGION_MAP_LBLK1 : Fld := ⟨.REGION_MAP, 4, 4⟩
/-- REGION_MAP [3:0] LBLK0. -/
def REGION_MAP_LBLK0 : Fld := ⟨.REGION_MAP, 0, 4⟩
/-- CELL_MAP [17:15] LV1. -/
def CELL_MAP_LV1 : Fld := ⟨.CELL_MAP, 15, 3⟩
/-- CELL_MAP [14:12] LV0. -/
def CELL_MAP_LV0 : Fld := ⟨.CELL_MAP, 12, 3⟩
/-- CELL_MAP [11:9] LM3. -/
def CELL_MAP_LM3 : Fld := ⟨.CELL_MAP, 9, 3⟩
/-- CELL_MAP [8:6] LM2. -/
def CELL_MAP_LM2 : Fld := ⟨.CELL_MAP, 6, 3⟩
/-- CELL_MAP [5:3] LM1. -/
def CELL_MAP_LM1 : Fld := ⟨.CELL_MAP, 3, 3⟩
/-- CELL_MAP [2:0] LM0. -/
def CELL_MAP_LM0 : Fld := ⟨.CELL_MAP, 0, 3⟩
/-- UNIT_MAP [27:24] SPARE_ROLE. -/
def UNIT_MAP_SPARE_ROLE : Fld := ⟨.UNIT_MAP, 24, 4⟩
/-- UNIT_MAP [23:21] LD3. -/
def UNIT_MAP_LD3 : Fld := ⟨.UNIT_MAP, 21, 3⟩
/-- UNIT_MAP [20:18] LD2. -/
def UNIT_MAP_LD2 : Fld := ⟨.UNIT_MAP, 18, 3⟩
/-- UNIT_MAP [17:15] LD1. -/
def UNIT_MAP_LD1 : Fld := ⟨.UNIT_MAP, 15, 3⟩
/-- UNIT_MAP [14:12] LD0. -/
def UNIT_MAP_LD0 : Fld := ⟨.UNIT_MAP, 12, 3⟩
/-- UNIT_MAP [11:9] LT3. -/
def UNIT_MAP_LT3 : Fld := ⟨.UNIT_MAP, 9, 3⟩
/-- UNIT_MAP [8:6] LT2. -/
def UNIT_MAP_LT2 : Fld := ⟨.UNIT_MAP, 6, 3⟩
/-- UNIT_MAP [5:3] LT1. -/
def UNIT_MAP_LT1 : Fld := ⟨.UNIT_MAP, 3, 3⟩
/-- UNIT_MAP [2:0] LT0. -/
def UNIT_MAP_LT0 : Fld := ⟨.UNIT_MAP, 0, 3⟩
/-- BM_ECC [31:16] CORR. -/
def BM_ECC_CORR : Fld := ⟨.BM_ECC, 16, 16⟩
/-- BM_ECC [15:8] UNCORR. -/
def BM_ECC_UNCORR : Fld := ⟨.BM_ECC, 8, 8⟩
/-- BM_ECC [7:0] SPARE_USED. -/
def BM_ECC_SPARE_USED : Fld := ⟨.BM_ECC, 0, 8⟩
/-- SM_ECC [31:16] CORR. -/
def SM_ECC_CORR : Fld := ⟨.SM_ECC, 16, 16⟩
/-- SM_ECC [15:8] UNCORR. -/
def SM_ECC_UNCORR : Fld := ⟨.SM_ECC, 8, 8⟩
/-- SM_ECC [7:0] SPARE_USED. -/
def SM_ECC_SPARE_USED : Fld := ⟨.SM_ECC, 0, 8⟩
/-- SM_SPARE [31] USED. -/
def SM_SPARE_USED : Fld := ⟨.SM_SPARE, 31, 1⟩
/-- SM_SPARE [30] COPYING. -/
def SM_SPARE_COPYING : Fld := ⟨.SM_SPARE, 30, 1⟩
/-- SM_SPARE [6:0] BANK. -/
def SM_SPARE_BANK : Fld := ⟨.SM_SPARE, 0, 7⟩
/-- SNS_CFG [31:30] GEN. -/
def SNS_CFG_GEN : Fld := ⟨.SNS_CFG, 30, 2⟩
/-- SNS_CFG [29:28] COLOUR. -/
def SNS_CFG_COLOUR : Fld := ⟨.SNS_CFG, 28, 2⟩
/-- SNS_CFG [27:24] SEG. -/
def SNS_CFG_SEG : Fld := ⟨.SNS_CFG, 24, 4⟩
/-- SNS_CFG [23:20] ROW_GAP. -/
def SNS_CFG_ROW_GAP : Fld := ⟨.SNS_CFG, 20, 4⟩
/-- SNS_CFG [19:18] ROW_ORDER. -/
def SNS_CFG_ROW_ORDER : Fld := ⟨.SNS_CFG, 18, 2⟩
/-- SNS_CFG [17] LIVE. -/
def SNS_CFG_LIVE : Fld := ⟨.SNS_CFG, 17, 1⟩
/-- SNS_CFG [16] STEERED. -/
def SNS_CFG_STEERED : Fld := ⟨.SNS_CFG, 16, 1⟩
/-- SNS_CFG [15] AUTO. -/
def SNS_CFG_AUTO : Fld := ⟨.SNS_CFG, 15, 1⟩
/-- SNS_CFG [14:0] PIXELS. -/
def SNS_CFG_PIXELS : Fld := ⟨.SNS_CFG, 0, 15⟩
/-- SNS_TIME [31:16] MIN_PERIOD. -/
def SNS_TIME_MIN_PERIOD : Fld := ⟨.SNS_TIME, 16, 16⟩
/-- SNS_TIME [15:8] SP_DELAY. -/
def SNS_TIME_SP_DELAY : Fld := ⟨.SNS_TIME, 8, 8⟩
/-- SNS_TIME [7:0] SP_WIDTH. -/
def SNS_TIME_SP_WIDTH : Fld := ⟨.SNS_TIME, 0, 8⟩
/-- SNS_EXP [31:16] START. -/
def SNS_EXP_START : Fld := ⟨.SNS_EXP, 16, 16⟩
/-- SNS_EXP [15:0] ON. -/
def SNS_EXP_ON : Fld := ⟨.SNS_EXP, 0, 16⟩
/-- SNS_IF [31:16] SAMPLES. -/
def SNS_IF_SAMPLES : Fld := ⟨.SNS_IF, 16, 16⟩
/-- SNS_IF [15:8] ERR_MAX. -/
def SNS_IF_ERR_MAX : Fld := ⟨.SNS_IF, 8, 8⟩
/-- SNS_IF [7:0] MCLK_DIV. -/
def SNS_IF_MCLK_DIV : Fld := ⟨.SNS_IF, 0, 8⟩
/-- SNS_RX [31:16] FIRST_WORD. -/
def SNS_RX_FIRST_WORD : Fld := ⟨.SNS_RX, 16, 16⟩
/-- SNS_PAGE [31:15] MAX_LINES. -/
def SNS_PAGE_MAX_LINES : Fld := ⟨.SNS_PAGE, 15, 17⟩
/-- SNS_PAGE [14:0] STOP_MS. -/
def SNS_PAGE_STOP_MS : Fld := ⟨.SNS_PAGE, 0, 15⟩
/-- SNS_CREDIT [31:28] TOTAL. -/
def SNS_CREDIT_TOTAL : Fld := ⟨.SNS_CREDIT, 28, 4⟩
/-- SNS_CREDIT [27] EMERG_EN. -/
def SNS_CREDIT_EMERG_EN : Fld := ⟨.SNS_CREDIT, 27, 1⟩
/-- SNS_CREDIT [26:24] N. -/
def SNS_CREDIT_N : Fld := ⟨.SNS_CREDIT, 24, 3⟩
/-- SNS_CREDIT [23:20] FREE. -/
def SNS_CREDIT_FREE : Fld := ⟨.SNS_CREDIT, 20, 4⟩
/-- SNS_CREDIT [19] EMERG_HELD. -/
def SNS_CREDIT_EMERG_HELD : Fld := ⟨.SNS_CREDIT, 19, 1⟩
/-- SNS_STATE [31:29] STATE. -/
def SNS_STATE_STATE : Fld := ⟨.SNS_STATE, 29, 3⟩
/-- SNS_STATE [28] SYNC. -/
def SNS_STATE_SYNC : Fld := ⟨.SNS_STATE, 28, 1⟩
/-- SNS_STATE [27] AFE_FAULT. -/
def SNS_STATE_AFE_FAULT : Fld := ⟨.SNS_STATE, 27, 1⟩
/-- SNS_STATE [26] GEN_FAULT. -/
def SNS_STATE_GEN_FAULT : Fld := ⟨.SNS_STATE, 26, 1⟩
/-- SNS_PAGES [31:0] PAGES. -/
def SNS_PAGES_PAGES : Fld := ⟨.SNS_PAGES, 0, 32⟩
/-- SNS_CNT0 [31:16] LINE_SUB. -/
def SNS_CNT0_LINE_SUB : Fld := ⟨.SNS_CNT0, 16, 16⟩
/-- SNS_CNT0 [15:0] LINE_OVR. -/
def SNS_CNT0_LINE_OVR : Fld := ⟨.SNS_CNT0, 0, 16⟩
/-- SNS_CNT1 [31:16] HOLD_VIOL. -/
def SNS_CNT1_HOLD_VIOL : Fld := ⟨.SNS_CNT1, 16, 16⟩
/-- SNS_CNT1 [15:0] DROPS. -/
def SNS_CNT1_DROPS : Fld := ⟨.SNS_CNT1, 0, 16⟩
/-- SHD_CFG [31:24] TARGET. -/
def SHD_CFG_TARGET : Fld := ⟨.SHD_CFG, 24, 8⟩
/-- SHD_CFG [23:19] GSHIFT. -/
def SHD_CFG_GSHIFT : Fld := ⟨.SHD_CFG, 19, 5⟩
/-- SHD_CFG [18:17] REF_LINES. -/
def SHD_CFG_REF_LINES : Fld := ⟨.SHD_CFG, 17, 2⟩
/-- SHD_CFG [16:13] DEF_RUN. -/
def SHD_CFG_DEF_RUN : Fld := ⟨.SHD_CFG, 13, 4⟩
/-- SHD_CFG [12] REF_VALID. -/
def SHD_CFG_REF_VALID : Fld := ⟨.SHD_CFG, 12, 1⟩
/-- SHD_CFG [11] REF_SRC. -/
def SHD_CFG_REF_SRC : Fld := ⟨.SHD_CFG, 11, 1⟩
/-- SHD_STAT [31:16] DEFECT. -/
def SHD_STAT_DEFECT : Fld := ⟨.SHD_STAT, 16, 16⟩
/-- SHD_STAT [15:0] LOWRANGE. -/
def SHD_STAT_LOWRANGE : Fld := ⟨.SHD_STAT, 0, 16⟩
/-- EDGE_CFG [31:24] BG. -/
def EDGE_CFG_BG : Fld := ⟨.EDGE_CFG, 24, 8⟩
/-- EDGE_CFG [23:16] THR. -/
def EDGE_CFG_THR : Fld := ⟨.EDGE_CFG, 16, 8⟩
/-- EDGE_CFG [15:12] TRAIL_LINES. -/
def EDGE_CFG_TRAIL_LINES : Fld := ⟨.EDGE_CFG, 12, 4⟩
/-- EDGE_CFG [11:0] PIX. -/
def EDGE_CFG_PIX : Fld := ⟨.EDGE_CFG, 0, 12⟩
/-- SKEW_CFG [31] DESKEW_EN. -/
def SKEW_CFG_DESKEW_EN : Fld := ⟨.SKEW_CFG, 31, 1⟩
/-- SKEW_CFG [30:24] SKEW_MIN. -/
def SKEW_CFG_SKEW_MIN : Fld := ⟨.SKEW_CFG, 24, 7⟩
/-- SKEW_CFG [23:16] SETTLE. -/
def SKEW_CFG_SETTLE : Fld := ⟨.SKEW_CFG, 16, 8⟩
/-- SKEW_CFG [15:0] MIN_LINES. -/
def SKEW_CFG_MIN_LINES : Fld := ⟨.SKEW_CFG, 0, 16⟩
/-- BAND_CFG [31:28] COUNT. -/
def BAND_CFG_COUNT : Fld := ⟨.BAND_CFG, 28, 4⟩
/-- BAND_CFG [27:16] PITCH. -/
def BAND_CFG_PITCH : Fld := ⟨.BAND_CFG, 16, 12⟩
/-- BAND_CFG [15:0] FRESH. -/
def BAND_CFG_FRESH : Fld := ⟨.BAND_CFG, 0, 16⟩
/-- BAND_HND [31:26] GROW. -/
def BAND_HND_GROW : Fld := ⟨.BAND_HND, 26, 6⟩
/-- BAND_HND [25:16] SHM. -/
def BAND_HND_SHM : Fld := ⟨.BAND_HND, 16, 10⟩
/-- BAND_HND [7:0] RET. -/
def BAND_HND_RET : Fld := ⟨.BAND_HND, 0, 8⟩
/-- COND_CNT [31:24] STALE. -/
def COND_CNT_STALE : Fld := ⟨.COND_CNT, 24, 8⟩
/-- COND_CNT [23:16] RING_FULL. -/
def COND_CNT_RING_FULL : Fld := ⟨.COND_CNT, 16, 8⟩
/-- COND_CNT [15:8] SKEW_RANGE. -/
def COND_CNT_SKEW_RANGE : Fld := ⟨.COND_CNT, 8, 8⟩
/-- COND_CNT [7:0] RUNT. -/
def COND_CNT_RUNT : Fld := ⟨.COND_CNT, 0, 8⟩
/-- PAGE_GEOM [31:16] SKEW. -/
def PAGE_GEOM_SKEW : Fld := ⟨.PAGE_GEOM, 16, 16⟩
/-- PAGE_GEOM [13:0] XE. -/
def PAGE_GEOM_XE : Fld := ⟨.PAGE_GEOM, 0, 14⟩
/-- SNS_SEG [31:16] FIRST. -/
def SNS_SEG_FIRST : Fld := ⟨.SNS_SEG, 16, 16⟩
/-- SNS_SEG [15] REV. -/
def SNS_SEG_REV : Fld := ⟨.SNS_SEG, 15, 1⟩
/-- SNS_SEG [14:11] GROUP. -/
def SNS_SEG_GROUP : Fld := ⟨.SNS_SEG, 11, 4⟩
/-- SNS_SEG [10:0] PIXELS. -/
def SNS_SEG_PIXELS : Fld := ⟨.SNS_SEG, 0, 11⟩
/-- ENC_CFG [31] SRC. -/
def ENC_CFG_SRC : Fld := ⟨.ENC_CFG, 31, 1⟩
/-- ENC_CFG [30] INVERT. -/
def ENC_CFG_INVERT : Fld := ⟨.ENC_CFG, 30, 1⟩
/-- ENC_CFG [29:24] FILT. -/
def ENC_CFG_FILT : Fld := ⟨.ENC_CFG, 24, 6⟩
/-- ENC_DIV [31:0] DIV. -/
def ENC_DIV_DIV : Fld := ⟨.ENC_DIV, 0, 32⟩
/-- ENC_HOLD [31:16] LEAD. -/
def ENC_HOLD_LEAD : Fld := ⟨.ENC_HOLD, 16, 16⟩
/-- ENC_HOLD [15:0] PITCH_MIN. -/
def ENC_HOLD_PITCH_MIN : Fld := ⟨.ENC_HOLD, 0, 16⟩
/-- ENC_STAT [31:16] ENC_FAULT. -/
def ENC_STAT_ENC_FAULT : Fld := ⟨.ENC_STAT, 16, 16⟩
/-- ENC_STAT [15:0] DEFERRED. -/
def ENC_STAT_DEFERRED : Fld := ⟨.ENC_STAT, 0, 16⟩
/-- HOLD_STAT [31] HOLD. -/
def HOLD_STAT_HOLD : Fld := ⟨.HOLD_STAT, 31, 1⟩
/-- HOLD_STAT [8] FORCE. -/
def HOLD_STAT_FORCE : Fld := ⟨.HOLD_STAT, 8, 1⟩
/-- HOLD_STAT [7] CREDIT. -/
def HOLD_STAT_CREDIT : Fld := ⟨.HOLD_STAT, 7, 1⟩
/-- HOLD_STAT [6] EMERG. -/
def HOLD_STAT_EMERG : Fld := ⟨.HOLD_STAT, 6, 1⟩
/-- HOLD_STAT [5] LOCK. -/
def HOLD_STAT_LOCK : Fld := ⟨.HOLD_STAT, 5, 1⟩
/-- HOLD_STAT [4] DRAIN. -/
def HOLD_STAT_DRAIN : Fld := ⟨.HOLD_STAT, 4, 1⟩
/-- HOLD_STAT [3] SPOOL. -/
def HOLD_STAT_SPOOL : Fld := ⟨.HOLD_STAT, 3, 1⟩
/-- HOLD_STAT [2] SHED. -/
def HOLD_STAT_SHED : Fld := ⟨.HOLD_STAT, 2, 1⟩
/-- STITCH [31:20] X_OFF. -/
def STITCH_X_OFF : Fld := ⟨.STITCH, 20, 12⟩
/-- STITCH [19:14] Y_DELAY. -/
def STITCH_Y_DELAY : Fld := ⟨.STITCH, 14, 6⟩
/-- STITCH [13:11] GAP. -/
def STITCH_GAP : Fld := ⟨.STITCH, 11, 3⟩
/-- SUB_CFG [31:29] STATE. -/
def SUB_CFG_STATE : Fld := ⟨.SUB_CFG, 29, 3⟩
/-- SUB_CFG [28] LIVE. -/
def SUB_CFG_LIVE : Fld := ⟨.SUB_CFG, 28, 1⟩
/-- SUB_CFG [27:26] RED. -/
def SUB_CFG_RED : Fld := ⟨.SUB_CFG, 26, 2⟩
/-- SUB_CFG [25:22] PART. -/
def SUB_CFG_PART : Fld := ⟨.SUB_CFG, 22, 4⟩
/-- SUB_CFG [21:18] CREDITS. -/
def SUB_CFG_CREDITS : Fld := ⟨.SUB_CFG, 18, 4⟩
/-- SUB_CFG [17] AUTO. -/
def SUB_CFG_AUTO : Fld := ⟨.SUB_CFG, 17, 1⟩
/-- SUB_CFG [16:0] BOUND_MS. -/
def SUB_CFG_BOUND_MS : Fld := ⟨.SUB_CFG, 0, 17⟩
/-- SUB_LIM [31:26] MAX_MIB. -/
def SUB_LIM_MAX_MIB : Fld := ⟨.SUB_LIM, 26, 6⟩
/-- SUB_LIM [25:16] TIMEOUT. -/
def SUB_LIM_TIMEOUT : Fld := ⟨.SUB_LIM, 16, 10⟩
/-- SUB_LIM [15:0] DAMAGE_MAX. -/
def SUB_LIM_DAMAGE_MAX : Fld := ⟨.SUB_LIM, 0, 16⟩
/-- SUB_ENV [31:0] ENV_STEPS. -/
def SUB_ENV_ENV_STEPS : Fld := ⟨.SUB_ENV, 0, 32⟩
/-- SUB_CNT [31:16] RECORDS. -/
def SUB_CNT_RECORDS : Fld := ⟨.SUB_CNT, 16, 16⟩
/-- SUB_CNT [15:8] REFUSED. -/
def SUB_CNT_REFUSED : Fld := ⟨.SUB_CNT, 8, 8⟩
/-- SUB_CNT [7:0] CANCELLED. -/
def SUB_CNT_CANCELLED : Fld := ⟨.SUB_CNT, 0, 8⟩
/-- DEC_EXP0 [31:16] T4. -/
def DEC_EXP0_T4 : Fld := ⟨.DEC_EXP0, 16, 16⟩
/-- DEC_EXP0 [15:0] T6. -/
def DEC_EXP0_T6 : Fld := ⟨.DEC_EXP0, 0, 16⟩
/-- DEC_EXP1 [31:16] JPEG. -/
def DEC_EXP1_JPEG : Fld := ⟨.DEC_EXP1, 16, 16⟩
/-- DEC_EXP1 [15:0] DEFL. -/
def DEC_EXP1_DEFL : Fld := ⟨.DEC_EXP1, 0, 16⟩
/-- DEC_CNT [31:16] DAMAGE. -/
def DEC_CNT_DAMAGE : Fld := ⟨.DEC_CNT, 16, 16⟩
/-- DEC_CNT [15:0] FAILED. -/
def DEC_CNT_FAILED : Fld := ⟨.DEC_CNT, 0, 16⟩
/-- QNT_CNT [31:24] WIDE_RERUN. -/
def QNT_CNT_WIDE_RERUN : Fld := ⟨.QNT_CNT, 24, 8⟩
/-- QNT_CNT [23:16] WIDE_OVF. -/
def QNT_CNT_WIDE_OVF : Fld := ⟨.QNT_CNT, 16, 8⟩
/-- QNT_CNT [15:8] SKEW_RERUN. -/
def QNT_CNT_SKEW_RERUN : Fld := ⟨.QNT_CNT, 8, 8⟩
/-- QNT_CNT [7:0] SKEW_FAIL. -/
def QNT_CNT_SKEW_FAIL : Fld := ⟨.QNT_CNT, 0, 8⟩
/-- QNT_FP [31:16] NAN. -/
def QNT_FP_NAN : Fld := ⟨.QNT_FP, 16, 16⟩
/-- QNT_FP [15:8] BAD_SCALE. -/
def QNT_FP_BAD_SCALE : Fld := ⟨.QNT_FP, 8, 8⟩
/-- QNT_FP [7:0] OVF_SAT. -/
def QNT_FP_OVF_SAT : Fld := ⟨.QNT_FP, 0, 8⟩
/-- QNT_SKEW [31:16] FIELDS. -/
def QNT_SKEW_FIELDS : Fld := ⟨.QNT_SKEW, 16, 16⟩
/-- QNT_SKEW [15:0] ITEMS. -/
def QNT_SKEW_ITEMS : Fld := ⟨.QNT_SKEW, 0, 16⟩
/-- KV_POOL_CFG [31:16] PAGES. -/
def KV_POOL_CFG_PAGES : Fld := ⟨.KV_POOL_CFG, 16, 16⟩
/-- KV_POOL_CFG [15:8] PAGE_KIB. -/
def KV_POOL_CFG_PAGE_KIB : Fld := ⟨.KV_POOL_CFG, 8, 8⟩
/-- KV_POOL_CFG [7:0] SLOTS. -/
def KV_POOL_CFG_SLOTS : Fld := ⟨.KV_POOL_CFG, 0, 8⟩
/-- KV_POOL_STAT [31:16] FREE. -/
def KV_POOL_STAT_FREE : Fld := ⟨.KV_POOL_STAT, 16, 16⟩
/-- KV_POOL_STAT [15:0] LIMBO. -/
def KV_POOL_STAT_LIMBO : Fld := ⟨.KV_POOL_STAT, 0, 16⟩
/-- KV_RESV [31:16] LC_RESV. -/
def KV_RESV_LC_RESV : Fld := ⟨.KV_RESV, 16, 16⟩
/-- KV_RESV [15:0] LC_HELD. -/
def KV_RESV_LC_HELD : Fld := ⟨.KV_RESV, 0, 16⟩
/-- KV_OVF [31:16] OVF_PAGES. -/
def KV_OVF_OVF_PAGES : Fld := ⟨.KV_OVF, 16, 16⟩
/-- KV_OVF [15:0] OVF_FREE. -/
def KV_OVF_OVF_FREE : Fld := ⟨.KV_OVF, 0, 16⟩
/-- KV_EPOCH_LO [31:0] LO. -/
def KV_EPOCH_LO_LO : Fld := ⟨.KV_EPOCH_LO, 0, 32⟩
/-- KV_EPOCH_HI [31:0] HI. -/
def KV_EPOCH_HI_HI : Fld := ⟨.KV_EPOCH_HI, 0, 32⟩
/-- KV_CNT0 [31:24] MASKED_ROW. -/
def KV_CNT0_MASKED_ROW : Fld := ⟨.KV_CNT0, 24, 8⟩
/-- KV_CNT0 [23:16] NAN_ROW. -/
def KV_CNT0_NAN_ROW : Fld := ⟨.KV_CNT0, 16, 8⟩
/-- KV_CNT0 [15:8] KV_FAULT. -/
def KV_CNT0_KV_FAULT : Fld := ⟨.KV_CNT0, 8, 8⟩
/-- KV_CNT0 [7:0] EXHAUST. -/
def KV_CNT0_EXHAUST : Fld := ⟨.KV_CNT0, 0, 8⟩
/-- KV_CNT1 [31:16] CTX_FULL. -/
def KV_CNT1_CTX_FULL : Fld := ⟨.KV_CNT1, 16, 16⟩
/-- KV_CNT1 [15:0] EDIT_WAIT. -/
def KV_CNT1_EDIT_WAIT : Fld := ⟨.KV_CNT1, 0, 16⟩
/-- TXT_DICT [31:11] NODES. -/
def TXT_DICT_NODES : Fld := ⟨.TXT_DICT, 11, 21⟩
/-- TXT_DICT [10:5] MAXLEN. -/
def TXT_DICT_MAXLEN : Fld := ⟨.TXT_DICT, 5, 6⟩
/-- TXT_VOCAB [31:15] VOCAB. -/
def TXT_VOCAB_VOCAB : Fld := ⟨.TXT_VOCAB, 15, 17⟩
/-- TXT_VOCAB [14:9] DEPTH. -/
def TXT_VOCAB_DEPTH : Fld := ⟨.TXT_VOCAB, 9, 6⟩
/-- TXT_GRAM [31:15] STATES. -/
def TXT_GRAM_STATES : Fld := ⟨.TXT_GRAM, 15, 17⟩
/-- TXT_GRAM [14:2] CLASSES. -/
def TXT_GRAM_CLASSES : Fld := ⟨.TXT_GRAM, 2, 13⟩
/-- TXT_CNT0 [31:16] DEAD_END. -/
def TXT_CNT0_DEAD_END : Fld := ⟨.TXT_CNT0, 16, 16⟩
/-- TXT_CNT0 [15:8] TOK_LIMIT. -/
def TXT_CNT0_TOK_LIMIT : Fld := ⟨.TXT_CNT0, 8, 8⟩
/-- TXT_CNT0 [7:0] TABLE. -/
def TXT_CNT0_TABLE : Fld := ⟨.TXT_CNT0, 0, 8⟩
/-- TXT_CNT1 [31:16] STOP. -/
def TXT_CNT1_STOP : Fld := ⟨.TXT_CNT1, 16, 16⟩
/-- TXT_CNT1 [15:8] UTF8_REPL. -/
def TXT_CNT1_UTF8_REPL : Fld := ⟨.TXT_CNT1, 8, 8⟩
/-- TXT_CNT1 [7:0] TRUNC. -/
def TXT_CNT1_TRUNC : Fld := ⟨.TXT_CNT1, 0, 8⟩
/-- TXT_CNT2 [31:16] NAN_LOGIT. -/
def TXT_CNT2_NAN_LOGIT : Fld := ⟨.TXT_CNT2, 16, 16⟩
/-- TXT_CNT2 [15:0] UTF8_TRIM. -/
def TXT_CNT2_UTF8_TRIM : Fld := ⟨.TXT_CNT2, 0, 16⟩
/-- ADAPT_CTRL [31] ENABLE. -/
def ADAPT_CTRL_ENABLE : Fld := ⟨.ADAPT_CTRL, 31, 1⟩
/-- ADAPT_CTRL [30] INFER_OFF. -/
def ADAPT_CTRL_INFER_OFF : Fld := ⟨.ADAPT_CTRL, 30, 1⟩
/-- ADAPT_CTRL [29] FINISH. -/
def ADAPT_CTRL_FINISH : Fld := ⟨.ADAPT_CTRL, 29, 1⟩
/-- ADAPT_CTRL [28:26] STATE. -/
def ADAPT_CTRL_STATE : Fld := ⟨.ADAPT_CTRL, 26, 3⟩
/-- ADAPT_CTRL [25:22] PART. -/
def ADAPT_CTRL_PART : Fld := ⟨.ADAPT_CTRL, 22, 4⟩
/-- ADAPT_CTRL [21:16] BATCH. -/
def ADAPT_CTRL_BATCH : Fld := ⟨.ADAPT_CTRL, 16, 6⟩
/-- ADAPT_CTRL [15:8] FLUSH_S. -/
def ADAPT_CTRL_FLUSH_S : Fld := ⟨.ADAPT_CTRL, 8, 8⟩
/-- ADAPT_CTRL [7:4] HOLD. -/
def ADAPT_CTRL_HOLD : Fld := ⟨.ADAPT_CTRL, 4, 4⟩
/-- ADAPT_CTRL [3:0] PUB_EVERY. -/
def ADAPT_CTRL_PUB_EVERY : Fld := ⟨.ADAPT_CTRL, 0, 4⟩
/-- ADAPT_CFG [31:24] PUB_TOL. -/
def ADAPT_CFG_PUB_TOL : Fld := ⟨.ADAPT_CFG, 24, 8⟩
/-- ADAPT_CFG [23:12] QUEUE. -/
def ADAPT_CFG_QUEUE : Fld := ⟨.ADAPT_CFG, 12, 12⟩
/-- ADAPT_RING [31:16] SAMPLES. -/
def ADAPT_RING_SAMPLES : Fld := ⟨.ADAPT_RING, 16, 16⟩
/-- ADAPT_RING [15:0] LINES. -/
def ADAPT_RING_LINES : Fld := ⟨.ADAPT_RING, 0, 16⟩
/-- ADAPT_STAT [31:20] QUEUED. -/
def ADAPT_STAT_QUEUED : Fld := ⟨.ADAPT_STAT, 20, 12⟩
/-- ADAPT_STAT [19:12] LOADED. -/
def ADAPT_STAT_LOADED : Fld := ⟨.ADAPT_STAT, 12, 8⟩
/-- ADAPT_STAT [11] COMMITTING. -/
def ADAPT_STAT_COMMITTING : Fld := ⟨.ADAPT_STAT, 11, 1⟩
/-- ADAPT_SEQ [31:0] SEQ. -/
def ADAPT_SEQ_SEQ : Fld := ⟨.ADAPT_SEQ, 0, 32⟩
/-- ADAPT_CNT0 [31:16] ACCEPTED. -/
def ADAPT_CNT0_ACCEPTED : Fld := ⟨.ADAPT_CNT0, 16, 16⟩
/-- ADAPT_CNT0 [15:8] REFUSED. -/
def ADAPT_CNT0_REFUSED : Fld := ⟨.ADAPT_CNT0, 8, 8⟩
/-- ADAPT_CNT0 [7:0] PUB_REJ. -/
def ADAPT_CNT0_PUB_REJ : Fld := ⟨.ADAPT_CNT0, 0, 8⟩
/-- ADAPT_CNT1 [31:16] PUB_WAIT. -/
def ADAPT_CNT1_PUB_WAIT : Fld := ⟨.ADAPT_CNT1, 16, 16⟩
/-- ADAPT_CNT1 [15:8] STEP_FAIL. -/
def ADAPT_CNT1_STEP_FAIL : Fld := ⟨.ADAPT_CNT1, 8, 8⟩
/-- ADAPT_CNT1 [7:0] DISCARD. -/
def ADAPT_CNT1_DISCARD : Fld := ⟨.ADAPT_CNT1, 0, 8⟩
/-- ADAPT_SET [31] VALID. -/
def ADAPT_SET_VALID : Fld := ⟨.ADAPT_SET, 31, 1⟩
/-- ADAPT_SET [30] MODEL. -/
def ADAPT_SET_MODEL : Fld := ⟨.ADAPT_SET, 30, 1⟩
/-- ADAPT_SET [29:25] RANK. -/
def ADAPT_SET_RANK : Fld := ⟨.ADAPT_SET, 25, 5⟩
/-- ADAPT_SET [24] CUR. -/
def ADAPT_SET_CUR : Fld := ⟨.ADAPT_SET, 24, 1⟩
/-- ADAPT_SET [23:0] VERSION. -/
def ADAPT_SET_VERSION : Fld := ⟨.ADAPT_SET, 0, 24⟩
/-- ADAPT_SCORE [31:24] PUB_SCORE. -/
def ADAPT_SCORE_PUB_SCORE : Fld := ⟨.ADAPT_SCORE, 24, 8⟩
/-- ADAPT_SCORE [23:16] CAND_SCORE. -/
def ADAPT_SCORE_CAND_SCORE : Fld := ⟨.ADAPT_SCORE, 16, 8⟩
/-- ADAPT_SCORE [15:8] HOLDOUT. -/
def ADAPT_SCORE_HOLDOUT : Fld := ⟨.ADAPT_SCORE, 8, 8⟩
/-- ADAPT_UPD [31:0] UPDATES. -/
def ADAPT_UPD_UPDATES : Fld := ⟨.ADAPT_UPD, 0, 32⟩
/-- SCHED_CFG [31:20] VARIANT. -/
def SCHED_CFG_VARIANT : Fld := ⟨.SCHED_CFG, 20, 12⟩
/-- SCHED_CFG [19:16] LAG_MAX. -/
def SCHED_CFG_LAG_MAX : Fld := ⟨.SCHED_CFG, 16, 4⟩
/-- SCHED_STAT [31:29] COURSES. -/
def SCHED_STAT_COURSES : Fld := ⟨.SCHED_STAT, 29, 3⟩
/-- SCHED_STAT [28:26] TCOURSE. -/
def SCHED_STAT_TCOURSE : Fld := ⟨.SCHED_STAT, 26, 3⟩
/-- SCHED_STAT [25:10] LAG_US. -/
def SCHED_STAT_LAG_US : Fld := ⟨.SCHED_STAT, 10, 16⟩
/-- SCHED_CNT [31:16] OVR_STEP. -/
def SCHED_CNT_OVR_STEP : Fld := ⟨.SCHED_CNT, 16, 16⟩
/-- SCHED_CNT [15:8] OVR_COURSE. -/
def SCHED_CNT_OVR_COURSE : Fld := ⟨.SCHED_CNT, 8, 8⟩
/-- SCHED_CNT [7:0] SCHED_FAULT. -/
def SCHED_CNT_SCHED_FAULT : Fld := ⟨.SCHED_CNT, 0, 8⟩
/-- HEDGE_SYS [31:16] INTAKE. -/
def HEDGE_SYS_INTAKE : Fld := ⟨.HEDGE_SYS, 16, 16⟩
/-- HEDGE_SYS [15:0] SYS. -/
def HEDGE_SYS_SYS : Fld := ⟨.HEDGE_SYS, 0, 16⟩
/-- PART_CFG [31] VALID. -/
def PART_CFG_VALID : Fld := ⟨.PART_CFG, 31, 1⟩
/-- PART_CFG [30] KIND. -/
def PART_CFG_KIND : Fld := ⟨.PART_CFG, 30, 1⟩
/-- PART_CFG [29:27] STATE. -/
def PART_CFG_STATE : Fld := ⟨.PART_CFG, 27, 3⟩
/-- PART_CFG [26] LENT. -/
def PART_CFG_LENT : Fld := ⟨.PART_CFG, 26, 1⟩
/-- PART_CFG [25:22] SOAK. -/
def PART_CFG_SOAK : Fld := ⟨.PART_CFG, 22, 4⟩
/-- PART_CFG [21:18] OVF. -/
def PART_CFG_OVF : Fld := ⟨.PART_CFG, 18, 4⟩
/-- PART_CFG [17:14] BORROWER. -/
def PART_CFG_BORROWER : Fld := ⟨.PART_CFG, 14, 4⟩
/-- PART_CFG [13:8] LEND_IDLE. -/
def PART_CFG_LEND_IDLE : Fld := ⟨.PART_CFG, 8, 6⟩
/-- PART_CFG [7:0] DRAIN_LIM. -/
def PART_CFG_DRAIN_LIM : Fld := ⟨.PART_CFG, 0, 8⟩
/-- PART_BLK [31:0] BLOCKS. -/
def PART_BLK_BLOCKS : Fld := ⟨.PART_BLK, 0, 32⟩
/-- PART_SPILL [31:24] HANDLE. -/
def PART_SPILL_HANDLE : Fld := ⟨.PART_SPILL, 24, 8⟩
/-- PART_SPILL [23:0] GRANULES. -/
def PART_SPILL_GRANULES : Fld := ⟨.PART_SPILL, 0, 24⟩
/-- PART_CTRL [31] ENABLE. -/
def PART_CTRL_ENABLE : Fld := ⟨.PART_CTRL, 31, 1⟩
/-- PART_CTRL [30] DRAIN_BE. -/
def PART_CTRL_DRAIN_BE : Fld := ⟨.PART_CTRL, 30, 1⟩
/-- PART_CNT [31:24] PREEMPT. -/
def PART_CNT_PREEMPT : Fld := ⟨.PART_CNT, 24, 8⟩
/-- PART_CNT [23:16] PRE_LATE. -/
def PART_CNT_PRE_LATE : Fld := ⟨.PART_CNT, 16, 8⟩
/-- PART_CNT [15:8] OVF_ITEMS. -/
def PART_CNT_OVF_ITEMS : Fld := ⟨.PART_CNT, 8, 8⟩
/-- PART_CNT [7:0] OVF_LATE. -/
def PART_CNT_OVF_LATE : Fld := ⟨.PART_CNT, 0, 8⟩
/-- HEDGE [31:16] MIN. -/
def HEDGE_MIN : Fld := ⟨.HEDGE, 16, 16⟩
/-- HEDGE [15:0] MAX. -/
def HEDGE_MAX : Fld := ⟨.HEDGE, 0, 16⟩
/-- FAULT_CFG [31:24] CELL_THR. -/
def FAULT_CFG_CELL_THR : Fld := ⟨.FAULT_CFG, 24, 8⟩
/-- FAULT_CFG [23:20] RERUN_MAX. -/
def FAULT_CFG_RERUN_MAX : Fld := ⟨.FAULT_CFG, 20, 4⟩
/-- FAULT_CFG [19:18] DEPTH. -/
def FAULT_CFG_DEPTH : Fld := ⟨.FAULT_CFG, 18, 2⟩
/-- FAULT_CFG [17:8] PORT_LOSS_MS. -/
def FAULT_CFG_PORT_LOSS_MS : Fld := ⟨.FAULT_CFG, 8, 10⟩
/-- FAULT_CFG [7:0] DDR_UNC_MAX. -/
def FAULT_CFG_DDR_UNC_MAX : Fld := ⟨.FAULT_CFG, 0, 8⟩
/-- VAR_STAT [31:30] DEPTH_USED. -/
def VAR_STAT_DEPTH_USED : Fld := ⟨.VAR_STAT, 30, 2⟩
/-- VAR_STAT [29:22] SHED_TR. -/
def VAR_STAT_SHED_TR : Fld := ⟨.VAR_STAT, 22, 8⟩
/-- VAR_STAT [21] HOLD. -/
def VAR_STAT_HOLD : Fld := ⟨.VAR_STAT, 21, 1⟩
/-- VAR_STAT [20] SWITCHING. -/
def VAR_STAT_SWITCHING : Fld := ⟨.VAR_STAT, 20, 1⟩
/-- VAR_STAT [19:18] DDR_LOST. -/
def VAR_STAT_DDR_LOST : Fld := ⟨.VAR_STAT, 18, 2⟩
/-- VAR_STAT [17:16] PORT_LOST. -/
def VAR_STAT_PORT_LOST : Fld := ⟨.VAR_STAT, 16, 2⟩
/-- VAR_STAT [15] SEC_LOST. -/
def VAR_STAT_SEC_LOST : Fld := ⟨.VAR_STAT, 15, 1⟩
/-- VAR_SHED_SUB [31:0] SHED. -/
def VAR_SHED_SUB_SHED : Fld := ⟨.VAR_SHED_SUB, 0, 32⟩
/-- SPARE_HEALTH [31:23] BLK_FAILED. -/
def SPARE_HEALTH_BLK_FAILED : Fld := ⟨.SPARE_HEALTH, 23, 9⟩
/-- SPARE_HEALTH [22:14] MSPARE. -/
def SPARE_HEALTH_MSPARE : Fld := ⟨.SPARE_HEALTH, 14, 9⟩
/-- SPARE_HEALTH [13:5] VSPARE. -/
def SPARE_HEALTH_VSPARE : Fld := ⟨.SPARE_HEALTH, 5, 9⟩
/-- SPARE_HEALTH [4] BSPARE. -/
def SPARE_HEALTH_BSPARE : Fld := ⟨.SPARE_HEALTH, 4, 1⟩
/-- CORE_STAT [31:22] CORE_FAILED. -/
def CORE_STAT_CORE_FAILED : Fld := ⟨.CORE_STAT, 22, 10⟩
/-- CORE_STAT [21:17] T_FAILED. -/
def CORE_STAT_T_FAILED : Fld := ⟨.CORE_STAT, 17, 5⟩
/-- CORE_STAT [16:12] D_FAILED. -/
def CORE_STAT_D_FAILED : Fld := ⟨.CORE_STAT, 12, 5⟩
/-- FAULT_CNT0 [31:16] REEXEC. -/
def FAULT_CNT0_REEXEC : Fld := ⟨.FAULT_CNT0, 16, 16⟩
/-- FAULT_CNT0 [15:8] CELL_GRAFT. -/
def FAULT_CNT0_CELL_GRAFT : Fld := ⟨.FAULT_CNT0, 8, 8⟩
/-- FAULT_CNT0 [7:0] BLOCK_GRAFT. -/
def FAULT_CNT0_BLOCK_GRAFT : Fld := ⟨.FAULT_CNT0, 0, 8⟩
/-- FAULT_CNT1 [31:24] SWITCH. -/
def FAULT_CNT1_SWITCH : Fld := ⟨.FAULT_CNT1, 24, 8⟩
/-- FAULT_CNT1 [23:16] TAKEOVER. -/
def FAULT_CNT1_TAKEOVER : Fld := ⟨.FAULT_CNT1, 16, 8⟩
/-- FAULT_CNT1 [15:8] RERUN. -/
def FAULT_CNT1_RERUN : Fld := ⟨.FAULT_CNT1, 8, 8⟩
/-- FAULT_CNT1 [7:0] RERUN_FAIL. -/
def FAULT_CNT1_RERUN_FAIL : Fld := ⟨.FAULT_CNT1, 0, 8⟩
/-- LDG_STAT [31:16] VIOLATED. -/
def LDG_STAT_VIOLATED : Fld := ⟨.LDG_STAT, 16, 16⟩
/-- LDG_STAT [15:8] FAULTS. -/
def LDG_STAT_FAULTS : Fld := ⟨.LDG_STAT, 8, 8⟩
/-- LDG_STAT [7:4] LAST. -/
def LDG_STAT_LAST : Fld := ⟨.LDG_STAT, 4, 4⟩
/-- LDG_ITEM [31:0] COUNT. -/
def LDG_ITEM_COUNT : Fld := ⟨.LDG_ITEM, 0, 32⟩
/-- FAULT_LOG_PTR [31:8] COUNT. -/
def FAULT_LOG_PTR_COUNT : Fld := ⟨.FAULT_LOG_PTR, 8, 24⟩
/-- FAULT_LOG_PTR [7:0] NEXT. -/
def FAULT_LOG_PTR_NEXT : Fld := ⟨.FAULT_LOG_PTR, 0, 8⟩
/-- FAULT_LOG_W0 [31:0] TS_SEC. -/
def FAULT_LOG_W0_TS_SEC : Fld := ⟨.FAULT_LOG_W0, 0, 32⟩
/-- FAULT_LOG_W1 [29:0] TS_NS. -/
def FAULT_LOG_W1_TS_NS : Fld := ⟨.FAULT_LOG_W1, 0, 30⟩
/-- FAULT_LOG_W2 [31:24] CODE. -/
def FAULT_LOG_W2_CODE : Fld := ⟨.FAULT_LOG_W2, 24, 8⟩
/-- FAULT_LOG_W2 [23:22] REGION. -/
def FAULT_LOG_W2_REGION : Fld := ⟨.FAULT_LOG_W2, 22, 2⟩
/-- FAULT_LOG_W2 [21:18] PBLOCK. -/
def FAULT_LOG_W2_PBLOCK : Fld := ⟨.FAULT_LOG_W2, 18, 4⟩
/-- FAULT_LOG_W2 [17:13] SITE. -/
def FAULT_LOG_W2_SITE : Fld := ⟨.FAULT_LOG_W2, 13, 5⟩
/-- FAULT_LOG_W2 [12:9] LBLOCK. -/
def FAULT_LOG_W2_LBLOCK : Fld := ⟨.FAULT_LOG_W2, 9, 4⟩
/-- FAULT_LOG_W2 [8:4] LSITE. -/
def FAULT_LOG_W2_LSITE : Fld := ⟨.FAULT_LOG_W2, 4, 5⟩
/-- FAULT_LOG_W2 [3:0] PART. -/
def FAULT_LOG_W2_PART : Fld := ⟨.FAULT_LOG_W2, 0, 4⟩
/-- FAULT_LOG_W3 [31:0] DETAIL. -/
def FAULT_LOG_W3_DETAIL : Fld := ⟨.FAULT_LOG_W3, 0, 32⟩
/-- PORT_CFG [31:29] MODE. -/
def PORT_CFG_MODE : Fld := ⟨.PORT_CFG, 29, 3⟩
/-- PORT_CFG [28] TAGGED. -/
def PORT_CFG_TAGGED : Fld := ⟨.PORT_CFG, 28, 1⟩
/-- PORT_CFG [27:16] VID. -/
def PORT_CFG_VID : Fld := ⟨.PORT_CFG, 16, 12⟩
/-- PORT_CFG [15] DHCP. -/
def PORT_CFG_DHCP : Fld := ⟨.PORT_CFG, 15, 1⟩
/-- PORT_CFG [14] IPV6. -/
def PORT_CFG_IPV6 : Fld := ⟨.PORT_CFG, 14, 1⟩
/-- PORT_CFG [13] PTP. -/
def PORT_CFG_PTP : Fld := ⟨.PORT_CFG, 13, 1⟩
/-- PORT_CFG [12] PREEMPT. -/
def PORT_CFG_PREEMPT : Fld := ⟨.PORT_CFG, 12, 1⟩
/-- PORT_CFG [11:10] FRAG. -/
def PORT_CFG_FRAG : Fld := ⟨.PORT_CFG, 10, 2⟩
/-- PORT_CFG [9:0] MTU. -/
def PORT_CFG_MTU : Fld := ⟨.PORT_CFG, 0, 10⟩
/-- PORT_STAT [31] LINK. -/
def PORT_STAT_LINK : Fld := ⟨.PORT_STAT, 31, 1⟩
/-- PORT_STAT [30:28] RATE. -/
def PORT_STAT_RATE : Fld := ⟨.PORT_STAT, 28, 3⟩
/-- PORT_STAT [27] PCS_LOCK. -/
def PORT_STAT_PCS_LOCK : Fld := ⟨.PORT_STAT, 27, 1⟩
/-- PORT_STAT [26:25] VERIFY. -/
def PORT_STAT_VERIFY : Fld := ⟨.PORT_STAT, 25, 2⟩
/-- PORT_STAT [24] DUP. -/
def PORT_STAT_DUP : Fld := ⟨.PORT_STAT, 24, 1⟩
/-- PORT_STAT [23:22] DHCP. -/
def PORT_STAT_DHCP : Fld := ⟨.PORT_STAT, 22, 2⟩
/-- PORT_STAT [21] AN_BAD. -/
def PORT_STAT_AN_BAD : Fld := ⟨.PORT_STAT, 21, 1⟩
/-- PORT_LAT [31:16] TX_ADJ. -/
def PORT_LAT_TX_ADJ : Fld := ⟨.PORT_LAT, 16, 16⟩
/-- PORT_LAT [15:0] RX_ADJ. -/
def PORT_LAT_RX_ADJ : Fld := ⟨.PORT_LAT, 0, 16⟩
/-- QUEUE_MAP [31:24] PMAC. -/
def QUEUE_MAP_PMAC : Fld := ⟨.QUEUE_MAP, 24, 8⟩
/-- QUEUE_MAP [23:0] PCP. -/
def QUEUE_MAP_PCP : Fld := ⟨.QUEUE_MAP, 0, 24⟩
/-- PORT_CNT0 [31:24] RX_OVF. -/
def PORT_CNT0_RX_OVF : Fld := ⟨.PORT_CNT0, 24, 8⟩
/-- PORT_CNT0 [23:16] RX_BAD. -/
def PORT_CNT0_RX_BAD : Fld := ⟨.PORT_CNT0, 16, 8⟩
/-- PORT_CNT0 [15:0] POLICED. -/
def PORT_CNT0_POLICED : Fld := ⟨.PORT_CNT0, 0, 16⟩
/-- PORT_CNT1 [31:16] PREEMPT. -/
def PORT_CNT1_PREEMPT : Fld := ⟨.PORT_CNT1, 16, 16⟩
/-- PORT_CNT1 [15:8] FRER_ELIM. -/
def PORT_CNT1_FRER_ELIM : Fld := ⟨.PORT_CNT1, 8, 8⟩
/-- PORT_CNT1 [7:0] LINK_DOWN. -/
def PORT_CNT1_LINK_DOWN : Fld := ⟨.PORT_CNT1, 0, 8⟩
/-- PORT_IP4 [31:0] ADDR. -/
def PORT_IP4_ADDR : Fld := ⟨.PORT_IP4, 0, 32⟩
/-- PORT_MAC_LO [31:0] MAC_LO. -/
def PORT_MAC_LO_MAC_LO : Fld := ⟨.PORT_MAC_LO, 0, 32⟩
/-- PORT_MAC_HI [15:0] MAC_HI. -/
def PORT_MAC_HI_MAC_HI : Fld := ⟨.PORT_MAC_HI, 0, 16⟩
/-- TIME_CTRL [31:30] PROFILE. -/
def TIME_CTRL_PROFILE : Fld := ⟨.TIME_CTRL, 30, 2⟩
/-- TIME_CTRL [29:28] TRANSPORT. -/
def TIME_CTRL_TRANSPORT : Fld := ⟨.TIME_CTRL, 28, 2⟩
/-- TIME_CTRL [27:20] DOMAIN. -/
def TIME_CTRL_DOMAIN : Fld := ⟨.TIME_CTRL, 20, 8⟩
/-- TIME_CTRL [19:16] LOG_DELAY. -/
def TIME_CTRL_LOG_DELAY : Fld := ⟨.TIME_CTRL, 16, 4⟩
/-- TIME_STAT [31:29] STATE. -/
def TIME_STAT_STATE : Fld := ⟨.TIME_STAT, 29, 3⟩
/-- TIME_STAT [28] FIRST_LOCK. -/
def TIME_STAT_FIRST_LOCK : Fld := ⟨.TIME_STAT, 28, 1⟩
/-- TIME_STAT [27] ALARM. -/
def TIME_STAT_ALARM : Fld := ⟨.TIME_STAT, 27, 1⟩
/-- TIME_STAT [26:25] SOURCE. -/
def TIME_STAT_SOURCE : Fld := ⟨.TIME_STAT, 25, 2⟩
/-- TIME_STAT [24] HOLDOVER. -/
def TIME_STAT_HOLDOVER : Fld := ⟨.TIME_STAT, 24, 1⟩
/-- TIME_STAT [23:8] UTC_OFFSET. -/
def TIME_STAT_UTC_OFFSET : Fld := ⟨.TIME_STAT, 8, 16⟩
/-- TIME_STAT [7] UTC_VALID. -/
def TIME_STAT_UTC_VALID : Fld := ⟨.TIME_STAT, 7, 1⟩
/-- TIME_SEC_LO [31:0] SEC_LO. -/
def TIME_SEC_LO_SEC_LO : Fld := ⟨.TIME_SEC_LO, 0, 32⟩
/-- TIME_SEC_HI [15:0] SEC_HI. -/
def TIME_SEC_HI_SEC_HI : Fld := ⟨.TIME_SEC_HI, 0, 16⟩
/-- TIME_NS [29:0] NS. -/
def TIME_NS_NS : Fld := ⟨.TIME_NS, 0, 30⟩
/-- TIME_FRAC [31:0] FRAC. -/
def TIME_FRAC_FRAC : Fld := ⟨.TIME_FRAC, 0, 32⟩
/-- TIME_RATE [31:0] RATE. -/
def TIME_RATE_RATE : Fld := ⟨.TIME_RATE, 0, 32⟩
/-- TIME_OFFSET [31:0] OFFSET. -/
def TIME_OFFSET_OFFSET : Fld := ⟨.TIME_OFFSET, 0, 32⟩
/-- TIME_PATH [31:0] PATH. -/
def TIME_PATH_PATH : Fld := ⟨.TIME_PATH, 0, 32⟩
/-- TIME_SERVO [31:16] KP. -/
def TIME_SERVO_KP : Fld := ⟨.TIME_SERVO, 16, 16⟩
/-- TIME_SERVO [15:0] KI. -/
def TIME_SERVO_KI : Fld := ⟨.TIME_SERVO, 0, 16⟩
/-- TIME_LIM [31:16] TDEG_NS. -/
def TIME_LIM_TDEG_NS : Fld := ⟨.TIME_LIM, 16, 16⟩
/-- TIME_LIM [15:0] SLEW_NS. -/
def TIME_LIM_SLEW_NS : Fld := ⟨.TIME_LIM, 0, 16⟩
/-- PPS_CFG [31:30] MODE. -/
def PPS_CFG_MODE : Fld := ⟨.PPS_CFG, 30, 2⟩
/-- PPS_CFG [29] GATE. -/
def PPS_CFG_GATE : Fld := ⟨.PPS_CFG, 29, 1⟩
/-- PPS_CFG [24:16] WIDTH. -/
def PPS_CFG_WIDTH : Fld := ⟨.PPS_CFG, 16, 9⟩
/-- PPS_CFG [15:0] ADV. -/
def PPS_CFG_ADV : Fld := ⟨.PPS_CFG, 0, 16⟩
/-- EVT_CFG [31:30] EDGES. -/
def EVT_CFG_EDGES : Fld := ⟨.EVT_CFG, 30, 2⟩
/-- EVT_CFG [29:25] COUNT. -/
def EVT_CFG_COUNT : Fld := ⟨.EVT_CFG, 25, 5⟩
/-- EVT_CFG [24] OVF. -/
def EVT_CFG_OVF : Fld := ⟨.EVT_CFG, 24, 1⟩
/-- EVT_SEC_LO [31:0] SEC_LO. -/
def EVT_SEC_LO_SEC_LO : Fld := ⟨.EVT_SEC_LO, 0, 32⟩
/-- EVT_SEC_HI [17] DEGRADED. -/
def EVT_SEC_HI_DEGRADED : Fld := ⟨.EVT_SEC_HI, 17, 1⟩
/-- EVT_SEC_HI [16] UNLOCKED. -/
def EVT_SEC_HI_UNLOCKED : Fld := ⟨.EVT_SEC_HI, 16, 1⟩
/-- EVT_SEC_HI [15:0] SEC_HI. -/
def EVT_SEC_HI_SEC_HI : Fld := ⟨.EVT_SEC_HI, 0, 16⟩
/-- EVT_NS [31] VALID. -/
def EVT_NS_VALID : Fld := ⟨.EVT_NS, 31, 1⟩
/-- EVT_NS [30] FALLING. -/
def EVT_NS_FALLING : Fld := ⟨.EVT_NS, 30, 1⟩
/-- EVT_NS [29:0] NS. -/
def EVT_NS_NS : Fld := ⟨.EVT_NS, 0, 30⟩
/-- TIME_CNT [31:24] ALARMS. -/
def TIME_CNT_ALARMS : Fld := ⟨.TIME_CNT, 24, 8⟩
/-- TIME_CNT [23:16] SRC_CHG. -/
def TIME_CNT_SRC_CHG : Fld := ⟨.TIME_CNT, 16, 8⟩
/-- TIME_CNT [15:8] SYNC_TMO. -/
def TIME_CNT_SYNC_TMO : Fld := ⟨.TIME_CNT, 8, 8⟩
/-- TIME_CNT [7:0] EVT_DROP. -/
def TIME_CNT_EVT_DROP : Fld := ⟨.TIME_CNT, 0, 8⟩
/-- JRT_CFG [31:16] UDP_PORT. -/
def JRT_CFG_UDP_PORT : Fld := ⟨.JRT_CFG, 16, 16⟩
/-- JRT_CFG [15:8] PATIENCE. -/
def JRT_CFG_PATIENCE : Fld := ⟨.JRT_CFG, 8, 8⟩
/-- JRT_CFG [7:0] IDLE_S. -/
def JRT_CFG_IDLE_S : Fld := ⟨.JRT_CFG, 0, 8⟩
/-- JRT_TMR [31:16] RTO_US. -/
def JRT_TMR_RTO_US : Fld := ⟨.JRT_TMR, 16, 16⟩
/-- JRT_TMR [15:8] RTO_MAX_MS. -/
def JRT_TMR_RTO_MAX_MS : Fld := ⟨.JRT_TMR, 8, 8⟩
/-- JRT_TMR [7:0] ABANDON_S. -/
def JRT_TMR_ABANDON_S : Fld := ⟨.JRT_TMR, 0, 8⟩
/-- JRT_SPOOL [31:16] AREA_MIB. -/
def JRT_SPOOL_AREA_MIB : Fld := ⟨.JRT_SPOOL, 16, 16⟩
/-- JRT_SPOOL [15:0] ITEM_KIB. -/
def JRT_SPOOL_ITEM_KIB : Fld := ⟨.JRT_SPOOL, 0, 16⟩
/-- JRT_QUOTA [31:16] DEF_MIB. -/
def JRT_QUOTA_DEF_MIB : Fld := ⟨.JRT_QUOTA, 16, 16⟩
/-- JRT_QUOTA [15:0] FREE_MIB. -/
def JRT_QUOTA_FREE_MIB : Fld := ⟨.JRT_QUOTA, 0, 16⟩
/-- JRT_CNT [31:16] BAD_DGRAM. -/
def JRT_CNT_BAD_DGRAM : Fld := ⟨.JRT_CNT, 16, 16⟩
/-- JRT_CNT [15:8] BAD_REC. -/
def JRT_CNT_BAD_REC : Fld := ⟨.JRT_CNT, 8, 8⟩
/-- JRT_CNT [7:0] OPEN_REF. -/
def JRT_CNT_OPEN_REF : Fld := ⟨.JRT_CNT, 0, 8⟩
/-- CLASS_CFG [31] VALID. -/
def CLASS_CFG_VALID : Fld := ⟨.CLASS_CFG, 31, 1⟩
/-- CLASS_CFG [30] TC. -/
def CLASS_CFG_TC : Fld := ⟨.CLASS_CFG, 30, 1⟩
/-- CLASS_CFG [29] REPL. -/
def CLASS_CFG_REPL : Fld := ⟨.CLASS_CFG, 29, 1⟩
/-- CLASS_CFG [28:27] CONTENT. -/
def CLASS_CFG_CONTENT : Fld := ⟨.CLASS_CFG, 27, 2⟩
/-- CLASS_CFG [26:21] MAND_MAX. -/
def CLASS_CFG_MAND_MAX : Fld := ⟨.CLASS_CFG, 21, 6⟩
/-- CLASS_CFG [20:15] MAND_NOW. -/
def CLASS_CFG_MAND_NOW : Fld := ⟨.CLASS_CFG, 15, 6⟩
/-- CLASS_STR [15:0] STREAMS. -/
def CLASS_STR_STREAMS : Fld := ⟨.CLASS_STR, 0, 16⟩
/-- CLASS_SUB [31:0] SESSIONS. -/
def CLASS_SUB_SESSIONS : Fld := ⟨.CLASS_SUB, 0, 32⟩
/-- CLASS_DEC [31:0] DECISION. -/
def CLASS_DEC_DECISION : Fld := ⟨.CLASS_DEC, 0, 32⟩
/-- SESS_STAT [31:29] STATE. -/
def SESS_STAT_STATE : Fld := ⟨.SESS_STAT, 29, 3⟩
/-- SESS_STAT [28:27] PORT. -/
def SESS_STAT_PORT : Fld := ⟨.SESS_STAT, 27, 2⟩
/-- SESS_STAT [26] STALLED. -/
def SESS_STAT_STALLED : Fld := ⟨.SESS_STAT, 26, 1⟩
/-- SESS_STAT [25] PATH_LOST. -/
def SESS_STAT_PATH_LOST : Fld := ⟨.SESS_STAT, 25, 1⟩
/-- SESS_STAT [24] ALT. -/
def SESS_STAT_ALT : Fld := ⟨.SESS_STAT, 24, 1⟩
/-- SESS_STAT [23:16] GEN. -/
def SESS_STAT_GEN : Fld := ⟨.SESS_STAT, 16, 8⟩
/-- SESS_STAT [15:13] ROLES. -/
def SESS_STAT_ROLES : Fld := ⟨.SESS_STAT, 13, 3⟩
/-- SESS_MAND [31:0] CLASSES. -/
def SESS_MAND_CLASSES : Fld := ⟨.SESS_MAND, 0, 32⟩
/-- SESS_OPT [31:0] CLASSES. -/
def SESS_OPT_CLASSES : Fld := ⟨.SESS_OPT, 0, 32⟩
/-- SESS_SPOOL [31:16] QUOTA_MIB. -/
def SESS_SPOOL_QUOTA_MIB : Fld := ⟨.SESS_SPOOL, 16, 16⟩
/-- SESS_SPOOL [15:0] HELD. -/
def SESS_SPOOL_HELD : Fld := ⟨.SESS_SPOOL, 0, 16⟩
/-- SESS_CNT0 [31:16] RETX. -/
def SESS_CNT0_RETX : Fld := ⟨.SESS_CNT0, 16, 16⟩
/-- SESS_CNT0 [15:8] STALLS. -/
def SESS_CNT0_STALLS : Fld := ⟨.SESS_CNT0, 8, 8⟩
/-- SESS_CNT0 [7:0] GAPS. -/
def SESS_CNT0_GAPS : Fld := ⟨.SESS_CNT0, 0, 8⟩
/-- SESS_CNT1 [31:16] ABANDON. -/
def SESS_CNT1_ABANDON : Fld := ⟨.SESS_CNT1, 16, 16⟩
/-- SESS_CNT1 [15:8] LATE_SEND. -/
def SESS_CNT1_LATE_SEND : Fld := ⟨.SESS_CNT1, 8, 8⟩
/-- SESS_CNT1 [7:4] LIMIT_BAD. -/
def SESS_CNT1_LIMIT_BAD : Fld := ⟨.SESS_CNT1, 4, 4⟩
/-- SESS_CNT1 [3:0] OVERDRAW. -/
def SESS_CNT1_OVERDRAW : Fld := ⟨.SESS_CNT1, 0, 4⟩
/-- RSB_ADDR [31:0] ADDR. -/
def RSB_ADDR_ADDR : Fld := ⟨.RSB_ADDR, 0, 32⟩
/-- RSB_PORT [31:16] UDP. -/
def RSB_PORT_UDP : Fld := ⟨.RSB_PORT, 16, 16⟩
/-- RSB_PORT [15:14] PORT. -/
def RSB_PORT_PORT : Fld := ⟨.RSB_PORT, 14, 2⟩
/-- RSB_PORT [13] ALT. -/
def RSB_PORT_ALT : Fld := ⟨.RSB_PORT, 13, 1⟩
/-- RSB_PORT [12] V6. -/
def RSB_PORT_V6 : Fld := ⟨.RSB_PORT, 12, 1⟩
/-- RSB_ALT [31:0] ALT. -/
def RSB_ALT_ALT : Fld := ⟨.RSB_ALT, 0, 32⟩
/-- RSB_OPEN [31:0] OPEN_SEC. -/
def RSB_OPEN_OPEN_SEC : Fld := ⟨.RSB_OPEN, 0, 32⟩
/-- SSB_ADDR [31:0] ADDR. -/
def SSB_ADDR_ADDR : Fld := ⟨.SSB_ADDR, 0, 32⟩
/-- SSB_PORT [31:16] UDP. -/
def SSB_PORT_UDP : Fld := ⟨.SSB_PORT, 16, 16⟩
/-- SSB_PORT [15:14] PORT. -/
def SSB_PORT_PORT : Fld := ⟨.SSB_PORT, 14, 2⟩
/-- SSB_PORT [13] ALT. -/
def SSB_PORT_ALT : Fld := ⟨.SSB_PORT, 13, 1⟩
/-- SSB_PORT [12] V6. -/
def SSB_PORT_V6 : Fld := ⟨.SSB_PORT, 12, 1⟩
/-- SSB_ALT [31:0] ALT. -/
def SSB_ALT_ALT : Fld := ⟨.SSB_ALT, 0, 32⟩
/-- SSB_OPEN [31:0] OPEN_SEC. -/
def SSB_OPEN_OPEN_SEC : Fld := ⟨.SSB_OPEN, 0, 32⟩
/-- BOOT_STAT [31:30] STATE. -/
def BOOT_STAT_STATE : Fld := ⟨.BOOT_STAT, 30, 2⟩
/-- BOOT_STAT [29] SLOT. -/
def BOOT_STAT_SLOT : Fld := ⟨.BOOT_STAT, 29, 1⟩
/-- BOOT_STAT [28:25] REASON_A. -/
def BOOT_STAT_REASON_A : Fld := ⟨.BOOT_STAT, 25, 4⟩
/-- BOOT_STAT [24:21] REASON_B. -/
def BOOT_STAT_REASON_B : Fld := ⟨.BOOT_STAT, 21, 4⟩
/-- BOOT_STAT [20:0] BOOT_MS. -/
def BOOT_STAT_BOOT_MS : Fld := ⟨.BOOT_STAT, 0, 21⟩
/-- BOOT_IMG [31:25] SVN. -/
def BOOT_IMG_SVN : Fld := ⟨.BOOT_IMG, 25, 7⟩
/-- BOOT_IMG [24] ADVANCE. -/
def BOOT_IMG_ADVANCE : Fld := ⟨.BOOT_IMG, 24, 1⟩
/-- BOOT_ACT_LO [31:0] ACT_LO. -/
def BOOT_ACT_LO_ACT_LO : Fld := ⟨.BOOT_ACT_LO, 0, 32⟩
/-- BOOT_ACT_HI [31:0] ACT_HI. -/
def BOOT_ACT_HI_ACT_HI : Fld := ⟨.BOOT_ACT_HI, 0, 32⟩
/-- FUSE_STAT [31:25] SVN_CNT. -/
def FUSE_STAT_SVN_CNT : Fld := ⟨.FUSE_STAT, 25, 7⟩
/-- FUSE_STAT [24] VENDOR. -/
def FUSE_STAT_VENDOR : Fld := ⟨.FUSE_STAT, 24, 1⟩
/-- FUSE_STAT [23] CUSTOMER. -/
def FUSE_STAT_CUSTOMER : Fld := ⟨.FUSE_STAT, 23, 1⟩
/-- FUSE_STAT [22] WRAP. -/
def FUSE_STAT_WRAP : Fld := ⟨.FUSE_STAT, 22, 1⟩
/-- FUSE_STAT [21:20] JTAG. -/
def FUSE_STAT_JTAG : Fld := ⟨.FUSE_STAT, 20, 2⟩
/-- DEV_ID_LO [31:0] ID_LO. -/
def DEV_ID_LO_ID_LO : Fld := ⟨.DEV_ID_LO, 0, 32⟩
/-- DEV_ID_HI [31:0] ID_HI. -/
def DEV_ID_HI_ID_HI : Fld := ⟨.DEV_ID_HI, 0, 32⟩
/-- BOOT_ID_LO [31:0] BID_LO. -/
def BOOT_ID_LO_BID_LO : Fld := ⟨.BOOT_ID_LO, 0, 32⟩
/-- BOOT_ID_HI [31:0] BID_HI. -/
def BOOT_ID_HI_BID_HI : Fld := ⟨.BOOT_ID_HI, 0, 32⟩
/-- TEMP [31:16] LOGIC. -/
def TEMP_LOGIC : Fld := ⟨.TEMP, 16, 16⟩
/-- TEMP [15:0] MEMORY. -/
def TEMP_MEMORY : Fld := ⟨.TEMP, 0, 16⟩
/-- ATT_STAT [31:21] TREES. -/
def ATT_STAT_TREES : Fld := ⟨.ATT_STAT, 21, 11⟩
/-- ATT_STAT [20:10] LEAVES. -/
def ATT_STAT_LEAVES : Fld := ⟨.ATT_STAT, 10, 11⟩
/-- NMP_CNT [31:16] BAD_AUTH. -/
def NMP_CNT_BAD_AUTH : Fld := ⟨.NMP_CNT, 16, 16⟩
/-- NMP_CNT [15:8] REPLAY. -/
def NMP_CNT_REPLAY : Fld := ⟨.NMP_CNT, 8, 8⟩
/-- NMP_CNT [7:0] BAD_MSG. -/
def NMP_CNT_BAD_MSG : Fld := ⟨.NMP_CNT, 0, 8⟩
/-- FUSE_NET [31] PORT. -/
def FUSE_NET_PORT : Fld := ⟨.FUSE_NET, 31, 1⟩
/-- FUSE_NET [30:28] MODE. -/
def FUSE_NET_MODE : Fld := ⟨.FUSE_NET, 28, 3⟩
/-- JTAG_NONCE [31:0] NONCE. -/
def JTAG_NONCE_NONCE : Fld := ⟨.JTAG_NONCE, 0, 32⟩
/-- LONG_STAT [31:16] PROGRESS. -/
def LONG_STAT_PROGRESS : Fld := ⟨.LONG_STAT, 16, 16⟩
/-- LONG_STAT [15:13] STATE. -/
def LONG_STAT_STATE : Fld := ⟨.LONG_STAT, 13, 3⟩
/-- LONG_STAT [12:10] KIND. -/
def LONG_STAT_KIND : Fld := ⟨.LONG_STAT, 10, 3⟩
/-- LONG_STAT [9:2] RESULT. -/
def LONG_STAT_RESULT : Fld := ⟨.LONG_STAT, 2, 8⟩
/-- LONG_HND [15:0] HANDLE. -/
def LONG_HND_HANDLE : Fld := ⟨.LONG_HND, 0, 16⟩

end F

end Sys2Proof.Machine
end

