-- ==== Sys2Proof/Machine/Parts.lean ====
section
/-!
DEFINITION. The parts of the device's state beside its registers: fabric, clock, memories, schedule,
recovery, streams, transports, items and submitting sessions.
-/

namespace Sys2Proof.Machine

/-- What is kept of a replica ring beside its register: its last completed window, the lowest of the running course for
the governor, the lowest since LOW was read; none before a window has completed (R41, Table 2-4). -/
structure RingMem where
  last : Option Nat
  min : Option Nat
  low : Option Nat
  deriving DecidableEq, Repr

/-- A ring that has completed no window. -/
def RingMem.cold : RingMem := { last := none, min := none, low := none }

/-- The fabric of chapter 2 beside its registers.  Ring numbers are 9 * region + block, and 36 + q for the
memory-die quadrants. -/
structure Fabric where
  /-- The rings by number. -/
  rings : SMap RingMem
  /-- The last VOUT_COMMAND request in mV, 0 before the first (R46). -/
  request : Nat
  /-- PMBus transactions failed in succession (R45). -/
  pmbFails : Nat
  /-- The R44 condition held over the last course. -/
  belowAtMax : Bool
  /-- Rename-map words that take effect at the next boundary, by register address (R63, R65). -/
  mapPend : SMap (Option Word)
  /-- Regions whose course fence has completed in this course (R353). -/
  fenceDone : List Bool
  /-- Regions whose next course waits for its fence (R55). -/
  late : List Bool
  /-- Watchdog kicks missed in succession, by control core (R405). -/
  missed : SMap Nat
  deriving DecidableEq, Repr

/-- The fabric after a cold reset. -/
def Fabric.cold : Fabric :=
  { rings := [], request := 0, pmbFails := 0, belowAtMax := false, mapPend := [],
    fenceDone := [false, false, false, false], late := [false, false, false, false],
    missed := [] }

/-- The local clock and what the time unit keeps beside its registers (R435, R340, R341). -/
structure Clock where
  now : Stamp
  /-- Fraction of a nanosecond in 2⁻³² units. -/
  frac : Nat
  /-- K of the last course boundary and the number of the last slot boundary, none before the first. -/
  lastCourse : Option Nat
  lastSlot : Option Nat
  /-- Nanoseconds since the reset or restart started. -/
  up : Nat
  deriving DecidableEq, Repr

/-- The clock after a cold reset. -/
def Clock.cold : Clock := { now := ⟨0, 0⟩, frac := 0, lastCourse := none, lastSlot := none, up := 0 }

/-- A physical granule: memory 0 to 35 a block memory, 36 shared memory, 37 DDR4, and its number in that storage; a memory
of 64 + n is the operand-buffer slot n. -/
structure Gran where
  sel : Nat
  no : Nat
  deriving DecidableEq, Repr

/-- One end of a move in flight, as its issue translated it (R49, R71): the granules of each row, or of each compressed
page's region; or a slot and the byte offset in it. -/
inductive MvEnd where
  | mem (rows : List (List Gran))
  | slot (s : SlotId) (off : Nat)
  deriving DecidableEq, Repr

/-- A move in flight (R96): its own number, its issuer, its two physical ends, how it converts, its raise-full flag. -/
structure Move where
  id : Nat
  issuer : Issuer
  src : MvEnd
  dst : MvEnd
  bytes : Nat
  comp : Comp
  wide16 : Bool
  zero : Nat
  elems : Nat
  raiseFull : Bool
  deriving DecidableEq, Repr

/-- What the last completed read delivered to its issuer. -/
inductive ReadRes where
  | idle
  /-- The granule or slot data. -/
  | data (d : List Byte)
  /-- The data with a poison indication (R87). -/
  | poison (d : List Byte)
  /-- An error indication: a failed handle check (R72) or a failed site (R64). -/
  | error
  /-- The operation waits in the handshake (R77). -/
  | wait
  /-- A cell error: the second read failed as well (R84). -/
  | cellError
  deriving DecidableEq, Repr

/-- A request for units of a hedged resource: the move it belongs to, move + 1, or 0 for any other operation; who asks, a
partition or 16 for the intake and 17 for the system; units still to be delivered (R359). -/
structure HedgeReq where
  id : Nat
  who : Nat
  left : Nat
  deriving DecidableEq, Repr

/-- A hedged resource: what each requester has received in the running period, whose turn it is next, and the requests
that wait (R359). -/
structure HedgeRes where
  got : SMap Nat
  turn : Nat
  wait : List HedgeReq
  deriving DecidableEq, Repr

/-- A resource that nobody has used. -/
def HedgeRes.cold : HedgeRes := { got := [], turn := 0, wait := [] }

/-- The memories of chapter 3, by storage location: 36 block memories, shared memory, DDR4, the operand
buffers, the handle tables, and what correction and sparing keep. -/
structure Mem where
  block : SMap Memory
  shared : Memory
  ddr : Memory
  slotData : SMap (List Byte)
  slotFull : SMap Bool
  blockHnd : SMap (BitVec 64)
  sharedHnd : SMap (BitVec 64)
  ddrHnd : SMap (BitVec 64)
  /-- Words whose stored content is uncorrectable, by word number (R87, R88). -/
  poison : SMap Bool
  /-- Rows marked for sparing: 1 correctable, 2 uncorrectable (R88). -/
  rowMark : SMap Nat
  /-- Bit positions corrected before, by word number. -/
  corrAt : SMap (List Nat)
  /-- Spare row that stands in for a row. -/
  rowSpare : SMap (Option Nat)
  /-- Spare rows in use, by bank. -/
  spareUsed : SMap Nat
  /-- Spare banks whose copy of R90 is complete. -/
  bankCopied : List Bool
  moves : List Move
  nextMove : Nat
  /-- Handle faults counted against the holder of a table (R72): 0 to 31 logical blocks, 32 shared, 33 DDR4; move-overlap
  faults likewise (R98). -/
  hndFaults : SMap Nat
  mvFaults : SMap Nat
  /-- Corrected parity events by cell (R84), slot-token faults by cell (R79). -/
  parity : SMap Nat
  tokenFaults : SMap Nat
  /-- Uncorrectable words of each DDR4 channel in the running 1,000 courses (R401). -/
  ddrUnc : List Nat
  /-- The hedged resources by their index (Table 12-5). -/
  hedges : SMap HedgeRes
  readOut : ReadRes
  deriving DecidableEq, Repr

/-- The memories as R92 leaves them. (DESIGN CHOICE, log entry 3) -/
def Mem.cold : Mem :=
  { block := [], shared := [], ddr := [], slotData := [], slotFull := [], blockHnd := [], sharedHnd := [],
    ddrHnd := [], poison := [], rowMark := [], corrAt := [], rowSpare := [], spareUsed := [],
    bankCopied := [false, false, false, false], moves := [], nextMove := 0,
    hndFaults := [], mvFaults := [], parity := [], tokenFaults := [], ddrUnc := [0, 0], hedges := [], readOut := .idle }

/-- A step that a unit runs (R351). -/
structure StepRun where
  desc : StepDesc
  /-- The slot number of its slot tick, and its start in ns of the local clock. -/
  at_ : Nat
  start : Nat
  /-- Re-executions and re-issues so far. -/
  tries : Nat
  /-- Number of the first move that the step can have issued, and the slots that it has released with what they held: a
  rollback ends its fills and keeps those slots FULL (R83). -/
  firstMove : Nat
  freed : List (Nat × List Byte)
  /-- A yield has been requested (R369). -/
  yield : Bool
  /-- The KV epoch sampled at its start (R271). -/
  epoch : Nat
  deriving DecidableEq, Repr

/-- A pre-emption under way (R369), by the partition whose blocks it takes: the partition that spills, the ns of its
trigger; `spilled` once the spill set has been moved. -/
structure Preempt where
  victim : Nat
  start : Nat
  spilled : Bool
  /-- Blocks that have stopped at a step boundary, and the handles of the spill set whose entries changed there, each with
  what it named: its granules (R73, R369). -/
  stopped : List Nat
  out : List (Nat × List Gran)
  deriving DecidableEq, Repr

/-- What the schedule keeps beside its registers (chapter 12).  Units are numbered 0 to 31 for logical
blocks 8 r + b, 32 to 35 for T0 to T3, 36 to 39 for D0 to D3. -/
structure Sched where
  running : SMap (Option StepRun)
  /-- The region's lag in ns. -/
  lag : List Nat
  /-- Course in which a region's schedule fault was raised, while its lag lasts (R409). -/
  faultAt : List (Option Nat)
  /-- Courses in which a partition has held no item and captured no page (R367). -/
  idle : SMap Nat
  /-- Lending begun at the last course boundary, by LC partition: a trigger in the same course undoes it (R374). -/
  lendAt : SMap Nat
  preempt : SMap (Option Preempt)
  /-- DDR4 handles of a borrower's spill set while it lies in the spill area (R369). -/
  spillSet : SMap (List Nat)
  /-- Drains under way by target number: the course in which each began. -/
  drain : SMap (Option Nat)
  /-- Targets whose enable waits for the end of a drain (R375). -/
  enableAfter : SMap Bool
  /-- Partitions whose drain limit has passed (R377). -/
  drainOver : SMap Bool
  /-- Format bits that are set: item, item + 1 or 0, layer and tile of tiles that a wide re-run wrote (R224). -/
  wideTile : List (Nat × Nat × Nat)
  /-- Tiles whose wide re-run is overflow work still to be done (R225). -/
  wideDue : List (Nat × Nat × Nat)
  /-- Steps whose scale entries mismatched once, by unit, step program and item, item + 1 or 0 (R219, R221). -/
  skews : List (Nat × Nat × Nat)
  /-- By unit: the slot number from which its next scheduled step is taken (R344, R351). -/
  served : SMap Nat
  /-- The first slot of the course after the first-lock step, before which no step starts (R342). -/
  resume : Nat
  /-- Each region's lag at the last course boundary, ns (R354). -/
  lagAt : List Nat
  /-- Masked flags in the output status of a unit's last attention step, by row (R286). -/
  maskedRows : SMap (List Bool)
  deriving DecidableEq, Repr

/-- The schedule with nothing running. -/
def Sched.cold : Sched :=
  { running := [], lag := [0, 0, 0, 0], faultAt := [none, none, none, none], idle := [], lendAt := [],
    preempt := [], spillSet := [], drain := [], enableAfter := [], drainOver := [],
    wideTile := [], wideDue := [], skews := [], served := [], resume := 0, lagAt := [0, 0, 0, 0], maskedRows := [] }

/-- What recovery keeps beside its registers (chapter 13).  A cell is numbered 8 (9 r + b) + site, a text
cell 288 + t, a decode lane 293 + d. -/
structure Recov where
  /-- Cell re-executions in the running 1,000 courses. -/
  reexec : SMap Nat
  /-- Cells that failed, and cells that failed in this course. -/
  failedCell : SMap Bool
  failedNow : SMap Bool
  /-- Page walkers that failed. -/
  failedWalker : SMap Bool
  failedRegion : List Bool
  /-- Degradations recorded so far, and those that wait for a second switch (R398). -/
  degr : List Degradation
  waiting : List Degradation
  /-- The variant that a switch under way leads to. -/
  target : Option Nat
  /-- Items to be re-run from their last commit point (R391). -/
  rerun : List Nat
  /-- Persistent handles being reloaded, by 9 r + b (R387). -/
  reload : SMap Bool
  /-- The role of a failed core that the spare takes at the next boundary, and a spare that failed. -/
  takeover : Option Nat
  /-- Courses since the counters of R385 and R401 restarted. -/
  window : Nat
  deriving DecidableEq, Repr

/-- No failure recorded. -/
def Recov.cold : Recov :=
  { reexec := [], failedCell := [], failedNow := [], failedWalker := [],
    failedRegion := [false, false, false, false], degr := [], waiting := [], target := none, rerun := [],
    reload := [], takeover := none, window := 0 }

/-- A page in capture (R149, R152): its item, none while the front end discards a DROPPED page. -/
structure Capture where
  item : Option Nat
  /-- Output lines of the page so far, each the planes' pixels in plane order, oldest first. -/
  lines : List (List (List Nat))
  /-- Exposure midpoint and substitution mark of each line. -/
  mids : List Stamp
  subst : List Bool
  /-- Non-paper lines since the last paper line, which are not page lines yet. -/
  blank : Nat
  /-- First page line of each column group (R152). -/
  groups : List (Option Nat)
  /-- The page line after which the span last widened. -/
  widened : Nat
  /-- θ in 0.01° and xe once measurement has ended; none inside means unmeasured. -/
  skew : Option (Option (Int × Nat))
  /-- Bands written so far, and whether the page has ended. -/
  banded : Nat
  past : Bool
  deriving DecidableEq, Repr

/-- A trigger period whose readout has not completed: colour of its sub-line, the last of a line's being 2; the
line's exposure midpoint, none where R123 gives none; whether its trigger was skipped, so that no readout comes of it
(R116); whether a trigger began it, so that it is a line (R119). -/
structure Period where
  sub : Nat
  mid : Option Stamp
  skipped : Bool
  line : Bool
  deriving DecidableEq, Repr

/-- A stream front end (chapters 4 and 5). -/
structure Stream where
  /-- Pins: SP, the three LED enables, MCLK. -/
  sp : Bool
  leds : List Bool
  mclk : Bool
  /-- Frames of the AFE list written over the control port. -/
  afe : List Nat
  /-- Readouts in sync, and out of sync, in succession. -/
  good : Nat
  bad : Nat
  /-- The last Gen 3 readout count. -/
  count : Option Nat
  /-- Exposure of the line in progress: earliest LED turn-on and latest turn-off; sub-line of sequential mode. -/
  ledOn : Option Stamp
  ledOff : Option Stamp
  /-- A line's exposure period has begun; the periods whose readout has not completed, oldest first. -/
  exposing : Bool
  mids : List Period
  /-- SP has fallen and the words of a readout are being counted (R104). -/
  counting : Bool
  /-- The colour samples of the sub-lines of the line in progress. -/
  sub : List (List Nat)
  /-- A sub-line of the line in progress was received in error. -/
  subBad : Bool
  /-- Received lines, newest first, with their exposure midpoints: the previous line that R110 substitutes, and what
  row and segment delays reach back to. -/
  hist : List (List Nat × Stamp)
  page : Option Capture
  /-- Pages past their end whose bands are not all written, oldest first. -/
  tail : List Capture
  /-- Captured lines of items that ended FAILED: transport-stop, kept until their records are acknowledged (R118). -/
  kept : List Capture
  /-- The AFE list has been written and verified (R125). -/
  afeDone : Bool
  /-- Nothing is admitted until TRAIL_LINES non-paper lines have passed; the run so far. -/
  closed : Bool
  run : Nat
  /-- Reference set in use, and one that takes effect at the next admitted page (R141). -/
  refs : Option RefSet
  nextRefs : Option RefSet
  /-- DIGEST of the image under which the set in use was captured. -/
  refDigest : List Byte
  /-- A reference capture runs on the stream (R140). -/
  capturing : Bool
  /-- Triggers that the capture has generated. -/
  capTrig : Nat
  /-- Band ring buffers in use and retention pages in use (R161).  Under the numbers 16 to 47 these are those of the
  submitting sessions' records (R178). -/
  ringUsed : List (Nat × Nat)
  retained : List (Nat × Nat)
  deriving DecidableEq, Repr

/-- A front end after reset. -/
def Stream.cold : Stream :=
  { sp := false, leds := [false, false, false], mclk := false, afe := [], good := 0, bad := 0, count := none,
    ledOn := none, ledOff := none, exposing := false, mids := [], counting := false, sub := [], subBad := false,
    hist := [], page := none, tail := [], kept := [], afeDone := false, closed := false, run := 0, refs := none, nextRefs := none, refDigest := [],
    capturing := false, capTrig := 0, ringUsed := [], retained := [] }

/-- A transport's encoder, triggers and feed hold (R111 to R118, R131 to R133). -/
structure Transport where
  /-- Accepted levels of the two inputs. -/
  a : Bool
  b : Bool
  /-- The 34-bit signed accumulator. -/
  acc : Int
  /-- Triggers since the streams were enabled, up to the one in progress, skipped ones included. -/
  trigs : Nat
  /-- A trigger is deferred, waiting for MIN_PERIOD; triggers skipped meanwhile (R116). -/
  deferred : Bool
  skipped : Nat
  /-- Skipped triggers that follow the one in progress. -/
  after : Nat
  lastTrig : Option Stamp
  /-- When ENCk_HOLD_N was last driven low, in ns of running time. -/
  holdSince : Option Nat
  /-- Next sheet number; sheets whose front edge has no back edge yet, with the line count of the edge (R11, R12). -/
  sheet : Nat
  unpaired : List (Nat × Nat)
  /-- Line triggers since the streams were enabled. -/
  lines : Nat
  deriving DecidableEq, Repr

/-- A transport after reset. -/
def Transport.cold : Transport :=
  { a := false, b := false, acc := 0, trigs := 0, deferred := false, skipped := 0, after := 0, lastTrig := none, holdSince := none,
    sheet := 0, unpaired := [], lines := 0 }

/-- A field of an item: its code of Table 10-5 once ended, and the work of a field in progress
(R298, chapter 10). -/
structure FieldSt where
  begun : Bool
  code : Option Nat
  reason : List Byte
  /-- Emitted text. -/
  text : List Byte
  /-- Grammar state and tokens chosen. -/
  gstate : Nat
  tokens : List Nat
  /-- Held bytes: text not yet emitted (R305, R306). -/
  held : List Byte
  deriving DecidableEq, Repr

/-- A band of an item (R157 to R166). -/
structure Band where
  idx : Nat
  lines : Nat
  /-- When its full token was raised. -/
  full : Stamp
  /-- Its ring buffer, none when it was written to retention only (R162). -/
  buffer : Option Nat
  retained : Bool
  taken : Bool
  released : Bool
  dropped : Bool
  steer : Nat
  deriving DecidableEq, Repr

/-- How an item reaches one session, fixed at its admission (R464, R465, R479). -/
structure Deliv where
  sess : Nat
  mandatory : Bool
  level : Nat
  timeCritical : Bool
  cls : Nat
  decisions : List Nat
  /-- Undrawn part of the spool reservation, bytes. -/
  left : Nat
  /-- A record of the item was replaced under record-limit. -/
  limited : Bool
  /-- Records are no longer formed for the session (R484, R486). -/
  cut : Bool
  deriving DecidableEq, Repr

/-- A reason or status code with its reason text. -/
structure Verdict where
  status : Nat
  reason : List Byte
  deriving DecidableEq, Repr

/-- Damage found in a record: kind, byte offset, line, column, lines affected, pixels filled (R189). -/
structure Damage where
  kind : Nat
  off : Nat
  line : Nat
  col : Nat
  lines : Nat
  pixels : Nat
  deriving DecidableEq, Repr

/-- An item in flight, or ended and still holding something. -/
structure Item where
  num : Nat
  origin : Nat
  live : Bool
  part : Nat
  sheet : Option Nat
  subm : Option (Nat × Nat)
  refText : Option (List Byte)
  v1seq : Option Nat
  stamp : Stamp
  lastLine : Option Stamp
  deadline : Option Stamp
  flags : Nat
  /-- 0 none, 1 ordinary, 2 emergency credit held. -/
  credit : Nat
  deliv : List Deliv
  /-- Mandatory sessions that have not acknowledged, nor abandoned, its terminal records. -/
  waiting : List Nat
  begun : Bool
  ended : Option Verdict
  /-- The item ends so at its next step boundary (R548). -/
  endNext : Option Verdict
  /-- The reason that its unfinished fields then carry, when it is not the verdict's. -/
  cutWhy : List Byte
  captured : Bool
  subst : Nat
  bands : List Band
  lines : Nat
  /-- Characters of each recognised line, and of all (R362). -/
  lineChars : List Nat
  chars : Nat
  toks : Nat
  fields : List FieldSt
  field : Nat
  overflow : Bool
  commits : Nat
  reruns : Nat
  /-- Pixel planes of a decoded record, its damage, and its cost against the envelope (R189 to R191). -/
  damage : List Damage
  damageFrac : Nat
  bg : Nat
  decoding : Bool
  recWidth : Nat
  recHeight : Nat
  recCodec : Nat
  recPlanes : Nat
  rec2d : Bool
  /-- Image bytes declared, and those arrived, which lie in place `area` of the session's reassembly space (R178); the slot
  number at which the last one counted as arrived (R192); logic steps of its decode run in the LC share (R191). -/
  bytes : Nat
  got : Nat
  area : Nat
  arrived : Nat
  laneSteps : Nat
  complete : Bool
  /-- A retained input was lost with a DDR4 channel (Table 13-3). -/
  lost : Bool
  /-- A record's skew once measured. -/
  skew : Option (Option (Int × Nat))
  /-- KV page-table slot, entries held, and those recorded at the last commit point. -/
  kvSlot : Option Nat
  kvMark : Nat
  /-- Adapter set copy held: set and copy, by model (R323). -/
  copies : List (Nat × Nat)
  texts : List (List Byte)
  /-- The structuring model's context: token IDs, the position of each field's first token, and the images of
  recognised lines within field regions (Table 11-1). -/
  ctx : List Nat
  starts : List Nat
  lineImgs : List (List Byte)
  /-- Layers whose wide re-run budget is used, now and at the last commit point (R225, R391), and whether a scale-skew field
  has been counted (R220). -/
  wides : List Nat
  wideMark : List Nat
  skewed : Bool
  /-- The slot in which its last token was chosen: an item has one token a slot (R312). -/
  tokSlot : Option Nat
  deriving DecidableEq, Repr

/-- What page numbering and the ledger keep over all items (R411, R467). -/
structure Items where
  list : List Item
  next : Nat
  /-- Counts of LDG_ITEM: created, six statuses. -/
  created : Nat
  ends : List Nat
  /-- Terminal records owed to mandatory sessions, and those sent or abandoned (invariant 15). -/
  owed : Nat
  paid : Nat
  deriving DecidableEq, Repr

/-- No item yet. -/
def Items.cold : Items :=
  { list := [], next := 0, created := 0, ends := [0, 0, 0, 0, 0, 0], owed := 0, paid := 0 }

/-- A submitting session's byte stream (chapter 6). -/
structure Subm where
  /-- Header bytes of the record that begins, within the session's header area (R177, R550). -/
  buf : List Byte
  /-- Container version, 0 before it is known. -/
  version : Nat
  /-- Bytes still to discard; everything up to the end of the submission. -/
  skip : Nat
  skipAll : Bool
  /-- The item whose image bytes arrive, and how many are still to come. -/
  item : Option Nat
  need : Nat
  submission : Nat
  index : Nat
  free : Nat
  /-- Cumulative credits granted since the open (key 54), and records since then. -/
  granted : Nat
  used : Nat
  deriving DecidableEq, Repr

/-- A submitting session with nothing received. -/
def Subm.cold : Subm :=
  { buf := [], version := 0, skip := 0, skipAll := false, item := none, need := 0, submission := 0,
    index := 0, free := 0, granted := 0, used := 0 }

/-- A record formed for a session and not yet built into a datagram (R382, R468). -/
structure Formed where
  sess : Nat
  origin : Nat
  item : Nat
  /-- Type of Table 15-7. -/
  kind : Nat
  lane1 : Bool
  bytes : List Byte
  /-- The item's deadline, of a live item's ITEM_END (R457). -/
  due : Option Stamp
  deriving DecidableEq, Repr

end Sys2Proof.Machine
end

