-- ==== Sys2Proof/Machine/Parts2.lean ====
section
/-!
DEFINITION. More parts of the device's state: ports and network time (chapter 14), the Jorrak Result
Transport (chapter 15).
-/

namespace Sys2Proof.Machine

/-- What a transmit frame carries. -/
inductive TxKind where
  | arp
  | nd
  | icmp
  | group
  | dhcp
  | delayReq
  | pdelayReq
  /-- A one-step Pdelay_Resp with the receive time-stamp of its request in ns. -/
  | pdelayResp (rx : Nat)
  | nmp
  /-- A JRT datagram: session 0 to 95, lane 1, its SEQ; `num` is none for a datagram without records. -/
  | jrt (sess : Nat) (lane1 : Bool) (num : Option Nat)
  deriving DecidableEq, Repr

/-- A frame handed to a port. -/
structure TxFrame where
  queue : Nat
  kind : TxKind
  dst : Addr
  udp : Nat
  payload : List Byte
  rtag : Option Nat
  deriving DecidableEq, Repr

/-- A flow meter's two buckets in bits × 10⁹ and the time of their last update in ns (R432). -/
structure Meter where
  c : Nat
  e : Nat
  at_ : Nat
  deriving DecidableEq, Repr

/-- One port (chapter 14). -/
structure Port where
  queues : SMap (List TxFrame)
  /-- Entry of the gate control list in force, gate states and hold. -/
  entry : Nat
  gates : Nat
  hold : Bool
  /-- When the entry in force ends, ns of the local clock. -/
  entryEnd : Nat
  preemptOn : Bool
  /-- The address cache, oldest first (R423). -/
  cache : List (Addr × Nat)
  /-- Own addresses disabled as duplicates. -/
  dups : List Addr
  joined : Bool
  /-- DHCP lease: address, prefix mask, router, lease seconds. -/
  lease : Option (Nat × Nat × Nat × Nat)
  /-- Echo answers in the current second of the local clock (R424). -/
  echoSec : Nat
  echoes : Nat
  meters : SMap Meter
  /-- The last frame that left, its send-time, and its payload as sent. -/
  lastTx : Option (TxFrame × Stamp × List Byte)
  /-- When the frame in transmission ends, of the time since reset; a preempted frame's queue and what is left of it, ns (R429). -/
  txEnd : Nat
  cut : Option (Nat × Nat)
  /-- Receive time-stamp of the last frame (R450). -/
  lastRx : Option Stamp
  /-- The last 8 valid path delay exchanges, newest first (R441). -/
  delays : List Int
  /-- The last qualified Announce of the port: dataset, UTC offset and its validity. -/
  announce : Option (List Nat × Int × Bool)
  deriving DecidableEq, Repr

/-- A port after reset: all gates open until a list runs. -/
def Port.cold : Port :=
  { queues := [], entry := 0, gates := 255, hold := false, entryEnd := 0, preemptOn := false, cache := [],
    dups := [], joined := false, lease := none, echoSec := 0, echoes := 0, meters := [], lastTx := none,
    txEnd := 0, cut := none, lastRx := none, delays := [], announce := none }

/-- Vector recovery of one stream (R433): last sequence number and history, newest first. -/
structure Recovery where
  last : Option Nat
  hist : List Bool
  deriving DecidableEq, Repr

/-- The network unit. -/
structure Net where
  ports : SMap Port
  frer : SMap Recovery
  /-- Sequence numbers of replicated classes. -/
  rtags : SMap Nat
  /-- Received datagrams handed to the fabric with their receive time-stamps, oldest first. -/
  fabricIn : List (DgIn × Stamp)
  deriving DecidableEq, Repr

/-- The servo and the event input (R441 to R453). -/
structure Servo where
  /-- RI of R442 and R443. -/
  ri : Int
  /-- Syncs collected in ACQUIRE: master and local time in ns, the sync's o. -/
  syncs : List (Int × Int × Int)
  /-- Consecutive Syncs within half the alarm threshold. -/
  good : Nat
  /-- The first-lock step is due at the next course boundary: the last offset and its local time. -/
  stepDue : Option (Int × Int)
  /-- The event queue, oldest first: stamp, falling, before first lock, alarm raised. -/
  events : List (Stamp × Bool × Bool × Bool)
  /-- PTP_PPS: the last rising edge and when its pulse ends. -/
  ppsEdge : Option Stamp
  ppsFall : Option Stamp
  deriving DecidableEq, Repr

/-- A datagram sent or ready to be sent on a lane and not acknowledged (R473 to R475). -/
structure OutDg where
  num : Nat
  recs : List Byte
  recOff : Nat
  sent : Bool
  retx : Nat
  /-- RTO in µs and when the datagram was last handed over, ns of the local clock. -/
  rto : Nat
  at_ : Nat
  /-- Items whose ITEM_END ends in the datagram, the deadlines of the live ones, and spool bytes it returns. -/
  ends : List Nat
  dues : List Stamp
  items : List Nat
  spool : Nat
  replicated : Option Nat
  /-- Send-time of the first transmission (R457). -/
  stamp : Option Nat
  deriving DecidableEq, Repr

/-- An outgoing lane. -/
structure Lane where
  next : Nat
  /-- The peer's ACK and LIMIT, and the initial LIMIT. -/
  ack : Nat
  limit : Nat
  limit0 : Nat
  out : List OutDg
  deriving DecidableEq, Repr

/-- A lane at the open. -/
def Lane.cold : Lane :=
  { next := 0, ack := 0, limit := 0, limit0 := 0, out := [] }

/-- A gap record that waits: class, first and last item, reason (R485). -/
structure Gap where
  cls : Nat
  first : Nat
  last : Nat
  why : List Byte
  deriving DecidableEq, Repr

/-- Bytes of a SUBMIT record that wait for SUBMIT_RECORD: submission number, bytes, last, receive time-stamp of the frame that
carried them, and of the one that completed the order up to them. -/
structure Inbox where
  sub : Nat
  bytes : List Byte
  last : Bool
  at_ : Stamp
  by_ : Stamp
  deriving DecidableEq, Repr

/-- A session: 0 to 63 result, 64 + s submitting (chapter 15). -/
structure Session where
  open_ : Bool
  addr : Addr
  udp : Nat
  port : Nat
  alt : Option Addr
  gen : Nat
  /-- The GEN of the last open since the reset. -/
  lastGen : Option Nat
  roles : Nat
  /-- The OPEN_REPLY's records, sent again to a repeated OPEN. -/
  reply : List Byte
  lane0 : Lane
  lane1 : Lane
  /-- Next SEQ expected on lane 0, the LIMIT granted for it and its initial value. -/
  expect : Nat
  grant : Nat
  grant0 : Nat
  /-- Datagrams beyond a gap: SEQ, records, REC_OFF, and the receive time-stamp of the frame that carried each. -/
  later : List (Nat × List Byte × Nat × Stamp)
  /-- Bytes of a record that has not ended. -/
  part : List Byte
  /-- Parsing resumes at the next REC_OFF (R466). -/
  resync : Bool
  ackDue : Bool
  quota : Nat
  /-- A quota halved under R401 that waits for the held part to fall (R482). -/
  quotaDue : Option Nat
  held : Nat
  gaps : List Gap
  /-- Local time in ns of the last datagram that advanced ACK or LIMIT, or of holding something. -/
  progress : Nat
  /-- Of the last datagram of any kind. -/
  heard : Nat
  /-- Receive time-stamps of the DATA datagram whose records are parsed and of the last one; corrections and submission bytes not yet acted on. -/
  rx : Stamp
  rxLast : Stamp
  inbox : List Inbox
  corrs : List CorrIn
  /-- Peer of the last close and its time, for a repeated CLOSE (R460). -/
  closed : Option (Addr × Nat × Nat × Nat)
  deriving DecidableEq, Repr

/-- A session that is not open. -/
def Session.cold : Session :=
  { open_ := false, addr := ⟨false, 0⟩, udp := 0, port := 0, alt := none, gen := 0, lastGen := none,
    roles := 0, reply := [], lane0 := Lane.cold, lane1 := Lane.cold, expect := 0, grant := 0, grant0 := 0,
    later := [], part := [], resync := false, ackDue := false, quota := 0, quotaDue := none, held := 0,
    gaps := [], progress := 0, heard := 0, rx := ⟨0, 0⟩, rxLast := ⟨0, 0⟩, inbox := [], corrs := [], closed := none }

/-- The network unit after reset. -/
def Net.cold : Net := { ports := [], frer := [], rtags := [], fabricIn := [] }

/-- The servo after a cold reset. -/
def Servo.cold : Servo :=
  { ri := 0, syncs := [], good := 0, stepDue := none, events := [], ppsEdge := none, ppsFall := none }

end Sys2Proof.Machine
end

