-- ==== Sys2Proof/Machine/Fp.lean ====
section
/-!
DEFINITION. The number formats of chapter 7 (R193 to R205) and the table-assisted functions of chapter 9
(R289 to R291): exact values, one rounding to nearest with ties away from zero.
-/

namespace Sys2Proof.Machine

/-- The layout of a floating format (Table 7-2): exponent bits, mantissa bits, bias, whether it has infinities. -/
structure FpLay where
  e : Nat
  m : Nat
  bias : Nat
  inf : Bool
  deriving DecidableEq, Repr

/-- Layout of a floating format; none for an integer format. -/
def fpLay : Fmt → Option FpLay
  | .e4m3 => some ⟨4, 3, 7, false⟩
  | .e5m2 => some ⟨5, 2, 15, true⟩
  | .fp16 => some ⟨5, 10, 15, true⟩
  | .bf16 => some ⟨8, 7, 127, true⟩
  | .fp32 => some ⟨8, 23, 127, true⟩
  | _ => none

/-- The layout of FP32. -/
def lay32 : FpLay := ⟨8, 23, 127, true⟩

/-- A value that a floating code stands for; `negZero` is −0, `num 0` is +0. -/
inductive FV where
  | nan
  | inf (neg : Bool)
  | negZero
  | num (q : Rat)
  deriving DecidableEq, Repr

/-- 2 to an integer power. -/
def pow2 (e : Int) : Rat := if e < 0 then 1 / ((2 ^ e.natAbs : Nat) : Rat) else ((2 ^ e.toNat : Nat) : Rat)

/-- Rounding to nearest, ties away from zero (R203). -/
def rnaRat (q : Rat) : Int := if q < 0 then -((-q + 1 / 2).floor) else (q + 1 / 2).floor

/-- Magnitude. -/
def ratAbs (q : Rat) : Rat := if q < 0 then -q else q

/-- Floor of the binary logarithm of a positive rational. -/
def ratLog2 (q : Rat) : Int :=
  let e : Int := (q.num.natAbs.log2 : Int) - (q.den.log2 : Int)
  if q < pow2 e then e - 1 else e

/-- The largest finite code's magnitude bits. -/
def FpLay.maxCode (l : FpLay) : Nat :=
  if l.inf then (2 ^ l.e - 1) * 2 ^ l.m - 1 else 2 ^ (l.e + l.m) - 2

/-- Code of the canonical NaN (Table 7-2). -/
def FpLay.nanCode (l : FpLay) : Nat :=
  if l.inf then (2 ^ l.e - 1) * 2 ^ l.m + 2 ^ (l.m - 1) else 2 ^ (l.e + l.m) - 1

/-- Code of infinity. -/
def FpLay.infCode (l : FpLay) : Nat := (2 ^ l.e - 1) * 2 ^ l.m

/-- Weight of the sign bit. -/
def FpLay.sign (l : FpLay) : Nat := 2 ^ (l.e + l.m)

/-- Value of a code (R194, R195). -/
def FpLay.dec (l : FpLay) (code : Nat) : FV :=
  let neg := bitOf code (l.e + l.m)
  let ex := bitsOf code l.m l.e
  let ma := bitsOf code 0 l.m
  if l.inf ∧ ex = 2 ^ l.e - 1 then (if ma = 0 then .inf neg else .nan)
  else if !l.inf ∧ bitsOf code 0 (l.e + l.m) = 2 ^ (l.e + l.m) - 1 then .nan
  else if ex = 0 ∧ ma = 0 then (if neg then .negZero else .num 0)
  else
    let mag : Rat := if ex = 0 then (ma : Rat) * pow2 (1 - (l.bias : Int) - (l.m : Int))
      else ((2 ^ l.m + ma : Nat) : Rat) * pow2 ((ex : Int) - (l.bias : Int) - (l.m : Int))
    .num (if neg then -mag else mag)

/-- Magnitude code and saturation of a positive rational (R204). -/
def FpLay.roundMag (l : FpLay) (q : Rat) : Nat × Bool :=
  let emin : Int := 1 - (l.bias : Int)
  let e := if ratLog2 q < emin then emin else ratLog2 q
  let n := (rnaRat (q * pow2 ((l.m : Int) - e))).toNat
  let code := (e - emin).toNat * 2 ^ l.m + n
  if code > l.maxCode then (l.maxCode, true) else (code, false)

/-- Narrows a value to a format: its code, and whether R204 saturated it or turned an infinity into the largest
finite value. (DEDUCED, log entry 95) -/
def FpLay.nar (l : FpLay) (v : FV) : Nat × Bool :=
  match v with
  | .nan => (l.nanCode, false)
  | .inf neg =>
    let s := if neg then l.sign else 0
    if l.inf then (s + l.infCode, false) else (s + l.maxCode, true)
  | .negZero => (l.sign, false)
  | .num q =>
    if q = 0 then (0, false)
    else
      let r := l.roundMag (ratAbs q)
      (r.1 + (if q < 0 then l.sign else 0), r.2)

/-- One rounding to a format, as a value. -/
def FpLay.rnd (l : FpLay) (v : FV) : FV := l.dec (l.nar v).1

/-- One rounding to FP32. -/
def r32 (v : FV) : FV := lay32.rnd v

/-- Value of an FP32 code. -/
def f32 (code : Nat) : FV := lay32.dec code

/-- FP32 code of a value. -/
def c32 (v : FV) : Nat := (lay32.nar v).1

/-- Whether a value is a zero of either sign. -/
def FV.isZero : FV → Bool
  | .negZero => true
  | .num q => decide (q = 0)
  | _ => false

/-- Whether a value is negative, −0 included. -/
def FV.isNeg : FV → Bool
  | .negZero => true
  | .num q => decide (q < 0)
  | .inf n => n
  | .nan => false

/-- The rational of a finite value, 0 for others. -/
def FV.rat : FV → Rat
  | .num q => q
  | _ => 0

/-- Whether a value is finite. -/
def FV.fin : FV → Bool
  | .negZero => true
  | .num _ => true
  | _ => false

/-- Changes the sign. -/
def FV.neg : FV → FV
  | .nan => .nan
  | .inf n => .inf (!n)
  | .negZero => .num 0
  | .num q => if q = 0 then .negZero else .num (-q)

/-- A signed zero. -/
def zeroOf (neg : Bool) : FV := if neg then .negZero else .num 0

/-- Exact product (R201: 0 × ∞ is NaN). -/
def FV.mul (a b : FV) : FV :=
  match a, b with
  | .nan, _ => .nan
  | _, .nan => .nan
  | .inf n, b => if b.isZero then .nan else .inf (n != b.isNeg)
  | a, .inf n => if a.isZero then .nan else .inf (n != a.isNeg)
  | a, b => if a.isZero || b.isZero then zeroOf (a.isNeg != b.isNeg) else .num (a.rat * b.rat)

/-- Exact sum: +∞ with −∞ is NaN; an exact zero is +0 unless both are −0 (R201). -/
def FV.add (a b : FV) : FV :=
  match a, b with
  | .nan, _ => .nan
  | _, .nan => .nan
  | .inf n, .inf m => if n = m then .inf n else .nan
  | .inf n, _ => .inf n
  | _, .inf n => .inf n
  | .negZero, .negZero => .negZero
  | a, b => .num (a.rat + b.rat)

/-- Exact difference. -/
def FV.sub (a b : FV) : FV := a.add b.neg

/-- Exact quotient; a zero divisor gives an infinity, 0 ÷ 0 and ∞ ÷ ∞ give NaN. -/
def FV.div (a b : FV) : FV :=
  match a, b with
  | .nan, _ => .nan
  | _, .nan => .nan
  | .inf _, .inf _ => .nan
  | .inf n, b => .inf (n != b.isNeg)
  | a, .inf n => zeroOf (a.isNeg != n)
  | a, b =>
    if b.isZero then (if a.isZero then .nan else .inf (a.isNeg != b.isNeg))
    else if a.isZero then zeroOf (a.isNeg != b.isNeg)
    else .num (a.rat / b.rat)

/-- `a < b` on values that are not NaN; the zeros are equal. -/
def FV.lt (a b : FV) : Bool :=
  match a, b with
  | .nan, _ => false
  | _, .nan => false
  | .inf n, .inf m => n && !m
  | .inf n, _ => n
  | _, .inf n => !n
  | a, b => decide (a.rat < b.rat)

/-- The larger: a NaN gives NaN, and +0 is larger than −0 (R250). -/
def FV.max (a b : FV) : FV :=
  match a, b with
  | .nan, _ => .nan
  | _, .nan => .nan
  | .negZero, .num q => if q < 0 then .negZero else .num q
  | .num q, .negZero => if q < 0 then .negZero else .num q
  | a, b => if a.lt b then b else a

/-- The smaller, likewise. -/
def FV.min (a b : FV) : FV := (FV.max a.neg b.neg).neg

/-- A floating accumulation step: one rounding of the accumulator and the exact sum of the products (R200,
R201). -/
def accStep (acc : FV) (products : List FV) : FV := r32 (products.foldl FV.add acc)

/-- A chain of floating steps over chunks of `g` products. -/
def accChain (g : Nat) (acc : FV) (products : List FV) : FV :=
  (chunksOf g (products.length + 1) products).foldl accStep acc

/-- Range of an integer format. -/
def intRange : Fmt → Int × Int
  | .int4 => (-8, 7)
  | .int8 => (-128, 127)
  | .int16 => (-32768, 32767)
  | .bil => (0, 1)
  | _ => (0, 0)

/-- Bits of an element of a format. -/
def fmtBits : Fmt → Nat
  | .int4 => 4
  | .int8 => 8
  | .int16 => 16
  | .bil => 1
  | .e4m3 => 8
  | .e5m2 => 8
  | .fp16 => 16
  | .bf16 => 16
  | .fp32 => 32
  | .reserved _ => 0

/-- Whether a format is one of the nine (R193). -/
def fmtOk : Fmt → Bool
  | .reserved _ => false
  | _ => true

/-- Integer value of a code of an integer format; bilevel is 0 or 1 (R196). -/
def intOf (f : Fmt) (code : Nat) : Int :=
  match f with
  | .bil => ((code % 2 : Nat) : Int)
  | f => signedOf (code % 2 ^ fmtBits f) (fmtBits f)

/-- Code of an integer in a format. -/
def codeOf (f : Fmt) (x : Int) : Nat := toField x (fmtBits f)

/-- Value of a code of a floating format; NaN for an integer one. -/
def fpOf (f : Fmt) (code : Nat) : FV :=
  match fpLay f with
  | some l => l.dec code
  | none => .nan

/-- Narrows to a floating format: code and saturation. -/
def narTo (f : Fmt) (v : FV) : Nat × Bool :=
  match fpLay f with
  | some l => l.nar v
  | none => (0, false)

/-- A format by its code (Table 7-1). -/
def fmtOf : Nat → Fmt
  | 0 => .int4
  | 1 => .int8
  | 2 => .int16
  | 3 => .e4m3
  | 4 => .e5m2
  | 5 => .fp16
  | 6 => .bf16
  | 7 => .fp32
  | 8 => .bil
  | n => .reserved n

/-- The zero element of a tensor: the zero point of an integer format, INT16's being 0, +0 of a floating one (Tables 7-1, 8-1). -/
def zeroCode (f : Fmt) (zp : Int) : Nat :=
  match f with
  | .int4 => codeOf .int4 zp
  | .int8 => codeOf .int8 zp
  | _ => 0

/-! ## exp2, recip, rsqrt -/

/-- The FP32 value nearest to a rational. -/
def q32 (q : Rat) : FV := r32 (.num q)

/-- Partial sum of the series of ln 2 = Σ 1 / (k · 2ᵏ), and of exp: exact rationals within 2⁻⁶⁰ of the real
number, so that one rounding to FP32 is the rounding of the real number. -/
def ln2Rat : Rat := (List.range 80).foldl (fun s k => s + 1 / (((k + 1) * 2 ^ (k + 1) : Nat) : Rat)) 0

/-- Partial sum of the exponential series at `x`. -/
def expRat (x : Rat) : Rat :=
  ((List.range 30).foldl (fun (st : Rat × Rat) k => (st.1 + st.2, st.2 * x / ((k + 1 : Nat) : Rat))) (0, 1)).1

/-- C1, C2, C3 of R289. -/
def expC1 : FV := q32 ln2Rat
/-- C2. -/
def expC2 : FV := q32 (ln2Rat * ln2Rat / 2)
/-- C3. -/
def expC3 : FV := q32 (ln2Rat * ln2Rat * ln2Rat / 6)
/-- T[j] = rna₃₂(2^(j / 64)). -/
def expT (j : Nat) : FV := q32 (expRat (ln2Rat * (j : Rat) / 64))

/-- A value and the count of saturations under R204 that led to it. -/
abbrev Cnt (α : Type) := α × Nat

/-- Rounds to FP32, counting a saturation. -/
def r32c (v : FV) : Cnt FV :=
  let r := lay32.nar v
  (lay32.dec r.1, b2n r.2)

/-- exp2 (R289). -/
def exp2 (x : FV) : Cnt FV :=
  match x with
  | .nan => (.nan, 0)
  | .inf n => if n then (.num 0, 0) else (.inf false, 0)
  | x =>
    let q := x.rat
    if q ≥ 128 then (lay32.dec lay32.maxCode, 1)
    else if q < -150 then (.num 0, 0)
    else
      let n := q.floor
      let f := q - (n : Rat)
      let j := (f * 64).floor.toNat
      let r : FV := .num (f - (j : Rat) / 64)
      let p := r32 ((expC3.mul r).add expC2)
      let p := r32 ((p.mul r).add expC1)
      let p := r32 ((p.mul r).add (.num 1))
      let y := r32 ((expT j).mul p)
      r32c (y.mul (.num (pow2 n)))

/-- Q[j] of R290. -/
def recipQ (j : Nat) : FV := q32 (1 / (1 + ((j : Rat) + 1 / 2) / 128))

/-- recip (R290). -/
def recip (x : FV) : Cnt FV :=
  match x with
  | .nan => (.nan, 0)
  | .inf n => (zeroOf n, 0)
  | x =>
    if x.isZero then (.inf x.isNeg, 0)
    else
      let k := ratLog2 (ratAbs x.rat)
      let a := ratAbs x.rat * pow2 (-k)
      let j := ((a - 1) * 128).floor.toNat
      let go := fun (y : FV) =>
        let h := r32 ((FV.num 1).sub ((FV.num a).mul y))
        r32 ((y.mul h).add y)
      let y := go (go (recipQ j))
      let r := r32c (y.mul (.num (pow2 (-k))))
      (if x.isNeg then r.1.neg else r.1, r.2)

/-- Whether a rational y satisfies y² ≤ q. -/
def sqLe (y q : Rat) : Bool := decide (y * y ≤ q)

/-- The bits of √q below a first guess, by bisection. -/
def sqrtBits : Nat → Rat → Rat → Rat → Rat
  | 0, _, y, _ => y
  | n + 1, q, y, step => if sqLe (y + step) q then sqrtBits n q (y + step) (step / 2) else sqrtBits n q y (step / 2)

/-- √q of a rational from 1 to 4 to within 2⁻⁶⁰, from below. -/
def sqrtRat (q : Rat) : Rat := sqrtBits 61 q 1 (1 / 2)

/-- S[j] of R291. -/
def rsqrtS (j : Nat) : FV := q32 (1 / sqrtRat (1 + ((j : Rat) + 1 / 2) / 64))

/-- rsqrt (R291). -/
def rsqrt (x : FV) : Cnt FV :=
  match x with
  | .nan => (.nan, 0)
  | .inf n => if n then (.nan, 0) else (.num 0, 0)
  | .negZero => (.inf true, 0)
  | .num q =>
    if q = 0 then (.inf false, 0)
    else if q < 0 then (.nan, 0)
    else
      let e := ratLog2 q
      let k := e / 2
      let a := q * pow2 (-(2 * k))
      let j := ((a - 1) * 64).floor.toNat
      let h : FV := .num (a / 2)
      let go := fun (y : FV) =>
        let t := r32 (y.mul y)
        let u := r32 ((FV.num (3 / 2)).sub (h.mul t))
        r32 (y.mul u)
      let y := go (go (go (rsqrtS j)))
      r32c (y.mul (.num (pow2 (-k))))

end Sys2Proof.Machine
end

