-- ==== Sys2Proof/Machine/Quant.lean ====
section
/-!
DEFINITION. Chapter 7: matrix steps, requantisation, dynamic blocks, look-up tables, wide re-runs, gradients and
moments (R196 to R231).
-/

namespace Sys2Proof.Machine

/-- Events that a step counts: NaN inputs to integer codes, bad scales, vector results saturated, saturated
requantised outputs (Table 7-9, R223). -/
structure QCnt where
  nan : Nat
  bad : Nat
  ovf : Nat
  sat : Nat
  deriving DecidableEq, Repr

/-- Nothing counted. -/
def QCnt.none : QCnt := ⟨0, 0, 0, 0⟩

/-- Sum of two counts. -/
def QCnt.add (a b : QCnt) : QCnt := ⟨a.nan + b.nan, a.bad + b.bad, a.ovf + b.ovf, a.sat + b.sat⟩

/-- A step's output: element codes in a format, and what it counted; `none` in place of one is a cell error. -/
structure QOut where
  fmt : Fmt
  codes : List Nat
  cnt : QCnt
  deriving DecidableEq, Repr

/-- Collects element results with their counts. -/
def collect (f : Fmt) (l : List (Nat × QCnt)) : QOut :=
  ⟨f, l.map (·.1), l.foldl (fun a e => a.add e.2) QCnt.none⟩

/-- An accumulator: integer or FP32 (R199, R200). -/
inductive Acc where
  | int (x : Int)
  | fp (v : FV)
  deriving DecidableEq, Repr

/-- Wraps an integer accumulator (R199). -/
def wrapAcc (bits : Nat) (x : Int) : Int := signedOf (toField x bits) bits

/-- Whether an FP32 scale is bad: NaN, infinite, or negative and non-zero (R210). -/
def badScale (v : FV) : Bool :=
  match v with
  | .nan => true
  | .inf _ => true
  | .negZero => false
  | .num q => decide (q < 0)

/-- −0 acts as 0. -/
def posZero (v : FV) : FV := if v.isZero then .num 0 else v

/-- The accumulator as an exact value. -/
def Acc.val : Acc → FV
  | .int x => .num (x : Rat)
  | .fp v => v

/-- Clamps an exact requantised code and says whether it saturated (R209). -/
def requantClamp (f : Fmt) (y lo hi : Int) (accNan : Bool) : Nat × QCnt :=
  let out := max lo (min y hi)
  (codeOf f out, ⟨b2n accNan, 0, 0, b2n (decide (y < lo) || decide (hi < y) || accNan)⟩)

/-- Requantisation of one output through its entry (R208 to R212); none is the cell error of R193 and R212. -/
def requant (entry : Nat) (acc : Acc) : Option (Nat × QCnt) :=
  let f := fmtOf (bitsOf entry 80 4)
  let mode := bitOf entry 89
  let mw := bitsOf entry 96 32
  let shift := bitsOf entry 90 6
  let ob := signedOf (bitsOf entry 64 16) 16
  let zp := signedOf (bitsOf entry 48 16) 16
  let lo := signedOf (bitsOf entry 32 16) 16
  let hi := signedOf (bitsOf entry 16 16) 16
  let sc := posZero (f32 mw)
  match fpLay f with
  | some l =>
    if !mode then none
    else if badScale sc then some (0, ⟨0, 1, 0, 1⟩)
    else
      let r := l.nar (acc.val.mul sc)
      some (r.1, ⟨0, 0, 0, b2n r.2⟩)
  | none =>
    if !fmtOk f ∨ f = .bil then none
    else if !mode then
      match acc with
      | .fp _ => none
      | .int a =>
        let p := a * signedOf mw 32
        let q := if shift = 0 then p else rnaDiv p (2 ^ shift)
        some (requantClamp f (q + zp + ob) lo hi false)
    else if badScale sc then
      some (codeOf f (max lo (min (zp + ob) hi)), ⟨0, 1, 0, 1⟩)
    else if sc.isZero then some (requantClamp f (zp + ob) lo hi (acc.val = .nan))
    else
      match acc.val.mul sc with
      | .nan => some (requantClamp f (zp + ob) lo hi true)
      | .inf neg => some (codeOf f (if neg then max lo (min lo hi) else max lo hi), ⟨0, 0, 0, 1⟩)
      | v => some (requantClamp f (rnaRat v.rat + zp + ob) lo hi false)

/-! ## Deriving entries -/

/-- The largest shift of R213 and its multiplier. -/
def deriveM (m : Rat) : Nat → Nat × Nat
  | 0 => ((rnaRat m).toNat, 0)
  | s + 1 =>
    let x := rnaRat (m * ((2 ^ (s + 1) : Nat) : Rat))
    if x ≤ 2 ^ 31 - 1 then (x.toNat, s + 1) else deriveM m s

/-- M and SHIFT from the real multiplier (R213). -/
def deriveEntry (fp32Mode : Bool) (m : Rat) : Nat × Nat :=
  if fp32Mode then (c32 (.num m), 0) else if m = 0 then (0, 0) else deriveM m 63

/-- The channel multipliers of a layer derived at boot (R213 to R215): M and SHIFT per channel, and the bad scales
counted. -/
def deriveLayer (d : ScaleDerive) : List (Nat × Nat) × Nat :=
  let g := f32 d.g
  if badScale g then (d.codes.map (fun _ => (0, 0)), d.codes.length)
  else
    let l := d.codes.map (fun e =>
      let s := fpOf .e4m3 e
      if badScale s then ((0, 0), 1)
      else (deriveEntry d.fp32Mode ((f32 d.sIn).rat * (s.rat * g.rat) / (f32 d.sOut).rat), 0))
    (l.map (·.1), (l.map (·.2)).foldl (· + ·) 0)

/-! ## Matrix steps -/

/-- How a matrix step runs: products per lane per step, accumulator bits (0 for FP32) (Table 7-3); none where no
row allows the combination. -/
def matKind (a w : Fmt) : Option (Nat × Nat) :=
  match a, w with
  | .int8, .int8 => some (48, 32)
  | .int8, .int4 => some (48, 32)
  | .int8, .bil => some (48, 32)
  | .int4, .int4 => some (96, 32)
  | .int4, .bil => some (96, 32)
  | .bil, .bil => some (96, 32)
  | .int16, .int16 => some (24, 48)
  | .int8, .int16 => some (24, 48)
  | .e4m3, .e4m3 => some (24, 0)
  | .e4m3, .e5m2 => some (24, 0)
  | .e5m2, .e4m3 => some (24, 0)
  | .e5m2, .e5m2 => some (24, 0)
  | .fp16, .fp16 => some (24, 0)
  | .fp16, .bf16 => some (24, 0)
  | .bf16, .fp16 => some (24, 0)
  | .bf16, .bf16 => some (24, 0)
  | _, _ => none

/-- Zero point of an operand: INT16 and BIL have none (R198). -/
def zpOf (f : Fmt) (z : Int) : Int := if f = .int4 ∨ f = .int8 then z else 0

/-- An integer reduction from its bias (R198, R199). -/
def dotInt (aF wF : Fmt) (bits : Nat) (za zw bias : Int) (a w : List Nat) : Int :=
  wrapAcc bits ((a.zip w).foldl (fun s e =>
    s + (intOf aF e.1 - zpOf aF za) * (intOf wF e.2 - zpOf wF zw)) bias)

/-- A floating reduction over given chunks (R200). -/
def dotFp (aF wF : Fmt) (chunks : List (List (Nat × Nat))) : FV :=
  chunks.foldl (fun acc ch => accStep acc (ch.map (fun e => (fpOf aF e.1).mul (fpOf wF e.2)))) (.num 0)

/-- The accumulator of one lane, its products already cut into chunks. -/
def laneAcc (aF wF : Fmt) (za zw bias : Int) (chunks : List (List (Nat × Nat))) : Option Acc :=
  match matKind aF wF with
  | none => none
  | some (_, 0) => some (.fp (dotFp aF wF chunks))
  | some (_, bits) =>
    let l := chunks.flatten
    some (.int (dotInt aF wF bits za zw bias (l.map (·.1)) (l.map (·.2))))

/-- Sequence of optional results. -/
def allSome {α : Type} : List (Option α) → Option (List α)
  | [] => some []
  | none :: _ => none
  | some a :: r => (allSome r).map (a :: ·)

/-- The output format of requantisation entries: that of the first. -/
def entryFmt (es : List Nat) : Fmt := fmtOf (bitsOf (es.headD 0) 80 4)

/-- Each step that meets a bad scale counts it once (R210). -/
def badOnce (o : QOut) : QOut := { o with cnt := { o.cnt with bad := Nat.min 1 o.cnt.bad } }

/-- The lanes of a matrix tile, requantised. -/
def matLanes (aF wF : Fmt) (za : Int) (lanes : List MatLane) : Option QOut :=
  match matKind aF wF with
  | none => none
  | some (g, _) =>
    let rs := lanes.map (fun l =>
      let ps := l.acts.zip l.wts
      (laneAcc aF wF za l.zw l.bias (chunksOf g (ps.length + 1) ps)).bind (requant l.entry))
    (allSome rs).map (fun r => badOnce (collect (entryFmt (lanes.map (·.entry))) r))

/-- The re-run condition of a tile (R223); the reserved WIDE code 0b11 asks for no re-run.
(DESIGN CHOICE, log entry 119) -/
def wideCond (q : QuantDesc) (sat outputs : Nat) : Bool :=
  decide (q.wide.val = 1 ∨ q.wide.val = 2) && decide (sat * 65536 > q.satThr.val * outputs)

/-- Weight format of a wide re-run by WIDE (Table 7-7). -/
def wideFmt (q : QuantDesc) : Fmt := if q.wide.val = 1 then .int16 else .fp16

/-! ## Vector operations -/

/-- One vector-cell result rounded to its format, a saturation counted (R202, R204). -/
def vecRound (f : Fmt) (v : FV) : Nat × QCnt :=
  let r := narTo f v
  (r.1, ⟨0, 0, b2n r.2, 0⟩)

/-- A floating value to an integer code (R205, R207). -/
def fpToInt (f : Fmt) (v : FV) (zp : Int) : Nat × QCnt :=
  let r := intRange f
  match v with
  | .nan => (codeOf f (clampInt r.1 r.2 zp), ⟨1, 0, 0, 0⟩)
  | .inf neg => (codeOf f (if neg then r.1 else r.2), QCnt.none)
  | v => (codeOf f (clampInt r.1 r.2 (rnaRat v.rat + zp)), QCnt.none)

/-- The exact value of an element: an integer element as its difference from the zero point. -/
def elemVal (t : Tensor) (code : Nat) : FV :=
  match fpLay t.fmt with
  | some l => l.dec code
  | none => .num ((intOf t.fmt code - zpOf t.fmt t.zp : Int) : Rat)

/-- An exact result rounded once to a destination format, integer ones with their zero point (R202, R204, R205). -/
def vecTo (out : Fmt) (zp : Int) (v : FV) : Nat × QCnt :=
  match fpLay out with
  | some _ => vecRound out v
  | none => fpToInt out v (zpOf out zp)

/-- Conversion between formats (R202, R205). -/
def convertOut (inp : Tensor) (out : Fmt) (zp : Int) : Option QOut :=
  if !fmtOk inp.fmt || !fmtOk out then none
  else some (collect out (inp.data.map (fun e => vecTo out zp (elemVal inp e))))

/-- Quantisation with the stored reciprocal scale (R207). -/
def quantiseOut (inp : Tensor) (r : Nat) (out : Fmt) (zp : Int) : Option QOut :=
  if !fmtOk inp.fmt || !fmtOk out || (fpLay out).isSome then none
  else some (collect out (inp.data.map (fun e => fpToInt out ((elemVal inp e).mul (f32 r)) zp)))

/-- An 8-bit plane to bilevel and back (R196). -/
def toBilOut (inp : Tensor) (thr : Nat) : Option QOut :=
  if !fmtOk inp.fmt then none
  else some ⟨.bil, inp.data.map (fun v => b2n (decide (v % 256 < thr))), QCnt.none⟩

/-- Bilevel to an 8-bit plane. -/
def fromBilOut (inp : Tensor) : Option QOut :=
  if !fmtOk inp.fmt then none
  else some ⟨.int8, inp.data.map (fun v => if v % 2 = 1 then 0 else 255), QCnt.none⟩

/-- A tile's input as its wide re-run takes it: integer elements stay integers beside INT16 weights, INT4 and BIL ones as the
INT8 codes of the same values, and become FP16 beside FP16 weights, exactly; so do FP8 elements. (DEDUCED, log entry 119) -/
def wideInput (wide : Fmt) (t : Tensor) : Tensor :=
  match t.fmt, wide with
  | .int4, .int16 => { t with fmt := .int8, data := t.data.map (fun c => codeOf .int8 (intOf .int4 c)) }
  | .bil, .int16 => { t with fmt := .int8, zp := 0, data := t.data.map (fun c => codeOf .int8 (intOf .bil c)) }
  | .fp16, _ => t
  | .bf16, _ => t
  | _, .fp16 => { t with fmt := .fp16, zp := 0, data := t.data.map (fun c => (narTo .fp16 (elemVal t c)).1) }
  | _, _ => t

/-- The wide re-run of a matrix tile (R224). -/
def wideMat (w : MatWork) : Option QOut :=
  let f := wideFmt w.quant
  let conv := fun (l : List Nat) => wideInput f ⟨w.aFmt, w.za, [], l⟩
  let t := conv []
  matLanes t.fmt f t.zp (w.lanes.map (fun l =>
    { l with acts := (conv l.acts).data, wts := l.wideWts, zw := 0, bias := l.wideBias, entry := l.wideEntry }))

/-! ## Dynamic blocks -/

/-- Fields of a scale entry (Table 7-6). -/
def seTag (e : ScaleEntry) : Nat := bitsOf e 56 8
/-- SCALE. -/
def seScale (e : ScaleEntry) : FV := fpOf .fp16 (bitsOf e 32 16)
/-- OFFSET. -/
def seOffset (e : ScaleEntry) : FV := f32 (bitsOf e 0 32)

/-- A scale entry from its fields. -/
def mkScale (tag scale offset : Nat) : ScaleEntry := (tag % 256) * 2 ^ 56 + scale * 2 ^ 32 + offset

/-- Smallest and largest finite element, 0 without one. -/
def finRange (xs : List FV) : FV × FV :=
  match xs.filter FV.fin with
  | [] => (.num 0, .num 0)
  | x :: r => (r.foldl FV.min x, r.foldl FV.max x)

/-- One dynamic block (R217).  A NaN element takes the lowest code and is not counted: QNT_FP.NAN counts the NaNs of R205
and R209 (Table 7-9). -/
def dynBlock (f : Fmt) (i : Nat) (xs : List FV) : ScaleEntry × List Nat × QCnt :=
  let (qmin, qmax) := intRange f
  let (lo, hi) := finRange xs
  let infs := b2n (xs.any (fun x => match x with | .inf _ => true | _ => false))
  if lo.rat = hi.rat then
    (mkScale i 0 (c32 lo), xs.map (fun _ => codeOf f qmin), ⟨0, 0, infs, 0⟩)
  else
    let r := narTo .fp16 (.num ((hi.rat - lo.rat) / ((qmax - qmin : Int) : Rat)))
    let code := if r.1 = 0 then 1 else r.1
    let sc := (fpOf .fp16 code).rat
    let q := fun (x : FV) => match x with
      | .nan => codeOf f qmin
      | .inf neg => codeOf f (if neg then qmin else qmax)
      | x => codeOf f (clampInt qmin qmax (rnaRat ((x.rat - lo.rat) / sc) + qmin))
    (mkScale i code (c32 lo), xs.map q, ⟨0, 0, infs + b2n r.2, 0⟩)

/-- Part of a tensor in dynamic blocks, the first of them block `first` of the tensor: codes, scale entries.
(DEDUCED, log entry 88) -/
def dynQuantOut (inp : Tensor) (blk first : Nat) (out : Fmt) : Option (QOut × List ScaleEntry) :=
  if !fmtOk inp.fmt || (out ≠ .int4 && out ≠ .int8) then none
  else
    let bs := chunksOf blk (inp.data.length + 1) (inp.data.map (elemVal inp))
    let rs := bs.mapIdx (fun i b => dynBlock out (first + i) b)
    some (⟨out, rs.flatMap (·.2.1), rs.foldl (fun a r => a.add r.2.2) QCnt.none⟩, rs.map (·.1))

/-- Element of a decoded block (R218). -/
def dynElem (f : Fmt) (e : ScaleEntry) (code : Nat) : FV :=
  let sc := seScale e
  if badScale sc then .nan
  else if sc.isZero then seOffset e
  else (seOffset e).add (sc.mul (.num ((intOf f code - (intRange f).1 : Int) : Rat)))

/-- Whether some block's TAG differs from its index, blocks `first` on (R219). -/
def tagSkew (scales : List ScaleEntry) (first blocks : Nat) : Bool :=
  (List.range blocks).any (fun i => decide (seTag (scales.getD i (mkScale (first + i + 1) 0 0)) ≠ (first + i) % 256))

/-- A tensor decoded from dynamic blocks to the consumer's format (R218). -/
def dynDequantOut (q : Tensor) (blk : Nat) (scales : List ScaleEntry) (out : Fmt) (zp : Int) : Option QOut :=
  if !fmtOk q.fmt || !fmtOk out then none
  else
    let bs := chunksOf blk (q.data.length + 1) q.data
    let rs := bs.mapIdx (fun i b =>
      let e := scales.getD i 0
      let o := collect out (b.map (fun code => vecTo out zp (dynElem q.fmt e code)))
      { o with cnt := { o.cnt with bad := b2n (badScale (seScale e)) } })
    some ⟨out, rs.flatMap (·.codes), rs.foldl (fun a r => a.add r.cnt) QCnt.none⟩

/-! ## Look-up tables -/

/-- The default code book value of a code (R227). -/
def lutVal (bits : Nat) (book : List Nat) (code : Nat) : FV :=
  if book ≠ [] then fpOf .fp16 (book.getD code 0)
  else if bits = 4 then .num ((signedOf code 4 : Int) : Rat)
  else .num (((code : Int) : Rat) - 3 / 2)

/-- Codes of `n` bits from their packed bytes, the first in the low bits (Table 7-1, R227). -/
def unpackBits (n : Nat) (l : List Byte) : List Nat :=
  l.flatMap (fun b => (List.range (8 / n)).map (fun j => bitsOf b.toNat (n * j) n))

/-- One output channel through the tables, block by block, its weights packed two or four to a byte (R227, R228); FP16 and
BF16 activations only. -/
def lutOut (bits : Nat) (book : List Nat) (x : Tensor) (wts : List Byte) (blk : Nat)
    (scales : List ScaleEntry) : Option QOut :=
  if x.fmt ≠ .fp16 ∧ x.fmt ≠ .bf16 then none
  else
  let bs := chunksOf blk (x.data.length + 1) (x.data.zip (unpackBits (if bits = 4 then 4 else 2) wts))
  let r := (bs.zip scales).foldl (fun (acc : FV × QCnt) e =>
    let p : FV := e.1.foldl (fun (s : FV) xc => s.add ((fpOf x.fmt xc.1).mul (lutVal bits book xc.2))) (.num 0)
    let sc : FV := if badScale (seScale e.2) then .nan else seScale e.2
    let v := lay32.nar (acc.1.add (p.mul sc))
    (f32 v.1, acc.2.add ⟨0, b2n (badScale (seScale e.2)), b2n v.2, 0⟩)) (.num 0, QCnt.none)
  some ⟨.fp32, [c32 r.1], r.2⟩

/-! ## Element-wise operators -/

/-- Element-wise sum or product of integers in 48 bits, requantised (R254). -/
def eltIntOut (f : Int → Int → Int) (a b : Tensor) (entry : Nat) : Option QOut :=
  if !fmtOk a.fmt || !fmtOk b.fmt then none
  else
  let rs := (a.data.zip b.data).map (fun e =>
    requant entry (.int (wrapAcc 48 (f (intOf a.fmt e.1 - zpOf a.fmt a.zp) (intOf b.fmt e.2 - zpOf b.fmt b.zp)))))
  (allSome rs).map (fun r => badOnce (collect (entryFmt [entry]) r))

/-- The operation of an element-wise floating operator. -/
def fpOp : FpOp → FV → FV → FV
  | .add => FV.add
  | .sub => FV.sub
  | .mul => FV.mul
  | .min => FV.min
  | .max => FV.max

/-- Element-wise floating operators, rounded once to the destination format (R202). -/
def eltFpOut (op : FpOp) (a b : Tensor) (out : Fmt) (zp : Int) : Option QOut :=
  if !fmtOk a.fmt || !fmtOk b.fmt || !fmtOk out then none
  else some (collect out ((a.data.zip b.data).map (fun e => vecTo out zp (fpOp op (elemVal a e.1) (elemVal b e.2)))))

/-- Multiply-add with one rounding (R202). -/
def mulAddOut (a b c : Tensor) (out : Fmt) (zp : Int) : Option QOut :=
  if !fmtOk a.fmt || !fmtOk b.fmt || !fmtOk c.fmt || !fmtOk out then none
  else some (collect out (((a.data.zip b.data).zip c.data).map (fun e =>
    vecTo out zp (((elemVal a e.1.1).mul (elemVal b e.1.2)).add (elemVal c e.2)))))

/-- A table of 256 output codes (R255). -/
def table256Out (tbl : List Nat) (inp : Tensor) : Option QOut :=
  if !fmtOk inp.fmt then none
  else some ⟨.int8, inp.data.map (fun v => tbl.getD (v % 256) 0), QCnt.none⟩

/-- The table-assisted functions on FP32 elements. -/
def funcOut (f : FpFun) (inp : Tensor) : Option QOut :=
  let g := match f with | .exp2 => exp2 | .recip => recip | .rsqrt => rsqrt
  if !fmtOk inp.fmt then none
  else some (collect .fp32 (inp.data.map (fun e =>
    let r := g (elemVal inp e)
    (c32 r.1, ⟨0, 0, r.2, 0⟩))))

/-! ## Bytes of a tensor -/

/-- Packs codes of `n` bits into bytes, the first in the low bits (Table 7-1). -/
def packBits (n : Nat) (codes : List Nat) : List Byte :=
  (chunksOf (8 / n) (codes.length + 1) codes).map (fun g =>
    BitVec.ofNat 8 (g.foldr (fun c acc => acc * 2 ^ n + c % 2 ^ n) 0))

/-- The bytes of element codes. -/
def tensorBytes (f : Fmt) (codes : List Nat) : List Byte :=
  match f with
  | .int4 => packBits 4 codes
  | .bil => packBits 1 codes
  | _ => codes.flatMap (fun c => leBytes (fmtBits f / 8) c)

/-! ## Training state -/

/-- A block of gradients in E5M2 codes with its exponent (R229). -/
structure GradBlk where
  e : Nat
  codes : List Nat
  deriving DecidableEq, Repr

/-- Stores up to 32 FP32 gradients. -/
def gradStore (g : List FV) : GradBlk :=
  if g.any (· = .nan) then ⟨255, g.map (fun _ => 0x7E)⟩
  else
    let a := (g.filter FV.fin).foldl (fun m x => if ratAbs x.rat > m then ratAbs x.rat else m) 0
    let e : Nat := if a = 0 then 0
      else ((List.range 255).find? (fun (e : Nat) => decide (a * pow2 (127 - (e : Int)) ≤ 57344))).getD 254
    ⟨e, g.map (fun x => (narTo .e5m2 (x.mul (.num (pow2 (127 - (e : Int)))))).1)⟩

/-- Decodes a stored gradient. -/
def gradDec (b : GradBlk) : List FV :=
  b.codes.map (fun c => if b.e = 255 then .nan else (fpOf .e5m2 c).mul (.num (pow2 ((b.e : Int) - 127))))

/-- A tensor of moments: G, block codes, element codes (R230). -/
structure Moments where
  g : Nat
  eb : List Nat
  q : List Int
  deriving DecidableEq, Repr

/-- Value of a moment element. -/
def momDec (second : Bool) (m : Moments) : List FV :=
  m.q.mapIdx (fun i q =>
    let d := (fpOf .e4m3 (m.eb.getD (i / 64) 0)).rat * (f32 m.g).rat
    let q := if q = -128 ∧ !second then -127 else q
    FV.num (((if second then q + 128 else q : Int) : Rat) * d))

/-- Stores moments (R230). -/
def momStore (second : Bool) (x : List FV) : Moments :=
  let amax := fun (l : List FV) => l.foldl (fun m v => if ratAbs v.rat > m then ratAbs v.rat else m) (0 : Rat)
  let a := amax x
  let qn : Rat := if second then 255 else 127
  let g := if a = 0 then c32 (.num 1) else c32 (.num (a / (qn * 448)))
  let gv := (f32 g).rat
  let blocks := chunksOf 64 (x.length + 1) x
  let eb := blocks.map (fun b =>
    let ab := amax b
    let e := (narTo .e4m3 (.num (ab / (qn * gv)))).1
    if e = 0 ∧ ab ≠ 0 then 1 else e)
  let q := (blocks.zip eb).flatMap (fun be =>
    let d := (fpOf .e4m3 be.2).rat * gv
    be.1.map (fun v =>
      let r := if d = 0 then 0 else rnaRat (v.rat / d)
      if second then clampInt (-128) 127 (r - 128) else clampInt (-127) 127 r))
  ⟨g, eb, q⟩

end Sys2Proof.Machine
end

