-- ==== Sys2Proof/Machine/Parts3.lean ====
section
/-!
DEFINITION. More parts of the device's state: the key-value cache (chapter 9) and in-service adaptation
(chapter 11).
-/

namespace Sys2Proof.Machine

/-- An allocated page set: area (true: overflow), first page, pages, reference count (R277), and whether the LC
reservation is charged for it (R264). -/
structure KvSet where
  ovf : Bool
  base : Nat
  pages : Nat
  refs : Nat
  resv : Bool
  deriving DecidableEq, Repr

/-- A table slot: selector fields (Table 9-3), the two copies of entries (Table 9-4) and their RETIRE epochs
(R272). -/
structure KvSlot where
  gen : Nat
  cur : Nat
  layers : Nat
  owner : Nat
  used : Bool
  anchor : Bool
  copy0 : List (BitVec 32)
  copy1 : List (BitVec 32)
  retire0 : Nat
  retire1 : Nat
  /-- The last allocation for the sequence failed (R266). -/
  starved : Bool
  /-- GEN of the copy that is not published. -/
  prev : Nat
  deriving DecidableEq, Repr

/-- A cleared table slot. -/
def KvSlot.cold : KvSlot :=
  { prev := 0, gen := 0, cur := 0, layers := 0, owner := 0, used := false, anchor := false, copy0 := [], copy1 := [],
    retire0 := 0, retire1 := 0, starved := false }

/-- A page walker's entry buffer: up to 64 entries of a table slot read ahead from the copy of a generation, the first of
them entry `first` (R68). -/
structure WalkBuf where
  slot : Nat
  gen : Nat
  first : Nat
  entries : List (BitVec 32)
  deriving DecidableEq, Repr

/-- The key-value cache: slots, allocated sets, sets in limbo with their tags (R273), the epoch E, edits that
wait (R272), the walkers' entry buffers by physical block 9 r + b. -/
structure Kv where
  slots : SMap KvSlot
  sets : List KvSet
  limbo : List (KvSet × Nat)
  epoch : Nat
  waiting : List KvEdit
  /-- An edit at the head of the queue has been counted in EDIT_WAIT. -/
  counted : Bool
  bufs : SMap (Option WalkBuf)
  deriving DecidableEq, Repr

/-- The cache after a cold reset or a warm restart (R276). -/
def Kv.cold : Kv := { slots := [], sets := [], limbo := [], epoch := 0, waiting := [], counted := false, bufs := [] }

/-- An example of a correction (R327): structuring (context tokens) or recognition (line image). -/
structure Example where
  item : Nat
  line : Bool
  index : Nat
  ctx : List Nat
  target : List Nat
  image : List Byte
  /-- Local time of its acceptance, ns. -/
  at_ : Nat
  /-- Updates abandoned with it (R332). -/
  tries : Nat
  deriving DecidableEq, Repr

/-- A sample entry of the ring (Table 11-1). -/
structure Sample where
  item : Nat
  origin : Nat
  sheet : Option Nat
  sets : List Nat
  fields : Nat
  tokens : List Nat
  starts : List Nat
  /-- First line slot used, line images overwritten since, and the line images still held. -/
  firstSlot : Nat
  gone : Nat
  lines : List (List Byte)
  /-- Corrections accepted against it: line, index. -/
  done : List (Bool × Nat)
  deriving DecidableEq, Repr

/-- The training state of a set: BF16 masters and moments (R230 to R232). -/
structure Train where
  w : List Nat
  m : Moments
  v : Moments
  deriving DecidableEq, Repr

/-- An adapter set in service (R319 to R333). -/
structure AdSet where
  /-- The training buffer that no update writes next: the state before the last one (R332). -/
  prev : Train
  /-- Page-table slot of the training sequence (R329). -/
  kvSlot : Option Nat
  /-- BF16 codes of copies 0 and 1: A then B of each projection. -/
  copy0 : List Nat
  copy1 : List Nat
  train : Train
  batch : List GradBlk
  updates : Nat
  sinceGate : Nat
  accepted : Nat
  queue : List Example
  holdout : List Example
  running : Option (List Example)
  /-- The running update is cancelled at its next step boundary (R337). -/
  cancel : Bool
  /-- A candidate that waits for the unpublished copy (R323), and whether its wait has been counted. -/
  cand : Option (List Nat)
  waited : Bool
  /-- CUR flips at the next course boundary. -/
  flip : Bool
  deriving DecidableEq, Repr

/-- A set with nothing in it. -/
def AdSet.cold : AdSet :=
  { prev := ⟨[], ⟨0, [], []⟩, ⟨0, [], []⟩⟩, kvSlot := none,
    copy0 := [], copy1 := [], train := ⟨[], ⟨0, [], []⟩, ⟨0, [], []⟩⟩, batch := [], updates := 0, sinceGate := 0,
    accepted := 0, queue := [], holdout := [], running := none, cancel := false, cand := none, waited := false, flip := false }

/-- In-service adaptation. -/
structure Adapt where
  sets : SMap AdSet
  /-- The sample ring, oldest first, and the next line slot. -/
  samples : List Sample
  nextSlot : Nat
  /-- INFER_OFF as the last course boundary took it (R338). -/
  inferOff : Bool
  /-- Sets and copies an adapter commit holds (R323). -/
  commit : List (Nat × Nat)
  deriving DecidableEq, Repr

/-- Adaptation after reset. -/
def Adapt.cold : Adapt :=
  { sets := [], samples := [], nextSlot := 0, inferOff := false, commit := [] }

end Sys2Proof.Machine
end

