-- ==== Sys2Proof/Machine/Parts4.lean ====
section
/-!
DEFINITION. More parts of the device's state: reset and boot, fuses, flash, management (chapters 16 to 18).
-/

namespace Sys2Proof.Machine

/-- One set of a commit in an adapter area: set, model hash, model, rank, shapes, BF16 codes (R334).
(DESIGN CHOICE, log entry 11) -/
structure AreaSet where
  set : Nat
  hash : List Byte
  model : Bool
  rank : Nat
  shapes : List (Nat × Nat)
  data : List Nat
  deriving DecidableEq, Repr

/-- The content of an adapter area that verifies: the commit sequence number and its sets.
(DESIGN CHOICE, log entry 11) -/
structure Area where
  num : Nat
  sets : List AreaSet
  deriving DecidableEq, Repr

/-- A flash device (Table 16-5): its bytes below the adapter area, erased bytes read 0xFF; whether it answers as R495
asks; the adapter area, none when it does not verify; the bottom trees its attestation state records (R509). -/
structure Flash where
  data : SMap Byte
  fits : Bool
  area : Option Area
  trees : List Nat
  deriving DecidableEq, Repr

/-- An erased device. (DESIGN CHOICE, log entry 9) -/
def Flash.erased : Flash := { data := [], fits := true, area := none, trees := [] }

/-- The fuses that can be programmed in the field: the anti-rollback counter, the customer root, the wrap key, the
safe-hold port and mode (R498, R503, R510, R511). -/
structure Fuses where
  svn : Nat
  customer : Option (List Byte)
  wrap : Option (List Byte)
  netPort : Nat
  netMode : Nat
  deriving DecidableEq, Repr

/-- Fuses as manufactured. (DESIGN CHOICE, log entry 9) -/
def Fuses.blank : Fuses := { svn := 0, customer := none, wrap := none, netPort := 0, netMode := 0 }

/-- Reset and boot (R489 to R502, R535 to R544). -/
structure Boot where
  /-- The device is held in reset; PORST_N has risen with the R541 conditions; it is too hot. -/
  held : Bool
  pin : Bool
  hot : Bool
  /-- VIO is present; what the NX16 drives XSPIA_RST_N and XSPIB_RST_N to, none while they are high-impedance (R537). -/
  vio : Bool
  xspiRst : Option Bool
  /-- I2C_ADDR1 and I2C_ADDR0 as sampled. -/
  straps : Nat
  /-- The boot under way or done began with a cold reset. -/
  cold : Bool
  /-- Flash devices still to be tried, the candidate first. -/
  cands : List Nat
  /-- Stages of Table 16-1 that have ended: B, C, D, E, F, G, H. -/
  verified : Bool
  firmware : Bool
  sections : Bool
  trained : Bool
  inited : Bool
  tested : Bool
  adapters : Bool
  /-- DIGEST of the candidate or running image. -/
  digest : List Byte
  /-- A restart has been accepted: the time in ns (R515). -/
  closing : Option Nat
  /-- The bottom tree in use, none before the first signature of this boot (R509). -/
  tree : Option Nat
  /-- Channel multipliers and shifts derived from the image's scales, layer by layer (R213). -/
  derived : List (List (Nat × Nat))
  deriving DecidableEq, Repr

/-- Held in reset at power-on. (DESIGN CHOICE, log entry 9) -/
def Boot.powerOn : Boot :=
  { held := true, pin := false, hot := false, vio := false, xspiRst := none, straps := 0, cold := true, cands := [], verified := false,
    firmware := false, sections := false, trained := false, inited := false, tested := false, adapters := false,
    digest := [], closing := none, tree := none, derived := [] }

/-- What the management core latches for one NMP role (R525). -/
structure Latch where
  epochHi : Nat
  secHi : Nat
  ns : Nat
  frac : Nat
  /-- LDG_ITEM_1 to LDG_ITEM_7. -/
  items : List Nat
  evtHi : Nat
  evtNs : Nat
  deriving DecidableEq, Repr

/-- Nothing latched yet. -/
def Latch.cold : Latch := { epochHi := 0, secHi := 0, ns := 0, frac := 0, items := [0, 0, 0, 0, 0, 0, 0], evtHi := 0, evtNs := 0 }

/-- One NMP role: the last accepted request's SEQ and body, and the response to it (R512). -/
structure NmpRole where
  last : Option (Nat × List Byte)
  resp : List (List Byte)
  latch : Latch
  deriving DecidableEq, Repr

/-- No request accepted since boot. -/
def NmpRole.cold : NmpRole := { last := none, resp := [], latch := Latch.cold }

/-- What a long operation keeps beside LONG_STAT_h and LONG_HND_h: the starting role, the flash device or stream it
works on, IMAGE_LEN, the staged ranges written so far in ascending order, the empty option, an abort asked for, a staged
byte that failed the operation, the higher ACTIVATION at the staging's start, when it ended in ns (R516, R517). -/
structure LongOp where
  role : Nat
  target : Nat
  len : Nat
  got : List (Nat × Nat)
  empty : Bool
  abort : Bool
  bad : Bool
  rank : Nat
  endedAt : Option Nat
  deriving DecidableEq, Repr

/-- An unused entry. -/
def LongOp.cold : LongOp :=
  { role := 0, target := 0, len := 0, got := [], empty := false, abort := false, bad := false,
    rank := 0, endedAt := none }

/-- Management: NMP roles 0 to 3, unwrapped role keys, long operations and the next handle, the I²C index, the
instruction in force in the JTAG port. -/
structure Mgmt where
  roles : SMap NmpRole
  keys : List (Nat × List Byte)
  ops : SMap LongOp
  nextHandle : Nat
  i2cIndex : Nat
  i2cOut : List Byte
  jtag : JtagInstr
  deriving DecidableEq, Repr

/-- Management after reset. -/
def Mgmt.cold : Mgmt :=
  { roles := [], keys := [], ops := [], nextHandle := 1, i2cIndex := 0, i2cOut := [], jtag := .bypass }

end Sys2Proof.Machine
end

