-- ==== Sys2Proof/Machine/State.lean ====
section
/-!
DEFINITION. The state of the NX16: everything the manual gives the device, as plain data, the reasons
a command can stop, and the state right after power-on with PORST_N low.
-/

namespace Sys2Proof.Machine

/-- The device: everything but the queue of waiting commands. -/
structure Chip where
  /-- Words of the management object map, by address; a register not listed reads its cold word. -/
  regs : SMap Word
  /-- Free values drawn so far: the model's own field (DESIGN CHOICE, log entry 7). -/
  free : Nat
  /-- The configuration that SECTIONS_LOADED took from the image (log entry 27). -/
  image : ImageConfig
  clock : Clock
  fabric : Fabric
  mem : Mem
  sched : Sched
  recov : Recov
  streams : SMap Stream
  transports : SMap Transport
  items : Items
  subs : SMap Subm
  formed : List Formed
  net : Net
  servo : Servo
  sessions : SMap Session
  kv : Kv
  adapt : Adapt
  boot : Boot
  fuses : Fuses
  flash : List Flash
  mgmt : Mgmt
  deriving DecidableEq, Repr

/-- The device at power-on, with PORST_N low. -/
def Chip.powerOn : Chip :=
  { regs := [], free := 0, image := ImageConfig.blank, clock := Clock.cold, fabric := Fabric.cold,
    mem := Mem.cold, sched := Sched.cold, recov := Recov.cold, streams := [], transports := [],
    items := Items.cold, subs := [], formed := [],
    net := Net.cold, servo := Servo.cold, sessions := [],
    kv := Kv.cold, adapt := Adapt.cold, boot := Boot.powerOn, fuses := Fuses.blank,
    flash := [Flash.erased, Flash.erased], mgmt := Mgmt.cold }

/-- Why the machine stops with a fault. -/
inductive Fault where
  /-- Raised by an operation that names a memory address that does not exist.  Safe. -/
  | noSuchAddress
  deriving DecidableEq, Repr

/-- Why a command has no meaning. -/
inductive Refusal where
  /-- Raised by an arm of exec that has no meaning yet; none is left.  Safe. -/
  | notModelled (mnemonic : String)
  deriving DecidableEq, Repr

/-- The machine: the queue of waiting commands, first in first out, and the device. -/
structure State where
  pending : List Instr
  chip : Chip
  deriving DecidableEq, Repr

/-- Right after power-on: no command waits, PORST_N is low. (DESIGN CHOICE, log entry 9) -/
def State.reset : State := { pending := [], chip := Chip.powerOn }

end Sys2Proof.Machine
end

