-- ==== Sys2Proof/Machine/Regs.lean ====
section
/-!
DEFINITION. Access to the registers of the management object map: addresses, words, fields, the
saturating counters (R527), reset words (R7, R523, Table 17-9).
-/

namespace Sys2Proof.Machine

/-- The outcome of a command. -/
abbrev R := Host.Outcome State Fault Refusal

/-- A command whose effect lies wholly on the device: the queue stays. -/
def State.upd (s : State) (f : Chip → Chip) : R := .next { s with chip := f s.chip }

/-- The address of instance `i`, `j` of a register (R533). -/
def Reg.addr (r : Reg) (i j : Nat) : Nat := r.info.base + r.info.s1 * i + r.info.s2 * j

/-- Whether an address is one of a row's instances, and which. -/
def Reg.locate (r : Reg) (a : Nat) : Option (Nat × Nat) :=
  let d := r.info
  if a < d.base then none
  else
    let o := a - d.base
    let i := if d.s1 = 0 then 0 else if d.s2 = 0 ∨ d.s2 < d.s1 then o / d.s1 else 0
    let o' := o - d.s1 * i
    let j := if d.s2 = 0 then 0 else o' / d.s2
    if i < d.n1 ∧ j < d.n2 ∧ d.s1 * i + d.s2 * j = o then some (i, j) else none

/-- The row of Table 17-10 that an address belongs to (R521). (DESIGN CHOICE, log entry 37) -/
def findReg (a : Nat) : Option (Reg × Nat × Nat) :=
  allRegs.findSome? (fun r => (r.locate a).map (fun ij => (r, ij.1, ij.2)))

/-- Whether a row of Table 17-10 has an instance `i`, `j`. (DESIGN CHOICE, log entry 37) -/
def Reg.has (r : Reg) (i j : Nat) : Bool := decide (i < r.info.n1 ∧ j < r.info.n2)

/-- The word a register instance holds; one that was never written holds its cold reset word.
(DESIGN CHOICE, log entry 37) -/
def Chip.word (c : Chip) (r : Reg) (i j : Nat := 0) : Nat :=
  (if r.has i j then smGet (BitVec.ofNat 32 r.info.cold) c.regs (r.addr i j) else BitVec.ofNat 32 r.info.cold).toNat

/-- Sets a register instance's whole word; an instance that the row does not have stores nothing.
(DESIGN CHOICE, log entry 37) -/
def Chip.setWord (c : Chip) (r : Reg) (i j : Nat) (v : Nat) : Chip :=
  { c with regs := if r.has i j then smSet (BitVec.ofNat 32 r.info.cold) c.regs (r.addr i j) (BitVec.ofNat 32 v) else c.regs }

/-- A field of a register instance. -/
def Chip.get (c : Chip) (f : Fld) (i : Nat := 0) (j : Nat := 0) : Nat :=
  bitsOf (c.word f.reg i j) f.lo f.w

/-- A one-bit field. -/
def Chip.flag (c : Chip) (f : Fld) (i : Nat := 0) (j : Nat := 0) : Bool := c.get f i j ≠ 0

/-- Sets a field of a register instance; the rest of the word stays. -/
def Chip.put (c : Chip) (f : Fld) (v : Nat) (i : Nat := 0) (j : Nat := 0) : Chip :=
  c.setWord f.reg i j (putBits (c.word f.reg i j) f.lo f.w v)

/-- Sets a one-bit field. -/
def Chip.putB (c : Chip) (f : Fld) (v : Bool) (i : Nat := 0) (j : Nat := 0) : Chip :=
  c.put f (b2n v) i j

/-- Counts `n` more events in a counter that holds its largest value when it is full (R527). -/
def Chip.bump (c : Chip) (f : Fld) (i : Nat := 0) (j : Nat := 0) (n : Nat := 1) : Chip :=
  c.put f (Nat.min (c.get f i j + n) (2 ^ f.w - 1)) i j

/-- Counts in a wrapping counter. -/
def Chip.wrap (c : Chip) (f : Fld) (i : Nat := 0) (j : Nat := 0) (n : Nat := 1) : Chip :=
  c.put f (c.get f i j + n) i j

/-- A field where 0 acts as another value. -/
def actsAs (v dflt : Nat) : Nat := if v = 0 then dflt else v

/-- The word of one register instance after a restart: kept fields stay (R7), fields the image gives are
loaded later (R523), everything else takes its cold value. -/
def warmWord (info : RegInfo) (w : Nat) : Nat :=
  (w &&& info.kept) ||| (info.cold - (info.cold &&& info.kept))

/-- All registers after a warm restart's reset: only kept fields differ from the cold words. -/
def warmRegs (m : SMap Word) : SMap Word :=
  m.filterMap (fun (a, w) =>
    match findReg a with
    | none => none
    | some (r, _, _) =>
      let v := BitVec.ofNat 32 (warmWord r.info w.toNat)
      if v = BitVec.ofNat 32 r.info.cold then none else some (a, v))

/-- Loads the words of configuration section 7 into the fields the image gives (R523); a warm load leaves
kept fields alone. -/
def loadImageWord (warm : Bool) (c : Chip) (aw : Nat × Word) : Chip :=
  match findReg aw.1 with
  | none => c
  | some (r, i, j) =>
    let m := if warm then r.info.imgWarm else r.info.img
    let old := c.word r i j
    c.setWord r i j ((old - (old &&& m)) ||| (aw.2.toNat &&& m))

/-- The instances of a row, in address order. -/
def Reg.instances (r : Reg) : List (Nat × Nat) :=
  (List.range r.info.n1).flatMap (fun i => (List.range r.info.n2).map (fun j => (i, j)))

/-- Resets the machine-given fields of one register to their cold word, for a register whose warm
value is a constant. -/
def Chip.clearReg (c : Chip) (r : Reg) (i j : Nat) : Chip := c.setWord r i j r.info.cold

/-- Folds an update over the numbers below `n`. -/
def foldN (n : Nat) (f : Chip → Nat → Chip) (c : Chip) : Chip := (List.range n).foldl f c

/-- Bits set in a mask, lowest first. -/
def maskBits (w m : Nat) : List Nat := (List.range w).filter (fun i => bitOf m i)

end Sys2Proof.Machine
end

