-- ==== Sys2Proof/Machine/Fabric.lean ====
section
/-!
DEFINITION. Chapter 2: rename maps, replica rings, the pace governor and the fences.
-/

namespace Sys2Proof.Machine

/-- Physical block of a logical block (Table 2-13). -/
def Chip.physBlock (c : Chip) (r lb : Nat) : Nat := bitsOf (c.word .REGION_MAP r) (4 * lb) 4

/-- The physical blocks that the region's map schedules. -/
def Chip.scheduled (c : Chip) (r : Nat) : List Nat := (List.range 8).map (c.physBlock r)

/-- Logical block that a physical block stands for, if any. -/
def Chip.logBlock (c : Chip) (r p : Nat) : Option Nat :=
  (List.range 8).find? (fun lb => c.physBlock r lb = p)

/-- Physical matrix site of logical M0 to M3 in a physical block (Table 2-14). -/
def Chip.physMatrix (c : Chip) (r p m : Nat) : Nat := bitsOf (c.word .CELL_MAP r p) (3 * m) 3

/-- Physical vector site (0 to 2) of logical V0, V1. -/
def Chip.physVector (c : Chip) (r p v : Nat) : Nat := bitsOf (c.word .CELL_MAP r p) (12 + 3 * v) 3

/-- Physical text cell site of logical T0 to T3 (Table 2-15). -/
def Chip.physText (c : Chip) (t : Nat) : Nat := bitsOf (c.word .UNIT_MAP) (3 * t) 3

/-- Physical decode lane of logical D0 to D3. -/
def Chip.physLane (c : Chip) (d : Nat) : Nat := bitsOf (c.word .UNIT_MAP) (12 + 3 * d) 3

/-- A rename-map word as it will read after the next boundary: changes due at one boundary add up (R65). -/
def Chip.mapSoon (c : Chip) (r : Reg) (i j : Nat) : Nat :=
  match smGet none c.fabric.mapPend (r.addr i j) with
  | some w => w.toNat
  | none => c.word r i j

/-- Makes a graft's map change due at the next course boundary (R63). -/
def Chip.mapLater (c : Chip) (r : Reg) (i j : Nat) (w : Nat) : Chip :=
  { c with fabric := { c.fabric with
      mapPend := smSet none c.fabric.mapPend (r.addr i j) (some (BitVec.ofNat 32 w)) } }

/-- The region whose map a rename-map address holds; the unit map belongs to region 4. -/
def mapRegion (a : Nat) : Nat :=
  match findReg a with
  | some (.REGION_MAP, r, _) => r
  | some (.CELL_MAP, r, _) => r
  | _ => 4

/-- RENAME_MAP_CHANGE: the due changes of the regions that `ready` holds for take effect (R63, R65). -/
def Chip.applyMaps (c : Chip) (ready : Nat → Bool) : Chip :=
  let go := c.fabric.mapPend.filter (fun e => ready (mapRegion e.1))
  let stay := c.fabric.mapPend.filter (fun e => !ready (mapRegion e.1))
  let c := go.foldl (fun c e =>
    match e.2, findReg e.1 with
    | some w, some (r, i, j) => c.setWord r i j w.toNat
    | _, _ => c) c
  { c with fabric := { c.fabric with mapPend := stay } }

/-- The number of a ring in the governor's course minima. -/
def ringNo : Ring → Nat
  | .blk r b => 9 * r.val + b.val
  | .mem q => 36 + q.val

/-- The register that reports a ring (Table 2-4). -/
def ringReg : Ring → Reg × Nat × Nat
  | .blk r b => (.PACE_BLK, r.val, b.val)
  | .mem q => (.PACE_MEM, q.val, 0)

/-- What is kept of a ring. -/
def Chip.ring (c : Chip) (k : Nat) : RingMem := smGet RingMem.cold c.fabric.rings k

/-- Updates what is kept of a ring. -/
def Chip.modRing (c : Chip) (k : Nat) (f : RingMem → RingMem) : Chip :=
  { c with fabric := { c.fabric with rings := smMod RingMem.cold c.fabric.rings k f } }

/-- The pace of a window of 10 µs in M steps/s: the count scaled by the ring's trim factor gives steps in 10 µs, and a
tenth of that is M steps/s (R39).  The fraction is dropped and the reading held to the field's 12 bits.
(PRESUMED, log entry 112) -/
def paceOf (k count : Nat) : Nat := Nat.min (count * Config.trimNum k / (10 * (Config.trimDen k + 1))) 4095

/-- The smaller of a reading and the one kept, if any. -/
def lowest (o : Option Nat) (v : Nat) : Nat := match o with | none => v | some m => Nat.min m v

/-- PACE_WINDOW: a window of 10 µs closes on one ring (R39 to R41).  LOW takes the lowest window since its last read, one
that reads 0 included (Table 2-4). -/
def Chip.paceWindow (c : Chip) (ring : Ring) (count : Nat) : Chip :=
  let k := ringNo ring
  let v := paceOf k count
  let (r, i, j) := ringReg ring
  let x := c.ring k
  let w := c.word r i j
  let c := c.setWord r i j (putBits (putBits w 20 12 v) 8 12 (lowest x.low v))
  c.modRing k (fun x => { last := some v, min := some (lowest x.min v), low := some (lowest x.low v) })

/-- A read of a PACE_BLK or PACE_MEM register restarts LOW, and nothing that the governor keeps (R41, Table 2-4). -/
def Chip.lowRead (c : Chip) (r : Reg) (i j : Nat) : Chip :=
  match r with
  | .PACE_BLK => c.modRing (9 * i + j) (fun x => { x with low := none })
  | .PACE_MEM => c.modRing (36 + i) (fun x => { x with low := none })
  | _ => c

/-- A ring's contribution to PMIN: its course minimum, or its last completed window; none while it has completed none
(R41). -/
def Chip.ringPace (c : Chip) (k : Nat) : Option Nat :=
  match (c.ring k).min with
  | some m => some m
  | none => (c.ring k).last

/-- The physical blocks whose rings govern: those that the maps schedule, grafted spares included, in regions in
service, and not failed (R40, R41). -/
def Chip.governed (c : Chip) : List (Nat × Nat) :=
  (List.range 4).flatMap (fun r =>
    if c.recov.failedRegion.getD r true then []
    else ((c.scheduled r).filter (fun b => !bitOf (c.get F.SPARE_HEALTH_BLK_FAILED r) b)).map (fun b => (r, b)))

/-- PMIN and the ring that gave it, over the governed blocks that have a reading; of equal readings the first in order
of region and logical block (R41).  A window that reads 0 counts. -/
def Chip.pmin (c : Chip) : Option (Nat × Nat) :=
  (c.governed.filterMap (fun e => (c.ringPace (9 * e.1 + e.2)).map (fun v => (v, 9 * e.1 + e.2)))).foldl (fun m x =>
    match m with
    | none => some x
    | some y => if x.1 < y.1 then some x else some y) none

/-- What the governor does in one course: a request in mV, or none; whether it raises, lowers, or was clipped at 0.900 V;
whether the cap was not met (R41 to R43). -/
structure GovAct where
  request : Option Nat
  raised : Bool
  lowered : Bool
  atMax : Bool
  unmet : Bool
  deriving DecidableEq, Repr

/-- The decision table of R41 to R43; no request leaves the range of R42, whatever the regulator reads.  `v` is VCORE in
mV, `pout` the power in 0.01 W; `was` is CAP_UNMET so far, which stays until a course meets the cap (R43).
(DEDUCED, log entry 28) -/
def govern (pmin v pout capW hyst margin : Nat) (was : Bool := false) : GovAct :=
  let target := 850 + Nat.max margin 26
  let cap := if capW = 0 then 0 else 100 * Nat.min 65 (Nat.max 20 capW)
  let tooMuch := decide (cap ≠ 0 ∧ pout > cap)
  let low := Nat.min 900 (Nat.max 650 (v - 5))
  if pmin < 850 then ⟨some 900, true, false, false, tooMuch⟩
  else if pmin < target then ⟨some (Nat.min 900 (Nat.max 650 (v + 10))), true, false, decide (v + 10 > 900), tooMuch⟩
  else if tooMuch then
    if pmin < target + 10 then ⟨none, false, false, false, true⟩
    else ⟨some low, false, true, false, was⟩
  else if pmin ≥ target + actsAs hyst 1 then ⟨some low, false, true, false, false⟩
  else ⟨none, false, false, false, false⟩

/-- The reports of PMIN that every course leaves in GOV_STATUS, and the R44 condition: VCORE stands at 0.900 V when this
course's READ_VOUT is 900 mV or more. (DESIGN CHOICE, log entry 115) -/
def Chip.reportPmin (c : Chip) : Chip :=
  match c.pmin with
  | none => { c with fabric := { c.fabric with belowAtMax := false } }
  | some (p, blk) =>
    let below := decide (p < 850)
    let c := c.put F.GOV_STATUS_PMIN (Nat.min p 4095)
    let c := c.put F.GOV_STATUS_PMIN_BLK blk
    let c := c.putB F.GOV_STATUS_BELOW_FLOOR below
    { c with fabric := { c.fabric with
        belowAtMax := below && decide (c.get F.GOV_STATUS_VCORE_MV ≥ 900) } }

/-- The governor stops issuing requests (R45). -/
def Chip.pmbFault (c : Chip) : Chip := c.putB F.GOV_STATUS_PMB_FAULT true

/-- The regulator's answer of this course: the two readings, or one more failed transaction; one failure at most is
counted in a course (R45).  A stopped governor reads on, since R44 still applies. (DESIGN CHOICE, log entry 115) -/
def Chip.pmbRead (c : Chip) (a : Option PmbIn) : Chip :=
  match a with
  | some a =>
    let c := c.put F.GOV_STATUS_VCORE_MV (Nat.min a.voutMv 1023)
    let c := c.put F.GOV_POWER_POUT_CW (Nat.min a.poutCw 65535)
    { c with fabric := { c.fabric with pmbFails := 0 } }
  | none =>
    let n := c.fabric.pmbFails + 1
    let c := { c with fabric := { c.fabric with pmbFails := n } }
    if n ≥ 3 then c.pmbFault else c

/-- Restarts the course minima of all rings (R41). -/
def Chip.clearMinima (c : Chip) : Chip :=
  foldN 40 (fun c k => c.modRing k (fun x => { x with min := none })) c

/-- The governor's request of one course; AT_MAX speaks of the last request, so a course without one leaves it
(Table 2-6). -/
def Chip.governAct (c : Chip) (a : GovAct) : Chip :=
  let c := c.putB F.GOV_STATUS_CAP_UNMET a.unmet
  let c := if a.raised then c.bump F.GOV_POWER_RAISE_CNT else c
  let c := if a.lowered then c.bump F.GOV_POWER_LOWER_CNT else c
  match a.request with
  | none => c
  | some v =>
    let c := c.putB F.GOV_STATUS_AT_MAX a.atMax
    { c with fabric := { c.fabric with request := v } }

/-- GOVERNOR_EVALUATE and PMBUS_FAULT at a course boundary (R41 to R45).  A course whose transaction failed makes no
request of any kind. (DESIGN CHOICE, log entry 115) -/
def Chip.governor (c : Chip) (a : Option PmbIn) : Chip :=
  let c := (c.pmbRead a).reportPmin
  let c :=
    if c.flag F.GOV_STATUS_PMB_FAULT ∨ ¬ c.flag F.GOV_CTRL_ENABLE ∨ a.isNone then c
    else
      match c.pmin with
      | none => c
      | some (p, _) =>
        c.governAct (govern p (c.get F.GOV_STATUS_VCORE_MV) (c.get F.GOV_POWER_POUT_CW)
          (c.get F.GOV_CTRL_CAP_W) (c.get F.GOV_CTRL_HYST) (c.get F.GOV_CTRL_MARGIN) (c.flag F.GOV_STATUS_CAP_UNMET))
  c.clearMinima

end Sys2Proof.Machine
end

