-- ==== Sys2Proof/Machine/Log.lean ====
section
/-!
DEFINITION. The fault log (Tables 13-14, 13-15), stamps, lookups of items, streams, transports and
submitting sessions, and the feed-hold reasons.
-/

namespace Sys2Proof.Machine

/-- Nanoseconds of a stamp. -/
def Stamp.toNs (t : Stamp) : Nat := t.sec * 1000000000 + t.ns

/-- The stamp of a number of nanoseconds. -/
def nsStamp (n : Nat) : Stamp := ⟨n / 1000000000, n % 1000000000⟩

/-- The local clock in nanoseconds. -/
def Chip.nowNs (c : Chip) : Nat := Stamp.toNs c.clock.now

/-- Time since the clock started, ns: what elapsed times are measured in, since first lock steps the clock (R442). -/
def Chip.upNs (c : Chip) : Nat := c.clock.up

/-- The course number K (R340) and the number of the slot, 16 a course (R341). -/
def Chip.courseK (c : Chip) : Nat := c.clock.now.sec * 500 + c.clock.now.ns / 2000000

/-- The number of the slot the clock is in. -/
def Chip.slotNo (c : Chip) : Nat := c.clock.now.sec * 8000 + c.clock.now.ns / 125000

/-- Whether the device serves its data path (Table 16-18 RUNNING). -/
def Chip.running (c : Chip) : Bool := c.get F.BOOT_STAT_STATE = 1

/-- Where a fault happened, as FAULT_LOG W2 codes it. -/
structure Loc where
  region : Nat
  pblock : Nat
  site : Nat
  lblock : Nat
  lsite : Nat
  part : Nat
  deriving DecidableEq, Repr

/-- No unit. -/
def Loc.none : Loc := ⟨0, 15, 31, 15, 31, 0⟩

/-- Logical site of a physical matrix or vector site, coded as SITE; 31 when it is not mapped. -/
def Chip.logSite (c : Chip) (r p site : Nat) : Nat :=
  if site < 5 then ((List.range 4).find? (fun m => c.physMatrix r p m = site)).getD 31
  else (((List.range 2).find? (fun v => c.physVector r p v = site - 5)).map (· + 5)).getD 31

/-- The physical and logical address of a unit (R32). -/
def Chip.locOf (c : Chip) (u : UnitId) (part : Nat := 0) : Loc :=
  match u with
  | .cell r b s =>
    ⟨r.val, b.val, s.val, (c.logBlock r.val b.val).getD 15, c.logSite r.val b.val s.val, part⟩
  | .walker r b => ⟨r.val, b.val, 8, (c.logBlock r.val b.val).getD 15, 8, part⟩
  | .block r b => ⟨r.val, b.val, 31, (c.logBlock r.val b.val).getD 15, 31, part⟩
  | .region r => ⟨r.val, 15, 31, 15, 31, part⟩
  | .text t =>
    ⟨0, 15, 9 + t.val, 15, (((List.range 4).find? (fun l => c.physText l = t.val)).map (· + 9)).getD 31, part⟩
  | .lane d =>
    ⟨0, 15, 14 + d.val, 15, (((List.range 4).find? (fun l => c.physLane l = d.val)).map (· + 14)).getD 31, part⟩
  | .core k => ⟨0, 15, 19 + k.val, 15, 19 + k.val, part⟩
  | .port x => ⟨0, 15, 29 + x.val, 15, 29 + x.val, part⟩
  | .chip => { Loc.none with part := part }

/-- W2 of an entry. -/
def logW2 (code : Nat) (l : Loc) : Nat :=
  (code % 256) * 2 ^ 24 + (l.region % 4) * 2 ^ 22 + (l.pblock % 16) * 2 ^ 18 + (l.site % 32) * 2 ^ 13
    + (l.lblock % 16) * 2 ^ 9 + (l.lsite % 32) * 2 ^ 4 + l.part % 16

/-- Writes one fault-log entry; the oldest is overwritten when the log is full (R383, R416).  DETAIL is what its class
states, or a value that the manual leaves open (Table 13-15). (DESIGN CHOICE, log entry 22) -/
def Chip.log (c : Chip) (code : Nat) (l : Loc) (stated : Option Nat := none) : Chip :=
  let detail := stated.getD (Config.faultDetail code c.free)
  let c := if stated.isSome then c else { c with free := c.free + 1 }
  let e := c.get F.FAULT_LOG_PTR_NEXT
  let c := c.setWord .FAULT_LOG_W0 e 0 c.clock.now.sec
  let c := c.setWord .FAULT_LOG_W1 e 0 (c.clock.now.ns % 2 ^ 30)
  let c := c.setWord .FAULT_LOG_W2 e 0 (logW2 code l)
  let c := c.setWord .FAULT_LOG_W3 e 0 detail
  let c := c.put F.FAULT_LOG_PTR_NEXT (e + 1)
  c.wrap F.FAULT_LOG_PTR_COUNT

/-- Lifts an update of the memories, the schedule, recovery. -/
def Chip.updMem (c : Chip) (f : Mem → Mem) : Chip := { c with mem := f c.mem }
/-- Lifts an update of the schedule. -/
def Chip.updSched (c : Chip) (f : Sched → Sched) : Chip := { c with sched := f c.sched }
/-- Lifts an update of the recovery state. -/
def Chip.updRecov (c : Chip) (f : Recov → Recov) : Chip := { c with recov := f c.recov }
/-- Lifts an update of the item list. -/
def Chip.updItems (c : Chip) (f : Items → Items) : Chip := { c with items := f c.items }

/-- A stream front end. -/
def Chip.stream (c : Chip) (n : Nat) : Stream := smGet Stream.cold c.streams n
/-- Updates a stream front end. -/
def Chip.modStream (c : Chip) (n : Nat) (f : Stream → Stream) : Chip :=
  { c with streams := smMod Stream.cold c.streams n f }
/-- A transport. -/
def Chip.transport (c : Chip) (k : Nat) : Transport := smGet Transport.cold c.transports k
/-- Updates a transport. -/
def Chip.modTransport (c : Chip) (k : Nat) (f : Transport → Transport) : Chip :=
  { c with transports := smMod Transport.cold c.transports k f }
/-- A submitting session's byte stream. -/
def Chip.subm (c : Chip) (s : Nat) : Subm := smGet Subm.cold c.subs s
/-- Updates a submitting session's byte stream. -/
def Chip.modSubm (c : Chip) (s : Nat) (f : Subm → Subm) : Chip :=
  { c with subs := smMod Subm.cold c.subs s f }

/-- The item of a number. -/
def Chip.item (c : Chip) (n : Nat) : Option Item := c.items.list.find? (fun i => i.num = n)

/-- Updates the item of a number. -/
def Chip.modItem (c : Chip) (n : Nat) (f : Item → Item) : Chip :=
  c.updItems (fun I => { I with list := I.list.map (fun i => if i.num = n then f i else i) })

/-- Items that have not ended. -/
def Chip.inFlight (c : Chip) : List Item := c.items.list.filter (fun i => i.ended.isNone)

/-- The number of a unit that runs steps. -/
def unitNo : StepUnit → Nat
  | .block r b => 8 * r.val + b.val
  | .text t => 32 + t.val
  | .lane d => 36 + d.val

/-- The step a unit runs. -/
def Chip.runOf (c : Chip) (u : Nat) : Option StepRun := smGet none c.sched.running u

/-- Sets the step a unit runs. -/
def Chip.setRun (c : Chip) (u : Nat) (r : Option StepRun) : Chip :=
  c.updSched (fun s => { s with running := smSet none s.running u r })

/-- Updates the step a unit runs, if it runs one. -/
def Chip.modRun (c : Chip) (u : Nat) (f : StepRun → StepRun) : Chip :=
  match c.runOf u with
  | some r => c.setRun u (some (f r))
  | none => c

/-- Whether a step of the item is running anywhere. -/
def Chip.itemRuns (c : Chip) (n : Nat) : Bool :=
  c.sched.running.any (fun e => match e.2 with
    | some r => r.desc.item = some n
    | none => false)

/-- A text of ASCII characters as its bytes: reasons, member names. -/
def txt (s : String) : List Byte := s.toList.map (fun ch => BitVec.ofNat 8 ch.toNat)

/-- The verdict of R393: PARTIAL when a field ended valid, otherwise FAILED with the reason. -/
def Item.r393 (i : Item) (why : List Byte) : Verdict :=
  if i.fields.any (fun f => f.code = some 0) then ⟨1, []⟩ else ⟨3, why⟩

/-- Fields as R393 and R365 leave them: ended ones stay, one in progress fails, the rest are not reached. -/
def FieldSt.cutOff (why : List Byte) (f : FieldSt) : FieldSt :=
  match f.code with
  | some _ => f
  | none =>
    if f.begun then { f with code := some 5, reason := why, text := [], held := [] }
    else { f with code := some 6, reason := txt "not-reached" }

/-- Marks an item to end as R393 states at its next step boundary (R548). -/
def Chip.stopItem (c : Chip) (n : Nat) (why : List Byte) : Chip :=
  match c.item n with
  | none => c
  | some i =>
    if i.ended.isSome then c
    else
      let c := c.modItem n (fun i =>
        { i with endNext := some (i.r393 why), cutWhy := why })
      c.bump F.FAULT_CNT1_RERUN_FAIL

end Sys2Proof.Machine
end

