-- ==== Sys2Proof/Machine/Handles.lean ====
section
/-!
DEFINITION. Chapter 3: places in memory, bank hashing, granules, handle entries, their checks and their translation.
-/

namespace Sys2Proof.Machine

/-- Bytes of one block memory, of shared memory and the key of a slot's data. -/
def sharedBytes : Nat := 0x18000000

/-- Bank of a block-memory byte address (R75). -/
def blockBank (linear : Bool) (a : Nat) : Nat :=
  let r := a / 128
  if linear then bitsOf r 0 4 else (bitsOf r 0 4 ^^^ bitsOf r 4 4) ^^^ bitsOf r 8 4

/-- Storage location of a block-memory byte address: row within the bank, then bank (R75).  A block-memory address has 21
bits, so one past row 16,383 of a handle wraps to row 0. (DESIGN CHOICE, log entry 116) -/
def blockLoc (linear : Bool) (a : Nat) : Nat :=
  ((bitsOf (a / 128) 4 10) * 16 + blockBank linear a) * 128 + a % 128

/-- Bank of a shared-memory byte address (R76). -/
def sharedBank (linear : Bool) (a : Nat) : Nat :=
  let g := a / 64
  if linear then bitsOf g 0 7 else (bitsOf g 0 7 ^^^ bitsOf g 7 7) ^^^ bitsOf g 14 7

/-- Storage location of a shared-memory byte address (R76). -/
def sharedLoc (linear : Bool) (a : Nat) : Nat :=
  ((bitsOf (a / 64) 7 16) * 128 + sharedBank linear a) * 64 + a % 64

/-- A place in a memory after translation: which memory (0 to 35 block memories, 36 shared, 37 DDR4), the hash
mode, the byte address. -/
structure Place where
  sel : Nat
  linear : Bool
  addr : Nat
  deriving DecidableEq, Repr

/-- The storage byte of a place. -/
def Place.loc (p : Place) : Nat :=
  if p.sel < 36 then blockLoc p.linear p.addr
  else if p.sel = 36 then sharedLoc p.linear p.addr
  else p.addr

/-- Whether the address exists: 2 MiB blocks, shared memory below 0x1800_0000, 64 GiB of DDR4 (R76). -/
def Place.ok (p : Place) : Bool :=
  if p.sel < 36 then p.addr < 0x200000 else if p.sel = 36 then p.addr < sharedBytes else p.addr < 0x1000000000

/-- One memory by its number. -/
def Mem.byNo (m : Mem) (sel : Nat) : Memory :=
  if sel < 36 then smGet [] m.block sel else if sel = 36 then m.shared else m.ddr

/-- Replaces one memory. -/
def Mem.setNo (m : Mem) (sel : Nat) (v : Memory) : Mem :=
  if sel < 36 then { m with block := smSet [] m.block sel v }
  else if sel = 36 then { m with shared := v } else { m with ddr := v }

/-! ## Granules -/

/-- Number of a storage word of a granule. -/
def Gran.word (g : Gran) (w : Nat) : Nat := g.sel * 2 ^ 40 + g.no * 8 + w

/-- Number of the bank of a granule: 16 a block memory, then 128 of shared memory. -/
def Gran.bankNo (g : Gran) : Nat := if g.sel < 36 then g.sel * 16 + g.no / 2 % 16 else 576 + g.no % 128

/-- Number of the row of a granule: bank and row within the bank. -/
def Gran.rowNo (g : Gran) : Nat := g.bankNo * 2 ^ 20 + (if g.sel < 36 then g.no / 32 else g.no / 128)

/-- The words of the row that a read of the granule addresses: both granules of a block-memory row (R85). -/
def Gran.rowWords (g : Gran) : List Nat :=
  if g.sel < 36 then (List.range 16).map (Gran.word { g with no := g.no - g.no % 2 }) else (List.range 8).map g.word

/-- The granule that a place lies in (R70). -/
def Place.gran (p : Place) : Gran := ⟨p.sel, p.loc / 64⟩

/-- Bytes from a place on. -/
def Mem.readAt (m : Mem) (p : Place) (n : Nat) : List Byte :=
  (List.range n).map (fun k => memRead (m.byNo p.sel) (Place.loc { p with addr := p.addr + k }))

/-- Writes bytes from a place on; poison of a word ends when the word is overwritten (R88). -/
def Mem.writeAt (m : Mem) (p : Place) : List Byte → Mem
  | [] => m
  | b :: r =>
    let l := p.loc
    let m := m.setNo p.sel (memWrite (m.byNo p.sel) l b)
    let m := if l % 8 = 7 then { m with poison := smSet false m.poison (p.sel * 2 ^ 40 + l / 8) false } else m
    m.writeAt { p with addr := p.addr + 1 } r

/-- The 64 bytes of a granule. -/
def Mem.readGran (m : Mem) (g : Gran) : List Byte := memReads (m.byNo g.sel) (g.no * 64) 64

/-- Sets the poison marks of a granule's eight words. -/
def Mem.markGran (m : Mem) (g : Gran) (v : Nat → Bool) : Mem :=
  { m with poison := (List.range 8).foldl (fun p w => smSet false p (g.word w) (v w)) m.poison }

/-- Writes a granule whole: its eight words, none of them poisoned any more (R70, R88). -/
def Mem.writeGran (m : Mem) (g : Gran) (d : List Byte) : Mem :=
  (m.setNo g.sel (memWrites (m.byNo g.sel) (g.no * 64) (d.take 64))).markGran g (fun _ => false)

/-- Copies a granule; a poisoned word is copied as poisoned. -/
def Mem.copyGran (m : Mem) (s d : Gran) : Mem :=
  (m.writeGran d (m.readGran s)).markGran d (fun w => smGet false m.poison (s.word w))

/-- Whether the row that a read of the granule addresses has a poisoned word (R87). -/
def Mem.poisoned (m : Mem) (g : Gran) : Bool := g.rowWords.any (smGet false m.poison)

/-! ## Handles -/

/-- A handle entry of any table. -/
structure Handle where
  valid : Bool
  wr : Bool
  mode : Nat
  owner : Nat
  base : Nat
  size : Nat
  deriving DecidableEq, Repr

/-- A block handle (Table 3-3): base and size in rows. -/
def blockHandle (w : BitVec 64) : Handle :=
  let v := w.toNat
  let size := bitsOf v 0 15
  let mode := bitsOf v 60 2
  ⟨bitOf v 63 && decide (mode < 2) && decide (size ≠ 0), bitOf v 62, mode, bitsOf v 56 4,
   bitsOf v 32 14, size⟩

/-- A shared-memory handle (Table 3-4): base and size in granules; no handle reaches past granule 6,291,455, so what its
size names beyond is not part of it (R76). (DEDUCED, log entry 116) -/
def sharedHandle (w : BitVec 64) : Handle :=
  let v := w.toNat
  let size := Nat.min (bitsOf v 0 23) (sharedBytes / 64 - bitsOf v 23 23)
  let mode := bitsOf v 60 2
  ⟨bitOf v 63 && decide (mode < 2) && decide (size ≠ 0), bitOf v 62, mode, bitsOf v 56 4,
   bitsOf v 23 23, size⟩

/-- A DDR4 handle (Table 3-5): base and size in pages; a single-channel base of the wrong parity is invalid
(R74).  A handle that gives CHAN the reserved code 0b11 fails the VALID check. (DESIGN CHOICE, log entry 116) -/
def ddrHandle (w : BitVec 64) : Handle :=
  let v := w.toNat
  let size := bitsOf v 0 24
  let mode := bitsOf v 60 2
  let base := bitsOf v 24 24
  let par := decide (mode = 1 ∧ base % 2 = 1 ∨ mode = 2 ∧ base % 2 = 0)
  ⟨bitOf v 63 && decide (mode < 3) && decide (size ≠ 0) && !par, bitOf v 62, mode, bitsOf v 56 4, base, size⟩

/-- Number of a handle table: 0 to 31 logical blocks, 32 shared, 33 DDR4. -/
def tableNo : Space → Nat
  | .block r b => 8 * r.val + b.val
  | .shared => 32
  | .ddr => 33

/-- The entry a reference names; an index beyond the table is not valid (Table 3-2). -/
def Chip.handle (c : Chip) (h : HRef) : Handle :=
  match h.space with
  | .block r b =>
    if h.index < 64 then blockHandle (smGet 0 c.mem.blockHnd ((8 * r.val + b.val) * 64 + h.index))
    else blockHandle 0
  | .shared => if h.index < 1024 then sharedHandle (smGet 0 c.mem.sharedHnd h.index) else sharedHandle 0
  | .ddr => if h.index < 256 then ddrHandle (smGet 0 c.mem.ddrHnd h.index) else ddrHandle 0

/-- Bytes of a unit of base and size of a table. -/
def unitBytes : Space → Nat
  | .block _ _ => 128
  | .shared => 64
  | .ddr => 4096

/-- The checks of R72, in order: 1 VALID, 2 OWNER (control cores skip it), 3 WR, 4 SIZE; none when all pass. -/
def Chip.checkHandle (c : Chip) (who : Issuer) (h : HRef) (write : Bool) (len : Nat) : Option Nat :=
  let e := c.handle h
  if !e.valid then some 1
  else if (match who.part with | some p => decide (e.owner ≠ p.val) | none => false) then some 2
  else if write && !e.wr then some 3
  else if h.off + len > e.size * unitBytes h.space then some 4
  else none

/-- Physical place of a byte of a handle (R71, R74); logical blocks go through the rename map. -/
def Chip.translate (c : Chip) (h : HRef) (o : Nat) : Place :=
  let e := c.handle h
  match h.space with
  | .block r b => ⟨9 * r.val + c.physBlock r.val b.val, e.mode = 1, e.base * 128 + o⟩
  | .shared => ⟨36, e.mode = 1, e.base * 64 + o⟩
  | .ddr =>
    let page := if e.mode = 0 then e.base + o / 4096 else e.base + 2 * (o / 4096)
    ⟨37, true, page * 4096 + o % 4096⟩

/-- The granule of a byte of a handle (R70, R71). -/
def Chip.granOf (c : Chip) (h : HRef) (o : Nat) : Gran := (c.translate h o).gran

/-- Reads bytes through a handle, granule by granule. -/
def Chip.readHandle (c : Chip) (h : HRef) (n : Nat) : List Byte :=
  ((List.range (ceilDiv n 64)).flatMap (fun k => c.mem.readGran (c.granOf h (h.off + 64 * k)))).take n

/-- Writes a granule whole; what a writer that has fewer bytes puts behind them is open. (DESIGN CHOICE, log entry 117) -/
def Chip.writeGran (c : Chip) (g : Gran) (d : List Byte) : Chip :=
  let n := 64 - d.length
  let c' := c.updMem (fun m => m.writeGran g (d ++ (List.range n).map (Config.padByte c.free)))
  if n = 0 then c' else { c' with free := c'.free + 1 }

/-- Writes bytes through a handle, granule by granule (R70). -/
def Chip.writeHandle (c : Chip) (h : HRef) (d : List Byte) : Chip :=
  (chunksOf 64 d.length d).zipIdx.foldl (fun c e => c.writeGran (c.granOf h (h.off + 64 * e.2)) e.1) c

/-- The granules of `n` bytes of a handle beside those of another. -/
def Chip.granPairs (c : Chip) (src dst : HRef) (n : Nat) : List (Gran × Gran) :=
  (List.range (ceilDiv n 64)).map (fun k => (c.granOf src (src.off + 64 * k), c.granOf dst (dst.off + 64 * k)))

end Sys2Proof.Machine
end

