-- ==== Sys2Proof/Machine/Faults.lean ====
section
/-!
DEFINITION. Chapter 13, detection and recovery: lost steps, grafts, degradations, the choice of a variant,
fault hold, control cores.
-/

namespace Sys2Proof.Machine

/-- Adds an item to those that resume from their last commit point (R391). -/
def Chip.needRerun (c : Chip) (n : Option Nat) : Chip :=
  match n with
  | none => c
  | some n =>
    if c.recov.rerun.contains n then c else c.updRecov (fun v => { v with rerun := v.rerun ++ [n] })

/-! ## Step boundaries: blocks that a pre-emption takes, blocks that come back -/

/-- The slots of a newly grafted-in site are FREE (Table 3-7): all slots of the cell site. (DEDUCED, log entry 72) -/
def Chip.freeSite (c : Chip) (r b site : Nat) : Chip :=
  c.updMem (fun m => { m with
    slotFull := m.slotFull.filter (fun e => e.1 / 32 ≠ 8 * (9 * r + b) + site) })

/-- All buffer slots of a logical block's cells are FREE (R369, R375). -/
def Chip.freeBlock (c : Chip) (u : Nat) : Chip :=
  (List.range 8).foldl (fun c s => c.freeSite (u / 8) (c.physBlock (u / 8) (u % 8)) s) c

/-- The blocks of a partition as unit numbers (PART_BLK). -/
def Chip.partUnits (c : Chip) (p : Nat) : List Nat := maskBits 32 (c.get F.PART_BLK_BLOCKS p)

/-- The handle of a block-handle key. -/
def keyRef (k : Nat) : HRef := ⟨.block ⟨k / 512 % 4, Nat.mod_lt _ (by decide)⟩ ⟨k / 64 % 8, Nat.mod_lt _ (by decide)⟩, k % 64, 0⟩

/-- VALID of a block-handle entry. -/
def Chip.setHndValid (c : Chip) (k : Nat) (v : Bool) : Chip :=
  c.updMem (fun m => { m with blockHnd := smMod 0 m.blockHnd k (fun w =>
    BitVec.ofNat 64 (putBits w.toNat 63 1 (b2n v))) })

/-- The granules that a handle names. -/
def Chip.handleGrans (c : Chip) (h : HRef) : List Gran :=
  (List.range ((c.handle h).size * unitBytes h.space / 64)).map (fun k => c.granOf h (64 * k))

/-- The block handles of a unit that are live for a partition, of its spill set (R369). -/
def Chip.liveKeys (c : Chip) (b u : Nat) : List Nat :=
  (((c.image.spillSets.find? (fun e => e.1 = b)).map (·.2)).getD []).filter (fun k =>
    decide (k / 64 = u) && (c.handle (keyRef k)).valid && decide ((c.handle (keyRef k)).owner = b))

/-- A block stops for the pre-emption of partition `p`'s blocks: its live handles of the spill set are entries no more, and
what they named is to be moved, unless it still lies in the spill area (R73, R369, R373). -/
def Chip.stopFor (c : Chip) (u p : Nat) (x : Preempt) : Chip :=
  if x.spilled || x.stopped.contains u || !(c.partUnits p).contains u then c
  else
    let ks := c.liveKeys x.victim u
    let out := (ks.filter (fun k => !(smGet [] c.sched.spillSet x.victim).contains k)).map (fun k => (k, c.handleGrans (keyRef k)))
    let c := ks.foldl (fun c k => c.setHndValid k false) c
    c.updSched (fun s => { s with
      preempt := smSet none s.preempt p (some { x with stopped := x.stopped ++ [u], out := x.out ++ out }) })

/-- A block reaches a step boundary: it stops for a pre-emption under way. -/
def Chip.stopBlock (c : Chip) (u : Nat) : Chip :=
  c.sched.preempt.foldl (fun c e => match e.2 with
    | some x => c.stopFor u e.1 x
    | none => c) c

/-- The block steps through its table from slot `k` on (R346, R369). -/
def Chip.serveFrom (c : Chip) (u k : Nat) : Chip := c.updSched (fun s => { s with served := smSet 0 s.served u k })

/-- The lent blocks of `p` go to its borrower, or come back (PART_CFG.LENT). -/
def Chip.setLent (c : Chip) (p : Nat) (on : Bool) : Chip :=
  let b := c.get F.PART_CFG_BORROWER p
  let c := c.putB F.PART_CFG_LENT on p
  c.putB F.PART_CFG_LENT ((List.range 16).any (fun q =>
    c.flag F.PART_CFG_LENT q && !c.flag F.PART_CFG_KIND q && decide (c.get F.PART_CFG_BORROWER q = b))) b

/-- Partition `b` gives a lent block back without spilling: its handles and buffer slots there are returned, and the lender's
table goes on at the next slot tick (R346, R375, R376). -/
def Chip.giveBack (c : Chip) (b u : Nat) : Chip :=
  (((c.liveKeys b u).foldl (fun c k => c.setHndValid k false) c).freeBlock u).serveFrom u (c.slotNo + 1)

/-- The lent blocks of LC partition `p` come back to it without spilling. -/
def Chip.unlend (c : Chip) (p : Nat) : Chip :=
  (c.partUnits p).foldl (fun c u => c.giveBack (c.get F.PART_CFG_BORROWER p) u) (c.setLent p false)

/-- A BE partition that is disabled while it borrows blocks returns them at its step boundary, without spilling (R376). -/
def Chip.returnLent (c : Chip) : Chip :=
  (List.range 16).foldl (fun c p =>
    let b := c.get F.PART_CFG_BORROWER p
    if c.flag F.PART_CFG_LENT p && !c.flag F.PART_CFG_KIND p && decide (c.get F.PART_CFG_STATE b = 4) &&
        !c.flag F.PART_CTRL_DRAIN_BE b && (smGet none c.sched.preempt p).isNone &&
        (c.partUnits p).all (fun u => (c.runOf u).isNone)
    then c.unlend p else c) c

/-- What a unit's step boundary brings beside the end of its step. -/
def Chip.boundary (c : Chip) (u : Nat) : Chip := (c.stopBlock u).returnLent

/-- A unit's running step ends and writes none of its outputs; its item is re-run (R385, R391). -/
def Chip.loseStep (c : Chip) (u : Nat) : Chip :=
  match c.runOf u with
  | none => c
  | some r => ((c.setRun u none).boundary u).needRerun r.desc.item

/-- Whether a cell site has failed.  Number 8 (9 r + b) + site, 288 + t, 293 + d. -/
def Chip.cellBad (c : Chip) (n : Nat) : Bool := smGet false c.recov.failedCell n

/-- The number of a cell, if the unit is one. -/
def cellNo : UnitId → Option Nat
  | .cell r b s => some (8 * (9 * r.val + b.val) + s.val)
  | .text t => some (288 + t.val)
  | .lane d => some (293 + d.val)
  | _ => none

/-- The block's failure is recorded: BLK_FAILED, and BSPARE when it is the spare (Table 13-9). -/
def Chip.markBlock (c : Chip) (r b : Nat) : Chip :=
  let c := c.put F.SPARE_HEALTH_BLK_FAILED (c.get F.SPARE_HEALTH_BLK_FAILED r ||| 2 ^ b) r
  if (c.scheduled r).contains b then c else c.putB F.SPARE_HEALTH_BSPARE true r

/-- Two degradation lists name the same failures, each as often. -/
def sameDegr (a b : List Degradation) : Bool := (a ++ b).all (fun d => a.count d = b.count d)

/-- The degradations after one more: a second block of a region is the region's (R398), and a second text cell or lane without
a spare is one more. -/
def addDegr (l : List Degradation) (d : Degradation) : List Degradation :=
  match d with
  | .block r =>
    if l.contains (.region r) then l
    else if l.contains (.block r) then (l.filter (· ≠ .block r)) ++ [.region r]
    else l ++ [d]
  | .region r => if l.contains d then l else (l.filter (· ≠ .block r)) ++ [d]
  | .textUnit => l ++ [d]
  | .laneUnit => l ++ [d]
  | _ => if l.contains d then l else l ++ [d]

/-- The variant compiled for a set of degradations (R395). -/
def Chip.variantFor (c : Chip) (l : List Degradation) : Option Variant :=
  c.image.variants.find? (fun v => sameDegr v.degr l)

/-- The running variant (SCHED_CFG.VARIANT). -/
def Chip.variant (c : Chip) : Option Variant :=
  c.image.variants.find? (fun v => v.id = c.get F.SCHED_CFG_VARIANT)

/-- The successor in the lattice: a variant compiled for the degradations, within DEPTH (R395, R400).
(DEDUCED, log entry 77) -/
def Chip.successor (c : Chip) (l : List Degradation) : Option Variant :=
  if l.length ≤ actsAs (c.get F.FAULT_CFG_DEPTH) 1 then c.variantFor l else none

/-- The variant that the switch under way leads to. -/
def Chip.retarget (c : Chip) : Chip :=
  let t := match c.recov.waiting with
    | [] => none
    | d :: _ => (c.successor (addDegr c.recov.degr d)).map (·.id)
  c.updRecov (fun v => { v with target := t })

/-- A degradation is recorded; VARIANT_SWITCH serves it, after any switch under way (R396, R398).  One that the
recorded ones already contain is none; during boot stage I selects the variant (R399). (DEDUCED, log entry 45) -/
def Chip.degrade (c : Chip) (d : Degradation) : Chip :=
  let all := c.recov.waiting.foldl addDegr c.recov.degr
  if sameDegr (addDegr all d) all then c
  else if !c.running then c.updRecov (fun v => { v with degr := addDegr v.degr d })
  else ((c.putB F.VAR_STAT_SWITCHING true).updRecov (fun v => { v with waiting := v.waiting ++ [d] })).retarget

/-- The physical block that no logical block maps to, now and after the changes already due. -/
def Chip.spareBlock (c : Chip) (r : Nat) : Option Nat :=
  let w := c.mapSoon .REGION_MAP r 0
  (List.range 9).find? (fun p => !((List.range 8).any (fun lb => bitsOf w (4 * lb) 4 = p)))

/-- A region fails: its blocks' steps are lost and the 3-region variant is due (class 0x25). -/
def Chip.regionFail (c : Chip) (r : Nat) : Chip :=
  if (c.recov.failedRegion.getD r true) then c
  else
    let c := c.log 0x25 ⟨r, 15, 31, 15, 31, 0⟩
    let c := c.updRecov (fun v => { v with failedRegion := v.failedRegion.set r true })
    let c := (List.range 8).foldl (fun c lb => c.loseStep (8 * r + lb)) c
    if h : r < 4 then c.degrade (.region ⟨r, h⟩) else c

/-- A block fails: class 0x17; its steps end; the region's spare block is grafted in at the next boundary and
its persistent handles are reloaded; with no spare it is a degradation (R386 to R388). -/
def Chip.blockFail (c : Chip) (r b : Nat) : Chip :=
  if bitOf (c.get F.SPARE_HEALTH_BLK_FAILED r) b then c
  else
    let lb := (List.range 8).find? (fun l => bitsOf (c.mapSoon .REGION_MAP r 0) (4 * l) 4 = b)
    let c := c.log 0x17 ⟨r, b, 31, lb.getD 15, 31, 0⟩
    let spare := c.spareBlock r
    let c := c.markBlock r b
    let c := { c with fabric := { c.fabric with
      mapPend := smSet none c.fabric.mapPend (Reg.addr .CELL_MAP r b) none } }
    match lb with
    | none => c.putB F.SPARE_HEALTH_BSPARE true r
    | some lb =>
      let c := c.loseStep (8 * r + lb)
      match spare with
      | some p =>
        if c.flag F.SPARE_HEALTH_BSPARE r ∨ bitOf (c.get F.SPARE_HEALTH_BLK_FAILED r) p then
          if h : r < 4 then c.degrade (.block ⟨r, h⟩) else c
        else
          let c := c.mapLater .REGION_MAP r 0 (putBits (c.mapSoon .REGION_MAP r 0) (4 * lb) 4 p)
          let c := c.putB F.SPARE_HEALTH_BSPARE true r
          c.updRecov (fun v => { v with reload := smSet false v.reload (9 * r + p) true })
      | none => if h : r < 4 then c.degrade (.block ⟨r, h⟩) else c

/-- The logical cells that a step engages: its program's, both of a bonded pair among them (R57, R59). -/
def stepCells (d : StepDesc) : List Nat := d.bond.flatMap (fun p => [2 * p.val, 2 * p.val + 1]) ++ d.cells.map (·.val)

/-- The running step of a logical cell ends: its block's, where that engages the cell (R385). -/
def Chip.loseCellStep (c : Chip) (u l : Nat) : Chip :=
  match c.runOf u with
  | some run => if (stepCells run.desc).contains l then c.loseStep u else c
  | none => c

/-- A matrix or vector cell fails (class 0x02): graft of the block's spare site of its kind, or failure of the
block (R385, R386). -/
def Chip.siteFail (c : Chip) (r b site : Nat) : Chip :=
  let n := 8 * (9 * r + b) + site
  if c.cellBad n then c
  else
    let c := c.log 0x02 ⟨r, b, site, (c.logBlock r b).getD 15, c.logSite r b site, 0⟩
    let twice := (List.range 8).any (fun s => smGet false c.recov.failedNow (8 * (9 * r + b) + s))
    let c := c.updRecov (fun v => { v with failedCell := smSet false v.failedCell n true,
                                           failedNow := smSet false v.failedNow n true })
    let matrix := decide (site < 5)
    let spareFld := if matrix then F.SPARE_HEALTH_MSPARE else F.SPARE_HEALTH_VSPARE
    let spareGone := bitOf (c.get spareFld r) b
    let w := c.mapSoon .CELL_MAP r b
    let lo := if matrix then 0 else 12
    let cnt := if matrix then 4 else 2
    let phys := if matrix then site else site - 5
    let spareSite := if matrix then 4 else 2
    let log := (List.range cnt).find? (fun l => bitsOf w (lo + 3 * l) 3 = phys)
    let c := match c.logBlock r b, log with
      | some lb, some l => c.loseCellStep (8 * r + lb) (if matrix then l else 4 + l)
      | _, _ => c
    let c := if phys = spareSite then c.put spareFld (c.get spareFld r ||| 2 ^ b) r else c
    match log with
    | none => if twice then c.blockFail r b else c
    | some l =>
      if twice ∨ spareGone ∨ phys = spareSite then c.blockFail r b
      else
        let c := c.mapLater .CELL_MAP r b (putBits w (lo + 3 * l) 3 spareSite)
        c.put spareFld (c.get spareFld r ||| 2 ^ b) r

/-- A text cell site fails: the spare is grafted in, or the 3-unit variant is due (R385, Table 13-2). -/
def Chip.textFail (c : Chip) (t : Nat) : Chip :=
  if c.cellBad (288 + t) then c
  else
    let log := (List.range 4).find? (fun l => bitsOf (c.mapSoon .UNIT_MAP 0 0) (3 * l) 3 = t)
    let c := c.log 0x02 ⟨0, 15, 9 + t, 15, (log.map (· + 9)).getD 31, 0⟩
    let c := c.updRecov (fun v => { v with failedCell := smSet false v.failedCell (288 + t) true })
    let c := c.put F.CORE_STAT_T_FAILED (c.get F.CORE_STAT_T_FAILED ||| 2 ^ t)
    match log with
    | none => c
    | some l =>
      let c := c.loseStep (32 + l)
      let w := c.mapSoon .UNIT_MAP 0 0
      let spare := (List.range 5).find? (fun p =>
        !c.cellBad (288 + p) && !((List.range 4).any (fun k => bitsOf w (3 * k) 3 = p)))
      match spare with
      | some p => c.mapLater .UNIT_MAP 0 0 (putBits w (3 * l) 3 p)
      | none => c.degrade .textUnit

/-- A decode lane fails, likewise. -/
def Chip.laneFail (c : Chip) (d : Nat) : Chip :=
  if c.cellBad (293 + d) then c
  else
    let log := (List.range 4).find? (fun l => bitsOf (c.mapSoon .UNIT_MAP 0 0) (12 + 3 * l) 3 = d)
    let c := c.log 0x02 ⟨0, 15, 14 + d, 15, (log.map (· + 14)).getD 31, 0⟩
    let c := c.updRecov (fun v => { v with failedCell := smSet false v.failedCell (293 + d) true })
    let c := c.put F.CORE_STAT_D_FAILED (c.get F.CORE_STAT_D_FAILED ||| 2 ^ d)
    match log with
    | none => c
    | some l =>
      let c := c.loseStep (36 + l)
      let w := c.mapSoon .UNIT_MAP 0 0
      let spare := (List.range 5).find? (fun p =>
        !c.cellBad (293 + p) && !((List.range 4).any (fun k => bitsOf w (12 + 3 * k) 3 = p)))
      match spare with
      | some p => c.mapLater .UNIT_MAP 0 0 (putBits w (12 + 3 * l) 3 p)
      | none => c.degrade .laneUnit

/-- A page walker fails (class 0x15): its block fails, a walker has no spare. -/
def Chip.walkerFail (c : Chip) (r b : Nat) : Chip :=
  if smGet false c.recov.failedWalker (9 * r + b) then c
  else
    let c := c.log 0x15 ⟨r, b, 8, (c.logBlock r b).getD 15, 8, 0⟩
    let c := c.updRecov (fun v => { v with failedWalker := smSet false v.failedWalker (9 * r + b) true })
    c.blockFail r b

/-- A unit of a block, the text unit or the record decoder fails, by its kind. -/
def Chip.unitFail (c : Chip) (u : UnitId) : Chip :=
  match u with
  | .cell r b s => c.siteFail r.val b.val s.val
  | .walker r b => c.walkerFail r.val b.val
  | .text t => c.textFail t.val
  | .lane d => c.laneFail d.val
  | .block r b => c.blockFail r.val b.val
  | .region r => c.regionFail r.val
  | .core _ => c
  | .port _ => c
  | .chip => c

/-- One cell re-execution (class 0x01, counted only); more than CELL_THR in 1,000 courses fail the cell
(Table 13-1). (DEDUCED, log entry 89) -/
def Chip.reexecuted (c : Chip) (u : UnitId) : Chip :=
  match cellNo u with
  | none => c
  | some n =>
    let c := c.bump F.FAULT_CNT0_REEXEC
    let k := smGet 0 c.recov.reexec n + 1
    let c := c.updRecov (fun v => { v with reexec := smSet 0 v.reexec n k })
    if k > actsAs (c.get F.FAULT_CFG_CELL_THR) 1 then c.unitFail u else c

/-- A cell error in a running step: the step is re-executed once from its retained operands; when the re-execution
fails as well the cell has failed (Table 2-1, R61, Table 13-1). (DEDUCED, log entry 89) (DEDUCED, log entry 90) -/
def Chip.cellError (c : Chip) (u : Nat) (site : UnitId) (reserved : Bool) : Chip :=
  match c.runOf u with
  | none => c
  | some run =>
    let c := if reserved then c.log 0x06 (c.locOf site run.desc.part.val) else c
    if run.tries = 0 then
      let c := c.reexecuted site
      (match c.runOf u with
       | some run => c.setRun u (some { run with tries := 1 })
       | none => c)
    else
      let c := c.unitFail site
      c.loseStep u

/-- FAULT_HOLD: feed hold on every transport, no credit to any session, every item in flight ends, class 0x3A
(R400).  The hold reasons and the credit grants read VAR_STAT.HOLD. -/
def Chip.faultHold (c : Chip) : Chip :=
  if c.flag F.VAR_STAT_HOLD then c
  else
    let c := c.putB F.VAR_STAT_HOLD true
    let c := c.log 0x3A Loc.none
    (c.inFlight.map (·.num)).foldl (fun c n => c.stopItem n (txt "fault-hold")) c

/-- What a change of a rename map does beside the map: grafts counted and logged (classes 0x16, 0x24, 0x3C,
0x37). -/
def Chip.logGraft (c : Chip) (r : Reg) (i j old new : Nat) : Chip :=
  match r with
  | .REGION_MAP =>
    (List.range 8).foldl (fun c lb =>
      let p := bitsOf new (4 * lb) 4
      if bitsOf old (4 * lb) 4 = p then c
      else (c.log 0x24 ⟨i, p, 31, lb, 31, 0⟩).bump F.FAULT_CNT0_BLOCK_GRAFT) c
  | .CELL_MAP =>
    (List.range 6).foldl (fun c l =>
      let p := bitsOf new (3 * l) 3
      if bitsOf old (3 * l) 3 = p then c
      else
        let off := if l < 4 then 0 else 5
        (c.log 0x16 ⟨i, j, off + p, (c.logBlock i j).getD 15, if l < 4 then l else l + 1, 0⟩).bump
          F.FAULT_CNT0_CELL_GRAFT) c
  | .UNIT_MAP =>
    let c := (List.range 8).foldl (fun c l =>
      let p := bitsOf new (3 * l) 3
      if bitsOf old (3 * l) 3 = p then c
      else
        let loc : Loc := if l < 4 then ⟨0, 15, 9 + p, 15, 9 + l, 0⟩ else ⟨0, 15, 14 + p, 15, 10 + l, 0⟩
        (c.log 0x3C loc).bump F.FAULT_CNT0_CELL_GRAFT) c
    let role := bitsOf new 24 4
    if bitsOf old 24 4 = role then c
    else (c.log 0x37 ⟨0, 15, 28, 15, 19 + role, 0⟩).bump F.FAULT_CNT1_TAKEOVER
  | _ => c

/-- RENAME_MAP_CHANGE with its log entries, over the regions that `ready` holds for; region 4 is the unit
map (R63, R65). (DEDUCED, log entry 72) -/
def Chip.graftDue (c : Chip) (ready : Nat → Bool) : Chip :=
  let go := c.fabric.mapPend.filter (fun e => ready (mapRegion e.1))
  let c' := c.applyMaps ready
  go.foldl (fun c' e =>
    match e.2, findReg e.1 with
    | some w, some (r, i, j) =>
      let c' := c'.logGraft r i j (c.word r i j) w.toNat
      (match r with
       | .CELL_MAP => (List.range 6).foldl (fun c' l =>
           let p := bitsOf w.toNat (3 * l) 3
           if bitsOf (c.word r i j) (3 * l) 3 = p then c' else c'.freeSite i j (if l < 4 then p else 5 + p)) c'
       | .REGION_MAP => (List.range 8).foldl (fun c' lb =>
           let p := bitsOf w.toNat (4 * lb) 4
           if bitsOf (c.word r i j) (4 * lb) 4 = p then c'
           else (List.range 8).foldl (fun c' s => c'.freeSite i p s) c') c'
       | _ => c')
    | _, _ => c') c'

/-- The core that performs a role now: the role's own core, or the spare. -/
def Chip.coreOf (c : Chip) (role : Nat) : Option Nat :=
  if ¬ bitOf (c.get F.CORE_STAT_CORE_FAILED) role then some role
  else if c.get F.UNIT_MAP_SPARE_ROLE = role ∧ ¬ bitOf (c.get F.CORE_STAT_CORE_FAILED) 9 then some 9
  else none

/-- A role is left with no core: a region controller's region fails, any other role leads to fault hold
(R408). -/
def Chip.roleLost (c : Chip) (role : Nat) : Chip :=
  if role < 4 then c.regionFail role else c.faultHold

/-- CONTROL_CORE_FAILED: class 0x36; the spare takes the role at the next course boundary, except the security
role (R405, R407, R408). (DEDUCED, log entry 33) -/
def Chip.coreFail (c : Chip) (k : Nat) : Chip :=
  if bitOf (c.get F.CORE_STAT_CORE_FAILED) k then c
  else
    let held := c.get F.UNIT_MAP_SPARE_ROLE
    let c := c.put F.CORE_STAT_CORE_FAILED (c.get F.CORE_STAT_CORE_FAILED ||| 2 ^ k)
    let c := c.log 0x36 ⟨if k < 4 then k else 0, 15, 19 + k, 15, 19 + (if k = 9 ∧ held ≠ 15 then held else k), 0⟩
    if k = 8 then c.putB F.VAR_STAT_SEC_LOST true
    else if k = 9 then
      match c.recov.takeover with
      | some role => (c.updRecov (fun v => { v with takeover := none })).roleLost role
      | none => if held = 15 then c else c.roleLost held
    else if held ≠ 15 ∨ c.recov.takeover.isSome ∨ bitOf (c.get F.CORE_STAT_CORE_FAILED) 9 then c.roleLost k
    else c.updRecov (fun v => { v with takeover := some k })

/-- ROLE_TAKEOVER at a course boundary: SPARE_ROLE names the role (R407). (DEDUCED, log entry 33) -/
def Chip.takeRole (c : Chip) : Chip :=
  match c.recov.takeover with
  | none => c
  | some role =>
    let c := c.updRecov (fun v => { v with takeover := none })
    c.mapLater .UNIT_MAP 0 0 (putBits (c.mapSoon .UNIT_MAP 0 0) 24 4 role)

/-- Whether the security core serves (R408). -/
def Chip.secure (c : Chip) : Bool := ¬ c.flag F.VAR_STAT_SEC_LOST

end Sys2Proof.Machine
end

