-- ==== Sys2Proof/Machine/Hedge.lean ====
section
/-!
DEFINITION. The hedges of chapter 12: guaranteed share and cap of each requester on each shared resource, and the order
in which a resource serves the requests that wait (R359 to R361, Table 12-5).
-/

namespace Sys2Proof.Machine

/-- The units of a share of 1/4,096 of a capacity; a value above 4,096 acts as 4,096 (R361). -/
def shareOf (v cap : Nat) : Nat := Nat.min v 4096 * cap / 4096

/-- MIN and MAX of a requester on a resource, in 1/4,096: a partition's registers, in which a MAX below MIN acts as MIN; or,
on the chip-unit link, the reservations of the intake, 16, and the system, 17, with MAX equal to MIN (R359, R361). -/
def Chip.hedgeOf (c : Chip) (x who : Nat) : Nat × Nat :=
  if who < 16 then
    let lo := Nat.min (c.get F.HEDGE_MIN who x) 4096
    (lo, Nat.max lo (Nat.min (c.get F.HEDGE_MAX who x) 4096))
  else if x ≠ 4 then (0, 0)
  else
    let v := Nat.min (if who = 16 then c.get F.HEDGE_SYS_INTAKE else c.get F.HEDGE_SYS_SYS) 4096
    (v, v)

/-- Link rate in Mbit/s. -/
def rateMbit (code : Nat) : Nat :=
  match code with
  | 1 => 1000
  | 2 => 2500
  | 3 => 5000
  | 4 => 10000
  | _ => 1000

/-- CAP of a resource per period; egress scales with the port's rate (Table 12-5). -/
def Chip.hedgeCap (c : Chip) (x : Nat) : Nat :=
  if x < 4 then 8192
  else if x < 6 then 4096
  else if x = 6 then 424488
  else 156250 * rateMbit (c.get F.PORT_STAT_RATE (x - 7)) / 10000

/-- What a requester has received in the running period. -/
def HedgeRes.had (h : HedgeRes) (who : Nat) : Nat := smGet 0 h.got who

/-- The requester that a resource serves next, of those for which `asks` holds: in round-robin order first one below its
guaranteed share, then one below its cap (R359). -/
def HedgeRes.next (h : HedgeRes) (lo hi : Nat → Nat) (asks : Nat → Bool) : Option Nat :=
  let order := ((List.range 18).map (fun k => (h.turn + k) % 18)).filter asks
  match order.find? (fun w => h.had w < lo w) with
  | some w => some w
  | none => order.find? (fun w => h.had w < hi w)

/-- Units are delivered to a requester. -/
def HedgeRes.give (h : HedgeRes) (who n : Nat) : HedgeRes :=
  { h with got := smMod 0 h.got who (· + n), turn := (who + 1) % 18 }

/-- Whether a requester has a request waiting. -/
def HedgeRes.asking (h : HedgeRes) (who : Nat) : Bool := h.wait.any (fun r => r.who = who && decide (0 < r.left))

/-- One unit less for the oldest request of a requester. -/
def takeUnit (who : Nat) : List HedgeReq → List HedgeReq
  | [] => []
  | r :: l => if r.who = who ∧ 0 < r.left then { r with left := r.left - 1 } :: l else r :: takeUnit who l

/-- Serves the waiting requests unit by unit until request `id` has all of its own; where the running period can serve
nobody, the next one begins, with nothing carried over.  False when that serves nobody either: the request waits at a cap
of 0 (R359). (DESIGN CHOICE, log entry 122) -/
def HedgeRes.serve (lo hi : Nat → Nat) (id : Nat) : Nat → HedgeRes → HedgeRes × Bool
  | 0, h => (h, false)
  | f + 1, h =>
    if !(h.wait.any (fun r => r.id = id && decide (0 < r.left))) then ({ h with wait := h.wait.filter (fun r => r.id ≠ id) }, true)
    else
      match h.next lo hi h.asking with
      | some w => HedgeRes.serve lo hi id f { h.give w 1 with wait := takeUnit w h.wait }
      | none => if h.got = [] then (h, false) else HedgeRes.serve lo hi id f { h with got := [] }

/-- A resource of the chip. -/
def Chip.hedge (c : Chip) (x : Nat) : HedgeRes := smGet HedgeRes.cold c.mem.hedges x

/-- Updates a resource. -/
def Chip.modHedge (c : Chip) (x : Nat) (f : HedgeRes → HedgeRes) : Chip :=
  c.updMem (fun m => { m with hedges := smMod HedgeRes.cold m.hedges x f })

/-- Guaranteed share and cap of each requester on a resource, in units. -/
def Chip.hedgeLo (c : Chip) (x who : Nat) : Nat := shareOf (c.hedgeOf x who).1 (c.hedgeCap x)
/-- The cap. -/
def Chip.hedgeHi (c : Chip) (x who : Nat) : Nat := shareOf (c.hedgeOf x who).2 (c.hedgeCap x)

/-- A request begins to wait at a resource. -/
def Chip.hedgeAsk (c : Chip) (x id who n : Nat) : Chip :=
  c.modHedge x (fun h => { h with wait := h.wait ++ [⟨id, who, n⟩] })

/-- A request is served to its end, whether it can be; requests of moves that have ended are gone. -/
def Chip.hedgeServe (c : Chip) (x id : Nat) : Chip × Bool :=
  let live := fun (r : HedgeReq) => r.id = 0 || c.mem.moves.any (fun m => m.id + 1 = r.id)
  let h := { c.hedge x with wait := (c.hedge x).wait.filter live }
  let r := HedgeRes.serve (c.hedgeLo x) (c.hedgeHi x) id (2 * (h.wait.foldl (fun a r => a + r.left) 0) + 2) h
  (c.modHedge x (fun _ => r.1), r.2)

/-- A request at several resources, each with its units: served at all of them, or waiting. -/
def Chip.hedgeServeAll (c : Chip) (id : Nat) (l : List Nat) : Chip × Bool :=
  l.foldl (fun (a : Chip × Bool) x => let r := a.1.hedgeServe x id; (r.1, a.2 && r.2)) (c, true)

/-- One request of its own, made and served; where it cannot be served it is withdrawn. -/
def Chip.hedgeOnce (c : Chip) (who : Nat) (l : List (Nat × Nat)) : Chip × Bool :=
  let c := l.foldl (fun c e => c.hedgeAsk e.1 0 who e.2) c
  let r := c.hedgeServeAll 0 (l.map (·.1))
  (l.foldl (fun c e => c.modHedge e.1 (fun h => { h with wait := h.wait.filter (fun q => q.id ≠ 0) })) r.1, r.2)

/-- Who asks when an issuer does: its partition; for the management, security and time units' own traffic, and nothing else
without a partition, the system reservation (R359).  Traffic of the other control cores belongs to no requester of Table
12-5 and is not regulated. (DESIGN CHOICE, log entry 122) -/
def hedgeWho (who : Issuer) : Option Nat :=
  match who.part, who.u with
  | some p, _ => some p.val
  | none, .core k => if k.val = 5 ∨ k.val = 8 then some 17 else none
  | none, _ => none

/-- Removes repeats, keeping the first. -/
def dedup (l : List Nat) : List Nat := l.foldl (fun acc x => if acc.contains x then acc else acc ++ [x]) []

/-- The physical block of a unit, if it is one or part of one. -/
def blockOf : UnitId → Option (Nat × Nat)
  | .cell r b _ => some (r.val, b.val)
  | .walker r b => some (r.val, b.val)
  | .block r b => some (r.val, b.val)
  | _ => none

/-- The links that an operation of a unit crosses on its way to memories `sels`, with the requester's granules: the region
link of a block whose operation, or whose memory, meets a memory outside the region; the chip-unit link of any other unit at
shared memory; DDR4 (Tables 2-8 and 12-5). -/
def hedgeUse (u : UnitId) (sels : List Nat) (n : Nat) : List (Nat × Nat) :=
  let out := sels.any (· ≥ 36)
  let regions := dedup ((sels.filter (· < 36)).map (· / 9) ++ (match blockOf u with | some (r, _) => [r] | none => []))
  (if out then regions.map (fun r => (r, n)) else []) ++
    (if (blockOf u).isNone ∧ sels.contains 36 ∧ sels.all (· ≥ 36) then [(4, n)] else []) ++
    (if sels.contains 37 then [(5, n)] else [])

end Sys2Proof.Machine
end

