-- ==== Sys2Proof/Machine/Memory.lean ====
section
/-!
DEFINITION. Chapter 3: slots and tokens, correction, sparing, compressed pages, moves, reads, fences.
-/

namespace Sys2Proof.Machine

/-- The unit number of the steps that run on a physical unit. -/
def Chip.unitOf (c : Chip) (u : UnitId) : Option Nat :=
  let blk := fun (r b : Nat) => (c.logBlock r b).map (fun l => 8 * r + l)
  match u with
  | .cell r b _ => blk r.val b.val
  | .walker r b => blk r.val b.val
  | .block r b => blk r.val b.val
  | .text t => ((List.range 4).find? (fun l => c.physText l = t.val)).map (32 + ·)
  | .lane d => ((List.range 4).find? (fun l => c.physLane l = d.val)).map (36 + ·)
  | _ => none

/-- A handle fault (0x12) or a move-overlap fault (0x13), counted against the table's holder and logged; the step is
re-executed once, and a repeat fails the block (R72, R98, Table 13-1). (DEDUCED, log entry 32) -/
def Chip.handleFault (c : Chip) (code : Nat) (who : Issuer) (table : Nat) : Chip :=
  let c := c.updMem (fun m =>
    if code = 0x13 then { m with mvFaults := smMod 0 m.mvFaults table (· + 1), readOut := .error }
    else { m with hndFaults := smMod 0 m.hndFaults table (· + 1), readOut := .error })
  let c := c.log code (c.locOf who.u ((who.part.map (·.val)).getD 0))
  match blockOf who.u, c.unitOf who.u with
  | some (r, b), some u =>
    (match c.runOf u with
     | none => c
     | some run => if run.tries = 0 then c.setRun u (some { run with tries := 1 }) else c.blockFail r b)
  | _, _ => c

/-! ## Slots -/

/-- Number of a slot: its physical cell site, then the slot. -/
def slotNo' (s : SlotId) : Option Nat := (cellNo s.u).map (fun n => n * 32 + s.slot.val)

/-- Bytes of one slot: 4 KiB in a matrix cell, 2 KiB in a vector cell (Table 3-1). -/
def slotBytes (s : SlotId) : Nat :=
  match s.u with
  | .cell _ _ site => if site.val < 5 then 4096 else 2048
  | _ => 0

/-- Whether a slot is FULL (Table 3-7). -/
def Chip.slotFull (c : Chip) (s : SlotId) : Bool :=
  match slotNo' s with
  | some n => smGet false c.mem.slotFull n
  | none => false

/-- Sets a slot's tokens. -/
def Chip.setFull (c : Chip) (s : SlotId) (v : Bool) : Chip :=
  match slotNo' s with
  | some n => c.updMem (fun m => { m with slotFull := smSet false m.slotFull n v })
  | none => c

/-- The bytes of a slot; a slot never written reads as zeros (R92). -/
def Chip.slotData (c : Chip) (s : SlotId) : List Byte :=
  match slotNo' s with
  | some n =>
    let d := smGet [] c.mem.slotData n
    (d ++ List.replicate (slotBytes s - d.length) 0).take (slotBytes s)
  | none => []

/-- Writes bytes into a slot at an offset. -/
def Chip.writeSlot (c : Chip) (s : SlotId) (o : Nat) (d : List Byte) : Chip :=
  match slotNo' s with
  | some n =>
    let old := c.slotData s
    let new := (old.take o ++ d ++ old.drop (o + d.length)).take (slotBytes s)
    c.updMem (fun m => { m with slotData := smSet [] m.slotData n new })
  | none => c

/-- SLOT_RELEASE: FULL to FREE; a release of a slot that is not FULL changes nothing and is a slot-token fault
(0x04), which fails the cell (R79, R80, Table 13-1).  The step that runs on the cell's unit keeps what it has released
until it ends, since a rollback gives it back (R83). (DESIGN CHOICE, log entry 30) -/
def Chip.slotRelease (c : Chip) (s : SlotId) : Chip :=
  match cellNo s.u with
  | none => c
  | some n =>
    if c.slotFull s then
      let c := match c.unitOf s.u, slotNo' s with
        | some u, some k => c.modRun u (fun r => { r with freed := r.freed ++ [(k, c.slotData s)] })
        | _, _ => c
      c.setFull s false
    else
      let c := c.updMem (fun m => { m with tokenFaults := smMod 0 m.tokenFaults n (· + 1) })
      (c.log 0x04 (c.locOf s.u)).unitFail s.u

/-- Whether a move waits for a token of slot `s` in the handshake: the full token when it reads the slot, the empty token
when it writes it. -/
def Move.awaits (m : Move) (s : SlotId) (full : Bool) : Bool :=
  match if full then m.src else m.dst with
  | .slot x _ => decide (x = s)
  | _ => false

/-- SLOT_WAIT_FAULT: the block raises class 0x03 naming cell, slot and awaited token; the waiting operation ends without
data, the step without outputs, the tokens stay, the item is re-run (R81, R82).  With the awaited token raised nothing
waits. -/
def Chip.slotWaitFault (c : Chip) (s : SlotId) (awaited : Bool) (u : StepUnit) : Chip :=
  match c.runOf (unitNo u) with
  | none => c
  | some run =>
    if c.slotFull s = awaited then c
    else
      let c := c.updMem (fun m => { m with moves := m.moves.filter (fun x => !x.awaits s awaited) })
      let c := c.log 0x03 (c.locOf s.u run.desc.part.val) (some (Config.slotWaitDetail s.slot.val awaited))
      c.loseStep (unitNo u)

/-- A rollback of the step on unit `u`: the fills it has issued end, their slots staying FREE, and the slots it has
released are FULL again with what they held (R83). -/
def Chip.undoSlots (c : Chip) (u : Nat) : Chip :=
  match c.runOf u with
  | none => c
  | some run =>
    let mine := fun (m : Move) => decide (run.firstMove ≤ m.id) && decide (c.unitOf m.issuer.u = some u) &&
      (match m.dst with | .slot _ _ => true | .mem _ => false)
    c.updMem (fun m => { m with
      moves := m.moves.filter (fun x => !mine x)
      slotData := run.freed.foldl (fun d e => smSet [] d e.1 e.2) m.slotData
      slotFull := run.freed.foldl (fun d e => smSet false d e.1 true) m.slotFull })

/-! ## Correction and sparing -/

/-- The physical bank that a logical shared-memory bank stands in. -/
def Chip.physBank (c : Chip) (b : Nat) : Nat :=
  match (List.range 4).find? (fun s => c.flag F.SM_SPARE_USED s ∧ c.get F.SM_SPARE_BANK s = b) with
  | some s => 128 + s
  | none => b

/-- Counts a corrected read of a block or a shared bank. -/
def Chip.countCorr (c : Chip) (g : Gran) : Chip :=
  if g.sel < 36 then c.bump F.BM_ECC_CORR (g.sel / 9) (g.sel % 9)
  else if g.sel = 36 then c.bump F.SM_ECC_CORR (c.physBank (g.no % 128))
  else c

/-- Counts an uncorrectable read; a DDR4 channel's towards its loss (R401). -/
def Chip.countUncorr (c : Chip) (g : Gran) : Chip :=
  if g.sel < 36 then c.bump F.BM_ECC_UNCORR (g.sel / 9) (g.sel % 9)
  else if g.sel = 36 then c.bump F.SM_ECC_UNCORR (c.physBank (g.no % 128))
  else c.updMem (fun m => { m with ddrUnc := m.ddrUnc.modify (g.no / 64 % 2) (· + 1) })

/-- Marks a row for sparing; uncorrectable outranks correctable (R88).  DDR4 has no spare rows. -/
def Chip.markRow (c : Chip) (g : Gran) (lvl : Nat) : Chip :=
  if g.sel ≥ 37 then c
  else c.updMem (fun m => { m with rowMark := smMod 0 m.rowMark g.rowNo (Nat.max lvl) })

/-- DDR4 channel of a storage address: page parity (R74). -/
def ddrChan (a : Nat) : Nat := (a / 4096) % 2

/-- Class of an uncorrectable word by memory: 0x10, 0x30, 0x33. -/
def uncorrClass (sel : Nat) : Nat := if sel < 36 then 0x10 else if sel = 36 then 0x30 else 0x33

/-- The location an uncorrectable word is logged at. -/
def Chip.memLoc (c : Chip) (sel : Nat) : Loc :=
  if sel < 36 then ⟨sel / 9, sel % 9, 31, (c.logBlock (sel / 9) (sel % 9)).getD 15, 31, 0⟩ else Loc.none

/-- What the correction path does about what it finds in the addressed row (R85 to R88).  A corrected word is written back
unless a newer write to the granule has arrived, so the stored content is what was written last either way; the bit number
in the code word says where the flip lies, and a second correction there marks the row.  An uncorrectable word is poisoned
from now on and marks the row. (DEDUCED, log entry 31) -/
def Chip.correct (c : Chip) (g : Gran) (f : Finding) : Chip :=
  match f with
  | .clean => c
  | .single word bit =>
    (match g.rowWords[word.val]? with
     | none => c
     | some q =>
       let c := c.countCorr g
       let before := smGet [] c.mem.corrAt q
       let c := c.updMem (fun m => { m with corrAt := smSet [] m.corrAt q (before ++ [bit.val]) })
       if before.contains bit.val then c.markRow g 1 else c)
  | .double word =>
    (match g.rowWords[word.val]? with
     | none => c
     | some q => (c.updMem (fun m => { m with poison := smSet false m.poison q true })).markRow g 2)

/-- A row that has been read: whether it holds an uncorrectable word, which is then counted and logged (R87). -/
def Chip.meet (c : Chip) (g : Gran) : Chip × Bool :=
  if c.mem.poisoned g then ((c.countUncorr g).log (uncorrClass g.sel) (c.memLoc g.sel), true) else (c, false)

/-- Many rows that have been read: whether any holds an uncorrectable word. -/
def Chip.meetAll (c : Chip) (l : List Gran) : Chip × Bool :=
  l.foldl (fun (a : Chip × Bool) g => let r := a.1.meet g; (r.1, a.2 || r.2)) (c, false)

/-- Copies granules, each source read on the way: a poisoned word is copied as poisoned, and whether there was one. -/
def Chip.carry (c : Chip) (pairs : List (Gran × Gran)) : Chip × Bool :=
  let r := c.meetAll (pairs.map (·.1))
  (pairs.foldl (fun c e => c.updMem (fun x => x.copyGran e.1 e.2)) r.1, r.2)

/-- The operation answers its issuer. -/
def Chip.answer (c : Chip) (r : ReadRes) : Chip := c.updMem (fun m => { m with readOut := r })

/-- A poisoned read ends the consuming step without outputs, and its item is re-run (R87, classes 0x10, 0x30,
0x33); an issuer that runs no step only receives the indication. -/
def Chip.consumePoison (c : Chip) (who : Issuer) : Chip :=
  match c.unitOf who.u with
  | some u => c.loseStep u
  | none => c

/-- A granule read: its row goes through the correction path when needed, and its data is delivered, with a poison
indication when the row holds an uncorrectable word (R68, R85 to R88). (DEDUCED, log entry 31) -/
def Chip.readGranule (c : Chip) (who : Issuer) (g : Gran) (f : Finding) : Chip :=
  let r := (c.correct g f).meet g
  let d := r.1.mem.readGran g
  if r.2 then (r.1.answer (.poison d)).consumePoison who else r.1.answer (.data d)

/-- Whether a physical unit has failed, alone or with its block or region (R64, Table 2-1). -/
def Chip.unitDead (c : Chip) (u : UnitId) : Bool :=
  let blk := fun (r b : Nat) => c.recov.failedRegion.getD r true || bitOf (c.get F.SPARE_HEALTH_BLK_FAILED r) b
  match u with
  | .cell r b s => blk r.val b.val || c.cellBad (8 * (9 * r.val + b.val) + s.val)
  | .walker r b => blk r.val b.val || smGet false c.recov.failedWalker (9 * r.val + b.val)
  | .block r b => blk r.val b.val
  | .region r => c.recov.failedRegion.getD r.val true
  | .text t => c.cellBad (288 + t.val)
  | .lane d => c.cellBad (293 + d.val)
  | .core k => bitOf (c.get F.CORE_STAT_CORE_FAILED) k.val
  | .port _ => false
  | .chip => false

/-- Whether a memory belongs to a failed block or region (R64). -/
def Chip.memDead (c : Chip) (sel : Nat) : Bool :=
  decide (sel < 36) &&
    (c.recov.failedRegion.getD (sel / 9) true || bitOf (c.get F.SPARE_HEALTH_BLK_FAILED (sel / 9)) (sel % 9))

/-- A read of a slot of a cell in service: it waits until the full token is raised (R77); a parity error is read once more,
and a second one is a cell error (R84, Table 2-1).  A failed site answers with an error indication (R64). -/
def Chip.readSlot (c : Chip) (s : SlotId) (p : Parity) : Chip :=
  if c.unitDead s.u then c.answer .error
  else if !c.slotFull s then c.answer .wait
  else
    match p with
    | .good => c.answer (.data (c.slotData s))
    | .firstOnly =>
      let n := (cellNo s.u).getD 0
      c.updMem (fun m => { m with parity := smMod 0 m.parity n (· + 1), readOut := .data (c.slotData s) })
    | .both =>
      (match c.unitOf s.u with
       | some u => (c.answer .cellError).cellError u s.u false
       | none => c.answer .cellError)

/-- An error on a block link: class 0x20, the operation completes with an error indication and the item is
re-run (R64). -/
def Chip.linkError (c : Chip) (who : Issuer) : Chip :=
  let c := c.answer .error
  (c.log 0x20 (c.locOf who.u ((who.part.map (·.val)).getD 0))).consumePoison who

/-- Bytes at a physical address of a space, hashed in the memories that hash (R76). (DEDUCED, log entry 29) -/
def Chip.physPlace (c : Chip) (s : Space) (a : Nat) : Place :=
  match s with
  | .block r b => ⟨9 * r.val + c.physBlock r.val b.val, false, a⟩
  | .shared => ⟨36, false, a⟩
  | .ddr => ⟨37, true, a⟩

/-- A spare row of the bank is free. -/
def spareRows (bank : Nat) : Nat := if bank < 576 then 8 else 128

/-- A whole shared-memory bank is spared: the copy to a free spare bank begins, or class 0x32 (R89, R90). -/
def Chip.spareBank (c : Chip) (bank : Nat) : Chip :=
  if (List.range 4).any (fun s => (c.flag F.SM_SPARE_COPYING s ∨ c.flag F.SM_SPARE_USED s) ∧
      c.get F.SM_SPARE_BANK s = bank) then c
  else
    match (List.range 4).find? (fun s => ¬ c.flag F.SM_SPARE_USED s ∧ ¬ c.flag F.SM_SPARE_COPYING s) with
    | some s =>
      let c := c.put F.SM_SPARE_BANK bank s
      (c.putB F.SM_SPARE_COPYING true s).log 0x31 Loc.none (some bank)
    | none => c.log 0x32 Loc.none (some bank)

/-- The storage words of a row by its number. -/
def wordsOfRow (row : Nat) : List Nat :=
  let bank := row / 2 ^ 20
  let n := row % 2 ^ 20
  if bank < 576 then (List.range 16).map (Gran.word ⟨bank / 16, (n * 16 + bank % 16) * 2⟩)
  else (List.range 8).map (Gran.word ⟨36, n * 128 + (bank - 576)⟩)

/-- ROW_SPARE of one marked row: the spare row takes its content, an uncorrectable word as poisoned, and starts without a
history of corrections (R88, R89). -/
def Chip.spareRow (c : Chip) (row : Nat) : Chip :=
  let bank := row / 2 ^ 20
  let c := c.updMem (fun m => { m with rowMark := smSet 0 m.rowMark row 0 })
  let used := smGet 0 c.mem.spareUsed bank
  if used < spareRows bank then
    let c := c.updMem (fun m => { m with rowSpare := smSet none m.rowSpare row (some used),
                                         spareUsed := smSet 0 m.spareUsed bank (used + 1),
                                         corrAt := (wordsOfRow row).foldl (fun a w => smSet [] a w []) m.corrAt })
    if bank < 576 then
      let sel := bank / 16
      let c := c.bump F.BM_ECC_SPARE_USED (sel / 9) (sel % 9)
      c.log 0x11 (c.memLoc sel)
    else c.bump F.SM_ECC_SPARE_USED (c.physBank (bank - 576))
  else if bank < 576 then c.blockFail (bank / 16 / 9) (bank / 16 % 9)
  else c.spareBank (bank - 576)

/-- A marked row is redirected after the course fence: its region's, or every region's for shared memory (R88). -/
def Chip.rowReady (c : Chip) (row : Nat) : Bool :=
  let bank := row / 2 ^ 20
  if bank < 576 then !c.fabric.late.getD (bank / 16 / 9) false else !c.fabric.late.any id

/-- Sparing at a course boundary: the marked rows, then the banks whose copy is complete (R88 to R90); a spare bank starts
with all its own spare rows. -/
def Chip.sparing (c : Chip) : Chip :=
  let c := ((c.mem.rowMark.map (·.1)).filter c.rowReady).foldl Chip.spareRow c
  (List.range 4).foldl (fun c s =>
    if c.flag F.SM_SPARE_COPYING s ∧ c.mem.bankCopied.getD s false then
      let c := c.putB F.SM_SPARE_COPYING false s
      let c := c.putB F.SM_SPARE_USED true s
      let bank := 576 + c.get F.SM_SPARE_BANK s
      c.updMem (fun m => { m with bankCopied := m.bankCopied.set s false
                                  rowSpare := m.rowSpare.filter (fun e => e.1 / 2 ^ 20 ≠ bank)
                                  spareUsed := smSet 0 m.spareUsed bank 0 })
    else c) c

/-- BANK_COPY_DONE: the copy of a bank is complete; its map changes at the next boundary (R90). -/
def Chip.bankCopyDone (c : Chip) (bank : Nat) : Chip :=
  match (List.range 4).find? (fun s => c.flag F.SM_SPARE_COPYING s ∧ c.get F.SM_SPARE_BANK s = bank) with
  | some s => c.updMem (fun m => { m with bankCopied := m.bankCopied.set s true })
  | none => c

/-- The logical bank whose content a physical bank holds: 16 of a block memory, or a bank of shared memory, one that a spare
bank stands in for holding none (R90). -/
def Chip.bankIn (c : Chip) : RowLoc → Option Nat
  | .block r b bank _ => some ((9 * r.val + b.val) * 16 + bank.val)
  | .shared b _ =>
    if b.val < 128 then (if c.physBank b.val = b.val then some (576 + b.val) else none)
    else if c.flag F.SM_SPARE_USED (b.val - 128) then some (576 + c.get F.SM_SPARE_BANK (b.val - 128)) else none

/-- The row of content that a physical row holds, spare rows included: none in a row that a spare row replaces, or a spare
row that is not in use (R88). -/
def Chip.rowIn (c : Chip) (loc : RowLoc) : Option Nat :=
  let rows := match loc with | .block _ _ _ _ => 1024 | .shared _ _ => 49152
  let k := match loc with | .block _ _ _ k => k | .shared _ k => k
  (c.bankIn loc).bind (fun bank =>
    if k < rows then
      (if (smGet none c.mem.rowSpare (bank * 2 ^ 20 + k)).isNone then some (bank * 2 ^ 20 + k) else none)
    else (c.mem.rowSpare.find? (fun e => e.1 / 2 ^ 20 = bank ∧ e.2 = some (k - rows))).map (·.1))

/-- The first granule of a row of content. -/
def rowGran (row : Nat) : Gran :=
  let bank := row / 2 ^ 20
  let n := row % 2 ^ 20
  if bank < 576 then ⟨bank / 16, (n * 16 + bank % 16) * 2⟩ else ⟨36, n * 128 + (bank - 576)⟩

/-- Counts a corrected or an uncorrectable read of a physical row that holds no content. -/
def Chip.countIdle (c : Chip) (loc : RowLoc) (f : Finding) : Chip :=
  match f, loc with
  | .clean, _ => c
  | .single _ _, .block r b _ _ => c.bump F.BM_ECC_CORR r.val b.val
  | .single _ _, .shared b _ => c.bump F.SM_ECC_CORR b.val
  | .double _, .block r b _ _ => c.bump F.BM_ECC_UNCORR r.val b.val
  | .double _, .shared b _ => c.bump F.SM_ECC_UNCORR b.val

/-- PATROL_SCRUB_READ: one physical row is read, both granules of a block-memory row, and corrected (R91).  What is found in
a row that holds content, a spare row in use among them, is handled as of any read; in one that holds none it is counted.
(DEDUCED, log entry 31) -/
def Chip.scrub (c : Chip) (loc : RowLoc) (f : Finding) : Chip :=
  match c.rowIn loc with
  | some row => ((c.correct (rowGran row) f).meet (rowGran row)).1
  | none => c.countIdle loc f

/-! ## Compressed pages -/

/-- Elements of a byte string by width. -/
def elemsOf (wide : Bool) (d : List Byte) : List Nat :=
  if wide then (chunksOf 2 d.length d).map leNat else d.map (·.toNat)

/-- Mask of one group: bit i is 1 when element i differs from the zero code (R93, R94). -/
def groupMask (zc : Nat) (g : List Nat) : Nat :=
  (g.zipIdx.filter (fun e => e.1 ≠ zc)).foldl (fun m e => m + 2 ^ e.2) 0

/-- Bytes of elements. -/
def elemBytes (wide : Bool) (l : List Nat) : List Byte :=
  l.flatMap (fun x => leBytes (if wide then 2 else 1) x)

/-- Pads to a granule boundary. -/
def padGranule (d : List Byte) : List Byte := d ++ List.replicate ((64 - d.length % 64) % 64) 0

/-- One compressed page of up to 8 groups of 64 elements (R94). -/
def packPage (wide : Bool) (zc : Nat) (els : List Nat) : List Byte :=
  let groups := chunksOf 64 8 els
  let masks := (groups.map (groupMask zc)) ++ List.replicate (8 - groups.length) 0
  masks.flatMap (leBytes 8) ++
    padGranule (elemBytes wide (groups.flatMap (fun g => g.filter (· ≠ zc))))

/-- Bytes of the region of a page (R95). -/
def pageRegion (wide : Bool) : Nat := if wide then 1088 else 576

/-- Elements of one group from its mask and the present elements that are left. -/
def fillGroup (zc mask : Nat) : Nat → Nat → List Nat → List Nat × List Nat
  | 0, _, l => ([], l)
  | n + 1, i, l =>
    if bitOf mask i then
      let r := fillGroup zc mask n (i + 1) (l.drop 1)
      (l.headD zc :: r.1, r.2)
    else
      let r := fillGroup zc mask n (i + 1) l
      (zc :: r.1, r.2)

/-- Expands the groups of a page in order. -/
def fillGroups (zc : Nat) : List Nat → List Nat → List Nat
  | [], _ => []
  | m :: ms, l =>
    let r := fillGroup zc m 64 0 l
    r.1 ++ fillGroups zc ms r.2

/-- The elements of a page from its region's bytes (R94, R95). -/
def unpackPage (wide : Bool) (zc : Nat) (d : List Byte) : List Nat :=
  let masks := (chunksOf 8 8 (d.take 64)).map leNat
  fillGroups zc masks (elemsOf wide (d.drop 64))

/-- Present bytes of a page by its mask granule: a move of it transfers 1 + ⌈present ÷ 64⌉ granules (R95). -/
def pagePresent (wide : Bool) (d : List Byte) : Nat :=
  let masks := (chunksOf 8 8 (d.take 64)).map leNat
  let n := (masks.map (fun m => (maskBits 64 m).length)).foldl (· + ·) 0
  if wide then 2 * n else n

/-! ## Moves -/

/-- Granules of the region of a page. -/
def pageGrans (wide : Bool) : Nat := pageRegion wide / 64

/-- Elements that a compressing or expanding move carries: the tensor's, as far as the rectangle holds them. -/
def mvCount (d : MoveDesc) : Nat := Nat.min d.elems (d.rows * d.rowLen * 64 / (if d.wide16 then 2 else 1))

/-- The ranges of granules of an end, as offset and length: the rows of the rectangle, or, on the compressed side of a fill
or drain, the page regions of the tensor one after another (R94, R95). (DEDUCED, log entry 118) -/
def mvRanges (d : MoveDesc) (stride : Nat) (packed : Bool) : List (Nat × Nat) :=
  if packed then (List.range (ceilDiv (mvCount d) 512)).map (fun k => (k * pageGrans d.wide16, pageGrans d.wide16))
  else (List.range d.rows).map (fun k => (k * stride, d.rowLen))

/-- The ranges of the source. -/
def mvSrcRanges (d : MoveDesc) : List (Nat × Nat) :=
  mvRanges d d.sStride (match d.comp, d.dst with | .expand, .slot _ _ => true | _, _ => false)

/-- The ranges of the destination. -/
def mvDstRanges (d : MoveDesc) : List (Nat × Nat) :=
  mvRanges d d.dStride (match d.comp, d.src with | .compress, .slot _ _ => true | _, _ => false)

/-- Handle check of every range of one end (R72, R99): the table whose check fails. -/
def Chip.checkRanges (c : Chip) (who : Issuer) (e : MoveEnd) (write : Bool) (l : List (Nat × Nat)) : Option Nat :=
  match e with
  | .slot _ _ => none
  | .handle h =>
    if l.any (fun r => (c.checkHandle who { h with off := h.off / 64 * 64 + 64 * r.1 } write (64 * r.2)).isSome)
    then some (tableNo h.space) else none

/-- The granules of every range of one end, translated (R49, R71). -/
def Chip.granRows (c : Chip) (h : HRef) (l : List (Nat × Nat)) : List (List Gran) :=
  l.map (fun r => (List.range r.2).map (fun k => c.granOf h (h.off / 64 * 64 + 64 * (r.1 + k))))

/-- One end of a move, translated. -/
def Chip.endOf (c : Chip) (e : MoveEnd) (l : List (Nat × Nat)) : MvEnd :=
  match e with
  | .handle h => .mem (c.granRows h l)
  | .slot s o => .slot s o

/-- The physical block of a block handle. -/
def Chip.blockOfHandle (c : Chip) (h : HRef) : Option (Nat × Nat) :=
  match h.space with
  | .block r b => some (r.val, c.physBlock r.val b.val)
  | _ => none

/-- The kinds of move of Table 3-11: a fill or drain within one block, block memory with block memory of its region (R47),
block memory with shared memory, DDR4 with either.  Compression takes place only on a drain, expansion only on a fill (R97);
a move between memories that carries either code copies compressed pages as stored. (DEDUCED, log entry 118) -/
def Chip.moveKind (c : Chip) (d : MoveDesc) : Bool :=
  let cell := fun (h : HRef) (s : SlotId) => match s.u with
    | .cell r b _ => decide (c.blockOfHandle h = some (r.val, b.val))
    | _ => false
  match d.src, d.dst with
  | .slot _ _, .slot _ _ => false
  | .handle h, .slot s _ => cell h s && decide (d.comp ≠ .compress)
  | .slot s _, .handle h => cell h s && decide (d.comp ≠ .expand)
  | .handle a, .handle b =>
    (match a.space, b.space with
     | .block r _, .block r' _ => decide (r = r')
     | .shared, .shared => false
     | .ddr, .ddr => false
     | _, _ => true)

/-- The granules of an end of a move, a slot's by their place in the slot. -/
def MvEnd.grans (bytes : Nat) : MvEnd → List Gran
  | .mem rows => rows.flatten
  | .slot s o =>
    (match slotNo' s with
     | some n => (List.range (ceilDiv (o % 64 + bytes) 64)).map (fun k => ⟨64 + n, o / 64 + k⟩)
     | none => [])

/-- The granules a move writes, and those it touches. -/
def Move.writes (m : Move) : List Gran := m.dst.grans m.bytes
/-- Source and destination granules. -/
def Move.touches (m : Move) : List Gran := m.writes ++ m.src.grans m.bytes

/-- The hedged resources that a move uses, with its granules (Table 12-5). -/
def Move.uses (m : Move) : List (Nat × Nat) :=
  let sels := fun (e : MvEnd) => match e with
    | .mem rows => dedup (rows.flatten.map (·.sel))
    | .slot _ _ => []
  hedgeUse m.issuer.u (sels m.src ++ sels m.dst) (ceilDiv m.bytes 64)

/-- A move's requests begin to wait at the resources it uses (R359). -/
def Chip.hedgeMove (c : Chip) (m : Move) : Chip :=
  match hedgeWho m.issuer with
  | none => c
  | some w => m.uses.foldl (fun c e => c.hedgeAsk e.1 (m.id + 1) w e.2) c

/-- MOVE_ISSUE: every row is checked before the first read (R72, R99), overlap is refused (R98), the addresses are
translated, and the move is in flight. -/
def Chip.moveIssue (c : Chip) (d : MoveDesc) : Chip :=
  if !c.moveKind d then c
  else
    match c.checkRanges d.issuer d.src false (mvSrcRanges d) with
    | some t => c.handleFault 0x12 d.issuer t
    | none =>
      match c.checkRanges d.issuer d.dst true (mvDstRanges d) with
      | some t => c.handleFault 0x12 d.issuer t
      | none =>
        let m : Move := ⟨c.mem.nextMove, d.issuer, c.endOf d.src (mvSrcRanges d), c.endOf d.dst (mvDstRanges d),
          d.rows * d.rowLen * 64, d.comp, d.wide16, d.zero, mvCount d, d.raiseFull⟩
        let t := match d.dst with | .handle h => tableNo h.space | .slot _ _ => 32
        if (m.src.grans m.bytes).any m.writes.contains then c.handleFault 0x13 d.issuer t
        else (c.updMem (fun x => { x with moves := x.moves ++ [m], nextMove := x.nextMove + 1 })).hedgeMove m

/-- The granules of a row that a move transfers, as positions in it: all of them, or, of compressed pages, the mask granule
and the data granules that the masks occupy (R95). -/
def Chip.occupied (c : Chip) (m : Move) (row : List Gran) : List Nat :=
  if m.comp = .none then List.range row.length
  else
    let n := pageGrans m.wide16
    (List.range row.length).filter (fun k =>
      match row[k - k % n]? with
      | some g => decide (k % n ≤ ceilDiv (pagePresent m.wide16 (c.mem.readGran g)) 64)
      | none => false)

/-- The source granules that a move reads, in order. -/
def Chip.sourceGrans (c : Chip) (m : Move) : List Gran :=
  match m.src with
  | .mem rows => rows.flatMap (fun row => (c.occupied m row).filterMap (fun k => row[k]?))
  | .slot _ _ => []

/-- The bytes that a fill puts into its slot: the rows as they are, or the pages expanded (R95, R97). -/
def Chip.fillBytes (c : Chip) (m : Move) (rows : List (List Gran)) : List Byte :=
  let bytes := fun (row : List Gran) => row.flatMap c.mem.readGran
  if m.comp = .none then rows.flatMap bytes
  else elemBytes m.wide16 ((rows.flatMap (fun row => unpackPage m.wide16 m.zero (bytes row))).take m.elems)

/-- The granules that a drain writes with what: the rows as they are, or compressed pages, of which only the mask granule
and the occupied data granules are written (R95, R97). -/
def Move.drainGrans (m : Move) (d : List Byte) (rows : List (List Gran)) : List (Gran × List Byte) :=
  if m.comp = .none then rows.flatten.zip (chunksOf 64 d.length d)
  else
    let els := (elemsOf m.wide16 d).take m.elems
    (rows.zip (chunksOf 512 els.length els)).flatMap (fun e =>
      let p := packPage m.wide16 m.zero e.2
      e.1.zip (chunksOf 64 p.length p))

/-- Whether a move touches a failed site or has a failed issuer, so that it ends with an error indication (R64, R384). -/
def Chip.moveDead (c : Chip) (m : Move) : Bool :=
  let dead := fun (e : MvEnd) => match e with
    | .mem rows => rows.flatten.any (fun g => c.memDead g.sel)
    | .slot s _ => c.unitDead s.u
  dead m.src || dead m.dst || c.unitDead m.issuer.u

/-- Whether a move waits in the handshake: its destination slot is FULL or its source slot is not (R77). -/
def Chip.moveWaits (c : Chip) (m : Move) : Bool :=
  (match m.dst with | .slot s _ => c.slotFull s | .mem _ => false) ||
  (match m.src with | .slot s _ => !c.slotFull s | .mem _ => false)

/-- The data of a move lands (R96).  A poisoned source word is never consumed as valid (R87): a move between memories copies
it as poisoned, a fill with one puts nothing into its slot. (DESIGN CHOICE, log entry 31) -/
def Chip.land (c : Chip) (m : Move) : Chip :=
  match m.src, m.dst with
  | .mem rows, .mem drows =>
    let r := c.carry ((rows.zip drows).flatMap (fun e =>
      (c.occupied m e.1).filterMap (fun k => (e.1[k]?).bind (fun s => (e.2[k]?).map (fun d => (s, d))))))
    if r.2 then r.1.answer (.poison []) else r.1
  | .mem rows, .slot s o =>
    let r := c.meetAll (c.sourceGrans m)
    if r.2 then (r.1.answer (.poison [])).consumePoison m.issuer
    else
      let c := r.1.writeSlot s o (r.1.fillBytes m rows)
      if m.raiseFull then c.setFull s true else c
  | .slot s o, .mem rows =>
    (m.drainGrans (((c.slotData s).drop o).take m.bytes) rows).foldl (fun c e => c.writeGran e.1 e.2) c
  | .slot _ _, .slot _ _ => c

/-- The last write of a move is acknowledged (R96): it lands, or ends with an error indication at a failed site (R64), or
waits for a token (R77) or for its hedged resources (R359). -/
def Chip.performMove (c : Chip) (m : Move) : Chip :=
  let gone := fun (c : Chip) => c.updMem (fun x => { x with moves := x.moves.filter (fun y => y.id ≠ m.id) })
  if c.moveDead m then ((gone c).answer .error).consumePoison m.issuer
  else if c.moveWaits m then c
  else
    let r := c.hedgeServeAll (m.id + 1) (m.uses.map (·.1))
    if r.2 then (gone r.1).land m else r.1

/-- Whether a move is in flight. -/
def Chip.flying (c : Chip) (id : Nat) : Bool := c.mem.moves.any (fun m => m.id = id)

/-- Performs moves in order up to the first that waits. -/
def Chip.runMoves : List Move → Chip → Chip
  | [], c => c
  | m :: r, c => if (c.performMove m).flying m.id then c.performMove m else Chip.runMoves r (c.performMove m)

/-- Of an issuer's moves, newest first, those that land before an operation of the same issuer on granules `g`: the ones that
write such a granule, and what those wait for in turn; in issue order (R51). -/
def needed : List Gran → List Move → List Move
  | _, [] => []
  | g, m :: r => if m.writes.any g.contains then needed (g ++ m.touches) r ++ [m] else needed g r

/-- The moves of an issuer in flight before move `id`, newest first. -/
def Chip.movesOf (c : Chip) (who : Issuer) (id : Nat) : List Move :=
  (c.mem.moves.filter (fun m => m.issuer = who ∧ m.id < id)).reverse

/-- The granules of a slot. -/
def slotGrans (s : SlotId) : List Gran := MvEnd.grans (slotBytes s) (.slot s 0)

/-- MOVE_COMPLETE: the issuer's earlier moves land first where R51 orders them, and all its fills of a slot that the move
raises, since its slot fence covers them (R96, Table 2-10); then the move itself, with what its reads find. -/
def Chip.moveComplete (c : Chip) (id : Nat) (finds : List MvFind) : Chip :=
  match c.mem.moves.find? (fun m => m.id = id) with
  | none => c
  | some m =>
    let all := match m.dst, m.raiseFull with
      | .slot s _, true => slotGrans s
      | _, _ => []
    let before := needed (m.touches ++ all) (c.movesOf m.issuer id)
    let c := Chip.runMoves before c
    if before.any (fun b => c.flying b.id) then c
    else
      let src := c.sourceGrans m
      let c := finds.foldl (fun c f => match src[f.gran]? with | some g => c.correct g f.finding | none => c) c
      c.performMove m

/-- SLOT_FENCE_DONE: the producer's own writes to the slot have landed, and the slot passes from FREE to FULL; while it is
not FREE, or a write of the producer waits, the fence waits (R53, R78). (DEDUCED, log entry 30) -/
def Chip.slotFence (c : Chip) (who : Issuer) (s : SlotId) : Chip :=
  if c.slotFull s || c.unitDead s.u || (slotNo' s).isNone then c
  else
    let before := needed (slotGrans s) (c.movesOf who c.mem.nextMove)
    let c := Chip.runMoves before c
    if before.any (fun b => c.flying b.id) then c else c.setFull s true

/-- Completes the moves in flight that `sel` picks, in issue order: what a fence waits for (R53, R54). -/
def Chip.drainMoves (c : Chip) (sel : Move → Bool) : Chip := Chip.runMoves (c.mem.moves.filter sel) c

/-- MEMORY_FENCE_DONE: every earlier write of the issuer is complete (R52, R53). -/
def Chip.memoryFence (c : Chip) (who : Issuer) : Chip := c.drainMoves (fun m => m.issuer = who)

/-- Whether the operations in flight that the region's blocks have issued are complete once they have been driven to their
end: what its course fence waits for (Table 2-10). -/
def Chip.regionMoves (r : Nat) (m : Move) : Bool := (blockOf m.issuer.u).any (fun b => b.1 = r)

/-- Whether a unit's reads reach a space: block memory from its own region only (R47), or from a control core or the chip
controller; DDR4 from no engine (R69). (DEDUCED, log entry 118) -/
def readReaches (u : UnitId) : Space → Bool
  | .ddr => false
  | .shared => true
  | .block r _ =>
    match u with
    | .cell r' _ _ => decide (r' = r)
    | .walker r' _ => decide (r' = r)
    | .block r' _ => decide (r' = r)
    | .region r' => decide (r' = r)
    | .core _ => true
    | .chip => true
    | _ => false

/-- A granule read of an issuer: its own earlier writes to the granule land first (R51), and the resources it crosses serve it
(R359); a failed site answers with an error indication (R64). -/
def Chip.readOf (c : Chip) (who : Issuer) (g : Gran) (f : Finding) : Chip :=
  if c.memDead g.sel then (c.answer .error).consumePoison who
  else
    let before := needed [g] (c.movesOf who c.mem.nextMove)
    let c := Chip.runMoves before c
    if before.any (fun b => c.flying b.id) then c.answer .wait
    else
      match hedgeWho who with
      | none => c.readGranule who g f
      | some w =>
        let r := c.hedgeOnce w (hedgeUse who.u [g.sel] 1)
        if r.2 then r.1.readGranule who g f else r.1.answer .wait

/-- The slot that a bonded step means: one of the odd cell of a bonded pair is that of the even cell, 0 pairing M0 with M1 and 1
M2 with M3; a spare that stands in for a cell stands in the pair (R56, R59, R60, R67). -/
def Chip.bondSlot (c : Chip) (d : StepDesc) (s : SlotId) : SlotId :=
  match s.u with
  | .cell r b site =>
    (match d.bond.find? (fun p => c.physMatrix r.val b.val (2 * p.val + 1) = site.val) with
     | some p =>
       let e := c.physMatrix r.val b.val (2 * p.val)
       if h : e < 8 then { s with u := .cell r b ⟨e, h⟩ } else s
     | none => s)
  | _ => s

/-- The slot that an issuer's read names: that of the even cell for its unit's bonded step (R59). -/
def Chip.readSlotOf (c : Chip) (who : Issuer) (s : SlotId) : SlotId :=
  match (c.unitOf who.u).bind c.runOf with
  | some run => if blockOf who.u = blockOf s.u then c.bondSlot run.desc s else s
  | none => s

/-- MORTAR_READ: one granule or slot read completes. -/
def Chip.mortarRead (c : Chip) (w : MortarIn) : Chip :=
  if w.linkError then c.linkError w.issuer
  else
    match w.target with
    | .slot s p => c.readSlot (c.readSlotOf w.issuer s) p
    | .phys sp a => if readReaches w.issuer.u sp then c.readOf w.issuer (c.physPlace sp a).gran w.finding else c
    | .handle h =>
      if !readReaches w.issuer.u h.space then c
      else
        match c.checkHandle w.issuer { h with off := h.off / 64 * 64 } false 64 with
        | some _ => c.handleFault 0x12 w.issuer (tableNo h.space)
        | none => c.readOf w.issuer (c.granOf h h.off) w.finding

/-- Whether a read names an address that exists. (DESIGN CHOICE, log entry 2) -/
def Chip.readExists (c : Chip) (w : MortarIn) : Bool :=
  match w.target with
  | .phys sp a => (c.physPlace sp a).ok
  | _ => true

/-- Fills all memories with zeros and frees all slots (R92); sparing stays. -/
def Mem.zeroed (m : Mem) : Mem :=
  { m with block := [], shared := [], slotData := [], slotFull := [], poison := [], corrAt := [],
           moves := [], hedges := [], readOut := .idle }

end Sys2Proof.Machine
end

