-- ==== Sys2Proof/Machine/Time.lean ====
section
/-!
DEFINITION. The time unit of chapter 14: the local clock, the servo, sources, the alarm, pulse output and event
input; and the course and slot boundaries of R340 and R341.
-/

namespace Sys2Proof.Machine

/-- A signed register field. -/
def Chip.getS (c : Chip) (f : Fld) (i : Nat := 0) (j : Nat := 0) : Int := signedOf (c.get f i j) f.w

/-- Sets a signed register field. -/
def Chip.putS (c : Chip) (f : Fld) (v : Int) (i : Nat := 0) (j : Nat := 0) : Chip := c.put f (toField v f.w) i j

/-- Sets a signed field, saturating. -/
def Chip.putSat (c : Chip) (f : Fld) (v : Int) : Chip :=
  c.putS f (clampInt (-(2 ^ (f.w - 1))) (2 ^ (f.w - 1) - 1) v)

/-- RATE. -/
def Chip.rate (c : Chip) : Int := c.getS F.TIME_RATE_RATE

/-- The largest rate correction, ±1,000 ppm. -/
def maxRate : Int := 4294967

/-- The range of RATE and RI (R442, R443). -/
def clampRate (x : Int) : Int := clampInt (-maxRate) maxRate x

/-- SEC wraps at 2⁴⁸ (R435). -/
def normStamp (sec ns : Nat) : Stamp := ⟨(sec + ns / 1000000000) % 2 ^ 48, ns % 1000000000⟩

/-- One PTP_REFCLK edge (R436). -/
def Clock.tick (k : Clock) (rate : Int) : Clock :=
  let t := ((k.frac : Int) + 8 * 2 ^ 32 + 8 * rate).toNat
  let ns := k.now.ns + t / 2 ^ 32
  { k with
    frac := t % 2 ^ 32
    now := if ns ≥ 1000000000 then ⟨(k.now.sec + 1) % 2 ^ 48, ns - 1000000000⟩ else ⟨k.now.sec, ns⟩
    up := k.up + 8 }

/-- PTP_REFCLK_EDGE. -/
def Chip.clockEdge (c : Chip) : Chip := { c with clock := c.clock.tick c.rate }

/-- The local clock reaches a later time, in ns. (DESIGN CHOICE, log entry 4) -/
def Clock.reach (k : Clock) (ns : Nat) : Clock :=
  let d := ns - Stamp.toNs k.now
  { k with now := normStamp 0 ns, frac := 0, up := k.up + d }

/-- The clock at a course boundary: it has passed a multiple of 2 ms since the last one (R340).
(DESIGN CHOICE, log entry 4) -/
def Chip.toCourse (c : Chip) : Chip :=
  let k := c.courseK
  let clock := if c.clock.lastCourse = some k then c.clock.reach ((c.nowNs / 2000000 + 1) * 2000000) else c.clock
  let c := { c with clock := clock }
  { c with clock := { c.clock with lastCourse := some c.courseK } }

/-- Whether a course boundary has just passed: its edge lies 0 to 8 ns after the exact multiple (R340), the next one up to 16. -/
def Chip.atBoundary (c : Chip) : Bool := decide (c.nowNs % 2000000 ≤ 16) && decide (c.clock.lastCourse = some c.courseK)

/-- The clock at a slot boundary: a multiple of 125 µs (R341). (DESIGN CHOICE, log entry 4) -/
def Chip.toSlot (c : Chip) : Chip :=
  let clock := if c.clock.lastSlot = some c.slotNo then c.clock.reach ((c.nowNs / 125000 + 1) * 125000) else c.clock
  let c := { c with clock := clock }
  { c with clock := { c.clock with lastSlot := some c.slotNo } }

/-- The source port of TIME_STAT.SOURCE. -/
def Chip.source (c : Chip) : Option Nat :=
  match c.get F.TIME_STAT_SOURCE with
  | 1 => some 0
  | 2 => some 1
  | _ => none

/-- A port of the network unit. -/
def Chip.port (c : Chip) (x : Nat) : Port := smGet Port.cold c.net.ports x

/-- Updates a port. -/
def Chip.modPort (c : Chip) (x : Nat) (f : Port → Port) : Chip :=
  { c with net := { c.net with ports := smMod Port.cold c.net.ports x f } }

/-- Updates the servo. -/
def Chip.updServo (c : Chip) (f : Servo → Servo) : Chip := { c with servo := f c.servo }

/-- A port with a mode of Table 14-2; 0b000 and reserved codes are unused (R417). -/
def Chip.portUsed (c : Chip) (x : Nat) : Bool :=
  let m := c.get F.PORT_CFG_MODE x
  decide (1 ≤ m ∧ m ≤ 5)

/-- Whether PTP runs on a port: PORT_CFG.PTP of a port in use (R417, R439). -/
def Chip.ptpOn (c : Chip) (x : Nat) : Bool := c.portUsed x && c.flag F.PORT_CFG_PTP x

/-- Mean path delay of a port over its last 8 valid exchanges (R441), none before the first. -/
def Chip.pathDelay (c : Chip) (x : Nat) : Option Int :=
  let l := (c.port x).delays
  if l = [] then none else some (rnaDiv (l.foldl (· + ·) 0) l.length)

/-- First lock has happened. -/
def Chip.locked (c : Chip) : Bool := c.flag F.TIME_STAT_FIRST_LOCK

/-- Pages in capture and every item admitted while the alarm lasts carry the time-degraded flag (R23).
(DEDUCED, log entry 76) -/
def Chip.flagDegraded (c : Chip) : Chip :=
  let caps := (List.range 16).filterMap (fun n => ((c.stream n).page).bind (·.item))
  caps.foldl (fun c n => c.modItem n (fun i => { i with flags := i.flags ||| 8 })) c

/-- TIME_ALARM: the alarm is raised (R444). -/
def Chip.raiseAlarm (c : Chip) : Chip :=
  let c := c.updServo (fun s => { s with good := 0 })
  let c := c.put F.TIME_STAT_STATE 3
  if c.flag F.TIME_STAT_ALARM then c
  else ((c.putB F.TIME_STAT_ALARM true).bump F.TIME_CNT_ALARMS).flagDegraded

/-- The state a port set and the lock give before first lock: FREE or ACQUIRE (Table 14-7). -/
def Chip.acquireState (c : Chip) : Chip :=
  if c.locked then c
  else
    match c.source with
    | none => (c.put F.TIME_STAT_STATE 0).updServo (fun s => { s with syncs := [], stepDue := none })
    | some x => if (c.pathDelay x).isSome then c.put F.TIME_STAT_STATE 1 else c.put F.TIME_STAT_STATE 0

/-- The source becomes a port, or none (R440, R444). -/
def Chip.setSource (c : Chip) (x : Option Nat) : Chip :=
  let old := c.source
  if old = x then c
  else
    let c := c.put F.TIME_STAT_SOURCE (match x with | none => 0 | some x => x + 1)
    let c := c.updServo (fun s => { s with syncs := [] })
    let c := if old.isSome ∧ x.isSome then c.bump F.TIME_CNT_SRC_CHG else c
    match x with
    | some x =>
      let c := c.putB F.TIME_STAT_HOLDOVER false
      let c := match (c.port x).announce with
        | some (_, off, v) => (c.putS F.TIME_STAT_UTC_OFFSET off).putB F.TIME_STAT_UTC_VALID v
        | none => c
      let c := c.put F.TIME_PATH_PATH (toField ((c.pathDelay x).getD 0) 32)
      c.acquireState
    | none =>
      if c.locked then
        let c := c.raiseAlarm
        let c := c.putB F.TIME_STAT_HOLDOVER true
        c.putS F.TIME_RATE_RATE c.servo.ri
      else c.acquireState

/-- The source is lost: the standby with a qualified Announce takes over, or there is none (R440). -/
def Chip.loseSource (c : Chip) : Chip :=
  match c.source with
  | none => c
  | some x =>
    let c := c.modPort x (fun p => { p with announce := none })
    let y := 1 - x
    if (c.port y).announce.isSome ∧ c.ptpOn y then c.setSource (some y) else c.setSource none

/-- SOURCE_TIMEOUT. -/
def Chip.sourceTimeout (c : Chip) : Chip :=
  if c.source.isNone then c else (c.bump F.TIME_CNT_SYNC_TMO).loseSource

/-- Dataset comparison as an ordered rank vector: smaller is better. (DEDUCED, log entry 109) -/
def ranksBetter : List Nat → List Nat → Bool
  | a :: as, b :: bs => if a < b then true else if b < a then false else ranksBetter as bs
  | _, _ => false

/-- ANNOUNCE_RECEIVED (R440). -/
def Chip.announce (c : Chip) (w : AnnounceIn) : Chip :=
  if !c.ptpOn w.port.val ∨ !w.qualified then c
  else
    let c := c.modPort w.port.val (fun p => { p with announce := some (w.dataset, w.utcOffset, w.utcValid) })
    match c.source with
    | none => c.setSource (some w.port.val)
    | some x =>
      if x = w.port.val then
        (c.putS F.TIME_STAT_UTC_OFFSET w.utcOffset).putB F.TIME_STAT_UTC_VALID w.utcValid
      else
        match (c.port x).announce with
        | some (d, _, _) => if ranksBetter w.dataset d then c.setSource (some w.port.val) else c
        | none => c.setSource (some w.port.val)

/-- DELAY_RESPONSE_RECEIVED: one exchange of either mechanism; under 802.1AS a delay beyond 800 ns is not valid
(R441, Table 14-6). -/
def Chip.delayResponse (c : Chip) (w : DelayIn) : Chip :=
  if !c.ptpOn w.port.val then c
  else
    let d := rnaDiv (w.ab + w.cd) 2
    if c.get F.TIME_CTRL_PROFILE = 0 ∧ d > 800 then c
    else
      let c := c.modPort w.port.val (fun p => { p with delays := (d :: p.delays).take 8 })
      if c.source = some w.port.val then
        (c.put F.TIME_PATH_PATH (toField ((c.pathDelay w.port.val).getD 0) 32)).acquireState
      else c

/-- RATE of first lock from the first and the fourth Sync (R442). -/
def lockRate (rate dm dl : Int) : Int :=
  if dl ≤ 0 then clampRate rate
  else clampRate (rnaDiv ((2 ^ 32 + rate) * dm - 2 ^ 32 * dl) dl.toNat)

/-- The servo of R443: new RI and RATE. -/
def servoStep (e ri si slew kp ki : Int) : Int × Int :=
  if |e| > slew then
    (ri, clampRate (ri + (if si ≤ 0 then 0 else rnaDiv (e * 2 ^ 32) si.toNat)))
  else
    let ri' := clampRate (ri + rnaDiv (e * ki) 256)
    (ri', clampRate (ri' + rnaDiv (e * kp) 256))

/-- A Sync after first lock (R443, R444). -/
def Chip.servoSync (c : Chip) (e : Int) (si : Nat) : Chip :=
  let slew := actsAs (c.get F.TIME_LIM_SLEW_NS) 1
  let tdeg := actsAs (c.get F.TIME_LIM_TDEG_NS) 1
  let (ri, rate) := servoStep e c.servo.ri si slew (c.get F.TIME_SERVO_KP) (c.get F.TIME_SERVO_KI)
  let c := (c.updServo (fun s => { s with ri := ri })).putS F.TIME_RATE_RATE rate
  if |e| > (tdeg : Int) then c.raiseAlarm
  else if 2 * |e| ≤ (tdeg : Int) then
    let g := c.servo.good + 1
    let c := c.updServo (fun s => { s with good := g })
    if c.flag F.TIME_STAT_ALARM ∧ g ≥ 16 then
      ((c.putB F.TIME_STAT_ALARM false).putB F.TIME_STAT_HOLDOVER false).put F.TIME_STAT_STATE 2
    else c
  else c.updServo (fun s => { s with good := 0 })

/-- A Sync before first lock: the fourth gives RATE and makes the step due (R442). -/
def Chip.acquireSync (c : Chip) (m l o : Int) : Chip :=
  if c.servo.stepDue.isSome then c
  else
    let syncs := c.servo.syncs ++ [(m, l, o)]
    let c := c.updServo (fun s => { s with syncs := syncs })
    match syncs with
    | (m1, l1, _) :: _ :: _ :: (m4, l4, o4) :: _ =>
      let rate := lockRate c.rate (m4 - m1) (l4 - l1)
      (c.putS F.TIME_RATE_RATE rate).updServo (fun s => { s with ri := rate, stepDue := some (o4, l4) })
    | _ => c

/-- SYNC_RECEIVED (R441 to R444). -/
def Chip.sync (c : Chip) (w : SyncIn) : Chip :=
  if c.source ≠ some w.port.val then c
  else
    match c.pathDelay w.port.val with
    | none => c
    | some d =>
      let m : Int := (Stamp.toNs w.origin : Int) + w.correction + d
      let l : Int := (Stamp.toNs w.rx : Int)
      let o := l - m
      let c := c.putSat F.TIME_OFFSET_OFFSET o
      if c.locked then c.servoSync (-o) w.interval else c.acquireSync m l o

/-- FIRST_LOCK: the single step of the clock, immediately after a course boundary; neither boundary falls in its
edge (R437, R340, R442). (DEDUCED, log entry 105) -/
def Chip.firstLock (c : Chip) : Chip :=
  match c.servo.stepDue with
  | none => c
  | some (o, _) =>
    if c.locked || !c.atBoundary then c
    else
      let t := ((c.nowNs : Int) - o).toNat
      let c := { c with clock := { c.clock with now := normStamp 0 t } }
      let c := { c with clock := { c.clock with lastCourse := some c.courseK, lastSlot := some c.slotNo } }
      let c := c.updServo (fun s => { s with stepDue := none, syncs := [], good := 0 })
      let c := c.updSched (fun s => { s with resume := (c.courseK + 1) * 16, served := [] })
      let c := foldN 8 (fun c k => c.modTransport k (fun x => { x with
        lastTrig := x.lastTrig.map (fun t => nsStamp ((Stamp.toNs t : Int) - o).toNat) })) c
      (c.putB F.TIME_STAT_FIRST_LOCK true).put F.TIME_STAT_STATE 2

/-- PPS_PULSE: a rising edge ADV ns before its instant, after first lock, unless the gate holds it low (R451). -/
def Chip.ppsPulse (c : Chip) : Chip :=
  let mode := c.get F.PPS_CFG_MODE
  if ¬ c.locked ∨ (mode ≠ 1 ∧ mode ≠ 2) ∨ (c.flag F.PPS_CFG_GATE ∧ c.flag F.TIME_STAT_ALARM) then c
  else
    let edge := c.nowNs - c.get F.PPS_CFG_ADV
    let width := if mode = 1 then c.get F.PPS_CFG_WIDTH * 1000000 else 100000
    c.updServo (fun s => { s with ppsEdge := some (nsStamp edge), ppsFall := some (nsStamp (edge + width)) })

/-- PTP_EVENT_EDGE: the third sample of a new level; the entry carries the time of the first (R452, R453). -/
def Chip.evtEdge (c : Chip) (falling : Bool) : Chip :=
  let sel := c.get F.EVT_CFG_EDGES
  if ¬ bitOf sel (b2n falling) then c
  else if c.servo.events.length ≥ 16 then
    (c.putB F.EVT_CFG_OVF true).bump F.TIME_CNT_EVT_DROP
  else
    let e := (nsStamp (c.nowNs - 16), falling, !c.locked, c.flag F.TIME_STAT_ALARM)
    let c := c.updServo (fun s => { s with events := s.events ++ [e] })
    c.put F.EVT_CFG_COUNT c.servo.events.length

end Sys2Proof.Machine
end

