-- ==== Sys2Proof/Machine/Net.lean ====
section
/-!
DEFINITION. The Ethernet ports of chapter 14: links, addresses, the IP stack, queues and gates, policing,
replication, time-stamp points.
-/

namespace Sys2Proof.Machine

/-- The port's image configuration. -/
def Chip.portNet (c : Chip) (x : Nat) : Option PortNet := c.image.ports[x]?

/-- The MAC address of a port. -/
def Chip.mac (c : Chip) (x : Nat) : Nat := c.get F.PORT_MAC_HI_MAC_HI x * 2 ^ 32 + c.get F.PORT_MAC_LO_MAC_LO x

/-- The link-local address of a port: EUI-64 of its MAC address (R422). -/
def Chip.linkLocal (c : Chip) (x : Nat) : Nat :=
  let m := c.mac x
  let hi := (bitsOf m 24 24) ^^^ 0x020000
  0xFE80 * 2 ^ 112 + (hi * 2 ^ 40 + 0xFFFE * 2 ^ 24 + bitsOf m 0 24)

/-- The unicast addresses of a port that are not disabled as duplicates (R422, R423). -/
def Chip.ownAddrs (c : Chip) (x : Nat) : List Addr :=
  let v4 := c.get F.PORT_IP4_ADDR x
  let l4 : List Addr := if v4 = 0 then [] else [⟨false, v4⟩]
  let l6 : List Addr :=
    if c.flag F.PORT_CFG_IPV6 x then
      ⟨true, c.linkLocal x⟩ :: (match (c.portNet x).bind (·.ip6) with | some g => [⟨true, g⟩] | none => [])
    else []
  (l4 ++ l6).filter (fun a => !(c.port x).dups.contains a)

/-- The IP MTU of a port in bytes (Table 14-10). -/
def Chip.mtu (c : Chip) (x : Nat) : Nat := 2 * Nat.min 750 (Nat.max 640 (c.get F.PORT_CFG_MTU x))

/-- The UDP payload limit of a port. -/
def Chip.udpLimit (c : Chip) (x : Nat) (v6 : Bool) : Nat := c.mtu x - (if v6 then 48 else 28)

/-- Hands a frame to a port; on a port whose link is down it is discarded at once (R549). -/
def Chip.push (c : Chip) (x : Nat) (f : TxFrame) : Chip :=
  if ¬ c.flag F.PORT_STAT_LINK x then c
  else c.modPort x (fun p => { p with queues := smMod [] p.queues f.queue (· ++ [f]) })

/-- A control frame of queue 1 without an inserted time. -/
def ctlFrame (k : TxKind) (dst : Addr) (payload : List Byte) : TxFrame := ⟨1, k, dst, 0, payload, none⟩

/-- LINK_DOWN_DISCARD: frames handed to a port whose link is down are discarded, unsent and uncounted (R549). -/
def Chip.discardDown (c : Chip) (x : Nat) : Chip :=
  if c.flag F.PORT_STAT_LINK x then c else c.modPort x (fun p => { p with queues := [] })

/-- Rates a mode lists, in the codes of PORT_STAT.RATE (Table 14-2). -/
def modeRates (m : Nat) : List Nat :=
  match m with
  | 1 => [1]
  | 2 => [2]
  | 3 => [3]
  | 4 => [4]
  | 5 => [1, 2, 3, 4]
  | _ => []

/-- PTP groups are joined when PTP runs over UDP on the port (R422). -/
def Chip.ptpUdp (c : Chip) (x : Nat) : Bool :=
  c.flag F.PORT_CFG_PTP x && decide (c.get F.TIME_CTRL_TRANSPORT ≠ 0 ∧ c.get F.TIME_CTRL_PROFILE ≠ 0)

/-- Reports for the PTP multicast groups, at link-up and in answer to queries (R422). -/
def Chip.sendReports (c : Chip) (x : Nat) : Chip :=
  if c.ptpUdp x then
    let v6 := decide (c.get F.TIME_CTRL_TRANSPORT = 2)
    let dst : Addr := if v6 then ⟨true, 0xFF02 * 2 ^ 112 + 0x181⟩ else ⟨false, 0xE0000181⟩
    (c.push x (ctlFrame .group dst [])).modPort x (fun p => { p with joined := true })
  else c

/-- The frames of link-up for each own address: gratuitous ARP, unsolicited neighbour advertisement (R423). -/
def Chip.announceAddrs (c : Chip) (x : Nat) : Chip :=
  (c.ownAddrs x).foldl (fun c a => c.push x (ctlFrame (if a.v6 then .nd else .arp) a (beBytes 6 (c.mac x)))) c

/-- LINK_DOWN: either condition of R419 is lost. -/
def Chip.linkDownPort (c : Chip) (x : Nat) : Chip :=
  if ¬ c.flag F.PORT_STAT_LINK x then c
  else
    let c := ((c.putB F.PORT_STAT_LINK false x).put F.PORT_STAT_RATE 0 x).putB F.PORT_STAT_PCS_LOCK false x
    let c := (c.put F.PORT_STAT_VERIFY 0 x).bump F.PORT_CNT1_LINK_DOWN x
    c.modPort x (fun p => { p with preemptOn := false, txEnd := 0, cut := none })

/-- LINK_UP without what sessions do: link state and rate from the PCS or the PHY's control word (R418, R419). -/
def Chip.linkUpPort (c : Chip) (x rate : Nat) (full : Bool) : Chip :=
  let m := c.get F.PORT_CFG_MODE x
  if !c.portUsed x then c
  else
    let inBand := decide (m = 1 ∨ m = 5)
    if inBand && (!full || !(modeRates m).contains rate) then
      (c.linkDownPort x).putB F.PORT_STAT_AN_BAD true x
    else
      let r := if inBand then rate else m
      let c := ((c.putB F.PORT_STAT_LINK true x).put F.PORT_STAT_RATE r x).putB F.PORT_STAT_PCS_LOCK true x
      let c := c.putB F.PORT_STAT_AN_BAD false x
      let c := c.put F.PORT_STAT_VERIFY (if c.flag F.PORT_CFG_PREEMPT x then 1 else 0) x
      let c := c.modPort x (fun p => { p with preemptOn := false })
      let c := (c.announceAddrs x).sendReports x
      if c.flag F.PORT_CFG_DHCP x ∧ c.get F.PORT_STAT_DHCP x ≠ 2 then
        (c.put F.PORT_STAT_DHCP 1 x).push x (ctlFrame .dhcp ⟨false, 0xFFFFFFFF⟩ (Config.dhcpMessage 1 x 0))
      else c

/-- PREEMPT_VERIFY: the result of the verify process (R430). -/
def Chip.preemptVerify (c : Chip) (x : Nat) (ok : Bool) : Chip :=
  if c.get F.PORT_STAT_VERIFY x ≠ 1 then c
  else (c.put F.PORT_STAT_VERIFY (if ok then 2 else 3) x).modPort x (fun p => { p with preemptOn := ok })

/-- Adds or refreshes an entry of the 64-entry address cache (R423). -/
def Chip.learn (c : Chip) (x : Nat) (a : Addr) (mac : Nat) : Chip :=
  c.modPort x (fun p =>
    let l := (p.cache.filter (fun e => e.1 ≠ a)) ++ [(a, mac)]
    { p with cache := l.drop (l.length - 64) })

/-- ARP_ENTRY_EXPIRE: an entry has lived 300 s. -/
def Chip.cacheExpire (c : Chip) (x : Nat) (a : Addr) : Chip :=
  c.modPort x (fun p => { p with cache := p.cache.filter (fun e => e.1 ≠ a) })

/-- DUPLICATE_ADDRESS: an IPv6 address that failed duplicate detection is disabled (R423). -/
def Chip.duplicate (c : Chip) (x : Nat) (a : Addr) : Chip :=
  if a.v6 ∧ (c.ownAddrs x).contains a then
    (c.modPort x (fun p => { p with dups := p.dups ++ [a] })).putB F.PORT_STAT_DUP true x
  else c

/-- DHCP_RENEW and DHCP_REBIND: a REQUEST at T1 to the server, at T2 to all (R425). -/
def Chip.dhcpRequest (c : Chip) (x : Nat) (dst : Addr) : Chip :=
  if c.get F.PORT_STAT_DHCP x = 2 then
    c.push x (ctlFrame .dhcp dst (Config.dhcpMessage 3 x (c.get F.PORT_IP4_ADDR x)))
  else c

/-- DHCP_LEASE_EXPIRE without what sessions do: the address is removed (R425). -/
def Chip.leaseExpire (c : Chip) (x : Nat) : Chip :=
  if c.get F.PORT_STAT_DHCP x ≠ 2 then c
  else
    let c := (c.put F.PORT_STAT_DHCP 3 x).put F.PORT_IP4_ADDR 0 x
    let c := c.modPort x (fun p => { p with lease := none })
    c.push x (ctlFrame .dhcp ⟨false, 0xFFFFFFFF⟩ (Config.dhcpMessage 1 x 0))

/-- An option of a DHCP message; `fuel` bounds the options. -/
def dhcpOption (code : Nat) : Nat → List Byte → Option (List Byte)
  | 0, _ => none
  | _, [] => none
  | fuel + 1, t :: rest =>
    if t = 0 then dhcpOption code fuel rest
    else if t = 255 then none
    else
      match rest with
      | [] => none
      | n :: body =>
        if t.toNat = code then some (body.take n.toNat) else dhcpOption code fuel (body.drop n.toNat)

/-- DHCP_MESSAGE: an OFFER is requested, an ACK binds the lease, a NAK starts again (R425). -/
def Chip.dhcpMessage (c : Chip) (x : Nat) (m : List Byte) : Chip :=
  let opt := fun k => dhcpOption k m.length (m.drop 240)
  let your := beNat ((m.drop 16).take 4)
  match (opt 53).map beNat with
  | some 2 =>
    if c.get F.PORT_STAT_DHCP x = 2 then c
    else c.push x (ctlFrame .dhcp ⟨false, 0xFFFFFFFF⟩ (Config.dhcpMessage 3 x your))
  | some 5 =>
    let c := (c.put F.PORT_STAT_DHCP 2 x).put F.PORT_IP4_ADDR your x
    let c := c.modPort x (fun p => { p with lease := some (your, beNat ((opt 1).getD []),
      beNat (((opt 3).getD []).take 4), beNat ((opt 51).getD [])) })
    c.announceAddrs x
  | some 6 =>
    let c := (c.put F.PORT_STAT_DHCP 1 x).put F.PORT_IP4_ADDR 0 x
    c.push x (ctlFrame .dhcp ⟨false, 0xFFFFFFFF⟩ (Config.dhcpMessage 1 x 0))
  | _ => c

/-! ## Gates and transmission -/

/-- The gate control list of a port in the running variant. -/
def Chip.gcl (c : Chip) (x : Nat) : List GateEntry := (c.variant.bind (fun v => v.gcl[x]?)).getD []

/-- Cycle time of a list, ns. -/
def gclCycle (l : List GateEntry) : Nat := (l.map (fun e => e.interval * 4)).foldl (· + ·) 0

/-- Puts entry `i` of a list in force from a time on (Table 14-4). -/
def Chip.enterGate (c : Chip) (x i start : Nat) : Chip :=
  match (c.gcl x)[i]? with
  | none => c.modPort x (fun p => { p with gates := 255, hold := false })
  | some e =>
    c.modPort x (fun p => { p with
      entry := i, gates := e.gates, entryEnd := start + e.interval * 4,
      hold := if e.op = 1 then true else if e.op = 2 then false else p.hold })

/-- The lists of a variant start at the boundary of its switch (R427). -/
def Chip.startLists (c : Chip) : Chip :=
  (List.range 2).foldl (fun c x => c.enterGate x 0 (c.nowNs / 2000000 * 2000000)) c

/-- The lists start at a course boundary: every cycle of 2 ms or less, or K mod (cycle ÷ 2 ms) = 0 (R427). -/
def Chip.gclCourse (c : Chip) : Chip :=
  (List.range 2).foldl (fun c x =>
    let cyc := gclCycle (c.gcl x)
    if c.gcl x = [] then c.enterGate x 0 0
    else if cyc ≤ 2000000 ∨ c.courseK % (cyc / 2000000) = 0 then
      c.enterGate x 0 (c.nowNs / 2000000 * 2000000)
    else c) c

/-- Bytes of a frame on the wire: headers, payload, FCS, preamble and interframe gap, at least a minimum frame. -/
def Chip.wireBytes (c : Chip) (x : Nat) (f : TxFrame) : Nat :=
  let ip := match f.kind with
    | .arp => 28
    | .delayReq | .pdelayReq => 10 + (if c.ptpUdp x then (if f.dst.v6 then 50 else 28) else 0)
    | .pdelayResp _ => if c.ptpUdp x then (if f.dst.v6 then 50 else 28) else 0
    | _ => if f.dst.v6 then 48 else 28
  let tag := b2n (c.flag F.PORT_CFG_TAGGED x) * 4 + (if f.rtag.isSome then 6 else 0)
  Nat.max 64 (18 + tag + ip + f.payload.length) + 20

/-- Time a frame takes on the wire, ns rounded up. -/
def Chip.wireNs (c : Chip) (x : Nat) (bytes : Nat) : Nat :=
  ceilDiv (bytes * 8000) (rateMbit (c.get F.PORT_STAT_RATE x))

/-- How long a queue's gate stays open from now, ns, up to a whole cycle. -/
def openNs (q : Nat) : List GateEntry → Nat
  | [] => 0
  | e :: r => if bitOf e.gates q then e.interval * 4 + openNs q r else 0

/-- Time left until the gate of a queue next closes (R428). -/
def Chip.gateLeft (c : Chip) (x q : Nat) : Nat :=
  let l := c.gcl x
  let p := c.port x
  if l = [] then 10 ^ 12
  else if !bitOf p.gates q then 0
  else (p.entryEnd - c.nowNs) + openNs q ((l.drop (p.entry + 1)) ++ l.take (p.entry + 1))

/-- Next hop of an address on a port: on the link, or the gateway. -/
def Chip.nextHop (c : Chip) (x : Nat) (a : Addr) : Addr :=
  match c.portNet x with
  | none => a
  | some n =>
    if a.v6 then
      if a.val / 2 ^ 112 = 0xFE80 ∨ n.ip6Len = 0 then a
      else if a.val / 2 ^ (128 - n.ip6Len) = (n.ip6.getD 0) / 2 ^ (128 - n.ip6Len) then a else ⟨true, n.gw6⟩
    else
      let (len, gw) := match (c.port x).lease with
        | some (_, mask, gw, _) => ((maskBits 32 mask).length, gw)
        | none => (n.ip4Len, n.gw4)
      if a.val / 2 ^ (32 - len) = c.get F.PORT_IP4_ADDR x / 2 ^ (32 - len) then a else ⟨false, gw⟩

/-- Whether a frame needs a resolved next hop, and has one. -/
def Chip.resolved (c : Chip) (x : Nat) (f : TxFrame) : Bool :=
  match f.kind with
  | .jrt _ _ _ => (c.port x).cache.any (fun e => e.1 = c.nextHop x f.dst)
  | .nmp => (c.port x).cache.any (fun e => e.1 = c.nextHop x f.dst)
  | .icmp => (c.port x).cache.any (fun e => e.1 = c.nextHop x f.dst)
  | _ => true

/-- Hands over a frame for an address, asking for its next hop when it is not known (R423). -/
def Chip.pushTo (c : Chip) (x : Nat) (f : TxFrame) : Chip :=
  let hop := c.nextHop x f.dst
  let c := if c.resolved x f then c else c.push x (ctlFrame (if hop.v6 then .nd else .arp) hop [])
  c.push x f

/-- Whether frames of a queue may be preempted: it is mapped to the preemptable MAC, and preemption is active (R429, R430). -/
def Chip.preemptable (c : Chip) (x q : Nat) : Bool := (c.port x).preemptOn && bitOf (c.get F.QUEUE_MAP_PMAC x) q

/-- A frame is in transmission on the port. -/
def Chip.sending (c : Chip) (x : Nat) : Bool := decide (c.upNs < (c.port x).txEnd)

/-- A preempted frame may resume: its gate is open and no hold is in force (R429). -/
def Chip.canResume (c : Chip) (x : Nat) : Bool :=
  match (c.port x).cut with
  | some (q, _) => bitOf (c.port x).gates q && !(c.port x).hold
  | none => false

/-- Whether the port is free for a frame of a queue: none is in transmission, a preempted one waits for no other preemptable
frame, and one that may resume goes before the queues below its own (R426, R429). (DEDUCED, log entry 125) -/
def Chip.freeFor (c : Chip) (x q : Nat) : Bool :=
  !c.sending x &&
  (match (c.port x).cut with
   | some (k, _) => !c.preemptable x q && (decide (k < q) || !c.canResume x)
   | none => true)

/-- Whether the head frame of a queue may start now (R426, R428, R429). -/
def Chip.mayStart (c : Chip) (x q : Nat) (f : TxFrame) : Bool :=
  let p := c.port x
  let preemptable := c.preemptable x q
  let need := if preemptable then 64 * (c.get F.PORT_CFG_FRAG x + 1) + 20 else c.wireBytes x f
  c.freeFor x q && bitOf p.gates q && c.resolved x f && decide (c.wireNs x need ≤ c.gateLeft x q) && !(preemptable && p.hold)

/-- The queue the port transmits from (R426). -/
def Chip.pickQueue (c : Chip) (x : Nat) : Option (Nat × TxFrame) :=
  [7, 6, 5, 4, 3, 2, 1, 0].findSome? (fun q =>
    match smGet [] (c.port x).queues q with
    | f :: _ => if c.mayStart x q f then some (q, f) else none
    | [] => none)

/-- Fixed transmit and receive latencies by mode in tenths of a ns (Table 14-9). -/
def fixedLat (m : Nat) : Nat × Nat :=
  match m with
  | 1 => (960, 1520)
  | 2 => (640, 1120)
  | 3 => (768, 1248)
  | 4 => (512, 896)
  | 5 => (576, 960)
  | _ => (0, 0)

/-- The send-time of a frame that starts now (R446, R449), whole ns. -/
def Chip.txStamp (c : Chip) (x : Nat) : Nat :=
  let t : Int := (c.nowNs : Int) * 10 + ((fixedLat (c.get F.PORT_CFG_MODE x)).1 : Int) + 10 * c.getS F.PORT_LAT_TX_ADJ x
  (t / 10).toNat

/-- The receive time-stamp of a frame that arrives now (R446). -/
def Chip.rxStamp (c : Chip) (x : Nat) : Nat :=
  let t : Int := (c.nowNs : Int) * 10 - ((fixedLat (c.get F.PORT_CFG_MODE x)).2 : Int) - 10 * c.getS F.PORT_LAT_RX_ADJ x
  (t / 10).toNat

/-- Ten bytes of a time field: 48 bits of seconds, 32 of nanoseconds. -/
def timeField (ns : Nat) : List Byte := beBytes 6 (ns / 1000000000) ++ beBytes 4 (ns % 1000000000)

/-- Ones'-complement sum of 16-bit words. -/
def onesSum (l : List Byte) : Nat :=
  let s := ((chunksOf 2 l.length l).map beNat).foldl (· + ·) 0
  let s := s % 65536 + s / 65536
  s % 65536 + s / 65536

/-- The two bytes that keep the UDP checksum of a frame over IPv6 valid (R448). -/
def evenOut (f : TxFrame) (t : List Byte) : List Byte := if f.dst.v6 then beBytes 2 (65535 - onesSum t) else []

/-- The payload as it leaves: the inserted time fields of R447 and the compensation of R448. -/
def insertTime (f : TxFrame) (ns : Nat) : List Byte :=
  match f.kind with
  | .delayReq | .pdelayReq => f.payload ++ timeField ns ++ evenOut f (timeField ns)
  | .pdelayResp rx =>
    let t := beBytes 8 ((ns - rx) * 65536)
    f.payload.take 8 ++ t ++ f.payload.drop 16 ++ evenOut f t
  | .jrt _ true _ =>
    if bitOf ((f.payload.getD 3 0).toNat) 5 then
      let t := timeField ns
      let body := (f.payload.take 20 ++ t ++ f.payload.drop 30)
      if f.dst.v6 then body.take (body.length - 2) ++ evenOut f t else body
    else f.payload
  | _ => f.payload

/-- A preempted frame goes on (R429). -/
def Chip.resumeFrame (c : Chip) (x : Nat) : Chip :=
  match (c.port x).cut with
  | some (_, left) =>
    if c.canResume x && !c.sending x then c.modPort x (fun p => { p with txEnd := c.upNs + left, cut := none }) else c
  | none => c

/-- FRAME_TRANSMIT: the frame chosen by R426 leaves and carries its send-time; where none may start, a preempted one goes on. -/
def Chip.transmit (c : Chip) (x : Nat) : Chip × Option (TxFrame × Nat) :=
  if ¬ c.flag F.PORT_STAT_LINK x then (c.discardDown x, none)
  else
    match c.pickQueue x with
    | none => (c.resumeFrame x, none)
    | some (q, f) =>
      let t := c.txStamp x
      (c.modPort x (fun p => { p with
          queues := smMod [] p.queues q (·.drop 1)
          txEnd := c.upNs + c.wireNs x (c.wireBytes x f)
          lastTx := some (f, nsStamp t, insertTime f t) }), some (f, t))

/-- A preemptable frame in transmission whose gate has closed, or under a hold, is preempted and counted (R429).
(DEDUCED, log entry 125) -/
def Chip.preemptFrame (c : Chip) (x : Nat) : Chip :=
  let p := c.port x
  match p.lastTx with
  | none => c
  | some (f, _) =>
    if c.sending x && c.preemptable x f.queue && (!bitOf p.gates f.queue || p.hold) then
      (c.modPort x (fun p => { p with cut := some (f.queue, p.txEnd - c.upNs), txEnd := 0 })).bump F.PORT_CNT1_PREEMPT x
    else c

/-- GATE_ENTRY_START: the next entry begins; a preemptable frame in transmission whose gate closes, or under a
hold, is preempted and counted (R427, R429). -/
def Chip.gateEntry (c : Chip) (x : Nat) : Chip :=
  let l := c.gcl x
  if l = [] then c
  else
    let p := c.port x
    let i := (p.entry + 1) % l.length
    let c := c.enterGate x i p.entryEnd
    c.preemptFrame x

/-! ## Reception -/

/-- VID and PCP of the only tag, if there is one. -/
def FrameIn.tag (f : FrameIn) : Option (Nat × Nat) := f.tags.head?

/-- Frames the tag rules of R421 accept. -/
def Chip.tagOk (c : Chip) (x : Nat) (f : FrameIn) : Bool :=
  let untagged := match f.tags with
    | [] => true
    | (vid, _) :: _ => decide (vid = 0)
  match f.l3 with
  | .ptp _ => if c.get F.TIME_CTRL_PROFILE = 0 then untagged
      else if c.flag F.PORT_CFG_TAGGED x then f.tags.any (fun t => t.1 = c.get F.PORT_CFG_VID x) else untagged
  | _ => if c.flag F.PORT_CFG_TAGGED x then f.tags.any (fun t => t.1 = c.get F.PORT_CFG_VID x) else untagged

/-- Source address and UDP destination port of a frame. -/
def frameFlow (f : FrameIn) : Option (Addr × Nat) :=
  match f.l3 with
  | .ipv4 s _ _ (.udp _ d _) => some (⟨false, s⟩, d)
  | .ipv6 s _ _ _ (.udp _ d _) => some (⟨true, s⟩, d)
  | _ => none

/-- Stream identification: null, or IP (R432, R433). -/
def flowMatch (byMac : Bool) (mac vid : Nat) (src : Addr) (dport : Nat) (f : FrameIn) : Bool :=
  if byMac then decide (f.dst = mac) && decide (((f.tags.head?).map (·.1)).getD 0 = vid)
  else decide (frameFlow f = some (src, dport))

/-- Whether a stream gate is open at a time of the local clock; its list is aligned to course boundaries. -/
def gateOpen : List (Bool × Nat) → Nat → Bool
  | [], _ => true
  | (o, n) :: r, t => if t < n ∨ r = [] then o else gateOpen r (t - n)

/-- One frame through a meter in colour-blind mode: whether it passes, and the buckets after it (R432). -/
def Meter.pass (m : Meter) (g : Filter) (bits now : Nat) : Bool × Meter :=
  let dt := now - m.at_
  let c := Nat.min (m.c + dt * g.cir) (g.cbs * 8 * 1000000000)
  let e := Nat.min (m.e + dt * g.eir) (g.ebs * 8 * 1000000000)
  let n := bits * 1000000000
  if n ≤ c then (true, ⟨c - n, e, now⟩) else if n ≤ e then (true, ⟨c, e - n, now⟩) else (false, ⟨c, e, now⟩)

/-- 802.1Qci on one frame: its filter, gate and meter (R432). -/
def Chip.police (c : Chip) (x : Nat) (f : FrameIn) : Bool × Chip :=
  match c.portNet x with
  | none => (true, c)
  | some n =>
    let k := n.filters.findIdx? (fun g => flowMatch g.byMac g.mac g.vid g.src g.dport f)
    let idx := k.getD 32
    let g := (k.bind (fun i => n.filters[i]?)).getD n.dflt
    let cyc := (g.gate.map (·.2)).foldl (· + ·) 0
    let gateOk := g.gate = [] ∨ gateOpen g.gate (c.nowNs % actsAs cyc 1)
    let sdu := f.len - 18 - 4 * f.tags.length
    if ¬ gateOk ∨ sdu > g.maxSdu then (false, c)
    else
      let full : Meter := ⟨g.cbs * 8 * 1000000000, g.ebs * 8 * 1000000000, 0⟩
      let r := (smGet full (c.port x).meters idx).pass g (f.len * 8) c.upNs
      (r.1, c.modPort x (fun p => { p with meters := smSet full p.meters idx r.2 }))

/-- Vector recovery of one sequence number: whether the frame is new, and the history after it (R433). -/
def Recovery.take (v : Recovery) (len num : Nat) : Bool × Recovery :=
  match v.last with
  | none => (true, ⟨some num, true :: List.replicate (len - 1) false⟩)
  | some last =>
    let d := signedOf ((num + 65536 - last) % 65536) 16
    if d ≥ (len : Int) ∨ d ≤ -(len : Int) then (false, v)
    else if d ≤ 0 then
      let k := (-d).toNat
      if v.hist.getD k false then (false, v) else (true, { v with hist := v.hist.set k true })
    else
      (true, ⟨some num, (true :: (List.replicate (d.toNat - 1) false ++ v.hist)).take len⟩)

/-- Duplicate elimination over both ports (R433). -/
def Chip.eliminate (c : Chip) (f : FrameIn) : Bool × Chip :=
  match f.rtag, c.image.frer.findIdx? (fun g => flowMatch g.byMac g.mac g.vid g.src g.dport f) with
  | some num, some i =>
    let len := ((c.image.frer[i]?).map (·.history)).getD 16
    let r := (smGet (⟨none, []⟩ : Recovery) c.net.frer i).take len (num % 65536)
    (r.1, { c with net := { c.net with frer := smSet ⟨none, []⟩ c.net.frer i r.2 } })
  | _, _ => (true, c)

/-- FRER_RESET_TIMEOUT: the stream's recovery starts again. -/
def Chip.frerReset (c : Chip) (i : Nat) : Chip :=
  { c with net := { c.net with frer := smSet ⟨none, []⟩ c.net.frer i ⟨none, []⟩ } }

/-- UDP port of management requests. -/
def nmpPort : Nat := 51741

/-- An echo request is answered to a unicast address, within the limits (R424). -/
def Chip.echo (c : Chip) (x : Nat) (src : Addr) (ident num : Nat) (data : List Byte) : Chip :=
  let sec := c.upNs / 1000000000
  let p := c.port x
  let n := if p.echoSec = sec then p.echoes else 0
  if data.length > 1472 ∨ n ≥ 100 then c
  else
    let c := c.modPort x (fun p => { p with echoSec := sec, echoes := n + 1 })
    c.pushTo x (ctlFrame .icmp src (beBytes 2 ident ++ beBytes 2 num ++ data))

/-- A UDP datagram to an own address. -/
def Chip.udpIn (c : Chip) (x : Nat) (src : Addr) (sport dport : Nat) (payload : List Byte) : Chip :=
  if dport = 68 ∧ ¬ src.v6 ∧ c.flag F.PORT_CFG_DHCP x then c.dhcpMessage x payload
  else if dport = c.get F.JRT_CFG_UDP_PORT ∨ dport = nmpPort then
    let d : DgIn := ⟨if x = 0 then 0 else 1, src, sport, payload⟩
    { c with net := { c.net with fabricIn := c.net.fabricIn ++ [(d, nsStamp (c.rxStamp x))] } }
  else c

/-- The layer-4 part of an accepted IP datagram. -/
def Chip.l4In (c : Chip) (x : Nat) (src dst : Addr) (l : L4) : Chip :=
  let own := (c.ownAddrs x).contains dst
  match l with
  | .echo i n d => if own then c.echo x src i n d else c
  | .udp s d p => c.udpIn x src s d p
  | .groupQuery => c.sendReports x
  | .neighbourSolicit t =>
    if (c.ownAddrs x).contains ⟨true, t⟩ then c.push x (ctlFrame .nd src (beBytes 6 (c.mac x))) else c
  | .neighbourAdvert _ => c
  | .routerAdvert => c
  | .other _ => c

/-- Whether an IP destination is the port's: an own unicast address, a joined group, or the limited broadcast
that DHCP needs. -/
def Chip.dstOk (c : Chip) (x : Nat) (a : Addr) : Bool :=
  (c.ownAddrs x).contains a ||
  (c.ptpUdp x && ([(⟨false, 0xE0000181⟩ : Addr), ⟨false, 0xE000006B⟩, ⟨true, 0xFF02 * 2 ^ 112 + 0x181⟩].contains a)) ||
  (!a.v6 && decide (a.val / 2 ^ 28 = 14) && decide (a.val = 0xE0000001)) ||
  (a.v6 && decide (a.val / 2 ^ 104 = 0xFF0200)) ||
  (!a.v6 && c.flag F.PORT_CFG_DHCP x && decide (c.get F.PORT_STAT_DHCP x ≠ 0))

/-- The IP stack on one frame (R422 to R425). -/
def Chip.ipIn (c : Chip) (x : Nat) (f : FrameIn) : Chip :=
  match f.l3 with
  | .arpRequest sip smac tip =>
    let c := c.learn x ⟨false, sip⟩ smac
    if c.get F.PORT_IP4_ADDR x = tip ∧ tip ≠ 0 then c.push x (ctlFrame .arp ⟨false, sip⟩ (beBytes 6 (c.mac x))) else c
  | .arpReply sip smac => c.learn x ⟨false, sip⟩ smac
  | .ipv4 s d frag l =>
    if frag ∨ !c.dstOk x ⟨false, d⟩ then c.bump F.PORT_CNT0_RX_BAD x else c.l4In x ⟨false, s⟩ ⟨false, d⟩ l
  | .ipv6 s d ext frag l =>
    if ext ∨ frag ∨ !c.dstOk x ⟨true, d⟩ ∨ ¬ c.flag F.PORT_CFG_IPV6 x then c.bump F.PORT_CNT0_RX_BAD x
    else
      let c := match l with
        | .neighbourAdvert t => c.learn x ⟨true, t⟩ f.src
        | .neighbourSolicit _ => c.learn x ⟨true, s⟩ f.src
        | _ => c
      c.l4In x ⟨true, s⟩ ⟨true, d⟩ l
  | .ptp _ => c
  | .pause => c
  | .other _ => c

/-- FRAME_RECEIVE without what sessions do; the frame goes to the fabric in the system's share of the chip-unit link (R420,
R421, R432, R433, R38, R450, R422, R359).
(DEDUCED, log entry 36; DESIGN CHOICE, log entry 111) -/
def Chip.receive (c : Chip) (x : Nat) (f : FrameIn) : Chip :=
  if ¬ c.flag F.PORT_STAT_LINK x then c
  else if f.len > 1522 ∨ !f.fcsOk ∨ f.tags.length > 1 then c.bump F.PORT_CNT0_RX_BAD x
  else if f.l3 = .pause then c
  else if !c.tagOk x f then c.bump F.PORT_CNT0_RX_BAD x
  else
    let r := c.police x f
    if !r.1 then r.2.bump F.PORT_CNT0_POLICED x
    else
      let c := r.2.modPort x (fun p => { p with lastRx := some (nsStamp (c.rxStamp x)) })
      let e := c.eliminate f
      if !e.1 then e.2.bump F.PORT_CNT1_FRER_ELIM x
      else if f.crossingFull then e.2.bump F.PORT_CNT0_RX_OVF x
      else (e.2.modHedge 4 (fun h => h.give 17 (ceilDiv f.len 64))).ipIn x f

/-- The multicast group of PTP messages over UDP, of peer delay messages or of the others (IEEE 1588). (PRESUMED, log entry 125) -/
def Chip.ptpGroup (c : Chip) (x : Nat) (peer : Bool) : Addr :=
  if c.get F.TIME_CTRL_TRANSPORT = 2 ∧ c.ptpUdp x then ⟨true, 0xFF02 * 2 ^ 112 + (if peer then 0x6B else 0x181)⟩
  else ⟨false, if peer then 0xE000006B else 0xE0000181⟩

/-- DELAY_REQUEST_TIMER: the request of the profile's mechanism leaves on queue 6 (R439). -/
def Chip.delayRequest (c : Chip) (x : Nat) : Chip :=
  if !c.ptpOn x then c
  else
    let e2e := decide (c.get F.TIME_CTRL_PROFILE = 1)
    let c' := { c with free := c.free + 1 }
    c'.push x ⟨6, if e2e then .delayReq else .pdelayReq, c.ptpGroup x !e2e, 319, Config.ptpHeader (if e2e then 1 else 2) x c.free, none⟩

/-- PDELAY_REQ_RECEIVED: a one-step Pdelay_Resp answers (R439, R447). -/
def Chip.pdelayReq (c : Chip) (x : Nat) (_payload : List Byte) : Chip :=
  if !c.ptpOn x then c
  else
    let c' := { c with free := c.free + 1 }
    c'.push x ⟨6, .pdelayResp (c.rxStamp x), c.ptpGroup x true, 319, Config.ptpHeader 3 x c.free, none⟩

end Sys2Proof.Machine
end

