-- ==== Sys2Proof/Machine/Utf8.lean ====
section
/-!
DEFINITION. UTF-8: fronts, replacements, incomplete characters (R304, R305).
-/

namespace Sys2Proof.Machine

/-- Continuation bytes that a lead byte asks for, and the range of the first; 0 for a byte that leads nothing. -/
def leadInfo (b : Byte) : Nat × Nat × Nat :=
  let v := b.toNat
  if 0xC2 ≤ v ∧ v ≤ 0xDF then (1, 0x80, 0xBF)
  else if v = 0xE0 then (2, 0xA0, 0xBF)
  else if v = 0xED then (2, 0x80, 0x9F)
  else if 0xE1 ≤ v ∧ v ≤ 0xEF then (2, 0x80, 0xBF)
  else if v = 0xF0 then (3, 0x90, 0xBF)
  else if 0xF1 ≤ v ∧ v ≤ 0xF3 then (3, 0x80, 0xBF)
  else if v = 0xF4 then (3, 0x80, 0x8F)
  else (0, 0, 0)

/-- How many of the next bytes continue a sequence that still wants `n`, the first within `lo` to `hi`. -/
def contRun : Nat → Nat → Nat → List Byte → Nat
  | 0, _, _, _ => 0
  | _, _, _, [] => 0
  | n + 1, lo, hi, b :: r => if lo ≤ b.toNat ∧ b.toNat ≤ hi then 1 + contRun n 0x80 0xBF r else 0

/-- What stands at the front of bytes: its length, and whether it is well formed; an ill-formed front is its
maximal subpart (R304). -/
def utf8Front (l : List Byte) : Nat × Bool :=
  match l with
  | [] => (0, true)
  | b :: r =>
    if b.toNat < 0x80 then (1, true)
    else
      let i := leadInfo b
      if i.1 = 0 then (1, false)
      else
        let k := contRun i.1 i.2.1 i.2.2 r
        (1 + k, decide (k = i.1))

/-- Emits bytes: every maximal ill-formed subpart becomes U+FFFD; the count of replacements (R304). -/
def utf8Emit : Nat → List Byte → List Byte × Nat
  | 0, _ => ([], 0)
  | _, [] => ([], 0)
  | fuel + 1, l =>
    let f := utf8Front l
    let rest := utf8Emit fuel (l.drop f.1)
    if f.2 then (l.take f.1 ++ rest.1, rest.2) else ([0xEF, 0xBF, 0xBD] ++ rest.1, rest.2 + 1)

/-- Whether the bytes are a proper prefix of one well-formed sequence. -/
def utf8Partial (l : List Byte) : Bool :=
  match l with
  | [] => false
  | b :: r =>
    let i := leadInfo b
    decide (i.1 ≠ 0) && decide (contRun i.1 i.2.1 i.2.2 r = r.length) && decide (r.length < i.1)

/-- Length of the incomplete character that ends the bytes, 0 to 3 (R305). -/
def utf8Tail (l : List Byte) : Nat :=
  ((List.range 4).reverse.find? (fun k => k ≤ l.length && utf8Partial (l.drop (l.length - k)))).getD 0

end Sys2Proof.Machine
end

