-- ==== Sys2Proof/Machine/Items.lean ====
section
/-!
DEFINITION. Items: who receives them, their records, credits and feed hold (R128 to R133, R464 to R470, R479 to
R481, R365, R317).
-/

namespace Sys2Proof.Machine

/-- A session: 0 to 63 result, 64 + s submitting. -/
def Chip.sess (c : Chip) (s : Nat) : Session := smGet Session.cold c.sessions s
/-- Updates a session. -/
def Chip.modSess (c : Chip) (s : Nat) (f : Session → Session) : Chip :=
  { c with sessions := smMod Session.cold c.sessions s f }

/-- Spool bytes reserved per item. -/
def Chip.itemSpool (c : Chip) : Nat := actsAs (c.get F.JRT_SPOOL_ITEM_KIB) 1 * 1024

/-- Free spool of a session. -/
def Session.freeSpool (x : Session) : Nat := x.quota - x.held

/-- Spool area that no quota and no overdraft holds, bytes (R480). -/
def Chip.areaFree (c : Chip) : Nat :=
  c.get F.JRT_SPOOL_AREA_MIB * 2 ^ 20 -
    ((c.sessions.map (fun e => if e.2.open_ then Nat.max e.2.quota e.2.held else 0)).foldl (· + ·) 0)

/-- Shows a session's held spool in units of 64 KiB, and whether its quota is exceeded is judged from it. -/
def Chip.showSpool (c : Chip) (s : Nat) : Chip :=
  if s < 64 then
    let x := c.sess s
    let c := match x.quotaDue with
      | some q => c.modSess s (fun x => if x.held ≤ q then { x with quota := q, quotaDue := none }
          else { x with quota := x.held })
      | none => c
    let x := c.sess s
    (c.put F.SESS_SPOOL_HELD (Nat.min (ceilDiv x.held 65536) 65535) s).put F.SESS_SPOOL_QUOTA_MIB
      (Nat.min (x.quota / 2 ^ 20) 65535) s
  else c

/-- Returns spool bytes of a session. -/
def Chip.giveSpool (c : Chip) (s n : Nat) : Chip :=
  (c.modSess s (fun x => { x with held := x.held - n })).showSpool s

/-- Whether a declared class covers an origin: stream n is n, submitting session s is 16 + s. -/
def Chip.classCovers (c : Chip) (k o : Nat) : Bool :=
  c.flag F.CLASS_CFG_VALID k &&
    (if o < 16 then bitOf (c.get F.CLASS_STR_STREAMS k) o else bitOf (c.get F.CLASS_SUB_SESSIONS k) (o - 16))

/-- Classes of an origin a result session subscribes, lowest first. -/
def Chip.matching (c : Chip) (s o : Nat) : List Nat :=
  (List.range 32).filter (fun k =>
    (bitOf (c.get F.SESS_MAND_CLASSES s) k || bitOf (c.get F.SESS_OPT_CLASSES s) k) && c.classCovers k o)

/-- Decision fields of a class, in CLASS_DEC order. -/
def Chip.decisionFields (c : Chip) (k : Nat) : List Nat :=
  (List.range 4).filterMap (fun i =>
    let b := bitsOf (c.word .CLASS_DEC k) (8 * i) 8
    if bitOf b 7 then some (b % 64) else none)

/-- How an item reaches a session by its subscriptions, before the spool is asked (R464, R469). -/
def Chip.delivOf (c : Chip) (s o : Nat) : Option Deliv :=
  let x := c.sess s
  let ks := c.matching s o
  if !x.open_ || decide (c.get F.SESS_STAT_STATE s ≠ 3) || !bitOf x.roles 0 then none
  else
    match ks with
    | [] => none
    | k :: _ =>
      let tcs := ks.filter (fun k => c.flag F.CLASS_CFG_TC k)
      some { sess := s
             mandatory := ks.any (fun k => bitOf (c.get F.SESS_MAND_CLASSES s) k)
             level := maxNat (ks.map (fun k => c.get F.CLASS_CFG_CONTENT k))
             timeCritical := tcs ≠ [], cls := k
             decisions := dedup (tcs.flatMap c.decisionFields)
             left := 0, limited := false, cut := false }

/-- Adds an item to the gap of a class that a session is owed (R484, R485). (DEDUCED, log entry 83) -/
def Chip.addGap (c : Chip) (s cls item : Nat) (why : List Byte) : Chip :=
  c.modSess s (fun x =>
    if x.gaps.any (fun g => g.cls = cls ∧ g.why = why) then
      { x with gaps := x.gaps.map (fun g => if g.cls = cls ∧ g.why = why then { g with last := item } else g) }
    else { x with gaps := x.gaps ++ [⟨cls, item, item, why⟩] })

/-- Gap of every class of an item for a session. -/
def Chip.addGaps (c : Chip) (s o item : Nat) (why : List Byte) : Chip :=
  (c.matching s o).foldl (fun c k => c.addGap s k item why) c

/-- The spool reservation of one session for an item (R479, R480, R484): the delivery, or none when the session
skips the item; a mandatory session without any space is abandoned for it. -/
def Chip.reserve (c : Chip) (d : Deliv) (o item : Nat) : Chip × Option Deliv :=
  let need := c.itemSpool
  let x := c.sess d.sess
  if !d.mandatory && (c.flag F.SESS_STAT_STALLED d.sess || c.flag F.SESS_STAT_PATH_LOST d.sess) then
    (c.addGaps d.sess o item (txt "stall"), none)
  else if need ≤ x.freeSpool then
    ((c.modSess d.sess (fun x => { x with held := x.held + need })).showSpool d.sess, some { d with left := need })
  else if !d.mandatory then (c.addGaps d.sess o item (txt "spool"), none)
  else if need ≤ c.areaFree then
    let c := c.bump F.SESS_CNT1_OVERDRAW d.sess
    ((c.modSess d.sess (fun x => { x with held := x.held + need })).showSpool d.sess, some { d with left := need })
  else
    let c := (c.addGaps d.sess o item (txt "spool")).bump F.SESS_CNT1_ABANDON d.sess
    (c, some { d with cut := true })

/-- The sessions of an item, fixed at its admission (R464, R465). -/
def Chip.fixSessions (c : Chip) (o item : Nat) : Chip × List Deliv :=
  (List.range 64).foldl (fun (acc : Chip × List Deliv) s =>
    match acc.1.delivOf s o with
    | none => acc
    | some d =>
      let r := acc.1.reserve d o item
      match r.2 with
      | some d => (r.1, acc.2 ++ [d])
      | none => (r.1, acc.2)) (c, [])

/-- A fresh item with its number taken (R467). -/
def Item.blank (num origin part : Nat) (live : Bool) (stamp : Stamp) : Item :=
  { num := num, origin := origin, live := live, part := part, sheet := none, subm := none, refText := none,
    v1seq := none, stamp := stamp, lastLine := none, deadline := none, flags := 0, credit := 0, deliv := [],
    waiting := [], begun := false, ended := none, endNext := none, cutWhy := [], captured := false, subst := 0,
    bands := [], lines := 0, lineChars := [], chars := 0, toks := 0, fields := [], field := 0, overflow := false, commits := 0,
    reruns := 0, damage := [], damageFrac := 0, bg := 255, decoding := false, recWidth := 0, recHeight := 0,
    recCodec := 0, recPlanes := 0, rec2d := false, bytes := 0, got := 0, area := 0, arrived := 0, laneSteps := 0, complete := false, lost := false, skew := none, kvSlot := none,
    kvMark := 0, copies := [], texts := [],
    ctx := [], starts := [], lineImgs := [], wides := [], wideMark := [], skewed := false, tokSlot := none }

/-- The schema of an origin. -/
def Chip.schemaOf (c : Chip) (o : Nat) : Option Schema :=
  (c.image.schemaOf.find? (fun e => e.1 = o)).bind (fun e => c.image.schemas[e.2]?)

/-- A field that has not begun. -/
def FieldSt.fresh : FieldSt :=
  { begun := false, code := none, reason := [], text := [], gstate := 0, tokens := [], held := [] }

/-- Adapter sets that serve an origin. -/
def Chip.setsOf (c : Chip) (o : Nat) : List Nat :=
  (List.range 8).filter (fun s => c.flag F.ADAPT_SET_VALID s && ((c.image.adapt[s]?).map (·.origins)).any (·.contains o))

/-- The published copies that an item takes at its admission (R322), none under INFER_OFF (R338). -/
def Chip.takeCopies (c : Chip) (o : Nat) : List (Nat × Nat) :=
  if c.adapt.inferOff then [] else (c.setsOf o).map (fun s => (s, c.get F.ADAPT_SET_CUR s))

/-- Admits an item: the next number, its sessions, its fields, its adapter copies (R467, R464, R465, R322). -/
def Chip.takeItem (c : Chip) (i : Item) : Chip :=
  let num := c.items.next
  let r := c.fixSessions i.origin num
  let nf := ((c.schemaOf i.origin).map (·.fields.length)).getD 0
  let i := { i with num := num, deliv := r.2, fields := List.replicate nf FieldSt.fresh, copies := c.takeCopies i.origin }
  r.1.updItems (fun I => { I with list := I.list ++ [i], next := (num + 1) % 2 ^ 32, created := I.created + 1 })

/-! ## Records -/

/-- A time as its record value. -/
def timeVal (t : Stamp) : Cbor := .arr [.uint t.sec, .uint t.ns]

/-- ITEM_BEGIN (Table 15-8). -/
def beginRec (i : Item) (cls : Nat) : List Byte :=
  (recordMap ([(0, .uint 1), (1, .uint i.num), (2, .uint i.origin), (3, .uint cls), (4, timeVal i.stamp),
    (8, .uint i.flags)]
    ++ (match i.sheet with | some n => [(5, .uint n)] | none => [])
    ++ (match i.subm with | some (a, b) => [(6, .arr [.uint a, .uint b])] | none => [])
    ++ (match i.refText with | some t => [(7, .text t)] | none => [])
    ++ (match i.deadline with | some t => [(9, timeVal t)] | none => [])
    ++ (match i.v1seq with | some n => [(18, .uint n)] | none => []))).enc

/-- Escapes text as JSON string content (R315). -/
def jsonEsc : List Byte → List Byte
  | [] => []
  | b :: r =>
    let v := b.toNat
    let e : List Byte :=
      if v = 0x22 then [0x5C, 0x22] else if v = 0x5C then [0x5C, 0x5C]
      else if v = 8 then [0x5C, 0x62] else if v = 9 then [0x5C, 0x74] else if v = 10 then [0x5C, 0x6E]
      else if v = 12 then [0x5C, 0x66] else if v = 13 then [0x5C, 0x72]
      else if v < 0x20 then
        let hex := fun n => BitVec.ofNat 8 (if n < 10 then 0x30 + n else 0x57 + n)
        [0x5C, 0x75, 0x30, 0x30, hex (v / 16), hex (v % 16)]
      else [b]
    e ++ jsonEsc r

/-- The value of a field that ended valid (R315). -/
def fieldValue (isText : Bool) (t : List Byte) : List Byte :=
  if isText then (0x22 :: jsonEsc t) ++ [0x22] else t

/-- FIELD (Table 15-8, R316). -/
def fieldRec (item idx : Nat) (name : List Byte) (isText : Bool) (f : FieldSt) : List Byte :=
  let code := f.code.getD 6
  (recordMap ([(0, .uint 2), (1, .uint item), (10, .uint idx), (11, .text name), (12, .uint code)]
    ++ (if code = 0 then [(14, .text (fieldValue isText f.text))] else [(13, .text f.reason)])
    ++ (if 1 ≤ code ∧ code ≤ 4 then [(15, .text (jsonEsc f.text))] else []))).enc

/-- FIELD_PART. -/
def partRec (item idx off : Nat) (chunk : List Byte) : List Byte :=
  (recordMap [(0, .uint 3), (1, .uint item), (10, .uint idx), (16, .uint off), (17, .text chunk)]).enc

/-- The damage map (R189). -/
def damageMap (i : Item) : Cbor :=
  .map [(.uint 1, .uint i.damageFrac), (.uint 2, .uint i.damage.length),
    (.uint 3, .arr ((i.damage.take 64).map (fun d =>
      .arr [.uint d.kind, .uint d.off, .uint d.line, .uint d.col, .uint d.lines, .uint d.pixels])))]

/-- Decision values (R469). -/
def decisionVals (i : Item) (kinds : List Bool) (l : List Nat) : Cbor :=
  .arr (l.map (fun k =>
    let v : Cbor := match i.fields[k]? with
      | some f => if f.code = some 0 then .text (fieldValue (kinds.getD k false) f.text) else .null
      | none => .null
    .arr [.uint k, v]))

/-- ITEM_END (Table 15-8). (DEDUCED, log entries 34 and 75) -/
def endRec (i : Item) (v : Verdict) (d : Deliv) (kinds : List Bool) : List Byte :=
  let status := if d.limited ∧ (v.status = 0 ∨ v.status = 1) then 1 else v.status
  (recordMap ([(0, .uint 4), (1, .uint i.num), (8, .uint i.flags), (20, .uint status),
      (22, .uint (if v.status = 5 then 0 else i.fields.length))]
    ++ (if i.live then (match i.deadline with | some t => [(9, timeVal t)] | none => []) else [])
    ++ (if v.reason = [] then [] else [(21, .text v.reason)])
    ++ (if d.level = 3 ∧ i.origin ≥ 16 ∧ v.status ≠ 5 ∧ (i.damage ≠ [] ∨ i.captured) then [(23, damageMap i)] else [])
    ++ (if d.timeCritical then [(24, decisionVals i kinds d.decisions)] else []))).enc

/-- Puts a record formed for a session in line for the next egress slot (R382), drawing on its reservation. -/
def Chip.form (c : Chip) (i : Item) (d : Deliv) (kind : Nat) (bytes : List Byte) : Chip :=
  let c := { c with formed := c.formed ++ [(⟨d.sess, i.origin, i.num, kind, kind == 4 && d.timeCritical, bytes, if kind = 4 then i.deadline else none⟩ : Formed)] }
  c.modItem i.num (fun i => { i with deliv := i.deliv.map (fun (e : Deliv) =>
    if e.sess = d.sess then { e with left := e.left - bytes.length } else e) })

/-- A record formed outside items (answers, credits): it holds its own size of spool. -/
def Chip.formLoose (c : Chip) (s kind : Nat) (bytes : List Byte) : Chip :=
  { c with formed := c.formed ++ [⟨s, 63, 0, kind, false, bytes, none⟩] }

/-- ITEM_BEGIN_FORMED: for each session that receives the item, once (R468). (DEDUCED, log entry 34) -/
def Chip.formBegin (c : Chip) (n : Nat) : Chip :=
  match c.item n with
  | none => c
  | some i =>
    if i.begun then c
    else
      let c := c.modItem n (fun i => { i with begun := true })
      i.deliv.foldl (fun c d => if d.cut then c else c.form i d 1 (beginRec i d.cls)) c

/-- Field kinds of a schema: true for TEXT. -/
def Chip.kinds (c : Chip) (o : Nat) : List Bool :=
  ((c.schemaOf o).map (fun s => s.fields.map (fun f => f.desc.toNat / 2 ^ 63 = 1))).getD []

/-- Name of a field of an origin's schema. -/
def Chip.fieldName (c : Chip) (o k : Nat) : List Byte :=
  (((c.schemaOf o).bind (fun s => s.fields[k]?)).map (·.name)).getD []

/-- FIELD of one session, replaced under record-limit when it passes the reservation (R479).
(DEDUCED, log entry 35) -/
def Chip.formField (c : Chip) (n k : Nat) : Chip :=
  match c.item n with
  | none => c
  | some i =>
    match i.fields[k]? with
    | none => c
    | some f =>
      let name := c.fieldName i.origin k
      let isText := (c.kinds i.origin).getD k false
      i.deliv.foldl (fun c d =>
        if d.cut || decide (d.level = 0) then c
        else
          let r := fieldRec n k name isText f
          if r.length ≤ d.left then c.form i d 2 r
          else
            let r := fieldRec n k name isText { f with code := some 5, reason := txt "record-limit" }
            (c.form i d 2 r).modItem n (fun i => { i with deliv := i.deliv.map (fun e =>
              if e.sess = d.sess then { e with limited := true } else e) })) c

/-- FIELD_PART to the sessions at content level 2 and above (R470). (DEDUCED, log entry 35) -/
def Chip.formPart (c : Chip) (n k off : Nat) (chunk : List Byte) : Chip :=
  match c.item n with
  | none => c
  | some i =>
    if chunk = [] then c
    else
      i.deliv.foldl (fun c d =>
        let r := partRec n k off chunk
        if d.cut || decide (d.level < 2) || decide (r.length > d.left) then c else c.form i d 3 r) c

/-! ## Feed hold -/

/-- N of a stream: pages that can arrive after hold (R131). -/
def Chip.pagesAfter (c : Chip) (n : Nat) : Nat := c.get F.SNS_CREDIT_N n

/-- A mandatory session whose free spool is short for a stream of the transport (R481). -/
def Chip.spoolShort (c : Chip) (n : Nat) : Bool :=
  (List.range 64).any (fun s =>
    (c.sess s).open_ &&
    decide ((c.sess s).freeSpool < (c.pagesAfter n + 1) * c.itemSpool) &&
    (List.range 32).any (fun k => bitOf (c.get F.SESS_MAND_CLASSES s) k && c.classCovers k n))

/-- The reasons of R131 for a transport, in the bits of HOLD_STAT_k; the last is fault hold (R400), which has no
bit. -/
def Chip.holdReasons (c : Chip) (k : Nat) : List Bool :=
  let st := [2 * k, 2 * k + 1].filter (fun n => c.get F.SNS_CFG_GEN n ≠ 0)
  [ st.any (fun n => c.get F.SNS_STATE_STATE n = 3 ∧ c.get F.SNS_CREDIT_FREE n ≤ c.pagesAfter n),
    st.any (fun n => c.flag F.SNS_CREDIT_EMERG_HELD n),
    st.any (fun n => c.get F.SNS_STATE_STATE n = 2 ∨
      (c.get F.SNS_STATE_STATE n = 1 ∧ c.flag F.SNS_CFG_LIVE n ∧ ¬ c.locked)),
    st.any (fun n => c.get F.SNS_STATE_STATE n = 4),
    st.any (fun n => c.spoolShort n),
    bitOf (c.get F.VAR_STAT_SHED_TR) k,
    c.flag F.HOLD_STAT_FORCE k,
    c.flag F.VAR_STAT_HOLD ]

/-- Shows the reasons and drives ENCk_HOLD_N: asserted at once, released only after 2.000 ms (R131, R133). -/
def Chip.refreshHold (c : Chip) (k : Nat) : Chip :=
  let r := c.holdReasons k
  let b := fun i => r.getD i false
  let c := c.putB F.HOLD_STAT_CREDIT (b 0) k
  let c := c.putB F.HOLD_STAT_EMERG (b 1) k
  let c := c.putB F.HOLD_STAT_LOCK (b 2) k
  let c := c.putB F.HOLD_STAT_DRAIN (b 3) k
  let c := c.putB F.HOLD_STAT_SPOOL (b 4) k
  let c := c.putB F.HOLD_STAT_SHED (b 5) k
  if r.any id then
    if c.flag F.HOLD_STAT_HOLD k then c
    else (c.putB F.HOLD_STAT_HOLD true k).modTransport k (fun t => { t with holdSince := some c.upNs })
  else
    match (c.transport k).holdSince with
    | none => c.putB F.HOLD_STAT_HOLD false k
    | some t =>
      if c.upNs ≥ t + 2000000 then
        (c.putB F.HOLD_STAT_HOLD false k).modTransport k (fun t => { t with holdSince := none })
      else c

/-- Feed hold of all transports; released during reset and boot. -/
def Chip.refreshHolds (c : Chip) : Chip :=
  if c.running then (List.range 8).foldl Chip.refreshHold c else c

/-- HOLD_MIN_EXPIRE: 2.000 ms have passed since the hold was asserted (R133). -/
def Chip.holdMinExpire (c : Chip) (k : Nat) : Chip :=
  if ¬ c.flag F.HOLD_STAT_HOLD k then c
  else if (c.holdReasons k).any id then (c.refreshHold k).modTransport k (fun t => { t with holdSince := some 0 })
  else (c.putB F.HOLD_STAT_HOLD false k).modTransport k (fun t => { t with holdSince := none })

/-! ## Credits -/

/-- Credits of a submitting session are withheld: not ENABLED, fault hold, shed, or a mandatory session's spool is
short (R170, R171, R397, R400, R481). -/
def Chip.grantBlocked (c : Chip) (s : Nat) : Bool :=
  decide (c.get F.SUB_CFG_STATE s ≠ 3) || c.flag F.VAR_STAT_HOLD || bitOf (c.get F.VAR_SHED_SUB_SHED) s ||
  (List.range 64).any (fun r =>
    (c.sess r).open_ && decide ((c.sess r).freeSpool < c.itemSpool) &&
    (List.range 32).any (fun k => bitOf (c.get F.SESS_MAND_CLASSES r) k && c.classCovers k (16 + s)))

/-- Grants one submission credit for each free record credit, and sends CREDIT when the count moved (R168, R488). -/
def Chip.grant (c : Chip) (s : Nat) : Chip :=
  let x := c.subm s
  if !(c.sess (64 + s)).open_ || c.grantBlocked s then c
  else if x.granted ≥ x.used + x.free then c
  else
    let g := x.used + x.free
    let c := c.modSubm s (fun x => { x with granted := g })
    c.formLoose (64 + s) 10 (recordMap [(0, .uint 10), (54, .uint g)]).enc

/-- The item's credit, bands, retention and reassembly space return, and the item is gone (R128, R161, R178). -/
def Chip.creditReturn (c : Chip) (n : Nat) : Chip :=
  match c.item n with
  | none => c
  | some i =>
    let c := c.updItems (fun I => { I with list := I.list.filter (fun j => j.num ≠ n) })
    let c := c.updSched (fun s => { s with
      wideTile := s.wideTile.filter (fun e => e.1 ≠ n + 1), wideDue := s.wideDue.filter (fun e => e.1 ≠ n + 1)
      skews := s.skews.filter (fun e => e.2.2 ≠ n + 1) })
    let c := c.modStream i.origin (fun s => { s with
      ringUsed := s.ringUsed.filter (fun e => e.1 ≠ n), retained := s.retained.filter (fun e => e.1 ≠ n)
      kept := s.kept.filter (fun e => e.item ≠ some n) })
    if i.origin < 16 then
      if i.credit = 1 then c.put F.SNS_CREDIT_FREE (c.get F.SNS_CREDIT_FREE i.origin + 1) i.origin
      else if i.credit = 2 then c.putB F.SNS_CREDIT_EMERG_HELD false i.origin
      else c
    else
      let s := i.origin - 16
      let c := if i.credit = 1 then c.modSubm s (fun x => { x with free := x.free + 1 }) else c
      c.grant s

/-- A mandatory session is done with an item: acknowledged, closed or abandoned; with the last one the credit
returns (R128). -/
def Chip.sessionDone (c : Chip) (s n : Nat) : Chip :=
  match c.item n with
  | none => c
  | some i =>
    let w := i.waiting.filter (· ≠ s)
    let c := c.modItem n (fun i => { i with waiting := w })
    if i.ended.isSome ∧ w = [] then c.creditReturn n else c

/-- The end of an item without its KV sets, copies and sample: ITEM_BEGIN if it is still owed, the fields that
have not ended, ITEM_END, the ledger, the undrawn reservations, the credit when no session is mandatory
(R317, R365, R465, R468, R469, R479). -/
def Chip.endCore (c : Chip) (n : Nat) (v : Verdict) : Chip :=
  match c.item n with
  | none => c
  | some i =>
    if i.ended.isSome then c
    else
      let open_ := (List.range i.fields.length).filter (fun k => ((i.fields[k]?).bind (·.code)).isNone)
      let c := c.formBegin n
      let c := c.bump F.TXT_CNT2_UTF8_TRIM 0 0 (i.fields.filter (fun f => f.code.isNone && decide (utf8Tail f.held ≠ 0))).length
      let c := c.modItem n (fun i => { i with
        ended := some v, endNext := none
        fields := i.fields.map (FieldSt.cutOff (if i.cutWhy ≠ [] then i.cutWhy
          else if v.status = 2 ∧ v.reason = [] then txt "deadline" else v.reason)) })
      let c := if v.status = 5 then c else open_.foldl (fun c k => c.formField n k) c
      match c.item n with
      | none => c
      | some i =>
        let kinds := c.kinds i.origin
        let c := i.deliv.foldl (fun c d => if d.cut then c else c.form i d 4 (endRec i v d kinds)) c
        match c.item n with
        | none => c
        | some i =>
          let c := i.deliv.foldl (fun c d => if d.cut then c else c.giveSpool d.sess d.left) c
          let mand := i.deliv.filter (fun d => d.mandatory)
          let wait := (mand.filter (fun d => !d.cut)).map (·.sess)
          let c := c.modItem n (fun i => { i with
            waiting := wait, deliv := i.deliv.map (fun d => { d with left := 0 }) })
          let c := c.updItems (fun I => { I with
            ends := I.ends.modify v.status (· + 1), owed := I.owed + mand.length, paid := I.paid + mand.length })
          if wait = [] then c.creditReturn n else c

/-- Marks an item to end so at its next step boundary (R548). (DEDUCED, log entry 94) -/
def Chip.endSoon (c : Chip) (n : Nat) (v : Verdict) : Chip :=
  c.modItem n (fun i => if i.ended.isSome ∨ i.endNext.isSome then i else { i with endNext := some v })

end Sys2Proof.Machine
end

