-- ==== Sys2Proof/Machine/Jrt.lean ====
section
/-!
DEFINITION. The Jorrak Result Transport of chapter 15: datagrams, opening and closing, credit, acknowledgement
and retransmission, building, stalls, gaps, paths.
-/

namespace Sys2Proof.Machine

/-- Serial-number order modulo 2³² (RFC 1982, R454). -/
def serLt (a b : Nat) : Bool :=
  let d := (b + 2 ^ 32 - a % 2 ^ 32) % 2 ^ 32
  decide (0 < d ∧ d < 2 ^ 31)

/-- A received datagram taken apart (Table 15-1). -/
structure Hdr where
  type : Nat
  lane1 : Bool
  sess : Nat
  gen : Nat
  num : Nat
  ack : Nat
  limit : Nat
  recOff : Nat
  recs : List Byte
  deriving DecidableEq, Repr

/-- MAGIC, version, type and LEN of R456; none when one of them is not valid. -/
def parseHdr (p : List Byte) : Option Hdr :=
  let n := fun o k => beNat ((p.drop o).take k)
  if p.length < 34 ∨ n 0 2 ≠ 0x4A52 ∨ n 2 1 / 16 ≠ 1 ∨ n 2 1 % 16 > 5 ∨ n 6 2 + 34 ≠ p.length then none
  else
    let t := n 2 1 % 16
    if t = 0 ∧ n 6 2 = 0 then none
    else some ⟨t, bitOf (n 3 1) 7, n 4 1, n 5 1, n 8 4, n 12 4, n 16 4, n 30 2, (p.drop 32).take (n 6 2)⟩

/-- Takes a datagram out of those that a port handed over. -/
def Chip.takeIn (c : Chip) (d : DgIn) : Chip :=
  { c with net := { c.net with fabricIn := c.net.fabricIn.eraseP (fun e => e.1 = d) } }

/-- The receive time-stamp of a datagram: that of its frame (R450), now when it did not come through a port's
hand-over. -/
def Chip.stampOf (c : Chip) (d : DgIn) : Stamp :=
  ((c.net.fabricIn.find? (fun e => e.1 = d)).map (·.2)).getD c.clock.now

/-- A dropped datagram has no effect but its count (R456). -/
def Chip.badDgram (c : Chip) : Chip := c.bump F.JRT_CNT_BAD_DGRAM

/-- The session a datagram belongs to under R456: open, GEN and binding agree. -/
def Chip.boundSess (c : Chip) (d : DgIn) (h : Hdr) : Option Nat :=
  let x := c.sess h.sess
  if h.sess < 96 ∧ x.open_ ∧ h.gen = x.gen ∧ d.src = x.addr ∧ d.udp = x.udp then some h.sess else none

/-- The bytes of a datagram (Table 15-1). -/
def dgBytes (type flags sess gen num ack limit recOff : Nat) (recs : List Byte) : List Byte :=
  beBytes 2 0x4A52 ++ beBytes 1 (16 + type) ++ beBytes 1 flags ++ beBytes 1 sess ++ beBytes 1 gen ++
  beBytes 2 recs.length ++ beBytes 4 num ++ beBytes 4 ack ++ beBytes 4 limit ++ List.replicate 10 0 ++
  beBytes 2 recOff ++ recs ++ [0, 0]

/-- Sends a datagram without DATA from a session: the queue is 4 (R476). -/
def Chip.sendCtl (c : Chip) (s type : Nat) (recs : List Byte) : Chip :=
  let x := c.sess s
  let p := dgBytes type 0 s x.gen x.lane0.next x.expect x.grant 0xFFFF recs
  let c := c.modSess s (fun x => { x with ackDue := false })
  c.pushTo x.port ⟨4, .jrt s false none, x.addr, x.udp, p, none⟩

/-- Sends one DATA datagram; lane 1 on queue 7 with TIME, lane 0 on queue 3, its retransmissions on queue 2, all of
a submitting session on queue 4 (R476, R457, R475, R477). -/
def Chip.sendData (c : Chip) (s : Nat) (lane1 : Bool) (o : OutDg) : Chip :=
  let x := c.sess s
  let retx := decide (o.retx > 0)
  let flags := b2n lane1 * 128 + b2n retx * 64 + b2n lane1 * 32
  let p := if lane1 then dgBytes 0 flags s x.gen o.num 0 0 o.recOff o.recs
    else dgBytes 0 flags s x.gen o.num x.expect x.grant o.recOff o.recs
  let q := if s ≥ 64 then 4 else if lane1 then 7 else if retx then 2 else 3
  let c := if lane1 then c else c.modSess s (fun x => { x with ackDue := false })
  match o.replicated with
  | none => c.pushTo x.port ⟨q, .jrt s lane1 (some o.num), x.addr, x.udp, p, none⟩
  | some k =>
    let r := smGet 0 c.net.rtags k
    let c := { c with net := { c.net with rtags := smSet 0 c.net.rtags k ((r + 1) % 65536) } }
    (List.range 2).foldl (fun c y =>
      c.pushTo y ⟨q, .jrt s lane1 (some o.num), x.addr, x.udp, p, some r⟩) c

/-- First and largest RTO in µs (JRT_TMR). -/
def Chip.rtoFirst (c : Chip) : Nat := Nat.max 500 (c.get F.JRT_TMR_RTO_US)
/-- The largest RTO in µs. -/
def Chip.rtoMax (c : Chip) : Nat := actsAs (c.get F.JRT_TMR_RTO_MAX_MS) 1 * 1000

/-- A lane of a session. -/
def Session.lane (x : Session) (lane1 : Bool) : Lane := if lane1 then x.lane1 else x.lane0
/-- Replaces a lane. -/
def Session.setLane (x : Session) (lane1 : Bool) (l : Lane) : Session :=
  if lane1 then { x with lane1 := l } else { x with lane0 := l }
/-- Whether a session holds an unacknowledged datagram or one that waits for credit (R483). -/
def Session.holds (x : Session) : Bool := decide (x.lane0.out ≠ [] ∨ x.lane1.out ≠ [])

/-- Updates one datagram of a lane. -/
def Chip.modOut (c : Chip) (s : Nat) (lane1 : Bool) (num : Nat) (f : OutDg → OutDg) : Chip :=
  c.modSess s (fun x => x.setLane lane1 { x.lane lane1 with
    out := (x.lane lane1).out.map (fun o => if o.num = num then f o else o) })

/-- Sends every built datagram that the peer's LIMIT allows, in SEQ order (R471). (DEDUCED, log entry 71) -/
def Chip.pump (c : Chip) (s : Nat) (lane1 : Bool) : Chip :=
  let x := c.sess s
  if s < 64 ∧ c.flag F.SESS_STAT_PATH_LOST s then c
  else
    (x.lane lane1).out.foldl (fun c o =>
      if o.sent ∨ !serLt o.num (x.lane lane1).limit then c
      else
        let c := c.modOut s lane1 o.num (fun o => { o with sent := true, at_ := c.upNs })
        c.sendData s lane1 o) c

/-! ## Building (R382, R455, R19) -/

/-- Stable insertion of a record by origin and, within an origin, by the order of admission, in which items take their
numbers (R467). -/
def insFormed (f : Formed) : List Formed → List Formed
  | [] => [f]
  | g :: r =>
    if f.origin < g.origin ∨ (f.origin = g.origin ∧ serLt f.item g.item) then f :: g :: r
    else g :: insFormed f r

/-- Records in the order of R19. -/
def orderFormed (l : List Formed) : List Formed := l.foldl (fun acc f => insFormed f acc) []

/-- One record with the offsets of its first and last byte in the slot's run of bytes. -/
structure Placed where
  rec_ : Formed
  start : Nat
  stop : Nat
  deriving DecidableEq, Repr

/-- Offsets of the records of a run. -/
def placeAll : Nat → List Formed → List Placed
  | _, [] => []
  | o, f :: r => ⟨f, o, o + f.bytes.length - 1⟩ :: placeAll (o + f.bytes.length) r

/-- Groups whole records into datagrams of at most `max` bytes (lane 1, R455). -/
def packWhole (max : Nat) : List Formed → List (List Formed)
  | [] => []
  | f :: r =>
    match packWhole max r with
    | [] => [[f]]
    | g :: gs =>
      if f.bytes.length + (g.map (·.bytes.length)).foldl (· + ·) 0 ≤ max then (f :: g) :: gs else [f] :: g :: gs

/-- A class of an origin's items that is replicated, for a session. -/
def Chip.replClass (c : Chip) (s o : Nat) : Option Nat := (c.matching s o).find? (fun k => c.flag F.CLASS_CFG_REPL k)

/-- Appends a built datagram to a lane, with the next SEQ. -/
def Chip.addOut (c : Chip) (s : Nat) (lane1 : Bool) (recs : List Byte) (recOff : Nat) (ps : List Formed) : Chip :=
  let x := c.sess s
  let l := x.lane lane1
  let repl := ps.findSome? (fun f => if f.origin = 63 then none else c.replClass s f.origin)
  let o : OutDg := {
    num := l.next, recs := recs, recOff := recOff, sent := false, retx := 0, rto := c.rtoFirst, at_ := 0,
    ends := (ps.filter (fun f => f.kind = 4)).map (·.item)
    dues := ps.filterMap (·.due)
    items := dedup ((ps.filter (fun f => f.origin ≠ 63)).map (·.item))
    spool := ((ps.filter (fun f => f.origin ≠ 63)).map (·.bytes.length)).foldl (· + ·) 0
    replicated := repl, stamp := none }
  let was := x.holds
  c.modSess s (fun x =>
    let x := x.setLane lane1 { l with next := (l.next + 1) % 2 ^ 32, out := l.out ++ [o] }
    if was then x else { x with progress := c.upNs })

/-- Lane 0 of one session: the slot's records as one run of bytes, cut into datagrams. -/
def Chip.build0 (c : Chip) (s : Nat) (l : List Formed) : Chip :=
  let x := c.sess s
  let max := c.udpLimit x.port x.addr.v6 - 34
  let ps := placeAll 0 l
  let all := l.flatMap (·.bytes)
  (List.range (ceilDiv all.length (actsAs max 1))).foldl (fun c k =>
    let lo := k * max
    let hi := lo + max
    let first := (ps.find? (fun p => lo ≤ p.start ∧ p.start < hi)).map (fun p => p.start - lo)
    let ended := (ps.filter (fun p => lo ≤ p.stop ∧ p.stop < hi)).map (·.rec_)
    c.addOut s false ((all.drop lo).take max) (first.getD 0xFFFF) ended) c

/-- Lane 1 of one session. -/
def Chip.build1 (c : Chip) (s : Nat) (l : List Formed) : Chip :=
  let x := c.sess s
  (packWhole (c.udpLimit x.port x.addr.v6 - 34) l).foldl (fun c g =>
    c.addOut s true (g.flatMap (·.bytes)) 0 g) c

/-- GAP records that a session is owed, before any newer record, once it is not stalled and its spool has room
(R485, R480). (DEDUCED, log entry 83) -/
def Chip.gapRecs (c : Chip) (s : Nat) : Chip × List Formed :=
  let x := c.sess s
  if s ≥ 64 ∨ c.flag F.SESS_STAT_STALLED s then (c, [])
  else
    let ready := x.gaps.filter (fun g => g.why ≠ txt "spool" ∨ 0 < x.freeSpool)
    let c := c.modSess s (fun x => { x with gaps := x.gaps.filter (fun g => !ready.contains g) })
    (c.bump F.SESS_CNT0_GAPS s 0 ready.length, ready.map (fun g =>
      ⟨s, 63, 0, 5, false, (recordMap [(0, .uint 5), (3, .uint g.cls), (30, .uint g.first), (31, .uint g.last),
        (32, .text g.why)]).enc, none⟩))

/-- DATAGRAM_BUILD: the records formed in the previous slot become datagrams, and those within LIMIT are handed to
the network unit (R382). (DEDUCED, log entry 71) -/
def Chip.build (c : Chip) (formed : List Formed) : Chip :=
  (List.range 96).foldl (fun c s =>
    if !(c.sess s).open_ then c
    else
      let mine := formed.filter (fun f => f.sess = s)
      let g := c.gapRecs s
      if mine = [] ∧ g.2 = [] then c
      else
        let l := orderFormed mine
        let c := g.1.build0 s (g.2 ++ l.filter (fun f => !f.lane1))
        let c := c.build1 s (l.filter (fun f => f.lane1))
        (c.pump s false).pump s true) c

/-! ## Acknowledgement and credit (R471 to R474) -/

/-- A session resumes: it is no longer stalled (R485). -/
def Chip.resume (c : Chip) (s : Nat) : Chip := if s < 64 then c.putB F.SESS_STAT_STALLED false s else c

/-- The datagrams below ACK are acknowledged: spool returns, terminal records are acknowledged (R473, R479). -/
def Chip.applyAck (c : Chip) (s : Nat) (lane1 : Bool) (ack : Nat) : Chip :=
  let l := (c.sess s).lane lane1
  if !serLt l.ack ack ∨ serLt l.next ack then c
  else
    let done := l.out.filter (fun o => serLt o.num ack)
    let c := c.modSess s (fun x => x.setLane lane1 { x.lane lane1 with
      ack := ack, out := (x.lane lane1).out.filter (fun o => !serLt o.num ack) })
    let c := if s < 64 then c.giveSpool s ((done.map (·.spool)).foldl (· + ·) 0) else c
    let c := (c.modSess s (fun x => { x with progress := c.upNs })).resume s
    (done.flatMap (·.ends)).foldl (fun c n => c.sessionDone s n) c

/-- The LIMIT of a datagram: never lower, never above ACK + 4,096 (R471). -/
def Chip.applyLimit (c : Chip) (s : Nat) (lane1 : Bool) (limit : Nat) : Chip :=
  let l := (c.sess s).lane lane1
  let cap := (l.ack + 4096) % 2 ^ 32
  let bad := serLt limit l.limit || serLt cap limit
  let c := if bad ∧ s < 64 then c.bump F.SESS_CNT1_LIMIT_BAD s else c
  let v := if serLt cap limit then cap else limit
  if serLt l.limit v then
    let c := c.modSess s (fun x => { (x.setLane lane1 { x.lane lane1 with limit := v }) with progress := c.upNs })
    c.resume s
  else c

/-- Sends one datagram again (R474, R475). -/
def Chip.resend (c : Chip) (s : Nat) (lane1 : Bool) (o : OutDg) (rto : Nat) : Chip :=
  let o := { o with retx := o.retx + 1, rto := rto, at_ := c.upNs }
  let c := c.modOut s lane1 o.num (fun _ => o)
  let c := if s < 64 then c.bump F.SESS_CNT0_RETX s else c
  c.sendData s lane1 o

/-- The 64-bit bitmap: each datagram missing below the highest set bit goes once again, unless that happened in the
last 2.5 ms; its RTO doubles (R474, R475). -/
def Chip.applyBitmap (c : Chip) (s : Nat) (lane1 : Bool) (ack bits : Nat) : Chip :=
  let top := Nat.log2 bits
  let missing := ack :: ((List.range top).filter (fun i => !bitOf bits i)).map (fun i => (ack + 1 + i) % 2 ^ 32)
  if bits = 0 then c
  else
    ((c.sess s).lane lane1).out.foldl (fun c o =>
      if o.sent ∧ missing.contains o.num ∧ (o.retx = 0 ∨ c.upNs ≥ o.at_ + 2500000) then
        c.resend s lane1 o (Nat.min (2 * o.rto) c.rtoMax)
      else c) c

/-- ACK, LIMIT and bitmap of a datagram that R456 has not dropped, on the lane that LANE names. -/
def Chip.applyHdr (c : Chip) (s : Nat) (h : Hdr) : Chip :=
  let c := c.modSess s (fun x => { x with heard := c.upNs })
  if h.lane1 ∧ s ≥ 64 then c
  else
    let c := c.applyAck s h.lane1 h.ack
    let c := c.applyLimit s h.lane1 h.limit
    let c := if h.type = 1 ∧ h.recs.length = 8 then c.applyBitmap s h.lane1 h.ack (beNat h.recs) else c
    c.pump s h.lane1

/-- JRT_ACK. -/
def Chip.jrtAck (c : Chip) (d : DgIn) : Chip :=
  let c' := c.takeIn d
  match parseHdr d.payload with
  | none => c'.badDgram
  | some h =>
    match c'.boundSess d h with
    | none => c'.badDgram
    | some s =>
      if h.type ≠ 1 ∨ ¬ (h.recs.length = 0 ∨ h.recs.length = 8) then c'.badDgram else c'.applyHdr s h

/-! ## Records from the peer -/

/-- Sessions that take a class as mandatory. -/
def Chip.mandCount (c : Chip) (k : Nat) : Nat :=
  ((List.range 64).filter (fun s => (c.sess s).open_ ∧ bitOf (c.get F.SESS_MAND_CLASSES s) k)).length

/-- Shows MAND_NOW of every declared class. -/
def Chip.showMand (c : Chip) : Chip :=
  foldN 32 (fun c k => if c.flag F.CLASS_CFG_VALID k then c.put F.CLASS_CFG_MAND_NOW (Nat.min 63 (c.mandCount k)) k else c) c

/-- Sets or clears a bit of a mask. -/
def setBit (m i : Nat) (v : Bool) : Nat := putBits m i 1 (b2n v)

/-- SUBSCRIBE: the result role first, then the class, then the budget (R463, Table 15-6). -/
def Chip.subscribe (c : Chip) (s cls mode : Nat) : Chip :=
  let answer := fun (c : Chip) (m code : Nat) =>
    c.formLoose s 12 (recordMap [(0, .uint 12), (3, .uint cls), (60, .uint m), (61, .uint code)]).enc
  let cur := if bitOf (c.get F.SESS_MAND_CLASSES s) cls then 2 else if bitOf (c.get F.SESS_OPT_CLASSES s) cls then 1 else 0
  if s ≥ 64 ∨ !bitOf (c.sess s).roles 0 then answer c 0 3
  else if cls ≥ 32 ∨ ¬ c.flag F.CLASS_CFG_VALID cls then answer c 0 2
  else
    let tooMany := decide (mode = 2 ∧ cur ≠ 2 ∧ c.mandCount cls + 1 > c.get F.CLASS_CFG_MAND_MAX cls)
    let m := if tooMany then 1 else mode
    let c := c.put F.SESS_MAND_CLASSES (setBit (c.get F.SESS_MAND_CLASSES s) cls (m == 2)) s
    let c := c.put F.SESS_OPT_CLASSES (setBit (c.get F.SESS_OPT_CLASSES s) cls (m == 1)) s
    answer c.showMand m (if tooMany then 1 else 0)

/-- What one record from the peer asks for. -/
inductive PeerRec where
  | subscribe (cls mode : Nat)
  | correction (w : CorrIn)
  | submit (num : Nat) (bytes : List Byte) (last : Bool)
  deriving DecidableEq, Repr

/-- A record by its keys; none when its type, a key or a value is not allowed (R466). -/
def peerRec (v : Cbor) : Option PeerRec :=
  match v.keys with
  | none => none
  | some ks =>
    let ks := ks.filter (· < 100)
    match v.nat 0 with
    | some 11 =>
      if ks.all [0, 3, 60].contains then
        (match v.nat 3, v.nat 60 with
         | some k, some m => if m ≤ 2 then some (.subscribe k m) else none
         | _, _ => none)
      else none
    | some 6 =>
      if ks.all [0, 1, 40, 41, 42].contains then
        (match v.nat 1, v.nat 40, v.nat 41, v.tstr 42 with
         | some n, some k, some i, some t => if k ≤ 1 then some (.correction ⟨n, k == 1, i, t⟩) else none
         | _, _, _, _ => none)
      else none
    | some 8 =>
      if ks.all [0, 50, 51, 52].contains then
        (match v.nat 50, v.bstr 51 with
         | some k, some b => some (.submit k b ((v.flag 52).getD false))
         | _, _ => none)
      else none
    | _ => none

/-- Acts on one record; none when its direction does not allow it (R466, R487, R488). -/
def Chip.peerAct (c : Chip) (s : Nat) (r : PeerRec) : Option Chip :=
  match r with
  | .subscribe k m => if s < 64 then some (c.subscribe s k m) else none
  | .correction w =>
    if s < 64 ∧ bitOf (c.sess s).roles 1 then some (c.modSess s (fun x => { x with corrs := x.corrs ++ [w] })) else none
  | .submit k b l =>
    if s ≥ 64 then some (c.modSess s (fun x => { x with inbox := x.inbox ++ [⟨k, b, l, x.rx, x.rxLast⟩] })) else none

/-- Parses the records at the front of a lane's bytes; a record that cannot be used stops parsing until the next
REC_OFF (R466). -/
def Chip.parseRecs (s : Nat) : Nat → Chip → List Byte → Chip
  | 0, c, _ => c
  | fuel + 1, c, l =>
    if l = [] then c.modSess s (fun x => { x with part := [] })
    else
      match parseCbor l with
      | .more => c.modSess s (fun x => { x with part := l })
      | .bad => (c.bump F.JRT_CNT_BAD_REC).modSess s (fun x => { x with part := [], resync := true })
      | .ok (v, _) rest =>
        match (peerRec v).bind (c.peerAct s) with
        | some c => Chip.parseRecs s fuel c rest
        | none => (c.bump F.JRT_CNT_BAD_REC).modSess s (fun x => { x with part := [], resync := true })

/-- Delivers one in-order datagram's records, which came in a frame received at `rx` (R474, R551). -/
def Chip.deliver (c : Chip) (s : Nat) (recs : List Byte) (off : Nat) (rx : Stamp) : Chip :=
  let x := c.sess s
  let c := c.modSess s (fun x => { x with
    rx := rx, expect := (x.expect + 1) % 2 ^ 32, ackDue := true
    grant := if serLt x.grant ((x.expect + 1 + Config.jrtWindow) % 2 ^ 32) then (x.expect + 1 + Config.jrtWindow) % 2 ^ 32
      else x.grant })
  if x.resync then
    if off = 0xFFFF then c
    else Chip.parseRecs s (recs.length + 1) (c.modSess s (fun x => { x with resync := false, part := [] })) (recs.drop off)
  else
    let l := x.part ++ recs
    Chip.parseRecs s (l.length + 1) c l

/-- Delivers the datagrams that waited beyond the gap. -/
def Chip.deliverLater (s : Nat) : Nat → Chip → Chip
  | 0, c => c
  | fuel + 1, c =>
    let x := c.sess s
    match x.later.find? (fun e => e.1 = x.expect) with
    | none => c
    | some e =>
      let c := c.modSess s (fun x => { x with later := x.later.filter (fun f => f.1 ≠ e.1) })
      Chip.deliverLater s fuel (c.deliver s e.2.1 e.2.2.1 e.2.2.2)

/-- JRT_DATA: credit, order, records (R456, R466, R471, R476). -/
def Chip.jrtData (c : Chip) (d : DgIn) : Chip :=
  let rx := c.stampOf d
  let c := c.takeIn d
  match parseHdr d.payload with
  | none => c.badDgram
  | some h =>
    match c.boundSess d h with
    | none => c.badDgram
    | some s =>
      if h.type ≠ 0 then c.badDgram
      else
        let c := (c.applyHdr s h).modSess s (fun x => { x with rxLast := rx })
        let x := c.sess s
        if h.lane1 ∨ !serLt h.num x.grant then c.badDgram
        else if serLt h.num x.expect then c.modSess s (fun x => { x with ackDue := true })
        else if h.num = x.expect then
          (c.deliver s h.recs h.recOff rx).deliverLater s (x.later.length + 1)
        else if x.later.any (fun e => e.1 = h.num) then c.modSess s (fun x => { x with ackDue := true })
        else c.modSess s (fun x => { x with later := x.later ++ [(h.num, h.recs, h.recOff, rx)], ackDue := true })

/-! ## Opening and closing -/

/-- Whether an address lies in an admission entry's prefix. -/
def Admission.covers (a : Admission) (x : Addr) : Bool :=
  let w := if x.v6 then 128 else 32
  a.pfx.v6 == x.v6 && decide (x.val / 2 ^ (w - a.len) = a.pfx.val / 2 ^ (w - a.len))

/-- Roles that the admission entries give an address. -/
def Chip.rolesOf (c : Chip) (x : Addr) : Nat :=
  (c.image.admission.filter (fun a => Admission.covers a x)).foldl (fun r a => r ||| (a.roles % 8)) 0

/-- Spool area not granted to a session, bytes. -/
def Chip.ungranted (c : Chip) : Nat :=
  c.get F.JRT_SPOOL_AREA_MIB * 2 ^ 20 - ((c.sessions.map (fun e => if e.2.open_ then e.2.quota else 0)).foldl (· + ·) 0)

/-- Shows JRT_QUOTA.FREE_MIB. -/
def Chip.showFree (c : Chip) : Chip := c.put F.JRT_QUOTA_FREE_MIB (Nat.min (c.ungranted / 2 ^ 20) 65535)

/-- An address of 4 or 16 bytes. -/
def addrOf (b : List Byte) : Option Addr :=
  if b.length = 4 then some ⟨false, beNat b⟩ else if b.length = 16 then some ⟨true, beNat b⟩ else none

/-- The 16 bytes of an address, IPv4 as ::ffff:a.b.c.d (R530). -/
def addrWord (a : Addr) (i : Nat) : Nat :=
  let v := if a.v6 then a.val else 0xFFFF * 2 ^ 32 + a.val
  bitsOf v (96 - 32 * i) 32

/-- The four words and the flags of a session's binding registers (Table 17-7). -/
def Chip.showBinding (c : Chip) (s : Nat) : Chip :=
  let x := c.sess s
  let (rA, rP, rL, rO, k) : Reg × Reg × Reg × Reg × Nat :=
    if s < 64 then (.RSB_ADDR, .RSB_PORT, .RSB_ALT, .RSB_OPEN, s) else (.SSB_ADDR, .SSB_PORT, .SSB_ALT, .SSB_OPEN, s - 64)
  let c := (List.range 4).foldl (fun c i =>
    (c.setWord rA k i (if x.open_ then addrWord x.addr i else 0)).setWord rL k i
      (match x.alt with | some a => if x.open_ then addrWord a i else 0 | none => 0)) c
  let port := x.udp * 65536 + (x.port + 1) * 16384 + b2n x.alt.isSome * 8192 + b2n x.addr.v6 * 4096
  let c := c.setWord rP k 0 (if x.open_ then port else 0)
  let c := if x.open_ then c else c.setWord rO k 0 0
  if s < 64 then (c.put F.SESS_STAT_PORT (if x.open_ then x.port + 1 else 0) s).putB F.SESS_STAT_ALT (x.open_ && x.alt.isSome) s
  else c

/-- What an OPEN asks for (Table 15-3). -/
structure OpenReq where
  kind : Nat
  sub : Option Nat
  want : Option Nat
  alt : Option Addr
  quotaMib : Option Nat
  limits : Nat × Nat
  deriving DecidableEq, Repr

/-- The map of an OPEN; none is code 1 (bad-request). -/
def openReq (recs : List Byte) : Option OpenReq :=
  match parseCbor recs with
  | .ok (v, _) [] =>
    (match v.keys, v.nat 70 with
     | some ks, some kind =>
       let num := fun k => if ks.contains k then (v.nat k).isSome else true
       let altB := match v.bstr 73 with | some b => (addrOf b).isSome | none => !ks.contains 73
       let lims : Option (Nat × Nat) := match v.key 75 with
         | none => some (0, 0)
         | some (.arr [.uint a]) => some (a, 0)
         | some (.arr [.uint a, .uint b]) => some (a, b)
         | some _ => none
       let ok := ks.all (fun k => k ≥ 100 || [70, 71, 72, 73, 74, 75].contains k) && num 71 && num 72 && num 74 && altB
       let subOk := if kind = 1 then (match v.nat 71 with | some s => decide (s < 32) | none => false) else true
       let wantOk := match v.nat 72 with | some s => decide (s < 64) | none => true
       (match lims with
        | some l => if ok && subOk && wantOk && decide (kind ≤ 1) then
            some ⟨kind, v.nat 71, v.nat 72, (v.bstr 73).bind addrOf, v.nat 74, l⟩ else none
        | none => none)
     | _, _ => none)
  | _ => none

/-- The checks of Table 15-4 in order: a code, and the session on success. -/
def Chip.openCheck (c : Chip) (d : DgIn) (r : OpenReq) : Nat × Nat :=
  let roles := c.rolesOf d.src
  if !bitOf roles (if r.kind = 0 then 0 else 2) then (2, 0)
  else if r.kind = 1 then
    let s := r.sub.getD 0
    if c.get F.SUB_CFG_STATE s = 0 then (3, 0) else if (c.sess (64 + s)).open_ then (4, 0) else (0, 64 + s)
  else
    let free := (List.range 64).find? (fun s => !(c.sess s).open_)
    if (match r.want with | some s => (c.sess s).open_ | none => false) then (4, 0)
    else
      match free with
      | none => (5, 0)
      | some f =>
        let quota := (r.quotaMib.getD (c.get F.JRT_QUOTA_DEF_MIB)) * 2 ^ 20
        if quota > c.ungranted then (6, 0) else (0, r.want.getD f)

/-- The records of an OPEN_REPLY (Table 15-3). (DEDUCED, log entry 70) -/
def openReply (code s gen roles grant : Nat) : List Byte :=
  (recordMap ([(75, .arr [.uint grant]), (76, .uint code)] ++
    (if code = 0 then [(77, .uint s), (78, .uint gen), (79, .uint roles)] else []))).enc

/-- Binds a session; an initial LIMIT above 4,096 acts as 4,096 (R459, R471). (DESIGN CHOICE, log entry 17;
DEDUCED, log entry 71) -/
def Chip.bind (c : Chip) (d : DgIn) (r : OpenReq) (s : Nat) : Chip :=
  let gen := match (c.sess s).lastGen with
    | none => c.clock.now.sec % 256
    | some g => (g + 1) % 256
  let roles := c.rolesOf d.src
  let grant := Config.jrtWindow % 2 ^ 32
  let quota := if r.kind = 0 then (r.quotaMib.getD (c.get F.JRT_QUOTA_DEF_MIB)) * 2 ^ 20 else 0
  let x : Session := { Session.cold with
    open_ := true, addr := d.src, udp := d.udp, port := d.port.val, alt := r.alt, gen := gen, lastGen := some gen,
    roles := roles, reply := openReply 0 s gen roles grant
    lane0 := { Lane.cold with limit := Nat.min 4096 r.limits.1, limit0 := Nat.min 4096 r.limits.1 }
    lane1 := { Lane.cold with limit := Nat.min 4096 r.limits.2, limit0 := Nat.min 4096 r.limits.2 }
    grant := grant, grant0 := grant, quota := quota, progress := c.upNs, heard := c.upNs }
  let c := (c.modSess s (fun _ => x)).showBinding s
  let c := c.setWord (if s < 64 then .RSB_OPEN else .SSB_OPEN) (if s < 64 then s else s - 64) 0 (c.clock.now.sec % 2 ^ 32)
  if s < 64 then
    let c := (c.put F.SESS_STAT_STATE 3 s).put F.SESS_STAT_GEN gen s
    let c := c.bump F.SESS_CNT1_LIMIT_BAD s 0 (b2n (r.limits.1 > 4096) + b2n (r.limits.2 > 4096))
    ((c.put F.SESS_STAT_ROLES roles s).showSpool s).showFree
  else
    let c := c.modSubm (s - 64) (fun y => { Subm.cold with free := y.free })
    c.grant (s - 64)

/-- OPEN (R458, R459). (DEDUCED, log entry 69) -/
def Chip.jrtOpen (c : Chip) (d : DgIn) : Chip :=
  let c := c.takeIn d
  let answer := fun (c : Chip) (sess gen : Nat) (recs : List Byte) =>
    c.pushTo d.port.val ⟨4, .jrt sess false none, d.src, d.udp, dgBytes 3 0 sess gen 0 0 0 0xFFFF recs, none⟩
  match parseHdr d.payload with
  | none => c.badDgram
  | some h =>
    if h.type ≠ 2 then c.badDgram
    else
      match (List.range 96).find? (fun s => (c.sess s).open_ ∧ (c.sess s).addr = d.src ∧ (c.sess s).udp = d.udp) with
      | some s => answer c s (c.sess s).gen (c.sess s).reply
      | none =>
        let refuse := fun code => answer (c.bump F.JRT_CNT_OPEN_REF) 0xFF 0 (openReply code 0 0 0 (Config.jrtWindow % 2 ^ 32))
        match openReq h.recs with
        | none => refuse 1
        | some r =>
          let k := c.openCheck d r
          if k.1 ≠ 0 then refuse k.1
          else
            let c := c.bind d r k.2
            answer c k.2 (c.sess k.2).gen (c.sess k.2).reply

/-- Items with records of a session that are not all acknowledged. -/
def Chip.owedTo (c : Chip) (s : Nat) : List Item :=
  let x := c.sess s
  let outs := (x.lane0.out ++ x.lane1.out).flatMap (·.items)
  c.items.list.filter (fun i =>
    i.deliv.any (fun d => d.sess = s ∧ !d.cut) ∧ (i.ended.isNone ∨ i.waiting.contains s ∨ outs.contains i.num))

/-- The records of a result session's items are abandoned for it (R486). (DEDUCED, log entry 73) -/
def Chip.abandon (c : Chip) (s : Nat) : Chip :=
  (c.owedTo s).foldl (fun c i =>
    let c := c.bump F.SESS_CNT1_ABANDON s
    let c := c.modItem i.num (fun i => { i with deliv := i.deliv.map (fun d =>
      if d.sess = s then { d with cut := true, left := 0 } else d) })
    c.sessionDone s i.num) { c with formed := c.formed.filter (fun f => f.sess ≠ s) }

/-- A session closes: records abandoned, spool returned, subscriptions and registers cleared, number free
(R460, R486, R530, R522).  What a submission's items do is the item manager's. (DEDUCED, log entry 73) -/
def Chip.closeSess (c : Chip) (s : Nat) : Chip :=
  let x := c.sess s
  if !x.open_ then c
  else
    let c := if s < 64 then c.abandon s else { c with formed := c.formed.filter (fun f => f.sess ≠ s) }
    let c := c.modSess s (fun x => { Session.cold with
      lastGen := x.lastGen, closed := some (x.addr, x.udp, x.gen, c.upNs) })
    let c := c.showBinding s
    if s < 64 then
      let c := [Reg.SESS_STAT, .SESS_MAND, .SESS_OPT, .SESS_SPOOL, .SESS_CNT0, .SESS_CNT1].foldl
        (fun c r => c.setWord r s 0 0) c
      c.showMand.showFree
    else c

/-- Sends CLOSE or CLOSE_REPLY of a session to its peer, then closes it. -/
def Chip.sendClose (c : Chip) (s type : Nat) : Chip := (c.sendCtl s type []).closeSess s

/-- CLOSE up to the close itself, whose session it answers; a repeated CLOSE is answered (R460). -/
def Chip.jrtClose (c : Chip) (d : DgIn) : Chip × Option Nat :=
  let c := c.takeIn d
  match parseHdr d.payload with
  | none => (c.badDgram, none)
  | some h =>
    match c.boundSess d h with
    | some s => if h.type ≠ 4 then (c.badDgram, none) else (c.applyHdr s h, some s)
    | none =>
      match (c.sess h.sess).closed with
      | some (a, u, g, t) =>
        if h.type = 4 ∧ h.sess < 96 ∧ a = d.src ∧ u = d.udp ∧ g = h.gen ∧ c.upNs ≤ t + 1000000000 then
          (c.pushTo d.port.val ⟨4, .jrt h.sess false none, a, u, dgBytes 5 0 h.sess g 0 0 0 0xFFFF [], none⟩, none)
        else (c.badDgram, none)
      | none => (c.badDgram, none)

/-! ## Timers, stalls, paths -/

/-- RETRANSMIT_TIMEOUT: RTO doubles up to its largest; a stalled session stays at the largest (R475, R483). -/
def Chip.retransmit (c : Chip) (s : Nat) (lane1 : Bool) (num : Nat) : Chip :=
  let x := c.sess s
  match (x.lane lane1).out.find? (fun o => o.num = num) with
  | none => c
  | some o =>
    if !x.open_ ∨ !o.sent ∨ c.flag F.SESS_STAT_PATH_LOST s then c
    else c.resend s lane1 o (if c.flag F.SESS_STAT_STALLED s then c.rtoMax else Nat.min (2 * o.rto) c.rtoMax)

/-- ACK_DELAY_EXPIRE: 1 ms have passed since data arrived (R476). -/
def Chip.ackDelay (c : Chip) (s : Nat) : Chip :=
  let x := c.sess s
  if x.open_ ∧ x.ackDue then c.sendCtl s 1 [] else c

/-- IDLE_ACK: nothing to send on lane 0 for 1 s (R461). -/
def Chip.idleAck (c : Chip) (s : Nat) : Chip :=
  let x := c.sess s
  if x.open_ ∧ x.lane0.out = [] then c.sendCtl s 1 [] else c

/-- Whether IDLE_CLOSE may close a session: it holds nothing unacknowledged and no record waits (R461). -/
def Chip.idle (c : Chip) (s : Nat) : Bool :=
  let x := c.sess s
  x.open_ && !x.holds && !(c.formed.any (fun f => f.sess = s))

/-- Cuts the optional items of a session: records not yet built are discarded, later ones are not formed (R484). -/
def Chip.cutOptional (c : Chip) (s : Nat) (why : List Byte) : Chip :=
  c.inFlight.foldl (fun c i =>
    match i.deliv.find? (fun d => d.sess = s ∧ !d.mandatory ∧ !d.cut) with
    | none => c
    | some d =>
      let mine := c.formed.filter (fun f => f.sess = s ∧ f.item = i.num ∧ f.origin ≠ 63)
      let back := d.left + (mine.map (·.bytes.length)).foldl (· + ·) 0
      let c := { c with formed := c.formed.filter (fun f => !mine.contains f) }
      let c := c.modItem i.num (fun i => { i with deliv := i.deliv.map (fun e =>
        if e.sess = s then { e with cut := true, left := 0 } else e) })
      (c.giveSpool s back).addGaps s i.origin i.num why) c

/-- SESSION_STALL: PATIENCE has passed without progress while the session holds something (R483, R484). -/
def Chip.stall (c : Chip) (s : Nat) : Chip :=
  if s ≥ 64 ∨ !(c.sess s).open_ ∨ c.flag F.SESS_STAT_STALLED s then c
  else
    let c := (c.putB F.SESS_STAT_STALLED true s).bump F.SESS_CNT0_STALLS s
    c.cutOptional s (txt "stall")

/-- Whether the session's stall is one that PATIENCE measures: it holds something. -/
def Chip.canStall (c : Chip) (s : Nat) : Bool := (c.sess s).open_ && (c.sess s).holds

/-- SESSION_ABANDON: a mandatory session stalled for longer than ABANDON_S is closed (R486). -/
def Chip.abandonStalled (c : Chip) (s : Nat) : Chip :=
  if c.get F.JRT_TMR_ABANDON_S = 0 ∨ ¬ c.flag F.SESS_STAT_STALLED s ∨ c.get F.SESS_MAND_CLASSES s = 0 then c
  else c.sendClose s 4

/-- SESSION_REBIND of one session whose path is gone: to its alternate address on the other port, or path-lost
(R478, R530). -/
def Chip.rebind (c : Chip) (s : Nat) : Chip :=
  let x := c.sess s
  match x.alt with
  | some a =>
    let c := c.modSess s (fun x => { x with addr := a, alt := some x.addr, port := 1 - x.port })
    c.showBinding s
  | none =>
    if s < 64 then (c.putB F.SESS_STAT_PATH_LOST true s).stall s else c

/-- Rebinds the sessions of a port that satisfy a condition. -/
def Chip.rebindAll (c : Chip) (x : Nat) (sel : Session → Bool) : Chip :=
  (List.range 96).foldl (fun c s =>
    let y := c.sess s
    if y.open_ && y.port == x && sel y then c.rebind s else c) c

/-- The port or address of path-lost sessions has returned: they resume (R478). -/
def Chip.pathBack (c : Chip) (x : Nat) (sel : Session → Bool) : Chip :=
  (List.range 64).foldl (fun c s =>
    let y := c.sess s
    if y.open_ && y.port == x && c.flag F.SESS_STAT_PATH_LOST s && sel y then
      (((c.putB F.SESS_STAT_PATH_LOST false s).resume s).pump s false).pump s true
    else c) c

/-- The frame of a DATA datagram has left: the first transmission's send-time judges R17 (R457, R434). -/
def Chip.onSent (c : Chip) (f : TxFrame) (t : Nat) : Chip :=
  match f.kind with
  | .jrt s lane1 (some num) =>
    (match ((c.sess s).lane lane1).out.find? (fun o => o.num = num) with
     | none => c
     | some o =>
       if o.stamp.isSome then c
       else
         let c := c.modOut s lane1 num (fun o => { o with stamp := some t })
         if s < 64 then c.bump F.SESS_CNT1_LATE_SEND s 0 (o.dues.filter (fun d => decide (t > Stamp.toNs d))).length else c)
  | _ => c

end Sys2Proof.Machine
end

