-- ==== Sys2Proof/Machine/Ops.lean ====
section
/-!
DEFINITION. Shared operations over management state: NMP roles, long operations and their registers (Table 16-23).
-/

namespace Sys2Proof.Machine

/-- Lifts an update of management. -/
def Chip.updMgmt (c : Chip) (f : Mgmt → Mgmt) : Chip := { c with mgmt := f c.mgmt }

/-- An NMP role. -/
def Chip.role (c : Chip) (r : Nat) : NmpRole := smGet NmpRole.cold c.mgmt.roles r

/-- Updates an NMP role. -/
def Chip.modRole (c : Chip) (r : Nat) (f : NmpRole → NmpRole) : Chip :=
  c.updMgmt (fun m => { m with roles := smMod NmpRole.cold m.roles r f })

/-- The record of entry `h` of the long-operation registers. -/
def Chip.op (c : Chip) (h : Nat) : LongOp := smGet LongOp.cold c.mgmt.ops h

/-- Updates the record of an entry. -/
def Chip.modOp (c : Chip) (h : Nat) (f : LongOp → LongOp) : Chip :=
  c.updMgmt (fun m => { m with ops := smMod LongOp.cold m.ops h f })

/-- An entry is in use: its handle is live (R516). -/
def Chip.opLive (c : Chip) (h : Nat) : Bool := decide (c.get F.LONG_STAT_KIND h ≠ 0)

/-- An entry's operation is QUEUED or RUNNING. -/
def Chip.opOpen (c : Chip) (h : Nat) : Bool := c.opLive h && decide (c.get F.LONG_STAT_STATE h < 2)

/-- The entry of a kind whose operation has not ended. -/
def Chip.opOfKind (c : Chip) (kind : Nat) : Option Nat :=
  (List.range 8).find? (fun h => c.opOpen h && decide (c.get F.LONG_STAT_KIND h = kind))

/-- The entry that a live handle names. -/
def Chip.opOfHandle (c : Chip) (handle : Nat) : Option Nat :=
  (List.range 8).find? (fun h => c.opLive h && decide (c.get F.LONG_HND_HANDLE h = handle))

/-- An operation ends in a state of Table 16-16 with a result code. -/
def Chip.opEnds (c : Chip) (h state result : Nat) : Chip :=
  let c := (c.put F.LONG_STAT_STATE state h).put F.LONG_STAT_RESULT result h
  let c := if state = 2 then c.put F.LONG_STAT_PROGRESS 65535 h else c
  c.modOp h (fun o => { o with endedAt := some c.upNs })

/-- A disable of stream `n` during a capture ends the capture aborted; the previous set stays in use (R141). -/
def Chip.abortCapture (c : Chip) (n : Nat) : Chip :=
  match c.opOfKind 2 with
  | some h =>
    if (c.op h).target = n then (c.modStream n (fun s => { s with capturing := false })).opEnds h 4 0 else c
  | none => c

end Sys2Proof.Machine
end

