-- ==== Sys2Proof/Machine/Kv.lean ====
section
/-!
DEFINITION. Chapter 9, the key-value cache: pool, page tables, edits, epochs and limbo (R262 to R280).
-/

namespace Sys2Proof.Machine

/-- Lifts an update of the cache. -/
def Chip.updKv (c : Chip) (f : Kv → Kv) : Chip := { c with kv := f c.kv }

/-- A table slot. -/
def Chip.kvSlot (c : Chip) (q : Nat) : KvSlot := smGet KvSlot.cold c.kv.slots q

/-- Updates a table slot. -/
def Chip.modKvSlot (c : Chip) (q : Nat) (f : KvSlot → KvSlot) : Chip :=
  c.updKv (fun k => { k with slots := smMod KvSlot.cold k.slots q f })

/-- The entries of copy `x`. -/
def KvSlot.copy (s : KvSlot) (x : Nat) : List (BitVec 32) := if x = 0 then s.copy0 else s.copy1

/-- The published entries. -/
def KvSlot.entries (s : KvSlot) : List (BitVec 32) := s.copy s.cur

/-- RETIRE of copy `x`. -/
def KvSlot.retire (s : KvSlot) (x : Nat) : Nat := if x = 0 then s.retire0 else s.retire1

/-- Replaces copy `x`. -/
def KvSlot.setCopy (s : KvSlot) (x : Nat) (l : List (BitVec 32)) : KvSlot :=
  if x = 0 then { s with copy0 := l } else { s with copy1 := l }

/-- Sets RETIRE of copy `x`. -/
def KvSlot.setRetire (s : KvSlot) (x t : Nat) : KvSlot :=
  if x = 0 then { s with retire0 := t } else { s with retire1 := t }

/-- Table slots of the image (Table 9-7). -/
def Chip.kvSlots (c : Chip) : Nat := 4 * (c.get F.KV_POOL_CFG_SLOTS + 1)

/-- The epochs that walkers hold: those of running steps that read or write KV pages (R271, R274). -/
def Chip.heldEpochs (c : Chip) : List Nat :=
  c.sched.running.filterMap (fun e => match e.2 with
    | some r => if r.desc.kv then some r.epoch else none
    | none => none)

/-- Every held epoch is at least `t`. -/
def Chip.heldReach (c : Chip) (t : Nat) : Bool := c.heldEpochs.all (fun e => decide (t ≤ e))

/-- A page-table entry from its fields (Table 9-4). -/
def kvEntry (ovf : Bool) (base : Nat) : BitVec 32 := BitVec.ofNat 32 (2 ^ 31 + b2n ovf * 2 ^ 30 + base % 2 ^ 24)
/-- VALID. -/
def keValid (e : BitVec 32) : Bool := bitOf e.toNat 31
/-- RES. -/
def keOvf (e : BitVec 32) : Bool := bitOf e.toNat 30
/-- BASE. -/
def keBase (e : BitVec 32) : Nat := bitsOf e.toNat 0 24

/-- The allocated set that an entry points at. -/
def Chip.kvSetOf (c : Chip) (e : BitVec 32) : Option KvSet :=
  c.kv.sets.find? (fun s => s.ovf = keOvf e ∧ s.base = keBase e)

/-- Pages of an area in use or in limbo. -/
def Chip.kvTaken (c : Chip) (ovf : Bool) : List (Nat × Nat) :=
  ((c.kv.sets ++ c.kv.limbo.map (·.1)).filter (fun s => s.ovf = ovf)).map (fun s => (s.base, s.pages))

/-- The lowest run of `n` free pages in an area of `size` pages. (DEDUCED, log entry 96) -/
def firstRun (taken : List (Nat × Nat)) (size n : Nat) : Option Nat :=
  ((0 :: taken.map (fun t => t.1 + t.2)).filter (fun b =>
    b + n ≤ size && taken.all (fun t => b + n ≤ t.1 || t.1 + t.2 ≤ b))).foldl
      (fun m b => match m with | none => some b | some x => some (Nat.min x b)) none

/-- Sum of the pages of sets. -/
def pagesOf (l : List KvSet) : Nat := l.foldl (fun a s => a + s.pages) 0

/-- Shows FREE, LIMBO, LC_HELD and OVF_FREE. -/
def Chip.showKv (c : Chip) : Chip :=
  let inPool := c.kv.sets.filter (fun s => !s.ovf)
  let limbo := (c.kv.limbo.map (·.1)).filter (fun s => !s.ovf)
  let ovf := ((c.kv.sets ++ c.kv.limbo.map (·.1)).filter (fun s => s.ovf))
  let c := c.put F.KV_POOL_STAT_FREE (c.get F.KV_POOL_CFG_PAGES - pagesOf inPool - pagesOf limbo)
  let c := c.put F.KV_POOL_STAT_LIMBO (pagesOf limbo)
  let c := c.put F.KV_RESV_LC_HELD (pagesOf (inPool.filter (·.resv)))
  let c := c.put F.KV_OVF_OVF_FREE (c.get F.KV_OVF_OVF_PAGES - pagesOf ovf)
  c.put F.KV_EPOCH_LO_LO (c.kv.epoch % 2 ^ 32)

/-- Allocates a page set of `pages` pages (R264): the sources in order, the lowest free run of an area.
(DEDUCED, log entry 96) -/
def Chip.kvAlloc (c : Chip) (lcWork : Bool) (pages : Nat) : Option (Chip × KvSet) :=
  let free := c.get F.KV_POOL_STAT_FREE
  let resvLeft := c.get F.KV_RESV_LC_RESV - c.get F.KV_RESV_LC_HELD
  let pool := firstRun (c.kvTaken false) (c.get F.KV_POOL_CFG_PAGES) pages
  let ovf := firstRun (c.kvTaken true) (c.get F.KV_OVF_OVF_PAGES) pages
  let take := fun (s : KvSet) => some ((c.updKv (fun k => { k with sets := k.sets ++ [s] })).showKv, s)
  match pool, lcWork with
  | some b, true =>
    if pages ≤ resvLeft then take ⟨false, b, pages, 0, true⟩
    else if pages + resvLeft ≤ free then take ⟨false, b, pages, 0, false⟩
    else none
  | some b, false =>
    if pages + resvLeft ≤ free then take ⟨false, b, pages, 0, false⟩
    else (match ovf with | some b => take ⟨true, b, pages, 0, false⟩ | none => none)
  | none, true => none
  | none, false => (match ovf with | some b => take ⟨true, b, pages, 0, false⟩ | none => none)

/-- Reference counts after the published entries of one slot change from `old` to `new`; sets that reach 0 go to
limbo with tag `t` (R272, R277). -/
def Chip.kvRecount (c : Chip) (old new : List (BitVec 32)) (t : Nat) : Chip :=
  let cnt := fun (l : List (BitVec 32)) (s : KvSet) =>
    (l.filter (fun e => keValid e ∧ keOvf e = s.ovf ∧ keBase e = s.base)).length
  let sets := c.kv.sets.map (fun s => { s with refs := s.refs + cnt new s - cnt old s })
  let gone := sets.filter (fun s => s.refs = 0 ∧ (cnt old s ≠ 0))
  (c.updKv (fun k => { k with sets := sets.filter (fun s => !gone.contains s)
                              limbo := k.limbo ++ gone.map (fun s => (s, t)) })).showKv

/-- Publishes an edit of slot `q`: the other copy takes the new entries, the publication fence discards what walkers have
read ahead, CUR flips, the epoch advances (R272, R68). -/
def Chip.kvPublish (c : Chip) (q : Nat) (new : List (BitVec 32)) : Chip :=
  let s := c.kvSlot q
  let e := c.kv.epoch + 1
  let x := s.cur
  let old := s.entries
  let c := c.modKvSlot q (fun s => { ((s.setCopy (1 - x) new).setRetire x e) with gen := e, prev := s.gen, cur := 1 - x })
  let c := c.kvRecount old new e
  (c.updKv (fun k => { k with epoch := e, bufs := [] })).showKv

/-- Whether an edit of slot `q` must wait for walkers (R272). -/
def Chip.kvMustWait (c : Chip) (q : Nat) : Bool :=
  let s := c.kvSlot q
  !c.heldReach (s.retire (1 - s.cur))

/-- Layers of the model a partition's sequences run, from the image; 1 without an entry. -/
def Chip.kvLayers (c : Chip) (part : Nat) : Nat :=
  ((c.image.kvLayers.find? (fun e => e.1 = part)).map (·.2)).getD 1

/-- The lowest free table slot. -/
def Chip.kvFreeSlot (c : Chip) : Option Nat := (List.range c.kvSlots).find? (fun q => !(c.kvSlot q).used)

/-- The table slot of an item, taken when it has none yet. -/
def Chip.kvTake (c : Chip) (n : Nat) : Chip × Option Nat :=
  match c.item n with
  | none => (c, none)
  | some i =>
    match i.kvSlot with
    | some q => (c, some q)
    | none =>
      match c.kvFreeSlot with
      | none => (c, none)
      | some q =>
        let c := c.modItem n (fun i => { i with kvSlot := some q })
        (c.modKvSlot q (fun s => { s with used := true, owner := i.part, layers := c.kvLayers i.part }), some q)

/-- The table slot of a set's training, taken when it has none yet; its partition is ADAPT_CTRL.PART (R329). -/
def Chip.kvTakeTrain (c : Chip) (set : Nat) : Chip × Option Nat :=
  match (smGet AdSet.cold c.adapt.sets set).kvSlot with
  | some q => (c, some q)
  | none =>
    match c.kvFreeSlot with
    | none => (c, none)
    | some q =>
      let p := c.get F.ADAPT_CTRL_PART
      let c := { c with adapt := { c.adapt with
        sets := smMod AdSet.cold c.adapt.sets set (fun a => { a with kvSlot := some q }) } }
      (c.modKvSlot q (fun s => { s with used := true, owner := p, layers := c.kvLayers p }), some q)

/-- The byte address of an element of a pool page in its area: memory number, address (R262). -/
def Chip.kvPlace (c : Chip) (ovf : Bool) (page off : Nat) : Place :=
  let kib := actsAs (c.get F.KV_POOL_CFG_PAGE_KIB) 1 * 1024
  if ovf then ⟨37, true, c.image.kvOvfPage * 4096 + page * kib + off⟩
  else ⟨36, false, c.image.kvBase + page * kib + off⟩

/-- Copies the content of a page set to another of the same size, granule by granule (R278). -/
def Chip.kvCopySet (c : Chip) (a b : KvSet) : Chip :=
  let n := a.pages * (actsAs (c.get F.KV_POOL_CFG_PAGE_KIB) 1 * 16)
  (c.carry ((List.range n).map (fun k =>
    ((c.kvPlace a.ovf a.base (64 * k)).gran, (c.kvPlace b.ovf b.base (64 * k)).gran)))).1

/-- Whether an item's work is LC envelope work. -/
def Chip.lcWork (c : Chip) (part : Nat) (overflow : Bool) : Bool := ¬ c.flag F.PART_CFG_KIND part && !overflow

/-- Runs one edit that need not wait (R268, R278, R280). -/
def Chip.kvEdit (c : Chip) (e : KvEdit) : Chip :=
  match e with
  | .train k =>
    (match c.kvTakeTrain k.val with
     | (c, none) => c
     | (c, some q) =>
       let s := c.kvSlot q
       if s.entries.length ≥ 256 then c
       else
         match c.kvAlloc false s.layers with
         | none => c.modKvSlot q (fun s => { s with starved := true })
         | some (c, x) => (c.modKvSlot q (fun s => { s with starved := false })).kvPublish q
             (s.entries ++ [kvEntry x.ovf x.base]))
  | .trainEnd k =>
    (match (smGet AdSet.cold c.adapt.sets k.val).kvSlot with
     | none => c
     | some q =>
       let c := { c with adapt := { c.adapt with
         sets := smMod AdSet.cold c.adapt.sets k.val (fun a => { a with kvSlot := none }) } }
       (c.kvPublish q []).modKvSlot q (fun s => { s with used := false, starved := false }))
  | .append n ov =>
    (match c.kvTake n with
     | (c, none) => c
     | (c, some q) =>
       let s := c.kvSlot q
       if s.entries.length ≥ 256 then c
       else
         match c.kvAlloc (c.lcWork s.owner ov) s.layers with
         | none => c.modKvSlot q (fun s => { s with starved := true })
         | some (c, k) => (c.modKvSlot q (fun s => { s with starved := false })).kvPublish q
             (s.entries ++ [kvEntry k.ovf k.base]))
  | .attach n a pos =>
    (match c.kvTake n with
     | (c, none) => c
     | (c, some q) =>
       let s := c.kvSlot q
       let whole := (c.kvSlot a).entries.take (pos / 16)
       if !(c.kvSlot a).anchor ∨ s.entries ≠ [] then c
       else if pos % 16 = 0 then c.kvPublish q whole
       else
         match c.kvAlloc (c.lcWork s.owner false) s.layers, (c.kvSlot a).entries[pos / 16]? with
         | some (c, k), some e =>
           let c := match c.kvSetOf e with
             | some src => c.kvCopySet src k
             | none => c
           c.kvPublish q (whole ++ [kvEntry k.ovf k.base])
         | _, _ => c.modKvSlot q (fun s => { s with starved := true }))
  | .release n j =>
    (match (c.item n).bind (·.kvSlot) with
     | none => c
     | some q => c.kvPublish q ((c.kvSlot q).entries.take j))
  | .anchor q k =>
    if (c.kvSlot q).used ∨ q ≥ c.kvSlots then c
    else
      let c := c.modKvSlot q (fun s => { s with used := true, anchor := true, layers := c.kvLayers 16 })
      let r := (List.range k).foldl (fun (acc : Chip × List (BitVec 32)) _ =>
        match acc.1.kvAlloc true (c.kvSlot q).layers with
        | some (c, s) => (c, acc.2 ++ [kvEntry s.ovf s.base])
        | none => acc) (c, [])
      r.1.kvPublish q r.2
  | .clear q =>
    if !(c.kvSlot q).used ∨ c.items.list.any (fun i => i.kvSlot = some q) ∨ c.adapt.sets.any (fun e => e.2.kvSlot = some q) then c
    else (c.kvPublish q []).modKvSlot q (fun s => { s with used := false, anchor := false, starved := false })

/-- The slot an edit works on, for the wait of R272. -/
def Chip.kvEditSlot (c : Chip) (e : KvEdit) : Option Nat :=
  match e with
  | .train k => (smGet AdSet.cold c.adapt.sets k.val).kvSlot
  | .trainEnd k => (smGet AdSet.cold c.adapt.sets k.val).kvSlot
  | .append n _ => (c.item n).bind (·.kvSlot)
  | .attach n _ _ => (c.item n).bind (·.kvSlot)
  | .release n _ => (c.item n).bind (·.kvSlot)
  | .anchor q _ => some q
  | .clear q => some q

/-- The item manager, control core 7 or the spare in its role, has moves in flight, which its publication fence waits for
(Table 2-10). -/
def Chip.itemMoves (c : Chip) : Bool :=
  c.mem.moves.any (fun m => match m.issuer.u with
    | .core k => decide (c.coreOf 7 = some k.val)
    | _ => false)

/-- Runs the waiting edits in order until one must wait, for walkers, which is counted once, or at its publication fence
(R270, R272). -/
def kvDrain : Nat → Chip → Chip
  | 0, c => c
  | fuel + 1, c =>
    match c.kv.waiting with
    | [] => c
    | e :: r =>
      if c.itemMoves then c
      else if (match c.kvEditSlot e with | some q => c.kvMustWait q | none => false) then
        if c.kv.counted then c else (c.bump F.KV_CNT1_EDIT_WAIT).updKv (fun k => { k with counted := true })
      else kvDrain fuel ((c.updKv (fun k => { k with waiting := r, counted := false })).kvEdit e)

/-- Runs what waits. -/
def Chip.kvRun (c : Chip) : Chip := kvDrain (c.kv.waiting.length + 1) c

/-- KV_TABLE_EDIT: one edit in the order requested (R270, R272). -/
def Chip.kvTableEdit (c : Chip) (e : KvEdit) : Chip :=
  (c.updKv (fun k => { k with waiting := k.waiting ++ [e] })).kvRun

/-- An item's last step has ended: one edit clears its entries and frees its slot (R280). -/
def Chip.kvFreeItem (c : Chip) (n : Nat) : Chip :=
  match (c.item n).bind (·.kvSlot) with
  | none => c
  | some q =>
    let c := c.updKv (fun k => { k with waiting := k.waiting.filter (fun e => match e with
      | .append m _ => m ≠ n
      | .attach m _ _ => m ≠ n
      | .release m _ => m ≠ n
      | _ => true) })
    (c.modItem n (fun i => { i with kvSlot := none })).kvTableEdit (.clear q)

/-- LIMBO_RETURN at a course boundary (R273). -/
def Chip.limboReturn (c : Chip) : Chip :=
  (c.updKv (fun k => { k with limbo := k.limbo.filter (fun e => !c.heldReach e.2) })).showKv.kvRun

end Sys2Proof.Machine
end

