-- ==== Sys2Proof/Machine/Ending.lean ====
section
/-!
DEFINITION. The end of an item with everything it releases (R9, R317, R324, R280), and fields that a failure
ends (R220, R266, R269).
-/

namespace Sys2Proof.Machine

/-- Lifts an update of adaptation. -/
def Chip.updAdapt (c : Chip) (f : Adapt → Adapt) : Chip := { c with adapt := f c.adapt }

/-- Line slots that the samples of the ring hold. -/
def lineCount (l : List Sample) : Nat := l.foldl (fun a s => a + s.lines.length) 0

/-- Drops the oldest line images until `n` more fit. -/
def dropLines : Nat → Nat → List Sample → List Sample
  | 0, _, l => l
  | fuel + 1, room, l =>
    if lineCount l ≤ room then l
    else
      match l.findIdx? (fun s => s.lines ≠ []) with
      | none => l
      | some i => dropLines fuel room (l.modify i (fun s => { s with lines := s.lines.drop 1, gone := s.gone + 1 }))

/-- SAMPLE_WRITE: the sample of an ended item overwrites the oldest (R324); while adaptation is DISABLED the rings
stay empty (R337). (DEDUCED, log entry 84) -/
def Chip.writeSample (c : Chip) (i : Item) (status : Nat) : Chip :=
  let sets := c.setsOf i.origin
  if sets = [] ∨ status > 2 ∨ c.get F.ADAPT_RING_SAMPLES = 0 ∨ c.get F.ADAPT_CTRL_STATE = 0 then c
  else
    let lines := (i.lineImgs.take 32).take (c.get F.ADAPT_RING_LINES)
    let s : Sample :=
      { item := i.num, origin := i.origin, sheet := i.sheet, sets := sets, fields := i.fields.length,
        tokens := i.ctx.take 4096, starts := i.starts.take 64, firstSlot := c.adapt.nextSlot, gone := 0, lines := lines, done := [] }
    c.updAdapt (fun a =>
      let kept := a.samples.drop (a.samples.length + 1 - c.get F.ADAPT_RING_SAMPLES)
      let kept := dropLines (lineCount kept + 1) (c.get F.ADAPT_RING_LINES - lines.length) kept
      { a with samples := kept ++ [s], nextSlot := (a.nextSlot + lines.length) % Nat.max 1 (c.get F.ADAPT_RING_LINES) })

/-- An item ends: its sample, its key-value sets, its adapter copies, its records and its ledger entry; overflow
work left unfinished at a LATE end is counted (R9, R317, R365). -/
def Chip.endItem (c : Chip) (n : Nat) (v : Verdict) : Chip :=
  match c.item n with
  | none => c
  | some i =>
    if i.ended.isSome then c
    else
      let c := if v.status = 2 ∧ i.overflow then c.bump F.PART_CNT_OVF_LATE i.part else c
      let c := c.kvFreeItem n
      let c := c.writeSample i v.status
      (c.modItem n (fun i => { i with copies := [] })).endCore n v

/-- The status that an item's ended fields give: COMPLETE or PARTIAL (R317). -/
def Item.fieldStatus (i : Item) : Verdict := if i.fields.all (fun f => f.code = some 0) then ⟨0, []⟩ else ⟨1, []⟩

/-- The first field from `k` on that has not ended. -/
def Item.openFrom (i : Item) (k : Nat) : Nat :=
  (((List.range i.fields.length).drop k).find? (fun j => ((i.fields[j]?).bind (·.code)).isNone)).getD i.fields.length

/-- The item's fields have all ended: it ends with the status they give, FAILED when one failure `why` took them
all (R220, R266). -/
def Chip.settleItem (c : Chip) (n : Nat) (why : Option (List Byte)) : Chip :=
  match c.item n with
  | none => c
  | some i =>
    if i.fields.any (fun f => f.code.isNone) then c
    else
      match why with
      | some w =>
        if i.fields.all (fun f => f.code = some 5 ∧ f.reason = w) then c.endItem n ⟨3, w⟩
        else c.endItem n i.fieldStatus
      | none => c.endItem n i.fieldStatus

/-- Fields that a failed step's outputs reach are failed with its reason (R220, R266, R269). -/
def Chip.failFields (c : Chip) (n : Nat) (ks : List Nat) (why : List Byte) : Chip :=
  match c.item n with
  | none => c
  | some i =>
    if i.ended.isSome then c
    else
      let hit := ks.filter (fun k => match i.fields[k]? with
        | some f => f.code.isNone
        | none => false)
      let c := c.bump F.TXT_CNT2_UTF8_TRIM 0 0 (hit.filter (fun k =>
        match i.fields[k]? with | some f => decide (utf8Tail f.held ≠ 0) | none => false)).length
      let c := c.modItem n (fun i => { i with fields := i.fields.mapIdx (fun k f =>
        if hit.contains k then { f with begun := true, code := some 5, reason := why, text := [], held := [] } else f) })
      let c := hit.foldl (fun c k => c.formField n k) c
      let c := c.modItem n (fun i => { i with field := i.openFrom i.field })
      if i.fields = [] then c.endItem n ⟨3, why⟩ else c.settleItem n (some why)

/-- Fields that a step of an item reaches: the one being decoded, else all that have not ended. -/
def Item.reached (i : Item) : List Nat :=
  match i.fields[i.field]? with
  | some f => if f.begun ∧ f.code.isNone then [i.field] else List.range i.fields.length
  | none => List.range i.fields.length

/-- KV_ALLOC_FAIL (R266). -/
def Chip.kvExhausted (c : Chip) (n : Nat) : Chip :=
  match c.item n with
  | none => c
  | some i => (c.bump F.KV_CNT0_EXHAUST).failFields n i.reached (txt "kv-exhausted")

/-- KV_TABLE_FAULT (R269, R279, class 0x14). -/
def Chip.kvFault (c : Chip) (n : Nat) (l : Loc) : Chip :=
  match c.item n with
  | none => c
  | some i =>
    ((c.log 0x14 l).bump F.KV_CNT0_KV_FAULT).failFields n i.reached (txt "kv-table")

/-- Sets flags of an item. -/
def Chip.flagItem (c : Chip) (n bits : Nat) : Chip := c.modItem n (fun i => { i with flags := i.flags ||| bits })

/-- An LC item's work passes to overflow: the flag, once counted (R362, R363). -/
def Chip.overflowItem (c : Chip) (n : Nat) : Chip :=
  match c.item n with
  | none => c
  | some i =>
    if i.overflow ∨ c.flag F.PART_CFG_KIND i.part then c
    else ((c.modItem n (fun i => { i with overflow := true })).flagItem n 4096).bump F.PART_CNT_OVF_ITEMS i.part

/-- An item that waits for its end at a step boundary, with none of its steps running, ends (R548).
(DEDUCED, log entry 94) -/
def Chip.endDue (c : Chip) (n : Nat) : Chip :=
  match c.item n with
  | none => c
  | some i =>
    match i.endNext with
    | none => c
    | some v =>
      if c.itemRuns n then c else c.endItem n (if i.cutWhy = [] then v else i.r393 i.cutWhy)

end Sys2Proof.Machine
end

