-- ==== Sys2Proof/Machine/Text.lean ====
section
/-!
DEFINITION. Chapter 10: tokenising, UTF-8, stop strings, grammar and the end of a field (R300 to R316, R547).
-/

namespace Sys2Proof.Machine

/-! ## Tokenising -/

/-- Fields of a trie node (Table 10-2). -/
def tnValid (w : BitVec 64) : Bool := bitOf w.toNat 63
/-- HAS_TOKEN. -/
def tnToken (w : BitVec 64) : Bool := bitOf w.toNat 62
/-- BASE. -/
def tnBase (w : BitVec 64) : Nat := bitsOf w.toNat 42 20
/-- CHECK. -/
def tnCheck (w : BitVec 64) : Nat := bitsOf w.toNat 22 20

/-- Child of node `s` for byte `b`: BASE + byte is in range, the node is in use and names `s` as parent. -/
def trieStep (nodes : SMap (BitVec 64)) (count s : Nat) (b : Byte) : Option Nat :=
  let t := tnBase (smGet 0 nodes s) + b.toNat
  let w := smGet 0 nodes t
  if t < count ∧ tnValid w ∧ tnCheck w = s then some t else none

/-- Walks the trie from a node: the best token so far and the bytes it takes. -/
def trieWalk (nodes : SMap (BitVec 64)) (count : Nat) : Nat → Nat → Option (Nat × Nat) → List Byte → Option (Nat × Nat)
  | _, _, best, [] => best
  | s, n, best, b :: r =>
    match trieStep nodes count s b with
    | none => best
    | some t =>
      let w := smGet 0 nodes t
      trieWalk nodes count t (n + 1) (if tnToken w then some (bitsOf w.toNat 0 16, n + 1) else best) r

/-- Longest match from the left (R300); R299 makes the best match exist. -/
def tokeniseFrom (nodes : SMap (BitVec 64)) (count : Nat) : Nat → List Byte → List Nat
  | 0, _ => []
  | _, [] => []
  | fuel + 1, b =>
    match trieWalk nodes count 0 0 none b with
    | none => []
    | some (t, n) => t :: tokeniseFrom nodes count fuel (b.drop n)

/-- A dictionary of the image. -/
def Chip.dict (c : Chip) (d : Nat) : DictCfg := c.image.dicts.getD d ⟨[], [], []⟩

/-- Tokenises one piece with a dictionary. -/
def Chip.tokenise (c : Chip) (d : Nat) (b : List Byte) : List Nat :=
  tokeniseFrom (c.dict d).nodes (c.get F.TXT_DICT_NODES d) b.length b

/-- Text of a token. -/
def Chip.tokText (c : Chip) (d t : Nat) : List Byte := smGet [] (c.dict d).text t

/-- Class of a token (4,096 classes in 16-bit entries). -/
def Chip.tokClass (c : Chip) (d t : Nat) : Nat := smGet 0 (c.dict d).cls t

/-- Token IDs of a dictionary in ascending order. -/
def Chip.vocab (c : Chip) (d : Nat) : Nat := c.get F.TXT_VOCAB_VOCAB d

/-- The lowest token ID in class 0: the end token (R327). -/
def Chip.endToken (c : Chip) (d : Nat) : Nat :=
  ((List.range (c.vocab d)).find? (fun t => c.tokClass d t = 0)).getD 0

/-! ## Stop strings -/

/-- Whether `p` starts the list. -/
def startsWith (p l : List Byte) : Bool := decide (l.take p.length = p)

/-- The earliest start of an occurrence of any stop string (R306). -/
def stopAt (stops : List (List Byte)) (h : List Byte) : Option Nat :=
  (List.range h.length).find? (fun k => stops.any (fun s => s ≠ [] && startsWith s (h.drop k)))

/-- Length of the longest suffix that is a proper prefix of a stop string. -/
def stopTail (stops : List (List Byte)) (h : List Byte) : Nat :=
  ((List.range 16).reverse.find? (fun k => k ≤ h.length &&
    stops.any (fun s => decide (k < s.length) && decide (s.take k = h.drop (h.length - k))))).getD 0

/-! ## Grammar -/

/-- Mask of a state; a state missing from the table has none set. (DEDUCED, log entry 79) -/
def Chip.gmask (c : Chip) (q : Nat) : Nat := smGet 0 c.image.grammar.masks q

/-- Whether a class is allowed in a state (R308). -/
def Chip.allows (c : Chip) (q cls : Nat) : Bool := bitOf (c.gmask q) cls

/-- A state whose mask is all zeros (R309). -/
def Chip.deadEnd (c : Chip) (q : Nat) : Bool := decide (c.gmask q = 0)

/-- The state after a class: none where there is no edge or its NEXT is out of range (R308). -/
def Chip.edge (c : Chip) (q cls : Nat) : Option Nat :=
  let e := (smGet 0 c.image.grammar.entries q).toNat
  let off := bitsOf e 40 24
  let edges := (List.range (bitsOf e 27 13)).map (fun i => (smGet 0 c.image.grammar.edges (off + i)).toNat)
  (edges.find? (fun x => bitsOf x 20 12 = cls)).bind (fun x =>
    let nxt := bitsOf x 0 16
    if nxt < c.get F.TXT_GRAM_STATES then some nxt else none)

/-! ## Fields -/

/-- The descriptor fields of a field (Table 10-4). -/
structure FDesc where
  text : Bool
  dict : Nat
  maxtok : Nat
  start : Nat
  stops : List (List Byte)
  deriving DecidableEq, Repr

/-- A field's descriptor. -/
def fdesc (f : FieldCfg) : FDesc :=
  let w := f.desc.toNat
  { text := bitOf w 63, dict := bitsOf w 61 2, maxtok := actsAs (bitsOf w 47 11) 1, start := bitsOf w 31 16,
    stops := if bitOf w 63 then f.stops.take (bitsOf w 58 3) else [] }

/-- Descriptor of field `k` of an item. -/
def Chip.fdescOf (c : Chip) (i : Item) (k : Nat) : Option FDesc :=
  ((c.schemaOf i.origin).bind (fun s => s.fields[k]?)).map fdesc

/-- Updates one field of an item. -/
def Chip.modField (c : Chip) (n k : Nat) (f : FieldSt → FieldSt) : Chip :=
  c.modItem n (fun i => { i with fields := i.fields.modify k f })

/-- Emits bytes of a field: replacements counted, the text grows, a FIELD_PART goes out (R304, R470). -/
def Chip.emitText (c : Chip) (n k : Nat) (b : List Byte) : Chip :=
  match (c.item n).bind (fun i => i.fields[k]?) with
  | none => c
  | some f =>
    let e := utf8Emit b.length b
    let c := c.bump F.TXT_CNT1_UTF8_REPL 0 0 e.2
    (c.modField n k (fun f => { f with text := f.text ++ e.1 })).formPart n k f.text.length e.1

/-- Emits what is held when a field ends other than by a stop string (R547, R305). -/
def Chip.flushHeld (c : Chip) (n k : Nat) : Chip :=
  match (c.item n).bind (fun i => i.fields[k]?) with
  | none => c
  | some f =>
    let t := utf8Tail f.held
    let c := if t ≠ 0 then c.bump F.TXT_CNT2_UTF8_TRIM else c
    (c.emitText n k (f.held.take (f.held.length - t))).modField n k (fun f => { f with held := [] })

/-- The entries and context of the field's decoding go back to where it began (R267, R314, R280). -/
def Chip.dropDecoding (c : Chip) (n k : Nat) : Chip :=
  match c.item n with
  | none => c
  | some i =>
    let p := i.starts.getD k i.ctx.length
    let c := c.modItem n (fun i => { i with ctx := i.ctx.take p })
    if i.kvSlot.isSome then c.kvTableEdit (.release n (ceilDiv p 16)) else c

/-- A field ends with a code and a reason: its record is formed and the next field is due (R313, R316). -/
def Chip.endField (c : Chip) (n k code : Nat) (why : List Byte) : Chip :=
  let c := c.modField n k (fun f => { f with begun := true, code := some code, reason := why, held := [] })
  let c := match code with
    | 1 => (c.bump F.TXT_CNT0_DEAD_END).dropDecoding n k
    | 2 => c.bump F.TXT_CNT0_TOK_LIMIT
    | 3 => (c.bump F.KV_CNT1_CTX_FULL).dropDecoding n k
    | 4 => c.bump F.TXT_CNT0_TABLE
    | _ => c
  let c := c.formField n k
  c.modItem n (fun i => { i with field := i.openFrom i.field })

/-- Field `k` begins at the present context position (Table 11-1, R267). -/
def Chip.markStart (c : Chip) (n k : Nat) : Chip :=
  c.modItem n (fun i => { i with
    starts := (i.starts ++ List.replicate (k + 1 - i.starts.length) i.ctx.length).set k i.ctx.length })

/-- Fields that end as they begin: a START state that is a dead end (R314), a context already full (R267). -/
def skipDead : Nat → Chip → Nat → Chip
  | 0, c, _ => c
  | fuel + 1, c, n =>
    match c.item n with
    | none => c
    | some i =>
      match i.fields[i.field]?, c.fdescOf i i.field with
      | some f, some d =>
        if f.begun ∨ f.code.isSome then c
        else if c.deadEnd d.start then
          skipDead fuel ((c.markStart n i.field).endField n i.field 1 (txt "grammar-dead-end")) n
        else if i.ctx.length ≥ 4096 then
          skipDead fuel ((c.markStart n i.field).endField n i.field 3 (txt "context-full")) n
        else c
      | _, _ => c

/-- Work of a field that is overflow work: the 65th field and later ones, and the 1,025th output token (R362). -/
def Item.tokenOverflow (i : Item) : Bool := decide (i.field < i.fields.length) && decide (i.field ≥ 64 ∨ i.toks ≥ 1024)

/-- An item whose next token is overflow work passes to overflow (R362). -/
def Chip.overflowDue (c : Chip) (n : Nat) : Chip :=
  match c.item n with
  | some i => if i.ended.isNone && i.tokenOverflow then c.overflowItem n else c
  | none => c

/-- After a field's end: dead fields behind it end too, and the item ends with its last field (R314, R317). -/
def Chip.nextField (c : Chip) (n : Nat) : Chip :=
  let c := match c.item n with
    | some i => skipDead (i.fields.length + 1) c n
    | none => c
  (c.settleItem n none).overflowDue n

/-- A key that orders logits: NaN below every number (R311). -/
def logitLt (a b : FV) : Bool :=
  match a, b with
  | .nan, .nan => false
  | .nan, _ => true
  | _, .nan => false
  | a, b => a.lt b

/-- Mask and select (R310, R311): the chosen token, and whether every allowed logit was a NaN. -/
def Chip.select (c : Chip) (d q : Nat) (fp32 : Bool) (logits : List (Nat × Nat)) : Option (Nat × Bool) :=
  let l := (logits.filter (fun e => c.allows q (c.tokClass d e.1))).map (fun e =>
    (e.1, fpOf (if fp32 then .fp32 else .fp16) e.2))
  match l with
  | [] => none
  | e :: r =>
    let b := r.foldl (fun (b : Nat × FV) e =>
      if logitLt b.2 e.2 ∨ (!logitLt e.2 b.2 ∧ e.1 < b.1) then e else b) e
    some (b.1, decide (b.2 = .nan))

/-- The chosen token counts as generated: it occupies a context position and counts against the field and the item
(R307). -/
def Chip.countToken (c : Chip) (n k t : Nat) : Chip :=
  let c := c.modField n k (fun f => { f with tokens := f.tokens ++ [t] })
  c.modItem n (fun i => { i with toks := i.toks + 1, ctx := i.ctx ++ [t] })

/-- The end test of Table 10-5 after a token that left the field in state `q`. -/
def Chip.endTest (c : Chip) (n k : Nat) (d : FDesc) (q : Nat) : Chip :=
  match c.item n with
  | none => c
  | some i =>
    let cnt := ((i.fields[k]?).map (·.tokens.length)).getD 0
    let fin := fun (code : Nat) (why : List Byte) => ((c.flushHeld n k).endField n k code why).nextField n
    if cnt ≥ d.maxtok ∧ c.allows q 0 then fin 0 []
    else if c.deadEnd q then fin 1 (txt "grammar-dead-end")
    else if cnt ≥ d.maxtok then fin 2 (txt "token-limit")
    else if i.ctx.length ≥ 4096 then fin 3 (txt "context-full")
    else c.overflowDue n

/-- Detokenise and stop check (R306), then the end test. -/
def Chip.detok (c : Chip) (n k : Nat) (d : FDesc) (t q : Nat) : Chip :=
  match (c.item n).bind (fun i => i.fields[k]?) with
  | none => c
  | some f =>
    let h := f.held ++ c.tokText d.dict t
    match stopAt d.stops h with
    | some s =>
      (((c.emitText n k (h.take s)).bump F.TXT_CNT1_STOP).endField n k 0 []).nextField n
    | none =>
      let keep := Nat.max (stopTail d.stops h) (utf8Tail h)
      let c := (c.emitText n k (h.take (h.length - keep))).modField n k (fun f =>
        { f with held := h.drop (h.length - keep) })
      c.endTest n k d q

/-- FIELD_TOKEN: one token of the item's current field (R310 to R313). (DEDUCED, log entry 79) -/
def Chip.fieldToken (c : Chip) (n : Nat) (fp32 : Bool) (logits : List (Nat × Nat)) : Chip :=
  let c := c.nextField n
  match c.item n with
  | none => c
  | some i =>
    let k := i.field
    match i.fields[k]?, c.fdescOf i k with
    | some f, some d =>
      if i.ended.isSome ∨ f.code.isSome then c
      else
        let c := if f.begun then c else
          (c.modField n k (fun f => { f with begun := true, gstate := d.start })).markStart n k
        let q := if f.begun then f.gstate else d.start
        match c.select d.dict q fp32 logits with
        | none => c
        | some (t, nan) =>
          let c := if nan then (c.bump F.TXT_CNT2_NAN_LOGIT).flagItem n 512 else c
          let c := c.countToken n k t
          let cls := c.tokClass d.dict t
          if cls = 0 then ((c.flushHeld n k).endField n k 0 []).nextField n
          else
            match c.edge q cls with
            | none => ((c.flushHeld n k).endField n k 4 (txt "grammar-table")).nextField n
            | some q' => (c.modField n k (fun f => { f with gstate := q' })).detok n k d t q'
    | _, _ => c

/-! ## Prompts -/

/-- Text of a prompt piece's source (chapter 10, "Building a prompt"). -/
def pieceText (i : Item) : Piece → Option (List Byte)
  | .literal _ => none
  | .page => some i.texts.flatten
  | .region ls => some (ls.flatMap (fun l => i.texts.getD l []))
  | .field k => some (((i.fields[k]?).map (·.text)).getD [])

/-- Literal tokens of the pieces still to come. -/
def literalLeft (ps : List Piece) : Nat :=
  ps.foldl (fun a p => match p with | .literal ids => a + ids.length | _ => a) 0

/-- Builds a prompt from its pieces: the tokens, and whether a text piece was cut short (R301, R303). -/
def Chip.buildPrompt (c : Chip) (i : Item) (d limit : Nat) : List Piece → List Nat → Bool → List Nat × Bool
  | [], acc, cut => (acc, cut)
  | .literal ids :: r, acc, cut => c.buildPrompt i d limit r (acc ++ ids) cut
  | p :: r, acc, cut =>
    if cut then c.buildPrompt i d limit r acc cut
    else
      let ts := c.tokenise d ((pieceText i p).getD [])
      let room := limit - literalLeft r - acc.length
      if ts.length ≤ room then c.buildPrompt i d limit r (acc ++ ts) false
      else c.buildPrompt i d limit r (acc ++ ts.take room) true

/-- The tokenising of an item's prompt: the schema's template first, then that of the field about to begin. -/
def Chip.prefill (c : Chip) (n : Nat) : Chip :=
  match c.item n with
  | none => c
  | some i =>
    match c.schemaOf i.origin with
    | none => c
    | some s =>
      let ps := if i.ctx = [] then s.template else ((s.fields[i.field]?).map (·.template)).getD []
      let r := c.buildPrompt i s.dict.val s.promptMax ps i.ctx false
      let c := c.modItem n (fun i => { i with ctx := r.1 })
      if r.2 then (c.bump F.TXT_CNT1_TRUNC).flagItem n 256 else c

/-- Whether recognition of a line is overflow work: a line beyond the 120th in reading order, or one behind the line whose
characters brought the item past 12,000 (R362). -/
def Item.lineOverflow (i : Item) (line : Nat) : Bool :=
  decide (line ≥ 120) || decide ((i.lineChars.take line).foldl (· + ·) 0 > 12000)

/-- A prompt piece names text that includes an overflow line, or an earlier field that runs as overflow work (R362). -/
def Item.pieceOverflow (i : Item) (later : Nat → Bool) : Piece → Bool
  | .literal _ => false
  | .page => (List.range i.lines).any i.lineOverflow
  | .region ls => ls.any i.lineOverflow
  | .field k => later k

/-- Whether field `k` runs as overflow work: by its number, by what its prompt names, or behind such a field (R362). -/
def fieldOverflow (i : Item) (fs : List FieldCfg) : Nat → Bool
  | 0 => match fs[0]? with | some f => f.template.any (i.pieceOverflow (fun _ => false)) | none => false
  | k + 1 => fieldOverflow i fs k || decide (k + 1 ≥ 64) ||
      (match fs[k + 1]? with | some f => f.template.any (i.pieceOverflow (fun _ => false)) | none => false)

/-- Whether the text work that an item's current field needs next is overflow work (R362). -/
def Chip.textOverflow (c : Chip) (i : Item) : Bool :=
  i.tokenOverflow || fieldOverflow i (((c.schemaOf i.origin).map (·.fields)).getD []) i.field

/-- A recognised line (R362): its text, its image within a field region (Table 11-1), and the points at which an LC
item's recognition passes to overflow. -/
def Chip.recognise (c : Chip) (n line chars : Nat) (text image : List Byte) (inField : Bool) : Chip :=
  match c.item n with
  | none => c
  | some i =>
    let pad := i.texts ++ List.replicate (line + 1 - i.texts.length) []
    let cnt := (i.lineChars ++ List.replicate (line + 1 - i.lineChars.length) 0).set line chars
    let c' := c.modItem n (fun i => { i with
      lines := Nat.max i.lines (line + 1), lineChars := cnt, chars := cnt.foldl (· + ·) 0, texts := pad.set line text
      lineImgs := if inField ∧ i.lineImgs.length < 32 then i.lineImgs ++ [image] else i.lineImgs })
    if i.lineOverflow line then c'.overflowItem n else c'

end Sys2Proof.Machine
end

