-- ==== Sys2Proof/Machine/Attention.lean ====
section
/-!
DEFINITION. Chapter 9, attention over the key-value cache (R258 to R287), and the adapter path of chapter 11
(R320).
-/

namespace Sys2Proof.Machine

/-- What a walker's use of a page-table entry comes to: the set, a KV-table fault (R269), a failed allocation
(R266). -/
inductive KvUse where
  | page (s : KvSet)
  | fault
  | starved
  deriving DecidableEq, Repr

/-- The entries that a walker uses in a step that holds `epoch`: those of the copy published when it read the
selector (R271, R273). -/
def KvSlot.seen (s : KvSlot) (epoch : Nat) : List (BitVec 32) :=
  if s.gen ≤ epoch then s.entries else s.copy (1 - s.cur)

/-- GEN of the selector as that walker read it. -/
def KvSlot.seenGen (s : KvSlot) (epoch : Nat) : Nat := if s.gen ≤ epoch then s.gen else s.prev

/-- Entry `j` of table slot `q` as walker `w` reads it: from its entry buffer when that holds it under the same GEN, else from
the table (R68). -/
def Chip.walkEntry (c : Chip) (w q epoch j : Nat) : Option (BitVec 32) :=
  let s := c.kvSlot q
  match smGet none c.kv.bufs w with
  | some b =>
    if b.slot = q ∧ b.gen = s.seenGen epoch ∧ b.first ≤ j ∧ j < b.first + b.entries.length then b.entries[j - b.first]?
    else (s.seen epoch)[j]?
  | none => (s.seen epoch)[j]?

/-- The walker has read entries up to `j`: its buffer holds the 64 read ahead from there (R68).
(DESIGN CHOICE, log entry 120) -/
def Chip.walkAhead (c : Chip) (w q epoch j : Nat) : Chip :=
  let s := c.kvSlot q
  let first := j / 64 * 64
  c.updKv (fun k => { k with bufs := smSet none k.bufs w (some ⟨q, s.seenGen epoch, first, ((s.seen epoch).drop first).take 64⟩) })

/-- The set that an entry points at, a set in limbo included, which a walker of an older epoch still reads (R273). -/
def Chip.walkSet (c : Chip) (e : BitVec 32) : Option KvSet :=
  (c.kv.sets ++ c.kv.limbo.map (·.1)).find? (fun s => s.ovf = keOvf e ∧ s.base = keBase e)

/-- Entry `j` of a table as a walker uses it, for sets of `layersM1` + 1 pages (R266, R269). -/
def Chip.kvUse (c : Chip) (w q epoch j layersM1 : Nat) : KvUse :=
  match c.walkEntry w q epoch j with
  | none => if (c.kvSlot q).starved then .starved else .fault
  | some e =>
    let size := if keOvf e then c.get F.KV_OVF_OVF_PAGES else c.get F.KV_POOL_CFG_PAGES
    if !keValid e ∨ keBase e + layersM1 ≥ size then .fault
    else match c.walkSet e with | some k => .page k | none => .fault

/-- Bytes of an element of a key-value format. -/
def kvBytes (f : Fmt) : Nat := fmtBits f / 8

/-- Offset of an element within a KV page (R262). -/
def kvOff (f : Fmt) (hkv d head tok dim : Nat) (value : Bool) : Nat :=
  let e := kvBytes f
  ((head * 16 + tok) * d + dim) * e + (if value then 16 * hkv * d * e else 0)

/-- Codes of one head's key or value row of a token. -/
def Chip.kvRow (c : Chip) (k : KvSet) (layer : Nat) (f : Fmt) (hkv d head tok : Nat) (value : Bool) : List Nat :=
  (List.range d).map (fun dim =>
    leNat (c.mem.readAt (c.kvPlace k.ovf (k.base + layer) (kvOff f hkv d head tok dim value)) (kvBytes f)))

/-- Writes a key and a value row (R259, R262). -/
def Chip.kvPut (c : Chip) (k : KvSet) (layer : Nat) (f : Fmt) (hkv d head tok : Nat) (value : Bool) (codes : List Nat) :
    Chip :=
  (codes.take d).zipIdx.foldl (fun c e =>
    c.updMem (fun m => m.writeAt (c.kvPlace k.ovf (k.base + layer) (kvOff f hkv d head tok e.2 value))
      (leBytes (kvBytes f) e.1))) c

/-- A token of a KV page as a query row sees it: none when masked (R283), else its score and its value row. -/
abbrev KvTok := Option (FV × List FV)

/-- State of the online softmax over the pages so far: m, l, o, saturations. -/
structure Soft where
  m : FV
  l : FV
  o : List FV
  sat : Nat
  deriving Repr

/-- One KV page of Table 9-5. -/
def softPage (pf : Fmt) (st : Soft) (toks : List KvTok) : Soft :=
  let live := toks.filterMap id
  if live = [] then st
  else
    let m2 := live.foldl (fun m t => FV.max m t.1) st.m
    let al := if st.m = .inf true then (FV.num 0, 0) else exp2 (r32 (st.m.sub m2))
    let ws := live.map (fun t => (fpOf pf (narTo pf ((exp2 (r32 (t.1.sub m2))).1.mul (.num 256))).1, t.2))
    let lsum := r32c (ws.foldl (fun s w => s.add w.1) (.num 0))
    let l := r32c ((st.l.mul al.1).add lsum.1)
    let o := st.o.mapIdx (fun d x =>
      let a := accStep (.num 0) (ws.map (fun w => w.1.mul (w.2.getD d (.num 0))))
      r32c ((x.mul al.1).add a))
    { m := m2, l := l.1, o := o.map (·.1)
      sat := st.sat + al.2 + lsum.2 + l.2 + o.foldl (fun s x => s + x.2) 0 }

/-- A query row over its pages (R284 to R287): output codes, saturations, masked row, NaN row. -/
def softRow (pf out : Fmt) (sv : FV) (d : Nat) (pages : List (List KvTok)) : List Nat × Nat × Bool × Bool :=
  let st := pages.foldl (softPage pf) ⟨.inf true, .num 0, List.replicate d (.num 0), 0⟩
  let nan := pages.any (fun p => p.any (fun t => match t with | some (.nan, _) => true | _ => false))
  if nan then (List.replicate d (narTo out .nan).1, st.sat, false, true)
  else if st.l = .num 0 then (List.replicate d 0, st.sat, pages.all (fun p => p.all (·.isNone)), false)
  else
    let r := st.o.map (fun o => narTo out ((o.mul sv).div st.l))
    (r.map (·.1), st.sat + (r.filter (·.2)).length, false, false)

/-- Head dimension of its descriptor code (Table 9-1). -/
def headDim : Nat → Nat
  | 0 => 32
  | 1 => 64
  | 2 => 128
  | _ => 0

/-- How an attention step ends: the rows' output codes in order, the saturations counted, and which rows were fully masked
and which NaN. -/
inductive AttnRes where
  | out (codes : List Nat) (sat : Nat) (masked nan : List Bool)
  | use (u : KvUse)
  | maskFault
  | cellError
  deriving Repr

/-- Whether keys and values may have a format (Table 9-1). -/
def kvFmtOk (f : Fmt) : Bool := decide (f = .e4m3 ∨ f = .e5m2 ∨ f = .fp16 ∨ f = .bf16)

/-- Whether a query row's key at a position is masked (R283). -/
def keyMasked (w : AttnWork) (mask : List Byte) (r : AttnRow) (i : Nat) : Bool :=
  decide (i ≥ r.n) || (w.causal && decide (i > r.pos)) || (w.maskOn && !bitOf ((mask.getD (i / 8) 0).toNat) (i % 8))

/-- One query row over the page sets of its table (R259, R282, R284). -/
def Chip.attendRow (c : Chip) (w : AttnWork) (mask : List Byte) (sets : List KvSet) (r : AttnRow) :
    List Nat × Nat × Bool × Bool :=
  let d := headDim w.dim.val
  let h := r.head / Nat.max 1 w.grp
  let q := (r.query.take d).map (fun e => fpOf w.kvfmt (narTo w.kvfmt ((f32 e).mul (f32 w.rq))).1)
  let pages := (sets.take (ceilDiv r.n 16)).mapIdx (fun j k => (List.range 16).map (fun t =>
    if keyMasked w mask r (16 * j + t) then (none : KvTok)
    else
      let key := (c.kvRow k w.layer w.kvfmt w.hkv d h t false).map (fpOf w.kvfmt)
      let val := (c.kvRow k w.layer w.kvfmt w.hkv d h t true).map (fpOf w.kvfmt)
      some (r32 ((accChain 24 (.num 0) ((q.zip key).map (fun e => e.1.mul e.2))).mul (f32 w.f)), val)))
  softRow (if w.kvfmt = .e4m3 ∨ w.kvfmt = .e5m2 then Fmt.e4m3 else w.kvfmt) w.outFmt (f32 w.sv) d pages

/-- Page-table entries that the rows of an attention step need. -/
def attnPages (w : AttnWork) : Nat := ceilDiv (maxNat (w.rows.map (·.n))) 16

/-- The shared handle of the region mask. -/
def maskRef (w : AttnWork) : HRef := ⟨.shared, w.maskHnd, 0⟩

/-- The granules that an attention step reads: the mask's, and each KV page once (R281, R283). -/
def Chip.attnGrans (c : Chip) (w : AttnWork) (sets : List KvSet) : List Gran :=
  (if w.maskOn then (List.range 8).map (fun k => c.granOf (maskRef w) (64 * k)) else []) ++
    sets.flatMap (fun k => (List.range (ceilDiv (32 * w.hkv * headDim w.dim.val * kvBytes w.kvfmt) 64)).map (fun g =>
      (c.kvPlace k.ovf (k.base + w.layer) (64 * g)).gran))

/-- The page sets that an attention step of walker `x` uses, or the first use that fails (R269). -/
def Chip.attnSets (c : Chip) (x : Nat) (w : AttnWork) (epoch : Nat) : List KvSet × Option KvUse :=
  (List.range (attnPages w)).foldl (fun (a : List KvSet × Option KvUse) j =>
    match a.2, c.kvUse x w.seq epoch j w.layersM1.val with
    | some u, _ => (a.1, some u)
    | none, .page k => (a.1 ++ [k], none)
    | none, u => (a.1, some u)) ([], none)

/-- An attention step's rows (R258, R281 to R287). -/
def Chip.attend (c : Chip) (who : Issuer) (x : Nat) (w : AttnWork) (epoch : Nat) : AttnRes :=
  if !kvFmtOk w.kvfmt || !fmtOk w.outFmt then .cellError
  else if w.maskOn ∧ (c.checkHandle who (maskRef w) false 512).isSome then .maskFault
  else
    let mask := if w.maskOn then c.readHandle (maskRef w) 512 else []
    match c.attnSets x w epoch with
    | (_, some u) => .use u
    | (sets, none) =>
      let rs := w.rows.map (c.attendRow w mask sets)
      .out (rs.flatMap (·.1)) ((rs.map (·.2.1)).foldl (· + ·) 0) (rs.map (·.2.2.1)) (rs.map (·.2.2.2))

/-- A projection's A and B within the flat codes of a copy, and its shape. -/
def projAt (rank : Nat) : List Projection → Nat → Nat → Option (Nat × Projection)
  | [], _, _ => none
  | p :: _, 0, off => some (off, p)
  | p :: r, k + 1, off => projAt rank r k (off + rank * p.inDim + p.outDim * rank)

/-- The codes of a set's copies that an item holds: none without a held copy (R322, R338). -/
def Chip.heldCopy (c : Chip) (n set : Nat) : Option (List Nat) :=
  ((c.item n).bind (fun i => i.copies.find? (fun e => e.1 = set))).map (fun e =>
    let a := smGet AdSet.cold c.adapt.sets set
    if e.2 = 0 then a.copy0 else a.copy1)

/-- An adapted projection (R320); without a held copy B is zero. -/
def Chip.adapterProj (c : Chip) (n set proj : Nat) (x base : Tensor) : Option QOut :=
  match c.image.adapt[set]? with
  | none => none
  | some cfg =>
    let rank := c.get F.ADAPT_SET_RANK set
    match projAt rank cfg.projs proj 0 with
    | none => none
    | some (off, p) =>
      let codes := (c.heldCopy n set).getD []
      let a := fun (i k : Nat) => fpOf .bf16 (if codes = [] then p.a.getD (i * p.inDim + k) 0
        else codes.getD (off + i * p.inDim + k) 0)
      let b := fun (j i : Nat) => fpOf .bf16 (codes.getD (off + rank * p.inDim + j * rank + i) 0)
      let xs := x.data.map (fun e => fpOf .bf16 (narTo .bf16 (elemVal x e)).1)
      let t := (List.range rank).map (fun i =>
        fpOf .bf16 (narTo .bf16 (accChain 24 (.num 0) (xs.mapIdx (fun k v => (a i k).mul v)))).1)
      some (collect base.fmt (base.data.mapIdx (fun j y =>
        let dj := accChain 24 (.num 0) (t.mapIdx (fun i v => (b j i).mul v))
        vecTo base.fmt base.zp ((elemVal base y).add ((f32 cfg.scale).mul dj)))))

end Sys2Proof.Machine
end

