-- ==== Sys2Proof/Machine/Adapt.lean ====
section
/-!
DEFINITION. Chapter 11, in-service adaptation: corrections, updates, the publication gate, publication, disabling.
-/

namespace Sys2Proof.Machine

/-- A set in service. -/
def Chip.adSet (c : Chip) (s : Nat) : AdSet := smGet AdSet.cold c.adapt.sets s

/-- Updates a set in service. -/
def Chip.modSet (c : Chip) (s : Nat) (f : AdSet → AdSet) : Chip :=
  c.updAdapt (fun a => { a with sets := smMod AdSet.cold a.sets s f })

/-- Examples that occupy entries of the queue: those waiting and those of a running update (R330, R332). -/
def AdSet.held (a : AdSet) : Nat := a.queue.length + (a.running.getD []).length

/-- Entries of the example queue in use over all sets. -/
def Chip.queued (c : Chip) : Nat := (c.adapt.sets.map (fun e => e.2.held)).foldl (· + ·) 0

/-- Shows QUEUED and HOLDOUT. -/
def Chip.showAdapt (c : Chip) : Chip :=
  let c := c.put F.ADAPT_STAT_QUEUED (Nat.min c.queued 4095)
  (List.range 8).foldl (fun c s => c.put F.ADAPT_SCORE_HOLDOUT (c.adSet s).holdout.length s) c

/-! ## Corrections -/

/-- Value of a hexadecimal digit. -/
def hexVal (b : Byte) : Option Nat :=
  let v := b.toNat
  if 0x30 ≤ v ∧ v ≤ 0x39 then some (v - 0x30)
  else if 0x41 ≤ v ∧ v ≤ 0x46 then some (v - 0x37)
  else if 0x61 ≤ v ∧ v ≤ 0x66 then some (v - 0x57)
  else none

/-- Four hexadecimal digits. -/
def hex4 (l : List Byte) : Option Nat :=
  match (l.take 4).mapM hexVal with
  | some [a, b, x, d] => some (((a * 16 + b) * 16 + x) * 16 + d)
  | _ => none

/-- UTF-8 bytes of a code point. -/
def utf8Of (p : Nat) : List Byte :=
  let t := fun (k : Nat) => BitVec.ofNat 8 (0x80 + (p / 64 ^ k) % 64)
  if p < 0x80 then [BitVec.ofNat 8 p]
  else if p < 0x800 then [BitVec.ofNat 8 (0xC0 + p / 64), t 0]
  else if p < 0x10000 then [BitVec.ofNat 8 (0xE0 + p / 4096), t 1, t 0]
  else [BitVec.ofNat 8 (0xF0 + p / 262144), t 2, t 1, t 0]

/-- Un-escapes JSON string content up to its closing quote: the text and what follows the quote. -/
def jsonBody : Nat → List Byte → List Byte → Option (List Byte × List Byte)
  | 0, _, _ => none
  | _, _, [] => none
  | fuel + 1, acc, b :: r =>
    let v := b.toNat
    if v = 0x22 then some (acc, r)
    else if v < 0x20 then none
    else if v ≠ 0x5C then jsonBody fuel (acc ++ [b]) r
    else
      match r with
      | [] => none
      | e :: r =>
        let one := fun (x : Nat) => jsonBody fuel (acc ++ [BitVec.ofNat 8 x]) r
        match e.toNat with
        | 0x22 => one 0x22
        | 0x5C => one 0x5C
        | 0x2F => one 0x2F
        | 0x62 => one 8
        | 0x66 => one 12
        | 0x6E => one 10
        | 0x72 => one 13
        | 0x74 => one 9
        | 0x75 =>
          (match hex4 r with
           | none => none
           | some h =>
             if 0xDC00 ≤ h ∧ h ≤ 0xDFFF then none
             else if 0xD800 ≤ h ∧ h ≤ 0xDBFF then
               (match (r.drop 4).take 2, hex4 (r.drop 6) with
                | [p, q], some l =>
                  if p = 0x5C ∧ q = 0x75 ∧ 0xDC00 ≤ l ∧ l ≤ 0xDFFF then
                    jsonBody fuel (acc ++ utf8Of (0x10000 + (h - 0xD800) * 1024 + (l - 0xDC00))) (r.drop 10)
                  else none
                | _, _ => none)
             else jsonBody fuel (acc ++ utf8Of h) (r.drop 4))
        | _ => none

/-- JSON white space. -/
def jsonWs (b : Byte) : Bool := b = 0x20 || b = 9 || b = 10 || b = 13

/-- The text of a JSON string (R326). -/
def jsonText (l : List Byte) : Option (List Byte) :=
  match l.dropWhile jsonWs with
  | [] => none
  | b :: r =>
    if b ≠ 0x22 then none
    else
      match jsonBody (r.length + 1) [] r with
      | some (t, rest) => if rest.all jsonWs then some t else none
      | none => none

/-- Walks tokens through the grammar: each class allowed and with an edge (R326, R308). -/
def Chip.walk (c : Chip) (d : Nat) : Nat → List Nat → Option Nat
  | q, [] => some q
  | q, t :: r =>
    let cls := c.tokClass d t
    if c.allows q cls then (match c.edge q cls with | some q' => c.walk d q' r | none => none) else none

/-- The tokens of a corrected value that passes the grammar check (R326). -/
def Chip.grammarCheck (c : Chip) (f : FDesc) (value : List Byte) : Option (List Nat) :=
  match (if f.text then jsonText value else some value) with
  | none => none
  | some t =>
    let ts := c.tokenise f.dict t
    match c.walk f.dict f.start ts with
    | none => none
    | some q => if c.allows q 0 ∧ ts.length + 1 ≤ f.maxtok then some ts else none

/-- Longest match of the symbol table at the front of a text: symbol and its length. -/
def symbolAt (syms : List (List Byte)) (l : List Byte) : Option (Nat × Nat) :=
  syms.zipIdx.foldl (fun best e =>
    if e.1 ≠ [] ∧ startsWith e.1 l then
      (match best with
       | some (_, n) => if e.1.length > n then some (e.2, e.1.length) else best
       | none => some (e.2, e.1.length))
    else best) none

/-- The symbols of a line text (R326); none when a character has no match. -/
def symbolsOf (syms : List (List Byte)) : Nat → List Byte → Option (List Nat)
  | _, [] => some []
  | 0, _ => none
  | fuel + 1, l =>
    match symbolAt syms l with
    | none => none
    | some (k, n) => (symbolsOf syms fuel (l.drop n)).map (k :: ·)

/-- The set of a kind that serves an origin: structuring for fields, recognition for lines (R319, R325). -/
def Chip.setOf (c : Chip) (o : Nat) (line : Bool) : Option Nat :=
  (c.setsOf o).find? (fun s => c.flag F.ADAPT_SET_MODEL s = !line)

/-- A sample of the ring by item number. -/
def Chip.sample (c : Chip) (n : Nat) : Option Sample := c.adapt.samples.find? (fun s => s.item = n)

/-- Whether some set of the correction's kind serves the item's origin, as far as the origin is known: from the
sample, else from the item itself, else any set of the kind. (DEDUCED, log entry 85) -/
def Chip.kindServed (c : Chip) (w : CorrIn) : Bool :=
  let known := match c.sample w.item with
    | some s => some s.origin
    | none => (c.item w.item).map (·.origin)
  match known with
  | some o => (c.setOf o w.line).isSome
  | none => (List.range 8).any (fun s => c.flag F.ADAPT_SET_VALID s && decide (c.flag F.ADAPT_SET_MODEL s = !w.line))

/-- The example of a correction, or the code of the check that fails (Table 11-2, R325 to R327): the set and the
example. (DEDUCED, log entry 85) -/
def Chip.corrCheck (c : Chip) (w : CorrIn) : Nat × Option (Nat × Example) :=
  if c.get F.ADAPT_CTRL_STATE ≠ 3 then (1, none)
  else if !c.kindServed w then (2, none)
  else
    match c.sample w.item with
    | none => (3, none)
    | some s =>
      if w.index ≥ (if w.line then s.gone + s.lines.length else s.fields) then (4, none)
      else if s.done.contains (w.line, w.index) then (5, none)
      else
        match c.setOf s.origin w.line with
        | none => (2, none)
        | some set =>
          let mk' := fun (ctx target : List Nat) (image : List Byte) =>
            if ctx.length + target.length > 4096 then ((8, none) : Nat × Option (Nat × Example))
            else if c.queued ≥ actsAs (c.get F.ADAPT_CFG_QUEUE) 1 then (9, none)
            else (0, some (set, ⟨w.item, w.line, w.index, ctx, target, image, c.upNs, 0⟩))
          if w.line then
            if w.index < s.gone then (3, none)
            else
              match symbolsOf c.image.symbols w.value.length w.value with
              | none => (7, none)
              | some l => mk' [] (l ++ [c.image.symbols.length]) ((s.lines[w.index - s.gone]?).getD [])
          else
            match ((c.schemaOf s.origin).bind (fun x => x.fields[w.index]?)).map fdesc with
            | none => (4, none)
            | some f =>
              match c.grammarCheck f w.value with
              | none => (6, none)
              | some ts => mk' (s.tokens.take (s.starts.getD w.index s.tokens.length)) (ts ++ [c.endToken f.dict]) []

/-- An accepted example enters the queue, or the hold-out list (R328). -/
def Chip.addExample (c : Chip) (set : Nat) (e : Example) : Chip :=
  let hold := c.get F.ADAPT_CTRL_HOLD
  let n := (c.adSet set).accepted + 1
  let c := c.modSet set (fun a =>
    if hold ≠ 0 ∧ n % hold = 0 then
      { a with accepted := n, holdout := a.holdout.drop (a.holdout.length - 63) ++ [e] }
    else { a with accepted := n, queue := a.queue ++ [e] })
  c.updAdapt (fun a => { a with samples := a.samples.map (fun s =>
    if s.item = e.item then { s with done := s.done ++ [(e.line, e.index)] } else s) })

/-- CORRECTION: checked, counted and answered with a CORR_RESULT (R325, R487). -/
def Chip.correction (c : Chip) (s : Nat) (w : CorrIn) : Chip :=
  if !(c.sess s).open_ || !bitOf (c.sess s).roles 1 then c
  else
    let c := c.modSess s (fun x => { x with corrs := x.corrs.erase w })
    let r := c.corrCheck w
    let c := match r.2 with
      | some (set, e) => ((c.addExample set e).bump F.ADAPT_CNT0_ACCEPTED).showAdapt
      | none => c.bump F.ADAPT_CNT0_REFUSED
    c.formLoose s 7 (recordMap [(0, .uint 7), (1, .uint w.item), (40, .uint (b2n w.line)), (41, .uint w.index),
      (43, .uint r.1)]).enc

/-! ## Updates -/

/-- An update is due: BATCH examples are queued, or the oldest has waited FLUSH_S seconds (R330). -/
def Chip.updateDue (c : Chip) (a : AdSet) : Bool :=
  decide (a.queue.length ≥ c.get F.ADAPT_CTRL_BATCH + 1) ||
    (match a.queue with
     | [] => false
     | e :: _ => decide (c.upNs ≥ e.at_ + actsAs (c.get F.ADAPT_CTRL_FLUSH_S) 1 * 1000000000))

/-- ADAPT_UPDATE_START (R330): its steps run in partition ADAPT_CTRL.PART, while that is ENABLED (R329, R350). -/
def Chip.updateStart (c : Chip) (set : Nat) : Chip :=
  let a := c.adSet set
  if c.get F.ADAPT_CTRL_STATE ≠ 3 ∨ c.get F.PART_CFG_STATE (c.get F.ADAPT_CTRL_PART) ≠ 3 ∨ a.running.isSome ∨ !c.updateDue a then c
  else
    let n := c.get F.ADAPT_CTRL_BATCH + 1
    c.modSet set (fun a => { a with running := some (a.queue.take n), cancel := false, queue := a.queue.drop n })

/-- One addition into the stored batch gradient (R331 step 1, R229). -/
def gradAdd (b : GradBlk) (g : List FV) : GradBlk :=
  gradStore (((gradDec b).zip g).map (fun e => r32 (e.1.add e.2)))

/-- The batch gradient of an update: a stored zero, then each example's gradient in order. (DEDUCED, log entry 84) -/
def batchGrad (elems : Nat) (grads : List (List Nat)) : List GradBlk :=
  let zero := (chunksOf 32 (elems + 1) (List.replicate elems (FV.num 0))).map gradStore
  grads.foldl (fun bs g => (bs.zip (chunksOf 32 (elems + 1) ((g ++ List.replicate elems 0).take elems))).map
    (fun e => gradAdd e.1 (e.2.map f32))) zero

/-- The squared norm, rounded at each addition (R331 step 2). -/
def sqNorm (g : List FV) : FV := g.foldl (fun s x => r32 (s.add (x.mul x))) (.num 0)

/-- K of R331: the bias correction of a factor at update count `u`. (DESIGN CHOICE, log entry 21) -/
def biasFix (b u : Nat) : FV :=
  let d := 1 - (f32 b).rat ^ u
  if d = 0 then f32 (Config.unitBias u) else q32 (1 / d)

/-- Greater than. -/
def FV.gt (a b : FV) : Bool := FV.lt b a

/-- One element of step 4: the new m, v and w, the last with one rounding (R231). -/
def adamElem (cfg : AdaptCfg) (k1 k2 gs : FV) (g m v w : FV) : FV × FV × Nat :=
  let b1 := f32 cfg.b1
  let b2 := f32 cfg.b2
  let g := r32 (g.mul gs)
  let m := r32 ((b1.mul m).add (r32 ((r32 ((FV.num 1).sub b1)).mul g)))
  let v := r32 ((b2.mul v).add (r32 ((r32 ((FV.num 1).sub b2)).mul (r32 (g.mul g)))))
  let mh := r32 (m.mul k1)
  let vh := r32 (v.mul k2)
  let den := if vh.isZero then f32 cfg.eps else r32 ((r32 (vh.mul (rsqrt vh).1)).add (f32 cfg.eps))
  let step := r32 (mh.mul (recip den).1)
  (m, v, (narTo .bf16 (w.sub ((f32 cfg.lr).mul step))).1)

/-- The new training state and batch gradient of an update (R331); none when n2 is infinite or NaN.
(DEDUCED, log entry 86) -/
def applyUpdate (cfg : AdaptCfg) (t : Train) (u : Nat) (grads : List (List Nat)) : Option (Train × List GradBlk) :=
  let elems := t.w.length
  let batch := batchGrad elems grads
  let g := batch.flatMap gradDec
  let n2 := sqNorm g
  if !n2.fin then none
  else
    let clip := f32 cfg.clip
    let gs := if FV.gt n2 (clip.mul clip) then r32 (clip.mul (rsqrt n2).1) else .num 1
    let k1 := biasFix cfg.b1 u
    let k2 := biasFix cfg.b2 u
    let ms := momDec false t.m
    let vs := momDec true t.v
    let r := (List.range elems).map (fun i =>
      adamElem cfg k1 k2 gs (g.getD i (.num 0)) (ms.getD i (.num 0)) (vs.getD i (.num 0)) (fpOf .bf16 (t.w.getD i 0)))
    some (⟨r.map (·.2.2), momStore false (r.map (·.1)), momStore true (r.map (·.2.1))⟩, batch)

/-- A training state that starts from the elements of a copy: its moments are zero. -/
def Train.start (w : List Nat) : Train :=
  let z := w.map (fun _ => FV.num 0)
  ⟨w, momStore false z, momStore true z⟩

/-- Hold-out examples reproduced, of those in the list. -/
def scoreOf (hits : List Bool) (n : Nat) : Nat := ((hits.take n).filter id).length

/-- The publication gate (R333). -/
def Chip.gate (c : Chip) (set : Nat) (w : UpdateIn) : Chip :=
  let a := c.adSet set
  let n := a.holdout.length
  let cs := scoreOf w.candHits n
  let ps := scoreOf w.pubHits n
  let c := (c.put F.ADAPT_SCORE_CAND_SCORE cs set).put F.ADAPT_SCORE_PUB_SCORE ps set
  if n = 0 ∨ cs + c.get F.ADAPT_CFG_PUB_TOL ≥ ps then
    c.modSet set (fun a => { a with cand := some a.train.w, waited := false })
  else c.bump F.ADAPT_CNT0_PUB_REJ

/-- An update is abandoned: its examples stay queued, those abandoned twice are discarded (R332). -/
def Chip.abandonUpdate (c : Chip) (set : Nat) (l : List Example) : Chip :=
  let l := l.map (fun e => { e with tries := e.tries + 1 })
  let keep := l.filter (fun e => e.tries < 2)
  let c := c.modSet set (fun a => { a with running := none, queue := keep ++ a.queue })
  (c.bump F.ADAPT_CNT1_STEP_FAIL).bump F.ADAPT_CNT1_DISCARD 0 0 (l.length - keep.length)

/-- A step of a set's training is running. -/
def Chip.trainRuns (c : Chip) (set : Nat) : Bool :=
  c.sched.running.any (fun e => (e.2.map (fun r => decide (r.desc.train.map (·.val) = some set))).getD false)

/-- An update of a set is under way: one to be cancelled is over with its running step (R337). -/
def Chip.updating (c : Chip) (set : Nat) : Bool :=
  (c.adSet set).running.isSome && (!(c.adSet set).cancel || c.trainRuns set)

/-- The key-value sets of a set's training are released (R280, R337). -/
def Chip.trainRelease (c : Chip) (set : Fin 8) : Chip :=
  if (c.adSet set.val).kvSlot.isSome then c.kvTableEdit (.trainEnd set) else c

/-- An update of a set runs and has not been cancelled. -/
def Chip.updateLive (c : Chip) (set : Nat) : Bool := (c.adSet set).running.isSome && !(c.adSet set).cancel

/-- What the end of an update brings (R331 to R333). -/
def Chip.updateOver (c : Chip) (w : UpdateIn) : Chip :=
  let set := w.set.val
  let a := c.adSet set
  match a.running, c.image.adapt[set]? with
  | some l, some cfg =>
    if w.failed then (c.abandonUpdate set l).showAdapt
    else
      match applyUpdate cfg a.train (a.updates + 1) (w.grads.take l.length) with
      | none =>
        ((c.modSet set (fun a => { a with running := none })).bump F.ADAPT_CNT1_DISCARD 0 0 l.length).showAdapt
      | some (t, batch) =>
        let due := decide (a.sinceGate + 1 ≥ actsAs (c.get F.ADAPT_CTRL_PUB_EVERY) 1)
        let c := c.modSet set (fun a => { a with
          running := none, prev := a.train, train := t, batch := batch, updates := a.updates + 1
          sinceGate := if due then 0 else a.sinceGate + 1 })
        let c := c.wrap F.ADAPT_UPD_UPDATES set
        (if due then c.gate set w else c).showAdapt
  | _, _ => c

/-- ADAPT_UPDATE_END (R331 to R333); of an update that is cancelled it has no effect (R337). -/
def Chip.updateEnd (c : Chip) (w : UpdateIn) : Chip :=
  if c.updateLive w.set.val then (c.trainRelease w.set).updateOver w else c

/-! ## Publication -/

/-- No item and no adapter commit holds a copy (R323). -/
def Chip.copyFree (c : Chip) (set x : Nat) : Bool :=
  !(c.items.list.any (fun i => i.copies.contains (set, x))) && !c.adapt.commit.contains (set, x)

/-- ADAPT_PUBLISH: the candidate is written into the copy that is not published, once nothing holds it; CUR flips at
the next course boundary (R323). -/
def Chip.publish (c : Chip) (set : Nat) : Chip :=
  let a := c.adSet set
  match a.cand with
  | none => c
  | some w =>
    let x := 1 - c.get F.ADAPT_SET_CUR set
    if a.flip then c
    else if c.copyFree set x then
      c.modSet set (fun a =>
        let a := { a with cand := none, waited := false, flip := true }
        if x = 0 then { a with copy0 := w } else { a with copy1 := w })
    else if a.waited then c
    else (c.modSet set (fun a => { a with waited := true })).bump F.ADAPT_CNT1_PUB_WAIT

/-- What a course boundary does: CUR flips (R323), INFER_OFF is taken (R338). -/
def Chip.adaptCourse (c : Chip) : Chip :=
  let c := (List.range 8).foldl (fun c s =>
    if (c.adSet s).flip then
      let c := c.put F.ADAPT_SET_CUR (1 - c.get F.ADAPT_SET_CUR s) s
      (c.wrap F.ADAPT_SET_VERSION s).modSet s (fun a => { a with flip := false })
    else c) c
  c.updAdapt (fun a => { a with inferOff := c.flag F.ADAPT_CTRL_INFER_OFF })

/-- Initial values of a set: A from the image, B zero (R320). -/
def initialCopy (rank : Nat) (cfg : AdaptCfg) : List Nat :=
  cfg.projs.flatMap (fun p => p.a ++ List.replicate (p.outDim * rank) 0)

/-- A set at boot with the values of its copy 0 (R336). -/
def AdSet.start (w : List Nat) : AdSet :=
  { AdSet.cold with copy0 := w, copy1 := w, train := Train.start w, prev := Train.start w }

/-- Empty queue, hold-out lists, rings and batch gradients, and no key-value set of training; training buffers stay
(R337). -/
def Chip.adaptRelease (c : Chip) : Chip :=
  let c := ((List.range 8).map (Fin.ofNat 8)).foldl Chip.trainRelease c
  (c.updAdapt (fun a => { a with
    samples := [], nextSlot := 0
    sets := a.sets.filterMap (fun e =>
      let s := { e.2 with queue := [], holdout := [], batch := [], running := none, cancel := false }
      if s = AdSet.cold then none else some (e.1, s)) })).showAdapt

/-- Training restarts from the published copy when a DDR4 channel is lost (Table 13-3). -/
def Chip.adaptLost (c : Chip) : Chip :=
  let c := c.adaptRelease
  (List.range 8).foldl (fun c s =>
    if c.flag F.ADAPT_SET_VALID s then
      c.modSet s (fun a => { a with
        train := Train.start (if c.get F.ADAPT_SET_CUR s = 0 then a.copy0 else a.copy1)
        prev := Train.start (if c.get F.ADAPT_SET_CUR s = 0 then a.copy0 else a.copy1), updates := 0, sinceGate := 0 })
    else c) c

end Sys2Proof.Machine
end

