-- ==== Sys2Proof/Machine/Conv.lean ====
section
/-!
DEFINITION. Chapter 8: sliding-window operators, pooling and resampling (R232 to R257).
-/

namespace Sys2Proof.Machine

/-- Output size of one dimension (R234). -/
def outSize (i k s d pb pe : Nat) : Nat :=
  if i + pb + pe < d * (k - 1) + 1 then 0 else (i + pb + pe - d * (k - 1) - 1) / s + 1

/-- Mirror padding (R237). -/
def foldCoord (i : Nat) (x : Int) : Nat :=
  if i = 1 then 0
  else
    let p := 2 * ((i : Int) - 1)
    let m := (x % p).toNat
    if m ≥ i then (p - m).toNat else m

/-- Where a tap's coordinate leads: an element, or a pad value (R235, Table 8-1). -/
def tapCoord (mode i : Nat) (x : Int) : Option Nat :=
  if 0 ≤ x ∧ x < i then some x.toNat
  else if mode = 2 then some (clampInt 0 ((i : Int) - 1) x).toNat
  else if mode = 3 then some (foldCoord i x)
  else none

/-- Sizes of a [C, H, W] tensor. -/
def dimsOf (t : Tensor) : Nat × Nat × Nat := (t.shape.getD 0 1, t.shape.getD 1 1, t.shape.getD 2 1)

/-- Code read by a tap; none for an excluded pad tap. -/
def tapCode (t : Tensor) (win : Window) (ch oy ox ky kx : Nat) : Option Nat :=
  let (_, h, w) := dimsOf t
  let y := ((oy * win.sy : Nat) : Int) - win.padT + ((ky * win.dy : Nat) : Int)
  let x := ((ox * win.sx : Nat) : Int) - win.padL + ((kx * win.dx : Nat) : Int)
  match tapCoord win.mode h y, tapCoord win.mode w x with
  | some y, some x => some (t.data.getD ((ch * h + y) * w + x) 0)
  | _, _ =>
    if win.mode = 4 then none
    else if win.mode = 1 then some win.padConst
    else some (zeroCode t.fmt t.zp)

/-- Cuts a kernel dimension into bands of 7 (R244): origin and length of each. -/
def bandsOf (k : Nat) : List (Nat × Nat) :=
  (List.range (ceilDiv k 7)).map (fun i => (7 * i, Nat.min 7 (k - 7 * i)))

/-- The taps of a pass in row-major order. -/
def passTaps (rb cb : Nat × Nat) : List (Nat × Nat) :=
  (List.range rb.2).flatMap (fun j => (List.range cb.2).map (fun i => (rb.1 + j, cb.1 + i)))

/-- The passes of a kernel in row-major order of their origins. -/
def passes (kh kw : Nat) : List (List (Nat × Nat)) :=
  (bandsOf kh).flatMap (fun rb => (bandsOf kw).map (fun cb => passTaps rb cb))

/-- The chunks of one output: products as activation and weight codes, in the order of R233 or R248. -/
def convChunks (t : Tensor) (win : Window) (g : Nat) (windowForm : Bool) (cin chan0 oy ox : Nat) (wts : List Nat) :
    List (List (Nat × Nat)) :=
  let one := fun (tap : Nat × Nat) (ci : Nat) =>
    ((tapCode t win (chan0 + ci) oy ox tap.1 tap.2).getD 0,
      wts.getD ((tap.1 * win.kw + tap.2) * cin + ci) 0)
  (passes win.kh win.kw).flatMap (fun taps =>
    if windowForm then
      (List.range cin).flatMap (fun ci =>
        chunksOf g (taps.length + 1) (taps.map (fun tap => one tap ci)))
    else
      let l := taps.flatMap (fun tap => (List.range cin).map (fun ci => one tap ci))
      chunksOf g (l.length + 1) l)

/-- The output positions of a layer, row by row (R234). -/
def outPos (t : Tensor) (win : Window) : List (Nat × Nat) :=
  let (_, h, w) := dimsOf t
  (List.range (outSize h win.kh win.sy win.dy win.padT win.padB)).flatMap (fun oy =>
    (List.range (outSize w win.kw win.sx win.dx win.padL win.padR)).map (fun ox => (oy, ox)))

/-- A convolution tile: output codes channel by channel, position by position; none is a cell error (R236: reserved modes;
exclude is for pooling). -/
def convRun (w : ConvWork) : Option QOut :=
  if w.win.mode ≥ 4 then none
  else
    match matKind w.inp.fmt w.wFmt with
    | none => none
    | some (g, _) =>
      let cin := (dimsOf w.inp).1 / Nat.max 1 w.groups
      let rs := (List.range w.wts.length).flatMap (fun k =>
        let chan0 := (w.co0 + k) / Nat.max 1 (w.cout / Nat.max 1 w.groups) * cin
        w.pos.map (fun o =>
          (laneAcc w.inp.fmt w.wFmt w.inp.zp (w.zws.getD k 0) (w.biases.getD k 0)
            (convChunks w.inp w.win g w.windowForm cin chan0 o.1 o.2 (w.wts.getD k []))).bind
              (requant (w.entries.getD k 0))))
      (allSome rs).map (fun r => badOnce (collect (entryFmt w.entries) r))

/-- The wide re-run of a convolution tile: the channel form, wide weights and entries, the pad constant as an element of the
input (R224, R233). -/
def wideConv (w : ConvWork) : Option QOut :=
  let f := wideFmt w.quant
  convRun { w with
    inp := wideInput f w.inp, wFmt := f, windowForm := false
    win := { w.win with padConst := (wideInput f { w.inp with data := [w.win.padConst] }).data.headD 0 }
    wts := w.wideWts, zws := w.zws.map (fun _ => 0), biases := w.wideBiases, entries := w.wideEntries }

/-- Pooling (R250, R251). -/
def poolRun (isMax : Bool) (inp : Tensor) (win : Window) (out : Fmt) : Option QOut :=
  if win.mode ≥ 5 || !fmtOk inp.fmt || !fmtOk out then none
  else
    let (c, h, w) := dimsOf inp
    let ho := outSize h win.kh win.sy win.dy win.padT win.padB
    let wo := outSize w win.kw win.sx win.dx win.padL win.padR
    let taps := (List.range win.kh).flatMap (fun j => (List.range win.kw).map (fun i => (j, i)))
    let one := fun (ch oy ox : Nat) =>
      let codes := taps.filterMap (fun t => tapCode inp win ch oy ox t.1 t.2)
      let n := if win.mode = 4 then codes.length else win.kh * win.kw
      match fpLay inp.fmt with
      | some l =>
        let vs := codes.map l.dec
        if isMax then
          (match vs with
           | [] => (0, QCnt.none)
           | v :: r => vecTo out 0 (r.foldl FV.max v))
        else vecTo out 0 (((vs.drop 1).foldl FV.add (vs.headD (.num 0))).div (.num (n : Rat)))
      | none =>
        let zs := codes.map (intOf inp.fmt)
        if isMax then
          (match zs with
           | [] => (0, QCnt.none)
           | v :: r => (codeOf inp.fmt (r.foldl max v), QCnt.none))
        else
          let z := zpOf inp.fmt inp.zp
          let s := zs.foldl (fun a q => a + (q - z)) 0
          let rg := intRange inp.fmt
          (codeOf inp.fmt (clampInt rg.1 rg.2 (rnaDiv s (Nat.max 1 n) + z)), QCnt.none)
    let f := if (fpLay inp.fmt).isSome then out else inp.fmt
    some (collect f ((List.range c).flatMap (fun ch =>
      (List.range ho).flatMap (fun oy => (List.range wo).map (fun ox => one ch oy ox)))))

/-- The boxes of an area reduction of a plane [H, W], each made an element by `mean`: partial boxes at the edges (R252). -/
def areaBoxes {α : Type} (f h w : Nat) (get : Nat → Nat → Nat) (mean : List Nat → α) : List α :=
  (List.range (ceilDiv h f)).flatMap (fun y => (List.range (ceilDiv w f)).map (fun x =>
    mean ((List.range f).flatMap (fun j => (List.range f).filterMap (fun i =>
      if f * y + j < h ∧ f * x + i < w then some (get (f * y + j) (f * x + i)) else none)))))

/-- Area reduction of an 8-bit plane (R252, R185). -/
def areaPlane (f h w : Nat) (get : Nat → Nat → Nat) : List Nat :=
  areaBoxes f h w get (fun box => (rnaDiv ((box.foldl (· + ·) 0 : Nat) : Int) (Nat.max 1 box.length)).toNat)

/-- Four-tap weights of a 16.16 coordinate: index and fraction in 1/256. -/
def coord16 (s : Int) : Int × Nat := (s / 65536, ((s / 256) % 256).toNat)

/-- The four-tap sum of the deskew pseudocode, with a source given by signed coordinates. -/
def fourTap (p : Int → Int → Int) (ix iy : Int) (fx fy : Nat) : Int :=
  p ix iy * (256 - fx) * (256 - fy) + p (ix + 1) iy * fx * (256 - fy)
    + p ix (iy + 1) * (256 - fx) * fy + p (ix + 1) (iy + 1) * fx * fy

/-- Source coordinate of a resize (R253). -/
def resizeAt (wi wo x : Nat) : Int :=
  let sx := rnaDiv ((wi * 65536 : Nat) : Int) (Nat.max 1 wo)
  (x : Int) * sx + (sx - 65536) / 2

/-- Resampling of a [H, W] plane of 8-bit or FP16 elements (R252, R253). -/
def resampleRun (r : Resample) (t : Tensor) : Option QOut :=
  let h := t.shape.getD 0 1
  let w := t.shape.getD 1 1
  let fp := decide (t.fmt = .fp16)
  let at_ := fun (x y : Int) =>
    t.data.getD ((clampInt 0 ((h : Int) - 1) y).toNat * w + (clampInt 0 ((w : Int) - 1) x).toNat) 0
  if !fmtOk t.fmt then none
  else
  match r with
  | .area f =>
    if f < 2 ∨ f > 8 then none
    else if fp then
      some (collect .fp16 (areaBoxes f h w (fun y x => t.data.getD (y * w + x) 0) (fun box =>
        vecRound .fp16 (((box.map (fpOf .fp16)).foldl FV.add .negZero).div (.num (box.length : Rat))))))
    else some ⟨t.fmt, areaPlane f h w (fun y x => t.data.getD (y * w + x) 0), QCnt.none⟩
  | .bilinear wo ho =>
    some (collect t.fmt ((List.range ho).flatMap (fun y => (List.range wo).map (fun x =>
      let (ix, fx) := coord16 (resizeAt w wo x)
      let (iy, fy) := coord16 (resizeAt h ho y)
      if fp then
        let vals := [fpOf .fp16 (at_ ix iy), fpOf .fp16 (at_ (ix + 1) iy), fpOf .fp16 (at_ ix (iy + 1)),
          fpOf .fp16 (at_ (ix + 1) (iy + 1))]
        let wts := [(256 - fx) * (256 - fy), fx * (256 - fy), (256 - fx) * fy, fx * fy]
        let s := (vals.zip wts).foldl (fun (s : Option FV) e =>
          let v := e.1.mul (.num (e.2 : Rat))
          match s with | none => some v | some s => some (s.add v)) none
        vecRound .fp16 ((s.getD (.num 0)).div (.num 65536))
      else
        ((((fourTap (fun u v => ((at_ u v : Nat) : Int)) ix iy fx fy) + 32768) / 65536).toNat, QCnt.none)))))
  | .nearest wo ho =>
    some ⟨t.fmt, (List.range ho).flatMap (fun y => (List.range wo).map (fun x =>
      let (ix, fx) := coord16 (resizeAt w wo x)
      let (iy, fy) := coord16 (resizeAt h ho y)
      at_ (ix + b2n (decide (fx ≥ 128))) (iy + b2n (decide (fy ≥ 128))))), QCnt.none⟩

end Sys2Proof.Machine
end

