-- ==== Sys2Proof/Machine/Conditioning.lean ====
section
/-!
DEFINITION. Chapter 5, the conditioning chain: shading, defective pixels, row alignment, stitching, paper lines, the
skew fit, deskew and the band format.
-/

namespace Sys2Proof.Machine

/-! ## Sines -/

/-- One in the fixed point of the sine series. -/
def fixOne : Int := 2 ^ 96

/-- The angle of `k` half hundredths of a degree in radians, fixed point. -/
def fixAngle (k : Int) : Int :=
  -- π × 2^96
  k * 248902613312231085230521944622 / 36000

/-- Terms of the series of sine and cosine: `t` is the last term, `n` its degree. -/
def trigSum (x2 : Int) : Nat → Nat → Int → Int
  | 0, _, t => t
  | f + 1, n, t => t - trigSum x2 f (n + 2) (t * x2 / fixOne / ((n + 1) * (n + 2)))

/-- Sine of `k` half hundredths of a degree, fixed point. -/
def fixSin (k : Int) : Int := let x := fixAngle k; trigSum (x * x / fixOne) 24 1 x

/-- Cosine, likewise. -/
def fixCos (k : Int) : Int := let x := fixAngle k; trigSum (x * x / fixOne) 24 0 fixOne

/-- A fixed-point value × 65,536, rounded to nearest (R156). -/
def fix16 (v : Int) : Int := rnaDiv (v * 65536) (2 ^ 96)

/-- The largest `k` from 0 to 9,000 with tan((k - ½) × 0.01°) ≤ p ÷ q, by bisection: atan to 0.01° with ties away
from zero (R152). -/
def atanFind (p q : Nat) : Nat → Nat → Nat → Nat
  | 0, lo, _ => lo
  | f + 1, lo, hi =>
    if hi ≤ lo + 1 then lo
    else
      let m := (lo + hi) / 2
      if fixSin (2 * m - 1) * q ≤ (p : Int) * fixCos (2 * m - 1) then atanFind p q f m hi else atanFind p q f lo m

/-- atan(n ÷ d) in 0.01°, `d` > 0. -/
def atanHund (n : Int) (d : Nat) : Int :=
  let k := atanFind n.natAbs d 16 0 9001
  if n < 0 then -(k : Int) else k

/-! ## Shading and defects -/

/-- The gain of a pixel and colour (R136); a defective one has none and is given 0. (DEDUCED, log entry 98) -/
def refGain (target gshift b w : Nat) : Nat :=
  if w ≤ b then 0 else Nat.min 65535 (rnaDiv ((target * 2 ^ gshift : Nat) : Int) (w - b)).toNat

/-- Whether a pixel and colour's gain is clamped (R137). -/
def gainClamps (target gshift b w : Nat) : Bool :=
  decide (b < w) && decide (rnaDiv ((target * 2 ^ gshift : Nat) : Int) (w - b) > 65535)

/-- Shading of one sample (R136). -/
def shade (gshift b g s : Nat) : Nat :=
  if s < b then 0 else Nat.min 255 (rnaDiv (((s - b) * g : Nat) : Int) (2 ^ gshift)).toNat

/-- A segment's descriptors: first sample, interleave, pixels, reversal; X offset, line delay, gap. -/
structure Seg where
  first : Nat
  group : Nat
  pixels : Nat
  rev : Bool
  xOff : Int
  yDelay : Nat
  gap : Nat
  /-- Pixels of the segments before it. -/
  at_ : Nat
  deriving DecidableEq, Repr

/-- The segments of a stream, in descriptor order. -/
def Chip.segs (c : Chip) (n : Nat) : List Seg :=
  ((List.range (c.get F.SNS_CFG_SEG n + 1)).foldl (fun (acc : List Seg × Nat) s =>
    let px := c.get F.SNS_SEG_PIXELS n s
    (acc.1 ++ [⟨c.get F.SNS_SEG_FIRST n s, c.get F.SNS_SEG_GROUP n s + 1, px, c.flag F.SNS_SEG_REV n s,
      signedOf (c.get F.STITCH_X_OFF n s) 12, c.get F.STITCH_Y_DELAY n s, c.get F.STITCH_GAP n s, acc.2⟩],
     acc.2 + px)) ([], 0)).1

/-- Samples per pixel. -/
def Chip.spp (c : Chip) (n : Nat) : Nat := if c.get F.SNS_CFG_COLOUR n = 0 then 1 else 3

/-- Received sample of pixel `i` in output order, colour `col` (chapter 4, "Segments"); in sequential mode the
samples of the sub-lines follow one another. (DEDUCED, log entry 98) -/
def rawIndex (seq : Bool) (samples spp : Nat) (g : Seg) (i col : Nat) : Nat :=
  let r := if g.rev then g.pixels - 1 - i else i
  (if seq then col * samples else 0) + g.first + r * g.group * spp + col

/-- The nearest position below `i`, going down, and from `i` up, that is not defective. -/
def goodBelow (bad : Nat → Bool) : Nat → Option Nat
  | 0 => none
  | i + 1 => if bad i then goodBelow bad i else some i

/-- Replaces defective values by interpolation within the segment (R142). -/
def fillDefects (bad : List Bool) (v : List Nat) : List Nat :=
  if !(bad.any id) then v
  else
    let n := v.length
    let isBad := fun i => bad.getD i false
    (List.range n).map (fun i =>
      if !(isBad i) then nth v i 0
      else
        match goodBelow isBad i, ((List.range n).drop (i + 1)).find? (fun q => !(isBad q)) with
        | some p, some q =>
          (rnaDiv (((nth v p 0) * (q - i) + (nth v q 0) * (i - p) : Nat) : Int) (q - p)).toNat
        | some p, none => nth v p 0
        | none, some q => nth v q 0
        | none, none => nth v i 0)

/-- The shaded pixels of one segment and colour in output order (R136, R138, R142).  `refs` is none when the stream
runs unshaded. (DEDUCED, log entry 98) -/
def segLine (seq : Bool) (samples spp gshift : Nat) (refs : Option RefSet) (g : Seg) (col : Nat) (raw : List Nat) :
    List Nat :=
  let k := fun i => (g.at_ + i) * spp + col
  let v := (List.range g.pixels).map (fun i =>
    let s := nth raw (rawIndex seq samples spp g i col) 0
    match refs with
    | none => shade gshift 0 (2 ^ (gshift - 8)) s
    | some r => shade gshift (nth r.black (k i) 0) (nth r.gain (k i) 0) s)
  match refs with
  | none => v
  | some r => fillDefects ((List.range g.pixels).map (fun i => nth r.defect (k i) false)) v

/-- Sub-pixel offset (R144). -/
def offsetLine (xOff : Int) (v : List Nat) : List Nat :=
  if v = [] then []
  else
    let last : Int := (v.length : Int) - 1
    let pick := fun (j : Int) => nth v (clampInt 0 last j).toNat 0
    (List.range v.length).map (fun i =>
      let t : Int := 256 * (i : Int) + xOff
      let j := t / 256
      let f := (t % 256).toNat
      (rnaDiv ((pick j * (256 - f) + pick (j + 1) * f : Nat) : Int) 256).toNat)

/-- Segment lines joined with their gap pixels (R146). -/
def joinSegs : List (List Nat × Nat) → List Nat
  | [] => []
  | (v, gap) :: rest =>
    let r := joinSegs rest
    let a := v.getLastD 0
    let e := r.headD 0
    v ++ (if rest = [] then [] else
      (List.range gap).map (fun i =>
        (rnaDiv ((a * (gap + 1 - (i + 1)) + e * (i + 1) : Nat) : Int) (gap + 1)).toNat)) ++ r

/-- Lines by which a colour's row is delayed in three-line mode (R122); ROW_ORDER 0b11, to which Table 4-7 gives no order,
acts as blue first. (DESIGN CHOICE, log entry 126) -/
def rowDelay (colour order gap col : Nat) : Nat :=
  if colour ≠ 2 then 0
  else
    let first := Nat.min order 2
    if col = first then 2 * gap
    else
      let rest := [0, 1, 2].filter (fun x => x ≠ first)
      if rest.head? = some col then gap else 0

/-- The output line of the newest received line: one list of pixels per plane (R135, R145).
(DEDUCED, log entry 98) -/
def Chip.outLine (c : Chip) (n : Nat) (refs : Option RefSet) (hist : List (List Nat × Stamp)) : List (List Nat) :=
  let colour := c.get F.SNS_CFG_COLOUR n
  let spp := c.spp n
  let gs := c.get F.SHD_CFG_GSHIFT n
  let bg := c.get F.EDGE_CFG_BG n
  let samples := c.get F.SNS_IF_SAMPLES n
  (List.range spp).map (fun col =>
    let rd := rowDelay colour (c.get F.SNS_CFG_ROW_ORDER n) (c.get F.SNS_CFG_ROW_GAP n) col
    joinSegs ((c.segs n).map (fun g =>
      match hist[g.yDelay + rd]? with
      | some (x :: raw, _) =>
        (offsetLine g.xOff (segLine (colour = 1) samples spp gs refs g col (x :: raw)), g.gap)
      | _ => (List.replicate g.pixels bg, g.gap))))

/-! ## Paper, groups and skew -/

/-- The plane that edge detection reads: green, or the only one. -/
def edgePlane (l : List (List Nat)) : List Nat := if l.length = 3 then nth l 1 [] else l.headD []

/-- Whether a value is paper. -/
def isPaper (bg thr v : Nat) : Bool := (if v < bg then bg - v else v - bg) > thr

/-- Whether a line is a paper line. -/
def paperLine (bg thr pix : Nat) (l : List (List Nat)) : Bool :=
  ((edgePlane l).filter (isPaper bg thr)).length ≥ actsAs pix 1

/-- First and last column of a group, none when it holds no column (R552). -/
def groupCols (w g : Nat) : Option (Nat × Nat) :=
  let a := g * w / 64
  let b := (g + 1) * w / 64
  if a < b then some (a, b - 1) else none

/-- Groups of a line of which at least half the pixels are paper. -/
def paperGroups (bg thr w : Nat) (l : List (List Nat)) : List Bool :=
  let p := edgePlane l
  (List.range 64).map (fun g =>
    match groupCols w g with
    | none => false
    | some (a, b) =>
      2 * (((p.drop a).take (b + 1 - a)).filter (isPaper bg thr)).length ≥ b + 1 - a)

/-- First page lines after one more line. -/
def markGroups (line : Nat) (gs : List (Option Nat)) (hit : List Bool) : List (Option Nat) :=
  gs.zipWith (fun g h => match g with
    | some x => some x
    | none => if h then some line else none) hit

/-- The paper span: lowest and highest group with a first line. -/
def groupSpan (gs : List (Option Nat)) : Option (Nat × Nat) :=
  let l := (List.range 64).filter (fun g => (nth gs g none).isSome)
  match l with
  | [] => none
  | a :: _ => some (a, l.getLastD a)

/-- ⌈W × tan 15°⌉, tan 15° = 2 - √3. -/
def tan15Lines (w : Nat) : Nat := 2 * w - Nat.sqrt (3 * w * w)

/-- A least-squares fit over (twice the centre column, first line): n, Σx, Σy, slope numerator, denominator. -/
structure Fit where
  n : Nat
  sx : Int
  sy : Int
  num : Int
  den : Nat
  deriving DecidableEq, Repr

/-- The fit of step 4 of R152. -/
def fitLine (pts : List (Nat × Nat)) : Fit :=
  let n := pts.length
  let sx := pts.foldl (fun a p => a + (p.1 : Int)) 0
  let sy := pts.foldl (fun a p => a + (p.2 : Int)) 0
  let sxy := pts.foldl (fun a p => a + (p.1 : Int) * p.2) 0
  let sxx := pts.foldl (fun a p => a + (p.1 : Int) * p.1) 0
  ⟨n, sx, sy, n * sxy - sx * sy, (n * sxx - sx * sx).toNat⟩

/-- Whether a point lies more than 8 lines from a fit. -/
def Fit.far (f : Fit) (p : Nat × Nat) : Bool :=
  (((f.n : Int) * p.2 - f.sy) * f.den - f.num * ((f.n : Int) * p.1 - f.sx)).natAbs > 8 * f.n * f.den

/-- The measured θ in 0.01° and xe, none when it is unmeasured (R152, R153, R155). -/
def measureSkew (w : Nat) (gs : List (Option Nat)) : Option (Int × Nat) :=
  match groupSpan gs with
  | none => none
  | some (lo, hi) =>
    let pts := ((List.range 64).filter (fun g => lo + 2 ≤ g ∧ g + 2 ≤ hi)).filterMap (fun g =>
      match nth gs g none, groupCols w g with
      | some l, some (a, b) => some (a + b, l)
      | _, _ => none)
    if pts.length < 16 then none
    else
      let f := fitLine pts
      let pts := pts.filter (fun p => !f.far p)
      if pts.length < 16 then none
      else
        let f := fitLine pts
        let th := if f.den = 0 then 0 else atanHund (2 * f.num) f.den
        let g := if th ≥ 0 then lo else hi
        let xe := match groupCols w g with
          | some (a, b) => (rnaDiv ((a + b : Nat) : Int) 2).toNat
          | none => 0
        some (th, xe)

/-! ## Deskew and bands -/

/-- The θ by which a page is rotated, none when it is not (R153, R154, R156). -/
def appliedSkew (enable : Bool) (skewMin : Nat) (m : Option (Int × Nat)) : Option Int :=
  match m with
  | none => none
  | some (th, _) => if enable ∧ skewMin ≤ th.natAbs ∧ th.natAbs ≤ 1500 then some th else none

/-- ⌈W × |sin θ|⌉. -/
def sinLines (w : Nat) (th : Int) : Nat :=
  if th = 0 then 0 else w * (fixSin (2 * th.natAbs)).toNat / 2 ^ 96 + 1

/-- Last source line that a band needs, before the page's end is known (R157). -/
def bandNeeds (w : Nat) (rot : Option Int) (band : Nat) : Nat :=
  128 * band + 127 + (match rot with | none => 0 | some th => sinLines w th + 1)

/-- One pixel of the bilinear resampler of R156: `src` reads column and page line. -/
def rotPixel (cs sn : Int) (xe bg w l : Nat) (src : Nat → Nat → Nat) (x y : Nat) : Nat :=
  let dx : Int := (x : Int) - xe
  let xs := (xe : Int) * 65536 + dx * cs - (y : Int) * sn
  let ys := dx * sn + (y : Int) * cs
  let ix := xs / 65536
  let fx := ((xs / 256) % 256).toNat
  let iy := ys / 65536
  let fy := ((ys / 256) % 256).toNat
  let p := fun (u v : Int) =>
    if 0 ≤ u ∧ u < (w : Int) ∧ 0 ≤ v ∧ v < (l : Int) then src u.toNat v.toNat else bg
  (p ix iy * (256 - fx) * (256 - fy) + p (ix + 1) iy * fx * (256 - fy)
    + p ix (iy + 1) * (256 - fx) * fy + p (ix + 1) (iy + 1) * fx * fy + 32768) / 65536

/-- Output lines `128 b` on of one plane of a page (R156); `page` holds the source lines of the plane. -/
def bandPlane (th : Int) (xe bg w l band count : Nat) (page : List (List Nat)) : List (List Nat) :=
  if th = 0 then
    (List.range count).map (fun k => nth page (128 * band + k) [])
  else
    let cs := fix16 (fixCos (2 * th))
    let sn := fix16 (fixSin (2 * th))
    (List.range count).map (fun k => (List.range w).map (fun x =>
      rotPixel cs sn xe bg w l (fun u v => nth (nth page v []) u bg) x (128 * band + k)))

/-- What a band descriptor says (Table 5-2). -/
structure BandHead where
  item : Nat
  band : Nat
  lines : Nat
  width : Nat
  pitch : Nat
  planes : Nat
  source : Nat
  origin : Nat
  flags : Nat
  stamp : Stamp
  skew : Int
  xe : Nat
  subst : Nat
  deriving DecidableEq, Repr

/-- The band descriptor's 64 bytes. -/
def BandHead.bytes (h : BandHead) : List Byte :=
  leBytes 4 h.item ++ leBytes 2 h.band ++ leBytes 2 h.lines ++ leBytes 2 h.width ++ leBytes 2 h.pitch ++
    leBytes 1 h.planes ++ leBytes 1 h.source ++ leBytes 1 h.origin ++ leBytes 1 h.flags ++
    leBytes 6 h.stamp.sec ++ leBytes 4 h.stamp.ns ++ leBytes 2 (toField h.skew 16) ++ leBytes 2 h.xe ++
    leBytes 2 h.subst ++ List.replicate 32 0

/-- Bytes of a band buffer (R160). -/
def bandBytes (planes pitch : Nat) : Nat := 64 + planes * 128 * pitch * 64

/-- A band in its buffer: descriptor and planes (R160). -/
def bandImage (h : BandHead) (planes : List (List (List Nat))) : List Byte :=
  h.bytes ++ planes.flatMap (fun p =>
    (List.range 128).flatMap (fun y =>
      let l := (nth p y []).take h.width
      let d := l.map (fun v => (BitVec.ofNat 8 v : Byte))
      d ++ List.replicate (h.pitch * 64 - d.length) 0))

/-- FLAGS of a band descriptor from an item's flags. -/
def bandFlags (last : Bool) (flags : Nat) : Nat := b2n last + 2 * (flags % 128)

/-! ## Reference capture -/

/-- Average of one sample over the captured lines (R140). -/
def refMean (n : Nat) (lines : List (List Nat)) (k : Nat) : Nat :=
  (rnaDiv ((lines.foldl (fun a l => a + nth l k 0) 0 : Nat) : Int) n).toNat

/-- The new set of a capture, in output order (R140, R142). -/
def Chip.deriveRefs (c : Chip) (n refLines : Nat) (w : CaptureIn) : RefSet :=
  let spp := c.spp n
  let seq := decide (c.get F.SNS_CFG_COLOUR n = 1)
  let samples := c.get F.SNS_IF_SAMPLES n
  let bw := (c.segs n).flatMap (fun g => (List.range g.pixels).flatMap (fun i => (List.range spp).map (fun col =>
    let k := rawIndex seq samples spp g i col
    (refMean refLines w.black k, refMean refLines w.white k))))
  let tgt := c.get F.SHD_CFG_TARGET n
  let gs := c.get F.SHD_CFG_GSHIFT n
  ⟨bw.map (·.1), bw.map (fun e => refGain tgt gs e.1 e.2), bw.map (fun e => decide (e.2 ≤ e.1)),
   bw.map (fun e => gainClamps tgt gs e.1 e.2)⟩

/-- Longest run of true values. -/
def longestRun : List Bool → Nat → Nat → Nat
  | [], cur, best => Nat.max cur best
  | true :: r, cur, best => longestRun r (cur + 1) (Nat.max (cur + 1) best)
  | false :: r, _, best => longestRun r 0 best

/-- The defect test of R143: true when the set fails it. -/
def Chip.defectRun (c : Chip) (n : Nat) (r : RefSet) : Bool :=
  let spp := c.spp n
  (c.segs n).any (fun g => (List.range spp).any (fun col =>
    let d := (List.range g.pixels).map (fun i => nth r.defect ((g.at_ + i) * spp + col) false)
    decide (longestRun d 0 0 > c.get F.SHD_CFG_DEF_RUN n) || (d.all id && decide (g.pixels > 0))))

/-- A set comes into use: its counts show in SHD_STAT (R137, Table 5-4, Table 5-5). -/
def Chip.useRefs (c : Chip) (n : Nat) (r : Option RefSet) (captured : Bool) : Chip :=
  let c := c.modStream n (fun s => { s with refs := r })
  match r with
  | none =>
    let c := (c.putB F.SHD_CFG_REF_VALID false n).putB F.SHD_CFG_REF_SRC false n
    (c.put F.SHD_STAT_DEFECT 0 n).put F.SHD_STAT_LOWRANGE 0 n
  | some r =>
    let c := (c.putB F.SHD_CFG_REF_VALID true n).putB F.SHD_CFG_REF_SRC captured n
    let low := (r.low.filter id).length
    (c.put F.SHD_STAT_DEFECT (Nat.min 65535 (r.defect.filter id).length) n).put F.SHD_STAT_LOWRANGE
      (Nat.min 65535 low) n

end Sys2Proof.Machine
end

