-- ==== Sys2Proof/Machine/Receive.lean ====
section
/-!
DEFINITION. What a stream's receive pins carried in one readout, read as words: the framing of Gen 1 and Gen 2, the
sync codes of Gen 3 (R102 to R109).
-/

namespace Sys2Proof.Machine

/-- Bits, most significant first (R102). -/
def bitsNum (l : List Bool) : Nat := l.foldl (fun a b => 2 * a + b2n b) 0

/-- Gen 1 words: the high byte comes on the rising edge, the low byte on the falling edge after it; a low byte with no
high byte before it is of no complete word (Table 4-2, R104). -/
def halfWords : List (Bool × Nat) → List Nat
  | (true, hi) :: (false, lo) :: r => (hi % 256 * 256 + lo % 256) :: halfWords r
  | _ :: r => halfWords r
  | [] => []

/-- The word at a bit position of a lane. -/
def laneWord (lane : List Bool) (p : Nat) : Nat := bitsNum ((lane.drop p).take 16)

/-- Rising edges of FCLK, each the first bit of a word (R105), that 16 bits follow. -/
def frameStarts (fclk : List Bool) : List Nat :=
  (List.range (fclk.length - 15)).filter (fun p => decide (0 < p) && fclk.getD p false && !(fclk.getD (p - 1) true))

/-- FCLK is high for exactly the first 8 bits of the word at a position (R105). -/
def frameOk (fclk : List Bool) (p : Nat) : Bool := laneWord fclk p == 0xFF00

/-- The code word at a bit position: one that a preamble precedes (Table 4-3). -/
def codeWord (lane : List Bool) (p : Nat) : Option Nat :=
  if lane.length < p + 64 then none
  else if bitsNum ((lane.drop p).take 48) = 0xFFFF00000000 then some (laneWord lane (p + 48))
  else none

/-- What a lane carried: bit position of its SAV, counts of SAV and EAV, and the data words between them. -/
structure LaneRead where
  at_ : Nat
  sav : Nat
  eav : Nat
  words : List Nat
  deriving DecidableEq, Repr

/-- A code word of a kind at a position: its count. -/
def syncCode (kind : Nat) (lane : List Bool) (p : Nat) : Option Nat :=
  (codeWord lane p).bind (fun w => if w / 4096 = kind then some (w % 4096) else none)

/-- The preamble search of one lane, then the words from its SAV to the EAV at the same alignment (R107).
(DEDUCED, log entry 99) -/
def laneRead (lane : List Bool) : Option LaneRead :=
  ((List.range lane.length).find? (fun p => (syncCode 10 lane p).isSome)).bind (fun p =>
    let first := p + 64
    ((List.range lane.length).find? (fun k => (syncCode 11 lane (first + 16 * k)).isSome)).map (fun k =>
      { at_ := p, sav := (syncCode 10 lane p).getD 0, eav := (syncCode 11 lane (first + 16 * k)).getD 0
        words := (List.range k).map (fun i => laneWord lane (first + 16 * i)) }))

/-- A readout as received: its samples, whether it ended (R109), a framing error (R105), valid codes (R107), a
line-length error of its own (R108), its count. -/
structure Received where
  samples : List Nat
  ended : Bool
  framing : Bool
  codes : Bool
  length : Bool
  count : Option Nat
  deriving DecidableEq, Repr

/-- Gen 1: sample 0 is word FIRST_WORD (R104). -/
def receive1 (first samples : Nat) (halves : List (Bool × Nat)) : Received :=
  let l := ((halfWords halves).drop first).take samples
  { samples := l, ended := decide (l.length = samples), framing := false, codes := false, length := false, count := none }

/-- Gen 2: sample k is on lane k mod 2, and FIRST_WORD counts the words of a lane (R104, R105, Table 4-2).
(DEDUCED, log entry 99) -/
def receive2 (first samples : Nat) (lanes : List (List Bool)) (fclk : List Bool) : Received :=
  let need := first + ceilDiv samples 2
  let at_ := (frameStarts fclk).take need
  { samples := (List.range samples).map (fun k => laneWord (nth lanes (k % 2) []) (nth at_ (first + k / 2) 0))
    ended := decide (at_.length = need), framing := at_.isEmpty || !(at_.all (frameOk fclk)), codes := false,
    length := false, count := none }

/-- Gen 3: sample k is on lane k mod 4; SAV and EAV are found at the same bit offset on all four lanes (R107, R108).
(DEDUCED, log entry 99) -/
def receive3 (samples : Nat) (lanes : List (List Bool)) : Received :=
  match (List.range 4).map (fun i => laneRead (nth lanes i [])) with
  | [some a, some b, some c, some d] =>
    let same := [b, c, d].all (fun x => x.at_ = a.at_)
    let agree := a.sav = a.eav ∧ [b, c, d].all (fun x => x.sav = a.sav ∧ x.eav = a.eav)
    let full := [a, b, c, d].all (fun x => x.words.length = ceilDiv samples 4)
    { samples := (List.range samples).map (fun k => nth (nth [a.words, b.words, c.words, d.words] (k % 4) []) (k / 4) 0)
      ended := true, framing := false, codes := same, length := !(decide agree && full)
      count := if same ∧ agree then some a.sav else none }
  | _ => { samples := [], ended := false, framing := false, codes := false, length := true, count := none }

/-- What a stream receives of a readout under its configuration; on Gen 1 and Gen 2 words count from the fall of SP on
(R104). -/
def Chip.received (c : Chip) (n : Nat) (w : Readout) : Received :=
  let first := c.get F.SNS_RX_FIRST_WORD n
  let samples := c.get F.SNS_IF_SAMPLES n
  let on := (c.stream n).counting
  match c.get F.SNS_CFG_GEN n with
  | 1 => receive1 first samples (if on then w.halves else [])
  | 2 => receive2 first samples w.lanes (if on then w.fclk else [])
  | _ => receive3 samples w.lanes

end Sys2Proof.Machine
end

