-- ==== Sys2Proof/Machine/Intake.lean ====
section
/-!
DEFINITION. Chapter 4 and the pages of chapter 5: encoders and triggers, drive events, readouts, page limits,
admission, bands, reference capture, stream states.
-/

namespace Sys2Proof.Machine

/-- Number of a function that can drain: streams, submitting sessions, result sessions, partitions, adaptation. -/
def targetNo : Target → Nat
  | .stream n => n.val
  | .submit s => 16 + s.val
  | .result s => 48 + s.val
  | .partition p => 112 + p.val
  | .adaptation => 128

/-- A drain begins in this course (R375). -/
def Chip.beginDrain (c : Chip) (t : Nat) : Chip :=
  c.updSched (fun s => { s with drain := smSet none s.drain t (some c.courseK) })

/-- Whether a function drains. -/
def Chip.draining (c : Chip) (t : Nat) : Bool := (smGet none c.sched.drain t).isSome

/-! ## Triggers -/

/-- A stream takes triggers: it is used, configured or being configured, and no capture runs on it. -/
def Chip.takesTriggers (c : Chip) (n : Nat) : Bool :=
  let st := c.get F.SNS_STATE_STATE n
  decide (c.get F.SNS_CFG_GEN n ≠ 0) && decide (1 ≤ st ∧ st ≤ 4) && !(c.stream n).capturing

/-- The streams of a transport that take its triggers (R101). -/
def Chip.trigStreams (c : Chip) (k : Nat) : List Nat := [2 * k, 2 * k + 1].filter c.takesTriggers

/-- MIN_PERIOD of a transport in ns: the larger of its two streams (R116). -/
def Chip.minPeriodNs (c : Chip) (k : Nat) : Nat :=
  8 * Nat.max (c.get F.SNS_TIME_MIN_PERIOD (2 * k)) (c.get F.SNS_TIME_MIN_PERIOD (2 * k + 1))

/-- Sequential colour mode. -/
def Chip.seqMode (c : Chip) (n : Nat) : Bool := c.get F.SNS_CFG_COLOUR n = 1

/-- Midpoint of the line in progress, none when no LED has lit it (R123). -/
def Stream.midpoint (s : Stream) : Option Stamp :=
  match s.exposing, s.ledOn, s.ledOff with
  | true, some a, some b => some (nsStamp ((Stamp.toNs a + Stamp.toNs b) / 2))
  | _, _, _ => none

/-- A stamp inside the period that ends at `t`, for a line that no LED lit: a free value, bounded by the trigger that
began the period so that R159 holds. (DESIGN CHOICE, log entry 18) -/
def Chip.darkStamp (c : Chip) (k : Nat) (t : Stamp) : Stamp :=
  let lo := Nat.min (Stamp.toNs ((c.transport k).lastTrig.getD t)) (Stamp.toNs t)
  nsStamp (lo + Config.darkMidpoint c.free % (Stamp.toNs t - lo + 1))

/-- The (sub-)line of index `idx` ends on a stream: its readout is to come, or it was skipped (R116, R119, R123). -/
def Stream.endPeriod (seq : Bool) (idx : Nat) (skipped : Bool) (mid : Option Stamp) (s : Stream) : Stream :=
  if seq && idx % 3 != 2 then { s with mids := s.mids ++ [⟨idx % 3, none, skipped, s.exposing⟩] }
  else { s with mids := s.mids ++ [⟨2, mid, skipped, s.exposing⟩], ledOn := none, ledOff := none }

/-- A trigger at `t` ends the period in progress on a stream, and those skipped after it, and begins the next one. -/
def Chip.nextPeriod (c : Chip) (k n : Nat) (t : Stamp) : Chip :=
  let x := c.transport k
  let seq := c.seqMode n
  let idx := x.trigs + 2
  let s := c.stream n
  let last := !seq || idx % 3 == 2
  let r : Chip × Option Stamp :=
    match s.midpoint with
    | some m => (c, some m)
    | none => if s.exposing && last then ({ c with free := c.free + 1 }, some (c.darkStamp k t)) else (c, none)
  r.1.modStream n (fun s =>
    let s := s.endPeriod seq idx false r.2
    let s := (List.range x.after).foldl (fun s i => s.endPeriod seq (idx + 1 + i) true s.midpoint) s
    { s with exposing := true })

/-- A line trigger is issued at a time on both streams of a transport (R112, R115). -/
def Chip.issueTrigger (c : Chip) (k : Nat) (t : Stamp) : Chip :=
  let seq := (c.trigStreams k).any c.seqMode
  let c := (c.trigStreams k).foldl (fun c n => c.nextPeriod k n t) c
  c.modTransport k (fun x =>
    let trigs := x.trigs + x.after + 1
    { x with lastTrig := some t, trigs := trigs, deferred := false, after := x.skipped, skipped := 0
             lines := if seq then ceilDiv trigs 3 else trigs })

/-- A trigger falls due now; every further one while a trigger is deferred is skipped (R116). -/
def Chip.triggerDue (c : Chip) (k : Nat) : Chip :=
  let x := c.transport k
  if x.deferred then c.modTransport k (fun x => { x with skipped := x.skipped + 1 })
  else
    match x.lastTrig with
    | none => c.issueTrigger k c.clock.now
    | some t =>
      if c.nowNs ≥ Stamp.toNs t + c.minPeriodNs k then c.issueTrigger k c.clock.now
      else (c.modTransport k (fun x => { x with deferred := true })).bump F.ENC_STAT_DEFERRED k

/-- DEFERRED_TRIGGER: MIN_PERIOD has passed since the previous trigger (R116). -/
def Chip.deferredTrigger (c : Chip) (k : Nat) : Chip :=
  let x := c.transport k
  if !x.deferred then c
  else
    match x.lastTrig with
    | none => c.issueTrigger k c.clock.now
    | some t => c.issueTrigger k (nsStamp (Stamp.toNs t + c.minPeriodNs k))

/-- The accumulator of R113 as the 34-bit signed number that it is: beyond its range, for which the spec gives no rule, it
wraps. (DESIGN CHOICE, log entry 126) -/
def wrap34 (x : Int) : Int := signedOf (toField x 34) 34

/-- Position of a quadrature level in the forward cycle, A leading B. (DEDUCED, log entry 97) -/
def quadPos (a b : Bool) : Nat :=
  match a, b with
  | false, false => 0
  | true, false => 1
  | true, true => 2
  | false, true => 3

/-- A forward count (R112). -/
def Chip.countForward (c : Chip) (k : Nat) : Chip :=
  let div : Int := c.get F.ENC_DIV_DIV k
  let acc := wrap34 ((c.transport k).acc + 65536)
  if acc ≥ div then (c.modTransport k (fun x => { x with acc := wrap34 (acc - div) })).triggerDue k
  else c.modTransport k (fun x => { x with acc := acc })

/-- ENCODER_EDGE: the levels of the two inputs and the ticks for which each has been stable; one that has been stable
for FILT ticks is accepted (R111 to R113). -/
def Chip.encoderEdge (c : Chip) (k : Nat) (a b : Bool) (ta tb : Nat) : Chip :=
  let x := c.transport k
  let filt := c.get F.ENC_CFG_FILT k
  let a := if filt ≤ ta then a else x.a
  let b := if filt ≤ tb then b else x.b
  let d := (quadPos a b + 4 - quadPos x.a x.b) % 4
  let c := c.modTransport k (fun x => { x with a := a, b := b })
  if d = 0 then c
  else if d = 2 then c.bump F.ENC_STAT_ENC_FAULT k
  else if c.flag F.ENC_CFG_SRC k then c
  else if (d == 1) != c.flag F.ENC_CFG_INVERT k then c.countForward k
  else c.modTransport k (fun x => { x with acc := wrap34 (x.acc - 65536) })

/-- TIMER_TRIGGER: the ticks that the accumulator lacks pass, and a trigger falls due (R114).
(DEDUCED, log entry 97) -/
def Chip.timerTrigger (c : Chip) (k : Nat) : Chip :=
  if !c.flag F.ENC_CFG_SRC k then c
  else
    let div := c.get F.ENC_DIV_DIV k
    let acc := (c.transport k).acc
    let n := ceilDiv ((div : Int) - acc).toNat 65536
    (c.modTransport k (fun x => { x with acc := wrap34 (acc + 65536 * n - div) })).triggerDue k

/-! ## Drive events -/

/-- Time of a drive event, ticks after the last trigger of the transport. (DEDUCED, log entry 97) -/
def Chip.afterTrigger (c : Chip) (n ticks : Nat) : Stamp :=
  match (c.transport (n / 2)).lastTrig with
  | some t => nsStamp (Stamp.toNs t + 8 * ticks)
  | none => c.clock.now

/-- Whether a colour lights in the period in progress (R121). -/
def Chip.lights (c : Chip) (n col : Nat) : Bool :=
  decide (c.get F.SNS_EXP_ON n col > 0) &&
    (!c.seqMode n || decide (((c.transport (n / 2)).trigs + 2) % 3 = col))

/-- The earlier, the later of two stamps. -/
def earliest (a : Option Stamp) (b : Stamp) : Stamp :=
  match a with
  | some a => if Stamp.toNs a ≤ Stamp.toNs b then a else b
  | none => b
/-- The later of two stamps. -/
def latest (a : Option Stamp) (b : Stamp) : Stamp :=
  match a with
  | some a => if Stamp.toNs b ≤ Stamp.toNs a then a else b
  | none => b

/-- Lines of a reference capture with the lamp off, or with it on: 16 that are discarded, then REF_LINES (R140). -/
def Chip.captureLines (c : Chip) (n : Nat) : Nat := 16 + 16 * 2 ^ c.get F.SHD_CFG_REF_LINES n

/-- A drive event of a capture's own trigger: the LEDs stay off for the lines of the black reference, and light as
configured for those of the white one (R140). (DEDUCED, log entry 97) -/
def Chip.captureEvent (c : Chip) (n : Nat) (e : Drive) : Chip :=
  let seq := c.seqMode n
  match e with
  | .spRise => c.modStream n (fun s => { s with sp := true, capTrig := s.capTrig + 1 })
  | .spFall => c.modStream n (fun s => { s with sp := false })
  | .ledOn col =>
    let t := (c.stream n).capTrig
    let white := decide (t > c.captureLines n * (if seq then 3 else 1))
    if white && decide (c.get F.SNS_EXP_ON n col.val > 0) && (!seq || decide ((t + 2) % 3 = col.val)) then
      c.modStream n (fun s => { s with leds := s.leds.set col.val true })
    else c
  | .ledOff col => c.modStream n (fun s => { s with leds := s.leds.set col.val false })

/-- DRIVE_EVENT (Table 4-4, R121, R123). -/
def Chip.driveEvent (c : Chip) (n : Nat) (e : Drive) : Chip :=
  if (c.stream n).capturing then c.captureEvent n e
  else if !c.takesTriggers n then c
  else
    match e with
    | .spRise => c.modStream n (fun s => { s with sp := true })
    | .spFall => c.modStream n (fun s => { s with sp := false, counting := true })
    | .ledOn col =>
      if c.lights n col.val then
        let t := c.afterTrigger n (c.get F.SNS_EXP_START n col.val)
        c.modStream n (fun s => { s with
          leds := s.leds.set col.val true, ledOn := some (earliest s.ledOn t) })
      else c
    | .ledOff col =>
      if c.lights n col.val then
        let t := c.afterTrigger n (c.get F.SNS_EXP_START n col.val + c.get F.SNS_EXP_ON n col.val)
        c.modStream n (fun s => { s with
          leds := s.leds.set col.val false, ledOff := some (latest s.ledOff t) })
      else c.modStream n (fun s => { s with leds := s.leds.set col.val false })

/-! ## Pages -/

/-- TRAIL_LINES of a stream. -/
def Chip.trailLines (c : Chip) (n : Nat) : Nat := actsAs (c.get F.EDGE_CFG_TRAIL_LINES n) 1

/-- MAX_LINES of a stream. -/
def Chip.maxLines (c : Chip) (n : Nat) : Nat := actsAs (c.get F.SNS_PAGE_MAX_LINES n) 1

/-- Whether an output line is a paper line on a stream. -/
def Chip.paper (c : Chip) (n : Nat) (l : List (List Nat)) : Bool :=
  paperLine (c.get F.EDGE_CFG_BG n) (c.get F.EDGE_CFG_THR n) (c.get F.EDGE_CFG_PIX n) l

/-- The sheet number of a leading edge (R11, R12). (DEDUCED, log entry 78) -/
def Chip.takeSheet (c : Chip) (n : Nat) : Chip × Nat :=
  let k := n / 2
  let x := c.transport k
  let new : Chip × Nat := (c.modTransport k (fun x => { x with sheet := (x.sheet + 1) % 2 ^ 32 }), x.sheet)
  if n % 2 = 0 then
    if c.get F.SNS_CFG_GEN (n + 1) = 0 then new
    else (new.1.modTransport k (fun y => { y with unpaired := y.unpaired ++ [(x.sheet, x.lines)] }), x.sheet)
  else
    let near := x.unpaired.filter (fun e => x.lines ≤ e.2 + actsAs (c.get F.ENC_HOLD_PITCH_MIN k) 1)
    match near with
    | (sh, _) :: rest => (c.modTransport k (fun x => { x with unpaired := rest }), sh)
    | [] => (new.1.modTransport k (fun x => { x with unpaired := [] }), new.2)

/-- A capture with no line yet. -/
def Capture.fresh (item : Option Nat) : Capture :=
  { item := item, lines := [], mids := [], subst := [], blank := 0, groups := List.replicate 64 none, widened := 0,
    skew := none, banded := 0, past := false }

/-- The time-degraded alarm shows in an item's flags (R23). (DEDUCED, log entry 76) -/
def Chip.alarmFlag (c : Chip) : Nat := if c.flag F.TIME_STAT_ALARM then 8 else 0

/-- A page's item before its admission. -/
def Chip.pageItem (c : Chip) (n sheet : Nat) (t : Stamp) : Item :=
  let part := ((c.image.partOf.find? (fun e => e.1 = n)).map (·.2)).getD 0
  { Item.blank 0 n part (c.flag F.SNS_CFG_LIVE n) t with
    sheet := some sheet
    bg := c.get F.EDGE_CFG_BG n
    flags := b2n (!c.flag F.SHD_CFG_REF_VALID n) + c.alarmFlag + (if c.flag F.SNS_CFG_STEERED n then 64 else 0) }

/-- A page that is not admitted: an item that ends DROPPED, whose lines are discarded (R22, R129).
(DEDUCED, log entry 34) -/
def Chip.dropPage (c : Chip) (n : Nat) (i : Item) (why : List Byte) : Chip :=
  let num := c.items.next
  ((c.takeItem i).endItem num ⟨5, why⟩).modStream n (fun s => { s with page := some (Capture.fresh none) })

/-- PAGE_ADMIT: a page's leading edge is found (R14, R22, R128, R129, R141). -/
def Chip.pageAdmit (c : Chip) (n : Nat) (t : Stamp) : Chip :=
  let r := c.takeSheet n
  let c := r.1
  let i := c.pageItem n r.2 t
  if c.get F.SNS_STATE_STATE n ≠ 3 then c.dropPage n i (txt "disabled")
  else
    let free := c.get F.SNS_CREDIT_FREE n
    let ordinary := decide (free > 0)
    if !ordinary && (!c.flag F.SNS_CREDIT_EMERG_EN n || c.flag F.SNS_CREDIT_EMERG_HELD n) then
      (c.bump F.SNS_CNT1_DROPS n).dropPage n i (txt "no-buffer")
    else
      let c := match (c.stream n).nextRefs with
        | some r => (c.useRefs n (some r) true).modStream n (fun s => { s with nextRefs := none })
        | none => c
      let i := { i with flags := i.flags - i.flags % 2 + b2n (!c.flag F.SHD_CFG_REF_VALID n) }
      let num := c.items.next
      let c :=
        if ordinary then
          (c.put F.SNS_CREDIT_FREE (free - 1) n).takeItem { i with credit := 1 }
        else
          ((c.putB F.SNS_CREDIT_EMERG_HELD true n).bump F.SNS_CNT1_HOLD_VIOL n).takeItem
            { i with credit := 2, flags := i.flags ||| 4 }
      (c.wrap F.SNS_PAGES_PAGES n).modStream n (fun s => { s with page := some (Capture.fresh (some num)) })

/-- SKEW_MEASURE_END: the fit's result, its flags and PAGE_GEOM (R152 to R155). -/
def Chip.skewEnd (c : Chip) (n : Nat) (cap : Capture) : Chip × Capture :=
  let m := measureSkew (c.get F.SNS_CFG_PIXELS n) cap.groups
  let cap := { cap with skew := some m }
  match m, cap.item with
  | none, some i => (((c.put F.PAGE_GEOM_SKEW 0 n).put F.PAGE_GEOM_XE 0 n).flagItem i 32, cap)
  | some (th, xe), some i =>
    let c := (c.putS F.PAGE_GEOM_SKEW th n).put F.PAGE_GEOM_XE xe n
    if th.natAbs > 1500 then ((c.flagItem i 16).bump F.COND_CNT_SKEW_RANGE n, cap) else (c, cap)
  | _, none => (c, cap)

/-- One page line enters the skew measurement (R152).  The span counts as widened at line 0, so that a page whose lines record
no group ends its measurement at line SETTLE. (DESIGN CHOICE, log entry 127) -/
def Chip.skewLine (c : Chip) (n idx : Nat) (cap : Capture) (l : List (List Nat)) : Chip × Capture :=
  if cap.skew.isSome || cap.item.isNone then (c, cap)
  else
    let w := c.get F.SNS_CFG_PIXELS n
    let settle := actsAs (c.get F.SKEW_CFG_SETTLE n) 1
    let gs := markGroups idx cap.groups (paperGroups (c.get F.EDGE_CFG_BG n) (c.get F.EDGE_CFG_THR n) w l)
    let wide := if groupSpan gs = groupSpan cap.groups then cap.widened else idx
    let cap := { cap with groups := gs, widened := wide }
    if idx ≥ wide + settle ∨ idx + 1 ≥ tan15Lines w + settle then c.skewEnd n cap else (c, cap)

/-- PAGE_END_DETECT: the page's limits are known; it ends DROPPED: runt, FAILED: sensor-error, or its remaining bands
follow (R13, R17, R110, R149, R151).  A page that ends before its skew measurement does ends that as well, with the groups
recorded so far. (DESIGN CHOICE, log entry 127) -/
def Chip.pageEnd (c : Chip) (n : Nat) (cap : Capture) (long : Bool) : Chip :=
  let count := if long then Nat.min cap.lines.length (c.maxLines n) else cap.lines.length - cap.blank
  let cap := { cap with
    lines := cap.lines.take count, mids := cap.mids.take count, subst := cap.subst.take count, blank := 0, past := true }
  let c := c.modStream n (fun s => { s with page := none, closed := long, run := 0 })
  match cap.item with
  | none => c
  | some num =>
    let r := if cap.skew.isSome then (c, cap) else c.skewEnd n cap
    let c := r.1
    let cap := r.2
    let last := cap.mids.getLastD c.clock.now
    let live := c.flag F.SNS_CFG_LIVE n
    let bound := ((c.image.boundMs.find? (fun e => e.1 = n)).map (·.2)).getD 0
    let bad := (cap.subst.filter id).length
    let c := c.modItem num (fun i => { i with
      captured := true, subst := bad, lastLine := some last
      deadline := if live then some (nsStamp (Stamp.toNs last + bound * 1000000)) else none
      flags := i.flags ||| (if long then 128 else 0) ||| (if bad > 0 then 2 else 0) })
    if count < c.get F.SKEW_CFG_MIN_LINES n then
      (c.bump F.COND_CNT_RUNT n).endItem num ⟨5, txt "runt"⟩
    else if bad > c.get F.SNS_IF_ERR_MAX n then c.endItem num ⟨3, txt "sensor-error"⟩
    else c.modStream n (fun s => { s with tail := s.tail ++ [cap] })

/-- A line of the page in capture (R149, R152). -/
def Chip.capturedLine (c : Chip) (n : Nat) (cap : Capture) (l : List (List Nat)) (t : Stamp) (sub : Bool) : Chip :=
  let keep := if cap.item.isSome then l else []
  let isP := c.paper n l
  let from_ := cap.lines.length - cap.blank
  let cap := { cap with
    lines := cap.lines ++ [keep], mids := cap.mids ++ [t], subst := cap.subst ++ [sub]
    blank := if isP then 0 else cap.blank + 1 }
  let r : Chip × Capture :=
    if isP then
      ((cap.lines.drop from_).zipIdx from_).foldl (fun (a : Chip × Capture) e => a.1.skewLine n e.2 a.2 e.1) (c, cap)
    else (c, cap)
  let c := r.1
  let cap := r.2
  let c := match cap.item with
    | some num => if isP && cap.subst.any id then c.flagItem num 2 else c
    | none => c
  if isP && decide (cap.lines.length ≥ c.maxLines n) then c.pageEnd n cap true
  else if cap.blank ≥ c.trailLines n then c.pageEnd n cap false
  else c.modStream n (fun s => { s with page := some cap })

/-- An output line meets the page edge detector (R149, R150). -/
def Chip.pageLine (c : Chip) (n : Nat) (t : Stamp) (sub : Bool) : Chip :=
  let s := c.stream n
  let st := c.get F.SNS_STATE_STATE n
  match s.page with
  | some cap => c.capturedLine n cap (c.outLine n s.refs s.hist) t sub
  | none =>
    if st ≠ 3 ∧ st ≠ 4 then c
    else
      let isP := c.paper n (c.outLine n s.refs s.hist)
      if s.closed then
        if isP then c.modStream n (fun s => { s with run := 0 })
        else if s.run + 1 ≥ c.trailLines n then c.modStream n (fun s => { s with closed := false, run := 0 })
        else c.modStream n (fun s => { s with run := s.run + 1 })
      else if isP then
        let c := c.pageAdmit n t
        match (c.stream n).page with
        | some cap => c.capturedLine n cap (c.outLine n (c.stream n).refs s.hist) t sub
        | none => c
      else c

/-! ## Readouts -/

/-- A line enters the conditioning chain (R135). (DEDUCED, log entry 99) -/
def Chip.lineIn (c : Chip) (n : Nat) (raw : List Nat) (t : Stamp) : Chip :=
  (c.modStream n (fun s => { s with hist := ((raw, t) :: s.hist).take 96 })).pageLine n t false

/-- The stream's previous received line stands in for a line (R110).  Where none was received, that line is empty and
reads as BG, and a line with no stamp of its own takes the time now. (DESIGN CHOICE, log entry 121) -/
def Chip.lineSubst (c : Chip) (n : Nat) (t : Option Stamp) : Chip :=
  let prev := (c.stream n).hist.headD ([], c.clock.now)
  let t := t.getD prev.2
  ((c.bump F.SNS_CNT0_LINE_SUB n).modStream n (fun s => { s with hist := ((prev.1, t) :: s.hist).take 96 })).pageLine
    n t true

/-- WAIT_LOCK or ENABLED: the stream is configured (Table 4-6, R24). -/
def Chip.streamReady (c : Chip) (n : Nat) : Chip :=
  c.put F.SNS_STATE_STATE (if c.flag F.SNS_CFG_LIVE n ∧ ¬ c.locked then 2 else 3) n

/-- Ends ENABLING once the AFE list is verified and the lanes are aligned (R125). -/
def Chip.enablingDone (c : Chip) (n : Nat) : Chip :=
  if c.get F.SNS_STATE_STATE n = 1 ∧ (c.stream n).afeDone ∧
      (c.get F.SNS_CFG_GEN n = 1 ∨ c.flag F.SNS_STATE_SYNC n) then c.streamReady n
  else c

/-- Word alignment after a readout (R106, R107). (DEDUCED, log entry 99) -/
def Chip.align (c : Chip) (n : Nat) (good : Bool) : Chip :=
  let s := c.stream n
  if c.get F.SNS_CFG_GEN n = 1 then c
  else if good then
    let g := s.good + 1
    let c := c.modStream n (fun s => { s with good := g, bad := 0 })
    if g ≥ 4 then c.putB F.SNS_STATE_SYNC true n else c
  else
    let b := s.bad + 1
    let c := c.modStream n (fun s => { s with good := 0, bad := b })
    if b ≥ 2 then c.putB F.SNS_STATE_SYNC false n else c

/-- Readout errors of R105 to R109. -/
def Chip.readoutBad (c : Chip) (n : Nat) (r : Received) (inSync : Bool) : Bool :=
  let gen := c.get F.SNS_CFG_GEN n
  r.framing || !r.ended || (decide (gen ≠ 1) && !inSync) ||
  (decide (gen = 3) && (!r.codes || r.length ||
    (match (c.stream n).count, r.count with
     | some p, some x => decide (x ≠ (p + 1) % 4096)
     | _, _ => false)))

/-- Readout counts that are missing before this one (R108).  After a readout without a count of its own, the count
before it still stands, so that the next good readout counts that one as missing. (DESIGN CHOICE, log entry 121) -/
def Chip.missing (c : Chip) (n : Nat) (r : Received) : Nat :=
  match (c.stream n).count, r.count with
  | some p, some x => (x + 4096 * 2 - p % 4096 - 1) % 4096
  | _, _ => 0

/-- A complete line: substituted when it was received in error, conditioned otherwise; its stamp is its midpoint
(R110, R123). -/
def Chip.lineDone (c : Chip) (n : Nat) (raw : List Nat) (m : Option Stamp) (bad : Bool) : Chip :=
  if bad then c.lineSubst n m else c.lineIn n raw (m.getD c.clock.now)

/-- What the oldest waiting period brought: a line, or a sub-line of one (R115, R119). -/
def Chip.periodRead (c : Chip) (n : Nat) (p : Period) (samples : List Nat) (bad : Bool) : Chip :=
  let c := c.modStream n (fun s => { s with mids := s.mids.drop 1 })
  if !p.line then c
  else if c.seqMode n then
    let s := c.stream n
    let sub := if p.sub = 0 then [samples] else if s.sub.length = p.sub then s.sub ++ [samples] else []
    let subBad := bad || (decide (p.sub ≠ 0) && s.subBad)
    if p.sub = 2 then
      let c := c.modStream n (fun s => { s with sub := [], subBad := false })
      if sub.length = 3 then c.lineDone n sub.flatten p.mid subBad else c
    else c.modStream n (fun s => { s with sub := sub, subBad := subBad })
  else c.lineDone n samples p.mid bad

/-- The readout of the oldest waiting period, then the periods after it whose triggers were skipped, each substituted
(R116).  Without a waiting period no trigger asked for the readout, and it is no line. (DEDUCED, log entry 99) -/
def Chip.lineRead (c : Chip) (n : Nat) (samples : List Nat) (bad : Bool) : Chip :=
  match (c.stream n).mids with
  | [] => c
  | p :: rest => (rest.takeWhile (·.skipped)).foldl (fun c q => c.periodRead n q [] true) (c.periodRead n p samples bad)

/-- READOUT_COMPLETE (R102 to R110, R119); each missing count is a line in error of its own. (DEDUCED, log entry 69) -/
def Chip.readout (c : Chip) (n : Nat) (w : Readout) : Chip :=
  let st := c.get F.SNS_STATE_STATE n
  if !c.takesTriggers n then c
  else
    let r := c.received n w
    let bad := c.readoutBad n r (c.flag F.SNS_STATE_SYNC n) || w.crossingFull
    let lost := if st = 1 then 0 else c.missing n r
    let c := c.align n (if c.get F.SNS_CFG_GEN n = 3 then r.codes else !r.framing)
    let c := c.modStream n (fun s => { s with counting := false, count := if r.count.isSome then r.count else s.count })
    let c := if w.crossingFull then (c.bump F.SNS_CNT0_LINE_OVR n).log 0x40 Loc.none else c
    if st = 1 then (c.modStream n (fun s => { s with mids := s.mids.drop 1 })).enablingDone n
    else (foldN lost (fun c _ => c.lineRead n [] true) c).lineRead n r.samples bad

/-! ## Bands -/

/-- Buffers of a stream's ring. -/
def Chip.ringCount (c : Chip) (n : Nat) : Nat := Nat.max 2 (c.get F.BAND_CFG_COUNT n)

/-- Where a submitting session's records lie. -/
def Chip.recArea (c : Chip) (s : Nat) : RecArea := (c.image.recAreas.find? (fun a => a.sess = s)).getD ⟨s, 0, 0, 0, 0, 0⟩

/-- Bytes of one of an origin's band buffers: a stream's, or a submitting session's. -/
def Chip.bandSize (c : Chip) (o : Nat) : Nat :=
  if o < 16 then bandBytes (c.spp o) (c.get F.BAND_CFG_PITCH o) else (c.recArea (o - 16)).bytes

/-- A ring buffer, as a handle reference. -/
def Chip.ringRef (c : Chip) (o k : Nat) : HRef :=
  ⟨.shared, if o < 16 then c.get F.BAND_HND_SHM o else (c.recArea (o - 16)).ring, k * c.bandSize o⟩

/-- Buffers of an origin's ring. -/
def Chip.ringSize (c : Chip) (o : Nat) : Nat := if o < 16 then c.ringCount o else (c.recArea (o - 16)).count

/-- Bands of the largest page or record of an origin. -/
def Chip.maxBands (c : Chip) (o : Nat) : Nat := if o < 16 then ceilDiv (c.maxLines o) 128 else 1024

/-- Places in an origin's retention area: one for each credit, and one more for a stream. -/
def Chip.retPlaces (c : Chip) (o : Nat) : Nat :=
  if o < 16 then c.get F.SNS_CREDIT_TOTAL o + 1 else actsAs (c.get F.SUB_CFG_CREDITS (o - 16)) 1

/-- A band's place in the retention area, page slot by page slot. (DESIGN CHOICE, log entry 100) -/
def Chip.retRef (c : Chip) (o slot band : Nat) : HRef :=
  ⟨.ddr, if o < 16 then c.get F.BAND_HND_RET o else (c.recArea (o - 16)).ret, (slot * c.maxBands o + band) * c.bandSize o⟩

/-- The intake writes through a handle (R72): a failed check writes nothing and counts. -/
def Chip.intakeWrite (c : Chip) (h : HRef) (d : List Byte) : Chip :=
  match c.checkHandle ⟨.chip, none⟩ h true d.length with
  | some _ => c.handleFault 0x12 ⟨.chip, none⟩ (tableNo h.space)
  | none => c.writeHandle h d

/-- The memory unit copies bytes from one handle to another, granule by granule, poisoned words as such; a failed check copies
nothing and counts (R72). -/
def Chip.intakeCopy (c : Chip) (src dst : HRef) (n : Nat) : Chip :=
  let who : Issuer := ⟨.chip, none⟩
  match c.checkHandle who src false n, c.checkHandle who dst true n with
  | none, none => (c.carry (c.granPairs src dst n)).1
  | some _, _ => c.handleFault 0x12 who (tableNo src.space)
  | none, some _ => c.handleFault 0x12 who (tableNo dst.space)

/-- The retention page slot of an item, taking the lowest free one at its first band.
(DESIGN CHOICE, log entry 100) -/
def Chip.retSlot (c : Chip) (n item : Nat) : Chip × Nat :=
  let s := c.stream n
  match s.retained.find? (fun e => e.1 = item) with
  | some e => (c, e.2)
  | none =>
    let slot := ((List.range (c.retPlaces n)).find? (fun k => !(s.retained.any (fun e => e.2 = k)))).getD 0
    (c.modStream n (fun s => { s with retained := s.retained ++ [(item, slot)] }), slot)

/-- Lines of band `b` of a page whose end is known, or 128. -/
def bandLines (past : Bool) (total b : Nat) : Nat := if past then Nat.min 128 (total - 128 * b) else 128

/-- Whether band `b` of a page can be written (R157). -/
def Chip.bandReady (c : Chip) (n : Nat) (cap : Capture) (b : Nat) : Bool :=
  match cap.skew with
  | none => false
  | some m =>
    let th := appliedSkew (c.flag F.SKEW_CFG_DESKEW_EN n) (c.get F.SKEW_CFG_SKEW_MIN n) m
    let need := bandNeeds (c.get F.SNS_CFG_PIXELS n) th b
    if cap.past then decide (128 * b < cap.lines.length)
    else decide (cap.lines.length ≥ need + 1 + c.trailLines n) && decide (cap.lines.length - cap.blank > 128 * b + 127)

/-- The bytes of band `b` of a page (R156, R159, R160). -/
def Chip.bandOf (c : Chip) (n : Nat) (cap : Capture) (i : Item) (b : Nat) : List Byte :=
  let m := cap.skew.getD none
  let rot := appliedSkew (c.flag F.SKEW_CFG_DESKEW_EN n) (c.get F.SKEW_CFG_SKEW_MIN n) m
  let th := rot.getD 0
  let xe := (m.map (·.2)).getD 0
  let w := c.get F.SNS_CFG_PIXELS n
  let cnt := bandLines cap.past cap.lines.length b
  let l := if cap.past then cap.lines.length else 2 ^ 20
  let planes := (List.range (c.spp n)).map (fun k =>
    bandPlane th xe (c.get F.EDGE_CFG_BG n) w l b cnt (cap.lines.map (fun x => nth x k [])))
  bandImage
    { item := i.num, band := b, lines := cnt, width := w, pitch := c.get F.BAND_CFG_PITCH n, planes := c.spp n
      source := 0, origin := n
      flags := bandFlags (cap.past && decide (128 * b + 128 ≥ cap.lines.length)) i.flags
      stamp := cap.mids.getD (128 * b) c.clock.now, skew := th, xe := xe
      subst := (((cap.subst.drop (128 * b)).take cnt).filter id).length } planes

/-- A band as the item keeps it. -/
def Band.fresh (idx lines : Nat) (t : Stamp) (buf : Option Nat) : Band :=
  { idx := idx, lines := lines, full := t, buffer := buf, retained := buf.isNone, taken := false, released := false,
    dropped := false, steer := 0 }

/-- One more band of a page is written; a page past its end with all bands written is done. -/
def Chip.bandDone (c : Chip) (n : Nat) (cap : Capture) : Chip :=
  let cap' := { cap with banded := cap.banded + 1 }
  let all := cap.past && decide (128 * cap'.banded ≥ cap.lines.length)
  c.modStream n (fun s =>
    if s.page = some cap then { s with page := some cap' }
    else { s with tail := s.tail.flatMap (fun x => if x = cap then (if all then [] else [cap']) else [x]) })

/-- A band whose full token is raised: in the lowest free ring buffer; where none is free, a live item ends LATE, and a batch
item's band is written to retention only (R161, R162, R164). -/
def Chip.putBand (c : Chip) (i : Item) (idx cnt : Nat) (data : List Byte) : Chip :=
  let o := i.origin
  match (List.range (c.ringSize o)).find? (fun k => !((c.stream o).ringUsed.any (fun e => e.2 = k))) with
  | some k =>
    let c := c.intakeWrite (c.ringRef o k) data
    let c := c.modStream o (fun s => { s with ringUsed := s.ringUsed ++ [(i.num, k)] })
    c.modItem i.num (fun i => { i with bands := i.bands ++ [Band.fresh idx cnt c.clock.now (some k)] })
  | none =>
    let c := if o < 16 then c.bump F.COND_CNT_RING_FULL o else c
    if i.live then c.endItem i.num ⟨2, txt "no-band-buffer"⟩
    else
      let r := c.retSlot o i.num
      let c := r.1.intakeWrite (c.retRef o r.2 idx) data
      c.modItem i.num (fun i => { i with bands := i.bands ++ [Band.fresh idx cnt c.clock.now none] })

/-- BAND_WRITTEN (R157 to R164); the band crosses the chip-unit link under the intake's reservation (R359). -/
def Chip.bandWritten (c : Chip) (n band : Nat) : Chip :=
  let s := c.stream n
  match (s.tail ++ s.page.toList).find? (fun cap => cap.item.isSome && cap.banded = band && c.bandReady n cap band) with
  | none => c
  | some cap =>
    let c' := c.bandDone n cap
    let served := c'.hedgeOnce 16 [(4, ceilDiv (c.bandSize n) 64)]
    match cap.item.bind c.item with
    | none => c'
    | some i =>
      if i.ended.isSome then c'
      else if !served.2 then c
      else
        served.1.putBand i band (bandLines cap.past cap.lines.length band) (c.bandOf n cap i band)

/-- Ring buffers of an item return once their copy is complete and the band is released or dropped (R161). -/
def Chip.freeRing (c : Chip) (item : Nat) : Chip :=
  match c.item item with
  | none => c
  | some i =>
    let done := (i.bands.filter (fun b => b.retained && (b.released || b.dropped))).filterMap (·.buffer)
    (c.modStream i.origin (fun s => { s with
      ringUsed := s.ringUsed.filter (fun e => !(e.1 = item && done.contains e.2)) })).modItem item (fun i =>
        { i with bands := i.bands.map (fun b =>
          if b.retained && (b.released || b.dropped) then { b with buffer := none } else b) })

/-- RETENTION_COPY_DONE (R161): the band's granules are copied, poisoned words as such; `n` is the item's origin. -/
def Chip.retentionDone (c : Chip) (n item band : Nat) : Chip :=
  match c.item item with
  | none => c
  | some i =>
    match i.bands.find? (fun b => b.idx = band) with
    | none => c
    | some b =>
      match b.buffer with
      | none => c
      | some k =>
        if i.origin ≠ n ∨ b.retained then c
        else
          let r := c.retSlot n item
          ((r.1.intakeCopy (c.ringRef n k) (c.retRef n r.2 band) (c.bandSize n)).modItem item (fun i => { i with bands := i.bands.map (fun x =>
          if x.idx = band then { x with retained := true } else x) })).freeRing item

/-- An untaken band is dropped: counted, and its item ends LATE: stale-band (R163, R164). -/
def Chip.dropBand (c : Chip) (item band : Nat) : Chip :=
  match c.item item with
  | none => c
  | some i =>
    let c := c.modItem item (fun i => { i with bands := i.bands.map (fun x =>
      if x.idx = band then { x with dropped := true } else x) })
    let c := if i.origin < 16 then c.bump F.COND_CNT_STALE i.origin else c
    (c.endItem item ⟨2, txt "stale-band"⟩).freeRing item

/-- A band's age limit in ns: FRESH counts units of 10 µs (R163, Table 5-8). -/
def Chip.freshNs (c : Chip) (n : Nat) : Nat := c.get F.BAND_CFG_FRESH n * 10000

/-- Whether a band is older than FRESH now. -/
def Chip.stale (c : Chip) (i : Item) (b : Band) : Bool :=
  i.live && decide (i.origin < 16) && !b.taken && !b.dropped &&
    decide (c.nowNs > Stamp.toNs b.full + c.freshNs i.origin)

/-- STALE_BAND_CHECK of every untaken live band at a course boundary (R163). -/
def Chip.staleBands (c : Chip) : Chip :=
  c.inFlight.foldl (fun c i =>
    (i.bands.filter (c.stale i)).foldl (fun c b => c.dropBand i.num b.idx) c) c

/-! ## Transport stop, configuration, states -/

/-- TRANSPORT_STOP: of the streams with a page in capture, those with the least STOP_MS (R118). -/
def Chip.transportStop (c : Chip) (k : Nat) : Chip :=
  let inCap := [2 * k, 2 * k + 1].filter (fun n => (c.stream n).page.isSome)
  let ms := fun n => actsAs (c.get F.SNS_PAGE_STOP_MS n) 1
  let least := inCap.filter (fun n => inCap.all (fun m => ms n ≤ ms m))
  least.foldl (fun c n =>
    let cap := (c.stream n).page
    let c := c.modStream n (fun s => { s with
      page := none, closed := true, run := 0, kept := s.kept ++ (cap.filter (·.item.isSome)).toList })
    match cap.bind (·.item) with
    | some num => c.endItem num ⟨3, txt "transport-stop"⟩
    | none => c) c

/-- A stream goes to FAULT (R103, R125, R143). (DEDUCED, log entry 101) -/
def Chip.streamFault (c : Chip) (n : Nat) : Chip :=
  ((c.put F.SNS_STATE_STATE 5 n).putB F.SNS_STATE_AFE_FAULT true n).log 0x41 Loc.none

/-- The stream's AFE list: frames, each with its mark for verification. -/
def Chip.afeList (c : Chip) (n : Nat) : List (Nat × Bool) := ((c.image.afe.find? (fun e => e.1 = n)).map (·.2)).getD []

/-- AFE_CONFIG_DONE: the list has been written, and `reads` is what the frames marked for verification read back
(R125). -/
def Chip.afeConfigDone (c : Chip) (n : Nat) (reads : List Nat) : Chip :=
  if c.get F.SNS_STATE_STATE n ≠ 1 then c
  else
    let c := c.modStream n (fun s => { s with afe := (c.afeList n).map (·.1) })
    if reads = ((c.afeList n).filter (·.2)).map (·.1) then (c.modStream n (fun s => { s with afeDone := true })).enablingDone n else c.streamFault n

/-- AFE_SYNC_TIMEOUT (R125, R106). -/
def Chip.afeSyncTimeout (c : Chip) (n : Nat) : Chip :=
  if c.get F.SNS_STATE_STATE n = 1 ∧ c.get F.SNS_CFG_GEN n ≥ 2 ∧ ¬ c.flag F.SNS_STATE_SYNC n then c.streamFault n
  else c

/-- A stream's front end as it enters ENABLING; references, and bands of items still held, stay. -/
def Stream.restart (s : Stream) : Stream :=
  { Stream.cold with
    refs := s.refs, nextRefs := s.nextRefs, refDigest := s.refDigest, ringUsed := s.ringUsed, retained := s.retained,
    tail := s.tail, kept := s.kept, mclk := true }

/-- The boot-time checks of a stream: Gen 1 on streams 0 to 3 alone, and the defect test of a set from the image
(R103, R143). -/
def Chip.checkFails (c : Chip) (n : Nat) : Bool :=
  (decide (c.get F.SNS_CFG_GEN n = 1) && decide (n > 3)) ||
  (!c.flag F.SHD_CFG_REF_SRC n && ((c.stream n).refs.map (c.defectRun n)).getD false)

/-- A stream that fails a boot-time check is held in FAULT (R103, R143). -/
def Chip.checkFault (c : Chip) (n : Nat) : Chip :=
  let c := c.put F.SNS_STATE_STATE 5 n
  if c.get F.SNS_CFG_GEN n = 1 ∧ n > 3 then c.putB F.SNS_STATE_GEN_FAULT true n
  else (c.putB F.SNS_STATE_AFE_FAULT true n).log 0x41 Loc.none

/-- A stream passes to ENABLING (R125, R126); with the first stream of a transport its sheet count starts at 0
(R11). (DEDUCED, log entry 101) -/
def Chip.streamEnabling (c : Chip) (n : Nat) : Chip :=
  let k := n / 2
  let other := if n % 2 = 0 then n + 1 else n - 1
  let c := if c.get F.SNS_STATE_STATE other = 0 then
      c.modTransport k (fun x => { x with
        sheet := 0, unpaired := [], lines := 0, trigs := 0, skipped := 0, after := 0 }) else c
  if c.checkFails n then c.checkFault n
  else
    let c := (c.putB F.SNS_STATE_SYNC false n).putB F.SNS_STATE_AFE_FAULT false n
    (c.put F.SNS_STATE_STATE 1 n).modStream n Stream.restart

/-- A stream reports DISABLED: no triggers, SP and LED enables low, MCLK stopped (Table 4-6). -/
def Chip.streamOff (c : Chip) (n : Nat) : Chip :=
  let c := ((c.put F.SNS_STATE_STATE 0 n).putB F.SNS_STATE_SYNC false n).putB F.SNS_STATE_AFE_FAULT false n
  c.modStream n (fun s => { s.restart with mclk := false })

/-- Streams in WAIT_LOCK pass to ENABLED at first lock (R24). -/
def Chip.lockStreams (c : Chip) : Chip :=
  (List.range 16).foldl (fun c n => if c.get F.SNS_STATE_STATE n = 2 then c.put F.SNS_STATE_STATE 3 n else c) c

/-- A reference capture begins: the front end generates its own triggers, with all LEDs off (R140). -/
def Chip.captureBegin (c : Chip) (n : Nat) : Chip :=
  c.modStream n (fun s => { s with
    capturing := true, capTrig := 0, leds := [false, false, false], exposing := false, mids := [], counting := false
    ledOn := none, ledOff := none, sub := [], subBad := false })

/-- No capture runs on a stream any more. -/
def Chip.captureOver (c : Chip) (n : Nat) : Chip :=
  c.modStream n (fun s => { s with capturing := false, capTrig := 0, sp := false, leds := [false, false, false] })

/-- The averages of a reference capture become the set of the next admitted page; a set that fails the defect test
leaves the previous one in use: false (R140 to R143).  None when no capture runs or its lines are not the
discarded 16 and those that REF_LINES asks for, three sub-lines each in sequential mode. -/
def Chip.captureRefs (c : Chip) (n : Nat) (w : CaptureIn) (digest : List Byte) : Chip × Option Bool :=
  let lines := c.captureLines n
  if !(c.stream n).capturing || decide (w.black.length ≠ lines ∨ w.white.length ≠ lines) then (c, none)
  else
    let r := c.deriveRefs n (lines - 16) ⟨w.black.drop 16, w.white.drop 16⟩
    let c := c.captureOver n
    if c.defectRun n r then (c, some false)
    else (c.modStream n (fun s => { s with nextRefs := some r, refDigest := digest }), some true)

end Sys2Proof.Machine
end

