-- ==== Sys2Proof/Machine/Codecs.lean ====
section
/-!
DEFINITION. The bilevel and DEFLATE decoders of chapter 6 with the damage they find and conceal (R179, R180, R184,
R186, R187).
-/

namespace Sys2Proof.Machine

/-- A decoded image: per plane the samples line by line, each with the damage entries that filled it; and the
entries' kind (Table 6-8) and byte offset. -/
structure Pic where
  planes : List (List (Nat × List Nat))
  dmg : List (Nat × Nat)
  deriving DecidableEq, Repr

/-- The bits still to be read and how many have been read. -/
structure BitRd where
  bits : List Bool
  pos : Nat
  deriving DecidableEq, Repr

/-- Bits of a byte string, most significant first. -/
def msbBits (l : List Byte) : List Bool := l.flatMap (fun b => (List.range 8).map (fun i => bitOf b.toNat (7 - i)))

/-- Bits of a byte string, least significant first. -/
def lsbBits (l : List Byte) : List Bool := l.flatMap (fun b => (List.range 8).map (fun i => bitOf b.toNat i))

/-- What reading a code gives: its value, an illegal code with the bits read up to it, or the end of the bits. -/
inductive Look where
  | ok (v : Nat) (r : BitRd)
  | bad (pos : Nat)
  | more
  deriving DecidableEq, Repr

/-- Reads one code of a prefix code given as (length, code, value), most significant bit first. -/
def lookCode (tab : List (Nat × Nat × Nat)) : Nat → Nat → Nat → BitRd → Look
  | 0, _, _, r => .bad r.pos
  | f + 1, len, code, r =>
    match r.bits with
    | [] => .more
    | b :: rest =>
      let code := 2 * code + b2n b
      let len := len + 1
      let r : BitRd := ⟨rest, r.pos + 1⟩
      match tab.find? (fun e => e.1 = len ∧ e.2.1 = code) with
      | some e => .ok e.2.2 r
      | none =>
        if tab.any (fun e => e.1 > len ∧ e.2.1 / 2 ^ (e.1 - len) = code) then lookCode tab f len code r else .bad r.pos

/-- Byte of the last bit read. -/
def lastByte (pos : Nat) : Nat := (pos - 1) / 8

/-- The most frequent of 8-bit values, ties to the higher, 255 of none (R187). -/
def modeOf (l : List Nat) : Nat :=
  ((List.range 256).foldl (fun (best : Nat × Nat) v =>
    let n := l.count v
    if n > 0 ∧ n ≥ best.1 then (n, v) else best) (0, 255)).2

/-! ## ITU-T T.4 and T.6 -/

/-- White runs of ITU-T T.4: code length, code, run (PRESUMED from the standard that Table 6-6 names).
(PRESUMED, log entry 14) -/
def faxWhite : List (Nat × Nat × Nat) :=
  [(8, 53, 0), (6, 7, 1), (4, 7, 2), (4, 8, 3), (4, 11, 4), (4, 12, 5), (4, 14, 6), (4, 15, 7), (5, 19, 8), (5,
   20, 9), (5, 7, 10), (5, 8, 11), (6, 8, 12), (6, 3, 13), (6, 52, 14), (6, 53, 15)] ++
  [(6, 42, 16), (6, 43, 17), (7, 39, 18), (7, 12, 19), (7, 8, 20), (7, 23, 21), (7, 3, 22), (7, 4, 23), (7, 40,
   24), (7, 43, 25), (7, 19, 26), (7, 36, 27), (7, 24, 28), (8, 2, 29), (8, 3, 30), (8, 26, 31)] ++
  [(8, 27, 32), (8, 18, 33), (8, 19, 34), (8, 20, 35), (8, 21, 36), (8, 22, 37), (8, 23, 38), (8, 40, 39), (8,
   41, 40), (8, 42, 41), (8, 43, 42), (8, 44, 43), (8, 45, 44), (8, 4, 45), (8, 5, 46), (8, 10, 47)] ++
  [(8, 11, 48), (8, 82, 49), (8, 83, 50), (8, 84, 51), (8, 85, 52), (8, 36, 53), (8, 37, 54), (8, 88, 55), (8,
   89, 56), (8, 90, 57), (8, 91, 58), (8, 74, 59), (8, 75, 60), (8, 50, 61), (8, 51, 62), (8, 52, 63)] ++
  [(5, 27, 64), (5, 18, 128), (6, 23, 192), (7, 55, 256), (8, 54, 320), (8, 55, 384), (8, 100, 448), (8, 101,
   512), (8, 104, 576), (8, 103, 640), (9, 204, 704), (9, 205, 768), (9, 210, 832), (9, 211, 896), (9, 212,
   960), (9, 213, 1024)] ++
  [(9, 214, 1088), (9, 215, 1152), (9, 216, 1216), (9, 217, 1280), (9, 218, 1344), (9, 219, 1408), (9, 152,
   1472), (9, 153, 1536), (9, 154, 1600), (6, 24, 1664), (9, 155, 1728)]

/-- Black runs of ITU-T T.4. (PRESUMED, log entry 14) -/
def faxBlack : List (Nat × Nat × Nat) :=
  [(10, 55, 0), (3, 2, 1), (2, 3, 2), (2, 2, 3), (3, 3, 4), (4, 3, 5), (4, 2, 6), (5, 3, 7), (6, 5, 8), (6, 4,
   9), (7, 4, 10), (7, 5, 11), (7, 7, 12), (8, 4, 13), (8, 7, 14), (9, 24, 15)] ++
  [(10, 23, 16), (10, 24, 17), (10, 8, 18), (11, 103, 19), (11, 104, 20), (11, 108, 21), (11, 55, 22), (11, 40,
   23), (11, 23, 24), (11, 24, 25), (12, 202, 26), (12, 203, 27), (12, 204, 28), (12, 205, 29), (12, 104, 30),
   (12, 105, 31)] ++
  [(12, 106, 32), (12, 107, 33), (12, 210, 34), (12, 211, 35), (12, 212, 36), (12, 213, 37), (12, 214, 38),
   (12, 215, 39), (12, 108, 40), (12, 109, 41), (12, 218, 42), (12, 219, 43), (12, 84, 44), (12, 85, 45), (12,
   86, 46), (12, 87, 47)] ++
  [(12, 100, 48), (12, 101, 49), (12, 82, 50), (12, 83, 51), (12, 36, 52), (12, 55, 53), (12, 56, 54), (12, 39,
   55), (12, 40, 56), (12, 88, 57), (12, 89, 58), (12, 43, 59), (12, 44, 60), (12, 90, 61), (12, 102, 62), (12,
   103, 63)] ++
  [(10, 15, 64), (12, 200, 128), (12, 201, 192), (12, 91, 256), (12, 51, 320), (12, 52, 384), (12, 53, 448),
   (13, 108, 512), (13, 109, 576), (13, 74, 640), (13, 75, 704), (13, 76, 768), (13, 77, 832), (13, 114, 896),
   (13, 115, 960), (13, 116, 1024)] ++
  [(13, 117, 1088), (13, 118, 1152), (13, 119, 1216), (13, 82, 1280), (13, 83, 1344), (13, 84, 1408), (13, 85,
   1472), (13, 90, 1536), (13, 91, 1600), (13, 100, 1664), (13, 101, 1728)]

/-- Make-up codes of both colours. (PRESUMED, log entry 14) -/
def faxLong : List (Nat × Nat × Nat) :=
  [(11, 8, 1792), (11, 12, 1856), (11, 13, 1920), (12, 18, 1984), (12, 19, 2048), (12, 20, 2112), (12, 21,
   2176), (12, 22, 2240), (12, 23, 2304), (12, 28, 2368), (12, 29, 2432), (12, 30, 2496), (12, 31, 2560)]

/-- Mode codes of two-dimensional coding: 0 pass, 1 horizontal, 5 + d vertical by d.  The extension codes are not
among them (R180). (PRESUMED, log entry 14) -/
def faxModes : List (Nat × Nat × Nat) :=
  [(4, 1, 0), (3, 1, 1), (1, 1, 5), (3, 3, 6), (6, 3, 7), (7, 3, 8), (3, 2, 4), (6, 2, 3), (7, 2, 2)]

/-- One run of a colour: make-up codes, then a terminating code. -/
def faxRun (black : Bool) : Nat → Nat → BitRd → Look
  | 0, _, r => .bad r.pos
  | f + 1, acc, r =>
    match lookCode ((if black then faxBlack else faxWhite) ++ faxLong) 14 0 0 r with
    | .ok run r => if run < 64 then .ok (acc + run) r else faxRun black f (acc + run) r
    | .bad p => .bad p
    | .more => .more

/-- Reads fill bits and an EOL; none when another code comes first or the bits end. -/
def skipEol : Nat → Nat → List Bool → Option BitRd
  | _, _, [] => none
  | z, p, false :: r => skipEol (z + 1) (p + 1) r
  | z, p, true :: r => if z ≥ 11 then some ⟨r, p + 1⟩ else none

/-- Finds the next EOL anywhere. -/
def findEol : Nat → Nat → List Bool → Option BitRd
  | _, _, [] => none
  | z, p, false :: r => findEol (z + 1) (p + 1) r
  | z, p, true :: r => if z ≥ 11 then some ⟨r, p + 1⟩ else findEol 0 (p + 1) r

/-- How a line ended: whole, damaged with kind and byte offset, or at the end of the bits. -/
inductive LineEnd where
  | ok
  | dmg (kind off : Nat)
  | cut
  deriving DecidableEq, Repr

/-- A line as far as it was decoded: pixels newest first (true is black), their count, the reader, the end. -/
structure FaxLine where
  px : List Bool
  n : Nat
  r : BitRd
  stop : LineEnd
  deriving DecidableEq, Repr

/-- No code begins here: an EOL inside a line makes it too short, zeros to the end cut it off. -/
def zerosHere (r : BitRd) : Option LineEnd :=
  if (r.bits.take 11).all (! ·) then
    (match skipEol 0 r.pos r.bits with
     | some _ => some (.dmg 2 (r.pos / 8))
     | none => if r.bits.all (! ·) then some .cut else none)
  else none

/-- One-dimensional coding of a line of `w` pixels. -/
def faxLine1 (w : Nat) : Nat → Bool → List Bool → Nat → BitRd → FaxLine
  | 0, _, px, n, r => ⟨px, n, r, .cut⟩
  | f + 1, black, px, n, r =>
    if n ≥ w then ⟨px, n, r, .ok⟩
    else
      match zerosHere r with
      | some e => ⟨px, n, r, e⟩
      | none =>
        match faxRun black (r.bits.length + 1) 0 r with
        | .bad p => ⟨px, n, r, .dmg 1 (lastByte p)⟩
        | .more => ⟨px, n, r, .cut⟩
        | .ok run r' =>
          if n + run > w then ⟨px, n, r, .dmg 2 (lastByte r'.pos)⟩
          else faxLine1 w f (!black) (List.replicate run black ++ px) (n + run) r'

/-- Changing elements of a line (ITU-T T.4). -/
def faxChanges : Nat → Bool → List Bool → List Nat
  | _, _, [] => []
  | i, prev, b :: r => if b = prev then faxChanges (i + 1) b r else i :: faxChanges (i + 1) b r

/-- b1 and b2 of the reference line for the position after a0 and the colour of the run. -/
def faxB (w : Nat) (chg : List Nat) (fresh : Bool) (n : Nat) (black : Bool) : Nat × Nat :=
  match (chg.zipIdx).find? (fun e => (if fresh then true else decide (e.1 > n)) && (e.2 % 2 == b2n black)) with
  | some e => (e.1, chg.getD (e.2 + 1) w)
  | none => (w, w)

/-- Two-dimensional coding of a line. -/
def faxLine2 (w : Nat) (chg : List Nat) : Nat → Bool → Bool → List Bool → Nat → BitRd → FaxLine
  | 0, _, _, px, n, r => ⟨px, n, r, .cut⟩
  | f + 1, fresh, black, px, n, r =>
    if n ≥ w then ⟨px, n, r, .ok⟩
    else
      match zerosHere r with
      | some e => ⟨px, n, r, e⟩
      | none =>
        match lookCode faxModes 8 0 0 r with
        | .bad p => ⟨px, n, r, .dmg 1 (lastByte p)⟩
        | .more => ⟨px, n, r, .cut⟩
        | .ok m r' =>
          let b := faxB w chg fresh n black
          if m = 0 then faxLine2 w chg f false black (List.replicate (b.2 - n) black ++ px) b.2 r'
          else if m = 1 then
            match faxRun black (r'.bits.length + 1) 0 r' with
            | .bad p => ⟨px, n, r, .dmg 1 (lastByte p)⟩
            | .more => ⟨px, n, r, .cut⟩
            | .ok x r2 =>
              match faxRun (!black) (r2.bits.length + 1) 0 r2 with
              | .bad p => ⟨px, n, r, .dmg 1 (lastByte p)⟩
              | .more => ⟨px, n, r, .cut⟩
              | .ok y r3 =>
                if n + x + y > w then ⟨px, n, r, .dmg 2 (lastByte r3.pos)⟩
                else faxLine2 w chg f false black (List.replicate y (!black) ++ (List.replicate x black ++ px)) (n + x + y) r3
          else
            if b.1 + m < n + 5 then ⟨px, n, r, .dmg 1 (lastByte r'.pos)⟩
            else
              let a1 := b.1 + m - 5
              if a1 > w then ⟨px, n, r, .dmg 2 (lastByte r'.pos)⟩
              else faxLine2 w chg f false (!black) (List.replicate (a1 - n) black ++ px) a1 r'

/-- A decoded row with the rest filled by an entry (R179, R187). -/
def faxRow (w e : Nat) (l : FaxLine) : List (Nat × List Nat) :=
  l.px.reverse.map (fun b => (if b then 0 else 255, [])) ++ List.replicate (w - l.n) (255, [e])

/-- A row filled by an entry. -/
def faxFill (w e : Nat) : List (Nat × List Nat) := List.replicate w (255, [e])

/-- Rows newest first, and the damage so far. -/
structure FaxOut where
  rows : List (List (Nat × List Nat))
  dmg : List (Nat × Nat)
  deriving DecidableEq, Repr

/-- The remaining rows are filled by entry `e`. -/
def FaxOut.fillFrom (o : FaxOut) (w h e : Nat) : FaxOut :=
  { o with rows := List.replicate (h - o.rows.length) (faxFill w e) ++ o.rows }

/-- The image bytes end here: kind truncated, the remaining rows filled. -/
def FaxOut.truncate (o : FaxOut) (w h off : Nat) : FaxOut :=
  { (o.fillFrom w h o.dmg.length) with dmg := o.dmg ++ [(3, off)] }

/-- `k` more EOLs follow, each with its tag bit in MR. -/
def eolsFollow (mr : Bool) : Nat → BitRd → Option BitRd
  | 0, r => some r
  | k + 1, r =>
    match skipEol 0 r.pos r.bits with
    | some r => eolsFollow mr k (if mr then ⟨r.bits.drop 1, r.pos + 1⟩ else r)
    | none => none

/-- The end of an image whose rows are complete: an end code, excess, or truncation (R179, Table 6-8).
(DEDUCED, log entry 15) -/
def faxEnd (o : FaxOut) (len : Nat) (r : BitRd) (stop : Option BitRd) : FaxOut :=
  match stop with
  | some r => if (r.pos + 7) / 8 < len then { o with dmg := o.dmg ++ [(5, (r.pos + 7) / 8)] } else o
  | none =>
    if r.bits.all (! ·) then { o with dmg := o.dmg ++ [(3, len)] } else { o with dmg := o.dmg ++ [(5, r.pos / 8)] }

/-- Resumption after damage: the next EOL in MH; in MR the next whose tag marks one-dimensional coding, every
two-dimensional line before it filled (Table 6-9). (DEDUCED, log entry 15) -/
def faxResync (w h e : Nat) (mr : Bool) : Nat → FaxOut → BitRd → FaxOut × BitRd
  | 0, o, r => (o, r)
  | f + 1, o, r =>
    match findEol 0 r.pos r.bits with
    | none => (o, ⟨[], r.pos⟩)
    | some r =>
      if !mr then (o, r)
      else
        match r.bits with
        | [] => (o, r)
        | true :: rest => (o, ⟨rest, r.pos + 1⟩)
        | false :: rest =>
          let o := if o.rows.length < h then { o with rows := faxFill w e :: o.rows } else o
          faxResync w h e mr f o ⟨rest, r.pos + 1⟩

/-- T.4: line after line, each ended by an EOL. (DEDUCED, log entry 15) -/
def t4Loop (w h len : Nat) (mr : Bool) : Nat → List Bool → Bool → FaxOut → BitRd → FaxOut
  | 0, _, _, o, _ => o.truncate w h len
  | f + 1, ref, two, o, r =>
    if o.rows.length ≥ h then faxEnd o len r (eolsFollow mr 5 r)
    else
      match eolsFollow mr 5 r with
      | some _ => o.truncate w h (r.pos / 8)
      | none =>
        if r.bits.all (! ·) then o.truncate w h len
        else
          let l := if two then faxLine2 w (faxChanges 0 false ref) (r.bits.length + 1) true false [] 0 r
            else faxLine1 w (r.bits.length + 1) false [] 0 r
          let e := o.dmg.length
          let o := { o with rows := faxRow w e l :: o.rows }
          match l.stop with
          | .cut => o.truncate w h len
          | .dmg k off =>
            let x := faxResync w h e mr (r.bits.length + 1) { o with dmg := o.dmg ++ [(k, off)] } l.r
            t4Loop w h len mr f [] false x.1 x.2
          | .ok =>
            match skipEol 0 l.r.pos l.r.bits with
            | some r2 =>
              if mr then
                (match r2.bits with
                 | [] => t4Loop w h len mr f l.px.reverse false o r2
                 | t :: rest => t4Loop w h len mr f l.px.reverse (!t) o ⟨rest, r2.pos + 1⟩)
              else t4Loop w h len mr f l.px.reverse false o r2
            | none =>
              if l.r.bits.all (! ·) then t4Loop w h len mr f [] false o ⟨[], l.r.pos⟩
              else
                let x := faxResync w h e mr (r.bits.length + 1) { o with dmg := o.dmg ++ [(2, l.r.pos / 8)] } l.r
                t4Loop w h len mr f [] false x.1 x.2

/-- T.6: every line two-dimensional, EOFB at the end. (DEDUCED, log entry 15) -/
def t6Loop (w h len : Nat) : Nat → List Bool → FaxOut → BitRd → FaxOut
  | 0, _, o, _ => o.truncate w h len
  | f + 1, ref, o, r =>
    if o.rows.length ≥ h then faxEnd o len r (eolsFollow false 2 r)
    else
      match eolsFollow false 2 r with
      | some _ => o.truncate w h (r.pos / 8)
      | none =>
        let l := faxLine2 w (faxChanges 0 false ref) (r.bits.length + 1) true false [] 0 r
        let e := o.dmg.length
        let o := { o with rows := faxRow w e l :: o.rows }
        match l.stop with
        | .ok => t6Loop w h len f l.px.reverse o l.r
        | .cut => o.truncate w h len
        | .dmg k off => { (o.fillFrom w h e) with dmg := o.dmg ++ [(k, off)] }

/-- A bilevel image of codec 1 (T.4) or 2 (T.6). -/
def decodeFax (t6 mr : Bool) (w h : Nat) (d : List Byte) : Pic :=
  let r : BitRd := ⟨msbBits d, 0⟩
  let o :=
    if t6 then t6Loop w h d.length (h + 1) [] ⟨[], []⟩ r
    else
      match skipEol 0 0 r.bits with
      | some r =>
        (match mr, r.bits with
         | true, t :: rest => t4Loop w h d.length mr (h + 1) [] (!t) ⟨[], []⟩ ⟨rest, r.pos + 1⟩
         | _, _ => t4Loop w h d.length mr (h + 1) [] false ⟨[], []⟩ r)
      | none => t4Loop w h d.length mr (h + 1) [] false ⟨[], []⟩ r
  ⟨[o.rows.reverse.flatten], o.dmg⟩

/-! ## DEFLATE -/

/-- Reads `n` bits as a number, least significant first. -/
def takeBits (n : Nat) (r : BitRd) : Look :=
  if r.bits.length < n then .more
  else .ok (((r.bits.take n).zipIdx).foldl (fun a e => a + b2n e.1 * 2 ^ e.2) 0) ⟨r.bits.drop n, r.pos + n⟩

/-- Codes of one length: the first code and the symbols (RFC 1951, 3.2.2). -/
def canonFrom (lens : List Nat) : Nat → Nat → Nat → List (Nat × Nat × Nat)
  | 0, _, _ => []
  | f + 1, len, code =>
    let syms := ((lens.zipIdx).filter (fun e => e.1 = len)).map (·.2)
    (syms.zipIdx).map (fun e => (len, code + e.2, e.1)) ++ canonFrom lens f (len + 1) (2 * (code + syms.length))

/-- The code of a list of code lengths. -/
def canon (lens : List Nat) : List (Nat × Nat × Nat) := canonFrom lens 15 1 0

/-- More codes than a length can hold. -/
def overFull (tab : List (Nat × Nat × Nat)) : Bool := tab.any (fun e => e.2.1 ≥ 2 ^ e.1)

/-- The fixed codes. -/
def fixedLit : List (Nat × Nat × Nat) :=
  canon (List.replicate 144 8 ++ List.replicate 112 9 ++ List.replicate 24 7 ++ List.replicate 8 8)
/-- The fixed distance code. -/
def fixedDist : List (Nat × Nat × Nat) := canon (List.replicate 32 5)

/-- Base and extra bits of a length symbol, counted from 257. -/
def lenBase (k : Nat) : Nat × Nat :=
  if k < 8 then (3 + k, 0) else if k = 28 then (258, 0) else (3 + (4 + k % 4) * 2 ^ (k / 4 - 1), k / 4 - 1)

/-- Base and extra bits of a distance symbol. -/
def distBase (d : Nat) : Nat × Nat :=
  if d < 4 then (1 + d, 0) else (1 + (2 + d % 2) * 2 ^ (d / 2 - 1), d / 2 - 1)

/-- Output so far, newest first, and the reader. -/
structure Infl where
  out : List Nat
  n : Nat
  r : BitRd
  deriving DecidableEq, Repr

/-- How inflating ended: the block's end, an illegal symbol, the end of the bytes, output beyond the limit. -/
inductive InflEnd where
  | block
  | bad (pos : Nat)
  | more
  | full (pos : Nat)
  deriving DecidableEq, Repr

/-- Copies `k` bytes from distance `d`. -/
def copyBack (d : Nat) : Nat → List Nat → List Nat
  | 0, l => l
  | k + 1, l => copyBack d k (nth l (d - 1) 0 :: l)

/-- The symbols of one compressed block. -/
def inflSyms (lit dist : List (Nat × Nat × Nat)) (limit : Nat) : Nat → Infl → Infl × InflEnd
  | 0, s => (s, .bad s.r.pos)
  | f + 1, s =>
    match lookCode lit 16 0 0 s.r with
    | .bad p => (s, .bad p)
    | .more => (s, .more)
    | .ok sym r =>
      if sym < 256 then
        if s.n ≥ limit then (s, .full r.pos) else inflSyms lit dist limit f ⟨sym :: s.out, s.n + 1, r⟩
      else if sym = 256 then ({ s with r := r }, .block)
      else if sym > 285 then (s, .bad r.pos)
      else
        let lb := lenBase (sym - 257)
        match takeBits lb.2 r with
        | .ok x r =>
          (match lookCode dist 16 0 0 r with
           | .bad p => (s, .bad p)
           | .more => (s, .more)
           | .ok d r =>
             if d > 29 then (s, .bad r.pos)
             else
               let db := distBase d
               match takeBits db.2 r with
               | .ok y r =>
                 let len := lb.1 + x
                 let back := db.1 + y
                 if back > s.n then (s, .bad r.pos)
                 else
                   let k := Nat.min len (limit - s.n)
                   let s' : Infl := ⟨copyBack back k s.out, s.n + k, r⟩
                   if k < len then (s', .full r.pos) else inflSyms lit dist limit f s'
               | _ => (s, .more))
        | _ => (s, .more)

/-- Code lengths of a dynamic block (RFC 1951, 3.2.7). -/
def inflLens (cl : List (Nat × Nat × Nat)) (total : Nat) : Nat → List Nat → BitRd → Option (List Nat) × BitRd × InflEnd
  | 0, _, r => (none, r, .bad r.pos)
  | f + 1, acc, r =>
    if acc.length = total then (some acc, r, .block)
    else if acc.length > total then (none, r, .bad r.pos)
    else
      match lookCode cl 8 0 0 r with
      | .bad p => (none, r, .bad p)
      | .more => (none, r, .more)
      | .ok sym r =>
        if sym < 16 then inflLens cl total f (acc ++ [sym]) r
        else
          let bits := if sym = 16 then 2 else if sym = 17 then 3 else 7
          let base := if sym = 18 then 11 else 3
          match takeBits bits r with
          | .ok x r =>
            if sym = 16 ∧ acc = [] then (none, r, .bad r.pos)
            else inflLens cl total f (acc ++ List.replicate (base + x) (if sym = 16 then acc.getLastD 0 else 0)) r
          | _ => (none, r, .more)

/-- Three-bit lengths of the code length code. -/
def clLens : Nat → BitRd → Option (List Nat × BitRd)
  | 0, r => some ([], r)
  | k + 1, r =>
    match takeBits 3 r with
    | .ok x r => (clLens k r).map (fun e => (x :: e.1, e.2))
    | _ => none

/-- Order of the code length code's lengths. -/
def clOrder : List Nat := [16, 17, 18, 0, 8, 7, 9, 6, 10, 5, 11, 4, 12, 3, 13, 2, 14, 1, 15]

/-- The codes of a dynamic block. -/
def inflHead (r : BitRd) : Option ((List (Nat × Nat × Nat)) × (List (Nat × Nat × Nat))) × BitRd × InflEnd :=
  match takeBits 14 r with
  | .ok h r =>
    let hlit := h % 32 + 257
    let hdist := h / 32 % 32 + 1
    let hclen := h / 1024 + 4
    if hlit > 286 ∨ hdist > 30 then (none, r, .bad r.pos)
    else
      match clLens hclen r with
      | none => (none, r, .more)
      | some (ls, r) =>
        let lens := (List.range 19).map (fun k => ((clOrder.zip ls).find? (fun e => e.1 = k)).elim 0 (·.2))
        let cl := canon lens
        if overFull cl then (none, r, .bad r.pos)
        else
          match inflLens cl (hlit + hdist) 400 [] r with
          | (some l, r, _) =>
            let lit := canon (l.take hlit)
            let dist := canon (l.drop hlit)
            if overFull lit || overFull dist then (none, r, .bad r.pos) else (some (lit, dist), r, .block)
          | (none, r, e) => (none, r, e)
  | _ => (none, r, .more)

/-- A stored block. -/
def inflStored (limit : Nat) (s : Infl) : Infl × InflEnd :=
  let pad := (8 - s.r.pos % 8) % 8
  let r : BitRd := ⟨s.r.bits.drop pad, s.r.pos + pad⟩
  match takeBits 32 r with
  | .ok x r =>
    let len := x % 65536
    if len + x / 65536 ≠ 65535 then ({ s with r := r }, .bad r.pos)
    else
      let have_ := Nat.min len (r.bits.length / 8)
      let k := Nat.min have_ (limit - s.n)
      let bytes := (chunksOf 8 k r.bits).map (fun b => ((b.zipIdx).foldl (fun a e => a + b2n e.1 * 2 ^ e.2) 0))
      let s' : Infl := ⟨bytes.reverse ++ s.out, s.n + k, ⟨r.bits.drop (8 * k), r.pos + 8 * k⟩⟩
      if k < have_ then (s', .full (s'.r.pos + 8)) else if have_ < len then (s', .more) else (s', .block)
  | _ => (s, .more)

/-- All blocks; the flag tells whether the final block has ended. -/
def inflBlocks (limit : Nat) : Nat → Infl → Infl × InflEnd
  | 0, s => (s, .more)
  | f + 1, s =>
    match takeBits 3 s.r with
    | .ok h r =>
      let s := { s with r := r }
      let x : Infl × InflEnd :=
        if h / 2 = 0 then inflStored limit s
        else if h / 2 = 1 then inflSyms fixedLit fixedDist limit (r.bits.length + 1) s
        else if h / 2 = 2 then
          (match inflHead r with
           | (some t, r, _) => inflSyms t.1 t.2 limit (r.bits.length + 1) { s with r := r }
           | (none, r, e) => ({ s with r := r }, e))
        else (s, .bad r.pos)
      match x.2 with
      | .block => if h % 2 = 1 then x else inflBlocks limit f x.1
      | _ => x
    | _ => (s, .more)

/-- The planes of a DEFLATE image, the samples that were not decoded filled by entry 0 (R184, R187). -/
def deflPlanes (size planes : Nat) (out : List Nat) : List (List (Nat × List Nat)) :=
  (List.range planes).map (fun p =>
    let mine := (out.drop (p * size)).take size
    mine.map (fun v => (v, [])) ++ List.replicate (size - mine.length) (modeOf mine, [0]))

/-- A DEFLATE image of raw planes (codec 4). (DEDUCED, log entry 15) -/
def decodeDeflate (w h planes : Nat) (d : List Byte) : Pic :=
  let limit := w * h * planes
  let x := inflBlocks limit (8 * d.length + 1) ⟨[], 0, ⟨lsbBits d, 0⟩⟩
  let s := x.1
  let full := decide (s.n ≥ limit)
  let tail := (s.r.pos + 7) / 8
  let dmg : List (Nat × Nat) :=
    match x.2 with
    | .block => (if full then [] else [(3, tail)]) ++ (if tail < d.length then [(5, tail)] else [])
    | .bad p => [(1, lastByte p)]
    | .more => [(3, d.length)]
    | .full p => [(5, lastByte p)]
  ⟨deflPlanes (w * h) planes s.out.reverse, dmg⟩

end Sys2Proof.Machine
end

