-- ==== Sys2Proof/Machine/Jpeg.lean ====
section
/-!
DEFINITION. The JPEG decoder of chapter 6: the pre-scan of check 7, entropy decoding, the fixed inverse transform and
colour conversion, damage and resumption (R181 to R183, R186, R187).
-/

namespace Sys2Proof.Machine

/-- A frame component: identifier, horizontal and vertical sampling, quantisation table. -/
structure JComp where
  id : Nat
  hs : Nat
  vs : Nat
  tq : Nat
  deriving DecidableEq, Repr

/-- A frame. -/
structure JFrame where
  w : Nat
  h : Nat
  comps : List JComp
  deriving DecidableEq, Repr

/-- Why a header is refused (Table 6-5). -/
inductive HdrErr where
  | badContainer
  | header
  | unsupported
  | tooLarge
  | tooWide
  | expansion
  | mismatch
  | noBuffer
  deriving DecidableEq, Repr

/-- The outcome of examining a header. -/
inductive Pre (α : Type) where
  | ok (v : α)
  | bad (e : HdrErr)
  | more
  deriving DecidableEq, Repr

/-- Sampling that R181 accepts. -/
def samplingOk (l : List JComp) : Bool :=
  match l with
  | [a] => a.hs == 1 && a.vs == 1
  | [a, b, c] =>
    (b.hs == 1 && b.vs == 1 && c.hs == 1 && c.vs == 1) &&
      ((a.hs == 1 && a.vs == 1) || (a.hs == 2 && a.vs == 1) || (a.hs == 2 && a.vs == 2))
  | _ => false

/-- A frame segment's contents. -/
def parseFrame (seg : List Byte) : Except HdrErr JFrame :=
  let b := fun i => (nth seg i 0).toNat
  let n := b 5
  if b 0 ≠ 8 then .error .unsupported
  else if n ≠ 1 ∧ n ≠ 3 then .error .unsupported
  else if seg.length ≠ 6 + 3 * n then .error .header
  else
    let h := b 1 * 256 + b 2
    let comps := (List.range n).map (fun i => (⟨b (6 + 3 * i), b (7 + 3 * i) / 16, b (7 + 3 * i) % 16, b (8 + 3 * i)⟩ : JComp))
    if h = 0 then .error .header
    else if !samplingOk comps then .error .unsupported
    else .ok ⟨b 3 * 256 + b 4, h, comps⟩

/-- A scan header: (component index, DC table, AC table) of each component. -/
def parseScan (f : JFrame) (seg : List Byte) : Except HdrErr (List (Nat × Nat × Nat)) :=
  let b := fun i => (nth seg i 0).toNat
  let n := b 0
  if n = 0 ∨ n > f.comps.length ∨ seg.length ≠ 4 + 2 * n then .error .header
  else if b (1 + 2 * n) ≠ 0 ∨ b (2 + 2 * n) ≠ 63 ∨ b (3 + 2 * n) ≠ 0 then .error .unsupported
  else
    let cs : List (Nat × Nat × Nat) := (List.range n).filterMap (fun i =>
      (f.comps.findIdx? (fun c => c.id = b (1 + 2 * i))).map (fun k => (k, b (2 + 2 * i) / 16, b (2 + 2 * i) % 16)))
    if cs.length = n ∧ (cs.map (fun (e : Nat × Nat × Nat) => e.1)).Nodup then .ok cs else .error .header

/-- Markers with a segment that Table 6-7 accepts: frame, tables, restart interval, scan, application data and comment. -/
def jpegSegment (m : Nat) : Bool :=
  decide (m = 0xC0 ∨ m = 0xC1 ∨ m = 0xC4 ∨ m = 0xDA ∨ m = 0xDB ∨ m = 0xDD ∨ (0xE0 ≤ m ∧ m ≤ 0xEF) ∨ m = 0xFE)

/-- Markers that Table 6-7 refuses as unsupported: every one that it does not accept. -/
def jpegRefused (m : Nat) : Bool :=
  !jpegSegment m && !decide (0xD0 ≤ m ∧ m ≤ 0xD9) && decide (m ≠ 0 ∧ m ≠ 0xFF)

/-- Whether the tables of a Huffman segment are among the 4 DC and 4 AC tables of Table 6-7. -/
def dhtOk : Nat → List Byte → Bool
  | 0, _ => true
  | _, [] => true
  | f + 1, p :: r =>
    decide (p.toNat / 16 ≤ 1 ∧ p.toNat % 16 ≤ 3) && dhtOk f (r.drop (16 + (r.take 16).foldl (fun a b => a + b.toNat) 0))

/-- Whether a quantisation segment holds a 16-bit table. -/
def dqtWide : Nat → List Byte → Bool
  | 0, _ => false
  | _, [] => false
  | f + 1, p :: r => if p.toNat / 16 = 0 then dqtWide f (r.drop 64) else true

/-- The length of a marker segment and its contents. -/
def jpegSeg (l : List Byte) : Pre (List Byte × List Byte) :=
  match l with
  | a :: b :: r =>
    let n := a.toNat * 256 + b.toNat
    if n < 2 then .bad .header else if r.length < n - 2 then .more else .ok (r.take (n - 2), r.drop (n - 2))
  | _ => .more

/-- The pre-scan of check 7: marker segments up to the first SOS. -/
def jpegPre : Nat → Bool → Option (JFrame × Bool) → Bool → List Byte → Pre JFrame
  | 0, _, _, _, _ => .more
  | f + 1, first, fr, wide, l =>
    match l with
    | [] => .more
    | [x] => if x = 0xFF then .more else .bad .header
    | x :: m :: r =>
      if x ≠ 0xFF then .bad .header
      else if m = 0xFF ∧ ¬ first then jpegPre f first fr wide (m :: r)
      else if first then (if m = 0xD8 then jpegPre f false fr wide r else .bad .header)
      else if jpegRefused m.toNat then .bad .unsupported
      else if jpegSegment m.toNat then
        match jpegSeg r with
        | .more => .more
        | .bad e => .bad e
        | .ok (seg, rest) =>
          if m = 0xC0 ∨ m = 0xC1 then
            if fr.isSome then .bad .unsupported
            else if wide ∧ m = 0xC0 then .bad .unsupported
            else
              match parseFrame seg with
              | .error e => .bad e
              | .ok g => jpegPre f false (some (g, m == 0xC0)) wide rest
          else if m = 0xDB then
            let wide := wide || dqtWide seg.length seg
            if wide && (match fr with | some (_, b) => b | none => false) then .bad .unsupported
            else jpegPre f false fr wide rest
          else if m = 0xC4 ∧ ¬ dhtOk seg.length seg then .bad .unsupported
          else if m = 0xDA then
            match fr with
            | none => .bad .header
            | some (g, _) =>
              match parseScan g seg with
              | .error e => .bad e
              | .ok _ => .ok g
          else jpegPre f false fr wide rest
      else .bad .header

/-! ## Decoding -/

/-- Zigzag order: the natural index of each coefficient. -/
def zigzag : List Nat :=
  [0, 1, 8, 16, 9, 2, 3, 10, 17, 24, 32, 25, 18, 11, 4, 5, 12, 19, 26, 33, 40, 48, 41, 34, 27, 20, 13, 6, 7, 14, 21, 28] ++
  [35, 42, 49, 56, 57, 50, 43, 36, 29, 22, 15, 23, 30, 37, 44, 51, 58, 59, 52, 45, 38, 31, 39, 46, 53, 60, 61, 54, 47, 55, 62, 63]

/-- The constants K[x][u] of the inverse transform. -/
def idctK : List (List Int) :=
  [[2896, 4017, 3784, 3406, 2896, 2276, 1567, 799], [2896, 3406, 1567, -799, -2896, -4017, -3784, -2276],
   [2896, 2276, -1567, -4017, -2896, 799, 3784, 3406], [2896, 799, -3784, -2276, 2896, 3406, -1567, -4017],
   [2896, -799, -3784, 2276, 2896, -3406, -1567, 4017], [2896, -2276, -1567, 4017, -2896, -799, 3784, -3406],
   [2896, -3406, 1567, 799, -2896, 4017, -3784, 2276], [2896, -4017, 3784, -3406, 2896, -2276, 1567, -799]]

/-- A dot product. -/
def dotI (a b : List Int) : Int := (a.zipWith (· * ·) b).foldl (· + ·) 0

/-- The inverse transform of 64 dequantised coefficients F[v][u], row by row. -/
def idct (f : List Int) : List Nat :=
  let col := fun u => (List.range 8).map (fun v => nth f (8 * v + u) 0)
  -- t[y][u]
  let t := idctK.map (fun ky => (List.range 8).map (fun u => rnaDiv (dotI ky (col u)) (2 ^ 11)))
  t.flatMap (fun ty => idctK.map (fun kx => (clampInt 0 255 (rnaDiv (dotI kx ty) (2 ^ 15) + 128)).toNat))

/-- Colour conversion (R183). -/
def ycc (y cb cr : Nat) : List Nat :=
  let d : Int := (cb : Int) - 128
  let e : Int := (cr : Int) - 128
  let cl := fun (x : Int) => (clampInt 0 255 x).toNat
  [cl (y + rnaDiv (91881 * e) 65536), cl (y - rnaDiv (22554 * d + 46802 * e) 65536), cl (y + rnaDiv (116130 * d) 65536)]

/-- A block of a component: decoded at a time, or filled by a damage entry. -/
inductive JBlk where
  | px (t : Nat) (v : List Nat)
  | fill (e : Nat)
  deriving DecidableEq, Repr

/-- Decoder state: tables by number, restart interval, blocks by component, what the markers have said, MCUs so far, damage
with its time. -/
structure JSt where
  qt : List (Nat × List Nat)
  dc : List (Nat × List (Nat × Nat × Nat))
  ac : List (Nat × List (Nat × Nat × Nat))
  dri : Nat
  blocks : List (SMap (Option JBlk))
  /-- Whether the frame is baseline, and whether a scan has begun. -/
  base : Bool
  scans : Bool
  time : Nat
  dmg : List (Nat × Nat × Nat)
  deriving DecidableEq, Repr

/-- Records damage at the present time. -/
def JSt.hurt (s : JSt) (kind off : Nat) : JSt := { s with dmg := s.dmg ++ [(kind, off, s.time)] }

/-- Quantisation tables of a segment. -/
def addQt : Nat → List Byte → List (Nat × List Nat) → List (Nat × List Nat)
  | 0, _, q => q
  | _, [], q => q
  | f + 1, p :: r, q =>
    if p.toNat / 16 = 0 then addQt f (r.drop 64) ((p.toNat % 16, (r.take 64).map (·.toNat)) :: q)
    else addQt f (r.drop 128) ((p.toNat % 16, (chunksOf 2 64 r).map beNat) :: q)

/-- Code of the symbols by the counts per length. -/
def huffFrom : List Nat → Nat → Nat → List Nat → List (Nat × Nat × Nat)
  | [], _, _, _ => []
  | n :: ns, len, code, vals =>
    ((vals.take n).zipIdx).map (fun e => (len, code + e.2, e.1)) ++ huffFrom ns (len + 1) (2 * (code + n)) (vals.drop n)

/-- Huffman tables of a segment: DC and AC. -/
def addHuff : Nat → List Byte → JSt → JSt
  | 0, _, s => s
  | _, [], s => s
  | f + 1, p :: r, s =>
    let ns := (r.take 16).map (·.toNat)
    let n := ns.foldl (· + ·) 0
    let t := huffFrom ns 1 0 (((r.drop 16).take n).map (·.toNat))
    let s := if p.toNat / 16 = 0 then { s with dc := (p.toNat % 16, t) :: s.dc } else { s with ac := (p.toNat % 16, t) :: s.ac }
    addHuff f (r.drop (16 + n)) s

/-- Entropy-coded bytes up to the next marker, with their offsets, and what follows. -/
def entropy : List Byte → Nat → List (Byte × Nat) × List Byte × Nat
  | [], o => ([], [], o)
  | [b], o => if b = 0xFF then ([], [b], o) else ([(b, o)], [], o + 1)
  | a :: b :: r, o =>
    if a = 0xFF then
      if b = 0 then
        let x := entropy r (o + 2)
        ((a, o) :: x.1, x.2)
      else ([], a :: b :: r, o)
    else
      let x := entropy (b :: r) (o + 1)
      ((a, o) :: x.1, x.2)

/-- How a block or an MCU ended: whole, damage of a kind with bits read, or out of bits. -/
inductive JEnd where
  | ok
  | bad (kind pos : Nat)
  | more
  deriving DecidableEq, Repr

/-- A coefficient's value from its size and bits. -/
def jExtend (size v : Nat) : Int := if size = 0 then 0 else if v < 2 ^ (size - 1) then (v : Int) - 2 ^ size + 1 else v

/-- Reads `n` bits, most significant first. -/
def takeMsb (n : Nat) (r : BitRd) : Look :=
  if r.bits.length < n then .more
  else .ok ((r.bits.take n).foldl (fun a b => 2 * a + b2n b) 0) ⟨r.bits.drop n, r.pos + n⟩

/-- AC coefficients of a block from index `k` on: (zigzag index, value). -/
def jAc (tab : List (Nat × Nat × Nat)) : Nat → Nat → List (Nat × Int) → BitRd → List (Nat × Int) × BitRd × JEnd
  | 0, _, acc, r => (acc, r, .ok)
  | f + 1, k, acc, r =>
    if k > 63 then (acc, r, .ok)
    else
      match lookCode tab 17 0 0 r with
      | .bad p => (acc, r, .bad 1 p)
      | .more => (acc, r, .more)
      | .ok rs r =>
        let run := rs / 16
        let size := rs % 16
        if size = 0 then
          if run = 15 then (if k + 15 > 63 then (acc, r, .bad 2 r.pos) else jAc tab f (k + 16) acc r)
          else if run = 0 then (acc, r, .ok)
          else (acc, r, .bad 1 r.pos)
        else if size > 10 then (acc, r, .bad 1 r.pos)
        else if k + run > 63 then (acc, r, .bad 2 r.pos)
        else
          match takeMsb size r with
          | .ok v r => jAc tab f (k + run + 1) ((k + run, jExtend size v) :: acc) r
          | _ => (acc, r, .more)

/-- One block: its coefficients and the new DC prediction. -/
def jBlock (dc ac : Option (List (Nat × Nat × Nat))) (pred : Int) (r : BitRd) : List (Nat × Int) × Int × BitRd × JEnd :=
  match dc, ac with
  | some dc, some ac =>
    (match lookCode dc 17 0 0 r with
     | .bad p => ([], pred, r, .bad 1 p)
     | .more => ([], pred, r, .more)
     | .ok size r =>
       if size > 11 then ([], pred, r, .bad 1 r.pos)
       else
         match takeMsb size r with
         | .ok v r =>
           let p := pred + jExtend size v
           let x := jAc ac 64 1 [(0, p)] r
           (x.1, p, x.2.1, x.2.2)
         | _ => ([], pred, r, .more))
  | _, _ => ([], pred, r, .bad 1 (r.pos + 1))

/-- A table by its number. -/
def tabOf {α : Type} (l : List (Nat × α)) (k : Nat) : Option α := (l.find? (fun e => e.1 = k)).map (·.2)

/-- Geometry of a frame: largest sampling factors. -/
def JFrame.hmax (f : JFrame) : Nat := maxNat (f.comps.map (·.hs))
/-- Largest vertical sampling. -/
def JFrame.vmax (f : JFrame) : Nat := maxNat (f.comps.map (·.vs))
/-- MCUs across and down of an interleaved scan. -/
def JFrame.mcuX (f : JFrame) : Nat := ceilDiv f.w (8 * f.hmax)
/-- MCUs down. -/
def JFrame.mcuY (f : JFrame) : Nat := ceilDiv f.h (8 * f.vmax)
/-- Blocks per block row of a component. -/
def JFrame.stride (f : JFrame) (c : JComp) : Nat := f.mcuX * c.hs

/-- Blocks of MCU `k` of a scan: component index and block number. -/
def JFrame.mcu (f : JFrame) (scan : List (Nat × Nat × Nat)) (k : Nat) : List (Nat × Nat × Nat × Nat) :=
  match scan with
  | [(i, d, a)] =>
    (match f.comps[i]? with
     | some c =>
       let bw := ceilDiv (ceilDiv (f.w * c.hs) f.hmax) 8
       [(i, d, a, (k / bw) * f.stride c + k % bw)]
     | none => [])
  | _ =>
    scan.flatMap (fun (i, d, a) =>
      match f.comps[i]? with
      | some c =>
        (List.range c.vs).flatMap (fun y => (List.range c.hs).map (fun x =>
          (i, d, a, ((k / f.mcuX) * c.vs + y) * f.stride c + (k % f.mcuX) * c.hs + x)))
      | none => [])

/-- MCUs of a scan. -/
def JFrame.scanMcus (f : JFrame) (scan : List (Nat × Nat × Nat)) : Nat :=
  match scan with
  | [(i, _, _)] =>
    (match f.comps[i]? with
     | some c => ceilDiv (ceilDiv (f.w * c.hs) f.hmax) 8 * ceilDiv (ceilDiv (f.h * c.vs) f.vmax) 8
     | none => 0)
  | _ => f.mcuX * f.mcuY

/-- Sets a block. -/
def JSt.setBlk (s : JSt) (i b : Nat) (v : JBlk) : JSt :=
  { s with blocks := s.blocks.modify i (fun m => smSet none m b (some v)) }

/-- The MCUs from `a` up to `b` of a scan are filled by entry `e`. -/
def JSt.fillMcus (s : JSt) (f : JFrame) (scan : List (Nat × Nat × Nat)) (e a b : Nat) : JSt :=
  ((List.range b).drop a).foldl (fun s k =>
    (f.mcu scan k).foldl (fun s (x : Nat × Nat × Nat × Nat) => s.setBlk x.1 x.2.2.2 (.fill e)) s) s

/-- Decodes the blocks of one MCU; DC predictions by component. -/
def JSt.runMcu (s : JSt) (f : JFrame) (preds : List (Nat × Int)) (r : BitRd) :
    List (Nat × Nat × Nat × Nat) → JSt × List (Nat × Int) × BitRd × JEnd
  | [] => (s, preds, r, .ok)
  | (i, d, a, b) :: rest =>
    match (f.comps[i]?).bind (fun c => tabOf s.qt c.tq) with
    | none => (s, preds, r, .bad 1 (r.pos + 1))
    | some q =>
      let pred := (tabOf preds i).getD 0
      let x := jBlock (tabOf s.dc d) (tabOf s.ac a) pred r
      match x.2.2.2 with
      | .ok =>
        let co := x.1.foldl (fun (m : List Int) e => m.set (nth zigzag e.1 0) (e.2 * (nth q e.1 0))) (List.replicate 64 0)
        (s.setBlk i b (.px s.time (idct co))).runMcu f ((i, x.2.1) :: preds.filter (fun e => e.1 ≠ i)) x.2.2.1 rest
      | e => (s, preds, r, e)

/-- Decodes MCUs `k` to `stop` - 1; answers where it stopped. -/
def JSt.runMcus (f : JFrame) (scan : List (Nat × Nat × Nat)) (stop : Nat) :
    Nat → JSt → Nat → List (Nat × Int) → BitRd → JSt × Nat × JEnd
  | 0, s, k, _, _ => (s, k, .ok)
  | fuel + 1, s, k, preds, r =>
    if k ≥ stop then (s, k, .ok)
    else
      let x := s.runMcu f preds r (f.mcu scan k)
      match x.2.2.2 with
      | .ok => JSt.runMcus f scan stop fuel { x.1 with time := x.1.time + 1 } (k + 1) x.2.1 x.2.2.1
      | e => (s, k, e)

/-- The marker at the front. -/
def markerAt : List Byte → Option Nat
  | a :: b :: _ => if a = 0xFF then some b.toNat else none
  | _ => none

/-- The first marker from here on for which `sel` holds, with what follows it and the place of both; none with the end of the
bytes.  Markers between are passed over with what follows them. -/
def seekMarker (sel : Nat → Bool) : Nat → List Byte → Nat → Option Nat × List Byte × Nat
  | 0, l, o => (none, l, o)
  | f + 1, l, o =>
    match markerAt l with
    | some m =>
      if sel m then (some m, l, o)
      else
        let x := entropy (l.drop 2) (o + 2)
        seekMarker sel f x.2.1 x.2.2
    | none => (none, l, o)

/-- The next RST marker of the expected number within the scan, which ends at the next scan or at the image's end: what
follows it (R186, Table 6-9). (DEDUCED, log entry 15) -/
def findRst (n : Nat) (l : List Byte) (o : Nat) : Option (List Byte × Nat) :=
  let x := seekMarker (fun m => m = 0xD0 + n || m = 0xDA || m = 0xD9) (l.length + 1) l o
  if x.1 = some (0xD0 + n) then some (x.2.1.drop 2, x.2.2 + 2) else none

/-- Where the markers after a damaged scan begin: at the next one that Table 6-7 accepts, RST apart. -/
def scanEnd (l : List Byte) (o : Nat) : List Byte × Nat :=
  (seekMarker (fun m => m = 0xC4 || m = 0xDA || m = 0xDB || m = 0xDD || m = 0xD9 || m = 0xFE || (0xE0 ≤ m && m ≤ 0xEF))
    (l.length + 1) l o).2

/-- The restart intervals of a scan from number `i` on (R186, Table 6-9). -/
def JSt.scanLoop (f : JFrame) (scan : List (Nat × Nat × Nat)) (n m len : Nat) :
    Nat → JSt → Nat → List Byte → Nat → JSt × List Byte × Nat
  | 0, s, _, l, o => (s, l, o)
  | fuel + 1, s, i, l, o =>
    let x := entropy l o
    let stop := Nat.min n ((i + 1) * m)
    let r : BitRd := ⟨msbBits (x.1.map (·.1)), 0⟩
    let y := JSt.runMcus f scan stop (stop + 1) s (i * m) [] r
    let s := y.1
    let l := x.2.1
    let o := x.2.2
    let e := s.dmg.length
    let last := decide (stop ≥ n)
    -- resumption after damage of the interval, MCUs from `from_` on filled
    let resume := fun (s : JSt) (from_ : Nat) =>
      let s := s.fillMcus f scan e from_ stop
      match (if last then none else findRst (i % 8) l o) with
      | some p => JSt.scanLoop f scan n m len fuel s (i + 1) p.1 p.2
      | none => (s.fillMcus f scan e stop n, scanEnd l o)
    match y.2.2 with
    | .ok =>
      if last then (s, l, o)
      else
        (match markerAt l with
         | some mkr =>
           if mkr = 0xD0 + i % 8 then JSt.scanLoop f scan n m len fuel s (i + 1) (l.drop 2) (o + 2)
           else if 0xD0 ≤ mkr ∧ mkr ≤ 0xD7 then resume (s.hurt 2 o) stop
           else resume (s.hurt 4 o) stop
         | none => resume (s.hurt 3 len) stop)
    | .bad kind pos =>
      let off := ((x.1[lastByte pos]?).map (·.2)).getD o
      resume (s.hurt kind off) y.2.1
    | .more =>
      let kind := match markerAt l with
        | none => (3, len)
        | some mkr => if 0xD0 ≤ mkr ∧ mkr ≤ 0xD7 ∧ mkr ≠ 0xD0 + i % 8 then (2, o) else (4, o)
      resume (s.hurt kind.1 kind.2) y.2.1

/-- Whether a block that an image pixel needs is missing. -/
def JSt.missing (s : JSt) (f : JFrame) : Bool :=
  (f.comps.zipIdx).any (fun (c, i) =>
    let bw := ceilDiv (ceilDiv (f.w * c.hs) f.hmax) 8
    let bh := ceilDiv (ceilDiv (f.h * c.vs) f.vmax) 8
    (List.range bh).any (fun y => (List.range bw).any (fun x =>
      (smGet none (nth s.blocks i []) (y * f.stride c + x)).isNone)))

/-- Blocks still missing are filled by entry `e`. -/
def JSt.fillRest (s : JSt) (f : JFrame) (e : Nat) : JSt :=
  (f.comps.zipIdx).foldl (fun s (c, i) =>
    (List.range (f.mcuY * c.vs * f.stride c)).foldl (fun s b =>
      if (smGet none (nth s.blocks i []) b).isNone then s.setBlk i b (.fill e) else s) s) s

/-- The end of a JPEG image: what is missing is filled by the damage found here. -/
def JSt.finish (s : JSt) (f : JFrame) (kind off : Nat) : JSt := (s.hurt kind off).fillRest f s.dmg.length

/-- What a marker segment other than SOS does to the decoder; none where it is unsupported (Table 6-7, R182). -/
def JSt.segment (s : JSt) (m : Byte) (seg : List Byte) : Option JSt :=
  if m = 0xC0 ∨ m = 0xC1 then (if s.scans then none else some { s with base := m == 0xC0 })
  else if m = 0xDB then (if s.base && dqtWide seg.length seg then none else some { s with qt := addQt seg.length seg s.qt })
  else if m = 0xC4 then (if dhtOk seg.length seg then some (addHuff seg.length seg s) else none)
  else if m = 0xDD then some { s with dri := beNat (seg.take 2) }
  else some s

/-- Markers after the first SOS and before it, once the header has passed: an unsupported or unexpected one is damage of kind
marker, an RST outside a scan damage of kind sequence, and decoding goes on at the next accepted one (R182, R186).
(DEDUCED, log entry 15) -/
def jpegMarkers (f : JFrame) (len : Nat) : Nat → JSt → List Byte → Nat → JSt
  | 0, s, _, _ => s
  | fuel + 1, s, l, o =>
    match l with
    | a :: m :: r =>
      let skip := fun (kind : Nat) =>
        let z := scanEnd (entropy r (o + 2)).2.1 (entropy r (o + 2)).2.2
        jpegMarkers f len fuel (s.hurt kind o) z.1 z.2
      if a ≠ 0xFF then jpegMarkers f len fuel s (m :: r) (o + 1)
      else if m = 0xFF then jpegMarkers f len fuel s (m :: r) (o + 1)
      else if m = 0xD8 ∧ o = 0 then jpegMarkers f len fuel s r (o + 2)
      else if m = 0xD9 then
        let s := if s.missing f then s.finish f 3 o else s
        if r = [] then s else s.hurt 5 (o + 2)
      else if jpegSegment m.toNat then
        match jpegSeg r with
        | .ok (seg, rest) =>
          let o' := o + 4 + seg.length
          if m = 0xDA then
            match parseScan f seg with
            | .ok scan =>
              let n := f.scanMcus scan
              let per := if s.dri = 0 then actsAs' n else s.dri
              let x := JSt.scanLoop f scan n per len (ceilDiv n per + 1) { s with scans := true } 0 rest o'
              jpegMarkers f len fuel x.1 x.2.1 x.2.2
            | .error _ => skip 4
          else
            match s.segment m seg with
            | some s => jpegMarkers f len fuel s rest o'
            | none => skip 4
        | .more => s.finish f 3 len
        | .bad _ => skip 4
      else if 0xD0 ≤ m.toNat ∧ m.toNat ≤ 0xD7 then skip 2
      else skip 4
    | _ =>
      match s.dmg.findIdx? (fun e => e.1 = 3 ∧ e.2.1 = len) with
      | some k => s.fillRest f k
      | none => s.finish f 3 len
where
  /-- At least one MCU per interval. -/
  actsAs' (n : Nat) : Nat := if n = 0 then 1 else n

/-- One pixel position: its plane values, its time, the entries that filled it. -/
structure JPix where
  v : List Nat
  t : Nat
  tags : List Nat
  deriving DecidableEq, Repr

/-- A pixel position of the decoded image (R181, R183). -/
def JSt.pixel (s : JSt) (f : JFrame) (x y : Nat) : JPix :=
  let parts := (f.comps.zipIdx).map (fun (c, i) =>
    let cx := x * c.hs / f.hmax
    let cy := y * c.vs / f.vmax
    (smGet none (nth s.blocks i []) ((cy / 8) * f.stride c + cx / 8), (cy % 8) * 8 + cx % 8))
  let tags := parts.filterMap (fun p => match p.1 with | some (.fill e) => some e | _ => none)
  let vals := parts.map (fun p => match p.1 with | some (.px _ v) => nth v p.2 0 | _ => 0)
  let t := maxNat (parts.map (fun p => match p.1 with | some (.px t _) => t | _ => 0))
  ⟨match vals with | [a, b, c] => ycc a b c | l => l, t, tags.dedup⟩

/-- A JPEG image (codec 3). (DEDUCED, log entry 15) -/
def decodeJpeg (f : JFrame) (d : List Byte) : Pic :=
  let s0 : JSt := ⟨[], [], [], 0, f.comps.map (fun _ => []), false, false, 0, []⟩
  let s := jpegMarkers f d.length (d.length + 2) s0 d 0
  let px := (List.range f.h).flatMap (fun y => (List.range f.w).map (fun x => s.pixel f x y))
  let n := f.comps.length
  let fills := s.dmg.map (fun e => (List.range n).map (fun p =>
    modeOf ((px.filter (fun q => q.tags = [] ∧ q.t < e.2.2)).map (fun q => nth q.v p 0))))
  ⟨(List.range n).map (fun p => px.map (fun q =>
      match q.tags with
      | [] => (nth q.v p 0, [])
      | e :: _ => (nth (nth fills e []) p 255, q.tags))),
   s.dmg.map (fun e => (e.1, e.2.1))⟩

end Sys2Proof.Machine
end

