-- ==== Sys2Proof/Machine/Records.lean ====
section
/-!
DEFINITION. Chapter 6: submissions, containers, the checks before allocation, decoding, damage, and the bands of a
record.
-/

namespace Sys2Proof.Machine

/-- What a record header says: sizes, codec, planes when given, reference text, T.4 two-dimensional, SEQ of version 1,
image bytes, and the bytes up to the image. -/
structure RecHdr where
  w : Nat
  h : Nat
  codec : Nat
  planes : Option Nat
  ref : Option (List Byte)
  twoD : Bool
  seq : Option Nat
  bytes : Nat
  len : Nat
  deriving DecidableEq, Repr

/-- The outcome of reading a header: more bytes are needed; refused, with the bytes from the record's start to discard
(none: up to the end of the submission); whole. -/
inductive HdrRes where
  | more
  | bad (e : HdrErr) (skip : Option Nat)
  | ok (h : RecHdr)
  deriving DecidableEq, Repr

/-- The session's header area (R177). -/
def hdrArea : Nat := 65536

/-! ## Version 1 -/

/-- Entries read so far, newest first: type and value. -/
abbrev V1Ents := List (Nat × List Byte)

/-- Whether a version 1 entry's type and length are allowed (Table 6-3). -/
def v1EntOk (t n : Nat) (v : List Byte) : Bool :=
  if t = 1 ∨ t = 2 then n = 4
  else if t = 3 ∨ t = 4 then n = 1
  else if t = 5 then n = 2
  else if t = 6 then decide (1 ≤ n ∧ n ≤ 64) && utf8Ok v
  else if t = 7 then decide (n = 1 ∧ (nth v 0 0).toNat ≤ 1)
  else decide (t ≥ 0x8000)

/-- The header of a version 1 container, whose entries start at offset `o` of the buffer: every entry before the image entry
lies within the header area (R174, R550). -/
def v1Parse (total seq : Nat) : Nat → Nat → List Byte → V1Ents → HdrRes
  | 0, _, _, _ => .bad .header none
  | f + 1, o, l, ents =>
    let stop := 16 + total
    if o = stop then .bad .header none
    else if o + 6 > stop then .bad .badContainer none
    else if l.length < 6 then .more
    else
      let t := leNat (l.take 2)
      let n := leNat ((l.drop 2).take 4)
      if t = 0x10 then
        if o + 6 + n ≠ stop then .bad .badContainer none
        else
          let get := fun k => tabOf ents k
          match get 1, get 2, get 3 with
          | some w, some h, some c =>
            .ok ⟨leNat w, leNat h, leNat c, (get 4).map leNat, get 6, (get 7).map leNat = some 1, some seq, n, o + 6⟩
          | _, _, _ => .bad .header none
      else if o + 6 + n > stop then .bad .badContainer none
      else if o + 6 + n > hdrArea then .bad .header none
      else if t ≠ 0 ∧ (t ≤ 7 ∨ t ≥ 0x8000) then
        if l.length < 6 + n then .more
        else
          let v := (l.drop 6).take n
          if !v1EntOk t n v || (tabOf ents t).isSome then .bad .header none
          else v1Parse total seq f (o + 6 + n) (l.drop (6 + n)) ((t, v) :: ents)
      else .bad .header none

/-! ## Versions 2 and 3 -/

/-- Whether a key and its value are allowed in a header map (R175). -/
def mapEntOk : Cbor × Cbor → Bool
  | (.nint _, _) => true
  | (.uint k, v) =>
    if k ≥ 64 then true
    else
      match k, v with
      | 1, .uint _ => true
      | 2, .uint _ => true
      | 3, .uint _ => true
      | 4, .uint _ => true
      | 5, .uint _ => true
      | 6, .text t => decide (1 ≤ t.length ∧ t.length ≤ 64)
      | 7, .bool _ => true
      | _, _ => false
  | _ => false

/-- The header that a map gives; none is reason header. -/
def mapHdr (v : Cbor) (bytes len : Nat) : Option RecHdr :=
  match v with
  | .map l =>
    let known : List Nat := l.filterMap (fun e => match e.1 with | .uint k => if k < 64 then some k else none | _ => none)
    if l.all mapEntOk && decide known.Nodup then
      (match v.nat 1, v.nat 2, v.nat 3 with
       | some w, some h, some c => some ⟨w, h, c, v.nat 4, v.tstr 6, (v.flag 7).getD false, none, bytes, len⟩
       | _, _, _ => none)
    else none
  | _ => none

/-- The header of a version 2 container (Table 6-4, R175). -/
def v2Parse (l : List Byte) : HdrRes :=
  if l.length < 16 then .more
  else
    let hlen := leNat ((l.drop 4).take 4)
    let ilen := leNat ((l.drop 8).take 4)
    if hlen = 0 ∨ hlen > 4096 then .bad .header none
    else if l.length < 16 + hlen then .more
    else
      match parseCbor ((l.drop 16).take hlen) with
      | .ok (v, false) [] =>
        (match mapHdr v ilen (16 + hlen) with
         | some h => .ok h
         | none => .bad .header none)
      | _ => .bad .header none

/-- The header of one record of a version 3 sequence; `tag` bytes of the self-describe tag come first (R175, R176). -/
def v3Parse (tag : Nat) (l : List Byte) : HdrRes :=
  let m := l.drop tag
  match parseCbor m with
  | .bad => .bad .badContainer none
  | .more => if m.length ≥ 4096 then .bad .badContainer none else .more
  | .ok (v, indef) rest =>
    let n := m.length - rest.length
    if n > 4096 then .bad .badContainer none
    else
      match v with
      | .map _ =>
        (match parseHead rest with
         | .more => .more
         | .bad => .bad .badContainer none
         | .ok (major, b, ind) rest2 =>
           if major ≠ 2 ∨ ind then .bad .badContainer none
           else
             let len := l.length - rest2.length
             match (if indef then none else mapHdr v b len) with
             | some h => .ok h
             | none => .bad .header (some (len + b)))
      | _ => .bad .badContainer none

/-- A container's identification (Table 6-1): version, none for a refused one. -/
def containerVersion (l : List Byte) : Pre Nat :=
  let is := fun (p : List Byte) => p.isPrefixOf l
  let may := fun (p : List Byte) => l.isPrefixOf p
  let v1 : List Byte := [0x4E, 0x50, 0x52, 0x01]
  let v2 : List Byte := [0x4E, 0x50, 0x52, 0x02]
  let v3 : List Byte := [0xD9, 0xD9, 0xF7]
  if is v1 then .ok 1 else if is v2 then .ok 2 else if is v3 then .ok 3
  else if may v1 || may v2 || may v3 then .more else .bad .badContainer

/-- The container header at the front of a buffer. -/
def hdrParse (version index : Nat) (l : List Byte) : HdrRes :=
  if version = 1 then
    if l.length < 16 then .more
    else v1Parse (leNat ((l.drop 4).take 4)) (leNat ((l.drop 8).take 4)) (l.length + 1) 16 (l.drop 16) []
  else if version = 2 then v2Parse l
  else v3Parse (if index = 0 then 3 else 0) l

/-! ## Checks 2 to 7 of Table 6-5 -/

/-- Reduction factor of a session. -/
def Chip.redF (c : Chip) (s : Nat) : Nat :=
  match c.get F.SUB_CFG_RED s with
  | 0 => 1
  | 1 => 2
  | _ => 4

/-- Expansion limit of a codec. -/
def Chip.expLimit (c : Chip) (codec : Nat) : Nat :=
  match codec with
  | 1 => actsAs (c.get F.DEC_EXP0_T4) 1
  | 2 => actsAs (c.get F.DEC_EXP0_T6) 1
  | 3 => actsAs (c.get F.DEC_EXP1_JPEG) 1
  | _ => actsAs (c.get F.DEC_EXP1_DEFL) 1

/-- Check 2: codec code and planes. -/
def codecOk (h : RecHdr) : Bool :=
  match h.codec, h.planes with
  | 1, p => p.getD 1 == 1
  | 2, p => p.getD 1 == 1
  | 3, p => [1, 3].contains (p.getD 1)
  | 4, some p => [1, 3].contains p
  | _, _ => false

/-- Checks 2 to 7 in order; `buf` starts with the record.  The planes of the record on success. -/
def Chip.recCheck (c : Chip) (s : Nat) (h : RecHdr) (buf : List Byte) : Pre Nat :=
  let f := c.redF s
  if !codecOk h then .bad .unsupported
  else if h.w = 0 ∨ h.w > 65535 ∨ h.h = 0 ∨ h.h > 131071 then .bad .tooLarge
  else if h.bytes > actsAs (c.get F.SUB_LIM_MAX_MIB s) 1 * 1048576 then .bad .tooLarge
  else if ceilDiv h.w f > 16384 then .bad .tooWide
  else if h.w * h.h > h.bytes * c.expLimit h.codec then .bad .expansion
  else if h.codec = 3 then
    let img := ((buf.drop h.len).take h.bytes).take (hdrArea - h.len)
    match jpegPre (img.length + 1) true none false img with
    | .more => if img.length = h.bytes ∨ h.len + img.length ≥ hdrArea then .bad .header else .more
    | .bad e => .bad e
    | .ok g =>
      if g.w = h.w ∧ g.h = h.h ∧ h.planes.getD g.comps.length = g.comps.length then .ok g.comps.length else .bad .mismatch
  else .ok (h.planes.getD 1)

/-- Reason text of a refused header. -/
def hdrReason : HdrErr → List Byte
  | .badContainer => txt "bad-container"
  | .header => txt "header"
  | .unsupported => txt "codec-unsupported"
  | .tooLarge => txt "too-large"
  | .tooWide => txt "too-wide"
  | .expansion => txt "expansion"
  | .mismatch => txt "header-mismatch"
  | .noBuffer => txt "no-buffer"

/-! ## Items of a submission -/

/-- SUB_RESULT of a record (R488). -/
def Chip.subResult (c : Chip) (s num : Nat) (why : List Byte) : Chip :=
  let x := c.subm s
  c.formLoose (64 + s) 9 (recordMap ([(0, .uint 9), (1, .uint num), (50, .uint x.submission), (53, .uint x.index)] ++
    (if why = [] then [] else [(21, .text why)]))).enc

/-- A record's item before its admission; its time-stamp is open until its last byte has arrived (R30).
(DESIGN CHOICE, log entry 19) -/
def Chip.recordItem (c : Chip) (s : Nat) (h : Option RecHdr) : Chip × Item :=
  let x := c.subm s
  let t := nsStamp (Config.recordStamp c.free)
  let c := { c with free := c.free + 1 }
  let i := Item.blank 0 (16 + s) (c.get F.SUB_CFG_PART s) (c.flag F.SUB_CFG_LIVE s) t
  let i := { i with subm := some (x.submission, x.index) }
  match h with
  | none => (c, i)
  | some h => (c, { i with
      refText := h.ref, v1seq := h.seq, recWidth := h.w, recHeight := h.h, recCodec := h.codec, rec2d := h.twoD, bytes := h.bytes })

/-- A record that takes no credit ends DROPPED with its reason (R31, R169, R171). (DEDUCED, log entry 34)
(DEDUCED, log entry 102) -/
def Chip.refuse (c : Chip) (s : Nat) (h : Option RecHdr) (why : List Byte) (counted : Bool) : Chip :=
  let num := c.items.next
  let r := c.recordItem s h
  let c := r.1.takeItem r.2
  let c := c.subResult s num why
  let c := if counted then c.bump F.SUB_CNT_REFUSED s else c
  let c := c.modSubm s (fun x => { x with index := x.index + 1, used := x.used + 1, buf := [] })
  (c.endItem num ⟨5, why⟩).grant s

/-- The lowest place of a session's reassembly space that no record holds: one for each credit (R178).
(DESIGN CHOICE, log entry 123) -/
def Chip.freeArea (c : Chip) (s : Nat) : Nat :=
  ((List.range (actsAs (c.get F.SUB_CFG_CREDITS s) 1)).find? (fun k => !(c.items.list.any (fun i => i.origin = 16 + s && i.credit = 1 && i.area = k)))).getD 0

/-- Byte `o` of a record in its reassembly space in DDR4 (R178). -/
def Chip.recPlace (c : Chip) (i : Item) (o : Nat) : Place :=
  let s := i.origin - 16
  ⟨37, true, (c.recArea s).page * 4096 + i.area * (actsAs (c.get F.SUB_LIM_MAX_MIB s) 1 * 1048576) + o⟩

/-- The bytes of a record that have arrived. -/
def Chip.recData (c : Chip) (i : Item) : List Byte := c.mem.readAt (c.recPlace i 0) i.got

/-- The granules that hold them. -/
def Chip.recGrans (c : Chip) (i : Item) : List Gran :=
  (List.range (ceilDiv i.got 64)).map (fun k => (c.recPlace i (64 * k)).gran)

/-- A record whose header has passed takes its credit and its reassembly space (R168, R177, R178). -/
def Chip.admitRecord (c : Chip) (s : Nat) (h : RecHdr) (planes : Nat) : Chip :=
  let num := c.items.next
  let r := c.recordItem s (some h)
  let c := r.1.takeItem { r.2 with credit := 1, recPlanes := planes, area := r.1.freeArea s }
  let c := c.subResult s num []
  let c := c.bump F.SUB_CNT_RECORDS s
  c.modSubm s (fun x => { x with
    index := x.index + 1, used := x.used + 1, free := x.free - 1, buf := [], item := some num, need := h.bytes })

/-- A session that takes no new record: DRAINING, or DISABLED (R171). (DEDUCED, log entry 74) -/
def Chip.subOff (c : Chip) (s : Nat) : Bool := c.get F.SUB_CFG_STATE s = 4 ∨ c.get F.SUB_CFG_STATE s = 0

/-- A refused record's bytes are discarded: of `buf`, what remains to be read. -/
def Chip.skipRecord (c : Chip) (s : Nat) (buf : List Byte) (skip : Option Nat) : Chip × List Byte :=
  match skip with
  | none => (c.modSubm s (fun x => { x with skipAll := true, buf := [] }), [])
  | some n => (c.modSubm s (fun x => { x with skip := n - buf.length, buf := [] }), buf.drop n)

/-- RECORD_HEADER_CHECK at the front of the stream; answers the bytes still to be read, none when more are needed
(R169, R176, R177). (DEDUCED, log entry 74) -/
def Chip.headerStep (c : Chip) (s : Nat) (buf : List Byte) : Chip × Option (List Byte) :=
  let wait : Chip × Option (List Byte) := (c.modSubm s (fun x => { x with buf := buf }), none)
  let drop := fun (c : Chip) (h : Option RecHdr) (e : HdrErr) (skip : Option Nat) =>
    let c := if c.subOff s then c.refuse s h (txt "disabled") false else c.refuse s h (hdrReason e) true
    let r := c.skipRecord s buf skip
    (r.1, some r.2)
  match (if (c.subm s).version = 0 then containerVersion buf else .ok (c.subm s).version) with
  | .more => wait
  | .bad e => drop c none e none
  | .ok v =>
    let c := c.modSubm s (fun x => { x with version := v })
    match hdrParse v (c.subm s).index buf with
    | .more => (c.modSubm s (fun x => { x with buf := buf }), none)
    | .bad e skip => drop c none e skip
    | .ok h =>
      let after : Option Nat := if v = 3 then some (h.len + h.bytes) else none
      if c.subOff s then drop c (some h) .header after
      else
        match c.recCheck s h buf with
        | .more => (c.modSubm s (fun x => { x with buf := buf }), none)
        | .bad e => drop c (some h) e after
        | .ok planes =>
          if (c.subm s).free = 0 ∨ c.get F.SUB_CFG_STATE s ≠ 3 then drop c (some h) .noBuffer after
          else (c.admitRecord s h planes, some (buf.drop h.len))

/-- The last byte of a record counts as arrived: time-stamp and deadline (R30, R551). (DEDUCED, log entry 102) -/
def Chip.recordWhole (c : Chip) (s : Nat) (t : Stamp) : Chip :=
  match (c.subm s).item with
  | none => c
  | some n =>
    let live := c.flag F.SUB_CFG_LIVE s
    let c := c.modItem n (fun i => { i with
      complete := true, stamp := t, arrived := c.slotNo
      deadline := if live then some (nsStamp (Stamp.toNs t + c.get F.SUB_CFG_BOUND_MS s * 1000000)) else none })
    c.modSubm s (fun x => { x with item := none, need := 0, skipAll := x.skipAll || decide (x.version ≠ 3) })

/-- Bytes enter the session's stream (R169 to R177). -/
def Chip.feed (s : Nat) (t : Stamp) : Nat → Chip → List Byte → Chip
  | 0, c, _ => c
  | fuel + 1, c, l =>
    let x := c.subm s
    if l = [] ∨ x.skipAll then c
    else if x.skip > 0 then
      Chip.feed s t fuel (c.modSubm s (fun x => { x with skip := x.skip - l.length })) (l.drop x.skip)
    else if x.need > 0 then
      let part := l.take x.need
      let c := match x.item with
        | some n =>
          (match c.item n with
           | some i => (c.updMem (fun m => m.writeAt (c.recPlace i i.got) part)).modItem n (fun i => { i with got := i.got + part.length })
           | none => c)
        | none => c
      let c := c.modSubm s (fun x => { x with need := x.need - part.length })
      let c := if (c.subm s).need = 0 then c.recordWhole s t else c
      Chip.feed s t fuel c (l.drop x.need)
    else
      match c.headerStep s (x.buf ++ l) with
      | (c, none) => c
      | (c, some rest) => Chip.feed s t fuel c rest

/-- The submission ends (R550, R551). -/
def Chip.submissionEnd (c : Chip) (s : Nat) (t : Stamp) : Chip :=
  let x := c.subm s
  let c := if x.need > 0 then c.recordWhole s t else c
  let c :=
    if x.buf ≠ [] then
      if c.subOff s then c.refuse s none (txt "disabled") false else c.refuse s none (txt "bad-container") true
    else c
  c.modSubm s (fun x => { x with
    buf := [], version := 0, skip := 0, skipAll := false, item := none, need := 0, submission := x.submission + 1, index := 0 })

/-- The bytes of a SUBMIT record enter the stream: a record that they complete has the receive time-stamp `whole` of the frame
that completed it (R30), one that the submission's end cuts short has that of the frame that carried them, `t` (R551). -/
def Chip.submitBytes (c : Chip) (s : Nat) (bytes : List Byte) (last : Bool) (t whole : Stamp) : Chip :=
  let c := Chip.feed s whole ((c.subm s).buf.length + 2 * bytes.length + 4) c bytes
  if last then c.submissionEnd s t else c

/-- A SUBMIT record that waits enters the stream. -/
def Chip.submitWaiting (c : Chip) (s : Nat) (w : Inbox) : Chip :=
  ((c.modSess (64 + s) (fun x => { x with inbox := x.inbox.erase w })).modSubm s (fun y => { y with submission := w.sub })).submitBytes
    s w.bytes w.last w.at_ w.by_

/-- SUBMIT_RECORD: the bytes of a SUBMIT record of an open session (R488). (DEDUCED, log entry 69) -/
def Chip.submit (c : Chip) (s : Nat) (bytes : List Byte) (last : Bool) : Chip :=
  let x := c.sess (64 + s)
  if !x.open_ then c
  else
    match x.inbox.find? (fun e => e.bytes = bytes ∧ e.last = last) with
    | some w => c.submitWaiting s w
    | none => c.submitBytes s bytes last c.clock.now c.clock.now

/-- An admitted record whose bytes will not all come ends CANCELLED (R172). -/
def Chip.cancelRecord (c : Chip) (s : Nat) (why : List Byte) : Chip :=
  let x := c.subm s
  match x.item with
  | none => c
  | some n =>
    let c := c.modSubm s (fun x => { x with item := none, skip := x.need, need := 0, skipAll := x.skipAll || decide (x.version ≠ 3) })
    match c.item n with
    | none => c
    | some i => if i.ended.isSome then c else (c.bump F.SUB_CNT_CANCELLED s).endItem n ⟨4, why⟩

/-- SUBMIT_TIMEOUT (R172). -/
def Chip.submitTimeout (c : Chip) (s : Nat) : Chip := c.cancelRecord s (txt "submit-timeout")

/-- A submitting session closes: what arrived before is processed, then a record still arriving is cancelled (R172). -/
def Chip.submClosed (c : Chip) (s : Nat) : Chip :=
  let c := (c.sess (64 + s)).inbox.foldl (fun c w => c.submitWaiting s w) c
  let c := c.cancelRecord s (txt "session-closed")
  c.modSubm s (fun x => { Subm.cold with free := x.free })

/-- A session ends by a CLOSE of type `type` to its peer (R460, R172). -/
def Chip.endSess (c : Chip) (x type : Nat) : Chip :=
  (if x ≥ 64 then c.submClosed (x - 64) else c).sendClose x type

/-! ## Decoding -/

/-- Decode cost in eighths of a logic step (R190). -/
def decodeCost8 (codec w h planes bytes f hs vs : Nat) : Nat :=
  let s := if codec = 3 ∧ planes = 3 then w * h + 2 * (ceilDiv w hs * ceilDiv h vs) else w * h * planes
  let s' := planes * (ceilDiv w f * ceilDiv h f)
  let cp := if codec = 1 ∨ codec = 2 then 1 else 4
  let cb := if codec = 3 then 8 else if codec = 4 then 3 else 6
  s * cp + 8 * (bytes * cb) + 8 * s' + (if f > 1 then 2 * s else 0)

/-- The frame of a JPEG image. -/
def frameOf (d : List Byte) : Option JFrame :=
  match jpegPre (d.length + 1) true none false d with
  | .ok g => some g
  | _ => none

/-- Cost of a record item. -/
def Chip.itemCost8 (c : Chip) (i : Item) : Nat :=
  let g := if i.recCodec = 3 then frameOf (c.recData i) else none
  decodeCost8 i.recCodec i.recWidth i.recHeight i.recPlanes i.bytes (c.redF (i.origin - 16))
    ((g.map JFrame.hmax).getD 1) ((g.map JFrame.vmax).getD 1)

/-- The unit-table entry of the running variant for a slot number: units 0 to 3 are T0 to T3, 4 to 7 D0 to D3 (R344). -/
def Chip.unitEntry (c : Chip) (slot idx : Nat) : Nat :=
  match c.variant with
  | some v => (smGet 0 v.unitTab ((slot / 16 % Nat.max 1 v.courses * 16 + slot % 16) * 8 + idx)).toNat
  | none => 0

/-- Whether a unit-table entry gives its unit to a partition's own steps in a slot (Table 12-3). -/
def Chip.unitShare (c : Chip) (slot idx p : Nat) : Bool :=
  let e := c.unitEntry slot idx
  decide (bitsOf e 28 4 = p) && decide (bitsOf e 26 2 = if c.flag F.PART_CFG_KIND p then 2 else 1)

/-- Whether a record's decoding may begin: in a decode-lane slot of its partition's share that starts after its last byte
arrived, or in a step that waited for that byte with EXT = 1 (R192). -/
def Chip.decodeDue (c : Chip) (i : Item) : Bool :=
  (decide (i.arrived < c.slotNo) && (List.range 4).any (fun d => c.unitShare c.slotNo (4 + d) i.part)) ||
    (List.range 4).any (fun d => match c.runOf (36 + d) with
      | some r => r.desc.ext && decide (r.desc.item = some i.num)
      | none => false)

/-- DECODE_START: the record's last byte has arrived; beyond the envelope of an LC partition it is overflow work
(R191, R192). -/
def Chip.decodeStart (c : Chip) (n : Nat) : Chip :=
  match c.item n with
  | none => c
  | some i =>
    if !i.complete || i.decoding || i.ended.isSome || !c.decodeDue i then c
    else
      let c := c.modItem n (fun i => { i with decoding := true })
      if c.itemCost8 i > 8 * c.get F.SUB_ENV_ENV_STEPS (i.origin - 16) then c.overflowItem n else c

/-- The image that a codec makes of the bytes that have arrived. -/
def Item.decodeBytes (i : Item) (d : List Byte) : Pic :=
  match i.recCodec with
  | 1 => decodeFax false i.rec2d i.recWidth i.recHeight d
  | 2 => decodeFax true false i.recWidth i.recHeight d
  | 3 => (match frameOf d with
    | some g => decodeJpeg g d
    | none => ⟨List.replicate i.recPlanes (List.replicate (i.recWidth * i.recHeight) (255, [0])), [(3, d.length)]⟩)
  | _ => decodeDeflate i.recWidth i.recHeight i.recPlanes d

/-- The decoded image of a record: bytes that its submission never brought are damage of kind truncated at the first of them,
whatever the decoder needed (R551). -/
def Item.decode (i : Item) (d : List Byte) : Pic :=
  let p := i.decodeBytes d
  if d.length < i.bytes ∧ ¬ p.dmg.contains (3, d.length) then { p with dmg := p.dmg ++ [(3, d.length)] } else p

/-- Positions that an entry fills in any plane. -/
def Pic.positions (p : Pic) (size e : Nat) : List Nat :=
  (List.range size).filter (fun k => p.planes.any (fun q => (nth q k (0, [])).2.contains e))

/-- The damage map's entries (R189). -/
def Pic.damages (p : Pic) (w h : Nat) : List Damage :=
  (p.dmg.zipIdx).map (fun (d, e) =>
    let pos := p.positions (w * h) e
    let first := p.planes.findSome? (fun q => q.findIdx? (fun x => x.2.contains e))
    match first with
    | none => ⟨d.1, d.2, h, 0, 0, 0⟩
    | some k => ⟨d.1, d.2, k / w, k % w, (pos.map (· / w)).dedup.length, pos.length⟩)

/-- The damage fraction (R189). -/
def Pic.fraction (p : Pic) (w h : Nat) : Nat :=
  let n := ((List.range (w * h)).filter (fun k => p.planes.any (fun q => (nth q k (0, [])).2 ≠ []))).length
  (rnaDiv ((n * 65536 : Nat) : Int) (w * h)).toNat

/-- One plane reduced by F (R185): values, and whether a filled pixel lies in the box. -/
def reducePlane (f w h : Nat) (q : List (Nat × List Nat)) : List (List (Nat × Bool)) :=
  (List.range (ceilDiv h f)).map (fun y => (List.range (ceilDiv w f)).map (fun x =>
    let box := (List.range f).flatMap (fun j => (List.range f).filterMap (fun i =>
      let u := f * x + i
      let v := f * y + j
      if u < w ∧ v < h then q[v * w + u]? else none))
    ((rnaDiv (((box.map (·.1)).foldl (· + ·) 0 : Nat) : Int) (Nat.max 1 box.length)).toNat, box.any (fun b => b.2 ≠ []))))

/-- The record's background (R188). -/
def recordBg (bilevel : Bool) (planes : List (List (List (Nat × Bool)))) : Nat :=
  if bilevel then 255
  else
    let p := if planes.length = 3 then nth planes 1 [] else planes.headD []
    modeOf (((p.take 128).flatten.filter (fun x => !x.2)).map (·.1))

/-- Skew of a whole page of `lines` edge-plane lines (R152). -/
def pageSkew (bg thr settle w : Nat) (lines : List (List Nat)) : Option (Int × Nat) :=
  let r := (lines.zipIdx).foldl (fun (a : List (Option Nat) × Nat × Bool) e =>
    if a.2.2 then a
    else
      let gs := markGroups e.2 a.1 (paperGroups bg thr w [e.1])
      let wide := if groupSpan gs = groupSpan a.1 then a.2.1 else e.2
      (gs, wide, decide (e.2 ≥ wide + settle) || decide (e.2 + 1 ≥ tan15Lines w + settle))) (List.replicate 64 none, 0, false)
  measureSkew w r.1

/-- A decode step writes the record's next band to the session's ring; with the last one the damage is known (R29, R178,
R185 to R189). (DESIGN CHOICE, log entry 103) -/
def Chip.decodeStep (c : Chip) (n : Nat) : Chip :=
  match c.item n with
  | none => c
  | some i =>
    if !i.decoding || i.ended.isSome || i.captured then c
    else
      let s := i.origin - 16
      let pic := i.decode (c.recData i)
      let f := c.redF s
      let planes := pic.planes.map (reducePlane f i.recWidth i.recHeight)
      let w := ceilDiv i.recWidth f
      let h := ceilDiv i.recHeight f
      let bg := recordBg (i.recCodec ≤ 2) planes
      let vals := planes.map (fun p => p.map (fun l => l.map (·.1)))
      let edge := if vals.length = 3 then nth vals 1 [] else vals.headD []
      let m := pageSkew bg Config.recordThr (actsAs Config.recordSettle 1) w edge
      let th := (appliedSkew Config.recordDeskew Config.recordSkewMin m).getD 0
      let xe := (m.map (·.2)).getD 0
      let b := i.bands.length
      let cnt := Nat.min 128 (h - 128 * b)
      let last := decide (128 * b + 128 ≥ h)
      let fl := match m with
        | none => 32
        | some (t, _) => if t.natAbs > 1500 then 16 else 0
      let c := c.flagItem n fl
      let data := bandImage
        { item := n, band := b, lines := cnt, width := w, pitch := Config.recordPitch w, planes := vals.length, source := 1
          origin := s, flags := bandFlags last (i.flags ||| fl), stamp := i.stamp, skew := th, xe := xe, subst := 0 }
        (vals.map (bandPlane th xe bg w h b cnt))
      let c := (c.modItem n (fun i => { i with bg := bg, skew := some m })).putBand i b cnt data
      if !last then c
      else
        let dmg := pic.damages i.recWidth i.recHeight
        let frac := pic.fraction i.recWidth i.recHeight
        let c := c.bump F.DEC_CNT_DAMAGE 0 0 dmg.length
        let c := c.modItem n (fun i => { i with captured := true, damage := dmg, damageFrac := frac })
        let c := if dmg = [] then c else c.flagItem n 8192
        if frac > c.get F.SUB_LIM_DAMAGE_MAX s then (c.bump F.DEC_CNT_FAILED).endItem n ⟨3, txt "damaged"⟩ else c

end Sys2Proof.Machine
end

