-- ==== Sys2Proof/Machine/Sched.lean ====
section
/-!
DEFINITION. Chapter 12: the espalier tables, which step a unit may start, its start, its work and its end (R344 to R366,
R390).
-/

namespace Sys2Proof.Machine

/-! ## Units -/

/-- The region of a unit that runs steps, none for the unit table's units. -/
def unitRegion : StepUnit → Option Nat
  | .block r _ => some r.val
  | _ => none

/-- The physical unit behind a logical one. -/
def Chip.physUnit (c : Chip) (u : StepUnit) : UnitId :=
  match u with
  | .block r lb => if h : c.physBlock r.val lb.val < 9 then .block r ⟨c.physBlock r.val lb.val, h⟩ else .region r
  | .text t => if h : c.physText t.val < 5 then .text ⟨c.physText t.val, h⟩ else .chip
  | .lane d => if h : c.physLane d.val < 5 then .lane ⟨c.physLane d.val, h⟩ else .chip

/-- The site of a logical cell of a unit: 0 to 3 are M0 to M3, 4 and 5 V0 and V1 (Table 2-13); the unit itself for a text
cell or a decode lane. -/
def Chip.siteOf (c : Chip) (u : StepUnit) (l : Nat) : UnitId :=
  match u with
  | .block r lb =>
    let p := c.physBlock r.val lb.val
    let s := if l < 4 then c.physMatrix r.val p l else 5 + c.physVector r.val p (l - 4)
    if h : p < 9 ∧ s < 8 then .cell r ⟨p, h.1⟩ ⟨s, h.2⟩ else .region r
  | u => c.physUnit u

/-- The cell that meets a reserved code in a step: the first vector or matrix cell that it engages, of a bonded pair the even
one (R59, R61). (DEDUCED, log entry 90) -/
def Chip.workSite (c : Chip) (d : StepDesc) (vector : Bool) : UnitId :=
  c.siteOf d.unit (((stepCells d).find? (fun l => decide (4 ≤ l) == vector)).getD (if vector then 4 else 0))

/-- The logical cells of a step's unit that an error of the step can come from: those that it engages, or the unit itself. -/
def stepParts (d : StepDesc) : List Nat :=
  match d.unit with
  | .block _ _ => stepCells d
  | _ => [0]

/-- Whether a site can meet a cell error in a step: one of the cells that it engages (R61). -/
def Chip.errorSite (c : Chip) (d : StepDesc) (s : UnitId) : Bool := (stepParts d).any (fun l => decide (c.siteOf d.unit l = s))

/-- The partition whose blocks a logical block is one of (PART_BLK). -/
def Chip.blockPart (c : Chip) (r lb : Nat) : Option Nat :=
  (List.range 16).find? (fun p => c.flag F.PART_CFG_VALID p ∧ bitOf (c.get F.PART_BLK_BLOCKS p) (8 * r + lb))

/-- A pre-emption of the block's partition is under way. -/
def Chip.preempted (c : Chip) (u : Nat) : Bool :=
  c.sched.preempt.any (fun e => e.2.isSome && (c.partUnits e.1).contains u)

/-- An LC partition whose blocks are lent (R367). -/
def Chip.lends (c : Chip) (p : Nat) : Bool := c.flag F.PART_CFG_LENT p && !c.flag F.PART_CFG_KIND p

/-- The partition that runs steps on a block now: the borrower while it is lent (R367), else its own. -/
def Chip.runsOn (c : Chip) (u : Nat) : Option Nat :=
  (c.blockPart (u / 8) (u % 8)).map (fun p => if c.lends p then c.get F.PART_CFG_BORROWER p else p)

/-! ## The tables (R344 to R346) -/

/-- The tables by region that a block steps through: the running variant's, or the lent ones of a lending partition. -/
def Chip.tableOf (c : Chip) (r lb : Nat) (v : Variant) : List (SMap (BitVec 64)) :=
  match c.blockPart r lb with
  | some p => if c.lends p then ((v.lentTabs.find? (fun e => e.1.val = p)).map (·.2)).getD [] else v.regionTab
  | none => v.regionTab

/-- The region table entry of a block for a slot number; course K runs table course K modulo COURSES (R340, R344). -/
def Chip.tableEntry (c : Chip) (r slot lb : Nat) : Nat :=
  match c.variant with
  | some v =>
    (smGet 0 ((c.tableOf r lb v).getD r []) ((slot / 16 % Nat.max 1 v.courses * 16 + slot % 16) * 8 + lb)).toNat
  | none => 0

/-- Whether a region table entry is the one of a step: its kind, partition, program, time, span and EXT (Table 12-2). -/
def entryIs (e : Nat) (d : StepDesc) : Bool :=
  decide (bitsOf e 58 2 = (match d.kind with | .lc => 1 | _ => 2)) && decide (bitsOf e 60 4 = d.part.val) &&
    decide (bitsOf e 40 18 = d.prog) && decide (bitsOf e 24 16 = d.wcet) && decide (bitsOf e 21 3 = d.span) &&
    (bitOf e 14 == d.ext)

/-- Ns until the block's next LC slot tick (R356); none where no course of the table has one. -/
def Chip.nextLc (c : Chip) (r lb : Nat) : Option Nat :=
  ((List.range 128).find? (fun k => bitsOf (c.tableEntry r (c.slotNo + 1 + k) lb) 58 2 = 1)).map
    (fun k => (c.slotNo + 1 + k) * 125000 - c.nowNs)

/-- WCET in ns at floor pace: 16 logic steps a unit at 0.85 G steps/s, rounded up. -/
def wcetNs (w : Nat) : Nat := ceilDiv (w * 16 * 20) 17

/-- A soak step fits before the block's next LC slot tick, and its region has no schedule fault (R356, R409); of block memory
it uses its soak area only, beside shared memory. (DEDUCED, log entry 87) -/
def Chip.soakFits (c : Chip) (r lb : Nat) (d : StepDesc) : Bool :=
  !d.ext && decide (d.slot = c.slotNo) && (c.sched.faultAt.getD r none).isNone &&
  (match c.blockPart r lb with
   | some p => !c.lends p && !c.flag F.PART_CFG_KIND p && decide (c.get F.PART_CFG_SOAK p = d.part.val) && decide (d.part.val ≠ p)
   | none => false) &&
  d.handles.all (fun h => match h.ref.space with
    | .block r' b' => decide (r'.val = r) && decide (b'.val = lb)
    | .shared => true
    | .ddr => false) &&
  (match c.nextLc r lb with | some t => decide (wcetNs d.wcet ≤ t) | none => true)

/-- Whether a shared text slot is the partition's turn, of those that wait (Table 12-3, R359). -/
def Chip.textTurn (c : Chip) (d : StepDesc) : Bool :=
  decide ((c.hedge 6).next (c.hedgeLo 6) (c.hedgeHi 6) (fun w => decide (w = d.part.val) || d.rivals.any (fun p => p.val = w)) =
    some d.part.val)

/-- Whether a unit-table entry gives its unit to a step: its partition's LC or BE steps, or, of a text cell, the steps of any
partition in turn (Table 12-3). -/
def Chip.unitEntryIs (c : Chip) (idx : Nat) (d : StepDesc) : Bool :=
  let e := c.unitEntry d.slot idx
  match bitsOf e 26 2, d.kind with
  | 1, .lc => decide (bitsOf e 28 4 = d.part.val)
  | 2, .be => decide (bitsOf e 28 4 = d.part.val)
  | 3, .lc => decide (idx < 4) && c.textTurn d
  | 3, .be => decide (idx < 4) && c.textTurn d
  | _, _ => false

/-- Whether the tables give a step: the entry of its slot, or the idle time that a soak step fits (R344, R356). -/
def Chip.entryOk (c : Chip) (d : StepDesc) : Bool :=
  match d.unit, d.kind with
  | .block r lb, .soak => c.soakFits r.val lb.val d
  | .block r lb, _ => entryIs (c.tableEntry r.val d.slot lb.val) d && decide (c.runsOn (8 * r.val + lb.val) = some d.part.val)
  | .text t, _ => c.unitEntryIs t.val d
  | .lane l, _ => c.unitEntryIs (4 + l.val) d

/-! ## Whether a step may start -/

/-- Whether a unit can start a step: in service, none of the cells that the step engages failed and not yet replaced, its
region's course begun, no pre-emption (R55, R369, R385, R387, R407). -/
def Chip.unitReady (c : Chip) (d : StepDesc) : Bool :=
  (c.runOf (unitNo d.unit)).isNone && (stepParts d).all (fun l => !c.unitDead (c.siteOf d.unit l)) &&
  (match d.unit with
   | .block r lb =>
     let p := c.physBlock r.val lb.val
     !(c.recov.failedRegion.getD r.val true) && !bitOf (c.get F.SPARE_HEALTH_BLK_FAILED r.val) p &&
     !smGet false c.recov.reload (9 * r.val + p) &&
     decide (c.recov.takeover ≠ some r.val) && !(c.fabric.late.getD r.val false) && !c.preempted (8 * r.val + lb.val)
   | _ => true)

/-- Whether a step's partition is in service and of the step's kind, and trains only where ADAPT_CTRL.PART names it
(R355, R356, R358). -/
def Chip.partReady (c : Chip) (d : StepDesc) : Bool :=
  let p := d.part.val
  c.flag F.PART_CFG_VALID p && decide (c.get F.PART_CFG_STATE p ≠ 0) &&
    (c.flag F.PART_CFG_KIND p == decide (d.kind ≠ .lc)) && (d.train.isNone || decide (c.get F.ADAPT_CTRL_PART = p))

/-- Whether the step's slot has come: no earlier than its tick, after the slots that the unit's last step covered, and not
before the course that follows the first-lock step (R341, R342, R351). -/
def Chip.slotReady (c : Chip) (d : StepDesc) : Bool :=
  decide (d.slot ≤ c.slotNo) && decide (smGet 0 c.sched.served (unitNo d.unit) ≤ d.slot) && decide (c.sched.resume ≤ d.slot)

/-- The BE partition that runs an item's overflow work (R363). -/
def Chip.ovfPart (c : Chip) (i : Item) : Nat := c.get F.PART_CFG_OVF i.part

/-- Whether a step of a partition does work of an item that is the partition's to do: its own items' work, or, for an item
that has passed to overflow, overflow work of the LC partition that names it; a record's decode passes to overflow after
ENV_STEPS steps in the LC share (R28, R191, R362, R363). -/
def Chip.itemFits (c : Chip) (d : StepDesc) (i : Item) : Bool :=
  let own := decide (i.part = d.part.val)
  if c.flag F.PART_CFG_KIND i.part then own
  else
    let ovf := i.overflow && decide (c.ovfPart i = d.part.val) && decide (d.kind ≠ .lc)
    match d.unit with
    | .lane _ =>
      let within := decide (i.laneSteps < c.get F.SUB_ENV_ENV_STEPS (i.origin - 16)) || !i.overflow
      own && within || ovf && !within
    | .text _ => own && !c.textOverflow i || ovf
    | .block _ _ => own || ovf

/-- Whether an item can take a step at all: admitted, not ended and not about to end, not waiting for its re-run. -/
def Chip.itemLive (c : Chip) (i : Item) : Bool := i.ended.isNone && i.endNext.isNone && !c.recov.rerun.contains i.num

/-- Whether a decode-lane step's record has come: its last byte before the step's slot began, or, for a best-effort step that
may wait, later (R192). -/
def recordCome (d : StepDesc) (i : Item) : Bool :=
  match d.unit with
  | .lane _ => (i.complete && decide (i.arrived < d.slot)) || (d.ext && decide (d.kind = .be))
  | _ => true

/-- Whether the step's item is one it can work on, the full tokens of the bands that it reads being raised (R192, R238). -/
def Chip.itemReady (c : Chip) (d : StepDesc) : Bool :=
  match d.item with
  | none => true
  | some n =>
    match c.item n with
    | none => false
    | some i =>
      c.itemLive i && c.itemFits d i && recordCome d i && d.bands.all (fun b => i.bands.any (fun x => x.idx = b && !x.dropped))

/-- Where an item's work stands in the order of BE partition `p` (R358): overflow work of live items by deadline, origin and
admission, overflow work of batch items and its own items by admission; none where it has no work there. -/
def Chip.beRank (c : Chip) (p : Nat) (i : Item) (place : Nat) : Option (List Nat) :=
  if i.part = p then some [3, place, 0, 0]
  else if !c.flag F.PART_CFG_KIND i.part ∧ i.overflow ∧ c.ovfPart i = p then
    (match i.live, i.deadline with
     | true, some t => some [1, Stamp.toNs t, i.origin, place]
     | _, _ => some [2, place, 0, 0])
  else none

/-- Whether a step takes the first of its BE partition's work that has a ready step; the operand names the items that have
none, and training comes last (R358). (DESIGN CHOICE, log entry 108) -/
def Chip.beFirst (c : Chip) (d : StepDesc) : Bool :=
  if d.kind = .lc then true
  else
    let ranks := (c.items.list.zipIdx).filterMap (fun e =>
      if c.itemLive e.1 && !d.unready.contains e.1.num then (c.beRank d.part.val e.1 e.2).map (fun k => (e.1.num, k)) else none)
    match d.item, d.train with
    | some n, _ =>
      (match (c.items.list.zipIdx).find? (fun e => e.1.num = n) with
       | some e => (match c.beRank d.part.val e.1 e.2 with
         | some k => ranks.all (fun x => !ranksBetter x.2 k)
         | none => true)
       | none => true)
    | none, some _ => ranks = []
    | none, none => true

/-- The region's largest step lag of the course so far takes in one more (R351). (DEDUCED, log entry 87) -/
def Chip.noteLag (c : Chip) (u : StepUnit) (ns : Nat) : Chip :=
  match unitRegion u with
  | some r => c.updSched (fun s => { s with lag := s.lag.modify r (Nat.max ns) })
  | none => c

/-- A band is taken by the first step that acquires it: its age is checked (R163). -/
def Chip.takeBand (c : Chip) (n b : Nat) : Chip :=
  match c.item n with
  | none => c
  | some i =>
    match i.bands.find? (fun x => x.idx = b) with
    | none => c
    | some x =>
      if x.taken ∨ x.dropped then c
      else if c.stale i x then c.dropBand n b
      else c.modItem n (fun i => { i with bands := i.bands.map (fun y => if y.idx = b then { y with taken := true } else y) })

/-- The run of a step that starts now. -/
def Chip.runNow (c : Chip) (d : StepDesc) : StepRun :=
  { desc := d, at_ := d.slot, start := c.nowNs, tries := 0, firstMove := c.mem.nextMove, freed := [], yield := false,
    epoch := c.kv.epoch }

/-- A step's slot is served: the unit's next step comes from a later one (R345); a shared text slot counts against its
partition's share (R359). -/
def Chip.serveSlot (c : Chip) (d : StepDesc) : Chip :=
  let next := match d.unit, d.kind with
    | .block _ _, .soak => d.slot
    | .block _ _, _ => d.slot + d.span + 1
    | _, _ => d.slot
  let c := c.updSched (fun s => { s with served := smMod 0 s.served (unitNo d.unit) (Nat.max next) })
  match d.unit with
  | .text t => if bitsOf (c.unitEntry d.slot t.val) 26 2 = 3 then c.modHedge 6 (fun h => h.give d.part.val (16 * d.wcet)) else c
  | _ => c

/-- Whether a training step's update goes on: one that is to be cancelled starts no further step (R337). -/
def Chip.trainReady (c : Chip) (d : StepDesc) : Bool :=
  match d.train with
  | some s => !(c.adSet s.val).cancel
  | none => true

/-- Whether STEP_START can start its step now. -/
def Chip.canStart (c : Chip) (d : StepDesc) : Bool :=
  c.running && c.slotReady d && c.unitReady d && c.partReady d && c.entryOk d && c.itemReady d && c.beFirst d && c.trainReady d

/-- STEP_START (R351): the step runs, its bands are taken, its handles checked, the first that fails stopping the check (R72).
(DEDUCED, log entry 32) -/
def Chip.stepStart (c : Chip) (d : StepDesc) : Chip :=
  if !c.canStart d then c
  else
    let c := match d.item with
      | some n => d.bands.foldl (fun c b => c.takeBand n b) c
      | none => c
    if !c.itemReady d then c
    else
      let c := ((c.setRun (unitNo d.unit) (some (c.runNow d))).serveSlot d).noteLag d.unit (c.nowNs - d.slot * 125000)
      let who : Issuer := ⟨c.physUnit d.unit, some d.part⟩
      match d.handles.find? (fun h => (c.checkHandle who h.ref h.write h.len).isSome) with
      | some h => c.handleFault 0x12 who (tableNo h.ref.space)
      | none => c

/-! ## Results of a step's work -/

/-- What the arithmetic of a step comes to: outputs, a cell error, or work with its effect elsewhere. -/
inductive WorkRes where
  | out (o : QOut) (scales : List ScaleEntry)
  | cellError (vector : Bool)
  | other

/-- A result that may be the cell error of a reserved code (R193, R212, R236). -/
def resOf (vector : Bool) : Option QOut → WorkRes
  | some o => .out o []
  | none => .cellError vector

/-- Formats whose products a bonded pair computes (Table 7-3). -/
def pairFmt (f : Fmt) : Bool := decide (f = .int16 ∨ f = .fp16 ∨ f = .bf16)

/-- What a step's work needs of its unit: nothing, a matrix cell, or a bonded pair (Table 7-3, R197, R260, R320). -/
def workNeeds : StepWork → Nat
  | .matrix w => if pairFmt w.aFmt || pairFmt w.wFmt then 2 else 1
  | .conv w => if pairFmt w.inp.fmt || pairFmt w.wFmt then 2 else 1
  | .attend w => if pairFmt w.kvfmt then 2 else 1
  | .kvWrite _ _ _ _ _ _ _ w => if pairFmt w.aFmt || pairFmt w.wFmt then 2 else 1
  | .adapterProj _ _ _ _ => 2
  | _ => 0

/-- Whether a step's unit can do its work: a text cell or a decode lane has no matrix cell, and a bonded pair is there only in
a bonded step; work that it cannot do is a cell error. (DESIGN CHOICE, log entry 90) -/
def unitCan (d : StepDesc) (w : StepWork) : Bool :=
  match workNeeds w, unitRegion d.unit with
  | 0, _ => true
  | _, none => false
  | 1, some _ => true
  | _, some _ => decide (d.bond ≠ [])

/-- The arithmetic of a step that needs nothing but its operands (chapters 7 and 8). (DEDUCED, log entry 90) -/
def workOut : StepWork → WorkRes
  | .matrix w => resOf false (matLanes w.aFmt w.wFmt w.za w.lanes)
  | .conv w => resOf false (convRun w)
  | .pool isMax inp win out => resOf true (poolRun isMax inp win out)
  | .resample r plane => resOf true (resampleRun r plane)
  | .eltAdd a b ka kb entry => resOf true (eltIntOut (fun x y => x * ka + y * kb) a b entry)
  | .eltMul a b entry => resOf true (eltIntOut (fun x y => x * y) a b entry)
  | .eltFp op a b out zp => resOf true (eltFpOut op a b out zp)
  | .mulAdd a b c out zp => resOf true (mulAddOut a b c out zp)
  | .table256 tbl inp => resOf true (table256Out tbl inp)
  | .convert inp out zp => resOf true (convertOut inp out zp)
  | .quantise inp r out zp => resOf true (quantiseOut inp r out zp)
  | .toBil inp thr => resOf true (toBilOut inp thr)
  | .fromBil inp => resOf true (fromBilOut inp)
  | .dynQuant inp blk first out =>
    (match dynQuantOut inp blk first out with
     | some (o, s) => .out o s
     | none => .cellError true)
  | .dynDequant q blk _ scales out zp _ => resOf true (dynDequantOut q blk scales out zp)
  | .lut bits book x wts blk _ scales _ => resOf true (lutOut bits book x wts blk scales)
  | .func f inp => resOf true (funcOut f inp)
  | _ => .other

/-- A tile as a wide re-run sees it: its layer's descriptor, its number, the pair named for the re-run and the re-run's
outputs, none for the cell error of a reserved code (R222, R224). -/
structure WideTile where
  quant : QuantDesc
  tile : Nat
  pair : Fin 2
  out : Option QOut

/-- The tile that a step's work computes. -/
def wideTileOf : StepWork → Option WideTile
  | .matrix w => some ⟨w.quant, w.tile, w.widePair, wideMat w⟩
  | .conv w => some ⟨w.quant, w.tile, w.widePair, wideConv w⟩
  | _ => none

/-- Scale entries that a step uses with its first block's index, its blocks' count and the fields its outputs reach
(R219, R220). -/
def workScales : StepWork → Option (List ScaleEntry × Nat × Nat × List Nat)
  | .dynDequant q blk first scales _ _ fields => some (scales, first, ceilDiv q.data.length (Nat.max 1 blk), fields)
  | .lut _ _ x _ blk first scales fields => some (scales, first, ceilDiv x.data.length (Nat.max 1 blk), fields)
  | _ => none

/-- The outputs of a step that completes after a second mismatch: the zero point for integer formats, +0 for floating ones
(R220). -/
def skewOut : StepWork → QOut
  | .dynDequant q _ _ _ out zp _ =>
    ⟨out, q.data.map (fun _ => match fpLay out with | some _ => 0 | none => codeOf out (zpOf out zp)), QCnt.none⟩
  | .lut _ _ _ _ _ _ _ _ => ⟨.fp32, [0], QCnt.none⟩
  | _ => ⟨.int8, [], QCnt.none⟩

/-- Counts what a step's arithmetic met (Table 7-9). -/
def Chip.countQ (c : Chip) (q : QCnt) : Chip :=
  ((c.bump F.QNT_FP_NAN 0 0 q.nan).bump F.QNT_FP_BAD_SCALE 0 0 q.bad).bump F.QNT_FP_OVF_SAT 0 0 q.ovf

/-- Whether a step can have outputs at a place: a slot of a cell of its own block, of a soak step 28 to 31; block memory of its
own region, shared memory (R47, R69, R356). -/
def Chip.destOk (c : Chip) (d : StepDesc) : Dest → Bool
  | .nowhere => true
  | .slot s =>
    (blockOf s.u).isSome && decide (blockOf s.u = blockOf (c.physUnit d.unit)) && (decide (d.kind ≠ .soak) || decide (28 ≤ s.slot.val))
  | .handle h => readReaches (c.physUnit d.unit) h.space

/-- Whether a step's output waits in the handshake: its slot is FULL (R77, R80). -/
def Chip.destWaits (c : Chip) (run : StepRun) : Dest → Bool
  | .slot s => c.slotFull (c.bondSlot run.desc s)
  | _ => false

/-- Writes a step's output bytes; a failed handle check writes nothing and is class 0x12 (R72). -/
def Chip.writeOut (c : Chip) (who : Issuer) (run : StepRun) (d : Dest) (b : List Byte) : Chip × Bool :=
  match d with
  | .nowhere => (c, true)
  | .slot s => (c.writeSlot (c.bondSlot run.desc s) 0 b, true)
  | .handle h =>
    match c.checkHandle who h true b.length with
    | some _ => (c.handleFault 0x12 who (tableNo h.space), false)
    | none => (c.writeHandle h b, true)

/-- Bytes of a step's outputs: the elements, then scale entries of 8 bytes. (DEDUCED, log entry 88) -/
def outBytes (o : QOut) (scales : List ScaleEntry) : List Byte :=
  tensorBytes o.fmt o.codes ++ scales.flatMap (leBytes 8)

/-! ## Rollback and loss -/

/-- A unit's step has ended: its held epoch is released and edits that waited for it run (R272, R274); an item that
was to end at this boundary ends (R548); its blocks stop for a pre-emption, or go back (R369, R376). -/
def Chip.unitFree (c : Chip) (u : Nat) (item : Option Nat) : Chip :=
  let c := ((c.setRun u none).boundary u).kvRun
  match item with
  | some n => c.endDue n
  | none => c

/-- A step is rolled back: it has released no slot, filled none and written nothing (R83, R370). -/
def Chip.rollBack (c : Chip) (u : Nat) : Chip :=
  match c.runOf u with
  | none => c
  | some run => (c.undoSlots u).unitFree u run.desc.item

/-- Classes whose step ends without outputs and whose item is re-run (R391). -/
def lossClasses : List Nat := [0x03, 0x10, 0x20, 0x30, 0x33]

/-- A step ended without writing its outputs (R391). -/
def Chip.stepLost (c : Chip) (u : StepUnit) (cls : Nat) : Chip :=
  match c.runOf (unitNo u) with
  | none => c
  | some run =>
    let c := if lossClasses.contains cls then c.log cls (c.locOf (c.physUnit u) run.desc.part.val) else c
    ((c.loseStep (unitNo u)).kvRun)

/-! ## Scale skew -/

/-- Key of an item in the lists of chapter 7: item + 1, 0 for work without one. -/
def itemKey (o : Option Nat) : Nat := match o with | some n => n + 1 | none => 0

/-- Key of a step in the mismatch list: its unit, its program and its item. -/
def StepRun.key (r : StepRun) : Nat × Nat × Nat := (unitNo r.desc.unit, r.desc.prog, itemKey r.desc.item)

/-- A second mismatch: the fields reached fail and are counted for the item's origin (R220). -/
def Chip.skewFail (c : Chip) (run : StepRun) (fields : List Nat) : Chip :=
  let c := c.bump F.QNT_CNT_SKEW_FAIL run.desc.part.val
  let c := c.log 0x05 (c.locOf (c.physUnit run.desc.unit) run.desc.part.val)
  match run.desc.item with
  | none => c
  | some n =>
    match c.item n with
    | none => c
    | some i =>
      let ks := if fields = [] then List.range i.fields.length else fields
      let hit := ks.filter (fun k => match i.fields[k]? with | some f => f.code.isNone | none => false)
      let c := c.bump F.QNT_SKEW_FIELDS i.origin 0 hit.length
      let c := if i.skewed then c else
        (c.bump F.QNT_SKEW_ITEMS i.origin).modItem n (fun i => { i with skewed := true })
      c.failFields n ks (txt "scale-skew")

/-- A step is issued again from the slots that it read, its mismatch noted; re-executions after cell errors count anew
(R219, R221). -/
def Chip.skewAgain (c : Chip) (run : StepRun) : Chip :=
  let u := unitNo run.desc.unit
  let c := c.undoSlots u
  let c := c.setRun u (some { run with tries := 0, firstMove := c.mem.nextMove, freed := [] })
  (c.updSched (fun s => { s with skews := s.skews ++ [run.key] })).bump F.QNT_CNT_SKEW_RERUN run.desc.part.val

/-! ## The wide re-run (R222 to R226) -/

/-- Key of a tile of a step's item. -/
def tileKey (run : StepRun) (layer tile : Nat) : Nat × Nat × Nat := (itemKey run.desc.item, layer, tile)

/-- A wide output goes to the area under RERUN_HND, its tile's format bit is set, and what the re-run met is counted; QNT_CNT
has no field for its saturations, only the re-runs themselves (R224, R226, Table 7-8). (DEDUCED, log entry 119) -/
def Chip.wideWrite (c : Chip) (who : Issuer) (run : StepRun) (t : WideTile) (o : QOut) : Chip × Bool :=
  match run.desc.unit with
  | .block r lb =>
    let x := c.writeOut who run (.handle ⟨.block r lb, t.quant.rerunHnd.val, 0⟩) (tensorBytes o.fmt o.codes)
    let k := tileKey run t.quant.layer t.tile
    if x.2 then ((x.1.updSched (fun s => { s with
      wideTile := s.wideTile.filter (· ≠ k) ++ [k], wideDue := s.wideDue.filter (· ≠ k) })).countQ o.cnt, true) else x
  | _ => (c, true)

/-- The budget of a layer has been used for the step's item (R225). -/
def Chip.wideUsed (c : Chip) (run : StepRun) (layer : Nat) : Bool :=
  match run.desc.item.bind c.item with
  | some i => i.wides.contains layer
  | none => false

/-- A tile has met the condition: within budget its re-run is done, and beyond it, it is overflow work of the item, which
carries the wide-overflow flag (R224, R225). -/
def Chip.wideMet (c : Chip) (who : Issuer) (run : StepRun) (t : WideTile) (o : QOut) : Chip × Bool :=
  let p := run.desc.part.val
  if c.wideUsed run t.quant.layer then
    let c := (c.bump F.QNT_CNT_WIDE_OVF p).updSched (fun s => { s with wideDue := s.wideDue ++ [tileKey run t.quant.layer t.tile] })
    ((match run.desc.item with
      | none => c
      | some n => (c.flagItem n 2048).overflowItem n), true)
  else
    let c := c.bump F.QNT_CNT_WIDE_RERUN p
    let c := match run.desc.item with
      | none => c
      | some n => c.modItem n (fun i => { i with wides := i.wides ++ [t.quant.layer] })
    c.wideWrite who run t o

/-- Whether a step does the re-run of a tile that is due as overflow work: in the partition that runs the item's overflow work,
or, for work of a BE partition, in that partition (R225, R362). -/
def Chip.wideDoes (c : Chip) (run : StepRun) (t : WideTile) : Bool :=
  c.sched.wideDue.contains (tileKey run t.quant.layer t.tile) && decide (run.desc.kind ≠ .lc)

/-! ## Work with an effect elsewhere -/

/-- Where a page walker's fault is logged. -/
def Chip.walkerLoc (c : Chip) (u : StepUnit) (part : Nat) : Loc :=
  match c.physUnit u with
  | .block r b => c.locOf (.walker r b) part
  | x => c.locOf x part

/-- The walker of a step's block by its number (R68). -/
def Chip.walkerNo (c : Chip) (u : StepUnit) : Nat :=
  match c.physUnit u with
  | .block r b => 9 * r.val + b.val
  | _ => 36

/-- A walker's use of an entry that is not a page (R266, R269). -/
def Chip.kvMiss (c : Chip) (run : StepRun) (k : KvUse) : Chip :=
  match run.desc.item, k with
  | some n, .starved => c.kvExhausted n
  | some n, _ => c.kvFault n (c.walkerLoc run.desc.unit run.desc.part.val)
  | none, .starved => c.bump F.KV_CNT0_EXHAUST
  | none, _ => (c.log 0x14 (c.walkerLoc run.desc.unit run.desc.part.val)).bump F.KV_CNT0_KV_FAULT

/-- An attention step: the walker's reads, with the step's loss where they meet an uncorrectable word (R87); its rows with
their status and their counts, or its fault (R269, R286, R287); false when it wrote no outputs. -/
def Chip.attendStep (c : Chip) (who : Issuer) (run : StepRun) (w : AttnWork) (d : Dest) : Chip × Bool :=
  let u := unitNo run.desc.unit
  let x := c.walkerNo run.desc.unit
  let sets := (c.attnSets x w run.epoch).1
  match c.attend who x w run.epoch with
  | .cellError => (c.cellError u (c.workSite run.desc false) true, false)
  | .maskFault => (c.handleFault 0x12 who 32, false)
  | .use k => ((c.walkAhead x w.seq run.epoch sets.length).kvMiss run k, true)
  | .out codes sat masked nan =>
    let r := (c.walkAhead x w.seq run.epoch (sets.length - 1)).meetAll (c.attnGrans w sets)
    if r.2 then ((r.1.loseStep u).kvRun, false)
    else
      let r := r.1.writeOut who run d (tensorBytes w.outFmt codes)
      if !r.2 then r
      else
        let c := r.1.bump F.QNT_FP_OVF_SAT 0 0 sat
        let c := c.updSched (fun s => { s with maskedRows := smSet [] s.maskedRows u masked })
        let k := (masked.filter id).length
        let c := c.bump F.KV_CNT0_MASKED_ROW 0 0 k
        let c := if k = 0 then c else (match run.desc.item with | some n => c.flagItem n 1024 | none => c)
        (c.bump F.KV_CNT0_NAN_ROW 0 0 (nan.filter id).length, true)

/-- A walker's write of a key and a value row, which the projection's requantisation made in the format of the cache: the
head's key elements, then its value elements (R259, R267, R268, R279); false for a cell error. (DEDUCED, log entry 88) -/
def Chip.kvWriteStep (c : Chip) (run : StepRun) (seq layer pos hkv dim head : Nat) (f : Fmt) (proj : MatWork) : Chip × Bool :=
  let u := unitNo run.desc.unit
  let bad := (c.cellError u (c.workSite run.desc false) true, false)
  match matLanes proj.aFmt proj.wFmt proj.za proj.lanes with
  | none => bad
  | some o =>
    if !kvFmtOk f || o.fmt ≠ f then bad
    else if pos ≥ 4096 then
      match run.desc.item with
      | none => (c, true)
      | some n =>
        (match c.item n with
         | none => (c, true)
         | some i =>
           if i.ended.isSome ∨ i.field ≥ i.fields.length then (c, true)
           else (((c.flushHeld n i.field).endField n i.field 3 (txt "context-full")).nextField n, true))
    else
      let x := c.walkerNo run.desc.unit
      let c := c.walkAhead x seq run.epoch (pos / 16)
      match c.kvUse x seq run.epoch (pos / 16) ((c.kvSlot seq).layers - 1) with
      | .page k =>
        if k.refs ≠ 1 then (c.kvMiss run .fault, true)
        else
          let d := headDim dim
          (((c.kvPut k layer f hkv d head (pos % 16) false (o.codes.take d)).kvPut k layer f hkv d head (pos % 16) true
            ((o.codes.drop d).take d)).countQ o.cnt, true)
      | k => (c.kvMiss run k, true)

/-- Where a band's descriptor lies: in its ring buffer, or in the retention area once it has none. -/
def Chip.bandRef (c : Chip) (i : Item) (x : Band) : Option HRef :=
  match x.buffer with
  | some k => some (c.ringRef i.origin k)
  | none => ((c.stream i.origin).retained.find? (fun e => e.1 = i.num)).map (fun e => c.retRef i.origin e.2 x.idx)

/-- A layout step of a band writes its STEER mask into the band's descriptor (Table 5-2). -/
def Chip.layoutStep (c : Chip) (who : Issuer) (n band steer : Nat) : Chip × Bool :=
  match c.item n with
  | none => (c, true)
  | some i =>
    match i.bands.find? (fun x => x.idx = band) with
    | none => (c, true)
    | some x =>
      let c' := c.modItem n (fun i => { i with bands := i.bands.map (fun x => if x.idx = band then { x with steer := steer } else x) })
      match c.bandRef i x with
      | none => (c', true)
      | some h =>
        match c.checkHandle who h true 64 with
        | some _ => (c.handleFault 0x12 who (tableNo h.space), false)
        | none =>
          let d := c.readHandle h 64
          (c'.writeHandle h (d.take 32 ++ leBytes 16 steer ++ d.drop 48), true)

/-- Whether columns `x0` to `x1` meet a strip that a mask sets, widened by `grow` strips on each side (R166). -/
def stripHit (mask grow width x0 x1 : Nat) : Bool :=
  (List.range 128).any (fun k => decide (k * width ≤ x1) && decide (x0 < (k + 1) * width) &&
    (List.range 128).any (fun j => bitOf mask j && decide (j ≤ k + grow) && decide (k ≤ j + grow)))

/-- Whether steered mode leaves out a line: it lies wholly in one band after the first, in columns `x0` to `x1` outside the
steered strips of the band before, whose mask is not empty (R166, R167). -/
def Chip.steeredOut (c : Chip) (i : Item) (bands : List Nat) (x0 x1 : Nat) : Bool :=
  decide (i.origin < 16) && bitOf i.flags 6 &&
  match bands with
  | [k + 1] =>
    (match i.bands.find? (fun x => x.idx = k) with
     | some x => decide (x.steer ≠ 0) &&
       !stripHit x.steer (c.get F.BAND_HND_GROW i.origin) (ceilDiv (c.get F.SNS_CFG_PIXELS i.origin) 128) x0 x1
     | none => false)
  | _ => false

/-- A decode step: a record whose bytes hold an uncorrectable word is not decoded, and the step is lost (R87, R178); the steps
that it ran in the LC share count towards the envelope (R191). -/
def Chip.laneStep (c : Chip) (run : StepRun) (n : Nat) : Chip × Bool :=
  match c.item n with
  | none => (c, true)
  | some i =>
    let r := if i.decoding then c.meetAll (c.recGrans i) else (c, false)
    if r.2 then ((r.1.loseStep (unitNo run.desc.unit)).kvRun, false)
    else
      let c := if run.desc.kind = .lc then
          r.1.modItem n (fun i => { i with laneSteps := i.laneSteps + 16 * run.desc.wcet }) else r.1
      (c.decodeStep n, true)

/-- Work that belongs to an item, by its kind. -/
def Chip.itemWork (c : Chip) (who : Issuer) (run : StepRun) (n : Nat) (w : StepWork) : Chip × Bool :=
  match w with
  | .decode => c.laneStep run n
  | .layout band steer => c.layoutStep who n band steer
  | .recognise line bands x0 x1 chars text image inField =>
    (match c.item n with
     | some i => if c.steeredOut i bands x0 x1 then c else c.recognise n line chars text image inField
     | none => c, true)
  | .prefill => (c.prefill n, true)
  | .fieldToken fp32 logits =>
    (((c.formBegin n).fieldToken n fp32 logits).modItem n (fun i => { i with tokSlot := some run.at_ }), true)
  | _ => (c, true)

/-- The outputs of a step are written, and a tile's wide re-run follows where it meets the condition; the re-run's own cell
error leaves the step without outputs (R223 to R225). -/
def Chip.outStep (c : Chip) (who : Issuer) (run : StepRun) (w : StepWork) (d : Dest) (o : QOut) (scales : List ScaleEntry) :
    Chip × Bool :=
  let u := unitNo run.desc.unit
  let plain := fun (c : Chip) => let r := c.writeOut who run d (outBytes o scales); if r.2 then (r.1.countQ o.cnt, true) else r
  match wideTileOf w with
  | none => plain c
  | some t =>
    let err := (c.cellError u (c.siteOf run.desc.unit (2 * t.pair.val)) true, false)
    if c.wideDoes run t then
      match t.out with
      | none => err
      | some x => c.wideWrite who run t x
    else
      let met := wideCond t.quant o.cnt.sat o.codes.length
      match met && !c.wideUsed run t.quant.layer, t.out with
      | true, none => err
      | _, _ =>
        let k := tileKey run t.quant.layer t.tile
        let r := plain (c.updSched (fun s => { s with wideTile := s.wideTile.filter (· ≠ k), wideDue := s.wideDue.filter (· ≠ k) }))
        if r.2 && met then r.1.wideMet who run t (t.out.getD ⟨.int16, [], QCnt.none⟩) else r

/-- The work that a step does: its wide variant where a tile that it reads has its format bit set (R224). -/
def Chip.chosenWork (c : Chip) (run : StepRun) (w : StepEndIn) : StepWork :=
  if w.uses.any (fun e => c.sched.wideTile.contains (tileKey run e.1 e.2)) then w.wide else w.work

/-- The effect of a completed step's work; false when the step has not completed: it is re-executed, re-issued, or has
been lost. -/
def Chip.perform (c : Chip) (run : StepRun) (w : StepEndIn) : Chip × Bool :=
  let u := unitNo w.unit
  let who : Issuer := ⟨c.physUnit w.unit, some run.desc.part⟩
  let work := c.chosenWork run w
  match workScales work with
  | some (s, first, n, fields) =>
    if tagSkew s first n then
      if c.sched.skews.contains run.key then
        let c := c.updSched (fun s => { s with skews := s.skews.filter (· ≠ run.key) })
        let r := c.writeOut who run w.dst (outBytes (skewOut work) [])
        if r.2 then (r.1.skewFail run fields, true) else r
      else (c.skewAgain run, false)
    else
      let c := c.updSched (fun s => { s with skews := s.skews.filter (· ≠ run.key) })
      (match workOut work with
       | .out o scales => c.outStep who run work w.dst o scales
       | _ => (c.cellError u (c.workSite run.desc true) true, false))
  | none =>
    if !unitCan run.desc work then (c.cellError u (c.workSite run.desc false) true, false)
    else
      match workOut work with
      | .cellError v => (c.cellError u (c.workSite run.desc v) true, false)
      | .out o scales => c.outStep who run work w.dst o scales
      | .other =>
        match work with
        | .attend a => c.attendStep who run a w.dst
        | .kvWrite seq layer pos hkv dim head f proj => c.kvWriteStep run seq layer pos hkv dim head f proj
        | .adapterProj set proj x base =>
          (match c.adapterProj (run.desc.item.getD (2 ^ 32)) set.val proj x base with
           | none => (c.cellError u (c.workSite run.desc false) true, false)
           | some o => c.outStep who run work w.dst o [])
        | x =>
          (match run.desc.item with
           | some n => c.itemWork who run n x
           | none => (c, true))

/-- A commit point (R390): the progress record advances. -/
def Chip.commitPoint (c : Chip) (n : Nat) : Chip :=
  c.modItem n (fun i => { i with
    commits := i.commits + 1
    wideMark := i.wides
    kvMark := match i.kvSlot with | some q => (c.kvSlot q).entries.length | none => 0 })

/-- Bands whose last consumer has released them (R161). -/
def Chip.releaseBands (c : Chip) (n : Nat) (bs : List Nat) : Chip :=
  (c.modItem n (fun i => { i with bands := i.bands.map (fun x =>
    if bs.contains x.idx then { x with released := true } else x) })).freeRing n

/-- A step ends late: after the last slot that it covers, a soak step after the block's next LC slot tick (R352, R357).
(DEDUCED, log entry 87) -/
def Chip.overruns (c : Chip) (run : StepRun) : Bool :=
  match run.desc.unit, run.desc.kind with
  | .block r lb, .soak => (List.range (c.slotNo - run.at_)).any (fun k =>
      decide (bitsOf (c.tableEntry r.val (run.at_ + 1 + k) lb.val) 58 2 = 1) && decide (c.nowNs > (run.at_ + 1 + k) * 125000))
  | _, _ => decide (c.nowNs > (run.at_ + run.desc.span + 1) * 125000)

/-- An overrun is counted at the step's end (R352, R357). -/
def Chip.countOverrun (c : Chip) (run : StepRun) : Chip :=
  match unitRegion run.desc.unit with
  | some r => if c.overruns run then c.bump F.SCHED_CNT_OVR_STEP r else c
  | none => c

/-- Work whose output a later stage reads is a commit point whatever else the step does (R390). -/
def workCommits : StepWork → Bool
  | .decode => true
  | .layout _ _ => true
  | .recognise _ _ _ _ _ _ _ _ => true
  | .prefill => true
  | .fieldToken _ _ => true
  | _ => false

/-- Whether a step may do its work now: an item's fields have one token a slot (R312), and of an LC partition's item the
lines, prompts and tokens that are overflow work run in the overflow partition, the others in the item's own (R362). -/
def Chip.workFits (c : Chip) (run : StepRun) (w : StepWork) : Bool :=
  match run.desc.item.bind c.item with
  | none => true
  | some i =>
    if (match w with | .fieldToken _ _ => decide (i.tokSlot = some run.at_) | _ => false) then false
    else if c.flag F.PART_CFG_KIND i.part then true
    else
      let ovf := decide (run.desc.kind ≠ .lc)
      match w with
      | .recognise line _ _ _ _ _ _ _ => i.lineOverflow line == ovf
      | .prefill => c.textOverflow i == ovf
      | .fieldToken _ _ => c.textOverflow i == ovf
      | _ => true

/-- STEP_END of a step that ran to its end. -/
def Chip.stepDone (c : Chip) (run : StepRun) (w : StepEndIn) : Chip :=
  let u := unitNo w.unit
  let dead := match run.desc.item.bind c.item with
    | some i => i.ended.isSome
    | none => run.desc.item.isSome
  if dead then
    let c := c.countOverrun run
    (match run.desc.item with | some n => c.releaseBands n w.releases | none => c).unitFree u none
  else
    let r := c.perform run w
    if !r.2 then r.1.kvRun
    else
      let c := r.1.countOverrun run
      match run.desc.item with
      | none => c.unitFree u none
      | some n =>
        let c := if w.commit || workCommits w.work then c.commitPoint n else c
        let c := c.releaseBands n w.releases
        let c := c.unitFree u (some n)
        if w.lastOfItem then c.settleItem n none else c

/-- STEP_END (R352): a step whose output slot is FULL does not end yet (R77). (DESIGN CHOICE, log entry 108) -/
def Chip.stepEnd (c : Chip) (w : StepEndIn) : Chip :=
  match c.runOf (unitNo w.unit) with
  | none => c
  | some run =>
    match w.outcome with
    | .done => if !c.destOk run.desc w.dst || c.destWaits run w.dst || !c.workFits run w.work then c else c.stepDone run w
    | .reexecuted site => if c.errorSite run.desc site then c.cellError (unitNo w.unit) site false else c
    | .rolledBack => c.rollBack (unitNo w.unit)
    | .lost cls => c.stepLost w.unit cls

/-! ## Cut-off -/

/-- The egress budget of an origin in ns (R365). -/
def Chip.egressNs (c : Chip) (o : Nat) : Nat := ((c.image.egressUs.find? (fun e => e.1 = o)).map (·.2)).getD 0 * 1000

/-- ITEM_CUTOFF: at the first slot tick at or after its cut-off, its deadline less its egress budget, an LC item whose fields
have not all ended ends LATE, when its running step ends (R365, R548). (DEDUCED, log entry 94) -/
def Chip.itemCutoff (c : Chip) (n : Nat) : Chip :=
  match c.item n with
  | none => c
  | some i =>
    match i.live && i.ended.isNone, i.deadline with
    | true, some t =>
      if Stamp.toNs t > c.slotNo * 125000 + c.egressNs i.origin then c else (c.endSoon n ⟨2, []⟩).endDue n
    | _, _ => c

end Sys2Proof.Machine
end

