-- ==== Sys2Proof/Machine/Partition.lean ====
section
/-!
DEFINITION. Chapter 12: lending and pre-emption (R367 to R374), enabling, draining and disabling (R375 to R377,
R126, R127, R170, R171, R337, R462).
-/

namespace Sys2Proof.Machine

/-! ## Lending -/

/-- The partition that serves a stream. -/
def Chip.streamPart (c : Chip) (n : Nat) : Nat := ((c.image.partOf.find? (fun e => e.1 = n)).map (·.2)).getD 0

/-- The streams of the image that a partition serves. -/
def Chip.servedStreams (c : Chip) (p : Nat) : List Nat :=
  (List.range 16).filter (fun n => c.get F.SNS_CFG_GEN n ≠ 0 ∧ c.streamPart n = p)

/-- The submitting sessions that a partition serves. -/
def Chip.servedSubs (c : Chip) (p : Nat) : List Nat := (List.range 32).filter (fun s => c.get F.SUB_CFG_PART s = p)

/-- An LC partition holds no item and captures no page (R367). -/
def Chip.partIdle (c : Chip) (p : Nat) : Bool :=
  !(c.inFlight.any (fun i => i.part = p)) && !((c.servedStreams p).any (fun n => (c.stream n).page.isSome))

/-- Whether a partition's blocks can be lent: idle blocks, a borrower in service, no schedule fault in their regions
(R367, R409). -/
def Chip.mayLend (c : Chip) (p : Nat) : Bool :=
  let b := c.get F.PART_CFG_BORROWER p
  c.flag F.PART_CFG_VALID p && !c.flag F.PART_CFG_KIND p && decide (c.get F.PART_CFG_LEND_IDLE p ≠ 0) &&
    !c.flag F.PART_CFG_LENT p && (smGet none c.sched.preempt p).isNone &&
    c.flag F.PART_CFG_VALID b && c.flag F.PART_CFG_KIND b && decide (c.get F.PART_CFG_STATE b = 3) &&
    (c.partUnits p).all (fun u => (c.sched.faultAt.getD (u / 8) none).isNone && (c.runOf u).isNone)

/-- The block handles of a partition on a block, as the image lists them for spilling and as it gives their entries. -/
def Chip.listedKeys (c : Chip) (b u : Nat) : List Nat :=
  (((c.image.spillSets.find? (fun e => e.1 = b)).map (·.2)).getD []).filter (fun k =>
    decide (k / 64 = u) && c.image.blockHandles.any (fun e => e.1 = k ∧ (blockHandle e.2).valid ∧ (blockHandle e.2).owner = b))

/-- A block is lent: from the present slot on it steps through the lent table, and its entries of the borrower's handles are
there (R73, R367, R373). -/
def Chip.lendBlock (c : Chip) (b u : Nat) : Chip :=
  ((c.listedKeys b u).foldl (fun c k => c.setHndValid k true) c).serveFrom u c.slotNo

/-- The blocks of a partition are lent from this course boundary on (R367). -/
def Chip.lend (c : Chip) (p : Nat) : Chip :=
  let c := (c.setLent p true).updSched (fun s => { s with lendAt := smSet 0 s.lendAt p (c.courseK + 1) })
  (c.partUnits p).foldl (fun c u => c.lendBlock (c.get F.PART_CFG_BORROWER p) u) c

/-- LENDING_START at a course boundary (R367, R376). -/
def Chip.lending (c : Chip) : Chip :=
  (List.range 16).foldl (fun c p =>
    if !c.flag F.PART_CFG_VALID p || c.flag F.PART_CFG_KIND p then c
    else
      let k := if c.partIdle p then smGet 0 c.sched.idle p + 1 else 0
      let c := c.updSched (fun s => { s with idle := smSet 0 s.idle p k, lendAt := smSet 0 s.lendAt p 0 })
      let st := c.get F.PART_CFG_STATE p
      if c.mayLend p && (decide (st = 3 ∧ k ≥ c.get F.PART_CFG_LEND_IDLE p) || decide (st = 0)) then c.lend p else c) c

/-! ## Pre-emption -/

/-- Sets the pre-emption of a partition's blocks. -/
def Chip.setPreempt (c : Chip) (p : Nat) (x : Option Preempt) : Chip :=
  c.updSched (fun s => { s with preempt := smSet none s.preempt p x })

/-- The variant that a switch under way leads to takes a BE partition's blocks (R368). -/
def Chip.switchTakes (c : Chip) (p : Nat) : Bool :=
  c.flag F.PART_CFG_KIND p && c.flag F.VAR_STAT_SWITCHING &&
  (match c.recov.target.bind (fun t => c.image.variants.find? (fun v => v.id = t)) with
   | some v => v.takesFromBe.any (fun x => x.val = p)
   | none => false)

/-- An admission asks for the lent blocks of an LC partition: it holds a page, or a record of a live session (R368). -/
def Chip.wantsBack (c : Chip) (p : Nat) : Bool :=
  c.lends p && c.inFlight.any (fun i => decide (i.part = p) && (decide (i.origin < 16) || i.live))

/-- A lending that began in this course does not take effect; the borrower's entries go, its blocks hold nothing (R374). -/
def Chip.undoLending (c : Chip) (p : Nat) : Chip :=
  (c.unlend p).updSched (fun s => { s with lendAt := smSet 0 s.lendAt p 0, idle := smSet 0 s.idle p 0 })

/-- A decode lane's step of a partition that waits for a record still arriving abandons its wait (R192, R370). -/
def Chip.yieldLanes (c : Chip) (b : Nat) : Chip :=
  [36, 37, 38, 39].foldl (fun c u =>
    match c.runOf u with
    | some run =>
      if run.desc.part.val = b ∧ run.desc.ext = true ∧ (run.desc.item.bind c.item).any (fun i => !i.complete) = true
      then c.rollBack u else c
    | none => c) c

/-- The yield request at a block: an idle block stops at once, a step that may wait outside the chip is rolled back, any other
runs to its end (R369, R370). -/
def Chip.yieldBlock (c : Chip) (u : Nat) : Chip :=
  match c.runOf u with
  | none => c.stopBlock u
  | some run => if run.desc.ext then c.rollBack u else c.modRun u (fun r => { r with yield := true })

/-- PREEMPTION (R368 to R370, R374): a trigger takes back partition `p`'s blocks, or gives a BE partition's to an LC one;
triggers that come while one is under way join it. (DEDUCED, log entry 91) -/
def Chip.preemption (c : Chip) (p : Nat) : Chip :=
  if (smGet none c.sched.preempt p).isSome || !(c.wantsBack p || c.switchTakes p) then c
  else if c.lends p ∧ smGet 0 c.sched.lendAt p = c.courseK + 1 then c.undoLending p
  else
    let victim := if c.lends p then c.get F.PART_CFG_BORROWER p else p
    let c := (c.setPreempt p (some ⟨victim, c.upNs, false, [], []⟩)).bump F.PART_CNT_PREEMPT p
    (c.partUnits p).foldl Chip.yieldBlock (c.yieldLanes victim)

/-- The spill set that Poingo lists for a partition, with each handle's offset in the spill area. -/
def Chip.spillList (c : Chip) (b : Nat) : List (Nat × Nat) :=
  let ks := ((c.image.spillSets.find? (fun e => e.1 = b)).map (·.2)).getD []
  (ks.foldl (fun (acc : List (Nat × Nat) × Nat) k =>
    (acc.1 ++ [(k, acc.2)], acc.2 + (c.handle (keyRef k)).size * 128)) ([], 0)).1

/-- The granules of the spill area that hold a handle's content. -/
def Chip.spillGrans (c : Chip) (b k : Nat) : List Gran :=
  match (c.spillList b).find? (fun e => e.1 = k) with
  | none => []
  | some e => (List.range ((c.handle (keyRef k)).size * 2)).map (fun g =>
      c.granOf ⟨.ddr, c.get F.PART_SPILL_HANDLE b, e.2⟩ (e.2 + 64 * g))

/-- SPILL_COMPLETE (R369): every affected block has stopped, the spill set is in DDR4, buffer slots are FREE, epochs
released; a disabled victim's spilled work is dropped (R374). -/
def Chip.spillComplete (c : Chip) (p : Nat) : Chip :=
  match smGet none c.sched.preempt p with
  | none => c
  | some x =>
    if x.spilled || !((c.partUnits p).all x.stopped.contains) then c
    else
      let b := x.victim
      let c := x.out.foldl (fun c e => (c.carry (e.2.zip (c.spillGrans b e.1))).1) c
      let c := (c.partUnits p).foldl Chip.freeBlock c
      let keep := decide (c.get F.PART_CFG_STATE b = 3)
      let c := c.updSched (fun s => { s with
        spillSet := if keep then smMod [] s.spillSet b (· ++ x.out.map (·.1)) else s.spillSet, idle := smSet 0 s.idle p 0 })
      let c := if c.flag F.PART_CFG_KIND p then c else c.setLent p false
      (c.setPreempt p (some { x with spilled := true })).kvRun

/-- The switch of a pre-emption at the first slot tick after its spill; beyond 500 µs it is late.  Blocks that a variant takes
wait for its switch (R369, R372, R396). (DEDUCED, log entry 91) -/
def Chip.preemptTick (c : Chip) : Chip :=
  c.sched.preempt.foldl (fun c e =>
    match e.2 with
    | none => c
    | some x =>
      if !x.spilled || c.switchTakes e.1 then c
      else
        let c := (c.partUnits e.1).foldl (fun c u => c.serveFrom u c.slotNo) (c.setPreempt e.1 none)
        if c.upNs > x.start + 500000 then c.bump F.PART_CNT_PRE_LATE e.1 else c) c

/-- The blocks that a partition borrows now, those that a pre-emption takes back excepted. -/
def Chip.borrowed (c : Chip) (b : Nat) : List Nat :=
  ((List.range 16).filter (fun q => c.lends q && decide (c.get F.PART_CFG_BORROWER q = b) &&
    (smGet none c.sched.preempt q).isNone)).flatMap c.partUnits

/-- SPILL_RESTORE: the borrower's spilled handles on blocks lent again are restored (R373). -/
def Chip.spillRestore (c : Chip) (p : Nat) : Chip :=
  let b := if c.flag F.PART_CFG_KIND p then p else c.get F.PART_CFG_BORROWER p
  let back := (smGet [] c.sched.spillSet b).filter (fun k => (c.borrowed b).contains (k / 64))
  let c := back.foldl (fun c k => (c.carry ((c.spillGrans b k).zip (c.handleGrans (keyRef k)))).1) c
  c.updSched (fun s => { s with spillSet := smMod [] s.spillSet b (fun l => l.filter (fun k => !back.contains k)) })

/-! ## Disabling -/

/-- Items of a function whose BE work is cancelled at their next step boundary (R375 step 3): not a page in capture
(R22) nor a record still arriving (R171). (DEDUCED, log entry 93) -/
def Chip.cancelBe (c : Chip) (sel : Item → Bool) : Chip :=
  (c.inFlight.filter (fun i => sel i && c.flag F.PART_CFG_KIND i.part && !c.flag F.PART_CTRL_DRAIN_BE i.part &&
    (if i.origin < 16 then decide (((c.stream i.origin).page.bind (·.item)) ≠ some i.num) else i.complete))).foldl
    (fun c i => c.endSoon i.num ⟨4, txt "disabled"⟩) c

/-- A disable of a stream (R126, R127, Table 4-6). (DEDUCED, log entry 92) -/
def Chip.disableStream (c : Chip) (n : Nat) : Chip :=
  let c := c.abortCapture n
  match c.get F.SNS_STATE_STATE n with
  | 3 => (((c.put F.SNS_STATE_STATE 4 n).beginDrain n)).cancelBe (fun i => i.origin = n)
  | 1 => c.streamOff n
  | 2 => c.streamOff n
  | 5 => c.streamOff n
  | _ => c

/-- An enable of a stream (R126, R375). -/
def Chip.enableStream (c : Chip) (n : Nat) : Chip :=
  match c.get F.SNS_STATE_STATE n with
  | 0 => c.streamEnabling n
  | 4 => c.updSched (fun s => { s with enableAfter := smSet false s.enableAfter n true })
  | _ => c

/-- A disable of a submitting session (R171). (DEDUCED, log entry 92) -/
def Chip.disableSub (c : Chip) (s : Nat) : Chip :=
  let st := c.get F.SUB_CFG_STATE s
  if st = 2 ∨ st = 3 then
    ((c.put F.SUB_CFG_STATE 4 s).beginDrain (16 + s)).cancelBe (fun i => i.origin = 16 + s)
  else c

/-- An enable of a submitting session: a live one waits for the first clock lock (R170). -/
def Chip.enableSub (c : Chip) (s : Nat) : Chip :=
  match c.get F.SUB_CFG_STATE s with
  | 0 => (c.put F.SUB_CFG_STATE (if c.flag F.SUB_CFG_LIVE s ∧ ¬ c.locked then 2 else 3) s).grant s
  | 4 => c.updSched (fun x => { x with enableAfter := smSet false x.enableAfter (16 + s) true })
  | _ => c

/-- A disable of a result session (R462). -/
def Chip.disableResult (c : Chip) (s : Nat) : Chip :=
  if c.get F.SESS_STAT_STATE s = 3 then (c.put F.SESS_STAT_STATE 4 s).beginDrain (48 + s) else c

/-- An enable of a result session: only one that drains is not enabled (R375). -/
def Chip.enableResult (c : Chip) (s : Nat) : Chip :=
  if c.get F.SESS_STAT_STATE s = 4 then
    c.updSched (fun x => { x with enableAfter := smSet false x.enableAfter (48 + s) true })
  else c

/-- A disable of a partition (R376); the ENABLE field follows, and one that drains stays as it is (R532).
(DEDUCED, log entry 81) -/
def Chip.disablePart (c : Chip) (p : Nat) : Chip :=
  if c.get F.PART_CFG_STATE p = 4 then c
  else if c.get F.PART_CFG_STATE p ≠ 3 then c.putB F.PART_CTRL_ENABLE false p
  else
    let c := c.putB F.PART_CTRL_ENABLE false p
    let c := (c.put F.PART_CFG_STATE 4 p).beginDrain (112 + p)
    let c := (c.servedStreams p).foldl Chip.disableStream c
    let c := (c.servedSubs p).foldl Chip.disableSub c
    (c.cancelBe (fun i => i.part = p)).returnLent

/-- An enable of a partition (R375, R532). (DEDUCED, log entry 81) -/
def Chip.enablePart (c : Chip) (p : Nat) : Chip :=
  let c := c.putB F.PART_CTRL_ENABLE true p
  match c.get F.PART_CFG_STATE p with
  | 0 => c.put F.PART_CFG_STATE 3 p
  | 4 => c.updSched (fun s => { s with enableAfter := smSet false s.enableAfter (112 + p) true })
  | _ => c

/-- A disable of adaptation: without FINISH a running update is cancelled at its next step boundary (R337).
(DEDUCED, log entry 81) (DEDUCED, log entry 86) -/
def Chip.disableAdapt (c : Chip) : Chip :=
  if c.get F.ADAPT_CTRL_STATE = 4 then c
  else if c.get F.ADAPT_CTRL_STATE ≠ 3 then c.putB F.ADAPT_CTRL_ENABLE false
  else
    let c := c.putB F.ADAPT_CTRL_ENABLE false
    let c := (c.put F.ADAPT_CTRL_STATE 4).beginDrain 128
    if c.flag F.ADAPT_CTRL_FINISH then c
    else (List.range 8).foldl (fun c s => c.modSet s (fun a => { a with cancel := a.running.isSome })) c

/-- An enable of adaptation (R337). (DEDUCED, log entry 81) -/
def Chip.enableAdapt (c : Chip) : Chip :=
  let c := c.putB F.ADAPT_CTRL_ENABLE true
  match c.get F.ADAPT_CTRL_STATE with
  | 0 => c.put F.ADAPT_CTRL_STATE 3
  | 4 => c.updSched (fun s => { s with enableAfter := smSet false s.enableAfter 128 true })
  | _ => c

/-- Enables a function. -/
def Chip.enable (c : Chip) : Target → Chip
  | .stream n => c.enableStream n.val
  | .submit s => c.enableSub s.val
  | .result s => c.enableResult s.val
  | .partition p => c.enablePart p.val
  | .adaptation => c.enableAdapt

/-- Disables a function. -/
def Chip.disable (c : Chip) : Target → Chip
  | .stream n => c.disableStream n.val
  | .submit s => c.disableSub s.val
  | .result s => c.disableResult s.val
  | .partition p => c.disablePart p.val
  | .adaptation => c.disableAdapt

/-! ## The end of a drain -/

/-- Every resource of a draining function has been returned (R375, R127, R376, R337, R462).
(DEDUCED, log entry 80) -/
def Chip.drained (c : Chip) (t : Target) : Bool :=
  match t with
  | .stream n =>
    decide (c.get F.SNS_STATE_STATE n.val = 4) && !(c.items.list.any (fun i => i.origin = n.val)) &&
      ((c.stream n.val).page.bind (·.item)).isNone
  | .submit s => decide (c.get F.SUB_CFG_STATE s.val = 4) && !(c.items.list.any (fun i => i.origin = 16 + s.val))
  | .result s =>
    decide (c.get F.SESS_STAT_STATE s.val = 4) && (c.owedTo s.val).isEmpty && !(c.sess s.val).holds &&
      !(c.formed.any (fun f => f.sess = s.val))
  | .partition p =>
    decide (c.get F.PART_CFG_STATE p.val = 4) && !(c.items.list.any (fun i => i.part = p.val)) &&
      (c.servedStreams p.val).all (fun n => decide (c.get F.SNS_STATE_STATE n = 0)) &&
      (c.servedSubs p.val).all (fun s => decide (c.get F.SUB_CFG_STATE s = 0)) &&
      !(c.sched.running.any (fun e => (e.2.map (fun r => decide (r.desc.part = p))).getD false)) &&
      (p ≠ c.get F.ADAPT_CTRL_PART || (List.range 8).all (fun s => !c.updating s)) &&
      !(c.sched.preempt.any (fun e => (e.2.map (fun x => decide (x.victim = p.val))).getD false))
  | .adaptation =>
    decide (c.get F.ADAPT_CTRL_STATE = 4) && (List.range 8).all (fun s => !c.updating s) &&
      c.adapt.commit.isEmpty

/-- DISABLED is reported. -/
def Chip.switchOff (c : Chip) (t : Target) : Chip :=
  match t with
  | .stream n => c.streamOff n.val
  | .submit s => c.put F.SUB_CFG_STATE 0 s.val
  | .result s => c.sendClose s.val 4
  | .partition p =>
    let c := c.put F.PART_CFG_STATE 0 p.val
    let c := c.updSched (fun s => { s with spillSet := smSet [] s.spillSet p.val [], drainOver := smSet false s.drainOver p.val false })
    let c := if c.lends p.val then c else (c.partUnits p.val).foldl Chip.freeBlock c
    if c.flag F.PART_CFG_KIND p.val then
      (List.range 16).foldl (fun c q =>
        if c.lends q ∧ c.get F.PART_CFG_BORROWER q = p.val then c.unlend q else c) c
    else c
  | .adaptation => (c.put F.ADAPT_CTRL_STATE 0).adaptRelease

/-- DRAIN_COMPLETE: DISABLED is reported, and an enable that came during the drain takes effect (R375). -/
def Chip.drainComplete (c : Chip) (t : Target) : Chip :=
  if !c.drained t then c
  else
    let k := targetNo t
    let again := smGet false c.sched.enableAfter k
    let c := c.switchOff t
    let c := c.updSched (fun s => { s with drain := smSet none s.drain k none, enableAfter := smSet false s.enableAfter k false })
    if again then c.enable t else c

/-- DRAIN_TIMEOUT: every item of the partition still in flight ends CANCELLED: drain-timeout (R377). -/
def Chip.drainTimeout (c : Chip) (p : Nat) : Chip :=
  if ¬ c.draining (112 + p) then c
  else
    let c := c.updSched (fun s => { s with drainOver := smSet false s.drainOver p true })
    (c.inFlight.filter (fun i => i.part = p)).foldl (fun c i =>
      c.modItem i.num (fun i => { i with endNext := some ⟨4, txt "drain-timeout"⟩ })) c

end Sys2Proof.Machine
end

