-- ==== Sys2Proof/Machine/Recover.lean ====
section
/-!
DEFINITION. Chapter 13: re-runs, the variant switch, lost channels and ports, schedule and pace faults, the ledger,
the summary registers (R391 to R413, R529).
-/

namespace Sys2Proof.Machine

/-- Feed hold and record credit follow what a command changed (R131, R168). (DEDUCED, log entry 114) -/
def Chip.settle (c : Chip) : Chip :=
  if c.running then (List.range 32).foldl Chip.grant c.refreshHolds else c

/-! ## Re-runs -/

/-- Whether some row of the bytes that a handle names holds a poisoned word. -/
def Chip.refPoisoned (c : Chip) (h : HRef) (len : Nat) : Bool :=
  (List.range (ceilDiv len 64)).any (fun k => c.mem.poisoned (c.granOf h (h.off + 64 * k)))

/-- A retained input that a re-run still needs reads poisoned: a band its last consumer has not released, the bytes of a
record that is not decoded (R161, R178, R393). (DEDUCED, log entry 41) -/
def Chip.inputPoisoned (c : Chip) (i : Item) : Bool :=
  i.bands.any (fun b => !b.released && !b.dropped &&
    (match c.bandRef i b with
     | some h => c.refPoisoned h (c.bandSize i.origin)
     | none => false)) ||
  (decide (16 ≤ i.origin) && i.decoding && !i.captured && (c.recGrans i).any c.mem.poisoned)

/-- ITEM_RERUN: the item resumes from its last commit point, or stops when it may not (R391, R393).
(DEDUCED, log entry 41) -/
def Chip.itemRerun (c : Chip) (n : Nat) : Chip :=
  if !c.recov.rerun.contains n then c
  else
    let c := c.updRecov (fun v => { v with rerun := v.rerun.filter (· ≠ n) })
    match c.item n with
    | none => c
    | some i =>
      if i.ended.isSome || i.endNext.isSome then c
      else if i.reruns ≥ c.get F.FAULT_CFG_RERUN_MAX then (c.stopItem n (txt "rerun-limit")).endDue n
      else if i.lost || c.inputPoisoned i then (c.stopItem n (txt "input-lost")).endDue n
      else
        let c := (c.modItem n (fun i => { i with reruns := i.reruns + 1, wides := i.wideMark })).bump F.FAULT_CNT1_RERUN
        if i.kvSlot.isSome then c.kvTableEdit (.release n i.kvMark) else c

/-! ## The variant switch -/

/-- Whether a switch can be made: a course boundary, every region's course fence complete, and the blocks that it takes from BE
partitions given up (R63, R346, R368, R396). -/
def Chip.switchReady (c : Chip) (v : Variant) : Bool :=
  c.atBoundary && !c.fabric.late.any id &&
  v.takesFromBe.all (fun p => match smGet none c.sched.preempt p.val with | some x => x.spilled | none => false)

/-- Mask of a list of numbers. -/
def maskOf (l : List Nat) : Nat := l.foldl (fun m k => m ||| 2 ^ k) 0

/-- A word of a variant's hedges takes the place of a hedge register's (R395). -/
def loadHedge (c : Chip) (aw : Nat × Word) : Chip :=
  match findReg aw.1 with
  | some (.HEDGE, i, j) => c.setWord .HEDGE i j aw.2.toNat
  | some (.HEDGE_SYS, i, j) => c.setWord .HEDGE_SYS i j aw.2.toNat
  | _ => c

/-- The running variant becomes `v`: its number, its depth, what it sheds, its table length, its hedges and its DDR4 layout
(R395, R397). -/
def Chip.useVariant (c : Chip) (v : Variant) : Chip :=
  let c := v.hedges.foldl loadHedge c
  let c := c.updMem (fun m => { m with ddrHnd := v.ddrHandles.foldl (fun t e => smSet 0 t e.1 e.2) m.ddrHnd })
  let c := c.put F.SCHED_CFG_VARIANT v.id
  let c := c.put F.VAR_STAT_DEPTH_USED v.degr.length
  let c := c.put F.VAR_STAT_SHED_TR (c.get F.VAR_STAT_SHED_TR ||| maskOf (v.shedTr.map (·.val)))
  let c := c.put F.VAR_SHED_SUB_SHED (c.get F.VAR_SHED_SUB_SHED ||| maskOf (v.shedSub.map (·.val)))
  foldN 4 (fun c r => c.put F.SCHED_STAT_COURSES (v.courses - 1) r) c

/-- VARIANT_SWITCH: at a course boundary with every course fence complete, all tables and maps switch together and
items in flight resume at their last commit points; without a successor the lattice has run out (R396, R398, R400).
(DEDUCED, log entry 42) -/
def Chip.variantSwitch (c : Chip) : Chip :=
  match c.recov.waiting with
  | [] => c
  | d :: rest =>
    let l := addDegr c.recov.degr d
    match c.successor l with
    | none =>
      let c := c.updRecov (fun v => { v with degr := l, waiting := rest })
      ((c.putB F.VAR_STAT_SWITCHING (rest ≠ [])).retarget).faultHold
    | some v =>
      if !c.switchReady v then c
      else
        let old := c.get F.SCHED_CFG_VARIANT
        let c := foldN 40 (fun c u => c.loseStep u) c
        let c := (c.graftDue (fun _ => true)).useVariant v
        let c := (foldN 40 (fun c u => c.serveFrom u c.slotNo) c).startLists
        let c := c.updRecov (fun x => { x with degr := l, waiting := rest })
        let c := c.log 0x39 Loc.none (some (old * 2 ^ 20 + v.id * 2 ^ 8))
        let c := c.bump F.FAULT_CNT1_SWITCH
        ((c.putB F.VAR_STAT_SWITCHING (rest ≠ [])).retarget).kvRun

/-! ## Lost channels and ports -/

/-- Whether a DDR4 handle has pages on a channel (R74). (DEDUCED, log entry 39) -/
def Chip.onChannel (c : Chip) (h : HRef) (ch : Nat) : Bool :=
  let m := (c.handle h).mode
  decide (m = 0) || decide (m = ch + 1)

/-- Whether a set of the overflow area has pages on a channel. -/
def Chip.setOnChannel (c : Chip) (s : KvSet) (ch : Nat) : Bool :=
  s.ovf && (List.range (ceilDiv (s.pages * actsAs (c.get F.KV_POOL_CFG_PAGE_KIB) 1) 4 + 1)).any (fun k =>
    ddrChan ((c.kvPlace true s.base 0).addr + 4096 * k) = ch)

/-- An item's key-value sequence points at an overflow set on a channel. -/
def Chip.kvOnChannel (c : Chip) (i : Item) (ch : Nat) : Bool :=
  match i.kvSlot with
  | none => false
  | some q => (c.kvSlot q).entries.any (fun e =>
      keValid e && (match c.kvSetOf e with | some s => c.setOnChannel s ch | none => false))

/-- Whether the reassembly space of a record has pages on a channel. -/
def Chip.recordOn (c : Chip) (i : Item) (ch : Nat) : Bool :=
  let a := (c.recPlace i 0).addr
  (List.range (ceilDiv (a % 4096 + i.bytes) 4096)).any (fun k => ddrChan (a + 4096 * k) = ch)

/-- Retention copies and record reassembly space on a lost channel are gone: a band whose only copy that was, and a record
that is not decoded, can no longer be re-run (Table 13-3). (DEDUCED, log entry 39) -/
def Chip.loseInputs (c : Chip) (ch : Nat) : Chip :=
  c.inFlight.foldl (fun c i =>
    let c := if decide (16 ≤ i.origin) && !i.captured && c.recordOn i ch then c.modItem i.num (fun i => { i with lost := true }) else c
    if !c.onChannel (c.retRef i.origin 0 0) ch then c
    else
      c.modItem i.num (fun i => { i with
        lost := i.lost || i.bands.any (fun b => b.buffer.isNone && !b.released && !b.dropped)
        bands := i.bands.map (fun b => { b with retained := false }) })) c

/-- Items of a partition whose spill set lies on the channel, and those with overflow sets there, end (Table 13-3).
(DEDUCED, log entry 42) -/
def Chip.loseWork (c : Chip) (ch : Nat) : Chip :=
  let gone := (List.range 16).filter (fun p =>
    decide (smGet [] c.sched.spillSet p ≠ []) && c.onChannel ⟨.ddr, c.get F.PART_SPILL_HANDLE p, 0⟩ ch)
  let c := (c.inFlight.filter (fun i => gone.contains i.part || c.kvOnChannel i ch)).foldl (fun c i =>
    (c.stopItem i.num (txt "ddr-lost")).endDue i.num) c
  gone.foldl (fun c p => c.updSched (fun s => { s with spillSet := smSet [] s.spillSet p [] })) c

/-- Records spooled on the channel are abandoned for their session, which is owed a gap; the datagram keeps its SEQ
and carries no record (R482, Table 13-3). (DESIGN CHOICE, log entry 23; DEDUCED, log entry 40) -/
def Chip.loseSpool (c : Chip) (ch s : Nat) : Chip :=
  let x := c.sess s
  if !x.open_ then c
  else
    let hit := fun (o : OutDg) => o.items ≠ [] && Config.spoolOn ch s o.num
    let outs := (x.lane0.out ++ x.lane1.out).filter hit
    let clean := fun (o : OutDg) => if hit o then { o with recs := [], recOff := 0xFFFF, ends := [], items := [], spool := 0 } else o
    let c := c.modSess s (fun x => { x with
      lane0 := { x.lane0 with out := x.lane0.out.map clean }, lane1 := { x.lane1 with out := x.lane1.out.map clean } })
    let c := c.giveSpool s ((outs.map (·.spool)).foldl (· + ·) 0)
    let c := (dedup (outs.flatMap (·.items))).foldl (fun c n =>
      match c.item n with
      | some i => (c.addGaps s i.origin n (txt "ddr-lost")).bump F.SESS_CNT1_ABANDON s
      | none => c.bump F.SESS_CNT1_ABANDON s) c
    (outs.flatMap (·.ends)).foldl (fun c n => c.sessionDone s n) c

/-- Halves the quota of a session; it takes effect once the held part has fallen (R401, R482). -/
def Chip.halveQuota (c : Chip) (s : Nat) : Chip :=
  let x := c.sess s
  if !x.open_ then c
  else (c.modSess s (fun x => { x with quotaDue := some (x.quotaDue.getD x.quota / 2) })).showSpool s

/-- DDR4_CHANNEL_LOST (R401, Table 13-3). -/
def Chip.ddrLost (c : Chip) (ch : Fin 2) : Chip :=
  if bitOf (c.get F.VAR_STAT_DDR_LOST) ch.val then c
  else
    let c := c.put F.VAR_STAT_DDR_LOST (c.get F.VAR_STAT_DDR_LOST ||| 2 ^ ch.val)
    let c := (c.log 0x34 Loc.none).degrade (.ddr ch)
    if !c.running then c
    else
      let c := (c.loseInputs ch.val).loseWork ch.val
      let c := foldN 64 (fun c s => (c.loseSpool ch.val s).halveQuota s) c
      c.adaptLost.showFree

/-- A channel is lost that has delivered more than DDR_UNC_MAX uncorrectable words in the 1,000 courses; 0 acts as 1 (R401). -/
def Chip.ddrCheck (c : Chip) : Chip :=
  [0, 1].foldl (fun c (ch : Fin 2) =>
    if c.mem.ddrUnc.getD ch.val 0 > actsAs (c.get F.FAULT_CFG_DDR_UNC_MAX) 1 then c.ddrLost ch else c) c

/-- PORT_LOST (R403, R478, R440). (DEDUCED, log entry 77) -/
def Chip.portLost (c : Chip) (x : Fin 2) : Chip :=
  if bitOf (c.get F.VAR_STAT_PORT_LOST) x.val || !c.portUsed x.val then c
  else
    let c := if c.flag F.PORT_STAT_LINK x.val then c.linkDownPort x.val else c
    let c := c.modPort x.val (fun p => { p with announce := if c.source = some x.val then p.announce else none })
    let c := c.put F.VAR_STAT_PORT_LOST (c.get F.VAR_STAT_PORT_LOST ||| 2 ^ x.val)
    let c := (c.log 0x38 (c.locOf (.port x))).degrade (.port x)
    let c := c.rebindAll x.val (fun _ => true)
    if c.source = some x.val then c.loseSource else c

/-! ## Schedule and pace faults -/

/-- Whether a region's lag at the last course boundary exceeded LAG_MAX courses; 0 acts as 1 (R354, Table 12-8). -/
def Chip.lagging (c : Chip) (r : Nat) : Bool :=
  decide (c.sched.lagAt.getD r 0 > actsAs (c.get F.SCHED_CFG_LAG_MAX) 1 * 2000000)

/-- SCHEDULE_FAULT, not raised for a region whose controller is being taken over (R354, R407, R409).
(DEDUCED, log entry 38) -/
def Chip.scheduleFault (c : Chip) (r : Fin 4) : Chip :=
  if c.recov.takeover = some r.val ∨ c.recov.failedRegion.getD r.val true ∨ c.lagging r.val = false then c
  else
    let c := c.updSched (fun s => { s with faultAt := s.faultAt.modify r.val (fun f => some (f.getD c.courseK)) })
    (c.log 0x23 (c.locOf (.region r))).bump F.SCHED_CNT_SCHED_FAULT r.val

/-- SCHEDULE_FAULT_REGION_FAIL: the lag still exceeds LAG_MAX eight courses after the fault (R409). -/
def Chip.scheduleFail (c : Chip) (r : Fin 4) : Chip :=
  match c.sched.faultAt.getD r.val none with
  | some k => if k + 8 ≤ c.courseK ∧ c.lagging r.val = true then c.regionFail r.val else c
  | none => c

/-- BLOCK_SILENT: a scheduled block that has not answered a probe fails (R384). -/
def Chip.blockSilent (c : Chip) (r : Fin 4) (b : Fin 9) : Chip :=
  if !(c.scheduled r.val).contains b.val || bitOf (c.get F.SPARE_HEALTH_BLK_FAILED r.val) b.val then c
  else (c.log 0x21 (c.locOf (.block r b))).blockFail r.val b.val

/-- Twice the median of a list of numbers: twice the middle one, or the two middle ones together. -/
def median2 (l : List Nat) : Nat :=
  let s := l.foldl (fun acc x => (acc.filter (· ≤ x)) ++ [x] ++ (acc.filter (fun y => x < y))) []
  let n := s.length
  if n % 2 = 1 then 2 * s.getD (n / 2) 0 else s.getD (n / 2 - 1) 0 + s.getD (n / 2) 0

/-- PACE_BELOW_FLOOR: the block fails when PMIN is more than 5 % below the median CUR, otherwise the fault is
chip-wide (R44, R410). -/
def Chip.paceFault (c : Chip) : Chip :=
  if !c.fabric.belowAtMax then c
  else
    let p := c.get F.GOV_STATUS_PMIN
    let blk := c.get F.GOV_STATUS_PMIN_BLK
    let med := median2 (c.governed.map (fun e => c.get F.PACE_BLK_CUR e.1 e.2))
    let c := c.log 0x35 ⟨blk / 9, blk % 9, 31, (c.logBlock (blk / 9) (blk % 9)).getD 15, 31, 0⟩
    if 40 * p < 19 * med then c.blockFail (blk / 9) (blk % 9) else c

/-! ## The ledger -/

/-- Instances of a ledger invariant that do not hold (Table 13-4). (DEDUCED, log entry 46) -/
def Chip.ledgerBad (c : Chip) (idx : Nat) : List Nat :=
  let streams := (List.range 16).filter (fun n => c.get F.SNS_CFG_GEN n ≠ 0)
  let holds := fun (o k : Nat) => (c.items.list.filter (fun i => i.origin = o ∧ i.credit = k)).length
  let all : Bool → List Nat := fun ok => if ok then [] else [0]
  match idx with
  | 0 => all ((c.items.ends.foldl (· + ·) 0 + c.inFlight.length) % 2 ^ 32 = c.items.created % 2 ^ 32)
  | 1 => streams.filter (fun n =>
      !(c.get F.SNS_CREDIT_FREE n + holds n 1 = c.get F.SNS_CREDIT_TOTAL n ∧
        holds n 2 = c.get F.SNS_CREDIT_EMERG_HELD n))
  | 2 => (List.range 32).filter (fun s => (c.subm s).free + holds (16 + s) 1 ≠ actsAs (c.get F.SUB_CFG_CREDITS s) 1)
  | 3 => streams.filter (fun n =>
      !((c.stream n).ringUsed.all (fun e => e.2 < c.ringCount n) ∧ ((c.stream n).ringUsed.map (·.2)).Nodup))
  | 4 => streams.filter (fun n =>
      !((c.stream n).retained.all (fun e => e.2 < c.retPlaces n) ∧ ((c.stream n).retained.map (·.2)).Nodup))
  | 5 =>
    let pool := c.kv.sets.filter (fun s => !s.ovf)
    all (c.get F.KV_POOL_STAT_FREE + c.get F.KV_POOL_STAT_LIMBO + pagesOf pool = c.get F.KV_POOL_CFG_PAGES ∧
      c.get F.KV_RESV_LC_HELD ≤ c.get F.KV_RESV_LC_RESV)
  | 6 =>
    let ovf := (c.kv.sets ++ c.kv.limbo.map (·.1)).filter (·.ovf)
    all (c.get F.KV_OVF_OVF_FREE + pagesOf ovf = c.get F.KV_OVF_OVF_PAGES)
  | 7 => (List.range c.kv.sets.length).filter (fun k =>
      match c.kv.sets[k]? with
      | none => false
      | some s => s.refs ≠ ((c.kv.slots.flatMap (fun e => e.2.entries)).filter (fun e =>
          keValid e ∧ keOvf e = s.ovf ∧ keBase e = s.base)).length)
  | 8 => all ((c.kv.slots.filter (fun e => e.2.used)).all (fun e => e.1 < c.kvSlots))
  | 9 => (List.range 16).filter (fun p => !(smGet [] c.sched.spillSet p).Nodup)
  | 10 => (List.range 32).filter (fun s =>
      let areas := (c.items.list.filter (fun i => i.origin = 16 + s ∧ i.credit = 1)).map (·.area)
      !(areas.all (fun a => decide (a < actsAs (c.get F.SUB_CFG_CREDITS s) 1)) ∧ areas.Nodup))
  | 11 => (List.range 64).filter (fun s =>
      let x := c.sess s
      x.open_ && (serLt x.lane0.limit x.lane0.limit0 || serLt x.lane1.limit x.lane1.limit0))
  | 12 => (List.range 64).filter (fun s =>
      let x := c.sess s
      let undrawn := ((c.items.list.flatMap (·.deliv)).filter (fun d => d.sess = s)).map (·.left)
      let formed := (c.formed.filter (fun f => f.sess = s ∧ f.origin ≠ 63)).map (·.bytes.length)
      let built := (x.lane0.out ++ x.lane1.out).map (·.spool)
      x.open_ && decide (x.held ≠ (undrawn ++ formed ++ built).foldl (· + ·) 0))
  | 13 => all (c.get F.ADAPT_STAT_QUEUED = c.queued ∧ c.queued ≤ actsAs (c.get F.ADAPT_CFG_QUEUE) 1)
  | 14 => all (c.adapt.samples.length ≤ c.get F.ADAPT_RING_SAMPLES ∧ lineCount c.adapt.samples ≤ c.get F.ADAPT_RING_LINES)
  | 15 => all (c.items.owed = c.items.paid)
  | _ => []

/-- LEDGER_CHECK: every violation is recorded, and no pool is adjusted (R411, R413).
(DEDUCED, log entries 46 and 113) -/
def Chip.ledger (c : Chip) : Chip :=
  ((List.range 16).flatMap (fun i => (c.ledgerBad i).map (fun k => (i, k)))).foldl (fun c e =>
    let c := c.log 0x3B Loc.none (some (e.1 * 2 ^ 24 + e.2 % 2 ^ 24))
    let c := c.put F.LDG_STAT_VIOLATED (c.get F.LDG_STAT_VIOLATED ||| 2 ^ e.1)
    (c.bump F.LDG_STAT_FAULTS).put F.LDG_STAT_LAST e.1) c

/-- PUBLICATION_FENCE_DONE of a control core (Table 2-10, R68). -/
def Chip.publicationFence (c : Chip) (core : Fin 10) : Chip :=
  let own := fun (m : Move) => decide (m.issuer.u = .core core)
  let c := c.drainMoves own
  if c.mem.moves.any own then c else (c.updKv (fun k => { k with bufs := [] })).kvRun

/-- COURSE_FENCE_DONE (R353): the operations in flight of the region's blocks complete, those at a failed site with an error
indication, and with one that still waits the fence is not complete (Table 2-10, R64).  One that completes after its boundary
counts the course, and with the last one the ledger is checked (R411). (DEDUCED, log entry 44) -/
def Chip.courseFence (c : Chip) (r : Fin 4) : Chip :=
  let c := c.drainMoves (Chip.regionMoves r.val)
  if c.mem.moves.any (Chip.regionMoves r.val) then c
  else if c.fabric.late.getD r.val false then
    let c := { c with fabric := { c.fabric with late := c.fabric.late.set r.val false } }
    let c := c.bump F.SCHED_CNT_OVR_COURSE r.val
    if c.fabric.late.any id then c else c.ledger
  else { c with fabric := { c.fabric with fenceDone := c.fabric.fenceDone.set r.val true } }

/-! ## Summary -/

/-- The bits of SUM_STAT from their sources, highest first (Table 17-5). -/
def Chip.sumBits (c : Chip) : List (Fld × Nat) :=
  [ (F.SUM_STAT_BOOT, c.get F.BOOT_STAT_STATE), (F.SUM_STAT_TIME, c.get F.TIME_STAT_STATE),
    (F.SUM_STAT_FAULT_HOLD, c.get F.VAR_STAT_HOLD), (F.SUM_STAT_LEDGER, b2n (c.get F.LDG_STAT_VIOLATED ≠ 0)),
    (F.SUM_STAT_DEGRADED, b2n (c.get F.VAR_STAT_DEPTH_USED ≠ 0)),
    (F.SUM_STAT_SHED, b2n (c.get F.VAR_STAT_SHED_TR ≠ 0 ∨ c.get F.VAR_SHED_SUB_SHED ≠ 0)),
    (F.SUM_STAT_STREAM_FAULT, b2n ((List.range 16).any (fun n => c.get F.SNS_STATE_STATE n = 5))),
    (F.SUM_STAT_STALLED, b2n ((List.range 64).any (fun s => c.flag F.SESS_STAT_STALLED s || c.flag F.SESS_STAT_PATH_LOST s))),
    (F.SUM_STAT_PACE, b2n (c.flag F.GOV_STATUS_BELOW_FLOOR || c.flag F.GOV_STATUS_PMB_FAULT)),
    (F.SUM_STAT_SEC_LOST, c.get F.VAR_STAT_SEC_LOST),
    (F.SUM_STAT_HOLD_ANY, b2n ((List.range 8).any (fun k => c.flag F.HOLD_STAT_HOLD k))) ]

/-- A word from one value per position of equal width. -/
def packWord (w : Nat) (l : List Nat) : Nat := (l.foldr (fun v acc => acc * 2 ^ w + v % 2 ^ w) 0)

/-- The 4 bits of a stream in its state pack. -/
def Chip.streamNibble (c : Chip) (n : Nat) : Nat := c.get F.SNS_STATE_STATE n % 8 + 8 * b2n (c.flag F.HOLD_STAT_HOLD (n / 2))

/-- The 2 bits of a partition in PART_ST (Table 17-6). -/
def Chip.partBits (c : Chip) (p : Nat) : Nat :=
  if !c.flag F.PART_CFG_VALID p then 0
  else
    match c.get F.PART_CFG_STATE p with
    | 3 => if c.flag F.PART_CFG_LENT p then 3 else 1
    | 4 => 2
    | _ => 0

/-- SUMMARY_RECOMPUTE: every summary register, together (R529). (DEDUCED, log entry 113) -/
def Chip.summary (c : Chip) : Chip :=
  let old := c.word .SUM_STAT
  let c := c.sumBits.foldl (fun c e => c.put e.1 e.2) c
  let c := if c.word .SUM_STAT ≠ old then c.wrap F.SUM_CHG_CHANGES else c
  let c := c.put F.SUM_CHG_LOG (c.get F.FAULT_LOG_PTR_COUNT)
  let c := c.setWord .STREAM_ST_LO 0 0 (packWord 4 ((List.range 8).map c.streamNibble))
  let c := c.setWord .STREAM_ST_HI 0 0 (packWord 4 ((List.range 8).map (fun n => c.streamNibble (8 + n))))
  let c := c.setWord .SUB_EN 0 0 (packWord 1 ((List.range 32).map (fun s => b2n (c.get F.SUB_CFG_STATE s = 3))))
  let c := c.setWord .SUB_BOUND 0 0 (packWord 1 ((List.range 32).map (fun s => b2n (c.sess (64 + s)).open_)))
  let bit := fun (f : Nat → Bool) (o : Nat) => packWord 1 ((List.range 32).map (fun s => b2n (f (o + s))))
  let c := c.setWord .RES_OPEN_LO 0 0 (bit (fun s => (c.sess s).open_) 0)
  let c := c.setWord .RES_OPEN_HI 0 0 (bit (fun s => (c.sess s).open_) 32)
  let stalled := fun s => c.flag F.SESS_STAT_STALLED s || c.flag F.SESS_STAT_PATH_LOST s
  let c := c.setWord .RES_STALL_LO 0 0 (bit stalled 0)
  let c := c.setWord .RES_STALL_HI 0 0 (bit stalled 32)
  c.setWord .PART_ST 0 0 (packWord 2 ((List.range 16).map c.partBits))

end Sys2Proof.Machine
end

