-- ==== Sys2Proof/Machine/Course.lean ====
section
/-!
DEFINITION. What a course boundary and a slot boundary do (R340 to R346, R353, R411, and every rule that names one of
them as its moment).
-/

namespace Sys2Proof.Machine

/-- Persistent handles of a block that was grafted in are reloaded from their source copies, shared memory below
1,024, then DDR4; the block starts steps from the next boundary on (R387). (DEDUCED, log entry 43) -/
def Chip.reloadBlock (c : Chip) (r p : Nat) : Chip :=
  match c.logBlock r p with
  | none => c
  | some lb =>
    let mine := c.image.persistent.filter (fun e => e.1 / 64 = 8 * r + lb)
    let c := mine.foldl (fun c e =>
      let dst := keyRef e.1
      let src : HRef := if e.2 < 1024 then ⟨.shared, e.2, 0⟩ else ⟨.ddr, e.2 - 1024, 0⟩
      (c.carry (c.granPairs src dst ((c.handle dst).size * 128))).1) c
    c.updRecov (fun v => { v with reload := smSet false v.reload (9 * r + p) false })

/-- Reloads that were due in the course that ends. (DEDUCED, log entry 43) -/
def Chip.reloads (c : Chip) : Chip :=
  (c.recov.reload.filter (·.2)).foldl (fun c e => c.reloadBlock (e.1 / 9) (e.1 % 9)) c

/-- The counters of R385 and R401 restart every 1,000 courses; the cells that failed in the course are forgotten
(R386). -/
def Chip.windowCourse (c : Chip) : Chip :=
  let c := c.updRecov (fun v =>
    if v.window + 1 ≥ 1000 then { v with window := 0, reexec := [], failedNow := [] }
    else { v with window := v.window + 1, failedNow := [] })
  if c.recov.window = 0 then c.updMem (fun m => { m with ddrUnc := [0, 0] }) else c

/-- Course fences: a region whose fence has not completed starts late; a failed region has none to wait for
(R55, R353). (DEDUCED, log entry 44) -/
def Chip.fenceCourse (c : Chip) : Chip :=
  let dead := fun r => c.recov.failedRegion.getD r true
  { c with fabric := { c.fabric with
    late := (List.range 4).map (fun r => !dead r && (!c.fabric.fenceDone.getD r true || c.fabric.late.getD r false))
    fenceDone := [false, false, false, false] } }

/-- A region's lag at the boundary: the largest lag of its steps in the course that ends, or what a step still running is past
the last slot that it covers (R351, R352). (DEDUCED, log entry 38) -/
def Chip.lagOf (c : Chip) (r : Nat) : Nat :=
  (List.range 8).foldl (fun m b =>
    match c.runOf (8 * r + b) with
    | some run => Nat.max m (c.nowNs - (run.at_ + run.desc.span + 1) * 125000)
    | none => m) (c.sched.lag.getD r 0)

/-- SCHED_STAT: the largest lag of the course that ends, the table course that starts; a region whose lag is 0 is out
of its schedule fault (R340, R351, R409). (DEDUCED, log entry 38) -/
def Chip.lagCourse (c : Chip) : Chip :=
  let len := Nat.max 1 ((c.variant.map (·.courses)).getD 1)
  let lags := (List.range 4).map c.lagOf
  let c := foldN 4 (fun c r =>
    let c := c.put F.SCHED_STAT_LAG_US (Nat.min (c.sched.lag.getD r 0 / 1000) 65535) r
    c.put F.SCHED_STAT_TCOURSE (c.courseK % len) r) c
  c.updSched (fun s => { s with
    faultAt := (List.range 4).map (fun r => if lags.getD r 0 = 0 then none else s.faultAt.getD r none)
    lagAt := lags
    lag := [0, 0, 0, 0] })

/-- Watchdogs: two kicks missed in succession fail a core (R405). -/
def Chip.kicks (c : Chip) (missed : List (Fin 10)) : Chip :=
  foldN 10 (fun c k =>
    let n := if missed.any (fun m => m.val = k) then smGet 0 c.fabric.missed k + 1 else 0
    let c := { c with fabric := { c.fabric with missed := smSet 0 c.fabric.missed k n } }
    if n ≥ 2 then c.coreFail k else c) c

/-- Timing checks of the region controllers (R406, class 0x22). -/
def Chip.timingChecks (c : Chip) (bad : List (Fin 4)) : Chip :=
  bad.foldl (fun c r => (c.log 0x22 (c.locOf (.region r))).coreFail r.val) c

/-- ITEM_BEGIN of every item admitted in the course that ends; a record's once it has arrived whole. -/
def Chip.beginItems (c : Chip) : Chip :=
  (c.inFlight.filter (fun i => !i.begun && (decide (i.origin < 16) || i.complete))).foldl (fun c i => c.formBegin i.num) c

/-- What a running device does at a course boundary, in the manual's order: fences, roles, sparing and grafts, the
governor, bands, adaptation, lending, records, gates, the ledger, the summary. -/
def Chip.courseWork (c : Chip) (w : CourseIn) : Chip :=
  let c := ((c.ddrCheck).windowCourse.fenceCourse).lagCourse
  let late := c.fabric.late
  let c := ((c.takeRole).kicks w.missedKick).timingChecks w.badTiming
  let c := ((c.sparing).reloads).graftDue (fun r => r = 4 || !late.getD r false)
  let c := c.governor w.pmb
  let c := ((c.limboReturn).staleBands).adaptCourse
  let c := ((c.lending).beginItems).gclCourse
  let c := if late.any id then c else c.ledger
  (c.settle).summary

/-- COURSE_BOUNDARY (R340); the governor works from the start of the firmware on (R41, Table 16-1).
(DEDUCED, log entry 113) -/
def Chip.courseBoundary (c : Chip) (w : CourseIn) : Chip :=
  if c.boot.held then c
  else
    let c := c.toCourse
    let c := (c.putS F.TEMP_LOGIC w.tempLogic).putS F.TEMP_MEMORY w.tempMemory
    if c.running then c.courseWork w
    else (if c.boot.firmware then c.governor w.pmb else c).summary

/-- The partition whose egress a record is, none of a record without an item (R379, Table 12-5). -/
def Chip.egressPart (c : Chip) (f : Formed) : Option Nat :=
  if f.origin = 63 then none else if f.origin < 16 then some (c.streamPart f.origin) else some (c.get F.SUB_CFG_PART (f.origin - 16))

/-- The records that a port's egress takes in one slot, of those that wait with their partition: as long as the slot's capacity
lasts, the oldest of the partition whose turn it is; and those that wait for the next slot (R359, R382).
(DESIGN CHOICE, log entry 122) -/
def HedgeRes.pick (lo hi : Nat → Nat) (cap : Nat) :
    Nat → HedgeRes → List Formed → List (Nat × Formed) → HedgeRes × List Formed × List (Nat × Formed)
  | 0, h, out, rest => (h, out, rest)
  | n + 1, h, out, rest =>
    if cap ≤ (h.got.map (·.2)).foldl (· + ·) 0 then (h, out, rest)
    else
      match h.next lo hi (fun w => rest.any (fun e => e.1 = w)) with
      | none => (h, out, rest)
      | some w =>
        match rest.find? (fun e => e.1 = w) with
        | none => (h, out, rest)
        | some e => HedgeRes.pick lo hi cap n (h.give w e.2.bytes.length) (out ++ [e.2]) (rest.eraseP (fun x => x.1 = w))

/-- A port's egress of a slot, over the records formed before it for sessions of the port (R359, R382). -/
def Chip.egressPort (c : Chip) (x : Nat) : Chip :=
  let mine := c.formed.filter (fun f => (c.sess f.sess).port = x)
  let free := mine.filter (fun f => (c.egressPart f).isNone)
  let parts := mine.filterMap (fun f => (c.egressPart f).map (fun p => (p, f)))
  let r := HedgeRes.pick (c.hedgeLo (7 + x)) (c.hedgeHi (7 + x)) (c.hedgeCap (7 + x)) parts.length { c.hedge (7 + x) with got := [] } [] parts
  let c := c.modHedge (7 + x) (fun _ => r.1)
  let kept : List Formed := c.formed.filter (fun f => (c.sess f.sess).port ≠ x)
  let c := { c with formed := kept ++ r.2.2.map Prod.snd }
  c.build (free ++ r.2.1)

/-- Datagrams of the records formed before this slot; the shared text slots of the slot before are over (R359, R382). -/
def Chip.egress (c : Chip) : Chip := ((c.modHedge 6 (fun h => { h with got := [] })).egressPort 0).egressPort 1

/-- The closing phase of a restart: once every item has ended and its records are built, sessions close (R515).
(DEDUCED, log entries 69 and 82) -/
def Chip.closeAll (c : Chip) : Chip :=
  if c.boot.closing.isNone || !c.inFlight.isEmpty || !c.formed.isEmpty then c
  else foldN 96 (fun c s => if (c.sess s).open_ then c.sendClose s 4 else c) c

/-- The closing phase of a restart has done its work: nothing is in flight or waits to be built, no session is open (R9,
R515). (DEDUCED, log entry 69) -/
def Chip.closed (c : Chip) : Bool :=
  c.boot.closing.isSome && c.inFlight.isEmpty && c.formed.isEmpty && (List.range 96).all (fun s => !(c.sess s).open_)

/-- SLOT_TICK: egress work, items that end at a step boundary, the switch of a pre-emption (R341, R382, R548, R369). -/
def Chip.slotTick (c : Chip) : Chip :=
  if c.boot.held then c
  else
    let c := c.toSlot
    if !c.running then c
    else
      let c := c.egress
      let c := (c.inFlight.filter (fun i => i.endNext.isSome)).foldl (fun c i => c.endDue i.num) c
      ((c.preemptTick).closeAll).settle

end Sys2Proof.Machine
end

