-- ==== Sys2Proof/Machine/Sha.lean ====
section
/-!
DEFINITION. SHA-384 and HMAC-SHA-384 (PRESUMED, log entry 13: FIPS 180-4 and RFC 2104, which the manual names but does not give).
The constants are computed from what FIPS 180-4 says they are: bits of roots of primes.
-/

namespace Sys2Proof.Machine

/-- A 64-bit word of the hash. -/
abbrev W64 := BitVec 64

/-- The 80 primes below 410, each number kept that no earlier prime divides. -/
def shaPrimes : List Nat :=
  (List.range 408).foldl (fun ps k => if ps.all (fun p => decide ((k + 2) % p ≠ 0)) then ps ++ [k + 2] else ps) []

/-- The whole `k`-th root of `n`, found bit by bit from the highest of `b` bits down. -/
def rootBits (k n : Nat) : Nat → Nat → Nat
  | 0, r => r
  | b + 1, r => rootBits k n b (if (r + 2 ^ b) ^ k ≤ n then r + 2 ^ b else r)

/-- The first 64 bits of the fraction of the `k`-th root of a number below 512. -/
def rootFrac (k p : Nat) : W64 := BitVec.ofNat 64 (rootBits k (p * 2 ^ (64 * k)) 73 0)

/-- The 80 round constants: fractions of cube roots. -/
def shaK : List W64 := shaPrimes.map (rootFrac 3)

/-- The initial value of SHA-384: fractions of the square roots of the 9th to the 16th prime. -/
def shaInit : List W64 := ((shaPrimes.drop 8).take 8).map (rootFrac 2)

/-- A word turned right by several amounts, the results added without carry. -/
def shaTurn (by_ : List Nat) (x : W64) : W64 := by_.foldl (fun y n => y ^^^ x.rotateRight n) 0

/-- The next word of the message schedule, from the 16 before it. -/
def shaNext (win : List W64) : W64 :=
  let low := win.getD 1 0
  let high := win.getD 14 0
  win.getD 0 0 + win.getD 9 0 + (shaTurn [1, 8] low ^^^ (low >>> 7)) + (shaTurn [19, 61] high ^^^ (high >>> 6))

/-- One round on the eight working words: two of them are new, the others move down. -/
def shaRound (k w : W64) : List W64 → List W64
  | [a, b, c, d, e, f, g, h] =>
    let choice := g ^^^ (e &&& (f ^^^ g))
    let most := (a &&& b) ||| (c &&& (a ||| b))
    let sum := k + w + choice + shaTurn [14, 18, 41] e + h
    [sum + most + shaTurn [28, 34, 39] a, a, b, c, sum + d, e, f, g]
  | s => s

/-- The rounds of one block; the window slides over the schedule words. -/
def shaRounds (win : List W64) (s : List W64) : List W64 :=
  (shaK.foldl (fun (x : List W64 × List W64) k =>
    (x.1.drop 1 ++ [shaNext x.1], shaRound k (x.1.getD 0 0) x.2)) (win, s)).2

/-- One block of 128 bytes. -/
def shaBlock (s : List W64) (b : List Byte) : List W64 :=
  (s.zip (shaRounds ((chunksOf 8 b.length b).map (fun l => BitVec.ofNat 64 (beNat l))) s)).map (fun e => e.1 + e.2)

/-- The padded message. -/
def shaPad (m : List Byte) : List Byte :=
  m ++ [0x80] ++ List.replicate ((128 - (m.length + 17) % 128) % 128) 0 ++ beBytes 16 (8 * m.length)

/-- SHA-384 of a byte string: 48 bytes. (PRESUMED, log entry 13) -/
def sha384 (m : List Byte) : List Byte :=
  let p := shaPad m
  (((chunksOf 128 p.length p).foldl shaBlock shaInit).take 6).flatMap (fun w => beBytes 8 w.toNat)

/-- HMAC-SHA-384. (PRESUMED, log entry 13) -/
def hmac384 (key m : List Byte) : List Byte :=
  let k := if key.length > 128 then sha384 key else key
  let k := k ++ List.replicate (128 - k.length) 0
  sha384 (k.map (· ^^^ 0x5C) ++ sha384 (k.map (· ^^^ 0x36) ++ m))

end Sys2Proof.Machine
end

