-- ==== Sys2Proof/Machine/Boot.lean ====
section
/-!
DEFINITION. Chapter 16, from reset to admission: resets, fuses, flash, verification, the boot stages (R489 to R504,
R541 to R544, R336, R399).
-/

namespace Sys2Proof.Machine

/-- Lifts an update of reset and boot. -/
def Chip.updBoot (c : Chip) (f : Boot → Boot) : Chip := { c with boot := f c.boot }

/-- BOOT_STAT.STATE is BOOTING and the device is not held in reset. -/
def Chip.booting (c : Chip) : Bool := !c.boot.held && decide (c.get F.BOOT_STAT_STATE = 0)

/-- BOOT_STAT.STATE is SAFE_HOLD. -/
def Chip.safeHold (c : Chip) : Bool := !c.boot.held && decide (c.get F.BOOT_STAT_STATE = 2)

/-- A free value: a random number of some bits. (DESIGN CHOICE, log entry 7) -/
def Chip.random (c : Chip) (w : Nat) : Chip × Nat := ({ c with free := c.free + 1 }, Config.fresh c.free % 2 ^ w)

/-! ## Flash -/

/-- A flash device. -/
def Chip.flashDev (c : Chip) (d : Nat) : Flash := c.flash.getD d Flash.erased

/-- Bytes of a device. -/
def Flash.read (f : Flash) (a n : Nat) : List Byte := (List.range n).map (fun k => smGet 0xFF f.data (a + k))

/-- Writes bytes. -/
def Flash.write (f : Flash) (a : Nat) : List Byte → Flash
  | [] => f
  | b :: r => Flash.write { f with data := smSet 0xFF f.data a b } (a + 1) r

/-- Erases a range. -/
def Flash.erase (f : Flash) (a n : Nat) : Flash :=
  { f with data := f.data.filter (fun e => decide (e.1 < a ∨ a + n ≤ e.1)) }

/-- Updates a device. -/
def Chip.modFlash (c : Chip) (d : Nat) (f : Flash → Flash) : Chip := { c with flash := c.flash.modify d f }

/-- MAGIC of the activation record and of the image header (Tables 16-6, 16-7). -/
def actMagic : List Byte := [0x4E, 0x58, 0x31, 0x36, 0x41, 0x43, 0x54, 0x00]
/-- The image's. -/
def imgMagic : List Byte := [0x4E, 0x58, 0x31, 0x36, 0x49, 0x4D, 0x47, 0x00]

/-- ACTIVATION of a device's record, none without the record's MAGIC. -/
def Flash.activation (f : Flash) : Option Nat :=
  if f.read 0 8 = actMagic then some (leNat (f.read 8 8)) else none

/-! ## Verification -/

/-- An image header taken apart (Table 16-7). -/
structure ImgHdr where
  svn : Nat
  advance : Bool
  manLen : Nat
  sigLen : Nat
  imgLen : Nat
  build : List Byte
  deriving DecidableEq, Repr

/-- Step 1: the header, or its reason (2 header, 3 silicon). (DEDUCED, log entry 48) -/
def imgHdr (h : List Byte) : ImgHdr ⊕ Nat :=
  let n := fun o k => leNat ((h.drop o).take k)
  let svn := n 10 2
  let flags := n 12 4
  let man := n 16 4
  let sig := n 20 4
  let len := n 24 4
  if h.take 8 ≠ imgMagic ∨ n 8 2 ≠ 1 ∨ svn > 64 ∨ flags > 1 ∨ man = 0 ∨ man > 61440 ∨ sig < 260 ∨ sig > 16384 ∨
      len > 251658240 ∨ n 30 2 ≠ 0 ∨ (h.drop 80).any (· ≠ 0) then .inr 2
  else if (h.drop 28).take 2 ≠ [0x42, 0x31] then .inr 3
  else .inl ⟨svn, flags = 1, man, sig, len, (h.drop 32).take 48⟩

/-- A section of the manifest. -/
structure Section where
  type : Nat
  off : Nat
  len : Nat
  hash : List Byte
  deriving DecidableEq, Repr

/-- A section map of the manifest. -/
def sectionOf (m : Cbor) : Option Section :=
  match m.nat 1, m.nat 2, m.nat 3, m.bstr 4 with
  | some t, some o, some l, some h => if h.length = 48 ∧ 1 ≤ t ∧ t ≤ 9 then some ⟨t, o, l, h⟩ else none
  | _, _, _, _ => none

/-- The conditions of R499 and Table 16-9 on the sections, in file order. -/
def sectionsOk (imgLen : Nat) (l : List Section) : Bool :=
  l.all (fun s => s.off % 4096 = 0 ∧ s.off ≥ 0x15000 ∧ s.off + s.len ≤ imgLen) &&
  (l.zip (l.drop 1)).all (fun e => e.1.off + e.1.len ≤ e.2.off ∧ e.1.off < e.2.off) &&
  decide ((l.map (·.type)).Nodup) && decide ((l.map (·.type)).head? = some 1) &&
  [2, 3, 7].all (fun t => l.any (fun s => s.type = t))

/-- The manifest, or its reason (8 manifest, 3 silicon). -/
def manifestOf (imgLen : Nat) (m : List Byte) : List Section ⊕ Nat :=
  match parseCbor m with
  | .ok (v, indef) [] =>
    if indef then .inr 8
    else
      match v.nat 1, v.tstr 2, v.key 3, v.tstr 4, v.tstr 5 with
      | some 1, some si, some (.arr l), some _, some _ =>
        let secs := l.filterMap sectionOf
        if secs.length ≠ l.length ∨ !sectionsOk imgLen secs then .inr 8
        else if si ≠ txt "B1" then .inr 3
        else .inl secs
      | _, _, _, _, _ => .inr 8
  | _ => .inr 8

/-- The root of a signature block (R498). -/
def blockRoot (b : List Byte) : List Byte := sha384 ((b.take 97) ++ (b.drop 97).take 60)

/-- The HSS signature of a block of a given length; empty when HSS_LEN disagrees. -/
def blockHss (b : List Byte) (len : Nat) : List Byte :=
  if 260 + beNat ((b.drop 256).take 4) = len then (b.drop 260).take (len - 260) else []

/-- Both signatures of a block over a message: 0 when they verify, 6 ecdsa, 7 lms (Table 16-10 step 4). -/
def blockSigs (b : List Byte) (len : Nat) (m : List Byte) : Nat :=
  if !Config.ecdsaOk (b.take 97) m ((b.drop 160).take 96) then 6
  else if !Config.hssOk ((b.drop 97).take 60) m (blockHss b len) then 7
  else 0

/-- Header, manifest and message of a device's image. -/
def Flash.message (f : Flash) (h : ImgHdr) : List Byte := f.read 0x1000 4096 ++ f.read 0x2000 h.manLen

/-- Steps 1 to 5 of Table 16-10; `ranked` asks for the activation digest: the header and the sections, or the reason.
(DEDUCED, log entry 48) -/
def Chip.verifyHead (c : Chip) (f : Flash) (ranked : Bool) : (ImgHdr × List Section) ⊕ Nat :=
  if !f.fits then .inr 11
  else
    match imgHdr (f.read 0x1000 4096) with
    | .inr r => .inr r
    | .inl h =>
      let b := f.read 0x11000 h.sigLen
      if h.svn < c.fuses.svn then .inr 4
      else if some (blockRoot b) ≠ c.fuses.customer then .inr 5
      else
        match blockSigs b h.sigLen (f.message h) with
        | 0 =>
          (match manifestOf h.imgLen (f.read 0x2000 h.manLen) with
           | .inr r => .inr r
           | .inl secs =>
             if ranked ∧ f.read 16 48 ≠ sha384 (f.message h) then .inr 1 else .inl (h, secs))
        | r => .inr r

/-- Step 6: the firmware section's hash, then its vendor block over the rest of the section. -/
def Flash.firmwareCheck (f : Flash) (secs : List Section) : Nat :=
  match secs with
  | [] => 8
  | s :: _ =>
    let d := f.read s.off s.len
    if sha384 d ≠ s.hash then 10
    else
      let len := 260 + beNat ((d.drop 256).take 4)
      if blockRoot d ≠ Config.vendorRoot ∨ blockSigs (d.take len) len (d.drop len) ≠ 0 then 9 else 0

/-- Step 7: every other section's hash. -/
def Flash.sectionCheck (f : Flash) (secs : List Section) : Nat :=
  if (secs.drop 1).all (fun s => sha384 (f.read s.off s.len) = s.hash) then 0 else 10

/-! ## Safe hold and candidates -/

/-- No candidate verifies: safe hold (R502). -/
def Chip.enterSafeHold (c : Chip) : Chip :=
  let x := c.fuses.netPort
  let c := c.put F.BOOT_STAT_STATE 2
  let c := ((c.put F.PORT_CFG_MODE c.fuses.netMode x).putB F.PORT_CFG_TAGGED false x).putB F.PORT_CFG_DHCP true x
  c.putB F.PORT_CFG_IPV6 true x

/-- Records the reason of a device's image in BOOT_STAT. -/
def Chip.bootReason (c : Chip) (d r : Nat) : Chip :=
  c.put (if d = 0 then F.BOOT_STAT_REASON_A else F.BOOT_STAT_REASON_B) r

/-- The candidate has failed: the next one is tried, or none is left (R500, R502). -/
def Chip.candidateFails (c : Chip) (d r : Nat) : Chip :=
  let c := c.bootReason d r
  let rest := c.boot.cands.filter (· ≠ d)
  let c := c.updBoot (fun b => { b with cands := rest, verified := false, firmware := false, sections := false })
  if rest = [] then c.enterSafeHold else c

/-- Header and sections of the candidate, once it has been verified. -/
def Chip.candidate (c : Chip) : Option (Nat × Flash × ImgHdr × List Section) :=
  match c.boot.cands with
  | [] => none
  | d :: _ =>
    match imgHdr ((c.flashDev d).read 0x1000 4096) with
    | .inr _ => none
    | .inl h =>
      match manifestOf h.imgLen ((c.flashDev d).read 0x2000 h.manLen) with
      | .inr _ => none
      | .inl secs => some (d, c.flashDev d, h, secs)

/-! ## Resets -/

/-- FUSE_STAT and FUSE_NET show the fuses (Table 16-20). (DEDUCED, log entry 8) -/
def Chip.senseFuses (c : Chip) : Chip :=
  let f := c.fuses
  let c := (c.put F.FUSE_STAT_SVN_CNT f.svn).putB F.FUSE_STAT_VENDOR true
  let c := (c.putB F.FUSE_STAT_CUSTOMER f.customer.isSome).putB F.FUSE_STAT_WRAP f.wrap.isSome
  (c.put F.FUSE_NET_PORT f.netPort).put F.FUSE_NET_MODE f.netMode

/-- The highest bottom tree that a device records (R509). -/
def Chip.topTree (c : Chip) : Option Nat :=
  (c.flash.flatMap (·.trees)).foldl (fun m t => some (match m with | none => t | some x => Nat.max x t)) none

/-- The first tree that may still sign: the one after the highest recorded; tree 0 without a record only while the
fuse counter is 0 (R509). (DEDUCED, log entry 52) -/
def Chip.nextTree (c : Chip) : Nat :=
  match c.topTree with
  | some t => t + 1
  | none => if c.fuses.svn = 0 then 0 else 1024

/-- ATT_STAT (Table 16-22). (DEDUCED, log entry 52) -/
def Chip.showTrees (c : Chip) : Chip := c.put F.ATT_STAT_TREES (1024 - c.nextTree)

/-- Stage A: fuses, device ID, BOOT_ID, both activation records (Table 16-1, R495, R500, R512). -/
def Chip.stageA (c : Chip) : Chip :=
  let c := c.senseFuses
  let c := (c.put F.DEV_ID_HI_ID_HI (beNat (Config.deviceId.take 4))).put F.DEV_ID_LO_ID_LO (beNat ((Config.deviceId.drop 4).take 4))
  let r := c.random 64
  let c := (r.1.put F.BOOT_ID_LO_BID_LO (r.2 % 2 ^ 32)).put F.BOOT_ID_HI_BID_HI (r.2 / 2 ^ 32)
  let c := c.showTrees
  let c := foldN 2 (fun c d => if (c.flashDev d).fits then c else c.bootReason d 11) c
  let act := fun d => if (c.flashDev d).fits then (c.flashDev d).activation else none
  let both := match act 0, act 1 with
    | some a, some b => if b > a then [1, 0] else [0, 1]
    | some _, none => [0]
    | none, some _ => [1]
    | none, none => []
  c.updBoot (fun b => { b with cands := both })

/-- A cold reset starts (R489, R435, R510): everything but fuses and flash begins anew, and a new nonce is drawn; the rails
are in range, and the flash devices leave reset (R537, R541). (DEDUCED, log entry 8) -/
def Chip.coldReset (c : Chip) (straps : Nat) : Chip :=
  let n : Chip := { Chip.powerOn with
    free := c.free, fuses := c.fuses, flash := c.flash
    boot := { Boot.powerOn with held := false, pin := true, vio := true, xspiRst := some true, straps := straps } }
  let r := n.random 32
  let n := r.1.put F.JTAG_NONCE_NONCE r.2
  (n.put F.FUSE_STAT_JTAG (if c.fuses.customer.isNone then 3 else 0)).stageA

/-- The valid adapter area with the higher sequence number; A's of two equal ones. (DEDUCED, log entry 64) -/
def Chip.bestArea (c : Chip) : Option Area :=
  match (c.flashDev 0).area, (c.flashDev 1).area with
  | some a, some b => some (if b.num > a.num then b else a)
  | some a, none => some a
  | none, b => b

/-- What an adapter commit writes: initial values with the empty option, else the published copies (R334, R335).
(DEDUCED, log entry 64) -/
def Chip.newArea (c : Chip) (empty : Bool) : Area :=
  { num := ((c.bestArea).map (·.num)).getD 0 + 1
    sets := (List.range 8).filterMap (fun s =>
      if !c.flag F.ADAPT_SET_VALID s then none
      else
        (c.image.adapt[s]?).map (fun cfg =>
          let rank := c.get F.ADAPT_SET_RANK s
          let a := c.adSet s
          let w := if empty then initialCopy rank cfg else if c.get F.ADAPT_SET_CUR s = 0 then a.copy0 else a.copy1
          (⟨s, cfg.modelHash, c.flag F.ADAPT_SET_MODEL s, rank, cfg.projs.map (fun p => (p.inDim, p.outDim)), w⟩ : AreaSet))) }

/-- A running adapter commit is cut off: a free value says whether A's or B's area was being written; that one no longer
verifies (R335).  A staging has erased its device's activation record at its start and needs nothing (R517).
(DESIGN CHOICE, log entry 51) -/
def Chip.cutFlash (c : Chip) : Chip :=
  match c.opOfKind 3 with
  | none => c
  | some h =>
    if c.get F.LONG_STAT_STATE h ≠ 1 then c
    else
      let a := c.newArea (c.op h).empty
      let r := c.random 1
      if r.2 = 0 then r.1.modFlash 0 (fun f => { f with area := none })
      else (r.1.modFlash 0 (fun f => { f with area := some a })).modFlash 1 (fun f => { f with area := none })

/-- XSPIx_RST_N in reset: driven low while VIO is present, high-impedance without it (R537). -/
def Boot.rstLow (b : Boot) : Boot := { b with xspiRst := if b.vio then some false else none }

/-- PORST_N falls, or acts as though it had (R542 to R544): the device is held in reset, fuses and flash stay. -/
def Chip.holdReset (c : Chip) (hot : Bool) : Chip :=
  if c.boot.held then c.updBoot (fun b => ({ b with pin := b.pin && hot, hot := b.hot || hot }).rstLow)
  else
    let c := c.cutFlash
    { Chip.powerOn with free := c.free, fuses := c.fuses, flash := c.flash
                        boot := ({ Boot.powerOn with pin := hot, hot := hot, vio := c.boot.vio, straps := c.boot.straps }).rstLow }

/-- A rail falls below its range (R542): whether it took VIO with it is open. (DESIGN CHOICE, log entry 124) -/
def Chip.railLost (c : Chip) : Chip :=
  let v := Config.vioStays c.free
  let c := { c with free := c.free + 1 }
  (c.updBoot (fun b => { b with vio := b.vio && v })).holdReset false

/-- PORST_N_RISE, or the conditions of R541 first hold (R489, R541, R544). -/
def Chip.porstRise (c : Chip) (straps : Nat) : Chip :=
  if !c.boot.held then c
  else if c.boot.hot then c.updBoot (fun b => ({ b with pin := true, vio := true, straps := straps }).rstLow)
  else c.coldReset straps

/-- OVER_TEMPERATURE_RELEASE: a device whose PORST_N is high starts (R544). -/
def Chip.coolDown (c : Chip) : Chip :=
  if !c.boot.hot then c
  else
    let c := c.updBoot (fun b => { b with hot := false })
    if c.boot.held ∧ c.boot.pin then c.coldReset c.boot.straps else c

/-- Groups of balls (Table 18-4). -/
inductive Balls where
  | sensorOut (n : Fin 16)
  | sensorIn (n : Fin 16)
  | hold (k : Fin 8)
  | ddr4
  | xspi
  | serdesTx (x : Fin 2)
  | pps
  | serial
  deriving DecidableEq, Repr

/-- States of a group of balls: high-impedance or released, driven low, termination or transmitter off, at work as the
group's protocol has it. -/
inductive BallState where
  | highZ
  | low
  | off
  | active
  deriving DecidableEq, Repr

/-- The state of a group of balls, of XSPIx its signals other than XSPIx_RST_N, which `Boot.xspiRst` holds (R535, R537, R543,
Table 18-4).  A DISABLED stream's termination is off, and so is that of one in FAULT. (DEDUCED, log entry 124) -/
def Chip.ballState (c : Chip) (g : Balls) : BallState :=
  match g with
  | .hold k => if !c.boot.held && c.running && c.flag F.HOLD_STAT_HOLD k.val then .low else .highZ
  | .sensorIn n =>
    let s := c.get F.SNS_STATE_STATE n.val
    if !c.boot.held && c.running && decide (1 ≤ s ∧ s ≤ 4) then .active else .off
  | .serdesTx x =>
    let on := c.running && c.portUsed x.val || c.safeHold && decide (x.val = c.get F.FUSE_NET_PORT)
    if !c.boot.held && on then .active else .off
  | .sensorOut _ => if c.boot.held then .highZ else if c.running then .active else .low
  | .pps => if c.boot.held then .highZ else if c.running then .active else .low
  | .ddr4 => if c.boot.held || (!c.running && !c.boot.verified) then .highZ else .active
  | .xspi => if c.boot.held then .highZ else .active
  | .serial => if c.boot.held then .highZ else .active

/-- What a front end keeps over a warm restart: its reference set, and the digest it was captured under (R141).
(DEDUCED, log entry 47) -/
def Stream.keep (s : Stream) : Stream :=
  { Stream.cold with refs := s.refs, nextRefs := s.nextRefs, refDigest := s.refDigest }

/-- Recovery over a warm restart: failure records stay, a takeover under way has taken place, everything in progress
is gone (R399). (DEDUCED, log entry 47) -/
def Recov.keep (v : Recov) : Recov :=
  { Recov.cold with failedCell := v.failedCell, failedWalker := v.failedWalker, failedRegion := v.failedRegion,
                    degr := v.waiting.foldl addDegr v.degr }

/-- Reset and boot at the start of a warm restart: the pins stay as they are. -/
def Boot.restarted (b : Boot) : Boot :=
  { Boot.powerOn with held := false, pin := true, vio := b.vio, xspiRst := b.xspiRst, straps := b.straps, cold := false }

/-- A warm restart begins at stage A (R489): registers keep their kept fields, the clock runs on, sparing, maps and
failure records stay. (DEDUCED, log entry 47) -/
def Chip.warmReset (c : Chip) : Chip :=
  let c := (c.takeRole).graftDue (fun _ => true)
  let lock := c.locked
  let n : Chip := { Chip.powerOn with
    regs := warmRegs c.regs, free := c.free, clock := { c.clock with up := 0 }
    mem := { c.mem.zeroed with ddr := [], blockHnd := [], sharedHnd := [], ddrHnd := [], hndFaults := [], parity := [],
                               mvFaults := [], tokenFaults := [], bankCopied := [false, false, false, false], ddrUnc := [0, 0], nextMove := 0 }
    recov := c.recov.keep
    streams := c.streams.filterMap (fun e => if e.2.keep = Stream.cold then none else some (e.1, e.2.keep))
    servo := { Servo.cold with ri := c.servo.ri }
    fuses := c.fuses, flash := c.flash
    boot := { c.boot.restarted with digest := c.boot.digest }
    mgmt := { Mgmt.cold with jtag := c.mgmt.jtag, i2cIndex := c.mgmt.i2cIndex } }
  let n := if lock then (n.put F.TIME_STAT_STATE 3).putB F.TIME_STAT_ALARM true else n
  n.stageA

/-! ## Stages B to H -/

/-- IMAGE_VERIFY: steps 1 to 5 for the candidate; while the customer root is blank, safe hold (R500 to R502).
(DESIGN CHOICE, log entry 50) -/
def Chip.imageVerify (c : Chip) : Chip :=
  if !c.booting || c.boot.verified then c
  else if c.fuses.customer.isNone then ((c.bootReason 0 12).bootReason 1 12).enterSafeHold
  else
    match c.boot.cands with
    | [] => c.enterSafeHold
    | d :: _ =>
      match c.verifyHead (c.flashDev d) true with
      | .inr r => c.candidateFails d r
      | .inl (h, _) =>
        c.updBoot (fun b => { b with verified := true, digest := sha384 ((c.flashDev d).message h) })

/-- FIRMWARE_START: step 6; the control cores start, and the regulator's VOUT_MODE is read (R501, R45). -/
def Chip.firmwareStart (c : Chip) (linear16 : Bool) : Chip :=
  if !c.booting || !c.boot.verified || c.boot.firmware then c
  else
    match c.candidate with
    | none => c
    | some (d, f, _, secs) =>
      match f.firmwareCheck secs with
      | 0 =>
        let c := c.updBoot (fun b => { b with firmware := true })
        if linear16 then c else c.pmbFault
      | r => c.candidateFails d r

/-- Role keys of section 9, unwrapped under the fuse wrap key, which is withheld while debug is open (R510, R511). -/
def Chip.unwrapKeys (c : Chip) (l : List RoleKey) : List (Nat × List Byte) :=
  l.filterMap (fun k =>
    match c.fuses.wrap with
    | none => if k.key.length = 48 then some (k.role, k.key) else none
    | some w => if c.get F.FUSE_STAT_JTAG = 2 then none else (Config.aesUnwrap w k.key).map (fun x => (k.role, x)))

/-- Handle tables from pairs of index and entry. -/
def handleTab (l : List (Nat × BitVec 64)) : SMap (BitVec 64) := l.foldl (fun m e => smSet 0 m e.1 e.2) []

/-- The reference set of a stream at boot: a captured one that this image keeps, else the image's (R138, R141). -/
def Chip.bootRefs (c : Chip) (n : Nat) : Chip :=
  let s := c.stream n
  if !c.boot.cold && c.boot.digest = s.refDigest && s.refDigest ≠ [] then c
  else
    let c := c.modStream n (fun s => { s with nextRefs := none, refDigest := [] })
    c.useRefs n ((c.image.refs.find? (fun e => e.1 = n)).map (·.2)) false

/-- The configuration of section 7 and what stage D derives from the sections (R523, R133, R213, R215). -/
def Chip.loadImage (c : Chip) (h : ImgHdr) (img : ImageConfig) : Chip :=
  let c := { c with image := img }
  let c := img.regs.foldl (loadImageWord (!c.boot.cold)) c
  let c := foldN 4 (fun c i => c.setWord .BUILD i 0 (leNat ((h.build.drop (4 * i)).take 4))) c
  let c := c.updMem (fun m => { m with
    blockHnd := handleTab img.blockHandles, sharedHnd := handleTab img.sharedHandles, ddrHnd := handleTab img.ddrHandles })
  let der := img.scales.map deriveLayer
  let c := c.updBoot (fun b => { b with derived := der.map (·.1) })
  let c := c.bump F.QNT_FP_BAD_SCALE 0 0 ((der.map (·.2)).foldl (· + ·) 0)
  let c := { c with mgmt := { c.mgmt with keys := c.unwrapKeys img.roleKeys } }
  foldN 16 (fun c n => c.bootRefs n) c

/-- SECTIONS_LOADED: step 7, and what the sections configure (R501, R523). (DESIGN CHOICE, log entries 27 and 110) -/
def Chip.sectionsLoaded (c : Chip) (img : ImageConfig) : Chip :=
  if !c.booting || !c.boot.firmware || c.boot.sections then c
  else
    match c.candidate with
    | none => c
    | some (d, f, h, secs) =>
      match f.sectionCheck secs with
      | 0 => (c.loadImage h img).updBoot (fun b => { b with sections := true })
      | r => c.candidateFails d r

/-- DDR4_TRAINING_DONE (R493). -/
def Chip.ddrTrained (c : Chip) (aOk bOk : Bool) : Chip :=
  if !c.booting || !c.boot.verified || c.boot.trained then c
  else
    let c := c.updBoot (fun b => { b with trained := true })
    let c := if aOk then c else c.ddrLost 0
    let c := if bOk then c else c.ddrLost 1
    if aOk || bOk then c else c.faultHold

/-- DDR4_INIT_DONE: nothing of a former boot is left in DDR4 (R492). -/
def Chip.ddrInit (c : Chip) : Chip :=
  if !c.booting || !c.boot.trained || c.boot.inited then c
  else (c.updMem (fun m => { m with ddr := [] })).updBoot (fun b => { b with inited := true })

/-- SELF_TEST_DONE after a cold reset: rows and banks spared, failed units grafted out, failed spares marked (R494,
R92, R66, R388). -/
def Chip.selfTest (c : Chip) (r : SelfTestIn) : Chip :=
  if !c.booting || !c.boot.cold || !c.boot.firmware || c.boot.tested then c
  else
    let c := r.blockRows.foldl (fun c e => c.spareRow (e.1 * 2 ^ 20 + e.2)) c
    let c := r.sharedRows.foldl (fun c e => c.spareRow ((576 + e.1) * 2 ^ 20 + e.2)) c
    let c := r.sharedBanks.foldl (fun c b => c.spareBank b.val) c
    let c := (c.updMem (fun m => { m with bankCopied := [true, true, true, true] })).sparing
    let c := c.updMem (fun m => { m with bankCopied := [false, false, false, false] })
    let c := r.failed.foldl (fun c u => match u with
      | .core k => c.coreFail k.val
      | u => (c.updRecov (fun v => { v with failedNow := [] })).unitFail u) c
    let c := (c.takeRole).graftDue (fun _ => true)
    c.updBoot (fun b => { b with tested := true })

/-- The set of an adapter area that fits a set of the running image (R336). -/
def Chip.areaSet (c : Chip) (a : Area) (s : Nat) : Option AreaSet :=
  (c.image.adapt[s]?).bind (fun cfg => a.sets.find? (fun e =>
    e.set = s ∧ e.hash = cfg.modelHash ∧ e.model = c.flag F.ADAPT_SET_MODEL s ∧ e.rank = c.get F.ADAPT_SET_RANK s ∧
    e.shapes = cfg.projs.map (fun p => (p.inDim, p.outDim))))

/-- ADAPTER_AREAS_VERIFIED: copy 0 of every declared set (R320, R336). -/
def Chip.adaptersVerified (c : Chip) : Chip :=
  if !c.booting || !c.boot.sections || c.boot.adapters then c
  else
    let area := c.bestArea
    let c := foldN 8 (fun c s =>
      if !c.flag F.ADAPT_SET_VALID s then c
      else
        match area.bind (fun a => c.areaSet a s), c.image.adapt[s]? with
        | some e, _ => (c.modSet s (fun _ => AdSet.start e.data)).put F.ADAPT_STAT_LOADED (c.get F.ADAPT_STAT_LOADED ||| 2 ^ s)
        | none, some cfg => c.modSet s (fun _ => AdSet.start (initialCopy (c.get F.ADAPT_SET_RANK s) cfg))
        | none, none => c) c
    let c := match area with
      | some a => c.put F.ADAPT_SEQ_SEQ (a.num % 2 ^ 32)
      | none => c
    c.updBoot (fun b => { b with adapters := true })

/-! ## Stage I -/

/-- The variant that the recorded degradations call for, or fault hold (R399). (DEDUCED, log entry 45) -/
def Chip.bootVariant (c : Chip) : Chip :=
  match (if c.recov.degr = [] then c.variantFor [] else c.successor c.recov.degr) with
  | some v => c.useVariant v
  | none => c.faultHold

/-- Credits, key-value pages and spool at their configured totals; N derived (R413, R131). -/
def Chip.fillPools (c : Chip) : Chip :=
  let c := foldN 16 (fun c n =>
    if c.get F.SNS_CFG_GEN n = 0 then c
    else
      let c := c.put F.SNS_CREDIT_FREE (c.get F.SNS_CREDIT_TOTAL n) n
      c.put F.SNS_CREDIT_N (Nat.min 7 (ceilDiv (c.get F.ENC_HOLD_LEAD (n / 2)) (actsAs (c.get F.ENC_HOLD_PITCH_MIN (n / 2)) 1))) n) c
  let c := foldN 32 (fun c s => c.modSubm s (fun x => { x with free := actsAs (c.get F.SUB_CFG_CREDITS s) 1 })) c
  (c.showKv.showFree).showAdapt

/-- Partitions, adaptation, streams and submitting sessions that the image enables (R126, R532).
(DEDUCED, log entry 49) -/
def Chip.enableBoot (c : Chip) : Chip :=
  let c := foldN 16 (fun c p =>
    if c.flag F.PART_CFG_VALID p ∧ c.flag F.PART_CTRL_ENABLE p then c.put F.PART_CFG_STATE 3 p else c) c
  let c := if c.flag F.ADAPT_CTRL_ENABLE ∧ (List.range 8).any (fun s => c.flag F.ADAPT_SET_VALID s) then
      c.put F.ADAPT_CTRL_STATE 3 else c
  let c := foldN 16 (fun c n =>
    if c.get F.SNS_CFG_GEN n = 0 then c
    else if c.checkFails n then c.checkFault n
    else if c.flag F.SNS_CFG_AUTO n then c.enableStream n
    else c) c
  foldN 32 (fun c s => if c.flag F.SUB_CFG_AUTO s then c.enableSub s else c) c

/-- Static IPv4 addresses of the ports (R422). -/
def Chip.portAddrs (c : Chip) : Chip :=
  foldN 2 (fun c x =>
    if c.portUsed x ∧ ¬ c.flag F.PORT_CFG_DHCP x then c.put F.PORT_IP4_ADDR (((c.portNet x).map (·.ip4)).getD 0) x else c) c

/-- What the sections place in memory, over zeros (R92, R492). -/
def Chip.placeContent (c : Chip) : Chip :=
  let c := c.updMem Mem.zeroed
  c.image.content.foldl (fun c e => c.updMem (fun m => m.writeAt ⟨e.1, decide (e.1 = 37), e.2.1⟩ e.2.2)) c

/-- What of the running image BOOT_STAT and BOOT_IMG show (Tables 16-18, 16-19). -/
def Chip.showImage (c : Chip) : Chip :=
  match c.candidate with
  | none => c
  | some (d, f, h, _) =>
    let act := (f.activation).getD 0
    let c := (c.put F.BOOT_STAT_SLOT d).put F.BOOT_IMG_SVN h.svn
    let c := c.putB F.BOOT_IMG_ADVANCE h.advance
    (c.put F.BOOT_ACT_LO_ACT_LO (act % 2 ^ 32)).put F.BOOT_ACT_HI_ACT_HI (act / 2 ^ 32)

/-- BOOT_STAGE_I: after D, F, G and H, STATE becomes RUNNING (R489, R490). -/
def Chip.bootStageI (c : Chip) (ms : Nat) : Chip :=
  let b := c.boot
  if !c.booting || !b.sections || !b.inited || (b.cold && !b.tested) || !b.adapters then c
  else
    let c := (c.showImage).placeContent
    let c := (c.put F.BOOT_STAT_BOOT_MS (Nat.min ms (2 ^ 21 - 1))).put F.BOOT_STAT_STATE 1
    let c := (c.bootVariant).fillPools
    let c := { c with fabric := { c.fabric with fenceDone := [true, true, true, true] } }
    ((c.portAddrs).enableBoot).settle

/-- SVN_ADVANCE (R504). -/
def Chip.svnAdvance (c : Chip) : Chip :=
  if !c.running || !c.flag F.BOOT_IMG_ADVANCE || !c.secure then c
  else
    let n := Nat.max c.fuses.svn (Nat.min 64 (c.get F.BOOT_IMG_SVN))
    ({ c with fuses := { c.fuses with svn := n } }).put F.FUSE_STAT_SVN_CNT n

end Sys2Proof.Machine
end

