-- ==== Sys2Proof/Machine/Nmp.lean ====
section
/-!
DEFINITION. The Neller Management Protocol (R511 to R515) and the rules of access to the management object map
(R520 to R532).
-/

namespace Sys2Proof.Machine

/-! ## Datagrams -/

/-- A request datagram (Table 16-11). -/
structure NmpReq where
  type : Nat
  role : Nat
  bootId : Nat
  num : Nat
  body : List Byte
  signed : List Byte
  tag : List Byte
  deriving DecidableEq, Repr

/-- The first two checks of R512. -/
inductive NmpIn where
  /-- No MAGIC or another VERSION. -/
  | drop
  /-- Answered with code 1: the TYPE and SEQ that the answer echoes. -/
  | malformed (type num : Nat)
  | ok (r : NmpReq)
  deriving DecidableEq, Repr

/-- A datagram taken apart. (DEDUCED, log entry 55) -/
def nmpIn (p : List Byte) : NmpIn :=
  let n := fun o k => beNat ((p.drop o).take k)
  if p.length < 3 ∨ n 0 2 ≠ 0x4E4D ∨ n 2 1 ≠ 1 then .drop
  else
    let len := n 6 2
    let role := n 4 1
    if p.length < 24 ∨ role > 3 ∨ p.length ≠ 24 + len + (if role = 0 then 0 else 48) then .malformed (n 3 1) (n 16 8)
    else .ok ⟨n 3 1, role, n 8 8, n 16 8, (p.drop 24).take len, p.take (24 + len), p.drop (24 + len)⟩

/-- The current BOOT_ID. -/
def Chip.bootId (c : Chip) : Nat := c.get F.BOOT_ID_HI_BID_HI * 2 ^ 32 + c.get F.BOOT_ID_LO_BID_LO

/-- The key of a role, none for a role that is never granted (R511). -/
def Chip.roleKey (c : Chip) (r : Nat) : Option (List Byte) := (c.mgmt.keys.find? (fun e => e.1 = r)).map (·.2)

/-- A response: type, role and SEQ of its request, status, body; code 1 goes out with ROLE 0 and no TAG (R512). -/
def Chip.nmpBytes (c : Chip) (type role num status : Nat) (body : List Byte) : List Byte :=
  let role := if status = 1 then 0 else role
  let m := beBytes 2 0x4E4D ++ beBytes 1 1 ++ beBytes 1 (128 + type % 128) ++ beBytes 1 role ++ beBytes 1 status ++
    beBytes 2 body.length ++ beBytes 8 c.bootId ++ beBytes 8 num ++ body
  match (if role = 0 then none else c.roleKey role) with
  | some k => m ++ hmac384 k m
  | none => m

/-- Sends response datagrams to the source of a request, on the port where it arrived, in queue 5. -/
def Chip.nmpSend (c : Chip) (d : DgIn) (l : List (List Byte)) : Chip :=
  l.foldl (fun c b => c.pushTo d.port.val ⟨5, .nmp, d.src, d.udp, b, none⟩) c

/-- What an accepted request is answered with: a status and one body per datagram. -/
structure NmpReply where
  status : Nat
  bodies : List (List Byte)
  deriving DecidableEq, Repr

/-- An answer without content. (DEDUCED, log entry 55) -/
def NmpReply.plain (status : Nat) : NmpReply := ⟨status, [(recordMap []).enc]⟩

/-- Code 0. -/
def NmpReply.done : NmpReply := NmpReply.plain 0

/-- Code 6 with its reason text. -/
def NmpReply.refused (why : List Byte) : NmpReply := ⟨6, [(recordMap [(23, .text why)]).enc]⟩

/-! ## Requests -/

/-- A request of Table 16-14 with its body read (Table 16-13); `bad` is one whose type or body is not. -/
inductive NmpAct where
  | hello
  | read (addr count : Nat)
  | write (addr value mask : Nat)
  | control (t : Target) (action : Nat)
  | restart
  | attest (nonce : List Byte)
  | stage (len : Nat) (target : Option Nat)
  | capture (stream : Nat)
  | commit (empty : Bool)
  | scrub
  | selfTest
  | status (handle : Nat)
  | abort (handle : Nat)
  | data (handle : Option Nat) (off : Nat) (bytes : List Byte)
  | token (b : List Byte)
  | bad (type : Nat)
  deriving DecidableEq, Repr

/-- The function that CONTROL names, none outside the target's range (R514). -/
def targetOf (kind index : Nat) : Option Target :=
  match kind with
  | 0 => if h : index < 16 then some (.stream ⟨index, h⟩) else none
  | 1 => if h : index < 32 then some (.submit ⟨index, h⟩) else none
  | 2 => if h : index < 64 then some (.result ⟨index, h⟩) else none
  | 3 => if h : index < 16 then some (.partition ⟨index, h⟩) else none
  | 4 => if index = 0 then some .adaptation else none
  | _ => none

/-- Whether a target is a result session. -/
def isResult : Target → Bool
  | .result _ => true
  | _ => false

/-- The body of READ: an aligned range of the space (R513, R521). -/
def readReq (m : Cbor) : Option NmpAct :=
  match m.nat 1, m.key 2 with
  | some a, none => if a % 4 = 0 ∧ a ≤ 0x10FFFC then some (.read a 1) else none
  | some a, some (.uint n) =>
    if a % 4 = 0 ∧ 1 ≤ n ∧ n ≤ 64 ∧ a + 4 * (n - 1) ≤ 0x10FFFC then some (.read a n) else none
  | _, _ => none

/-- The body of CONTROL. (DEDUCED, log entry 56) -/
def controlReq (m : Cbor) : Option NmpAct :=
  match m.nat 6, m.nat 8 with
  | some k, some a =>
    match targetOf k ((m.nat 7).getD (if k = 4 then 0 else 64)) with
    | some t => if a < 2 ∨ (a = 2 ∧ isResult t) then some (.control t a) else none
    | none => none
  | _, _ => none

/-- The body of LONG_START (Table 16-15); the keys of the argument map are open. (DEDUCED, log entries 24 and 58) -/
def startReq (m : Cbor) : Option NmpAct :=
  let args := (m.key 12).getD (.map [])
  let arg := fun k p => args.nat (Config.argKey k p)
  match m.nat 11 with
  | some 1 =>
    match arg 1 0 with
    | some n =>
      let dev := if Config.argKey 1 1 = Config.argKey 1 0 then none else arg 1 1
      if n = 0 ∨ n > 251658240 ∨ dev.getD 0 > 1 then none else some (.stage n dev)
    | none => none
  | some 2 => (arg 2 0).bind (fun n => if n < 16 then some (.capture n) else none)
  | some 3 => some (.commit ((args.flag (Config.argKey 3 0)).getD false))
  | some 4 => some .scrub
  | some 5 => some .selfTest
  | _ => none

/-- An accepted request's type and body. -/
def nmpAct (type : Nat) (m : Cbor) : NmpAct :=
  let r : Option NmpAct := match type with
    | 1 => some .hello
    | 2 => readReq m
    | 3 =>
      match m.nat 1, m.nat 4, m.nat 5 with
      | some a, some v, some k => if v < 2 ^ 32 ∧ k < 2 ^ 32 then some (NmpAct.write a v k) else none
      | _, _, _ => none
    | 4 => controlReq m
    | 5 => some .restart
    | 6 => (m.bstr 9).bind (fun b => if 16 ≤ b.length ∧ b.length ≤ 64 then some (NmpAct.attest b) else none)
    | 7 => startReq m
    | 8 => (m.nat 13).map NmpAct.status
    | 9 => (m.nat 13).map NmpAct.abort
    | 10 =>
      match m.nat 17, m.bstr 18 with
      | some o, some b => if 1 ≤ b.length ∧ b.length ≤ 1024 then some (NmpAct.data (m.nat 13) o b) else none
      | _, _ => none
    | 11 => (m.bstr 19).map NmpAct.token
    | _ => none
  r.getD (.bad type)

/-- The request type that an action came with. -/
def NmpAct.type : NmpAct → Nat
  | .hello => 1
  | .read _ _ => 2
  | .write _ _ _ => 3
  | .control _ _ => 4
  | .restart => 5
  | .attest _ => 6
  | .stage _ _ | .capture _ | .commit _ | .scrub | .selfTest => 7
  | .status _ => 8
  | .abort _ => 9
  | .data _ _ _ => 10
  | .token _ => 11
  | .bad t => t

/-- The role that a request needs (Tables 16-14, 16-15); the role of LONG_ABORT is the starting one's. -/
def NmpAct.needs : NmpAct → Nat
  | .stage _ _ | .commit _ => 3
  | .bad 7 | .capture _ | .scrub | .selfTest => 2
  | a =>
    match a.type with
    | 1 => 0
    | 2 | 6 | 8 | 9 => 1
    | 3 | 4 => 2
    | _ => 3

/-- The requests that safe hold serves (Table 16-14, R502). -/
def NmpAct.inSafeHold : NmpAct → Bool
  | .read a n => decide (0x100000 ≤ a ∧ a + 4 * n ≤ 0x100100)
  | .stage _ _ => true
  | .capture _ | .commit _ | .scrub | .selfTest => false
  | a => [1, 2, 5, 7, 8, 9, 10].contains a.type

/-- A request that no type of Table 16-14 covers, or whose body is malformed, belongs to every command of its type, or
to every NMP command. (DESIGN CHOICE, log entry 53) -/
def NmpAct.strays (a : NmpAct) (type : Nat) : Bool :=
  match a with
  | .bad t => decide (t = type) || decide (t = 0 ∨ t > 11)
  | _ => false

/-- Whether the device serves NMP: safe hold, or running with a core in the management role (R502, R528). -/
def Chip.nmpServed (c : Chip) : Bool := !c.boot.held && (c.safeHold || (c.running && (c.coreOf 5).isSome))

/-- An accepted request in the order of its checks: type, safe hold, role, body (Table 16-12, R513).
(DEDUCED, log entry 54) -/
def Chip.nmpServe (c : Chip) (role : Nat) (a : NmpAct) (act : Chip → Nat → NmpAct → Chip × NmpReply) :
    Chip × NmpReply :=
  if a.type = 0 ∨ a.type > 11 then (c, NmpReply.plain 1)
  else if c.safeHold && !a.inSafeHold then (c, NmpReply.plain 8)
  else if !c.safeHold && decide (role < a.needs) then (c, NmpReply.plain 2)
  else
    match a with
    | .bad _ => (c, NmpReply.plain 1)
    | _ => act c role a

/-- A datagram on UDP port 51741, checked in the order of R512: `mine` says whether an accepted request is this
command's, `act` what it does. (DESIGN CHOICE, log entry 53) -/
def Chip.nmp (c : Chip) (d : DgIn) (mine : NmpAct → Bool) (act : Chip → Nat → NmpAct → Chip × NmpReply) : Chip :=
  if !c.nmpServed then c
  else
    let t := c.takeIn d
    match nmpIn d.payload with
    | .drop => t.bump F.NMP_CNT_BAD_MSG
    | .malformed type num =>
      let t := t.bump F.NMP_CNT_BAD_MSG
      t.nmpSend d [t.nmpBytes type 0 num 1 (recordMap []).enc]
    | .ok r =>
      if r.role ≠ 0 ∧ (c.roleKey r.role).map (fun k => hmac384 k r.signed) ≠ some r.tag then t.bump F.NMP_CNT_BAD_AUTH
      else
        let last := (c.role r.role).last
        if r.role ≠ 0 ∧ r.bootId ≠ c.bootId then t.bump F.NMP_CNT_REPLAY
        else if r.role ≠ 0 ∧ last = some (r.num, r.body) then t.nmpSend d (c.role r.role).resp
        else if r.role ≠ 0 ∧ (last.map (fun l => decide (r.num ≤ l.1))).getD false then t.bump F.NMP_CNT_REPLAY
        else
          match parseCbor r.body with
          | .ok (.map l, _) [] =>
            let a := nmpAct r.type (.map l)
            if !mine a then c
            else
              let x := t.nmpServe r.role a act
              let c := if x.2.status = 1 then x.1.bump F.NMP_CNT_BAD_MSG else x.1
              let out := x.2.bodies.map (fun b => c.nmpBytes r.type r.role r.num x.2.status b)
              let c := if r.role = 0 then c
                else c.modRole r.role (fun q => { q with last := some (r.num, r.body), resp := out })
              c.nmpSend d out
          | _ =>
            let t := t.bump F.NMP_CNT_BAD_MSG
            t.nmpSend d [t.nmpBytes r.type 0 r.num 1 (recordMap []).enc]

/-! ## Reading the map -/

/-- Registers of a stream, of a partition, of a class, of an adapter set, of a port. -/
def streamRegs : List Reg :=
  [.SNS_CFG, .SNS_TIME, .SNS_EXP, .SNS_IF, .SNS_RX, .SNS_PAGE, .SNS_CREDIT, .SNS_STATE, .SNS_PAGES, .SNS_CNT0, .SNS_CNT1,
   .SHD_CFG, .SHD_STAT, .EDGE_CFG, .SKEW_CFG, .BAND_CFG, .BAND_HND, .COND_CNT, .PAGE_GEOM, .SNS_SEG, .STITCH]

/-- Whether the image declares or uses the instance that a register belongs to (R522); an unbound session's registers
hold their reset values by themselves. -/
def Chip.declared (c : Chip) (r : Reg) (i : Nat) : Bool :=
  if streamRegs.contains r then decide (c.get F.SNS_CFG_GEN i ≠ 0)
  else if [Reg.PART_CFG, .PART_BLK, .PART_SPILL, .PART_CTRL, .PART_CNT, .HEDGE].contains r then c.flag F.PART_CFG_VALID i
  else if [Reg.CLASS_CFG, .CLASS_STR, .CLASS_SUB, .CLASS_DEC].contains r then c.flag F.CLASS_CFG_VALID i
  else if [Reg.ADAPT_SET, .ADAPT_SCORE, .ADAPT_UPD].contains r then c.flag F.ADAPT_SET_VALID i
  else if [Reg.PORT_CFG, .PORT_STAT, .PORT_LAT, .QUEUE_MAP, .PORT_CNT0, .PORT_CNT1, .PORT_IP4, .PORT_MAC_LO, .PORT_MAC_HI].contains r then
    decide (c.get F.PORT_CFG_MODE i ≠ 0)
  else true

/-- LDG_ITEM_x now (Table 13-13). -/
def Chip.ledgerItem (c : Chip) (x : Nat) : Nat :=
  if x = 0 then c.items.created % 2 ^ 32
  else if x < 7 then c.items.ends.getD (x - 1) 0 % 2 ^ 32
  else c.inFlight.length % 2 ^ 32

/-- The registers whose value is not a stored word: clocks and latch groups (R438, R276, R453, Table 13-13), read for a
role. -/
def Chip.special (c : Chip) (role : Nat) (r : Reg) (i : Nat) : Option Nat :=
  let l := (c.role role).latch
  match r with
  | .UPTIME => some (c.clock.up / 1000000000 % 2 ^ 32)
  | .TIME_SEC_LO => some (c.clock.now.sec % 2 ^ 32)
  | .TIME_SEC_HI => some l.secHi
  | .TIME_NS => some l.ns
  | .TIME_FRAC => some l.frac
  | .KV_EPOCH_LO => some (c.kv.epoch % 2 ^ 32)
  | .KV_EPOCH_HI => some l.epochHi
  | .LDG_ITEM => some (if i = 0 then c.ledgerItem 0 else l.items.getD (i - 1) 0)
  | .EVT_SEC_LO => some ((c.servo.events.head?.map (fun e => e.1.sec % 2 ^ 32)).getD 0)
  | .EVT_SEC_HI => some l.evtHi
  | .EVT_NS => some l.evtNs
  | _ => none

/-- A word as it reads, without what reading it does. -/
def Chip.peek (c : Chip) (role a : Nat) : Nat :=
  match findReg a with
  | none => 0
  | some (r, i, j) =>
    match c.special role r i with
    | some v => v
    | none => if c.declared r i then c.word r i j else r.info.cold

/-- What reading a word latches for its role. -/
def Chip.latchFor (c : Chip) (r : Reg) (i : Nat) (l : Latch) : Latch :=
  match r with
  | .TIME_SEC_LO => { l with secHi := c.clock.now.sec / 2 ^ 32, ns := c.clock.now.ns, frac := c.clock.frac }
  | .KV_EPOCH_LO => { l with epochHi := c.kv.epoch / 2 ^ 32 % 2 ^ 32 }
  | .LDG_ITEM => if i = 0 then { l with items := (List.range 7).map (fun x => c.ledgerItem (x + 1)) } else l
  | .EVT_SEC_LO =>
    match c.servo.events with
    | [] => { l with evtHi := 0, evtNs := 0 }
    | (t, fall, unlocked, degr) :: _ =>
      { l with evtHi := b2n degr * 2 ^ 17 + b2n unlocked * 2 ^ 16 + t.sec / 2 ^ 32 % 2 ^ 16
               evtNs := 2 ^ 31 + b2n fall * 2 ^ 30 + t.ns % 2 ^ 30 }
  | _ => l

/-- What reading a word does: the latch groups (R525), the event queue (R453), RC fields cleared (R526); with LOW the
memory behind it. -/
def Chip.readDone (c : Chip) (role a : Nat) : Chip :=
  match findReg a with
  | none => c
  | some (r, i, j) =>
    let c' := c.modRole role (fun q => { q with latch := c.latchFor r i q.latch })
    match r with
    | .EVT_SEC_LO =>
      let c' := c'.updServo (fun s => { s with events := s.events.drop 1 })
      c'.put F.EVT_CFG_COUNT c'.servo.events.length
    | _ =>
      if (c.special role r i).isNone && c.declared r i && decide (r.info.rc ≠ 0) then
        (c'.setWord r i j (c.word r i j - (c.word r i j &&& r.info.rc))).lowRead r i j
      else c'

/-- READ of consecutive words in ascending order (R513, R524). -/
def Chip.readWords (role : Nat) : Nat → Chip → Nat → Chip × List Nat
  | 0, c, _ => (c, [])
  | n + 1, c, a =>
    let x := Chip.readWords role n (c.readDone role a) (a + 4)
    (x.1, c.peek role a :: x.2)

/-- The answer to READ. -/
def Chip.nmpRead (c : Chip) (role : Nat) (a : NmpAct) : Chip × NmpReply :=
  match a with
  | .read addr n =>
    let x := Chip.readWords role n c addr
    (x.1, ⟨0, [(recordMap [(3, .arr (x.2.map .uint))]).enc]⟩)
  | _ => (c, NmpReply.plain 1)

/-! ## Writing the map -/

/-- Bits that only an administrator writes (Table 17-8). -/
def adminBits (r : Reg) : Nat :=
  match r with
  | .GOV_CTRL | .PORT_LAT | .PPS_CFG => r.info.rw
  | _ => 0

/-- A CONTROL, or the WRITE that acts as one, whose function is not there (R514). -/
def Chip.undeclared (c : Chip) (t : Target) : Bool :=
  match t with
  | .stream n => decide (c.get F.SNS_CFG_GEN n.val = 0)
  | .submit _ => false
  | .result s => !(c.sess s.val).open_
  | .partition p => !c.flag F.PART_CFG_VALID p.val
  | .adaptation => !(List.range 8).any (fun s => c.flag F.ADAPT_SET_VALID s)

/-- CONTROL's enable or disable of a function that is there. -/
def Chip.switch (c : Chip) (t : Target) (on : Bool) : Chip := (if on then c.enable t else c.disable t).settle

/-- The function whose enable a register's bit 31 is (Table 17-8). -/
def enableOf (r : Reg) (i : Nat) : Option Target :=
  match r with
  | .ADAPT_CTRL => some .adaptation
  | .PART_CTRL => targetOf 3 i
  | _ => none

/-- The word that a WRITE leaves in a register: RW bits under the mask, W1C bits cleared; a bit that acts as CONTROL is
left to it (R513, R531). -/
def writeWord (r : Reg) (old value mask : Nat) : Nat :=
  let en := if r = .ADAPT_CTRL ∨ r = .PART_CTRL then 2 ^ 31 else 0
  let rw := mask &&& (r.info.rw ^^^ en)
  let clr := old &&& (value &&& mask) &&& r.info.w1c
  ((old ^^^ (old &&& rw)) ||| (value &&& rw)) ^^^ clr

/-- WRITE in the order of R513. -/
def Chip.nmpWrite (c : Chip) (role : Nat) (a : NmpAct) : Chip × NmpReply :=
  match a with
  | .write addr value mask =>
    match findReg addr with
    | none => (c, NmpReply.plain 3)
    | some (r, i, j) =>
      let diff := (c.peek role addr ^^^ value) &&& mask &&& (2 ^ 32 - 1 - (r.info.resv ||| r.info.w1c))
      if (diff ||| r.info.rw) ≠ r.info.rw then (c, NmpReply.plain 3)
      else if diff &&& adminBits r ≠ 0 ∧ role < 3 then (c, NmpReply.plain 2)
      else
        let on := bitOf value 31
        let act := if bitOf diff 31 then enableOf r i else none
        if (act.map c.undeclared).getD false then (c, NmpReply.refused (txt "not-declared"))
        else
          let c := c.setWord r i j (writeWord r (c.word r i j) value mask)
          (match act with
           | some t => c.switch t on
           | none => c.settle, NmpReply.done)
  | _ => (c, NmpReply.plain 1)

/-- CONTROL (R514): an enable, a disable, the close of a result session (R486). -/
def Chip.nmpControl (c : Chip) (_role : Nat) (a : NmpAct) : Chip × NmpReply :=
  match a with
  | .control t act =>
    if c.undeclared t then (c, NmpReply.refused (txt "not-declared"))
    else
      (match t, act with
       | .result s, 2 => (c.sendClose s.val 4).settle
       | _, _ => c.switch t (decide (act = 1)), NmpReply.done)
  | _ => (c, NmpReply.plain 1)

/-! ## HELLO, RESTART, ATTEST -/

/-- HELLO's answer (Table 16-13, key 22; R506). (DEDUCED, log entry 63) -/
def Chip.nmpHello (c : Chip) (_role : Nat) (_a : NmpAct) : Chip × NmpReply :=
  let mask := 1 + ([1, 2, 3].map (fun r => if (c.roleKey r).isSome then 2 ^ r else 0)).foldl (· + ·) 0
  (c, ⟨0, [(recordMap [(22, .arr [.uint (c.get F.BOOT_STAT_STATE), .bytes Config.deviceId, .uint c.bootId,
    .bytes Config.certificate, .uint mask])]).enc]⟩)

/-- Operations that have not ended are aborted by a restart (R515, Table 16-16). -/
def Chip.abortOps (c : Chip) : Chip :=
  let c := c.cutFlash
  let c := foldN 8 (fun c h => if c.opOpen h then c.opEnds h 4 0 else c) c
  let c := foldN 16 (fun c n => if (c.stream n).capturing then c.captureOver n else c) c
  (c.putB F.ADAPT_STAT_COMMITTING false).updAdapt (fun a => { a with commit := [] })

/-- RESTART is accepted: no item is admitted, items in flight end CANCELLED: restart at their next step boundary
(R515). (DEDUCED, log entry 82) -/
def Chip.nmpRestart (c : Chip) (_role : Nat) (_a : NmpAct) : Chip × NmpReply :=
  if c.boot.closing.isSome then (c, NmpReply.done)
  else
    let c := (c.updBoot (fun b => { b with closing := some c.upNs })).abortOps
    let c := foldN 16 (fun c n => if c.get F.SNS_STATE_STATE n = 0 then c else c.streamOff n) c
    let c := c.inFlight.foldl (fun c i => c.endSoon i.num ⟨4, txt "restart"⟩) c
    (c.settle, NmpReply.done)

/-- The firmware section's hash in the running image's manifest. -/
def Chip.firmwareHash (c : Chip) : List Byte :=
  match c.candidate with
  | some (_, _, _, s :: _) => s.hash
  | _ => []

/-- HSS signatures remaining. -/
def Chip.signaturesLeft (c : Chip) : Nat := c.get F.ATT_STAT_TREES * 1024 + c.get F.ATT_STAT_LEAVES

/-- Payload of an attestation report (R507). (DEDUCED, log entry 63) -/
def Chip.reportPayload (c : Chip) (nonce : List Byte) : List Byte :=
  (recordMap [
    (1, .bytes nonce), (2, .bytes Config.deviceId), (3, .text (txt "B1")), (4, .uint c.fuses.svn),
    (5, .bytes c.boot.digest), (6, .uint (c.get F.BOOT_STAT_SLOT)),
    (7, .uint (c.get F.BOOT_ACT_HI_ACT_HI * 2 ^ 32 + c.get F.BOOT_ACT_LO_ACT_LO)), (8, .uint (c.get F.BOOT_IMG_SVN)),
    (9, .bytes c.firmwareHash), (10, .uint (c.word .VAR_STAT)), (11, .uint ((c.bestArea.map (·.num)).getD 0)),
    (12, .uint (c.get F.FUSE_STAT_JTAG)),
    (13, .arr [.uint c.clock.now.sec, .uint c.clock.now.ns, .uint (c.get F.TIME_STAT_STATE)]),
    (14, .uint c.bootId), (15, .uint c.signaturesLeft)]).enc

/-- Protected header of a COSE signature: its algorithm, alg −35 or −46, as a negative integer's argument. -/
def coseAlg (n : Nat) : List Byte := (Cbor.map [(.uint 1, .nint n)]).enc

/-- Bytes that a COSE signature covers (RFC 9052, Sig_structure). -/
def coseSigned (alg payload : List Byte) : List Byte :=
  (Cbor.arr [.text (txt "Signature"), .bytes [], .bytes alg, .bytes [], .bytes payload]).enc

/-- A COSE_Sign report with its two signatures, device ID as kid (R507). (DEDUCED, log entry 63) -/
def coseReport (payload ec hss : List Byte) : List Byte :=
  let one := fun (alg sig : List Byte) => Cbor.arr [.bytes alg, .map [(.uint 4, .bytes Config.deviceId)], .bytes sig]
  (Cbor.tag 98 (.arr [.bytes [], .map [], .bytes payload, .arr [one (coseAlg 34) ec, one (coseAlg 45) hss]])).enc

/-- The next bottom tree is taken into use, once both devices record it; none when no signature remains (R509). -/
def Chip.newTree (c : Chip) : Option (Chip × Nat) :=
  let t := c.nextTree
  if t ≥ 1024 then none
  else
    let c : Chip := { c with flash := c.flash.map (fun (f : Flash) => { f with trees := f.trees ++ [t] }) }
    some (((c.updBoot (fun (b : Boot) => { b with tree := some t })).showTrees).put F.ATT_STAT_LEAVES 1024, t)

/-- The bottom tree of the next signature: the one in use, or a new one. -/
def Chip.takeTree (c : Chip) : Option (Chip × Nat) :=
  match c.boot.tree with
  | some t => if c.get F.ATT_STAT_LEAVES = 0 then c.newTree else some (c, t)
  | none => c.newTree

/-- ATTEST (R507 to R509). -/
def Chip.nmpAttest (c : Chip) (_role : Nat) (a : NmpAct) : Chip × NmpReply :=
  match a with
  | .attest nonce =>
    if c.get F.FUSE_STAT_JTAG = 2 then (c, NmpReply.refused (txt "debug"))
    else if !c.secure then (c, NmpReply.plain 7)
    else
      match c.takeTree with
      | none => (c, NmpReply.refused (txt "key-exhausted"))
      | some (c, t) =>
        let leaf := 1024 - c.get F.ATT_STAT_LEAVES
        let c := c.put F.ATT_STAT_LEAVES (c.get F.ATT_STAT_LEAVES - 1)
        let p := c.reportPayload nonce
        let r := coseReport p (Config.es384Sign (coseSigned (coseAlg 34) p)) (Config.hssSign t leaf (coseSigned (coseAlg 45) p))
        let parts := chunksOf 1024 r.length r
        (c, ⟨0, (List.range parts.length).map (fun k =>
          (recordMap [(10, .bytes (parts.getD k [])), (20, .uint k), (21, .uint parts.length)]).enc)⟩)
  | _ => (c, NmpReply.plain 1)

end Sys2Proof.Machine
end

