-- ==== Sys2Proof/Machine/LongOps.lean ====
section
/-!
DEFINITION. Long operations (R516 to R518, R139 to R143, R334, R335), JTAG and fuses (R510), the I²C window (R519).
-/

namespace Sys2Proof.Machine

/-! ## Starting -/

/-- A staging begins: the target's activation record is erased, then the image region up to IMAGE_LEN (R517). -/
def Chip.stageBegins (c : Chip) (h : Nat) : Chip :=
  let o := c.op h
  let act := fun d => ((c.flashDev d).activation).getD 0
  let c := c.modOp h (fun x => { x with rank := Nat.max (act 0) (act 1) })
  (c.modFlash o.target (fun f => (f.erase 0 0x1000).erase 0x1000 (o.len - 0x1000))).put F.LONG_STAT_STATE 1 h

/-- An adapter commit begins: it holds the published copy of every set (R334, R323). -/
def Chip.commitBegins (c : Chip) (h : Nat) : Chip :=
  let hold := ((List.range 8).filter (fun s => c.flag F.ADAPT_SET_VALID s)).map (fun s => (s, c.get F.ADAPT_SET_CUR s))
  let c := (c.putB F.ADAPT_STAT_COMMITTING true).updAdapt (fun a => { a with commit := hold })
  c.put F.LONG_STAT_STATE 1 h

/-- The flash is free: a QUEUED staging or commit starts (R516). -/
def Chip.startQueued (c : Chip) : Chip :=
  match (List.range 8).find? (fun h => c.opOpen h && decide (c.get F.LONG_STAT_STATE h = 0)) with
  | none => c
  | some h => if c.get F.LONG_STAT_KIND h = 1 then c.stageBegins h else c.commitBegins h

/-- An entry is taken for a new operation: its handle counts up from 1 and wraps from 65,535 to 1 (R516). -/
def Chip.newOp (c : Chip) (h kind : Nat) (o : LongOp) : Chip :=
  let n := c.mgmt.nextHandle
  let c := (c.setWord .LONG_STAT h 0 0).put F.LONG_STAT_KIND kind h
  let c := (c.put F.LONG_HND_HANDLE n h).put F.LONG_STAT_STATE (if kind = 1 ∨ kind = 3 then 0 else 1) h
  let c := c.modOp h (fun _ => o)
  c.updMgmt (fun m => { m with nextHandle := if n = 65535 then 1 else n + 1 })

/-- The answer to LONG_START: the handle. -/
def startedReply (handle : Nat) : NmpReply := ⟨0, [(recordMap [(13, .uint handle)]).enc]⟩

/-- LONG_START of a kind: refused while the security core is lost for kinds 1 and 3, while one of the kind has not
ended, with 8 handles live, or for the kind's own reason; `first` is what its start does (R408, R516).
(DEDUCED, log entry 61) -/
def Chip.longStart (c : Chip) (kind : Nat) (o : LongOp) (why : Option (List Byte)) (first : Chip → Nat → Chip) :
    Chip × NmpReply :=
  if (kind = 1 ∨ kind = 3) ∧ !c.secure then (c, NmpReply.plain 7)
  else if (c.opOfKind kind).isSome then (c, NmpReply.plain 4)
  else
    match (List.range 8).find? (fun h => !c.opLive h), why with
    | none, _ => (c, NmpReply.plain 5)
    | some _, some w => (c, NmpReply.refused w)
    | some h, none => (first (c.newOp h kind o) h, startedReply c.mgmt.nextHandle)

/-- Kinds 1 and 3 start at once unless the other one runs. -/
def Chip.flashFree (c : Chip) : Bool := (c.opOfKind 1).isNone && (c.opOfKind 3).isNone

/-- LONG_START kind 1 (R517, R502). (DEDUCED, log entry 61) -/
def Chip.stageStart (c : Chip) (role : Nat) (a : NmpAct) : Chip × NmpReply :=
  match a with
  | .stage len target =>
    let dev := if c.safeHold then target.getD 1 else 1 - c.get F.BOOT_STAT_SLOT
    let why := if c.fuses.customer.isNone then some (txt "unprovisioned") else none
    let free := c.flashFree
    c.longStart 1 { LongOp.cold with role := role, target := dev, len := len } why
      (fun c h => if free then c.stageBegins h else c)
  | _ => (c, NmpReply.plain 1)

/-- LONG_START kind 2: busy, disabled, not-held, in that order (R139, R140). -/
def Chip.captureStart (c : Chip) (role : Nat) (a : NmpAct) : Chip × NmpReply :=
  match a with
  | .capture n =>
    let why :=
      if (c.stream n).page.isSome then some (txt "busy")
      else if c.get F.SNS_STATE_STATE n ≠ 3 then some (txt "disabled")
      else if !c.flag F.HOLD_STAT_FORCE (n / 2) then some (txt "not-held")
      else none
    c.longStart 2 { LongOp.cold with role := role, target := n } why
      (fun c _ => c.captureBegin n)
  | _ => (c, NmpReply.plain 1)

/-- LONG_START kind 3 (R334, R335). -/
def Chip.commitStart (c : Chip) (role : Nat) (a : NmpAct) : Chip × NmpReply :=
  match a with
  | .commit empty =>
    let free := c.flashFree
    c.longStart 3 { LongOp.cold with role := role, empty := empty } none
      (fun c h => if free then c.commitBegins h else c)
  | _ => (c, NmpReply.plain 1)

/-- LONG_START kind 4 (R518). (DESIGN CHOICE, log entry 62) -/
def Chip.scrubStart (c : Chip) (role : Nat) (_a : NmpAct) : Chip × NmpReply :=
  c.longStart 4 { LongOp.cold with role := role } none (fun c _ => c)

/-- LONG_START kind 5 (R518). (DESIGN CHOICE, log entry 62) -/
def Chip.spareTestStart (c : Chip) (role : Nat) (_a : NmpAct) : Chip × NmpReply :=
  c.longStart 5 { LongOp.cold with role := role } none (fun c _ => c)

/-! ## While it runs -/

/-- LONG_STATUS. -/
def Chip.longStatus (c : Chip) (_role : Nat) (a : NmpAct) : Chip × NmpReply :=
  match a with
  | .status handle =>
    match c.opOfHandle handle with
    | none => (c, NmpReply.plain 5)
    | some h =>
      (c, ⟨0, [(recordMap [(14, .uint (c.get F.LONG_STAT_STATE h)), (15, .uint (c.get F.LONG_STAT_PROGRESS h)),
        (16, .uint (c.get F.LONG_STAT_RESULT h))]).enc]⟩)
  | _ => (c, NmpReply.plain 1)

/-- LONG_ABORT, for the starting role or a higher one: a QUEUED operation ends at once, a RUNNING one at its next step
boundary (R516, Table 16-16). -/
def Chip.longAbort (c : Chip) (role : Nat) (a : NmpAct) : Chip × NmpReply :=
  match a with
  | .abort handle =>
    match c.opOfHandle handle with
    | none => (c, NmpReply.plain 5)
    | some h =>
      if !c.safeHold ∧ role < (c.op h).role then (c, NmpReply.plain 2)
      else if !c.opOpen h then (c, NmpReply.done)
      else if c.get F.LONG_STAT_STATE h = 0 then (c.opEnds h 4 0, NmpReply.done)
      else (c.modOp h (fun o => { o with abort := true }), NmpReply.done)
  | _ => (c, NmpReply.plain 1)

/-- Whether an offset has been written. -/
def gotAt (l : List (Nat × Nat)) (a : Nat) : Bool := l.any (fun e => decide (e.1 ≤ a ∧ a < e.2))

/-- Adds a range to sorted ranges, joining those it touches. -/
def addRange (a b : Nat) : List (Nat × Nat) → List (Nat × Nat)
  | [] => [(a, b)]
  | (x, y) :: r =>
    if b < x then (a, b) :: (x, y) :: r
    else if y < a then (x, y) :: addRange a b r
    else addRange (Nat.min a x) (Nat.max b y) r

/-- Bytes written so far. -/
def gotBytes (l : List (Nat × Nat)) : Nat := (l.map (fun e => e.2 - e.1)).foldl (· + ·) 0

/-- STAGE_DATA: bytes at their offset; one outside the image's range, or a repeat with different content, fails the
operation (R517). (DEDUCED, log entry 59) -/
def Chip.stageData (c : Chip) (_role : Nat) (a : NmpAct) : Chip × NmpReply :=
  match a with
  | .data handle off bytes =>
    match (List.range 8).find? (fun h => c.opOpen h && decide (c.get F.LONG_STAT_KIND h = 1) &&
        decide (c.get F.LONG_STAT_STATE h = 1) && decide (handle.getD (c.get F.LONG_HND_HANDLE h) = c.get F.LONG_HND_HANDLE h)) with
    | none => (c, NmpReply.plain 5)
    | some h =>
      let o := c.op h
      let ats := List.range bytes.length
      let clash := ats.any (fun k =>
        gotAt o.got (off + k) && decide (smGet 0xFF (c.flashDev o.target).data (off + k) ≠ bytes.getD k 0))
      if o.bad ∨ off < 0x1000 ∨ off + bytes.length > o.len ∨ clash then
        (c.modOp h (fun o => { o with bad := true }), NmpReply.done)
      else
        let c := c.modFlash o.target (fun f => f.write off bytes)
        let got := addRange off (off + bytes.length) o.got
        let c := c.modOp h (fun o => { o with got := got })
        (c.put F.LONG_STAT_PROGRESS (Nat.min 65535 (gotBytes got * 65536 / (o.len - 0x1000))) h, NmpReply.done)
  | _ => (c, NmpReply.plain 1)

/-! ## Ending -/

/-- Verification of a staged image, steps 1 to 7: 0, or its reason (R517). -/
def Chip.stageVerify (c : Chip) (d : Nat) : Nat :=
  let f := c.flashDev d
  match c.verifyHead f false with
  | .inr r => r
  | .inl (_, secs) =>
    match f.firmwareCheck secs with
    | 0 => f.sectionCheck secs
    | r => r

/-- The activation record: MAGIC, ACTIVATION, the digest of header and manifest (Table 16-6, R517). -/
def Chip.activate (c : Chip) (d rank : Nat) : Chip :=
  match imgHdr ((c.flashDev d).read 0x1000 4096) with
  | .inr _ => c
  | .inl h =>
    c.modFlash d (fun f => f.write 0 (actMagic ++ leBytes 8 (rank + 1) ++ sha384 (f.message h)))

/-- A staging ends. (DEDUCED, log entry 59) -/
def Chip.stageEnds (c : Chip) (h : Nat) (e : LongEnd) : Option Chip :=
  let o := c.op h
  if o.bad then some (c.opEnds h 3 (Config.resultCode 1))
  else
    match e with
    | .failed code => some (c.opEnds h 3 code)
    | _ =>
      if o.got ≠ [(0x1000, o.len)] then none
      else
        match c.stageVerify o.target with
        | 0 => some ((c.activate o.target o.rank).opEnds h 2 0)
        | r => some (c.opEnds h 3 r)

/-- The commit releases the copies it holds. -/
def Chip.commitOver (c : Chip) : Chip :=
  (c.putB F.ADAPT_STAT_COMMITTING false).updAdapt (fun a => { a with commit := [] })

/-- An adapter commit ends: both areas are written, or the one being written is lost (R334, R335). -/
def Chip.commitEnds (c : Chip) (h : Nat) (e : LongEnd) : Chip :=
  match e with
  | .done =>
    let a := c.newArea (c.op h).empty
    let c := foldN 2 (fun c d => c.modFlash d (fun f => { f with area := some a })) c
    c.commitOver.opEnds h 2 0
  | .failed code => c.cutFlash.commitOver.opEnds h 3 code
  | .aborted => c.cutFlash.commitOver.opEnds h 4 0

/-- A capture under way stops; its set is not changed (R141). -/
def Chip.captureStops (c : Chip) (h : Nat) : Chip :=
  c.captureOver (c.op h).target

/-- LONG_OP_END: a RUNNING operation ends; one whose abort was asked for ends ABORTED.  A capture's success is
CAPTURE_REFERENCES (R516 to R518, Table 16-16). -/
def Chip.longEnd (c : Chip) (handle : Nat) (e : LongEnd) : Chip :=
  match c.opOfHandle handle with
  | none => c
  | some h =>
    let o := c.op h
    if c.get F.LONG_STAT_STATE h ≠ 1 then c
    else if e = .aborted ∧ !o.abort then c
    else
      let e := if o.abort then .aborted else e
      match c.get F.LONG_STAT_KIND h, e with
      | 1, .aborted => (c.opEnds h 4 0).startQueued
      | 1, e => ((c.stageEnds h e).map Chip.startQueued).getD c
      | 2, .aborted => (c.captureStops h).opEnds h 4 0
      | 2, .failed code => (c.captureStops h).opEnds h 3 code
      | 2, .done => c
      | 3, e => (c.commitEnds h e).startQueued
      | _, .done => c.opEnds h 2 0
      | _, .failed code => c.opEnds h 3 code
      | _, .aborted => c.opEnds h 4 0

/-- CAPTURE_REFERENCES ends the capture's operation: DONE, or FAILED with reason defect-run (R140, R143). -/
def Chip.captureDone (c : Chip) (n : Nat) (w : CaptureIn) : Chip :=
  let x := c.captureRefs n w c.boot.digest
  match x.2, x.1.opOfKind 2 with
  | some ok, some h => x.1.opEnds h (if ok then 2 else 3) (if ok then 0 else Config.resultCode 2)
  | _, _ => x.1

/-- LONG_HANDLE_EXPIRE: 60 s after its end the entry is unused (R516). -/
def Chip.handleExpire (c : Chip) (handle : Nat) : Chip :=
  match c.opOfHandle handle with
  | none => c
  | some h =>
    if (c.op h).endedAt.isNone then c
    else ((c.setWord .LONG_STAT h 0 0).setWord .LONG_HND h 0 0).modOp h (fun _ => LongOp.cold)

/-! ## JTAG and fuses -/

/-- A token presented: under the customer root it opens boundary scan, under both roots debug (R510).  The flag says
whether it was accepted. (DESIGN CHOICE, log entry 26; DEDUCED, log entry 65) -/
def Chip.tokenIn (c : Chip) (t : List Byte) : Chip × Bool :=
  match c.fuses.customer with
  | none => (c, false)
  | some root =>
    if !Config.tokenHolds t Config.deviceId (c.get F.JTAG_NONCE_NONCE) ∨ !Config.tokenSigned root t then (c, false)
    else
      let lvl := if Config.tokenSigned Config.vendorRoot t then 2 else 1
      let old := c.get F.FUSE_STAT_JTAG
      (c.put F.FUSE_STAT_JTAG (if old = 3 then 3 else Nat.max old lvl), true)

/-- NMP JTAG_TOKEN. -/
def Chip.nmpToken (c : Chip) (_role : Nat) (a : NmpAct) : Chip × NmpReply :=
  match a with
  | .token t =>
    let x := c.tokenIn t
    (x.1, if x.2 then NmpReply.done else NmpReply.refused (Config.reasonText 0))
  | _ => (c, NmpReply.plain 1)

/-- Whether an instruction is open (R510). (DEDUCED, log entry 67) -/
def Chip.jtagOpen (c : Chip) (i : JtagInstr) : Bool :=
  let lvl := c.get F.FUSE_STAT_JTAG
  match i with
  | .bypass | .idcode | .token => true
  | .samplePreload | .extest | .extestPulse | .extestTrain => decide (lvl ≠ 0)
  | .vendorDebug _ => decide (lvl ≥ 2)
  | .other _ => false

/-- JTAG_INSTRUCTION: an open instruction is in force; any other leaves BYPASS in force (R510, IEEE 1149.1).
(DEDUCED, log entry 67) -/
def Chip.jtagLoad (c : Chip) (i : JtagInstr) : Chip :=
  c.updMgmt (fun m => { m with jtag := if c.jtagOpen i then i else .bypass })

/-- FUSE_PROG while every instruction is open; a fuse is blown once, and bits of FUSE_NET add up (R510).
(DEDUCED, log entry 66) -/
def Chip.fuseProg (c : Chip) (w : FuseIn) : Chip :=
  if c.get F.FUSE_STAT_JTAG ≠ 3 then c
  else
    let f := match w with
      | .customerRoot h => if h.length = 48 ∧ c.fuses.customer.isNone then { c.fuses with customer := some h } else c.fuses
      | .wrapKey k => if k.length = 32 ∧ c.fuses.wrap.isNone then { c.fuses with wrap := some k } else c.fuses
      | .net x m => { c.fuses with netPort := c.fuses.netPort ||| x.val, netMode := c.fuses.netMode ||| m.val }
    { c with fuses := f }.senseFuses

/-! ## The I²C window -/

/-- The register at an index of Table 17 of chapter 16 (Table 16-17). -/
def i2cReg (k : Nat) : Option (Reg × Nat) :=
  match k with
  | 0 => some (.BOOT_STAT, 0)
  | 1 => some (.FUSE_STAT, 0)
  | 2 => some (.DEV_ID_LO, 0)
  | 3 => some (.DEV_ID_HI, 0)
  | 4 => some (.TEMP, 0)
  | 5 => some (.GOV_STATUS, 0)
  | 6 => some (.VAR_STAT, 0)
  | 7 => some (.TIME_STAT, 0)
  | 8 => some (.LDG_STAT, 0)
  | _ =>
    if 9 ≤ k ∧ k ≤ 16 then some (.HOLD_STAT, k - 9)
    else if k = 17 ∨ k = 18 then some (.PORT_STAT, k - 17)
    else none

/-- A word of the window; an index that the table does not list reads 0, and RC fields stay. -/
def Chip.i2cWord (c : Chip) (k : Nat) : Nat :=
  match i2cReg k with
  | some (r, i) => c.peek 0 (r.addr i 0)
  | none => 0

/-- I2C_INDEX_WRITE: a 2-byte word index, high byte first; a third byte is not taken (R519).
(DEDUCED, log entry 68) -/
def Chip.i2cIndex (c : Chip) (b : List Byte) : Chip :=
  match b with
  | hi :: lo :: _ => c.updMgmt (fun m => { m with i2cIndex := beNat [hi, lo] })
  | _ => c

/-- I2C_READ of words, least significant byte first, the index rising after each (R519). (DEDUCED, log entry 68) -/
def Chip.i2cRead (c : Chip) (n : Nat) : Chip :=
  let out := (List.range n).flatMap (fun k => leBytes 4 (c.i2cWord ((c.mgmt.i2cIndex + k) % 65536)))
  c.updMgmt (fun m => { m with i2cOut := out, i2cIndex := (m.i2cIndex + n) % 65536 })

end Sys2Proof.Machine
end

