-- ==== Sys2Proof/Machine/CmdBoot.lean ====
section
/-!
DEFINITION. Commands of resets, boot, the clock, courses and slots, pace and failures.
-/

namespace Sys2Proof.Machine

/-- Work of a device that is not held in reset. -/
def Chip.awake (c : Chip) (f : Chip → Chip) : Chip := if c.boot.held then c else f c

/-- Work of the data path, in state RUNNING (Table 16-18); feed hold and credits then follow (R131, R168). -/
def Chip.serving (c : Chip) (f : Chip → Chip) : Chip := if c.boot.held || !c.running then c else (f c).settle

/-- PORST_N_FALL (R543). -/
def execPorstNFall (s : State) : R := s.upd (fun c => c.holdReset false)

/-- PORST_N_RISE (R489, R541). -/
def execPorstNRise (straps : Fin 4) (s : State) : R := s.upd (fun c => c.porstRise straps.val)

/-- RAIL_UNDERVOLTAGE acts as a fall of PORST_N (R542). -/
def execRailUndervoltage (s : State) : R := s.upd Chip.railLost

/-- OVER_TEMPERATURE_TRIP acts as a fall of PORST_N and holds the device in reset (R544). -/
def execOverTemperatureTrip (s : State) : R := s.upd (fun c => c.holdReset true)

/-- OVER_TEMPERATURE_RELEASE (R544). -/
def execOverTemperatureRelease (s : State) : R := s.upd Chip.coolDown

/-- IMAGE_VERIFY (R500 to R502). -/
def execImageVerify (s : State) : R := s.upd Chip.imageVerify

/-- FIRMWARE_START (R501). -/
def execFirmwareStart (linear16 : Bool) (s : State) : R := s.upd (fun c => c.firmwareStart linear16)

/-- SECTIONS_LOADED (R501, R523). -/
def execSectionsLoaded (img : ImageConfig) (s : State) : R := s.upd (fun c => c.sectionsLoaded img)

/-- DDR4_TRAINING_DONE (R493). -/
def execDdr4TrainingDone (aOk bOk : Bool) (s : State) : R := s.upd (fun c => c.ddrTrained aOk bOk)

/-- DDR4_INIT_DONE (R492). -/
def execDdr4InitDone (s : State) : R := s.upd Chip.ddrInit

/-- SELF_TEST_DONE (R494). -/
def execSelfTestDone (r : SelfTestIn) (s : State) : R := s.upd (fun c => c.selfTest r)

/-- ADAPTER_AREAS_VERIFIED (R336). -/
def execAdapterAreasVerified (s : State) : R := s.upd Chip.adaptersVerified

/-- BOOT_STAGE_I (R489). -/
def execBootStageI (ms : Nat) (s : State) : R := s.upd (fun c => c.bootStageI ms)

/-- SVN_ADVANCE (R504). -/
def execSvnAdvance (s : State) : R := s.upd (fun c => c.awake Chip.svnAdvance)

/-- WARM_RESTART_START: the closing phase of a restart has ended: every item has reached its terminal status, every record
formed is built, every session closed (R9, R515, R489). -/
def execWarmRestartStart (s : State) : R := s.upd (fun c => if c.closed && !c.boot.held then c.warmReset else c)

/-- COURSE_BOUNDARY (R340). -/
def execCourseBoundary (w : CourseIn) (s : State) : R := s.upd (fun c => c.courseBoundary w)

/-- SLOT_TICK (R341). -/
def execSlotTick (s : State) : R := s.upd Chip.slotTick

/-- PTP_REFCLK_EDGE (R435, R436). -/
def execPtpRefclkEdge (s : State) : R := s.upd (fun c => c.awake Chip.clockEdge)

/-- PACE_WINDOW (R39, R40). -/
def execPaceWindow (ring : Ring) (count : Nat) (s : State) : R := s.upd (fun c => c.awake (fun c => c.paceWindow ring count))

/-- PACE_BELOW_FLOOR (R44, R410). -/
def execPaceBelowFloor (s : State) : R := s.upd (fun c => c.serving Chip.paceFault)

/-- SCHEDULE_FAULT (R354, R409). -/
def execScheduleFault (r : Fin 4) (s : State) : R := s.upd (fun c => c.serving (fun c => c.scheduleFault r))

/-- SCHEDULE_FAULT_REGION_FAIL (R409). -/
def execScheduleFaultRegionFail (r : Fin 4) (s : State) : R := s.upd (fun c => c.serving (fun c => c.scheduleFail r))

/-- BLOCK_SILENT (R384). -/
def execBlockSilent (r : Fin 4) (b : Fin 9) (s : State) : R := s.upd (fun c => c.serving (fun c => c.blockSilent r b))

/-- CELL_FAILED: a cell, a text cell, a decode lane or a page walker fails (R386, R387). -/
def execCellFailed (u : UnitId) (s : State) : R :=
  s.upd (fun c => c.serving (fun c =>
    match u with
    | .cell _ _ _ | .walker _ _ | .text _ | .lane _ => c.unitFail u
    | _ => c))

/-- BLOCK_FAILED (R387, R388). -/
def execBlockFailed (r : Fin 4) (b : Fin 9) (s : State) : R :=
  s.upd (fun c => c.serving (fun c => c.blockFail r.val b.val))

/-- ITEM_RERUN (R391, R393). -/
def execItemRerun (item : Nat) (s : State) : R := s.upd (fun c => c.serving (fun c => c.itemRerun item))

/-- VARIANT_SWITCH (R396). -/
def execVariantSwitch (s : State) : R := s.upd (fun c => c.serving Chip.variantSwitch)

/-- DDR4_CHANNEL_LOST (R401). -/
def execDdr4ChannelLost (ch : Fin 2) (s : State) : R := s.upd (fun c => c.serving (fun c => c.ddrLost ch))

/-- PORT_LOST (R403). -/
def execPortLost (x : Fin 2) (s : State) : R := s.upd (fun c => c.serving (fun c => c.portLost x))

/-- CONTROL_CORE_FAILED (R405 to R408). -/
def execControlCoreFailed (k : Fin 10) (s : State) : R := s.upd (fun c => c.serving (fun c => c.coreFail k.val))

end Sys2Proof.Machine
end

