-- ==== Sys2Proof/Machine/CmdFabric.lean ====
section
/-!
DEFINITION. Commands of steps, slots, fences, moves, memories, pre-emption and drains.
-/

namespace Sys2Proof.Machine

/-- STEP_START (R351). -/
def execStepStart (d : StepDesc) (s : State) : R := s.upd (fun c => c.serving (fun c => c.stepStart d))

/-- STEP_END (R352). -/
def execStepEnd (w : StepEndIn) (s : State) : R := s.upd (fun c => c.serving (fun c => c.stepEnd w))

/-- SLOT_FENCE_DONE of a producer (R53, R78, Table 2-10). -/
def execSlotFenceDone (x : SlotFence) (s : State) : R := s.upd (fun c => c.awake (fun c => c.slotFence x.producer x.slot))

/-- SLOT_RELEASE (R78). -/
def execSlotRelease (x : SlotId) (s : State) : R := s.upd (fun c => c.awake (fun c => c.slotRelease x))

/-- SLOT_WAIT_FAULT (R82). -/
def execSlotWaitFault (x : SlotId) (awaited : Bool) (u : StepUnit) (s : State) : R :=
  s.upd (fun c => c.serving (fun c => c.slotWaitFault x awaited u))

/-- MEMORY_FENCE_DONE (R53, Table 2-10). -/
def execMemoryFenceDone (u : Issuer) (s : State) : R := s.upd (fun c => c.awake (fun c => c.memoryFence u))

/-- PUBLICATION_FENCE_DONE of a control core: its own earlier writes land, every walker's entry buffer is discarded, and edits
that waited are published (Table 2-10, R53, R68); while one of its writes waits, the fence waits.
(DEDUCED, log entry 104) -/
def execPublicationFenceDone (core : Fin 10) (s : State) : R := s.upd (fun c => c.awake (fun c => c.publicationFence core))

/-- COURSE_FENCE_DONE (R353). -/
def execCourseFenceDone (r : Fin 4) (s : State) : R := s.upd (fun c => c.serving (fun c => c.courseFence r))

/-- MORTAR_READ (R72, R84 to R87); a physical address that no memory has faults. (DESIGN CHOICE, log entry 2) -/
def execMortarRead (w : MortarIn) (s : State) : R :=
  if s.chip.boot.held then s.upd id
  else if s.chip.readExists w then s.upd (fun c => c.mortarRead w) else .fault .noSuchAddress

/-- MOVE_ISSUE (R96 to R99). -/
def execMoveIssue (d : MoveDesc) (s : State) : R := s.upd (fun c => c.awake (fun c => c.moveIssue d))

/-- MOVE_COMPLETE (R96, R100), with what its reads find (R85). -/
def execMoveComplete (e : MoveFin) (s : State) : R := s.upd (fun c => c.awake (fun c => c.moveComplete e.id e.finds))

/-- BANK_COPY_DONE (R90). -/
def execBankCopyDone (bank : Fin 128) (s : State) : R := s.upd (fun c => c.awake (fun c => c.bankCopyDone bank.val))

/-- PATROL_SCRUB_READ (R91). -/
def execPatrolScrubRead (row : RowLoc) (finding : Finding) (s : State) : R :=
  s.upd (fun c => c.awake (fun c => c.scrub row finding))

/-- PREEMPTION (R368, R369). -/
def execPreemption (part : Fin 16) (s : State) : R := s.upd (fun c => c.serving (fun c => c.preemption part.val))

/-- SPILL_COMPLETE (R369). -/
def execSpillComplete (part : Fin 16) (s : State) : R := s.upd (fun c => c.serving (fun c => c.spillComplete part.val))

/-- SPILL_RESTORE (R373). -/
def execSpillRestore (part : Fin 16) (s : State) : R := s.upd (fun c => c.serving (fun c => c.spillRestore part.val))

/-- ITEM_CUTOFF (R365). -/
def execItemCutoff (item : Nat) (s : State) : R := s.upd (fun c => c.serving (fun c => c.itemCutoff item))

/-- DRAIN_COMPLETE (R375). -/
def execDrainComplete (t : Target) (s : State) : R := s.upd (fun c => c.serving (fun c => c.drainComplete t))

/-- DRAIN_TIMEOUT (R377). (DESIGN CHOICE, log entry 5) -/
def execDrainTimeout (part : Fin 16) (s : State) : R := s.upd (fun c => c.serving (fun c => c.drainTimeout part.val))

end Sys2Proof.Machine
end

