-- ==== Sys2Proof/Machine/CmdItems.lean ====
section
/-!
DEFINITION. Commands of the streams, record submission, the key-value cache and adaptation.
-/

namespace Sys2Proof.Machine

/-- ENCODER_EDGE (R111, R113). -/
def execEncoderEdge (k : Fin 8) (a b : EncLevel) (s : State) : R :=
  s.upd (fun c => c.serving (fun c => c.encoderEdge k.val a.high b.high a.stable b.stable))

/-- TIMER_TRIGGER (R112). -/
def execTimerTrigger (k : Fin 8) (s : State) : R := s.upd (fun c => c.serving (fun c => c.timerTrigger k.val))

/-- DEFERRED_TRIGGER (R114). -/
def execDeferredTrigger (k : Fin 8) (s : State) : R := s.upd (fun c => c.serving (fun c => c.deferredTrigger k.val))

/-- DRIVE_EVENT (R119, Table 4-4). -/
def execDriveEvent (n : Fin 16) (e : Drive) (s : State) : R := s.upd (fun c => c.serving (fun c => c.driveEvent n.val e))

/-- READOUT_COMPLETE (R106 to R110); a restart under way admits nothing (R515). -/
def execReadoutComplete (n : Fin 16) (w : Readout) (s : State) : R :=
  s.upd (fun c => c.serving (fun c => if c.boot.closing.isSome then c else c.readout n.val w))

/-- BAND_WRITTEN (R157, R161, R162). -/
def execBandWritten (n : Fin 16) (band : Nat) (s : State) : R :=
  s.upd (fun c => c.serving (fun c => c.bandWritten n.val band))

/-- RETENTION_COPY_DONE (R161). -/
def execRetentionCopyDone (n : Fin 48) (item band : Nat) (s : State) : R :=
  s.upd (fun c => c.serving (fun c => c.retentionDone n.val item band))

/-- TRANSPORT_STOP (R118). -/
def execTransportStop (k : Fin 8) (s : State) : R := s.upd (fun c => c.serving (fun c => c.transportStop k.val))

/-- AFE_CONFIG_DONE (R125). -/
def execAfeConfigDone (n : Fin 16) (reads : List Nat) (s : State) : R :=
  s.upd (fun c => c.serving (fun c => c.afeConfigDone n.val reads))

/-- AFE_SYNC_TIMEOUT (R125). -/
def execAfeSyncTimeout (n : Fin 16) (s : State) : R := s.upd (fun c => c.serving (fun c => c.afeSyncTimeout n.val))

/-- HOLD_MIN_EXPIRE (R133). (DESIGN CHOICE, log entry 5) -/
def execHoldMinExpire (k : Fin 8) (s : State) : R := s.upd (fun c => c.serving (fun c => c.holdMinExpire k.val))

/-- CAPTURE_REFERENCES (R140 to R143). -/
def execCaptureReferences (n : Fin 16) (w : CaptureIn) (s : State) : R :=
  s.upd (fun c => c.serving (fun c => c.captureDone n.val w))

/-- SUBMIT_RECORD (R177, R488); a restart under way admits nothing (R515). -/
def execSubmitRecord (x : Fin 32) (bytes : List Byte) (last : Bool) (s : State) : R :=
  s.upd (fun c => c.serving (fun c => if c.boot.closing.isSome then c else c.submit x.val bytes last))

/-- SUBMIT_TIMEOUT (R172). (DESIGN CHOICE, log entry 5) -/
def execSubmitTimeout (x : Fin 32) (s : State) : R := s.upd (fun c => c.serving (fun c => c.submitTimeout x.val))

/-- DECODE_START (R29, R190). -/
def execDecodeStart (item : Nat) (s : State) : R := s.upd (fun c => c.serving (fun c => c.decodeStart item))

/-- KV_TABLE_EDIT (R270, R272). -/
def execKvTableEdit (e : KvEdit) (s : State) : R := s.upd (fun c => c.serving (fun c => c.kvTableEdit e))

/-- CORRECTION (R325). -/
def execCorrection (session : Fin 64) (w : CorrIn) (s : State) : R :=
  s.upd (fun c => c.serving (fun c => c.correction session.val w))

/-- ADAPT_UPDATE_START (R330). -/
def execAdaptUpdateStart (set : Fin 8) (s : State) : R := s.upd (fun c => c.serving (fun c => c.updateStart set.val))

/-- ADAPT_UPDATE_END (R331 to R333). -/
def execAdaptUpdateEnd (w : UpdateIn) (s : State) : R := s.upd (fun c => c.serving (fun c => c.updateEnd w))

/-- ADAPT_PUBLISH (R323). -/
def execAdaptPublish (set : Fin 8) (s : State) : R := s.upd (fun c => c.serving (fun c => c.publish set.val))

end Sys2Proof.Machine
end

