-- ==== Sys2Proof/Machine/CmdMgmt.lean ====
section
/-!
DEFINITION. Commands of management: NMP requests, long operations, JTAG, I²C.
-/

namespace Sys2Proof.Machine

/-- Whether a WRITE is addressed to a register, and its mask has one of some bits. (DESIGN CHOICE, log entry 57) -/
def NmpAct.writes (a : NmpAct) (r : Reg) (bits : Nat) : Bool :=
  match a with
  | .write addr _ m => ((findReg addr).map (fun x => decide (x.1 = r))).getD false && decide (m &&& bits ≠ 0)
  | _ => false

/-- WRITE requests that have a row of their own, by register and mask bits. (DESIGN CHOICE, log entry 57) -/
def NmpAct.ownWrite (a : NmpAct) : Bool :=
  a.writes .HOLD_STAT (2 ^ 32 - 1) || a.writes .LDG_STAT (2 ^ 32 - 1) || a.writes .EVT_CFG (2 ^ 24) ||
  a.writes .ADAPT_CTRL (3 * 2 ^ 30) || a.writes .PART_CTRL (2 ^ 31)

/-- A CONTROL of a kind of target with one of some actions. -/
def NmpAct.controls (a : NmpAct) (kind : Target → Bool) (acts : List Nat) : Bool :=
  match a with
  | .control t x => kind t && acts.contains x
  | _ => false

/-- A WRITE of one row, or one that belongs to every WRITE row. (DESIGN CHOICE, log entry 57) -/
def Chip.writeRow (c : Chip) (d : DgIn) (mine : NmpAct → Bool) : Chip :=
  c.nmp d (fun a => mine a || a.strays 3) Chip.nmpWrite

/-- A CONTROL of one row. (DEDUCED, log entry 56) -/
def Chip.controlRow (c : Chip) (d : DgIn) (kind : Target → Bool) (acts : List Nat) : Chip :=
  c.nmp d (fun a => a.controls kind acts || a.strays 4) Chip.nmpControl

/-- HELLO (R506, R512). -/
def execHello (d : DgIn) (s : State) : R :=
  s.upd (fun c => c.nmp d (fun a => decide (a.type = 1) || a.strays 1) Chip.nmpHello)

/-- NMP_READ (R513, R521 to R527). -/
def execNmpRead (d : DgIn) (s : State) : R :=
  s.upd (fun c => c.nmp d (fun a => decide (a.type = 2) || a.strays 2) Chip.nmpRead)

/-- NMP_WRITE: a register whose written fields have no behaviour of their own (R513, R531). -/
def execNmpWrite (d : DgIn) (s : State) : R := s.upd (fun c => c.writeRow d (fun a => decide (a.type = 3) && !a.ownWrite))

/-- FORCE_HOLD_WRITE (R131, R133, R531). -/
def execForceHoldWrite (d : DgIn) (s : State) : R := s.upd (fun c => c.writeRow d (fun a => a.writes .HOLD_STAT (2 ^ 32 - 1)))

/-- LDG_VIOLATED_CLEAR (R413, R531). -/
def execLdgViolatedClear (d : DgIn) (s : State) : R := s.upd (fun c => c.writeRow d (fun a => a.writes .LDG_STAT (2 ^ 32 - 1)))

/-- EVT_OVF_CLEAR (R453, R531). -/
def execEvtOvfClear (d : DgIn) (s : State) : R := s.upd (fun c => c.writeRow d (fun a => a.writes .EVT_CFG (2 ^ 24)))

/-- ADAPT_ENABLE_WRITE (R532). -/
def execAdaptEnableWrite (d : DgIn) (s : State) : R := s.upd (fun c => c.writeRow d (fun a => a.writes .ADAPT_CTRL (2 ^ 31)))

/-- INFER_OFF_WRITE (R338). -/
def execInferOffWrite (d : DgIn) (s : State) : R :=
  s.upd (fun c => c.writeRow d (fun a => a.writes .ADAPT_CTRL (2 ^ 30) && !a.writes .ADAPT_CTRL (2 ^ 31)))

/-- PART_ENABLE_WRITE (R532). -/
def execPartEnableWrite (d : DgIn) (s : State) : R := s.upd (fun c => c.writeRow d (fun a => a.writes .PART_CTRL (2 ^ 31)))

/-- The kinds of target. -/
def tgtStream : Target → Bool
  | .stream _ => true
  | _ => false
/-- Submitting sessions. -/
def tgtSubmit : Target → Bool
  | .submit _ => true
  | _ => false
/-- Partitions. -/
def tgtPartition : Target → Bool
  | .partition _ => true
  | _ => false
/-- Adaptation. -/
def tgtAdapt : Target → Bool
  | .adaptation => true
  | _ => false

/-- STREAM_ENABLE (R126, R514). -/
def execStreamEnable (d : DgIn) (s : State) : R := s.upd (fun c => c.controlRow d tgtStream [1])

/-- STREAM_DISABLE (R127, R514). -/
def execStreamDisable (d : DgIn) (s : State) : R := s.upd (fun c => c.controlRow d tgtStream [0])

/-- SUBMIT_SESSION_ENABLE (R170, R514). -/
def execSubmitSessionEnable (d : DgIn) (s : State) : R := s.upd (fun c => c.controlRow d tgtSubmit [1])

/-- SUBMIT_SESSION_DISABLE (R171, R514). -/
def execSubmitSessionDisable (d : DgIn) (s : State) : R := s.upd (fun c => c.controlRow d tgtSubmit [0])

/-- RESULT_SESSION_DISABLE, and an enable that waits for its end (R462, R375). (DEDUCED, log entry 56) -/
def execResultSessionDisable (d : DgIn) (s : State) : R := s.upd (fun c => c.controlRow d isResult [0, 1])

/-- RESULT_SESSION_CLOSE (R486, R514). -/
def execResultSessionClose (d : DgIn) (s : State) : R := s.upd (fun c => c.controlRow d isResult [2])

/-- PARTITION_ENABLE (R376, R514). -/
def execPartitionEnable (d : DgIn) (s : State) : R := s.upd (fun c => c.controlRow d tgtPartition [1])

/-- PARTITION_DISABLE (R376, R514). -/
def execPartitionDisable (d : DgIn) (s : State) : R := s.upd (fun c => c.controlRow d tgtPartition [0])

/-- ADAPTATION_ENABLE (R337, R514). -/
def execAdaptationEnable (d : DgIn) (s : State) : R := s.upd (fun c => c.controlRow d tgtAdapt [1])

/-- ADAPTATION_DISABLE (R337, R514). -/
def execAdaptationDisable (d : DgIn) (s : State) : R := s.upd (fun c => c.controlRow d tgtAdapt [0])

/-- RESTART (R515). -/
def execRestart (d : DgIn) (s : State) : R :=
  s.upd (fun c => c.nmp d (fun a => decide (a.type = 5) || a.strays 5) Chip.nmpRestart)

/-- ATTEST (R507 to R509). -/
def execAttest (d : DgIn) (s : State) : R :=
  s.upd (fun c => c.nmp d (fun a => decide (a.type = 6) || a.strays 6) Chip.nmpAttest)

/-- LONG_STATUS (R516). -/
def execLongStatus (d : DgIn) (s : State) : R :=
  s.upd (fun c => c.nmp d (fun a => decide (a.type = 8) || a.strays 8) Chip.longStatus)

/-- LONG_ABORT (R516). -/
def execLongAbort (d : DgIn) (s : State) : R :=
  s.upd (fun c => c.nmp d (fun a => decide (a.type = 9) || a.strays 9) Chip.longAbort)

/-- STAGE_DATA (R517). -/
def execStageData (d : DgIn) (s : State) : R :=
  s.upd (fun c => c.nmp d (fun a => decide (a.type = 10) || a.strays 10) Chip.stageData)

/-- JTAG_TOKEN (R510). -/
def execJtagToken (w : TokenIn) (s : State) : R :=
  match w with
  | .viaNmp d => s.upd (fun c => c.nmp d (fun a => decide (a.type = 11) || a.strays 11) Chip.nmpToken)
  | .viaJtag t => s.upd (fun c => c.awake (fun c => (c.tokenIn t).1))

/-- FUSE_PROG (R510). -/
def execFuseProg (w : FuseIn) (s : State) : R := s.upd (fun c => c.awake (fun c => c.fuseProg w))

/-- STAGE_IMAGE: LONG_START kind 1 (R517). -/
def execStageImage (d : DgIn) (s : State) : R :=
  s.upd (fun c => c.nmp d (fun a => (match a with | .stage _ _ => true | _ => false) || a.strays 7) Chip.stageStart)

/-- CAPTURE_START: LONG_START kind 2 (R139). -/
def execCaptureStart (d : DgIn) (s : State) : R :=
  s.upd (fun c => c.nmp d (fun a => (match a with | .capture _ => true | _ => false) || a.strays 7) Chip.captureStart)

/-- ADAPTER_COMMIT: LONG_START kind 3 (R334). -/
def execAdapterCommit (d : DgIn) (s : State) : R :=
  s.upd (fun c => c.nmp d (fun a => (match a with | .commit _ => true | _ => false) || a.strays 7) Chip.commitStart)

/-- DDR4_SCRUB: LONG_START kind 4 (R518). -/
def execDdr4Scrub (d : DgIn) (s : State) : R :=
  s.upd (fun c => c.nmp d (fun a => (match a with | .scrub => true | _ => false) || a.strays 7) Chip.scrubStart)

/-- SPARE_SELF_TEST: LONG_START kind 5 (R518). -/
def execSpareSelfTest (d : DgIn) (s : State) : R :=
  s.upd (fun c => c.nmp d (fun a => (match a with | .selfTest => true | _ => false) || a.strays 7) Chip.spareTestStart)

/-- LONG_OP_END (R516 to R518). -/
def execLongOpEnd (handle : Nat) (e : LongEnd) (s : State) : R := s.upd (fun c => c.awake (fun c => c.longEnd handle e))

/-- LONG_HANDLE_EXPIRE (R516). (DESIGN CHOICE, log entry 5) -/
def execLongHandleExpire (handle : Nat) (s : State) : R := s.upd (fun c => c.awake (fun c => c.handleExpire handle))

/-- I2C_INDEX_WRITE (R519). (DESIGN CHOICE, log entry 5) -/
def execI2cIndexWrite (bytes : List Byte) (s : State) : R := s.upd (fun c => c.awake (fun c => c.i2cIndex bytes))

/-- I2C_READ (R519). -/
def execI2cRead (n : Nat) (s : State) : R := s.upd (fun c => c.awake (fun c => c.i2cRead n))

/-- JTAG_INSTRUCTION (R510). -/
def execJtagInstruction (i : JtagInstr) (s : State) : R := s.upd (fun c => c.awake (fun c => c.jtagLoad i))

end Sys2Proof.Machine
end

