-- ==== Sys2Proof/Machine/CmdNet.lean ====
section
/-!
DEFINITION. Commands of the ports, network time and the Jorrak Result Transport.
-/

namespace Sys2Proof.Machine

/-- Work of a port, from the end of boot on: RUNNING or safe hold (R490, R502). -/
def Chip.online (c : Chip) (f : Chip → Chip) : Chip :=
  if c.boot.held || decide (c.get F.BOOT_STAT_STATE = 0) then c else f c

/-- Sessions follow a change of a port's IPv4 address: gone, their path is lost; back, they resume (R425, R478). -/
def Chip.followAddr (c : Chip) (x old : Nat) : Chip :=
  let now := c.get F.PORT_IP4_ADDR x
  if old ≠ 0 ∧ now = 0 then c.rebindAll x (fun y => !y.addr.v6)
  else if old = 0 ∧ now ≠ 0 then c.pathBack x (fun y => !y.addr.v6)
  else c

/-- LINK_UP (R418, R419, R423, R425); path-lost sessions of the port resume (R478). -/
def execLinkUp (x : Fin 2) (rate : Fin 5) (fullDuplex : Bool) (s : State) : R :=
  s.upd (fun c => c.online (fun c =>
    let c := c.linkUpPort x.val rate.val fullDuplex
    if c.flag F.PORT_STAT_LINK x.val then c.pathBack x.val (fun y => y.addr.v6 || decide (c.get F.PORT_IP4_ADDR x.val ≠ 0)) else c))

/-- LINK_DOWN (R419). -/
def execLinkDown (x : Fin 2) (s : State) : R := s.upd (fun c => c.online (fun c => c.linkDownPort x.val))

/-- FRAME_RECEIVE (R420 to R425, R432, R433, R450). -/
def execFrameReceive (x : Fin 2) (f : FrameIn) (s : State) : R :=
  s.upd (fun c => c.online (fun c => (c.receive x.val f).followAddr x.val (c.get F.PORT_IP4_ADDR x.val)))

/-- FRAME_TRANSMIT (R426, R446 to R449, R457). -/
def execFrameTransmit (x : Fin 2) (s : State) : R :=
  s.upd (fun c => c.online (fun c =>
    let r := c.transmit x.val
    match r.2 with
    | some (f, t) => r.1.onSent f t
    | none => r.1))

/-- LINK_DOWN_DISCARD (R549). -/
def execLinkDownDiscard (x : Fin 2) (s : State) : R := s.upd (fun c => c.online (fun c => c.discardDown x.val))

/-- GATE_ENTRY_START (R427, R429). -/
def execGateEntryStart (x : Fin 2) (s : State) : R := s.upd (fun c => c.serving (fun c => c.gateEntry x.val))

/-- PREEMPT_VERIFY (R430). -/
def execPreemptVerify (x : Fin 2) (ok : Bool) (s : State) : R := s.upd (fun c => c.online (fun c => c.preemptVerify x.val ok))

/-- ARP_ENTRY_EXPIRE (R423). (DESIGN CHOICE, log entry 5) -/
def execArpEntryExpire (x : Fin 2) (a : Addr) (s : State) : R := s.upd (fun c => c.online (fun c => c.cacheExpire x.val a))

/-- DUPLICATE_ADDRESS (R423). -/
def execDuplicateAddress (x : Fin 2) (a : Addr) (s : State) : R := s.upd (fun c => c.online (fun c => c.duplicate x.val a))

/-- DHCP_RENEW: to the server that gave the lease, known by its router (R425).
(DESIGN CHOICE, log entries 5 and 60) -/
def execDhcpRenew (x : Fin 2) (s : State) : R :=
  s.upd (fun c => c.online (fun c =>
    c.dhcpRequest x.val ⟨false, (((c.port x.val).lease).map (fun l => l.2.2.1)).getD 0xFFFFFFFF⟩))

/-- DHCP_REBIND: to every server (R425). -/
def execDhcpRebind (x : Fin 2) (s : State) : R :=
  s.upd (fun c => c.online (fun c => c.dhcpRequest x.val ⟨false, 0xFFFFFFFF⟩))

/-- DHCP_LEASE_EXPIRE (R425, R478). -/
def execDhcpLeaseExpire (x : Fin 2) (s : State) : R :=
  s.upd (fun c => c.online (fun c => (c.leaseExpire x.val).followAddr x.val (c.get F.PORT_IP4_ADDR x.val)))

/-- FRER_RESET_TIMEOUT (R433). -/
def execFrerResetTimeout (stream : Nat) (s : State) : R := s.upd (fun c => c.online (fun c => c.frerReset stream))

/-- SYNC_RECEIVED (R441 to R444). -/
def execSyncReceived (w : SyncIn) (s : State) : R := s.upd (fun c => c.serving (fun c => c.sync w))

/-- FIRST_LOCK: live admission begins (R437, R442, R24, R170). -/
def execFirstLock (s : State) : R :=
  s.upd (fun c => c.serving (fun c =>
    let d := c.firstLock
    if d.locked ∧ ¬ c.locked then
      foldN 32 (fun c k => if c.get F.SUB_CFG_STATE k = 2 then (c.put F.SUB_CFG_STATE 3 k).grant k else c) d.lockStreams
    else d))

/-- ANNOUNCE_RECEIVED (R440). -/
def execAnnounceReceived (w : AnnounceIn) (s : State) : R := s.upd (fun c => c.serving (fun c => c.announce w))

/-- SOURCE_TIMEOUT (R440, R444). -/
def execSourceTimeout (s : State) : R := s.upd (fun c => c.serving Chip.sourceTimeout)

/-- DELAY_REQUEST_TIMER (R439). -/
def execDelayRequestTimer (x : Fin 2) (s : State) : R := s.upd (fun c => c.serving (fun c => c.delayRequest x.val))

/-- PDELAY_REQ_RECEIVED (R439, R447). -/
def execPdelayReqReceived (x : Fin 2) (payload : List Byte) (s : State) : R :=
  s.upd (fun c => c.serving (fun c => c.pdelayReq x.val payload))

/-- DELAY_RESPONSE_RECEIVED (R441). -/
def execDelayResponseReceived (w : DelayIn) (s : State) : R := s.upd (fun c => c.serving (fun c => c.delayResponse w))

/-- PPS_PULSE (R451). -/
def execPpsPulse (s : State) : R := s.upd (fun c => c.serving Chip.ppsPulse)

/-- PTP_EVENT_EDGE (R452, R453). -/
def execPtpEventEdge (falling : Bool) (s : State) : R := s.upd (fun c => c.serving (fun c => c.evtEdge falling))

/-- OPEN (R458, R459). -/
def execJrtOpen (d : DgIn) (s : State) : R :=
  s.upd (fun c => c.serving (fun c => if c.boot.closing.isSome then c.takeIn d else c.jrtOpen d))

/-- CLOSE (R460). -/
def execJrtClose (d : DgIn) (s : State) : R :=
  s.upd (fun c => c.serving (fun c =>
    let r := c.jrtClose d
    match r.2 with
    | some x => r.1.endSess x 5
    | none => r.1))

/-- JRT_DATA (R471, R474). -/
def execJrtData (d : DgIn) (s : State) : R := s.upd (fun c => c.serving (fun c => c.jrtData d))

/-- JRT_ACK (R473, R475). -/
def execJrtAck (d : DgIn) (s : State) : R := s.upd (fun c => c.serving (fun c => c.jrtAck d))

/-- RETRANSMIT_TIMEOUT (R475). (DESIGN CHOICE, log entry 5) -/
def execRetransmitTimeout (x : Fin 96) (lane : Bool) (seq : Nat) (s : State) : R :=
  s.upd (fun c => c.serving (fun c => c.retransmit x.val lane seq))

/-- ACK_DELAY_EXPIRE (R476). -/
def execAckDelayExpire (x : Fin 96) (s : State) : R := s.upd (fun c => c.serving (fun c => c.ackDelay x.val))

/-- IDLE_ACK (R461). -/
def execIdleAck (x : Fin 96) (s : State) : R := s.upd (fun c => c.serving (fun c => c.idleAck x.val))

/-- IDLE_CLOSE (R461). (DESIGN CHOICE, log entry 5) -/
def execIdleClose (x : Fin 96) (s : State) : R :=
  s.upd (fun c => c.serving (fun c => if c.idle x.val then c.endSess x.val 4 else c))

/-- SESSION_STALL (R483, R484). (DESIGN CHOICE, log entry 5) -/
def execSessionStall (x : Fin 64) (s : State) : R :=
  s.upd (fun c => c.serving (fun c => if c.canStall x.val then c.stall x.val else c))

/-- SESSION_ABANDON (R486). -/
def execSessionAbandon (x : Fin 64) (s : State) : R := s.upd (fun c => c.serving (fun c => c.abandonStalled x.val))

end Sys2Proof.Machine
end

