-- ==== Sys2Proof/Machine/Dispatch.lean ====
section
/-!
DEFINITION. The effect of each command on everything but the queue: one arm per row of the table.
-/

namespace Sys2Proof.Machine

/-- The effect of one command. -/
def exec (i : Instr) (s : State) : Host.Outcome State Fault Refusal :=
  match i with
  | .porstNFall => Sys2Proof.Machine.execPorstNFall s
  | .porstNRise straps => Sys2Proof.Machine.execPorstNRise straps s
  | .railUndervoltage => Sys2Proof.Machine.execRailUndervoltage s
  | .overTemperatureTrip => Sys2Proof.Machine.execOverTemperatureTrip s
  | .overTemperatureRelease => Sys2Proof.Machine.execOverTemperatureRelease s
  | .imageVerify => Sys2Proof.Machine.execImageVerify s
  | .firmwareStart linear16 => Sys2Proof.Machine.execFirmwareStart linear16 s
  | .sectionsLoaded img => Sys2Proof.Machine.execSectionsLoaded img s
  | .ddr4TrainingDone aOk bOk => Sys2Proof.Machine.execDdr4TrainingDone aOk bOk s
  | .ddr4InitDone => Sys2Proof.Machine.execDdr4InitDone s
  | .selfTestDone r => Sys2Proof.Machine.execSelfTestDone r s
  | .adapterAreasVerified => Sys2Proof.Machine.execAdapterAreasVerified s
  | .bootStageI ms => Sys2Proof.Machine.execBootStageI ms s
  | .svnAdvance => Sys2Proof.Machine.execSvnAdvance s
  | .courseBoundary w => Sys2Proof.Machine.execCourseBoundary w s
  | .slotTick => Sys2Proof.Machine.execSlotTick s
  | .paceBelowFloor => Sys2Proof.Machine.execPaceBelowFloor s
  | .paceWindow ring count => Sys2Proof.Machine.execPaceWindow ring count s
  | .scheduleFault r => Sys2Proof.Machine.execScheduleFault r s
  | .scheduleFaultRegionFail r => Sys2Proof.Machine.execScheduleFaultRegionFail r s
  | .blockSilent r b => Sys2Proof.Machine.execBlockSilent r b s
  | .stepStart d => Sys2Proof.Machine.execStepStart d s
  | .stepEnd w => Sys2Proof.Machine.execStepEnd w s
  | .slotFenceDone x => Sys2Proof.Machine.execSlotFenceDone x s
  | .slotRelease x => Sys2Proof.Machine.execSlotRelease x s
  | .slotWaitFault x awaited u => Sys2Proof.Machine.execSlotWaitFault x awaited u s
  | .memoryFenceDone u => Sys2Proof.Machine.execMemoryFenceDone u s
  | .publicationFenceDone core => Sys2Proof.Machine.execPublicationFenceDone core s
  | .courseFenceDone r => Sys2Proof.Machine.execCourseFenceDone r s
  | .mortarRead w => Sys2Proof.Machine.execMortarRead w s
  | .moveIssue d => Sys2Proof.Machine.execMoveIssue d s
  | .moveComplete e => Sys2Proof.Machine.execMoveComplete e s
  | .bankCopyDone bank => Sys2Proof.Machine.execBankCopyDone bank s
  | .patrolScrubRead row finding => Sys2Proof.Machine.execPatrolScrubRead row finding s
  | .encoderEdge k a b => Sys2Proof.Machine.execEncoderEdge k a b s
  | .timerTrigger k => Sys2Proof.Machine.execTimerTrigger k s
  | .deferredTrigger k => Sys2Proof.Machine.execDeferredTrigger k s
  | .driveEvent n e => Sys2Proof.Machine.execDriveEvent n e s
  | .readoutComplete n w => Sys2Proof.Machine.execReadoutComplete n w s
  | .bandWritten n band => Sys2Proof.Machine.execBandWritten n band s
  | .retentionCopyDone n item band => Sys2Proof.Machine.execRetentionCopyDone n item band s
  | .transportStop k => Sys2Proof.Machine.execTransportStop k s
  | .afeConfigDone n reads => Sys2Proof.Machine.execAfeConfigDone n reads s
  | .afeSyncTimeout n => Sys2Proof.Machine.execAfeSyncTimeout n s
  | .holdMinExpire k => Sys2Proof.Machine.execHoldMinExpire k s
  | .captureReferences n w => Sys2Proof.Machine.execCaptureReferences n w s
  | .submitRecord x bytes last => Sys2Proof.Machine.execSubmitRecord x bytes last s
  | .submitTimeout x => Sys2Proof.Machine.execSubmitTimeout x s
  | .decodeStart item => Sys2Proof.Machine.execDecodeStart item s
  | .kvTableEdit e => Sys2Proof.Machine.execKvTableEdit e s
  | .correction session w => Sys2Proof.Machine.execCorrection session w s
  | .adaptUpdateStart set => Sys2Proof.Machine.execAdaptUpdateStart set s
  | .adaptUpdateEnd w => Sys2Proof.Machine.execAdaptUpdateEnd w s
  | .adaptPublish set => Sys2Proof.Machine.execAdaptPublish set s
  | .preemption part => Sys2Proof.Machine.execPreemption part s
  | .spillComplete part => Sys2Proof.Machine.execSpillComplete part s
  | .spillRestore part => Sys2Proof.Machine.execSpillRestore part s
  | .itemCutoff item => Sys2Proof.Machine.execItemCutoff item s
  | .drainComplete t => Sys2Proof.Machine.execDrainComplete t s
  | .drainTimeout part => Sys2Proof.Machine.execDrainTimeout part s
  | .cellFailed u => Sys2Proof.Machine.execCellFailed u s
  | .blockFailed r b => Sys2Proof.Machine.execBlockFailed r b s
  | .itemRerun item => Sys2Proof.Machine.execItemRerun item s
  | .variantSwitch => Sys2Proof.Machine.execVariantSwitch s
  | .ddr4ChannelLost ch => Sys2Proof.Machine.execDdr4ChannelLost ch s
  | .portLost x => Sys2Proof.Machine.execPortLost x s
  | .controlCoreFailed c => Sys2Proof.Machine.execControlCoreFailed c s
  | .linkUp x rate fullDuplex => Sys2Proof.Machine.execLinkUp x rate fullDuplex s
  | .linkDown x => Sys2Proof.Machine.execLinkDown x s
  | .frameReceive x f => Sys2Proof.Machine.execFrameReceive x f s
  | .frameTransmit x => Sys2Proof.Machine.execFrameTransmit x s
  | .linkDownDiscard x => Sys2Proof.Machine.execLinkDownDiscard x s
  | .gateEntryStart x => Sys2Proof.Machine.execGateEntryStart x s
  | .preemptVerify x ok => Sys2Proof.Machine.execPreemptVerify x ok s
  | .arpEntryExpire x a => Sys2Proof.Machine.execArpEntryExpire x a s
  | .duplicateAddress x a => Sys2Proof.Machine.execDuplicateAddress x a s
  | .dhcpRenew x => Sys2Proof.Machine.execDhcpRenew x s
  | .dhcpRebind x => Sys2Proof.Machine.execDhcpRebind x s
  | .dhcpLeaseExpire x => Sys2Proof.Machine.execDhcpLeaseExpire x s
  | .syncReceived w => Sys2Proof.Machine.execSyncReceived w s
  | .firstLock => Sys2Proof.Machine.execFirstLock s
  | .announceReceived w => Sys2Proof.Machine.execAnnounceReceived w s
  | .sourceTimeout => Sys2Proof.Machine.execSourceTimeout s
  | .delayRequestTimer x => Sys2Proof.Machine.execDelayRequestTimer x s
  | .pdelayReqReceived x payload => Sys2Proof.Machine.execPdelayReqReceived x payload s
  | .delayResponseReceived w => Sys2Proof.Machine.execDelayResponseReceived w s
  | .ppsPulse => Sys2Proof.Machine.execPpsPulse s
  | .ptpEventEdge falling => Sys2Proof.Machine.execPtpEventEdge falling s
  | .jrtOpen d => Sys2Proof.Machine.execJrtOpen d s
  | .jrtClose d => Sys2Proof.Machine.execJrtClose d s
  | .jrtData d => Sys2Proof.Machine.execJrtData d s
  | .jrtAck d => Sys2Proof.Machine.execJrtAck d s
  | .retransmitTimeout x lane seq => Sys2Proof.Machine.execRetransmitTimeout x lane seq s
  | .ackDelayExpire x => Sys2Proof.Machine.execAckDelayExpire x s
  | .idleAck x => Sys2Proof.Machine.execIdleAck x s
  | .idleClose x => Sys2Proof.Machine.execIdleClose x s
  | .sessionStall x => Sys2Proof.Machine.execSessionStall x s
  | .sessionAbandon x => Sys2Proof.Machine.execSessionAbandon x s
  | .hello d => Sys2Proof.Machine.execHello d s
  | .nmpRead d => Sys2Proof.Machine.execNmpRead d s
  | .nmpWrite d => Sys2Proof.Machine.execNmpWrite d s
  | .forceHoldWrite d => Sys2Proof.Machine.execForceHoldWrite d s
  | .ldgViolatedClear d => Sys2Proof.Machine.execLdgViolatedClear d s
  | .evtOvfClear d => Sys2Proof.Machine.execEvtOvfClear d s
  | .adaptEnableWrite d => Sys2Proof.Machine.execAdaptEnableWrite d s
  | .inferOffWrite d => Sys2Proof.Machine.execInferOffWrite d s
  | .partEnableWrite d => Sys2Proof.Machine.execPartEnableWrite d s
  | .streamEnable d => Sys2Proof.Machine.execStreamEnable d s
  | .streamDisable d => Sys2Proof.Machine.execStreamDisable d s
  | .submitSessionEnable d => Sys2Proof.Machine.execSubmitSessionEnable d s
  | .submitSessionDisable d => Sys2Proof.Machine.execSubmitSessionDisable d s
  | .resultSessionDisable d => Sys2Proof.Machine.execResultSessionDisable d s
  | .resultSessionClose d => Sys2Proof.Machine.execResultSessionClose d s
  | .partitionEnable d => Sys2Proof.Machine.execPartitionEnable d s
  | .partitionDisable d => Sys2Proof.Machine.execPartitionDisable d s
  | .adaptationEnable d => Sys2Proof.Machine.execAdaptationEnable d s
  | .adaptationDisable d => Sys2Proof.Machine.execAdaptationDisable d s
  | .restart d => Sys2Proof.Machine.execRestart d s
  | .attest d => Sys2Proof.Machine.execAttest d s
  | .longStatus d => Sys2Proof.Machine.execLongStatus d s
  | .longAbort d => Sys2Proof.Machine.execLongAbort d s
  | .stageData d => Sys2Proof.Machine.execStageData d s
  | .jtagToken w => Sys2Proof.Machine.execJtagToken w s
  | .fuseProg w => Sys2Proof.Machine.execFuseProg w s
  | .stageImage d => Sys2Proof.Machine.execStageImage d s
  | .captureStart d => Sys2Proof.Machine.execCaptureStart d s
  | .adapterCommit d => Sys2Proof.Machine.execAdapterCommit d s
  | .ddr4Scrub d => Sys2Proof.Machine.execDdr4Scrub d s
  | .spareSelfTest d => Sys2Proof.Machine.execSpareSelfTest d s
  | .longOpEnd handle e => Sys2Proof.Machine.execLongOpEnd handle e s
  | .longHandleExpire handle => Sys2Proof.Machine.execLongHandleExpire handle s
  | .i2cIndexWrite bytes => Sys2Proof.Machine.execI2cIndexWrite bytes s
  | .i2cRead n => Sys2Proof.Machine.execI2cRead n s
  | .ptpRefclkEdge => Sys2Proof.Machine.execPtpRefclkEdge s
  | .warmRestartStart => Sys2Proof.Machine.execWarmRestartStart s
  | .frerResetTimeout stream => Sys2Proof.Machine.execFrerResetTimeout stream s
  | .jtagInstruction j => Sys2Proof.Machine.execJtagInstruction j s

end Sys2Proof.Machine
end

