-- ==== Sys2Proof/Safety.lean ====
section
/-!
DEFINITION. The terms in which claims about runs are stated: the states of the device, canonical memories, the invariant
of the machine, a run without a fault.
-/

namespace Sys2Proof.Machine

/-- The device is not held in reset. -/
abbrev Chip.On (c : Chip) : Prop := c.boot.held = false

/-- The device serves its data path: not held in reset, and BOOT_STAT.STATE is RUNNING (Table 16-18). -/
abbrev Chip.Up (c : Chip) : Prop := c.boot.held = false ∧ c.running = true

/-- The ports of the device work: not held in reset, and boot has ended (R490, R502). -/
abbrev Chip.Linked (c : Chip) : Prop := c.boot.held = false ∧ c.get F.BOOT_STAT_STATE ≠ 0

/-- The device boots: not held in reset, BOOT_STAT.STATE is BOOTING. -/
abbrev Chip.Boots (c : Chip) : Prop := c.boot.held = false ∧ c.get F.BOOT_STAT_STATE = 0

/-- Every memory, and the maps beside them, are in canonical form. -/
structure Mem.Wf (m : Mem) : Prop where
  block : smOk [] m.block = true
  blocks : m.block.all (fun e => Memory.wf e.2) = true
  shared : Memory.wf m.shared = true
  ddr : Memory.wf m.ddr = true
  poison : smOk false m.poison = true
  slotData : smOk [] m.slotData = true
  slotFull : smOk false m.slotFull = true

/-- From `m` to `n` nothing but the VALID bits of block handles and slot tokens has changed: what the step boundary of a block
that is lent, or comes back, can bring beside the end of a step (R369, R376). -/
def Mem.SameData (m n : Mem) : Prop := n = { m with blockHnd := n.blockHnd, slotFull := n.slotFull }

/-- No partition lends blocks, and no pre-emption is under way: a step boundary brings nothing but the end of a step. -/
def Chip.Quiet (c : Chip) : Prop := c.sched.preempt = [] ∧ ∀ p, p < 16 → c.flag F.PART_CFG_LENT p = false

/-- Whether the device is held in reset, and its sampled straps. -/
def Boot.pins (b : Boot) : Bool × Nat := (b.held, b.straps)

/-- What a reset leaves: everything at its cold value but the fuses, the flash devices, the count of free values drawn, and
what the pins and the temperature sensors hold the device with; the flash devices are held in reset while VIO is present (R543,
R544, R489, R537). -/
def Chip.inReset (c : Chip) : Chip :=
  { Chip.powerOn with
    free := c.free, fuses := c.fuses, flash := c.flash
    boot := { Boot.powerOn with pin := c.boot.pin, hot := c.boot.hot, vio := c.boot.vio,
                                xspiRst := if c.boot.vio then some false else none, straps := c.boot.straps } }

/-- Keys strictly rising: no register is listed twice. -/
def smRising {α : Type} (m : SMap α) : Prop := m.Pairwise (fun x y => x.1 < y.1)

/-- The invariant of the machine: no register is listed twice, memories are canonical, and while the device is held in reset nothing of it but fuses
and flash holds anything. -/
structure State.Inv (s : State) : Prop where
  regs : smRising s.chip.regs
  mem : s.chip.mem.Wf
  reset : s.chip.boot.held = true → s.chip = s.chip.inReset

/-- The five commands that act on the reset itself. -/
def isReset : Instr → Bool
  | .porstNFall | .porstNRise _ | .railUndervoltage | .overTemperatureTrip | .overTemperatureRelease => true
  | _ => false

/-- A command that cannot fault: every one but a read at a physical address that no memory has. -/
def Safe (i : Instr) (s : State) : Prop :=
  match i with
  | .mortarRead w => s.chip.boot.held = true ∨ s.chip.readExists w = true
  | _ => True

/-- Every other part of the device that a command of the data path can leave alone: image, clock, fuses, flash, boot and
management. -/
structure Chip.Core (c t : Chip) : Prop where
  image : t.image = c.image
  clock : t.clock = c.clock
  fuses : t.fuses = c.fuses
  flash : t.flash = c.flash
  boot : t.boot = c.boot
  mgmt : t.mgmt = c.mgmt

/-- The fault log has taken an entry of a class and a place at its next position (Tables 13-14, 13-15). -/
def Chip.Logged (c t : Chip) (code : Nat) (l : Loc) : Prop :=
  t.word .FAULT_LOG_W2 (c.get F.FAULT_LOG_PTR_NEXT) = logW2 code l

/-- A counter of Table 17-10 has counted once, or holds its largest value (R527). -/
def Chip.Counted (c t : Chip) (f : Fld) (i : Nat := 0) : Prop :=
  t.get f i = Nat.min (c.get f i + 1) (2 ^ f.w - 1)

/-- Likewise for an instance with two numbers. -/
def Chip.Counted2 (c t : Chip) (f : Fld) (i j : Nat) : Prop :=
  t.get f i j = Nat.min (c.get f i j + 1) (2 ^ f.w - 1)

/-- A request of R512 that passes the checks of its datagram: served, in form, under its role's key and the current BOOT_ID,
newer than the role's last. -/
structure Chip.Authentic (c : Chip) (d : DgIn) (q : NmpReq) : Prop where
  served : c.nmpServed = true
  form : nmpIn d.payload = .ok q
  auth : q.role ≠ 0 → (c.roleKey q.role).map (fun k => hmac384 k q.signed) = some q.tag
  boot : q.role ≠ 0 → q.bootId = c.bootId
  fresh : q.role ≠ 0 → ∀ l, (c.role q.role).last = some l → l.1 < q.num

/-- A request that is accepted as an action: its body is in form, and safe hold serves it, or its role may ask for it
(R512, R513, R502). -/
structure Chip.Accepts (c : Chip) (d : DgIn) (q : NmpReq) (a : NmpAct) : Prop extends Chip.Authentic c d q where
  body : ∃ l x, parseCbor q.body = .ok (.map l, x) [] ∧ nmpAct q.type (.map l) = a
  good : ∀ n, a ≠ .bad n
  gate : if c.safeHold then a.inSafeHold = true else a.needs ≤ q.role

/-- The answer to a request: kept for its role (R512), and handed to the port that it came from. -/
def Chip.Replied (c t : Chip) (d : DgIn) (q : NmpReq) (x : NmpReply) : Prop :=
  let out := x.bodies.map (fun b => c.nmpBytes q.type q.role q.num x.status b)
  (q.role ≠ 0 → (t.role q.role).last = some (q.num, q.body) ∧ (t.role q.role).resp = out) ∧
  (c.flag F.PORT_STAT_LINK d.port.val = true → ∀ b, b ∈ out →
    ∃ f, f ∈ smGet [] (t.port d.port.val).queues 5 ∧ f.payload = b ∧ f.dst = d.src ∧ f.udp = d.udp)

/-- The commands that arrive as NMP requests. -/
def nmpRows : List (DgIn → Instr) :=
  [.hello, .nmpRead, .nmpWrite, .forceHoldWrite, .ldgViolatedClear, .evtOvfClear, .adaptEnableWrite, .inferOffWrite,
   .partEnableWrite, .streamEnable, .streamDisable, .submitSessionEnable, .submitSessionDisable, .resultSessionDisable,
   .resultSessionClose, .partitionEnable, .partitionDisable, .adaptationEnable, .adaptationDisable, .restart, .attest,
   .longStatus, .longAbort, .stageData, .stageImage, .captureStart, .adapterCommit, .ddr4Scrub, .spareSelfTest,
   fun d => .jtagToken (.viaNmp d)]

/-- A session that has just closed: its number is free, and its last peer is known for a repeated CLOSE (R460). -/
def Chip.Closed (c t : Chip) (n : Nat) : Prop :=
  (t.sess n).open_ = false ∧ (t.sess n).closed = some ((c.sess n).addr, (c.sess n).udp, (c.sess n).gen, c.upNs) ∧
  (n < 64 → t.word .SESS_STAT n = 0 ∧ t.word .SESS_MAND n = 0 ∧ t.word .SESS_OPT n = 0)

end Sys2Proof.Machine
end

