-- ==== Sys2Proof/WellFormed.lean ====
section
/-!
DEFINITION. Well-formed commands: operands within the widths and ranges that the spec gives what they stand for.  The
meanings are total all the same: no meaning depends on these checks.
-/

namespace Sys2Proof

/-- A PTP time-stamp: 48 bits of seconds, nanoseconds below 10⁹ (R435). -/
def Stamp.wf (t : Stamp) : Bool := decide (t.sec < 2 ^ 48 ∧ t.ns < 1000000000)

/-- An IP address fits its family. -/
def Addr.wf (a : Addr) : Bool := decide (a.val < if a.v6 then 2 ^ 128 else 2 ^ 32)

/-- A received datagram: source address and port, and a payload of at most 1,500 bytes with its headers (R420). -/
def DgIn.wf (d : DgIn) : Bool := d.src.wf && decide (d.udp < 65536 ∧ d.payload.length ≤ 1472)

/-- An item number has 32 bits (R467). -/
def itemWf (n : Nat) : Bool := decide (n < 2 ^ 32)

/-- A handle names an entry of its table: 64 of a logical block, 1,024 of shared memory, 256 of DDR4 (Table 3-2). -/
def HRef.wf (h : HRef) : Bool :=
  match h.space with
  | .block _ _ => decide (h.index < 64)
  | .shared => decide (h.index < 1024)
  | .ddr => decide (h.index < 256)

/-- An operand buffer belongs to a compute cell or a text cell (Table 3-7). -/
def SlotId.wf (s : SlotId) : Bool :=
  match s.u with
  | .cell _ _ _ | .text _ => true
  | _ => false

/-- A move end. -/
def MoveEnd.wf : MoveEnd → Bool
  | .handle h => h.wf
  | .slot s _ => s.wf

/-- A row of a move has a length. -/
def MoveDesc.wf (d : MoveDesc) : Bool := d.src.wf && d.dst.wf && decide (0 < d.rowLen ∧ 0 < d.rows)

/-- A read goes to an entry, a slot or an address. -/
def MortarIn.wf (w : MortarIn) : Bool :=
  match w.target with
  | .handle h => h.wf
  | .slot s _ => s.wf
  | .phys _ _ => true

/-- A row of a block memory or of shared memory, spare rows included (R91). -/
def RowLoc.wf : RowLoc → Bool
  | .block _ _ _ row => decide (row < 1032)
  | .shared _ row => decide (row < 49280)

/-- SNSn_D carries bytes (Table 4-2). -/
def Readout.wf (w : Readout) : Bool := w.halves.all (fun x => decide (x.2 < 256))

/-- Both references have lines of the same width (R140). -/
def CaptureIn.wf (w : CaptureIn) : Bool :=
  match w.black ++ w.white with
  | [] => true
  | l :: r => r.all (fun x => decide (x.length = l.length))

/-- A field key of a correction fits its record (R325). -/
def CorrIn.wf (w : CorrIn) : Bool := itemWf w.item

/-- A command with operands in range. -/
def Instr.wf : Instr → Bool
  | .bootStageI ms => decide (ms < 2 ^ 32)
  | .stepStart d => decide (0 < d.wcet)
  | .slotFenceDone x => x.slot.wf
  | .slotRelease s => s.wf
  | .slotWaitFault s _ _ => s.wf
  | .mortarRead w => w.wf
  | .moveIssue d => d.wf
  | .patrolScrubRead row _ => row.wf
  | .readoutComplete _ w => w.wf
  | .retentionCopyDone _ item _ => itemWf item
  | .captureReferences _ w => w.wf
  | .decodeStart item => itemWf item
  | .correction _ w => w.wf
  | .itemCutoff item => itemWf item
  | .itemRerun item => itemWf item
  | .arpEntryExpire _ a => a.wf
  | .duplicateAddress _ a => a.wf
  | .syncReceived w => w.rx.wf && w.origin.wf
  | .jrtOpen d => d.wf
  | .jrtClose d => d.wf
  | .jrtData d => d.wf
  | .jrtAck d => d.wf
  | .retransmitTimeout _ _ seq => decide (seq < 2 ^ 32)
  | .hello d => d.wf
  | .nmpRead d => d.wf
  | .nmpWrite d => d.wf
  | .forceHoldWrite d => d.wf
  | .ldgViolatedClear d => d.wf
  | .evtOvfClear d => d.wf
  | .adaptEnableWrite d => d.wf
  | .inferOffWrite d => d.wf
  | .partEnableWrite d => d.wf
  | .streamEnable d => d.wf
  | .streamDisable d => d.wf
  | .submitSessionEnable d => d.wf
  | .submitSessionDisable d => d.wf
  | .resultSessionDisable d => d.wf
  | .resultSessionClose d => d.wf
  | .partitionEnable d => d.wf
  | .partitionDisable d => d.wf
  | .adaptationEnable d => d.wf
  | .adaptationDisable d => d.wf
  | .restart d => d.wf
  | .attest d => d.wf
  | .longStatus d => d.wf
  | .longAbort d => d.wf
  | .stageData d => d.wf
  | .stageImage d => d.wf
  | .captureStart d => d.wf
  | .adapterCommit d => d.wf
  | .ddr4Scrub d => d.wf
  | .spareSelfTest d => d.wf
  | .jtagToken (.viaNmp d) => d.wf
  | .i2cRead n => decide (n ≤ 65536)
  | .frerResetTimeout stream => decide (stream < 64)
  | _ => true

end Sys2Proof
end

