-- ==== Sys2Proof/Certificates/Slice0/Obligations.lean ====
section
/-!
DEFINITION. What the provers are asked to prove of the NX16: one definition per statement.  The rules R<n> are those of
spec/; a clause that rests on a choice of the model names its log entry.
-/

open Sys2Proof Sys2Proof.Machine

/-! ## The machine as a whole -/

/-- A step takes the command at the front of the queue and answers what exec answers on the queue's rest; on an empty
queue it changes nothing (the model's choice, log entry 1). Choices of the model: log entry 1. -/
def Obligations.StepTakesFront : Prop :=
  (∀ (c : Instr) (rest : List Instr) (chip : Chip), step ⟨c :: rest, chip⟩ = exec c ⟨rest, chip⟩) ∧
  ∀ chip : Chip, step ⟨[], chip⟩ = .next ⟨[], chip⟩

/-- Every command completes in every state, but a read at a physical address that no memory has (log entry 2), and
leaves the queue of waiting commands as it finds it. Choices of the model: log entries 2 and 6. -/
def Obligations.OnlyMissingAddressFaults : Prop :=
  ∀ (c : Instr) (s : State),
    (Safe c s → ∃ t, exec c s = .next t) ∧ (∀ t, exec c s = .next t → t.pending = s.pending) ∧
    (∀ w, c = .mortarRead w → s.chip.boot.held = false → s.chip.readExists w = false → exec c s = .fault .noSuchAddress)

/-- At power-on the invariant of the machine holds: memories are canonical and nothing is kept. Choices of the model:
log entries 9 and 10. -/
def Obligations.ResetHasInvariant : Prop := State.reset.Inv

/-- Every step keeps the invariant: the memories stay canonical, and a device that is held in reset holds nothing but
its fuses, its flash devices and its pins. Choices of the model: log entry 3. -/
def Obligations.StepKeepsInvariant : Prop :=
  ∀ s t : State, s.Inv → step s = .next t → t.Inv

/-- A device that is held in reset does nothing: no command but the five that act on the reset itself changes it.
Choices of the model: log entry 6. -/
def Obligations.HeldDoesNothing : Prop :=
  ∀ (c : Instr) (s : State), s.chip.boot.held = true → isReset c = false → exec c s = .next s

/-- Whether the device is held in reset, and its straps, change by no command but the five that act on the reset
itself. -/
def Obligations.OnlyResetsChangePins : Prop :=
  ∀ (c : Instr) (s t : State), isReset c = false → exec c s = .next t → t.chip.boot.pins = s.chip.boot.pins

/-- The fuses change by no command but SVN_ADVANCE and FUSE_PROG; the anti-rollback counter never falls, and a
customer root that is programmed never changes. Choices of the model: log entry 66. -/
def Obligations.FusesOnlyGrow : Prop :=
  ∀ (c : Instr) (s t : State), exec c s = .next t →
    s.chip.fuses.svn ≤ t.chip.fuses.svn ∧
    (∀ k, s.chip.fuses.customer = some k → t.chip.fuses.customer = some k) ∧
    (match c with
     | .svnAdvance | .fuseProg _ => True
     | _ => t.chip.fuses = s.chip.fuses)

/-! ## The register map -/

/-- Every register instance of Table 17-10 has an address of its own, which names it, and an address names no other.
Choices of the model: log entry 37. -/
def Obligations.AddressNamesRegister : Prop :=
  ∀ (a : Nat) (r : Reg) (i j : Nat), findReg a = some (r, i, j) ↔ r.has i j = true ∧ r.addr i j = a

/-! ## Resets, boot and trust -/

/-- R543, R542, R544, R537: a fall of PORST_N, an undervoltage and an over-temperature trip end everything at once: what
is left is the device in reset, with its fuses, its flash devices and its straps, and XSPIx_RST_N low as long as VIO is
present; the undervoltage may have taken VIO with it; the trip leaves the device held until it has cooled. (No adapter
commit under way: one that is cut off leaves one area that no longer verifies, R335.) Choices of the model: log entries
9, 10 and 124. -/
def Obligations.ResetEndsEverything : Prop :=
  ∀ s : State, s.chip.On → s.chip.opOfKind 3 = none →
    let gone := fun hot vio : Bool =>
      { Chip.powerOn with
        free := s.chip.free, fuses := s.chip.fuses, flash := s.chip.flash
        boot := { Boot.powerOn with pin := hot, hot := hot, vio := vio, xspiRst := if vio then some false else none,
                                    straps := s.chip.boot.straps } }
    exec .porstNFall s = .next ⟨s.pending, gone false s.chip.boot.vio⟩ ∧
    (∃ vio, (vio = true → s.chip.boot.vio = true) ∧
      exec .railUndervoltage s = .next ⟨s.pending, { gone false vio with free := s.chip.free + 1 }⟩) ∧
    exec .overTemperatureTrip s = .next ⟨s.pending, gone true s.chip.boot.vio⟩

/-- R489, R435, R544, R537: a device in reset starts a cold reset when PORST_N rises, or, held hot with PORST_N high,
when it has cooled: it boots from the sampled straps with the clock at 0, every memory zero, no item and no session, and
releases the flash devices' reset; fuses and flash stay. A rise while it is hot starts nothing, and a release with
PORST_N low leaves it in reset. Choices of the model: log entries 3, 6, 8 and 10. -/
def Obligations.ColdResetStarts : Prop :=
  ∀ (s : State) (straps : Fin 4), s.Inv → s.chip.boot.held = true →
    (let cold := fun (i : Instr) (n : Nat) => ∃ t, exec i s = .next t ∧ t.pending = s.pending ∧ t.chip.Boots ∧
        t.chip.boot.straps = n ∧ t.chip.boot.cold = true ∧ t.chip.clock = Clock.cold ∧ t.chip.rate = 0 ∧
        t.chip.mem = Mem.cold ∧ t.chip.items = Items.cold ∧ t.chip.sessions = [] ∧ t.chip.fuses = s.chip.fuses ∧
        t.chip.flash = s.chip.flash ∧ t.chip.boot.xspiRst = some true
     (s.chip.boot.hot = false → cold (.porstNRise straps) straps.val) ∧
     (s.chip.boot.hot = true → s.chip.boot.pin = true → cold .overTemperatureRelease s.chip.boot.straps) ∧
     (s.chip.boot.hot = true → ∃ t, exec (.porstNRise straps) s = .next t ∧
        t.chip = { s.chip with boot := { s.chip.boot with
          pin := true, vio := true, xspiRst := some false, straps := straps.val } }) ∧
     (s.chip.boot.hot = true → s.chip.boot.pin = false → ∃ t, exec .overTemperatureRelease s = .next t ∧
        t.chip = { s.chip with boot := { s.chip.boot with hot := false } }))

/-- R435, R66, R416, R489, R9, R515: a restart whose closing phase has done its work (no item in flight, no record to
build, no session open) becomes a warm restart: the device boots again with the clock running on, RATE, the first-lock
flag, fuses and flash kept, memories zero, every item and session gone; a start that comes earlier does nothing. The
rename maps and the fault log stay as they are when no graft and no takeover waited for a course boundary. Choices of
the model: log entries 3, 10, 47 and 69. -/
def Obligations.WarmRestartKeeps : Prop :=
  ∀ s : State, s.chip.On →
    (s.chip.closed = false → exec .warmRestartStart s = .next s) ∧
    (s.chip.closed = true → s.Inv →
      ∃ t, exec .warmRestartStart s = .next t ∧ t.pending = s.pending ∧ t.chip.Boots ∧ t.chip.boot.cold = false ∧
        t.chip.clock.now = s.chip.clock.now ∧ t.chip.clock.frac = s.chip.clock.frac ∧ t.chip.rate = s.chip.rate ∧
        t.chip.locked = s.chip.locked ∧ t.chip.mem.block = [] ∧ t.chip.mem.shared = [] ∧ t.chip.mem.ddr = [] ∧
        t.chip.mem.slotFull = [] ∧ t.chip.mem.moves = [] ∧ t.chip.items = Items.cold ∧ t.chip.sessions = [] ∧
        t.chip.fuses = s.chip.fuses ∧ t.chip.flash = s.chip.flash ∧
        (s.chip.recov.takeover = none → s.chip.fabric.mapPend = [] →
          (∀ r, r < 4 → t.chip.word .REGION_MAP r = s.chip.word .REGION_MAP r) ∧
          t.chip.word .UNIT_MAP = s.chip.word .UNIT_MAP ∧
          t.chip.word .FAULT_LOG_PTR = s.chip.word .FAULT_LOG_PTR ∧
          ∀ e, e < 256 → t.chip.word .FAULT_LOG_W2 e = s.chip.word .FAULT_LOG_W2 e))

/-- R500 to R502: the candidate's header, manifest and signatures are checked; a candidate that verifies has its
digest recorded, and one that fails has its reason recorded and is tried no more; with none left, and while the
customer root is blank, the device enters safe hold. Choices of the model: log entries 48 and 50. -/
def Obligations.ImageVerifyOutcome : Prop :=
  ∀ s : State, s.chip.Boots → s.chip.boot.verified = false →
    (s.chip.fuses.customer = none → ∃ t, exec .imageVerify s = .next t ∧ t.chip.get F.BOOT_STAT_STATE = 2 ∧
      t.chip.get F.BOOT_STAT_REASON_A = 12 ∧ t.chip.get F.BOOT_STAT_REASON_B = 12) ∧
    (∀ d rest, s.chip.fuses.customer.isSome = true → s.chip.boot.cands = d :: rest →
      ∃ t, exec .imageVerify s = .next t ∧ t.pending = s.pending ∧
        (match s.chip.verifyHead (s.chip.flashDev d) true with
         | .inl (h, _) => t.chip = s.chip.updBoot (fun b =>
             { b with verified := true, digest := sha384 ((s.chip.flashDev d).message h) })
         | .inr r =>
           t.chip.get (if d = 0 then F.BOOT_STAT_REASON_A else F.BOOT_STAT_REASON_B) = r % 16 ∧
           t.chip.boot.cands = s.chip.boot.cands.filter (· ≠ d) ∧
           t.chip.get F.BOOT_STAT_STATE = (if s.chip.boot.cands.filter (· ≠ d) = [] then 2 else 0)))

/-- R503: an image whose SVN is below the counter fails with reason rollback, both at boot and at staging. Choices of
the model: log entry 48. -/
def Obligations.RollbackRefused : Prop :=
  ∀ (c : Chip) (f : Flash) (h : ImgHdr) (ranked : Bool), f.fits = true → imgHdr (f.read 0x1000 4096) = .inl h →
    h.svn < c.fuses.svn → c.verifyHead f ranked = .inr 4

/-- R501: when the firmware section verifies the control cores start, and when the remaining sections verify the
device takes the image; a firmware section that fails makes its candidate fail. Choices of the model: log entry 27. -/
def Obligations.ImageSectionsLoad : Prop :=
  ∀ (s : State) (linear16 : Bool) (img : ImageConfig) (d : Nat) (f : Flash) (h : ImgHdr) (secs : List Section),
    s.chip.Boots → s.chip.candidate = some (d, f, h, secs) →
    (s.chip.boot.verified = true → s.chip.boot.firmware = false →
      ∃ t, exec (.firmwareStart linear16) s = .next t ∧ t.pending = s.pending ∧ t.chip.mem = s.chip.mem ∧
        (if f.firmwareCheck secs = 0 then t.chip.boot = { s.chip.boot with firmware := true } ∧
          t.chip.flag F.GOV_STATUS_PMB_FAULT = (s.chip.flag F.GOV_STATUS_PMB_FAULT || !linear16)
         else t.chip.boot.firmware = false ∧ t.chip.boot.cands = s.chip.boot.cands.filter (· ≠ d))) ∧
    (s.chip.boot.firmware = true → s.chip.boot.sections = false → f.sectionCheck secs = 0 →
      ∃ t, exec (.sectionsLoaded img) s = .next t ∧ t.chip.boot.sections = true ∧ t.chip.image = img ∧
        t.chip.mem.ddrHnd = handleTab img.ddrHandles ∧ t.chip.fuses = s.chip.fuses)

/-- R493, R492: DDR4 channels that train change nothing but the stage's record; once trained, DDR4 is initialised to
zeros, nothing of a former boot being left. Choices of the model: log entry 45. -/
def Obligations.DdrStages : Prop :=
  ∀ s : State, s.chip.Boots →
    (s.chip.boot.verified = true → s.chip.boot.trained = false →
      exec (.ddr4TrainingDone true true) s = .next ⟨s.pending, s.chip.updBoot (fun b => { b with trained := true })⟩ ∧
      ∃ t, exec (.ddr4TrainingDone false false) s = .next t ∧ t.chip.flag F.VAR_STAT_HOLD = true) ∧
    (s.chip.boot.trained = true → s.chip.boot.inited = false →
      ∃ t, exec .ddr4InitDone s = .next t ∧ (∀ a, memRead t.chip.mem.ddr a = 0) ∧
        t.chip = (s.chip.updMem (fun m => { m with ddr := [] })).updBoot (fun b => { b with inited := true }))

/-- R494, R336: whatever the start-up self-test finds, the device records that it has ended, with every graft it brought
in effect; a test that finds nothing leaves the rename maps as they are. Whatever the adapter areas hold, the adapter
stage ends too; it takes the sequence number of the newest valid area, and none without one. Choices of the model: log
entries 11, 45 and 64. -/
def Obligations.SelfTestAndAdapters : Prop :=
  ∀ (s : State), s.chip.Boots →
    (∀ r, s.chip.boot.cold = true → s.chip.boot.firmware = true → s.chip.boot.tested = false →
      ∃ t, exec (.selfTestDone r) s = .next t ∧ t.pending = s.pending ∧ t.chip.boot.tested = true ∧
        t.chip.fabric.mapPend = [] ∧
        (r = ⟨[], [], [], []⟩ → s.chip.mem.rowMark = [] → s.chip.recov.takeover = none → s.chip.fabric.mapPend = [] →
          (∀ r, t.chip.word .REGION_MAP r = s.chip.word .REGION_MAP r) ∧ t.chip.word .UNIT_MAP = s.chip.word .UNIT_MAP)) ∧
    (s.chip.boot.sections = true → s.chip.boot.adapters = false →
      ∃ t, exec .adapterAreasVerified s = .next t ∧ t.pending = s.pending ∧ t.chip.boot.adapters = true ∧
        t.chip.get F.ADAPT_SEQ_SEQ = (match s.chip.bestArea with
          | some a => a.num % 2 ^ 32
          | none => s.chip.get F.ADAPT_SEQ_SEQ) ∧
        t.chip.mem = s.chip.mem)

/-- R490, R92: once the stages before it have ended, stage I makes BOOT_STAT.STATE RUNNING over memories that hold
what the image places in them, with all slots FREE. -/
def Obligations.BootEndsRunning : Prop :=
  ∀ (s : State) (ms : Nat), s.chip.Boots → s.chip.boot.sections = true → s.chip.boot.inited = true →
    (s.chip.boot.cold = true → s.chip.boot.tested = true) → s.chip.boot.adapters = true →
    ∃ t, exec (.bootStageI ms) s = .next t ∧ t.chip.Up ∧ t.chip.mem.slotFull = [] ∧
      t.chip.mem.block = s.chip.placeContent.mem.block ∧ t.chip.mem.shared = s.chip.placeContent.mem.shared ∧
      t.chip.get F.BOOT_STAT_BOOT_MS = Nat.min ms (2 ^ 21 - 1)

/-- R504: once the device runs, an image with ADVANCE set raises the anti-rollback counter to its SVN; FUSE_STAT shows
it. -/
def Obligations.SvnAdvances : Prop :=
  ∀ s : State, s.chip.Up → s.chip.flag F.BOOT_IMG_ADVANCE = true → s.chip.secure = true →
    let n := Nat.max s.chip.fuses.svn (Nat.min 64 (s.chip.get F.BOOT_IMG_SVN))
    exec .svnAdvance s = .next ⟨s.pending, ({ s.chip with fuses := { s.chip.fuses with svn := n } }).put F.FUSE_STAT_SVN_CNT n⟩

/-! ## The clock, course boundaries, the governor -/

/-- R436: on every edge of PTP_REFCLK the clock advances by 8 ns and the rate correction, exactly; nothing else
changes. -/
def Obligations.ClockAdvances : Prop :=
  ∀ s : State, s.chip.On →
    let k := s.chip.clock
    let total : Int := k.frac + 8 * 2 ^ 32 + 8 * s.chip.rate
    let ns := k.now.ns + (total / 2 ^ 32).toNat
    0 < total ∧
    exec .ptpRefclkEdge s = .next ⟨s.pending, { s.chip with clock := { k with
      frac := (total % 2 ^ 32).toNat, up := k.up + 8
      now := if 1000000000 ≤ ns then ⟨(k.now.sec + 1) % 2 ^ 48, ns - 1000000000⟩ else ⟨k.now.sec, ns⟩ } }⟩

/-- R340, R341 with log entry 4: a course boundary lies at or after a multiple of 2 ms that the clock has not had a
boundary for, a slot boundary likewise at a multiple of 125 µs; a clock that has passed none since goes on to the
next. RATE, the image, fuses and flash stay. Choices of the model: log entry 4. -/
def Obligations.BoundariesLieOnMultiples : Prop :=
  ∀ s : State, s.chip.On → s.chip.clock.now.ns < 1000000000 →
    (∀ w, ∃ t, exec (.courseBoundary w) s = .next t ∧ t.pending = s.pending ∧
      t.chip.clock.lastCourse = some t.chip.courseK ∧
      (if s.chip.clock.lastCourse = some s.chip.courseK then
        t.chip.nowNs = (s.chip.nowNs / 2000000 + 1) * 2000000 % (2 ^ 48 * 1000000000) ∧ t.chip.clock.frac = 0
       else t.chip.clock.now = s.chip.clock.now ∧ t.chip.clock.frac = s.chip.clock.frac) ∧
      t.chip.image = s.chip.image ∧ t.chip.fuses = s.chip.fuses ∧ t.chip.flash = s.chip.flash) ∧
    (∃ t, exec .slotTick s = .next t ∧ t.pending = s.pending ∧ t.chip.clock.lastSlot = some t.chip.slotNo ∧
      (if s.chip.clock.lastSlot = some s.chip.slotNo then
        t.chip.nowNs = (s.chip.nowNs / 125000 + 1) * 125000 % (2 ^ 48 * 1000000000) ∧ t.chip.clock.frac = 0
       else t.chip.clock.now = s.chip.clock.now ∧ t.chip.clock.frac = s.chip.clock.frac) ∧
      t.chip.image = s.chip.image ∧ t.chip.fuses = s.chip.fuses ∧ t.chip.flash = s.chip.flash)

/-- The local clock, the configuration image and the flash devices change by few commands only: the clock by its
edges, the two boundaries, first lock and the resets; the image by SECTIONS_LOADED and the resets; flash by the resets
(R335), a restart, attestation (R509) and the long operations that write it. Choices of the model: log entries 4 and
6. -/
def Obligations.FewCommandsMoveClock : Prop :=
  ∀ (c : Instr) (s t : State), exec c s = .next t → isReset c = false →
    (match c with
     | .ptpRefclkEdge | .courseBoundary _ | .slotTick | .firstLock | .warmRestartStart => True
     | _ => t.chip.clock = s.chip.clock) ∧
    (match c with
     | .sectionsLoaded _ | .warmRestartStart => True
     | _ => t.chip.image = s.chip.image) ∧
    (match c with
     | .restart _ | .attest _ | .stageImage _ | .stageData _ | .longOpEnd _ _ => True
     | _ => t.chip.flash = s.chip.flash)

/-- R42, R46: the governor never requests less than 0.650 V or more than 0.900 V; a raise that would exceed 0.900 V is
clipped to 0.900 V, and GOV_STATUS.AT_MAX says so of the last request; and no course boundary leaves a request outside
the range. -/
def Obligations.GovernorStaysInRange : Prop :=
  (∀ (pmin v pout cap hyst margin : Nat) (was : Bool),
    (∀ q, (govern pmin v pout cap hyst margin was).request = some q → 650 ≤ q ∧ q ≤ 900) ∧
    (850 ≤ pmin → pmin < 850 + Nat.max margin 26 → 900 < v + 10 →
      (govern pmin v pout cap hyst margin was).request = some 900 ∧ (govern pmin v pout cap hyst margin was).atMax = true)) ∧
  (∀ (c : Chip) (a : GovAct), (c.governAct a).flag F.GOV_STATUS_AT_MAX =
    (if a.request.isSome then a.atMax else c.flag F.GOV_STATUS_AT_MAX)) ∧
  (∀ (s t : State) (w : CourseIn), exec (.courseBoundary w) s = .next t →
    t.chip.fabric.request = s.chip.fabric.request ∨ 650 ≤ t.chip.fabric.request ∧ t.chip.fabric.request ≤ 900)

/-- R39 to R41: a window shows its pace, the count scaled by the ring's trim, in CUR, at most its 12 bits, holds the
lowest since the last read in LOW, and enters the governor's own course minimum, a window of 0 included; every other
register and ring, and everything else, stays. Choices of the model: log entry 112. -/
def Obligations.PaceWindowReports : Prop :=
  ∀ (s : State) (ring : Ring) (count : Nat), s.chip.On →
    let k := ringNo ring
    let v := Nat.min (count * Config.trimNum k / (10 * (Config.trimDen k + 1))) 4095
    let r := ringReg ring
    let old := s.chip.ring k
    let least := fun o : Option Nat => match o with | none => v | some m => Nat.min m v
    ∃ t, exec (.paceWindow ring count) s = .next t ∧ t.pending = s.pending ∧
      bitsOf (t.chip.word r.1 r.2.1 r.2.2) 20 12 = v ∧ bitsOf (t.chip.word r.1 r.2.1 r.2.2) 8 12 = least old.low ∧
      bitsOf (t.chip.word r.1 r.2.1 r.2.2) 0 8 = bitsOf (s.chip.word r.1 r.2.1 r.2.2) 0 8 ∧
      (∀ r' i j, r'.addr i j ≠ r.1.addr r.2.1 r.2.2 → t.chip.word r' i j = s.chip.word r' i j) ∧
      t.chip.ring k = ⟨some v, some (least old.min), some (least old.low)⟩ ∧
      (∀ k', k' ≠ k → t.chip.ring k' = s.chip.ring k') ∧
      t.chip = { s.chip with regs := t.chip.regs, fabric := { s.chip.fabric with rings := t.chip.fabric.rings } }

/-- R354, R407, R409, R384, R44, R410: the course of a region's first schedule fault is kept and the fault logged and
counted when its lag at the boundary exceeds LAG_MAX, unless the region has failed or its controller is being taken over;
the region fails when eight courses later the lag still exceeds it, and its steps end; a scheduled block that stays
silent fails; a pace fault is logged, and fails the block only when it is more than 5 % below the median. Choices of the
model: log entries 6, 33 and 38. -/
def Obligations.ScheduleAndPaceFaults : Prop :=
  ∀ (s : State) (r : Fin 4), s.chip.Up →
    let late := s.chip.sched.lagAt.getD r.val 0 > Nat.max 1 (s.chip.get F.SCHED_CFG_LAG_MAX) * 2000000
    let nothing := fun i : Instr => exec i s = .next ⟨s.pending, s.chip.settle⟩
    (late → s.chip.recov.takeover ≠ some r.val → s.chip.recov.failedRegion.getD r.val true = false →
      r.val < s.chip.sched.faultAt.length →
      ∃ t, exec (.scheduleFault r) s = .next t ∧ t.pending = s.pending ∧
        t.chip.sched.faultAt.getD r.val none = some ((s.chip.sched.faultAt.getD r.val none).getD s.chip.courseK) ∧
        s.chip.Logged t.chip 0x23 (s.chip.locOf (.region r)) ∧ s.chip.Counted t.chip F.SCHED_CNT_SCHED_FAULT r.val ∧
        t.chip.items = s.chip.items ∧ t.chip.mem = s.chip.mem ∧ s.chip.Core t.chip) ∧
    (¬ late ∨ s.chip.recov.takeover = some r.val ∨ s.chip.recov.failedRegion.getD r.val true = true →
      nothing (.scheduleFault r)) ∧
    (∀ k, late → s.chip.sched.faultAt.getD r.val none = some k → k + 8 ≤ s.chip.courseK →
      s.chip.recov.failedRegion.getD r.val true = false →
      ∃ t, exec (.scheduleFaultRegionFail r) s = .next t ∧ t.pending = s.pending ∧
        t.chip.recov.failedRegion.getD r.val true = true ∧ (∀ b, b < 8 → t.chip.runOf (8 * r.val + b) = none) ∧
        s.chip.Logged t.chip 0x25 ⟨r.val, 15, 31, 15, 31, 0⟩ ∧ s.chip.mem.SameData t.chip.mem ∧ s.chip.Core t.chip) ∧
    (¬ late ∨ (∀ k, s.chip.sched.faultAt.getD r.val none = some k → s.chip.courseK < k + 8) →
      nothing (.scheduleFaultRegionFail r)) ∧
    (∀ b : Fin 9, bitOf (s.chip.get F.SPARE_HEALTH_BLK_FAILED r.val) b.val = false →
      (b.val ∈ s.chip.scheduled r.val → ∃ t, exec (.blockSilent r b) s = .next t ∧ t.pending = s.pending ∧
        bitOf (t.chip.get F.SPARE_HEALTH_BLK_FAILED r.val) b.val = true ∧
        s.chip.Logged t.chip 0x21 (s.chip.locOf (.block r b)) ∧ s.chip.mem.SameData t.chip.mem ∧ s.chip.Core t.chip) ∧
      (b.val ∉ s.chip.scheduled r.val → nothing (.blockSilent r b))) ∧
    (s.chip.fabric.belowAtMax = false → nothing .paceBelowFloor) ∧
    (s.chip.fabric.belowAtMax = true →
      let p := s.chip.get F.GOV_STATUS_PMIN
      let blk := s.chip.get F.GOV_STATUS_PMIN_BLK
      let med := median2 (s.chip.governed.map (fun e => s.chip.get F.PACE_BLK_CUR e.1 e.2))
      let l : Loc := ⟨blk / 9, blk % 9, 31, (s.chip.logBlock (blk / 9) (blk % 9)).getD 15, 31, 0⟩
      (19 * med ≤ 40 * p → exec .paceBelowFloor s = .next ⟨s.pending, (s.chip.log 0x35 l).settle⟩) ∧
      (40 * p < 19 * med → blk < 36 → ∃ t, exec .paceBelowFloor s = .next t ∧ t.pending = s.pending ∧
        bitOf (t.chip.get F.SPARE_HEALTH_BLK_FAILED (blk / 9)) (blk % 9) = true ∧ s.chip.Logged t.chip 0x35 l ∧
        t.chip.fabric.request = s.chip.fabric.request ∧ s.chip.mem.SameData t.chip.mem))

/-! ## Steps, slots and fences -/

/-- R351, R345, R72: a step starts on a unit that is ready, at a slot whose table entry is its own, for a partition that
may run there and an item it can work on: the unit holds it with its slot tick, its start and the key-value epoch, its
slot is served, its region's lag takes it in; a failed handle check is a handle fault at once. A step that may not start
changes nothing. Choices of the model: log entries 6, 32, 87, 108 and 122. -/
def Obligations.StepStarts : Prop :=
  ∀ (s : State) (d : StepDesc), s.chip.Up →
    let c := s.chip
    let who : Issuer := ⟨c.physUnit d.unit, some d.part⟩
    let run : StepRun := { desc := d, at_ := d.slot, start := c.nowNs, tries := 0, firstMove := c.mem.nextMove, freed := [],
                           yield := false, epoch := c.kv.epoch }
    (c.canStart d = false → exec (.stepStart d) s = .next ⟨s.pending, c.settle⟩) ∧
    (c.canStart d = true → d.item = none ∨ d.bands = [] →
      (∀ h, h ∈ d.handles → c.checkHandle who h.ref h.write h.len = none) →
      ∃ t, exec (.stepStart d) s = .next t ∧ t.pending = s.pending ∧ t.chip.runOf (unitNo d.unit) = some run ∧
        (∀ u, u ≠ unitNo d.unit → t.chip.runOf u = c.runOf u) ∧
        (∀ r, unitRegion d.unit = some r → t.chip.mem = c.mem ∧
          (r < c.sched.lag.length → t.chip.sched.lag.getD r 0 = Nat.max (c.nowNs - d.slot * 125000) (c.sched.lag.getD r 0)) ∧
          (d.kind ≠ .soak → smGet 0 t.chip.sched.served (unitNo d.unit) =
            Nat.max (d.slot + d.span + 1) (smGet 0 c.sched.served (unitNo d.unit)))) ∧
        t.chip.mem = { c.mem with hedges := t.chip.mem.hedges } ∧
        t.chip.items = c.items ∧ t.chip.kv = c.kv ∧ c.Core t.chip) ∧
    (c.canStart d = true → d.item = none ∨ d.bands = [] → ∀ h rest, d.handles = h :: rest →
      c.checkHandle who h.ref h.write h.len ≠ none →
      ∃ t, exec (.stepStart d) s = .next t ∧ t.pending = s.pending ∧
        c.Logged t.chip 0x12 (c.locOf (c.physUnit d.unit) d.part.val) ∧
        smGet 0 t.chip.mem.hndFaults (tableNo h.ref.space) = smGet 0 c.mem.hndFaults (tableNo h.ref.space) + 1 ∧
        t.chip.items = c.items ∧ t.chip.mem.shared = c.mem.shared ∧ t.chip.mem.ddr = c.mem.ddr ∧
        t.chip.mem.block = c.mem.block ∧ c.Core t.chip)

/-- R352, R357, R77 to R83, R391, R385, R61: a step that has run to its end writes its outputs and leaves its unit; one that
ends after the last slot it covers, a soak step after its block's next LC slot tick, is counted as an overrun; one whose output slot is FULL waits. A step that is rolled
back writes nothing, gives back the slots it released and ends its fills; a lost step writes nothing and its item is
re-run. A first cell error of a cell that the step engages re-executes it. A unit that runs no step has none to end.
Choices of the model: log entries 6, 87, 89, 90 and 108. -/
def Obligations.StepEnds : Prop :=
  (∀ (s : State) (w : StepEndIn) (x : SlotId) (awaited : Bool), s.chip.Up → s.chip.runOf (unitNo w.unit) = none →
    exec (.stepEnd w) s = .next ⟨s.pending, s.chip.settle⟩ ∧
    exec (.slotWaitFault x awaited w.unit) s = .next ⟨s.pending, s.chip.settle⟩) ∧
  ∀ (s : State) (w : StepEndIn) (run : StepRun), s.chip.Up → s.chip.runOf (unitNo w.unit) = some run →
    let c := s.chip
    let u := unitNo w.unit
    let work := c.chosenWork run w
    (w.outcome = .done → c.destOk run.desc w.dst = false ∨ c.destWaits run w.dst = true →
      exec (.stepEnd w) s = .next ⟨s.pending, c.settle⟩) ∧
    (w.outcome = .done → run.desc.unit = w.unit → run.desc.item = none → c.kv.waiting = [] →
      c.destOk run.desc w.dst = true → c.destWaits run w.dst = false → workScales work = none → unitCan run.desc work = true →
      (∀ o sc, workOut work = .out o sc →
        (∀ q, wideTileOf work = some q → c.wideDoes run q = false ∧ wideCond q.quant o.cnt.sat o.codes.length = false) →
        let out := c.writeOut ⟨c.physUnit w.unit, some run.desc.part⟩ run w.dst (outBytes o sc)
        out.2 = true →
        ∃ t, exec (.stepEnd w) s = .next t ∧ t.pending = s.pending ∧ t.chip.runOf u = none ∧
          out.1.mem.SameData t.chip.mem ∧ (c.Quiet → t.chip.mem = out.1.mem) ∧
          (∀ v, v ≠ u → t.chip.runOf v = c.runOf v) ∧
          (∀ r, unitRegion w.unit = some r →
            let late := match w.unit, run.desc.kind with
              | .block _ lb, .soak => ∃ k, run.at_ < k ∧ k ≤ c.slotNo ∧ bitsOf (c.tableEntry r k lb.val) 58 2 = 1 ∧ c.nowNs > k * 125000
              | _, _ => c.nowNs > (run.at_ + run.desc.span + 1) * 125000
            (late → t.chip.get F.SCHED_CNT_OVR_STEP r = Nat.min (c.get F.SCHED_CNT_OVR_STEP r + 1) 65535) ∧
            (¬ late → t.chip.get F.SCHED_CNT_OVR_STEP r = c.get F.SCHED_CNT_OVR_STEP r)) ∧
          t.chip.items = c.items ∧ t.chip.kv = c.kv ∧ c.Core t.chip)) ∧
    (w.outcome = .rolledBack → c.kv.waiting = [] → (∀ n i, run.desc.item = some n → c.item n = some i → i.endNext = none) →
      ∃ t, exec (.stepEnd w) s = .next t ∧ t.pending = s.pending ∧ t.chip.runOf u = none ∧
        t.chip.mem.block = c.mem.block ∧ t.chip.mem.shared = c.mem.shared ∧ t.chip.mem.ddr = c.mem.ddr ∧
        (∀ m, m ∈ t.chip.mem.moves → m ∈ c.mem.moves ∧ ¬ (run.firstMove ≤ m.id ∧ c.unitOf m.issuer.u = some u ∧
          ∃ x o, m.dst = .slot x o)) ∧
        (c.Quiet → ∀ e, e ∈ run.freed → smGet false t.chip.mem.slotFull e.1 = true) ∧
        t.chip.items = c.items ∧ t.chip.kv = c.kv ∧ c.Core t.chip ∧
        (c.Quiet → run.freed = [] → c.mem.moves = [] → t.chip = (c.setRun u none).settle)) ∧
    (∀ cls, w.outcome = .lost cls → c.kv.waiting = [] →
      ∃ t, exec (.stepEnd w) s = .next t ∧ t.pending = s.pending ∧ t.chip.runOf u = none ∧ c.mem.SameData t.chip.mem ∧
        (∀ n, run.desc.item = some n → n ∈ t.chip.recov.rerun) ∧
        (cls ∈ [0x03, 0x10, 0x20, 0x30, 0x33] → c.Logged t.chip cls (c.locOf (c.physUnit w.unit) run.desc.part.val)) ∧
        t.chip.items = c.items ∧ c.Core t.chip) ∧
    (∀ site k, w.outcome = .reexecuted site → c.errorSite run.desc site = true → cellNo site = some k → run.tries = 0 →
      smGet 0 c.recov.reexec k + 1 ≤ actsAs (c.get F.FAULT_CFG_CELL_THR) 1 →
      ∃ t, exec (.stepEnd w) s = .next t ∧ t.pending = s.pending ∧ t.chip.runOf u = some { run with tries := 1 } ∧
        c.Counted t.chip F.FAULT_CNT0_REEXEC ∧ smGet 0 t.chip.recov.reexec k = smGet 0 c.recov.reexec k + 1 ∧
        t.chip.mem = c.mem ∧ t.chip.items = c.items ∧ c.Core t.chip)

/-- R77 to R83: a producer's slot fence passes its slot from FREE to FULL and waits while it is FULL; a release passes it
from FULL to FREE, the step that runs on its cell's unit keeping what it held, and one of a FREE slot is a slot-token
fault that raises no token; a slot-wait fault ends the waiting step and operation without data, the tokens unchanged,
and its item is re-run; where the awaited token is raised nothing waits. Choices of the model: log entries 6 and 30. -/
def Obligations.SlotTokens : Prop :=
  ∀ (s : State) (x : SlotId) (n : Nat), s.chip.On → cellNo x.u = some n →
    let c := s.chip
    let others := fun t : Chip => ∀ y, slotNo' y ≠ slotNo' x → t.slotFull y = c.slotFull y
    (c.slotFull x = true →
      (∀ u, exec (.slotFenceDone ⟨u, x⟩) s = .next s) ∧
      ∃ t, exec (.slotRelease x) s = .next t ∧ t.pending = s.pending ∧ t.chip.slotFull x = false ∧ others t.chip ∧
        t.chip = { c with mem := { c.mem with slotFull := t.chip.mem.slotFull }, sched := t.chip.sched } ∧
        ((c.unitOf x.u).bind c.runOf = none → t.chip.sched = c.sched) ∧
        (∀ v run, c.unitOf x.u = some v → c.runOf v = some run →
          t.chip.runOf v = some { run with freed := run.freed ++ [(32 * n + x.slot.val, c.slotData x)] })) ∧
    (c.slotFull x = false →
      (∀ u, c.unitDead x.u = true → exec (.slotFenceDone ⟨u, x⟩) s = .next s) ∧
      (∀ u, c.unitDead x.u = false → (∀ m, m ∈ c.mem.moves → m.issuer ≠ u) →
        ∃ t, exec (.slotFenceDone ⟨u, x⟩) s = .next t ∧ t.pending = s.pending ∧ t.chip.slotFull x = true ∧
          others t.chip ∧ t.chip = c.updMem (fun m => { m with slotFull := t.chip.mem.slotFull })) ∧
      ∃ t, exec (.slotRelease x) s = .next t ∧ t.pending = s.pending ∧
        (∀ y, t.chip.slotFull y = true → c.slotFull y = true) ∧ (c.Quiet → t.chip.mem.slotFull = c.mem.slotFull) ∧
        smGet 0 t.chip.mem.tokenFaults n = smGet 0 c.mem.tokenFaults n + 1 ∧ c.Logged t.chip 0x04 (c.locOf x.u)) ∧
    (∀ (awaited : Bool) (u : StepUnit) (run : StepRun), c.running = true → c.runOf (unitNo u) = some run →
      (c.slotFull x = awaited → exec (.slotWaitFault x awaited u) s = .next ⟨s.pending, c.settle⟩) ∧
      (c.slotFull x ≠ awaited →
        ∃ t, exec (.slotWaitFault x awaited u) s = .next t ∧ t.pending = s.pending ∧ t.chip.runOf (unitNo u) = none ∧
          (let m := { c.mem with moves := c.mem.moves.filter (fun m => !m.awaits x awaited) }
           m.SameData t.chip.mem ∧ (c.Quiet → t.chip.mem = m)) ∧
          c.Logged t.chip 0x03 (c.locOf x.u run.desc.part.val) ∧
          (∀ k, run.desc.item = some k → k ∈ t.chip.recov.rerun) ∧ t.chip.items = c.items ∧ c.Core t.chip))

/-- R52 to R55, R68, R353: a memory fence completes the moves between memories that its issuer has outstanding, once
their hedged resources have served them, and leaves every other issuer's; with none outstanding it changes nothing. A
publication fence of a control core does so for that core, and every walker's entry buffer is discarded. A course fence
does so for its region's blocks, and is noted when it completes in time; one that completes after the boundary counts the
course. Choices of the model: log entries 6, 44, 104 and 122. -/
def Obligations.FencesComplete : Prop :=
  ∀ s : State, s.chip.On → (s.chip.mem.moves.map (·.id)).Nodup →
    let c := s.chip
    let served := fun (m : Move) => (∃ r, m.src = .mem r) ∧ (∃ r, m.dst = .mem r) ∧
      ∀ x q, q ∈ (c.hedge x).wait → q.id ≠ m.id + 1
    let completes := fun (t : Chip) (own : Move → Bool) =>
      t.mem.moves.filter (fun m => !own m) = c.mem.moves.filter (fun m => !own m) ∧
      ((∀ m, m ∈ c.mem.moves → own m = true → served m) → ∀ m, m ∈ t.mem.moves → own m = false)
    (∀ u : Issuer, ∃ t, exec (.memoryFenceDone u) s = .next t ∧ t.pending = s.pending ∧
      completes t.chip (fun m => m.issuer = u) ∧ ((∀ m, m ∈ c.mem.moves → m.issuer ≠ u) → t = s)) ∧
    (∀ k : Fin 10, c.kv.waiting = [] → ∃ t, exec (.publicationFenceDone k) s = .next t ∧ t.pending = s.pending ∧
      completes t.chip (fun m => m.issuer.u = .core k) ∧
      ((∀ m, m ∈ c.mem.moves → m.issuer.u = .core k → served m) → t.chip.kv = { c.kv with bufs := [] }) ∧
      ((∀ m, m ∈ c.mem.moves → m.issuer.u ≠ .core k) → t.chip = c.updKv (fun v => { v with bufs := [] }))) ∧
    (∀ r : Fin 4, c.running = true →
      (∃ t, exec (.courseFenceDone r) s = .next t ∧ t.pending = s.pending ∧ completes t.chip (Chip.regionMoves r.val) ∧
        ((∀ m, m ∈ c.mem.moves → Chip.regionMoves r.val m = true → served m) →
          (c.fabric.late.getD r.val false = false → t.chip.fabric.fenceDone = c.fabric.fenceDone.set r.val true) ∧
          (c.fabric.late.getD r.val false = true → t.chip.fabric.late = c.fabric.late.set r.val false ∧
            c.Counted t.chip F.SCHED_CNT_OVR_COURSE r.val))) ∧
      ((∀ m, m ∈ c.mem.moves → Chip.regionMoves r.val m = false) →
        (c.fabric.late.getD r.val false = false →
          exec (.courseFenceDone r) s = .next ⟨s.pending,
            ({ c with fabric := { c.fabric with fenceDone := c.fabric.fenceDone.set r.val true } } : Chip).settle⟩) ∧
        (c.fabric.late.getD r.val false = true →
          ∃ t, exec (.courseFenceDone r) s = .next t ∧ t.pending = s.pending ∧
            t.chip.fabric = { c.fabric with late := c.fabric.late.set r.val false } ∧
            c.Counted t.chip F.SCHED_CNT_OVR_COURSE r.val ∧ t.chip.items = c.items ∧ t.chip.mem = c.mem ∧ c.Core t.chip)))

/-! ## Memories -/

/-- R47, R59, R64, R69, R72, R77, R84, R87, R359: what a read delivers. A slot at a failed site answers with an error
indication, one that is not FULL makes its reader wait, a FULL one delivers its bytes, and a parity failure that the
second read clears is counted for its unit; a bonded step's read of its odd cell is one of the even cell. A granule read
reaches what its issuer may read; a handle read that fails its checks delivers an error, and one that passes delivers the
granule once the resources it crosses serve it. A read with an uncorrectable word delivers the granule with a poison
indication. A clean read changes nothing but what those resources have delivered. Choices of the model: log entries 31,
118 and 122. -/
def Obligations.ReadDelivers : Prop :=
  ∀ (s : State) (w : MortarIn), s.chip.On → w.linkError = false → (∀ m, m ∈ s.chip.mem.moves → m.issuer ≠ w.issuer) →
    let c := s.chip
    let only := fun (r : ReadRes) => exec (.mortarRead w) s = .next ⟨s.pending, c.updMem (fun m => { m with readOut := r })⟩
    let crossed := fun (g : Gran) => match hedgeWho w.issuer with
      | none => []
      | some _ => hedgeUse w.issuer.u [g.sel] 1
    let granule := fun (g : Gran) => c.memDead g.sel = false →
      (w.finding = .clean → c.mem.poisoned g = false →
        (crossed g = [] → only (.data (c.mem.readGran g))) ∧
        (c.mem.hedges = [] → (∀ who, hedgeWho w.issuer = some who → ∀ e, e ∈ crossed g → 0 < c.hedgeHi e.1 who) →
          ∃ t, exec (.mortarRead w) s = .next t ∧ t.pending = s.pending ∧ t.chip.mem.readOut = .data (c.mem.readGran g) ∧
            t.chip = c.updMem (fun m => { m with readOut := t.chip.mem.readOut, hedges := t.chip.mem.hedges }))) ∧
      (∀ k q, w.finding = .double k → g.rowWords[k.val]? = some q → crossed g = [] →
        ∃ t, exec (.mortarRead w) s = .next t ∧ t.pending = s.pending ∧ t.chip.mem.readOut = .poison (c.mem.readGran g) ∧
          smGet false t.chip.mem.poison q = true ∧
          t.chip.mem.block = c.mem.block ∧ t.chip.mem.shared = c.mem.shared ∧ t.chip.mem.ddr = c.mem.ddr ∧
          c.Logged t.chip (uncorrClass g.sel) (c.memLoc g.sel))
    (∀ x p, w.target = .slot x p →
      let y := c.readSlotOf w.issuer x
      (c.unitDead y.u = true → only .error) ∧
      (c.unitDead y.u = false → c.slotFull y = false → only .wait) ∧
      (c.unitDead y.u = false → c.slotFull y = true → p = .good → only (.data (c.slotData y))) ∧
      (∀ n, c.unitDead y.u = false → c.slotFull y = true → p = .firstOnly → cellNo y.u = some n →
        ∃ t, exec (.mortarRead w) s = .next t ∧ t.pending = s.pending ∧ t.chip.mem.readOut = .data (c.slotData y) ∧
          smGet 0 t.chip.mem.parity n = smGet 0 c.mem.parity n + 1 ∧
          (∀ k, k ≠ n → smGet 0 t.chip.mem.parity k = smGet 0 c.mem.parity k) ∧
          t.chip = c.updMem (fun m => { m with readOut := t.chip.mem.readOut, parity := t.chip.mem.parity }))) ∧
    (∀ h, w.target = .handle h →
      let bad := c.checkHandle w.issuer { h with off := h.off / 64 * 64 } false 64
      (readReaches w.issuer.u h.space = false → exec (.mortarRead w) s = .next s) ∧
      (readReaches w.issuer.u h.space = true → bad ≠ none →
        ∃ t, exec (.mortarRead w) s = .next t ∧ t.pending = s.pending ∧ t.chip.mem.readOut = .error ∧
          smGet 0 t.chip.mem.hndFaults (tableNo h.space) = smGet 0 c.mem.hndFaults (tableNo h.space) + 1 ∧
          t.chip.mem.block = c.mem.block ∧ t.chip.mem.shared = c.mem.shared ∧ t.chip.mem.ddr = c.mem.ddr ∧
          c.Logged t.chip 0x12 (c.locOf w.issuer.u ((w.issuer.part.map (·.val)).getD 0))) ∧
      (readReaches w.issuer.u h.space = true → bad = none → granule (c.granOf h h.off))) ∧
    (∀ sp a, w.target = .phys sp a → (c.physPlace sp a).ok = true →
      (readReaches w.issuer.u sp = false → exec (.mortarRead w) s = .next s) ∧
      (readReaches w.issuer.u sp = true → granule (c.physPlace sp a).gran))

/-- R98: a move whose physical ranges overlap is refused before its first read: it writes nothing and counts a
move-overlap fault. R72, R99: so does a failed handle check on any row, as a handle fault. A move that passes is in flight
under a number of its own with its physical addresses, and its requests wait at the resources it uses (R49, R359); a move
of no kind of Table 3-11 does nothing. Choices of the model: log entries 32, 118 and 122. -/
def Obligations.MovesAreChecked : Prop :=
  ∀ (s : State) (d : MoveDesc), s.chip.On →
    let c := s.chip
    let srcBad := c.checkRanges d.issuer d.src false (mvSrcRanges d)
    let dstBad := c.checkRanges d.issuer d.dst true (mvDstRanges d)
    let m : Move := { id := c.mem.nextMove, issuer := d.issuer, src := c.endOf d.src (mvSrcRanges d),
                      dst := c.endOf d.dst (mvDstRanges d), bytes := d.rows * d.rowLen * 64, comp := d.comp, wide16 := d.wide16,
                      zero := d.zero, elems := mvCount d, raiseFull := d.raiseFull }
    let overlap := ∃ g, g ∈ m.src.grans m.bytes ∧ g ∈ m.dst.grans m.bytes
    let refused := fun (code : Nat) (count : Mem → Nat) => ∃ t, exec (.moveIssue d) s = .next t ∧ t.pending = s.pending ∧
      t.chip.mem.moves = c.mem.moves ∧ t.chip.mem.block = c.mem.block ∧ t.chip.mem.shared = c.mem.shared ∧
      t.chip.mem.ddr = c.mem.ddr ∧ t.chip.mem.slotData = c.mem.slotData ∧
      (∀ y, t.chip.slotFull y = true → c.slotFull y = true) ∧ count t.chip.mem = count c.mem + 1 ∧
      c.Logged t.chip code (c.locOf d.issuer.u ((d.issuer.part.map (·.val)).getD 0))
    (c.moveKind d = false → exec (.moveIssue d) s = .next s) ∧
    (c.moveKind d = true →
      (∀ k, srcBad = some k → refused 0x12 (fun x => smGet 0 x.hndFaults k)) ∧
      (∀ k, srcBad = none → dstBad = some k → refused 0x12 (fun x => smGet 0 x.hndFaults k)) ∧
      (srcBad = none → dstBad = none → overlap →
        refused 0x13 (fun x => smGet 0 x.mvFaults (match d.dst with | .handle h => tableNo h.space | .slot _ _ => 32))) ∧
      (srcBad = none → dstBad = none → ¬ overlap →
        ∃ t, exec (.moveIssue d) s = .next t ∧ t.pending = s.pending ∧ t.chip = { c with mem := t.chip.mem } ∧
          t.chip.mem = { c.mem with moves := c.mem.moves ++ [m], nextMove := c.mem.nextMove + 1, hedges := t.chip.mem.hedges } ∧
          (hedgeWho d.issuer = none → t.chip.mem.hedges = c.mem.hedges) ∧
          (∀ who, hedgeWho d.issuer = some who → ∀ e, e ∈ m.uses → ⟨m.id + 1, who, e.2⟩ ∈ (t.chip.hedge e.1).wait)))

/-- R96, R50, R51, R70, R359: a move between memories completes once its hedged resources have served it: no byte outside
the granules it writes changes, and where these are distinct and none of them is read, as they are for rows that do not
overlap, each holds what its source granule held; of compressed pages only the occupied granules are copied (R97). While
a resource cannot serve it, it stays in flight and writes nothing. Choices of the model: log entries 118 and 122. -/
def Obligations.MoveWrites : Prop :=
  ∀ (s : State) (mv : Move) (rows drows : List (List Gran)), s.chip.On → s.chip.mem.moves = [mv] → mv.src = .mem rows →
    mv.dst = .mem drows → s.chip.moveDead mv = false → (∀ g, s.chip.mem.poisoned g = false) →
    let c := s.chip
    let pairs := (rows.zip drows).flatMap (fun e =>
      (c.occupied mv e.1).filterMap (fun k => (e.1[k]?).bind (fun a => (e.2[k]?).map (fun b => (a, b)))))
    let place := fun (g : Gran) => (Nat.min g.sel 37, g.no)
    let servedNow := (c.hedgeServeAll (mv.id + 1) (mv.uses.map (·.1))).2
    ∃ t, exec (.moveComplete ⟨mv.id, []⟩) s = .next t ∧ t.pending = s.pending ∧ t.chip = { c with mem := t.chip.mem } ∧
      (servedNow = false → t.chip.mem = { c.mem with hedges := t.chip.mem.hedges }) ∧
      (servedNow = true → t.chip.mem.moves = [] ∧
        (∀ sel a, sel < 38 → (∀ p, p ∈ pairs → place p.2 ≠ (sel, a / 64)) →
          memRead (t.chip.mem.byNo sel) a = memRead (c.mem.byNo sel) a) ∧
        ((pairs.map (fun p => place p.2)).Nodup → (∀ p q, p ∈ pairs → q ∈ pairs → place p.1 ≠ place q.2) →
          ∀ p k, p ∈ pairs → k < 64 →
            memRead (t.chip.mem.byNo p.2.sel) (p.2.no * 64 + k) = memRead (c.mem.byNo p.1.sel) (p.1.no * 64 + k)))

/-- R85 to R91: a scrub read of a physical row that holds content, itself or as a spare row, goes through correction as
any read: one that finds nothing, in a row without an uncorrectable word, changes nothing; a corrected word is counted
and remembered, and a second correction at the same bit marks the row; an uncorrectable word poisons the word, marks the
row, is counted and logged. A finding in a row that holds no content only counts. The copy of a bank that is done is noted
for the next boundary. Choices of the model: log entries 6 and 31. -/
def Obligations.ScrubAndSpare : Prop :=
  ∀ s : State, s.chip.On →
    let c := s.chip
    (∀ (r : Fin 4) (b : Fin 9) (bank : Fin 16) (k : Nat), k < 1024 →
      let row := ((9 * r.val + b.val) * 16 + bank.val) * 2 ^ 20 + k
      c.rowIn (.block r b bank k) = (if smGet none c.mem.rowSpare row = none then some row else none) ∧
      rowGran row = ⟨9 * r.val + b.val, (k * 16 + bank.val) * 2⟩) ∧
    (∀ loc row, c.rowIn loc = some row →
      let g := rowGran row
      (c.mem.poisoned g = false → exec (.patrolScrubRead loc .clean) s = .next s) ∧
      (∀ k bit q, g.rowWords[k.val]? = some q → g.sel < 36 →
        (c.mem.poisoned g = false →
          ∃ t, exec (.patrolScrubRead loc (.single k bit)) s = .next t ∧ t.pending = s.pending ∧
            c.Counted2 t.chip F.BM_ECC_CORR (g.sel / 9) (g.sel % 9) ∧
            smGet [] t.chip.mem.corrAt q = smGet [] c.mem.corrAt q ++ [bit.val] ∧
            (bit.val ∈ smGet [] c.mem.corrAt q → 1 ≤ smGet 0 t.chip.mem.rowMark g.rowNo) ∧
            (bit.val ∉ smGet [] c.mem.corrAt q → t.chip.mem.rowMark = c.mem.rowMark) ∧
            t.chip.mem.block = c.mem.block ∧ t.chip.mem.poison = c.mem.poison ∧ c.Core t.chip) ∧
        (∃ t, exec (.patrolScrubRead loc (.double k)) s = .next t ∧ t.pending = s.pending ∧
          c.Counted2 t.chip F.BM_ECC_UNCORR (g.sel / 9) (g.sel % 9) ∧ smGet false t.chip.mem.poison q = true ∧
          2 ≤ smGet 0 t.chip.mem.rowMark g.rowNo ∧ c.Logged t.chip 0x10 (c.memLoc g.sel) ∧
          t.chip.mem.block = c.mem.block ∧ c.Core t.chip))) ∧
    (∀ (r : Fin 4) (b : Fin 9) (bank : Fin 16) (row : Nat) k bit, c.rowIn (.block r b bank row) = none →
      exec (.patrolScrubRead (.block r b bank row) .clean) s = .next s ∧
      exec (.patrolScrubRead (.block r b bank row) (.single k bit)) s = .next ⟨s.pending, c.bump F.BM_ECC_CORR r.val b.val⟩ ∧
      exec (.patrolScrubRead (.block r b bank row) (.double k)) s = .next ⟨s.pending, c.bump F.BM_ECC_UNCORR r.val b.val⟩) ∧
    (∀ (bank : Fin 128) (x : Nat), x < 4 → x < c.mem.bankCopied.length →
      c.flag F.SM_SPARE_COPYING x = true → c.get F.SM_SPARE_BANK x = bank.val →
      (∀ y, y < x → ¬ (c.flag F.SM_SPARE_COPYING y = true ∧ c.get F.SM_SPARE_BANK y = bank.val)) →
      exec (.bankCopyDone bank) s = .next ⟨s.pending, c.updMem (fun m => { m with bankCopied := m.bankCopied.set x true })⟩) ∧
    (∀ bank : Fin 128, (∀ y, y < 4 → ¬ (c.flag F.SM_SPARE_COPYING y = true ∧ c.get F.SM_SPARE_BANK y = bank.val)) →
      exec (.bankCopyDone bank) s = .next s)

/-! ## Intake -/

/-- R111 to R114, R116: what an encoder edge does. A level counts once it has been stable for FILT ticks. Both inputs at
once is an encoder fault; a reverse count only subtracts; a forward count adds, and where it reaches ENC_DIV_k one trigger
falls due: issued, deferred when MIN_PERIOD has not passed, or skipped while another is deferred. With the timer source
counts do nothing, and the ticks do. A deferred trigger is issued exactly MIN_PERIOD after the previous one. Choices of
the model: log entries 6, 97 and 126. -/
def Obligations.EncoderTriggers : Prop :=
  ∀ (s : State) (k : Fin 8), s.chip.Up →
    let c := s.chip
    let x := c.transport k.val
    let div : Int := c.get F.ENC_DIV_DIV k.val
    let src := c.flag F.ENC_CFG_SRC k.val
    let inTime := match x.lastTrig with
      | none => true
      | some t => decide (c.nowNs ≥ Stamp.toNs t + c.minPeriodNs k.val)
    let issued := fun (i : Instr) (at_ : Stamp) (acc : Int) => ∃ t, exec i s = .next t ∧ t.pending = s.pending ∧
      (t.chip.transport k.val).lastTrig = some at_ ∧ (t.chip.transport k.val).acc = acc ∧
      (t.chip.transport k.val).deferred = false ∧ (t.chip.transport k.val).trigs = x.trigs + x.after + 1 ∧
      (t.chip.transport k.val).after = x.skipped ∧ (t.chip.transport k.val).skipped = 0 ∧
      t.chip.items = c.items ∧ t.chip.mem = c.mem ∧ c.Core t.chip
    (∀ p q : EncLevel,
      let a := if c.get F.ENC_CFG_FILT k.val ≤ p.stable then p.high else x.a
      let b := if c.get F.ENC_CFG_FILT k.val ≤ q.stable then q.high else x.b
      let d := (quadPos a b + 4 - quadPos x.a x.b) % 4
      let fwd := if c.flag F.ENC_CFG_INVERT k.val then 3 else 1
      let acc := wrap34 (x.acc + 65536)
      let moved := fun (f : Transport → Transport) => c.modTransport k.val (fun x => f { x with a := a, b := b })
      let only := fun (f : Transport → Transport) => exec (.encoderEdge k p q) s = .next ⟨s.pending, (moved f).settle⟩
      (d = 0 → only id) ∧
      (d = 2 → exec (.encoderEdge k p q) s = .next ⟨s.pending, ((moved id).bump F.ENC_STAT_ENC_FAULT k.val).settle⟩) ∧
      (d ≠ 0 → d ≠ 2 → src = true → only id) ∧
      (d ≠ 0 → d ≠ 2 → src = false → d ≠ fwd → only (fun x => { x with acc := wrap34 (x.acc - 65536) })) ∧
      (d = fwd → src = false → acc < div → only (fun x => { x with acc := acc })) ∧
      (d = fwd → src = false → div ≤ acc →
        (x.deferred = false → inTime = true → issued (.encoderEdge k p q) c.clock.now (wrap34 (acc - div))) ∧
        (x.deferred = false → inTime = false → ∃ t, exec (.encoderEdge k p q) s = .next t ∧ t.pending = s.pending ∧
          (t.chip.transport k.val).deferred = true ∧ (t.chip.transport k.val).lastTrig = x.lastTrig ∧
          (t.chip.transport k.val).acc = wrap34 (acc - div) ∧ c.Counted t.chip F.ENC_STAT_DEFERRED k.val ∧
          t.chip.streams = c.streams ∧ t.chip.items = c.items ∧ t.chip.mem = c.mem ∧ c.Core t.chip) ∧
        (x.deferred = true → ∃ t, exec (.encoderEdge k p q) s = .next t ∧ t.pending = s.pending ∧
          (t.chip.transport k.val).lastTrig = x.lastTrig ∧ (t.chip.transport k.val).acc = wrap34 (acc - div) ∧
          (t.chip.transport k.val).deferred = true ∧ (t.chip.transport k.val).skipped = x.skipped + 1 ∧
          t.chip.streams = c.streams ∧ t.chip.items = c.items ∧ t.chip.mem = c.mem ∧ c.Core t.chip))) ∧
    (src = false → exec (.timerTrigger k) s = .next ⟨s.pending, c.settle⟩) ∧
    (src = true → x.deferred = false → inTime = true →
      issued (.timerTrigger k) c.clock.now (wrap34 (x.acc + 65536 * (ceilDiv (div - x.acc).toNat 65536 : Nat) - div))) ∧
    (x.deferred = false → exec (.deferredTrigger k) s = .next ⟨s.pending, c.settle⟩) ∧
    (∀ p, x.deferred = true → x.lastTrig = some p →
      issued (.deferredTrigger k) (nsStamp (Stamp.toNs p + c.minPeriodNs k.val)) x.acc)

/-- R121, R123, R140, Table 4-4: a drive event drives its pin, and a lit colour widens the exposure of its line, whose
midpoint lies halfway between the first turn-on and the last turn-off; a stream that takes no triggers drives nothing.
The triggers of a reference capture are its own: SP follows them, and the LEDs light only for the lines of the white
reference. Choices of the model: log entries 6 and 97. -/
def Obligations.DriveEventsExpose : Prop :=
  ∀ (s : State) (n : Fin 16), s.chip.Up →
    let c := s.chip
    let y := c.stream n.val
    let quiet := fun (e : Drive) => exec (.driveEvent n e) s = .next ⟨s.pending, c.settle⟩
    let does := fun (e : Drive) (f : Stream → Stream) => exec (.driveEvent n e) s = .next ⟨s.pending, (c.modStream n.val f).settle⟩
    (y.capturing = false → c.takesTriggers n.val = false → ∀ e, quiet e) ∧
    (c.takesTriggers n.val = true →
      does .spRise (fun x => { x with sp := true }) ∧ does .spFall (fun x => { x with sp := false, counting := true }) ∧
      (∀ col : Fin 3,
        let on := c.afterTrigger n.val (c.get F.SNS_EXP_START n.val col.val)
        let off := c.afterTrigger n.val (c.get F.SNS_EXP_START n.val col.val + c.get F.SNS_EXP_ON n.val col.val)
        (c.lights n.val col.val = true →
          does (.ledOn col) (fun x => { x with leds := x.leds.set col.val true, ledOn := some (earliest x.ledOn on) }) ∧
          does (.ledOff col) (fun x => { x with leds := x.leds.set col.val false, ledOff := some (latest x.ledOff off) })) ∧
        (c.lights n.val col.val = false →
          quiet (.ledOn col) ∧ does (.ledOff col) (fun x => { x with leds := x.leds.set col.val false })))) ∧
    (y.capturing = true →
      does .spRise (fun x => { x with sp := true, capTrig := x.capTrig + 1 }) ∧ does .spFall (fun x => { x with sp := false }) ∧
      (∀ col : Fin 3,
        let dark := (16 + 16 * 2 ^ c.get F.SHD_CFG_REF_LINES n.val) * (if c.seqMode n.val then 3 else 1)
        let lit := dark < y.capTrig ∧ 0 < c.get F.SNS_EXP_ON n.val col.val ∧
          (c.seqMode n.val = true → (y.capTrig + 2) % 3 = col.val)
        (lit → does (.ledOn col) (fun x => { x with leds := x.leds.set col.val true })) ∧ (¬ lit → quiet (.ledOn col)) ∧
        does (.ledOff col) (fun x => { x with leds := x.leds.set col.val false }))) ∧
    (∀ (x : Stream) (a b : Stamp), x.exposing = true → x.ledOn = some a → x.ledOff = some b →
      x.midpoint = some (nsStamp ((Stamp.toNs a + Stamp.toNs b) / 2)))

/-- R104 to R107, R110: a complete line of a stream that waits for its lock enters the history with its midpoint; one
received in error is counted and the previous line stands in for it; the fourth good readout in succession reaches
sync. While a restart closes, and on a stream that takes no triggers, a readout does nothing. Choices of the model:
log entries 6, 69, 99 and 121. -/
def Obligations.ReadoutsMakeLines : Prop :=
  ∀ (s : State) (n : Fin 16) (w : Readout), s.chip.Up →
    let c := s.chip
    let x := c.stream n.val
    let r := c.received n.val w
    let idle := exec (.readoutComplete n w) s = .next ⟨s.pending, c.settle⟩
    (c.boot.closing.isSome = true → idle) ∧ (c.boot.closing = none → c.takesTriggers n.val = false → idle) ∧
    (c.boot.closing = none → c.takesTriggers n.val = true → c.get F.SNS_STATE_STATE n.val = 2 →
      c.get F.SNS_CFG_GEN n.val = 1 → c.seqMode n.val = false → x.page = none → w.crossingFull = false →
      ∀ k m sk rest, x.mids = ⟨k, some m, sk, true⟩ :: rest → rest.takeWhile (·.skipped) = [] →
        let line := fun (l : List Nat) (t : State) => exec (.readoutComplete n w) s = .next t ∧ t.pending = s.pending ∧
          (t.chip.stream n.val).hist = ((l, m) :: x.hist).take 96 ∧ (t.chip.stream n.val).mids = rest ∧
          (∀ j, j ≠ n.val → t.chip.stream j = c.stream j) ∧ t.chip.items = c.items ∧ t.chip.mem = c.mem ∧ c.Core t.chip
        let words := (halfWords (if x.counting then w.halves else [])).drop (c.get F.SNS_RX_FIRST_WORD n.val)
        (c.get F.SNS_IF_SAMPLES n.val ≤ words.length → ∃ t, line (words.take (c.get F.SNS_IF_SAMPLES n.val)) t ∧
          t.chip.get F.SNS_CNT0_LINE_SUB n.val = c.get F.SNS_CNT0_LINE_SUB n.val) ∧
        (words.length < c.get F.SNS_IF_SAMPLES n.val → ∃ t, line (x.hist.headD ([], m)).1 t ∧
          c.Counted t.chip F.SNS_CNT0_LINE_SUB n.val)) ∧
    (c.boot.closing = none → c.takesTriggers n.val = true → c.get F.SNS_STATE_STATE n.val = 1 →
      c.get F.SNS_CFG_GEN n.val = 2 → r.framing = false → w.crossingFull = false → x.good = 3 → x.afeDone = true →
      ∃ t, exec (.readoutComplete n w) s = .next t ∧ t.pending = s.pending ∧ t.chip.flag F.SNS_STATE_SYNC n.val = true ∧
        t.chip.get F.SNS_STATE_STATE n.val = (if c.flag F.SNS_CFG_LIVE n.val = true ∧ c.locked = false then 2 else 3) ∧
        t.chip.items = c.items ∧ t.chip.mem = c.mem ∧ c.Core t.chip)

/-- R157 to R162, R118: a band of a page past its end, once the chip-unit link has served it, takes the lowest free ring
buffer and its bytes are written there; a batch band that finds none is counted and goes to retention only; a live one
ends its item. A retention copy makes the band retained. A transport that stops ends the page in capture, whose lines
are kept while its item is. Choices of the model: log entries 5, 6, 100, 117 and 122. -/
def Obligations.BandsAndStops : Prop :=
  ∀ (s : State) (n : Fin 16), s.chip.Up →
    let c := s.chip
    let x := c.stream n.val
    (∀ (cap : Capture) (num : Nat) (i : Item), x.page = none → x.tail = [cap] → cap.item = some num → i.num = num →
      i.origin = n.val → c.items.list = [i] → i.ended = none → cap.past = true → cap.skew.isSome = true →
      128 * cap.banded < cap.lines.length →
      let b := cap.banded
      let band := fun buf => Band.fresh b (Nat.min 128 (cap.lines.length - 128 * b)) c.clock.now buf
      let data := c.bandOf n.val cap i b
      let free := (List.range (c.ringCount n.val)).find? (fun k => !(x.ringUsed.any (fun e => e.2 = k)))
      let served := (c.hedgeOnce 16 [(4, ceilDiv (c.bandSize n.val) 64)]).2
      (served = false → exec (.bandWritten n b) s = .next ⟨s.pending, c.settle⟩) ∧
      (∀ k, served = true → free = some k → c.checkHandle ⟨.chip, none⟩ (c.ringRef n.val k) true data.length = none →
        ∃ t, exec (.bandWritten n b) s = .next t ∧ t.pending = s.pending ∧
          t.chip.items.list = [{ i with bands := i.bands ++ [band (some k)] }] ∧
          (t.chip.stream n.val).ringUsed = x.ringUsed ++ [(num, k)] ∧
          t.chip.mem = { (c.writeHandle (c.ringRef n.val k) data).mem with hedges := t.chip.mem.hedges } ∧ c.Core t.chip) ∧
      (served = true → free = none → i.live = false → ∃ t, exec (.bandWritten n b) s = .next t ∧ t.pending = s.pending ∧
        c.Counted t.chip F.COND_CNT_RING_FULL n.val ∧ t.chip.items.list = [{ i with bands := i.bands ++ [band none] }] ∧
        (t.chip.stream n.val).ringUsed = x.ringUsed ∧ c.Core t.chip) ∧
      (served = true → free = none → i.live = true → ∃ t, exec (.bandWritten n b) s = .next t ∧ t.pending = s.pending ∧
        c.Counted t.chip F.COND_CNT_RING_FULL n.val ∧
        (∀ j, j ∈ t.chip.items.list → j.ended = some ⟨2, txt "no-band-buffer"⟩) ∧ t.chip.items.ends = c.items.ends.modify 2 (· + 1) ∧
        c.Core t.chip)) ∧
    (∀ (o : Fin 48) (i : Item) (b : Band) (k slot : Nat), c.items.list = [i] → i.origin = o.val → i.bands = [b] →
      b.buffer = some k → b.released = false → b.dropped = false → b.retained = false →
      (c.stream o.val).retained = [(i.num, slot)] →
      let src := c.ringRef o.val k
      let dst := c.retRef o.val slot b.idx
      c.checkHandle ⟨.chip, none⟩ src false (c.bandSize o.val) = none →
      c.checkHandle ⟨.chip, none⟩ dst true (c.bandSize o.val) = none →
      ∃ t, exec (.retentionCopyDone o i.num b.idx) s = .next t ∧ t.pending = s.pending ∧
        t.chip.items.list = [{ i with bands := [{ b with retained := true }] }] ∧ (∀ j, t.chip.stream j = c.stream j) ∧
        t.chip.mem = (c.carry (c.granPairs src dst (c.bandSize o.val))).1.mem ∧ c.Core t.chip) ∧
    (∀ k : Fin 8, (∀ j, j = 2 * k.val ∨ j = 2 * k.val + 1 → (c.stream j).page = none) →
      exec (.transportStop k) s = .next ⟨s.pending, c.settle⟩) ∧
    (∀ (k : Fin 8) (cap : Capture) (i : Item), n.val / 2 = k.val → (c.stream (if n.val % 2 = 0 then n.val + 1 else n.val - 1)).page = none →
      x.page = some cap → cap.item = some i.num → c.items.list = [i] → i.ended = none →
      ∃ t, exec (.transportStop k) s = .next t ∧ t.pending = s.pending ∧ (t.chip.stream n.val).page = none ∧
        (t.chip.stream n.val).closed = true ∧
        (∀ j, j ∈ t.chip.items.list → j.ended = some ⟨3, txt "transport-stop"⟩ ∧
          (t.chip.stream n.val).kept = x.kept ++ [cap]) ∧
        t.chip.items.ends = c.items.ends.modify 3 (· + 1) ∧ c.Core t.chip)

/-- R125, R103, R24, R133, R140 to R143: the end of an AFE configuration leads to ENABLED or WAIT_LOCK once in sync, and
to FAULT when a frame marked for verification does not read back as written; a sync that is not reached in time is an
AFE fault. Feed hold that has no reason left is released when its shortest time has passed, and held on otherwise. A
reference capture whose lines are complete, 16 discarded before those of either reference, gives the next set, or fails
the defect test and leaves the old one. Choices of the model: log entries 5 and 6. -/
def Obligations.StreamStates : Prop :=
  ∀ (s : State) (n : Fin 16), s.chip.Up →
    let c := s.chip
    let st := c.get F.SNS_STATE_STATE n.val
    let afe := ((c.image.afe.find? (fun e => e.1 = n.val)).map (·.2)).getD []
    let marked := (afe.filter (·.2)).map (·.1)
    let faulted := fun (i : Instr) => ∃ t, exec i s = .next t ∧ t.pending = s.pending ∧
      t.chip.get F.SNS_STATE_STATE n.val = 5 ∧ t.chip.flag F.SNS_STATE_AFE_FAULT n.val = true ∧
      c.Logged t.chip 0x41 Loc.none ∧ t.chip.items = c.items ∧ t.chip.mem = c.mem ∧ c.Core t.chip
    (∀ reads, st ≠ 1 → exec (.afeConfigDone n reads) s = .next ⟨s.pending, c.settle⟩) ∧
    (∀ reads, st = 1 → reads ≠ marked → faulted (.afeConfigDone n reads)) ∧
    (st = 1 → c.get F.SNS_CFG_GEN n.val = 1 ∨ c.flag F.SNS_STATE_SYNC n.val = true →
      ∃ t, exec (.afeConfigDone n marked) s = .next t ∧ t.pending = s.pending ∧
        t.chip.get F.SNS_STATE_STATE n.val = (if c.flag F.SNS_CFG_LIVE n.val = true ∧ c.locked = false then 2 else 3) ∧
        (t.chip.stream n.val).afe = afe.map (·.1) ∧
        t.chip.items = c.items ∧ t.chip.mem = c.mem ∧ c.Core t.chip) ∧
    (st = 1 → 2 ≤ c.get F.SNS_CFG_GEN n.val → c.flag F.SNS_STATE_SYNC n.val = false → faulted (.afeSyncTimeout n)) ∧
    (st ≠ 1 ∨ c.flag F.SNS_STATE_SYNC n.val = true → exec (.afeSyncTimeout n) s = .next ⟨s.pending, c.settle⟩) ∧
    (∀ k : Fin 8, ∃ t, exec (.holdMinExpire k) s = .next t ∧ t.pending = s.pending ∧
      (c.flag F.HOLD_STAT_HOLD k.val = true →
        t.chip.flag F.HOLD_STAT_HOLD k.val = (c.holdReasons k.val).any id) ∧
      t.chip.items = c.items ∧ t.chip.mem = c.mem ∧ c.Core t.chip) ∧
    (∀ w : CaptureIn,
      let lines := 16 * 2 ^ c.get F.SHD_CFG_REF_LINES n.val
      let whole := (c.stream n.val).capturing = true ∧ w.black.length = 16 + lines ∧ w.white.length = 16 + lines
      let refs := c.deriveRefs n.val lines ⟨w.black.drop 16, w.white.drop 16⟩
      (¬ whole → exec (.captureReferences n w) s = .next ⟨s.pending, c.settle⟩) ∧
      (whole → ∃ t, exec (.captureReferences n w) s = .next t ∧ t.pending = s.pending ∧
        (t.chip.stream n.val).capturing = false ∧ (t.chip.stream n.val).refs = (c.stream n.val).refs ∧
        (t.chip.stream n.val).nextRefs = (if c.defectRun n.val refs then (c.stream n.val).nextRefs else some refs) ∧
        (∀ h, c.opOfKind 2 = some h → t.chip.get F.LONG_STAT_STATE h = (if c.defectRun n.val refs then 3 else 2)) ∧
        t.chip.items = c.items ∧ t.chip.mem = c.mem))

/-! ## Records, the key-value cache, adaptation -/

/-- R169 to R172, R177, R178, R191, R192, R30: image bytes of an admitted record are written to its reassembly space, and
its last byte completes it with a time-stamp and a deadline; bytes that start no container are refused, counted, and the
rest of the submission is discarded; a record whose bytes stop coming is cancelled. A complete record is decoded once, in
a slot of its share, as overflow work when it costs more than its envelope. Choices of the model: log entries 5, 6, 69,
74, 103 and 123. -/
def Obligations.RecordsArrive : Prop :=
  ∀ (s : State) (x : Fin 32), s.chip.Up →
    let c := s.chip
    let y := c.subm x.val
    let open_ := c.boot.closing = none ∧ (c.sess (64 + x.val)).open_ = true ∧ (c.sess (64 + x.val)).inbox = []
    (∀ bytes last, c.boot.closing.isSome = true ∨ (c.sess (64 + x.val)).open_ = false →
      exec (.submitRecord x bytes last) s = .next ⟨s.pending, c.settle⟩) ∧
    (∀ (bytes : List Byte) (i : Item), open_ → y.skipAll = false → y.skip = 0 → y.item = some i.num → c.items.list = [i] →
      bytes ≠ [] → y.buf = [] →
      (bytes.length < y.need → ∃ t, exec (.submitRecord x bytes false) s = .next t ∧ t.pending = s.pending ∧
        t.chip.items.list = [{ i with got := i.got + bytes.length }] ∧ (t.chip.subm x.val).need = y.need - bytes.length ∧
        t.chip.mem = c.mem.writeAt (c.recPlace i i.got) bytes ∧ c.Core t.chip) ∧
      (bytes.length = y.need → y.version = 3 → ∃ t, exec (.submitRecord x bytes false) s = .next t ∧ t.pending = s.pending ∧
        t.chip.items.list = [{ i with
          got := i.got + bytes.length, complete := true, stamp := c.clock.now, arrived := c.slotNo
          deadline := if c.flag F.SUB_CFG_LIVE x.val then
            some (nsStamp (c.nowNs + c.get F.SUB_CFG_BOUND_MS x.val * 1000000)) else none }] ∧
        (t.chip.subm x.val).item = none ∧ t.chip.mem = c.mem.writeAt (c.recPlace i i.got) bytes ∧ c.Core t.chip)) ∧
    (∀ (bytes : List Byte) (e : HdrErr), open_ → y.skipAll = false → y.skip = 0 → y.need = 0 → y.item = none → y.buf = [] →
      y.version = 0 → bytes ≠ [] → containerVersion bytes = .bad e → c.subOff x.val = false → c.items.list = [] →
      ∃ t, exec (.submitRecord x bytes false) s = .next t ∧ t.pending = s.pending ∧
        c.Counted t.chip F.SUB_CNT_REFUSED x.val ∧ (t.chip.subm x.val).skipAll = true ∧
        t.chip.items.created = c.items.created + 1 ∧ t.chip.items.ends = c.items.ends.modify 5 (· + 1) ∧
        t.chip.items.next = (c.items.next + 1) % 2 ^ 32 ∧ t.chip.mem = c.mem ∧ c.Core t.chip) ∧
    (y.item = none → exec (.submitTimeout x) s = .next ⟨s.pending, c.settle⟩) ∧
    (∀ i : Item, y.item = some i.num → c.items.list = [i] → i.ended = none →
      ∃ t, exec (.submitTimeout x) s = .next t ∧ t.pending = s.pending ∧ c.Counted t.chip F.SUB_CNT_CANCELLED x.val ∧
        (∀ j, j ∈ t.chip.items.list → j.ended = some ⟨4, txt "submit-timeout"⟩) ∧
        t.chip.items.ends = c.items.ends.modify 4 (· + 1) ∧ (t.chip.subm x.val).item = none ∧ c.Core t.chip) ∧
    (∀ i : Item, c.items.list = [i] →
      (i.complete = false ∨ i.decoding = true ∨ i.ended.isSome = true ∨ c.decodeDue i = false →
        exec (.decodeStart i.num) s = .next ⟨s.pending, c.settle⟩) ∧
      (i.complete = true → i.decoding = false → i.ended = none → c.decodeDue i = true →
        ∃ t, exec (.decodeStart i.num) s = .next t ∧ t.pending = s.pending ∧ t.chip.mem = c.mem ∧ c.Core t.chip ∧
          let beyond := decide (c.itemCost8 i > 8 * c.get F.SUB_ENV_ENV_STEPS (i.origin - 16)) && !i.overflow &&
            !c.flag F.PART_CFG_KIND i.part
          t.chip.items.list = [{ i with
            decoding := true, overflow := i.overflow || beyond, flags := if beyond then i.flags ||| 4096 else i.flags }] ∧
          (beyond = true → i.part < 16 → c.Counted t.chip F.PART_CNT_OVF_ITEMS i.part)))

/-- R264, R266, R268, R270, R272, R278, R280, R68: an edit whose walkers still hold its other copy waits, and is counted
once; one whose issuer has writes in flight waits for its publication fence; an append that finds a free set publishes
one more entry under the next epoch and discards what walkers have read ahead, and one that finds none leaves the
sequence as it was, starved; an attach at a page boundary shares the anchor's sets; a release keeps the first entries; a
clear frees a slot that nothing owns; training's edits work on the set's own slot. No edit of these kinds writes a page.
Choices of the model: log entries 6 and 96. -/
def Obligations.KvEditsPublish : Prop :=
  ∀ (s : State) (i : Item) (q : Nat), s.chip.Up → s.chip.item i.num = some i → i.kvSlot = some q → s.chip.kv.waiting = [] →
    let c := s.chip
    let old := c.kvSlot q
    let c0 := c.updKv (fun k => { k with waiting := [], counted := false })
    (∀ e : KvEdit, c.itemMoves = true →
      exec (.kvTableEdit e) s = .next ⟨s.pending, (c.updKv (fun k => { k with waiting := [e] })).settle⟩) ∧
    (∀ e : KvEdit, c.itemMoves = false → c.kvEditSlot e = some q → c.kvMustWait q = true → c.kv.counted = false →
      exec (.kvTableEdit e) s = .next ⟨s.pending,
        (((c.updKv (fun k => { k with waiting := [e] })).bump F.KV_CNT1_EDIT_WAIT).updKv (fun k => { k with counted := true })).settle⟩) ∧
    (c.itemMoves = false → c.kvMustWait q = false →
      let others := fun (t : State) => (∀ p, p ≠ q → t.chip.kvSlot p = c.kvSlot p) ∧ t.chip.items = c.items ∧ c.Core t.chip
      let starves := fun (e : KvEdit) => ∃ t, exec (.kvTableEdit e) s = .next t ∧ t.pending = s.pending ∧
        (t.chip.kvSlot q).starved = true ∧ (t.chip.kvSlot q).entries = old.entries ∧ t.chip.kv.epoch = c.kv.epoch ∧
        t.chip.mem = c.mem ∧ others t
      let publishes := fun (e : KvEdit) (l : List (BitVec 32)) => ∃ t, exec (.kvTableEdit e) s = .next t ∧ t.pending = s.pending ∧
        (t.chip.kvSlot q).entries = l ∧ t.chip.kv.epoch = c.kv.epoch + 1 ∧ t.chip.kv.bufs = [] ∧ t.chip.kv.waiting = [] ∧
        t.chip.mem = c.mem ∧ others t
      (∀ ov, old.entries.length < 256 →
        (c0.kvAlloc (c0.lcWork old.owner ov) old.layers = none → starves (.append i.num ov)) ∧
        (∀ c1 k, c0.kvAlloc (c0.lcWork old.owner ov) old.layers = some (c1, k) →
          publishes (.append i.num ov) (old.entries ++ [kvEntry k.ovf k.base]))) ∧
      (∀ ov, 256 ≤ old.entries.length → exec (.kvTableEdit (.append i.num ov)) s = .next ⟨s.pending, c0.settle⟩) ∧
      (∀ a pos, (c.kvSlot a).anchor = true → old.entries = [] → pos % 16 = 0 →
        publishes (.attach i.num a pos) ((c.kvSlot a).entries.take (pos / 16))) ∧
      (∀ j, publishes (.release i.num j) (old.entries.take j)) ∧
      (∀ k : Fin 8, (c.adSet k.val).kvSlot = some q → old.entries.length < 256 →
        (c0.kvAlloc false old.layers = none → starves (.train k)) ∧
        (∀ c1 x, c0.kvAlloc false old.layers = some (c1, x) → publishes (.train k) (old.entries ++ [kvEntry x.ovf x.base]))) ∧
      (∀ k : Fin 8, (c.adSet k.val).kvSlot = some q → ∃ t, exec (.kvTableEdit (.trainEnd k)) s = .next t ∧
        t.pending = s.pending ∧ (t.chip.adSet k.val).kvSlot = none ∧ (t.chip.kvSlot q).used = false ∧
        (t.chip.kvSlot q).entries = [] ∧ t.chip.mem = c.mem ∧ others t)) ∧
    (∀ p, c.itemMoves = false → c.kvMustWait p = false →
      (∀ k, (c.kvSlot p).used = true → exec (.kvTableEdit (.anchor p k)) s = .next ⟨s.pending, c0.settle⟩) ∧
      ((c.kvSlot p).used = true → (∀ j, j ∈ c.items.list → j.kvSlot ≠ some p) → (∀ e, e ∈ c.adapt.sets → e.2.kvSlot ≠ some p) →
        ∃ t, exec (.kvTableEdit (.clear p)) s = .next t ∧ t.pending = s.pending ∧ (t.chip.kvSlot p).used = false ∧
          (t.chip.kvSlot p).anchor = false ∧ (t.chip.kvSlot p).entries = [] ∧ t.chip.kv.epoch = c.kv.epoch + 1 ∧
          (∀ j, j ≠ p → t.chip.kvSlot j = c.kvSlot j) ∧ t.chip.mem = c.mem ∧ t.chip.items = c.items ∧ c.Core t.chip))

/-- R325 to R333, R323, R350: a correction is answered with its code, counted, and when it is accepted its example enters
its set; a session without the role does nothing. An update that is due, in a partition that is ENABLED, takes the oldest
examples; one that fails gives back those that have failed once and discards the others; one that ends advances the set;
one that a disable has cancelled ends without effect.
A candidate is written into the copy that nothing holds, to be published at the next boundary; CUR stays until then.
Choices of the model: log entries 6, 84, 85 and 86. -/
def Obligations.AdaptationLearns : Prop :=
  ∀ s : State, s.chip.Up →
    let c := s.chip
    (∀ (x : Fin 64) (w : CorrIn), (c.sess x.val).open_ = false ∨ bitOf (c.sess x.val).roles 1 = false →
      exec (.correction x w) s = .next ⟨s.pending, c.settle⟩) ∧
    (∀ (x : Fin 64) (w : CorrIn), (c.sess x.val).open_ = true → bitOf (c.sess x.val).roles 1 = true →
      ∃ t more, exec (.correction x w) s = .next t ∧ t.pending = s.pending ∧
        t.chip.formed = c.formed ++ [⟨x.val, 63, 0, 7, false, (recordMap [(0, .uint 7), (1, .uint w.item),
          (40, .uint (b2n w.line)), (41, .uint w.index), (43, .uint (c.corrCheck w).1)]).enc, none⟩] ++ more ∧
        ((c.corrCheck w).2 = none → c.Counted t.chip F.ADAPT_CNT0_REFUSED ∧ t.chip.adapt = c.adapt) ∧
        (∀ set e, (c.corrCheck w).2 = some (set, e) → c.Counted t.chip F.ADAPT_CNT0_ACCEPTED ∧
          (t.chip.adSet set).accepted = (c.adSet set).accepted + 1 ∧
          (c.get F.ADAPT_CTRL_HOLD = 0 → (t.chip.adSet set).queue = (c.adSet set).queue ++ [e])) ∧
        t.chip.items = c.items ∧ t.chip.mem = c.mem ∧ c.Core t.chip) ∧
    (∀ set : Fin 8,
      let a := c.adSet set.val
      let on := c.get F.ADAPT_CTRL_STATE = 3 ∧ c.get F.PART_CFG_STATE (c.get F.ADAPT_CTRL_PART) = 3
      let n := c.get F.ADAPT_CTRL_BATCH + 1
      let due := n ≤ a.queue.length ∨ ∃ e rest, a.queue = e :: rest ∧
        e.at_ + actsAs (c.get F.ADAPT_CTRL_FLUSH_S) 1 * 1000000000 ≤ c.upNs
      (¬ on ∨ a.running.isSome = true ∨ ¬ due → exec (.adaptUpdateStart set) s = .next ⟨s.pending, c.settle⟩) ∧
      (on → a.running = none → due →
        exec (.adaptUpdateStart set) s = .next ⟨s.pending, (c.modSet set.val (fun a =>
          { a with running := some (a.queue.take n), cancel := false, queue := a.queue.drop n })).settle⟩) ∧
      (∀ w, w.set = set → a.running = none ∨ a.cancel = true → exec (.adaptUpdateEnd w) s = .next ⟨s.pending, c.settle⟩) ∧
      (∀ w l cfg, w.set = set → a.running = some l → a.cancel = false → c.image.adapt[set.val]? = some cfg →
        a.kvSlot = none ∨ c.kv.waiting = [] →
        let gateDue := decide (a.sinceGate + 1 ≥ actsAs (c.get F.ADAPT_CTRL_PUB_EVERY) 1)
        let ends := fun (P : AdSet → Chip → Prop) => ∃ t, exec (.adaptUpdateEnd w) s = .next t ∧ t.pending = s.pending ∧
          (t.chip.adSet set.val).running = none ∧ P (t.chip.adSet set.val) t.chip ∧ t.chip.mem = c.mem ∧
          t.chip.items = c.items ∧ c.Core t.chip
        (w.failed = true → ends (fun b d => c.Counted d F.ADAPT_CNT1_STEP_FAIL ∧
          b.queue = ((l.filter (fun e => e.tries = 0)).map (fun e => { e with tries := e.tries + 1 })) ++ a.queue ∧
          b.train = a.train)) ∧
        (w.failed = false → applyUpdate cfg a.train (a.updates + 1) (w.grads.take l.length) = none →
          ends (fun b _ => b.train = a.train ∧ b.updates = a.updates ∧ b.queue = a.queue)) ∧
        (∀ tr g, w.failed = false → applyUpdate cfg a.train (a.updates + 1) (w.grads.take l.length) = some (tr, g) →
          ends (fun b _ => b.train = tr ∧ b.prev = a.train ∧ b.updates = a.updates + 1 ∧ b.copy0 = a.copy0 ∧
            b.copy1 = a.copy1 ∧ (gateDue = false → b.cand = a.cand)))) ∧
      (a.cand = none → exec (.adaptPublish set) s = .next ⟨s.pending, c.settle⟩) ∧
      (∀ v, a.cand = some v → a.flip = false →
        let x := 1 - c.get F.ADAPT_SET_CUR set.val
        (c.copyFree set.val x = true → ∃ t, exec (.adaptPublish set) s = .next t ∧ t.pending = s.pending ∧
          (t.chip.adSet set.val).cand = none ∧ (t.chip.adSet set.val).flip = true ∧
          (if x = 0 then (t.chip.adSet set.val).copy0 = v ∧ (t.chip.adSet set.val).copy1 = a.copy1
           else (t.chip.adSet set.val).copy1 = v ∧ (t.chip.adSet set.val).copy0 = a.copy0) ∧
          t.chip.get F.ADAPT_SET_CUR set.val = c.get F.ADAPT_SET_CUR set.val ∧ t.chip.mem = c.mem ∧ t.chip.items = c.items ∧
          c.Core t.chip) ∧
        (c.copyFree set.val x = false → a.waited = false → ∃ t, exec (.adaptPublish set) s = .next t ∧ t.pending = s.pending ∧
          c.Counted t.chip F.ADAPT_CNT1_PUB_WAIT ∧ (t.chip.adSet set.val).cand = some v ∧
          (t.chip.adSet set.val).copy0 = a.copy0 ∧ (t.chip.adSet set.val).copy1 = a.copy1 ∧ t.chip.mem = c.mem ∧
          c.Core t.chip)))

/-! ## Partitions -/

/-- R367 to R374: a partition that admits work and finds its blocks lent, or from which a switch takes blocks, is
pre-empted: the pre-emption is held with its victim and its time, a step that runs on the blocks is asked to yield, one
that waits on an input gives up at once, and an idle block has stopped. Lending that began in this course is undone. With
every block stopped the spill ends the loan, and its handles wait in DDR4 for a block lent again. Choices of the model:
log entries 6 and 91. -/
def Obligations.PreemptionTakesBlocks : Prop :=
  ∀ (s : State) (p : Fin 16), s.chip.Up →
    let c := s.chip
    let back := c.flag F.PART_CFG_LENT p.val && !c.flag F.PART_CFG_KIND p.val &&
      c.inFlight.any (fun i => decide (i.part = p.val) && (decide (i.origin < 16) || i.live))
    let give := c.switchTakes p.val
    let busy := (smGet none c.sched.preempt p.val).isSome
    let early := c.flag F.PART_CFG_LENT p.val = true ∧ c.flag F.PART_CFG_KIND p.val = false ∧
      smGet 0 c.sched.lendAt p.val = c.courseK + 1
    ((back || give) = false ∨ busy = true → exec (.preemption p) s = .next ⟨s.pending, c.settle⟩) ∧
    ((back || give) = true → busy = false → ¬ early →
      ∃ t x, exec (.preemption p) s = .next t ∧ t.pending = s.pending ∧
        smGet none t.chip.sched.preempt p.val = some x ∧ x.start = c.upNs ∧ x.spilled = false ∧
        x.victim = (if c.flag F.PART_CFG_KIND p.val then p.val else c.get F.PART_CFG_BORROWER p.val) ∧
        c.Counted t.chip F.PART_CNT_PREEMPT p.val ∧
        (∀ u run, u ∈ c.partUnits p.val → c.runOf u = some run →
          t.chip.runOf u = if run.desc.ext then none else some { run with yield := true }) ∧
        (∀ u, u ∈ c.partUnits p.val → c.runOf u = none → u ∈ x.stopped) ∧ c.Core t.chip) ∧
    (back = true → busy = false → early → c.get F.PART_CFG_BORROWER p.val ≠ p.val →
      ∃ t, exec (.preemption p) s = .next t ∧ t.pending = s.pending ∧ t.chip.flag F.PART_CFG_LENT p.val = false ∧
        t.chip.sched.preempt = c.sched.preempt ∧ t.chip.sched.running = c.sched.running ∧ c.mem.SameData t.chip.mem ∧
        t.chip.items = c.items ∧ c.Core t.chip) ∧
    (busy = false → exec (.spillComplete p) s = .next ⟨s.pending, c.settle⟩) ∧
    (∀ x, smGet none c.sched.preempt p.val = some x → x.spilled = false →
      ((∃ u, u ∈ c.partUnits p.val ∧ u ∉ x.stopped) → exec (.spillComplete p) s = .next ⟨s.pending, c.settle⟩) ∧
      ((∀ u, u ∈ c.partUnits p.val → u ∈ x.stopped) → c.get F.PART_CFG_BORROWER p.val ≠ p.val →
        ∃ t, exec (.spillComplete p) s = .next t ∧ t.pending = s.pending ∧
          smGet none t.chip.sched.preempt p.val = some { x with spilled := true } ∧
          (c.get F.PART_CFG_STATE x.victim = 3 →
            smGet [] t.chip.sched.spillSet x.victim = smGet [] c.sched.spillSet x.victim ++ x.out.map (·.1)) ∧
          (c.flag F.PART_CFG_KIND p.val = false → t.chip.flag F.PART_CFG_LENT p.val = false) ∧ c.Core t.chip)) ∧
    (let b := if c.flag F.PART_CFG_KIND p.val then p.val else c.get F.PART_CFG_BORROWER p.val
     let again := (smGet [] c.sched.spillSet b).filter (fun k => (c.borrowed b).contains (k / 64))
     ∃ t, exec (.spillRestore p) s = .next t ∧ t.pending = s.pending ∧
       smGet [] t.chip.sched.spillSet b = (smGet [] c.sched.spillSet b).filter (fun k => !(c.borrowed b).contains (k / 64)) ∧
       (again = [] → t.chip.mem = c.mem) ∧
       (∀ k, again = [k] → t.chip.mem = (c.carry ((c.spillGrans b k).zip (c.handleGrans (keyRef k)))).1.mem) ∧
       t.chip.items = c.items ∧ c.Core t.chip)

/-- R365, R548, R375, R377: a live item whose fields have not all ended by its cut-off, the last slot whose egress still
meets its deadline, ends LATE, at once when none of its steps runs, else at its next step boundary. A function whose
drain is complete reports DISABLED. A drain that passes its limit cancels what is left of its partition. Choices of the
model: log entries 5, 6, 80 and 94. -/
def Obligations.CutoffsAndDrains : Prop :=
  ∀ s : State, s.chip.Up →
    let c := s.chip
    (∀ i : Item, c.items.list = [i] →
      (i.live = false ∨ i.ended.isSome = true ∨ i.deadline = none →
        exec (.itemCutoff i.num) s = .next ⟨s.pending, c.settle⟩) ∧
      (∀ d, i.deadline = some d → c.slotNo * 125000 + c.egressNs i.origin < Stamp.toNs d →
        exec (.itemCutoff i.num) s = .next ⟨s.pending, c.settle⟩) ∧
      (∀ d, i.live = true → i.ended = none → i.deadline = some d → Stamp.toNs d ≤ c.slotNo * 125000 + c.egressNs i.origin →
        i.endNext = none → i.cutWhy = [] →
        (c.itemRuns i.num = false → ∃ t, exec (.itemCutoff i.num) s = .next t ∧ t.pending = s.pending ∧
          (∀ j, j ∈ t.chip.items.list → j.ended = some ⟨2, []⟩) ∧ t.chip.items.ends = c.items.ends.modify 2 (· + 1) ∧
          c.Core t.chip) ∧
        (c.itemRuns i.num = true → ∃ t, exec (.itemCutoff i.num) s = .next t ∧ t.pending = s.pending ∧
          t.chip.items.list = [{ i with endNext := some ⟨2, []⟩ }] ∧ t.chip.mem = c.mem ∧ c.Core t.chip))) ∧
    (∀ t : Target, c.drained t = false → exec (.drainComplete t) s = .next ⟨s.pending, c.settle⟩) ∧
    (∀ x : Target, c.drained x = true → smGet false c.sched.enableAfter (targetNo x) = false →
      ∃ t, exec (.drainComplete x) s = .next t ∧ t.pending = s.pending ∧
        smGet none t.chip.sched.drain (targetNo x) = none ∧
        (match x with
         | .stream n => t.chip.get F.SNS_STATE_STATE n.val = 0 ∧ (t.chip.stream n.val).mclk = false ∧
             (t.chip.stream n.val).leds = [false, false, false] ∧ (t.chip.stream n.val).sp = false
         | .submit n => t.chip.get F.SUB_CFG_STATE n.val = 0
         | .result n => (t.chip.sess n.val).open_ = false ∧
             ((c.sess n.val).open_ = true → t.chip.get F.SESS_STAT_STATE n.val = 0)
         | .partition n => t.chip.get F.PART_CFG_STATE n.val = 0 ∧ smGet [] t.chip.sched.spillSet n.val = []
         | .adaptation => t.chip.get F.ADAPT_CTRL_STATE = 0 ∧ t.chip.adapt.samples = []) ∧ c.Core t.chip) ∧
    (∀ (n : Fin 32), c.drained (.submit n) = true → smGet false c.sched.enableAfter (16 + n.val) = true →
      ∃ t, exec (.drainComplete (.submit n)) s = .next t ∧ t.pending = s.pending ∧
        t.chip.get F.SUB_CFG_STATE n.val = (if c.flag F.SUB_CFG_LIVE n.val = true ∧ c.locked = false then 2 else 3)) ∧
    (∀ p : Fin 16, c.draining (112 + p.val) = false → exec (.drainTimeout p) s = .next ⟨s.pending, c.settle⟩) ∧
    (∀ p : Fin 16, c.draining (112 + p.val) = true → (c.items.list.map (·.num)).Nodup →
      ∃ t, exec (.drainTimeout p) s = .next t ∧ t.pending = s.pending ∧
        smGet false t.chip.sched.drainOver p.val = true ∧
        t.chip.items.list = c.items.list.map (fun i => if i.ended = none ∧ i.part = p.val then
          { i with endNext := some ⟨4, txt "drain-timeout"⟩ } else i) ∧ t.chip.mem = c.mem ∧ c.Core t.chip)

/-! ## Failures -/

/-- R385 to R388, R407, R408: a matrix or vector site that fails is logged, and in the map that is due a failed matrix
site is replaced by its spare site where that is free; a cell that has failed already fails no more. A walker that fails
takes its block with it. A block that fails is marked. A control core that fails is marked; the takeover of its role by
the spare core, when that is free, begins, and the security core's role is lost. No memory changes but by the step
boundary that a lost step brings. Choices of the model: log entries 6, 33 and 72. -/
def Obligations.FailuresAreRecorded : Prop :=
  ∀ s : State, s.chip.Up →
    let c := s.chip
    let same := fun (t : State) => c.mem.SameData t.chip.mem ∧ (c.Quiet → t.chip.mem = c.mem) ∧ c.Core t.chip
    (∀ (r : Fin 4) (b : Fin 9) (site : Fin 8),
      let n := 8 * (9 * r.val + b.val) + site.val
      (c.cellBad n = true → exec (.cellFailed (.cell r b site)) s = .next ⟨s.pending, c.settle⟩) ∧
      (c.cellBad n = false → ∃ t, exec (.cellFailed (.cell r b site)) s = .next t ∧ t.pending = s.pending ∧
        t.chip.cellBad n = true ∧
        c.Logged t.chip 0x02 ⟨r.val, b.val, site.val, (c.logBlock r.val b.val).getD 15, c.logSite r.val b.val site.val, 0⟩ ∧
        same t ∧
        (∀ l, l < 4 → site.val < 4 → (∀ k, k < 8 → smGet false c.recov.failedNow (8 * (9 * r.val + b.val) + k) = false) →
          bitOf (c.get F.SPARE_HEALTH_MSPARE r.val) b.val = false →
          bitsOf (c.mapSoon .CELL_MAP r.val b.val) (3 * l) 3 = site.val →
          (∀ k, k < l → bitsOf (c.mapSoon .CELL_MAP r.val b.val) (3 * k) 3 ≠ site.val) →
          bitsOf (t.chip.mapSoon .CELL_MAP r.val b.val) (3 * l) 3 = 4 ∧
          bitOf (t.chip.get F.SPARE_HEALTH_MSPARE r.val) b.val = true))) ∧
    (∀ d : Fin 5, c.cellBad (288 + d.val) = false → ∃ t, exec (.cellFailed (.text d)) s = .next t ∧ t.pending = s.pending ∧
      t.chip.cellBad (288 + d.val) = true ∧ bitOf (t.chip.get F.CORE_STAT_T_FAILED) d.val = true ∧ same t) ∧
    (∀ d : Fin 5, c.cellBad (293 + d.val) = false → ∃ t, exec (.cellFailed (.lane d)) s = .next t ∧ t.pending = s.pending ∧
      t.chip.cellBad (293 + d.val) = true ∧ bitOf (t.chip.get F.CORE_STAT_D_FAILED) d.val = true ∧ same t) ∧
    (∀ (r : Fin 4) (b : Fin 9),
      let marked := fun (t : State) => bitOf (t.chip.get F.SPARE_HEALTH_BLK_FAILED r.val) b.val = true ∧
        (∀ k, k < 9 → k ≠ b.val → bitOf (t.chip.get F.SPARE_HEALTH_BLK_FAILED r.val) k =
          bitOf (c.get F.SPARE_HEALTH_BLK_FAILED r.val) k)
      (bitOf (c.get F.SPARE_HEALTH_BLK_FAILED r.val) b.val = true → exec (.blockFailed r b) s = .next ⟨s.pending, c.settle⟩) ∧
      (smGet false c.recov.failedWalker (9 * r.val + b.val) = false → ∃ t, exec (.cellFailed (.walker r b)) s = .next t ∧
        t.pending = s.pending ∧ marked t ∧
        c.Logged t.chip 0x15 ⟨r.val, b.val, 8, (c.logBlock r.val b.val).getD 15, 8, 0⟩ ∧ same t) ∧
      (bitOf (c.get F.SPARE_HEALTH_BLK_FAILED r.val) b.val = false →
        let lb := (List.range 8).find? (fun l => bitsOf (c.mapSoon .REGION_MAP r.val 0) (4 * l) 4 = b.val)
        ∃ t, exec (.blockFailed r b) s = .next t ∧ t.pending = s.pending ∧ marked t ∧
          (∀ l, lb = some l → t.chip.runOf (8 * r.val + l) = none) ∧
          c.Logged t.chip 0x17 ⟨r.val, b.val, 31, lb.getD 15, 31, 0⟩ ∧ same t)) ∧
    (∀ k : Fin 10,
      (bitOf (c.get F.CORE_STAT_CORE_FAILED) k.val = true → exec (.controlCoreFailed k) s = .next ⟨s.pending, c.settle⟩) ∧
      (bitOf (c.get F.CORE_STAT_CORE_FAILED) k.val = false → ∃ t, exec (.controlCoreFailed k) s = .next t ∧
        t.pending = s.pending ∧ bitOf (t.chip.get F.CORE_STAT_CORE_FAILED) k.val = true ∧
        (k.val = 8 → t.chip.flag F.VAR_STAT_SEC_LOST = true ∧ t.chip.recov = c.recov) ∧
        (k.val < 8 → c.get F.UNIT_MAP_SPARE_ROLE = 15 → c.recov.takeover = none →
          bitOf (c.get F.CORE_STAT_CORE_FAILED) 9 = false → t.chip.recov = { c.recov with takeover := some k.val })))

/-- R391 to R400: an item to be re-run resumes and is counted, stops at the re-run limit, and stops when an input is
lost; the switch of variants takes place at a course boundary with all tables and no step running, waits for the regions'
fences and the blocks it takes, and without a successor leads to fault hold. Choices of the model: log entries 6, 41, 42
and 45. -/
def Obligations.RerunsAndSwitches : Prop :=
  ∀ s : State, s.chip.Up →
    let c := s.chip
    (∀ n, n ∉ c.recov.rerun → exec (.itemRerun n) s = .next ⟨s.pending, c.settle⟩) ∧
    (∀ i : Item, i.num ∈ c.recov.rerun → c.items.list = [i] → i.ended = none → i.endNext = none → c.itemRuns i.num = false →
      let limit := c.get F.FAULT_CFG_RERUN_MAX
      let stops := fun (why : List Byte) => ∃ t, exec (.itemRerun i.num) s = .next t ∧ t.pending = s.pending ∧
        (∀ j, j ∈ t.chip.items.list → j.ended = some (i.r393 why)) ∧ i.num ∉ t.chip.recov.rerun ∧
        c.Counted t.chip F.FAULT_CNT1_RERUN_FAIL ∧ c.Core t.chip
      (limit ≤ i.reruns → stops (txt "rerun-limit")) ∧
      (i.reruns < limit → i.lost = true → stops (txt "input-lost")) ∧
      (i.reruns < limit → c.inputPoisoned i = true → stops (txt "input-lost")) ∧
      (i.reruns < limit → i.lost = false → c.inputPoisoned i = false → i.kvSlot = none →
        ∃ t, exec (.itemRerun i.num) s = .next t ∧ t.pending = s.pending ∧
          t.chip.items.list = [{ i with reruns := i.reruns + 1, wides := i.wideMark }] ∧ c.Counted t.chip F.FAULT_CNT1_RERUN ∧
          i.num ∉ t.chip.recov.rerun ∧ t.chip.mem = c.mem ∧ c.Core t.chip)) ∧
    (c.recov.waiting = [] → exec .variantSwitch s = .next ⟨s.pending, c.settle⟩) ∧
    (∀ d rest, c.recov.waiting = d :: rest →
      (c.successor (addDegr c.recov.degr d) = none → ∃ t, exec .variantSwitch s = .next t ∧ t.pending = s.pending ∧
        t.chip.flag F.VAR_STAT_HOLD = true ∧ t.chip.recov.degr = addDegr c.recov.degr d ∧ t.chip.recov.waiting = rest ∧
        t.chip.mem = c.mem ∧ c.Core t.chip) ∧
      (∀ v, c.successor (addDegr c.recov.degr d) = some v →
        let taken := fun (p : Fin 16) => ∃ x, smGet none c.sched.preempt p.val = some x ∧ x.spilled = true
        (c.atBoundary = false ∨ true ∈ c.fabric.late ∨ (∃ p, p ∈ v.takesFromBe ∧ ¬ taken p) →
          exec .variantSwitch s = .next ⟨s.pending, c.settle⟩) ∧
        (c.atBoundary = true → true ∉ c.fabric.late → (∀ p, p ∈ v.takesFromBe → taken p) → c.fabric.mapPend = [] →
          c.kv.waiting = [] →
          ∃ t, exec .variantSwitch s = .next t ∧ t.pending = s.pending ∧
            t.chip.get F.SCHED_CFG_VARIANT = v.id % 4096 ∧ t.chip.recov.degr = addDegr c.recov.degr d ∧
            t.chip.recov.waiting = rest ∧ (∀ u, u < 40 → t.chip.runOf u = none) ∧ c.Counted t.chip F.FAULT_CNT1_SWITCH ∧
            c.Logged t.chip 0x39 Loc.none ∧
            c.mem.SameData { t.chip.mem with ddrHnd := c.mem.ddrHnd } ∧
            t.chip.mem.ddrHnd = v.ddrHandles.foldl (fun m e => smSet 0 m e.1 e.2) c.mem.ddrHnd ∧ c.Core t.chip)))

/-- R401 to R403: the loss of a DDR4 channel or of a port is recorded and logged once, and the degradation waits for
the switch that serves it. Choices of the model: log entries 6, 39 and 77. -/
def Obligations.LostChannelsAndPorts : Prop :=
  ∀ (s : State) (x : Fin 2), s.chip.Up →
    let c := s.chip
    (bitOf (c.get F.VAR_STAT_DDR_LOST) x.val = true → exec (.ddr4ChannelLost x) s = .next ⟨s.pending, c.settle⟩) ∧
    (bitOf (c.get F.VAR_STAT_DDR_LOST) x.val = false →
      ∃ t, exec (.ddr4ChannelLost x) s = .next t ∧ t.pending = s.pending ∧
        bitOf (t.chip.get F.VAR_STAT_DDR_LOST) x.val = true ∧ (c.kv.waiting = [] → c.Logged t.chip 0x34 Loc.none) ∧
        c.Core t.chip ∧
        (c.recov.waiting = [] → c.recov.degr = [] → t.chip.recov.waiting = [.ddr x] ∧ t.chip.flag F.VAR_STAT_SWITCHING = true)) ∧
    (bitOf (c.get F.VAR_STAT_PORT_LOST) x.val = true ∨ c.portUsed x.val = false →
      exec (.portLost x) s = .next ⟨s.pending, c.settle⟩) ∧
    (bitOf (c.get F.VAR_STAT_PORT_LOST) x.val = false → c.portUsed x.val = true →
      ∃ t, exec (.portLost x) s = .next t ∧ t.pending = s.pending ∧
        bitOf (t.chip.get F.VAR_STAT_PORT_LOST) x.val = true ∧ t.chip.flag F.PORT_STAT_LINK x.val = false ∧
        c.Logged t.chip 0x38 (c.locOf (.port x)) ∧ t.chip.mem = c.mem ∧ c.Core t.chip ∧
        (c.recov.waiting = [] → c.recov.degr = [] → t.chip.recov.waiting = [.port x]))

/-! ## Feed hold and credits -/

/-- R131, R133, R168: feed hold and record credit follow every command of a running device: a transport with a reason
is held, and a session whose credits are not withheld is granted what is free; nothing else changes. Choices of the
model: log entry 114. -/
def Obligations.HoldsAndCreditsFollow : Prop :=
  ∀ c : Chip,
    let d := c.settle
    (c.running = false → d = c) ∧
    d = { c with regs := d.regs, transports := d.transports, subs := d.subs, formed := d.formed } ∧
    (∀ r i j, (∀ k, k < 8 → r.addr i j ≠ Reg.addr .HOLD_STAT k 0) → d.word r i j = c.word r i j) ∧
    (∀ k, { d.transport k with holdSince := none } = { c.transport k with holdSince := none }) ∧
    (∀ x, { d.subm x with granted := 0 } = { c.subm x with granted := 0 }) ∧
    (∃ more, d.formed = c.formed ++ more) ∧
    (c.running = true →
      (∀ k, k < 8 → (c.holdReasons k).any id = true → d.flag F.HOLD_STAT_HOLD k = true) ∧
      (∀ k, k < 8 → d.flag F.HOLD_STAT_FORCE k = c.flag F.HOLD_STAT_FORCE k) ∧
      (∀ x, x < 32 → (c.sess (64 + x)).open_ = true → c.grantBlocked x = false →
        (d.subm x).granted = Nat.max (c.subm x).granted ((c.subm x).used + (c.subm x).free)))

/-! ## Ports -/

/-- R417 to R419, R423, R425, R430, R549: a link of an unused port does not come up; an in-band word that the mode
does not allow sets AN_BAD and leaves it down; a link that comes up announces its addresses. A link that goes down is
counted and reports its rate and lock gone. Frames of a port whose link is down are discarded, and the verify process
decides whether frames are preempted. Choices of the model: log entry 6. -/
def Obligations.LinksFollowThePhy : Prop :=
  ∀ (s : State) (x : Fin 2), s.chip.Linked →
    let c := s.chip
    let m := c.get F.PORT_CFG_MODE x.val
    let inBand := decide (m = 1 ∨ m = 5)
    let up := c.flag F.PORT_STAT_LINK x.val
    (∀ (rate : Fin 5) (full : Bool),
      let allowed := full && (modeRates m).contains rate.val
      (c.portUsed x.val = false → up = false → exec (.linkUp x rate full) s = .next s) ∧
      (c.portUsed x.val = true → inBand = true → allowed = false →
        (up = false → exec (.linkUp x rate full) s = .next ⟨s.pending, c.putB F.PORT_STAT_AN_BAD true x.val⟩) ∧
        (up = true → ∃ t, exec (.linkUp x rate full) s = .next t ∧ t.pending = s.pending ∧
          t.chip.flag F.PORT_STAT_LINK x.val = false ∧ t.chip.flag F.PORT_STAT_AN_BAD x.val = true ∧
          t.chip.get F.PORT_STAT_RATE x.val = 0 ∧ c.Counted t.chip F.PORT_CNT1_LINK_DOWN x.val ∧
          t.chip.port x.val = { c.port x.val with preemptOn := false, txEnd := 0, cut := none } ∧
          t.chip = { c with regs := t.chip.regs, net := t.chip.net })) ∧
      (c.portUsed x.val = true → (!inBand || allowed) = true →
        ∃ t, exec (.linkUp x rate full) s = .next t ∧ t.pending = s.pending ∧ t.chip.flag F.PORT_STAT_LINK x.val = true ∧
          t.chip.flag F.PORT_STAT_PCS_LOCK x.val = true ∧ t.chip.flag F.PORT_STAT_AN_BAD x.val = false ∧
          t.chip.get F.PORT_STAT_RATE x.val = (if inBand then rate.val else m) ∧
          t.chip.get F.PORT_STAT_VERIFY x.val = (if c.flag F.PORT_CFG_PREEMPT x.val then 1 else 0) ∧
          (t.chip.port x.val).preemptOn = false ∧
          (c.flag F.PORT_CFG_DHCP x.val = true → c.get F.PORT_STAT_DHCP x.val ≠ 2 → t.chip.get F.PORT_STAT_DHCP x.val = 1) ∧
          (∀ a, a ∈ c.ownAddrs x.val → ctlFrame (if a.v6 then .nd else .arp) a (beBytes 6 (c.mac x.val)) ∈
            smGet [] (t.chip.port x.val).queues 1) ∧
          t.chip.items = c.items ∧ t.chip.mem = c.mem ∧ c.Core t.chip)) ∧
    (up = false → exec (.linkDown x) s = .next s) ∧
    (up = true → ∃ t, exec (.linkDown x) s = .next t ∧ t.pending = s.pending ∧ t.chip.flag F.PORT_STAT_LINK x.val = false ∧
      t.chip.get F.PORT_STAT_RATE x.val = 0 ∧ t.chip.flag F.PORT_STAT_PCS_LOCK x.val = false ∧
      t.chip.get F.PORT_STAT_VERIFY x.val = 0 ∧ c.Counted t.chip F.PORT_CNT1_LINK_DOWN x.val ∧
      t.chip.port x.val = { c.port x.val with preemptOn := false, txEnd := 0, cut := none } ∧
      t.chip = { c with regs := t.chip.regs, net := t.chip.net }) ∧
    (up = true → exec (.linkDownDiscard x) s = .next s) ∧
    (up = false → ∃ t, exec (.linkDownDiscard x) s = .next t ∧ t.pending = s.pending ∧
      t.chip.port x.val = { c.port x.val with queues := [] } ∧ (∀ y, y ≠ x.val → t.chip.port y = c.port y) ∧
      t.chip = { c with net := { c.net with ports := t.chip.net.ports } }) ∧
    (∀ ok, c.get F.PORT_STAT_VERIFY x.val ≠ 1 → exec (.preemptVerify x ok) s = .next s) ∧
    (∀ ok, c.get F.PORT_STAT_VERIFY x.val = 1 → ∃ t, exec (.preemptVerify x ok) s = .next t ∧ t.pending = s.pending ∧
      t.chip.get F.PORT_STAT_VERIFY x.val = (if ok then 2 else 3) ∧
      t.chip.port x.val = { c.port x.val with preemptOn := ok } ∧
      (∀ r i j, r.addr i j ≠ Reg.addr .PORT_STAT x.val 0 → t.chip.word r i j = c.word r i j) ∧
      t.chip = { c with regs := t.chip.regs, net := { c.net with ports := t.chip.net.ports } })

/-- R420 to R423, R426, R427, R429, R432, R433, R446: a frame that is too long, damaged or wrongly tagged is counted and
dropped, a PAUSE frame does nothing, a policed one, a duplicate and one that the crossing buffer cannot take are
counted and dropped; an ARP reply is learned, and a UDP datagram to a JRT or NMP port is handed over with its
time-stamp, in the system's share of the chip-unit link. The highest queue whose head may start transmits, and its first
transmission's send-time is kept; where none may, a preempted frame goes on. Gate entries follow one another, and one that
closes the gate of a preemptable frame in transmission preempts it. Choices of the model: log entries 6, 36, 111, 122 and
125. -/
def Obligations.FramesPassThePorts : Prop :=
  ∀ (s : State) (x : Fin 2), s.chip.Linked →
    let c := s.chip
    let up := c.flag F.PORT_STAT_LINK x.val
    (∀ q f, c.pickQueue x.val = some (q, f) → q < 8 ∧ (smGet [] (c.port x.val).queues q).head? = some f ∧
      c.mayStart x.val q f = true ∧
      ∀ p g, q < p → p < 8 → (smGet [] (c.port x.val).queues p).head? = some g → c.mayStart x.val p g = false) ∧
    (up = true → c.pickQueue x.val = none → c.canResume x.val = false ∨ c.sending x.val = true →
      exec (.frameTransmit x) s = .next s) ∧
    (∀ q left, up = true → c.pickQueue x.val = none → (c.port x.val).cut = some (q, left) → c.canResume x.val = true →
      c.sending x.val = false → ∃ t, exec (.frameTransmit x) s = .next t ∧ t.pending = s.pending ∧
        t.chip.port x.val = { c.port x.val with txEnd := c.upNs + left, cut := none } ∧
        (∀ y, y ≠ x.val → t.chip.port y = c.port y) ∧
        t.chip = { c with net := { c.net with ports := t.chip.net.ports } }) ∧
    (up = false → ∃ t, exec (.frameTransmit x) s = .next t ∧ t.pending = s.pending ∧
      t.chip.port x.val = { c.port x.val with queues := [] } ∧
      t.chip = { c with net := { c.net with ports := t.chip.net.ports } }) ∧
    (∀ q f, up = true → c.pickQueue x.val = some (q, f) →
      ∃ t, exec (.frameTransmit x) s = .next t ∧ t.pending = s.pending ∧
        smGet [] (t.chip.port x.val).queues q = (smGet [] (c.port x.val).queues q).drop 1 ∧
        (∀ p, p ≠ q → smGet [] (t.chip.port x.val).queues p = smGet [] (c.port x.val).queues p) ∧
        (t.chip.port x.val).lastTx = some (f, nsStamp (c.txStamp x.val), insertTime f (c.txStamp x.val)) ∧
        (t.chip.port x.val).txEnd = c.upNs + c.wireNs x.val (c.wireBytes x.val f) ∧
        (∀ n lane num o, f.kind = .jrt n lane (some num) → ((c.sess n).lane lane).out.find? (fun o => o.num = num) = some o →
          ((t.chip.sess n).lane lane).out.find? (fun o => o.num = num) =
            some { o with stamp := some (o.stamp.getD (c.txStamp x.val)) }) ∧
        t.chip.items = c.items ∧ t.chip.mem = c.mem ∧ c.Core t.chip) ∧
    (∀ f : FrameIn,
      let good := decide (f.len ≤ 1522) && f.fcsOk && decide (f.tags.length ≤ 1)
      let bad := exec (.frameReceive x f) s = .next ⟨s.pending, c.bump F.PORT_CNT0_RX_BAD x.val⟩
      let dropped := fun (cnt : Fld) => ∃ t, exec (.frameReceive x f) s = .next t ∧ t.pending = s.pending ∧
        c.Counted t.chip cnt x.val ∧ t.chip.net.fabricIn = c.net.fabricIn ∧
        (t.chip.port x.val).cache = (c.port x.val).cache ∧ (t.chip.port x.val).queues = (c.port x.val).queues ∧
        t.chip = { c with regs := t.chip.regs, net := t.chip.net }
      let passes := good && decide (f.l3 ≠ .pause) && c.tagOk x.val f && (c.police x.val f).1
      let carried := fun (t : Chip) => t = { c with net := t.net, mem := { c.mem with hedges := t.mem.hedges } } ∧
        (t.hedge 4).had 17 = (c.hedge 4).had 17 + ceilDiv f.len 64
      (up = false → exec (.frameReceive x f) s = .next s) ∧
      (up = true → good = false → bad) ∧
      (up = true → good = true → f.l3 = .pause → exec (.frameReceive x f) s = .next s) ∧
      (up = true → good = true → f.l3 ≠ .pause → c.tagOk x.val f = false → bad) ∧
      (up = true → good = true → f.l3 ≠ .pause → c.tagOk x.val f = true → (c.police x.val f).1 = false →
        dropped F.PORT_CNT0_POLICED) ∧
      (up = true → passes = true → (c.eliminate f).1 = false → dropped F.PORT_CNT1_FRER_ELIM) ∧
      (up = true → passes = true → (c.eliminate f).1 = true → f.crossingFull = true → dropped F.PORT_CNT0_RX_OVF) ∧
      (up = true → passes = true → (c.eliminate f).1 = true → f.crossingFull = false →
        (∀ ip mac, f.l3 = .arpReply ip mac → ∃ t, exec (.frameReceive x f) s = .next t ∧ t.pending = s.pending ∧
          (t.chip.port x.val).cache.getLast? = some (⟨false, ip⟩, mac) ∧
          (t.chip.port x.val).lastRx = some (nsStamp (c.rxStamp x.val)) ∧ carried t.chip) ∧
        (∀ src dst sp dp pl, f.l3 = .ipv4 src dst false (.udp sp dp pl) → c.dstOk x.val ⟨false, dst⟩ = true → dp ≠ 68 →
          dp = c.get F.JRT_CFG_UDP_PORT ∨ dp = nmpPort →
          ∃ t, exec (.frameReceive x f) s = .next t ∧ t.pending = s.pending ∧
            t.chip.net.fabricIn = c.net.fabricIn ++ [(⟨x, ⟨false, src⟩, sp, pl⟩, nsStamp (c.rxStamp x.val))] ∧
            carried t.chip))) ∧
    (c.running = true →
      (c.gcl x.val = [] → exec (.gateEntryStart x) s = .next ⟨s.pending, c.settle⟩) ∧
      (∀ e, (c.gcl x.val)[((c.port x.val).entry + 1) % (c.gcl x.val).length]? = some e →
        ∃ t, exec (.gateEntryStart x) s = .next t ∧ t.pending = s.pending ∧
          (t.chip.port x.val).entry = ((c.port x.val).entry + 1) % (c.gcl x.val).length ∧
          (t.chip.port x.val).gates = e.gates ∧ (t.chip.port x.val).entryEnd = (c.port x.val).entryEnd + 4 * e.interval ∧
          (t.chip.port x.val).hold = (if e.op = 1 then true else if e.op = 2 then false else (c.port x.val).hold) ∧
          (∀ f w, (c.port x.val).lastTx = some (f, w) → c.sending x.val = true → c.preemptable x.val f.queue = true →
            bitOf e.gates f.queue = false ∨ e.op = 1 → c.Counted t.chip F.PORT_CNT1_PREEMPT x.val ∧
            (t.chip.port x.val).cut = some (f.queue, (c.port x.val).txEnd - c.upNs)) ∧
          (t.chip.port x.val).queues = (c.port x.val).queues ∧ t.chip.items = c.items ∧ t.chip.mem = c.mem ∧ c.Core t.chip)) ∧
    (∀ n : Nat, ∃ t, exec (.frerResetTimeout n) s = .next t ∧ t.pending = s.pending ∧
      smGet (⟨none, []⟩ : Recovery) t.chip.net.frer n = ⟨none, []⟩ ∧
      (∀ k, k ≠ n → smGet (⟨none, []⟩ : Recovery) t.chip.net.frer k = smGet ⟨none, []⟩ c.net.frer k) ∧
      t.chip = { c with net := { c.net with frer := t.chip.net.frer } })

/-- R423, R425, R478: an address that expires leaves the cache, a duplicate IPv6 address is no longer the port's; a
lease is renewed with its router (log entry 60) and rebound with all servers; one that expires takes the address away,
and the port's IPv4 sessions go to their alternate address, or have lost their path. Choices of the model: log entries
5, 6, 16 and 60. -/
def Obligations.AddressesComeAndGo : Prop :=
  ∀ (s : State) (x : Fin 2), s.chip.Linked →
    let c := s.chip
    let st := c.get F.PORT_STAT_DHCP x.val
    let up := c.flag F.PORT_STAT_LINK x.val
    (∀ a : Addr, ∃ t, exec (.arpEntryExpire x a) s = .next t ∧ t.pending = s.pending ∧
      t.chip.port x.val = { c.port x.val with cache := (c.port x.val).cache.filter (fun e => e.1 ≠ a) } ∧
      (∀ y, y ≠ x.val → t.chip.port y = c.port y) ∧ t.chip = { c with net := { c.net with ports := t.chip.net.ports } }) ∧
    (∀ a : Addr,
      (¬ (a.v6 = true ∧ a ∈ c.ownAddrs x.val) → exec (.duplicateAddress x a) s = .next s) ∧
      (a.v6 = true → a ∈ c.ownAddrs x.val → ∃ t, exec (.duplicateAddress x a) s = .next t ∧ t.pending = s.pending ∧
        t.chip.flag F.PORT_STAT_DUP x.val = true ∧ t.chip.ownAddrs x.val = (c.ownAddrs x.val).filter (· ≠ a) ∧
        t.chip = { c with regs := t.chip.regs, net := t.chip.net })) ∧
    (let asks := fun (i : Instr) (dst : Addr) => ∃ t, exec i s = .next t ∧ t.pending = s.pending ∧
        smGet [] (t.chip.port x.val).queues 1 = smGet [] (c.port x.val).queues 1 ++
          [ctlFrame .dhcp dst (Config.dhcpMessage 3 x.val (c.get F.PORT_IP4_ADDR x.val))] ∧
        t.chip = { c with net := { c.net with ports := t.chip.net.ports } }
     (st ≠ 2 ∨ up = false → exec (.dhcpRenew x) s = .next s ∧ exec (.dhcpRebind x) s = .next s) ∧
     (st = 2 → up = true → asks (.dhcpRebind x) ⟨false, 0xFFFFFFFF⟩ ∧
       ∀ a mask gw secs, (c.port x.val).lease = some (a, mask, gw, secs) → asks (.dhcpRenew x) ⟨false, gw⟩)) ∧
    (st ≠ 2 → exec (.dhcpLeaseExpire x) s = .next s) ∧
    (st = 2 → c.get F.PORT_IP4_ADDR x.val ≠ 0 → ∃ t, exec (.dhcpLeaseExpire x) s = .next t ∧ t.pending = s.pending ∧
      t.chip.get F.PORT_STAT_DHCP x.val = 3 ∧ t.chip.get F.PORT_IP4_ADDR x.val = 0 ∧ (t.chip.port x.val).lease = none ∧
      (∀ n, n < 96 → (c.sess n).open_ = true → (c.sess n).port = x.val → (c.sess n).addr.v6 = false →
        (∀ a, (c.sess n).alt = some a → (t.chip.sess n).addr = a ∧ (t.chip.sess n).port = 1 - x.val) ∧
        ((c.sess n).alt = none → n < 64 → t.chip.flag F.SESS_STAT_PATH_LOST n = true)) ∧
      t.chip.mem = c.mem ∧ c.Core t.chip)

/-! ## Network time -/

/-- R24, R170, R437, R442 to R444: first lock, at a course boundary, steps the clock once to the master's time, streams and sessions that
waited for it are enabled, and a device that is locked steps no more. A Sync of another port, or before a path delay
is known, does nothing. After first lock it moves RI and RATE by the servo, raises the alarm beyond TDEG, and the
sixteenth within half of it in succession clears it; before, the fourth gives RATE. Choices of the model: log entries
6 and 105. -/
def Obligations.LockAndServo : Prop :=
  ∀ s : State, s.chip.Up →
    let c := s.chip
    (c.servo.stepDue = none ∨ c.locked = true ∨ c.atBoundary = false → exec .firstLock s = .next ⟨s.pending, c.settle⟩) ∧
    (∀ o l, c.servo.stepDue = some (o, l) → c.locked = false → c.atBoundary = true → ∃ t, exec .firstLock s = .next t ∧ t.pending = s.pending ∧
      t.chip.clock.now = normStamp 0 ((c.nowNs : Int) - o).toNat ∧ t.chip.clock.frac = c.clock.frac ∧
      t.chip.clock.up = c.clock.up ∧ t.chip.clock.lastCourse = some t.chip.courseK ∧
      t.chip.clock.lastSlot = some t.chip.slotNo ∧ t.chip.rate = c.rate ∧ t.chip.locked = true ∧
      t.chip.get F.TIME_STAT_STATE = 2 ∧ t.chip.servo.stepDue = none ∧
      (∀ n, n < 16 → c.get F.SNS_STATE_STATE n = 2 → t.chip.get F.SNS_STATE_STATE n = 3) ∧
      (∀ n, n < 32 → c.get F.SUB_CFG_STATE n = 2 → t.chip.get F.SUB_CFG_STATE n = 3) ∧
      t.chip.items = c.items ∧ t.chip.mem = c.mem ∧ t.chip.image = c.image ∧ t.chip.fuses = c.fuses ∧
      t.chip.flash = c.flash ∧ t.chip.boot = c.boot) ∧
    (∀ w : SyncIn,
      (c.source ≠ some w.port.val ∨ c.pathDelay w.port.val = none →
        exec (.syncReceived w) s = .next ⟨s.pending, c.settle⟩) ∧
      (∀ d, c.source = some w.port.val → c.pathDelay w.port.val = some d →
        let m : Int := Stamp.toNs w.origin + w.correction + d
        let l : Int := Stamp.toNs w.rx
        let e := m - l
        let tdeg : Int := actsAs (c.get F.TIME_LIM_TDEG_NS) 1
        let slew : Int := actsAs (c.get F.TIME_LIM_SLEW_NS) 1
        let kp : Int := c.get F.TIME_SERVO_KP
        let ki : Int := c.get F.TIME_SERVO_KI
        (c.locked = true → ∃ t, exec (.syncReceived w) s = .next t ∧ t.pending = s.pending ∧
          t.chip.getS F.TIME_OFFSET_OFFSET = clampInt (-(2 ^ 31)) (2 ^ 31 - 1) (-e) ∧
          (|e| > slew → 0 < w.interval → t.chip.servo.ri = c.servo.ri ∧
            t.chip.rate = clampRate (c.servo.ri + rnaDiv (e * 2 ^ 32) w.interval)) ∧
          (|e| ≤ slew → t.chip.servo.ri = clampRate (c.servo.ri + rnaDiv (e * ki) 256) ∧
            t.chip.rate = clampRate (t.chip.servo.ri + rnaDiv (e * kp) 256)) ∧
          (|e| > tdeg → t.chip.flag F.TIME_STAT_ALARM = true ∧ t.chip.get F.TIME_STAT_STATE = 3) ∧
          (2 * |e| ≤ tdeg → c.flag F.TIME_STAT_ALARM = true → 15 ≤ c.servo.good →
            t.chip.flag F.TIME_STAT_ALARM = false ∧ t.chip.get F.TIME_STAT_STATE = 2) ∧
          (2 * |e| ≤ tdeg → c.flag F.TIME_STAT_ALARM = true → c.servo.good < 15 →
            t.chip.flag F.TIME_STAT_ALARM = true ∧ t.chip.servo.good = c.servo.good + 1) ∧
          t.chip.mem = c.mem ∧ c.Core t.chip) ∧
        (c.locked = false → c.servo.stepDue = none → ∃ t, exec (.syncReceived w) s = .next t ∧ t.pending = s.pending ∧
          t.chip.servo.syncs = c.servo.syncs ++ [(m, l, -e)] ∧
          (c.servo.syncs.length < 3 → t.chip.rate = c.rate ∧ t.chip.servo.stepDue = none) ∧
          (∀ m1 l1 o1 x y, c.servo.syncs = [(m1, l1, o1), x, y] → t.chip.servo.stepDue = some (-e, l) ∧
            t.chip.rate = lockRate c.rate (m - m1) (l - l1) ∧ t.chip.servo.ri = t.chip.rate) ∧
          t.chip.mem = c.mem ∧ t.chip.items = c.items ∧ c.Core t.chip)))

/-- R440, R444, Table 14-7: a qualified Announce makes its port the source when there is none, when it is the source,
its UTC offset is taken, and when its dataset is better than the source's it takes over; any other is kept aside. A
source that is lost is counted; the other port takes over when it has an Announce of its own; with none, a locked
device raises the alarm and holds over at RI. Choices of the model: log entries 5, 6 and 109. -/
def Obligations.SourcesAreChosen : Prop :=
  ∀ s : State, s.chip.Up →
    let c := s.chip
    (∀ w : AnnounceIn, -32768 ≤ w.utcOffset → w.utcOffset < 32768 →
      let p := w.port.val
      let run := fun (P : Chip → Prop) => ∃ t, exec (.announceReceived w) s = .next t ∧ t.pending = s.pending ∧
        (t.chip.port p).announce = some (w.dataset, w.utcOffset, w.utcValid) ∧ P t.chip ∧ t.chip.mem = c.mem ∧
        t.chip.items = c.items ∧ c.Core t.chip
      let becomes := fun (t : Chip) => t.source = some p ∧ t.getS F.TIME_STAT_UTC_OFFSET = w.utcOffset ∧
        t.flag F.TIME_STAT_UTC_VALID = w.utcValid ∧ t.flag F.TIME_STAT_HOLDOVER = false
      (c.ptpOn p = false ∨ w.qualified = false →
        exec (.announceReceived w) s = .next ⟨s.pending, c.settle⟩) ∧
      (c.ptpOn p = true → w.qualified = true →
        (c.source = none → run (fun t => becomes t ∧ t.get F.TIME_CNT_SRC_CHG = c.get F.TIME_CNT_SRC_CHG)) ∧
        (c.source = some p → run (fun t => t.source = some p ∧ t.getS F.TIME_STAT_UTC_OFFSET = w.utcOffset ∧
          t.flag F.TIME_STAT_UTC_VALID = w.utcValid)) ∧
        (∀ y dat off v, c.source = some y → y ≠ p → (c.port y).announce = some (dat, off, v) →
          (ranksBetter w.dataset dat = true → run (fun t => becomes t ∧ c.Counted t F.TIME_CNT_SRC_CHG)) ∧
          (ranksBetter w.dataset dat = false → run (fun t => t.source = some y ∧ t.get F.TIME_CNT_SRC_CHG = c.get F.TIME_CNT_SRC_CHG))))) ∧
    (c.source = none → exec .sourceTimeout s = .next ⟨s.pending, c.settle⟩) ∧
    (∀ x, c.source = some x →
      ((c.port (1 - x)).announce.isSome = true → c.ptpOn (1 - x) = true →
        ∃ t, exec .sourceTimeout s = .next t ∧ t.pending = s.pending ∧ t.chip.source = some (1 - x) ∧
          (t.chip.port x).announce = none ∧ c.Counted t.chip F.TIME_CNT_SYNC_TMO ∧ c.Counted t.chip F.TIME_CNT_SRC_CHG ∧
          t.chip.flag F.TIME_STAT_HOLDOVER = false ∧ t.chip.mem = c.mem ∧ t.chip.items = c.items ∧ c.Core t.chip) ∧
      ((c.port (1 - x)).announce = none → c.locked = true → |c.servo.ri| ≤ maxRate →
        ∃ t, exec .sourceTimeout s = .next t ∧ t.pending = s.pending ∧ t.chip.source = none ∧
          c.Counted t.chip F.TIME_CNT_SYNC_TMO ∧ t.chip.flag F.TIME_STAT_ALARM = true ∧
          t.chip.flag F.TIME_STAT_HOLDOVER = true ∧ t.chip.get F.TIME_STAT_STATE = 3 ∧ t.chip.rate = c.servo.ri ∧
          t.chip.mem = c.mem ∧ c.Core t.chip))

/-- R439, R441, R451 to R453: a port with PTP asks for its path delay with the message of its profile and answers a
peer's request with the receive time; an exchange enters the mean of the last eight, but under 802.1AS not one beyond
800 ns. PPS pulses ADV before its instant, unless it is off, before first lock or gated. An event edge that is
selected is queued with the time of its first sample, or counted when the queue is full. Choices of the model: log
entries 5, 6 and 16. -/
def Obligations.TimeMessagesAndPins : Prop :=
  ∀ (s : State) (x : Fin 2), s.chip.Up →
    let c := s.chip
    let ptp := c.ptpOn x.val
    let up := c.flag F.PORT_STAT_LINK x.val
    let sent := fun (i : Instr) (k : TxKind) => ∃ t f, exec i s = .next t ∧ t.pending = s.pending ∧ f.kind = k ∧ f.queue = 6 ∧
      smGet [] (t.chip.port x.val).queues 6 = smGet [] (c.port x.val).queues 6 ++ [f] ∧
      t.chip.items = c.items ∧ t.chip.mem = c.mem ∧ c.Core t.chip
    let unsent := fun (i : Instr) => ∃ t, exec i s = .next t ∧ t.pending = s.pending ∧ t.chip.net = c.net ∧
      t.chip.items = c.items ∧ t.chip.mem = c.mem ∧ c.Core t.chip
    (ptp = false → exec (.delayRequestTimer x) s = .next ⟨s.pending, c.settle⟩) ∧
    (ptp = true → up = true →
      sent (.delayRequestTimer x) (if c.get F.TIME_CTRL_PROFILE = 1 then .delayReq else .pdelayReq)) ∧
    (ptp = true → up = false → unsent (.delayRequestTimer x)) ∧
    (∀ pl, (ptp = false → exec (.pdelayReqReceived x pl) s = .next ⟨s.pending, c.settle⟩) ∧
      (ptp = true → up = true → sent (.pdelayReqReceived x pl) (.pdelayResp (c.rxStamp x.val))) ∧
      (ptp = true → up = false → unsent (.pdelayReqReceived x pl))) ∧
    (∀ w : DelayIn, w.port = x →
      let d := rnaDiv (w.ab + w.cd) 2
      let l := (d :: (c.port x.val).delays).take 8
      let far := decide (c.get F.TIME_CTRL_PROFILE = 0) && decide (d > 800)
      (ptp = false ∨ far = true → exec (.delayResponseReceived w) s = .next ⟨s.pending, c.settle⟩) ∧
      (ptp = true → far = false → ∃ t, exec (.delayResponseReceived w) s = .next t ∧ t.pending = s.pending ∧
        t.chip.port x.val = { c.port x.val with delays := l } ∧
        t.chip.pathDelay x.val = some (rnaDiv (l.foldl (· + ·) 0) l.length) ∧
        (c.source = some x.val → t.chip.get F.TIME_PATH_PATH = toField (rnaDiv (l.foldl (· + ·) 0) l.length) 32) ∧
        t.chip.items = c.items ∧ t.chip.mem = c.mem ∧ c.Core t.chip)) ∧
    (let mode := c.get F.PPS_CFG_MODE
     let on := c.locked && decide (mode = 1 ∨ mode = 2) && !(c.flag F.PPS_CFG_GATE && c.flag F.TIME_STAT_ALARM)
     let edge := c.nowNs - c.get F.PPS_CFG_ADV
     (on = false → exec .ppsPulse s = .next ⟨s.pending, c.settle⟩) ∧
     (on = true → exec .ppsPulse s = .next ⟨s.pending, (c.updServo (fun v => { v with
        ppsEdge := some (nsStamp edge)
        ppsFall := some (nsStamp (edge + (if mode = 1 then c.get F.PPS_CFG_WIDTH * 1000000 else 100000))) })).settle⟩)) ∧
    (∀ fall : Bool,
      let sel := bitOf (c.get F.EVT_CFG_EDGES) (b2n fall)
      (sel = false → exec (.ptpEventEdge fall) s = .next ⟨s.pending, c.settle⟩) ∧
      (sel = true → c.servo.events.length < 16 → ∃ t, exec (.ptpEventEdge fall) s = .next t ∧ t.pending = s.pending ∧
        t.chip.servo.events = c.servo.events ++ [(nsStamp (c.nowNs - 16), fall, !c.locked, c.flag F.TIME_STAT_ALARM)] ∧
        t.chip.get F.EVT_CFG_COUNT = c.servo.events.length + 1 ∧ t.chip.items = c.items ∧ t.chip.mem = c.mem ∧
        c.Core t.chip) ∧
      (sel = true → 16 ≤ c.servo.events.length → ∃ t, exec (.ptpEventEdge fall) s = .next t ∧ t.pending = s.pending ∧
        t.chip.flag F.EVT_CFG_OVF = true ∧ c.Counted t.chip F.TIME_CNT_EVT_DROP ∧ t.chip.servo.events = c.servo.events ∧
        t.chip.items = c.items ∧ t.chip.mem = c.mem ∧ c.Core t.chip))

/-! ## The Jorrak Result Transport -/

/-- R456, R458 to R461: a datagram that is not an OPEN, or not in form, is counted; an OPEN of a peer that has a
session is answered again; one that is refused is counted and opens nothing; one that passes the checks of Table 15-4
binds its session to the peer, with the next GEN, the roles of its address and the LIMITs that it grants, at most 4,096
(R471), and is answered. A CLOSE of a bound
session, or an idle one's timeout, closes it. Choices of the model: log entries 5, 6, 17, 69, 70
and 71. -/
def Obligations.SessionsOpenAndClose : Prop :=
  ∀ (s : State), s.chip.Up →
    let c := s.chip
    (∀ d : DgIn,
      let refused := fun (i : Instr) => exec i s = .next ⟨s.pending, ((c.takeIn d).bump F.JRT_CNT_BAD_DGRAM).settle⟩
      (c.boot.closing.isSome = true → exec (.jrtOpen d) s = .next ⟨s.pending, (c.takeIn d).settle⟩) ∧
      (c.boot.closing = none → (∀ h, parseHdr d.payload = some h → h.type ≠ 2) → refused (.jrtOpen d)) ∧
      (∀ h, c.boot.closing = none → parseHdr d.payload = some h → h.type = 2 →
        let known := fun n => (c.sess n).open_ = true ∧ (c.sess n).addr = d.src ∧ (c.sess n).udp = d.udp
        ((∃ n, n < 96 ∧ known n) → ∃ t, exec (.jrtOpen d) s = .next t ∧ t.pending = s.pending ∧
          t.chip.sessions = c.sessions ∧ t.chip.items = c.items ∧ t.chip.mem = c.mem ∧ c.Core t.chip) ∧
        ((∀ n, n < 96 → ¬ known n) →
          ((∀ r, openReq h.recs = some r → (c.openCheck d r).1 ≠ 0) → ∃ t, exec (.jrtOpen d) s = .next t ∧
            t.pending = s.pending ∧ c.Counted t.chip F.JRT_CNT_OPEN_REF ∧ t.chip.sessions = c.sessions ∧
            t.chip.items = c.items ∧ t.chip.mem = c.mem ∧ c.Core t.chip) ∧
          (∀ r n, openReq h.recs = some r → c.openCheck d r = (0, n) → ∃ t, exec (.jrtOpen d) s = .next t ∧
            t.pending = s.pending ∧
            let y := t.chip.sess n
            y.open_ = true ∧ y.addr = d.src ∧ y.udp = d.udp ∧ y.port = d.port.val ∧ y.alt = r.alt ∧
            y.gen = (match (c.sess n).lastGen with | none => c.clock.now.sec % 256 | some g => (g + 1) % 256) ∧
            y.roles = c.rolesOf d.src ∧ y.lane0.limit = Nat.min 4096 r.limits.1 ∧ y.lane1.limit = Nat.min 4096 r.limits.2 ∧ y.lane0.out = [] ∧
            (n < 64 → t.chip.get F.SESS_STAT_STATE n = 3) ∧ (∀ k, k ≠ n → t.chip.sess k = c.sess k) ∧
            (c.flag F.PORT_STAT_LINK d.port.val = true → ∃ f, f ∈ smGet [] (t.chip.port d.port.val).queues 4 ∧
              f.dst = d.src ∧ f.udp = d.udp ∧ f.payload = dgBytes 3 0 n y.gen 0 0 0 0xFFFF
                (openReply 0 n y.gen y.roles (Config.jrtWindow % 2 ^ 32))) ∧
            t.chip.items = c.items ∧ t.chip.mem = c.mem ∧ c.Core t.chip))) ∧
      (parseHdr d.payload = none → refused (.jrtClose d)) ∧
      (∀ h, parseHdr d.payload = some h → c.boundSess d h = none → (c.sess h.sess).closed = none → refused (.jrtClose d)) ∧
      (∀ h n, parseHdr d.payload = some h → c.boundSess d h = some n → h.type ≠ 4 → refused (.jrtClose d)) ∧
      (∀ h n, parseHdr d.payload = some h → c.boundSess d h = some n → h.type = 4 →
        ∃ t, exec (.jrtClose d) s = .next t ∧ t.pending = s.pending ∧ c.Closed t.chip n ∧ c.Core t.chip)) ∧
    (∀ x : Fin 96,
      (c.idle x.val = false → exec (.idleClose x) s = .next ⟨s.pending, c.settle⟩) ∧
      (c.idle x.val = true → ∃ t, exec (.idleClose x) s = .next t ∧ t.pending = s.pending ∧ c.Closed t.chip x.val ∧
        c.Core t.chip))

/-- R456, R466, R471 to R475: an acknowledgement frees every datagram below it, and its LIMIT is never lowered; the
datagram that is due is delivered and the next is expected; one that came before or waits for another is only
acknowledged; one beyond the granted window, on lane 1, not bound or not in form is counted. Choices of the model: log
entry 71. -/
def Obligations.DataAndAcks : Prop :=
  ∀ (s : State) (d : DgIn), s.chip.Up →
    let c := s.chip
    let refused := fun (i : Instr) => exec i s = .next ⟨s.pending, ((c.takeIn d).bump F.JRT_CNT_BAD_DGRAM).settle⟩
    ((∀ h, parseHdr d.payload = some h → c.boundSess d h = none) → refused (.jrtData d) ∧ refused (.jrtAck d)) ∧
    (∀ h n, parseHdr d.payload = some h → c.boundSess d h = some n →
      let y := c.sess n
      (h.type ≠ 0 → refused (.jrtData d)) ∧
      (h.type ≠ 1 ∨ ¬ (h.recs.length = 0 ∨ h.recs.length = 8) → refused (.jrtAck d)) ∧
      (h.type = 1 → h.recs = [] → h.lane1 = false → serLt y.lane0.ack h.ack = true → serLt y.lane0.next h.ack = false →
        ∃ t, exec (.jrtAck d) s = .next t ∧ t.pending = s.pending ∧ (t.chip.sess n).lane0.ack = h.ack ∧
          (∀ o, o ∈ (t.chip.sess n).lane0.out → serLt o.num h.ack = false) ∧
          (∀ o, o ∈ y.lane0.out → serLt o.num h.ack = false → ∃ p, p ∈ (t.chip.sess n).lane0.out ∧ p.num = o.num ∧ p.recs = o.recs) ∧
          serLt (t.chip.sess n).lane0.limit y.lane0.limit = false ∧ (t.chip.sess n).heard = c.upNs ∧
          (t.chip.sess n).expect = y.expect ∧ t.chip.mem = c.mem ∧ c.Core t.chip) ∧
      (h.type = 0 → h.lane1 = true ∨ serLt h.num y.grant = false →
        ∃ t, exec (.jrtData d) s = .next t ∧ t.pending = s.pending ∧ c.Counted t.chip F.JRT_CNT_BAD_DGRAM ∧
          (t.chip.sess n).expect = y.expect ∧ (t.chip.sess n).later = y.later ∧ (t.chip.sess n).inbox = y.inbox ∧
          t.chip.mem = c.mem ∧ c.Core t.chip) ∧
      (h.type = 0 → h.lane1 = false → serLt h.num y.grant = true →
        let got := fun (P : Session → Prop) => ∃ t, exec (.jrtData d) s = .next t ∧ t.pending = s.pending ∧
          (t.chip.sess n).ackDue = true ∧ P (t.chip.sess n) ∧ t.chip.mem = c.mem ∧ c.Core t.chip
        (serLt h.num y.expect = true → got (fun z => z.expect = y.expect ∧ z.later = y.later ∧ z.inbox = y.inbox)) ∧
        (serLt h.num y.expect = false → h.num = y.expect → y.later = [] →
          got (fun z => z.expect = (y.expect + 1) % 2 ^ 32 ∧ z.later = [])) ∧
        (serLt h.num y.expect = false → h.num ≠ y.expect → (∀ e, e ∈ y.later → e.1 ≠ h.num) →
          got (fun z => z.expect = y.expect ∧ z.later = y.later ++ [(h.num, h.recs, h.recOff, c.stampOf d)] ∧ z.inbox = y.inbox))))

/-- R461, R475, R476, R483, R484, R486: an unacknowledged datagram is sent again, its RTO doubled up to the largest,
unless it has gone or its session cannot send; an acknowledgement that is due, or an idle lane's, is sent. A session
that holds something without progress stalls and is counted; one that is mandatory and stays stalled is closed.
Choices of the model: log entries 5, 6 and 73. -/
def Obligations.TimersAndStalls : Prop :=
  ∀ s : State, s.chip.Up →
    let c := s.chip
    (∀ (x : Fin 96) (lane : Bool) (seq : Nat),
      let y := c.sess x.val
      let found := (y.lane lane).out.find? (fun o => o.num = seq)
      (found = none → exec (.retransmitTimeout x lane seq) s = .next ⟨s.pending, c.settle⟩) ∧
      (∀ o, found = some o →
        let able := y.open_ && o.sent && !c.flag F.SESS_STAT_PATH_LOST x.val
        (able = false → exec (.retransmitTimeout x lane seq) s = .next ⟨s.pending, c.settle⟩) ∧
        (able = true → ∃ t, exec (.retransmitTimeout x lane seq) s = .next t ∧ t.pending = s.pending ∧
          ((t.chip.sess x.val).lane lane).out.find? (fun o => o.num = seq) = some { o with
            retx := o.retx + 1, at_ := c.upNs
            rto := if c.flag F.SESS_STAT_STALLED x.val then c.rtoMax else Nat.min (2 * o.rto) c.rtoMax } ∧
          (x.val < 64 → c.Counted t.chip F.SESS_CNT0_RETX x.val) ∧ (∀ k, k ≠ x.val → t.chip.sess k = c.sess k) ∧
          t.chip.items = c.items ∧ t.chip.mem = c.mem ∧ c.Core t.chip))) ∧
    (∀ x : Fin 96,
      let y := c.sess x.val
      let acks := fun (i : Instr) => ∃ t, exec i s = .next t ∧ t.pending = s.pending ∧
        t.chip.sess x.val = { y with ackDue := false } ∧ (∀ k, k ≠ x.val → t.chip.sess k = c.sess k) ∧
        (c.flag F.PORT_STAT_LINK y.port = true → ∃ f, f ∈ smGet [] (t.chip.port y.port).queues 4 ∧ f.dst = y.addr ∧
          f.udp = y.udp ∧ f.payload = dgBytes 1 0 x.val y.gen y.lane0.next y.expect y.grant 0xFFFF []) ∧
        t.chip.items = c.items ∧ t.chip.mem = c.mem ∧ c.Core t.chip
      (y.open_ = true → y.ackDue = true → acks (.ackDelayExpire x)) ∧
      (y.open_ = false ∨ y.ackDue = false → exec (.ackDelayExpire x) s = .next ⟨s.pending, c.settle⟩) ∧
      (y.open_ = true → y.lane0.out = [] → acks (.idleAck x)) ∧
      (y.open_ = false ∨ y.lane0.out ≠ [] → exec (.idleAck x) s = .next ⟨s.pending, c.settle⟩)) ∧
    (∀ x : Fin 64,
      let y := c.sess x.val
      let stalled := c.flag F.SESS_STAT_STALLED x.val
      let may := y.open_ && y.holds && !stalled
      (may = false → exec (.sessionStall x) s = .next ⟨s.pending, c.settle⟩) ∧
      (may = true → ∃ t, exec (.sessionStall x) s = .next t ∧ t.pending = s.pending ∧
        t.chip.flag F.SESS_STAT_STALLED x.val = true ∧ c.Counted t.chip F.SESS_CNT0_STALLS x.val ∧
        (t.chip.sess x.val).open_ = true ∧ (t.chip.sess x.val).lane0 = y.lane0 ∧ (t.chip.sess x.val).lane1 = y.lane1 ∧
        t.chip.mem = c.mem ∧ c.Core t.chip) ∧
      (let late := decide (c.get F.JRT_TMR_ABANDON_S ≠ 0) && stalled && decide (c.get F.SESS_MAND_CLASSES x.val ≠ 0)
       (late = false → exec (.sessionAbandon x) s = .next ⟨s.pending, c.settle⟩) ∧
       (late = true → y.open_ = true → ∃ t, exec (.sessionAbandon x) s = .next t ∧ t.pending = s.pending ∧
         c.Closed t.chip x.val ∧ c.Core t.chip)))

/-! ## Management -/

/-- R512, R513, R502: an NMP datagram that the device does not serve has no effect; one that is not in form is
counted, as is one whose tag, BOOT_ID or SEQ is not right; the last request of a role, repeated, is answered again
with no second effect; one that its role may not ask for is answered with code 2 and changes nothing (or belongs to
another command). Choices of the model: log entries 53, 54 and 55. -/
def Obligations.RequestsAreChecked : Prop :=
  ∀ (s : State) (d : DgIn) (f : DgIn → Instr), f ∈ nmpRows →
    let c := s.chip
    let counts := fun (cnt : Fld) => exec (f d) s = .next ⟨s.pending, (c.takeIn d).bump cnt⟩
    (c.nmpServed = false → exec (f d) s = .next s) ∧
    (c.nmpServed = true →
      (nmpIn d.payload = .drop → counts F.NMP_CNT_BAD_MSG) ∧
      (∀ ty num, nmpIn d.payload = .malformed ty num → ∃ t, exec (f d) s = .next t ∧ t.pending = s.pending ∧
        c.Counted t.chip F.NMP_CNT_BAD_MSG ∧ t.chip = { c with regs := t.chip.regs, net := t.chip.net }) ∧
      (∀ q, nmpIn d.payload = .ok q → q.role ≠ 0 →
        let tagOk := (c.roleKey q.role).map (fun k => hmac384 k q.signed) = some q.tag
        (¬ tagOk → counts F.NMP_CNT_BAD_AUTH) ∧
        (tagOk → q.bootId ≠ c.bootId → counts F.NMP_CNT_REPLAY) ∧
        (tagOk → q.bootId = c.bootId → (c.role q.role).last = some (q.num, q.body) →
          exec (f d) s = .next ⟨s.pending, (c.takeIn d).nmpSend d (c.role q.role).resp⟩) ∧
        (∀ l, tagOk → q.bootId = c.bootId → (c.role q.role).last = some l → l ≠ (q.num, q.body) → q.num ≤ l.1 →
          counts F.NMP_CNT_REPLAY)) ∧
      (∀ q l x, c.Authentic d q → parseCbor q.body = .ok (.map l, x) [] → c.safeHold = false →
        let a := nmpAct q.type (.map l)
        1 ≤ a.type → a.type ≤ 11 → q.role < a.needs →
        exec (f d) s = .next s ∨ ∃ t, exec (f d) s = .next t ∧ t.pending = s.pending ∧
          c.Replied t.chip d q (.plain 2) ∧ t.chip = { c with net := t.chip.net, mgmt := t.chip.mgmt }))

/-- R506, R513, R521, R524 to R526: HELLO tells state, identity and roles. READ answers the words in order: an
unassigned address reads zero, a register of a declared instance reads its word, and reading clears its RC fields and
nothing else. WRITE changes the writable bits under its mask and clears the W1C bits written with 1; it refuses an
unassigned address and a bit that is read-only with code 3. Choices of the model: log entries 55 and 57. -/
def Obligations.MapReadsAndWrites : Prop :=
  ∀ (s : State) (d : DgIn) (q : NmpReq),
    let c := s.chip
    let answers := fun (i : Instr) (x : NmpReply) (P : Chip → Prop) => ∃ t, exec i s = .next t ∧ t.pending = s.pending ∧
      c.Replied t.chip d q x ∧ P t.chip ∧ t.chip.items = c.items ∧ t.chip.mem = c.mem ∧ t.chip.boot = c.boot ∧
      t.chip.clock = c.clock ∧ t.chip.fuses = c.fuses ∧ t.chip.flash = c.flash
    let stays := fun (t : Chip) => t = { c with net := t.net, mgmt := t.mgmt }
    (c.Accepts d q .hello → answers (.hello d) ⟨0, [(recordMap [(22, .arr [.uint (c.get F.BOOT_STAT_STATE),
      .bytes Config.deviceId, .uint c.bootId, .bytes Config.certificate,
      .uint (1 + b2n (c.roleKey 1).isSome * 2 + b2n (c.roleKey 2).isSome * 4 + b2n (c.roleKey 3).isSome * 8)])]).enc]⟩ stays) ∧
    (∀ a n, c.Accepts d q (.read a n) → ∃ l : List Nat, l.length = n ∧
      answers (.nmpRead d) ⟨0, [(recordMap [(3, .arr (l.map .uint))]).enc]⟩ (fun _ => True)) ∧
    (∀ a, c.Accepts d q (.read a 1) → findReg a = none →
      answers (.nmpRead d) ⟨0, [(recordMap [(3, .arr [.uint 0])]).enc]⟩ stays) ∧
    (∀ a r i j, c.Accepts d q (.read a 1) → findReg a = some (r, i, j) → c.special q.role r i = none →
      c.declared r i = true →
      answers (.nmpRead d) ⟨0, [(recordMap [(3, .arr [.uint (c.word r i j)])]).enc]⟩ (fun t =>
        (∀ k, k < 32 → bitOf (t.word r i j) k = (bitOf (c.word r i j) k && !bitOf r.info.rc k)) ∧
        (∀ r' i' j', r'.addr i' j' ≠ a → t.word r' i' j' = c.word r' i' j') ∧
        (r = .PACE_BLK → t.ring (9 * i + j) = { c.ring (9 * i + j) with low := none }) ∧
        (r = .PACE_MEM → t.ring (36 + i) = { c.ring (36 + i) with low := none }) ∧
        (r ≠ .PACE_BLK → r ≠ .PACE_MEM → t.fabric = c.fabric) ∧
        t = { c with regs := t.regs, net := t.net, mgmt := t.mgmt, fabric := t.fabric })) ∧
    (∀ a value mask, c.Accepts d q (.write a value mask) →
      (findReg a = none → ((NmpAct.write a value mask).ownWrite = false → answers (.nmpWrite d) (.plain 3) stays)) ∧
      (∀ r i j, findReg a = some (r, i, j) →
        let diff := (c.peek q.role a ^^^ value) &&& mask &&& (2 ^ 32 - 1 - (r.info.resv ||| r.info.w1c))
        let legal := (diff ||| r.info.rw) = r.info.rw ∧ (diff &&& adminBits r = 0 ∨ 3 ≤ q.role)
        let written := fun (t : Chip) => ∀ k, k < 32 → (r ≠ .HOLD_STAT ∨ bitOf (r.info.rw ||| r.info.w1c) k = true) →
          ((r = .ADAPT_CTRL ∨ r = .PART_CTRL) → k ≠ 31) →
          bitOf (t.word r i j) k = (if bitOf mask k = true then
            (if bitOf r.info.rw k = true then bitOf value k
             else if bitOf r.info.w1c k = true then bitOf (c.word r i j) k && !bitOf value k
             else bitOf (c.word r i j) k) else bitOf (c.word r i j) k)
        let others := fun (t : Chip) => ∀ r' i' j', r'.addr i' j' ≠ a → (∀ k, k < 8 → r'.addr i' j' ≠ Reg.addr .HOLD_STAT k 0) →
          t.word r' i' j' = c.word r' i' j'
        let does := fun (i : Instr) => answers i .done (fun t => written t ∧ others t)
        ((diff ||| r.info.rw) ≠ r.info.rw → (NmpAct.write a value mask).ownWrite = false →
          answers (.nmpWrite d) (.plain 3) stays) ∧
        (legal → (NmpAct.write a value mask).ownWrite = false → does (.nmpWrite d)) ∧
        (legal → r = .HOLD_STAT → mask ≠ 0 → does (.forceHoldWrite d) ∧
          ∀ t, exec (.forceHoldWrite d) s = .next t → t.chip.flag F.HOLD_STAT_FORCE i = true → t.chip.flag F.HOLD_STAT_HOLD i = true) ∧
        (legal → r = .LDG_STAT → mask ≠ 0 → does (.ldgViolatedClear d)) ∧
        (legal → r = .EVT_CFG → bitOf mask 24 = true → does (.evtOvfClear d)) ∧
        (legal → r = .ADAPT_CTRL → bitOf mask 30 = true → bitOf mask 31 = false → does (.inferOffWrite d))))

/-- R514, R103, R126, R127, R143, R170, R171, R337, R375, R376, R462, R532: CONTROL, or the write of an ENABLE field, switches its
function: DISABLED becomes ENABLING, WAIT_LOCK or ENABLED (a stream that fails its boot-time check goes to FAULT), ENABLED
becomes DRAINING in this course, and an enable while DRAINING waits for the drain's end. A function that is not there is refused. Choices of the model: log entries
56, 81 and 92. -/
def Obligations.ControlsSwitchFunctions : Prop :=
  ∀ (s : State) (d : DgIn) (q : NmpReq),
    let c := s.chip
    let req := fun (t : Target) (act : Nat) => c.Accepts d q (.control t act) ∧ c.undeclared t = false
    let gives := fun (i : Instr) (P : Chip → Prop) => ∃ t, exec i s = .next t ∧ t.pending = s.pending ∧
      c.Replied t.chip d q .done ∧ P t.chip ∧ c.image = t.chip.image ∧ c.clock = t.chip.clock ∧ c.boot = t.chip.boot ∧
      c.fuses = t.chip.fuses ∧ c.flash = t.chip.flash
    let drains := fun (t : Chip) (k : Nat) => smGet none t.sched.drain k = some c.courseK
    let waits := fun (t : Chip) (k : Nat) => smGet false t.sched.enableAfter k = true
    (∀ n : Fin 16,
      let st := fun (t : Chip) => t.get F.SNS_STATE_STATE n.val
      let gen1 := c.get F.SNS_CFG_GEN n.val = 1 ∧ 3 < n.val
      let poor := c.flag F.SHD_CFG_REF_SRC n.val = false ∧ ∃ r, (c.stream n.val).refs = some r ∧ c.defectRun n.val r = true
      (req (.stream n) 1 → st c = 0 → ¬ gen1 → ¬ poor → gives (.streamEnable d) (fun t => st t = 1)) ∧
      (req (.stream n) 1 → st c = 0 → gen1 → gives (.streamEnable d) (fun t => st t = 5 ∧ t.flag F.SNS_STATE_GEN_FAULT n.val = true)) ∧
      (req (.stream n) 1 → st c = 0 → ¬ gen1 → poor → gives (.streamEnable d) (fun t => st t = 5 ∧
        t.flag F.SNS_STATE_AFE_FAULT n.val = true ∧ c.Logged t 0x41 Loc.none)) ∧
      (req (.stream n) 1 → st c = 4 → gives (.streamEnable d) (fun t => st t = 4 ∧ waits t n.val)) ∧
      (req (.stream n) 0 → st c = 3 → gives (.streamDisable d) (fun t => st t = 4 ∧ drains t n.val)) ∧
      (req (.stream n) 0 → st c = 1 ∨ st c = 2 ∨ st c = 5 → gives (.streamDisable d) (fun t => st t = 0))) ∧
    (∀ n : Fin 32,
      let st := fun (t : Chip) => t.get F.SUB_CFG_STATE n.val
      (req (.submit n) 1 → st c = 0 → gives (.submitSessionEnable d) (fun t =>
        st t = (if c.flag F.SUB_CFG_LIVE n.val = true ∧ c.locked = false then 2 else 3))) ∧
      (req (.submit n) 1 → st c = 4 → gives (.submitSessionEnable d) (fun t => st t = 4 ∧ waits t (16 + n.val))) ∧
      (req (.submit n) 0 → st c = 2 ∨ st c = 3 → gives (.submitSessionDisable d) (fun t => st t = 4 ∧ drains t (16 + n.val)))) ∧
    (∀ n : Fin 64,
      let st := fun (t : Chip) => t.get F.SESS_STAT_STATE n.val
      (req (.result n) 0 → st c = 3 → gives (.resultSessionDisable d) (fun t => st t = 4 ∧ drains t (48 + n.val))) ∧
      (req (.result n) 1 → st c = 4 → gives (.resultSessionDisable d) (fun t => st t = 4 ∧ waits t (48 + n.val))) ∧
      (req (.result n) 2 → gives (.resultSessionClose d) (fun t => c.Closed t n.val)) ∧
      (c.Accepts d q (.control (.result n) 2) → (c.sess n.val).open_ = false → ∃ t, exec (.resultSessionClose d) s = .next t ∧
        t.pending = s.pending ∧ c.Replied t.chip d q (.refused (txt "not-declared")) ∧
        t.chip = { c with net := t.chip.net, mgmt := t.chip.mgmt })) ∧
    (∀ p : Fin 16,
      let st := fun (t : Chip) => t.get F.PART_CFG_STATE p.val
      let en := fun (t : Chip) => t.flag F.PART_CTRL_ENABLE p.val
      let byWrite := fun (on : Bool) => ∃ v m, c.Accepts d q (.write (Reg.addr .PART_CTRL p.val 0) v m) ∧ m = 2 ^ 31 ∧
        bitOf v 31 = on ∧ en c = !on ∧ c.flag F.PART_CFG_VALID p.val = true
      let enabled := fun (i : Instr) => (st c = 0 → gives i (fun t => st t = 3 ∧ en t = true)) ∧
        (st c = 4 → gives i (fun t => st t = 4 ∧ en t = true ∧ waits t (112 + p.val)))
      let disabled := fun (i : Instr) => st c = 3 → gives i (fun t => st t = 4 ∧ en t = false ∧ drains t (112 + p.val) ∧
        ∀ n, n ∈ c.servedStreams p.val → c.get F.SNS_STATE_STATE n = 3 → t.get F.SNS_STATE_STATE n = 4)
      (req (.partition p) 1 → enabled (.partitionEnable d)) ∧ (byWrite true → enabled (.partEnableWrite d)) ∧
      (req (.partition p) 0 → disabled (.partitionDisable d)) ∧ (byWrite false → disabled (.partEnableWrite d))) ∧
    (let st := fun (t : Chip) => t.get F.ADAPT_CTRL_STATE
     let en := fun (t : Chip) => t.flag F.ADAPT_CTRL_ENABLE
     let byWrite := fun (on : Bool) => ∃ v m, c.Accepts d q (.write (Reg.addr .ADAPT_CTRL 0 0) v m) ∧ m = 2 ^ 31 ∧
       bitOf v 31 = on ∧ en c = !on ∧ c.undeclared .adaptation = false
     let enabled := fun (i : Instr) => (st c = 0 → gives i (fun t => st t = 3 ∧ en t = true)) ∧
       (st c = 4 → gives i (fun t => st t = 4 ∧ en t = true ∧ waits t 128))
     let disabled := fun (i : Instr) => st c = 3 → gives i (fun t => st t = 4 ∧ en t = false ∧ drains t 128 ∧
       (c.flag F.ADAPT_CTRL_FINISH = false → ∀ x, x < 8 → (t.adSet x).running = (c.adSet x).running ∧
         (t.adSet x).cancel = (c.adSet x).running.isSome))
     (req .adaptation 1 → enabled (.adaptationEnable d)) ∧ (byWrite true → enabled (.adaptEnableWrite d)) ∧
     (req .adaptation 0 → disabled (.adaptationDisable d)) ∧ (byWrite false → disabled (.adaptEnableWrite d)))

/-- R507 to R510, R515 to R517, R139, R140, R334, R408: RESTART closes streams, ends operations and marks the items in
flight; ATTEST uses up one leaf; LONG_START takes an unused entry and the next handle, and is refused while one of its
kind has not ended, with no entry, or without the security core; LONG_STATUS shows it, LONG_ABORT ends a queued one
and asks a running one to stop; STAGE_DATA writes the image's bytes. Choices of the model: log entries 55, 59, 61, 69
and 82. -/
def Obligations.LongOperationsStart : Prop :=
  ∀ (s : State) (d : DgIn) (q : NmpReq),
    let c := s.chip
    let answers := fun (i : Instr) (x : NmpReply) (P : Chip → Prop) => ∃ t, exec i s = .next t ∧ t.pending = s.pending ∧
      c.Replied t.chip d q x ∧ P t.chip ∧ t.chip.mem = c.mem ∧ t.chip.image = c.image ∧ t.chip.clock = c.clock ∧
      t.chip.fuses = c.fuses
    let stays := fun (t : Chip) => t = { c with net := t.net, mgmt := t.mgmt }
    (c.Accepts d q .restart → c.boot.closing = none → answers (.restart d) .done (fun t =>
      t.boot = { c.boot with closing := some c.upNs } ∧ (∀ n, n < 16 → t.get F.SNS_STATE_STATE n = 0) ∧
      (∀ h, h < 8 → c.opOpen h = true → t.get F.LONG_STAT_STATE h = 4) ∧
      (∀ i, i ∈ t.items.list → i.ended.isSome = true ∨ i.endNext.isSome = true))) ∧
    (∀ nonce, c.Accepts d q (.attest nonce) →
      (c.get F.FUSE_STAT_JTAG = 2 → answers (.attest d) (.refused (txt "debug")) stays) ∧
      (c.get F.FUSE_STAT_JTAG ≠ 2 → c.secure = false → answers (.attest d) (.plain 7) stays) ∧
      (c.get F.FUSE_STAT_JTAG ≠ 2 → c.secure = true → ∀ k, c.boot.tree = some k → 0 < c.get F.ATT_STAT_LEAVES →
        ∃ t, exec (.attest d) s = .next t ∧ t.pending = s.pending ∧
          t.chip.get F.ATT_STAT_LEAVES + 1 = c.get F.ATT_STAT_LEAVES ∧ t.chip.get F.ATT_STAT_TREES = c.get F.ATT_STAT_TREES ∧
          t.chip = { c with regs := t.chip.regs, net := t.chip.net, mgmt := t.chip.mgmt }) ∧
      (c.get F.FUSE_STAT_JTAG ≠ 2 → c.secure = true → c.boot.tree = none ∨ c.get F.ATT_STAT_LEAVES = 0 →
        (1024 ≤ c.nextTree → answers (.attest d) (.refused (txt "key-exhausted")) stays) ∧
        (c.nextTree < 1024 → ∃ t, exec (.attest d) s = .next t ∧ t.pending = s.pending ∧
          t.chip.boot = { c.boot with tree := some c.nextTree } ∧ t.chip.get F.ATT_STAT_LEAVES = 1023 ∧
          (∀ f, f ∈ t.chip.flash → c.nextTree ∈ f.trees) ∧ t.chip.items = c.items ∧ t.chip.mem = c.mem))) ∧
    (∀ handle, c.Accepts d q (.status handle) →
      (c.opOfHandle handle = none → answers (.longStatus d) (.plain 5) stays) ∧
      (∀ h, c.opOfHandle handle = some h → answers (.longStatus d) ⟨0, [(recordMap [(14, .uint (c.get F.LONG_STAT_STATE h)),
        (15, .uint (c.get F.LONG_STAT_PROGRESS h)), (16, .uint (c.get F.LONG_STAT_RESULT h))]).enc]⟩ stays)) ∧
    (∀ handle, c.Accepts d q (.abort handle) →
      (c.opOfHandle handle = none → answers (.longAbort d) (.plain 5) stays) ∧
      (∀ h, c.opOfHandle handle = some h →
        (c.safeHold = false → q.role < (c.op h).role → answers (.longAbort d) (.plain 2) stays) ∧
        (c.safeHold = true ∨ (c.op h).role ≤ q.role →
          (2 ≤ c.get F.LONG_STAT_STATE h → answers (.longAbort d) .done stays) ∧
          (c.get F.LONG_STAT_STATE h = 0 → answers (.longAbort d) .done (fun t => t.get F.LONG_STAT_STATE h = 4 ∧
            (t.op h).endedAt = some c.upNs ∧ t.items = c.items)) ∧
          (c.get F.LONG_STAT_STATE h = 1 → answers (.longAbort d) .done (fun t => t.op h = { c.op h with abort := true } ∧
            t = { c with net := t.net, mgmt := t.mgmt }))))) ∧
    (∀ handle off bytes, c.Accepts d q (.data handle off bytes) →
      (c.opOfKind 1 = none → answers (.stageData d) (.plain 5) stays) ∧
      (∀ h, c.opOfKind 1 = some h → c.get F.LONG_STAT_STATE h = 1 → handle.getD (c.get F.LONG_HND_HANDLE h) = c.get F.LONG_HND_HANDLE h →
        let o := c.op h
        let inside := decide (0x1000 ≤ off) && decide (off + bytes.length ≤ o.len)
        let agrees := ∀ k, k < bytes.length → gotAt o.got (off + k) = true →
          smGet 0xFF (c.flashDev o.target).data (off + k) = bytes.getD k 0
        (o.bad = false → inside = true → agrees → o.target < c.flash.length → answers (.stageData d) .done (fun t =>
          (∀ k, k < bytes.length → smGet 0xFF (t.flashDev o.target).data (off + k) = bytes.getD k 0) ∧
          (∀ k, gotAt (t.op h).got k = (gotAt o.got k || (decide (off ≤ k) && decide (k < off + bytes.length)))) ∧
          (t.op h).bad = false ∧ t.items = c.items)) ∧
        (inside = false ∨ ¬ agrees → answers (.stageData d) .done (fun t => (t.op h).bad = true ∧ t.flash = c.flash ∧
          t.items = c.items)))) ∧
    (∀ (i : Instr) (kind : Nat) (a : NmpAct), c.Accepts d q a → c.mgmt.nextHandle < 65536 →
      ((∃ l v, a = .stage l v) ∧ i = .stageImage d ∧ kind = 1 ∨ (∃ n, a = .capture n) ∧ i = .captureStart d ∧ kind = 2 ∨
        (∃ e, a = .commit e) ∧ i = .adapterCommit d ∧ kind = 3 ∨ a = .scrub ∧ i = .ddr4Scrub d ∧ kind = 4 ∨
        a = .selfTest ∧ i = .spareSelfTest d ∧ kind = 5) →
      let lost := (kind = 1 ∨ kind = 3) ∧ c.secure = false
      let entry := (List.range 8).find? (fun h => !c.opLive h)
      let may := (kind = 1 → c.fuses.customer.isSome = true) ∧ (∀ n, a = .capture n → (c.stream n).page = none ∧
        c.get F.SNS_STATE_STATE n = 3 ∧ c.flag F.HOLD_STAT_FORCE (n / 2) = true)
      (lost → answers i (.plain 7) stays) ∧
      (¬ lost → (c.opOfKind kind).isSome = true → answers i (.plain 4) stays) ∧
      (¬ lost → c.opOfKind kind = none → entry = none → answers i (.plain 5) stays) ∧
      (∀ h, ¬ lost → c.opOfKind kind = none → entry = some h → may → answers i (startedReply c.mgmt.nextHandle) (fun t =>
        t.get F.LONG_STAT_KIND h = kind ∧ t.get F.LONG_HND_HANDLE h = c.mgmt.nextHandle ∧ (t.op h).role = q.role ∧
        t.get F.LONG_STAT_STATE h = (if (kind = 1 ∨ kind = 3) ∧ c.flashFree = false then 0 else 1) ∧
        t.mgmt.nextHandle = (if c.mgmt.nextHandle = 65535 then 1 else c.mgmt.nextHandle + 1) ∧ t.items = c.items ∧
        (∀ n, a = .capture n → (t.stream n).capturing = true) ∧
        (kind = 3 → c.flashFree = true → t.flag F.ADAPT_STAT_COMMITTING = true) ∧
        (∀ l v, a = .stage l v → c.flashFree = true → ∀ b, b < l →
          smGet 0xFF (t.flashDev (if c.safeHold then v.getD 1 else 1 - c.get F.BOOT_STAT_SLOT)).data b = 0xFF))) ∧
      (∀ n h, a = .capture n → c.opOfKind kind = none → entry = some h → (c.stream n).page.isSome = true →
        answers i (.refused (txt "busy")) stays))

/-- R516 to R518, R510, R519, R334, R335: a running operation ends DONE, FAILED or ABORTED with its time; a staging
whose image verifies writes its activation record, a commit writes both adapter areas; an expired entry is unused
again. Fuses are blown once and only while every instruction is open; a token that its roots signed opens JTAG; an
instruction that is not open leaves BYPASS. The I²C window reads words from its index on. Choices of the model: log
entries 6, 25, 26, 58, 59, 62, 64, 66, 67 and 68. -/
def Obligations.OperationsFusesAndWindow : Prop :=
  ∀ s : State, s.chip.On →
    let c := s.chip
    (∀ (handle : Nat) (e : LongEnd),
      (c.opOfHandle handle = none → exec (.longOpEnd handle e) s = .next s ∧ exec (.longHandleExpire handle) s = .next s) ∧
      (∀ h, c.opOfHandle handle = some h →
        let o := c.op h
        let st := c.get F.LONG_STAT_STATE h
        let kind := c.get F.LONG_STAT_KIND h
        let queued := ∃ g, g < 8 ∧ c.opOpen g = true ∧ c.get F.LONG_STAT_STATE g = 0
        let ends := fun (state result : Nat) (P : Chip → Prop) => ∃ t, exec (.longOpEnd handle e) s = .next t ∧
          t.pending = s.pending ∧ t.chip.get F.LONG_STAT_STATE h = state ∧ t.chip.get F.LONG_STAT_RESULT h = result ∧
          (t.chip.op h).endedAt = some c.upNs ∧ P t.chip ∧ t.chip.items = c.items ∧ t.chip.mem = c.mem ∧
          t.chip.image = c.image ∧ t.chip.clock = c.clock ∧ t.chip.fuses = c.fuses ∧ t.chip.boot = c.boot
        (st ≠ 1 ∨ e = .aborted ∧ o.abort = false → exec (.longOpEnd handle e) s = .next s) ∧
        (st = 1 → 4 ≤ kind → o.abort = false →
          (e = .done → ends 2 0 (fun t => t.get F.LONG_STAT_PROGRESS h = 65535 ∧ t.flash = c.flash)) ∧
          (∀ code, e = .failed code → ends 3 (code % 256) (fun t => t.flash = c.flash))) ∧
        (st = 1 → 4 ≤ kind → o.abort = true → ends 4 0 (fun t => t.flash = c.flash)) ∧
        (st = 1 → kind = 2 → o.abort = false →
          (e = .done → exec (.longOpEnd handle e) s = .next s) ∧
          (∀ code, e = .failed code → ends 3 (code % 256) (fun t => (t.stream o.target).capturing = false ∧
            (t.stream o.target).refs = (c.stream o.target).refs))) ∧
        (st = 1 → kind = 1 → o.abort = false → o.bad = false → e = .done →
          (o.got ≠ [(0x1000, o.len)] → exec (.longOpEnd handle e) s = .next s) ∧
          (o.got = [(0x1000, o.len)] → ¬ queued → o.rank + 1 < 2 ^ 64 → o.target < c.flash.length →
            let v := c.stageVerify o.target
            ends (if v = 0 then 2 else 3) (v % 256) (fun t =>
              if v = 0 then (t.flashDev o.target).activation = some (o.rank + 1) else t.flash = c.flash))) ∧
        (st = 1 → kind = 3 → o.abort = false → e = .done → ¬ queued → ends 2 0 (fun t =>
          (∀ x, x < 2 → x < c.flash.length → (t.flashDev x).area = some (c.newArea o.empty)) ∧
          t.flag F.ADAPT_STAT_COMMITTING = false)) ∧
        (o.endedAt = none → exec (.longHandleExpire handle) s = .next s) ∧
        (o.endedAt.isSome = true → ∃ t, exec (.longHandleExpire handle) s = .next t ∧ t.pending = s.pending ∧
          t.chip.opLive h = false ∧ t.chip.word .LONG_HND h = 0 ∧ t.chip.op h = LongOp.cold ∧
          t.chip = { c with regs := t.chip.regs, mgmt := t.chip.mgmt }))) ∧
    (c.get F.FUSE_STAT_JTAG ≠ 3 → ∀ w, exec (.fuseProg w) s = .next s) ∧
    (c.get F.FUSE_STAT_JTAG = 3 →
      let blows := fun (w : FuseIn) (f : Fuses) => ∃ t, exec (.fuseProg w) s = .next t ∧ t.pending = s.pending ∧
        t.chip = { c with regs := t.chip.regs, fuses := f } ∧ t.chip.flag F.FUSE_STAT_CUSTOMER = f.customer.isSome ∧
        t.chip.flag F.FUSE_STAT_WRAP = f.wrap.isSome ∧ t.chip.get F.FUSE_STAT_JTAG = 3
      (∀ h : List Byte, h.length = 48 → c.fuses.customer = none → blows (.customerRoot h) { c.fuses with customer := some h }) ∧
      (∀ h : List Byte, c.fuses.customer.isSome = true → blows (.customerRoot h) c.fuses) ∧
      (∀ k : List Byte, k.length = 32 → c.fuses.wrap = none → blows (.wrapKey k) { c.fuses with wrap := some k }) ∧
      (∀ x m, blows (.net x m) { c.fuses with netPort := c.fuses.netPort ||| x.val, netMode := c.fuses.netMode ||| m.val })) ∧
    (let old := c.get F.FUSE_STAT_JTAG
     let holds : List Byte → Bool := fun t => match c.fuses.customer with
       | none => false
       | some root => Config.tokenHolds t Config.deviceId (c.get F.JTAG_NONCE_NONCE) && Config.tokenSigned root t
     let opens := fun (t : List Byte) (u : Chip) => u.get F.FUSE_STAT_JTAG =
       (if holds t = true then
         (if old = 3 then 3 else Nat.max old (if Config.tokenSigned Config.vendorRoot t = true then 2 else 1)) else old)
     (∀ t, ∃ u, exec (.jtagToken (.viaJtag t)) s = .next u ∧ u.pending = s.pending ∧ opens t u.chip ∧
       (∀ r i j, r.addr i j ≠ Reg.addr .FUSE_STAT 0 0 → u.chip.word r i j = c.word r i j) ∧
       u.chip = { c with regs := u.chip.regs }) ∧
     (∀ t d q, c.Accepts d q (.token t) → ∃ u, exec (.jtagToken (.viaNmp d)) s = .next u ∧ u.pending = s.pending ∧
       opens t u.chip ∧ c.Replied u.chip d q (if holds t = true then .done else .refused (Config.reasonText 0)) ∧
       u.chip = { c with regs := u.chip.regs, net := u.chip.net, mgmt := u.chip.mgmt })) ∧
    (∀ i, exec (.jtagInstruction i) s = .next ⟨s.pending,
      { c with mgmt := { c.mgmt with jtag := if c.jtagOpen i = true then i else .bypass } }⟩) ∧
    (∀ hi lo rest, exec (.i2cIndexWrite (hi :: lo :: rest)) s = .next ⟨s.pending,
      { c with mgmt := { c.mgmt with i2cIndex := 256 * hi.toNat + lo.toNat } }⟩) ∧
    (∀ l : List Byte, l.length < 2 → exec (.i2cIndexWrite l) s = .next s) ∧
    (∀ n, ∃ t, exec (.i2cRead n) s = .next t ∧ t.pending = s.pending ∧
      t.chip.mgmt.i2cIndex = (c.mgmt.i2cIndex + n) % 65536 ∧ t.chip.mgmt.i2cOut.length = 4 * n ∧
      (∀ k, k < n → (t.chip.mgmt.i2cOut.drop (4 * k)).take 4 = leBytes 4 (c.i2cWord ((c.mgmt.i2cIndex + k) % 65536))) ∧
      t.chip = { c with mgmt := { c.mgmt with i2cIndex := t.chip.mgmt.i2cIndex, i2cOut := t.chip.mgmt.i2cOut } }) ∧
    (c.i2cWord 0 = c.word .BOOT_STAT ∧ c.i2cWord 1 = c.word .FUSE_STAT ∧ c.i2cWord 5 = c.word .GOV_STATUS ∧
      (∀ k, k < 8 → c.i2cWord (9 + k) = c.word .HOLD_STAT k) ∧ (∀ k, 19 ≤ k → c.i2cWord k = 0))
end

