-- ==== Sys2Proof/Laws/Sparse.lean ====
section
/-!
SUPPORT. Sparse maps and memories: a read after a write, and that a write keeps the canonical form.
-/

namespace Sys2Proof.Machine

set_option linter.unusedSectionVars false

variable {α : Type} [DecidableEq α] {d : α}

/-! ## A read after a write -/

theorem smGet_smDel {m : SMap α} {k k' : Nat} : smGet d (smDel m k) k' = if k' = k then d else smGet d m k' := by
  induction m with
  | nil => simp [smDel, smGet]
  | cons e r ih =>
    obtain ⟨a, w⟩ := e
    unfold smDel
    split
    · next ha =>
      subst ha
      rw [ih]
      by_cases h : k' = a
      · simp [h]
      · simp [h, smGet, Ne.symm h]
    · next ha =>
      by_cases h : k' = k
      · subst h; simpa [smGet, ha] using ih
      · simp only [h, if_false] at ih
        simp only [smGet, ih, h, if_false]

theorem mem_smDel {α : Type} {m : SMap α} {k : Nat} {e : Nat × α} (h : e ∈ smDel m k) : e ∈ m ∧ e.1 ≠ k := by
  induction m with
  | nil => cases h
  | cons x r ih =>
    obtain ⟨a, w⟩ := x
    unfold smDel at h
    split at h
    · exact ⟨List.mem_cons_of_mem _ (ih h).1, (ih h).2⟩
    · next ha =>
      rcases List.mem_cons.1 h with h | h
      · subst h; exact ⟨List.mem_cons_self, ha⟩
      · exact ⟨List.mem_cons_of_mem _ (ih h).1, (ih h).2⟩

theorem smGet_smIns {m : SMap α} {k k' : Nat} {v : α} (hk : ∀ e ∈ m, e.1 ≠ k) :
    smGet d (smIns k v m) k' = if k' = k then v else smGet d m k' := by
  induction m with
  | nil => simp [smIns, smGet, eq_comm (a := k)]
  | cons e r ih =>
    obtain ⟨a, w⟩ := e
    have hak : a ≠ k := hk (a, w) (by simp)
    have ih := ih (fun e he => hk e (by simp [he]))
    unfold smIns
    split
    · by_cases h : k' = k
      · simp [smGet, h]
      · simp [smGet, h, Ne.symm h]
    · by_cases h : k' = k
      · subst h; simpa [smGet, hak] using ih
      · simp only [h, if_false] at ih
        simp only [smGet, ih, h, if_false]

/-- What a key holds after a write. -/
theorem smGet_smSet (m : SMap α) (k k' : Nat) (v : α) :
    smGet d (smSet d m k v) k' = if k' = k then v else smGet d m k' := by
  unfold smSet
  split
  · next hv => rw [smGet_smDel, hv]
  · rw [smGet_smIns (fun e he => (mem_smDel he).2), smGet_smDel]
    split <;> rfl

@[simp] theorem smGet_smSet_self (m : SMap α) (k : Nat) (v : α) : smGet d (smSet d m k v) k = v := by
  simp [smGet_smSet]

/-- Another key, whatever default either operation takes. -/
theorem smGet_smSet_ne {d' : α} (m : SMap α) {k k' : Nat} (v : α) (h : k' ≠ k) : smGet d (smSet d' m k v) k' = smGet d m k' := by
  unfold smSet
  split
  · rw [smGet_smDel, if_neg h]
  · rw [smGet_smIns (fun e he => (mem_smDel he).2), smGet_smDel, if_neg h, if_neg h]

/-- What a key holds after an update. -/
theorem smGet_smMod (m : SMap α) (k k' : Nat) (f : α → α) :
    smGet d (smMod d m k f) k' = if k' = k then f (smGet d m k) else smGet d m k' := smGet_smSet ..

@[simp] theorem smGet_smMod_self (m : SMap α) (k : Nat) (f : α → α) : smGet d (smMod d m k f) k = f (smGet d m k) := by
  simp [smGet_smMod]

theorem smGet_smMod_ne (m : SMap α) {k k' : Nat} (f : α → α) (h : k' ≠ k) : smGet d (smMod d m k f) k' = smGet d m k' := by
  simp [smGet_smMod, h]

/-! ## Canonical form -/

theorem smOkFrom_mono {m : SMap α} {lo lo' : Nat} (h : lo' ≤ lo) (ok : smOkFrom d lo m = true) : smOkFrom d lo' m = true := by
  cases m with
  | nil => rfl
  | cons e r =>
    simp only [smOkFrom, Bool.and_eq_true, decide_eq_true_eq] at ok ⊢
    exact ⟨⟨Nat.le_trans h ok.1.1, ok.1.2⟩, ok.2⟩

theorem smOkFrom_filter {m : SMap α} {p : Nat × α → Bool} : ∀ {lo : Nat}, smOkFrom d lo m = true →
    smOkFrom d lo (m.filter p) = true := by
  induction m with
  | nil => intros; rfl
  | cons e r ih =>
    obtain ⟨x, w⟩ := e
    intro lo ok
    simp only [smOkFrom, Bool.and_eq_true, decide_eq_true_eq] at ok
    rw [List.filter_cons]
    split
    · simp only [smOkFrom, Bool.and_eq_true, decide_eq_true_eq]
      exact ⟨ok.1, ih ok.2⟩
    · exact smOkFrom_mono (by omega) (ih ok.2)

theorem smOkFrom_smDel {m : SMap α} {k : Nat} : ∀ {lo : Nat}, smOkFrom d lo m = true → smOkFrom d lo (smDel m k) = true := by
  induction m with
  | nil => intros; rfl
  | cons e r ih =>
    obtain ⟨x, w⟩ := e
    intro lo ok
    simp only [smOkFrom, Bool.and_eq_true, decide_eq_true_eq] at ok
    unfold smDel
    split
    · exact smOkFrom_mono (by omega) (ih ok.2)
    · simp only [smOkFrom, Bool.and_eq_true, decide_eq_true_eq]
      exact ⟨ok.1, ih ok.2⟩

theorem smOkFrom_smIns {m : SMap α} {k : Nat} {v : α} (hv : v ≠ d) (hk : ∀ e ∈ m, e.1 ≠ k) :
    ∀ {lo : Nat}, lo ≤ k → smOkFrom d lo m = true → smOkFrom d lo (smIns k v m) = true := by
  induction m with
  | nil => intro lo h _; simp [smIns, smOkFrom, h, hv]
  | cons e r ih =>
    obtain ⟨x, w⟩ := e
    intro lo h ok
    have hx : x ≠ k := hk (x, w) (by simp)
    simp only [smOkFrom, Bool.and_eq_true, decide_eq_true_eq] at ok
    unfold smIns
    split
    · simp only [smOkFrom, Bool.and_eq_true, decide_eq_true_eq]
      exact ⟨⟨h, hv⟩, ⟨by omega, ok.1.2⟩, ok.2⟩
    · simp only [smOkFrom, Bool.and_eq_true, decide_eq_true_eq]
      exact ⟨ok.1, ih (fun e he => hk e (by simp [he])) (by omega) ok.2⟩

/-- Leaving entries out keeps the canonical form. -/
theorem smOk_filter {m : SMap α} {p : Nat × α → Bool} (h : smOk d m = true) : smOk d (m.filter p) = true :=
  smOkFrom_filter h

/-- A write keeps the canonical form. -/
theorem smSet_ok {m : SMap α} {k : Nat} {v : α} (h : smOk d m = true) : smOk d (smSet d m k v) = true := by
  unfold smSet
  split
  · exact smOkFrom_smDel h
  · next hv => exact smOkFrom_smIns hv (fun e he => (mem_smDel he).2) (Nat.zero_le _) (smOkFrom_smDel h)

/-- An update keeps the canonical form. -/
theorem smMod_ok {m : SMap α} {k : Nat} {f : α → α} (h : smOk d m = true) : smOk d (smMod d m k f) = true := smSet_ok h

theorem smIns_all {p : α → Bool} {m : SMap α} {k : Nat} {v : α} (h : m.all (fun e => p e.2) = true) (hv : p v = true) :
    (smIns k v m).all (fun e => p e.2) = true := by
  induction m with
  | nil => simp [smIns, hv]
  | cons e r ih =>
    simp only [List.all_cons, Bool.and_eq_true] at h
    unfold smIns
    split
    · simp only [List.all_cons, Bool.and_eq_true]; exact ⟨hv, h⟩
    · simp only [List.all_cons, Bool.and_eq_true]; exact ⟨h.1, ih h.2⟩

/-- A property of every value stays after a write of a value that has it. -/
theorem smSet_all {p : α → Bool} {m : SMap α} {k : Nat} {v : α} (h : m.all (fun e => p e.2) = true) (hv : p v = true) :
    (smSet d m k v).all (fun e => p e.2) = true := by
  have hf : (smDel m k).all (fun e => p e.2) = true := by
    simp only [List.all_eq_true] at h ⊢
    exact fun x hx => h x (mem_smDel hx).1
  unfold smSet
  split
  · exact hf
  · exact smIns_all hf hv

theorem smGet_all {p : α → Bool} {m : SMap α} {k : Nat} (h : m.all (fun e => p e.2) = true) (hd : p d = true) :
    p (smGet d m k) = true := by
  induction m with
  | nil => exact hd
  | cons e r ih =>
    simp only [List.all_cons, Bool.and_eq_true] at h
    unfold smGet
    split
    · exact h.1
    · exact ih h.2

/-! ## Memories -/

/-- A byte written reads back, and every other byte stays. -/
theorem memRead_memWrite (m : Memory) (a a' : Nat) (b : Byte) :
    memRead (memWrite m a b) a' = if a' = a then b else memRead m a' := smGet_smSet ..

/-- Bytes outside a run that is written stay. -/
theorem memRead_memWrites_out (l : List Byte) : ∀ (m : Memory) (a a' : Nat), (a' < a ∨ a + l.length ≤ a') →
    memRead (memWrites m a l) a' = memRead m a' := by
  induction l with
  | nil => intros; rfl
  | cons b r ih =>
    intro m a a' h
    simp only [List.length_cons] at h
    unfold memWrites
    rw [ih _ _ _ (by omega)]
    exact smGet_smSet_ne _ _ (by omega)

/-- A run that is written reads back. -/
theorem memReads_memWrites (l : List Byte) : ∀ (m : Memory) (a : Nat), memReads (memWrites m a l) a l.length = l := by
  induction l with
  | nil => intros; rfl
  | cons b r ih =>
    intro m a
    simp only [List.length_cons, memReads, memWrites, ih, List.cons.injEq, and_true]
    rw [memRead_memWrites_out _ _ _ _ (by omega)]
    exact smGet_smSet_self _ _ _

/-- A write of one byte keeps the canonical form. -/
theorem memWrite_wf {m : Memory} {a : Nat} {b : Byte} (h : Memory.wf m = true) : Memory.wf (memWrite m a b) = true := smSet_ok h

/-- A write of a run keeps the canonical form. -/
theorem memWrites_wf (l : List Byte) : ∀ (m : Memory) (a : Nat), Memory.wf m = true → Memory.wf (memWrites m a l) = true := by
  induction l with
  | nil => intro m a h; exact h
  | cons b r ih => intro m a h; exact ih _ _ (smSet_ok h)

end Sys2Proof.Machine
end

