-- ==== Sys2Proof/Laws/Regs.lean ====
section
/-!
SUPPORT. Registers: what a field reads as after a write of the same field, of another field of the same register, and of
another register.
-/

namespace Sys2Proof.Machine

/-! ## Bit fields of numbers -/

theorem bitsOf_lt (v lo w : Nat) : bitsOf v lo w < 2 ^ w := Nat.mod_lt _ (Nat.two_pow_pos w)

/-- A number splits at a field. -/
theorem split_bits (v lo w : Nat) :
    v = v % 2 ^ lo + bitsOf v lo w * 2 ^ lo + v / 2 ^ (lo + w) * 2 ^ (lo + w) := by
  have h1 := Nat.div_add_mod v (2 ^ lo)
  have h2 := Nat.div_add_mod (v / 2 ^ lo) (2 ^ w)
  rw [Nat.div_div_eq_div_mul, ← Nat.pow_add] at h2
  unfold bitsOf
  rw [Nat.shiftRight_eq_div_pow]
  generalize hm : v / 2 ^ lo % 2 ^ w = m at *
  generalize hq : v / 2 ^ (lo + w) = q at *
  generalize hr : v % 2 ^ lo = r at *
  rw [← h2] at h1
  rw [Nat.pow_add]
  calc v = 2 ^ lo * (2 ^ w * q + m) + r := h1.symm
    _ = r + m * 2 ^ lo + q * (2 ^ lo * 2 ^ w) := by ring

/-- A replaced field, by its parts. -/
theorem putBits_eq (v lo w x : Nat) :
    putBits v lo w x = v % 2 ^ lo + x % 2 ^ w * 2 ^ lo + v / 2 ^ (lo + w) * 2 ^ (lo + w) := by
  have h := split_bits v lo w
  unfold putBits
  omega

/-- A number made of three parts has those parts. -/
theorem bits_parts {a b q lo w : Nat} (ha : a < 2 ^ lo) (hb : b < 2 ^ w) :
    (a + b * 2 ^ lo + q * 2 ^ (lo + w)) % 2 ^ lo = a ∧ bitsOf (a + b * 2 ^ lo + q * 2 ^ (lo + w)) lo w = b ∧
    (a + b * 2 ^ lo + q * 2 ^ (lo + w)) / 2 ^ (lo + w) = q := by
  have hp := Nat.two_pow_pos lo
  have hpw := Nat.two_pow_pos w
  have e : a + b * 2 ^ lo + q * 2 ^ (lo + w) = a + 2 ^ lo * (b + 2 ^ w * q) := by rw [Nat.pow_add]; ring
  have d : (a + b * 2 ^ lo + q * 2 ^ (lo + w)) / 2 ^ lo = b + 2 ^ w * q := by
    rw [e, Nat.add_mul_div_left _ _ hp, Nat.div_eq_of_lt ha, Nat.zero_add]
  refine ⟨?_, ?_, ?_⟩
  · rw [e, Nat.add_mul_mod_self_left, Nat.mod_eq_of_lt ha]
  · unfold bitsOf
    rw [Nat.shiftRight_eq_div_pow, d, Nat.add_mul_mod_self_left, Nat.mod_eq_of_lt hb]
  · rw [Nat.pow_add, ← Nat.div_div_eq_div_mul, ← Nat.pow_add, d, Nat.add_mul_div_left _ _ hpw, Nat.div_eq_of_lt hb, Nat.zero_add]

/-- The field that was replaced. -/
theorem bitsOf_putBits_self (v lo w x : Nat) : bitsOf (putBits v lo w x) lo w = x % 2 ^ w := by
  rw [putBits_eq]
  exact (bits_parts (Nat.mod_lt _ (Nat.two_pow_pos lo)) (Nat.mod_lt _ (Nat.two_pow_pos w))).2.1

/-- A field above or below the one that was replaced. -/
theorem bitsOf_putBits_ne (v lo w x lo' w' : Nat) (h : lo' + w' ≤ lo ∨ lo + w ≤ lo') :
    bitsOf (putBits v lo w x) lo' w' = bitsOf v lo' w' := by
  obtain ⟨h1, -, h3⟩ := bits_parts (q := v / 2 ^ (lo + w)) (Nat.mod_lt v (Nat.two_pow_pos lo)) (Nat.mod_lt x (Nat.two_pow_pos w))
  rw [← putBits_eq v lo w x] at h1 h3
  unfold bitsOf
  rw [Nat.shiftRight_eq_div_pow, Nat.shiftRight_eq_div_pow]
  rcases h with h | h
  · obtain ⟨k, rfl⟩ := Nat.exists_eq_add_of_le h
    have f : ∀ n : Nat, n / 2 ^ lo' % 2 ^ w' = n % 2 ^ (lo' + w' + k) / 2 ^ lo' % 2 ^ w' := by
      intro n
      rw [show 2 ^ (lo' + w' + k) = 2 ^ lo' * (2 ^ w' * 2 ^ k) by rw [Nat.pow_add, Nat.pow_add, Nat.mul_assoc],
        Nat.mod_mul_right_div_self, Nat.mod_mul_right_mod]
    rw [f, h1, ← f]
  · obtain ⟨k, rfl⟩ := Nat.exists_eq_add_of_le h
    rw [Nat.pow_add 2 (lo + w) k, ← Nat.div_div_eq_div_mul, h3, Nat.div_div_eq_div_mul]

theorem putBits_lt {v lo w x n : Nat} (hv : v < 2 ^ n) (h : lo + w ≤ n) : putBits v lo w x < 2 ^ n := by
  rw [putBits_eq]
  have ha := Nat.mod_lt v (Nat.two_pow_pos lo)
  have hb := Nat.mod_lt x (Nat.two_pow_pos w)
  obtain ⟨k, rfl⟩ := Nat.exists_eq_add_of_le h
  have hq : v / 2 ^ (lo + w) < 2 ^ k := by
    rw [Nat.div_lt_iff_lt_mul (Nat.two_pow_pos _), Nat.mul_comm, ← Nat.pow_add]; exact hv
  have e1 : v % 2 ^ lo + x % 2 ^ w * 2 ^ lo < 2 ^ (lo + w) := by
    rw [Nat.pow_add]
    calc v % 2 ^ lo + x % 2 ^ w * 2 ^ lo < 2 ^ lo + x % 2 ^ w * 2 ^ lo := by omega
      _ = (x % 2 ^ w + 1) * 2 ^ lo := by ring
      _ ≤ 2 ^ w * 2 ^ lo := Nat.mul_le_mul_right _ hb
      _ = 2 ^ lo * 2 ^ w := Nat.mul_comm _ _
  rw [Nat.pow_add 2 (lo + w) k]
  generalize 2 ^ (lo + w) = m at *
  calc _ < m + v / m * m := by omega
    _ = (v / m + 1) * m := by ring
    _ ≤ 2 ^ k * m := Nat.mul_le_mul_right _ hq
    _ = m * 2 ^ k := Nat.mul_comm _ _

/-! ## Words and fields -/

theorem Chip.word_lt (c : Chip) (r : Reg) (i j : Nat) : c.word r i j < 2 ^ 32 := BitVec.isLt _

/-- A word that was written. -/
theorem Chip.word_setWord_self (c : Chip) (r : Reg) (i j v : Nat) (h : r.has i j = true) :
    (c.setWord r i j v).word r i j = v % 2 ^ 32 := by
  unfold Chip.word Chip.setWord
  simp [h]

/-- Any other word. -/
theorem Chip.word_setWord_ne (c : Chip) {r r' : Reg} {i j i' j' : Nat} (v : Nat) (h : r'.addr i' j' ≠ r.addr i j) :
    (c.setWord r i j v).word r' i' j' = c.word r' i' j' := by
  unfold Chip.word Chip.setWord
  cases r.has i j <;> simp only [if_true, Bool.false_eq_true, if_false, smGet_smSet_ne _ _ h]

/-- An instance that a row does not have stores nothing. -/
theorem Chip.setWord_none (c : Chip) (r : Reg) (i j v : Nat) (h : r.has i j = false) : c.setWord r i j v = c := by
  unfold Chip.setWord
  simp [h]

/-- A field that was written. -/
theorem Chip.get_put_self (c : Chip) (f : Fld) (v i j : Nat) (hr : f.reg.has i j = true) (h : f.lo + f.w ≤ 32) :
    (c.put f v i j).get f i j = v % 2 ^ f.w := by
  unfold Chip.get Chip.put
  rw [Chip.word_setWord_self _ _ _ _ _ hr, Nat.mod_eq_of_lt (putBits_lt (c.word_lt _ _ _) h), bitsOf_putBits_self]

/-- Another field of the register instance that was written. -/
theorem Chip.get_put_field (c : Chip) (f g : Fld) (v i j : Nat) (hg : g.reg = f.reg) (h : f.lo + f.w ≤ 32)
    (hd : g.lo + g.w ≤ f.lo ∨ f.lo + f.w ≤ g.lo) : (c.put f v i j).get g i j = c.get g i j := by
  unfold Chip.get Chip.put
  cases hr : f.reg.has i j
  · rw [Chip.setWord_none _ _ _ _ _ hr]
  · rw [hg, Chip.word_setWord_self _ _ _ _ _ hr, Nat.mod_eq_of_lt (putBits_lt (c.word_lt _ _ _) h), bitsOf_putBits_ne _ _ _ _ _ _ hd]

/-- A field of another register instance. -/
theorem Chip.get_put_ne (c : Chip) (f g : Fld) (v i j i' j' : Nat) (h : g.reg.addr i' j' ≠ f.reg.addr i j) :
    (c.put f v i j).get g i' j' = c.get g i' j' := by
  unfold Chip.get Chip.put
  rw [Chip.word_setWord_ne _ _ h]

theorem Chip.get_lt (c : Chip) (f : Fld) (i j : Nat) : c.get f i j < 2 ^ f.w := bitsOf_lt _ _ _

/-- A one-bit field that was written. -/
theorem Chip.flag_putB_self (c : Chip) (f : Fld) (b : Bool) (i j : Nat) (hr : f.reg.has i j = true) (h : f.lo + f.w ≤ 32)
    (hw : f.w = 1) : (c.putB f b i j).flag f i j = b := by
  unfold Chip.flag Chip.putB
  rw [Chip.get_put_self _ _ _ _ _ hr h, hw]
  cases b <;> rfl

/-- A counter never passes its largest value. -/
theorem Chip.get_bump_self (c : Chip) (f : Fld) (i j n : Nat) (hr : f.reg.has i j = true)
    (h : f.lo + f.w ≤ 32) : (c.bump f i j n).get f i j = Nat.min (c.get f i j + n) (2 ^ f.w - 1) := by
  unfold Chip.bump
  rw [Chip.get_put_self _ _ _ _ _ hr h, Nat.mod_eq_of_lt]
  have := Nat.two_pow_pos f.w
  exact Nat.lt_of_le_of_lt (Nat.min_le_right _ _) (by omega)

end Sys2Proof.Machine
end

