-- ==== Sys2Proof/Laws/State.lean ====
section
/-!
SUPPORT. What each update of the device leaves alone: one lemma per field and update, and the registers under
updates of other parts.
-/

namespace Sys2Proof.Machine

variable (c : Chip)

/-! ## setWord -/

@[simp] theorem Chip.setWord_free (r : Reg) (i j v : Nat) : (c.setWord r i j v).free = c.free := rfl
@[simp] theorem Chip.setWord_image (r : Reg) (i j v : Nat) : (c.setWord r i j v).image = c.image := rfl
@[simp] theorem Chip.setWord_clock (r : Reg) (i j v : Nat) : (c.setWord r i j v).clock = c.clock := rfl
@[simp] theorem Chip.setWord_fabric (r : Reg) (i j v : Nat) : (c.setWord r i j v).fabric = c.fabric := rfl
@[simp] theorem Chip.setWord_mem (r : Reg) (i j v : Nat) : (c.setWord r i j v).mem = c.mem := rfl
@[simp] theorem Chip.setWord_sched (r : Reg) (i j v : Nat) : (c.setWord r i j v).sched = c.sched := rfl
@[simp] theorem Chip.setWord_recov (r : Reg) (i j v : Nat) : (c.setWord r i j v).recov = c.recov := rfl
@[simp] theorem Chip.setWord_streams (r : Reg) (i j v : Nat) : (c.setWord r i j v).streams = c.streams := rfl
@[simp] theorem Chip.setWord_transports (r : Reg) (i j v : Nat) : (c.setWord r i j v).transports = c.transports := rfl
@[simp] theorem Chip.setWord_items (r : Reg) (i j v : Nat) : (c.setWord r i j v).items = c.items := rfl
@[simp] theorem Chip.setWord_subs (r : Reg) (i j v : Nat) : (c.setWord r i j v).subs = c.subs := rfl
@[simp] theorem Chip.setWord_formed (r : Reg) (i j v : Nat) : (c.setWord r i j v).formed = c.formed := rfl
@[simp] theorem Chip.setWord_net (r : Reg) (i j v : Nat) : (c.setWord r i j v).net = c.net := rfl
@[simp] theorem Chip.setWord_servo (r : Reg) (i j v : Nat) : (c.setWord r i j v).servo = c.servo := rfl
@[simp] theorem Chip.setWord_sessions (r : Reg) (i j v : Nat) : (c.setWord r i j v).sessions = c.sessions := rfl
@[simp] theorem Chip.setWord_kv (r : Reg) (i j v : Nat) : (c.setWord r i j v).kv = c.kv := rfl
@[simp] theorem Chip.setWord_adapt (r : Reg) (i j v : Nat) : (c.setWord r i j v).adapt = c.adapt := rfl
@[simp] theorem Chip.setWord_boot (r : Reg) (i j v : Nat) : (c.setWord r i j v).boot = c.boot := rfl
@[simp] theorem Chip.setWord_fuses (r : Reg) (i j v : Nat) : (c.setWord r i j v).fuses = c.fuses := rfl
@[simp] theorem Chip.setWord_flash (r : Reg) (i j v : Nat) : (c.setWord r i j v).flash = c.flash := rfl
@[simp] theorem Chip.setWord_mgmt (r : Reg) (i j v : Nat) : (c.setWord r i j v).mgmt = c.mgmt := rfl

/-! ## put -/

@[simp] theorem Chip.put_free (f : Fld) (v i j : Nat) : (c.put f v i j).free = c.free := rfl
@[simp] theorem Chip.put_image (f : Fld) (v i j : Nat) : (c.put f v i j).image = c.image := rfl
@[simp] theorem Chip.put_clock (f : Fld) (v i j : Nat) : (c.put f v i j).clock = c.clock := rfl
@[simp] theorem Chip.put_fabric (f : Fld) (v i j : Nat) : (c.put f v i j).fabric = c.fabric := rfl
@[simp] theorem Chip.put_mem (f : Fld) (v i j : Nat) : (c.put f v i j).mem = c.mem := rfl
@[simp] theorem Chip.put_sched (f : Fld) (v i j : Nat) : (c.put f v i j).sched = c.sched := rfl
@[simp] theorem Chip.put_recov (f : Fld) (v i j : Nat) : (c.put f v i j).recov = c.recov := rfl
@[simp] theorem Chip.put_streams (f : Fld) (v i j : Nat) : (c.put f v i j).streams = c.streams := rfl
@[simp] theorem Chip.put_transports (f : Fld) (v i j : Nat) : (c.put f v i j).transports = c.transports := rfl
@[simp] theorem Chip.put_items (f : Fld) (v i j : Nat) : (c.put f v i j).items = c.items := rfl
@[simp] theorem Chip.put_subs (f : Fld) (v i j : Nat) : (c.put f v i j).subs = c.subs := rfl
@[simp] theorem Chip.put_formed (f : Fld) (v i j : Nat) : (c.put f v i j).formed = c.formed := rfl
@[simp] theorem Chip.put_net (f : Fld) (v i j : Nat) : (c.put f v i j).net = c.net := rfl
@[simp] theorem Chip.put_servo (f : Fld) (v i j : Nat) : (c.put f v i j).servo = c.servo := rfl
@[simp] theorem Chip.put_sessions (f : Fld) (v i j : Nat) : (c.put f v i j).sessions = c.sessions := rfl
@[simp] theorem Chip.put_kv (f : Fld) (v i j : Nat) : (c.put f v i j).kv = c.kv := rfl
@[simp] theorem Chip.put_adapt (f : Fld) (v i j : Nat) : (c.put f v i j).adapt = c.adapt := rfl
@[simp] theorem Chip.put_boot (f : Fld) (v i j : Nat) : (c.put f v i j).boot = c.boot := rfl
@[simp] theorem Chip.put_fuses (f : Fld) (v i j : Nat) : (c.put f v i j).fuses = c.fuses := rfl
@[simp] theorem Chip.put_flash (f : Fld) (v i j : Nat) : (c.put f v i j).flash = c.flash := rfl
@[simp] theorem Chip.put_mgmt (f : Fld) (v i j : Nat) : (c.put f v i j).mgmt = c.mgmt := rfl

/-! ## putB -/

@[simp] theorem Chip.putB_free (f : Fld) (v : Bool) (i j : Nat) : (c.putB f v i j).free = c.free := rfl
@[simp] theorem Chip.putB_image (f : Fld) (v : Bool) (i j : Nat) : (c.putB f v i j).image = c.image := rfl
@[simp] theorem Chip.putB_clock (f : Fld) (v : Bool) (i j : Nat) : (c.putB f v i j).clock = c.clock := rfl
@[simp] theorem Chip.putB_fabric (f : Fld) (v : Bool) (i j : Nat) : (c.putB f v i j).fabric = c.fabric := rfl
@[simp] theorem Chip.putB_mem (f : Fld) (v : Bool) (i j : Nat) : (c.putB f v i j).mem = c.mem := rfl
@[simp] theorem Chip.putB_sched (f : Fld) (v : Bool) (i j : Nat) : (c.putB f v i j).sched = c.sched := rfl
@[simp] theorem Chip.putB_recov (f : Fld) (v : Bool) (i j : Nat) : (c.putB f v i j).recov = c.recov := rfl
@[simp] theorem Chip.putB_streams (f : Fld) (v : Bool) (i j : Nat) : (c.putB f v i j).streams = c.streams := rfl
@[simp] theorem Chip.putB_transports (f : Fld) (v : Bool) (i j : Nat) : (c.putB f v i j).transports = c.transports := rfl
@[simp] theorem Chip.putB_items (f : Fld) (v : Bool) (i j : Nat) : (c.putB f v i j).items = c.items := rfl
@[simp] theorem Chip.putB_subs (f : Fld) (v : Bool) (i j : Nat) : (c.putB f v i j).subs = c.subs := rfl
@[simp] theorem Chip.putB_formed (f : Fld) (v : Bool) (i j : Nat) : (c.putB f v i j).formed = c.formed := rfl
@[simp] theorem Chip.putB_net (f : Fld) (v : Bool) (i j : Nat) : (c.putB f v i j).net = c.net := rfl
@[simp] theorem Chip.putB_servo (f : Fld) (v : Bool) (i j : Nat) : (c.putB f v i j).servo = c.servo := rfl
@[simp] theorem Chip.putB_sessions (f : Fld) (v : Bool) (i j : Nat) : (c.putB f v i j).sessions = c.sessions := rfl
@[simp] theorem Chip.putB_kv (f : Fld) (v : Bool) (i j : Nat) : (c.putB f v i j).kv = c.kv := rfl
@[simp] theorem Chip.putB_adapt (f : Fld) (v : Bool) (i j : Nat) : (c.putB f v i j).adapt = c.adapt := rfl
@[simp] theorem Chip.putB_boot (f : Fld) (v : Bool) (i j : Nat) : (c.putB f v i j).boot = c.boot := rfl
@[simp] theorem Chip.putB_fuses (f : Fld) (v : Bool) (i j : Nat) : (c.putB f v i j).fuses = c.fuses := rfl
@[simp] theorem Chip.putB_flash (f : Fld) (v : Bool) (i j : Nat) : (c.putB f v i j).flash = c.flash := rfl
@[simp] theorem Chip.putB_mgmt (f : Fld) (v : Bool) (i j : Nat) : (c.putB f v i j).mgmt = c.mgmt := rfl

/-! ## bump -/

@[simp] theorem Chip.bump_free (f : Fld) (i j n : Nat) : (c.bump f i j n).free = c.free := rfl
@[simp] theorem Chip.bump_image (f : Fld) (i j n : Nat) : (c.bump f i j n).image = c.image := rfl
@[simp] theorem Chip.bump_clock (f : Fld) (i j n : Nat) : (c.bump f i j n).clock = c.clock := rfl
@[simp] theorem Chip.bump_fabric (f : Fld) (i j n : Nat) : (c.bump f i j n).fabric = c.fabric := rfl
@[simp] theorem Chip.bump_mem (f : Fld) (i j n : Nat) : (c.bump f i j n).mem = c.mem := rfl
@[simp] theorem Chip.bump_sched (f : Fld) (i j n : Nat) : (c.bump f i j n).sched = c.sched := rfl
@[simp] theorem Chip.bump_recov (f : Fld) (i j n : Nat) : (c.bump f i j n).recov = c.recov := rfl
@[simp] theorem Chip.bump_streams (f : Fld) (i j n : Nat) : (c.bump f i j n).streams = c.streams := rfl
@[simp] theorem Chip.bump_transports (f : Fld) (i j n : Nat) : (c.bump f i j n).transports = c.transports := rfl
@[simp] theorem Chip.bump_items (f : Fld) (i j n : Nat) : (c.bump f i j n).items = c.items := rfl
@[simp] theorem Chip.bump_subs (f : Fld) (i j n : Nat) : (c.bump f i j n).subs = c.subs := rfl
@[simp] theorem Chip.bump_formed (f : Fld) (i j n : Nat) : (c.bump f i j n).formed = c.formed := rfl
@[simp] theorem Chip.bump_net (f : Fld) (i j n : Nat) : (c.bump f i j n).net = c.net := rfl
@[simp] theorem Chip.bump_servo (f : Fld) (i j n : Nat) : (c.bump f i j n).servo = c.servo := rfl
@[simp] theorem Chip.bump_sessions (f : Fld) (i j n : Nat) : (c.bump f i j n).sessions = c.sessions := rfl
@[simp] theorem Chip.bump_kv (f : Fld) (i j n : Nat) : (c.bump f i j n).kv = c.kv := rfl
@[simp] theorem Chip.bump_adapt (f : Fld) (i j n : Nat) : (c.bump f i j n).adapt = c.adapt := rfl
@[simp] theorem Chip.bump_boot (f : Fld) (i j n : Nat) : (c.bump f i j n).boot = c.boot := rfl
@[simp] theorem Chip.bump_fuses (f : Fld) (i j n : Nat) : (c.bump f i j n).fuses = c.fuses := rfl
@[simp] theorem Chip.bump_flash (f : Fld) (i j n : Nat) : (c.bump f i j n).flash = c.flash := rfl
@[simp] theorem Chip.bump_mgmt (f : Fld) (i j n : Nat) : (c.bump f i j n).mgmt = c.mgmt := rfl

/-! ## wrap -/

@[simp] theorem Chip.wrap_free (f : Fld) (i j n : Nat) : (c.wrap f i j n).free = c.free := rfl
@[simp] theorem Chip.wrap_image (f : Fld) (i j n : Nat) : (c.wrap f i j n).image = c.image := rfl
@[simp] theorem Chip.wrap_clock (f : Fld) (i j n : Nat) : (c.wrap f i j n).clock = c.clock := rfl
@[simp] theorem Chip.wrap_fabric (f : Fld) (i j n : Nat) : (c.wrap f i j n).fabric = c.fabric := rfl
@[simp] theorem Chip.wrap_mem (f : Fld) (i j n : Nat) : (c.wrap f i j n).mem = c.mem := rfl
@[simp] theorem Chip.wrap_sched (f : Fld) (i j n : Nat) : (c.wrap f i j n).sched = c.sched := rfl
@[simp] theorem Chip.wrap_recov (f : Fld) (i j n : Nat) : (c.wrap f i j n).recov = c.recov := rfl
@[simp] theorem Chip.wrap_streams (f : Fld) (i j n : Nat) : (c.wrap f i j n).streams = c.streams := rfl
@[simp] theorem Chip.wrap_transports (f : Fld) (i j n : Nat) : (c.wrap f i j n).transports = c.transports := rfl
@[simp] theorem Chip.wrap_items (f : Fld) (i j n : Nat) : (c.wrap f i j n).items = c.items := rfl
@[simp] theorem Chip.wrap_subs (f : Fld) (i j n : Nat) : (c.wrap f i j n).subs = c.subs := rfl
@[simp] theorem Chip.wrap_formed (f : Fld) (i j n : Nat) : (c.wrap f i j n).formed = c.formed := rfl
@[simp] theorem Chip.wrap_net (f : Fld) (i j n : Nat) : (c.wrap f i j n).net = c.net := rfl
@[simp] theorem Chip.wrap_servo (f : Fld) (i j n : Nat) : (c.wrap f i j n).servo = c.servo := rfl
@[simp] theorem Chip.wrap_sessions (f : Fld) (i j n : Nat) : (c.wrap f i j n).sessions = c.sessions := rfl
@[simp] theorem Chip.wrap_kv (f : Fld) (i j n : Nat) : (c.wrap f i j n).kv = c.kv := rfl
@[simp] theorem Chip.wrap_adapt (f : Fld) (i j n : Nat) : (c.wrap f i j n).adapt = c.adapt := rfl
@[simp] theorem Chip.wrap_boot (f : Fld) (i j n : Nat) : (c.wrap f i j n).boot = c.boot := rfl
@[simp] theorem Chip.wrap_fuses (f : Fld) (i j n : Nat) : (c.wrap f i j n).fuses = c.fuses := rfl
@[simp] theorem Chip.wrap_flash (f : Fld) (i j n : Nat) : (c.wrap f i j n).flash = c.flash := rfl
@[simp] theorem Chip.wrap_mgmt (f : Fld) (i j n : Nat) : (c.wrap f i j n).mgmt = c.mgmt := rfl

/-! ## putS -/

@[simp] theorem Chip.putS_free (f : Fld) (v : Int) (i j : Nat) : (c.putS f v i j).free = c.free := rfl
@[simp] theorem Chip.putS_image (f : Fld) (v : Int) (i j : Nat) : (c.putS f v i j).image = c.image := rfl
@[simp] theorem Chip.putS_clock (f : Fld) (v : Int) (i j : Nat) : (c.putS f v i j).clock = c.clock := rfl
@[simp] theorem Chip.putS_fabric (f : Fld) (v : Int) (i j : Nat) : (c.putS f v i j).fabric = c.fabric := rfl
@[simp] theorem Chip.putS_mem (f : Fld) (v : Int) (i j : Nat) : (c.putS f v i j).mem = c.mem := rfl
@[simp] theorem Chip.putS_sched (f : Fld) (v : Int) (i j : Nat) : (c.putS f v i j).sched = c.sched := rfl
@[simp] theorem Chip.putS_recov (f : Fld) (v : Int) (i j : Nat) : (c.putS f v i j).recov = c.recov := rfl
@[simp] theorem Chip.putS_streams (f : Fld) (v : Int) (i j : Nat) : (c.putS f v i j).streams = c.streams := rfl
@[simp] theorem Chip.putS_transports (f : Fld) (v : Int) (i j : Nat) : (c.putS f v i j).transports = c.transports := rfl
@[simp] theorem Chip.putS_items (f : Fld) (v : Int) (i j : Nat) : (c.putS f v i j).items = c.items := rfl
@[simp] theorem Chip.putS_subs (f : Fld) (v : Int) (i j : Nat) : (c.putS f v i j).subs = c.subs := rfl
@[simp] theorem Chip.putS_formed (f : Fld) (v : Int) (i j : Nat) : (c.putS f v i j).formed = c.formed := rfl
@[simp] theorem Chip.putS_net (f : Fld) (v : Int) (i j : Nat) : (c.putS f v i j).net = c.net := rfl
@[simp] theorem Chip.putS_servo (f : Fld) (v : Int) (i j : Nat) : (c.putS f v i j).servo = c.servo := rfl
@[simp] theorem Chip.putS_sessions (f : Fld) (v : Int) (i j : Nat) : (c.putS f v i j).sessions = c.sessions := rfl
@[simp] theorem Chip.putS_kv (f : Fld) (v : Int) (i j : Nat) : (c.putS f v i j).kv = c.kv := rfl
@[simp] theorem Chip.putS_adapt (f : Fld) (v : Int) (i j : Nat) : (c.putS f v i j).adapt = c.adapt := rfl
@[simp] theorem Chip.putS_boot (f : Fld) (v : Int) (i j : Nat) : (c.putS f v i j).boot = c.boot := rfl
@[simp] theorem Chip.putS_fuses (f : Fld) (v : Int) (i j : Nat) : (c.putS f v i j).fuses = c.fuses := rfl
@[simp] theorem Chip.putS_flash (f : Fld) (v : Int) (i j : Nat) : (c.putS f v i j).flash = c.flash := rfl
@[simp] theorem Chip.putS_mgmt (f : Fld) (v : Int) (i j : Nat) : (c.putS f v i j).mgmt = c.mgmt := rfl

/-! ## updMem -/

@[simp] theorem Chip.updMem_regs (f : Mem → Mem) : (c.updMem f).regs = c.regs := rfl
@[simp] theorem Chip.updMem_free (f : Mem → Mem) : (c.updMem f).free = c.free := rfl
@[simp] theorem Chip.updMem_image (f : Mem → Mem) : (c.updMem f).image = c.image := rfl
@[simp] theorem Chip.updMem_clock (f : Mem → Mem) : (c.updMem f).clock = c.clock := rfl
@[simp] theorem Chip.updMem_fabric (f : Mem → Mem) : (c.updMem f).fabric = c.fabric := rfl
@[simp] theorem Chip.updMem_sched (f : Mem → Mem) : (c.updMem f).sched = c.sched := rfl
@[simp] theorem Chip.updMem_recov (f : Mem → Mem) : (c.updMem f).recov = c.recov := rfl
@[simp] theorem Chip.updMem_streams (f : Mem → Mem) : (c.updMem f).streams = c.streams := rfl
@[simp] theorem Chip.updMem_transports (f : Mem → Mem) : (c.updMem f).transports = c.transports := rfl
@[simp] theorem Chip.updMem_items (f : Mem → Mem) : (c.updMem f).items = c.items := rfl
@[simp] theorem Chip.updMem_subs (f : Mem → Mem) : (c.updMem f).subs = c.subs := rfl
@[simp] theorem Chip.updMem_formed (f : Mem → Mem) : (c.updMem f).formed = c.formed := rfl
@[simp] theorem Chip.updMem_net (f : Mem → Mem) : (c.updMem f).net = c.net := rfl
@[simp] theorem Chip.updMem_servo (f : Mem → Mem) : (c.updMem f).servo = c.servo := rfl
@[simp] theorem Chip.updMem_sessions (f : Mem → Mem) : (c.updMem f).sessions = c.sessions := rfl
@[simp] theorem Chip.updMem_kv (f : Mem → Mem) : (c.updMem f).kv = c.kv := rfl
@[simp] theorem Chip.updMem_adapt (f : Mem → Mem) : (c.updMem f).adapt = c.adapt := rfl
@[simp] theorem Chip.updMem_boot (f : Mem → Mem) : (c.updMem f).boot = c.boot := rfl
@[simp] theorem Chip.updMem_fuses (f : Mem → Mem) : (c.updMem f).fuses = c.fuses := rfl
@[simp] theorem Chip.updMem_flash (f : Mem → Mem) : (c.updMem f).flash = c.flash := rfl
@[simp] theorem Chip.updMem_mgmt (f : Mem → Mem) : (c.updMem f).mgmt = c.mgmt := rfl
@[simp] theorem Chip.updMem_word (f : Mem → Mem) (w : Reg) (x y : Nat) : (c.updMem f).word w x y = c.word w x y := rfl
@[simp] theorem Chip.updMem_get (f : Mem → Mem) (w : Fld) (x y : Nat) : (c.updMem f).get w x y = c.get w x y := rfl
@[simp] theorem Chip.updMem_flag (f : Mem → Mem) (w : Fld) (x y : Nat) : (c.updMem f).flag w x y = c.flag w x y := rfl

/-! ## updSched -/

@[simp] theorem Chip.updSched_regs (f : Sched → Sched) : (c.updSched f).regs = c.regs := rfl
@[simp] theorem Chip.updSched_free (f : Sched → Sched) : (c.updSched f).free = c.free := rfl
@[simp] theorem Chip.updSched_image (f : Sched → Sched) : (c.updSched f).image = c.image := rfl
@[simp] theorem Chip.updSched_clock (f : Sched → Sched) : (c.updSched f).clock = c.clock := rfl
@[simp] theorem Chip.updSched_fabric (f : Sched → Sched) : (c.updSched f).fabric = c.fabric := rfl
@[simp] theorem Chip.updSched_mem (f : Sched → Sched) : (c.updSched f).mem = c.mem := rfl
@[simp] theorem Chip.updSched_recov (f : Sched → Sched) : (c.updSched f).recov = c.recov := rfl
@[simp] theorem Chip.updSched_streams (f : Sched → Sched) : (c.updSched f).streams = c.streams := rfl
@[simp] theorem Chip.updSched_transports (f : Sched → Sched) : (c.updSched f).transports = c.transports := rfl
@[simp] theorem Chip.updSched_items (f : Sched → Sched) : (c.updSched f).items = c.items := rfl
@[simp] theorem Chip.updSched_subs (f : Sched → Sched) : (c.updSched f).subs = c.subs := rfl
@[simp] theorem Chip.updSched_formed (f : Sched → Sched) : (c.updSched f).formed = c.formed := rfl
@[simp] theorem Chip.updSched_net (f : Sched → Sched) : (c.updSched f).net = c.net := rfl
@[simp] theorem Chip.updSched_servo (f : Sched → Sched) : (c.updSched f).servo = c.servo := rfl
@[simp] theorem Chip.updSched_sessions (f : Sched → Sched) : (c.updSched f).sessions = c.sessions := rfl
@[simp] theorem Chip.updSched_kv (f : Sched → Sched) : (c.updSched f).kv = c.kv := rfl
@[simp] theorem Chip.updSched_adapt (f : Sched → Sched) : (c.updSched f).adapt = c.adapt := rfl
@[simp] theorem Chip.updSched_boot (f : Sched → Sched) : (c.updSched f).boot = c.boot := rfl
@[simp] theorem Chip.updSched_fuses (f : Sched → Sched) : (c.updSched f).fuses = c.fuses := rfl
@[simp] theorem Chip.updSched_flash (f : Sched → Sched) : (c.updSched f).flash = c.flash := rfl
@[simp] theorem Chip.updSched_mgmt (f : Sched → Sched) : (c.updSched f).mgmt = c.mgmt := rfl
@[simp] theorem Chip.updSched_word (f : Sched → Sched) (w : Reg) (x y : Nat) : (c.updSched f).word w x y = c.word w x y := rfl
@[simp] theorem Chip.updSched_get (f : Sched → Sched) (w : Fld) (x y : Nat) : (c.updSched f).get w x y = c.get w x y := rfl
@[simp] theorem Chip.updSched_flag (f : Sched → Sched) (w : Fld) (x y : Nat) : (c.updSched f).flag w x y = c.flag w x y := rfl

/-! ## updRecov -/

@[simp] theorem Chip.updRecov_regs (f : Recov → Recov) : (c.updRecov f).regs = c.regs := rfl
@[simp] theorem Chip.updRecov_free (f : Recov → Recov) : (c.updRecov f).free = c.free := rfl
@[simp] theorem Chip.updRecov_image (f : Recov → Recov) : (c.updRecov f).image = c.image := rfl
@[simp] theorem Chip.updRecov_clock (f : Recov → Recov) : (c.updRecov f).clock = c.clock := rfl
@[simp] theorem Chip.updRecov_fabric (f : Recov → Recov) : (c.updRecov f).fabric = c.fabric := rfl
@[simp] theorem Chip.updRecov_mem (f : Recov → Recov) : (c.updRecov f).mem = c.mem := rfl
@[simp] theorem Chip.updRecov_sched (f : Recov → Recov) : (c.updRecov f).sched = c.sched := rfl
@[simp] theorem Chip.updRecov_streams (f : Recov → Recov) : (c.updRecov f).streams = c.streams := rfl
@[simp] theorem Chip.updRecov_transports (f : Recov → Recov) : (c.updRecov f).transports = c.transports := rfl
@[simp] theorem Chip.updRecov_items (f : Recov → Recov) : (c.updRecov f).items = c.items := rfl
@[simp] theorem Chip.updRecov_subs (f : Recov → Recov) : (c.updRecov f).subs = c.subs := rfl
@[simp] theorem Chip.updRecov_formed (f : Recov → Recov) : (c.updRecov f).formed = c.formed := rfl
@[simp] theorem Chip.updRecov_net (f : Recov → Recov) : (c.updRecov f).net = c.net := rfl
@[simp] theorem Chip.updRecov_servo (f : Recov → Recov) : (c.updRecov f).servo = c.servo := rfl
@[simp] theorem Chip.updRecov_sessions (f : Recov → Recov) : (c.updRecov f).sessions = c.sessions := rfl
@[simp] theorem Chip.updRecov_kv (f : Recov → Recov) : (c.updRecov f).kv = c.kv := rfl
@[simp] theorem Chip.updRecov_adapt (f : Recov → Recov) : (c.updRecov f).adapt = c.adapt := rfl
@[simp] theorem Chip.updRecov_boot (f : Recov → Recov) : (c.updRecov f).boot = c.boot := rfl
@[simp] theorem Chip.updRecov_fuses (f : Recov → Recov) : (c.updRecov f).fuses = c.fuses := rfl
@[simp] theorem Chip.updRecov_flash (f : Recov → Recov) : (c.updRecov f).flash = c.flash := rfl
@[simp] theorem Chip.updRecov_mgmt (f : Recov → Recov) : (c.updRecov f).mgmt = c.mgmt := rfl
@[simp] theorem Chip.updRecov_word (f : Recov → Recov) (w : Reg) (x y : Nat) : (c.updRecov f).word w x y = c.word w x y := rfl
@[simp] theorem Chip.updRecov_get (f : Recov → Recov) (w : Fld) (x y : Nat) : (c.updRecov f).get w x y = c.get w x y := rfl
@[simp] theorem Chip.updRecov_flag (f : Recov → Recov) (w : Fld) (x y : Nat) : (c.updRecov f).flag w x y = c.flag w x y := rfl

/-! ## updItems -/

@[simp] theorem Chip.updItems_regs (f : Items → Items) : (c.updItems f).regs = c.regs := rfl
@[simp] theorem Chip.updItems_free (f : Items → Items) : (c.updItems f).free = c.free := rfl
@[simp] theorem Chip.updItems_image (f : Items → Items) : (c.updItems f).image = c.image := rfl
@[simp] theorem Chip.updItems_clock (f : Items → Items) : (c.updItems f).clock = c.clock := rfl
@[simp] theorem Chip.updItems_fabric (f : Items → Items) : (c.updItems f).fabric = c.fabric := rfl
@[simp] theorem Chip.updItems_mem (f : Items → Items) : (c.updItems f).mem = c.mem := rfl
@[simp] theorem Chip.updItems_sched (f : Items → Items) : (c.updItems f).sched = c.sched := rfl
@[simp] theorem Chip.updItems_recov (f : Items → Items) : (c.updItems f).recov = c.recov := rfl
@[simp] theorem Chip.updItems_streams (f : Items → Items) : (c.updItems f).streams = c.streams := rfl
@[simp] theorem Chip.updItems_transports (f : Items → Items) : (c.updItems f).transports = c.transports := rfl
@[simp] theorem Chip.updItems_subs (f : Items → Items) : (c.updItems f).subs = c.subs := rfl
@[simp] theorem Chip.updItems_formed (f : Items → Items) : (c.updItems f).formed = c.formed := rfl
@[simp] theorem Chip.updItems_net (f : Items → Items) : (c.updItems f).net = c.net := rfl
@[simp] theorem Chip.updItems_servo (f : Items → Items) : (c.updItems f).servo = c.servo := rfl
@[simp] theorem Chip.updItems_sessions (f : Items → Items) : (c.updItems f).sessions = c.sessions := rfl
@[simp] theorem Chip.updItems_kv (f : Items → Items) : (c.updItems f).kv = c.kv := rfl
@[simp] theorem Chip.updItems_adapt (f : Items → Items) : (c.updItems f).adapt = c.adapt := rfl
@[simp] theorem Chip.updItems_boot (f : Items → Items) : (c.updItems f).boot = c.boot := rfl
@[simp] theorem Chip.updItems_fuses (f : Items → Items) : (c.updItems f).fuses = c.fuses := rfl
@[simp] theorem Chip.updItems_flash (f : Items → Items) : (c.updItems f).flash = c.flash := rfl
@[simp] theorem Chip.updItems_mgmt (f : Items → Items) : (c.updItems f).mgmt = c.mgmt := rfl
@[simp] theorem Chip.updItems_word (f : Items → Items) (w : Reg) (x y : Nat) : (c.updItems f).word w x y = c.word w x y := rfl
@[simp] theorem Chip.updItems_get (f : Items → Items) (w : Fld) (x y : Nat) : (c.updItems f).get w x y = c.get w x y := rfl
@[simp] theorem Chip.updItems_flag (f : Items → Items) (w : Fld) (x y : Nat) : (c.updItems f).flag w x y = c.flag w x y := rfl

/-! ## updServo -/

@[simp] theorem Chip.updServo_regs (f : Servo → Servo) : (c.updServo f).regs = c.regs := rfl
@[simp] theorem Chip.updServo_free (f : Servo → Servo) : (c.updServo f).free = c.free := rfl
@[simp] theorem Chip.updServo_image (f : Servo → Servo) : (c.updServo f).image = c.image := rfl
@[simp] theorem Chip.updServo_clock (f : Servo → Servo) : (c.updServo f).clock = c.clock := rfl
@[simp] theorem Chip.updServo_fabric (f : Servo → Servo) : (c.updServo f).fabric = c.fabric := rfl
@[simp] theorem Chip.updServo_mem (f : Servo → Servo) : (c.updServo f).mem = c.mem := rfl
@[simp] theorem Chip.updServo_sched (f : Servo → Servo) : (c.updServo f).sched = c.sched := rfl
@[simp] theorem Chip.updServo_recov (f : Servo → Servo) : (c.updServo f).recov = c.recov := rfl
@[simp] theorem Chip.updServo_streams (f : Servo → Servo) : (c.updServo f).streams = c.streams := rfl
@[simp] theorem Chip.updServo_transports (f : Servo → Servo) : (c.updServo f).transports = c.transports := rfl
@[simp] theorem Chip.updServo_items (f : Servo → Servo) : (c.updServo f).items = c.items := rfl
@[simp] theorem Chip.updServo_subs (f : Servo → Servo) : (c.updServo f).subs = c.subs := rfl
@[simp] theorem Chip.updServo_formed (f : Servo → Servo) : (c.updServo f).formed = c.formed := rfl
@[simp] theorem Chip.updServo_net (f : Servo → Servo) : (c.updServo f).net = c.net := rfl
@[simp] theorem Chip.updServo_sessions (f : Servo → Servo) : (c.updServo f).sessions = c.sessions := rfl
@[simp] theorem Chip.updServo_kv (f : Servo → Servo) : (c.updServo f).kv = c.kv := rfl
@[simp] theorem Chip.updServo_adapt (f : Servo → Servo) : (c.updServo f).adapt = c.adapt := rfl
@[simp] theorem Chip.updServo_boot (f : Servo → Servo) : (c.updServo f).boot = c.boot := rfl
@[simp] theorem Chip.updServo_fuses (f : Servo → Servo) : (c.updServo f).fuses = c.fuses := rfl
@[simp] theorem Chip.updServo_flash (f : Servo → Servo) : (c.updServo f).flash = c.flash := rfl
@[simp] theorem Chip.updServo_mgmt (f : Servo → Servo) : (c.updServo f).mgmt = c.mgmt := rfl
@[simp] theorem Chip.updServo_word (f : Servo → Servo) (w : Reg) (x y : Nat) : (c.updServo f).word w x y = c.word w x y := rfl
@[simp] theorem Chip.updServo_get (f : Servo → Servo) (w : Fld) (x y : Nat) : (c.updServo f).get w x y = c.get w x y := rfl
@[simp] theorem Chip.updServo_flag (f : Servo → Servo) (w : Fld) (x y : Nat) : (c.updServo f).flag w x y = c.flag w x y := rfl

/-! ## updKv -/

@[simp] theorem Chip.updKv_regs (f : Kv → Kv) : (c.updKv f).regs = c.regs := rfl
@[simp] theorem Chip.updKv_free (f : Kv → Kv) : (c.updKv f).free = c.free := rfl
@[simp] theorem Chip.updKv_image (f : Kv → Kv) : (c.updKv f).image = c.image := rfl
@[simp] theorem Chip.updKv_clock (f : Kv → Kv) : (c.updKv f).clock = c.clock := rfl
@[simp] theorem Chip.updKv_fabric (f : Kv → Kv) : (c.updKv f).fabric = c.fabric := rfl
@[simp] theorem Chip.updKv_mem (f : Kv → Kv) : (c.updKv f).mem = c.mem := rfl
@[simp] theorem Chip.updKv_sched (f : Kv → Kv) : (c.updKv f).sched = c.sched := rfl
@[simp] theorem Chip.updKv_recov (f : Kv → Kv) : (c.updKv f).recov = c.recov := rfl
@[simp] theorem Chip.updKv_streams (f : Kv → Kv) : (c.updKv f).streams = c.streams := rfl
@[simp] theorem Chip.updKv_transports (f : Kv → Kv) : (c.updKv f).transports = c.transports := rfl
@[simp] theorem Chip.updKv_items (f : Kv → Kv) : (c.updKv f).items = c.items := rfl
@[simp] theorem Chip.updKv_subs (f : Kv → Kv) : (c.updKv f).subs = c.subs := rfl
@[simp] theorem Chip.updKv_formed (f : Kv → Kv) : (c.updKv f).formed = c.formed := rfl
@[simp] theorem Chip.updKv_net (f : Kv → Kv) : (c.updKv f).net = c.net := rfl
@[simp] theorem Chip.updKv_servo (f : Kv → Kv) : (c.updKv f).servo = c.servo := rfl
@[simp] theorem Chip.updKv_sessions (f : Kv → Kv) : (c.updKv f).sessions = c.sessions := rfl
@[simp] theorem Chip.updKv_adapt (f : Kv → Kv) : (c.updKv f).adapt = c.adapt := rfl
@[simp] theorem Chip.updKv_boot (f : Kv → Kv) : (c.updKv f).boot = c.boot := rfl
@[simp] theorem Chip.updKv_fuses (f : Kv → Kv) : (c.updKv f).fuses = c.fuses := rfl
@[simp] theorem Chip.updKv_flash (f : Kv → Kv) : (c.updKv f).flash = c.flash := rfl
@[simp] theorem Chip.updKv_mgmt (f : Kv → Kv) : (c.updKv f).mgmt = c.mgmt := rfl
@[simp] theorem Chip.updKv_word (f : Kv → Kv) (w : Reg) (x y : Nat) : (c.updKv f).word w x y = c.word w x y := rfl
@[simp] theorem Chip.updKv_get (f : Kv → Kv) (w : Fld) (x y : Nat) : (c.updKv f).get w x y = c.get w x y := rfl
@[simp] theorem Chip.updKv_flag (f : Kv → Kv) (w : Fld) (x y : Nat) : (c.updKv f).flag w x y = c.flag w x y := rfl

/-! ## updAdapt -/

@[simp] theorem Chip.updAdapt_regs (f : Adapt → Adapt) : (c.updAdapt f).regs = c.regs := rfl
@[simp] theorem Chip.updAdapt_free (f : Adapt → Adapt) : (c.updAdapt f).free = c.free := rfl
@[simp] theorem Chip.updAdapt_image (f : Adapt → Adapt) : (c.updAdapt f).image = c.image := rfl
@[simp] theorem Chip.updAdapt_clock (f : Adapt → Adapt) : (c.updAdapt f).clock = c.clock := rfl
@[simp] theorem Chip.updAdapt_fabric (f : Adapt → Adapt) : (c.updAdapt f).fabric = c.fabric := rfl
@[simp] theorem Chip.updAdapt_mem (f : Adapt → Adapt) : (c.updAdapt f).mem = c.mem := rfl
@[simp] theorem Chip.updAdapt_sched (f : Adapt → Adapt) : (c.updAdapt f).sched = c.sched := rfl
@[simp] theorem Chip.updAdapt_recov (f : Adapt → Adapt) : (c.updAdapt f).recov = c.recov := rfl
@[simp] theorem Chip.updAdapt_streams (f : Adapt → Adapt) : (c.updAdapt f).streams = c.streams := rfl
@[simp] theorem Chip.updAdapt_transports (f : Adapt → Adapt) : (c.updAdapt f).transports = c.transports := rfl
@[simp] theorem Chip.updAdapt_items (f : Adapt → Adapt) : (c.updAdapt f).items = c.items := rfl
@[simp] theorem Chip.updAdapt_subs (f : Adapt → Adapt) : (c.updAdapt f).subs = c.subs := rfl
@[simp] theorem Chip.updAdapt_formed (f : Adapt → Adapt) : (c.updAdapt f).formed = c.formed := rfl
@[simp] theorem Chip.updAdapt_net (f : Adapt → Adapt) : (c.updAdapt f).net = c.net := rfl
@[simp] theorem Chip.updAdapt_servo (f : Adapt → Adapt) : (c.updAdapt f).servo = c.servo := rfl
@[simp] theorem Chip.updAdapt_sessions (f : Adapt → Adapt) : (c.updAdapt f).sessions = c.sessions := rfl
@[simp] theorem Chip.updAdapt_kv (f : Adapt → Adapt) : (c.updAdapt f).kv = c.kv := rfl
@[simp] theorem Chip.updAdapt_boot (f : Adapt → Adapt) : (c.updAdapt f).boot = c.boot := rfl
@[simp] theorem Chip.updAdapt_fuses (f : Adapt → Adapt) : (c.updAdapt f).fuses = c.fuses := rfl
@[simp] theorem Chip.updAdapt_flash (f : Adapt → Adapt) : (c.updAdapt f).flash = c.flash := rfl
@[simp] theorem Chip.updAdapt_mgmt (f : Adapt → Adapt) : (c.updAdapt f).mgmt = c.mgmt := rfl
@[simp] theorem Chip.updAdapt_word (f : Adapt → Adapt) (w : Reg) (x y : Nat) : (c.updAdapt f).word w x y = c.word w x y := rfl
@[simp] theorem Chip.updAdapt_get (f : Adapt → Adapt) (w : Fld) (x y : Nat) : (c.updAdapt f).get w x y = c.get w x y := rfl
@[simp] theorem Chip.updAdapt_flag (f : Adapt → Adapt) (w : Fld) (x y : Nat) : (c.updAdapt f).flag w x y = c.flag w x y := rfl

/-! ## updBoot -/

@[simp] theorem Chip.updBoot_regs (f : Boot → Boot) : (c.updBoot f).regs = c.regs := rfl
@[simp] theorem Chip.updBoot_free (f : Boot → Boot) : (c.updBoot f).free = c.free := rfl
@[simp] theorem Chip.updBoot_image (f : Boot → Boot) : (c.updBoot f).image = c.image := rfl
@[simp] theorem Chip.updBoot_clock (f : Boot → Boot) : (c.updBoot f).clock = c.clock := rfl
@[simp] theorem Chip.updBoot_fabric (f : Boot → Boot) : (c.updBoot f).fabric = c.fabric := rfl
@[simp] theorem Chip.updBoot_mem (f : Boot → Boot) : (c.updBoot f).mem = c.mem := rfl
@[simp] theorem Chip.updBoot_sched (f : Boot → Boot) : (c.updBoot f).sched = c.sched := rfl
@[simp] theorem Chip.updBoot_recov (f : Boot → Boot) : (c.updBoot f).recov = c.recov := rfl
@[simp] theorem Chip.updBoot_streams (f : Boot → Boot) : (c.updBoot f).streams = c.streams := rfl
@[simp] theorem Chip.updBoot_transports (f : Boot → Boot) : (c.updBoot f).transports = c.transports := rfl
@[simp] theorem Chip.updBoot_items (f : Boot → Boot) : (c.updBoot f).items = c.items := rfl
@[simp] theorem Chip.updBoot_subs (f : Boot → Boot) : (c.updBoot f).subs = c.subs := rfl
@[simp] theorem Chip.updBoot_formed (f : Boot → Boot) : (c.updBoot f).formed = c.formed := rfl
@[simp] theorem Chip.updBoot_net (f : Boot → Boot) : (c.updBoot f).net = c.net := rfl
@[simp] theorem Chip.updBoot_servo (f : Boot → Boot) : (c.updBoot f).servo = c.servo := rfl
@[simp] theorem Chip.updBoot_sessions (f : Boot → Boot) : (c.updBoot f).sessions = c.sessions := rfl
@[simp] theorem Chip.updBoot_kv (f : Boot → Boot) : (c.updBoot f).kv = c.kv := rfl
@[simp] theorem Chip.updBoot_adapt (f : Boot → Boot) : (c.updBoot f).adapt = c.adapt := rfl
@[simp] theorem Chip.updBoot_fuses (f : Boot → Boot) : (c.updBoot f).fuses = c.fuses := rfl
@[simp] theorem Chip.updBoot_flash (f : Boot → Boot) : (c.updBoot f).flash = c.flash := rfl
@[simp] theorem Chip.updBoot_mgmt (f : Boot → Boot) : (c.updBoot f).mgmt = c.mgmt := rfl
@[simp] theorem Chip.updBoot_word (f : Boot → Boot) (w : Reg) (x y : Nat) : (c.updBoot f).word w x y = c.word w x y := rfl
@[simp] theorem Chip.updBoot_get (f : Boot → Boot) (w : Fld) (x y : Nat) : (c.updBoot f).get w x y = c.get w x y := rfl
@[simp] theorem Chip.updBoot_flag (f : Boot → Boot) (w : Fld) (x y : Nat) : (c.updBoot f).flag w x y = c.flag w x y := rfl

/-! ## updMgmt -/

@[simp] theorem Chip.updMgmt_regs (f : Mgmt → Mgmt) : (c.updMgmt f).regs = c.regs := rfl
@[simp] theorem Chip.updMgmt_free (f : Mgmt → Mgmt) : (c.updMgmt f).free = c.free := rfl
@[simp] theorem Chip.updMgmt_image (f : Mgmt → Mgmt) : (c.updMgmt f).image = c.image := rfl
@[simp] theorem Chip.updMgmt_clock (f : Mgmt → Mgmt) : (c.updMgmt f).clock = c.clock := rfl
@[simp] theorem Chip.updMgmt_fabric (f : Mgmt → Mgmt) : (c.updMgmt f).fabric = c.fabric := rfl
@[simp] theorem Chip.updMgmt_mem (f : Mgmt → Mgmt) : (c.updMgmt f).mem = c.mem := rfl
@[simp] theorem Chip.updMgmt_sched (f : Mgmt → Mgmt) : (c.updMgmt f).sched = c.sched := rfl
@[simp] theorem Chip.updMgmt_recov (f : Mgmt → Mgmt) : (c.updMgmt f).recov = c.recov := rfl
@[simp] theorem Chip.updMgmt_streams (f : Mgmt → Mgmt) : (c.updMgmt f).streams = c.streams := rfl
@[simp] theorem Chip.updMgmt_transports (f : Mgmt → Mgmt) : (c.updMgmt f).transports = c.transports := rfl
@[simp] theorem Chip.updMgmt_items (f : Mgmt → Mgmt) : (c.updMgmt f).items = c.items := rfl
@[simp] theorem Chip.updMgmt_subs (f : Mgmt → Mgmt) : (c.updMgmt f).subs = c.subs := rfl
@[simp] theorem Chip.updMgmt_formed (f : Mgmt → Mgmt) : (c.updMgmt f).formed = c.formed := rfl
@[simp] theorem Chip.updMgmt_net (f : Mgmt → Mgmt) : (c.updMgmt f).net = c.net := rfl
@[simp] theorem Chip.updMgmt_servo (f : Mgmt → Mgmt) : (c.updMgmt f).servo = c.servo := rfl
@[simp] theorem Chip.updMgmt_sessions (f : Mgmt → Mgmt) : (c.updMgmt f).sessions = c.sessions := rfl
@[simp] theorem Chip.updMgmt_kv (f : Mgmt → Mgmt) : (c.updMgmt f).kv = c.kv := rfl
@[simp] theorem Chip.updMgmt_adapt (f : Mgmt → Mgmt) : (c.updMgmt f).adapt = c.adapt := rfl
@[simp] theorem Chip.updMgmt_boot (f : Mgmt → Mgmt) : (c.updMgmt f).boot = c.boot := rfl
@[simp] theorem Chip.updMgmt_fuses (f : Mgmt → Mgmt) : (c.updMgmt f).fuses = c.fuses := rfl
@[simp] theorem Chip.updMgmt_flash (f : Mgmt → Mgmt) : (c.updMgmt f).flash = c.flash := rfl
@[simp] theorem Chip.updMgmt_word (f : Mgmt → Mgmt) (w : Reg) (x y : Nat) : (c.updMgmt f).word w x y = c.word w x y := rfl
@[simp] theorem Chip.updMgmt_get (f : Mgmt → Mgmt) (w : Fld) (x y : Nat) : (c.updMgmt f).get w x y = c.get w x y := rfl
@[simp] theorem Chip.updMgmt_flag (f : Mgmt → Mgmt) (w : Fld) (x y : Nat) : (c.updMgmt f).flag w x y = c.flag w x y := rfl

/-! ## modStream -/

@[simp] theorem Chip.modStream_regs (n : Nat) (f : Stream → Stream) : (c.modStream n f).regs = c.regs := rfl
@[simp] theorem Chip.modStream_free (n : Nat) (f : Stream → Stream) : (c.modStream n f).free = c.free := rfl
@[simp] theorem Chip.modStream_image (n : Nat) (f : Stream → Stream) : (c.modStream n f).image = c.image := rfl
@[simp] theorem Chip.modStream_clock (n : Nat) (f : Stream → Stream) : (c.modStream n f).clock = c.clock := rfl
@[simp] theorem Chip.modStream_fabric (n : Nat) (f : Stream → Stream) : (c.modStream n f).fabric = c.fabric := rfl
@[simp] theorem Chip.modStream_mem (n : Nat) (f : Stream → Stream) : (c.modStream n f).mem = c.mem := rfl
@[simp] theorem Chip.modStream_sched (n : Nat) (f : Stream → Stream) : (c.modStream n f).sched = c.sched := rfl
@[simp] theorem Chip.modStream_recov (n : Nat) (f : Stream → Stream) : (c.modStream n f).recov = c.recov := rfl
@[simp] theorem Chip.modStream_transports (n : Nat) (f : Stream → Stream) : (c.modStream n f).transports = c.transports := rfl
@[simp] theorem Chip.modStream_items (n : Nat) (f : Stream → Stream) : (c.modStream n f).items = c.items := rfl
@[simp] theorem Chip.modStream_subs (n : Nat) (f : Stream → Stream) : (c.modStream n f).subs = c.subs := rfl
@[simp] theorem Chip.modStream_formed (n : Nat) (f : Stream → Stream) : (c.modStream n f).formed = c.formed := rfl
@[simp] theorem Chip.modStream_net (n : Nat) (f : Stream → Stream) : (c.modStream n f).net = c.net := rfl
@[simp] theorem Chip.modStream_servo (n : Nat) (f : Stream → Stream) : (c.modStream n f).servo = c.servo := rfl
@[simp] theorem Chip.modStream_sessions (n : Nat) (f : Stream → Stream) : (c.modStream n f).sessions = c.sessions := rfl
@[simp] theorem Chip.modStream_kv (n : Nat) (f : Stream → Stream) : (c.modStream n f).kv = c.kv := rfl
@[simp] theorem Chip.modStream_adapt (n : Nat) (f : Stream → Stream) : (c.modStream n f).adapt = c.adapt := rfl
@[simp] theorem Chip.modStream_boot (n : Nat) (f : Stream → Stream) : (c.modStream n f).boot = c.boot := rfl
@[simp] theorem Chip.modStream_fuses (n : Nat) (f : Stream → Stream) : (c.modStream n f).fuses = c.fuses := rfl
@[simp] theorem Chip.modStream_flash (n : Nat) (f : Stream → Stream) : (c.modStream n f).flash = c.flash := rfl
@[simp] theorem Chip.modStream_mgmt (n : Nat) (f : Stream → Stream) : (c.modStream n f).mgmt = c.mgmt := rfl
@[simp] theorem Chip.modStream_word (n : Nat) (f : Stream → Stream) (w : Reg) (x y : Nat) : (c.modStream n f).word w x y = c.word w x y := rfl
@[simp] theorem Chip.modStream_get (n : Nat) (f : Stream → Stream) (w : Fld) (x y : Nat) : (c.modStream n f).get w x y = c.get w x y := rfl
@[simp] theorem Chip.modStream_flag (n : Nat) (f : Stream → Stream) (w : Fld) (x y : Nat) : (c.modStream n f).flag w x y = c.flag w x y := rfl

/-! ## modTransport -/

@[simp] theorem Chip.modTransport_regs (k : Nat) (f : Transport → Transport) : (c.modTransport k f).regs = c.regs := rfl
@[simp] theorem Chip.modTransport_free (k : Nat) (f : Transport → Transport) : (c.modTransport k f).free = c.free := rfl
@[simp] theorem Chip.modTransport_image (k : Nat) (f : Transport → Transport) : (c.modTransport k f).image = c.image := rfl
@[simp] theorem Chip.modTransport_clock (k : Nat) (f : Transport → Transport) : (c.modTransport k f).clock = c.clock := rfl
@[simp] theorem Chip.modTransport_fabric (k : Nat) (f : Transport → Transport) : (c.modTransport k f).fabric = c.fabric := rfl
@[simp] theorem Chip.modTransport_mem (k : Nat) (f : Transport → Transport) : (c.modTransport k f).mem = c.mem := rfl
@[simp] theorem Chip.modTransport_sched (k : Nat) (f : Transport → Transport) : (c.modTransport k f).sched = c.sched := rfl
@[simp] theorem Chip.modTransport_recov (k : Nat) (f : Transport → Transport) : (c.modTransport k f).recov = c.recov := rfl
@[simp] theorem Chip.modTransport_streams (k : Nat) (f : Transport → Transport) : (c.modTransport k f).streams = c.streams := rfl
@[simp] theorem Chip.modTransport_items (k : Nat) (f : Transport → Transport) : (c.modTransport k f).items = c.items := rfl
@[simp] theorem Chip.modTransport_subs (k : Nat) (f : Transport → Transport) : (c.modTransport k f).subs = c.subs := rfl
@[simp] theorem Chip.modTransport_formed (k : Nat) (f : Transport → Transport) : (c.modTransport k f).formed = c.formed := rfl
@[simp] theorem Chip.modTransport_net (k : Nat) (f : Transport → Transport) : (c.modTransport k f).net = c.net := rfl
@[simp] theorem Chip.modTransport_servo (k : Nat) (f : Transport → Transport) : (c.modTransport k f).servo = c.servo := rfl
@[simp] theorem Chip.modTransport_sessions (k : Nat) (f : Transport → Transport) : (c.modTransport k f).sessions = c.sessions := rfl
@[simp] theorem Chip.modTransport_kv (k : Nat) (f : Transport → Transport) : (c.modTransport k f).kv = c.kv := rfl
@[simp] theorem Chip.modTransport_adapt (k : Nat) (f : Transport → Transport) : (c.modTransport k f).adapt = c.adapt := rfl
@[simp] theorem Chip.modTransport_boot (k : Nat) (f : Transport → Transport) : (c.modTransport k f).boot = c.boot := rfl
@[simp] theorem Chip.modTransport_fuses (k : Nat) (f : Transport → Transport) : (c.modTransport k f).fuses = c.fuses := rfl
@[simp] theorem Chip.modTransport_flash (k : Nat) (f : Transport → Transport) : (c.modTransport k f).flash = c.flash := rfl
@[simp] theorem Chip.modTransport_mgmt (k : Nat) (f : Transport → Transport) : (c.modTransport k f).mgmt = c.mgmt := rfl
@[simp] theorem Chip.modTransport_word (k : Nat) (f : Transport → Transport) (w : Reg) (x y : Nat) : (c.modTransport k f).word w x y = c.word w x y := rfl
@[simp] theorem Chip.modTransport_get (k : Nat) (f : Transport → Transport) (w : Fld) (x y : Nat) : (c.modTransport k f).get w x y = c.get w x y := rfl
@[simp] theorem Chip.modTransport_flag (k : Nat) (f : Transport → Transport) (w : Fld) (x y : Nat) : (c.modTransport k f).flag w x y = c.flag w x y := rfl

/-! ## modSubm -/

@[simp] theorem Chip.modSubm_regs (s : Nat) (f : Subm → Subm) : (c.modSubm s f).regs = c.regs := rfl
@[simp] theorem Chip.modSubm_free (s : Nat) (f : Subm → Subm) : (c.modSubm s f).free = c.free := rfl
@[simp] theorem Chip.modSubm_image (s : Nat) (f : Subm → Subm) : (c.modSubm s f).image = c.image := rfl
@[simp] theorem Chip.modSubm_clock (s : Nat) (f : Subm → Subm) : (c.modSubm s f).clock = c.clock := rfl
@[simp] theorem Chip.modSubm_fabric (s : Nat) (f : Subm → Subm) : (c.modSubm s f).fabric = c.fabric := rfl
@[simp] theorem Chip.modSubm_mem (s : Nat) (f : Subm → Subm) : (c.modSubm s f).mem = c.mem := rfl
@[simp] theorem Chip.modSubm_sched (s : Nat) (f : Subm → Subm) : (c.modSubm s f).sched = c.sched := rfl
@[simp] theorem Chip.modSubm_recov (s : Nat) (f : Subm → Subm) : (c.modSubm s f).recov = c.recov := rfl
@[simp] theorem Chip.modSubm_streams (s : Nat) (f : Subm → Subm) : (c.modSubm s f).streams = c.streams := rfl
@[simp] theorem Chip.modSubm_transports (s : Nat) (f : Subm → Subm) : (c.modSubm s f).transports = c.transports := rfl
@[simp] theorem Chip.modSubm_items (s : Nat) (f : Subm → Subm) : (c.modSubm s f).items = c.items := rfl
@[simp] theorem Chip.modSubm_formed (s : Nat) (f : Subm → Subm) : (c.modSubm s f).formed = c.formed := rfl
@[simp] theorem Chip.modSubm_net (s : Nat) (f : Subm → Subm) : (c.modSubm s f).net = c.net := rfl
@[simp] theorem Chip.modSubm_servo (s : Nat) (f : Subm → Subm) : (c.modSubm s f).servo = c.servo := rfl
@[simp] theorem Chip.modSubm_sessions (s : Nat) (f : Subm → Subm) : (c.modSubm s f).sessions = c.sessions := rfl
@[simp] theorem Chip.modSubm_kv (s : Nat) (f : Subm → Subm) : (c.modSubm s f).kv = c.kv := rfl
@[simp] theorem Chip.modSubm_adapt (s : Nat) (f : Subm → Subm) : (c.modSubm s f).adapt = c.adapt := rfl
@[simp] theorem Chip.modSubm_boot (s : Nat) (f : Subm → Subm) : (c.modSubm s f).boot = c.boot := rfl
@[simp] theorem Chip.modSubm_fuses (s : Nat) (f : Subm → Subm) : (c.modSubm s f).fuses = c.fuses := rfl
@[simp] theorem Chip.modSubm_flash (s : Nat) (f : Subm → Subm) : (c.modSubm s f).flash = c.flash := rfl
@[simp] theorem Chip.modSubm_mgmt (s : Nat) (f : Subm → Subm) : (c.modSubm s f).mgmt = c.mgmt := rfl
@[simp] theorem Chip.modSubm_word (s : Nat) (f : Subm → Subm) (w : Reg) (x y : Nat) : (c.modSubm s f).word w x y = c.word w x y := rfl
@[simp] theorem Chip.modSubm_get (s : Nat) (f : Subm → Subm) (w : Fld) (x y : Nat) : (c.modSubm s f).get w x y = c.get w x y := rfl
@[simp] theorem Chip.modSubm_flag (s : Nat) (f : Subm → Subm) (w : Fld) (x y : Nat) : (c.modSubm s f).flag w x y = c.flag w x y := rfl

/-! ## modPort -/

@[simp] theorem Chip.modPort_regs (x : Nat) (f : Port → Port) : (c.modPort x f).regs = c.regs := rfl
@[simp] theorem Chip.modPort_free (x : Nat) (f : Port → Port) : (c.modPort x f).free = c.free := rfl
@[simp] theorem Chip.modPort_image (x : Nat) (f : Port → Port) : (c.modPort x f).image = c.image := rfl
@[simp] theorem Chip.modPort_clock (x : Nat) (f : Port → Port) : (c.modPort x f).clock = c.clock := rfl
@[simp] theorem Chip.modPort_fabric (x : Nat) (f : Port → Port) : (c.modPort x f).fabric = c.fabric := rfl
@[simp] theorem Chip.modPort_mem (x : Nat) (f : Port → Port) : (c.modPort x f).mem = c.mem := rfl
@[simp] theorem Chip.modPort_sched (x : Nat) (f : Port → Port) : (c.modPort x f).sched = c.sched := rfl
@[simp] theorem Chip.modPort_recov (x : Nat) (f : Port → Port) : (c.modPort x f).recov = c.recov := rfl
@[simp] theorem Chip.modPort_streams (x : Nat) (f : Port → Port) : (c.modPort x f).streams = c.streams := rfl
@[simp] theorem Chip.modPort_transports (x : Nat) (f : Port → Port) : (c.modPort x f).transports = c.transports := rfl
@[simp] theorem Chip.modPort_items (x : Nat) (f : Port → Port) : (c.modPort x f).items = c.items := rfl
@[simp] theorem Chip.modPort_subs (x : Nat) (f : Port → Port) : (c.modPort x f).subs = c.subs := rfl
@[simp] theorem Chip.modPort_formed (x : Nat) (f : Port → Port) : (c.modPort x f).formed = c.formed := rfl
@[simp] theorem Chip.modPort_servo (x : Nat) (f : Port → Port) : (c.modPort x f).servo = c.servo := rfl
@[simp] theorem Chip.modPort_sessions (x : Nat) (f : Port → Port) : (c.modPort x f).sessions = c.sessions := rfl
@[simp] theorem Chip.modPort_kv (x : Nat) (f : Port → Port) : (c.modPort x f).kv = c.kv := rfl
@[simp] theorem Chip.modPort_adapt (x : Nat) (f : Port → Port) : (c.modPort x f).adapt = c.adapt := rfl
@[simp] theorem Chip.modPort_boot (x : Nat) (f : Port → Port) : (c.modPort x f).boot = c.boot := rfl
@[simp] theorem Chip.modPort_fuses (x : Nat) (f : Port → Port) : (c.modPort x f).fuses = c.fuses := rfl
@[simp] theorem Chip.modPort_flash (x : Nat) (f : Port → Port) : (c.modPort x f).flash = c.flash := rfl
@[simp] theorem Chip.modPort_mgmt (x : Nat) (f : Port → Port) : (c.modPort x f).mgmt = c.mgmt := rfl
@[simp] theorem Chip.modPort_word (z : Nat) (f : Port → Port) (w : Reg) (x y : Nat) : (c.modPort z f).word w x y = c.word w x y := rfl
@[simp] theorem Chip.modPort_get (z : Nat) (f : Port → Port) (w : Fld) (x y : Nat) : (c.modPort z f).get w x y = c.get w x y := rfl
@[simp] theorem Chip.modPort_flag (z : Nat) (f : Port → Port) (w : Fld) (x y : Nat) : (c.modPort z f).flag w x y = c.flag w x y := rfl

/-! ## modSess -/

@[simp] theorem Chip.modSess_regs (s : Nat) (f : Session → Session) : (c.modSess s f).regs = c.regs := rfl
@[simp] theorem Chip.modSess_free (s : Nat) (f : Session → Session) : (c.modSess s f).free = c.free := rfl
@[simp] theorem Chip.modSess_image (s : Nat) (f : Session → Session) : (c.modSess s f).image = c.image := rfl
@[simp] theorem Chip.modSess_clock (s : Nat) (f : Session → Session) : (c.modSess s f).clock = c.clock := rfl
@[simp] theorem Chip.modSess_fabric (s : Nat) (f : Session → Session) : (c.modSess s f).fabric = c.fabric := rfl
@[simp] theorem Chip.modSess_mem (s : Nat) (f : Session → Session) : (c.modSess s f).mem = c.mem := rfl
@[simp] theorem Chip.modSess_sched (s : Nat) (f : Session → Session) : (c.modSess s f).sched = c.sched := rfl
@[simp] theorem Chip.modSess_recov (s : Nat) (f : Session → Session) : (c.modSess s f).recov = c.recov := rfl
@[simp] theorem Chip.modSess_streams (s : Nat) (f : Session → Session) : (c.modSess s f).streams = c.streams := rfl
@[simp] theorem Chip.modSess_transports (s : Nat) (f : Session → Session) : (c.modSess s f).transports = c.transports := rfl
@[simp] theorem Chip.modSess_items (s : Nat) (f : Session → Session) : (c.modSess s f).items = c.items := rfl
@[simp] theorem Chip.modSess_subs (s : Nat) (f : Session → Session) : (c.modSess s f).subs = c.subs := rfl
@[simp] theorem Chip.modSess_formed (s : Nat) (f : Session → Session) : (c.modSess s f).formed = c.formed := rfl
@[simp] theorem Chip.modSess_net (s : Nat) (f : Session → Session) : (c.modSess s f).net = c.net := rfl
@[simp] theorem Chip.modSess_servo (s : Nat) (f : Session → Session) : (c.modSess s f).servo = c.servo := rfl
@[simp] theorem Chip.modSess_kv (s : Nat) (f : Session → Session) : (c.modSess s f).kv = c.kv := rfl
@[simp] theorem Chip.modSess_adapt (s : Nat) (f : Session → Session) : (c.modSess s f).adapt = c.adapt := rfl
@[simp] theorem Chip.modSess_boot (s : Nat) (f : Session → Session) : (c.modSess s f).boot = c.boot := rfl
@[simp] theorem Chip.modSess_fuses (s : Nat) (f : Session → Session) : (c.modSess s f).fuses = c.fuses := rfl
@[simp] theorem Chip.modSess_flash (s : Nat) (f : Session → Session) : (c.modSess s f).flash = c.flash := rfl
@[simp] theorem Chip.modSess_mgmt (s : Nat) (f : Session → Session) : (c.modSess s f).mgmt = c.mgmt := rfl
@[simp] theorem Chip.modSess_word (s : Nat) (f : Session → Session) (w : Reg) (x y : Nat) : (c.modSess s f).word w x y = c.word w x y := rfl
@[simp] theorem Chip.modSess_get (s : Nat) (f : Session → Session) (w : Fld) (x y : Nat) : (c.modSess s f).get w x y = c.get w x y := rfl
@[simp] theorem Chip.modSess_flag (s : Nat) (f : Session → Session) (w : Fld) (x y : Nat) : (c.modSess s f).flag w x y = c.flag w x y := rfl

/-! ## modItem -/

@[simp] theorem Chip.modItem_regs (n : Nat) (f : Item → Item) : (c.modItem n f).regs = c.regs := rfl
@[simp] theorem Chip.modItem_free (n : Nat) (f : Item → Item) : (c.modItem n f).free = c.free := rfl
@[simp] theorem Chip.modItem_image (n : Nat) (f : Item → Item) : (c.modItem n f).image = c.image := rfl
@[simp] theorem Chip.modItem_clock (n : Nat) (f : Item → Item) : (c.modItem n f).clock = c.clock := rfl
@[simp] theorem Chip.modItem_fabric (n : Nat) (f : Item → Item) : (c.modItem n f).fabric = c.fabric := rfl
@[simp] theorem Chip.modItem_mem (n : Nat) (f : Item → Item) : (c.modItem n f).mem = c.mem := rfl
@[simp] theorem Chip.modItem_sched (n : Nat) (f : Item → Item) : (c.modItem n f).sched = c.sched := rfl
@[simp] theorem Chip.modItem_recov (n : Nat) (f : Item → Item) : (c.modItem n f).recov = c.recov := rfl
@[simp] theorem Chip.modItem_streams (n : Nat) (f : Item → Item) : (c.modItem n f).streams = c.streams := rfl
@[simp] theorem Chip.modItem_transports (n : Nat) (f : Item → Item) : (c.modItem n f).transports = c.transports := rfl
@[simp] theorem Chip.modItem_subs (n : Nat) (f : Item → Item) : (c.modItem n f).subs = c.subs := rfl
@[simp] theorem Chip.modItem_formed (n : Nat) (f : Item → Item) : (c.modItem n f).formed = c.formed := rfl
@[simp] theorem Chip.modItem_net (n : Nat) (f : Item → Item) : (c.modItem n f).net = c.net := rfl
@[simp] theorem Chip.modItem_servo (n : Nat) (f : Item → Item) : (c.modItem n f).servo = c.servo := rfl
@[simp] theorem Chip.modItem_sessions (n : Nat) (f : Item → Item) : (c.modItem n f).sessions = c.sessions := rfl
@[simp] theorem Chip.modItem_kv (n : Nat) (f : Item → Item) : (c.modItem n f).kv = c.kv := rfl
@[simp] theorem Chip.modItem_adapt (n : Nat) (f : Item → Item) : (c.modItem n f).adapt = c.adapt := rfl
@[simp] theorem Chip.modItem_boot (n : Nat) (f : Item → Item) : (c.modItem n f).boot = c.boot := rfl
@[simp] theorem Chip.modItem_fuses (n : Nat) (f : Item → Item) : (c.modItem n f).fuses = c.fuses := rfl
@[simp] theorem Chip.modItem_flash (n : Nat) (f : Item → Item) : (c.modItem n f).flash = c.flash := rfl
@[simp] theorem Chip.modItem_mgmt (n : Nat) (f : Item → Item) : (c.modItem n f).mgmt = c.mgmt := rfl
@[simp] theorem Chip.modItem_word (n : Nat) (f : Item → Item) (w : Reg) (x y : Nat) : (c.modItem n f).word w x y = c.word w x y := rfl
@[simp] theorem Chip.modItem_get (n : Nat) (f : Item → Item) (w : Fld) (x y : Nat) : (c.modItem n f).get w x y = c.get w x y := rfl
@[simp] theorem Chip.modItem_flag (n : Nat) (f : Item → Item) (w : Fld) (x y : Nat) : (c.modItem n f).flag w x y = c.flag w x y := rfl

/-! ## modHedge -/

@[simp] theorem Chip.modHedge_regs (x : Nat) (f : HedgeRes → HedgeRes) : (c.modHedge x f).regs = c.regs := rfl
@[simp] theorem Chip.modHedge_free (x : Nat) (f : HedgeRes → HedgeRes) : (c.modHedge x f).free = c.free := rfl
@[simp] theorem Chip.modHedge_image (x : Nat) (f : HedgeRes → HedgeRes) : (c.modHedge x f).image = c.image := rfl
@[simp] theorem Chip.modHedge_clock (x : Nat) (f : HedgeRes → HedgeRes) : (c.modHedge x f).clock = c.clock := rfl
@[simp] theorem Chip.modHedge_fabric (x : Nat) (f : HedgeRes → HedgeRes) : (c.modHedge x f).fabric = c.fabric := rfl
@[simp] theorem Chip.modHedge_sched (x : Nat) (f : HedgeRes → HedgeRes) : (c.modHedge x f).sched = c.sched := rfl
@[simp] theorem Chip.modHedge_recov (x : Nat) (f : HedgeRes → HedgeRes) : (c.modHedge x f).recov = c.recov := rfl
@[simp] theorem Chip.modHedge_streams (x : Nat) (f : HedgeRes → HedgeRes) : (c.modHedge x f).streams = c.streams := rfl
@[simp] theorem Chip.modHedge_transports (x : Nat) (f : HedgeRes → HedgeRes) : (c.modHedge x f).transports = c.transports := rfl
@[simp] theorem Chip.modHedge_items (x : Nat) (f : HedgeRes → HedgeRes) : (c.modHedge x f).items = c.items := rfl
@[simp] theorem Chip.modHedge_subs (x : Nat) (f : HedgeRes → HedgeRes) : (c.modHedge x f).subs = c.subs := rfl
@[simp] theorem Chip.modHedge_formed (x : Nat) (f : HedgeRes → HedgeRes) : (c.modHedge x f).formed = c.formed := rfl
@[simp] theorem Chip.modHedge_net (x : Nat) (f : HedgeRes → HedgeRes) : (c.modHedge x f).net = c.net := rfl
@[simp] theorem Chip.modHedge_servo (x : Nat) (f : HedgeRes → HedgeRes) : (c.modHedge x f).servo = c.servo := rfl
@[simp] theorem Chip.modHedge_sessions (x : Nat) (f : HedgeRes → HedgeRes) : (c.modHedge x f).sessions = c.sessions := rfl
@[simp] theorem Chip.modHedge_kv (x : Nat) (f : HedgeRes → HedgeRes) : (c.modHedge x f).kv = c.kv := rfl
@[simp] theorem Chip.modHedge_adapt (x : Nat) (f : HedgeRes → HedgeRes) : (c.modHedge x f).adapt = c.adapt := rfl
@[simp] theorem Chip.modHedge_boot (x : Nat) (f : HedgeRes → HedgeRes) : (c.modHedge x f).boot = c.boot := rfl
@[simp] theorem Chip.modHedge_fuses (x : Nat) (f : HedgeRes → HedgeRes) : (c.modHedge x f).fuses = c.fuses := rfl
@[simp] theorem Chip.modHedge_flash (x : Nat) (f : HedgeRes → HedgeRes) : (c.modHedge x f).flash = c.flash := rfl
@[simp] theorem Chip.modHedge_mgmt (x : Nat) (f : HedgeRes → HedgeRes) : (c.modHedge x f).mgmt = c.mgmt := rfl
@[simp] theorem Chip.modHedge_word (z : Nat) (f : HedgeRes → HedgeRes) (w : Reg) (x y : Nat) : (c.modHedge z f).word w x y = c.word w x y := rfl
@[simp] theorem Chip.modHedge_get (z : Nat) (f : HedgeRes → HedgeRes) (w : Fld) (x y : Nat) : (c.modHedge z f).get w x y = c.get w x y := rfl
@[simp] theorem Chip.modHedge_flag (z : Nat) (f : HedgeRes → HedgeRes) (w : Fld) (x y : Nat) : (c.modHedge z f).flag w x y = c.flag w x y := rfl

/-! ## modRing -/

@[simp] theorem Chip.modRing_regs (k : Nat) (f : RingMem → RingMem) : (c.modRing k f).regs = c.regs := rfl
@[simp] theorem Chip.modRing_free (k : Nat) (f : RingMem → RingMem) : (c.modRing k f).free = c.free := rfl
@[simp] theorem Chip.modRing_image (k : Nat) (f : RingMem → RingMem) : (c.modRing k f).image = c.image := rfl
@[simp] theorem Chip.modRing_clock (k : Nat) (f : RingMem → RingMem) : (c.modRing k f).clock = c.clock := rfl
@[simp] theorem Chip.modRing_mem (k : Nat) (f : RingMem → RingMem) : (c.modRing k f).mem = c.mem := rfl
@[simp] theorem Chip.modRing_sched (k : Nat) (f : RingMem → RingMem) : (c.modRing k f).sched = c.sched := rfl
@[simp] theorem Chip.modRing_recov (k : Nat) (f : RingMem → RingMem) : (c.modRing k f).recov = c.recov := rfl
@[simp] theorem Chip.modRing_streams (k : Nat) (f : RingMem → RingMem) : (c.modRing k f).streams = c.streams := rfl
@[simp] theorem Chip.modRing_transports (k : Nat) (f : RingMem → RingMem) : (c.modRing k f).transports = c.transports := rfl
@[simp] theorem Chip.modRing_items (k : Nat) (f : RingMem → RingMem) : (c.modRing k f).items = c.items := rfl
@[simp] theorem Chip.modRing_subs (k : Nat) (f : RingMem → RingMem) : (c.modRing k f).subs = c.subs := rfl
@[simp] theorem Chip.modRing_formed (k : Nat) (f : RingMem → RingMem) : (c.modRing k f).formed = c.formed := rfl
@[simp] theorem Chip.modRing_net (k : Nat) (f : RingMem → RingMem) : (c.modRing k f).net = c.net := rfl
@[simp] theorem Chip.modRing_servo (k : Nat) (f : RingMem → RingMem) : (c.modRing k f).servo = c.servo := rfl
@[simp] theorem Chip.modRing_sessions (k : Nat) (f : RingMem → RingMem) : (c.modRing k f).sessions = c.sessions := rfl
@[simp] theorem Chip.modRing_kv (k : Nat) (f : RingMem → RingMem) : (c.modRing k f).kv = c.kv := rfl
@[simp] theorem Chip.modRing_adapt (k : Nat) (f : RingMem → RingMem) : (c.modRing k f).adapt = c.adapt := rfl
@[simp] theorem Chip.modRing_boot (k : Nat) (f : RingMem → RingMem) : (c.modRing k f).boot = c.boot := rfl
@[simp] theorem Chip.modRing_fuses (k : Nat) (f : RingMem → RingMem) : (c.modRing k f).fuses = c.fuses := rfl
@[simp] theorem Chip.modRing_flash (k : Nat) (f : RingMem → RingMem) : (c.modRing k f).flash = c.flash := rfl
@[simp] theorem Chip.modRing_mgmt (k : Nat) (f : RingMem → RingMem) : (c.modRing k f).mgmt = c.mgmt := rfl
@[simp] theorem Chip.modRing_word (k : Nat) (f : RingMem → RingMem) (w : Reg) (x y : Nat) : (c.modRing k f).word w x y = c.word w x y := rfl
@[simp] theorem Chip.modRing_get (k : Nat) (f : RingMem → RingMem) (w : Fld) (x y : Nat) : (c.modRing k f).get w x y = c.get w x y := rfl
@[simp] theorem Chip.modRing_flag (k : Nat) (f : RingMem → RingMem) (w : Fld) (x y : Nat) : (c.modRing k f).flag w x y = c.flag w x y := rfl

/-! ## modRole -/

@[simp] theorem Chip.modRole_regs (r : Nat) (f : NmpRole → NmpRole) : (c.modRole r f).regs = c.regs := rfl
@[simp] theorem Chip.modRole_free (r : Nat) (f : NmpRole → NmpRole) : (c.modRole r f).free = c.free := rfl
@[simp] theorem Chip.modRole_image (r : Nat) (f : NmpRole → NmpRole) : (c.modRole r f).image = c.image := rfl
@[simp] theorem Chip.modRole_clock (r : Nat) (f : NmpRole → NmpRole) : (c.modRole r f).clock = c.clock := rfl
@[simp] theorem Chip.modRole_fabric (r : Nat) (f : NmpRole → NmpRole) : (c.modRole r f).fabric = c.fabric := rfl
@[simp] theorem Chip.modRole_mem (r : Nat) (f : NmpRole → NmpRole) : (c.modRole r f).mem = c.mem := rfl
@[simp] theorem Chip.modRole_sched (r : Nat) (f : NmpRole → NmpRole) : (c.modRole r f).sched = c.sched := rfl
@[simp] theorem Chip.modRole_recov (r : Nat) (f : NmpRole → NmpRole) : (c.modRole r f).recov = c.recov := rfl
@[simp] theorem Chip.modRole_streams (r : Nat) (f : NmpRole → NmpRole) : (c.modRole r f).streams = c.streams := rfl
@[simp] theorem Chip.modRole_transports (r : Nat) (f : NmpRole → NmpRole) : (c.modRole r f).transports = c.transports := rfl
@[simp] theorem Chip.modRole_items (r : Nat) (f : NmpRole → NmpRole) : (c.modRole r f).items = c.items := rfl
@[simp] theorem Chip.modRole_subs (r : Nat) (f : NmpRole → NmpRole) : (c.modRole r f).subs = c.subs := rfl
@[simp] theorem Chip.modRole_formed (r : Nat) (f : NmpRole → NmpRole) : (c.modRole r f).formed = c.formed := rfl
@[simp] theorem Chip.modRole_net (r : Nat) (f : NmpRole → NmpRole) : (c.modRole r f).net = c.net := rfl
@[simp] theorem Chip.modRole_servo (r : Nat) (f : NmpRole → NmpRole) : (c.modRole r f).servo = c.servo := rfl
@[simp] theorem Chip.modRole_sessions (r : Nat) (f : NmpRole → NmpRole) : (c.modRole r f).sessions = c.sessions := rfl
@[simp] theorem Chip.modRole_kv (r : Nat) (f : NmpRole → NmpRole) : (c.modRole r f).kv = c.kv := rfl
@[simp] theorem Chip.modRole_adapt (r : Nat) (f : NmpRole → NmpRole) : (c.modRole r f).adapt = c.adapt := rfl
@[simp] theorem Chip.modRole_boot (r : Nat) (f : NmpRole → NmpRole) : (c.modRole r f).boot = c.boot := rfl
@[simp] theorem Chip.modRole_fuses (r : Nat) (f : NmpRole → NmpRole) : (c.modRole r f).fuses = c.fuses := rfl
@[simp] theorem Chip.modRole_flash (r : Nat) (f : NmpRole → NmpRole) : (c.modRole r f).flash = c.flash := rfl
@[simp] theorem Chip.modRole_word (r : Nat) (f : NmpRole → NmpRole) (w : Reg) (x y : Nat) : (c.modRole r f).word w x y = c.word w x y := rfl
@[simp] theorem Chip.modRole_get (r : Nat) (f : NmpRole → NmpRole) (w : Fld) (x y : Nat) : (c.modRole r f).get w x y = c.get w x y := rfl
@[simp] theorem Chip.modRole_flag (r : Nat) (f : NmpRole → NmpRole) (w : Fld) (x y : Nat) : (c.modRole r f).flag w x y = c.flag w x y := rfl

/-! ## modOp -/

@[simp] theorem Chip.modOp_regs (h : Nat) (f : LongOp → LongOp) : (c.modOp h f).regs = c.regs := rfl
@[simp] theorem Chip.modOp_free (h : Nat) (f : LongOp → LongOp) : (c.modOp h f).free = c.free := rfl
@[simp] theorem Chip.modOp_image (h : Nat) (f : LongOp → LongOp) : (c.modOp h f).image = c.image := rfl
@[simp] theorem Chip.modOp_clock (h : Nat) (f : LongOp → LongOp) : (c.modOp h f).clock = c.clock := rfl
@[simp] theorem Chip.modOp_fabric (h : Nat) (f : LongOp → LongOp) : (c.modOp h f).fabric = c.fabric := rfl
@[simp] theorem Chip.modOp_mem (h : Nat) (f : LongOp → LongOp) : (c.modOp h f).mem = c.mem := rfl
@[simp] theorem Chip.modOp_sched (h : Nat) (f : LongOp → LongOp) : (c.modOp h f).sched = c.sched := rfl
@[simp] theorem Chip.modOp_recov (h : Nat) (f : LongOp → LongOp) : (c.modOp h f).recov = c.recov := rfl
@[simp] theorem Chip.modOp_streams (h : Nat) (f : LongOp → LongOp) : (c.modOp h f).streams = c.streams := rfl
@[simp] theorem Chip.modOp_transports (h : Nat) (f : LongOp → LongOp) : (c.modOp h f).transports = c.transports := rfl
@[simp] theorem Chip.modOp_items (h : Nat) (f : LongOp → LongOp) : (c.modOp h f).items = c.items := rfl
@[simp] theorem Chip.modOp_subs (h : Nat) (f : LongOp → LongOp) : (c.modOp h f).subs = c.subs := rfl
@[simp] theorem Chip.modOp_formed (h : Nat) (f : LongOp → LongOp) : (c.modOp h f).formed = c.formed := rfl
@[simp] theorem Chip.modOp_net (h : Nat) (f : LongOp → LongOp) : (c.modOp h f).net = c.net := rfl
@[simp] theorem Chip.modOp_servo (h : Nat) (f : LongOp → LongOp) : (c.modOp h f).servo = c.servo := rfl
@[simp] theorem Chip.modOp_sessions (h : Nat) (f : LongOp → LongOp) : (c.modOp h f).sessions = c.sessions := rfl
@[simp] theorem Chip.modOp_kv (h : Nat) (f : LongOp → LongOp) : (c.modOp h f).kv = c.kv := rfl
@[simp] theorem Chip.modOp_adapt (h : Nat) (f : LongOp → LongOp) : (c.modOp h f).adapt = c.adapt := rfl
@[simp] theorem Chip.modOp_boot (h : Nat) (f : LongOp → LongOp) : (c.modOp h f).boot = c.boot := rfl
@[simp] theorem Chip.modOp_fuses (h : Nat) (f : LongOp → LongOp) : (c.modOp h f).fuses = c.fuses := rfl
@[simp] theorem Chip.modOp_flash (h : Nat) (f : LongOp → LongOp) : (c.modOp h f).flash = c.flash := rfl
@[simp] theorem Chip.modOp_word (h : Nat) (f : LongOp → LongOp) (w : Reg) (x y : Nat) : (c.modOp h f).word w x y = c.word w x y := rfl
@[simp] theorem Chip.modOp_get (h : Nat) (f : LongOp → LongOp) (w : Fld) (x y : Nat) : (c.modOp h f).get w x y = c.get w x y := rfl
@[simp] theorem Chip.modOp_flag (h : Nat) (f : LongOp → LongOp) (w : Fld) (x y : Nat) : (c.modOp h f).flag w x y = c.flag w x y := rfl

/-! ## modSet -/

@[simp] theorem Chip.modSet_regs (s : Nat) (f : AdSet → AdSet) : (c.modSet s f).regs = c.regs := rfl
@[simp] theorem Chip.modSet_free (s : Nat) (f : AdSet → AdSet) : (c.modSet s f).free = c.free := rfl
@[simp] theorem Chip.modSet_image (s : Nat) (f : AdSet → AdSet) : (c.modSet s f).image = c.image := rfl
@[simp] theorem Chip.modSet_clock (s : Nat) (f : AdSet → AdSet) : (c.modSet s f).clock = c.clock := rfl
@[simp] theorem Chip.modSet_fabric (s : Nat) (f : AdSet → AdSet) : (c.modSet s f).fabric = c.fabric := rfl
@[simp] theorem Chip.modSet_mem (s : Nat) (f : AdSet → AdSet) : (c.modSet s f).mem = c.mem := rfl
@[simp] theorem Chip.modSet_sched (s : Nat) (f : AdSet → AdSet) : (c.modSet s f).sched = c.sched := rfl
@[simp] theorem Chip.modSet_recov (s : Nat) (f : AdSet → AdSet) : (c.modSet s f).recov = c.recov := rfl
@[simp] theorem Chip.modSet_streams (s : Nat) (f : AdSet → AdSet) : (c.modSet s f).streams = c.streams := rfl
@[simp] theorem Chip.modSet_transports (s : Nat) (f : AdSet → AdSet) : (c.modSet s f).transports = c.transports := rfl
@[simp] theorem Chip.modSet_items (s : Nat) (f : AdSet → AdSet) : (c.modSet s f).items = c.items := rfl
@[simp] theorem Chip.modSet_subs (s : Nat) (f : AdSet → AdSet) : (c.modSet s f).subs = c.subs := rfl
@[simp] theorem Chip.modSet_formed (s : Nat) (f : AdSet → AdSet) : (c.modSet s f).formed = c.formed := rfl
@[simp] theorem Chip.modSet_net (s : Nat) (f : AdSet → AdSet) : (c.modSet s f).net = c.net := rfl
@[simp] theorem Chip.modSet_servo (s : Nat) (f : AdSet → AdSet) : (c.modSet s f).servo = c.servo := rfl
@[simp] theorem Chip.modSet_sessions (s : Nat) (f : AdSet → AdSet) : (c.modSet s f).sessions = c.sessions := rfl
@[simp] theorem Chip.modSet_kv (s : Nat) (f : AdSet → AdSet) : (c.modSet s f).kv = c.kv := rfl
@[simp] theorem Chip.modSet_boot (s : Nat) (f : AdSet → AdSet) : (c.modSet s f).boot = c.boot := rfl
@[simp] theorem Chip.modSet_fuses (s : Nat) (f : AdSet → AdSet) : (c.modSet s f).fuses = c.fuses := rfl
@[simp] theorem Chip.modSet_flash (s : Nat) (f : AdSet → AdSet) : (c.modSet s f).flash = c.flash := rfl
@[simp] theorem Chip.modSet_mgmt (s : Nat) (f : AdSet → AdSet) : (c.modSet s f).mgmt = c.mgmt := rfl
@[simp] theorem Chip.modSet_word (s : Nat) (f : AdSet → AdSet) (w : Reg) (x y : Nat) : (c.modSet s f).word w x y = c.word w x y := rfl
@[simp] theorem Chip.modSet_get (s : Nat) (f : AdSet → AdSet) (w : Fld) (x y : Nat) : (c.modSet s f).get w x y = c.get w x y := rfl
@[simp] theorem Chip.modSet_flag (s : Nat) (f : AdSet → AdSet) (w : Fld) (x y : Nat) : (c.modSet s f).flag w x y = c.flag w x y := rfl

/-! ## modKvSlot -/

@[simp] theorem Chip.modKvSlot_regs (q : Nat) (f : KvSlot → KvSlot) : (c.modKvSlot q f).regs = c.regs := rfl
@[simp] theorem Chip.modKvSlot_free (q : Nat) (f : KvSlot → KvSlot) : (c.modKvSlot q f).free = c.free := rfl
@[simp] theorem Chip.modKvSlot_image (q : Nat) (f : KvSlot → KvSlot) : (c.modKvSlot q f).image = c.image := rfl
@[simp] theorem Chip.modKvSlot_clock (q : Nat) (f : KvSlot → KvSlot) : (c.modKvSlot q f).clock = c.clock := rfl
@[simp] theorem Chip.modKvSlot_fabric (q : Nat) (f : KvSlot → KvSlot) : (c.modKvSlot q f).fabric = c.fabric := rfl
@[simp] theorem Chip.modKvSlot_mem (q : Nat) (f : KvSlot → KvSlot) : (c.modKvSlot q f).mem = c.mem := rfl
@[simp] theorem Chip.modKvSlot_sched (q : Nat) (f : KvSlot → KvSlot) : (c.modKvSlot q f).sched = c.sched := rfl
@[simp] theorem Chip.modKvSlot_recov (q : Nat) (f : KvSlot → KvSlot) : (c.modKvSlot q f).recov = c.recov := rfl
@[simp] theorem Chip.modKvSlot_streams (q : Nat) (f : KvSlot → KvSlot) : (c.modKvSlot q f).streams = c.streams := rfl
@[simp] theorem Chip.modKvSlot_transports (q : Nat) (f : KvSlot → KvSlot) : (c.modKvSlot q f).transports = c.transports := rfl
@[simp] theorem Chip.modKvSlot_items (q : Nat) (f : KvSlot → KvSlot) : (c.modKvSlot q f).items = c.items := rfl
@[simp] theorem Chip.modKvSlot_subs (q : Nat) (f : KvSlot → KvSlot) : (c.modKvSlot q f).subs = c.subs := rfl
@[simp] theorem Chip.modKvSlot_formed (q : Nat) (f : KvSlot → KvSlot) : (c.modKvSlot q f).formed = c.formed := rfl
@[simp] theorem Chip.modKvSlot_net (q : Nat) (f : KvSlot → KvSlot) : (c.modKvSlot q f).net = c.net := rfl
@[simp] theorem Chip.modKvSlot_servo (q : Nat) (f : KvSlot → KvSlot) : (c.modKvSlot q f).servo = c.servo := rfl
@[simp] theorem Chip.modKvSlot_sessions (q : Nat) (f : KvSlot → KvSlot) : (c.modKvSlot q f).sessions = c.sessions := rfl
@[simp] theorem Chip.modKvSlot_adapt (q : Nat) (f : KvSlot → KvSlot) : (c.modKvSlot q f).adapt = c.adapt := rfl
@[simp] theorem Chip.modKvSlot_boot (q : Nat) (f : KvSlot → KvSlot) : (c.modKvSlot q f).boot = c.boot := rfl
@[simp] theorem Chip.modKvSlot_fuses (q : Nat) (f : KvSlot → KvSlot) : (c.modKvSlot q f).fuses = c.fuses := rfl
@[simp] theorem Chip.modKvSlot_flash (q : Nat) (f : KvSlot → KvSlot) : (c.modKvSlot q f).flash = c.flash := rfl
@[simp] theorem Chip.modKvSlot_mgmt (q : Nat) (f : KvSlot → KvSlot) : (c.modKvSlot q f).mgmt = c.mgmt := rfl
@[simp] theorem Chip.modKvSlot_word (q : Nat) (f : KvSlot → KvSlot) (w : Reg) (x y : Nat) : (c.modKvSlot q f).word w x y = c.word w x y := rfl
@[simp] theorem Chip.modKvSlot_get (q : Nat) (f : KvSlot → KvSlot) (w : Fld) (x y : Nat) : (c.modKvSlot q f).get w x y = c.get w x y := rfl
@[simp] theorem Chip.modKvSlot_flag (q : Nat) (f : KvSlot → KvSlot) (w : Fld) (x y : Nat) : (c.modKvSlot q f).flag w x y = c.flag w x y := rfl

/-! ## modFlash -/

@[simp] theorem Chip.modFlash_regs (d : Nat) (f : Flash → Flash) : (c.modFlash d f).regs = c.regs := rfl
@[simp] theorem Chip.modFlash_free (d : Nat) (f : Flash → Flash) : (c.modFlash d f).free = c.free := rfl
@[simp] theorem Chip.modFlash_image (d : Nat) (f : Flash → Flash) : (c.modFlash d f).image = c.image := rfl
@[simp] theorem Chip.modFlash_clock (d : Nat) (f : Flash → Flash) : (c.modFlash d f).clock = c.clock := rfl
@[simp] theorem Chip.modFlash_fabric (d : Nat) (f : Flash → Flash) : (c.modFlash d f).fabric = c.fabric := rfl
@[simp] theorem Chip.modFlash_mem (d : Nat) (f : Flash → Flash) : (c.modFlash d f).mem = c.mem := rfl
@[simp] theorem Chip.modFlash_sched (d : Nat) (f : Flash → Flash) : (c.modFlash d f).sched = c.sched := rfl
@[simp] theorem Chip.modFlash_recov (d : Nat) (f : Flash → Flash) : (c.modFlash d f).recov = c.recov := rfl
@[simp] theorem Chip.modFlash_streams (d : Nat) (f : Flash → Flash) : (c.modFlash d f).streams = c.streams := rfl
@[simp] theorem Chip.modFlash_transports (d : Nat) (f : Flash → Flash) : (c.modFlash d f).transports = c.transports := rfl
@[simp] theorem Chip.modFlash_items (d : Nat) (f : Flash → Flash) : (c.modFlash d f).items = c.items := rfl
@[simp] theorem Chip.modFlash_subs (d : Nat) (f : Flash → Flash) : (c.modFlash d f).subs = c.subs := rfl
@[simp] theorem Chip.modFlash_formed (d : Nat) (f : Flash → Flash) : (c.modFlash d f).formed = c.formed := rfl
@[simp] theorem Chip.modFlash_net (d : Nat) (f : Flash → Flash) : (c.modFlash d f).net = c.net := rfl
@[simp] theorem Chip.modFlash_servo (d : Nat) (f : Flash → Flash) : (c.modFlash d f).servo = c.servo := rfl
@[simp] theorem Chip.modFlash_sessions (d : Nat) (f : Flash → Flash) : (c.modFlash d f).sessions = c.sessions := rfl
@[simp] theorem Chip.modFlash_kv (d : Nat) (f : Flash → Flash) : (c.modFlash d f).kv = c.kv := rfl
@[simp] theorem Chip.modFlash_adapt (d : Nat) (f : Flash → Flash) : (c.modFlash d f).adapt = c.adapt := rfl
@[simp] theorem Chip.modFlash_boot (d : Nat) (f : Flash → Flash) : (c.modFlash d f).boot = c.boot := rfl
@[simp] theorem Chip.modFlash_fuses (d : Nat) (f : Flash → Flash) : (c.modFlash d f).fuses = c.fuses := rfl
@[simp] theorem Chip.modFlash_mgmt (d : Nat) (f : Flash → Flash) : (c.modFlash d f).mgmt = c.mgmt := rfl
@[simp] theorem Chip.modFlash_word (d : Nat) (f : Flash → Flash) (w : Reg) (x y : Nat) : (c.modFlash d f).word w x y = c.word w x y := rfl
@[simp] theorem Chip.modFlash_get (d : Nat) (f : Flash → Flash) (w : Fld) (x y : Nat) : (c.modFlash d f).get w x y = c.get w x y := rfl
@[simp] theorem Chip.modFlash_flag (d : Nat) (f : Flash → Flash) (w : Fld) (x y : Nat) : (c.modFlash d f).flag w x y = c.flag w x y := rfl

/-! ## answer -/

@[simp] theorem Chip.answer_regs (r : ReadRes) : (c.answer r).regs = c.regs := rfl
@[simp] theorem Chip.answer_free (r : ReadRes) : (c.answer r).free = c.free := rfl
@[simp] theorem Chip.answer_image (r : ReadRes) : (c.answer r).image = c.image := rfl
@[simp] theorem Chip.answer_clock (r : ReadRes) : (c.answer r).clock = c.clock := rfl
@[simp] theorem Chip.answer_fabric (r : ReadRes) : (c.answer r).fabric = c.fabric := rfl
@[simp] theorem Chip.answer_sched (r : ReadRes) : (c.answer r).sched = c.sched := rfl
@[simp] theorem Chip.answer_recov (r : ReadRes) : (c.answer r).recov = c.recov := rfl
@[simp] theorem Chip.answer_streams (r : ReadRes) : (c.answer r).streams = c.streams := rfl
@[simp] theorem Chip.answer_transports (r : ReadRes) : (c.answer r).transports = c.transports := rfl
@[simp] theorem Chip.answer_items (r : ReadRes) : (c.answer r).items = c.items := rfl
@[simp] theorem Chip.answer_subs (r : ReadRes) : (c.answer r).subs = c.subs := rfl
@[simp] theorem Chip.answer_formed (r : ReadRes) : (c.answer r).formed = c.formed := rfl
@[simp] theorem Chip.answer_net (r : ReadRes) : (c.answer r).net = c.net := rfl
@[simp] theorem Chip.answer_servo (r : ReadRes) : (c.answer r).servo = c.servo := rfl
@[simp] theorem Chip.answer_sessions (r : ReadRes) : (c.answer r).sessions = c.sessions := rfl
@[simp] theorem Chip.answer_kv (r : ReadRes) : (c.answer r).kv = c.kv := rfl
@[simp] theorem Chip.answer_adapt (r : ReadRes) : (c.answer r).adapt = c.adapt := rfl
@[simp] theorem Chip.answer_boot (r : ReadRes) : (c.answer r).boot = c.boot := rfl
@[simp] theorem Chip.answer_fuses (r : ReadRes) : (c.answer r).fuses = c.fuses := rfl
@[simp] theorem Chip.answer_flash (r : ReadRes) : (c.answer r).flash = c.flash := rfl
@[simp] theorem Chip.answer_mgmt (r : ReadRes) : (c.answer r).mgmt = c.mgmt := rfl
@[simp] theorem Chip.answer_word (r : ReadRes) (w : Reg) (x y : Nat) : (c.answer r).word w x y = c.word w x y := rfl
@[simp] theorem Chip.answer_get (r : ReadRes) (w : Fld) (x y : Nat) : (c.answer r).get w x y = c.get w x y := rfl
@[simp] theorem Chip.answer_flag (r : ReadRes) (w : Fld) (x y : Nat) : (c.answer r).flag w x y = c.flag w x y := rfl

/-! ## setRun -/

@[simp] theorem Chip.setRun_regs (u : Nat) (r : Option StepRun) : (c.setRun u r).regs = c.regs := rfl
@[simp] theorem Chip.setRun_free (u : Nat) (r : Option StepRun) : (c.setRun u r).free = c.free := rfl
@[simp] theorem Chip.setRun_image (u : Nat) (r : Option StepRun) : (c.setRun u r).image = c.image := rfl
@[simp] theorem Chip.setRun_clock (u : Nat) (r : Option StepRun) : (c.setRun u r).clock = c.clock := rfl
@[simp] theorem Chip.setRun_fabric (u : Nat) (r : Option StepRun) : (c.setRun u r).fabric = c.fabric := rfl
@[simp] theorem Chip.setRun_mem (u : Nat) (r : Option StepRun) : (c.setRun u r).mem = c.mem := rfl
@[simp] theorem Chip.setRun_recov (u : Nat) (r : Option StepRun) : (c.setRun u r).recov = c.recov := rfl
@[simp] theorem Chip.setRun_streams (u : Nat) (r : Option StepRun) : (c.setRun u r).streams = c.streams := rfl
@[simp] theorem Chip.setRun_transports (u : Nat) (r : Option StepRun) : (c.setRun u r).transports = c.transports := rfl
@[simp] theorem Chip.setRun_items (u : Nat) (r : Option StepRun) : (c.setRun u r).items = c.items := rfl
@[simp] theorem Chip.setRun_subs (u : Nat) (r : Option StepRun) : (c.setRun u r).subs = c.subs := rfl
@[simp] theorem Chip.setRun_formed (u : Nat) (r : Option StepRun) : (c.setRun u r).formed = c.formed := rfl
@[simp] theorem Chip.setRun_net (u : Nat) (r : Option StepRun) : (c.setRun u r).net = c.net := rfl
@[simp] theorem Chip.setRun_servo (u : Nat) (r : Option StepRun) : (c.setRun u r).servo = c.servo := rfl
@[simp] theorem Chip.setRun_sessions (u : Nat) (r : Option StepRun) : (c.setRun u r).sessions = c.sessions := rfl
@[simp] theorem Chip.setRun_kv (u : Nat) (r : Option StepRun) : (c.setRun u r).kv = c.kv := rfl
@[simp] theorem Chip.setRun_adapt (u : Nat) (r : Option StepRun) : (c.setRun u r).adapt = c.adapt := rfl
@[simp] theorem Chip.setRun_boot (u : Nat) (r : Option StepRun) : (c.setRun u r).boot = c.boot := rfl
@[simp] theorem Chip.setRun_fuses (u : Nat) (r : Option StepRun) : (c.setRun u r).fuses = c.fuses := rfl
@[simp] theorem Chip.setRun_flash (u : Nat) (r : Option StepRun) : (c.setRun u r).flash = c.flash := rfl
@[simp] theorem Chip.setRun_mgmt (u : Nat) (r : Option StepRun) : (c.setRun u r).mgmt = c.mgmt := rfl
@[simp] theorem Chip.setRun_word (u : Nat) (r : Option StepRun) (w : Reg) (x y : Nat) : (c.setRun u r).word w x y = c.word w x y := rfl
@[simp] theorem Chip.setRun_get (u : Nat) (r : Option StepRun) (w : Fld) (x y : Nat) : (c.setRun u r).get w x y = c.get w x y := rfl
@[simp] theorem Chip.setRun_flag (u : Nat) (r : Option StepRun) (w : Fld) (x y : Nat) : (c.setRun u r).flag w x y = c.flag w x y := rfl

/-! ## Commands -/

@[simp] theorem State.upd_eq (s : State) (f : Chip → Chip) : s.upd f = .next { s with chip := f s.chip } := rfl

/-- Held in reset, a command that needs a running chip does nothing. -/
theorem Chip.awake_held (h : c.boot.held = true) (f : Chip → Chip) : c.awake f = c := by simp [Chip.awake, h]
theorem Chip.serving_held (h : c.boot.held = true) (f : Chip → Chip) : c.serving f = c := by simp [Chip.serving, h]
theorem Chip.online_held (h : c.boot.held = true) (f : Chip → Chip) : c.online f = c := by simp [Chip.online, h]
theorem Chip.awake_eq (h : c.boot.held = false) (f : Chip → Chip) : c.awake f = f c := by simp [Chip.awake, h]
/-- In state RUNNING the work is done, and feed hold and credits follow. -/
theorem Chip.serving_eq (h : c.boot.held = false) (hr : c.running = true) (f : Chip → Chip) : c.serving f = (f c).settle := by
  simp [Chip.serving, h, hr]
/-- From the end of boot on the work of a port is done. -/
theorem Chip.online_eq (h : c.boot.held = false) (hb : c.get F.BOOT_STAT_STATE ≠ 0) (f : Chip → Chip) : c.online f = f c := by
  simp only [Chip.online, h, Bool.false_or, decide_eq_true_eq, hb, if_false]

end Sys2Proof.Machine
end

