-- ==== Sys2Proof/Laws/Exec.lean ====
section
/-!
SUPPORT. The commands one by one: the next state that exec answers, as the work of the device that the command does.
-/

namespace Sys2Proof.Machine

@[simp] theorem exec_porstNFall (s : State) :
    exec (.porstNFall) s = .next ⟨s.pending, (fun c => c.holdReset false) s.chip⟩ := rfl

@[simp] theorem exec_porstNRise (straps : Fin 4) (s : State) :
    exec (.porstNRise straps) s = .next ⟨s.pending, (fun c => c.porstRise straps.val) s.chip⟩ := rfl

@[simp] theorem exec_railUndervoltage (s : State) :
    exec (.railUndervoltage) s = .next ⟨s.pending, Chip.railLost s.chip⟩ := rfl

@[simp] theorem exec_overTemperatureTrip (s : State) :
    exec (.overTemperatureTrip) s = .next ⟨s.pending, (fun c => c.holdReset true) s.chip⟩ := rfl

@[simp] theorem exec_overTemperatureRelease (s : State) :
    exec (.overTemperatureRelease) s = .next ⟨s.pending, Chip.coolDown s.chip⟩ := rfl

@[simp] theorem exec_imageVerify (s : State) :
    exec (.imageVerify) s = .next ⟨s.pending, Chip.imageVerify s.chip⟩ := rfl

@[simp] theorem exec_firmwareStart (linear16 : Bool) (s : State) :
    exec (.firmwareStart linear16) s = .next ⟨s.pending, (fun c => c.firmwareStart linear16) s.chip⟩ := rfl

@[simp] theorem exec_sectionsLoaded (img : ImageConfig) (s : State) :
    exec (.sectionsLoaded img) s = .next ⟨s.pending, (fun c => c.sectionsLoaded img) s.chip⟩ := rfl

@[simp] theorem exec_ddr4TrainingDone (aOk bOk : Bool) (s : State) :
    exec (.ddr4TrainingDone aOk bOk) s = .next ⟨s.pending, (fun c => c.ddrTrained aOk bOk) s.chip⟩ := rfl

@[simp] theorem exec_ddr4InitDone (s : State) :
    exec (.ddr4InitDone) s = .next ⟨s.pending, Chip.ddrInit s.chip⟩ := rfl

@[simp] theorem exec_selfTestDone (r : SelfTestIn) (s : State) :
    exec (.selfTestDone r) s = .next ⟨s.pending, (fun c => c.selfTest r) s.chip⟩ := rfl

@[simp] theorem exec_adapterAreasVerified (s : State) :
    exec (.adapterAreasVerified) s = .next ⟨s.pending, Chip.adaptersVerified s.chip⟩ := rfl

@[simp] theorem exec_bootStageI (ms : Nat) (s : State) :
    exec (.bootStageI ms) s = .next ⟨s.pending, (fun c => c.bootStageI ms) s.chip⟩ := rfl

@[simp] theorem exec_svnAdvance (s : State) :
    exec (.svnAdvance) s = .next ⟨s.pending, (fun c => c.awake Chip.svnAdvance) s.chip⟩ := rfl

@[simp] theorem exec_courseBoundary (w : CourseIn) (s : State) :
    exec (.courseBoundary w) s = .next ⟨s.pending, (fun c => c.courseBoundary w) s.chip⟩ := rfl

@[simp] theorem exec_slotTick (s : State) :
    exec (.slotTick) s = .next ⟨s.pending, Chip.slotTick s.chip⟩ := rfl

@[simp] theorem exec_paceBelowFloor (s : State) :
    exec (.paceBelowFloor) s = .next ⟨s.pending, (fun c => c.serving Chip.paceFault) s.chip⟩ := rfl

@[simp] theorem exec_paceWindow (ring : Ring) (count : Nat) (s : State) :
    exec (.paceWindow ring count) s = .next ⟨s.pending, (fun c => c.awake (fun c => c.paceWindow ring count)) s.chip⟩ := rfl

@[simp] theorem exec_scheduleFault (r : Fin 4) (s : State) :
    exec (.scheduleFault r) s = .next ⟨s.pending, (fun c => c.serving (fun c => c.scheduleFault r)) s.chip⟩ := rfl

@[simp] theorem exec_scheduleFaultRegionFail (r : Fin 4) (s : State) :
    exec (.scheduleFaultRegionFail r) s = .next ⟨s.pending, (fun c => c.serving (fun c => c.scheduleFail r)) s.chip⟩ := rfl

@[simp] theorem exec_blockSilent (r : Fin 4) (b : Fin 9) (s : State) :
    exec (.blockSilent r b) s = .next ⟨s.pending, (fun c => c.serving (fun c => c.blockSilent r b)) s.chip⟩ := rfl

@[simp] theorem exec_stepStart (d : StepDesc) (s : State) :
    exec (.stepStart d) s = .next ⟨s.pending, (fun c => c.serving (fun c => c.stepStart d)) s.chip⟩ := rfl

@[simp] theorem exec_stepEnd (w : StepEndIn) (s : State) :
    exec (.stepEnd w) s = .next ⟨s.pending, (fun c => c.serving (fun c => c.stepEnd w)) s.chip⟩ := rfl

@[simp] theorem exec_slotFenceDone (x : SlotFence) (s : State) :
    exec (.slotFenceDone x) s = .next ⟨s.pending, (fun c => c.awake (fun c => c.slotFence x.producer x.slot)) s.chip⟩ := rfl

@[simp] theorem exec_slotRelease (x : SlotId) (s : State) :
    exec (.slotRelease x) s = .next ⟨s.pending, (fun c => c.awake (fun c => c.slotRelease x)) s.chip⟩ := rfl

@[simp] theorem exec_slotWaitFault (x : SlotId) (awaited : Bool) (u : StepUnit) (s : State) :
    exec (.slotWaitFault x awaited u) s = .next ⟨s.pending, (fun c => c.serving (fun c => c.slotWaitFault x awaited u)) s.chip⟩ := rfl

@[simp] theorem exec_memoryFenceDone (u : Issuer) (s : State) :
    exec (.memoryFenceDone u) s = .next ⟨s.pending, (fun c => c.awake (fun c => c.memoryFence u)) s.chip⟩ := rfl

@[simp] theorem exec_publicationFenceDone (core : Fin 10) (s : State) :
    exec (.publicationFenceDone core) s = .next ⟨s.pending, (fun c => c.awake (fun c => c.publicationFence core)) s.chip⟩ := rfl

@[simp] theorem exec_courseFenceDone (r : Fin 4) (s : State) :
    exec (.courseFenceDone r) s = .next ⟨s.pending, (fun c => c.serving (fun c => c.courseFence r)) s.chip⟩ := rfl

@[simp] theorem exec_moveIssue (d : MoveDesc) (s : State) :
    exec (.moveIssue d) s = .next ⟨s.pending, (fun c => c.awake (fun c => c.moveIssue d)) s.chip⟩ := rfl

@[simp] theorem exec_moveComplete (e : MoveFin) (s : State) :
    exec (.moveComplete e) s = .next ⟨s.pending, (fun c => c.awake (fun c => c.moveComplete e.id e.finds)) s.chip⟩ := rfl

@[simp] theorem exec_bankCopyDone (bank : Fin 128) (s : State) :
    exec (.bankCopyDone bank) s = .next ⟨s.pending, (fun c => c.awake (fun c => c.bankCopyDone bank.val)) s.chip⟩ := rfl

@[simp] theorem exec_patrolScrubRead (row : RowLoc) (finding : Finding) (s : State) :
    exec (.patrolScrubRead row finding) s = .next ⟨s.pending, (fun c => c.awake (fun c => c.scrub row finding)) s.chip⟩ := rfl

@[simp] theorem exec_encoderEdge (k : Fin 8) (a b : EncLevel) (s : State) :
    exec (.encoderEdge k a b) s = .next ⟨s.pending, (fun c => c.serving (fun c => c.encoderEdge k.val a.high b.high a.stable b.stable)) s.chip⟩ := rfl

@[simp] theorem exec_timerTrigger (k : Fin 8) (s : State) :
    exec (.timerTrigger k) s = .next ⟨s.pending, (fun c => c.serving (fun c => c.timerTrigger k.val)) s.chip⟩ := rfl

@[simp] theorem exec_deferredTrigger (k : Fin 8) (s : State) :
    exec (.deferredTrigger k) s = .next ⟨s.pending, (fun c => c.serving (fun c => c.deferredTrigger k.val)) s.chip⟩ := rfl

@[simp] theorem exec_driveEvent (n : Fin 16) (e : Drive) (s : State) :
    exec (.driveEvent n e) s = .next ⟨s.pending, (fun c => c.serving (fun c => c.driveEvent n.val e)) s.chip⟩ := rfl

@[simp] theorem exec_readoutComplete (n : Fin 16) (w : Readout) (s : State) :
    exec (.readoutComplete n w) s = .next ⟨s.pending, (fun c => c.serving (fun c => if c.boot.closing.isSome then c else c.readout n.val w)) s.chip⟩ := rfl

@[simp] theorem exec_bandWritten (n : Fin 16) (band : Nat) (s : State) :
    exec (.bandWritten n band) s = .next ⟨s.pending, (fun c => c.serving (fun c => c.bandWritten n.val band)) s.chip⟩ := rfl

@[simp] theorem exec_retentionCopyDone (n : Fin 48) (item band : Nat) (s : State) :
    exec (.retentionCopyDone n item band) s = .next ⟨s.pending, (fun c => c.serving (fun c => c.retentionDone n.val item band)) s.chip⟩ := rfl

@[simp] theorem exec_transportStop (k : Fin 8) (s : State) :
    exec (.transportStop k) s = .next ⟨s.pending, (fun c => c.serving (fun c => c.transportStop k.val)) s.chip⟩ := rfl

@[simp] theorem exec_afeConfigDone (n : Fin 16) (reads : List Nat) (s : State) :
    exec (.afeConfigDone n reads) s = .next ⟨s.pending, (fun c => c.serving (fun c => c.afeConfigDone n.val reads)) s.chip⟩ := rfl

@[simp] theorem exec_afeSyncTimeout (n : Fin 16) (s : State) :
    exec (.afeSyncTimeout n) s = .next ⟨s.pending, (fun c => c.serving (fun c => c.afeSyncTimeout n.val)) s.chip⟩ := rfl

@[simp] theorem exec_holdMinExpire (k : Fin 8) (s : State) :
    exec (.holdMinExpire k) s = .next ⟨s.pending, (fun c => c.serving (fun c => c.holdMinExpire k.val)) s.chip⟩ := rfl

@[simp] theorem exec_captureReferences (n : Fin 16) (w : CaptureIn) (s : State) :
    exec (.captureReferences n w) s = .next ⟨s.pending, (fun c => c.serving (fun c => c.captureDone n.val w)) s.chip⟩ := rfl

@[simp] theorem exec_submitRecord (x : Fin 32) (bytes : List Byte) (last : Bool) (s : State) :
    exec (.submitRecord x bytes last) s = .next ⟨s.pending, (fun c => c.serving (fun c => if c.boot.closing.isSome then c else c.submit x.val bytes last)) s.chip⟩ := rfl

@[simp] theorem exec_submitTimeout (x : Fin 32) (s : State) :
    exec (.submitTimeout x) s = .next ⟨s.pending, (fun c => c.serving (fun c => c.submitTimeout x.val)) s.chip⟩ := rfl

@[simp] theorem exec_decodeStart (item : Nat) (s : State) :
    exec (.decodeStart item) s = .next ⟨s.pending, (fun c => c.serving (fun c => c.decodeStart item)) s.chip⟩ := rfl

@[simp] theorem exec_kvTableEdit (e : KvEdit) (s : State) :
    exec (.kvTableEdit e) s = .next ⟨s.pending, (fun c => c.serving (fun c => c.kvTableEdit e)) s.chip⟩ := rfl

@[simp] theorem exec_correction (session : Fin 64) (w : CorrIn) (s : State) :
    exec (.correction session w) s = .next ⟨s.pending, (fun c => c.serving (fun c => c.correction session.val w)) s.chip⟩ := rfl

@[simp] theorem exec_adaptUpdateStart (set : Fin 8) (s : State) :
    exec (.adaptUpdateStart set) s = .next ⟨s.pending, (fun c => c.serving (fun c => c.updateStart set.val)) s.chip⟩ := rfl

@[simp] theorem exec_adaptUpdateEnd (w : UpdateIn) (s : State) :
    exec (.adaptUpdateEnd w) s = .next ⟨s.pending, (fun c => c.serving (fun c => c.updateEnd w)) s.chip⟩ := rfl

@[simp] theorem exec_adaptPublish (set : Fin 8) (s : State) :
    exec (.adaptPublish set) s = .next ⟨s.pending, (fun c => c.serving (fun c => c.publish set.val)) s.chip⟩ := rfl

@[simp] theorem exec_preemption (part : Fin 16) (s : State) :
    exec (.preemption part) s = .next ⟨s.pending, (fun c => c.serving (fun c => c.preemption part.val)) s.chip⟩ := rfl

@[simp] theorem exec_spillComplete (part : Fin 16) (s : State) :
    exec (.spillComplete part) s = .next ⟨s.pending, (fun c => c.serving (fun c => c.spillComplete part.val)) s.chip⟩ := rfl

@[simp] theorem exec_spillRestore (part : Fin 16) (s : State) :
    exec (.spillRestore part) s = .next ⟨s.pending, (fun c => c.serving (fun c => c.spillRestore part.val)) s.chip⟩ := rfl

@[simp] theorem exec_itemCutoff (item : Nat) (s : State) :
    exec (.itemCutoff item) s = .next ⟨s.pending, (fun c => c.serving (fun c => c.itemCutoff item)) s.chip⟩ := rfl

@[simp] theorem exec_drainComplete (t : Target) (s : State) :
    exec (.drainComplete t) s = .next ⟨s.pending, (fun c => c.serving (fun c => c.drainComplete t)) s.chip⟩ := rfl

@[simp] theorem exec_drainTimeout (part : Fin 16) (s : State) :
    exec (.drainTimeout part) s = .next ⟨s.pending, (fun c => c.serving (fun c => c.drainTimeout part.val)) s.chip⟩ := rfl

@[simp] theorem exec_cellFailed (u : UnitId) (s : State) :
    exec (.cellFailed u) s = .next ⟨s.pending, (fun c => c.serving (fun c =>
    match u with
    | .cell _ _ _ | .walker _ _ | .text _ | .lane _ => c.unitFail u
    | _ => c)) s.chip⟩ := rfl

@[simp] theorem exec_blockFailed (r : Fin 4) (b : Fin 9) (s : State) :
    exec (.blockFailed r b) s = .next ⟨s.pending, (fun c => c.serving (fun c => c.blockFail r.val b.val)) s.chip⟩ := rfl

@[simp] theorem exec_itemRerun (item : Nat) (s : State) :
    exec (.itemRerun item) s = .next ⟨s.pending, (fun c => c.serving (fun c => c.itemRerun item)) s.chip⟩ := rfl

@[simp] theorem exec_variantSwitch (s : State) :
    exec (.variantSwitch) s = .next ⟨s.pending, (fun c => c.serving Chip.variantSwitch) s.chip⟩ := rfl

@[simp] theorem exec_ddr4ChannelLost (ch : Fin 2) (s : State) :
    exec (.ddr4ChannelLost ch) s = .next ⟨s.pending, (fun c => c.serving (fun c => c.ddrLost ch)) s.chip⟩ := rfl

@[simp] theorem exec_portLost (x : Fin 2) (s : State) :
    exec (.portLost x) s = .next ⟨s.pending, (fun c => c.serving (fun c => c.portLost x)) s.chip⟩ := rfl

@[simp] theorem exec_controlCoreFailed (k : Fin 10) (s : State) :
    exec (.controlCoreFailed k) s = .next ⟨s.pending, (fun c => c.serving (fun c => c.coreFail k.val)) s.chip⟩ := rfl

@[simp] theorem exec_linkUp (x : Fin 2) (rate : Fin 5) (fullDuplex : Bool) (s : State) :
    exec (.linkUp x rate fullDuplex) s = .next ⟨s.pending, (fun c => c.online (fun c =>
    let c := c.linkUpPort x.val rate.val fullDuplex
    if c.flag F.PORT_STAT_LINK x.val then c.pathBack x.val (fun y => y.addr.v6 || decide (c.get F.PORT_IP4_ADDR x.val ≠ 0)) else c)) s.chip⟩ := rfl

@[simp] theorem exec_linkDown (x : Fin 2) (s : State) :
    exec (.linkDown x) s = .next ⟨s.pending, (fun c => c.online (fun c => c.linkDownPort x.val)) s.chip⟩ := rfl

@[simp] theorem exec_frameReceive (x : Fin 2) (f : FrameIn) (s : State) :
    exec (.frameReceive x f) s = .next ⟨s.pending, (fun c => c.online (fun c => (c.receive x.val f).followAddr x.val (c.get F.PORT_IP4_ADDR x.val))) s.chip⟩ := rfl

@[simp] theorem exec_frameTransmit (x : Fin 2) (s : State) :
    exec (.frameTransmit x) s = .next ⟨s.pending, (fun c => c.online (fun c =>
    let r := c.transmit x.val
    match r.2 with
    | some (f, t) => r.1.onSent f t
    | none => r.1)) s.chip⟩ := rfl

@[simp] theorem exec_linkDownDiscard (x : Fin 2) (s : State) :
    exec (.linkDownDiscard x) s = .next ⟨s.pending, (fun c => c.online (fun c => c.discardDown x.val)) s.chip⟩ := rfl

@[simp] theorem exec_gateEntryStart (x : Fin 2) (s : State) :
    exec (.gateEntryStart x) s = .next ⟨s.pending, (fun c => c.serving (fun c => c.gateEntry x.val)) s.chip⟩ := rfl

@[simp] theorem exec_preemptVerify (x : Fin 2) (ok : Bool) (s : State) :
    exec (.preemptVerify x ok) s = .next ⟨s.pending, (fun c => c.online (fun c => c.preemptVerify x.val ok)) s.chip⟩ := rfl

@[simp] theorem exec_arpEntryExpire (x : Fin 2) (a : Addr) (s : State) :
    exec (.arpEntryExpire x a) s = .next ⟨s.pending, (fun c => c.online (fun c => c.cacheExpire x.val a)) s.chip⟩ := rfl

@[simp] theorem exec_duplicateAddress (x : Fin 2) (a : Addr) (s : State) :
    exec (.duplicateAddress x a) s = .next ⟨s.pending, (fun c => c.online (fun c => c.duplicate x.val a)) s.chip⟩ := rfl

@[simp] theorem exec_dhcpRenew (x : Fin 2) (s : State) :
    exec (.dhcpRenew x) s = .next ⟨s.pending, (fun c => c.online (fun c =>
    c.dhcpRequest x.val ⟨false, (((c.port x.val).lease).map (fun l => l.2.2.1)).getD 0xFFFFFFFF⟩)) s.chip⟩ := rfl

@[simp] theorem exec_dhcpRebind (x : Fin 2) (s : State) :
    exec (.dhcpRebind x) s = .next ⟨s.pending, (fun c => c.online (fun c => c.dhcpRequest x.val ⟨false, 0xFFFFFFFF⟩)) s.chip⟩ := rfl

@[simp] theorem exec_dhcpLeaseExpire (x : Fin 2) (s : State) :
    exec (.dhcpLeaseExpire x) s = .next ⟨s.pending, (fun c => c.online (fun c => (c.leaseExpire x.val).followAddr x.val (c.get F.PORT_IP4_ADDR x.val))) s.chip⟩ := rfl

@[simp] theorem exec_syncReceived (w : SyncIn) (s : State) :
    exec (.syncReceived w) s = .next ⟨s.pending, (fun c => c.serving (fun c => c.sync w)) s.chip⟩ := rfl

@[simp] theorem exec_firstLock (s : State) :
    exec (.firstLock) s = .next ⟨s.pending, (fun c => c.serving (fun c =>
    let d := c.firstLock
    if d.locked ∧ ¬ c.locked then
      foldN 32 (fun c k => if c.get F.SUB_CFG_STATE k = 2 then (c.put F.SUB_CFG_STATE 3 k).grant k else c) d.lockStreams
    else d)) s.chip⟩ := rfl

@[simp] theorem exec_announceReceived (w : AnnounceIn) (s : State) :
    exec (.announceReceived w) s = .next ⟨s.pending, (fun c => c.serving (fun c => c.announce w)) s.chip⟩ := rfl

@[simp] theorem exec_sourceTimeout (s : State) :
    exec (.sourceTimeout) s = .next ⟨s.pending, (fun c => c.serving Chip.sourceTimeout) s.chip⟩ := rfl

@[simp] theorem exec_delayRequestTimer (x : Fin 2) (s : State) :
    exec (.delayRequestTimer x) s = .next ⟨s.pending, (fun c => c.serving (fun c => c.delayRequest x.val)) s.chip⟩ := rfl

@[simp] theorem exec_pdelayReqReceived (x : Fin 2) (payload : List Byte) (s : State) :
    exec (.pdelayReqReceived x payload) s = .next ⟨s.pending, (fun c => c.serving (fun c => c.pdelayReq x.val payload)) s.chip⟩ := rfl

@[simp] theorem exec_delayResponseReceived (w : DelayIn) (s : State) :
    exec (.delayResponseReceived w) s = .next ⟨s.pending, (fun c => c.serving (fun c => c.delayResponse w)) s.chip⟩ := rfl

@[simp] theorem exec_ppsPulse (s : State) :
    exec (.ppsPulse) s = .next ⟨s.pending, (fun c => c.serving Chip.ppsPulse) s.chip⟩ := rfl

@[simp] theorem exec_ptpEventEdge (falling : Bool) (s : State) :
    exec (.ptpEventEdge falling) s = .next ⟨s.pending, (fun c => c.serving (fun c => c.evtEdge falling)) s.chip⟩ := rfl

@[simp] theorem exec_jrtOpen (d : DgIn) (s : State) :
    exec (.jrtOpen d) s = .next ⟨s.pending, (fun c => c.serving (fun c => if c.boot.closing.isSome then c.takeIn d else c.jrtOpen d)) s.chip⟩ := rfl

@[simp] theorem exec_jrtClose (d : DgIn) (s : State) :
    exec (.jrtClose d) s = .next ⟨s.pending, (fun c => c.serving (fun c =>
    let r := c.jrtClose d
    match r.2 with
    | some x => r.1.endSess x 5
    | none => r.1)) s.chip⟩ := rfl

@[simp] theorem exec_jrtData (d : DgIn) (s : State) :
    exec (.jrtData d) s = .next ⟨s.pending, (fun c => c.serving (fun c => c.jrtData d)) s.chip⟩ := rfl

@[simp] theorem exec_jrtAck (d : DgIn) (s : State) :
    exec (.jrtAck d) s = .next ⟨s.pending, (fun c => c.serving (fun c => c.jrtAck d)) s.chip⟩ := rfl

@[simp] theorem exec_retransmitTimeout (x : Fin 96) (lane : Bool) (seq : Nat) (s : State) :
    exec (.retransmitTimeout x lane seq) s = .next ⟨s.pending, (fun c => c.serving (fun c => c.retransmit x.val lane seq)) s.chip⟩ := rfl

@[simp] theorem exec_ackDelayExpire (x : Fin 96) (s : State) :
    exec (.ackDelayExpire x) s = .next ⟨s.pending, (fun c => c.serving (fun c => c.ackDelay x.val)) s.chip⟩ := rfl

@[simp] theorem exec_idleAck (x : Fin 96) (s : State) :
    exec (.idleAck x) s = .next ⟨s.pending, (fun c => c.serving (fun c => c.idleAck x.val)) s.chip⟩ := rfl

@[simp] theorem exec_idleClose (x : Fin 96) (s : State) :
    exec (.idleClose x) s = .next ⟨s.pending, (fun c => c.serving (fun c => if c.idle x.val then c.endSess x.val 4 else c)) s.chip⟩ := rfl

@[simp] theorem exec_sessionStall (x : Fin 64) (s : State) :
    exec (.sessionStall x) s = .next ⟨s.pending, (fun c => c.serving (fun c => if c.canStall x.val then c.stall x.val else c)) s.chip⟩ := rfl

@[simp] theorem exec_sessionAbandon (x : Fin 64) (s : State) :
    exec (.sessionAbandon x) s = .next ⟨s.pending, (fun c => c.serving (fun c => c.abandonStalled x.val)) s.chip⟩ := rfl

@[simp] theorem exec_hello (d : DgIn) (s : State) :
    exec (.hello d) s = .next ⟨s.pending, (fun c => c.nmp d (fun a => decide (a.type = 1) || a.strays 1) Chip.nmpHello) s.chip⟩ := rfl

@[simp] theorem exec_nmpRead (d : DgIn) (s : State) :
    exec (.nmpRead d) s = .next ⟨s.pending, (fun c => c.nmp d (fun a => decide (a.type = 2) || a.strays 2) Chip.nmpRead) s.chip⟩ := rfl

@[simp] theorem exec_nmpWrite (d : DgIn) (s : State) :
    exec (.nmpWrite d) s = .next ⟨s.pending, (fun c => c.writeRow d (fun a => decide (a.type = 3) && !a.ownWrite)) s.chip⟩ := rfl

@[simp] theorem exec_forceHoldWrite (d : DgIn) (s : State) :
    exec (.forceHoldWrite d) s = .next ⟨s.pending, (fun c => c.writeRow d (fun a => a.writes .HOLD_STAT (2 ^ 32 - 1))) s.chip⟩ := rfl

@[simp] theorem exec_ldgViolatedClear (d : DgIn) (s : State) :
    exec (.ldgViolatedClear d) s = .next ⟨s.pending, (fun c => c.writeRow d (fun a => a.writes .LDG_STAT (2 ^ 32 - 1))) s.chip⟩ := rfl

@[simp] theorem exec_evtOvfClear (d : DgIn) (s : State) :
    exec (.evtOvfClear d) s = .next ⟨s.pending, (fun c => c.writeRow d (fun a => a.writes .EVT_CFG (2 ^ 24))) s.chip⟩ := rfl

@[simp] theorem exec_adaptEnableWrite (d : DgIn) (s : State) :
    exec (.adaptEnableWrite d) s = .next ⟨s.pending, (fun c => c.writeRow d (fun a => a.writes .ADAPT_CTRL (2 ^ 31))) s.chip⟩ := rfl

@[simp] theorem exec_inferOffWrite (d : DgIn) (s : State) :
    exec (.inferOffWrite d) s = .next ⟨s.pending, (fun c => c.writeRow d (fun a => a.writes .ADAPT_CTRL (2 ^ 30) && !a.writes .ADAPT_CTRL (2 ^ 31))) s.chip⟩ := rfl

@[simp] theorem exec_partEnableWrite (d : DgIn) (s : State) :
    exec (.partEnableWrite d) s = .next ⟨s.pending, (fun c => c.writeRow d (fun a => a.writes .PART_CTRL (2 ^ 31))) s.chip⟩ := rfl

@[simp] theorem exec_streamEnable (d : DgIn) (s : State) :
    exec (.streamEnable d) s = .next ⟨s.pending, (fun c => c.controlRow d tgtStream [1]) s.chip⟩ := rfl

@[simp] theorem exec_streamDisable (d : DgIn) (s : State) :
    exec (.streamDisable d) s = .next ⟨s.pending, (fun c => c.controlRow d tgtStream [0]) s.chip⟩ := rfl

@[simp] theorem exec_submitSessionEnable (d : DgIn) (s : State) :
    exec (.submitSessionEnable d) s = .next ⟨s.pending, (fun c => c.controlRow d tgtSubmit [1]) s.chip⟩ := rfl

@[simp] theorem exec_submitSessionDisable (d : DgIn) (s : State) :
    exec (.submitSessionDisable d) s = .next ⟨s.pending, (fun c => c.controlRow d tgtSubmit [0]) s.chip⟩ := rfl

@[simp] theorem exec_resultSessionDisable (d : DgIn) (s : State) :
    exec (.resultSessionDisable d) s = .next ⟨s.pending, (fun c => c.controlRow d isResult [0, 1]) s.chip⟩ := rfl

@[simp] theorem exec_resultSessionClose (d : DgIn) (s : State) :
    exec (.resultSessionClose d) s = .next ⟨s.pending, (fun c => c.controlRow d isResult [2]) s.chip⟩ := rfl

@[simp] theorem exec_partitionEnable (d : DgIn) (s : State) :
    exec (.partitionEnable d) s = .next ⟨s.pending, (fun c => c.controlRow d tgtPartition [1]) s.chip⟩ := rfl

@[simp] theorem exec_partitionDisable (d : DgIn) (s : State) :
    exec (.partitionDisable d) s = .next ⟨s.pending, (fun c => c.controlRow d tgtPartition [0]) s.chip⟩ := rfl

@[simp] theorem exec_adaptationEnable (d : DgIn) (s : State) :
    exec (.adaptationEnable d) s = .next ⟨s.pending, (fun c => c.controlRow d tgtAdapt [1]) s.chip⟩ := rfl

@[simp] theorem exec_adaptationDisable (d : DgIn) (s : State) :
    exec (.adaptationDisable d) s = .next ⟨s.pending, (fun c => c.controlRow d tgtAdapt [0]) s.chip⟩ := rfl

@[simp] theorem exec_restart (d : DgIn) (s : State) :
    exec (.restart d) s = .next ⟨s.pending, (fun c => c.nmp d (fun a => decide (a.type = 5) || a.strays 5) Chip.nmpRestart) s.chip⟩ := rfl

@[simp] theorem exec_attest (d : DgIn) (s : State) :
    exec (.attest d) s = .next ⟨s.pending, (fun c => c.nmp d (fun a => decide (a.type = 6) || a.strays 6) Chip.nmpAttest) s.chip⟩ := rfl

@[simp] theorem exec_longStatus (d : DgIn) (s : State) :
    exec (.longStatus d) s = .next ⟨s.pending, (fun c => c.nmp d (fun a => decide (a.type = 8) || a.strays 8) Chip.longStatus) s.chip⟩ := rfl

@[simp] theorem exec_longAbort (d : DgIn) (s : State) :
    exec (.longAbort d) s = .next ⟨s.pending, (fun c => c.nmp d (fun a => decide (a.type = 9) || a.strays 9) Chip.longAbort) s.chip⟩ := rfl

@[simp] theorem exec_stageData (d : DgIn) (s : State) :
    exec (.stageData d) s = .next ⟨s.pending, (fun c => c.nmp d (fun a => decide (a.type = 10) || a.strays 10) Chip.stageData) s.chip⟩ := rfl

@[simp] theorem exec_fuseProg (w : FuseIn) (s : State) :
    exec (.fuseProg w) s = .next ⟨s.pending, (fun c => c.awake (fun c => c.fuseProg w)) s.chip⟩ := rfl

@[simp] theorem exec_stageImage (d : DgIn) (s : State) :
    exec (.stageImage d) s = .next ⟨s.pending, (fun c => c.nmp d (fun a => (match a with | .stage _ _ => true | _ => false) || a.strays 7) Chip.stageStart) s.chip⟩ := rfl

@[simp] theorem exec_captureStart (d : DgIn) (s : State) :
    exec (.captureStart d) s = .next ⟨s.pending, (fun c => c.nmp d (fun a => (match a with | .capture _ => true | _ => false) || a.strays 7) Chip.captureStart) s.chip⟩ := rfl

@[simp] theorem exec_adapterCommit (d : DgIn) (s : State) :
    exec (.adapterCommit d) s = .next ⟨s.pending, (fun c => c.nmp d (fun a => (match a with | .commit _ => true | _ => false) || a.strays 7) Chip.commitStart) s.chip⟩ := rfl

@[simp] theorem exec_ddr4Scrub (d : DgIn) (s : State) :
    exec (.ddr4Scrub d) s = .next ⟨s.pending, (fun c => c.nmp d (fun a => (match a with | .scrub => true | _ => false) || a.strays 7) Chip.scrubStart) s.chip⟩ := rfl

@[simp] theorem exec_spareSelfTest (d : DgIn) (s : State) :
    exec (.spareSelfTest d) s = .next ⟨s.pending, (fun c => c.nmp d (fun a => (match a with | .selfTest => true | _ => false) || a.strays 7) Chip.spareTestStart) s.chip⟩ := rfl

@[simp] theorem exec_longOpEnd (handle : Nat) (e : LongEnd) (s : State) :
    exec (.longOpEnd handle e) s = .next ⟨s.pending, (fun c => c.awake (fun c => c.longEnd handle e)) s.chip⟩ := rfl

@[simp] theorem exec_longHandleExpire (handle : Nat) (s : State) :
    exec (.longHandleExpire handle) s = .next ⟨s.pending, (fun c => c.awake (fun c => c.handleExpire handle)) s.chip⟩ := rfl

@[simp] theorem exec_i2cIndexWrite (bytes : List Byte) (s : State) :
    exec (.i2cIndexWrite bytes) s = .next ⟨s.pending, (fun c => c.awake (fun c => c.i2cIndex bytes)) s.chip⟩ := rfl

@[simp] theorem exec_i2cRead (n : Nat) (s : State) :
    exec (.i2cRead n) s = .next ⟨s.pending, (fun c => c.awake (fun c => c.i2cRead n)) s.chip⟩ := rfl

@[simp] theorem exec_ptpRefclkEdge (s : State) :
    exec (.ptpRefclkEdge) s = .next ⟨s.pending, (fun c => c.awake Chip.clockEdge) s.chip⟩ := rfl

@[simp] theorem exec_warmRestartStart (s : State) :
    exec (.warmRestartStart) s = .next ⟨s.pending, (fun c => if c.closed && !c.boot.held then c.warmReset else c) s.chip⟩ := rfl

@[simp] theorem exec_frerResetTimeout (stream : Nat) (s : State) :
    exec (.frerResetTimeout stream) s = .next ⟨s.pending, (fun c => c.online (fun c => c.frerReset stream)) s.chip⟩ := rfl

@[simp] theorem exec_jtagInstruction (i : JtagInstr) (s : State) :
    exec (.jtagInstruction i) s = .next ⟨s.pending, (fun c => c.awake (fun c => c.jtagLoad i)) s.chip⟩ := rfl

end Sys2Proof.Machine
end

