-- ==== Sys2Proof/Laws/Flash.lean ====
section
/-!
SUPPORT. Reading and writing the flash devices.
-/

namespace Sys2Proof.Machine

/-- A byte after a write: the byte written there, else what was there. -/
theorem Flash.write_get (l : List Byte) : ∀ (f : Flash) (a x : Nat), smGet 0xFF (f.write a l).data x =
    if a ≤ x ∧ x < a + l.length then l.getD (x - a) 0 else smGet 0xFF f.data x := by
  induction l with
  | nil => intro f a x; simp [Flash.write]
  | cons b r ih =>
    intro f a x
    rw [Flash.write, ih]
    simp only [List.length_cons, smGet_smSet]
    by_cases h : x = a
    · subst h; rw [if_neg (by omega), if_pos rfl, if_pos (by omega)]; simp
    · by_cases h2 : a + 1 ≤ x ∧ x < a + 1 + r.length
      · rw [if_pos h2, if_pos (by omega), show x - a = (x - (a + 1)) + 1 by omega]; simp
      · rw [if_neg h2, if_neg h, if_neg (by omega)]

/-- What was written is read. -/
theorem Flash.read_write (f : Flash) (a : Nat) (l : List Byte) : (f.write a l).read a l.length = l := by
  apply List.ext_getElem
  · simp [Flash.read]
  · intro i h1 h2
    simp only [Flash.read, List.getElem_map, List.getElem_range, Flash.write_get]
    rw [if_pos (by omega)]
    simp [List.getD_eq_getElem?_getD, h2]

/-- A write leaves every other range. -/
theorem Flash.read_write_out (f : Flash) (a b n : Nat) (l : List Byte) (h : b + n ≤ a ∨ a + l.length ≤ b) :
    (f.write a l).read b n = f.read b n := by
  unfold Flash.read
  apply List.map_congr_left
  intro k hk
  rw [List.mem_range] at hk
  rw [Flash.write_get, if_neg (by omega)]

/-- Writing changes no other part of a device. -/
theorem Flash.write_same (l : List Byte) : ∀ (f : Flash) (a : Nat),
    (f.write a l).fits = f.fits ∧ (f.write a l).area = f.area ∧ (f.write a l).trees = f.trees := by
  induction l with
  | nil => intro f a; exact ⟨rfl, rfl, rfl⟩
  | cons b r ih => intro f a; exact ih _ _

end Sys2Proof.Machine
end

