-- ==== Sys2Proof/Laws/Keeps.lean ====
section
/-!
SUPPORT. What every work of the device but a reset and the two that program fuses keeps: the fuses, the reset state, and
canonical memories.  The relation, how it passes through lists, options and updates.
-/

namespace Sys2Proof.Machine

/-- From `a` to `b` the fuses and the reset state stay, and memories stay canonical. -/
structure Keeps (a b : Chip) : Prop where
  fuses : b.fuses = a.fuses
  pins : b.boot.pins = a.boot.pins
  regs : smRising a.regs → smRising b.regs
  mem : a.mem.Wf → b.mem.Wf

/-- The same of an optional result, and of one with a further value. -/
def KeepsO (a : Chip) (o : Option Chip) : Prop := ∀ d, o = some d → Keeps a d
/-- With a further value. -/
def KeepsOP {α : Type} (a : Chip) (o : Option (Chip × α)) : Prop := ∀ d x, o = some (d, x) → Keeps a d

theorem Keeps.refl (a : Chip) : Keeps a a := ⟨rfl, rfl, id, id⟩
theorem Keeps.trans {a b c : Chip} (h : Keeps a b) (k : Keeps b c) : Keeps a c :=
  ⟨k.fuses.trans h.fuses, k.pins.trans h.pins, fun w => k.regs (h.regs w), fun w => k.mem (h.mem w)⟩

theorem Keeps.cut {a x : Chip} {p : Prop} (h : Keeps a x) (f : Keeps a x → p) : p := f h
theorem Keeps.foldl {a c : Chip} {β : Type} {g : Chip → β → Chip} {l : List β}
    (hg : ∀ x b, Keeps a x → Keeps a (g x b)) (hc : Keeps a c) : Keeps a (l.foldl g c) := by
  induction l generalizing c with
  | nil => exact hc
  | cons b l ih => exact ih (hg _ _ hc)
theorem Keeps.foldlP {a : Chip} {α β : Type} {g : Chip × α → β → Chip × α} {l : List β} {p : Chip × α}
    (hg : ∀ x b, Keeps a x.1 → Keeps a (g x b).1) (hc : Keeps a p.1) : Keeps a (l.foldl g p).1 := by
  induction l generalizing p with
  | nil => exact hc
  | cons b l ih => exact ih (hg _ _ hc)
theorem Keeps.fst {a c : Chip} {α : Type} {x : α} {p : Chip × α} (e : p = (c, x)) (h : Keeps a p.1) : Keeps a c := by
  subst e; exact h
theorem Keeps.snd {a c : Chip} {α : Type} {x : α} {p : α × Chip} (e : p = (x, c)) (h : Keeps a p.2) : Keeps a c := by
  subst e; exact h
theorem Keeps.pair₁ {a c : Chip} {α : Type} {x : α} (h : Keeps a c) : Keeps a (c, x).1 := h
theorem Keeps.pair₂ {a c : Chip} {α : Type} {x : α} (h : Keeps a c) : Keeps a (x, c).2 := h
theorem KeepsO.cut {a : Chip} {x : Option Chip} {p : Prop} (h : KeepsO a x) (f : KeepsO a x → p) : p := f h
theorem Keeps.some {a c : Chip} {o : Option Chip} (e : o = Option.some c) (h : KeepsO a o) : Keeps a c := h c e
theorem Keeps.someP {a c : Chip} {α : Type} {x : α} {o : Option (Chip × α)} (e : o = Option.some (c, x)) (h : KeepsOP a o) : Keeps a c := h c x e
theorem Keeps.mk₁ {a c : Chip} {fr im cl fa sc re st tr it su fo ne se ss kv ad fl mg} (h : Keeps a c) :
    Keeps a ⟨c.regs, fr, im, cl, fa, c.mem, sc, re, st, tr, it, su, fo, ne, se, ss, kv, ad, c.boot, c.fuses, fl, mg⟩ := ⟨h.1, h.2, h.3, h.4⟩
theorem Keeps.updMem {a c : Chip} {f : Mem → Mem} (h : Keeps a c) (hf : c.mem.Wf → (f c.mem).Wf) : Keeps a (c.updMem f) :=
  ⟨h.1, h.2, h.3, fun x => hf (h.4 x)⟩
theorem Keeps.updMem₂ {a c : Chip} {f : Mem → Mem} (h : Keeps a c)
    (hf : ((f c.mem).block, (f c.mem).shared, (f c.mem).ddr) = (c.mem.block, c.mem.shared, c.mem.ddr))
    (hp : smOk false c.mem.poison = true → smOk false (f c.mem).poison = true)
    (hd : smOk [] c.mem.slotData = true → smOk [] (f c.mem).slotData = true)
    (hs : smOk false c.mem.slotFull = true → smOk false (f c.mem).slotFull = true) : Keeps a (c.updMem f) :=
  h.updMem (fun w => by
    simp only [Prod.mk.injEq] at hf
    obtain ⟨h1, h2, h3⟩ := hf
    exact ⟨h1 ▸ w.1, h1 ▸ w.2, h2 ▸ w.3, h3 ▸ w.4, hp w.5, hd w.6, hs w.7⟩)
theorem Keeps.updMem₁ {a c : Chip} {f : Mem → Mem} (h : Keeps a c)
    (hf : ((f c.mem).block, (f c.mem).shared, (f c.mem).ddr, (f c.mem).poison, (f c.mem).slotData, (f c.mem).slotFull) =
      (c.mem.block, c.mem.shared, c.mem.ddr, c.mem.poison, c.mem.slotData, c.mem.slotFull)) : Keeps a (c.updMem f) := by
  simp only [Prod.mk.injEq] at hf
  obtain ⟨h1, h2, h3, h4, h5, h6⟩ := hf
  exact h.updMem₂ (by rw [h1, h2, h3]) (h4 ▸ id) (h5 ▸ id) (h6 ▸ id)
theorem Keeps.updBoot₁ {a c : Chip} {f : Boot → Boot} (h : Keeps a c) (hf : ∀ b, (f b).pins = b.pins) : Keeps a (c.updBoot f) :=
  ⟨h.1, (hf _).trans h.2, h.3, h.4⟩
theorem Keeps.opt {a c : Chip} {o : Option Chip} (h : KeepsO a o) (hc : Keeps a c) : Keeps a (o.getD c) := by
  cases o with
  | none => exact hc
  | some d => exact h d rfl
theorem KeepsO.none {a : Chip} : KeepsO a none := fun _ h => by cases h
theorem KeepsO.mk {a c : Chip} (h : Keeps a c) : KeepsO a (some c) := fun _ e => by cases e; exact h
theorem KeepsO.map {a : Chip} {o : Option Chip} {f : Chip → Chip} (h : KeepsO a o) (hf : ∀ c, Keeps a c → Keeps a (f c)) : KeepsO a (o.map f) := by
  intro d e; cases o with
  | none => cases e
  | some x => cases e; exact hf _ (h x rfl)
theorem KeepsO.bind {α : Type} {a : Chip} {o : Option α} {f : α → Option Chip} (h : ∀ x, KeepsO a (f x)) : KeepsO a (o.bind f) := by
  intro d e; cases o with
  | none => cases e
  | some x => exact h x d e
theorem KeepsOP.none {α : Type} {a : Chip} : KeepsOP (α := α) a none := fun _ _ h => by cases h
theorem KeepsOP.mk {α : Type} {a c : Chip} {x : α} (h : Keeps a c) : KeepsOP a (some (c, x)) := fun _ _ e => by cases e; exact h
/-- Replacing one memory. -/
theorem Mem.setNo_wf (m : Mem) (sel : Nat) (v : Memory) (h : m.Wf) (hv : Memory.wf v = true) : (m.setNo sel v).Wf := by
  unfold Mem.setNo
  split
  · exact { h with block := smSet_ok h.block, blocks := smSet_all (p := fun x => Memory.wf x) h.blocks hv }
  · split
    · exact { h with shared := hv }
    · exact { h with ddr := hv }
theorem Mem.byNo_wf (m : Mem) (sel : Nat) (h : m.Wf) : Memory.wf (m.byNo sel) = true := by
  unfold Mem.byNo
  split
  · exact smGet_all (p := fun x => Memory.wf x) h.blocks rfl
  · split
    · exact h.shared
    · exact h.ddr
/-- Writing several keys of a sparse map keeps its form. -/
theorem smOk_foldl {α β : Type} [DecidableEq α] {d : α} {k : β → Nat} {v : β → α} (l : List β) : ∀ {m : SMap α}, smOk d m = true →
    smOk d (l.foldl (fun m e => smSet d m (k e) (v e)) m) = true := by
  induction l with
  | nil => exact id
  | cons b l ih => exact fun h => ih (smSet_ok h)
theorem Mem.markGran_wf (m : Mem) (g : Gran) (v : Nat → Bool) (h : m.Wf) : (m.markGran g v).Wf :=
  { h with poison := smOk_foldl _ h.poison }
/-- Writing a granule keeps every memory canonical. -/
theorem Mem.writeGran_wf (m : Mem) (g : Gran) (l : List Byte) (h : m.Wf) : (m.writeGran g l).Wf :=
  Mem.markGran_wf _ _ _ (m.setNo_wf _ _ h (memWrites_wf _ _ _ (m.byNo_wf _ h)))
theorem Mem.copyGran_wf (m : Mem) (s d : Gran) (h : m.Wf) : (m.copyGran s d).Wf :=
  Mem.markGran_wf _ _ _ (m.writeGran_wf _ _ h)
/-- A write of bytes at a place keeps every memory canonical. -/
theorem Mem.writeAt_wf (l : List Byte) : ∀ (m : Mem) (p : Place), m.Wf → (m.writeAt p l).Wf := by
  induction l with
  | nil => intro m p h; exact h
  | cons b r ih =>
    intro m p h
    have := m.setNo_wf p.sel (memWrite (m.byNo p.sel) p.loc b) h (smSet_ok (m.byNo_wf _ h))
    unfold Mem.writeAt
    apply ih
    split
    · exact { this with poison := by dsimp only; exact smSet_ok this.poison }
    · exact this
theorem Mem.zeroed_wf (m : Mem) (h : m.Wf) : m.zeroed.Wf := ⟨rfl, rfl, rfl, h.ddr, rfl, rfl, rfl⟩
theorem smIns_rising {α : Type} {m : SMap α} {k : Nat} {v : α} (h : smRising m) (hk : ∀ e ∈ m, e.1 ≠ k) : smRising (smIns k v m) := by
  induction m with
  | nil => simp [smIns, smRising]
  | cons e r ih =>
    obtain ⟨x, w⟩ := e
    have hx : x ≠ k := hk (x, w) (by simp)
    have hr := List.pairwise_cons.1 h
    unfold smIns
    split
    · refine List.pairwise_cons.2 ⟨fun y hy => ?_, h⟩
      rcases List.mem_cons.1 hy with rfl | hy
      · assumption
      · exact Nat.lt_trans ‹_› (hr.1 y hy)
    · refine List.pairwise_cons.2 ⟨fun y hy => ?_, ih hr.2 (fun e he => hk e (by simp [he]))⟩
      have : y = (k, v) ∨ y ∈ r := by
        clear ih h hr hk
        induction r with
        | nil => simpa [smIns] using hy
        | cons e r ih =>
          obtain ⟨z, q⟩ := e
          unfold smIns at hy
          split at hy
          · simpa using hy
          · rcases List.mem_cons.1 hy with h | h
            · exact .inr (by simp [h])
            · rcases ih h with h | h
              · exact .inl h
              · exact .inr (by simp [h])
      rcases this with rfl | hy
      · simp only; omega
      · exact hr.1 y hy
theorem smDel_rising {α : Type} {m : SMap α} {k : Nat} (h : smRising m) : smRising (smDel m k) := by
  induction m with
  | nil => exact h
  | cons e r ih =>
    obtain ⟨x, w⟩ := e
    have hr := List.pairwise_cons.1 h
    unfold smDel
    split
    · exact ih hr.2
    · exact List.pairwise_cons.2 ⟨fun y hy => hr.1 y (mem_smDel hy).1, ih hr.2⟩
/-- A write keeps keys rising. -/
theorem smSet_rising {α : Type} [DecidableEq α] {d : α} {m : SMap α} {k : Nat} {v : α} (h : smRising m) : smRising (smSet d m k v) := by
  unfold smSet
  split
  · exact smDel_rising h
  · exact smIns_rising (smDel_rising h) (fun e he => (mem_smDel he).2)
theorem Chip.setWord_keeps (c : Chip) (r : Reg) (i j v : Nat) {c₀ : Chip} (hc : Keeps c₀ c) : Keeps c₀ (c.setWord r i j v) := by
  refine ⟨hc.1, hc.2, fun h => ?_, hc.4⟩
  unfold Chip.setWord
  simp only
  split
  · exact smSet_rising (hc.3 h)
  · exact hc.3 h

end Sys2Proof.Machine
end

