-- ==== Sys2Proof/Laws/Keeps1.lean ====
section
/-!
SUPPORT. The relation Keeps, function by function in the order of the model: part 1, from Chip.put
to Chip.sendReports.  Each proof goes through the arms of its function.
-/

set_option linter.unusedVariables false

namespace Sys2Proof.Machine

theorem Chip.put_keeps (c : Chip) (f : Fld) (v : Nat) (i : Nat ) (j : Nat ) {c₀ : Chip} (hc : Keeps c₀ c) : Keeps c₀ (Chip.put c f v i j) := by
  unfold Chip.put
  with_reducible
    apply Chip.setWord_keeps; assumption

theorem Chip.putB_keeps (c : Chip) (f : Fld) (v : Bool) (i : Nat ) (j : Nat ) {c₀ : Chip} (hc : Keeps c₀ c) : Keeps c₀ (Chip.putB c f v i j) := by
  unfold Chip.putB
  with_reducible
    apply Chip.put_keeps; assumption

theorem Chip.bump_keeps (c : Chip) (f : Fld) (i : Nat ) (j : Nat ) (n : Nat ) {c₀ : Chip} (hc : Keeps c₀ c) : Keeps c₀ (Chip.bump c f i j n) := by
  unfold Chip.bump
  with_reducible
    apply Chip.put_keeps; assumption

theorem Chip.wrap_keeps (c : Chip) (f : Fld) (i : Nat ) (j : Nat ) (n : Nat ) {c₀ : Chip} (hc : Keeps c₀ c) : Keeps c₀ (Chip.wrap c f i j n) := by
  unfold Chip.wrap
  with_reducible
    apply Chip.put_keeps; assumption

theorem loadImageWord_keeps (warm : Bool) (c : Chip) (aw : Nat × Word) {c₀ : Chip} (hc : Keeps c₀ c) : Keeps c₀ (loadImageWord warm c aw) := by
  unfold loadImageWord
  with_reducible
    split; assumption; extract_lets +onlyGivenNames v1; clear_value v1; extract_lets +onlyGivenNames v2
    clear_value v2; apply Chip.setWord_keeps; assumption

theorem Chip.clearReg_keeps (c : Chip) (r : Reg) (i j : Nat) {c₀ : Chip} (hc : Keeps c₀ c) : Keeps c₀ (Chip.clearReg c r i j) := by
  unfold Chip.clearReg
  with_reducible
    apply Chip.setWord_keeps; assumption

theorem foldN_keeps (n : Nat) (f : Chip → Nat → Chip) (c : Chip) {c₀ : Chip} (hc : Keeps c₀ c) (hf : ∀ x n, Keeps c₀ x → Keeps c₀ (f x n)) : Keeps c₀ (foldN n f c) := by
  unfold foldN
  with_reducible
    refine Keeps.foldl (fun _ _ _ => ?_) ?_; apply_assumption; assumption; assumption

theorem Chip.mapLater_keeps (c : Chip) (r : Reg) (i j : Nat) (w : Nat) {c₀ : Chip} (hc : Keeps c₀ c) : Keeps c₀ (Chip.mapLater c r i j w) := by
  unfold Chip.mapLater
  with_reducible
    refine Keeps.mk₁ ?_; assumption

theorem Chip.applyMaps_keeps (c : Chip) (ready : Nat → Bool) {c₀ : Chip} (hc : Keeps c₀ c) : Keeps c₀ (Chip.applyMaps c ready) := by
  unfold Chip.applyMaps
  with_reducible
    extract_lets +onlyGivenNames v1; clear_value v1; extract_lets +onlyGivenNames v2; clear_value v2
    extract_lets +onlyGivenNames v3; refine Keeps.cut (a := c₀) (x := v3) ?_ (fun _ => ?_); unfold v3
    refine Keeps.foldl (fun _ _ _ => ?_) ?_; split; apply Chip.setWord_keeps; assumption; assumption
    assumption; refine Keeps.mk₁ ?_; assumption

theorem Chip.modRing_keeps (c : Chip) (k : Nat) (f : RingMem → RingMem) {c₀ : Chip} (hc : Keeps c₀ c) : Keeps c₀ (Chip.modRing c k f) := by
  unfold Chip.modRing
  with_reducible
    refine Keeps.mk₁ ?_; assumption

theorem Chip.paceWindow_keeps (c : Chip) (ring : Ring) (count : Nat) {c₀ : Chip} (hc : Keeps c₀ c) : Keeps c₀ (Chip.paceWindow c ring count) := by
  unfold Chip.paceWindow
  with_reducible
    extract_lets +onlyGivenNames v1; clear_value v1; extract_lets +onlyGivenNames v2; clear_value v2; split
    extract_lets +onlyGivenNames v3; clear_value v3; extract_lets +onlyGivenNames v4; clear_value v4
    extract_lets +onlyGivenNames v5; refine Keeps.cut (a := c₀) (x := v5) ?_ (fun _ => ?_); unfold v5
    apply Chip.setWord_keeps; assumption; apply Chip.modRing_keeps; assumption

theorem Chip.lowRead_keeps (c : Chip) (r : Reg) (i j : Nat) {c₀ : Chip} (hc : Keeps c₀ c) : Keeps c₀ (Chip.lowRead c r i j) := by
  unfold Chip.lowRead
  with_reducible
    split; apply Chip.modRing_keeps; assumption; apply Chip.modRing_keeps; assumption; assumption

theorem Chip.reportPmin_keeps (c : Chip) {c₀ : Chip} (hc : Keeps c₀ c) : Keeps c₀ (Chip.reportPmin c) := by
  unfold Chip.reportPmin
  with_reducible
    split; refine Keeps.mk₁ ?_; assumption; extract_lets +onlyGivenNames v1; clear_value v1
    extract_lets +onlyGivenNames v2; refine Keeps.cut (a := c₀) (x := v2) ?_ (fun _ => ?_); unfold v2
    apply Chip.put_keeps; assumption; extract_lets +onlyGivenNames v3
    refine Keeps.cut (a := c₀) (x := v3) ?_ (fun _ => ?_); unfold v3; apply Chip.put_keeps; assumption
    extract_lets +onlyGivenNames v4; refine Keeps.cut (a := c₀) (x := v4) ?_ (fun _ => ?_); unfold v4
    apply Chip.putB_keeps; assumption; refine Keeps.mk₁ ?_; assumption

theorem Chip.pmbFault_keeps (c : Chip) {c₀ : Chip} (hc : Keeps c₀ c) : Keeps c₀ (Chip.pmbFault c) := by
  unfold Chip.pmbFault
  with_reducible
    apply Chip.putB_keeps; assumption

theorem Chip.pmbRead_keeps (c : Chip) (a : Option PmbIn) {c₀ : Chip} (hc : Keeps c₀ c) : Keeps c₀ (Chip.pmbRead c a) := by
  unfold Chip.pmbRead
  with_reducible
    split; extract_lets +onlyGivenNames v1; refine Keeps.cut (a := c₀) (x := v1) ?_ (fun _ => ?_); unfold v1
    apply Chip.put_keeps; assumption; extract_lets +onlyGivenNames v2
    refine Keeps.cut (a := c₀) (x := v2) ?_ (fun _ => ?_); unfold v2; apply Chip.put_keeps; assumption
    refine Keeps.mk₁ ?_; assumption; extract_lets +onlyGivenNames v3; clear_value v3
    extract_lets +onlyGivenNames v4; clear_value v4; extract_lets +onlyGivenNames v5
    refine Keeps.cut (a := c₀) (x := v5) ?_ (fun _ => ?_); unfold v5; refine Keeps.mk₁ ?_; assumption; split
    apply Chip.pmbFault_keeps; assumption; assumption

theorem Chip.clearMinima_keeps (c : Chip) {c₀ : Chip} (hc : Keeps c₀ c) : Keeps c₀ (Chip.clearMinima c) := by
  unfold Chip.clearMinima
  with_reducible
    apply foldN_keeps; assumption; intro _ _ _; apply Chip.modRing_keeps; assumption

theorem Chip.governAct_keeps (c : Chip) (a : GovAct) {c₀ : Chip} (hc : Keeps c₀ c) : Keeps c₀ (Chip.governAct c a) := by
  unfold Chip.governAct
  with_reducible
    extract_lets +onlyGivenNames v1; refine Keeps.cut (a := c₀) (x := v1) ?_ (fun _ => ?_); unfold v1
    apply Chip.putB_keeps; assumption; extract_lets +onlyGivenNames v2
    refine Keeps.cut (a := c₀) (x := v2) ?_ (fun _ => ?_); unfold v2; split; apply Chip.bump_keeps
    assumption; assumption; extract_lets +onlyGivenNames v3
    refine Keeps.cut (a := c₀) (x := v3) ?_ (fun _ => ?_); unfold v3; split; apply Chip.bump_keeps
    assumption; assumption; split; assumption; extract_lets +onlyGivenNames v4
    refine Keeps.cut (a := c₀) (x := v4) ?_ (fun _ => ?_); unfold v4; apply Chip.putB_keeps; assumption
    refine Keeps.mk₁ ?_; assumption

theorem Chip.governor_keeps (c : Chip) (a : Option PmbIn) {c₀ : Chip} (hc : Keeps c₀ c) : Keeps c₀ (Chip.governor c a) := by
  unfold Chip.governor
  with_reducible
    extract_lets +onlyGivenNames v1; refine Keeps.cut (a := c₀) (x := v1) ?_ (fun _ => ?_); unfold v1
    apply Chip.reportPmin_keeps; apply Chip.pmbRead_keeps; assumption; extract_lets +onlyGivenNames v2
    refine Keeps.cut (a := c₀) (x := v2) ?_ (fun _ => ?_); unfold v2; split; assumption; split; assumption
    apply Chip.governAct_keeps; assumption; apply Chip.clearMinima_keeps; assumption

theorem Chip.log_keeps (c : Chip) (code : Nat) (l : Loc) (stated : Option Nat ) {c₀ : Chip} (hc : Keeps c₀ c) : Keeps c₀ (Chip.log c code l stated) := by
  unfold Chip.log
  with_reducible
    extract_lets +onlyGivenNames v1; clear_value v1; extract_lets +onlyGivenNames v2
    refine Keeps.cut (a := c₀) (x := v2) ?_ (fun _ => ?_); unfold v2; split; assumption; refine Keeps.mk₁ ?_
    assumption; extract_lets +onlyGivenNames v3; clear_value v3; extract_lets +onlyGivenNames v4
    refine Keeps.cut (a := c₀) (x := v4) ?_ (fun _ => ?_); unfold v4; apply Chip.setWord_keeps; assumption
    extract_lets +onlyGivenNames v5; refine Keeps.cut (a := c₀) (x := v5) ?_ (fun _ => ?_); unfold v5
    apply Chip.setWord_keeps; assumption; extract_lets +onlyGivenNames v6
    refine Keeps.cut (a := c₀) (x := v6) ?_ (fun _ => ?_); unfold v6; apply Chip.setWord_keeps; assumption
    extract_lets +onlyGivenNames v7; refine Keeps.cut (a := c₀) (x := v7) ?_ (fun _ => ?_); unfold v7
    apply Chip.setWord_keeps; assumption; extract_lets +onlyGivenNames v8
    refine Keeps.cut (a := c₀) (x := v8) ?_ (fun _ => ?_); unfold v8; apply Chip.put_keeps; assumption
    apply Chip.wrap_keeps; assumption

theorem Chip.updSched_keeps (c : Chip) (f : Sched → Sched) {c₀ : Chip} (hc : Keeps c₀ c) : Keeps c₀ (Chip.updSched c f) := by
  unfold Chip.updSched
  with_reducible
    refine Keeps.mk₁ ?_; assumption

theorem Chip.updRecov_keeps (c : Chip) (f : Recov → Recov) {c₀ : Chip} (hc : Keeps c₀ c) : Keeps c₀ (Chip.updRecov c f) := by
  unfold Chip.updRecov
  with_reducible
    refine Keeps.mk₁ ?_; assumption

theorem Chip.updItems_keeps (c : Chip) (f : Items → Items) {c₀ : Chip} (hc : Keeps c₀ c) : Keeps c₀ (Chip.updItems c f) := by
  unfold Chip.updItems
  with_reducible
    refine Keeps.mk₁ ?_; assumption

theorem Chip.modStream_keeps (c : Chip) (n : Nat) (f : Stream → Stream) {c₀ : Chip} (hc : Keeps c₀ c) : Keeps c₀ (Chip.modStream c n f) := by
  unfold Chip.modStream
  with_reducible
    refine Keeps.mk₁ ?_; assumption

theorem Chip.modTransport_keeps (c : Chip) (k : Nat) (f : Transport → Transport) {c₀ : Chip} (hc : Keeps c₀ c) : Keeps c₀ (Chip.modTransport c k f) := by
  unfold Chip.modTransport
  with_reducible
    refine Keeps.mk₁ ?_; assumption

theorem Chip.modSubm_keeps (c : Chip) (s : Nat) (f : Subm → Subm) {c₀ : Chip} (hc : Keeps c₀ c) : Keeps c₀ (Chip.modSubm c s f) := by
  unfold Chip.modSubm
  with_reducible
    refine Keeps.mk₁ ?_; assumption

theorem Chip.modItem_keeps (c : Chip) (n : Nat) (f : Item → Item) {c₀ : Chip} (hc : Keeps c₀ c) : Keeps c₀ (Chip.modItem c n f) := by
  unfold Chip.modItem
  with_reducible
    apply Chip.updItems_keeps; assumption

theorem Chip.setRun_keeps (c : Chip) (u : Nat) (r : Option StepRun) {c₀ : Chip} (hc : Keeps c₀ c) : Keeps c₀ (Chip.setRun c u r) := by
  unfold Chip.setRun
  with_reducible
    apply Chip.updSched_keeps; assumption

theorem Chip.modRun_keeps (c : Chip) (u : Nat) (f : StepRun → StepRun) {c₀ : Chip} (hc : Keeps c₀ c) : Keeps c₀ (Chip.modRun c u f) := by
  unfold Chip.modRun
  with_reducible
    split; apply Chip.setRun_keeps; assumption; assumption

theorem Chip.stopItem_keeps (c : Chip) (n : Nat) (why : List Byte) {c₀ : Chip} (hc : Keeps c₀ c) : Keeps c₀ (Chip.stopItem c n why) := by
  unfold Chip.stopItem
  with_reducible
    split; assumption; split; assumption; extract_lets +onlyGivenNames v1
    refine Keeps.cut (a := c₀) (x := v1) ?_ (fun _ => ?_); unfold v1; apply Chip.modItem_keeps; assumption
    apply Chip.bump_keeps; assumption

theorem Chip.writeGran_keeps (c : Chip) (g : Gran) (d : List Byte) {c₀ : Chip} (hc : Keeps c₀ c) : Keeps c₀ (Chip.writeGran c g d) := by
  unfold Chip.writeGran
  with_reducible
    extract_lets +onlyGivenNames v1; clear_value v1; extract_lets +onlyGivenNames v2
    refine Keeps.cut (a := c₀) (x := v2) ?_ (fun _ => ?_); unfold v2
    refine Keeps.updMem ?_ (fun h => Mem.writeGran_wf _ _ _ h); assumption; split; assumption
    refine Keeps.mk₁ ?_; assumption

theorem Chip.writeHandle_keeps (c : Chip) (h : HRef) (d : List Byte) {c₀ : Chip} (hc : Keeps c₀ c) : Keeps c₀ (Chip.writeHandle c h d) := by
  unfold Chip.writeHandle
  with_reducible
    refine Keeps.foldl (fun _ _ _ => ?_) ?_; apply Chip.writeGran_keeps; assumption; assumption

theorem Chip.needRerun_keeps (c : Chip) (n : Option Nat) {c₀ : Chip} (hc : Keeps c₀ c) : Keeps c₀ (Chip.needRerun c n) := by
  unfold Chip.needRerun
  with_reducible
    split; assumption; split; assumption; apply Chip.updRecov_keeps; assumption

theorem Chip.freeSite_keeps (c : Chip) (r b site : Nat) {c₀ : Chip} (hc : Keeps c₀ c) : Keeps c₀ (Chip.freeSite c r b site) := by
  unfold Chip.freeSite
  with_reducible
    refine Keeps.updMem ?_ (fun h => { h with slotFull := by dsimp only; exact smOk_filter h.slotFull })
    assumption

theorem Chip.freeBlock_keeps (c : Chip) (u : Nat) {c₀ : Chip} (hc : Keeps c₀ c) : Keeps c₀ (Chip.freeBlock c u) := by
  unfold Chip.freeBlock
  with_reducible
    refine Keeps.foldl (fun _ _ _ => ?_) ?_; apply Chip.freeSite_keeps; assumption; assumption

theorem Chip.setHndValid_keeps (c : Chip) (k : Nat) (v : Bool) {c₀ : Chip} (hc : Keeps c₀ c) : Keeps c₀ (Chip.setHndValid c k v) := by
  unfold Chip.setHndValid
  with_reducible
    refine Keeps.updMem₁ ?_ rfl; assumption

theorem Chip.stopFor_keeps (c : Chip) (u p : Nat) (x : Preempt) {c₀ : Chip} (hc : Keeps c₀ c) : Keeps c₀ (Chip.stopFor c u p x) := by
  unfold Chip.stopFor
  with_reducible
    split; assumption; extract_lets +onlyGivenNames v1; clear_value v1; extract_lets +onlyGivenNames v2
    clear_value v2; extract_lets +onlyGivenNames v3; refine Keeps.cut (a := c₀) (x := v3) ?_ (fun _ => ?_)
    unfold v3; refine Keeps.foldl (fun _ _ _ => ?_) ?_; apply Chip.setHndValid_keeps; assumption; assumption
    apply Chip.updSched_keeps; assumption

theorem Chip.stopBlock_keeps (c : Chip) (u : Nat) {c₀ : Chip} (hc : Keeps c₀ c) : Keeps c₀ (Chip.stopBlock c u) := by
  unfold Chip.stopBlock
  with_reducible
    refine Keeps.foldl (fun _ _ _ => ?_) ?_; split; apply Chip.stopFor_keeps; assumption; assumption
    assumption

theorem Chip.serveFrom_keeps (c : Chip) (u k : Nat) {c₀ : Chip} (hc : Keeps c₀ c) : Keeps c₀ (Chip.serveFrom c u k) := by
  unfold Chip.serveFrom
  with_reducible
    apply Chip.updSched_keeps; assumption

theorem Chip.setLent_keeps (c : Chip) (p : Nat) (on : Bool) {c₀ : Chip} (hc : Keeps c₀ c) : Keeps c₀ (Chip.setLent c p on) := by
  unfold Chip.setLent
  with_reducible
    extract_lets +onlyGivenNames v1; clear_value v1; extract_lets +onlyGivenNames v2
    refine Keeps.cut (a := c₀) (x := v2) ?_ (fun _ => ?_); unfold v2; apply Chip.putB_keeps; assumption
    apply Chip.putB_keeps; assumption

theorem Chip.giveBack_keeps (c : Chip) (b u : Nat) {c₀ : Chip} (hc : Keeps c₀ c) : Keeps c₀ (Chip.giveBack c b u) := by
  unfold Chip.giveBack
  with_reducible
    apply Chip.serveFrom_keeps; apply Chip.freeBlock_keeps; refine Keeps.foldl (fun _ _ _ => ?_) ?_
    apply Chip.setHndValid_keeps; assumption; assumption

theorem Chip.unlend_keeps (c : Chip) (p : Nat) {c₀ : Chip} (hc : Keeps c₀ c) : Keeps c₀ (Chip.unlend c p) := by
  unfold Chip.unlend
  with_reducible
    refine Keeps.foldl (fun _ _ _ => ?_) ?_; apply Chip.giveBack_keeps; assumption; apply Chip.setLent_keeps
    assumption

theorem Chip.returnLent_keeps (c : Chip) {c₀ : Chip} (hc : Keeps c₀ c) : Keeps c₀ (Chip.returnLent c) := by
  unfold Chip.returnLent
  with_reducible
    refine Keeps.foldl (fun _ _ _ => ?_) ?_; extract_lets +onlyGivenNames v1; clear_value v1; split
    apply Chip.unlend_keeps; assumption; assumption; assumption

theorem Chip.boundary_keeps (c : Chip) (u : Nat) {c₀ : Chip} (hc : Keeps c₀ c) : Keeps c₀ (Chip.boundary c u) := by
  unfold Chip.boundary
  with_reducible
    apply Chip.returnLent_keeps; apply Chip.stopBlock_keeps; assumption

theorem Chip.loseStep_keeps (c : Chip) (u : Nat) {c₀ : Chip} (hc : Keeps c₀ c) : Keeps c₀ (Chip.loseStep c u) := by
  unfold Chip.loseStep
  with_reducible
    split; assumption; apply Chip.needRerun_keeps; apply Chip.boundary_keeps; apply Chip.setRun_keeps
    assumption

theorem Chip.markBlock_keeps (c : Chip) (r b : Nat) {c₀ : Chip} (hc : Keeps c₀ c) : Keeps c₀ (Chip.markBlock c r b) := by
  unfold Chip.markBlock
  with_reducible
    extract_lets +onlyGivenNames v1; refine Keeps.cut (a := c₀) (x := v1) ?_ (fun _ => ?_); unfold v1
    apply Chip.put_keeps; assumption; split; assumption; apply Chip.putB_keeps; assumption

theorem Chip.retarget_keeps (c : Chip) {c₀ : Chip} (hc : Keeps c₀ c) : Keeps c₀ (Chip.retarget c) := by
  unfold Chip.retarget
  with_reducible
    extract_lets +onlyGivenNames v1; clear_value v1; apply Chip.updRecov_keeps; assumption

theorem Chip.degrade_keeps (c : Chip) (d : Degradation) {c₀ : Chip} (hc : Keeps c₀ c) : Keeps c₀ (Chip.degrade c d) := by
  unfold Chip.degrade
  with_reducible
    extract_lets +onlyGivenNames v1; clear_value v1; split; assumption; split; apply Chip.updRecov_keeps
    assumption; apply Chip.retarget_keeps; apply Chip.updRecov_keeps; apply Chip.putB_keeps; assumption

theorem Chip.regionFail_keeps (c : Chip) (r : Nat) {c₀ : Chip} (hc : Keeps c₀ c) : Keeps c₀ (Chip.regionFail c r) := by
  unfold Chip.regionFail
  with_reducible
    split; assumption; extract_lets +onlyGivenNames v1
    refine Keeps.cut (a := c₀) (x := v1) ?_ (fun _ => ?_); unfold v1; apply Chip.log_keeps; assumption
    extract_lets +onlyGivenNames v2; refine Keeps.cut (a := c₀) (x := v2) ?_ (fun _ => ?_); unfold v2
    apply Chip.updRecov_keeps; assumption; extract_lets +onlyGivenNames v3
    refine Keeps.cut (a := c₀) (x := v3) ?_ (fun _ => ?_); unfold v3
    refine Keeps.foldl (fun _ _ _ => ?_) ?_; apply Chip.loseStep_keeps; assumption; assumption; split
    apply Chip.degrade_keeps; assumption; assumption

theorem Chip.blockFail_keeps (c : Chip) (r b : Nat) {c₀ : Chip} (hc : Keeps c₀ c) : Keeps c₀ (Chip.blockFail c r b) := by
  unfold Chip.blockFail
  with_reducible
    split; assumption; extract_lets +onlyGivenNames v1; clear_value v1; extract_lets +onlyGivenNames v2
    refine Keeps.cut (a := c₀) (x := v2) ?_ (fun _ => ?_); unfold v2; apply Chip.log_keeps; assumption
    extract_lets +onlyGivenNames v3; clear_value v3; extract_lets +onlyGivenNames v4
    refine Keeps.cut (a := c₀) (x := v4) ?_ (fun _ => ?_); unfold v4; apply Chip.markBlock_keeps; assumption
    extract_lets +onlyGivenNames v5; clear_value v5; extract_lets +onlyGivenNames v6
    refine Keeps.cut (a := c₀) (x := v6) ?_ (fun _ => ?_); unfold v6; refine Keeps.mk₁ ?_; assumption; split
    apply Chip.putB_keeps; assumption; extract_lets +onlyGivenNames v7
    refine Keeps.cut (a := c₀) (x := v7) ?_ (fun _ => ?_); unfold v7; apply Chip.loseStep_keeps; assumption
    split; split; split; apply Chip.degrade_keeps; assumption; assumption; extract_lets +onlyGivenNames v8
    refine Keeps.cut (a := c₀) (x := v8) ?_ (fun _ => ?_); unfold v8; apply Chip.mapLater_keeps; assumption
    extract_lets +onlyGivenNames v9; refine Keeps.cut (a := c₀) (x := v9) ?_ (fun _ => ?_); unfold v9
    apply Chip.putB_keeps; assumption; apply Chip.updRecov_keeps; assumption; split
    apply Chip.degrade_keeps; assumption; assumption

theorem Chip.loseCellStep_keeps (c : Chip) (u l : Nat) {c₀ : Chip} (hc : Keeps c₀ c) : Keeps c₀ (Chip.loseCellStep c u l) := by
  unfold Chip.loseCellStep
  with_reducible
    split; split; apply Chip.loseStep_keeps; assumption; assumption; assumption

theorem Chip.siteFail_keeps (c : Chip) (r b site : Nat) {c₀ : Chip} (hc : Keeps c₀ c) : Keeps c₀ (Chip.siteFail c r b site) := by
  unfold Chip.siteFail
  with_reducible
    extract_lets +onlyGivenNames v1; clear_value v1; split; assumption; extract_lets +onlyGivenNames v2
    refine Keeps.cut (a := c₀) (x := v2) ?_ (fun _ => ?_); unfold v2; apply Chip.log_keeps; assumption
    extract_lets +onlyGivenNames v3; clear_value v3; extract_lets +onlyGivenNames v4
    refine Keeps.cut (a := c₀) (x := v4) ?_ (fun _ => ?_); unfold v4; apply Chip.updRecov_keeps; assumption
    extract_lets +onlyGivenNames v5; clear_value v5; extract_lets +onlyGivenNames v6; clear_value v6
    extract_lets +onlyGivenNames v7; clear_value v7; extract_lets +onlyGivenNames v8; clear_value v8
    extract_lets +onlyGivenNames v9; clear_value v9; extract_lets +onlyGivenNames v10; clear_value v10
    extract_lets +onlyGivenNames v11; clear_value v11; extract_lets +onlyGivenNames v12; clear_value v12
    extract_lets +onlyGivenNames v13; refine Keeps.cut (a := c₀) (x := v13) ?_ (fun _ => ?_); unfold v13
    split; apply Chip.loseCellStep_keeps; assumption; assumption; extract_lets +onlyGivenNames v14
    refine Keeps.cut (a := c₀) (x := v14) ?_ (fun _ => ?_); unfold v14; split; apply Chip.put_keeps
    assumption; assumption; split; split; apply Chip.blockFail_keeps; assumption; assumption; split
    apply Chip.blockFail_keeps; assumption; extract_lets +onlyGivenNames v15
    refine Keeps.cut (a := c₀) (x := v15) ?_ (fun _ => ?_); unfold v15; apply Chip.mapLater_keeps
    assumption; apply Chip.put_keeps; assumption

theorem Chip.textFail_keeps (c : Chip) (t : Nat) {c₀ : Chip} (hc : Keeps c₀ c) : Keeps c₀ (Chip.textFail c t) := by
  unfold Chip.textFail
  with_reducible
    split; assumption; extract_lets +onlyGivenNames v1; clear_value v1; extract_lets +onlyGivenNames v2
    refine Keeps.cut (a := c₀) (x := v2) ?_ (fun _ => ?_); unfold v2; apply Chip.log_keeps; assumption
    extract_lets +onlyGivenNames v3; refine Keeps.cut (a := c₀) (x := v3) ?_ (fun _ => ?_); unfold v3
    apply Chip.updRecov_keeps; assumption; extract_lets +onlyGivenNames v4
    refine Keeps.cut (a := c₀) (x := v4) ?_ (fun _ => ?_); unfold v4; apply Chip.put_keeps; assumption
    split; assumption; extract_lets +onlyGivenNames v5
    refine Keeps.cut (a := c₀) (x := v5) ?_ (fun _ => ?_); unfold v5; apply Chip.loseStep_keeps; assumption
    extract_lets +onlyGivenNames v6; clear_value v6; extract_lets +onlyGivenNames v7; clear_value v7; split
    apply Chip.mapLater_keeps; assumption; apply Chip.degrade_keeps; assumption

theorem Chip.laneFail_keeps (c : Chip) (d : Nat) {c₀ : Chip} (hc : Keeps c₀ c) : Keeps c₀ (Chip.laneFail c d) := by
  unfold Chip.laneFail
  with_reducible
    split; assumption; extract_lets +onlyGivenNames v1; clear_value v1; extract_lets +onlyGivenNames v2
    refine Keeps.cut (a := c₀) (x := v2) ?_ (fun _ => ?_); unfold v2; apply Chip.log_keeps; assumption
    extract_lets +onlyGivenNames v3; refine Keeps.cut (a := c₀) (x := v3) ?_ (fun _ => ?_); unfold v3
    apply Chip.updRecov_keeps; assumption; extract_lets +onlyGivenNames v4
    refine Keeps.cut (a := c₀) (x := v4) ?_ (fun _ => ?_); unfold v4; apply Chip.put_keeps; assumption
    split; assumption; extract_lets +onlyGivenNames v5
    refine Keeps.cut (a := c₀) (x := v5) ?_ (fun _ => ?_); unfold v5; apply Chip.loseStep_keeps; assumption
    extract_lets +onlyGivenNames v6; clear_value v6; extract_lets +onlyGivenNames v7; clear_value v7; split
    apply Chip.mapLater_keeps; assumption; apply Chip.degrade_keeps; assumption

theorem Chip.walkerFail_keeps (c : Chip) (r b : Nat) {c₀ : Chip} (hc : Keeps c₀ c) : Keeps c₀ (Chip.walkerFail c r b) := by
  unfold Chip.walkerFail
  with_reducible
    split; assumption; extract_lets +onlyGivenNames v1
    refine Keeps.cut (a := c₀) (x := v1) ?_ (fun _ => ?_); unfold v1; apply Chip.log_keeps; assumption
    extract_lets +onlyGivenNames v2; refine Keeps.cut (a := c₀) (x := v2) ?_ (fun _ => ?_); unfold v2
    apply Chip.updRecov_keeps; assumption; apply Chip.blockFail_keeps; assumption

theorem Chip.unitFail_keeps (c : Chip) (u : UnitId) {c₀ : Chip} (hc : Keeps c₀ c) : Keeps c₀ (Chip.unitFail c u) := by
  unfold Chip.unitFail
  with_reducible
    split; apply Chip.siteFail_keeps; assumption; apply Chip.walkerFail_keeps; assumption
    apply Chip.textFail_keeps; assumption; apply Chip.laneFail_keeps; assumption; apply Chip.blockFail_keeps
    assumption; apply Chip.regionFail_keeps; assumption; assumption; assumption; assumption

theorem Chip.reexecuted_keeps (c : Chip) (u : UnitId) {c₀ : Chip} (hc : Keeps c₀ c) : Keeps c₀ (Chip.reexecuted c u) := by
  unfold Chip.reexecuted
  with_reducible
    split; assumption; extract_lets +onlyGivenNames v1
    refine Keeps.cut (a := c₀) (x := v1) ?_ (fun _ => ?_); unfold v1; apply Chip.bump_keeps; assumption
    extract_lets +onlyGivenNames v2; clear_value v2; extract_lets +onlyGivenNames v3
    refine Keeps.cut (a := c₀) (x := v3) ?_ (fun _ => ?_); unfold v3; apply Chip.updRecov_keeps; assumption
    split; apply Chip.unitFail_keeps; assumption; assumption

theorem Chip.cellError_keeps (c : Chip) (u : Nat) (site : UnitId) (reserved : Bool) {c₀ : Chip} (hc : Keeps c₀ c) : Keeps c₀ (Chip.cellError c u site reserved) := by
  unfold Chip.cellError
  with_reducible
    split; assumption; extract_lets +onlyGivenNames v1
    refine Keeps.cut (a := c₀) (x := v1) ?_ (fun _ => ?_); unfold v1; split; apply Chip.log_keeps
    assumption; assumption; split; extract_lets +onlyGivenNames v2
    refine Keeps.cut (a := c₀) (x := v2) ?_ (fun _ => ?_); unfold v2; apply Chip.reexecuted_keeps
    assumption; split; apply Chip.setRun_keeps; assumption; assumption; extract_lets +onlyGivenNames v3
    refine Keeps.cut (a := c₀) (x := v3) ?_ (fun _ => ?_); unfold v3; apply Chip.unitFail_keeps; assumption
    apply Chip.loseStep_keeps; assumption

theorem Chip.faultHold_keeps (c : Chip) {c₀ : Chip} (hc : Keeps c₀ c) : Keeps c₀ (Chip.faultHold c) := by
  unfold Chip.faultHold
  with_reducible
    split; assumption; extract_lets +onlyGivenNames v1
    refine Keeps.cut (a := c₀) (x := v1) ?_ (fun _ => ?_); unfold v1; apply Chip.putB_keeps; assumption
    extract_lets +onlyGivenNames v2; refine Keeps.cut (a := c₀) (x := v2) ?_ (fun _ => ?_); unfold v2
    apply Chip.log_keeps; assumption; refine Keeps.foldl (fun _ _ _ => ?_) ?_; apply Chip.stopItem_keeps
    assumption; assumption

theorem Chip.logGraft_keeps (c : Chip) (r : Reg) (i j old new : Nat) {c₀ : Chip} (hc : Keeps c₀ c) : Keeps c₀ (Chip.logGraft c r i j old new) := by
  unfold Chip.logGraft
  with_reducible
    split; refine Keeps.foldl (fun _ _ _ => ?_) ?_; extract_lets +onlyGivenNames v1; clear_value v1; split
    assumption; apply Chip.bump_keeps; apply Chip.log_keeps; assumption; assumption
    refine Keeps.foldl (fun _ _ _ => ?_) ?_; extract_lets +onlyGivenNames v2; clear_value v2; split
    assumption; extract_lets +onlyGivenNames v3; clear_value v3; apply Chip.bump_keeps; apply Chip.log_keeps
    assumption; assumption; extract_lets +onlyGivenNames v4
    refine Keeps.cut (a := c₀) (x := v4) ?_ (fun _ => ?_); unfold v4
    refine Keeps.foldl (fun _ _ _ => ?_) ?_; extract_lets +onlyGivenNames v5; clear_value v5; split
    assumption; extract_lets +onlyGivenNames v6; clear_value v6; apply Chip.bump_keeps; apply Chip.log_keeps
    assumption; assumption; extract_lets +onlyGivenNames v7; clear_value v7; split; assumption
    apply Chip.bump_keeps; apply Chip.log_keeps; assumption; assumption

theorem Chip.graftDue_keeps (c : Chip) (ready : Nat → Bool) {c₀ : Chip} (hc : Keeps c₀ c) : Keeps c₀ (Chip.graftDue c ready) := by
  unfold Chip.graftDue
  with_reducible
    extract_lets +onlyGivenNames v1; clear_value v1; extract_lets +onlyGivenNames v2
    refine Keeps.cut (a := c₀) (x := v2) ?_ (fun _ => ?_); unfold v2; apply Chip.applyMaps_keeps; assumption
    refine Keeps.foldl (fun _ _ _ => ?_) ?_; split; extract_lets +onlyGivenNames v3
    refine Keeps.cut (a := c₀) (x := v3) ?_ (fun _ => ?_); unfold v3; apply Chip.logGraft_keeps; assumption
    split; refine Keeps.foldl (fun _ _ _ => ?_) ?_; extract_lets +onlyGivenNames v4; clear_value v4; split
    assumption; apply Chip.freeSite_keeps; assumption; assumption; refine Keeps.foldl (fun _ _ _ => ?_) ?_
    extract_lets +onlyGivenNames v5; clear_value v5; split; assumption
    refine Keeps.foldl (fun _ _ _ => ?_) ?_; apply Chip.freeSite_keeps; assumption; assumption; assumption
    assumption; assumption; assumption

theorem Chip.roleLost_keeps (c : Chip) (role : Nat) {c₀ : Chip} (hc : Keeps c₀ c) : Keeps c₀ (Chip.roleLost c role) := by
  unfold Chip.roleLost
  with_reducible
    split; apply Chip.regionFail_keeps; assumption; apply Chip.faultHold_keeps; assumption

theorem Chip.coreFail_keeps (c : Chip) (k : Nat) {c₀ : Chip} (hc : Keeps c₀ c) : Keeps c₀ (Chip.coreFail c k) := by
  unfold Chip.coreFail
  with_reducible
    split; assumption; extract_lets +onlyGivenNames v1; clear_value v1; extract_lets +onlyGivenNames v2
    refine Keeps.cut (a := c₀) (x := v2) ?_ (fun _ => ?_); unfold v2; apply Chip.put_keeps; assumption
    extract_lets +onlyGivenNames v3; refine Keeps.cut (a := c₀) (x := v3) ?_ (fun _ => ?_); unfold v3
    apply Chip.log_keeps; assumption; split; apply Chip.putB_keeps; assumption; split; split
    apply Chip.roleLost_keeps; apply Chip.updRecov_keeps; assumption; split; assumption
    apply Chip.roleLost_keeps; assumption; split; apply Chip.roleLost_keeps; assumption
    apply Chip.updRecov_keeps; assumption

theorem Chip.takeRole_keeps (c : Chip) {c₀ : Chip} (hc : Keeps c₀ c) : Keeps c₀ (Chip.takeRole c) := by
  unfold Chip.takeRole
  with_reducible
    split; assumption; extract_lets +onlyGivenNames v1
    refine Keeps.cut (a := c₀) (x := v1) ?_ (fun _ => ?_); unfold v1; apply Chip.updRecov_keeps; assumption
    apply Chip.mapLater_keeps; assumption

theorem Chip.modHedge_keeps (c : Chip) (x : Nat) (f : HedgeRes → HedgeRes) {c₀ : Chip} (hc : Keeps c₀ c) : Keeps c₀ (Chip.modHedge c x f) := by
  unfold Chip.modHedge
  with_reducible
    refine Keeps.updMem₁ ?_ rfl; assumption

theorem Chip.hedgeAsk_keeps (c : Chip) (x id who n : Nat) {c₀ : Chip} (hc : Keeps c₀ c) : Keeps c₀ (Chip.hedgeAsk c x id who n) := by
  unfold Chip.hedgeAsk
  with_reducible
    apply Chip.modHedge_keeps; assumption

theorem Chip.hedgeServe_keeps (c : Chip) (x id : Nat) {c₀ : Chip} (hc : Keeps c₀ c) : Keeps c₀ (Chip.hedgeServe c x id).1 := by
  unfold Chip.hedgeServe
  with_reducible
    extract_lets +onlyGivenNames v1; extract_lets +onlyGivenNames v2; clear_value v2
    extract_lets +onlyGivenNames v3; clear_value v3; extract_lets +onlyGivenNames v4; clear_value v4
    refine Keeps.pair₁ ?_; apply Chip.modHedge_keeps; assumption

theorem Chip.hedgeServeAll_keeps (c : Chip) (id : Nat) (l : List Nat) {c₀ : Chip} (hc : Keeps c₀ c) : Keeps c₀ (Chip.hedgeServeAll c id l).1 := by
  unfold Chip.hedgeServeAll
  with_reducible
    refine Keeps.foldlP (fun _ _ _ => ?_) ?_; extract_lets +onlyGivenNames v1
    refine Keeps.cut (a := c₀) (x := v1.1) ?_ (fun _ => ?_); unfold v1; apply Chip.hedgeServe_keeps
    assumption; assumption; assumption

theorem Chip.hedgeOnce_keeps (c : Chip) (who : Nat) (l : List (Nat × Nat)) {c₀ : Chip} (hc : Keeps c₀ c) : Keeps c₀ (Chip.hedgeOnce c who l).1 := by
  unfold Chip.hedgeOnce
  with_reducible
    extract_lets +onlyGivenNames v1; refine Keeps.cut (a := c₀) (x := v1) ?_ (fun _ => ?_); unfold v1
    refine Keeps.foldl (fun _ _ _ => ?_) ?_; apply Chip.hedgeAsk_keeps; assumption; assumption
    extract_lets +onlyGivenNames v2; refine Keeps.cut (a := c₀) (x := v2.1) ?_ (fun _ => ?_); unfold v2
    apply Chip.hedgeServeAll_keeps; assumption; refine Keeps.pair₁ ?_
    refine Keeps.foldl (fun _ _ _ => ?_) ?_; apply Chip.modHedge_keeps; assumption; assumption

theorem Chip.handleFault_keeps (c : Chip) (code : Nat) (who : Issuer) (table : Nat) {c₀ : Chip} (hc : Keeps c₀ c) : Keeps c₀ (Chip.handleFault c code who table) := by
  unfold Chip.handleFault
  with_reducible
    extract_lets +onlyGivenNames v1; refine Keeps.cut (a := c₀) (x := v1) ?_ (fun _ => ?_); unfold v1
    refine Keeps.updMem₁ ?_ (by split <;> rfl); assumption; extract_lets +onlyGivenNames v2
    refine Keeps.cut (a := c₀) (x := v2) ?_ (fun _ => ?_); unfold v2; apply Chip.log_keeps; assumption
    split; split; assumption; split; apply Chip.setRun_keeps; assumption; apply Chip.blockFail_keeps
    assumption; assumption

theorem Chip.setFull_keeps (c : Chip) (s : SlotId) (v : Bool) {c₀ : Chip} (hc : Keeps c₀ c) : Keeps c₀ (Chip.setFull c s v) := by
  unfold Chip.setFull
  with_reducible
    split; refine Keeps.updMem ?_ (fun h => { h with slotFull := by dsimp only; exact smSet_ok h.slotFull })
    assumption; assumption

theorem Chip.writeSlot_keeps (c : Chip) (s : SlotId) (o : Nat) (d : List Byte) {c₀ : Chip} (hc : Keeps c₀ c) : Keeps c₀ (Chip.writeSlot c s o d) := by
  unfold Chip.writeSlot
  with_reducible
    split; extract_lets +onlyGivenNames v1; clear_value v1; extract_lets +onlyGivenNames v2; clear_value v2
    refine Keeps.updMem ?_ (fun h => { h with slotData := by dsimp only; exact smSet_ok h.slotData })
    assumption; assumption

theorem Chip.slotRelease_keeps (c : Chip) (s : SlotId) {c₀ : Chip} (hc : Keeps c₀ c) : Keeps c₀ (Chip.slotRelease c s) := by
  unfold Chip.slotRelease
  with_reducible
    split; assumption; split; extract_lets +onlyGivenNames v1
    refine Keeps.cut (a := c₀) (x := v1) ?_ (fun _ => ?_); unfold v1; split; apply Chip.modRun_keeps
    assumption; assumption; apply Chip.setFull_keeps; assumption; extract_lets +onlyGivenNames v2
    refine Keeps.cut (a := c₀) (x := v2) ?_ (fun _ => ?_); unfold v2; refine Keeps.updMem₁ ?_ rfl
    assumption; apply Chip.unitFail_keeps; apply Chip.log_keeps; assumption

theorem Chip.slotWaitFault_keeps (c : Chip) (s : SlotId) (awaited : Bool) (u : StepUnit) {c₀ : Chip} (hc : Keeps c₀ c) : Keeps c₀ (Chip.slotWaitFault c s awaited u) := by
  unfold Chip.slotWaitFault
  with_reducible
    split; assumption; split; assumption; extract_lets +onlyGivenNames v1
    refine Keeps.cut (a := c₀) (x := v1) ?_ (fun _ => ?_); unfold v1; refine Keeps.updMem₁ ?_ rfl
    assumption; extract_lets +onlyGivenNames v2; refine Keeps.cut (a := c₀) (x := v2) ?_ (fun _ => ?_)
    unfold v2; apply Chip.log_keeps; assumption; apply Chip.loseStep_keeps; assumption

theorem Chip.undoSlots_keeps (c : Chip) (u : Nat) {c₀ : Chip} (hc : Keeps c₀ c) : Keeps c₀ (Chip.undoSlots c u) := by
  unfold Chip.undoSlots
  with_reducible
    split; assumption; extract_lets +onlyGivenNames v1
    refine Keeps.updMem ?_ (fun h => { h with slotData := (by dsimp only; exact smOk_foldl _ h.slotData), slotFull := (by dsimp only; exact smOk_foldl _ h.slotFull) })
    assumption

theorem Chip.countCorr_keeps (c : Chip) (g : Gran) {c₀ : Chip} (hc : Keeps c₀ c) : Keeps c₀ (Chip.countCorr c g) := by
  unfold Chip.countCorr
  with_reducible
    split; apply Chip.bump_keeps; assumption; split; apply Chip.bump_keeps; assumption; assumption

theorem Chip.countUncorr_keeps (c : Chip) (g : Gran) {c₀ : Chip} (hc : Keeps c₀ c) : Keeps c₀ (Chip.countUncorr c g) := by
  unfold Chip.countUncorr
  with_reducible
    split; apply Chip.bump_keeps; assumption; split; apply Chip.bump_keeps; assumption
    refine Keeps.updMem₁ ?_ rfl; assumption

theorem Chip.markRow_keeps (c : Chip) (g : Gran) (lvl : Nat) {c₀ : Chip} (hc : Keeps c₀ c) : Keeps c₀ (Chip.markRow c g lvl) := by
  unfold Chip.markRow
  with_reducible
    split; assumption; refine Keeps.updMem₁ ?_ rfl; assumption

theorem Chip.correct_keeps (c : Chip) (g : Gran) (f : Finding) {c₀ : Chip} (hc : Keeps c₀ c) : Keeps c₀ (Chip.correct c g f) := by
  unfold Chip.correct
  with_reducible
    split; assumption; split; assumption; extract_lets +onlyGivenNames v1
    refine Keeps.cut (a := c₀) (x := v1) ?_ (fun _ => ?_); unfold v1; apply Chip.countCorr_keeps; assumption
    extract_lets +onlyGivenNames v2; clear_value v2; extract_lets +onlyGivenNames v3
    refine Keeps.cut (a := c₀) (x := v3) ?_ (fun _ => ?_); unfold v3; refine Keeps.updMem₁ ?_ rfl
    assumption; split; apply Chip.markRow_keeps; assumption; assumption; split; assumption
    apply Chip.markRow_keeps
    refine Keeps.updMem ?_ (fun h => { h with poison := by dsimp only; exact smSet_ok h.poison })
    assumption

theorem Chip.meet_keeps (c : Chip) (g : Gran) {c₀ : Chip} (hc : Keeps c₀ c) : Keeps c₀ (Chip.meet c g).1 := by
  unfold Chip.meet
  with_reducible
    split; refine Keeps.pair₁ ?_; apply Chip.log_keeps; apply Chip.countUncorr_keeps; assumption; assumption

theorem Chip.meetAll_keeps (c : Chip) (l : List Gran) {c₀ : Chip} (hc : Keeps c₀ c) : Keeps c₀ (Chip.meetAll c l).1 := by
  unfold Chip.meetAll
  with_reducible
    refine Keeps.foldlP (fun _ _ _ => ?_) ?_; extract_lets +onlyGivenNames v1
    refine Keeps.cut (a := c₀) (x := v1.1) ?_ (fun _ => ?_); unfold v1; apply Chip.meet_keeps; assumption
    assumption; assumption

theorem Chip.carry_keeps (c : Chip) (pairs : List (Gran × Gran)) {c₀ : Chip} (hc : Keeps c₀ c) : Keeps c₀ (Chip.carry c pairs).1 := by
  unfold Chip.carry
  with_reducible
    extract_lets +onlyGivenNames v1; refine Keeps.cut (a := c₀) (x := v1.1) ?_ (fun _ => ?_); unfold v1
    apply Chip.meetAll_keeps; assumption; refine Keeps.pair₁ ?_; refine Keeps.foldl (fun _ _ _ => ?_) ?_
    refine Keeps.updMem ?_ (fun h => Mem.copyGran_wf _ _ _ h); assumption; assumption

theorem Chip.answer_keeps (c : Chip) (r : ReadRes) {c₀ : Chip} (hc : Keeps c₀ c) : Keeps c₀ (Chip.answer c r) := by
  unfold Chip.answer
  with_reducible
    refine Keeps.updMem₁ ?_ rfl; assumption

theorem Chip.consumePoison_keeps (c : Chip) (who : Issuer) {c₀ : Chip} (hc : Keeps c₀ c) : Keeps c₀ (Chip.consumePoison c who) := by
  unfold Chip.consumePoison
  with_reducible
    split; apply Chip.loseStep_keeps; assumption; assumption

theorem Chip.readGranule_keeps (c : Chip) (who : Issuer) (g : Gran) (f : Finding) {c₀ : Chip} (hc : Keeps c₀ c) : Keeps c₀ (Chip.readGranule c who g f) := by
  unfold Chip.readGranule
  with_reducible
    extract_lets +onlyGivenNames v1; refine Keeps.cut (a := c₀) (x := v1.1) ?_ (fun _ => ?_); unfold v1
    apply Chip.meet_keeps; apply Chip.correct_keeps; assumption; extract_lets +onlyGivenNames v2
    clear_value v2; split; apply Chip.consumePoison_keeps; apply Chip.answer_keeps; assumption
    apply Chip.answer_keeps; assumption

theorem Chip.readSlot_keeps (c : Chip) (s : SlotId) (p : Parity) {c₀ : Chip} (hc : Keeps c₀ c) : Keeps c₀ (Chip.readSlot c s p) := by
  unfold Chip.readSlot
  with_reducible
    split; apply Chip.answer_keeps; assumption; split; apply Chip.answer_keeps; assumption; split
    apply Chip.answer_keeps; assumption; extract_lets +onlyGivenNames v1; clear_value v1
    refine Keeps.updMem₁ ?_ rfl; assumption; split; apply Chip.cellError_keeps; apply Chip.answer_keeps
    assumption; apply Chip.answer_keeps; assumption

theorem Chip.linkError_keeps (c : Chip) (who : Issuer) {c₀ : Chip} (hc : Keeps c₀ c) : Keeps c₀ (Chip.linkError c who) := by
  unfold Chip.linkError
  with_reducible
    extract_lets +onlyGivenNames v1; refine Keeps.cut (a := c₀) (x := v1) ?_ (fun _ => ?_); unfold v1
    apply Chip.answer_keeps; assumption; apply Chip.consumePoison_keeps; apply Chip.log_keeps; assumption

theorem Chip.spareBank_keeps (c : Chip) (bank : Nat) {c₀ : Chip} (hc : Keeps c₀ c) : Keeps c₀ (Chip.spareBank c bank) := by
  unfold Chip.spareBank
  with_reducible
    split; assumption; split; extract_lets +onlyGivenNames v1
    refine Keeps.cut (a := c₀) (x := v1) ?_ (fun _ => ?_); unfold v1; apply Chip.put_keeps; assumption
    apply Chip.log_keeps; apply Chip.putB_keeps; assumption; apply Chip.log_keeps; assumption

theorem Chip.spareRow_keeps (c : Chip) (row : Nat) {c₀ : Chip} (hc : Keeps c₀ c) : Keeps c₀ (Chip.spareRow c row) := by
  unfold Chip.spareRow
  with_reducible
    extract_lets +onlyGivenNames v1; clear_value v1; extract_lets +onlyGivenNames v2
    refine Keeps.cut (a := c₀) (x := v2) ?_ (fun _ => ?_); unfold v2; refine Keeps.updMem₁ ?_ rfl
    assumption; extract_lets +onlyGivenNames v3; clear_value v3; split; extract_lets +onlyGivenNames v4
    refine Keeps.cut (a := c₀) (x := v4) ?_ (fun _ => ?_); unfold v4; refine Keeps.updMem₁ ?_ rfl
    assumption; split; extract_lets +onlyGivenNames v5; clear_value v5; extract_lets +onlyGivenNames v6
    refine Keeps.cut (a := c₀) (x := v6) ?_ (fun _ => ?_); unfold v6; apply Chip.bump_keeps; assumption
    apply Chip.log_keeps; assumption; apply Chip.bump_keeps; assumption; split; apply Chip.blockFail_keeps
    assumption; apply Chip.spareBank_keeps; assumption

theorem Chip.sparing_keeps (c : Chip) {c₀ : Chip} (hc : Keeps c₀ c) : Keeps c₀ (Chip.sparing c) := by
  unfold Chip.sparing
  with_reducible
    extract_lets +onlyGivenNames v1; refine Keeps.cut (a := c₀) (x := v1) ?_ (fun _ => ?_); unfold v1
    refine Keeps.foldl (fun _ _ _ => ?_) ?_; apply Chip.spareRow_keeps; assumption; assumption
    refine Keeps.foldl (fun _ _ _ => ?_) ?_; split; extract_lets +onlyGivenNames v2
    refine Keeps.cut (a := c₀) (x := v2) ?_ (fun _ => ?_); unfold v2; apply Chip.putB_keeps; assumption
    extract_lets +onlyGivenNames v3; refine Keeps.cut (a := c₀) (x := v3) ?_ (fun _ => ?_); unfold v3
    apply Chip.putB_keeps; assumption; extract_lets +onlyGivenNames v4; clear_value v4
    refine Keeps.updMem₁ ?_ rfl; assumption; assumption; assumption

theorem Chip.bankCopyDone_keeps (c : Chip) (bank : Nat) {c₀ : Chip} (hc : Keeps c₀ c) : Keeps c₀ (Chip.bankCopyDone c bank) := by
  unfold Chip.bankCopyDone
  with_reducible
    split; refine Keeps.updMem₁ ?_ rfl; assumption; assumption

theorem Chip.countIdle_keeps (c : Chip) (loc : RowLoc) (f : Finding) {c₀ : Chip} (hc : Keeps c₀ c) : Keeps c₀ (Chip.countIdle c loc f) := by
  unfold Chip.countIdle
  with_reducible
    split; assumption; apply Chip.bump_keeps; assumption; apply Chip.bump_keeps; assumption
    apply Chip.bump_keeps; assumption; apply Chip.bump_keeps; assumption

theorem Chip.scrub_keeps (c : Chip) (loc : RowLoc) (f : Finding) {c₀ : Chip} (hc : Keeps c₀ c) : Keeps c₀ (Chip.scrub c loc f) := by
  unfold Chip.scrub
  with_reducible
    split; apply Chip.meet_keeps; apply Chip.correct_keeps; assumption; apply Chip.countIdle_keeps
    assumption

theorem Chip.hedgeMove_keeps (c : Chip) (m : Move) {c₀ : Chip} (hc : Keeps c₀ c) : Keeps c₀ (Chip.hedgeMove c m) := by
  unfold Chip.hedgeMove
  with_reducible
    split; assumption; refine Keeps.foldl (fun _ _ _ => ?_) ?_; apply Chip.hedgeAsk_keeps; assumption
    assumption

theorem Chip.moveIssue_keeps (c : Chip) (d : MoveDesc) {c₀ : Chip} (hc : Keeps c₀ c) : Keeps c₀ (Chip.moveIssue c d) := by
  unfold Chip.moveIssue
  with_reducible
    split; assumption; split; apply Chip.handleFault_keeps; assumption; split; apply Chip.handleFault_keeps
    assumption; extract_lets +onlyGivenNames v1; clear_value v1; extract_lets +onlyGivenNames v2
    clear_value v2; split; apply Chip.handleFault_keeps; assumption; apply Chip.hedgeMove_keeps
    refine Keeps.updMem₁ ?_ rfl; assumption

theorem Chip.land_keeps (c : Chip) (m : Move) {c₀ : Chip} (hc : Keeps c₀ c) : Keeps c₀ (Chip.land c m) := by
  unfold Chip.land
  with_reducible
    split; extract_lets +onlyGivenNames v1; refine Keeps.cut (a := c₀) (x := v1.1) ?_ (fun _ => ?_)
    unfold v1; apply Chip.carry_keeps; assumption; split; apply Chip.answer_keeps; assumption; assumption
    extract_lets +onlyGivenNames v2; refine Keeps.cut (a := c₀) (x := v2.1) ?_ (fun _ => ?_); unfold v2
    apply Chip.meetAll_keeps; assumption; split; apply Chip.consumePoison_keeps; apply Chip.answer_keeps
    assumption; extract_lets +onlyGivenNames v3; refine Keeps.cut (a := c₀) (x := v3) ?_ (fun _ => ?_)
    unfold v3; apply Chip.writeSlot_keeps; assumption; split; apply Chip.setFull_keeps; assumption
    assumption; refine Keeps.foldl (fun _ _ _ => ?_) ?_; apply Chip.writeGran_keeps; assumption; assumption
    assumption

theorem Chip.performMove_keeps (c : Chip) (m : Move) {c₀ : Chip} (hc : Keeps c₀ c) : Keeps c₀ (Chip.performMove c m) := by
  unfold Chip.performMove
  with_reducible
    extract_lets +onlyGivenNames v1; split; apply Chip.consumePoison_keeps; apply Chip.answer_keeps
    unfold v1; refine Keeps.updMem₁ ?_ rfl; assumption; split; assumption; extract_lets +onlyGivenNames v2
    refine Keeps.cut (a := c₀) (x := v2.1) ?_ (fun _ => ?_); unfold v2; apply Chip.hedgeServeAll_keeps
    assumption; split; apply Chip.land_keeps; unfold v1; refine Keeps.updMem₁ ?_ rfl; assumption; assumption

theorem Chip.runMoves_keeps (l : List Move) (c : Chip) {c₀ : Chip} (hc : Keeps c₀ c) : Keeps c₀ (Chip.runMoves l c) := by
  induction l generalizing c with
  | nil => exact hc
  | cons m r ih =>
    unfold Chip.runMoves
    with_reducible
      split; apply Chip.performMove_keeps; assumption; apply ih; apply Chip.performMove_keeps; assumption

theorem Chip.moveComplete_keeps (c : Chip) (id : Nat) (finds : List MvFind) {c₀ : Chip} (hc : Keeps c₀ c) : Keeps c₀ (Chip.moveComplete c id finds) := by
  unfold Chip.moveComplete
  with_reducible
    split; assumption; extract_lets +onlyGivenNames v1; clear_value v1; extract_lets +onlyGivenNames v2
    clear_value v2; extract_lets +onlyGivenNames v3; refine Keeps.cut (a := c₀) (x := v3) ?_ (fun _ => ?_)
    unfold v3; apply Chip.runMoves_keeps; assumption; split; assumption; extract_lets +onlyGivenNames v4
    clear_value v4; extract_lets +onlyGivenNames v5; refine Keeps.cut (a := c₀) (x := v5) ?_ (fun _ => ?_)
    unfold v5; refine Keeps.foldl (fun _ _ _ => ?_) ?_; split; apply Chip.correct_keeps; assumption
    assumption; assumption; apply Chip.performMove_keeps; assumption

theorem Chip.slotFence_keeps (c : Chip) (who : Issuer) (s : SlotId) {c₀ : Chip} (hc : Keeps c₀ c) : Keeps c₀ (Chip.slotFence c who s) := by
  unfold Chip.slotFence
  with_reducible
    split; assumption; extract_lets +onlyGivenNames v1; clear_value v1; extract_lets +onlyGivenNames v2
    refine Keeps.cut (a := c₀) (x := v2) ?_ (fun _ => ?_); unfold v2; apply Chip.runMoves_keeps; assumption
    split; assumption; apply Chip.setFull_keeps; assumption

theorem Chip.drainMoves_keeps (c : Chip) (sel : Move → Bool) {c₀ : Chip} (hc : Keeps c₀ c) : Keeps c₀ (Chip.drainMoves c sel) := by
  unfold Chip.drainMoves
  with_reducible
    apply Chip.runMoves_keeps; assumption

theorem Chip.memoryFence_keeps (c : Chip) (who : Issuer) {c₀ : Chip} (hc : Keeps c₀ c) : Keeps c₀ (Chip.memoryFence c who) := by
  unfold Chip.memoryFence
  with_reducible
    apply Chip.drainMoves_keeps; assumption

theorem Chip.readOf_keeps (c : Chip) (who : Issuer) (g : Gran) (f : Finding) {c₀ : Chip} (hc : Keeps c₀ c) : Keeps c₀ (Chip.readOf c who g f) := by
  unfold Chip.readOf
  with_reducible
    split; apply Chip.consumePoison_keeps; apply Chip.answer_keeps; assumption
    extract_lets +onlyGivenNames v1; clear_value v1; extract_lets +onlyGivenNames v2
    refine Keeps.cut (a := c₀) (x := v2) ?_ (fun _ => ?_); unfold v2; apply Chip.runMoves_keeps; assumption
    split; apply Chip.answer_keeps; assumption; split; apply Chip.readGranule_keeps; assumption
    extract_lets +onlyGivenNames v3; refine Keeps.cut (a := c₀) (x := v3.1) ?_ (fun _ => ?_); unfold v3
    apply Chip.hedgeOnce_keeps; assumption; split; apply Chip.readGranule_keeps; assumption
    apply Chip.answer_keeps; assumption

theorem Chip.mortarRead_keeps (c : Chip) (w : MortarIn) {c₀ : Chip} (hc : Keeps c₀ c) : Keeps c₀ (Chip.mortarRead c w) := by
  unfold Chip.mortarRead
  with_reducible
    split; apply Chip.linkError_keeps; assumption; split; apply Chip.readSlot_keeps; assumption; split
    apply Chip.readOf_keeps; assumption; assumption; split; assumption; split; apply Chip.handleFault_keeps
    assumption; apply Chip.readOf_keeps; assumption

theorem Chip.putS_keeps (c : Chip) (f : Fld) (v : Int) (i : Nat ) (j : Nat ) {c₀ : Chip} (hc : Keeps c₀ c) : Keeps c₀ (Chip.putS c f v i j) := by
  unfold Chip.putS
  with_reducible
    apply Chip.put_keeps; assumption

theorem Chip.putSat_keeps (c : Chip) (f : Fld) (v : Int) {c₀ : Chip} (hc : Keeps c₀ c) : Keeps c₀ (Chip.putSat c f v) := by
  unfold Chip.putSat
  with_reducible
    apply Chip.putS_keeps; assumption

theorem Chip.clockEdge_keeps (c : Chip) {c₀ : Chip} (hc : Keeps c₀ c) : Keeps c₀ (Chip.clockEdge c) := by
  unfold Chip.clockEdge
  with_reducible
    refine Keeps.mk₁ ?_; assumption

theorem Chip.toCourse_keeps (c : Chip) {c₀ : Chip} (hc : Keeps c₀ c) : Keeps c₀ (Chip.toCourse c) := by
  unfold Chip.toCourse
  with_reducible
    extract_lets +onlyGivenNames v1; clear_value v1; extract_lets +onlyGivenNames v2; clear_value v2
    extract_lets +onlyGivenNames v3; refine Keeps.cut (a := c₀) (x := v3) ?_ (fun _ => ?_); unfold v3
    refine Keeps.mk₁ ?_; assumption; refine Keeps.mk₁ ?_; assumption

theorem Chip.toSlot_keeps (c : Chip) {c₀ : Chip} (hc : Keeps c₀ c) : Keeps c₀ (Chip.toSlot c) := by
  unfold Chip.toSlot
  with_reducible
    extract_lets +onlyGivenNames v1; clear_value v1; extract_lets +onlyGivenNames v2
    refine Keeps.cut (a := c₀) (x := v2) ?_ (fun _ => ?_); unfold v2; refine Keeps.mk₁ ?_; assumption
    refine Keeps.mk₁ ?_; assumption

theorem Chip.modPort_keeps (c : Chip) (x : Nat) (f : Port → Port) {c₀ : Chip} (hc : Keeps c₀ c) : Keeps c₀ (Chip.modPort c x f) := by
  unfold Chip.modPort
  with_reducible
    refine Keeps.mk₁ ?_; assumption

theorem Chip.updServo_keeps (c : Chip) (f : Servo → Servo) {c₀ : Chip} (hc : Keeps c₀ c) : Keeps c₀ (Chip.updServo c f) := by
  unfold Chip.updServo
  with_reducible
    refine Keeps.mk₁ ?_; assumption

theorem Chip.flagDegraded_keeps (c : Chip) {c₀ : Chip} (hc : Keeps c₀ c) : Keeps c₀ (Chip.flagDegraded c) := by
  unfold Chip.flagDegraded
  with_reducible
    extract_lets +onlyGivenNames v1; clear_value v1; refine Keeps.foldl (fun _ _ _ => ?_) ?_
    apply Chip.modItem_keeps; assumption; assumption

theorem Chip.raiseAlarm_keeps (c : Chip) {c₀ : Chip} (hc : Keeps c₀ c) : Keeps c₀ (Chip.raiseAlarm c) := by
  unfold Chip.raiseAlarm
  with_reducible
    extract_lets +onlyGivenNames v1; refine Keeps.cut (a := c₀) (x := v1) ?_ (fun _ => ?_); unfold v1
    apply Chip.updServo_keeps; assumption; extract_lets +onlyGivenNames v2
    refine Keeps.cut (a := c₀) (x := v2) ?_ (fun _ => ?_); unfold v2; apply Chip.put_keeps; assumption
    split; assumption; apply Chip.flagDegraded_keeps; apply Chip.bump_keeps; apply Chip.putB_keeps
    assumption

theorem Chip.acquireState_keeps (c : Chip) {c₀ : Chip} (hc : Keeps c₀ c) : Keeps c₀ (Chip.acquireState c) := by
  unfold Chip.acquireState
  with_reducible
    split; assumption; split; apply Chip.updServo_keeps; apply Chip.put_keeps; assumption; split
    apply Chip.put_keeps; assumption; apply Chip.put_keeps; assumption

theorem Chip.setSource_keeps (c : Chip) (x : Option Nat) {c₀ : Chip} (hc : Keeps c₀ c) : Keeps c₀ (Chip.setSource c x) := by
  unfold Chip.setSource
  with_reducible
    extract_lets +onlyGivenNames v1; clear_value v1; split; assumption; extract_lets +onlyGivenNames v2
    refine Keeps.cut (a := c₀) (x := v2) ?_ (fun _ => ?_); unfold v2; apply Chip.put_keeps; assumption
    extract_lets +onlyGivenNames v3; refine Keeps.cut (a := c₀) (x := v3) ?_ (fun _ => ?_); unfold v3
    apply Chip.updServo_keeps; assumption; extract_lets +onlyGivenNames v4
    refine Keeps.cut (a := c₀) (x := v4) ?_ (fun _ => ?_); unfold v4; split; apply Chip.bump_keeps
    assumption; assumption; split; extract_lets +onlyGivenNames v5
    refine Keeps.cut (a := c₀) (x := v5) ?_ (fun _ => ?_); unfold v5; apply Chip.putB_keeps; assumption
    extract_lets +onlyGivenNames v6; refine Keeps.cut (a := c₀) (x := v6) ?_ (fun _ => ?_); unfold v6; split
    apply Chip.putB_keeps; apply Chip.putS_keeps; assumption; assumption; extract_lets +onlyGivenNames v7
    refine Keeps.cut (a := c₀) (x := v7) ?_ (fun _ => ?_); unfold v7; apply Chip.put_keeps; assumption
    apply Chip.acquireState_keeps; assumption; split; extract_lets +onlyGivenNames v8
    refine Keeps.cut (a := c₀) (x := v8) ?_ (fun _ => ?_); unfold v8; apply Chip.raiseAlarm_keeps
    assumption; extract_lets +onlyGivenNames v9; refine Keeps.cut (a := c₀) (x := v9) ?_ (fun _ => ?_)
    unfold v9; apply Chip.putB_keeps; assumption; apply Chip.putS_keeps; assumption
    apply Chip.acquireState_keeps; assumption

theorem Chip.loseSource_keeps (c : Chip) {c₀ : Chip} (hc : Keeps c₀ c) : Keeps c₀ (Chip.loseSource c) := by
  unfold Chip.loseSource
  with_reducible
    split; assumption; extract_lets +onlyGivenNames v1
    refine Keeps.cut (a := c₀) (x := v1) ?_ (fun _ => ?_); unfold v1; apply Chip.modPort_keeps; assumption
    extract_lets +onlyGivenNames v2; clear_value v2; split; apply Chip.setSource_keeps; assumption
    apply Chip.setSource_keeps; assumption

theorem Chip.sourceTimeout_keeps (c : Chip) {c₀ : Chip} (hc : Keeps c₀ c) : Keeps c₀ (Chip.sourceTimeout c) := by
  unfold Chip.sourceTimeout
  with_reducible
    split; assumption; apply Chip.loseSource_keeps; apply Chip.bump_keeps; assumption

theorem Chip.announce_keeps (c : Chip) (w : AnnounceIn) {c₀ : Chip} (hc : Keeps c₀ c) : Keeps c₀ (Chip.announce c w) := by
  unfold Chip.announce
  with_reducible
    split; assumption; extract_lets +onlyGivenNames v1
    refine Keeps.cut (a := c₀) (x := v1) ?_ (fun _ => ?_); unfold v1; apply Chip.modPort_keeps; assumption
    split; apply Chip.setSource_keeps; assumption; split; apply Chip.putB_keeps; apply Chip.putS_keeps
    assumption; split; split; apply Chip.setSource_keeps; assumption; assumption; apply Chip.setSource_keeps
    assumption

theorem Chip.delayResponse_keeps (c : Chip) (w : DelayIn) {c₀ : Chip} (hc : Keeps c₀ c) : Keeps c₀ (Chip.delayResponse c w) := by
  unfold Chip.delayResponse
  with_reducible
    split; assumption; extract_lets +onlyGivenNames v1; clear_value v1; split; assumption
    extract_lets +onlyGivenNames v2; refine Keeps.cut (a := c₀) (x := v2) ?_ (fun _ => ?_); unfold v2
    apply Chip.modPort_keeps; assumption; split; apply Chip.acquireState_keeps; apply Chip.put_keeps
    assumption; assumption

theorem Chip.servoSync_keeps (c : Chip) (e : Int) (si : Nat) {c₀ : Chip} (hc : Keeps c₀ c) : Keeps c₀ (Chip.servoSync c e si) := by
  unfold Chip.servoSync
  with_reducible
    extract_lets +onlyGivenNames v1; clear_value v1; extract_lets +onlyGivenNames v2; clear_value v2; split
    extract_lets +onlyGivenNames v3; refine Keeps.cut (a := c₀) (x := v3) ?_ (fun _ => ?_); unfold v3
    apply Chip.putS_keeps; apply Chip.updServo_keeps; assumption; split; apply Chip.raiseAlarm_keeps
    assumption; split; extract_lets +onlyGivenNames v4; clear_value v4; extract_lets +onlyGivenNames v5
    refine Keeps.cut (a := c₀) (x := v5) ?_ (fun _ => ?_); unfold v5; apply Chip.updServo_keeps; assumption
    split; apply Chip.put_keeps; apply Chip.putB_keeps; apply Chip.putB_keeps; assumption; assumption
    apply Chip.updServo_keeps; assumption

theorem Chip.acquireSync_keeps (c : Chip) (m l o : Int) {c₀ : Chip} (hc : Keeps c₀ c) : Keeps c₀ (Chip.acquireSync c m l o) := by
  unfold Chip.acquireSync
  with_reducible
    split; assumption; extract_lets +onlyGivenNames v1; clear_value v1; extract_lets +onlyGivenNames v2
    refine Keeps.cut (a := c₀) (x := v2) ?_ (fun _ => ?_); unfold v2; apply Chip.updServo_keeps; assumption
    split; extract_lets +onlyGivenNames v3; clear_value v3; apply Chip.updServo_keeps; apply Chip.putS_keeps
    assumption; assumption

theorem Chip.sync_keeps (c : Chip) (w : SyncIn) {c₀ : Chip} (hc : Keeps c₀ c) : Keeps c₀ (Chip.sync c w) := by
  unfold Chip.sync
  with_reducible
    split; assumption; split; assumption; extract_lets +onlyGivenNames v1; clear_value v1
    extract_lets +onlyGivenNames v2; clear_value v2; extract_lets +onlyGivenNames v3; clear_value v3
    extract_lets +onlyGivenNames v4; refine Keeps.cut (a := c₀) (x := v4) ?_ (fun _ => ?_); unfold v4
    apply Chip.putSat_keeps; assumption; split; apply Chip.servoSync_keeps; assumption
    apply Chip.acquireSync_keeps; assumption

theorem Chip.firstLock_keeps (c : Chip) {c₀ : Chip} (hc : Keeps c₀ c) : Keeps c₀ (Chip.firstLock c) := by
  unfold Chip.firstLock
  with_reducible
    split; assumption; split; assumption; extract_lets +onlyGivenNames v1; clear_value v1
    extract_lets +onlyGivenNames v2; clear_value v2; extract_lets +onlyGivenNames v3
    refine Keeps.cut (a := c₀) (x := v3) ?_ (fun _ => ?_); unfold v3; refine Keeps.mk₁ ?_; assumption
    extract_lets +onlyGivenNames v4; clear_value v4; extract_lets +onlyGivenNames v5
    refine Keeps.cut (a := c₀) (x := v5) ?_ (fun _ => ?_); unfold v5; refine Keeps.mk₁ ?_; assumption
    extract_lets +onlyGivenNames v6; refine Keeps.cut (a := c₀) (x := v6) ?_ (fun _ => ?_); unfold v6
    apply Chip.updServo_keeps; assumption; extract_lets +onlyGivenNames v7
    refine Keeps.cut (a := c₀) (x := v7) ?_ (fun _ => ?_); unfold v7; apply Chip.updSched_keeps; assumption
    extract_lets +onlyGivenNames v8; refine Keeps.cut (a := c₀) (x := v8) ?_ (fun _ => ?_); unfold v8
    apply foldN_keeps; assumption; intro _ _ _; apply Chip.modTransport_keeps; assumption
    apply Chip.put_keeps; apply Chip.putB_keeps; assumption

theorem Chip.ppsPulse_keeps (c : Chip) {c₀ : Chip} (hc : Keeps c₀ c) : Keeps c₀ (Chip.ppsPulse c) := by
  unfold Chip.ppsPulse
  with_reducible
    extract_lets +onlyGivenNames v1; clear_value v1; split; assumption; extract_lets +onlyGivenNames v2
    clear_value v2; extract_lets +onlyGivenNames v3; clear_value v3; apply Chip.updServo_keeps; assumption

theorem Chip.evtEdge_keeps (c : Chip) (falling : Bool) {c₀ : Chip} (hc : Keeps c₀ c) : Keeps c₀ (Chip.evtEdge c falling) := by
  unfold Chip.evtEdge
  with_reducible
    extract_lets +onlyGivenNames v1; clear_value v1; split; assumption; split; apply Chip.bump_keeps
    apply Chip.putB_keeps; assumption; extract_lets +onlyGivenNames v2; clear_value v2
    extract_lets +onlyGivenNames v3; refine Keeps.cut (a := c₀) (x := v3) ?_ (fun _ => ?_); unfold v3
    apply Chip.updServo_keeps; assumption; apply Chip.put_keeps; assumption

theorem Chip.push_keeps (c : Chip) (x : Nat) (f : TxFrame) {c₀ : Chip} (hc : Keeps c₀ c) : Keeps c₀ (Chip.push c x f) := by
  unfold Chip.push
  with_reducible
    split; assumption; apply Chip.modPort_keeps; assumption

theorem Chip.discardDown_keeps (c : Chip) (x : Nat) {c₀ : Chip} (hc : Keeps c₀ c) : Keeps c₀ (Chip.discardDown c x) := by
  unfold Chip.discardDown
  with_reducible
    split; assumption; apply Chip.modPort_keeps; assumption

theorem Chip.sendReports_keeps (c : Chip) (x : Nat) {c₀ : Chip} (hc : Keeps c₀ c) : Keeps c₀ (Chip.sendReports c x) := by
  unfold Chip.sendReports
  with_reducible
    split; extract_lets +onlyGivenNames v1; clear_value v1; extract_lets +onlyGivenNames v2; clear_value v2
    apply Chip.modPort_keeps; apply Chip.push_keeps; assumption; assumption

end Sys2Proof.Machine
end

