-- ==== Sys2Proof/Laws/Keeps2.lean ====
section
/-!
SUPPORT. The relation Keeps, function by function in the order of the model: part 2, from Chip.announceAddrs
to Chip.endField.  Each proof goes through the arms of its function.
-/

set_option linter.unusedVariables false

namespace Sys2Proof.Machine

theorem Chip.announceAddrs_keeps (c : Chip) (x : Nat) {c₀ : Chip} (hc : Keeps c₀ c) : Keeps c₀ (Chip.announceAddrs c x) := by
  unfold Chip.announceAddrs
  with_reducible
    refine Keeps.foldl (fun _ _ _ => ?_) ?_; apply Chip.push_keeps; assumption; assumption

theorem Chip.linkDownPort_keeps (c : Chip) (x : Nat) {c₀ : Chip} (hc : Keeps c₀ c) : Keeps c₀ (Chip.linkDownPort c x) := by
  unfold Chip.linkDownPort
  with_reducible
    split; assumption; extract_lets +onlyGivenNames v1
    refine Keeps.cut (a := c₀) (x := v1) ?_ (fun _ => ?_); unfold v1; apply Chip.putB_keeps
    apply Chip.put_keeps; apply Chip.putB_keeps; assumption; extract_lets +onlyGivenNames v2
    refine Keeps.cut (a := c₀) (x := v2) ?_ (fun _ => ?_); unfold v2; apply Chip.bump_keeps
    apply Chip.put_keeps; assumption; apply Chip.modPort_keeps; assumption

theorem Chip.linkUpPort_keeps (c : Chip) (x rate : Nat) (full : Bool) {c₀ : Chip} (hc : Keeps c₀ c) : Keeps c₀ (Chip.linkUpPort c x rate full) := by
  unfold Chip.linkUpPort
  with_reducible
    extract_lets +onlyGivenNames v1; clear_value v1; split; assumption; extract_lets +onlyGivenNames v2
    clear_value v2; split; apply Chip.putB_keeps; apply Chip.linkDownPort_keeps; assumption
    extract_lets +onlyGivenNames v3; clear_value v3; extract_lets +onlyGivenNames v4
    refine Keeps.cut (a := c₀) (x := v4) ?_ (fun _ => ?_); unfold v4; apply Chip.putB_keeps
    apply Chip.put_keeps; apply Chip.putB_keeps; assumption; extract_lets +onlyGivenNames v5
    refine Keeps.cut (a := c₀) (x := v5) ?_ (fun _ => ?_); unfold v5; apply Chip.putB_keeps; assumption
    extract_lets +onlyGivenNames v6; refine Keeps.cut (a := c₀) (x := v6) ?_ (fun _ => ?_); unfold v6
    apply Chip.put_keeps; assumption; extract_lets +onlyGivenNames v7
    refine Keeps.cut (a := c₀) (x := v7) ?_ (fun _ => ?_); unfold v7; apply Chip.modPort_keeps; assumption
    extract_lets +onlyGivenNames v8; refine Keeps.cut (a := c₀) (x := v8) ?_ (fun _ => ?_); unfold v8
    apply Chip.sendReports_keeps; apply Chip.announceAddrs_keeps; assumption; split; apply Chip.push_keeps
    apply Chip.put_keeps; assumption; assumption

theorem Chip.preemptVerify_keeps (c : Chip) (x : Nat) (ok : Bool) {c₀ : Chip} (hc : Keeps c₀ c) : Keeps c₀ (Chip.preemptVerify c x ok) := by
  unfold Chip.preemptVerify
  with_reducible
    split; assumption; apply Chip.modPort_keeps; apply Chip.put_keeps; assumption

theorem Chip.learn_keeps (c : Chip) (x : Nat) (a : Addr) (mac : Nat) {c₀ : Chip} (hc : Keeps c₀ c) : Keeps c₀ (Chip.learn c x a mac) := by
  unfold Chip.learn
  with_reducible
    apply Chip.modPort_keeps; assumption

theorem Chip.cacheExpire_keeps (c : Chip) (x : Nat) (a : Addr) {c₀ : Chip} (hc : Keeps c₀ c) : Keeps c₀ (Chip.cacheExpire c x a) := by
  unfold Chip.cacheExpire
  with_reducible
    apply Chip.modPort_keeps; assumption

theorem Chip.duplicate_keeps (c : Chip) (x : Nat) (a : Addr) {c₀ : Chip} (hc : Keeps c₀ c) : Keeps c₀ (Chip.duplicate c x a) := by
  unfold Chip.duplicate
  with_reducible
    split; apply Chip.putB_keeps; apply Chip.modPort_keeps; assumption; assumption

theorem Chip.dhcpRequest_keeps (c : Chip) (x : Nat) (dst : Addr) {c₀ : Chip} (hc : Keeps c₀ c) : Keeps c₀ (Chip.dhcpRequest c x dst) := by
  unfold Chip.dhcpRequest
  with_reducible
    split; apply Chip.push_keeps; assumption; assumption

theorem Chip.leaseExpire_keeps (c : Chip) (x : Nat) {c₀ : Chip} (hc : Keeps c₀ c) : Keeps c₀ (Chip.leaseExpire c x) := by
  unfold Chip.leaseExpire
  with_reducible
    split; assumption; extract_lets +onlyGivenNames v1
    refine Keeps.cut (a := c₀) (x := v1) ?_ (fun _ => ?_); unfold v1; apply Chip.put_keeps
    apply Chip.put_keeps; assumption; extract_lets +onlyGivenNames v2
    refine Keeps.cut (a := c₀) (x := v2) ?_ (fun _ => ?_); unfold v2; apply Chip.modPort_keeps; assumption
    apply Chip.push_keeps; assumption

theorem Chip.dhcpMessage_keeps (c : Chip) (x : Nat) (m : List Byte) {c₀ : Chip} (hc : Keeps c₀ c) : Keeps c₀ (Chip.dhcpMessage c x m) := by
  unfold Chip.dhcpMessage
  with_reducible
    extract_lets +onlyGivenNames v1; extract_lets +onlyGivenNames v2; clear_value v2; split; split
    assumption; apply Chip.push_keeps; assumption; extract_lets +onlyGivenNames v3
    refine Keeps.cut (a := c₀) (x := v3) ?_ (fun _ => ?_); unfold v3; apply Chip.put_keeps
    apply Chip.put_keeps; assumption; extract_lets +onlyGivenNames v4
    refine Keeps.cut (a := c₀) (x := v4) ?_ (fun _ => ?_); unfold v4; apply Chip.modPort_keeps; assumption
    apply Chip.announceAddrs_keeps; assumption; extract_lets +onlyGivenNames v5
    refine Keeps.cut (a := c₀) (x := v5) ?_ (fun _ => ?_); unfold v5; apply Chip.put_keeps
    apply Chip.put_keeps; assumption; apply Chip.push_keeps; assumption; assumption

theorem Chip.enterGate_keeps (c : Chip) (x i start : Nat) {c₀ : Chip} (hc : Keeps c₀ c) : Keeps c₀ (Chip.enterGate c x i start) := by
  unfold Chip.enterGate
  with_reducible
    split; apply Chip.modPort_keeps; assumption; apply Chip.modPort_keeps; assumption

theorem Chip.startLists_keeps (c : Chip) {c₀ : Chip} (hc : Keeps c₀ c) : Keeps c₀ (Chip.startLists c) := by
  unfold Chip.startLists
  with_reducible
    refine Keeps.foldl (fun _ _ _ => ?_) ?_; apply Chip.enterGate_keeps; assumption; assumption

theorem Chip.gclCourse_keeps (c : Chip) {c₀ : Chip} (hc : Keeps c₀ c) : Keeps c₀ (Chip.gclCourse c) := by
  unfold Chip.gclCourse
  with_reducible
    refine Keeps.foldl (fun _ _ _ => ?_) ?_; extract_lets +onlyGivenNames v1; clear_value v1; split
    apply Chip.enterGate_keeps; assumption; split; apply Chip.enterGate_keeps; assumption; assumption
    assumption

theorem Chip.pushTo_keeps (c : Chip) (x : Nat) (f : TxFrame) {c₀ : Chip} (hc : Keeps c₀ c) : Keeps c₀ (Chip.pushTo c x f) := by
  unfold Chip.pushTo
  with_reducible
    extract_lets +onlyGivenNames v1; clear_value v1; extract_lets +onlyGivenNames v2
    refine Keeps.cut (a := c₀) (x := v2) ?_ (fun _ => ?_); unfold v2; split; assumption
    apply Chip.push_keeps; assumption; apply Chip.push_keeps; assumption

theorem Chip.resumeFrame_keeps (c : Chip) (x : Nat) {c₀ : Chip} (hc : Keeps c₀ c) : Keeps c₀ (Chip.resumeFrame c x) := by
  unfold Chip.resumeFrame
  with_reducible
    split; split; apply Chip.modPort_keeps; assumption; assumption; assumption

theorem Chip.transmit_keeps (c : Chip) (x : Nat) {c₀ : Chip} (hc : Keeps c₀ c) : Keeps c₀ (Chip.transmit c x).1 := by
  unfold Chip.transmit
  with_reducible
    split; refine Keeps.pair₁ ?_; apply Chip.discardDown_keeps; assumption; split; refine Keeps.pair₁ ?_
    apply Chip.resumeFrame_keeps; assumption; extract_lets +onlyGivenNames v1; clear_value v1
    refine Keeps.pair₁ ?_; apply Chip.modPort_keeps; assumption

theorem Chip.preemptFrame_keeps (c : Chip) (x : Nat) {c₀ : Chip} (hc : Keeps c₀ c) : Keeps c₀ (Chip.preemptFrame c x) := by
  unfold Chip.preemptFrame
  with_reducible
    extract_lets +onlyGivenNames v1; clear_value v1; split; assumption; split; apply Chip.bump_keeps
    apply Chip.modPort_keeps; assumption; assumption

theorem Chip.gateEntry_keeps (c : Chip) (x : Nat) {c₀ : Chip} (hc : Keeps c₀ c) : Keeps c₀ (Chip.gateEntry c x) := by
  unfold Chip.gateEntry
  with_reducible
    extract_lets +onlyGivenNames v1; clear_value v1; split; assumption; extract_lets +onlyGivenNames v2
    clear_value v2; extract_lets +onlyGivenNames v3; clear_value v3; extract_lets +onlyGivenNames v4
    refine Keeps.cut (a := c₀) (x := v4) ?_ (fun _ => ?_); unfold v4; apply Chip.enterGate_keeps; assumption
    apply Chip.preemptFrame_keeps; assumption

theorem Chip.police_keeps (c : Chip) (x : Nat) (f : FrameIn) {c₀ : Chip} (hc : Keeps c₀ c) : Keeps c₀ (Chip.police c x f).2 := by
  unfold Chip.police
  with_reducible
    split; assumption; extract_lets +onlyGivenNames v1; clear_value v1; extract_lets +onlyGivenNames v2
    clear_value v2; extract_lets +onlyGivenNames v3; clear_value v3; extract_lets +onlyGivenNames v4
    clear_value v4; extract_lets +onlyGivenNames v5; extract_lets +onlyGivenNames v6; clear_value v6; split
    assumption; extract_lets +onlyGivenNames v7; clear_value v7; extract_lets +onlyGivenNames v8
    clear_value v8; refine Keeps.pair₂ ?_; apply Chip.modPort_keeps; assumption

theorem Chip.eliminate_keeps (c : Chip) (f : FrameIn) {c₀ : Chip} (hc : Keeps c₀ c) : Keeps c₀ (Chip.eliminate c f).2 := by
  unfold Chip.eliminate
  with_reducible
    split; extract_lets +onlyGivenNames v1; clear_value v1; extract_lets +onlyGivenNames v2; clear_value v2
    refine Keeps.pair₂ ?_; refine Keeps.mk₁ ?_; assumption; assumption

theorem Chip.frerReset_keeps (c : Chip) (i : Nat) {c₀ : Chip} (hc : Keeps c₀ c) : Keeps c₀ (Chip.frerReset c i) := by
  unfold Chip.frerReset
  with_reducible
    refine Keeps.mk₁ ?_; assumption

theorem Chip.echo_keeps (c : Chip) (x : Nat) (src : Addr) (ident num : Nat) (data : List Byte) {c₀ : Chip} (hc : Keeps c₀ c) : Keeps c₀ (Chip.echo c x src ident num data) := by
  unfold Chip.echo
  with_reducible
    extract_lets +onlyGivenNames v1; clear_value v1; extract_lets +onlyGivenNames v2; clear_value v2
    extract_lets +onlyGivenNames v3; clear_value v3; split; assumption; extract_lets +onlyGivenNames v4
    refine Keeps.cut (a := c₀) (x := v4) ?_ (fun _ => ?_); unfold v4; apply Chip.modPort_keeps; assumption
    apply Chip.pushTo_keeps; assumption

theorem Chip.udpIn_keeps (c : Chip) (x : Nat) (src : Addr) (sport dport : Nat) (payload : List Byte) {c₀ : Chip} (hc : Keeps c₀ c) : Keeps c₀ (Chip.udpIn c x src sport dport payload) := by
  unfold Chip.udpIn
  with_reducible
    split; apply Chip.dhcpMessage_keeps; assumption; split; extract_lets +onlyGivenNames v1; clear_value v1
    refine Keeps.mk₁ ?_; assumption; assumption

theorem Chip.l4In_keeps (c : Chip) (x : Nat) (src dst : Addr) (l : L4) {c₀ : Chip} (hc : Keeps c₀ c) : Keeps c₀ (Chip.l4In c x src dst l) := by
  unfold Chip.l4In
  with_reducible
    extract_lets +onlyGivenNames v1; clear_value v1; split; split; apply Chip.echo_keeps; assumption
    assumption; apply Chip.udpIn_keeps; assumption; apply Chip.sendReports_keeps; assumption; split
    apply Chip.push_keeps; assumption; assumption; assumption; assumption; assumption

theorem Chip.ipIn_keeps (c : Chip) (x : Nat) (f : FrameIn) {c₀ : Chip} (hc : Keeps c₀ c) : Keeps c₀ (Chip.ipIn c x f) := by
  unfold Chip.ipIn
  with_reducible
    split; extract_lets +onlyGivenNames v1; refine Keeps.cut (a := c₀) (x := v1) ?_ (fun _ => ?_); unfold v1
    apply Chip.learn_keeps; assumption; split; apply Chip.push_keeps; assumption; assumption
    apply Chip.learn_keeps; assumption; split; apply Chip.bump_keeps; assumption; apply Chip.l4In_keeps
    assumption; split; apply Chip.bump_keeps; assumption; extract_lets +onlyGivenNames v2
    refine Keeps.cut (a := c₀) (x := v2) ?_ (fun _ => ?_); unfold v2; split; apply Chip.learn_keeps
    assumption; apply Chip.learn_keeps; assumption; assumption; apply Chip.l4In_keeps; assumption
    assumption; assumption; assumption

theorem Chip.receive_keeps (c : Chip) (x : Nat) (f : FrameIn) {c₀ : Chip} (hc : Keeps c₀ c) : Keeps c₀ (Chip.receive c x f) := by
  unfold Chip.receive
  with_reducible
    split; assumption; split; apply Chip.bump_keeps; assumption; split; assumption; split
    apply Chip.bump_keeps; assumption; extract_lets +onlyGivenNames v1
    refine Keeps.cut (a := c₀) (x := v1.2) ?_ (fun _ => ?_); unfold v1; apply Chip.police_keeps; assumption
    split; apply Chip.bump_keeps; assumption; extract_lets +onlyGivenNames v2
    refine Keeps.cut (a := c₀) (x := v2) ?_ (fun _ => ?_); unfold v2; apply Chip.modPort_keeps; assumption
    extract_lets +onlyGivenNames v3; refine Keeps.cut (a := c₀) (x := v3.2) ?_ (fun _ => ?_); unfold v3
    apply Chip.eliminate_keeps; assumption; split; apply Chip.bump_keeps; assumption; split
    apply Chip.bump_keeps; assumption; apply Chip.ipIn_keeps; apply Chip.modHedge_keeps; assumption

theorem Chip.delayRequest_keeps (c : Chip) (x : Nat) {c₀ : Chip} (hc : Keeps c₀ c) : Keeps c₀ (Chip.delayRequest c x) := by
  unfold Chip.delayRequest
  with_reducible
    split; assumption; extract_lets +onlyGivenNames v1; clear_value v1; extract_lets +onlyGivenNames v2
    refine Keeps.cut (a := c₀) (x := v2) ?_ (fun _ => ?_); unfold v2; refine Keeps.mk₁ ?_; assumption
    apply Chip.push_keeps; assumption

theorem Chip.pdelayReq_keeps (c : Chip) (x : Nat) (_payload : List Byte) {c₀ : Chip} (hc : Keeps c₀ c) : Keeps c₀ (Chip.pdelayReq c x _payload) := by
  unfold Chip.pdelayReq
  with_reducible
    split; assumption; extract_lets +onlyGivenNames v1
    refine Keeps.cut (a := c₀) (x := v1) ?_ (fun _ => ?_); unfold v1; refine Keeps.mk₁ ?_; assumption
    apply Chip.push_keeps; assumption

theorem Chip.modSess_keeps (c : Chip) (s : Nat) (f : Session → Session) {c₀ : Chip} (hc : Keeps c₀ c) : Keeps c₀ (Chip.modSess c s f) := by
  unfold Chip.modSess
  with_reducible
    refine Keeps.mk₁ ?_; assumption

theorem Chip.showSpool_keeps (c : Chip) (s : Nat) {c₀ : Chip} (hc : Keeps c₀ c) : Keeps c₀ (Chip.showSpool c s) := by
  unfold Chip.showSpool
  with_reducible
    split; extract_lets +onlyGivenNames v1; clear_value v1; extract_lets +onlyGivenNames v2
    refine Keeps.cut (a := c₀) (x := v2) ?_ (fun _ => ?_); unfold v2; split; apply Chip.modSess_keeps
    assumption; assumption; extract_lets +onlyGivenNames v3; clear_value v3; apply Chip.put_keeps
    apply Chip.put_keeps; assumption; assumption

theorem Chip.giveSpool_keeps (c : Chip) (s n : Nat) {c₀ : Chip} (hc : Keeps c₀ c) : Keeps c₀ (Chip.giveSpool c s n) := by
  unfold Chip.giveSpool
  with_reducible
    apply Chip.showSpool_keeps; apply Chip.modSess_keeps; assumption

theorem Chip.addGap_keeps (c : Chip) (s cls item : Nat) (why : List Byte) {c₀ : Chip} (hc : Keeps c₀ c) : Keeps c₀ (Chip.addGap c s cls item why) := by
  unfold Chip.addGap
  with_reducible
    apply Chip.modSess_keeps; assumption

theorem Chip.addGaps_keeps (c : Chip) (s o item : Nat) (why : List Byte) {c₀ : Chip} (hc : Keeps c₀ c) : Keeps c₀ (Chip.addGaps c s o item why) := by
  unfold Chip.addGaps
  with_reducible
    refine Keeps.foldl (fun _ _ _ => ?_) ?_; apply Chip.addGap_keeps; assumption; assumption

theorem Chip.reserve_keeps (c : Chip) (d : Deliv) (o item : Nat) {c₀ : Chip} (hc : Keeps c₀ c) : Keeps c₀ (Chip.reserve c d o item).1 := by
  unfold Chip.reserve
  with_reducible
    extract_lets +onlyGivenNames v1; clear_value v1; extract_lets +onlyGivenNames v2; clear_value v2; split
    refine Keeps.pair₁ ?_; apply Chip.addGaps_keeps; assumption; split; refine Keeps.pair₁ ?_
    apply Chip.showSpool_keeps; apply Chip.modSess_keeps; assumption; split; refine Keeps.pair₁ ?_
    apply Chip.addGaps_keeps; assumption; split; extract_lets +onlyGivenNames v3
    refine Keeps.cut (a := c₀) (x := v3) ?_ (fun _ => ?_); unfold v3; apply Chip.bump_keeps; assumption
    refine Keeps.pair₁ ?_; apply Chip.showSpool_keeps; apply Chip.modSess_keeps; assumption
    extract_lets +onlyGivenNames v4; refine Keeps.cut (a := c₀) (x := v4) ?_ (fun _ => ?_); unfold v4
    apply Chip.bump_keeps; apply Chip.addGaps_keeps; assumption; assumption

theorem Chip.fixSessions_keeps (c : Chip) (o item : Nat) {c₀ : Chip} (hc : Keeps c₀ c) : Keeps c₀ (Chip.fixSessions c o item).1 := by
  unfold Chip.fixSessions
  with_reducible
    refine Keeps.foldlP (fun _ _ _ => ?_) ?_; split; assumption; extract_lets +onlyGivenNames v1
    refine Keeps.cut (a := c₀) (x := v1.1) ?_ (fun _ => ?_); unfold v1; apply Chip.reserve_keeps; assumption
    split; assumption; assumption; assumption

theorem Chip.takeItem_keeps (c : Chip) (i : Item) {c₀ : Chip} (hc : Keeps c₀ c) : Keeps c₀ (Chip.takeItem c i) := by
  unfold Chip.takeItem
  with_reducible
    extract_lets +onlyGivenNames v1; clear_value v1; extract_lets +onlyGivenNames v2
    refine Keeps.cut (a := c₀) (x := v2.1) ?_ (fun _ => ?_); unfold v2; apply Chip.fixSessions_keeps
    assumption; extract_lets +onlyGivenNames v3; clear_value v3; extract_lets +onlyGivenNames v4
    clear_value v4; apply Chip.updItems_keeps; assumption

theorem Chip.form_keeps (c : Chip) (i : Item) (d : Deliv) (kind : Nat) (bytes : List Byte) {c₀ : Chip} (hc : Keeps c₀ c) : Keeps c₀ (Chip.form c i d kind bytes) := by
  unfold Chip.form
  with_reducible
    extract_lets +onlyGivenNames v1; refine Keeps.cut (a := c₀) (x := v1) ?_ (fun _ => ?_); unfold v1
    refine Keeps.mk₁ ?_; assumption; apply Chip.modItem_keeps; assumption

theorem Chip.formLoose_keeps (c : Chip) (s kind : Nat) (bytes : List Byte) {c₀ : Chip} (hc : Keeps c₀ c) : Keeps c₀ (Chip.formLoose c s kind bytes) := by
  unfold Chip.formLoose
  with_reducible
    refine Keeps.mk₁ ?_; assumption

theorem Chip.formBegin_keeps (c : Chip) (n : Nat) {c₀ : Chip} (hc : Keeps c₀ c) : Keeps c₀ (Chip.formBegin c n) := by
  unfold Chip.formBegin
  with_reducible
    split; assumption; split; assumption; extract_lets +onlyGivenNames v1
    refine Keeps.cut (a := c₀) (x := v1) ?_ (fun _ => ?_); unfold v1; apply Chip.modItem_keeps; assumption
    refine Keeps.foldl (fun _ _ _ => ?_) ?_; split; assumption; apply Chip.form_keeps; assumption
    assumption

theorem Chip.formField_keeps (c : Chip) (n k : Nat) {c₀ : Chip} (hc : Keeps c₀ c) : Keeps c₀ (Chip.formField c n k) := by
  unfold Chip.formField
  with_reducible
    split; assumption; split; assumption; extract_lets +onlyGivenNames v1; clear_value v1
    extract_lets +onlyGivenNames v2; clear_value v2; refine Keeps.foldl (fun _ _ _ => ?_) ?_; split
    assumption; extract_lets +onlyGivenNames v3; clear_value v3; split; apply Chip.form_keeps; assumption
    extract_lets +onlyGivenNames v4; clear_value v4; apply Chip.modItem_keeps; apply Chip.form_keeps
    assumption; assumption

theorem Chip.formPart_keeps (c : Chip) (n k off : Nat) (chunk : List Byte) {c₀ : Chip} (hc : Keeps c₀ c) : Keeps c₀ (Chip.formPart c n k off chunk) := by
  unfold Chip.formPart
  with_reducible
    split; assumption; split; assumption; refine Keeps.foldl (fun _ _ _ => ?_) ?_
    extract_lets +onlyGivenNames v1; clear_value v1; split; assumption; apply Chip.form_keeps; assumption
    assumption

theorem Chip.refreshHold_keeps (c : Chip) (k : Nat) {c₀ : Chip} (hc : Keeps c₀ c) : Keeps c₀ (Chip.refreshHold c k) := by
  unfold Chip.refreshHold
  with_reducible
    extract_lets +onlyGivenNames v1; clear_value v1; extract_lets +onlyGivenNames v2
    extract_lets +onlyGivenNames v3; refine Keeps.cut (a := c₀) (x := v3) ?_ (fun _ => ?_); unfold v3
    apply Chip.putB_keeps; assumption; extract_lets +onlyGivenNames v4
    refine Keeps.cut (a := c₀) (x := v4) ?_ (fun _ => ?_); unfold v4; apply Chip.putB_keeps; assumption
    extract_lets +onlyGivenNames v5; refine Keeps.cut (a := c₀) (x := v5) ?_ (fun _ => ?_); unfold v5
    apply Chip.putB_keeps; assumption; extract_lets +onlyGivenNames v6
    refine Keeps.cut (a := c₀) (x := v6) ?_ (fun _ => ?_); unfold v6; apply Chip.putB_keeps; assumption
    extract_lets +onlyGivenNames v7; refine Keeps.cut (a := c₀) (x := v7) ?_ (fun _ => ?_); unfold v7
    apply Chip.putB_keeps; assumption; extract_lets +onlyGivenNames v8
    refine Keeps.cut (a := c₀) (x := v8) ?_ (fun _ => ?_); unfold v8; apply Chip.putB_keeps; assumption
    split; split; assumption; apply Chip.modTransport_keeps; apply Chip.putB_keeps; assumption; split
    apply Chip.putB_keeps; assumption; split; apply Chip.modTransport_keeps; apply Chip.putB_keeps
    assumption; assumption

theorem Chip.refreshHolds_keeps (c : Chip) {c₀ : Chip} (hc : Keeps c₀ c) : Keeps c₀ (Chip.refreshHolds c) := by
  unfold Chip.refreshHolds
  with_reducible
    split; refine Keeps.foldl (fun _ _ _ => ?_) ?_; apply Chip.refreshHold_keeps; assumption; assumption
    assumption

theorem Chip.holdMinExpire_keeps (c : Chip) (k : Nat) {c₀ : Chip} (hc : Keeps c₀ c) : Keeps c₀ (Chip.holdMinExpire c k) := by
  unfold Chip.holdMinExpire
  with_reducible
    split; assumption; split; apply Chip.modTransport_keeps; apply Chip.refreshHold_keeps; assumption
    apply Chip.modTransport_keeps; apply Chip.putB_keeps; assumption

theorem Chip.grant_keeps (c : Chip) (s : Nat) {c₀ : Chip} (hc : Keeps c₀ c) : Keeps c₀ (Chip.grant c s) := by
  unfold Chip.grant
  with_reducible
    extract_lets +onlyGivenNames v1; clear_value v1; split; assumption; split; assumption
    extract_lets +onlyGivenNames v2; clear_value v2; extract_lets +onlyGivenNames v3
    refine Keeps.cut (a := c₀) (x := v3) ?_ (fun _ => ?_); unfold v3; apply Chip.modSubm_keeps; assumption
    apply Chip.formLoose_keeps; assumption

theorem Chip.creditReturn_keeps (c : Chip) (n : Nat) {c₀ : Chip} (hc : Keeps c₀ c) : Keeps c₀ (Chip.creditReturn c n) := by
  unfold Chip.creditReturn
  with_reducible
    split; assumption; extract_lets +onlyGivenNames v1
    refine Keeps.cut (a := c₀) (x := v1) ?_ (fun _ => ?_); unfold v1; apply Chip.updItems_keeps; assumption
    extract_lets +onlyGivenNames v2; refine Keeps.cut (a := c₀) (x := v2) ?_ (fun _ => ?_); unfold v2
    apply Chip.updSched_keeps; assumption; extract_lets +onlyGivenNames v3
    refine Keeps.cut (a := c₀) (x := v3) ?_ (fun _ => ?_); unfold v3; apply Chip.modStream_keeps; assumption
    split; split; apply Chip.put_keeps; assumption; split; apply Chip.putB_keeps; assumption; assumption
    extract_lets +onlyGivenNames v4; clear_value v4; extract_lets +onlyGivenNames v5
    refine Keeps.cut (a := c₀) (x := v5) ?_ (fun _ => ?_); unfold v5; split; apply Chip.modSubm_keeps
    assumption; assumption; apply Chip.grant_keeps; assumption

theorem Chip.sessionDone_keeps (c : Chip) (s n : Nat) {c₀ : Chip} (hc : Keeps c₀ c) : Keeps c₀ (Chip.sessionDone c s n) := by
  unfold Chip.sessionDone
  with_reducible
    split; assumption; extract_lets +onlyGivenNames v1; clear_value v1; extract_lets +onlyGivenNames v2
    refine Keeps.cut (a := c₀) (x := v2) ?_ (fun _ => ?_); unfold v2; apply Chip.modItem_keeps; assumption
    split; apply Chip.creditReturn_keeps; assumption; assumption

theorem Chip.endCore_keeps (c : Chip) (n : Nat) (v : Verdict) {c₀ : Chip} (hc : Keeps c₀ c) : Keeps c₀ (Chip.endCore c n v) := by
  unfold Chip.endCore
  with_reducible
    split; assumption; split; assumption; extract_lets +onlyGivenNames v1; clear_value v1
    extract_lets +onlyGivenNames v2; refine Keeps.cut (a := c₀) (x := v2) ?_ (fun _ => ?_); unfold v2
    apply Chip.formBegin_keeps; assumption; extract_lets +onlyGivenNames v3
    refine Keeps.cut (a := c₀) (x := v3) ?_ (fun _ => ?_); unfold v3; apply Chip.bump_keeps; assumption
    extract_lets +onlyGivenNames v4; refine Keeps.cut (a := c₀) (x := v4) ?_ (fun _ => ?_); unfold v4
    apply Chip.modItem_keeps; assumption; extract_lets +onlyGivenNames v5
    refine Keeps.cut (a := c₀) (x := v5) ?_ (fun _ => ?_); unfold v5; split; assumption
    refine Keeps.foldl (fun _ _ _ => ?_) ?_; apply Chip.formField_keeps; assumption; assumption; split
    assumption; extract_lets +onlyGivenNames v6; clear_value v6; extract_lets +onlyGivenNames v7
    refine Keeps.cut (a := c₀) (x := v7) ?_ (fun _ => ?_); unfold v7
    refine Keeps.foldl (fun _ _ _ => ?_) ?_; split; assumption; apply Chip.form_keeps; assumption
    assumption; split; assumption; extract_lets +onlyGivenNames v8
    refine Keeps.cut (a := c₀) (x := v8) ?_ (fun _ => ?_); unfold v8
    refine Keeps.foldl (fun _ _ _ => ?_) ?_; split; assumption; apply Chip.giveSpool_keeps; assumption
    assumption; extract_lets +onlyGivenNames v9; clear_value v9; extract_lets +onlyGivenNames v10
    clear_value v10; extract_lets +onlyGivenNames v11
    refine Keeps.cut (a := c₀) (x := v11) ?_ (fun _ => ?_); unfold v11; apply Chip.modItem_keeps; assumption
    extract_lets +onlyGivenNames v12; refine Keeps.cut (a := c₀) (x := v12) ?_ (fun _ => ?_); unfold v12
    apply Chip.updItems_keeps; assumption; split; apply Chip.creditReturn_keeps; assumption; assumption

theorem Chip.endSoon_keeps (c : Chip) (n : Nat) (v : Verdict) {c₀ : Chip} (hc : Keeps c₀ c) : Keeps c₀ (Chip.endSoon c n v) := by
  unfold Chip.endSoon
  with_reducible
    apply Chip.modItem_keeps; assumption

theorem Chip.takeIn_keeps (c : Chip) (d : DgIn) {c₀ : Chip} (hc : Keeps c₀ c) : Keeps c₀ (Chip.takeIn c d) := by
  unfold Chip.takeIn
  with_reducible
    refine Keeps.mk₁ ?_; assumption

theorem Chip.badDgram_keeps (c : Chip) {c₀ : Chip} (hc : Keeps c₀ c) : Keeps c₀ (Chip.badDgram c) := by
  unfold Chip.badDgram
  with_reducible
    apply Chip.bump_keeps; assumption

theorem Chip.sendCtl_keeps (c : Chip) (s type : Nat) (recs : List Byte) {c₀ : Chip} (hc : Keeps c₀ c) : Keeps c₀ (Chip.sendCtl c s type recs) := by
  unfold Chip.sendCtl
  with_reducible
    extract_lets +onlyGivenNames v1; clear_value v1; extract_lets +onlyGivenNames v2; clear_value v2
    extract_lets +onlyGivenNames v3; refine Keeps.cut (a := c₀) (x := v3) ?_ (fun _ => ?_); unfold v3
    apply Chip.modSess_keeps; assumption; apply Chip.pushTo_keeps; assumption

theorem Chip.sendData_keeps (c : Chip) (s : Nat) (lane1 : Bool) (o : OutDg) {c₀ : Chip} (hc : Keeps c₀ c) : Keeps c₀ (Chip.sendData c s lane1 o) := by
  unfold Chip.sendData
  with_reducible
    extract_lets +onlyGivenNames v1; clear_value v1; extract_lets +onlyGivenNames v2; clear_value v2
    extract_lets +onlyGivenNames v3; clear_value v3; extract_lets +onlyGivenNames v4; clear_value v4
    extract_lets +onlyGivenNames v5; clear_value v5; extract_lets +onlyGivenNames v6
    refine Keeps.cut (a := c₀) (x := v6) ?_ (fun _ => ?_); unfold v6; split; assumption
    apply Chip.modSess_keeps; assumption; split; apply Chip.pushTo_keeps; assumption
    extract_lets +onlyGivenNames v7; clear_value v7; extract_lets +onlyGivenNames v8; clear_value v8
    extract_lets +onlyGivenNames v9; refine Keeps.cut (a := c₀) (x := v9) ?_ (fun _ => ?_); unfold v9
    refine Keeps.mk₁ ?_; assumption; refine Keeps.foldl (fun _ _ _ => ?_) ?_; apply Chip.pushTo_keeps
    assumption; assumption

theorem Chip.modOut_keeps (c : Chip) (s : Nat) (lane1 : Bool) (num : Nat) (f : OutDg → OutDg) {c₀ : Chip} (hc : Keeps c₀ c) : Keeps c₀ (Chip.modOut c s lane1 num f) := by
  unfold Chip.modOut
  with_reducible
    apply Chip.modSess_keeps; assumption

theorem Chip.pump_keeps (c : Chip) (s : Nat) (lane1 : Bool) {c₀ : Chip} (hc : Keeps c₀ c) : Keeps c₀ (Chip.pump c s lane1) := by
  unfold Chip.pump
  with_reducible
    extract_lets +onlyGivenNames v1; split; assumption; refine Keeps.foldl (fun _ _ _ => ?_) ?_; split
    assumption; extract_lets +onlyGivenNames v2; refine Keeps.cut (a := c₀) (x := v2) ?_ (fun _ => ?_)
    unfold v2; apply Chip.modOut_keeps; assumption; apply Chip.sendData_keeps; assumption; assumption

theorem Chip.addOut_keeps (c : Chip) (s : Nat) (lane1 : Bool) (recs : List Byte) (recOff : Nat) (ps : List Formed) {c₀ : Chip} (hc : Keeps c₀ c) : Keeps c₀ (Chip.addOut c s lane1 recs recOff ps) := by
  unfold Chip.addOut
  with_reducible
    extract_lets +onlyGivenNames v1; clear_value v1; extract_lets +onlyGivenNames v2; clear_value v2
    extract_lets +onlyGivenNames v3; clear_value v3; extract_lets +onlyGivenNames v4; clear_value v4
    extract_lets +onlyGivenNames v5; clear_value v5; apply Chip.modSess_keeps; assumption

theorem Chip.build0_keeps (c : Chip) (s : Nat) (l : List Formed) {c₀ : Chip} (hc : Keeps c₀ c) : Keeps c₀ (Chip.build0 c s l) := by
  unfold Chip.build0
  with_reducible
    extract_lets +onlyGivenNames v1; clear_value v1; extract_lets +onlyGivenNames v2; clear_value v2
    extract_lets +onlyGivenNames v3; clear_value v3; extract_lets +onlyGivenNames v4; clear_value v4
    refine Keeps.foldl (fun _ _ _ => ?_) ?_; extract_lets +onlyGivenNames v5; clear_value v5
    extract_lets +onlyGivenNames v6; clear_value v6; extract_lets +onlyGivenNames v7; clear_value v7
    extract_lets +onlyGivenNames v8; clear_value v8; apply Chip.addOut_keeps; assumption; assumption

theorem Chip.build1_keeps (c : Chip) (s : Nat) (l : List Formed) {c₀ : Chip} (hc : Keeps c₀ c) : Keeps c₀ (Chip.build1 c s l) := by
  unfold Chip.build1
  with_reducible
    extract_lets +onlyGivenNames v1; clear_value v1; refine Keeps.foldl (fun _ _ _ => ?_) ?_
    apply Chip.addOut_keeps; assumption; assumption

theorem Chip.gapRecs_keeps (c : Chip) (s : Nat) {c₀ : Chip} (hc : Keeps c₀ c) : Keeps c₀ (Chip.gapRecs c s).1 := by
  unfold Chip.gapRecs
  with_reducible
    extract_lets +onlyGivenNames v1; clear_value v1; split; assumption; extract_lets +onlyGivenNames v2
    clear_value v2; extract_lets +onlyGivenNames v3; refine Keeps.cut (a := c₀) (x := v3) ?_ (fun _ => ?_)
    unfold v3; apply Chip.modSess_keeps; assumption; refine Keeps.pair₁ ?_; apply Chip.bump_keeps
    assumption

theorem Chip.build_keeps (c : Chip) (formed : List Formed) {c₀ : Chip} (hc : Keeps c₀ c) : Keeps c₀ (Chip.build c formed) := by
  unfold Chip.build
  with_reducible
    refine Keeps.foldl (fun _ _ _ => ?_) ?_; split; assumption; extract_lets +onlyGivenNames v1
    clear_value v1; extract_lets +onlyGivenNames v2; refine Keeps.cut (a := c₀) (x := v2.1) ?_ (fun _ => ?_)
    unfold v2; apply Chip.gapRecs_keeps; assumption; split; assumption; extract_lets +onlyGivenNames v3
    clear_value v3; extract_lets +onlyGivenNames v4; refine Keeps.cut (a := c₀) (x := v4) ?_ (fun _ => ?_)
    unfold v4; apply Chip.build0_keeps; assumption; extract_lets +onlyGivenNames v5
    refine Keeps.cut (a := c₀) (x := v5) ?_ (fun _ => ?_); unfold v5; apply Chip.build1_keeps; assumption
    apply Chip.pump_keeps; apply Chip.pump_keeps; assumption; assumption

theorem Chip.resume_keeps (c : Chip) (s : Nat) {c₀ : Chip} (hc : Keeps c₀ c) : Keeps c₀ (Chip.resume c s) := by
  unfold Chip.resume
  with_reducible
    split; apply Chip.putB_keeps; assumption; assumption

theorem Chip.applyAck_keeps (c : Chip) (s : Nat) (lane1 : Bool) (ack : Nat) {c₀ : Chip} (hc : Keeps c₀ c) : Keeps c₀ (Chip.applyAck c s lane1 ack) := by
  unfold Chip.applyAck
  with_reducible
    extract_lets +onlyGivenNames v1; clear_value v1; split; assumption; extract_lets +onlyGivenNames v2
    clear_value v2; extract_lets +onlyGivenNames v3; refine Keeps.cut (a := c₀) (x := v3) ?_ (fun _ => ?_)
    unfold v3; apply Chip.modSess_keeps; assumption; extract_lets +onlyGivenNames v4
    refine Keeps.cut (a := c₀) (x := v4) ?_ (fun _ => ?_); unfold v4; split; apply Chip.giveSpool_keeps
    assumption; assumption; extract_lets +onlyGivenNames v5
    refine Keeps.cut (a := c₀) (x := v5) ?_ (fun _ => ?_); unfold v5; apply Chip.resume_keeps
    apply Chip.modSess_keeps; assumption; refine Keeps.foldl (fun _ _ _ => ?_) ?_
    apply Chip.sessionDone_keeps; assumption; assumption

theorem Chip.applyLimit_keeps (c : Chip) (s : Nat) (lane1 : Bool) (limit : Nat) {c₀ : Chip} (hc : Keeps c₀ c) : Keeps c₀ (Chip.applyLimit c s lane1 limit) := by
  unfold Chip.applyLimit
  with_reducible
    extract_lets +onlyGivenNames v1; clear_value v1; extract_lets +onlyGivenNames v2; clear_value v2
    extract_lets +onlyGivenNames v3; clear_value v3; extract_lets +onlyGivenNames v4
    refine Keeps.cut (a := c₀) (x := v4) ?_ (fun _ => ?_); unfold v4; split; apply Chip.bump_keeps
    assumption; assumption; extract_lets +onlyGivenNames v5; clear_value v5; split
    extract_lets +onlyGivenNames v6; refine Keeps.cut (a := c₀) (x := v6) ?_ (fun _ => ?_); unfold v6
    apply Chip.modSess_keeps; assumption; apply Chip.resume_keeps; assumption; assumption

theorem Chip.resend_keeps (c : Chip) (s : Nat) (lane1 : Bool) (o : OutDg) (rto : Nat) {c₀ : Chip} (hc : Keeps c₀ c) : Keeps c₀ (Chip.resend c s lane1 o rto) := by
  unfold Chip.resend
  with_reducible
    extract_lets +onlyGivenNames v1; clear_value v1; extract_lets +onlyGivenNames v2
    refine Keeps.cut (a := c₀) (x := v2) ?_ (fun _ => ?_); unfold v2; apply Chip.modOut_keeps; assumption
    extract_lets +onlyGivenNames v3; refine Keeps.cut (a := c₀) (x := v3) ?_ (fun _ => ?_); unfold v3; split
    apply Chip.bump_keeps; assumption; assumption; apply Chip.sendData_keeps; assumption

theorem Chip.applyBitmap_keeps (c : Chip) (s : Nat) (lane1 : Bool) (ack bits : Nat) {c₀ : Chip} (hc : Keeps c₀ c) : Keeps c₀ (Chip.applyBitmap c s lane1 ack bits) := by
  unfold Chip.applyBitmap
  with_reducible
    extract_lets +onlyGivenNames v1; clear_value v1; extract_lets +onlyGivenNames v2; clear_value v2; split
    assumption; refine Keeps.foldl (fun _ _ _ => ?_) ?_; split; apply Chip.resend_keeps; assumption
    assumption; assumption

theorem Chip.applyHdr_keeps (c : Chip) (s : Nat) (h : Hdr) {c₀ : Chip} (hc : Keeps c₀ c) : Keeps c₀ (Chip.applyHdr c s h) := by
  unfold Chip.applyHdr
  with_reducible
    extract_lets +onlyGivenNames v1; refine Keeps.cut (a := c₀) (x := v1) ?_ (fun _ => ?_); unfold v1
    apply Chip.modSess_keeps; assumption; split; assumption; extract_lets +onlyGivenNames v2
    refine Keeps.cut (a := c₀) (x := v2) ?_ (fun _ => ?_); unfold v2; apply Chip.applyAck_keeps; assumption
    extract_lets +onlyGivenNames v3; refine Keeps.cut (a := c₀) (x := v3) ?_ (fun _ => ?_); unfold v3
    apply Chip.applyLimit_keeps; assumption; extract_lets +onlyGivenNames v4
    refine Keeps.cut (a := c₀) (x := v4) ?_ (fun _ => ?_); unfold v4; split; apply Chip.applyBitmap_keeps
    assumption; assumption; apply Chip.pump_keeps; assumption

theorem Chip.jrtAck_keeps (c : Chip) (d : DgIn) {c₀ : Chip} (hc : Keeps c₀ c) : Keeps c₀ (Chip.jrtAck c d) := by
  unfold Chip.jrtAck
  with_reducible
    extract_lets +onlyGivenNames v1; refine Keeps.cut (a := c₀) (x := v1) ?_ (fun _ => ?_); unfold v1
    apply Chip.takeIn_keeps; assumption; split; apply Chip.badDgram_keeps; assumption; split
    apply Chip.badDgram_keeps; assumption; split; apply Chip.badDgram_keeps; assumption
    apply Chip.applyHdr_keeps; assumption

theorem Chip.showMand_keeps (c : Chip) {c₀ : Chip} (hc : Keeps c₀ c) : Keeps c₀ (Chip.showMand c) := by
  unfold Chip.showMand
  with_reducible
    apply foldN_keeps; assumption; intro _ _ _; split; apply Chip.put_keeps; assumption; assumption

theorem Chip.subscribe_keeps (c : Chip) (s cls mode : Nat) {c₀ : Chip} (hc : Keeps c₀ c) : Keeps c₀ (Chip.subscribe c s cls mode) := by
  unfold Chip.subscribe
  with_reducible
    extract_lets +onlyGivenNames v1; extract_lets +onlyGivenNames v2; split; unfold v1
    apply Chip.formLoose_keeps; assumption; split; unfold v1; apply Chip.formLoose_keeps; assumption
    extract_lets +onlyGivenNames v3; clear_value v3; extract_lets +onlyGivenNames v4; clear_value v4
    extract_lets +onlyGivenNames v5; refine Keeps.cut (a := c₀) (x := v5) ?_ (fun _ => ?_); unfold v5
    apply Chip.put_keeps; assumption; extract_lets +onlyGivenNames v6
    refine Keeps.cut (a := c₀) (x := v6) ?_ (fun _ => ?_); unfold v6; apply Chip.put_keeps; assumption
    unfold v1; apply Chip.formLoose_keeps; apply Chip.showMand_keeps; assumption

theorem Chip.peerAct_keeps (c : Chip) (s : Nat) (r : PeerRec) {c₀ : Chip} (hc : Keeps c₀ c) : KeepsO c₀ (c.peerAct s r) := by
  unfold Chip.peerAct
  with_reducible
    split; split; refine KeepsO.mk ?_; apply Chip.subscribe_keeps; assumption; exact KeepsO.none; split
    refine KeepsO.mk ?_; apply Chip.modSess_keeps; assumption; exact KeepsO.none; split; refine KeepsO.mk ?_
    apply Chip.modSess_keeps; assumption; exact KeepsO.none

theorem Chip.parseRecs_keeps (s n : Nat) (c : Chip) (l : List Byte) {c₀ : Chip} (hc : Keeps c₀ c) : Keeps c₀ (Chip.parseRecs s n c l) := by
  induction n generalizing c l with
  | zero => exact hc
  | succ n ih =>
    unfold Chip.parseRecs
    with_reducible
      split; apply Chip.modSess_keeps; assumption; split; apply Chip.modSess_keeps; assumption
      apply Chip.modSess_keeps; apply Chip.bump_keeps; assumption; split; apply ih
      refine Keeps.some (by assumption) ?_; refine KeepsO.bind (fun _ => ?_); apply Chip.peerAct_keeps
      assumption; apply Chip.modSess_keeps; apply Chip.bump_keeps; assumption

theorem Chip.deliver_keeps (c : Chip) (s : Nat) (recs : List Byte) (off : Nat) (rx : Stamp) {c₀ : Chip} (hc : Keeps c₀ c) : Keeps c₀ (Chip.deliver c s recs off rx) := by
  unfold Chip.deliver
  with_reducible
    extract_lets +onlyGivenNames v1; clear_value v1; extract_lets +onlyGivenNames v2
    refine Keeps.cut (a := c₀) (x := v2) ?_ (fun _ => ?_); unfold v2; apply Chip.modSess_keeps; assumption
    split; split; assumption; apply Chip.parseRecs_keeps; apply Chip.modSess_keeps; assumption
    extract_lets +onlyGivenNames v3; clear_value v3; apply Chip.parseRecs_keeps; assumption

theorem Chip.deliverLater_keeps (s n : Nat) (c : Chip) {c₀ : Chip} (hc : Keeps c₀ c) : Keeps c₀ (Chip.deliverLater s n c) := by
  induction n generalizing c with
  | zero => exact hc
  | succ n ih =>
    unfold Chip.deliverLater
    with_reducible
      extract_lets +onlyGivenNames v1; clear_value v1; split; assumption; extract_lets +onlyGivenNames v2
      refine Keeps.cut (a := c₀) (x := v2) ?_ (fun _ => ?_); unfold v2; apply Chip.modSess_keeps; assumption
      apply ih; apply Chip.deliver_keeps; assumption

theorem Chip.jrtData_keeps (c : Chip) (d : DgIn) {c₀ : Chip} (hc : Keeps c₀ c) : Keeps c₀ (Chip.jrtData c d) := by
  unfold Chip.jrtData
  with_reducible
    extract_lets +onlyGivenNames v1; clear_value v1; extract_lets +onlyGivenNames v2
    refine Keeps.cut (a := c₀) (x := v2) ?_ (fun _ => ?_); unfold v2; apply Chip.takeIn_keeps; assumption
    split; apply Chip.badDgram_keeps; assumption; split; apply Chip.badDgram_keeps; assumption; split
    apply Chip.badDgram_keeps; assumption; extract_lets +onlyGivenNames v3
    refine Keeps.cut (a := c₀) (x := v3) ?_ (fun _ => ?_); unfold v3; apply Chip.modSess_keeps
    apply Chip.applyHdr_keeps; assumption; extract_lets +onlyGivenNames v4; clear_value v4; split
    apply Chip.badDgram_keeps; assumption; split; apply Chip.modSess_keeps; assumption; split
    apply Chip.deliverLater_keeps; apply Chip.deliver_keeps; assumption; split; apply Chip.modSess_keeps
    assumption; apply Chip.modSess_keeps; assumption

theorem Chip.showFree_keeps (c : Chip) {c₀ : Chip} (hc : Keeps c₀ c) : Keeps c₀ (Chip.showFree c) := by
  unfold Chip.showFree
  with_reducible
    apply Chip.put_keeps; assumption

theorem Chip.showBinding_keeps (c : Chip) (s : Nat) {c₀ : Chip} (hc : Keeps c₀ c) : Keeps c₀ (Chip.showBinding c s) := by
  unfold Chip.showBinding
  with_reducible
    extract_lets +onlyGivenNames v1; clear_value v1; split; extract_lets +onlyGivenNames v2
    refine Keeps.cut (a := c₀) (x := v2) ?_ (fun _ => ?_); unfold v2
    refine Keeps.foldl (fun _ _ _ => ?_) ?_; apply Chip.setWord_keeps; apply Chip.setWord_keeps; assumption
    assumption; extract_lets +onlyGivenNames v3; clear_value v3; extract_lets +onlyGivenNames v4
    refine Keeps.cut (a := c₀) (x := v4) ?_ (fun _ => ?_); unfold v4; apply Chip.setWord_keeps; assumption
    extract_lets +onlyGivenNames v5; refine Keeps.cut (a := c₀) (x := v5) ?_ (fun _ => ?_); unfold v5; split
    assumption; apply Chip.setWord_keeps; assumption; split; apply Chip.putB_keeps; apply Chip.put_keeps
    assumption; assumption

theorem Chip.bind_keeps (c : Chip) (d : DgIn) (r : OpenReq) (s : Nat) {c₀ : Chip} (hc : Keeps c₀ c) : Keeps c₀ (Chip.bind c d r s) := by
  unfold Chip.bind
  with_reducible
    extract_lets +onlyGivenNames v1; clear_value v1; extract_lets +onlyGivenNames v2; clear_value v2
    extract_lets +onlyGivenNames v3; clear_value v3; extract_lets +onlyGivenNames v4; clear_value v4
    extract_lets +onlyGivenNames v5; clear_value v5; extract_lets +onlyGivenNames v6; clear_value v6
    extract_lets +onlyGivenNames v7; clear_value v7; extract_lets +onlyGivenNames v8
    refine Keeps.cut (a := c₀) (x := v8) ?_ (fun _ => ?_); unfold v8; apply Chip.showBinding_keeps
    apply Chip.modSess_keeps; assumption; extract_lets +onlyGivenNames v9
    refine Keeps.cut (a := c₀) (x := v9) ?_ (fun _ => ?_); unfold v9; apply Chip.setWord_keeps; assumption
    split; extract_lets +onlyGivenNames v10; refine Keeps.cut (a := c₀) (x := v10) ?_ (fun _ => ?_)
    unfold v10; apply Chip.put_keeps; apply Chip.put_keeps; assumption; extract_lets +onlyGivenNames v11
    refine Keeps.cut (a := c₀) (x := v11) ?_ (fun _ => ?_); unfold v11; apply Chip.bump_keeps; assumption
    apply Chip.showFree_keeps; apply Chip.showSpool_keeps; apply Chip.put_keeps; assumption
    extract_lets +onlyGivenNames v12; clear_value v12; extract_lets +onlyGivenNames v13
    refine Keeps.cut (a := c₀) (x := v13) ?_ (fun _ => ?_); unfold v13; apply Chip.modSubm_keeps; assumption
    apply Chip.grant_keeps; assumption

theorem Chip.jrtOpen_keeps (c : Chip) (d : DgIn) {c₀ : Chip} (hc : Keeps c₀ c) : Keeps c₀ (Chip.jrtOpen c d) := by
  unfold Chip.jrtOpen
  with_reducible
    extract_lets +onlyGivenNames v1; refine Keeps.cut (a := c₀) (x := v1) ?_ (fun _ => ?_); unfold v1
    apply Chip.takeIn_keeps; assumption; extract_lets +onlyGivenNames v2; split; apply Chip.badDgram_keeps
    assumption; split; apply Chip.badDgram_keeps; assumption; split; unfold v2; apply Chip.pushTo_keeps
    assumption; extract_lets +onlyGivenNames v3; split; unfold v3; unfold v2; apply Chip.pushTo_keeps
    apply Chip.bump_keeps; assumption; extract_lets +onlyGivenNames v4; clear_value v4; split; unfold v3
    unfold v2; apply Chip.pushTo_keeps; apply Chip.bump_keeps; assumption; extract_lets +onlyGivenNames v5
    refine Keeps.cut (a := c₀) (x := v5) ?_ (fun _ => ?_); unfold v5; apply Chip.bind_keeps; assumption
    unfold v2; apply Chip.pushTo_keeps; assumption

theorem Chip.abandon_keeps (c : Chip) (s : Nat) {c₀ : Chip} (hc : Keeps c₀ c) : Keeps c₀ (Chip.abandon c s) := by
  unfold Chip.abandon
  with_reducible
    refine Keeps.foldl (fun _ _ _ => ?_) ?_; extract_lets +onlyGivenNames v1
    refine Keeps.cut (a := c₀) (x := v1) ?_ (fun _ => ?_); unfold v1; apply Chip.bump_keeps; assumption
    extract_lets +onlyGivenNames v2; refine Keeps.cut (a := c₀) (x := v2) ?_ (fun _ => ?_); unfold v2
    apply Chip.modItem_keeps; assumption; apply Chip.sessionDone_keeps; assumption; refine Keeps.mk₁ ?_
    assumption

theorem Chip.closeSess_keeps (c : Chip) (s : Nat) {c₀ : Chip} (hc : Keeps c₀ c) : Keeps c₀ (Chip.closeSess c s) := by
  unfold Chip.closeSess
  with_reducible
    extract_lets +onlyGivenNames v1; clear_value v1; split; assumption; extract_lets +onlyGivenNames v2
    refine Keeps.cut (a := c₀) (x := v2) ?_ (fun _ => ?_); unfold v2; split; apply Chip.abandon_keeps
    assumption; refine Keeps.mk₁ ?_; assumption; extract_lets +onlyGivenNames v3; clear_value v3
    extract_lets +onlyGivenNames v4; refine Keeps.cut (a := c₀) (x := v4) ?_ (fun _ => ?_); unfold v4
    apply Chip.modSess_keeps; assumption; extract_lets +onlyGivenNames v5
    refine Keeps.cut (a := c₀) (x := v5) ?_ (fun _ => ?_); unfold v5; apply Chip.showBinding_keeps
    assumption; split; extract_lets +onlyGivenNames v6
    refine Keeps.cut (a := c₀) (x := v6) ?_ (fun _ => ?_); unfold v6
    refine Keeps.foldl (fun _ _ _ => ?_) ?_; apply Chip.setWord_keeps; assumption; assumption
    apply Chip.showFree_keeps; apply Chip.showMand_keeps; assumption; assumption

theorem Chip.sendClose_keeps (c : Chip) (s type : Nat) {c₀ : Chip} (hc : Keeps c₀ c) : Keeps c₀ (Chip.sendClose c s type) := by
  unfold Chip.sendClose
  with_reducible
    apply Chip.closeSess_keeps; apply Chip.sendCtl_keeps; assumption

theorem Chip.jrtClose_keeps (c : Chip) (d : DgIn) {c₀ : Chip} (hc : Keeps c₀ c) : Keeps c₀ (Chip.jrtClose c d).1 := by
  unfold Chip.jrtClose
  with_reducible
    extract_lets +onlyGivenNames v1; refine Keeps.cut (a := c₀) (x := v1) ?_ (fun _ => ?_); unfold v1
    apply Chip.takeIn_keeps; assumption; split; refine Keeps.pair₁ ?_; apply Chip.badDgram_keeps; assumption
    split; split; refine Keeps.pair₁ ?_; apply Chip.badDgram_keeps; assumption; refine Keeps.pair₁ ?_
    apply Chip.applyHdr_keeps; assumption; split; split; refine Keeps.pair₁ ?_; apply Chip.pushTo_keeps
    assumption; refine Keeps.pair₁ ?_; apply Chip.badDgram_keeps; assumption; refine Keeps.pair₁ ?_
    apply Chip.badDgram_keeps; assumption

theorem Chip.retransmit_keeps (c : Chip) (s : Nat) (lane1 : Bool) (num : Nat) {c₀ : Chip} (hc : Keeps c₀ c) : Keeps c₀ (Chip.retransmit c s lane1 num) := by
  unfold Chip.retransmit
  with_reducible
    extract_lets +onlyGivenNames v1; clear_value v1; split; assumption; split; assumption
    apply Chip.resend_keeps; assumption

theorem Chip.ackDelay_keeps (c : Chip) (s : Nat) {c₀ : Chip} (hc : Keeps c₀ c) : Keeps c₀ (Chip.ackDelay c s) := by
  unfold Chip.ackDelay
  with_reducible
    extract_lets +onlyGivenNames v1; clear_value v1; split; apply Chip.sendCtl_keeps; assumption; assumption

theorem Chip.idleAck_keeps (c : Chip) (s : Nat) {c₀ : Chip} (hc : Keeps c₀ c) : Keeps c₀ (Chip.idleAck c s) := by
  unfold Chip.idleAck
  with_reducible
    extract_lets +onlyGivenNames v1; clear_value v1; split; apply Chip.sendCtl_keeps; assumption; assumption

theorem Chip.cutOptional_keeps (c : Chip) (s : Nat) (why : List Byte) {c₀ : Chip} (hc : Keeps c₀ c) : Keeps c₀ (Chip.cutOptional c s why) := by
  unfold Chip.cutOptional
  with_reducible
    refine Keeps.foldl (fun _ _ _ => ?_) ?_; split; assumption; extract_lets +onlyGivenNames v1
    clear_value v1; extract_lets +onlyGivenNames v2; clear_value v2; extract_lets +onlyGivenNames v3
    refine Keeps.cut (a := c₀) (x := v3) ?_ (fun _ => ?_); unfold v3; refine Keeps.mk₁ ?_; assumption
    extract_lets +onlyGivenNames v4; refine Keeps.cut (a := c₀) (x := v4) ?_ (fun _ => ?_); unfold v4
    apply Chip.modItem_keeps; assumption; apply Chip.addGaps_keeps; apply Chip.giveSpool_keeps; assumption
    assumption

theorem Chip.stall_keeps (c : Chip) (s : Nat) {c₀ : Chip} (hc : Keeps c₀ c) : Keeps c₀ (Chip.stall c s) := by
  unfold Chip.stall
  with_reducible
    split; assumption; extract_lets +onlyGivenNames v1
    refine Keeps.cut (a := c₀) (x := v1) ?_ (fun _ => ?_); unfold v1; apply Chip.bump_keeps
    apply Chip.putB_keeps; assumption; apply Chip.cutOptional_keeps; assumption

theorem Chip.abandonStalled_keeps (c : Chip) (s : Nat) {c₀ : Chip} (hc : Keeps c₀ c) : Keeps c₀ (Chip.abandonStalled c s) := by
  unfold Chip.abandonStalled
  with_reducible
    split; assumption; apply Chip.sendClose_keeps; assumption

theorem Chip.rebind_keeps (c : Chip) (s : Nat) {c₀ : Chip} (hc : Keeps c₀ c) : Keeps c₀ (Chip.rebind c s) := by
  unfold Chip.rebind
  with_reducible
    extract_lets +onlyGivenNames v1; clear_value v1; split; extract_lets +onlyGivenNames v2
    refine Keeps.cut (a := c₀) (x := v2) ?_ (fun _ => ?_); unfold v2; apply Chip.modSess_keeps; assumption
    apply Chip.showBinding_keeps; assumption; split; apply Chip.stall_keeps; apply Chip.putB_keeps
    assumption; assumption

theorem Chip.rebindAll_keeps (c : Chip) (x : Nat) (sel : Session → Bool) {c₀ : Chip} (hc : Keeps c₀ c) : Keeps c₀ (Chip.rebindAll c x sel) := by
  unfold Chip.rebindAll
  with_reducible
    refine Keeps.foldl (fun _ _ _ => ?_) ?_; extract_lets +onlyGivenNames v1; clear_value v1; split
    apply Chip.rebind_keeps; assumption; assumption; assumption

theorem Chip.pathBack_keeps (c : Chip) (x : Nat) (sel : Session → Bool) {c₀ : Chip} (hc : Keeps c₀ c) : Keeps c₀ (Chip.pathBack c x sel) := by
  unfold Chip.pathBack
  with_reducible
    refine Keeps.foldl (fun _ _ _ => ?_) ?_; extract_lets +onlyGivenNames v1; clear_value v1; split
    apply Chip.pump_keeps; apply Chip.pump_keeps; apply Chip.resume_keeps; apply Chip.putB_keeps; assumption
    assumption; assumption

theorem Chip.onSent_keeps (c : Chip) (f : TxFrame) (t : Nat) {c₀ : Chip} (hc : Keeps c₀ c) : Keeps c₀ (Chip.onSent c f t) := by
  unfold Chip.onSent
  with_reducible
    split; split; assumption; split; assumption; extract_lets +onlyGivenNames v1
    refine Keeps.cut (a := c₀) (x := v1) ?_ (fun _ => ?_); unfold v1; apply Chip.modOut_keeps; assumption
    split; apply Chip.bump_keeps; assumption; assumption; assumption

theorem Chip.updMgmt_keeps (c : Chip) (f : Mgmt → Mgmt) {c₀ : Chip} (hc : Keeps c₀ c) : Keeps c₀ (Chip.updMgmt c f) := by
  unfold Chip.updMgmt
  with_reducible
    refine Keeps.mk₁ ?_; assumption

theorem Chip.modRole_keeps (c : Chip) (r : Nat) (f : NmpRole → NmpRole) {c₀ : Chip} (hc : Keeps c₀ c) : Keeps c₀ (Chip.modRole c r f) := by
  unfold Chip.modRole
  with_reducible
    apply Chip.updMgmt_keeps; assumption

theorem Chip.modOp_keeps (c : Chip) (h : Nat) (f : LongOp → LongOp) {c₀ : Chip} (hc : Keeps c₀ c) : Keeps c₀ (Chip.modOp c h f) := by
  unfold Chip.modOp
  with_reducible
    apply Chip.updMgmt_keeps; assumption

theorem Chip.opEnds_keeps (c : Chip) (h state result : Nat) {c₀ : Chip} (hc : Keeps c₀ c) : Keeps c₀ (Chip.opEnds c h state result) := by
  unfold Chip.opEnds
  with_reducible
    extract_lets +onlyGivenNames v1; refine Keeps.cut (a := c₀) (x := v1) ?_ (fun _ => ?_); unfold v1
    apply Chip.put_keeps; apply Chip.put_keeps; assumption; extract_lets +onlyGivenNames v2
    refine Keeps.cut (a := c₀) (x := v2) ?_ (fun _ => ?_); unfold v2; split; apply Chip.put_keeps
    assumption; assumption; apply Chip.modOp_keeps; assumption

theorem Chip.abortCapture_keeps (c : Chip) (n : Nat) {c₀ : Chip} (hc : Keeps c₀ c) : Keeps c₀ (Chip.abortCapture c n) := by
  unfold Chip.abortCapture
  with_reducible
    split; split; apply Chip.opEnds_keeps; apply Chip.modStream_keeps; assumption; assumption; assumption

theorem Chip.updKv_keeps (c : Chip) (f : Kv → Kv) {c₀ : Chip} (hc : Keeps c₀ c) : Keeps c₀ (Chip.updKv c f) := by
  unfold Chip.updKv
  with_reducible
    refine Keeps.mk₁ ?_; assumption

theorem Chip.modKvSlot_keeps (c : Chip) (q : Nat) (f : KvSlot → KvSlot) {c₀ : Chip} (hc : Keeps c₀ c) : Keeps c₀ (Chip.modKvSlot c q f) := by
  unfold Chip.modKvSlot
  with_reducible
    apply Chip.updKv_keeps; assumption

theorem Chip.showKv_keeps (c : Chip) {c₀ : Chip} (hc : Keeps c₀ c) : Keeps c₀ (Chip.showKv c) := by
  unfold Chip.showKv
  with_reducible
    extract_lets +onlyGivenNames v1; clear_value v1; extract_lets +onlyGivenNames v2; clear_value v2
    extract_lets +onlyGivenNames v3; clear_value v3; extract_lets +onlyGivenNames v4
    refine Keeps.cut (a := c₀) (x := v4) ?_ (fun _ => ?_); unfold v4; apply Chip.put_keeps; assumption
    extract_lets +onlyGivenNames v5; refine Keeps.cut (a := c₀) (x := v5) ?_ (fun _ => ?_); unfold v5
    apply Chip.put_keeps; assumption; extract_lets +onlyGivenNames v6
    refine Keeps.cut (a := c₀) (x := v6) ?_ (fun _ => ?_); unfold v6; apply Chip.put_keeps; assumption
    extract_lets +onlyGivenNames v7; refine Keeps.cut (a := c₀) (x := v7) ?_ (fun _ => ?_); unfold v7
    apply Chip.put_keeps; assumption; apply Chip.put_keeps; assumption

theorem Chip.kvAlloc_keeps (c : Chip) (lcWork : Bool) (pages : Nat) {c₀ : Chip} (hc : Keeps c₀ c) : KeepsOP c₀ (c.kvAlloc lcWork pages) := by
  unfold Chip.kvAlloc
  with_reducible
    extract_lets +onlyGivenNames v1; clear_value v1; extract_lets +onlyGivenNames v2; clear_value v2
    extract_lets +onlyGivenNames v3; clear_value v3; extract_lets +onlyGivenNames v4; clear_value v4
    extract_lets +onlyGivenNames v5; split; split; unfold v5; refine KeepsOP.mk ?_; apply Chip.showKv_keeps
    apply Chip.updKv_keeps; assumption; split; unfold v5; refine KeepsOP.mk ?_; apply Chip.showKv_keeps
    apply Chip.updKv_keeps; assumption; exact KeepsOP.none; split; unfold v5; refine KeepsOP.mk ?_
    apply Chip.showKv_keeps; apply Chip.updKv_keeps; assumption; split; unfold v5; refine KeepsOP.mk ?_
    apply Chip.showKv_keeps; apply Chip.updKv_keeps; assumption; exact KeepsOP.none; exact KeepsOP.none
    split; unfold v5; refine KeepsOP.mk ?_; apply Chip.showKv_keeps; apply Chip.updKv_keeps; assumption
    exact KeepsOP.none

theorem Chip.kvRecount_keeps (c : Chip) (old new : List (BitVec 32)) (t : Nat) {c₀ : Chip} (hc : Keeps c₀ c) : Keeps c₀ (Chip.kvRecount c old new t) := by
  unfold Chip.kvRecount
  with_reducible
    extract_lets +onlyGivenNames v1; extract_lets +onlyGivenNames v2; clear_value v2
    extract_lets +onlyGivenNames v3; clear_value v3; apply Chip.showKv_keeps; apply Chip.updKv_keeps
    assumption

theorem Chip.kvPublish_keeps (c : Chip) (q : Nat) (new : List (BitVec 32)) {c₀ : Chip} (hc : Keeps c₀ c) : Keeps c₀ (Chip.kvPublish c q new) := by
  unfold Chip.kvPublish
  with_reducible
    extract_lets +onlyGivenNames v1; clear_value v1; extract_lets +onlyGivenNames v2; clear_value v2
    extract_lets +onlyGivenNames v3; clear_value v3; extract_lets +onlyGivenNames v4; clear_value v4
    extract_lets +onlyGivenNames v5; refine Keeps.cut (a := c₀) (x := v5) ?_ (fun _ => ?_); unfold v5
    apply Chip.modKvSlot_keeps; assumption; extract_lets +onlyGivenNames v6
    refine Keeps.cut (a := c₀) (x := v6) ?_ (fun _ => ?_); unfold v6; apply Chip.kvRecount_keeps; assumption
    apply Chip.showKv_keeps; apply Chip.updKv_keeps; assumption

theorem Chip.kvTake_keeps (c : Chip) (n : Nat) {c₀ : Chip} (hc : Keeps c₀ c) : Keeps c₀ (Chip.kvTake c n).1 := by
  unfold Chip.kvTake
  with_reducible
    split; assumption; split; assumption; split; assumption; extract_lets +onlyGivenNames v1
    refine Keeps.cut (a := c₀) (x := v1) ?_ (fun _ => ?_); unfold v1; apply Chip.modItem_keeps; assumption
    refine Keeps.pair₁ ?_; apply Chip.modKvSlot_keeps; assumption

theorem Chip.kvTakeTrain_keeps (c : Chip) (set : Nat) {c₀ : Chip} (hc : Keeps c₀ c) : Keeps c₀ (Chip.kvTakeTrain c set).1 := by
  unfold Chip.kvTakeTrain
  with_reducible
    split; assumption; split; assumption; extract_lets +onlyGivenNames v1; clear_value v1
    extract_lets +onlyGivenNames v2; clear_value v2; extract_lets +onlyGivenNames v3
    refine Keeps.cut (a := c₀) (x := v3) ?_ (fun _ => ?_); unfold v3; refine Keeps.mk₁ ?_; assumption
    refine Keeps.pair₁ ?_; apply Chip.modKvSlot_keeps; assumption

theorem Chip.kvCopySet_keeps (c : Chip) (a b : KvSet) {c₀ : Chip} (hc : Keeps c₀ c) : Keeps c₀ (Chip.kvCopySet c a b) := by
  unfold Chip.kvCopySet
  with_reducible
    extract_lets +onlyGivenNames v1; clear_value v1; apply Chip.carry_keeps; assumption

theorem Chip.kvEdit_keeps (c : Chip) (e : KvEdit) {c₀ : Chip} (hc : Keeps c₀ c) : Keeps c₀ (Chip.kvEdit c e) := by
  unfold Chip.kvEdit
  with_reducible
    split; split; refine Keeps.fst (by assumption) ?_; apply Chip.kvTakeTrain_keeps; assumption
    extract_lets +onlyGivenNames v1; clear_value v1; split; refine Keeps.fst (by assumption) ?_
    apply Chip.kvTakeTrain_keeps; assumption; split; apply Chip.modKvSlot_keeps
    refine Keeps.fst (by assumption) ?_; apply Chip.kvTakeTrain_keeps; assumption
    apply Chip.kvPublish_keeps; apply Chip.modKvSlot_keeps; refine Keeps.someP (by assumption) ?_
    apply Chip.kvAlloc_keeps; refine Keeps.fst (by assumption) ?_; apply Chip.kvTakeTrain_keeps; assumption
    split; assumption; extract_lets +onlyGivenNames v2; clear_value v2; extract_lets +onlyGivenNames v3
    refine Keeps.cut (a := c₀) (x := v3) ?_ (fun _ => ?_); unfold v3; refine Keeps.mk₁ ?_; assumption
    apply Chip.modKvSlot_keeps; apply Chip.kvPublish_keeps; assumption; split
    refine Keeps.fst (by assumption) ?_; apply Chip.kvTake_keeps; assumption
    extract_lets +onlyGivenNames v4; clear_value v4; split; refine Keeps.fst (by assumption) ?_
    apply Chip.kvTake_keeps; assumption; split; apply Chip.modKvSlot_keeps
    refine Keeps.fst (by assumption) ?_; apply Chip.kvTake_keeps; assumption; apply Chip.kvPublish_keeps
    apply Chip.modKvSlot_keeps; refine Keeps.someP (by assumption) ?_; apply Chip.kvAlloc_keeps
    refine Keeps.fst (by assumption) ?_; apply Chip.kvTake_keeps; assumption; split
    refine Keeps.fst (by assumption) ?_; apply Chip.kvTake_keeps; assumption
    extract_lets +onlyGivenNames v5; clear_value v5; extract_lets +onlyGivenNames v6; clear_value v6; split
    refine Keeps.fst (by assumption) ?_; apply Chip.kvTake_keeps; assumption; split
    apply Chip.kvPublish_keeps; refine Keeps.fst (by assumption) ?_; apply Chip.kvTake_keeps; assumption
    split; extract_lets +onlyGivenNames v7; refine Keeps.cut (a := c₀) (x := v7) ?_ (fun _ => ?_); unfold v7
    split; apply Chip.kvCopySet_keeps; refine Keeps.someP (by assumption) ?_; apply Chip.kvAlloc_keeps
    refine Keeps.fst (by assumption) ?_; apply Chip.kvTake_keeps; assumption
    refine Keeps.someP (by assumption) ?_; apply Chip.kvAlloc_keeps; refine Keeps.fst (by assumption) ?_
    apply Chip.kvTake_keeps; assumption; apply Chip.kvPublish_keeps; assumption; apply Chip.modKvSlot_keeps
    refine Keeps.fst (by assumption) ?_; apply Chip.kvTake_keeps; assumption; split; assumption
    apply Chip.kvPublish_keeps; assumption; split; assumption; extract_lets +onlyGivenNames v8
    refine Keeps.cut (a := c₀) (x := v8) ?_ (fun _ => ?_); unfold v8; apply Chip.modKvSlot_keeps; assumption
    extract_lets +onlyGivenNames v9; refine Keeps.cut (a := c₀) (x := v9.1) ?_ (fun _ => ?_); unfold v9
    refine Keeps.foldlP (fun _ _ _ => ?_) ?_; split; refine Keeps.pair₁ ?_
    refine Keeps.someP (by assumption) ?_; apply Chip.kvAlloc_keeps; assumption; assumption; assumption
    apply Chip.kvPublish_keeps; assumption; split; assumption; apply Chip.modKvSlot_keeps
    apply Chip.kvPublish_keeps; assumption

theorem kvDrain_keeps (n : Nat) (c : Chip) {c₀ : Chip} (hc : Keeps c₀ c) : Keeps c₀ (kvDrain n c) := by
  induction n generalizing c with
  | zero => exact hc
  | succ n ih =>
    unfold kvDrain
    with_reducible
      split; assumption; split; assumption; split; split; split; assumption; apply Chip.updKv_keeps
      apply Chip.bump_keeps; assumption; apply ih; apply Chip.kvEdit_keeps; apply Chip.updKv_keeps
      assumption; split; split; assumption; apply Chip.updKv_keeps; apply Chip.bump_keeps; assumption
      apply ih; apply Chip.kvEdit_keeps; apply Chip.updKv_keeps; assumption

theorem Chip.kvRun_keeps (c : Chip) {c₀ : Chip} (hc : Keeps c₀ c) : Keeps c₀ (Chip.kvRun c) := by
  unfold Chip.kvRun
  with_reducible
    apply kvDrain_keeps; assumption

theorem Chip.kvTableEdit_keeps (c : Chip) (e : KvEdit) {c₀ : Chip} (hc : Keeps c₀ c) : Keeps c₀ (Chip.kvTableEdit c e) := by
  unfold Chip.kvTableEdit
  with_reducible
    apply Chip.kvRun_keeps; apply Chip.updKv_keeps; assumption

theorem Chip.kvFreeItem_keeps (c : Chip) (n : Nat) {c₀ : Chip} (hc : Keeps c₀ c) : Keeps c₀ (Chip.kvFreeItem c n) := by
  unfold Chip.kvFreeItem
  with_reducible
    split; assumption; extract_lets +onlyGivenNames v1
    refine Keeps.cut (a := c₀) (x := v1) ?_ (fun _ => ?_); unfold v1; apply Chip.updKv_keeps; assumption
    apply Chip.kvTableEdit_keeps; apply Chip.modItem_keeps; assumption

theorem Chip.limboReturn_keeps (c : Chip) {c₀ : Chip} (hc : Keeps c₀ c) : Keeps c₀ (Chip.limboReturn c) := by
  unfold Chip.limboReturn
  with_reducible
    apply Chip.kvRun_keeps; apply Chip.showKv_keeps; apply Chip.updKv_keeps; assumption

theorem Chip.updAdapt_keeps (c : Chip) (f : Adapt → Adapt) {c₀ : Chip} (hc : Keeps c₀ c) : Keeps c₀ (Chip.updAdapt c f) := by
  unfold Chip.updAdapt
  with_reducible
    refine Keeps.mk₁ ?_; assumption

theorem Chip.writeSample_keeps (c : Chip) (i : Item) (status : Nat) {c₀ : Chip} (hc : Keeps c₀ c) : Keeps c₀ (Chip.writeSample c i status) := by
  unfold Chip.writeSample
  with_reducible
    extract_lets +onlyGivenNames v1; clear_value v1; split; assumption; extract_lets +onlyGivenNames v2
    clear_value v2; extract_lets +onlyGivenNames v3; clear_value v3; apply Chip.updAdapt_keeps; assumption

theorem Chip.endItem_keeps (c : Chip) (n : Nat) (v : Verdict) {c₀ : Chip} (hc : Keeps c₀ c) : Keeps c₀ (Chip.endItem c n v) := by
  unfold Chip.endItem
  with_reducible
    split; assumption; split; assumption; extract_lets +onlyGivenNames v1
    refine Keeps.cut (a := c₀) (x := v1) ?_ (fun _ => ?_); unfold v1; split; apply Chip.bump_keeps
    assumption; assumption; extract_lets +onlyGivenNames v2
    refine Keeps.cut (a := c₀) (x := v2) ?_ (fun _ => ?_); unfold v2; apply Chip.kvFreeItem_keeps
    assumption; extract_lets +onlyGivenNames v3; refine Keeps.cut (a := c₀) (x := v3) ?_ (fun _ => ?_)
    unfold v3; apply Chip.writeSample_keeps; assumption; apply Chip.endCore_keeps; apply Chip.modItem_keeps
    assumption

theorem Chip.settleItem_keeps (c : Chip) (n : Nat) (why : Option (List Byte)) {c₀ : Chip} (hc : Keeps c₀ c) : Keeps c₀ (Chip.settleItem c n why) := by
  unfold Chip.settleItem
  with_reducible
    split; assumption; split; assumption; split; split; apply Chip.endItem_keeps; assumption
    apply Chip.endItem_keeps; assumption; apply Chip.endItem_keeps; assumption

theorem Chip.failFields_keeps (c : Chip) (n : Nat) (ks : List Nat) (why : List Byte) {c₀ : Chip} (hc : Keeps c₀ c) : Keeps c₀ (Chip.failFields c n ks why) := by
  unfold Chip.failFields
  with_reducible
    split; assumption; split; assumption; extract_lets +onlyGivenNames v1; clear_value v1
    extract_lets +onlyGivenNames v2; refine Keeps.cut (a := c₀) (x := v2) ?_ (fun _ => ?_); unfold v2
    apply Chip.bump_keeps; assumption; extract_lets +onlyGivenNames v3
    refine Keeps.cut (a := c₀) (x := v3) ?_ (fun _ => ?_); unfold v3; apply Chip.modItem_keeps; assumption
    extract_lets +onlyGivenNames v4; refine Keeps.cut (a := c₀) (x := v4) ?_ (fun _ => ?_); unfold v4
    refine Keeps.foldl (fun _ _ _ => ?_) ?_; apply Chip.formField_keeps; assumption; assumption
    extract_lets +onlyGivenNames v5; refine Keeps.cut (a := c₀) (x := v5) ?_ (fun _ => ?_); unfold v5
    apply Chip.modItem_keeps; assumption; split; apply Chip.endItem_keeps; assumption
    apply Chip.settleItem_keeps; assumption

theorem Chip.kvExhausted_keeps (c : Chip) (n : Nat) {c₀ : Chip} (hc : Keeps c₀ c) : Keeps c₀ (Chip.kvExhausted c n) := by
  unfold Chip.kvExhausted
  with_reducible
    split; assumption; apply Chip.failFields_keeps; apply Chip.bump_keeps; assumption

theorem Chip.kvFault_keeps (c : Chip) (n : Nat) (l : Loc) {c₀ : Chip} (hc : Keeps c₀ c) : Keeps c₀ (Chip.kvFault c n l) := by
  unfold Chip.kvFault
  with_reducible
    split; assumption; apply Chip.failFields_keeps; apply Chip.bump_keeps; apply Chip.log_keeps; assumption

theorem Chip.flagItem_keeps (c : Chip) (n bits : Nat) {c₀ : Chip} (hc : Keeps c₀ c) : Keeps c₀ (Chip.flagItem c n bits) := by
  unfold Chip.flagItem
  with_reducible
    apply Chip.modItem_keeps; assumption

theorem Chip.overflowItem_keeps (c : Chip) (n : Nat) {c₀ : Chip} (hc : Keeps c₀ c) : Keeps c₀ (Chip.overflowItem c n) := by
  unfold Chip.overflowItem
  with_reducible
    split; assumption; split; assumption; apply Chip.bump_keeps; apply Chip.flagItem_keeps
    apply Chip.modItem_keeps; assumption

theorem Chip.endDue_keeps (c : Chip) (n : Nat) {c₀ : Chip} (hc : Keeps c₀ c) : Keeps c₀ (Chip.endDue c n) := by
  unfold Chip.endDue
  with_reducible
    split; assumption; split; assumption; split; assumption; apply Chip.endItem_keeps; assumption

theorem Chip.modField_keeps (c : Chip) (n k : Nat) (f : FieldSt → FieldSt) {c₀ : Chip} (hc : Keeps c₀ c) : Keeps c₀ (Chip.modField c n k f) := by
  unfold Chip.modField
  with_reducible
    apply Chip.modItem_keeps; assumption

theorem Chip.emitText_keeps (c : Chip) (n k : Nat) (b : List Byte) {c₀ : Chip} (hc : Keeps c₀ c) : Keeps c₀ (Chip.emitText c n k b) := by
  unfold Chip.emitText
  with_reducible
    split; assumption; extract_lets +onlyGivenNames v1; clear_value v1; extract_lets +onlyGivenNames v2
    refine Keeps.cut (a := c₀) (x := v2) ?_ (fun _ => ?_); unfold v2; apply Chip.bump_keeps; assumption
    apply Chip.formPart_keeps; apply Chip.modField_keeps; assumption

theorem Chip.flushHeld_keeps (c : Chip) (n k : Nat) {c₀ : Chip} (hc : Keeps c₀ c) : Keeps c₀ (Chip.flushHeld c n k) := by
  unfold Chip.flushHeld
  with_reducible
    split; assumption; extract_lets +onlyGivenNames v1; clear_value v1; extract_lets +onlyGivenNames v2
    refine Keeps.cut (a := c₀) (x := v2) ?_ (fun _ => ?_); unfold v2; split; apply Chip.bump_keeps
    assumption; assumption; apply Chip.modField_keeps; apply Chip.emitText_keeps; assumption

theorem Chip.dropDecoding_keeps (c : Chip) (n k : Nat) {c₀ : Chip} (hc : Keeps c₀ c) : Keeps c₀ (Chip.dropDecoding c n k) := by
  unfold Chip.dropDecoding
  with_reducible
    split; assumption; extract_lets +onlyGivenNames v1; clear_value v1; extract_lets +onlyGivenNames v2
    refine Keeps.cut (a := c₀) (x := v2) ?_ (fun _ => ?_); unfold v2; apply Chip.modItem_keeps; assumption
    split; apply Chip.kvTableEdit_keeps; assumption; assumption

theorem Chip.endField_keeps (c : Chip) (n k code : Nat) (why : List Byte) {c₀ : Chip} (hc : Keeps c₀ c) : Keeps c₀ (Chip.endField c n k code why) := by
  unfold Chip.endField
  with_reducible
    extract_lets +onlyGivenNames v1; refine Keeps.cut (a := c₀) (x := v1) ?_ (fun _ => ?_); unfold v1
    apply Chip.modField_keeps; assumption; extract_lets +onlyGivenNames v2
    refine Keeps.cut (a := c₀) (x := v2) ?_ (fun _ => ?_); unfold v2; split; apply Chip.dropDecoding_keeps
    apply Chip.bump_keeps; assumption; apply Chip.bump_keeps; assumption; apply Chip.dropDecoding_keeps
    apply Chip.bump_keeps; assumption; apply Chip.bump_keeps; assumption; assumption
    extract_lets +onlyGivenNames v3; refine Keeps.cut (a := c₀) (x := v3) ?_ (fun _ => ?_); unfold v3
    apply Chip.formField_keeps; assumption; apply Chip.modItem_keeps; assumption

end Sys2Proof.Machine
end

