-- ==== Sys2Proof/Laws/Keeps3.lean ====
section
/-!
SUPPORT. The relation Keeps, function by function in the order of the model: part 3, from Chip.markStart
to Chip.yieldBlock.  Each proof goes through the arms of its function.
-/

set_option linter.unusedVariables false

namespace Sys2Proof.Machine

theorem Chip.markStart_keeps (c : Chip) (n k : Nat) {c₀ : Chip} (hc : Keeps c₀ c) : Keeps c₀ (Chip.markStart c n k) := by
  unfold Chip.markStart
  with_reducible
    apply Chip.modItem_keeps; assumption

theorem skipDead_keeps (k : Nat) (c : Chip) (n : Nat) {c₀ : Chip} (hc : Keeps c₀ c) : Keeps c₀ (skipDead k c n) := by
  induction k generalizing c with
  | zero => exact hc
  | succ k ih =>
    unfold skipDead
    with_reducible
      split; assumption; split; split; assumption; split; apply ih; apply Chip.endField_keeps
      apply Chip.markStart_keeps; assumption; split; apply ih; apply Chip.endField_keeps
      apply Chip.markStart_keeps; assumption; assumption; assumption

theorem Chip.overflowDue_keeps (c : Chip) (n : Nat) {c₀ : Chip} (hc : Keeps c₀ c) : Keeps c₀ (Chip.overflowDue c n) := by
  unfold Chip.overflowDue
  with_reducible
    split; split; apply Chip.overflowItem_keeps; assumption; assumption; assumption

theorem Chip.nextField_keeps (c : Chip) (n : Nat) {c₀ : Chip} (hc : Keeps c₀ c) : Keeps c₀ (Chip.nextField c n) := by
  unfold Chip.nextField
  with_reducible
    extract_lets +onlyGivenNames v1; refine Keeps.cut (a := c₀) (x := v1) ?_ (fun _ => ?_); unfold v1; split
    apply skipDead_keeps; assumption; assumption; apply Chip.overflowDue_keeps; apply Chip.settleItem_keeps
    assumption

theorem Chip.countToken_keeps (c : Chip) (n k t : Nat) {c₀ : Chip} (hc : Keeps c₀ c) : Keeps c₀ (Chip.countToken c n k t) := by
  unfold Chip.countToken
  with_reducible
    extract_lets +onlyGivenNames v1; refine Keeps.cut (a := c₀) (x := v1) ?_ (fun _ => ?_); unfold v1
    apply Chip.modField_keeps; assumption; apply Chip.modItem_keeps; assumption

theorem Chip.endTest_keeps (c : Chip) (n k : Nat) (d : FDesc) (q : Nat) {c₀ : Chip} (hc : Keeps c₀ c) : Keeps c₀ (Chip.endTest c n k d q) := by
  unfold Chip.endTest
  with_reducible
    split; assumption; extract_lets +onlyGivenNames v1; clear_value v1; extract_lets +onlyGivenNames v2
    split; unfold v2; apply Chip.nextField_keeps; apply Chip.endField_keeps; apply Chip.flushHeld_keeps
    assumption; split; unfold v2; apply Chip.nextField_keeps; apply Chip.endField_keeps
    apply Chip.flushHeld_keeps; assumption; split; unfold v2; apply Chip.nextField_keeps
    apply Chip.endField_keeps; apply Chip.flushHeld_keeps; assumption; split; unfold v2
    apply Chip.nextField_keeps; apply Chip.endField_keeps; apply Chip.flushHeld_keeps; assumption
    apply Chip.overflowDue_keeps; assumption

theorem Chip.detok_keeps (c : Chip) (n k : Nat) (d : FDesc) (t q : Nat) {c₀ : Chip} (hc : Keeps c₀ c) : Keeps c₀ (Chip.detok c n k d t q) := by
  unfold Chip.detok
  with_reducible
    split; assumption; extract_lets +onlyGivenNames v1; clear_value v1; split; apply Chip.nextField_keeps
    apply Chip.endField_keeps; apply Chip.bump_keeps; apply Chip.emitText_keeps; assumption
    extract_lets +onlyGivenNames v2; clear_value v2; extract_lets +onlyGivenNames v3
    refine Keeps.cut (a := c₀) (x := v3) ?_ (fun _ => ?_); unfold v3; apply Chip.modField_keeps
    apply Chip.emitText_keeps; assumption; apply Chip.endTest_keeps; assumption

theorem Chip.fieldToken_keeps (c : Chip) (n : Nat) (fp32 : Bool) (logits : List (Nat × Nat)) {c₀ : Chip} (hc : Keeps c₀ c) : Keeps c₀ (Chip.fieldToken c n fp32 logits) := by
  unfold Chip.fieldToken
  with_reducible
    extract_lets +onlyGivenNames v1; refine Keeps.cut (a := c₀) (x := v1) ?_ (fun _ => ?_); unfold v1
    apply Chip.nextField_keeps; assumption; split; assumption; extract_lets +onlyGivenNames v2
    clear_value v2; split; split; assumption; extract_lets +onlyGivenNames v3
    refine Keeps.cut (a := c₀) (x := v3) ?_ (fun _ => ?_); unfold v3; split; assumption
    apply Chip.markStart_keeps; apply Chip.modField_keeps; assumption; extract_lets +onlyGivenNames v4
    clear_value v4; split; assumption; extract_lets +onlyGivenNames v5
    refine Keeps.cut (a := c₀) (x := v5) ?_ (fun _ => ?_); unfold v5; split; apply Chip.flagItem_keeps
    apply Chip.bump_keeps; assumption; assumption; extract_lets +onlyGivenNames v6
    refine Keeps.cut (a := c₀) (x := v6) ?_ (fun _ => ?_); unfold v6; apply Chip.countToken_keeps
    assumption; extract_lets +onlyGivenNames v7; clear_value v7; split; apply Chip.nextField_keeps
    apply Chip.endField_keeps; apply Chip.flushHeld_keeps; assumption; split; apply Chip.nextField_keeps
    apply Chip.endField_keeps; apply Chip.flushHeld_keeps; assumption; apply Chip.detok_keeps
    apply Chip.modField_keeps; assumption; assumption

theorem Chip.prefill_keeps (c : Chip) (n : Nat) {c₀ : Chip} (hc : Keeps c₀ c) : Keeps c₀ (Chip.prefill c n) := by
  unfold Chip.prefill
  with_reducible
    split; assumption; split; assumption; extract_lets +onlyGivenNames v1; clear_value v1
    extract_lets +onlyGivenNames v2; clear_value v2; extract_lets +onlyGivenNames v3
    refine Keeps.cut (a := c₀) (x := v3) ?_ (fun _ => ?_); unfold v3; apply Chip.modItem_keeps; assumption
    split; apply Chip.flagItem_keeps; apply Chip.bump_keeps; assumption; assumption

theorem Chip.recognise_keeps (c : Chip) (n line chars : Nat) (text image : List Byte) (inField : Bool) {c₀ : Chip} (hc : Keeps c₀ c) : Keeps c₀ (Chip.recognise c n line chars text image inField) := by
  unfold Chip.recognise
  with_reducible
    split; assumption; extract_lets +onlyGivenNames v1; clear_value v1; extract_lets +onlyGivenNames v2
    clear_value v2; extract_lets +onlyGivenNames v3; refine Keeps.cut (a := c₀) (x := v3) ?_ (fun _ => ?_)
    unfold v3; apply Chip.modItem_keeps; assumption; split; apply Chip.overflowItem_keeps; assumption
    assumption

theorem Chip.walkAhead_keeps (c : Chip) (w q epoch j : Nat) {c₀ : Chip} (hc : Keeps c₀ c) : Keeps c₀ (Chip.walkAhead c w q epoch j) := by
  unfold Chip.walkAhead
  with_reducible
    extract_lets +onlyGivenNames v1; clear_value v1; extract_lets +onlyGivenNames v2; clear_value v2
    apply Chip.updKv_keeps; assumption

theorem Chip.kvPut_keeps (c : Chip) (k : KvSet) (layer : Nat) (f : Fmt) (hkv d head tok : Nat) (value : Bool) (codes : List Nat) {c₀ : Chip} (hc : Keeps c₀ c) : Keeps c₀ (Chip.kvPut c k layer f hkv d head tok value codes) := by
  unfold Chip.kvPut
  with_reducible
    refine Keeps.foldl (fun _ _ _ => ?_) ?_; refine Keeps.updMem ?_ (fun h => Mem.writeAt_wf _ _ _ h)
    assumption; assumption

theorem Chip.modSet_keeps (c : Chip) (s : Nat) (f : AdSet → AdSet) {c₀ : Chip} (hc : Keeps c₀ c) : Keeps c₀ (Chip.modSet c s f) := by
  unfold Chip.modSet
  with_reducible
    apply Chip.updAdapt_keeps; assumption

theorem Chip.showAdapt_keeps (c : Chip) {c₀ : Chip} (hc : Keeps c₀ c) : Keeps c₀ (Chip.showAdapt c) := by
  unfold Chip.showAdapt
  with_reducible
    extract_lets +onlyGivenNames v1; refine Keeps.cut (a := c₀) (x := v1) ?_ (fun _ => ?_); unfold v1
    apply Chip.put_keeps; assumption; refine Keeps.foldl (fun _ _ _ => ?_) ?_; apply Chip.put_keeps
    assumption; assumption

theorem Chip.addExample_keeps (c : Chip) (set : Nat) (e : Example) {c₀ : Chip} (hc : Keeps c₀ c) : Keeps c₀ (Chip.addExample c set e) := by
  unfold Chip.addExample
  with_reducible
    extract_lets +onlyGivenNames v1; clear_value v1; extract_lets +onlyGivenNames v2; clear_value v2
    extract_lets +onlyGivenNames v3; refine Keeps.cut (a := c₀) (x := v3) ?_ (fun _ => ?_); unfold v3
    apply Chip.modSet_keeps; assumption; apply Chip.updAdapt_keeps; assumption

theorem Chip.correction_keeps (c : Chip) (s : Nat) (w : CorrIn) {c₀ : Chip} (hc : Keeps c₀ c) : Keeps c₀ (Chip.correction c s w) := by
  unfold Chip.correction
  with_reducible
    split; assumption; extract_lets +onlyGivenNames v1
    refine Keeps.cut (a := c₀) (x := v1) ?_ (fun _ => ?_); unfold v1; apply Chip.modSess_keeps; assumption
    extract_lets +onlyGivenNames v2; clear_value v2; extract_lets +onlyGivenNames v3
    refine Keeps.cut (a := c₀) (x := v3) ?_ (fun _ => ?_); unfold v3; split; apply Chip.showAdapt_keeps
    apply Chip.bump_keeps; apply Chip.addExample_keeps; assumption; apply Chip.bump_keeps; assumption
    apply Chip.formLoose_keeps; assumption

theorem Chip.updateStart_keeps (c : Chip) (set : Nat) {c₀ : Chip} (hc : Keeps c₀ c) : Keeps c₀ (Chip.updateStart c set) := by
  unfold Chip.updateStart
  with_reducible
    extract_lets +onlyGivenNames v1; clear_value v1; split; assumption; extract_lets +onlyGivenNames v2
    clear_value v2; apply Chip.modSet_keeps; assumption

theorem Chip.gate_keeps (c : Chip) (set : Nat) (w : UpdateIn) {c₀ : Chip} (hc : Keeps c₀ c) : Keeps c₀ (Chip.gate c set w) := by
  unfold Chip.gate
  with_reducible
    extract_lets +onlyGivenNames v1; clear_value v1; extract_lets +onlyGivenNames v2; clear_value v2
    extract_lets +onlyGivenNames v3; clear_value v3; extract_lets +onlyGivenNames v4; clear_value v4
    extract_lets +onlyGivenNames v5; refine Keeps.cut (a := c₀) (x := v5) ?_ (fun _ => ?_); unfold v5
    apply Chip.put_keeps; apply Chip.put_keeps; assumption; split; apply Chip.modSet_keeps; assumption
    apply Chip.bump_keeps; assumption

theorem Chip.abandonUpdate_keeps (c : Chip) (set : Nat) (l : List Example) {c₀ : Chip} (hc : Keeps c₀ c) : Keeps c₀ (Chip.abandonUpdate c set l) := by
  unfold Chip.abandonUpdate
  with_reducible
    extract_lets +onlyGivenNames v1; clear_value v1; extract_lets +onlyGivenNames v2; clear_value v2
    extract_lets +onlyGivenNames v3; refine Keeps.cut (a := c₀) (x := v3) ?_ (fun _ => ?_); unfold v3
    apply Chip.modSet_keeps; assumption; apply Chip.bump_keeps; apply Chip.bump_keeps; assumption

theorem Chip.trainRelease_keeps (c : Chip) (set : Fin 8) {c₀ : Chip} (hc : Keeps c₀ c) : Keeps c₀ (Chip.trainRelease c set) := by
  unfold Chip.trainRelease
  with_reducible
    split; apply Chip.kvTableEdit_keeps; assumption; assumption

theorem Chip.updateOver_keeps (c : Chip) (w : UpdateIn) {c₀ : Chip} (hc : Keeps c₀ c) : Keeps c₀ (Chip.updateOver c w) := by
  unfold Chip.updateOver
  with_reducible
    extract_lets +onlyGivenNames v1; clear_value v1; extract_lets +onlyGivenNames v2; clear_value v2; split
    split; apply Chip.showAdapt_keeps; apply Chip.abandonUpdate_keeps; assumption; split
    apply Chip.showAdapt_keeps; apply Chip.bump_keeps; apply Chip.modSet_keeps; assumption
    extract_lets +onlyGivenNames v3; clear_value v3; extract_lets +onlyGivenNames v4
    refine Keeps.cut (a := c₀) (x := v4) ?_ (fun _ => ?_); unfold v4; apply Chip.modSet_keeps; assumption
    extract_lets +onlyGivenNames v5; refine Keeps.cut (a := c₀) (x := v5) ?_ (fun _ => ?_); unfold v5
    apply Chip.wrap_keeps; assumption; apply Chip.showAdapt_keeps; split; apply Chip.gate_keeps; assumption
    assumption; assumption

theorem Chip.updateEnd_keeps (c : Chip) (w : UpdateIn) {c₀ : Chip} (hc : Keeps c₀ c) : Keeps c₀ (Chip.updateEnd c w) := by
  unfold Chip.updateEnd
  with_reducible
    split; apply Chip.updateOver_keeps; apply Chip.trainRelease_keeps; assumption; assumption

theorem Chip.publish_keeps (c : Chip) (set : Nat) {c₀ : Chip} (hc : Keeps c₀ c) : Keeps c₀ (Chip.publish c set) := by
  unfold Chip.publish
  with_reducible
    extract_lets +onlyGivenNames v1; clear_value v1; split; assumption; extract_lets +onlyGivenNames v2
    clear_value v2; split; assumption; split; apply Chip.modSet_keeps; assumption; split; assumption
    apply Chip.bump_keeps; apply Chip.modSet_keeps; assumption

theorem Chip.adaptCourse_keeps (c : Chip) {c₀ : Chip} (hc : Keeps c₀ c) : Keeps c₀ (Chip.adaptCourse c) := by
  unfold Chip.adaptCourse
  with_reducible
    extract_lets +onlyGivenNames v1; refine Keeps.cut (a := c₀) (x := v1) ?_ (fun _ => ?_); unfold v1
    refine Keeps.foldl (fun _ _ _ => ?_) ?_; split; extract_lets +onlyGivenNames v2
    refine Keeps.cut (a := c₀) (x := v2) ?_ (fun _ => ?_); unfold v2; apply Chip.put_keeps; assumption
    apply Chip.modSet_keeps; apply Chip.wrap_keeps; assumption; assumption; assumption
    apply Chip.updAdapt_keeps; assumption

theorem Chip.adaptRelease_keeps (c : Chip) {c₀ : Chip} (hc : Keeps c₀ c) : Keeps c₀ (Chip.adaptRelease c) := by
  unfold Chip.adaptRelease
  with_reducible
    extract_lets +onlyGivenNames v1; refine Keeps.cut (a := c₀) (x := v1) ?_ (fun _ => ?_); unfold v1
    refine Keeps.foldl (fun _ _ _ => ?_) ?_; apply Chip.trainRelease_keeps; assumption; assumption
    apply Chip.showAdapt_keeps; apply Chip.updAdapt_keeps; assumption

theorem Chip.adaptLost_keeps (c : Chip) {c₀ : Chip} (hc : Keeps c₀ c) : Keeps c₀ (Chip.adaptLost c) := by
  unfold Chip.adaptLost
  with_reducible
    extract_lets +onlyGivenNames v1; refine Keeps.cut (a := c₀) (x := v1) ?_ (fun _ => ?_); unfold v1
    apply Chip.adaptRelease_keeps; assumption; refine Keeps.foldl (fun _ _ _ => ?_) ?_; split
    apply Chip.modSet_keeps; assumption; assumption; assumption

theorem Chip.useRefs_keeps (c : Chip) (n : Nat) (r : Option RefSet) (captured : Bool) {c₀ : Chip} (hc : Keeps c₀ c) : Keeps c₀ (Chip.useRefs c n r captured) := by
  unfold Chip.useRefs
  with_reducible
    extract_lets +onlyGivenNames v1; refine Keeps.cut (a := c₀) (x := v1) ?_ (fun _ => ?_); unfold v1
    apply Chip.modStream_keeps; assumption; split; extract_lets +onlyGivenNames v2
    refine Keeps.cut (a := c₀) (x := v2) ?_ (fun _ => ?_); unfold v2; apply Chip.putB_keeps
    apply Chip.putB_keeps; assumption; apply Chip.put_keeps; apply Chip.put_keeps; assumption
    extract_lets +onlyGivenNames v3; refine Keeps.cut (a := c₀) (x := v3) ?_ (fun _ => ?_); unfold v3
    apply Chip.putB_keeps; apply Chip.putB_keeps; assumption; extract_lets +onlyGivenNames v4
    clear_value v4; apply Chip.put_keeps; apply Chip.put_keeps; assumption

theorem Chip.beginDrain_keeps (c : Chip) (t : Nat) {c₀ : Chip} (hc : Keeps c₀ c) : Keeps c₀ (Chip.beginDrain c t) := by
  unfold Chip.beginDrain
  with_reducible
    apply Chip.updSched_keeps; assumption

theorem Chip.nextPeriod_keeps (c : Chip) (k n : Nat) (t : Stamp) {c₀ : Chip} (hc : Keeps c₀ c) : Keeps c₀ (Chip.nextPeriod c k n t) := by
  unfold Chip.nextPeriod
  with_reducible
    extract_lets +onlyGivenNames v1; clear_value v1; extract_lets +onlyGivenNames v2; clear_value v2
    extract_lets +onlyGivenNames v3; clear_value v3; extract_lets +onlyGivenNames v4; clear_value v4
    extract_lets +onlyGivenNames v5; clear_value v5; extract_lets +onlyGivenNames v6
    refine Keeps.cut (a := c₀) (x := v6.1) ?_ (fun _ => ?_); unfold v6; split; assumption; split
    refine Keeps.pair₁ ?_; refine Keeps.mk₁ ?_; assumption; assumption; apply Chip.modStream_keeps
    assumption

theorem Chip.issueTrigger_keeps (c : Chip) (k : Nat) (t : Stamp) {c₀ : Chip} (hc : Keeps c₀ c) : Keeps c₀ (Chip.issueTrigger c k t) := by
  unfold Chip.issueTrigger
  with_reducible
    extract_lets +onlyGivenNames v1; clear_value v1; extract_lets +onlyGivenNames v2
    refine Keeps.cut (a := c₀) (x := v2) ?_ (fun _ => ?_); unfold v2
    refine Keeps.foldl (fun _ _ _ => ?_) ?_; apply Chip.nextPeriod_keeps; assumption; assumption
    apply Chip.modTransport_keeps; assumption

theorem Chip.triggerDue_keeps (c : Chip) (k : Nat) {c₀ : Chip} (hc : Keeps c₀ c) : Keeps c₀ (Chip.triggerDue c k) := by
  unfold Chip.triggerDue
  with_reducible
    extract_lets +onlyGivenNames v1; clear_value v1; split; apply Chip.modTransport_keeps; assumption; split
    apply Chip.issueTrigger_keeps; assumption; split; apply Chip.issueTrigger_keeps; assumption
    apply Chip.bump_keeps; apply Chip.modTransport_keeps; assumption

theorem Chip.deferredTrigger_keeps (c : Chip) (k : Nat) {c₀ : Chip} (hc : Keeps c₀ c) : Keeps c₀ (Chip.deferredTrigger c k) := by
  unfold Chip.deferredTrigger
  with_reducible
    extract_lets +onlyGivenNames v1; clear_value v1; split; assumption; split; apply Chip.issueTrigger_keeps
    assumption; apply Chip.issueTrigger_keeps; assumption

theorem Chip.countForward_keeps (c : Chip) (k : Nat) {c₀ : Chip} (hc : Keeps c₀ c) : Keeps c₀ (Chip.countForward c k) := by
  unfold Chip.countForward
  with_reducible
    extract_lets +onlyGivenNames v1; clear_value v1; extract_lets +onlyGivenNames v2; clear_value v2; split
    apply Chip.triggerDue_keeps; apply Chip.modTransport_keeps; assumption; apply Chip.modTransport_keeps
    assumption

theorem Chip.encoderEdge_keeps (c : Chip) (k : Nat) (a b : Bool) (ta tb : Nat) {c₀ : Chip} (hc : Keeps c₀ c) : Keeps c₀ (Chip.encoderEdge c k a b ta tb) := by
  unfold Chip.encoderEdge
  with_reducible
    extract_lets +onlyGivenNames v1; clear_value v1; extract_lets +onlyGivenNames v2; clear_value v2
    extract_lets +onlyGivenNames v3; clear_value v3; extract_lets +onlyGivenNames v4; clear_value v4
    extract_lets +onlyGivenNames v5; clear_value v5; extract_lets +onlyGivenNames v6
    refine Keeps.cut (a := c₀) (x := v6) ?_ (fun _ => ?_); unfold v6; apply Chip.modTransport_keeps
    assumption; split; assumption; split; apply Chip.bump_keeps; assumption; split; assumption; split
    apply Chip.countForward_keeps; assumption; apply Chip.modTransport_keeps; assumption

theorem Chip.timerTrigger_keeps (c : Chip) (k : Nat) {c₀ : Chip} (hc : Keeps c₀ c) : Keeps c₀ (Chip.timerTrigger c k) := by
  unfold Chip.timerTrigger
  with_reducible
    split; assumption; extract_lets +onlyGivenNames v1; clear_value v1; extract_lets +onlyGivenNames v2
    clear_value v2; extract_lets +onlyGivenNames v3; clear_value v3; apply Chip.triggerDue_keeps
    apply Chip.modTransport_keeps; assumption

theorem Chip.captureEvent_keeps (c : Chip) (n : Nat) (e : Drive) {c₀ : Chip} (hc : Keeps c₀ c) : Keeps c₀ (Chip.captureEvent c n e) := by
  unfold Chip.captureEvent
  with_reducible
    extract_lets +onlyGivenNames v1; clear_value v1; split; apply Chip.modStream_keeps; assumption
    apply Chip.modStream_keeps; assumption; extract_lets +onlyGivenNames v2; clear_value v2
    extract_lets +onlyGivenNames v3; clear_value v3; split; apply Chip.modStream_keeps; assumption
    assumption; apply Chip.modStream_keeps; assumption

theorem Chip.driveEvent_keeps (c : Chip) (n : Nat) (e : Drive) {c₀ : Chip} (hc : Keeps c₀ c) : Keeps c₀ (Chip.driveEvent c n e) := by
  unfold Chip.driveEvent
  with_reducible
    split; apply Chip.captureEvent_keeps; assumption; split; assumption; split; apply Chip.modStream_keeps
    assumption; apply Chip.modStream_keeps; assumption; split; extract_lets +onlyGivenNames v1
    clear_value v1; apply Chip.modStream_keeps; assumption; assumption; split
    extract_lets +onlyGivenNames v2; clear_value v2; apply Chip.modStream_keeps; assumption
    apply Chip.modStream_keeps; assumption

theorem Chip.takeSheet_keeps (c : Chip) (n : Nat) {c₀ : Chip} (hc : Keeps c₀ c) : Keeps c₀ (Chip.takeSheet c n).1 := by
  unfold Chip.takeSheet
  with_reducible
    extract_lets +onlyGivenNames v1; clear_value v1; extract_lets +onlyGivenNames v2; clear_value v2
    extract_lets +onlyGivenNames v3; refine Keeps.cut (a := c₀) (x := v3.1) ?_ (fun _ => ?_); unfold v3
    refine Keeps.pair₁ ?_; apply Chip.modTransport_keeps; assumption; split; split; assumption
    refine Keeps.pair₁ ?_; apply Chip.modTransport_keeps; assumption; extract_lets +onlyGivenNames v4
    clear_value v4; split; refine Keeps.pair₁ ?_; apply Chip.modTransport_keeps; assumption
    refine Keeps.pair₁ ?_; apply Chip.modTransport_keeps; assumption

theorem Chip.dropPage_keeps (c : Chip) (n : Nat) (i : Item) (why : List Byte) {c₀ : Chip} (hc : Keeps c₀ c) : Keeps c₀ (Chip.dropPage c n i why) := by
  unfold Chip.dropPage
  with_reducible
    extract_lets +onlyGivenNames v1; clear_value v1; apply Chip.modStream_keeps; apply Chip.endItem_keeps
    apply Chip.takeItem_keeps; assumption

theorem Chip.pageAdmit_keeps (c : Chip) (n : Nat) (t : Stamp) {c₀ : Chip} (hc : Keeps c₀ c) : Keeps c₀ (Chip.pageAdmit c n t) := by
  unfold Chip.pageAdmit
  with_reducible
    extract_lets +onlyGivenNames v1; refine Keeps.cut (a := c₀) (x := v1.1) ?_ (fun _ => ?_); unfold v1
    apply Chip.takeSheet_keeps; assumption; extract_lets +onlyGivenNames v2
    refine Keeps.cut (a := c₀) (x := v2) ?_ (fun _ => ?_); unfold v2; assumption
    extract_lets +onlyGivenNames v3; clear_value v3; split; apply Chip.dropPage_keeps; assumption
    extract_lets +onlyGivenNames v4; clear_value v4; extract_lets +onlyGivenNames v5; clear_value v5; split
    apply Chip.dropPage_keeps; apply Chip.bump_keeps; assumption; extract_lets +onlyGivenNames v6
    refine Keeps.cut (a := c₀) (x := v6) ?_ (fun _ => ?_); unfold v6; split; apply Chip.modStream_keeps
    apply Chip.useRefs_keeps; assumption; assumption; extract_lets +onlyGivenNames v7; clear_value v7
    extract_lets +onlyGivenNames v8; clear_value v8; extract_lets +onlyGivenNames v9
    refine Keeps.cut (a := c₀) (x := v9) ?_ (fun _ => ?_); unfold v9; split; apply Chip.takeItem_keeps
    apply Chip.put_keeps; assumption; apply Chip.takeItem_keeps; apply Chip.bump_keeps
    apply Chip.putB_keeps; assumption; apply Chip.modStream_keeps; apply Chip.wrap_keeps; assumption

theorem Chip.skewEnd_keeps (c : Chip) (n : Nat) (cap : Capture) {c₀ : Chip} (hc : Keeps c₀ c) : Keeps c₀ (Chip.skewEnd c n cap).1 := by
  unfold Chip.skewEnd
  with_reducible
    extract_lets +onlyGivenNames v1; clear_value v1; extract_lets +onlyGivenNames v2; clear_value v2; split
    refine Keeps.pair₁ ?_; apply Chip.flagItem_keeps; apply Chip.put_keeps; apply Chip.put_keeps; assumption
    extract_lets +onlyGivenNames v3; refine Keeps.cut (a := c₀) (x := v3) ?_ (fun _ => ?_); unfold v3
    apply Chip.put_keeps; apply Chip.putS_keeps; assumption; split; refine Keeps.pair₁ ?_
    apply Chip.bump_keeps; apply Chip.flagItem_keeps; assumption; assumption; assumption

theorem Chip.skewLine_keeps (c : Chip) (n idx : Nat) (cap : Capture) (l : List (List Nat)) {c₀ : Chip} (hc : Keeps c₀ c) : Keeps c₀ (Chip.skewLine c n idx cap l).1 := by
  unfold Chip.skewLine
  with_reducible
    split; assumption; extract_lets +onlyGivenNames v1; clear_value v1; extract_lets +onlyGivenNames v2
    clear_value v2; extract_lets +onlyGivenNames v3; clear_value v3; extract_lets +onlyGivenNames v4
    clear_value v4; extract_lets +onlyGivenNames v5; clear_value v5; split; apply Chip.skewEnd_keeps
    assumption; assumption

theorem Chip.pageEnd_keeps (c : Chip) (n : Nat) (cap : Capture) (long : Bool) {c₀ : Chip} (hc : Keeps c₀ c) : Keeps c₀ (Chip.pageEnd c n cap long) := by
  unfold Chip.pageEnd
  with_reducible
    extract_lets +onlyGivenNames v1; clear_value v1; extract_lets +onlyGivenNames v2; clear_value v2
    extract_lets +onlyGivenNames v3; refine Keeps.cut (a := c₀) (x := v3) ?_ (fun _ => ?_); unfold v3
    apply Chip.modStream_keeps; assumption; split; assumption; extract_lets +onlyGivenNames v4
    refine Keeps.cut (a := c₀) (x := v4.1) ?_ (fun _ => ?_); unfold v4; split; assumption
    apply Chip.skewEnd_keeps; assumption; extract_lets +onlyGivenNames v5
    refine Keeps.cut (a := c₀) (x := v5) ?_ (fun _ => ?_); unfold v5; assumption
    extract_lets +onlyGivenNames v6; clear_value v6; extract_lets +onlyGivenNames v7; clear_value v7
    extract_lets +onlyGivenNames v8; clear_value v8; extract_lets +onlyGivenNames v9; clear_value v9
    extract_lets +onlyGivenNames v10; clear_value v10; extract_lets +onlyGivenNames v11
    refine Keeps.cut (a := c₀) (x := v11) ?_ (fun _ => ?_); unfold v11; apply Chip.modItem_keeps; assumption
    split; apply Chip.endItem_keeps; apply Chip.bump_keeps; assumption; split; apply Chip.endItem_keeps
    assumption; apply Chip.modStream_keeps; assumption

theorem Chip.capturedLine_keeps (c : Chip) (n : Nat) (cap : Capture) (l : List (List Nat)) (t : Stamp) (sub : Bool) {c₀ : Chip} (hc : Keeps c₀ c) : Keeps c₀ (Chip.capturedLine c n cap l t sub) := by
  unfold Chip.capturedLine
  with_reducible
    extract_lets +onlyGivenNames v1; clear_value v1; extract_lets +onlyGivenNames v2; clear_value v2
    extract_lets +onlyGivenNames v3; clear_value v3; extract_lets +onlyGivenNames v4; clear_value v4
    extract_lets +onlyGivenNames v5; refine Keeps.cut (a := c₀) (x := v5.1) ?_ (fun _ => ?_); unfold v5
    split; refine Keeps.foldlP (fun _ _ _ => ?_) ?_; apply Chip.skewLine_keeps; assumption; assumption
    assumption; extract_lets +onlyGivenNames v6; refine Keeps.cut (a := c₀) (x := v6) ?_ (fun _ => ?_)
    unfold v6; assumption; extract_lets +onlyGivenNames v7; clear_value v7; extract_lets +onlyGivenNames v8
    refine Keeps.cut (a := c₀) (x := v8) ?_ (fun _ => ?_); unfold v8; split; split
    apply Chip.flagItem_keeps; assumption; assumption; assumption; split; apply Chip.pageEnd_keeps
    assumption; split; apply Chip.pageEnd_keeps; assumption; apply Chip.modStream_keeps; assumption

theorem Chip.pageLine_keeps (c : Chip) (n : Nat) (t : Stamp) (sub : Bool) {c₀ : Chip} (hc : Keeps c₀ c) : Keeps c₀ (Chip.pageLine c n t sub) := by
  unfold Chip.pageLine
  with_reducible
    extract_lets +onlyGivenNames v1; clear_value v1; extract_lets +onlyGivenNames v2; clear_value v2; split
    apply Chip.capturedLine_keeps; assumption; split; assumption; extract_lets +onlyGivenNames v3
    clear_value v3; split; split; apply Chip.modStream_keeps; assumption; split; apply Chip.modStream_keeps
    assumption; apply Chip.modStream_keeps; assumption; split; extract_lets +onlyGivenNames v4
    refine Keeps.cut (a := c₀) (x := v4) ?_ (fun _ => ?_); unfold v4; apply Chip.pageAdmit_keeps; assumption
    split; apply Chip.capturedLine_keeps; assumption; assumption; assumption

theorem Chip.lineIn_keeps (c : Chip) (n : Nat) (raw : List Nat) (t : Stamp) {c₀ : Chip} (hc : Keeps c₀ c) : Keeps c₀ (Chip.lineIn c n raw t) := by
  unfold Chip.lineIn
  with_reducible
    apply Chip.pageLine_keeps; apply Chip.modStream_keeps; assumption

theorem Chip.lineSubst_keeps (c : Chip) (n : Nat) (t : Option Stamp) {c₀ : Chip} (hc : Keeps c₀ c) : Keeps c₀ (Chip.lineSubst c n t) := by
  unfold Chip.lineSubst
  with_reducible
    extract_lets +onlyGivenNames v1; clear_value v1; extract_lets +onlyGivenNames v2; clear_value v2
    apply Chip.pageLine_keeps; apply Chip.modStream_keeps; apply Chip.bump_keeps; assumption

theorem Chip.streamReady_keeps (c : Chip) (n : Nat) {c₀ : Chip} (hc : Keeps c₀ c) : Keeps c₀ (Chip.streamReady c n) := by
  unfold Chip.streamReady
  with_reducible
    apply Chip.put_keeps; assumption

theorem Chip.enablingDone_keeps (c : Chip) (n : Nat) {c₀ : Chip} (hc : Keeps c₀ c) : Keeps c₀ (Chip.enablingDone c n) := by
  unfold Chip.enablingDone
  with_reducible
    split; apply Chip.streamReady_keeps; assumption; assumption

theorem Chip.align_keeps (c : Chip) (n : Nat) (good : Bool) {c₀ : Chip} (hc : Keeps c₀ c) : Keeps c₀ (Chip.align c n good) := by
  unfold Chip.align
  with_reducible
    extract_lets +onlyGivenNames v1; clear_value v1; split; assumption; split
    extract_lets +onlyGivenNames v2; clear_value v2; extract_lets +onlyGivenNames v3
    refine Keeps.cut (a := c₀) (x := v3) ?_ (fun _ => ?_); unfold v3; apply Chip.modStream_keeps; assumption
    split; apply Chip.putB_keeps; assumption; assumption; extract_lets +onlyGivenNames v4; clear_value v4
    extract_lets +onlyGivenNames v5; refine Keeps.cut (a := c₀) (x := v5) ?_ (fun _ => ?_); unfold v5
    apply Chip.modStream_keeps; assumption; split; apply Chip.putB_keeps; assumption; assumption

theorem Chip.lineDone_keeps (c : Chip) (n : Nat) (raw : List Nat) (m : Option Stamp) (bad : Bool) {c₀ : Chip} (hc : Keeps c₀ c) : Keeps c₀ (Chip.lineDone c n raw m bad) := by
  unfold Chip.lineDone
  with_reducible
    split; apply Chip.lineSubst_keeps; assumption; apply Chip.lineIn_keeps; assumption

theorem Chip.periodRead_keeps (c : Chip) (n : Nat) (p : Period) (samples : List Nat) (bad : Bool) {c₀ : Chip} (hc : Keeps c₀ c) : Keeps c₀ (Chip.periodRead c n p samples bad) := by
  unfold Chip.periodRead
  with_reducible
    extract_lets +onlyGivenNames v1; refine Keeps.cut (a := c₀) (x := v1) ?_ (fun _ => ?_); unfold v1
    apply Chip.modStream_keeps; assumption; split; assumption; split; extract_lets +onlyGivenNames v2
    clear_value v2; extract_lets +onlyGivenNames v3; clear_value v3; extract_lets +onlyGivenNames v4
    clear_value v4; split; extract_lets +onlyGivenNames v5
    refine Keeps.cut (a := c₀) (x := v5) ?_ (fun _ => ?_); unfold v5; apply Chip.modStream_keeps; assumption
    split; apply Chip.lineDone_keeps; assumption; assumption; apply Chip.modStream_keeps; assumption
    apply Chip.lineDone_keeps; assumption

theorem Chip.lineRead_keeps (c : Chip) (n : Nat) (samples : List Nat) (bad : Bool) {c₀ : Chip} (hc : Keeps c₀ c) : Keeps c₀ (Chip.lineRead c n samples bad) := by
  unfold Chip.lineRead
  with_reducible
    split; assumption; refine Keeps.foldl (fun _ _ _ => ?_) ?_; apply Chip.periodRead_keeps; assumption
    apply Chip.periodRead_keeps; assumption

theorem Chip.readout_keeps (c : Chip) (n : Nat) (w : Readout) {c₀ : Chip} (hc : Keeps c₀ c) : Keeps c₀ (Chip.readout c n w) := by
  unfold Chip.readout
  with_reducible
    extract_lets +onlyGivenNames v1; clear_value v1; split; assumption; extract_lets +onlyGivenNames v2
    clear_value v2; extract_lets +onlyGivenNames v3; clear_value v3; extract_lets +onlyGivenNames v4
    clear_value v4; extract_lets +onlyGivenNames v5; refine Keeps.cut (a := c₀) (x := v5) ?_ (fun _ => ?_)
    unfold v5; apply Chip.align_keeps; assumption; extract_lets +onlyGivenNames v6
    refine Keeps.cut (a := c₀) (x := v6) ?_ (fun _ => ?_); unfold v6; apply Chip.modStream_keeps; assumption
    extract_lets +onlyGivenNames v7; refine Keeps.cut (a := c₀) (x := v7) ?_ (fun _ => ?_); unfold v7; split
    apply Chip.log_keeps; apply Chip.bump_keeps; assumption; assumption; split
    apply Chip.enablingDone_keeps; apply Chip.modStream_keeps; assumption; apply Chip.lineRead_keeps
    apply foldN_keeps; assumption; intro _ _ _; apply Chip.lineRead_keeps; assumption

theorem Chip.intakeWrite_keeps (c : Chip) (h : HRef) (d : List Byte) {c₀ : Chip} (hc : Keeps c₀ c) : Keeps c₀ (Chip.intakeWrite c h d) := by
  unfold Chip.intakeWrite
  with_reducible
    split; apply Chip.handleFault_keeps; assumption; apply Chip.writeHandle_keeps; assumption

theorem Chip.intakeCopy_keeps (c : Chip) (src dst : HRef) (n : Nat) {c₀ : Chip} (hc : Keeps c₀ c) : Keeps c₀ (Chip.intakeCopy c src dst n) := by
  unfold Chip.intakeCopy
  with_reducible
    extract_lets +onlyGivenNames v1; clear_value v1; split; apply Chip.carry_keeps; assumption
    apply Chip.handleFault_keeps; assumption; apply Chip.handleFault_keeps; assumption

theorem Chip.retSlot_keeps (c : Chip) (n item : Nat) {c₀ : Chip} (hc : Keeps c₀ c) : Keeps c₀ (Chip.retSlot c n item).1 := by
  unfold Chip.retSlot
  with_reducible
    extract_lets +onlyGivenNames v1; clear_value v1; split; assumption; extract_lets +onlyGivenNames v2
    clear_value v2; refine Keeps.pair₁ ?_; apply Chip.modStream_keeps; assumption

theorem Chip.bandDone_keeps (c : Chip) (n : Nat) (cap : Capture) {c₀ : Chip} (hc : Keeps c₀ c) : Keeps c₀ (Chip.bandDone c n cap) := by
  unfold Chip.bandDone
  with_reducible
    extract_lets +onlyGivenNames v1; clear_value v1; extract_lets +onlyGivenNames v2; clear_value v2
    apply Chip.modStream_keeps; assumption

theorem Chip.putBand_keeps (c : Chip) (i : Item) (idx cnt : Nat) (data : List Byte) {c₀ : Chip} (hc : Keeps c₀ c) : Keeps c₀ (Chip.putBand c i idx cnt data) := by
  unfold Chip.putBand
  with_reducible
    extract_lets +onlyGivenNames v1; clear_value v1; split; extract_lets +onlyGivenNames v2
    refine Keeps.cut (a := c₀) (x := v2) ?_ (fun _ => ?_); unfold v2; apply Chip.intakeWrite_keeps
    assumption; extract_lets +onlyGivenNames v3; refine Keeps.cut (a := c₀) (x := v3) ?_ (fun _ => ?_)
    unfold v3; apply Chip.modStream_keeps; assumption; apply Chip.modItem_keeps; assumption
    extract_lets +onlyGivenNames v4; refine Keeps.cut (a := c₀) (x := v4) ?_ (fun _ => ?_); unfold v4; split
    apply Chip.bump_keeps; assumption; assumption; split; apply Chip.endItem_keeps; assumption
    extract_lets +onlyGivenNames v5; refine Keeps.cut (a := c₀) (x := v5.1) ?_ (fun _ => ?_); unfold v5
    apply Chip.retSlot_keeps; assumption; extract_lets +onlyGivenNames v6
    refine Keeps.cut (a := c₀) (x := v6) ?_ (fun _ => ?_); unfold v6; apply Chip.intakeWrite_keeps
    assumption; apply Chip.modItem_keeps; assumption

theorem Chip.bandWritten_keeps (c : Chip) (n band : Nat) {c₀ : Chip} (hc : Keeps c₀ c) : Keeps c₀ (Chip.bandWritten c n band) := by
  unfold Chip.bandWritten
  with_reducible
    extract_lets +onlyGivenNames v1; clear_value v1; split; assumption; extract_lets +onlyGivenNames v2
    refine Keeps.cut (a := c₀) (x := v2) ?_ (fun _ => ?_); unfold v2; apply Chip.bandDone_keeps; assumption
    extract_lets +onlyGivenNames v3; refine Keeps.cut (a := c₀) (x := v3.1) ?_ (fun _ => ?_); unfold v3
    apply Chip.hedgeOnce_keeps; assumption; split; assumption; split; assumption; split; assumption
    apply Chip.putBand_keeps; assumption

theorem Chip.freeRing_keeps (c : Chip) (item : Nat) {c₀ : Chip} (hc : Keeps c₀ c) : Keeps c₀ (Chip.freeRing c item) := by
  unfold Chip.freeRing
  with_reducible
    split; assumption; extract_lets +onlyGivenNames v1; clear_value v1; apply Chip.modItem_keeps
    apply Chip.modStream_keeps; assumption

theorem Chip.retentionDone_keeps (c : Chip) (n item band : Nat) {c₀ : Chip} (hc : Keeps c₀ c) : Keeps c₀ (Chip.retentionDone c n item band) := by
  unfold Chip.retentionDone
  with_reducible
    split; assumption; split; assumption; split; assumption; split; assumption
    extract_lets +onlyGivenNames v1; refine Keeps.cut (a := c₀) (x := v1.1) ?_ (fun _ => ?_); unfold v1
    apply Chip.retSlot_keeps; assumption; apply Chip.freeRing_keeps; apply Chip.modItem_keeps
    apply Chip.intakeCopy_keeps; assumption

theorem Chip.dropBand_keeps (c : Chip) (item band : Nat) {c₀ : Chip} (hc : Keeps c₀ c) : Keeps c₀ (Chip.dropBand c item band) := by
  unfold Chip.dropBand
  with_reducible
    split; assumption; extract_lets +onlyGivenNames v1
    refine Keeps.cut (a := c₀) (x := v1) ?_ (fun _ => ?_); unfold v1; apply Chip.modItem_keeps; assumption
    extract_lets +onlyGivenNames v2; refine Keeps.cut (a := c₀) (x := v2) ?_ (fun _ => ?_); unfold v2; split
    apply Chip.bump_keeps; assumption; assumption; apply Chip.freeRing_keeps; apply Chip.endItem_keeps
    assumption

theorem Chip.staleBands_keeps (c : Chip) {c₀ : Chip} (hc : Keeps c₀ c) : Keeps c₀ (Chip.staleBands c) := by
  unfold Chip.staleBands
  with_reducible
    refine Keeps.foldl (fun _ _ _ => ?_) ?_; refine Keeps.foldl (fun _ _ _ => ?_) ?_
    apply Chip.dropBand_keeps; assumption; assumption; assumption

theorem Chip.transportStop_keeps (c : Chip) (k : Nat) {c₀ : Chip} (hc : Keeps c₀ c) : Keeps c₀ (Chip.transportStop c k) := by
  unfold Chip.transportStop
  with_reducible
    extract_lets +onlyGivenNames v1; clear_value v1; extract_lets +onlyGivenNames v2
    extract_lets +onlyGivenNames v3; clear_value v3; refine Keeps.foldl (fun _ _ _ => ?_) ?_
    extract_lets +onlyGivenNames v4; clear_value v4; extract_lets +onlyGivenNames v5
    refine Keeps.cut (a := c₀) (x := v5) ?_ (fun _ => ?_); unfold v5; apply Chip.modStream_keeps; assumption
    split; apply Chip.endItem_keeps; assumption; assumption; assumption

theorem Chip.streamFault_keeps (c : Chip) (n : Nat) {c₀ : Chip} (hc : Keeps c₀ c) : Keeps c₀ (Chip.streamFault c n) := by
  unfold Chip.streamFault
  with_reducible
    apply Chip.log_keeps; apply Chip.putB_keeps; apply Chip.put_keeps; assumption

theorem Chip.afeConfigDone_keeps (c : Chip) (n : Nat) (reads : List Nat) {c₀ : Chip} (hc : Keeps c₀ c) : Keeps c₀ (Chip.afeConfigDone c n reads) := by
  unfold Chip.afeConfigDone
  with_reducible
    split; assumption; extract_lets +onlyGivenNames v1
    refine Keeps.cut (a := c₀) (x := v1) ?_ (fun _ => ?_); unfold v1; apply Chip.modStream_keeps; assumption
    split; apply Chip.enablingDone_keeps; apply Chip.modStream_keeps; assumption
    apply Chip.streamFault_keeps; assumption

theorem Chip.afeSyncTimeout_keeps (c : Chip) (n : Nat) {c₀ : Chip} (hc : Keeps c₀ c) : Keeps c₀ (Chip.afeSyncTimeout c n) := by
  unfold Chip.afeSyncTimeout
  with_reducible
    split; apply Chip.streamFault_keeps; assumption; assumption

theorem Chip.checkFault_keeps (c : Chip) (n : Nat) {c₀ : Chip} (hc : Keeps c₀ c) : Keeps c₀ (Chip.checkFault c n) := by
  unfold Chip.checkFault
  with_reducible
    extract_lets +onlyGivenNames v1; refine Keeps.cut (a := c₀) (x := v1) ?_ (fun _ => ?_); unfold v1
    apply Chip.put_keeps; assumption; split; apply Chip.putB_keeps; assumption; apply Chip.log_keeps
    apply Chip.putB_keeps; assumption

theorem Chip.streamEnabling_keeps (c : Chip) (n : Nat) {c₀ : Chip} (hc : Keeps c₀ c) : Keeps c₀ (Chip.streamEnabling c n) := by
  unfold Chip.streamEnabling
  with_reducible
    extract_lets +onlyGivenNames v1; clear_value v1; extract_lets +onlyGivenNames v2; clear_value v2
    extract_lets +onlyGivenNames v3; refine Keeps.cut (a := c₀) (x := v3) ?_ (fun _ => ?_); unfold v3; split
    apply Chip.modTransport_keeps; assumption; assumption; split; apply Chip.checkFault_keeps; assumption
    extract_lets +onlyGivenNames v4; refine Keeps.cut (a := c₀) (x := v4) ?_ (fun _ => ?_); unfold v4
    apply Chip.putB_keeps; apply Chip.putB_keeps; assumption; apply Chip.modStream_keeps
    apply Chip.put_keeps; assumption

theorem Chip.streamOff_keeps (c : Chip) (n : Nat) {c₀ : Chip} (hc : Keeps c₀ c) : Keeps c₀ (Chip.streamOff c n) := by
  unfold Chip.streamOff
  with_reducible
    extract_lets +onlyGivenNames v1; refine Keeps.cut (a := c₀) (x := v1) ?_ (fun _ => ?_); unfold v1
    apply Chip.putB_keeps; apply Chip.putB_keeps; apply Chip.put_keeps; assumption
    apply Chip.modStream_keeps; assumption

theorem Chip.lockStreams_keeps (c : Chip) {c₀ : Chip} (hc : Keeps c₀ c) : Keeps c₀ (Chip.lockStreams c) := by
  unfold Chip.lockStreams
  with_reducible
    refine Keeps.foldl (fun _ _ _ => ?_) ?_; split; apply Chip.put_keeps; assumption; assumption; assumption

theorem Chip.captureBegin_keeps (c : Chip) (n : Nat) {c₀ : Chip} (hc : Keeps c₀ c) : Keeps c₀ (Chip.captureBegin c n) := by
  unfold Chip.captureBegin
  with_reducible
    apply Chip.modStream_keeps; assumption

theorem Chip.captureOver_keeps (c : Chip) (n : Nat) {c₀ : Chip} (hc : Keeps c₀ c) : Keeps c₀ (Chip.captureOver c n) := by
  unfold Chip.captureOver
  with_reducible
    apply Chip.modStream_keeps; assumption

theorem Chip.captureRefs_keeps (c : Chip) (n : Nat) (w : CaptureIn) (digest : List Byte) {c₀ : Chip} (hc : Keeps c₀ c) : Keeps c₀ (Chip.captureRefs c n w digest).1 := by
  unfold Chip.captureRefs
  with_reducible
    extract_lets +onlyGivenNames v1; clear_value v1; split; assumption; extract_lets +onlyGivenNames v2
    clear_value v2; extract_lets +onlyGivenNames v3; refine Keeps.cut (a := c₀) (x := v3) ?_ (fun _ => ?_)
    unfold v3; apply Chip.captureOver_keeps; assumption; split; assumption; refine Keeps.pair₁ ?_
    apply Chip.modStream_keeps; assumption

theorem Chip.subResult_keeps (c : Chip) (s num : Nat) (why : List Byte) {c₀ : Chip} (hc : Keeps c₀ c) : Keeps c₀ (Chip.subResult c s num why) := by
  unfold Chip.subResult
  with_reducible
    extract_lets +onlyGivenNames v1; clear_value v1; apply Chip.formLoose_keeps; assumption

theorem Chip.recordItem_keeps (c : Chip) (s : Nat) (h : Option RecHdr) {c₀ : Chip} (hc : Keeps c₀ c) : Keeps c₀ (Chip.recordItem c s h).1 := by
  unfold Chip.recordItem
  with_reducible
    extract_lets +onlyGivenNames v1; clear_value v1; extract_lets +onlyGivenNames v2; clear_value v2
    extract_lets +onlyGivenNames v3; refine Keeps.cut (a := c₀) (x := v3) ?_ (fun _ => ?_); unfold v3
    refine Keeps.mk₁ ?_; assumption; extract_lets +onlyGivenNames v4; clear_value v4
    extract_lets +onlyGivenNames v5; clear_value v5; split; assumption; assumption

theorem Chip.refuse_keeps (c : Chip) (s : Nat) (h : Option RecHdr) (why : List Byte) (counted : Bool) {c₀ : Chip} (hc : Keeps c₀ c) : Keeps c₀ (Chip.refuse c s h why counted) := by
  unfold Chip.refuse
  with_reducible
    extract_lets +onlyGivenNames v1; clear_value v1; extract_lets +onlyGivenNames v2
    refine Keeps.cut (a := c₀) (x := v2.1) ?_ (fun _ => ?_); unfold v2; apply Chip.recordItem_keeps
    assumption; extract_lets +onlyGivenNames v3; refine Keeps.cut (a := c₀) (x := v3) ?_ (fun _ => ?_)
    unfold v3; apply Chip.takeItem_keeps; assumption; extract_lets +onlyGivenNames v4
    refine Keeps.cut (a := c₀) (x := v4) ?_ (fun _ => ?_); unfold v4; apply Chip.subResult_keeps; assumption
    extract_lets +onlyGivenNames v5; refine Keeps.cut (a := c₀) (x := v5) ?_ (fun _ => ?_); unfold v5; split
    apply Chip.bump_keeps; assumption; assumption; extract_lets +onlyGivenNames v6
    refine Keeps.cut (a := c₀) (x := v6) ?_ (fun _ => ?_); unfold v6; apply Chip.modSubm_keeps; assumption
    apply Chip.grant_keeps; apply Chip.endItem_keeps; assumption

theorem Chip.admitRecord_keeps (c : Chip) (s : Nat) (h : RecHdr) (planes : Nat) {c₀ : Chip} (hc : Keeps c₀ c) : Keeps c₀ (Chip.admitRecord c s h planes) := by
  unfold Chip.admitRecord
  with_reducible
    extract_lets +onlyGivenNames v1; clear_value v1; extract_lets +onlyGivenNames v2
    refine Keeps.cut (a := c₀) (x := v2.1) ?_ (fun _ => ?_); unfold v2; apply Chip.recordItem_keeps
    assumption; extract_lets +onlyGivenNames v3; clear_value v3; extract_lets +onlyGivenNames v4
    refine Keeps.cut (a := c₀) (x := v4) ?_ (fun _ => ?_); unfold v4; apply Chip.takeItem_keeps; assumption
    extract_lets +onlyGivenNames v5; refine Keeps.cut (a := c₀) (x := v5) ?_ (fun _ => ?_); unfold v5
    apply Chip.subResult_keeps; assumption; extract_lets +onlyGivenNames v6
    refine Keeps.cut (a := c₀) (x := v6) ?_ (fun _ => ?_); unfold v6; apply Chip.bump_keeps; assumption
    apply Chip.modSubm_keeps; assumption

theorem Chip.skipRecord_keeps (c : Chip) (s : Nat) (buf : List Byte) (skip : Option Nat) {c₀ : Chip} (hc : Keeps c₀ c) : Keeps c₀ (Chip.skipRecord c s buf skip).1 := by
  unfold Chip.skipRecord
  with_reducible
    split; refine Keeps.pair₁ ?_; apply Chip.modSubm_keeps; assumption; refine Keeps.pair₁ ?_
    apply Chip.modSubm_keeps; assumption

theorem Chip.headerStep_keeps (c : Chip) (s : Nat) (buf : List Byte) {c₀ : Chip} (hc : Keeps c₀ c) : Keeps c₀ (Chip.headerStep c s buf).1 := by
  unfold Chip.headerStep
  with_reducible
    extract_lets +onlyGivenNames v1; refine Keeps.cut (a := c₀) (x := v1.1) ?_ (fun _ => ?_); unfold v1
    refine Keeps.pair₁ ?_; apply Chip.modSubm_keeps; assumption; extract_lets +onlyGivenNames v2; split
    assumption; unfold v2; extract_lets +onlyGivenNames v3
    refine Keeps.cut (a := c₀) (x := v3) ?_ (fun _ => ?_); unfold v3; split; apply Chip.refuse_keeps
    assumption; apply Chip.refuse_keeps; assumption; extract_lets +onlyGivenNames v4
    refine Keeps.cut (a := c₀) (x := v4.1) ?_ (fun _ => ?_); unfold v4; apply Chip.skipRecord_keeps
    assumption; assumption; extract_lets +onlyGivenNames v5
    refine Keeps.cut (a := c₀) (x := v5) ?_ (fun _ => ?_); unfold v5; apply Chip.modSubm_keeps; assumption
    split; refine Keeps.pair₁ ?_; apply Chip.modSubm_keeps; assumption; unfold v2
    extract_lets +onlyGivenNames v6; refine Keeps.cut (a := c₀) (x := v6) ?_ (fun _ => ?_); unfold v6; split
    apply Chip.refuse_keeps; assumption; apply Chip.refuse_keeps; assumption
    extract_lets +onlyGivenNames v7; refine Keeps.cut (a := c₀) (x := v7.1) ?_ (fun _ => ?_); unfold v7
    apply Chip.skipRecord_keeps; assumption; assumption; extract_lets +onlyGivenNames v8; clear_value v8
    split; unfold v2; extract_lets +onlyGivenNames v9; refine Keeps.cut (a := c₀) (x := v9) ?_ (fun _ => ?_)
    unfold v9; split; apply Chip.refuse_keeps; assumption; apply Chip.refuse_keeps; assumption
    extract_lets +onlyGivenNames v10; refine Keeps.cut (a := c₀) (x := v10.1) ?_ (fun _ => ?_); unfold v10
    apply Chip.skipRecord_keeps; assumption; assumption; split; refine Keeps.pair₁ ?_
    apply Chip.modSubm_keeps; assumption; unfold v2; extract_lets +onlyGivenNames v11
    refine Keeps.cut (a := c₀) (x := v11) ?_ (fun _ => ?_); unfold v11; split; apply Chip.refuse_keeps
    assumption; apply Chip.refuse_keeps; assumption; extract_lets +onlyGivenNames v12
    refine Keeps.cut (a := c₀) (x := v12.1) ?_ (fun _ => ?_); unfold v12; apply Chip.skipRecord_keeps
    assumption; assumption; split; unfold v2; extract_lets +onlyGivenNames v13
    refine Keeps.cut (a := c₀) (x := v13) ?_ (fun _ => ?_); unfold v13; split; apply Chip.refuse_keeps
    assumption; apply Chip.refuse_keeps; assumption; extract_lets +onlyGivenNames v14
    refine Keeps.cut (a := c₀) (x := v14.1) ?_ (fun _ => ?_); unfold v14; apply Chip.skipRecord_keeps
    assumption; assumption; refine Keeps.pair₁ ?_; apply Chip.admitRecord_keeps; assumption

theorem Chip.recordWhole_keeps (c : Chip) (s : Nat) (t : Stamp) {c₀ : Chip} (hc : Keeps c₀ c) : Keeps c₀ (Chip.recordWhole c s t) := by
  unfold Chip.recordWhole
  with_reducible
    split; assumption; extract_lets +onlyGivenNames v1; clear_value v1; extract_lets +onlyGivenNames v2
    refine Keeps.cut (a := c₀) (x := v2) ?_ (fun _ => ?_); unfold v2; apply Chip.modItem_keeps; assumption
    apply Chip.modSubm_keeps; assumption

theorem Chip.feed_keeps (s : Nat) (t : Stamp) (k : Nat) (c : Chip) (l : List Byte) {c₀ : Chip} (hc : Keeps c₀ c) : Keeps c₀ (Chip.feed s t k c l) := by
  induction k generalizing c l with
  | zero => exact hc
  | succ k ih =>
    unfold Chip.feed
    with_reducible
      extract_lets +onlyGivenNames v1; split; assumption; split; apply ih; apply Chip.modSubm_keeps
      assumption; split; extract_lets +onlyGivenNames v2; extract_lets +onlyGivenNames v3
      refine Keeps.cut (a := c₀) (x := v3) ?_ (fun _ => ?_); unfold v3; split; split
      apply Chip.modItem_keeps; refine Keeps.updMem ?_ (fun h => Mem.writeAt_wf _ _ _ h); assumption
      assumption; assumption; extract_lets +onlyGivenNames v4
      refine Keeps.cut (a := c₀) (x := v4) ?_ (fun _ => ?_); unfold v4; apply Chip.modSubm_keeps; assumption
      extract_lets +onlyGivenNames v5; refine Keeps.cut (a := c₀) (x := v5) ?_ (fun _ => ?_); unfold v5
      split; apply Chip.recordWhole_keeps; assumption; assumption; apply ih; assumption; split
      refine Keeps.fst (by assumption) ?_; apply Chip.headerStep_keeps; assumption; apply ih
      refine Keeps.fst (by assumption) ?_; apply Chip.headerStep_keeps; assumption

theorem Chip.submissionEnd_keeps (c : Chip) (s : Nat) (t : Stamp) {c₀ : Chip} (hc : Keeps c₀ c) : Keeps c₀ (Chip.submissionEnd c s t) := by
  unfold Chip.submissionEnd
  with_reducible
    extract_lets +onlyGivenNames v1; clear_value v1; extract_lets +onlyGivenNames v2
    refine Keeps.cut (a := c₀) (x := v2) ?_ (fun _ => ?_); unfold v2; split; apply Chip.recordWhole_keeps
    assumption; assumption; extract_lets +onlyGivenNames v3
    refine Keeps.cut (a := c₀) (x := v3) ?_ (fun _ => ?_); unfold v3; split; split; apply Chip.refuse_keeps
    assumption; apply Chip.refuse_keeps; assumption; assumption; apply Chip.modSubm_keeps; assumption

theorem Chip.submitBytes_keeps (c : Chip) (s : Nat) (bytes : List Byte) (last : Bool) (t whole : Stamp) {c₀ : Chip} (hc : Keeps c₀ c) : Keeps c₀ (Chip.submitBytes c s bytes last t whole) := by
  unfold Chip.submitBytes
  with_reducible
    extract_lets +onlyGivenNames v1; refine Keeps.cut (a := c₀) (x := v1) ?_ (fun _ => ?_); unfold v1
    apply Chip.feed_keeps; assumption; split; apply Chip.submissionEnd_keeps; assumption; assumption

theorem Chip.submitWaiting_keeps (c : Chip) (s : Nat) (w : Inbox) {c₀ : Chip} (hc : Keeps c₀ c) : Keeps c₀ (Chip.submitWaiting c s w) := by
  unfold Chip.submitWaiting
  with_reducible
    apply Chip.submitBytes_keeps; apply Chip.modSubm_keeps; apply Chip.modSess_keeps; assumption

theorem Chip.submit_keeps (c : Chip) (s : Nat) (bytes : List Byte) (last : Bool) {c₀ : Chip} (hc : Keeps c₀ c) : Keeps c₀ (Chip.submit c s bytes last) := by
  unfold Chip.submit
  with_reducible
    extract_lets +onlyGivenNames v1; clear_value v1; split; assumption; split
    apply Chip.submitWaiting_keeps; assumption; apply Chip.submitBytes_keeps; assumption

theorem Chip.cancelRecord_keeps (c : Chip) (s : Nat) (why : List Byte) {c₀ : Chip} (hc : Keeps c₀ c) : Keeps c₀ (Chip.cancelRecord c s why) := by
  unfold Chip.cancelRecord
  with_reducible
    extract_lets +onlyGivenNames v1; clear_value v1; split; assumption; extract_lets +onlyGivenNames v2
    refine Keeps.cut (a := c₀) (x := v2) ?_ (fun _ => ?_); unfold v2; apply Chip.modSubm_keeps; assumption
    split; assumption; split; assumption; apply Chip.endItem_keeps; apply Chip.bump_keeps; assumption

theorem Chip.submitTimeout_keeps (c : Chip) (s : Nat) {c₀ : Chip} (hc : Keeps c₀ c) : Keeps c₀ (Chip.submitTimeout c s) := by
  unfold Chip.submitTimeout
  with_reducible
    apply Chip.cancelRecord_keeps; assumption

theorem Chip.submClosed_keeps (c : Chip) (s : Nat) {c₀ : Chip} (hc : Keeps c₀ c) : Keeps c₀ (Chip.submClosed c s) := by
  unfold Chip.submClosed
  with_reducible
    extract_lets +onlyGivenNames v1; refine Keeps.cut (a := c₀) (x := v1) ?_ (fun _ => ?_); unfold v1
    refine Keeps.foldl (fun _ _ _ => ?_) ?_; apply Chip.submitWaiting_keeps; assumption; assumption
    extract_lets +onlyGivenNames v2; refine Keeps.cut (a := c₀) (x := v2) ?_ (fun _ => ?_); unfold v2
    apply Chip.cancelRecord_keeps; assumption; apply Chip.modSubm_keeps; assumption

theorem Chip.endSess_keeps (c : Chip) (x type : Nat) {c₀ : Chip} (hc : Keeps c₀ c) : Keeps c₀ (Chip.endSess c x type) := by
  unfold Chip.endSess
  with_reducible
    apply Chip.sendClose_keeps; split; apply Chip.submClosed_keeps; assumption; assumption

theorem Chip.decodeStart_keeps (c : Chip) (n : Nat) {c₀ : Chip} (hc : Keeps c₀ c) : Keeps c₀ (Chip.decodeStart c n) := by
  unfold Chip.decodeStart
  with_reducible
    split; assumption; split; assumption; extract_lets +onlyGivenNames v1
    refine Keeps.cut (a := c₀) (x := v1) ?_ (fun _ => ?_); unfold v1; apply Chip.modItem_keeps; assumption
    split; apply Chip.overflowItem_keeps; assumption; assumption

theorem Chip.decodeStep_keeps (c : Chip) (n : Nat) {c₀ : Chip} (hc : Keeps c₀ c) : Keeps c₀ (Chip.decodeStep c n) := by
  unfold Chip.decodeStep
  with_reducible
    split; assumption; split; assumption; extract_lets +onlyGivenNames v1; clear_value v1
    extract_lets +onlyGivenNames v2; clear_value v2; extract_lets +onlyGivenNames v3; clear_value v3
    extract_lets +onlyGivenNames v4; clear_value v4; extract_lets +onlyGivenNames v5; clear_value v5
    extract_lets +onlyGivenNames v6; clear_value v6; extract_lets +onlyGivenNames v7; clear_value v7
    extract_lets +onlyGivenNames v8; clear_value v8; extract_lets +onlyGivenNames v9; clear_value v9
    extract_lets +onlyGivenNames v10; clear_value v10; extract_lets +onlyGivenNames v11; clear_value v11
    extract_lets +onlyGivenNames v12; clear_value v12; extract_lets +onlyGivenNames v13; clear_value v13
    extract_lets +onlyGivenNames v14; clear_value v14; extract_lets +onlyGivenNames v15; clear_value v15
    extract_lets +onlyGivenNames v16; clear_value v16; extract_lets +onlyGivenNames v17
    refine Keeps.cut (a := c₀) (x := v17) ?_ (fun _ => ?_); unfold v17; apply Chip.flagItem_keeps
    assumption; extract_lets +onlyGivenNames v18; clear_value v18; extract_lets +onlyGivenNames v19
    refine Keeps.cut (a := c₀) (x := v19) ?_ (fun _ => ?_); unfold v19; apply Chip.putBand_keeps
    apply Chip.modItem_keeps; assumption; split; assumption; extract_lets +onlyGivenNames v20
    clear_value v20; extract_lets +onlyGivenNames v21; clear_value v21; extract_lets +onlyGivenNames v22
    refine Keeps.cut (a := c₀) (x := v22) ?_ (fun _ => ?_); unfold v22; apply Chip.bump_keeps; assumption
    extract_lets +onlyGivenNames v23; refine Keeps.cut (a := c₀) (x := v23) ?_ (fun _ => ?_); unfold v23
    apply Chip.modItem_keeps; assumption; extract_lets +onlyGivenNames v24
    refine Keeps.cut (a := c₀) (x := v24) ?_ (fun _ => ?_); unfold v24; split; assumption
    apply Chip.flagItem_keeps; assumption; split; apply Chip.endItem_keeps; apply Chip.bump_keeps
    assumption; assumption

theorem Chip.noteLag_keeps (c : Chip) (u : StepUnit) (ns : Nat) {c₀ : Chip} (hc : Keeps c₀ c) : Keeps c₀ (Chip.noteLag c u ns) := by
  unfold Chip.noteLag
  with_reducible
    split; apply Chip.updSched_keeps; assumption; assumption

theorem Chip.takeBand_keeps (c : Chip) (n b : Nat) {c₀ : Chip} (hc : Keeps c₀ c) : Keeps c₀ (Chip.takeBand c n b) := by
  unfold Chip.takeBand
  with_reducible
    split; assumption; split; assumption; split; assumption; split; apply Chip.dropBand_keeps; assumption
    apply Chip.modItem_keeps; assumption

theorem Chip.serveSlot_keeps (c : Chip) (d : StepDesc) {c₀ : Chip} (hc : Keeps c₀ c) : Keeps c₀ (Chip.serveSlot c d) := by
  unfold Chip.serveSlot
  with_reducible
    extract_lets +onlyGivenNames v1; clear_value v1; extract_lets +onlyGivenNames v2
    refine Keeps.cut (a := c₀) (x := v2) ?_ (fun _ => ?_); unfold v2; apply Chip.updSched_keeps; assumption
    split; split; apply Chip.modHedge_keeps; assumption; assumption; assumption

theorem Chip.stepStart_keeps (c : Chip) (d : StepDesc) {c₀ : Chip} (hc : Keeps c₀ c) : Keeps c₀ (Chip.stepStart c d) := by
  unfold Chip.stepStart
  with_reducible
    split; assumption; extract_lets +onlyGivenNames v1
    refine Keeps.cut (a := c₀) (x := v1) ?_ (fun _ => ?_); unfold v1; split
    refine Keeps.foldl (fun _ _ _ => ?_) ?_; apply Chip.takeBand_keeps; assumption; assumption; assumption
    split; assumption; extract_lets +onlyGivenNames v2
    refine Keeps.cut (a := c₀) (x := v2) ?_ (fun _ => ?_); unfold v2; apply Chip.noteLag_keeps
    apply Chip.serveSlot_keeps; apply Chip.setRun_keeps; assumption; extract_lets +onlyGivenNames v3
    clear_value v3; split; apply Chip.handleFault_keeps; assumption; assumption

theorem Chip.countQ_keeps (c : Chip) (q : QCnt) {c₀ : Chip} (hc : Keeps c₀ c) : Keeps c₀ (Chip.countQ c q) := by
  unfold Chip.countQ
  with_reducible
    apply Chip.bump_keeps; apply Chip.bump_keeps; apply Chip.bump_keeps; assumption

theorem Chip.writeOut_keeps (c : Chip) (who : Issuer) (run : StepRun) (d : Dest) (b : List Byte) {c₀ : Chip} (hc : Keeps c₀ c) : Keeps c₀ (Chip.writeOut c who run d b).1 := by
  unfold Chip.writeOut
  with_reducible
    split; assumption; refine Keeps.pair₁ ?_; apply Chip.writeSlot_keeps; assumption; split
    refine Keeps.pair₁ ?_; apply Chip.handleFault_keeps; assumption; refine Keeps.pair₁ ?_
    apply Chip.writeHandle_keeps; assumption

theorem Chip.unitFree_keeps (c : Chip) (u : Nat) (item : Option Nat) {c₀ : Chip} (hc : Keeps c₀ c) : Keeps c₀ (Chip.unitFree c u item) := by
  unfold Chip.unitFree
  with_reducible
    extract_lets +onlyGivenNames v1; refine Keeps.cut (a := c₀) (x := v1) ?_ (fun _ => ?_); unfold v1
    apply Chip.kvRun_keeps; apply Chip.boundary_keeps; apply Chip.setRun_keeps; assumption; split
    apply Chip.endDue_keeps; assumption; assumption

theorem Chip.rollBack_keeps (c : Chip) (u : Nat) {c₀ : Chip} (hc : Keeps c₀ c) : Keeps c₀ (Chip.rollBack c u) := by
  unfold Chip.rollBack
  with_reducible
    split; assumption; apply Chip.unitFree_keeps; apply Chip.undoSlots_keeps; assumption

theorem Chip.stepLost_keeps (c : Chip) (u : StepUnit) (cls : Nat) {c₀ : Chip} (hc : Keeps c₀ c) : Keeps c₀ (Chip.stepLost c u cls) := by
  unfold Chip.stepLost
  with_reducible
    split; assumption; extract_lets +onlyGivenNames v1
    refine Keeps.cut (a := c₀) (x := v1) ?_ (fun _ => ?_); unfold v1; split; apply Chip.log_keeps
    assumption; assumption; apply Chip.kvRun_keeps; apply Chip.loseStep_keeps; assumption

theorem Chip.skewFail_keeps (c : Chip) (run : StepRun) (fields : List Nat) {c₀ : Chip} (hc : Keeps c₀ c) : Keeps c₀ (Chip.skewFail c run fields) := by
  unfold Chip.skewFail
  with_reducible
    extract_lets +onlyGivenNames v1; refine Keeps.cut (a := c₀) (x := v1) ?_ (fun _ => ?_); unfold v1
    apply Chip.bump_keeps; assumption; extract_lets +onlyGivenNames v2
    refine Keeps.cut (a := c₀) (x := v2) ?_ (fun _ => ?_); unfold v2; apply Chip.log_keeps; assumption
    split; assumption; split; assumption; extract_lets +onlyGivenNames v3; clear_value v3
    extract_lets +onlyGivenNames v4; clear_value v4; extract_lets +onlyGivenNames v5
    refine Keeps.cut (a := c₀) (x := v5) ?_ (fun _ => ?_); unfold v5; apply Chip.bump_keeps; assumption
    extract_lets +onlyGivenNames v6; refine Keeps.cut (a := c₀) (x := v6) ?_ (fun _ => ?_); unfold v6; split
    assumption; apply Chip.modItem_keeps; apply Chip.bump_keeps; assumption; apply Chip.failFields_keeps
    assumption

theorem Chip.skewAgain_keeps (c : Chip) (run : StepRun) {c₀ : Chip} (hc : Keeps c₀ c) : Keeps c₀ (Chip.skewAgain c run) := by
  unfold Chip.skewAgain
  with_reducible
    extract_lets +onlyGivenNames v1; clear_value v1; extract_lets +onlyGivenNames v2
    refine Keeps.cut (a := c₀) (x := v2) ?_ (fun _ => ?_); unfold v2; apply Chip.undoSlots_keeps; assumption
    extract_lets +onlyGivenNames v3; refine Keeps.cut (a := c₀) (x := v3) ?_ (fun _ => ?_); unfold v3
    apply Chip.setRun_keeps; assumption; apply Chip.bump_keeps; apply Chip.updSched_keeps; assumption

theorem Chip.wideWrite_keeps (c : Chip) (who : Issuer) (run : StepRun) (t : WideTile) (o : QOut) {c₀ : Chip} (hc : Keeps c₀ c) : Keeps c₀ (Chip.wideWrite c who run t o).1 := by
  unfold Chip.wideWrite
  with_reducible
    split; extract_lets +onlyGivenNames v1; refine Keeps.cut (a := c₀) (x := v1.1) ?_ (fun _ => ?_)
    unfold v1; apply Chip.writeOut_keeps; assumption; extract_lets +onlyGivenNames v2; clear_value v2; split
    refine Keeps.pair₁ ?_; apply Chip.countQ_keeps; apply Chip.updSched_keeps; assumption; assumption
    assumption

theorem Chip.wideMet_keeps (c : Chip) (who : Issuer) (run : StepRun) (t : WideTile) (o : QOut) {c₀ : Chip} (hc : Keeps c₀ c) : Keeps c₀ (Chip.wideMet c who run t o).1 := by
  unfold Chip.wideMet
  with_reducible
    extract_lets +onlyGivenNames v1; clear_value v1; split; extract_lets +onlyGivenNames v2
    refine Keeps.cut (a := c₀) (x := v2) ?_ (fun _ => ?_); unfold v2; apply Chip.updSched_keeps
    apply Chip.bump_keeps; assumption; refine Keeps.pair₁ ?_; split; assumption
    apply Chip.overflowItem_keeps; apply Chip.flagItem_keeps; assumption; extract_lets +onlyGivenNames v3
    refine Keeps.cut (a := c₀) (x := v3) ?_ (fun _ => ?_); unfold v3; apply Chip.bump_keeps; assumption
    extract_lets +onlyGivenNames v4; refine Keeps.cut (a := c₀) (x := v4) ?_ (fun _ => ?_); unfold v4; split
    assumption; apply Chip.modItem_keeps; assumption; apply Chip.wideWrite_keeps; assumption

theorem Chip.kvMiss_keeps (c : Chip) (run : StepRun) (k : KvUse) {c₀ : Chip} (hc : Keeps c₀ c) : Keeps c₀ (Chip.kvMiss c run k) := by
  unfold Chip.kvMiss
  with_reducible
    split; apply Chip.kvExhausted_keeps; assumption; apply Chip.kvFault_keeps; assumption
    apply Chip.bump_keeps; assumption; apply Chip.bump_keeps; apply Chip.log_keeps; assumption

theorem Chip.attendStep_keeps (c : Chip) (who : Issuer) (run : StepRun) (w : AttnWork) (d : Dest) {c₀ : Chip} (hc : Keeps c₀ c) : Keeps c₀ (Chip.attendStep c who run w d).1 := by
  unfold Chip.attendStep
  with_reducible
    extract_lets +onlyGivenNames v1; clear_value v1; extract_lets +onlyGivenNames v2; clear_value v2
    extract_lets +onlyGivenNames v3; clear_value v3; split; refine Keeps.pair₁ ?_
    apply Chip.cellError_keeps; assumption; refine Keeps.pair₁ ?_; apply Chip.handleFault_keeps; assumption
    refine Keeps.pair₁ ?_; apply Chip.kvMiss_keeps; apply Chip.walkAhead_keeps; assumption
    extract_lets +onlyGivenNames v4; refine Keeps.cut (a := c₀) (x := v4.1) ?_ (fun _ => ?_); unfold v4
    apply Chip.meetAll_keeps; apply Chip.walkAhead_keeps; assumption; split; refine Keeps.pair₁ ?_
    apply Chip.kvRun_keeps; apply Chip.loseStep_keeps; assumption; extract_lets +onlyGivenNames v5
    refine Keeps.cut (a := c₀) (x := v5.1) ?_ (fun _ => ?_); unfold v5; apply Chip.writeOut_keeps
    assumption; split; assumption; extract_lets +onlyGivenNames v6
    refine Keeps.cut (a := c₀) (x := v6) ?_ (fun _ => ?_); unfold v6; apply Chip.bump_keeps; assumption
    extract_lets +onlyGivenNames v7; refine Keeps.cut (a := c₀) (x := v7) ?_ (fun _ => ?_); unfold v7
    apply Chip.updSched_keeps; assumption; extract_lets +onlyGivenNames v8; clear_value v8
    extract_lets +onlyGivenNames v9; refine Keeps.cut (a := c₀) (x := v9) ?_ (fun _ => ?_); unfold v9
    apply Chip.bump_keeps; assumption; extract_lets +onlyGivenNames v10
    refine Keeps.cut (a := c₀) (x := v10) ?_ (fun _ => ?_); unfold v10; split; assumption; split
    apply Chip.flagItem_keeps; assumption; assumption; refine Keeps.pair₁ ?_; apply Chip.bump_keeps
    assumption

theorem Chip.kvWriteStep_keeps (c : Chip) (run : StepRun) (seq layer pos hkv dim head : Nat) (f : Fmt) (proj : MatWork) {c₀ : Chip} (hc : Keeps c₀ c) : Keeps c₀ (Chip.kvWriteStep c run seq layer pos hkv dim head f proj).1 := by
  unfold Chip.kvWriteStep
  with_reducible
    extract_lets +onlyGivenNames v1; clear_value v1; extract_lets +onlyGivenNames v2
    refine Keeps.cut (a := c₀) (x := v2.1) ?_ (fun _ => ?_); unfold v2; refine Keeps.pair₁ ?_
    apply Chip.cellError_keeps; assumption; split; assumption; split; assumption; split; split; assumption
    split; assumption; split; assumption; refine Keeps.pair₁ ?_; apply Chip.nextField_keeps
    apply Chip.endField_keeps; apply Chip.flushHeld_keeps; assumption; extract_lets +onlyGivenNames v3
    clear_value v3; extract_lets +onlyGivenNames v4; refine Keeps.cut (a := c₀) (x := v4) ?_ (fun _ => ?_)
    unfold v4; apply Chip.walkAhead_keeps; assumption; split; split; refine Keeps.pair₁ ?_
    apply Chip.kvMiss_keeps; assumption; extract_lets +onlyGivenNames v5; clear_value v5
    refine Keeps.pair₁ ?_; apply Chip.countQ_keeps; apply Chip.kvPut_keeps; apply Chip.kvPut_keeps
    assumption; refine Keeps.pair₁ ?_; apply Chip.kvMiss_keeps; assumption

theorem Chip.layoutStep_keeps (c : Chip) (who : Issuer) (n band steer : Nat) {c₀ : Chip} (hc : Keeps c₀ c) : Keeps c₀ (Chip.layoutStep c who n band steer).1 := by
  unfold Chip.layoutStep
  with_reducible
    split; assumption; split; assumption; extract_lets +onlyGivenNames v1
    refine Keeps.cut (a := c₀) (x := v1) ?_ (fun _ => ?_); unfold v1; apply Chip.modItem_keeps; assumption
    split; assumption; split; refine Keeps.pair₁ ?_; apply Chip.handleFault_keeps; assumption
    extract_lets +onlyGivenNames v2; clear_value v2; refine Keeps.pair₁ ?_; apply Chip.writeHandle_keeps
    assumption

theorem Chip.laneStep_keeps (c : Chip) (run : StepRun) (n : Nat) {c₀ : Chip} (hc : Keeps c₀ c) : Keeps c₀ (Chip.laneStep c run n).1 := by
  unfold Chip.laneStep
  with_reducible
    split; assumption; extract_lets +onlyGivenNames v1
    refine Keeps.cut (a := c₀) (x := v1.1) ?_ (fun _ => ?_); unfold v1; split; apply Chip.meetAll_keeps
    assumption; assumption; split; refine Keeps.pair₁ ?_; apply Chip.kvRun_keeps; apply Chip.loseStep_keeps
    assumption; extract_lets +onlyGivenNames v2; refine Keeps.cut (a := c₀) (x := v2) ?_ (fun _ => ?_)
    unfold v2; split; apply Chip.modItem_keeps; assumption; assumption; refine Keeps.pair₁ ?_
    apply Chip.decodeStep_keeps; assumption

theorem Chip.itemWork_keeps (c : Chip) (who : Issuer) (run : StepRun) (n : Nat) (w : StepWork) {c₀ : Chip} (hc : Keeps c₀ c) : Keeps c₀ (Chip.itemWork c who run n w).1 := by
  unfold Chip.itemWork
  with_reducible
    split; apply Chip.laneStep_keeps; assumption; apply Chip.layoutStep_keeps; assumption
    refine Keeps.pair₁ ?_; split; split; assumption; apply Chip.recognise_keeps; assumption; assumption
    refine Keeps.pair₁ ?_; apply Chip.prefill_keeps; assumption; refine Keeps.pair₁ ?_
    apply Chip.modItem_keeps; apply Chip.fieldToken_keeps; apply Chip.formBegin_keeps; assumption
    assumption

theorem Chip.outStep_keeps (c : Chip) (who : Issuer) (run : StepRun) (w : StepWork) (d : Dest) (o : QOut) (scales : List ScaleEntry) {c₀ : Chip} (hc : Keeps c₀ c) : Keeps c₀ (Chip.outStep c who run w d o scales).1 := by
  unfold Chip.outStep
  with_reducible
    extract_lets +onlyGivenNames v1; clear_value v1; extract_lets +onlyGivenNames v2; split; unfold v2
    extract_lets +onlyGivenNames v3; refine Keeps.cut (a := c₀) (x := v3.1) ?_ (fun _ => ?_); unfold v3
    apply Chip.writeOut_keeps; assumption; split; refine Keeps.pair₁ ?_; apply Chip.countQ_keeps; assumption
    assumption; extract_lets +onlyGivenNames v4; refine Keeps.cut (a := c₀) (x := v4.1) ?_ (fun _ => ?_)
    unfold v4; refine Keeps.pair₁ ?_; apply Chip.cellError_keeps; assumption; split; split; assumption
    apply Chip.wideWrite_keeps; assumption; extract_lets +onlyGivenNames v5; clear_value v5; split
    assumption; extract_lets +onlyGivenNames v6; clear_value v6; extract_lets +onlyGivenNames v7
    refine Keeps.cut (a := c₀) (x := v7.1) ?_ (fun _ => ?_); unfold v7; unfold v2
    extract_lets +onlyGivenNames v8; refine Keeps.cut (a := c₀) (x := v8.1) ?_ (fun _ => ?_); unfold v8
    apply Chip.writeOut_keeps; apply Chip.updSched_keeps; assumption; split; refine Keeps.pair₁ ?_
    apply Chip.countQ_keeps; assumption; assumption; split; apply Chip.wideMet_keeps; assumption; assumption

theorem Chip.perform_keeps (c : Chip) (run : StepRun) (w : StepEndIn) {c₀ : Chip} (hc : Keeps c₀ c) : Keeps c₀ (Chip.perform c run w).1 := by
  unfold Chip.perform
  with_reducible
    extract_lets +onlyGivenNames v1; clear_value v1; extract_lets +onlyGivenNames v2; clear_value v2
    extract_lets +onlyGivenNames v3; clear_value v3; split; split; split; extract_lets +onlyGivenNames v4
    refine Keeps.cut (a := c₀) (x := v4) ?_ (fun _ => ?_); unfold v4; apply Chip.updSched_keeps; assumption
    extract_lets +onlyGivenNames v5; refine Keeps.cut (a := c₀) (x := v5.1) ?_ (fun _ => ?_); unfold v5
    apply Chip.writeOut_keeps; assumption; split; refine Keeps.pair₁ ?_; apply Chip.skewFail_keeps
    assumption; assumption; refine Keeps.pair₁ ?_; apply Chip.skewAgain_keeps; assumption
    extract_lets +onlyGivenNames v6; refine Keeps.cut (a := c₀) (x := v6) ?_ (fun _ => ?_); unfold v6
    apply Chip.updSched_keeps; assumption; split; apply Chip.outStep_keeps; assumption
    refine Keeps.pair₁ ?_; apply Chip.cellError_keeps; assumption; split; refine Keeps.pair₁ ?_
    apply Chip.cellError_keeps; assumption; split; refine Keeps.pair₁ ?_; apply Chip.cellError_keeps
    assumption; apply Chip.outStep_keeps; assumption; split; apply Chip.attendStep_keeps; assumption
    apply Chip.kvWriteStep_keeps; assumption; split; refine Keeps.pair₁ ?_; apply Chip.cellError_keeps
    assumption; apply Chip.outStep_keeps; assumption; split; apply Chip.itemWork_keeps; assumption
    assumption

theorem Chip.commitPoint_keeps (c : Chip) (n : Nat) {c₀ : Chip} (hc : Keeps c₀ c) : Keeps c₀ (Chip.commitPoint c n) := by
  unfold Chip.commitPoint
  with_reducible
    apply Chip.modItem_keeps; assumption

theorem Chip.releaseBands_keeps (c : Chip) (n : Nat) (bs : List Nat) {c₀ : Chip} (hc : Keeps c₀ c) : Keeps c₀ (Chip.releaseBands c n bs) := by
  unfold Chip.releaseBands
  with_reducible
    apply Chip.freeRing_keeps; apply Chip.modItem_keeps; assumption

theorem Chip.countOverrun_keeps (c : Chip) (run : StepRun) {c₀ : Chip} (hc : Keeps c₀ c) : Keeps c₀ (Chip.countOverrun c run) := by
  unfold Chip.countOverrun
  with_reducible
    split; split; apply Chip.bump_keeps; assumption; assumption; assumption

theorem Chip.stepDone_keeps (c : Chip) (run : StepRun) (w : StepEndIn) {c₀ : Chip} (hc : Keeps c₀ c) : Keeps c₀ (Chip.stepDone c run w) := by
  unfold Chip.stepDone
  with_reducible
    extract_lets +onlyGivenNames v1; clear_value v1; extract_lets +onlyGivenNames v2; clear_value v2; split
    extract_lets +onlyGivenNames v3; refine Keeps.cut (a := c₀) (x := v3) ?_ (fun _ => ?_); unfold v3
    apply Chip.countOverrun_keeps; assumption; apply Chip.unitFree_keeps; split
    apply Chip.releaseBands_keeps; assumption; assumption; extract_lets +onlyGivenNames v4
    refine Keeps.cut (a := c₀) (x := v4.1) ?_ (fun _ => ?_); unfold v4; apply Chip.perform_keeps; assumption
    split; apply Chip.kvRun_keeps; assumption; extract_lets +onlyGivenNames v5
    refine Keeps.cut (a := c₀) (x := v5) ?_ (fun _ => ?_); unfold v5; apply Chip.countOverrun_keeps
    assumption; split; apply Chip.unitFree_keeps; assumption; extract_lets +onlyGivenNames v6
    refine Keeps.cut (a := c₀) (x := v6) ?_ (fun _ => ?_); unfold v6; split; apply Chip.commitPoint_keeps
    assumption; assumption; extract_lets +onlyGivenNames v7
    refine Keeps.cut (a := c₀) (x := v7) ?_ (fun _ => ?_); unfold v7; apply Chip.releaseBands_keeps
    assumption; extract_lets +onlyGivenNames v8; refine Keeps.cut (a := c₀) (x := v8) ?_ (fun _ => ?_)
    unfold v8; apply Chip.unitFree_keeps; assumption; split; apply Chip.settleItem_keeps; assumption
    assumption

theorem Chip.stepEnd_keeps (c : Chip) (w : StepEndIn) {c₀ : Chip} (hc : Keeps c₀ c) : Keeps c₀ (Chip.stepEnd c w) := by
  unfold Chip.stepEnd
  with_reducible
    split; assumption; split; split; assumption; apply Chip.stepDone_keeps; assumption; split
    apply Chip.cellError_keeps; assumption; assumption; apply Chip.rollBack_keeps; assumption
    apply Chip.stepLost_keeps; assumption

theorem Chip.itemCutoff_keeps (c : Chip) (n : Nat) {c₀ : Chip} (hc : Keeps c₀ c) : Keeps c₀ (Chip.itemCutoff c n) := by
  unfold Chip.itemCutoff
  with_reducible
    split; assumption; split; split; assumption; apply Chip.endDue_keeps; apply Chip.endSoon_keeps
    assumption; assumption

theorem Chip.lendBlock_keeps (c : Chip) (b u : Nat) {c₀ : Chip} (hc : Keeps c₀ c) : Keeps c₀ (Chip.lendBlock c b u) := by
  unfold Chip.lendBlock
  with_reducible
    apply Chip.serveFrom_keeps; refine Keeps.foldl (fun _ _ _ => ?_) ?_; apply Chip.setHndValid_keeps
    assumption; assumption

theorem Chip.lend_keeps (c : Chip) (p : Nat) {c₀ : Chip} (hc : Keeps c₀ c) : Keeps c₀ (Chip.lend c p) := by
  unfold Chip.lend
  with_reducible
    extract_lets +onlyGivenNames v1; refine Keeps.cut (a := c₀) (x := v1) ?_ (fun _ => ?_); unfold v1
    apply Chip.updSched_keeps; apply Chip.setLent_keeps; assumption; refine Keeps.foldl (fun _ _ _ => ?_) ?_
    apply Chip.lendBlock_keeps; assumption; assumption

theorem Chip.lending_keeps (c : Chip) {c₀ : Chip} (hc : Keeps c₀ c) : Keeps c₀ (Chip.lending c) := by
  unfold Chip.lending
  with_reducible
    refine Keeps.foldl (fun _ _ _ => ?_) ?_; split; assumption; extract_lets +onlyGivenNames v1
    clear_value v1; extract_lets +onlyGivenNames v2; refine Keeps.cut (a := c₀) (x := v2) ?_ (fun _ => ?_)
    unfold v2; apply Chip.updSched_keeps; assumption; extract_lets +onlyGivenNames v3; clear_value v3; split
    apply Chip.lend_keeps; assumption; assumption; assumption

theorem Chip.setPreempt_keeps (c : Chip) (p : Nat) (x : Option Preempt) {c₀ : Chip} (hc : Keeps c₀ c) : Keeps c₀ (Chip.setPreempt c p x) := by
  unfold Chip.setPreempt
  with_reducible
    apply Chip.updSched_keeps; assumption

theorem Chip.undoLending_keeps (c : Chip) (p : Nat) {c₀ : Chip} (hc : Keeps c₀ c) : Keeps c₀ (Chip.undoLending c p) := by
  unfold Chip.undoLending
  with_reducible
    apply Chip.updSched_keeps; apply Chip.unlend_keeps; assumption

theorem Chip.yieldLanes_keeps (c : Chip) (b : Nat) {c₀ : Chip} (hc : Keeps c₀ c) : Keeps c₀ (Chip.yieldLanes c b) := by
  unfold Chip.yieldLanes
  with_reducible
    refine Keeps.foldl (fun _ _ _ => ?_) ?_; split; split; apply Chip.rollBack_keeps; assumption; assumption
    assumption; assumption

theorem Chip.yieldBlock_keeps (c : Chip) (u : Nat) {c₀ : Chip} (hc : Keeps c₀ c) : Keeps c₀ (Chip.yieldBlock c u) := by
  unfold Chip.yieldBlock
  with_reducible
    split; apply Chip.stopBlock_keeps; assumption; split; apply Chip.rollBack_keeps; assumption
    apply Chip.modRun_keeps; assumption

end Sys2Proof.Machine
end

