-- ==== Sys2Proof/Laws/Keeps4.lean ====
section
/-!
SUPPORT. The relation Keeps, function by function in the order of the model: part 4, from Chip.preemption
to Chip.followAddr.  Each proof goes through the arms of its function.
-/

set_option linter.unusedVariables false

namespace Sys2Proof.Machine

theorem Chip.preemption_keeps (c : Chip) (p : Nat) {c₀ : Chip} (hc : Keeps c₀ c) : Keeps c₀ (Chip.preemption c p) := by
  unfold Chip.preemption
  with_reducible
    split; assumption; split; apply Chip.undoLending_keeps; assumption; extract_lets +onlyGivenNames v1
    clear_value v1; extract_lets +onlyGivenNames v2; refine Keeps.cut (a := c₀) (x := v2) ?_ (fun _ => ?_)
    unfold v2; apply Chip.bump_keeps; apply Chip.setPreempt_keeps; assumption
    refine Keeps.foldl (fun _ _ _ => ?_) ?_; apply Chip.yieldBlock_keeps; assumption
    apply Chip.yieldLanes_keeps; assumption

theorem Chip.spillComplete_keeps (c : Chip) (p : Nat) {c₀ : Chip} (hc : Keeps c₀ c) : Keeps c₀ (Chip.spillComplete c p) := by
  unfold Chip.spillComplete
  with_reducible
    split; assumption; split; assumption; extract_lets +onlyGivenNames v1; clear_value v1
    extract_lets +onlyGivenNames v2; refine Keeps.cut (a := c₀) (x := v2) ?_ (fun _ => ?_); unfold v2
    refine Keeps.foldl (fun _ _ _ => ?_) ?_; apply Chip.carry_keeps; assumption; assumption
    extract_lets +onlyGivenNames v3; refine Keeps.cut (a := c₀) (x := v3) ?_ (fun _ => ?_); unfold v3
    refine Keeps.foldl (fun _ _ _ => ?_) ?_; apply Chip.freeBlock_keeps; assumption; assumption
    extract_lets +onlyGivenNames v4; clear_value v4; extract_lets +onlyGivenNames v5
    refine Keeps.cut (a := c₀) (x := v5) ?_ (fun _ => ?_); unfold v5; apply Chip.updSched_keeps; assumption
    extract_lets +onlyGivenNames v6; refine Keeps.cut (a := c₀) (x := v6) ?_ (fun _ => ?_); unfold v6; split
    assumption; apply Chip.setLent_keeps; assumption; apply Chip.kvRun_keeps; apply Chip.setPreempt_keeps
    assumption

theorem Chip.preemptTick_keeps (c : Chip) {c₀ : Chip} (hc : Keeps c₀ c) : Keeps c₀ (Chip.preemptTick c) := by
  unfold Chip.preemptTick
  with_reducible
    refine Keeps.foldl (fun _ _ _ => ?_) ?_; split; assumption; split; assumption
    extract_lets +onlyGivenNames v1; refine Keeps.cut (a := c₀) (x := v1) ?_ (fun _ => ?_); unfold v1
    refine Keeps.foldl (fun _ _ _ => ?_) ?_; apply Chip.serveFrom_keeps; assumption
    apply Chip.setPreempt_keeps; assumption; split; apply Chip.bump_keeps; assumption; assumption
    assumption

theorem Chip.spillRestore_keeps (c : Chip) (p : Nat) {c₀ : Chip} (hc : Keeps c₀ c) : Keeps c₀ (Chip.spillRestore c p) := by
  unfold Chip.spillRestore
  with_reducible
    extract_lets +onlyGivenNames v1; clear_value v1; extract_lets +onlyGivenNames v2; clear_value v2
    extract_lets +onlyGivenNames v3; refine Keeps.cut (a := c₀) (x := v3) ?_ (fun _ => ?_); unfold v3
    refine Keeps.foldl (fun _ _ _ => ?_) ?_; apply Chip.carry_keeps; assumption; assumption
    apply Chip.updSched_keeps; assumption

theorem Chip.cancelBe_keeps (c : Chip) (sel : Item → Bool) {c₀ : Chip} (hc : Keeps c₀ c) : Keeps c₀ (Chip.cancelBe c sel) := by
  unfold Chip.cancelBe
  with_reducible
    refine Keeps.foldl (fun _ _ _ => ?_) ?_; apply Chip.endSoon_keeps; assumption; assumption

theorem Chip.disableStream_keeps (c : Chip) (n : Nat) {c₀ : Chip} (hc : Keeps c₀ c) : Keeps c₀ (Chip.disableStream c n) := by
  unfold Chip.disableStream
  with_reducible
    extract_lets +onlyGivenNames v1; refine Keeps.cut (a := c₀) (x := v1) ?_ (fun _ => ?_); unfold v1
    apply Chip.abortCapture_keeps; assumption; split; apply Chip.cancelBe_keeps; apply Chip.beginDrain_keeps
    apply Chip.put_keeps; assumption; apply Chip.streamOff_keeps; assumption; apply Chip.streamOff_keeps
    assumption; apply Chip.streamOff_keeps; assumption; assumption

theorem Chip.enableStream_keeps (c : Chip) (n : Nat) {c₀ : Chip} (hc : Keeps c₀ c) : Keeps c₀ (Chip.enableStream c n) := by
  unfold Chip.enableStream
  with_reducible
    split; apply Chip.streamEnabling_keeps; assumption; apply Chip.updSched_keeps; assumption; assumption

theorem Chip.disableSub_keeps (c : Chip) (s : Nat) {c₀ : Chip} (hc : Keeps c₀ c) : Keeps c₀ (Chip.disableSub c s) := by
  unfold Chip.disableSub
  with_reducible
    extract_lets +onlyGivenNames v1; clear_value v1; split; apply Chip.cancelBe_keeps
    apply Chip.beginDrain_keeps; apply Chip.put_keeps; assumption; assumption

theorem Chip.enableSub_keeps (c : Chip) (s : Nat) {c₀ : Chip} (hc : Keeps c₀ c) : Keeps c₀ (Chip.enableSub c s) := by
  unfold Chip.enableSub
  with_reducible
    split; apply Chip.grant_keeps; apply Chip.put_keeps; assumption; apply Chip.updSched_keeps; assumption
    assumption

theorem Chip.disableResult_keeps (c : Chip) (s : Nat) {c₀ : Chip} (hc : Keeps c₀ c) : Keeps c₀ (Chip.disableResult c s) := by
  unfold Chip.disableResult
  with_reducible
    split; apply Chip.beginDrain_keeps; apply Chip.put_keeps; assumption; assumption

theorem Chip.enableResult_keeps (c : Chip) (s : Nat) {c₀ : Chip} (hc : Keeps c₀ c) : Keeps c₀ (Chip.enableResult c s) := by
  unfold Chip.enableResult
  with_reducible
    split; apply Chip.updSched_keeps; assumption; assumption

theorem Chip.disablePart_keeps (c : Chip) (p : Nat) {c₀ : Chip} (hc : Keeps c₀ c) : Keeps c₀ (Chip.disablePart c p) := by
  unfold Chip.disablePart
  with_reducible
    split; assumption; split; apply Chip.putB_keeps; assumption; extract_lets +onlyGivenNames v1
    refine Keeps.cut (a := c₀) (x := v1) ?_ (fun _ => ?_); unfold v1; apply Chip.putB_keeps; assumption
    extract_lets +onlyGivenNames v2; refine Keeps.cut (a := c₀) (x := v2) ?_ (fun _ => ?_); unfold v2
    apply Chip.beginDrain_keeps; apply Chip.put_keeps; assumption; extract_lets +onlyGivenNames v3
    refine Keeps.cut (a := c₀) (x := v3) ?_ (fun _ => ?_); unfold v3
    refine Keeps.foldl (fun _ _ _ => ?_) ?_; apply Chip.disableStream_keeps; assumption; assumption
    extract_lets +onlyGivenNames v4; refine Keeps.cut (a := c₀) (x := v4) ?_ (fun _ => ?_); unfold v4
    refine Keeps.foldl (fun _ _ _ => ?_) ?_; apply Chip.disableSub_keeps; assumption; assumption
    apply Chip.returnLent_keeps; apply Chip.cancelBe_keeps; assumption

theorem Chip.enablePart_keeps (c : Chip) (p : Nat) {c₀ : Chip} (hc : Keeps c₀ c) : Keeps c₀ (Chip.enablePart c p) := by
  unfold Chip.enablePart
  with_reducible
    extract_lets +onlyGivenNames v1; refine Keeps.cut (a := c₀) (x := v1) ?_ (fun _ => ?_); unfold v1
    apply Chip.putB_keeps; assumption; split; apply Chip.put_keeps; assumption; apply Chip.updSched_keeps
    assumption; assumption

theorem Chip.disableAdapt_keeps (c : Chip) {c₀ : Chip} (hc : Keeps c₀ c) : Keeps c₀ (Chip.disableAdapt c) := by
  unfold Chip.disableAdapt
  with_reducible
    split; assumption; split; apply Chip.putB_keeps; assumption; extract_lets +onlyGivenNames v1
    refine Keeps.cut (a := c₀) (x := v1) ?_ (fun _ => ?_); unfold v1; apply Chip.putB_keeps; assumption
    extract_lets +onlyGivenNames v2; refine Keeps.cut (a := c₀) (x := v2) ?_ (fun _ => ?_); unfold v2
    apply Chip.beginDrain_keeps; apply Chip.put_keeps; assumption; split; assumption
    refine Keeps.foldl (fun _ _ _ => ?_) ?_; apply Chip.modSet_keeps; assumption; assumption

theorem Chip.enableAdapt_keeps (c : Chip) {c₀ : Chip} (hc : Keeps c₀ c) : Keeps c₀ (Chip.enableAdapt c) := by
  unfold Chip.enableAdapt
  with_reducible
    extract_lets +onlyGivenNames v1; refine Keeps.cut (a := c₀) (x := v1) ?_ (fun _ => ?_); unfold v1
    apply Chip.putB_keeps; assumption; split; apply Chip.put_keeps; assumption; apply Chip.updSched_keeps
    assumption; assumption

theorem Chip.enable_keeps (c : Chip) (t : Target) {c₀ : Chip} (hc : Keeps c₀ c) : Keeps c₀ (c.enable t) := by
  unfold Chip.enable
  with_reducible
    split; apply Chip.enableStream_keeps; assumption; apply Chip.enableSub_keeps; assumption
    apply Chip.enableResult_keeps; assumption; apply Chip.enablePart_keeps; assumption
    apply Chip.enableAdapt_keeps; assumption

theorem Chip.disable_keeps (c : Chip) (t : Target) {c₀ : Chip} (hc : Keeps c₀ c) : Keeps c₀ (c.disable t) := by
  unfold Chip.disable
  with_reducible
    split; apply Chip.disableStream_keeps; assumption; apply Chip.disableSub_keeps; assumption
    apply Chip.disableResult_keeps; assumption; apply Chip.disablePart_keeps; assumption
    apply Chip.disableAdapt_keeps; assumption

theorem Chip.switchOff_keeps (c : Chip) (t : Target) {c₀ : Chip} (hc : Keeps c₀ c) : Keeps c₀ (Chip.switchOff c t) := by
  unfold Chip.switchOff
  with_reducible
    split; apply Chip.streamOff_keeps; assumption; apply Chip.put_keeps; assumption
    apply Chip.sendClose_keeps; assumption; extract_lets +onlyGivenNames v1
    refine Keeps.cut (a := c₀) (x := v1) ?_ (fun _ => ?_); unfold v1; apply Chip.put_keeps; assumption
    extract_lets +onlyGivenNames v2; refine Keeps.cut (a := c₀) (x := v2) ?_ (fun _ => ?_); unfold v2
    apply Chip.updSched_keeps; assumption; extract_lets +onlyGivenNames v3
    refine Keeps.cut (a := c₀) (x := v3) ?_ (fun _ => ?_); unfold v3; split; assumption
    refine Keeps.foldl (fun _ _ _ => ?_) ?_; apply Chip.freeBlock_keeps; assumption; assumption; split
    refine Keeps.foldl (fun _ _ _ => ?_) ?_; split; apply Chip.unlend_keeps; assumption; assumption
    assumption; assumption; apply Chip.adaptRelease_keeps; apply Chip.put_keeps; assumption

theorem Chip.drainComplete_keeps (c : Chip) (t : Target) {c₀ : Chip} (hc : Keeps c₀ c) : Keeps c₀ (Chip.drainComplete c t) := by
  unfold Chip.drainComplete
  with_reducible
    split; assumption; extract_lets +onlyGivenNames v1; clear_value v1; extract_lets +onlyGivenNames v2
    clear_value v2; extract_lets +onlyGivenNames v3; refine Keeps.cut (a := c₀) (x := v3) ?_ (fun _ => ?_)
    unfold v3; apply Chip.switchOff_keeps; assumption; extract_lets +onlyGivenNames v4
    refine Keeps.cut (a := c₀) (x := v4) ?_ (fun _ => ?_); unfold v4; apply Chip.updSched_keeps; assumption
    split; apply Chip.enable_keeps; assumption; assumption

theorem Chip.drainTimeout_keeps (c : Chip) (p : Nat) {c₀ : Chip} (hc : Keeps c₀ c) : Keeps c₀ (Chip.drainTimeout c p) := by
  unfold Chip.drainTimeout
  with_reducible
    split; assumption; extract_lets +onlyGivenNames v1
    refine Keeps.cut (a := c₀) (x := v1) ?_ (fun _ => ?_); unfold v1; apply Chip.updSched_keeps; assumption
    refine Keeps.foldl (fun _ _ _ => ?_) ?_; apply Chip.modItem_keeps; assumption; assumption

theorem Chip.settle_keeps (c : Chip) {c₀ : Chip} (hc : Keeps c₀ c) : Keeps c₀ (Chip.settle c) := by
  unfold Chip.settle
  with_reducible
    split; refine Keeps.foldl (fun _ _ _ => ?_) ?_; apply Chip.grant_keeps; assumption
    apply Chip.refreshHolds_keeps; assumption; assumption

theorem Chip.itemRerun_keeps (c : Chip) (n : Nat) {c₀ : Chip} (hc : Keeps c₀ c) : Keeps c₀ (Chip.itemRerun c n) := by
  unfold Chip.itemRerun
  with_reducible
    split; assumption; extract_lets +onlyGivenNames v1
    refine Keeps.cut (a := c₀) (x := v1) ?_ (fun _ => ?_); unfold v1; apply Chip.updRecov_keeps; assumption
    split; assumption; split; assumption; split; apply Chip.endDue_keeps; apply Chip.stopItem_keeps
    assumption; split; apply Chip.endDue_keeps; apply Chip.stopItem_keeps; assumption
    extract_lets +onlyGivenNames v2; refine Keeps.cut (a := c₀) (x := v2) ?_ (fun _ => ?_); unfold v2
    apply Chip.bump_keeps; apply Chip.modItem_keeps; assumption; split; apply Chip.kvTableEdit_keeps
    assumption; assumption

theorem loadHedge_keeps (c : Chip) (aw : Nat × Word) {c₀ : Chip} (hc : Keeps c₀ c) : Keeps c₀ (loadHedge c aw) := by
  unfold loadHedge
  with_reducible
    split; apply Chip.setWord_keeps; assumption; apply Chip.setWord_keeps; assumption; assumption

theorem Chip.useVariant_keeps (c : Chip) (v : Variant) {c₀ : Chip} (hc : Keeps c₀ c) : Keeps c₀ (Chip.useVariant c v) := by
  unfold Chip.useVariant
  with_reducible
    extract_lets +onlyGivenNames v1; refine Keeps.cut (a := c₀) (x := v1) ?_ (fun _ => ?_); unfold v1
    refine Keeps.foldl (fun _ _ _ => ?_) ?_; apply loadHedge_keeps; assumption; assumption
    extract_lets +onlyGivenNames v2; refine Keeps.cut (a := c₀) (x := v2) ?_ (fun _ => ?_); unfold v2
    refine Keeps.updMem₁ ?_ rfl; assumption; extract_lets +onlyGivenNames v3
    refine Keeps.cut (a := c₀) (x := v3) ?_ (fun _ => ?_); unfold v3; apply Chip.put_keeps; assumption
    extract_lets +onlyGivenNames v4; refine Keeps.cut (a := c₀) (x := v4) ?_ (fun _ => ?_); unfold v4
    apply Chip.put_keeps; assumption; extract_lets +onlyGivenNames v5
    refine Keeps.cut (a := c₀) (x := v5) ?_ (fun _ => ?_); unfold v5; apply Chip.put_keeps; assumption
    extract_lets +onlyGivenNames v6; refine Keeps.cut (a := c₀) (x := v6) ?_ (fun _ => ?_); unfold v6
    apply Chip.put_keeps; assumption; apply foldN_keeps; assumption; intro _ _ _; apply Chip.put_keeps
    assumption

theorem Chip.variantSwitch_keeps (c : Chip) {c₀ : Chip} (hc : Keeps c₀ c) : Keeps c₀ (Chip.variantSwitch c) := by
  unfold Chip.variantSwitch
  with_reducible
    split; assumption; extract_lets +onlyGivenNames v1; clear_value v1; split
    extract_lets +onlyGivenNames v2; refine Keeps.cut (a := c₀) (x := v2) ?_ (fun _ => ?_); unfold v2
    apply Chip.updRecov_keeps; assumption; apply Chip.faultHold_keeps; apply Chip.retarget_keeps
    apply Chip.putB_keeps; assumption; split; assumption; extract_lets +onlyGivenNames v3; clear_value v3
    extract_lets +onlyGivenNames v4; refine Keeps.cut (a := c₀) (x := v4) ?_ (fun _ => ?_); unfold v4
    apply foldN_keeps; assumption; intro _ _ _; apply Chip.loseStep_keeps; assumption
    extract_lets +onlyGivenNames v5; refine Keeps.cut (a := c₀) (x := v5) ?_ (fun _ => ?_); unfold v5
    apply Chip.useVariant_keeps; apply Chip.graftDue_keeps; assumption; extract_lets +onlyGivenNames v6
    refine Keeps.cut (a := c₀) (x := v6) ?_ (fun _ => ?_); unfold v6; apply Chip.startLists_keeps
    apply foldN_keeps; assumption; intro _ _ _; apply Chip.serveFrom_keeps; assumption
    extract_lets +onlyGivenNames v7; refine Keeps.cut (a := c₀) (x := v7) ?_ (fun _ => ?_); unfold v7
    apply Chip.updRecov_keeps; assumption; extract_lets +onlyGivenNames v8
    refine Keeps.cut (a := c₀) (x := v8) ?_ (fun _ => ?_); unfold v8; apply Chip.log_keeps; assumption
    extract_lets +onlyGivenNames v9; refine Keeps.cut (a := c₀) (x := v9) ?_ (fun _ => ?_); unfold v9
    apply Chip.bump_keeps; assumption; apply Chip.kvRun_keeps; apply Chip.retarget_keeps
    apply Chip.putB_keeps; assumption

theorem Chip.loseInputs_keeps (c : Chip) (ch : Nat) {c₀ : Chip} (hc : Keeps c₀ c) : Keeps c₀ (Chip.loseInputs c ch) := by
  unfold Chip.loseInputs
  with_reducible
    refine Keeps.foldl (fun _ _ _ => ?_) ?_; extract_lets +onlyGivenNames v1
    refine Keeps.cut (a := c₀) (x := v1) ?_ (fun _ => ?_); unfold v1; split; apply Chip.modItem_keeps
    assumption; assumption; split; assumption; apply Chip.modItem_keeps; assumption; assumption

theorem Chip.loseWork_keeps (c : Chip) (ch : Nat) {c₀ : Chip} (hc : Keeps c₀ c) : Keeps c₀ (Chip.loseWork c ch) := by
  unfold Chip.loseWork
  with_reducible
    extract_lets +onlyGivenNames v1; clear_value v1; extract_lets +onlyGivenNames v2
    refine Keeps.cut (a := c₀) (x := v2) ?_ (fun _ => ?_); unfold v2
    refine Keeps.foldl (fun _ _ _ => ?_) ?_; apply Chip.endDue_keeps; apply Chip.stopItem_keeps; assumption
    assumption; refine Keeps.foldl (fun _ _ _ => ?_) ?_; apply Chip.updSched_keeps; assumption; assumption

theorem Chip.loseSpool_keeps (c : Chip) (ch s : Nat) {c₀ : Chip} (hc : Keeps c₀ c) : Keeps c₀ (Chip.loseSpool c ch s) := by
  unfold Chip.loseSpool
  with_reducible
    extract_lets +onlyGivenNames v1; clear_value v1; split; assumption; extract_lets +onlyGivenNames v2
    extract_lets +onlyGivenNames v3; clear_value v3; extract_lets +onlyGivenNames v4
    extract_lets +onlyGivenNames v5; refine Keeps.cut (a := c₀) (x := v5) ?_ (fun _ => ?_); unfold v5
    apply Chip.modSess_keeps; assumption; extract_lets +onlyGivenNames v6
    refine Keeps.cut (a := c₀) (x := v6) ?_ (fun _ => ?_); unfold v6; apply Chip.giveSpool_keeps; assumption
    extract_lets +onlyGivenNames v7; refine Keeps.cut (a := c₀) (x := v7) ?_ (fun _ => ?_); unfold v7
    refine Keeps.foldl (fun _ _ _ => ?_) ?_; split; apply Chip.bump_keeps; apply Chip.addGaps_keeps
    assumption; apply Chip.bump_keeps; assumption; assumption; refine Keeps.foldl (fun _ _ _ => ?_) ?_
    apply Chip.sessionDone_keeps; assumption; assumption

theorem Chip.halveQuota_keeps (c : Chip) (s : Nat) {c₀ : Chip} (hc : Keeps c₀ c) : Keeps c₀ (Chip.halveQuota c s) := by
  unfold Chip.halveQuota
  with_reducible
    extract_lets +onlyGivenNames v1; clear_value v1; split; assumption; apply Chip.showSpool_keeps
    apply Chip.modSess_keeps; assumption

theorem Chip.ddrLost_keeps (c : Chip) (ch : Fin 2) {c₀ : Chip} (hc : Keeps c₀ c) : Keeps c₀ (Chip.ddrLost c ch) := by
  unfold Chip.ddrLost
  with_reducible
    split; assumption; extract_lets +onlyGivenNames v1
    refine Keeps.cut (a := c₀) (x := v1) ?_ (fun _ => ?_); unfold v1; apply Chip.put_keeps; assumption
    extract_lets +onlyGivenNames v2; refine Keeps.cut (a := c₀) (x := v2) ?_ (fun _ => ?_); unfold v2
    apply Chip.degrade_keeps; apply Chip.log_keeps; assumption; split; assumption
    extract_lets +onlyGivenNames v3; refine Keeps.cut (a := c₀) (x := v3) ?_ (fun _ => ?_); unfold v3
    apply Chip.loseWork_keeps; apply Chip.loseInputs_keeps; assumption; extract_lets +onlyGivenNames v4
    refine Keeps.cut (a := c₀) (x := v4) ?_ (fun _ => ?_); unfold v4; apply foldN_keeps; assumption
    intro _ _ _; apply Chip.halveQuota_keeps; apply Chip.loseSpool_keeps; assumption
    apply Chip.showFree_keeps; apply Chip.adaptLost_keeps; assumption

theorem Chip.ddrCheck_keeps (c : Chip) {c₀ : Chip} (hc : Keeps c₀ c) : Keeps c₀ (Chip.ddrCheck c) := by
  unfold Chip.ddrCheck
  with_reducible
    refine Keeps.foldl (fun _ _ _ => ?_) ?_; split; apply Chip.ddrLost_keeps; assumption; assumption
    assumption

theorem Chip.portLost_keeps (c : Chip) (x : Fin 2) {c₀ : Chip} (hc : Keeps c₀ c) : Keeps c₀ (Chip.portLost c x) := by
  unfold Chip.portLost
  with_reducible
    split; assumption; extract_lets +onlyGivenNames v1
    refine Keeps.cut (a := c₀) (x := v1) ?_ (fun _ => ?_); unfold v1; split; apply Chip.linkDownPort_keeps
    assumption; assumption; extract_lets +onlyGivenNames v2
    refine Keeps.cut (a := c₀) (x := v2) ?_ (fun _ => ?_); unfold v2; apply Chip.modPort_keeps; assumption
    extract_lets +onlyGivenNames v3; refine Keeps.cut (a := c₀) (x := v3) ?_ (fun _ => ?_); unfold v3
    apply Chip.put_keeps; assumption; extract_lets +onlyGivenNames v4
    refine Keeps.cut (a := c₀) (x := v4) ?_ (fun _ => ?_); unfold v4; apply Chip.degrade_keeps
    apply Chip.log_keeps; assumption; extract_lets +onlyGivenNames v5
    refine Keeps.cut (a := c₀) (x := v5) ?_ (fun _ => ?_); unfold v5; apply Chip.rebindAll_keeps; assumption
    split; apply Chip.loseSource_keeps; assumption; assumption

theorem Chip.scheduleFault_keeps (c : Chip) (r : Fin 4) {c₀ : Chip} (hc : Keeps c₀ c) : Keeps c₀ (Chip.scheduleFault c r) := by
  unfold Chip.scheduleFault
  with_reducible
    split; assumption; extract_lets +onlyGivenNames v1
    refine Keeps.cut (a := c₀) (x := v1) ?_ (fun _ => ?_); unfold v1; apply Chip.updSched_keeps; assumption
    apply Chip.bump_keeps; apply Chip.log_keeps; assumption

theorem Chip.scheduleFail_keeps (c : Chip) (r : Fin 4) {c₀ : Chip} (hc : Keeps c₀ c) : Keeps c₀ (Chip.scheduleFail c r) := by
  unfold Chip.scheduleFail
  with_reducible
    split; split; apply Chip.regionFail_keeps; assumption; assumption; assumption

theorem Chip.blockSilent_keeps (c : Chip) (r : Fin 4) (b : Fin 9) {c₀ : Chip} (hc : Keeps c₀ c) : Keeps c₀ (Chip.blockSilent c r b) := by
  unfold Chip.blockSilent
  with_reducible
    split; assumption; apply Chip.blockFail_keeps; apply Chip.log_keeps; assumption

theorem Chip.paceFault_keeps (c : Chip) {c₀ : Chip} (hc : Keeps c₀ c) : Keeps c₀ (Chip.paceFault c) := by
  unfold Chip.paceFault
  with_reducible
    split; assumption; extract_lets +onlyGivenNames v1; clear_value v1; extract_lets +onlyGivenNames v2
    clear_value v2; extract_lets +onlyGivenNames v3; clear_value v3; extract_lets +onlyGivenNames v4
    refine Keeps.cut (a := c₀) (x := v4) ?_ (fun _ => ?_); unfold v4; apply Chip.log_keeps; assumption
    split; apply Chip.blockFail_keeps; assumption; assumption

theorem Chip.ledger_keeps (c : Chip) {c₀ : Chip} (hc : Keeps c₀ c) : Keeps c₀ (Chip.ledger c) := by
  unfold Chip.ledger
  with_reducible
    refine Keeps.foldl (fun _ _ _ => ?_) ?_; extract_lets +onlyGivenNames v1
    refine Keeps.cut (a := c₀) (x := v1) ?_ (fun _ => ?_); unfold v1; apply Chip.log_keeps; assumption
    extract_lets +onlyGivenNames v2; refine Keeps.cut (a := c₀) (x := v2) ?_ (fun _ => ?_); unfold v2
    apply Chip.put_keeps; assumption; apply Chip.put_keeps; apply Chip.bump_keeps; assumption; assumption

theorem Chip.publicationFence_keeps (c : Chip) (core : Fin 10) {c₀ : Chip} (hc : Keeps c₀ c) : Keeps c₀ (Chip.publicationFence c core) := by
  unfold Chip.publicationFence
  with_reducible
    extract_lets +onlyGivenNames v1; extract_lets +onlyGivenNames v2
    refine Keeps.cut (a := c₀) (x := v2) ?_ (fun _ => ?_); unfold v2; apply Chip.drainMoves_keeps
    assumption; split; assumption; apply Chip.kvRun_keeps; apply Chip.updKv_keeps; assumption

theorem Chip.courseFence_keeps (c : Chip) (r : Fin 4) {c₀ : Chip} (hc : Keeps c₀ c) : Keeps c₀ (Chip.courseFence c r) := by
  unfold Chip.courseFence
  with_reducible
    extract_lets +onlyGivenNames v1; refine Keeps.cut (a := c₀) (x := v1) ?_ (fun _ => ?_); unfold v1
    apply Chip.drainMoves_keeps; assumption; split; assumption; split; extract_lets +onlyGivenNames v2
    clear_value v2; extract_lets +onlyGivenNames v3; refine Keeps.cut (a := c₀) (x := v3) ?_ (fun _ => ?_)
    unfold v3; refine Keeps.mk₁ ?_; assumption; extract_lets +onlyGivenNames v4
    refine Keeps.cut (a := c₀) (x := v4) ?_ (fun _ => ?_); unfold v4; apply Chip.bump_keeps; assumption
    split; assumption; apply Chip.ledger_keeps; assumption; refine Keeps.mk₁ ?_; assumption

theorem Chip.summary_keeps (c : Chip) {c₀ : Chip} (hc : Keeps c₀ c) : Keeps c₀ (Chip.summary c) := by
  unfold Chip.summary
  with_reducible
    extract_lets +onlyGivenNames v1; clear_value v1; extract_lets +onlyGivenNames v2
    refine Keeps.cut (a := c₀) (x := v2) ?_ (fun _ => ?_); unfold v2
    refine Keeps.foldl (fun _ _ _ => ?_) ?_; apply Chip.put_keeps; assumption; assumption
    extract_lets +onlyGivenNames v3; refine Keeps.cut (a := c₀) (x := v3) ?_ (fun _ => ?_); unfold v3; split
    apply Chip.wrap_keeps; assumption; assumption; extract_lets +onlyGivenNames v4
    refine Keeps.cut (a := c₀) (x := v4) ?_ (fun _ => ?_); unfold v4; apply Chip.put_keeps; assumption
    extract_lets +onlyGivenNames v5; refine Keeps.cut (a := c₀) (x := v5) ?_ (fun _ => ?_); unfold v5
    apply Chip.setWord_keeps; assumption; extract_lets +onlyGivenNames v6
    refine Keeps.cut (a := c₀) (x := v6) ?_ (fun _ => ?_); unfold v6; apply Chip.setWord_keeps; assumption
    extract_lets +onlyGivenNames v7; refine Keeps.cut (a := c₀) (x := v7) ?_ (fun _ => ?_); unfold v7
    apply Chip.setWord_keeps; assumption; extract_lets +onlyGivenNames v8
    refine Keeps.cut (a := c₀) (x := v8) ?_ (fun _ => ?_); unfold v8; apply Chip.setWord_keeps; assumption
    extract_lets +onlyGivenNames v9; extract_lets +onlyGivenNames v10
    refine Keeps.cut (a := c₀) (x := v10) ?_ (fun _ => ?_); unfold v10; apply Chip.setWord_keeps; assumption
    extract_lets +onlyGivenNames v11; refine Keeps.cut (a := c₀) (x := v11) ?_ (fun _ => ?_); unfold v11
    apply Chip.setWord_keeps; assumption; extract_lets +onlyGivenNames v12; extract_lets +onlyGivenNames v13
    refine Keeps.cut (a := c₀) (x := v13) ?_ (fun _ => ?_); unfold v13; apply Chip.setWord_keeps; assumption
    extract_lets +onlyGivenNames v14; refine Keeps.cut (a := c₀) (x := v14) ?_ (fun _ => ?_); unfold v14
    apply Chip.setWord_keeps; assumption; apply Chip.setWord_keeps; assumption

theorem Chip.reloadBlock_keeps (c : Chip) (r p : Nat) {c₀ : Chip} (hc : Keeps c₀ c) : Keeps c₀ (Chip.reloadBlock c r p) := by
  unfold Chip.reloadBlock
  with_reducible
    split; assumption; extract_lets +onlyGivenNames v1; clear_value v1; extract_lets +onlyGivenNames v2
    refine Keeps.cut (a := c₀) (x := v2) ?_ (fun _ => ?_); unfold v2
    refine Keeps.foldl (fun _ _ _ => ?_) ?_; extract_lets +onlyGivenNames v3; clear_value v3
    extract_lets +onlyGivenNames v4; clear_value v4; apply Chip.carry_keeps; assumption; assumption
    apply Chip.updRecov_keeps; assumption

theorem Chip.reloads_keeps (c : Chip) {c₀ : Chip} (hc : Keeps c₀ c) : Keeps c₀ (Chip.reloads c) := by
  unfold Chip.reloads
  with_reducible
    refine Keeps.foldl (fun _ _ _ => ?_) ?_; apply Chip.reloadBlock_keeps; assumption; assumption

theorem Chip.windowCourse_keeps (c : Chip) {c₀ : Chip} (hc : Keeps c₀ c) : Keeps c₀ (Chip.windowCourse c) := by
  unfold Chip.windowCourse
  with_reducible
    extract_lets +onlyGivenNames v1; refine Keeps.cut (a := c₀) (x := v1) ?_ (fun _ => ?_); unfold v1
    apply Chip.updRecov_keeps; assumption; split; refine Keeps.updMem₁ ?_ rfl; assumption; assumption

theorem Chip.fenceCourse_keeps (c : Chip) {c₀ : Chip} (hc : Keeps c₀ c) : Keeps c₀ (Chip.fenceCourse c) := by
  unfold Chip.fenceCourse
  with_reducible
    extract_lets +onlyGivenNames v1; refine Keeps.mk₁ ?_; assumption

theorem Chip.lagCourse_keeps (c : Chip) {c₀ : Chip} (hc : Keeps c₀ c) : Keeps c₀ (Chip.lagCourse c) := by
  unfold Chip.lagCourse
  with_reducible
    extract_lets +onlyGivenNames v1; clear_value v1; extract_lets +onlyGivenNames v2; clear_value v2
    extract_lets +onlyGivenNames v3; refine Keeps.cut (a := c₀) (x := v3) ?_ (fun _ => ?_); unfold v3
    apply foldN_keeps; assumption; intro _ _ _; extract_lets +onlyGivenNames v4
    refine Keeps.cut (a := c₀) (x := v4) ?_ (fun _ => ?_); unfold v4; apply Chip.put_keeps; assumption
    apply Chip.put_keeps; assumption; apply Chip.updSched_keeps; assumption

theorem Chip.kicks_keeps (c : Chip) (missed : List (Fin 10)) {c₀ : Chip} (hc : Keeps c₀ c) : Keeps c₀ (Chip.kicks c missed) := by
  unfold Chip.kicks
  with_reducible
    apply foldN_keeps; assumption; intro _ _ _; extract_lets +onlyGivenNames v1; clear_value v1
    extract_lets +onlyGivenNames v2; clear_value v2; extract_lets +onlyGivenNames v3
    refine Keeps.cut (a := c₀) (x := v3) ?_ (fun _ => ?_); unfold v3; refine Keeps.mk₁ ?_; assumption; split
    apply Chip.coreFail_keeps; assumption; assumption

theorem Chip.timingChecks_keeps (c : Chip) (bad : List (Fin 4)) {c₀ : Chip} (hc : Keeps c₀ c) : Keeps c₀ (Chip.timingChecks c bad) := by
  unfold Chip.timingChecks
  with_reducible
    refine Keeps.foldl (fun _ _ _ => ?_) ?_; apply Chip.coreFail_keeps; apply Chip.log_keeps; assumption
    assumption

theorem Chip.beginItems_keeps (c : Chip) {c₀ : Chip} (hc : Keeps c₀ c) : Keeps c₀ (Chip.beginItems c) := by
  unfold Chip.beginItems
  with_reducible
    refine Keeps.foldl (fun _ _ _ => ?_) ?_; apply Chip.formBegin_keeps; assumption; assumption

theorem Chip.courseWork_keeps (c : Chip) (w : CourseIn) {c₀ : Chip} (hc : Keeps c₀ c) : Keeps c₀ (Chip.courseWork c w) := by
  unfold Chip.courseWork
  with_reducible
    extract_lets +onlyGivenNames v1; refine Keeps.cut (a := c₀) (x := v1) ?_ (fun _ => ?_); unfold v1
    apply Chip.lagCourse_keeps; apply Chip.fenceCourse_keeps; apply Chip.windowCourse_keeps
    apply Chip.ddrCheck_keeps; assumption; extract_lets +onlyGivenNames v2; clear_value v2
    extract_lets +onlyGivenNames v3; refine Keeps.cut (a := c₀) (x := v3) ?_ (fun _ => ?_); unfold v3
    apply Chip.timingChecks_keeps; apply Chip.kicks_keeps; apply Chip.takeRole_keeps; assumption
    extract_lets +onlyGivenNames v4; refine Keeps.cut (a := c₀) (x := v4) ?_ (fun _ => ?_); unfold v4
    apply Chip.graftDue_keeps; apply Chip.reloads_keeps; apply Chip.sparing_keeps; assumption
    extract_lets +onlyGivenNames v5; refine Keeps.cut (a := c₀) (x := v5) ?_ (fun _ => ?_); unfold v5
    apply Chip.governor_keeps; assumption; extract_lets +onlyGivenNames v6
    refine Keeps.cut (a := c₀) (x := v6) ?_ (fun _ => ?_); unfold v6; apply Chip.adaptCourse_keeps
    apply Chip.staleBands_keeps; apply Chip.limboReturn_keeps; assumption; extract_lets +onlyGivenNames v7
    refine Keeps.cut (a := c₀) (x := v7) ?_ (fun _ => ?_); unfold v7; apply Chip.gclCourse_keeps
    apply Chip.beginItems_keeps; apply Chip.lending_keeps; assumption; extract_lets +onlyGivenNames v8
    refine Keeps.cut (a := c₀) (x := v8) ?_ (fun _ => ?_); unfold v8; split; assumption
    apply Chip.ledger_keeps; assumption; apply Chip.summary_keeps; apply Chip.settle_keeps; assumption

theorem Chip.courseBoundary_keeps (c : Chip) (w : CourseIn) {c₀ : Chip} (hc : Keeps c₀ c) : Keeps c₀ (Chip.courseBoundary c w) := by
  unfold Chip.courseBoundary
  with_reducible
    split; assumption; extract_lets +onlyGivenNames v1
    refine Keeps.cut (a := c₀) (x := v1) ?_ (fun _ => ?_); unfold v1; apply Chip.toCourse_keeps; assumption
    extract_lets +onlyGivenNames v2; refine Keeps.cut (a := c₀) (x := v2) ?_ (fun _ => ?_); unfold v2
    apply Chip.putS_keeps; apply Chip.putS_keeps; assumption; split; apply Chip.courseWork_keeps; assumption
    apply Chip.summary_keeps; split; apply Chip.governor_keeps; assumption; assumption

theorem Chip.egressPort_keeps (c : Chip) (x : Nat) {c₀ : Chip} (hc : Keeps c₀ c) : Keeps c₀ (Chip.egressPort c x) := by
  unfold Chip.egressPort
  with_reducible
    extract_lets +onlyGivenNames v1; clear_value v1; extract_lets +onlyGivenNames v2; clear_value v2
    extract_lets +onlyGivenNames v3; clear_value v3; extract_lets +onlyGivenNames v4; clear_value v4
    extract_lets +onlyGivenNames v5; clear_value v5; extract_lets +onlyGivenNames v6
    refine Keeps.cut (a := c₀) (x := v6) ?_ (fun _ => ?_); unfold v6; apply Chip.modHedge_keeps; assumption
    extract_lets +onlyGivenNames v7; clear_value v7; extract_lets +onlyGivenNames v8
    refine Keeps.cut (a := c₀) (x := v8) ?_ (fun _ => ?_); unfold v8; refine Keeps.mk₁ ?_; assumption
    apply Chip.build_keeps; assumption

theorem Chip.egress_keeps (c : Chip) {c₀ : Chip} (hc : Keeps c₀ c) : Keeps c₀ (Chip.egress c) := by
  unfold Chip.egress
  with_reducible
    apply Chip.egressPort_keeps; apply Chip.egressPort_keeps; apply Chip.modHedge_keeps; assumption

theorem Chip.closeAll_keeps (c : Chip) {c₀ : Chip} (hc : Keeps c₀ c) : Keeps c₀ (Chip.closeAll c) := by
  unfold Chip.closeAll
  with_reducible
    split; assumption; apply foldN_keeps; assumption; intro _ _ _; split; apply Chip.sendClose_keeps
    assumption; assumption

theorem Chip.slotTick_keeps (c : Chip) {c₀ : Chip} (hc : Keeps c₀ c) : Keeps c₀ (Chip.slotTick c) := by
  unfold Chip.slotTick
  with_reducible
    split; assumption; extract_lets +onlyGivenNames v1
    refine Keeps.cut (a := c₀) (x := v1) ?_ (fun _ => ?_); unfold v1; apply Chip.toSlot_keeps; assumption
    split; assumption; extract_lets +onlyGivenNames v2
    refine Keeps.cut (a := c₀) (x := v2) ?_ (fun _ => ?_); unfold v2; apply Chip.egress_keeps; assumption
    extract_lets +onlyGivenNames v3; refine Keeps.cut (a := c₀) (x := v3) ?_ (fun _ => ?_); unfold v3
    refine Keeps.foldl (fun _ _ _ => ?_) ?_; apply Chip.endDue_keeps; assumption; assumption
    apply Chip.settle_keeps; apply Chip.closeAll_keeps; apply Chip.preemptTick_keeps; assumption

theorem Chip.random_keeps (c : Chip) (w : Nat) {c₀ : Chip} (hc : Keeps c₀ c) : Keeps c₀ (Chip.random c w).1 := by
  unfold Chip.random
  with_reducible
    refine Keeps.pair₁ ?_; refine Keeps.mk₁ ?_; assumption

theorem Chip.modFlash_keeps (c : Chip) (d : Nat) (f : Flash → Flash) {c₀ : Chip} (hc : Keeps c₀ c) : Keeps c₀ (Chip.modFlash c d f) := by
  unfold Chip.modFlash
  with_reducible
    refine Keeps.mk₁ ?_; assumption

theorem Chip.enterSafeHold_keeps (c : Chip) {c₀ : Chip} (hc : Keeps c₀ c) : Keeps c₀ (Chip.enterSafeHold c) := by
  unfold Chip.enterSafeHold
  with_reducible
    extract_lets +onlyGivenNames v1; clear_value v1; extract_lets +onlyGivenNames v2
    refine Keeps.cut (a := c₀) (x := v2) ?_ (fun _ => ?_); unfold v2; apply Chip.put_keeps; assumption
    extract_lets +onlyGivenNames v3; refine Keeps.cut (a := c₀) (x := v3) ?_ (fun _ => ?_); unfold v3
    apply Chip.putB_keeps; apply Chip.putB_keeps; apply Chip.put_keeps; assumption; apply Chip.putB_keeps
    assumption

theorem Chip.bootReason_keeps (c : Chip) (d r : Nat) {c₀ : Chip} (hc : Keeps c₀ c) : Keeps c₀ (Chip.bootReason c d r) := by
  unfold Chip.bootReason
  with_reducible
    apply Chip.put_keeps; assumption

theorem Chip.candidateFails_keeps (c : Chip) (d r : Nat) {c₀ : Chip} (hc : Keeps c₀ c) : Keeps c₀ (Chip.candidateFails c d r) := by
  unfold Chip.candidateFails
  with_reducible
    extract_lets +onlyGivenNames v1; refine Keeps.cut (a := c₀) (x := v1) ?_ (fun _ => ?_); unfold v1
    apply Chip.bootReason_keeps; assumption; extract_lets +onlyGivenNames v2; clear_value v2
    extract_lets +onlyGivenNames v3; refine Keeps.cut (a := c₀) (x := v3) ?_ (fun _ => ?_); unfold v3
    refine Keeps.updBoot₁ ?_ (fun _ => rfl); assumption; split; apply Chip.enterSafeHold_keeps; assumption
    assumption

theorem Chip.senseFuses_keeps (c : Chip) {c₀ : Chip} (hc : Keeps c₀ c) : Keeps c₀ (Chip.senseFuses c) := by
  unfold Chip.senseFuses
  with_reducible
    extract_lets +onlyGivenNames v1; clear_value v1; extract_lets +onlyGivenNames v2
    refine Keeps.cut (a := c₀) (x := v2) ?_ (fun _ => ?_); unfold v2; apply Chip.putB_keeps
    apply Chip.put_keeps; assumption; extract_lets +onlyGivenNames v3
    refine Keeps.cut (a := c₀) (x := v3) ?_ (fun _ => ?_); unfold v3; apply Chip.putB_keeps
    apply Chip.putB_keeps; assumption; apply Chip.put_keeps; apply Chip.put_keeps; assumption

theorem Chip.showTrees_keeps (c : Chip) {c₀ : Chip} (hc : Keeps c₀ c) : Keeps c₀ (Chip.showTrees c) := by
  unfold Chip.showTrees
  with_reducible
    apply Chip.put_keeps; assumption

theorem Chip.stageA_keeps (c : Chip) {c₀ : Chip} (hc : Keeps c₀ c) : Keeps c₀ (Chip.stageA c) := by
  unfold Chip.stageA
  with_reducible
    extract_lets +onlyGivenNames v1; refine Keeps.cut (a := c₀) (x := v1) ?_ (fun _ => ?_); unfold v1
    apply Chip.senseFuses_keeps; assumption; extract_lets +onlyGivenNames v2
    refine Keeps.cut (a := c₀) (x := v2) ?_ (fun _ => ?_); unfold v2; apply Chip.put_keeps
    apply Chip.put_keeps; assumption; extract_lets +onlyGivenNames v3
    refine Keeps.cut (a := c₀) (x := v3.1) ?_ (fun _ => ?_); unfold v3; apply Chip.random_keeps; assumption
    extract_lets +onlyGivenNames v4; refine Keeps.cut (a := c₀) (x := v4) ?_ (fun _ => ?_); unfold v4
    apply Chip.put_keeps; apply Chip.put_keeps; assumption; extract_lets +onlyGivenNames v5
    refine Keeps.cut (a := c₀) (x := v5) ?_ (fun _ => ?_); unfold v5; apply Chip.showTrees_keeps; assumption
    extract_lets +onlyGivenNames v6; refine Keeps.cut (a := c₀) (x := v6) ?_ (fun _ => ?_); unfold v6
    apply foldN_keeps; assumption; intro _ _ _; split; assumption; apply Chip.bootReason_keeps; assumption
    extract_lets +onlyGivenNames v7; extract_lets +onlyGivenNames v8; clear_value v8
    refine Keeps.updBoot₁ ?_ (fun _ => rfl); assumption

theorem Chip.cutFlash_keeps (c : Chip) {c₀ : Chip} (hc : Keeps c₀ c) : Keeps c₀ (Chip.cutFlash c) := by
  unfold Chip.cutFlash
  with_reducible
    split; assumption; split; assumption; extract_lets +onlyGivenNames v1; clear_value v1
    extract_lets +onlyGivenNames v2; refine Keeps.cut (a := c₀) (x := v2.1) ?_ (fun _ => ?_); unfold v2
    apply Chip.random_keeps; assumption; split; apply Chip.modFlash_keeps; assumption
    apply Chip.modFlash_keeps; apply Chip.modFlash_keeps; assumption

theorem Chip.imageVerify_keeps (c : Chip) {c₀ : Chip} (hc : Keeps c₀ c) : Keeps c₀ (Chip.imageVerify c) := by
  unfold Chip.imageVerify
  with_reducible
    split; assumption; split; apply Chip.enterSafeHold_keeps; apply Chip.bootReason_keeps
    apply Chip.bootReason_keeps; assumption; split; apply Chip.enterSafeHold_keeps; assumption; split
    apply Chip.candidateFails_keeps; assumption; refine Keeps.updBoot₁ ?_ (fun _ => rfl); assumption

theorem Chip.firmwareStart_keeps (c : Chip) (linear16 : Bool) {c₀ : Chip} (hc : Keeps c₀ c) : Keeps c₀ (Chip.firmwareStart c linear16) := by
  unfold Chip.firmwareStart
  with_reducible
    split; assumption; split; assumption; split; extract_lets +onlyGivenNames v1
    refine Keeps.cut (a := c₀) (x := v1) ?_ (fun _ => ?_); unfold v1
    refine Keeps.updBoot₁ ?_ (fun _ => rfl); assumption; split; assumption; apply Chip.pmbFault_keeps
    assumption; apply Chip.candidateFails_keeps; assumption

theorem Chip.bootRefs_keeps (c : Chip) (n : Nat) {c₀ : Chip} (hc : Keeps c₀ c) : Keeps c₀ (Chip.bootRefs c n) := by
  unfold Chip.bootRefs
  with_reducible
    extract_lets +onlyGivenNames v1; clear_value v1; split; assumption; extract_lets +onlyGivenNames v2
    refine Keeps.cut (a := c₀) (x := v2) ?_ (fun _ => ?_); unfold v2; apply Chip.modStream_keeps; assumption
    apply Chip.useRefs_keeps; assumption

theorem Chip.loadImage_keeps (c : Chip) (h : ImgHdr) (img : ImageConfig) {c₀ : Chip} (hc : Keeps c₀ c) : Keeps c₀ (Chip.loadImage c h img) := by
  unfold Chip.loadImage
  with_reducible
    extract_lets +onlyGivenNames v1; refine Keeps.cut (a := c₀) (x := v1) ?_ (fun _ => ?_); unfold v1
    refine Keeps.mk₁ ?_; assumption; extract_lets +onlyGivenNames v2
    refine Keeps.cut (a := c₀) (x := v2) ?_ (fun _ => ?_); unfold v2
    refine Keeps.foldl (fun _ _ _ => ?_) ?_; apply loadImageWord_keeps; assumption; assumption
    extract_lets +onlyGivenNames v3; refine Keeps.cut (a := c₀) (x := v3) ?_ (fun _ => ?_); unfold v3
    apply foldN_keeps; assumption; intro _ _ _; apply Chip.setWord_keeps; assumption
    extract_lets +onlyGivenNames v4; refine Keeps.cut (a := c₀) (x := v4) ?_ (fun _ => ?_); unfold v4
    refine Keeps.updMem₁ ?_ rfl; assumption; extract_lets +onlyGivenNames v5; clear_value v5
    extract_lets +onlyGivenNames v6; refine Keeps.cut (a := c₀) (x := v6) ?_ (fun _ => ?_); unfold v6
    refine Keeps.updBoot₁ ?_ (fun _ => rfl); assumption; extract_lets +onlyGivenNames v7
    refine Keeps.cut (a := c₀) (x := v7) ?_ (fun _ => ?_); unfold v7; apply Chip.bump_keeps; assumption
    extract_lets +onlyGivenNames v8; clear_value v8; extract_lets +onlyGivenNames v9
    refine Keeps.cut (a := c₀) (x := v9) ?_ (fun _ => ?_); unfold v9; refine Keeps.mk₁ ?_; assumption
    apply foldN_keeps; assumption; intro _ _ _; apply Chip.bootRefs_keeps; assumption

theorem Chip.sectionsLoaded_keeps (c : Chip) (img : ImageConfig) {c₀ : Chip} (hc : Keeps c₀ c) : Keeps c₀ (Chip.sectionsLoaded c img) := by
  unfold Chip.sectionsLoaded
  with_reducible
    split; assumption; split; assumption; split; refine Keeps.updBoot₁ ?_ (fun _ => rfl)
    apply Chip.loadImage_keeps; assumption; apply Chip.candidateFails_keeps; assumption

theorem Chip.ddrTrained_keeps (c : Chip) (aOk bOk : Bool) {c₀ : Chip} (hc : Keeps c₀ c) : Keeps c₀ (Chip.ddrTrained c aOk bOk) := by
  unfold Chip.ddrTrained
  with_reducible
    split; assumption; extract_lets +onlyGivenNames v1
    refine Keeps.cut (a := c₀) (x := v1) ?_ (fun _ => ?_); unfold v1
    refine Keeps.updBoot₁ ?_ (fun _ => rfl); assumption; extract_lets +onlyGivenNames v2
    refine Keeps.cut (a := c₀) (x := v2) ?_ (fun _ => ?_); unfold v2; split; assumption
    apply Chip.ddrLost_keeps; assumption; extract_lets +onlyGivenNames v3
    refine Keeps.cut (a := c₀) (x := v3) ?_ (fun _ => ?_); unfold v3; split; assumption
    apply Chip.ddrLost_keeps; assumption; split; assumption; apply Chip.faultHold_keeps; assumption

theorem Chip.ddrInit_keeps (c : Chip) {c₀ : Chip} (hc : Keeps c₀ c) : Keeps c₀ (Chip.ddrInit c) := by
  unfold Chip.ddrInit
  with_reducible
    split; assumption; refine Keeps.updBoot₁ ?_ (fun _ => rfl)
    refine Keeps.updMem ?_ (fun h => { h with ddr := rfl }); assumption

theorem Chip.selfTest_keeps (c : Chip) (r : SelfTestIn) {c₀ : Chip} (hc : Keeps c₀ c) : Keeps c₀ (Chip.selfTest c r) := by
  unfold Chip.selfTest
  with_reducible
    split; assumption; extract_lets +onlyGivenNames v1
    refine Keeps.cut (a := c₀) (x := v1) ?_ (fun _ => ?_); unfold v1
    refine Keeps.foldl (fun _ _ _ => ?_) ?_; apply Chip.spareRow_keeps; assumption; assumption
    extract_lets +onlyGivenNames v2; refine Keeps.cut (a := c₀) (x := v2) ?_ (fun _ => ?_); unfold v2
    refine Keeps.foldl (fun _ _ _ => ?_) ?_; apply Chip.spareRow_keeps; assumption; assumption
    extract_lets +onlyGivenNames v3; refine Keeps.cut (a := c₀) (x := v3) ?_ (fun _ => ?_); unfold v3
    refine Keeps.foldl (fun _ _ _ => ?_) ?_; apply Chip.spareBank_keeps; assumption; assumption
    extract_lets +onlyGivenNames v4; refine Keeps.cut (a := c₀) (x := v4) ?_ (fun _ => ?_); unfold v4
    apply Chip.sparing_keeps; refine Keeps.updMem₁ ?_ rfl; assumption; extract_lets +onlyGivenNames v5
    refine Keeps.cut (a := c₀) (x := v5) ?_ (fun _ => ?_); unfold v5; refine Keeps.updMem₁ ?_ rfl
    assumption; extract_lets +onlyGivenNames v6; refine Keeps.cut (a := c₀) (x := v6) ?_ (fun _ => ?_)
    unfold v6; refine Keeps.foldl (fun _ _ _ => ?_) ?_; split; apply Chip.coreFail_keeps; assumption
    apply Chip.unitFail_keeps; apply Chip.updRecov_keeps; assumption; assumption
    extract_lets +onlyGivenNames v7; refine Keeps.cut (a := c₀) (x := v7) ?_ (fun _ => ?_); unfold v7
    apply Chip.graftDue_keeps; apply Chip.takeRole_keeps; assumption
    refine Keeps.updBoot₁ ?_ (fun _ => rfl); assumption

theorem Chip.adaptersVerified_keeps (c : Chip) {c₀ : Chip} (hc : Keeps c₀ c) : Keeps c₀ (Chip.adaptersVerified c) := by
  unfold Chip.adaptersVerified
  with_reducible
    split; assumption; extract_lets +onlyGivenNames v1; clear_value v1; extract_lets +onlyGivenNames v2
    refine Keeps.cut (a := c₀) (x := v2) ?_ (fun _ => ?_); unfold v2; apply foldN_keeps; assumption
    intro _ _ _; split; assumption; split; apply Chip.put_keeps; apply Chip.modSet_keeps; assumption
    apply Chip.modSet_keeps; assumption; assumption; extract_lets +onlyGivenNames v3
    refine Keeps.cut (a := c₀) (x := v3) ?_ (fun _ => ?_); unfold v3; split; apply Chip.put_keeps
    assumption; assumption; refine Keeps.updBoot₁ ?_ (fun _ => rfl); assumption

theorem Chip.bootVariant_keeps (c : Chip) {c₀ : Chip} (hc : Keeps c₀ c) : Keeps c₀ (Chip.bootVariant c) := by
  unfold Chip.bootVariant
  with_reducible
    split; apply Chip.useVariant_keeps; assumption; apply Chip.faultHold_keeps; assumption

theorem Chip.fillPools_keeps (c : Chip) {c₀ : Chip} (hc : Keeps c₀ c) : Keeps c₀ (Chip.fillPools c) := by
  unfold Chip.fillPools
  with_reducible
    extract_lets +onlyGivenNames v1; refine Keeps.cut (a := c₀) (x := v1) ?_ (fun _ => ?_); unfold v1
    apply foldN_keeps; assumption; intro _ _ _; split; assumption; extract_lets +onlyGivenNames v2
    refine Keeps.cut (a := c₀) (x := v2) ?_ (fun _ => ?_); unfold v2; apply Chip.put_keeps; assumption
    apply Chip.put_keeps; assumption; extract_lets +onlyGivenNames v3
    refine Keeps.cut (a := c₀) (x := v3) ?_ (fun _ => ?_); unfold v3; apply foldN_keeps; assumption
    intro _ _ _; apply Chip.modSubm_keeps; assumption; apply Chip.showAdapt_keeps; apply Chip.showFree_keeps
    apply Chip.showKv_keeps; assumption

theorem Chip.enableBoot_keeps (c : Chip) {c₀ : Chip} (hc : Keeps c₀ c) : Keeps c₀ (Chip.enableBoot c) := by
  unfold Chip.enableBoot
  with_reducible
    extract_lets +onlyGivenNames v1; refine Keeps.cut (a := c₀) (x := v1) ?_ (fun _ => ?_); unfold v1
    apply foldN_keeps; assumption; intro _ _ _; split; apply Chip.put_keeps; assumption; assumption
    extract_lets +onlyGivenNames v2; refine Keeps.cut (a := c₀) (x := v2) ?_ (fun _ => ?_); unfold v2; split
    apply Chip.put_keeps; assumption; assumption; extract_lets +onlyGivenNames v3
    refine Keeps.cut (a := c₀) (x := v3) ?_ (fun _ => ?_); unfold v3; apply foldN_keeps; assumption
    intro _ _ _; split; assumption; split; apply Chip.checkFault_keeps; assumption; split
    apply Chip.enableStream_keeps; assumption; assumption; apply foldN_keeps; assumption; intro _ _ _; split
    apply Chip.enableSub_keeps; assumption; assumption

theorem Chip.portAddrs_keeps (c : Chip) {c₀ : Chip} (hc : Keeps c₀ c) : Keeps c₀ (Chip.portAddrs c) := by
  unfold Chip.portAddrs
  with_reducible
    apply foldN_keeps; assumption; intro _ _ _; split; apply Chip.put_keeps; assumption; assumption

theorem Chip.placeContent_keeps (c : Chip) {c₀ : Chip} (hc : Keeps c₀ c) : Keeps c₀ (Chip.placeContent c) := by
  unfold Chip.placeContent
  with_reducible
    extract_lets +onlyGivenNames v1; refine Keeps.cut (a := c₀) (x := v1) ?_ (fun _ => ?_); unfold v1
    refine Keeps.updMem ?_ (fun h => Mem.zeroed_wf _ h); assumption; refine Keeps.foldl (fun _ _ _ => ?_) ?_
    refine Keeps.updMem ?_ (fun h => Mem.writeAt_wf _ _ _ h); assumption; assumption

theorem Chip.showImage_keeps (c : Chip) {c₀ : Chip} (hc : Keeps c₀ c) : Keeps c₀ (Chip.showImage c) := by
  unfold Chip.showImage
  with_reducible
    split; assumption; extract_lets +onlyGivenNames v1; clear_value v1; extract_lets +onlyGivenNames v2
    refine Keeps.cut (a := c₀) (x := v2) ?_ (fun _ => ?_); unfold v2; apply Chip.put_keeps
    apply Chip.put_keeps; assumption; extract_lets +onlyGivenNames v3
    refine Keeps.cut (a := c₀) (x := v3) ?_ (fun _ => ?_); unfold v3; apply Chip.putB_keeps; assumption
    apply Chip.put_keeps; apply Chip.put_keeps; assumption

theorem Chip.bootStageI_keeps (c : Chip) (ms : Nat) {c₀ : Chip} (hc : Keeps c₀ c) : Keeps c₀ (Chip.bootStageI c ms) := by
  unfold Chip.bootStageI
  with_reducible
    extract_lets +onlyGivenNames v1; clear_value v1; split; assumption; extract_lets +onlyGivenNames v2
    refine Keeps.cut (a := c₀) (x := v2) ?_ (fun _ => ?_); unfold v2; apply Chip.placeContent_keeps
    apply Chip.showImage_keeps; assumption; extract_lets +onlyGivenNames v3
    refine Keeps.cut (a := c₀) (x := v3) ?_ (fun _ => ?_); unfold v3; apply Chip.put_keeps
    apply Chip.put_keeps; assumption; extract_lets +onlyGivenNames v4
    refine Keeps.cut (a := c₀) (x := v4) ?_ (fun _ => ?_); unfold v4; apply Chip.fillPools_keeps
    apply Chip.bootVariant_keeps; assumption; extract_lets +onlyGivenNames v5; clear_value v5
    extract_lets +onlyGivenNames v6; refine Keeps.cut (a := c₀) (x := v6) ?_ (fun _ => ?_); unfold v6
    refine Keeps.mk₁ ?_; assumption; apply Chip.settle_keeps; apply Chip.enableBoot_keeps
    apply Chip.portAddrs_keeps; assumption

theorem Chip.nmpSend_keeps (c : Chip) (d : DgIn) (l : List (List Byte)) {c₀ : Chip} (hc : Keeps c₀ c) : Keeps c₀ (Chip.nmpSend c d l) := by
  unfold Chip.nmpSend
  with_reducible
    refine Keeps.foldl (fun _ _ _ => ?_) ?_; apply Chip.pushTo_keeps; assumption; assumption

theorem Chip.nmpServe_keeps (c : Chip) (role : Nat) (a : NmpAct) (act : Chip → Nat → NmpAct → Chip × NmpReply) {c₀ : Chip} (hc : Keeps c₀ c) (hact : ∀ x r m, Keeps c₀ x → Keeps c₀ (act x r m).1) : Keeps c₀ (Chip.nmpServe c role a act).1 := by
  unfold Chip.nmpServe
  with_reducible
    split; assumption; split; assumption; split; assumption; split; assumption; apply_assumption; assumption

theorem Chip.nmp_keeps (c : Chip) (d : DgIn) (mine : NmpAct → Bool) (act : Chip → Nat → NmpAct → Chip × NmpReply) {c₀ : Chip} (hc : Keeps c₀ c) (hact : ∀ x r m, Keeps c₀ x → Keeps c₀ (act x r m).1) : Keeps c₀ (Chip.nmp c d mine act) := by
  unfold Chip.nmp
  with_reducible
    split; assumption; extract_lets +onlyGivenNames v1
    refine Keeps.cut (a := c₀) (x := v1) ?_ (fun _ => ?_); unfold v1; apply Chip.takeIn_keeps; assumption
    split; apply Chip.bump_keeps; assumption; extract_lets +onlyGivenNames v2
    refine Keeps.cut (a := c₀) (x := v2) ?_ (fun _ => ?_); unfold v2; apply Chip.bump_keeps; assumption
    apply Chip.nmpSend_keeps; assumption; split; apply Chip.bump_keeps; assumption
    extract_lets +onlyGivenNames v3; clear_value v3; split; apply Chip.bump_keeps; assumption; split
    apply Chip.nmpSend_keeps; assumption; split; apply Chip.bump_keeps; assumption; split
    extract_lets +onlyGivenNames v4; clear_value v4; split; assumption; extract_lets +onlyGivenNames v5
    refine Keeps.cut (a := c₀) (x := v5.1) ?_ (fun _ => ?_); unfold v5; apply Chip.nmpServe_keeps
    assumption; assumption; extract_lets +onlyGivenNames v6
    refine Keeps.cut (a := c₀) (x := v6) ?_ (fun _ => ?_); unfold v6; split; apply Chip.bump_keeps
    assumption; assumption; extract_lets +onlyGivenNames v7; clear_value v7; extract_lets +onlyGivenNames v8
    refine Keeps.cut (a := c₀) (x := v8) ?_ (fun _ => ?_); unfold v8; split; assumption
    apply Chip.modRole_keeps; assumption; apply Chip.nmpSend_keeps; assumption
    extract_lets +onlyGivenNames v9; refine Keeps.cut (a := c₀) (x := v9) ?_ (fun _ => ?_); unfold v9
    apply Chip.bump_keeps; assumption; apply Chip.nmpSend_keeps; assumption

theorem Chip.readDone_keeps (c : Chip) (role a : Nat) {c₀ : Chip} (hc : Keeps c₀ c) : Keeps c₀ (Chip.readDone c role a) := by
  unfold Chip.readDone
  with_reducible
    split; assumption; extract_lets +onlyGivenNames v1
    refine Keeps.cut (a := c₀) (x := v1) ?_ (fun _ => ?_); unfold v1; apply Chip.modRole_keeps; assumption
    split; extract_lets +onlyGivenNames v2; refine Keeps.cut (a := c₀) (x := v2) ?_ (fun _ => ?_); unfold v2
    apply Chip.updServo_keeps; assumption; apply Chip.put_keeps; assumption; split; apply Chip.lowRead_keeps
    apply Chip.setWord_keeps; assumption; assumption

theorem Chip.readWords_keeps (role n : Nat) (c : Chip) (x : Nat) {c₀ : Chip} (hc : Keeps c₀ c) : Keeps c₀ (Chip.readWords role n c x).1 := by
  induction n generalizing c x with
  | zero => exact hc
  | succ n ih =>
    unfold Chip.readWords
    with_reducible
      extract_lets +onlyGivenNames v1; refine Keeps.cut (a := c₀) (x := v1.1) ?_ (fun _ => ?_); unfold v1
      apply ih; apply Chip.readDone_keeps; assumption; assumption

theorem Chip.nmpRead_keeps (c : Chip) (role : Nat) (a : NmpAct) {c₀ : Chip} (hc : Keeps c₀ c) : Keeps c₀ (Chip.nmpRead c role a).1 := by
  unfold Chip.nmpRead
  with_reducible
    split; extract_lets +onlyGivenNames v1; refine Keeps.cut (a := c₀) (x := v1.1) ?_ (fun _ => ?_)
    unfold v1; apply Chip.readWords_keeps; assumption; assumption; assumption

theorem Chip.switch_keeps (c : Chip) (t : Target) (on : Bool) {c₀ : Chip} (hc : Keeps c₀ c) : Keeps c₀ (Chip.switch c t on) := by
  unfold Chip.switch
  with_reducible
    apply Chip.settle_keeps; split; apply Chip.enable_keeps; assumption; apply Chip.disable_keeps
    assumption

theorem Chip.nmpWrite_keeps (c : Chip) (role : Nat) (a : NmpAct) {c₀ : Chip} (hc : Keeps c₀ c) : Keeps c₀ (Chip.nmpWrite c role a).1 := by
  unfold Chip.nmpWrite
  with_reducible
    split; split; assumption; extract_lets +onlyGivenNames v1; clear_value v1; split; assumption; split
    assumption; extract_lets +onlyGivenNames v2; clear_value v2; extract_lets +onlyGivenNames v3
    clear_value v3; split; assumption; extract_lets +onlyGivenNames v4
    refine Keeps.cut (a := c₀) (x := v4) ?_ (fun _ => ?_); unfold v4; apply Chip.setWord_keeps; assumption
    refine Keeps.pair₁ ?_; split; apply Chip.switch_keeps; assumption; apply Chip.settle_keeps; assumption
    assumption

theorem Chip.nmpControl_keeps (c : Chip) (_role : Nat) (a : NmpAct) {c₀ : Chip} (hc : Keeps c₀ c) : Keeps c₀ (Chip.nmpControl c _role a).1 := by
  unfold Chip.nmpControl
  with_reducible
    split; split; assumption; refine Keeps.pair₁ ?_; split; apply Chip.settle_keeps
    apply Chip.sendClose_keeps; assumption; apply Chip.switch_keeps; assumption; assumption

theorem Chip.nmpHello_keeps (c : Chip) (_role : Nat) (_a : NmpAct) {c₀ : Chip} (hc : Keeps c₀ c) : Keeps c₀ (Chip.nmpHello c _role _a).1 := by
  unfold Chip.nmpHello
  with_reducible
    assumption

theorem Chip.abortOps_keeps (c : Chip) {c₀ : Chip} (hc : Keeps c₀ c) : Keeps c₀ (Chip.abortOps c) := by
  unfold Chip.abortOps
  with_reducible
    extract_lets +onlyGivenNames v1; refine Keeps.cut (a := c₀) (x := v1) ?_ (fun _ => ?_); unfold v1
    apply Chip.cutFlash_keeps; assumption; extract_lets +onlyGivenNames v2
    refine Keeps.cut (a := c₀) (x := v2) ?_ (fun _ => ?_); unfold v2; apply foldN_keeps; assumption
    intro _ _ _; split; apply Chip.opEnds_keeps; assumption; assumption; extract_lets +onlyGivenNames v3
    refine Keeps.cut (a := c₀) (x := v3) ?_ (fun _ => ?_); unfold v3; apply foldN_keeps; assumption
    intro _ _ _; split; apply Chip.captureOver_keeps; assumption; assumption; apply Chip.updAdapt_keeps
    apply Chip.putB_keeps; assumption

theorem Chip.nmpRestart_keeps (c : Chip) (_role : Nat) (_a : NmpAct) {c₀ : Chip} (hc : Keeps c₀ c) : Keeps c₀ (Chip.nmpRestart c _role _a).1 := by
  unfold Chip.nmpRestart
  with_reducible
    split; assumption; extract_lets +onlyGivenNames v1
    refine Keeps.cut (a := c₀) (x := v1) ?_ (fun _ => ?_); unfold v1; apply Chip.abortOps_keeps
    refine Keeps.updBoot₁ ?_ (fun _ => rfl); assumption; extract_lets +onlyGivenNames v2
    refine Keeps.cut (a := c₀) (x := v2) ?_ (fun _ => ?_); unfold v2; apply foldN_keeps; assumption
    intro _ _ _; split; assumption; apply Chip.streamOff_keeps; assumption; extract_lets +onlyGivenNames v3
    refine Keeps.cut (a := c₀) (x := v3) ?_ (fun _ => ?_); unfold v3
    refine Keeps.foldl (fun _ _ _ => ?_) ?_; apply Chip.endSoon_keeps; assumption; assumption
    refine Keeps.pair₁ ?_; apply Chip.settle_keeps; assumption

theorem Chip.newTree_keeps (c : Chip) {c₀ : Chip} (hc : Keeps c₀ c) : KeepsOP c₀ c.newTree := by
  unfold Chip.newTree
  with_reducible
    extract_lets +onlyGivenNames v1; clear_value v1; split; exact KeepsOP.none
    extract_lets +onlyGivenNames v2; refine Keeps.cut (a := c₀) (x := v2) ?_ (fun _ => ?_); unfold v2
    refine Keeps.mk₁ ?_; assumption; refine KeepsOP.mk ?_; apply Chip.put_keeps; apply Chip.showTrees_keeps
    refine Keeps.updBoot₁ ?_ (fun _ => rfl); assumption

theorem Chip.takeTree_keeps (c : Chip) {c₀ : Chip} (hc : Keeps c₀ c) : KeepsOP c₀ c.takeTree := by
  unfold Chip.takeTree
  with_reducible
    split; split; apply Chip.newTree_keeps; assumption; refine KeepsOP.mk ?_; assumption
    apply Chip.newTree_keeps; assumption

theorem Chip.nmpAttest_keeps (c : Chip) (_role : Nat) (a : NmpAct) {c₀ : Chip} (hc : Keeps c₀ c) : Keeps c₀ (Chip.nmpAttest c _role a).1 := by
  unfold Chip.nmpAttest
  with_reducible
    split; split; assumption; split; assumption; split; assumption; extract_lets +onlyGivenNames v1
    clear_value v1; extract_lets +onlyGivenNames v2; refine Keeps.cut (a := c₀) (x := v2) ?_ (fun _ => ?_)
    unfold v2; apply Chip.put_keeps; refine Keeps.someP (by assumption) ?_; apply Chip.takeTree_keeps
    assumption; assumption; assumption

theorem Chip.stageBegins_keeps (c : Chip) (h : Nat) {c₀ : Chip} (hc : Keeps c₀ c) : Keeps c₀ (Chip.stageBegins c h) := by
  unfold Chip.stageBegins
  with_reducible
    extract_lets +onlyGivenNames v1; clear_value v1; extract_lets +onlyGivenNames v2
    extract_lets +onlyGivenNames v3; refine Keeps.cut (a := c₀) (x := v3) ?_ (fun _ => ?_); unfold v3
    apply Chip.modOp_keeps; assumption; apply Chip.put_keeps; apply Chip.modFlash_keeps; assumption

theorem Chip.commitBegins_keeps (c : Chip) (h : Nat) {c₀ : Chip} (hc : Keeps c₀ c) : Keeps c₀ (Chip.commitBegins c h) := by
  unfold Chip.commitBegins
  with_reducible
    extract_lets +onlyGivenNames v1; clear_value v1; extract_lets +onlyGivenNames v2
    refine Keeps.cut (a := c₀) (x := v2) ?_ (fun _ => ?_); unfold v2; apply Chip.updAdapt_keeps
    apply Chip.putB_keeps; assumption; apply Chip.put_keeps; assumption

theorem Chip.startQueued_keeps (c : Chip) {c₀ : Chip} (hc : Keeps c₀ c) : Keeps c₀ (Chip.startQueued c) := by
  unfold Chip.startQueued
  with_reducible
    split; assumption; split; apply Chip.stageBegins_keeps; assumption; apply Chip.commitBegins_keeps
    assumption

theorem Chip.newOp_keeps (c : Chip) (h kind : Nat) (o : LongOp) {c₀ : Chip} (hc : Keeps c₀ c) : Keeps c₀ (Chip.newOp c h kind o) := by
  unfold Chip.newOp
  with_reducible
    extract_lets +onlyGivenNames v1; clear_value v1; extract_lets +onlyGivenNames v2
    refine Keeps.cut (a := c₀) (x := v2) ?_ (fun _ => ?_); unfold v2; apply Chip.put_keeps
    apply Chip.setWord_keeps; assumption; extract_lets +onlyGivenNames v3
    refine Keeps.cut (a := c₀) (x := v3) ?_ (fun _ => ?_); unfold v3; apply Chip.put_keeps
    apply Chip.put_keeps; assumption; extract_lets +onlyGivenNames v4
    refine Keeps.cut (a := c₀) (x := v4) ?_ (fun _ => ?_); unfold v4; apply Chip.modOp_keeps; assumption
    apply Chip.updMgmt_keeps; assumption

theorem Chip.longStart_keeps (c : Chip) (kind : Nat) (o : LongOp) (why : Option (List Byte)) (first : Chip → Nat → Chip) {c₀ : Chip} (hc : Keeps c₀ c) (hfirst : ∀ x n, Keeps c₀ x → Keeps c₀ (first x n)) : Keeps c₀ (Chip.longStart c kind o why first).1 := by
  unfold Chip.longStart
  with_reducible
    split; assumption; split; assumption; split; assumption; assumption; refine Keeps.pair₁ ?_
    apply_assumption; apply Chip.newOp_keeps; assumption

theorem Chip.stageStart_keeps (c : Chip) (role : Nat) (a : NmpAct) {c₀ : Chip} (hc : Keeps c₀ c) : Keeps c₀ (Chip.stageStart c role a).1 := by
  unfold Chip.stageStart
  with_reducible
    split; extract_lets +onlyGivenNames v1; clear_value v1; extract_lets +onlyGivenNames v2; clear_value v2
    extract_lets +onlyGivenNames v3; clear_value v3; apply Chip.longStart_keeps; assumption; intro _ _ _
    split; apply Chip.stageBegins_keeps; assumption; assumption; assumption

theorem Chip.captureStart_keeps (c : Chip) (role : Nat) (a : NmpAct) {c₀ : Chip} (hc : Keeps c₀ c) : Keeps c₀ (Chip.captureStart c role a).1 := by
  unfold Chip.captureStart
  with_reducible
    split; extract_lets +onlyGivenNames v1; clear_value v1; apply Chip.longStart_keeps; assumption
    intro _ _ _; apply Chip.captureBegin_keeps; assumption; assumption

theorem Chip.commitStart_keeps (c : Chip) (role : Nat) (a : NmpAct) {c₀ : Chip} (hc : Keeps c₀ c) : Keeps c₀ (Chip.commitStart c role a).1 := by
  unfold Chip.commitStart
  with_reducible
    split; extract_lets +onlyGivenNames v1; clear_value v1; apply Chip.longStart_keeps; assumption
    intro _ _ _; split; apply Chip.commitBegins_keeps; assumption; assumption; assumption

theorem Chip.scrubStart_keeps (c : Chip) (role : Nat) (_a : NmpAct) {c₀ : Chip} (hc : Keeps c₀ c) : Keeps c₀ (Chip.scrubStart c role _a).1 := by
  unfold Chip.scrubStart
  with_reducible
    apply Chip.longStart_keeps; assumption; intro _ _ _; assumption

theorem Chip.spareTestStart_keeps (c : Chip) (role : Nat) (_a : NmpAct) {c₀ : Chip} (hc : Keeps c₀ c) : Keeps c₀ (Chip.spareTestStart c role _a).1 := by
  unfold Chip.spareTestStart
  with_reducible
    apply Chip.longStart_keeps; assumption; intro _ _ _; assumption

theorem Chip.longStatus_keeps (c : Chip) (_role : Nat) (a : NmpAct) {c₀ : Chip} (hc : Keeps c₀ c) : Keeps c₀ (Chip.longStatus c _role a).1 := by
  unfold Chip.longStatus
  with_reducible
    split; split; assumption; assumption; assumption

theorem Chip.longAbort_keeps (c : Chip) (role : Nat) (a : NmpAct) {c₀ : Chip} (hc : Keeps c₀ c) : Keeps c₀ (Chip.longAbort c role a).1 := by
  unfold Chip.longAbort
  with_reducible
    split; split; assumption; split; assumption; split; assumption; split; refine Keeps.pair₁ ?_
    apply Chip.opEnds_keeps; assumption; refine Keeps.pair₁ ?_; apply Chip.modOp_keeps; assumption
    assumption

theorem Chip.stageData_keeps (c : Chip) (_role : Nat) (a : NmpAct) {c₀ : Chip} (hc : Keeps c₀ c) : Keeps c₀ (Chip.stageData c _role a).1 := by
  unfold Chip.stageData
  with_reducible
    split; split; assumption; extract_lets +onlyGivenNames v1; clear_value v1
    extract_lets +onlyGivenNames v2; clear_value v2; extract_lets +onlyGivenNames v3; clear_value v3; split
    refine Keeps.pair₁ ?_; apply Chip.modOp_keeps; assumption; extract_lets +onlyGivenNames v4
    refine Keeps.cut (a := c₀) (x := v4) ?_ (fun _ => ?_); unfold v4; apply Chip.modFlash_keeps; assumption
    extract_lets +onlyGivenNames v5; clear_value v5; extract_lets +onlyGivenNames v6
    refine Keeps.cut (a := c₀) (x := v6) ?_ (fun _ => ?_); unfold v6; apply Chip.modOp_keeps; assumption
    refine Keeps.pair₁ ?_; apply Chip.put_keeps; assumption; assumption

theorem Chip.activate_keeps (c : Chip) (d rank : Nat) {c₀ : Chip} (hc : Keeps c₀ c) : Keeps c₀ (Chip.activate c d rank) := by
  unfold Chip.activate
  with_reducible
    split; assumption; apply Chip.modFlash_keeps; assumption

theorem Chip.stageEnds_keeps (c : Chip) (h : Nat) (e : LongEnd) {c₀ : Chip} (hc : Keeps c₀ c) : KeepsO c₀ (c.stageEnds h e) := by
  unfold Chip.stageEnds
  with_reducible
    extract_lets +onlyGivenNames v1; clear_value v1; split; refine KeepsO.mk ?_; apply Chip.opEnds_keeps
    assumption; split; refine KeepsO.mk ?_; apply Chip.opEnds_keeps; assumption; split; exact KeepsO.none
    split; refine KeepsO.mk ?_; apply Chip.opEnds_keeps; apply Chip.activate_keeps; assumption
    refine KeepsO.mk ?_; apply Chip.opEnds_keeps; assumption

theorem Chip.commitOver_keeps (c : Chip) {c₀ : Chip} (hc : Keeps c₀ c) : Keeps c₀ (Chip.commitOver c) := by
  unfold Chip.commitOver
  with_reducible
    apply Chip.updAdapt_keeps; apply Chip.putB_keeps; assumption

theorem Chip.commitEnds_keeps (c : Chip) (h : Nat) (e : LongEnd) {c₀ : Chip} (hc : Keeps c₀ c) : Keeps c₀ (Chip.commitEnds c h e) := by
  unfold Chip.commitEnds
  with_reducible
    split; extract_lets +onlyGivenNames v1; clear_value v1; extract_lets +onlyGivenNames v2
    refine Keeps.cut (a := c₀) (x := v2) ?_ (fun _ => ?_); unfold v2; apply foldN_keeps; assumption
    intro _ _ _; apply Chip.modFlash_keeps; assumption; apply Chip.opEnds_keeps; apply Chip.commitOver_keeps
    assumption; apply Chip.opEnds_keeps; apply Chip.commitOver_keeps; apply Chip.cutFlash_keeps; assumption
    apply Chip.opEnds_keeps; apply Chip.commitOver_keeps; apply Chip.cutFlash_keeps; assumption

theorem Chip.captureStops_keeps (c : Chip) (h : Nat) {c₀ : Chip} (hc : Keeps c₀ c) : Keeps c₀ (Chip.captureStops c h) := by
  unfold Chip.captureStops
  with_reducible
    apply Chip.captureOver_keeps; assumption

theorem Chip.longEnd_keeps (c : Chip) (handle : Nat) (e : LongEnd) {c₀ : Chip} (hc : Keeps c₀ c) : Keeps c₀ (Chip.longEnd c handle e) := by
  unfold Chip.longEnd
  with_reducible
    split; assumption; extract_lets +onlyGivenNames v1; clear_value v1; split; assumption; split; assumption
    extract_lets +onlyGivenNames v2; clear_value v2; split; apply Chip.startQueued_keeps
    apply Chip.opEnds_keeps; assumption; refine Keeps.opt ?_ ?_; refine KeepsO.map ?_ (fun _ _ => ?_)
    apply Chip.stageEnds_keeps; assumption; apply Chip.startQueued_keeps; assumption; assumption
    apply Chip.opEnds_keeps; apply Chip.captureStops_keeps; assumption; apply Chip.opEnds_keeps
    apply Chip.captureStops_keeps; assumption; assumption; apply Chip.startQueued_keeps
    apply Chip.commitEnds_keeps; assumption; apply Chip.opEnds_keeps; assumption; apply Chip.opEnds_keeps
    assumption; apply Chip.opEnds_keeps; assumption

theorem Chip.captureDone_keeps (c : Chip) (n : Nat) (w : CaptureIn) {c₀ : Chip} (hc : Keeps c₀ c) : Keeps c₀ (Chip.captureDone c n w) := by
  unfold Chip.captureDone
  with_reducible
    extract_lets +onlyGivenNames v1; refine Keeps.cut (a := c₀) (x := v1.1) ?_ (fun _ => ?_); unfold v1
    apply Chip.captureRefs_keeps; assumption; split; apply Chip.opEnds_keeps; assumption; assumption

theorem Chip.handleExpire_keeps (c : Chip) (handle : Nat) {c₀ : Chip} (hc : Keeps c₀ c) : Keeps c₀ (Chip.handleExpire c handle) := by
  unfold Chip.handleExpire
  with_reducible
    split; assumption; split; assumption; apply Chip.modOp_keeps; apply Chip.setWord_keeps
    apply Chip.setWord_keeps; assumption

theorem Chip.tokenIn_keeps (c : Chip) (t : List Byte) {c₀ : Chip} (hc : Keeps c₀ c) : Keeps c₀ (Chip.tokenIn c t).1 := by
  unfold Chip.tokenIn
  with_reducible
    split; assumption; split; assumption; extract_lets +onlyGivenNames v1; clear_value v1
    extract_lets +onlyGivenNames v2; clear_value v2; refine Keeps.pair₁ ?_; apply Chip.put_keeps; assumption

theorem Chip.nmpToken_keeps (c : Chip) (_role : Nat) (a : NmpAct) {c₀ : Chip} (hc : Keeps c₀ c) : Keeps c₀ (Chip.nmpToken c _role a).1 := by
  unfold Chip.nmpToken
  with_reducible
    split; extract_lets +onlyGivenNames v1; refine Keeps.cut (a := c₀) (x := v1.1) ?_ (fun _ => ?_)
    unfold v1; apply Chip.tokenIn_keeps; assumption; assumption; assumption

theorem Chip.jtagLoad_keeps (c : Chip) (i : JtagInstr) {c₀ : Chip} (hc : Keeps c₀ c) : Keeps c₀ (Chip.jtagLoad c i) := by
  unfold Chip.jtagLoad
  with_reducible
    apply Chip.updMgmt_keeps; assumption

theorem Chip.i2cIndex_keeps (c : Chip) (b : List Byte) {c₀ : Chip} (hc : Keeps c₀ c) : Keeps c₀ (Chip.i2cIndex c b) := by
  unfold Chip.i2cIndex
  with_reducible
    split; apply Chip.updMgmt_keeps; assumption; assumption

theorem Chip.i2cRead_keeps (c : Chip) (n : Nat) {c₀ : Chip} (hc : Keeps c₀ c) : Keeps c₀ (Chip.i2cRead c n) := by
  unfold Chip.i2cRead
  with_reducible
    extract_lets +onlyGivenNames v1; clear_value v1; apply Chip.updMgmt_keeps; assumption

theorem Chip.awake_keeps (c : Chip) (f : Chip → Chip) {c₀ : Chip} (hc : Keeps c₀ c) (hf : ∀ x, Keeps c₀ x → Keeps c₀ (f x)) : Keeps c₀ (Chip.awake c f) := by
  unfold Chip.awake
  with_reducible
    split; assumption; apply_assumption; assumption

theorem Chip.serving_keeps (c : Chip) (f : Chip → Chip) {c₀ : Chip} (hc : Keeps c₀ c) (hf : ∀ x, Keeps c₀ x → Keeps c₀ (f x)) : Keeps c₀ (Chip.serving c f) := by
  unfold Chip.serving
  with_reducible
    split; assumption; apply Chip.settle_keeps; apply_assumption; assumption

theorem Chip.writeRow_keeps (c : Chip) (d : DgIn) (mine : NmpAct → Bool) {c₀ : Chip} (hc : Keeps c₀ c) : Keeps c₀ (Chip.writeRow c d mine) := by
  unfold Chip.writeRow
  with_reducible
    apply Chip.nmp_keeps; assumption; intro _ _ _ _; apply Chip.nmpWrite_keeps; assumption

theorem Chip.controlRow_keeps (c : Chip) (d : DgIn) (kind : Target → Bool) (acts : List Nat) {c₀ : Chip} (hc : Keeps c₀ c) : Keeps c₀ (Chip.controlRow c d kind acts) := by
  unfold Chip.controlRow
  with_reducible
    apply Chip.nmp_keeps; assumption; intro _ _ _ _; apply Chip.nmpControl_keeps; assumption

theorem Chip.online_keeps (c : Chip) (f : Chip → Chip) {c₀ : Chip} (hc : Keeps c₀ c) (hf : ∀ x, Keeps c₀ x → Keeps c₀ (f x)) : Keeps c₀ (Chip.online c f) := by
  unfold Chip.online
  with_reducible
    split; assumption; apply_assumption; assumption

theorem Chip.followAddr_keeps (c : Chip) (x old : Nat) {c₀ : Chip} (hc : Keeps c₀ c) : Keeps c₀ (Chip.followAddr c x old) := by
  unfold Chip.followAddr
  with_reducible
    extract_lets +onlyGivenNames v1; clear_value v1; split; apply Chip.rebindAll_keeps; assumption; split
    apply Chip.pathBack_keeps; assumption; assumption

end Sys2Proof.Machine
end

