-- ==== Sys2Proof/Laws/Settle.lean ====
section
/-!
SUPPORT. What follows every command of a running device, feed hold and record credit, leaves alone: everything but the
HOLD_STAT registers, the hold times of transports, submission credits and the records that carry them.
-/

namespace Sys2Proof.Machine

/-- From `a` to `b` nothing but hold reasons, hold times, submission credits and formed records changed. -/
structure Calm (a b : Chip) : Prop where
  free : b.free = a.free
  image : b.image = a.image
  clock : b.clock = a.clock
  fabric : b.fabric = a.fabric
  mem : b.mem = a.mem
  sched : b.sched = a.sched
  recov : b.recov = a.recov
  streams : b.streams = a.streams
  items : b.items = a.items
  net : b.net = a.net
  servo : b.servo = a.servo
  sessions : b.sessions = a.sessions
  kv : b.kv = a.kv
  adapt : b.adapt = a.adapt
  boot : b.boot = a.boot
  fuses : b.fuses = a.fuses
  flash : b.flash = a.flash
  mgmt : b.mgmt = a.mgmt
  word : ∀ r i j, (∀ k, k < 8 → r.addr i j ≠ Reg.addr .HOLD_STAT k 0) → b.word r i j = a.word r i j

theorem Calm.refl (a : Chip) : Calm a a := ⟨rfl, rfl, rfl, rfl, rfl, rfl, rfl, rfl, rfl, rfl, rfl, rfl, rfl, rfl, rfl, rfl, rfl, rfl, fun _ _ _ _ => rfl⟩

theorem Calm.trans {a b c : Chip} (h : Calm a b) (k : Calm b c) : Calm a c :=
  ⟨k.free.trans h.free, k.image.trans h.image, k.clock.trans h.clock, k.fabric.trans h.fabric,
   k.mem.trans h.mem, k.sched.trans h.sched, k.recov.trans h.recov, k.streams.trans h.streams,
   k.items.trans h.items, k.net.trans h.net, k.servo.trans h.servo, k.sessions.trans h.sessions,
   k.kv.trans h.kv, k.adapt.trans h.adapt, k.boot.trans h.boot, k.fuses.trans h.fuses,
   k.flash.trans h.flash, k.mgmt.trans h.mgmt, fun r i j n => (k.word r i j n).trans (h.word r i j n)⟩

theorem Calm.foldl {β : Type} {g : Chip → β → Chip} (hg : ∀ c x, Calm c (g c x)) (l : List β) (c : Chip) :
    Calm c (l.foldl g c) := by
  induction l generalizing c with
  | nil => exact Calm.refl c
  | cons x l ih => exact (hg c x).trans (ih _)

theorem Calm.putB (c : Chip) (f : Fld) (v : Bool) (k : Nat) (hf : f.reg = .HOLD_STAT) : Calm c (c.putB f v k) := by
  refine ⟨rfl, rfl, rfl, rfl, rfl, rfl, rfl, rfl, rfl, rfl, rfl, rfl, rfl, rfl, rfl, rfl, rfl, rfl, fun r i j n => ?_⟩
  unfold Chip.putB Chip.put
  rw [hf]
  by_cases hk : k < 8
  · exact Chip.word_setWord_ne _ _ (n k hk)
  · rw [Chip.setWord_none _ _ _ _ _ (by simp [Reg.has, Reg.info]; omega)]

theorem Calm.modTransport (c : Chip) (k : Nat) (f : Transport → Transport) : Calm c (c.modTransport k f) :=
  ⟨rfl, rfl, rfl, rfl, rfl, rfl, rfl, rfl, rfl, rfl, rfl, rfl, rfl, rfl, rfl, rfl, rfl, rfl, fun _ _ _ _ => rfl⟩

theorem Chip.refreshHold_calm (c : Chip) (k : Nat) : Calm c (c.refreshHold k) := by
  unfold Chip.refreshHold
  extract_lets r b c1 c2 c3 c4 c5 c6
  have h : Calm c c6 := (((((Calm.putB _ _ _ _ rfl).trans (Calm.putB _ _ _ _ rfl)).trans (Calm.putB _ _ _ _ rfl)).trans
    (Calm.putB _ _ _ _ rfl)).trans (Calm.putB _ _ _ _ rfl)).trans (Calm.putB _ _ _ _ rfl)
  clear_value c6
  split
  · split
    · exact h
    · exact (h.trans (Calm.putB _ _ _ _ rfl)).trans (Calm.modTransport _ _ _)
  · split
    · exact h.trans (Calm.putB _ _ _ _ rfl)
    · split
      · exact (h.trans (Calm.putB _ _ _ _ rfl)).trans (Calm.modTransport _ _ _)
      · exact h

theorem Chip.grant_calm (c : Chip) (s : Nat) : Calm c (c.grant s) := by
  unfold Chip.grant
  extract_lets x g c1
  split
  · exact Calm.refl c
  · split
    · exact Calm.refl c
    · exact ⟨rfl, rfl, rfl, rfl, rfl, rfl, rfl, rfl, rfl, rfl, rfl, rfl, rfl, rfl, rfl, rfl, rfl, rfl, fun _ _ _ _ => rfl⟩

theorem Chip.refreshHolds_calm (c : Chip) : Calm c c.refreshHolds := by
  unfold Chip.refreshHolds
  split
  · exact Calm.foldl Chip.refreshHold_calm _ _
  · exact Calm.refl c

/-- Everything that settling can change. -/
theorem Chip.settle_calm (c : Chip) : Calm c c.settle := by
  unfold Chip.settle
  split
  · exact (Chip.refreshHolds_calm c).trans (Calm.foldl Chip.grant_calm _ _)
  · exact Calm.refl c

@[simp] theorem Chip.settle_free (c : Chip) : c.settle.free = c.free := (Chip.settle_calm c).free
@[simp] theorem Chip.settle_image (c : Chip) : c.settle.image = c.image := (Chip.settle_calm c).image
@[simp] theorem Chip.settle_clock (c : Chip) : c.settle.clock = c.clock := (Chip.settle_calm c).clock
@[simp] theorem Chip.settle_fabric (c : Chip) : c.settle.fabric = c.fabric := (Chip.settle_calm c).fabric
@[simp] theorem Chip.settle_mem (c : Chip) : c.settle.mem = c.mem := (Chip.settle_calm c).mem
@[simp] theorem Chip.settle_sched (c : Chip) : c.settle.sched = c.sched := (Chip.settle_calm c).sched
@[simp] theorem Chip.settle_recov (c : Chip) : c.settle.recov = c.recov := (Chip.settle_calm c).recov
@[simp] theorem Chip.settle_streams (c : Chip) : c.settle.streams = c.streams := (Chip.settle_calm c).streams
@[simp] theorem Chip.settle_items (c : Chip) : c.settle.items = c.items := (Chip.settle_calm c).items
@[simp] theorem Chip.settle_net (c : Chip) : c.settle.net = c.net := (Chip.settle_calm c).net
@[simp] theorem Chip.settle_servo (c : Chip) : c.settle.servo = c.servo := (Chip.settle_calm c).servo
@[simp] theorem Chip.settle_sessions (c : Chip) : c.settle.sessions = c.sessions := (Chip.settle_calm c).sessions
@[simp] theorem Chip.settle_kv (c : Chip) : c.settle.kv = c.kv := (Chip.settle_calm c).kv
@[simp] theorem Chip.settle_adapt (c : Chip) : c.settle.adapt = c.adapt := (Chip.settle_calm c).adapt
@[simp] theorem Chip.settle_boot (c : Chip) : c.settle.boot = c.boot := (Chip.settle_calm c).boot
@[simp] theorem Chip.settle_fuses (c : Chip) : c.settle.fuses = c.fuses := (Chip.settle_calm c).fuses
@[simp] theorem Chip.settle_flash (c : Chip) : c.settle.flash = c.flash := (Chip.settle_calm c).flash
@[simp] theorem Chip.settle_mgmt (c : Chip) : c.settle.mgmt = c.mgmt := (Chip.settle_calm c).mgmt

/-- A field of any register but HOLD_STAT. -/
theorem Chip.settle_get (c : Chip) (f : Fld) (i j : Nat) (h : ∀ k, k < 8 → f.reg.addr i j ≠ Reg.addr .HOLD_STAT k 0) :
    c.settle.get f i j = c.get f i j := by
  unfold Chip.get
  rw [(Chip.settle_calm c).word _ _ _ h]

/-- The device still runs. -/
@[simp] theorem Chip.settle_running (c : Chip) : c.settle.running = c.running := by
  unfold Chip.running
  rw [Chip.settle_get _ _ _ _ (fun k _ => by simp [Reg.addr, Reg.info, F.BOOT_STAT_STATE]; omega)]

end Sys2Proof.Machine
end

