-- ==== Sys2Proof/Laws/Stays.lean ====
section
/-!
SUPPORT. The end of boot: what the work after STATE has become RUNNING leaves alone.
-/

set_option linter.unusedVariables false

namespace Sys2Proof.Machine

/-- From `a` to `b` memories but the DDR4 handle table, clock, reset state and BOOT_STAT stay. -/
structure Stays (a b : Chip) : Prop where
  mem : b.mem = { a.mem with ddrHnd := b.mem.ddrHnd }
  clock : b.clock = a.clock
  boot : b.boot = a.boot
  stat : b.word .BOOT_STAT 0 0 = a.word .BOOT_STAT 0 0

theorem Stays.refl (a : Chip) : Stays a a := ⟨rfl, rfl, rfl, rfl⟩
theorem Stays.cut {a x : Chip} {p : Prop} (h : Stays a x) (f : Stays a x → p) : p := f h
theorem Stays.foldl {a c : Chip} {β : Type} {g : Chip → β → Chip} {l : List β}
    (hg : ∀ x b, Stays a x → Stays a (g x b)) (hc : Stays a c) : Stays a (l.foldl g c) := by
  induction l generalizing c with
  | nil => exact hc
  | cons b l ih => exact ih (hg _ _ hc)
theorem Stays.mk₁ {a c : Chip} {fr im fa sc re st tr it su fo ne se ss kv ad fl mg fu} (h : Stays a c) :
    Stays a ⟨c.regs, fr, im, c.clock, fa, c.mem, sc, re, st, tr, it, su, fo, ne, se, ss, kv, ad, c.boot, fu, fl, mg⟩ :=
  ⟨h.1, h.2, h.3, h.4⟩
theorem Stays.updMem₁ {a c : Chip} {f : Mem → Mem} (h : Stays a c) (hf : f c.mem = { c.mem with ddrHnd := (f c.mem).ddrHnd }) :
    Stays a (c.updMem f) := by
  refine ⟨?_, h.2, h.3, h.4⟩
  show f c.mem = { a.mem with ddrHnd := (f c.mem).ddrHnd }
  rw [hf, h.1]
/-- No instance of another register lies at the address of BOOT_STAT. -/
theorem Reg.addr_ne_boot (r : Reg) (i j : Nat) (h : r ≠ .BOOT_STAT) (hh : r.has i j = true) :
    Reg.addr .BOOT_STAT 0 0 ≠ r.addr i j := by
  have b := of_decide_eq_true hh
  cases r <;> first | exact absurd rfl h | (simp only [Reg.info, Reg.addr] at b ⊢; omega)
theorem Chip.setWord_stays (c : Chip) (r : Reg) (i j v : Nat) {c₀ : Chip} (hc : Stays c₀ c) (h : r ≠ .BOOT_STAT) :
    Stays c₀ (c.setWord r i j v) := by
  refine ⟨hc.1, hc.2, hc.3, ?_⟩
  cases hh : r.has i j
  · rw [Chip.setWord_none _ _ _ _ _ hh]; exact hc.4
  · rw [Chip.word_setWord_ne _ _ (Reg.addr_ne_boot r i j h hh)]; exact hc.4
theorem Chip.put_stays (c : Chip) (f : Fld) (v i j : Nat) {c₀ : Chip} (hc : Stays c₀ c) (h : f.reg ≠ .BOOT_STAT) :
    Stays c₀ (c.put f v i j) := Chip.setWord_stays _ _ _ _ _ hc h
theorem Chip.putB_stays (c : Chip) (f : Fld) (v : Bool) (i j : Nat) {c₀ : Chip} (hc : Stays c₀ c) (h : f.reg ≠ .BOOT_STAT) :
    Stays c₀ (c.putB f v i j) := Chip.put_stays _ _ _ _ _ hc h
theorem Chip.bump_stays (c : Chip) (f : Fld) (i j n : Nat) {c₀ : Chip} (hc : Stays c₀ c) (h : f.reg ≠ .BOOT_STAT) :
    Stays c₀ (c.bump f i j n) := Chip.put_stays _ _ _ _ _ hc h
theorem Chip.wrap_stays (c : Chip) (f : Fld) (i j n : Nat) {c₀ : Chip} (hc : Stays c₀ c) (h : f.reg ≠ .BOOT_STAT) :
    Stays c₀ (c.wrap f i j n) := Chip.put_stays _ _ _ _ _ hc h

theorem foldN_stays (n : Nat) (f : Chip → Nat → Chip) (c : Chip) {c₀ : Chip} (hc : Stays c₀ c) (hf : ∀ x n, Stays c₀ x → Stays c₀ (f x n)) : Stays c₀ (foldN n f c) := by
  unfold foldN
  with_reducible
    refine Stays.foldl (fun _ _ _ => ?_) ?_; apply_assumption; assumption; assumption

theorem Chip.log_stays (c : Chip) (code : Nat) (l : Loc) (stated : Option Nat ) {c₀ : Chip} (hc : Stays c₀ c) : Stays c₀ (Chip.log c code l stated) := by
  unfold Chip.log
  with_reducible
    extract_lets +onlyGivenNames v1; clear_value v1; extract_lets +onlyGivenNames v2
    refine Stays.cut (a := c₀) (x := v2) ?_ (fun _ => ?_); unfold v2; split; assumption; refine Stays.mk₁ ?_
    assumption; extract_lets +onlyGivenNames v3; clear_value v3; extract_lets +onlyGivenNames v4
    refine Stays.cut (a := c₀) (x := v4) ?_ (fun _ => ?_); unfold v4; apply Chip.setWord_stays; assumption
    decide; extract_lets +onlyGivenNames v5; refine Stays.cut (a := c₀) (x := v5) ?_ (fun _ => ?_)
    unfold v5; apply Chip.setWord_stays; assumption; decide; extract_lets +onlyGivenNames v6
    refine Stays.cut (a := c₀) (x := v6) ?_ (fun _ => ?_); unfold v6; apply Chip.setWord_stays; assumption
    decide; extract_lets +onlyGivenNames v7; refine Stays.cut (a := c₀) (x := v7) ?_ (fun _ => ?_)
    unfold v7; apply Chip.setWord_stays; assumption; decide; extract_lets +onlyGivenNames v8
    refine Stays.cut (a := c₀) (x := v8) ?_ (fun _ => ?_); unfold v8; apply Chip.put_stays; assumption
    decide; apply Chip.wrap_stays; assumption; decide

theorem Chip.updSched_stays (c : Chip) (f : Sched → Sched) {c₀ : Chip} (hc : Stays c₀ c) : Stays c₀ (Chip.updSched c f) := by
  unfold Chip.updSched
  with_reducible
    refine Stays.mk₁ ?_; assumption

theorem Chip.updItems_stays (c : Chip) (f : Items → Items) {c₀ : Chip} (hc : Stays c₀ c) : Stays c₀ (Chip.updItems c f) := by
  unfold Chip.updItems
  with_reducible
    refine Stays.mk₁ ?_; assumption

theorem Chip.modStream_stays (c : Chip) (n : Nat) (f : Stream → Stream) {c₀ : Chip} (hc : Stays c₀ c) : Stays c₀ (Chip.modStream c n f) := by
  unfold Chip.modStream
  with_reducible
    refine Stays.mk₁ ?_; assumption

theorem Chip.modTransport_stays (c : Chip) (k : Nat) (f : Transport → Transport) {c₀ : Chip} (hc : Stays c₀ c) : Stays c₀ (Chip.modTransport c k f) := by
  unfold Chip.modTransport
  with_reducible
    refine Stays.mk₁ ?_; assumption

theorem Chip.modSubm_stays (c : Chip) (s : Nat) (f : Subm → Subm) {c₀ : Chip} (hc : Stays c₀ c) : Stays c₀ (Chip.modSubm c s f) := by
  unfold Chip.modSubm
  with_reducible
    refine Stays.mk₁ ?_; assumption

theorem Chip.modItem_stays (c : Chip) (n : Nat) (f : Item → Item) {c₀ : Chip} (hc : Stays c₀ c) : Stays c₀ (Chip.modItem c n f) := by
  unfold Chip.modItem
  with_reducible
    apply Chip.updItems_stays; assumption

theorem Chip.stopItem_stays (c : Chip) (n : Nat) (why : List Byte) {c₀ : Chip} (hc : Stays c₀ c) : Stays c₀ (Chip.stopItem c n why) := by
  unfold Chip.stopItem
  with_reducible
    split; assumption; split; assumption; extract_lets +onlyGivenNames v1
    refine Stays.cut (a := c₀) (x := v1) ?_ (fun _ => ?_); unfold v1; apply Chip.modItem_stays; assumption
    apply Chip.bump_stays; assumption; decide

theorem Chip.faultHold_stays (c : Chip) {c₀ : Chip} (hc : Stays c₀ c) : Stays c₀ (Chip.faultHold c) := by
  unfold Chip.faultHold
  with_reducible
    split; assumption; extract_lets +onlyGivenNames v1
    refine Stays.cut (a := c₀) (x := v1) ?_ (fun _ => ?_); unfold v1; apply Chip.putB_stays; assumption
    decide; extract_lets +onlyGivenNames v2; refine Stays.cut (a := c₀) (x := v2) ?_ (fun _ => ?_)
    unfold v2; apply Chip.log_stays; assumption; refine Stays.foldl (fun _ _ _ => ?_) ?_
    apply Chip.stopItem_stays; assumption; assumption

theorem Chip.formLoose_stays (c : Chip) (s kind : Nat) (bytes : List Byte) {c₀ : Chip} (hc : Stays c₀ c) : Stays c₀ (Chip.formLoose c s kind bytes) := by
  unfold Chip.formLoose
  with_reducible
    refine Stays.mk₁ ?_; assumption

theorem Chip.grant_stays (c : Chip) (s : Nat) {c₀ : Chip} (hc : Stays c₀ c) : Stays c₀ (Chip.grant c s) := by
  unfold Chip.grant
  with_reducible
    extract_lets +onlyGivenNames v1; clear_value v1; split; assumption; split; assumption
    extract_lets +onlyGivenNames v2; clear_value v2; extract_lets +onlyGivenNames v3
    refine Stays.cut (a := c₀) (x := v3) ?_ (fun _ => ?_); unfold v3; apply Chip.modSubm_stays; assumption
    apply Chip.formLoose_stays; assumption

theorem Chip.showFree_stays (c : Chip) {c₀ : Chip} (hc : Stays c₀ c) : Stays c₀ (Chip.showFree c) := by
  unfold Chip.showFree
  with_reducible
    apply Chip.put_stays; assumption; decide

theorem Chip.showKv_stays (c : Chip) {c₀ : Chip} (hc : Stays c₀ c) : Stays c₀ (Chip.showKv c) := by
  unfold Chip.showKv
  with_reducible
    extract_lets +onlyGivenNames v1; clear_value v1; extract_lets +onlyGivenNames v2; clear_value v2
    extract_lets +onlyGivenNames v3; clear_value v3; extract_lets +onlyGivenNames v4
    refine Stays.cut (a := c₀) (x := v4) ?_ (fun _ => ?_); unfold v4; apply Chip.put_stays; assumption
    decide; extract_lets +onlyGivenNames v5; refine Stays.cut (a := c₀) (x := v5) ?_ (fun _ => ?_)
    unfold v5; apply Chip.put_stays; assumption; decide; extract_lets +onlyGivenNames v6
    refine Stays.cut (a := c₀) (x := v6) ?_ (fun _ => ?_); unfold v6; apply Chip.put_stays; assumption
    decide; extract_lets +onlyGivenNames v7; refine Stays.cut (a := c₀) (x := v7) ?_ (fun _ => ?_)
    unfold v7; apply Chip.put_stays; assumption; decide; apply Chip.put_stays; assumption; decide

theorem Chip.showAdapt_stays (c : Chip) {c₀ : Chip} (hc : Stays c₀ c) : Stays c₀ (Chip.showAdapt c) := by
  unfold Chip.showAdapt
  with_reducible
    extract_lets +onlyGivenNames v1; refine Stays.cut (a := c₀) (x := v1) ?_ (fun _ => ?_); unfold v1
    apply Chip.put_stays; assumption; decide; refine Stays.foldl (fun _ _ _ => ?_) ?_; apply Chip.put_stays
    assumption; decide; assumption

theorem Chip.checkFault_stays (c : Chip) (n : Nat) {c₀ : Chip} (hc : Stays c₀ c) : Stays c₀ (Chip.checkFault c n) := by
  unfold Chip.checkFault
  with_reducible
    extract_lets +onlyGivenNames v1; refine Stays.cut (a := c₀) (x := v1) ?_ (fun _ => ?_); unfold v1
    apply Chip.put_stays; assumption; decide; split; apply Chip.putB_stays; assumption; decide
    apply Chip.log_stays; apply Chip.putB_stays; assumption; decide

theorem Chip.streamEnabling_stays (c : Chip) (n : Nat) {c₀ : Chip} (hc : Stays c₀ c) : Stays c₀ (Chip.streamEnabling c n) := by
  unfold Chip.streamEnabling
  with_reducible
    extract_lets +onlyGivenNames v1; clear_value v1; extract_lets +onlyGivenNames v2; clear_value v2
    extract_lets +onlyGivenNames v3; refine Stays.cut (a := c₀) (x := v3) ?_ (fun _ => ?_); unfold v3; split
    apply Chip.modTransport_stays; assumption; assumption; split; apply Chip.checkFault_stays; assumption
    extract_lets +onlyGivenNames v4; refine Stays.cut (a := c₀) (x := v4) ?_ (fun _ => ?_); unfold v4
    apply Chip.putB_stays; apply Chip.putB_stays; assumption; decide; decide; apply Chip.modStream_stays
    apply Chip.put_stays; assumption; decide

theorem Chip.enableStream_stays (c : Chip) (n : Nat) {c₀ : Chip} (hc : Stays c₀ c) : Stays c₀ (Chip.enableStream c n) := by
  unfold Chip.enableStream
  with_reducible
    split; apply Chip.streamEnabling_stays; assumption; apply Chip.updSched_stays; assumption; assumption

theorem Chip.enableSub_stays (c : Chip) (s : Nat) {c₀ : Chip} (hc : Stays c₀ c) : Stays c₀ (Chip.enableSub c s) := by
  unfold Chip.enableSub
  with_reducible
    split; apply Chip.grant_stays; apply Chip.put_stays; assumption; decide; apply Chip.updSched_stays
    assumption; assumption

theorem loadHedge_stays (c : Chip) (aw : Nat × Word) {c₀ : Chip} (hc : Stays c₀ c) : Stays c₀ (loadHedge c aw) := by
  unfold loadHedge
  with_reducible
    split; apply Chip.setWord_stays; assumption; decide; apply Chip.setWord_stays; assumption; decide
    assumption

theorem Chip.useVariant_stays (c : Chip) (v : Variant) {c₀ : Chip} (hc : Stays c₀ c) : Stays c₀ (Chip.useVariant c v) := by
  unfold Chip.useVariant
  with_reducible
    extract_lets +onlyGivenNames v1; refine Stays.cut (a := c₀) (x := v1) ?_ (fun _ => ?_); unfold v1
    refine Stays.foldl (fun _ _ _ => ?_) ?_; apply loadHedge_stays; assumption; assumption
    extract_lets +onlyGivenNames v2; refine Stays.cut (a := c₀) (x := v2) ?_ (fun _ => ?_); unfold v2
    refine Stays.updMem₁ ?_ rfl; assumption; extract_lets +onlyGivenNames v3
    refine Stays.cut (a := c₀) (x := v3) ?_ (fun _ => ?_); unfold v3; apply Chip.put_stays; assumption
    decide; extract_lets +onlyGivenNames v4; refine Stays.cut (a := c₀) (x := v4) ?_ (fun _ => ?_)
    unfold v4; apply Chip.put_stays; assumption; decide; extract_lets +onlyGivenNames v5
    refine Stays.cut (a := c₀) (x := v5) ?_ (fun _ => ?_); unfold v5; apply Chip.put_stays; assumption
    decide; extract_lets +onlyGivenNames v6; refine Stays.cut (a := c₀) (x := v6) ?_ (fun _ => ?_)
    unfold v6; apply Chip.put_stays; assumption; decide; apply foldN_stays; assumption; intro _ _ _
    apply Chip.put_stays; assumption; decide

theorem Chip.bootVariant_stays (c : Chip) {c₀ : Chip} (hc : Stays c₀ c) : Stays c₀ (Chip.bootVariant c) := by
  unfold Chip.bootVariant
  with_reducible
    split; apply Chip.useVariant_stays; assumption; apply Chip.faultHold_stays; assumption

theorem Chip.fillPools_stays (c : Chip) {c₀ : Chip} (hc : Stays c₀ c) : Stays c₀ (Chip.fillPools c) := by
  unfold Chip.fillPools
  with_reducible
    extract_lets +onlyGivenNames v1; refine Stays.cut (a := c₀) (x := v1) ?_ (fun _ => ?_); unfold v1
    apply foldN_stays; assumption; intro _ _ _; split; assumption; extract_lets +onlyGivenNames v2
    refine Stays.cut (a := c₀) (x := v2) ?_ (fun _ => ?_); unfold v2; apply Chip.put_stays; assumption
    decide; apply Chip.put_stays; assumption; decide; extract_lets +onlyGivenNames v3
    refine Stays.cut (a := c₀) (x := v3) ?_ (fun _ => ?_); unfold v3; apply foldN_stays; assumption
    intro _ _ _; apply Chip.modSubm_stays; assumption; apply Chip.showAdapt_stays; apply Chip.showFree_stays
    apply Chip.showKv_stays; assumption

theorem Chip.enableBoot_stays (c : Chip) {c₀ : Chip} (hc : Stays c₀ c) : Stays c₀ (Chip.enableBoot c) := by
  unfold Chip.enableBoot
  with_reducible
    extract_lets +onlyGivenNames v1; refine Stays.cut (a := c₀) (x := v1) ?_ (fun _ => ?_); unfold v1
    apply foldN_stays; assumption; intro _ _ _; split; apply Chip.put_stays; assumption; decide; assumption
    extract_lets +onlyGivenNames v2; refine Stays.cut (a := c₀) (x := v2) ?_ (fun _ => ?_); unfold v2; split
    apply Chip.put_stays; assumption; decide; assumption; extract_lets +onlyGivenNames v3
    refine Stays.cut (a := c₀) (x := v3) ?_ (fun _ => ?_); unfold v3; apply foldN_stays; assumption
    intro _ _ _; split; assumption; split; apply Chip.checkFault_stays; assumption; split
    apply Chip.enableStream_stays; assumption; assumption; apply foldN_stays; assumption; intro _ _ _; split
    apply Chip.enableSub_stays; assumption; assumption

theorem Chip.portAddrs_stays (c : Chip) {c₀ : Chip} (hc : Stays c₀ c) : Stays c₀ (Chip.portAddrs c) := by
  unfold Chip.portAddrs
  with_reducible
    apply foldN_stays; assumption; intro _ _ _; split; apply Chip.put_stays; assumption; decide; assumption

end Sys2Proof.Machine
end

