-- ==== Sys2Proof/Tests/Slice0.lean ====
section
/-!
SUPPORT. Tests: an ill-formed operand for each check of WellFormed, small results that the spec states, and for each
statement a state and operands that meet its hypotheses.  Each is about one step on a small state.

Witnesses by statement: OnlyMissingAddressFaults wit_missing_address; StepKeepsInvariant wit_step; HeldDoesNothing wit_held;
OnlyResetsChangePins, FusesOnlyGrow, FewCommandsMoveClock wit_next, wit_fuse; ResetEndsEverything wit_reset_ends; ColdResetStarts
wit_cold_reset, wit_cold_reset_cool; WarmRestartKeeps closing_inv, wit_warm, wit_warm_early; ImageVerifyOutcome wit_verify_blank,
wit_verify, wit_sections; RollbackRefused wit_rollback; ImageSectionsLoad wit_sections; DdrStages wit_ddr; SelfTestAndAdapters
wit_self_test, wit_adapter_area; BootEndsRunning wit_boot_ends; SvnAdvances wit_svn; BoundariesLieOnMultiples wit_boundaries;
GovernorStaysInRange wit_governor; PaceWindowReports wit_reset_ends; ScheduleAndPaceFaults wit_schedule_fault,
wit_schedule_fault_done, wit_block_silent, wit_pace; StepStarts wit_step_start, wit_step_block; StepEnds wit_step_end,
wit_step_block_end, wit_reexecuted; SlotTokens wit_slots, wit_slot_moves; FencesComplete wit_fences; ReadDelivers wit_read;
MovesAreChecked wit_moves, wit_move_overlap; MoveWrites wit_move, wit_move_clean; ScrubAndSpare wit_scrub, wit_bank;
EncoderTriggers wit_encoder; DriveEventsExpose wit_drive; ReadoutsMakeLines wit_readout, wit_readout_sync; BandsAndStops wit_band,
wit_retention, wit_stop; StreamStates wit_states, wit_capture; RecordsArrive wit_records; KvEditsPublish wit_kv, wit_kv_more;
AdaptationLearns wit_correction, wit_accept, wit_update, wit_applied, wit_publish; PreemptionTakesBlocks wit_preempt, wit_spill,
wit_restore; CutoffsAndDrains wit_cutoff, wit_drain; FailuresAreRecorded wit_cell, wit_block, wit_core; RerunsAndSwitches wit_rerun,
wit_switch; LostChannelsAndPorts wit_lost; HoldsAndCreditsFollow wit_holds; LinksFollowThePhy wit_link; FramesPassThePorts
wit_transmit, wit_receive, wit_eliminate, wit_gates; AddressesComeAndGo wit_addresses; LockAndServo wit_lock, wit_sync;
SourcesAreChosen wit_sources; TimeMessagesAndPins wit_messages; SessionsOpenAndClose wit_open, wit_close; DataAndAcks wit_ack,
wit_data; TimersAndStalls wit_timers; RequestsAreChecked wit_unserved, wit_role, wit_tag; MapReadsAndWrites,
ControlsSwitchFunctions, LongOperationsStart, OperationsFusesAndWindow wit_requests, wit_starts and the states after them.
-/

namespace Sys2Proof.Tests
open Sys2Proof Sys2Proof.Machine

set_option Elab.async false

/-! ## Small states -/

/-- A device out of reset that has not started to boot. -/
def boots : Chip := { Chip.powerOn with boot := { Boot.powerOn with held := false } }

/-- A running device with nothing configured. -/
def up : Chip := boots.put F.BOOT_STAT_STATE 1

/-- A state without commands. -/
def st (c : Chip) : State := ⟨[], c⟩

/-- The device after a command. -/
def aft (i : Instr) (c : Chip) : Chip :=
  match exec i (st c) with
  | .next t => t.chip
  | _ => c

/-- A state whose device is not held in reset meets the invariant when its memories and registers do. -/
theorem inv_of (c : Chip) (h : c.boot.held = false) (hr : smRising c.regs)
    (hm : (smOk [] c.mem.block && c.mem.block.all (fun e => Memory.wf e.2) && Memory.wf c.mem.shared && Memory.wf c.mem.ddr &&
      smOk false c.mem.poison && smOk [] c.mem.slotData && smOk false c.mem.slotFull) = true) : (st c).Inv := by
  simp only [Bool.and_eq_true] at hm
  obtain ⟨⟨⟨⟨⟨⟨h1, h2⟩, h3⟩, h4⟩, h5⟩, h6⟩, h7⟩ := hm
  exact ⟨hr, ⟨h1, h2, h3, h4, h5, h6, h7⟩, fun hh => absurd hh (by simp [st, h])⟩

/-! ## Ill-formed operands are refused -/

theorem test_wf_boot_ms : Instr.wf (.bootStageI (2 ^ 32)) = false := by decide
theorem test_wf_slot_unit : Instr.wf (.slotRelease ⟨.chip, 0⟩) = false := by decide
theorem test_wf_slot_fence : Instr.wf (.slotFenceDone ⟨⟨.chip, none⟩, ⟨.core 0, 0⟩⟩) = false := by decide
theorem test_wf_slot_wait : Instr.wf (.slotWaitFault ⟨.port 0, 0⟩ true (.lane 0)) = false := by decide
theorem test_wf_read_index : Instr.wf (.mortarRead ⟨⟨.chip, none⟩, .handle ⟨.block 0 0, 64, 0⟩, .clean, false, false⟩) = false := by decide
theorem test_wf_read_shared : Instr.wf (.mortarRead ⟨⟨.chip, none⟩, .handle ⟨.shared, 1024, 0⟩, .clean, false, false⟩) = false := by decide
theorem test_wf_read_ddr : Instr.wf (.mortarRead ⟨⟨.chip, none⟩, .handle ⟨.ddr, 256, 0⟩, .clean, false, false⟩) = false := by decide
theorem test_wf_move_empty : Instr.wf (.moveIssue ⟨⟨.chip, none⟩, .handle ⟨.ddr, 0, 0⟩, .handle ⟨.ddr, 1, 0⟩, 0, 1, 0, 0, .none, false, 0, 0, false⟩) = false := by decide
theorem test_wf_row : Instr.wf (.patrolScrubRead (.block 0 0 0 1032) .clean) = false := by decide
theorem test_wf_shared_row : Instr.wf (.patrolScrubRead (.shared 0 49280) .clean) = false := by decide
theorem test_wf_sample : Instr.wf (.readoutComplete 0 ⟨[(true, 256)], [], [], false⟩) = false := by decide
theorem test_wf_item : Instr.wf (.itemCutoff (2 ^ 32)) = false := by decide
theorem test_wf_correction : Instr.wf (.correction 0 ⟨2 ^ 32, true, 0, []⟩) = false := by decide
theorem test_wf_capture : Instr.wf (.captureReferences 0 ⟨[[1]], [[1, 2]]⟩) = false := by decide
theorem test_wf_addr : Instr.wf (.arpEntryExpire 0 ⟨false, 2 ^ 32⟩) = false := by decide
theorem test_wf_stamp : Instr.wf (.syncReceived ⟨0, ⟨0, 1000000000⟩, ⟨0, 0⟩, 0, 0⟩) = false := by decide
theorem test_wf_udp : Instr.wf (.hello ⟨0, ⟨false, 1⟩, 65536, []⟩) = false := by decide
theorem test_wf_seq : Instr.wf (.retransmitTimeout 0 false (2 ^ 32)) = false := by decide
theorem test_wf_wcet : Instr.wf (.stepStart ⟨.block 0 0, .lc, 0, 0, 0, 0, 0, false, [], [], none, none, [], false, [], [], []⟩) = false := by decide
theorem test_wf_i2c : Instr.wf (.i2cRead 65537) = false := by decide
theorem test_wf_frer : Instr.wf (.frerResetTimeout 64) = false := by decide

/-! ## Witnesses: the machine as a whole, resets and boot -/

/-- A command that is not a reset answers a next state (OnlyMissingAddressFaults, OnlyResetsChangePins, FusesOnlyGrow,
FewCommandsMoveClock, StepKeepsInvariant). -/
theorem wit_next : isReset (.i2cIndexWrite [1, 2]) = false ∧ (∃ t, exec (.i2cIndexWrite [1, 2]) (st up) = .next t) ∧
    Safe (.i2cIndexWrite [1, 2]) (st up) := ⟨rfl, ⟨_, rfl⟩, trivial⟩

theorem wit_step : (st up).Inv ∧ ∃ t, step (st up) = .next t :=
  ⟨inv_of _ rfl (by unfold smRising; decide +kernel) (by decide +kernel), _, rfl⟩

theorem wit_missing_address : (st up).chip.boot.held = false ∧ (st up).chip.readExists
    ⟨⟨.chip, none⟩, .phys .shared (2 ^ 40), .clean, false, false⟩ = false := by decide +kernel

theorem wit_held : State.reset.chip.boot.held = true ∧ isReset .slotTick = false := by decide +kernel

theorem wit_fuse : ({ up with fuses := { up.fuses with customer := some [1] } } : Chip).fuses.customer = some [1] := rfl

theorem wit_reset_ends : up.On ∧ up.opOfKind 3 = none := by decide +kernel

/-- A device held in reset because it is hot, with PORST_N at a level. -/
def hot (pin : Bool) : Chip := { Chip.powerOn with boot := { Boot.powerOn with hot := true, pin := pin } }

theorem wit_cold_reset (pin : Bool) : (st (hot pin)).Inv ∧ (hot pin).boot.held = true ∧ (hot pin).boot.hot = true ∧
    (hot pin).boot.pin = pin := by
  cases pin <;> exact ⟨⟨by unfold smRising; decide +kernel, ⟨rfl, rfl, rfl, rfl, rfl, rfl, rfl⟩, fun _ => rfl⟩, rfl, rfl, rfl⟩

theorem wit_cold_reset_cool : (st { Chip.powerOn with boot := { Boot.powerOn with straps := 3 } }).Inv ∧
    Boot.powerOn.hot = false := ⟨⟨by unfold smRising; decide +kernel, ⟨rfl, rfl, rfl, rfl, rfl, rfl, rfl⟩, fun _ => rfl⟩, rfl⟩

/-- A device that closes for a restart, with nothing left to do. -/
def closing : Chip := { up with boot := { up.boot with closing := some 0 } }

/-- The same with a record still to build. -/
def unsent : Chip := { closing with formed := [⟨0, 0, 0, 7, false, [], none⟩] }

theorem closing_inv : (st closing).Inv := inv_of _ rfl (by unfold smRising; decide +kernel) (by decide +kernel)

theorem wit_warm : closing.closed = true ∧ closing.recov.takeover = none ∧ closing.fabric.mapPend = [] :=
  ⟨by decide +kernel, rfl, rfl⟩
theorem wit_warm_early : unsent.closed = false := by decide +kernel

theorem wit_verify_blank : boots.Boots ∧ boots.boot.verified = false ∧ boots.fuses.customer = none := by decide +kernel

theorem wit_verify : ({ boots with fuses := { boots.fuses with customer := some [1] }, boot := { boots.boot with cands := [1, 0] } } : Chip).Boots := by
  decide +kernel

theorem wit_ddr : boots.Boots ∧ ({ boots.boot with verified := true }).trained = false ∧
    ({ boots.boot with trained := true }).inited = false := by decide +kernel

theorem wit_self_test : ({ boots with boot := { boots.boot with cold := true, firmware := true } } : Chip).Boots ∧
    boots.boot.tested = false ∧ boots.mem.rowMark = [] ∧ boots.recov.takeover = none ∧ boots.fabric.mapPend = [] := by
  decide +kernel

/-- A header of Table 16-7: SVN 3, a manifest of `man` bytes, one signature block. -/
def hdrBytes (man : Nat) : List Byte :=
  imgMagic ++ leBytes 2 1 ++ leBytes 2 3 ++ leBytes 4 1 ++ leBytes 4 man ++ leBytes 4 260 ++ leBytes 4 0x20000 ++ [0x42, 0x31] ++
    leBytes 2 0 ++ List.replicate 48 7 ++ List.replicate 4016 0

/-- A manifest with the firmware section and three empty ones. -/
def manBytes : List Byte :=
  let sec := fun (t o : Nat) (h : List Byte) => recordMap [(1, .uint t), (2, .uint o), (3, .uint 0), (4, .bytes h)]
  (recordMap [(1, .uint 1), (2, .text (txt "B1")), (3, .arr [sec 1 0x15000 (List.replicate 48 0), sec 2 0x16000 (sha384 []),
    sec 3 0x17000 (sha384 []), sec 7 0x18000 (sha384 [])]), (4, .text []), (5, .text [])]).enc

/-- A flash device with that image. -/
def imaged : Flash := (Flash.erased.write 0x1000 (hdrBytes manBytes.length)).write 0x2000 manBytes

theorem hdr_length : (hdrBytes manBytes.length).length = 4096 := by decide +kernel
theorem imaged_header : imaged.read 0x1000 4096 = hdrBytes manBytes.length := by
  have h : (0x1000 : Nat) + 4096 ≤ 0x2000 := by decide
  unfold imaged
  rw [Flash.read_write_out _ _ _ _ _ (.inl h)]
  have := Flash.read_write Flash.erased 0x1000 (hdrBytes manBytes.length)
  rwa [hdr_length] at this
theorem imaged_manifest : imaged.read 0x2000 manBytes.length = manBytes := Flash.read_write _ _ _

/-- What the header says. -/
def hdr : ImgHdr := ⟨3, true, manBytes.length, 260, 0x20000, List.replicate 48 7⟩
/-- What the manifest lists. -/
def secs : List Section :=
  [⟨1, 0x15000, 0, List.replicate 48 0⟩, ⟨2, 0x16000, 0, sha384 []⟩, ⟨3, 0x17000, 0, sha384 []⟩, ⟨7, 0x18000, 0, sha384 []⟩]

theorem hdr_parse : imgHdr (hdrBytes manBytes.length) = .inl hdr := by decide +kernel
theorem man_parse : manifestOf 0x20000 manBytes = .inl secs := by decide +kernel

/-- A booting device with that image as its candidate. -/
def withImage (b : Boot) : Chip := { boots with flash := [imaged, Flash.erased], boot := { b with held := false, cands := [0] } }

theorem candidate_of (c : Chip) (f : Flash) (h : ImgHdr) (l : List Section) (h1 : c.boot.cands = [0]) (h2 : c.flashDev 0 = f)
    (h3 : imgHdr (f.read 0x1000 4096) = .inl h) (h4 : manifestOf h.imgLen (f.read 0x2000 h.manLen) = .inl l) :
    c.candidate = some (0, f, h, l) := by
  simp only [Chip.candidate, h1, h2, h3, h4]

theorem imaged_hdr : imgHdr (imaged.read 0x1000 4096) = .inl hdr := by rw [imaged_header, hdr_parse]
theorem imaged_secs : manifestOf hdr.imgLen (imaged.read 0x2000 hdr.manLen) = .inl secs := by
  rw [show hdr.manLen = manBytes.length from rfl, imaged_manifest]
  exact man_parse

theorem flash_dev (c : Chip) (f g : Flash) (h : c.flash = [f, g]) : c.flashDev 0 = f := by simp [Chip.flashDev, h]

theorem image_candidate (b : Boot) : (withImage b).candidate = some (0, imaged, hdr, secs) :=
  candidate_of _ _ _ _ rfl (flash_dev _ _ Flash.erased rfl) imaged_hdr imaged_secs

theorem wit_sections (b : Boot) : (withImage b).Boots ∧ (withImage b).candidate = some (0, imaged, hdr, secs) ∧
    imaged.sectionCheck secs = 0 :=
  ⟨⟨rfl, by show boots.get F.BOOT_STAT_STATE = 0; decide +kernel⟩, image_candidate b, by decide +kernel⟩

theorem wit_rollback : imaged.fits = true ∧ imgHdr (imaged.read 0x1000 4096) = .inl hdr ∧
    hdr.svn < ({ boots with fuses := { boots.fuses with svn := 4 } } : Chip).fuses.svn :=
  ⟨by unfold imaged; simp [Flash.write_same, Flash.erased], imaged_hdr, by decide⟩

theorem wit_adapter_area : ({ boots with flash := [{ Flash.erased with area := some ⟨5, []⟩ }] } : Chip).bestArea = some ⟨5, []⟩ := by decide +kernel

theorem wit_boot_ends : ({ boots with boot := { boots.boot with
    cold := true, sections := true, inited := true, tested := true, adapters := true } } : Chip).Boots := by decide +kernel

theorem wit_svn : (((up.putB F.BOOT_IMG_ADVANCE true).put F.BOOT_IMG_SVN 64).flag F.BOOT_IMG_ADVANCE = true) ∧
    (up.putB F.BOOT_IMG_ADVANCE true).secure = true ∧ (up.putB F.BOOT_IMG_ADVANCE true).Up := by decide +kernel

/-! ## Witnesses: clock, governor, steps, slots, fences -/

theorem wit_boundaries : up.On ∧ up.clock.now.ns < 1000000000 ∧ up.clock.lastCourse ≠ some up.courseK ∧
    (let c := { up with clock := { up.clock with lastCourse := some 0, lastSlot := some 0 } }
     c.clock.lastCourse = some c.courseK ∧ c.clock.lastSlot = some c.slotNo) := by decide +kernel

/-- Nothing to report at a course boundary. -/
def quiet : CourseIn := ⟨none, [], [], 0, 0⟩

theorem wit_governor : (850 ≤ 850 ∧ 850 < 850 + Nat.max 0 26 ∧ 900 < 891 + 10) ∧ (govern 850 891 0 0 18 26 false).request.isSome = true ∧
    (govern 889 750 0 0 18 26 false).request.isSome = false ∧ (∃ t, exec (.courseBoundary quiet) (st up) = .next t) :=
  ⟨by decide, by decide +kernel, by decide +kernel, _, rfl⟩

/-- Region 3 late by a nanosecond more than LAG_MAX allows, its first schedule fault as given, in course 8. -/
def late (f : Option Nat) : Chip :=
  { up with sched := { up.sched with lagAt := [0, 0, 0, 2000001], faultAt := [none, none, none, f] }, clock := { up.clock with now := ⟨0, 16000000⟩ } }

theorem wit_schedule_fault : (∀ f, f = none ∨ f = some 0 → (late f).Up ∧
      (late f).sched.lagAt.getD 3 0 > Nat.max 1 ((late f).get F.SCHED_CFG_LAG_MAX) * 2000000 ∧ (late f).recov.takeover ≠ some 3 ∧
      (late f).recov.failedRegion.getD 3 true = false ∧ 3 < (late f).sched.faultAt.length ∧ (late f).sched.faultAt.getD 3 none = f) ∧
    0 + 8 ≤ (late (some 0)).courseK ∧ (late (some 1)).courseK < 1 + 8 ∧
    ¬ up.sched.lagAt.getD 3 0 > Nat.max 1 (up.get F.SCHED_CFG_LAG_MAX) * 2000000 := by
  refine ⟨?_, by decide +kernel, by decide +kernel, by decide +kernel⟩
  rintro f (rfl | rfl) <;> decide +kernel

theorem wit_schedule_fault_done : ({ up with recov := { up.recov with takeover := some 3 } } : Chip).recov.takeover = some 3 ∧
    ({ up with recov := { up.recov with failedRegion := [true, false, false, false] } } : Chip).recov.failedRegion.getD 0 true = true := by
  decide +kernel

theorem wit_block_silent : 7 ∈ up.scheduled 0 ∧ 8 ∉ up.scheduled 0 ∧ bitOf (up.get F.SPARE_HEALTH_BLK_FAILED 0) 8 = false := by
  decide +kernel

/-- A running device whose governor is at its largest request with a block below the floor. -/
def below (p : Nat) : Chip := { (up.put F.GOV_STATUS_PMIN p).put F.PACE_BLK_CUR 1000 0 0 with
  fabric := { up.fabric with belowAtMax := true } }

theorem wit_pace : (below 1000).fabric.belowAtMax = true ∧ up.fabric.belowAtMax = false ∧
    (let med := fun (c : Chip) => median2 (c.governed.map (fun e => c.get F.PACE_BLK_CUR e.1 e.2))
     19 * med (below 1000) ≤ 40 * (below 1000).get F.GOV_STATUS_PMIN ∧
     (let c := (List.range 4).foldl (fun c r => (List.range 8).foldl (fun c b => c.put F.PACE_BLK_CUR 1000 r b) c) (below 849)
      40 * c.get F.GOV_STATUS_PMIN < 19 * med c ∧ c.get F.GOV_STATUS_PMIN_BLK < 36 ∧ c.Up)) := by decide +kernel

/-- Variant 0, its tables as given. -/
def var0 (r : List (SMap (BitVec 64))) (u : SMap (BitVec 32)) : Variant := ⟨0, [], 1, r, u, [], [], [], [], [], [], []⟩

/-- A running device with partition 1 enabled; slot 0 of text unit 0 and of decode lane 0 is its LC work. -/
def parted : Chip :=
  { (up.putB F.PART_CFG_VALID true 1).put F.PART_CFG_STATE 3 1 with
    image := { ImageConfig.blank with variants := [var0 [] [(0, 0x14000000#32), (4, 0x14000000#32)]] } }

/-- A step of partition 1 on text unit 0. -/
def stp (hs : List HUse) : StepDesc := ⟨.text 0, .lc, 1, 0, 100, 0, 0, false, [], [], none, none, [], false, hs, [], []⟩

/-- A read of a byte of shared memory handle 0. -/
def use0 : HUse := ⟨⟨.shared, 0, 0⟩, false, 1⟩

theorem wit_step_start : parted.Up ∧ parted.canStart (stp []) = true ∧ parted.canStart (stp [use0]) = true ∧ (stp []).item = none ∧
    parted.checkHandle ⟨parted.physUnit (.text 0), some 1⟩ use0.ref use0.write use0.len ≠ none ∧ up.canStart (stp []) = false := by
  decide +kernel

/-- A device whose table gives slot 0 of block 0 of region 0 to program 1 of partition 1, 100 units, over slots 0 and 1. -/
def tabled : Chip :=
  { (parted.put F.PART_BLK_BLOCKS 1 1) with
    image := { ImageConfig.blank with variants := [var0 [[(0, BitVec.ofNat 64 (1 * 2 ^ 60 + 1 * 2 ^ 58 + 1 * 2 ^ 40 + 100 * 2 ^ 24 + 1 * 2 ^ 21))]] []] } }

/-- Its step, which engages M0 to M3 as two bonded pairs. -/
def blk : StepDesc := ⟨.block 0 0, .lc, 1, 1, 100, 0, 1, false, [0, 1, 2, 3], [0, 1], none, none, [], false, [], [], []⟩

theorem wit_step_block : tabled.Up ∧ tabled.canStart blk = true ∧ unitRegion blk.unit = some 0 ∧ 0 < tabled.sched.lag.length := by decide +kernel

/-- The run of a step from slot 0 on. -/
def run0 (d : StepDesc) : StepRun := ⟨d, 0, 0, 0, 0, [], false, 0⟩

/-- A device that runs a step on text unit 0, and one whose step runs on block 0 of region 0. -/
def stepping : Chip := parted.setRun 32 (some (run0 (stp [])))
def blocking : Chip := tabled.setRun 0 (some (run0 blk))

/-- Work through a table. -/
def looked : StepWork := .table256 (List.replicate 256 3) ⟨.int8, 0, [1], [200]⟩
/-- A step that ended. -/
def fin (d : StepDesc) (o : StepOutcome) (w : StepWork) (x : Dest) : StepEndIn := ⟨d.unit, o, w, [], .control, x, [], false, false⟩

theorem wit_step_end : stepping.Up ∧ parted.runOf (unitNo (.text 0)) = none ∧
    stepping.runOf (unitNo (stp []).unit) = some (run0 (stp [])) ∧ (stp []).item = none ∧ stepping.kv.waiting = [] ∧
    (let w := fin (stp []) .done looked .nowhere
     stepping.destOk (stp []) w.dst = true ∧ stepping.destWaits (run0 (stp [])) w.dst = false ∧
     stepping.chosenWork (run0 (stp [])) w = looked ∧ workScales looked = none ∧ unitCan (stp []) looked = true ∧
     (∃ o sc, workOut looked = .out o sc) ∧ wideTileOf looked = none ∧
     (stepping.writeOut ⟨stepping.physUnit (.text 0), some 1⟩ (run0 (stp [])) .nowhere [3]).2 = true) ∧
    stepping.destOk (stp []) (.handle ⟨.ddr, 0, 0⟩) = false := by
  refine ⟨by decide +kernel, by decide +kernel, by decide +kernel, rfl, rfl,
    ⟨rfl, rfl, by decide +kernel, rfl, rfl, ⟨_, _, rfl⟩, rfl, rfl⟩, by decide +kernel⟩

/-- A one-lane matrix tile of codes 1, whose entry passes its product through. -/
def mat : MatWork := ⟨.int8, .int8, 0, [⟨[1], [1], 0, 0, 0, [], 0, 0⟩], ⟨5, 0, 1, 0⟩, 0, 0⟩

/-- A slot of the even cell of the block's first pair. -/
def evenSlot : SlotId := ⟨.cell 0 0 0, 31⟩
/-- The block's step with that slot FULL. -/
def slotBusy : Chip := blocking.updMem (fun m => { m with slotFull := smSet false m.slotFull 31 true })

theorem wit_step_block_end : blocking.Up ∧ blocking.runOf (unitNo blk.unit) = some (run0 blk) ∧ blocking.Quiet ∧
    unitCan blk (.matrix mat) = true ∧ (wideTileOf (.matrix mat)).isSome = true ∧ blocking.destOk blk (.slot ⟨.cell 0 0 1, 31⟩) = true ∧
    blocking.destWaits (run0 blk) (.slot ⟨.cell 0 0 1, 31⟩) = false ∧ slotBusy.destWaits (run0 blk) (.slot ⟨.cell 0 0 1, 31⟩) = true := by
  refine ⟨by decide +kernel, by decide +kernel, ⟨rfl, ?_⟩, by decide +kernel, by decide +kernel, by decide +kernel, by decide +kernel,
    by decide +kernel⟩
  decide +kernel

/-- A soak step of that block, which runs from slot 0 on; the block's next LC slot is slot 16. -/
def soak0 : StepDesc := { blk with kind := .soak, span := 0 }
/-- The device that runs it at a time of the local clock. -/
def soaking (ns : Nat) : Chip :=
  let c := tabled.setRun 0 (some (run0 soak0))
  { c with clock := { c.clock with now := ⟨0, ns⟩ } }

theorem wit_soak_late : (soaking 2000008).Up ∧ (soaking 2000008).runOf 0 = some (run0 soak0) ∧
    (soaking 2000008).overruns (run0 soak0) = true ∧ (soaking 2000000).overruns (run0 soak0) = false ∧
    (soaking 1999992).overruns (run0 soak0) = false := by decide +kernel

theorem wit_reexecuted : blocking.errorSite blk (.cell 0 0 3) = true ∧ cellNo (.cell 0 0 3) = some 3 ∧ (run0 blk).tries = 0 ∧
    smGet 0 blocking.recov.reexec 3 + 1 ≤ actsAs (blocking.get F.FAULT_CFG_CELL_THR) 1 := by decide +kernel

/-- Slot 31 of site 7 of the last cell, FULL. -/
def fullSlot : SlotId := ⟨.cell 3 8 7, 31⟩
/-- A device with that slot FULL. -/
def slotted : Chip := stepping.updMem (fun m => { m with slotFull := smSet false m.slotFull (287 * 32 + 31) true })

theorem wit_slots : slotted.On ∧ cellNo fullSlot.u = some 287 ∧ slotted.slotFull fullSlot = true ∧ stepping.slotFull fullSlot = false ∧
    slotted.running = true ∧ (slotted.runOf (unitNo (.text 0))).isSome = true ∧ stepping.unitDead fullSlot.u = false ∧
    ({ up with recov := { up.recov with failedCell := [(287, true)] } } : Chip).unitDead fullSlot.u = true ∧
    slotBusy.slotFull evenSlot = true ∧ (slotBusy.unitOf evenSlot.u).bind slotBusy.runOf = some (run0 blk) := by decide +kernel

theorem wit_slot_moves : ∀ m, m ∈ stepping.mem.moves → m.issuer ≠ ⟨.chip, none⟩ := by
  intro m h; have e : stepping.mem.moves = [] := by decide +kernel
  rw [e] at h; cases h

/-- A move between shared memory and DDR4. -/
def mvd (u : Issuer) : MoveDesc := ⟨u, .handle ⟨.shared, 0, 0⟩, .handle ⟨.ddr, 0, 0⟩, 1, 1, 0, 0, .none, false, 0, 0, false⟩

/-- A control core, which no handle check refuses (R72). -/
def cc : Issuer := ⟨.core 3, none⟩

/-- Such a move in flight, of a number and an issuer: a granule from place 0 of shared memory to place 0 of DDR4. -/
def flying (id : Nat) (u : Issuer) : Move := ⟨id, u, .mem [[⟨36, 0⟩]], .mem [[⟨37, 0⟩]], 64, .none, false, 0, 0, false⟩

theorem wit_fences : (let c := up.updMem (fun m => { m with moves := [flying 0 cc, flying 1 ⟨.block 3 8, some 1⟩] })
    c.On ∧ (c.mem.moves.map (·.id)).Nodup ∧ c.kv.waiting = [] ∧ c.mem.hedges = [] ∧ Chip.regionMoves 3 (flying 1 ⟨.block 3 8, some 1⟩) = true ∧
      Chip.regionMoves 3 (flying 0 cc) = false) ∧ up.fabric.late.getD 3 false = false ∧
    ({ up with fabric := { up.fabric with late := [true, false, false, false] } } : Chip).fabric.late.getD 0 false = true ∧
    up.running = true := by decide +kernel

/-! ## Witnesses: memories -/

/-- Shared handle 0: 4 granules from 0, readable and writable by partition 1; DDR4 handle 0: one page. -/
def handled : Chip := parted.updMem (fun m => { m with
  sharedHnd := smSet 0 m.sharedHnd 0 0xC100000000000004
  ddrHnd := smSet 0 m.ddrHnd 0 0xC100000000000001 })

theorem wit_read : ({ up with mem := slotted.mem } : Chip).slotFull fullSlot = true ∧ up.slotFull ⟨.cell 0 0 0, 0⟩ = false ∧
    up.unitDead fullSlot.u = false ∧ up.readSlotOf cc fullSlot = fullSlot ∧
    blocking.readSlotOf ⟨.block 0 0, some 1⟩ ⟨.cell 0 0 1, 31⟩ = evenSlot ∧
    up.checkHandle cc ⟨.shared, 1023, 0⟩ false 64 ≠ none ∧ handled.checkHandle cc ⟨.shared, 0, 0⟩ false 64 = none ∧
    readReaches cc.u .shared = true ∧ readReaches cc.u .ddr = false ∧ (up.physPlace .shared 0).ok = true ∧
    up.memDead 36 = false ∧ up.mem.poisoned ⟨36, 0⟩ = false ∧ up.mem.hedges = [] ∧ hedgeWho cc = none ∧
    (let who : Issuer := ⟨.block 3 8, some 1⟩
     hedgeWho who = some 1 ∧ hedgeUse who.u [36] 1 = [(3, 1)] ∧ 0 < (up.put F.HEDGE_MAX 4096 1 3).hedgeHi 3 1) ∧
    (⟨35, 5⟩ : Gran).rowWords[15]? = some (35 * 2 ^ 40 + 47) := by decide +kernel

theorem wit_moves : up.On ∧ up.moveKind (mvd cc) = true ∧ up.moveKind { mvd cc with dst := .handle ⟨.shared, 1, 0⟩ } = false ∧
    (let bad := fun (c : Chip) => c.checkRanges cc (mvd cc).src false (mvSrcRanges (mvd cc))
     let badD := fun (c : Chip) => c.checkRanges cc (mvd cc).dst true (mvDstRanges (mvd cc))
     bad up = some 32 ∧ bad handled = none ∧ badD handled = none ∧
     (let c := handled.updMem (fun m => { m with ddrHnd := [] })
      bad c = none ∧ badD c = some 33)) ∧
    handled.endOf (mvd cc).src (mvSrcRanges (mvd cc)) = .mem [[⟨36, 0⟩]] ∧
    handled.endOf (mvd cc).dst (mvDstRanges (mvd cc)) = .mem [[⟨37, 0⟩]] ∧ (flying 0 ⟨.text 0, some 1⟩).uses = [(4, 1), (5, 1)] := by
  decide +kernel

/-- A move from granules 0 and 1 of DDR4 handle 0 of a block to its granules 1 and 2. -/
def lapping : MoveDesc := ⟨cc, .handle ⟨.block 0 0, 0, 0⟩, .handle ⟨.block 0 0, 0, 64⟩, 2, 1, 0, 0, .none, false, 0, 0, false⟩

theorem wit_move_overlap : (let c := up.updMem (fun m => { m with blockHnd := smSet 0 m.blockHnd 0 0xC000000000000002 })
    c.moveKind lapping = true ∧ c.checkRanges cc lapping.src false (mvSrcRanges lapping) = none ∧
    c.checkRanges cc lapping.dst true (mvDstRanges lapping) = none ∧
    (⟨0, 1⟩ : Gran) ∈ (c.endOf lapping.src (mvSrcRanges lapping)).grans 128 ∧
    (⟨0, 1⟩ : Gran) ∈ (c.endOf lapping.dst (mvDstRanges lapping)).grans 128) := by decide +kernel

/-- One move in flight, of an issuer. -/
def moving (u : Issuer) : Chip := handled.updMem (fun m => { m with moves := [flying 0 u] })

theorem wit_move : (moving cc).On ∧ (moving cc).mem.moves = [flying 0 cc] ∧ (moving cc).moveDead (flying 0 cc) = false ∧
    (moving cc).occupied (flying 0 cc) [⟨36, 0⟩] = [0] ∧
    ((moving cc).hedgeServeAll 1 ((flying 0 cc).uses.map (·.1))).2 = true ∧
    (let c := (moving ⟨.text 0, some 1⟩).hedgeMove (flying 0 ⟨.text 0, some 1⟩)
     (c.hedgeServeAll 1 [4, 5]).2 = false) := by decide +kernel

theorem wit_move_clean : ∀ g, (moving cc).mem.poisoned g = false := by
  intro g; simp [Mem.poisoned, moving, handled, parted, up, boots, Chip.updMem, Chip.put, Chip.putB, Chip.setWord, Chip.powerOn, Mem.cold, smGet]

theorem wit_scrub : up.On ∧ up.rowIn (.block 3 8 15 1023) = some ((35 * 16 + 15) * 2 ^ 20 + 1023) ∧
    (rowGran ((35 * 16 + 15) * 2 ^ 20 + 1023)).sel = 35 ∧ (rowGran ((35 * 16 + 15) * 2 ^ 20 + 1023)).rowWords[15]? = some (35 * 2 ^ 40 + 262143) ∧
    up.mem.poisoned (rowGran ((35 * 16 + 15) * 2 ^ 20 + 1023)) = false ∧ up.rowIn (.block 3 8 15 1031) = none ∧
    (let c := up.updMem (fun m => { m with corrAt := smSet [] m.corrAt (35 * 2 ^ 40 + 262143) [71] })
     71 ∈ smGet [] c.mem.corrAt (35 * 2 ^ 40 + 262143)) := by decide +kernel

theorem wit_bank : (let c := (up.putB F.SM_SPARE_COPYING true 3).put F.SM_SPARE_BANK 127 3
    c.flag F.SM_SPARE_COPYING 3 = true ∧ c.get F.SM_SPARE_BANK 3 = 127 ∧ 3 < c.mem.bankCopied.length ∧
    (∀ y, y < 3 → ¬ (c.flag F.SM_SPARE_COPYING y = true ∧ c.get F.SM_SPARE_BANK y = 127))) ∧
    (∀ y, y < 4 → ¬ (up.flag F.SM_SPARE_COPYING y = true ∧ up.get F.SM_SPARE_BANK y = 0)) := by decide +kernel

/-! ## Witnesses: intake -/

/-- Transport 0 changed, ENC_DIV_0 three counts, MIN_PERIOD in use by stream 0. -/
def enc (f : Transport → Transport) : Chip :=
  ((up.put F.ENC_DIV_DIV (3 * 65536) 0).put F.SNS_CFG_GEN 1 0).put F.SNS_STATE_STATE 3 0 |>.modTransport 0 f

theorem wit_encoder : up.Up ∧ quadPos true false = 1 ∧ quadPos true true = 2 ∧ quadPos false true = 3 ∧ quadPos false false = 0 ∧
    (enc id).flag F.ENC_CFG_SRC 0 = false ∧ (enc id).flag F.ENC_CFG_INVERT 0 = false ∧
    (wrap34 (((enc id).transport 0).acc + 65536) : Int) < (enc id).get F.ENC_DIV_DIV 0 ∧
    (let c := enc (fun x => { x with acc := 2 * 65536 })
     ((c.get F.ENC_DIV_DIV 0 : Int) ≤ wrap34 ((c.transport 0).acc + 65536)) ∧ (c.transport 0).deferred = false ∧
       (c.transport 0).lastTrig = none) ∧
    (let c := enc (fun x => { x with lastTrig := some ⟨0, 0⟩ }) |>.put F.SNS_TIME_MIN_PERIOD 100 0
     c.nowNs < Stamp.toNs ⟨0, 0⟩ + c.minPeriodNs 0) ∧
    ((enc (fun x => { x with deferred := true, lastTrig := some ⟨0, 0⟩ })).transport 0).deferred = true ∧
    ((enc id).putB F.ENC_CFG_SRC true 0).flag F.ENC_CFG_SRC 0 = true ∧ (enc id).trigStreams 0 = [0] ∧
    ¬ ((enc id).put F.ENC_CFG_FILT 3 0).get F.ENC_CFG_FILT 0 ≤ (⟨true, 2⟩ : EncLevel).stable := by decide +kernel

/-- Stream 0 in a state, Gen `g`. -/
def strm (g state : Nat) : Chip := (up.put F.SNS_CFG_GEN g 0).put F.SNS_STATE_STATE state 0

theorem wit_drive : (strm 1 3).takesTriggers 0 = true ∧ (strm 1 0).takesTriggers 0 = false ∧
    ((strm 1 3).put F.SNS_EXP_ON 5 0 2).lights 0 2 = true ∧ (strm 1 3).lights 0 2 = false ∧
    (let x : Stream := { Stream.cold with exposing := true, ledOn := some ⟨0, 1⟩, ledOff := some ⟨0, 4⟩ }
     x.midpoint = some ⟨0, 2⟩) ∧
    (let c := (strm 1 3).modStream 0 (fun x => { x with capturing := true, capTrig := 33 })
     (c.stream 0).capturing = true ∧ c.takesTriggers 0 = false ∧ (c.put F.SNS_EXP_ON 5 0 2).get F.SNS_EXP_ON 0 2 = 5 ∧
     16 + 16 * 2 ^ c.get F.SHD_CFG_REF_LINES 0 < 33 + 16 ∧ (c.put F.SHD_CFG_REF_LINES 0 0).get F.SHD_CFG_REF_LINES 0 = 0 ∧ c.seqMode 0 = false) := by decide +kernel

/-- Stream 0 waits for its lock with a midpoint ready, a line of one sample after one word that is passed over. -/
def lining : Chip :=
  (((strm 1 2).put F.SNS_IF_SAMPLES 1 0).put F.SNS_RX_FIRST_WORD 1 0).modStream 0
    (fun x => { x with mids := [⟨2, some ⟨0, 5⟩, false, true⟩], counting := true })

/-- Two words, the first passed over; and one. -/
def twoWords : Readout := ⟨[(true, 9), (false, 9), (true, 1), (false, 2)], [], [], false⟩
def oneWord : Readout := ⟨[(true, 9), (false, 9)], [], [], false⟩

theorem wit_readout : lining.boot.closing = none ∧ lining.takesTriggers 0 = true ∧ lining.get F.SNS_STATE_STATE 0 = 2 ∧
    lining.get F.SNS_CFG_GEN 0 = 1 ∧ lining.seqMode 0 = false ∧ (lining.stream 0).page = none ∧
    (lining.stream 0).mids = [⟨2, some ⟨0, 5⟩, false, true⟩] ∧ (lining.stream 0).counting = true ∧
    (let words := fun (w : Readout) => (halfWords w.halves).drop (lining.get F.SNS_RX_FIRST_WORD 0)
     words twoWords = [258] ∧ lining.get F.SNS_IF_SAMPLES 0 = 1 ∧ words oneWord = []) ∧
    (strm 1 0).takesTriggers 0 = false ∧ closing.boot.closing.isSome = true := by decide +kernel

/-- A Gen 2 readout in form: one word per lane, FCLK high for its first 8 bits. -/
def framed : Readout :=
  let w := List.replicate 8 true ++ List.replicate 8 false
  ⟨[], [false :: w], false :: w, false⟩

theorem wit_readout_sync : (let c := ((strm 2 1).put F.SNS_IF_SAMPLES 1 0).modStream 0 (fun x => { x with good := 3, afeDone := true, counting := true })
    c.boot.closing = none ∧ c.takesTriggers 0 = true ∧ c.get F.SNS_STATE_STATE 0 = 1 ∧ c.get F.SNS_CFG_GEN 0 = 2 ∧
      (c.received 0 framed).framing = false ∧ framed.crossingFull = false ∧ (c.stream 0).good = 3 ∧ (c.stream 0).afeDone = true) := by
  decide +kernel

/-- A page past its end with one line. -/
def ended : Capture := { Capture.fresh (some 0) with lines := [[[0]]], past := true, skew := some none }
/-- Its item. -/
def page (live : Bool) : Item := Item.blank 0 0 1 live ⟨0, 0⟩
/-- A running device with that page, ring and retention area writable. -/
def paged (live : Bool) (used : List (Nat × Nat)) : Chip :=
  ((strm 1 3).modStream 0 (fun x => { x with tail := [ended], ringUsed := used })).updItems (fun I => { I with list := [page live] })
    |>.updMem (fun m => { m with sharedHnd := smSet 0 m.sharedHnd 0 0xC000000000000400, ddrHnd := smSet 0 m.ddrHnd 0 0xC000000000000100 })
    |>.put F.BAND_CFG_PITCH 1 0 |>.put F.SNS_PAGE_MAX_LINES 1 0

theorem wit_band : (let c := (paged false []).put F.HEDGE_SYS_INTAKE 4096
    (c.hedgeOnce 16 [(4, ceilDiv (c.bandSize 0) 64)]).2 = true ∧ ((paged false []).hedgeOnce 16 [(4, ceilDiv ((paged false []).bandSize 0) 64)]).2 = false ∧
    (c.stream 0).page = none ∧ (c.stream 0).tail = [ended] ∧ ended.item = some 0 ∧ (page false).num = 0 ∧
    c.items.list = [page false] ∧ (page false).ended = none ∧ ended.past = true ∧ ended.skew.isSome = true ∧
    128 * ended.banded < ended.lines.length ∧
    (List.range (c.ringCount 0)).find? (fun k => !((c.stream 0).ringUsed.any (fun e => e.2 = k))) = some 0 ∧
    c.checkHandle ⟨.chip, none⟩ (c.ringRef 0 0) true (c.bandOf 0 ended (page false) 0).length = none) ∧
    (∀ l, (let c := paged l [(7, 0), (7, 1)]
      (List.range (c.ringCount 0)).find? (fun k => !((c.stream 0).ringUsed.any (fun e => e.2 = k))) = none ∧
      (page l).live = l)) := by decide +kernel

/-- A page whose one band waits for its retention copy. -/
def kept : Chip := (paged false [(0, 1)]).updItems (fun I => { I with list := [{ page false with bands := [Band.fresh 0 1 ⟨0, 0⟩ (some 1)] }] })
  |>.modStream 0 (fun x => { x with retained := [(0, 0)] })

theorem wit_retention : (kept.stream 0).retained = [(0, 0)] ∧ (Band.fresh 0 1 ⟨0, 0⟩ (some 1)).released = false ∧
    (Band.fresh 0 1 ⟨0, 0⟩ (some 1)).dropped = false ∧
    (Band.fresh 0 1 ⟨0, 0⟩ (some 1)).retained = false ∧ (page false).origin = 0 ∧
    kept.checkHandle ⟨.chip, none⟩ (kept.ringRef 0 1) false (kept.bandSize 0) = none ∧
    kept.checkHandle ⟨.chip, none⟩ (kept.retRef 0 0 0) true (kept.bandSize 0) = none := by
  decide +kernel

/-- A capturing page. -/
def capturing : Chip := ((strm 1 3).modStream 0 (fun x => { x with page := some (Capture.fresh (some 0)) })).updItems
  (fun I => { I with list := [page false] })

theorem wit_stop : ((capturing.stream 0).page = some (Capture.fresh (some 0)) ∧ (capturing.stream 1).page = none ∧
    capturing.items.list = [page false]) ∧ (strm 1 3).On ∧ ((strm 1 3).stream 14).page = none ∧ ((strm 1 3).stream 15).page = none := by
  decide +kernel

theorem wit_states : (({ up with image := { ImageConfig.blank with afe := [(0, [(5, true), (6, false)])] } } : Chip).image.afe.find? (fun e => e.1 = 0) =
      some (0, [(5, true), (6, false)])) ∧ (strm 1 1).get F.SNS_STATE_STATE 0 = 1 ∧ (strm 2 1).flag F.SNS_STATE_SYNC 0 = false ∧
    ((strm 2 1).putB F.SNS_STATE_SYNC true 0).flag F.SNS_STATE_SYNC 0 = true ∧ (strm 1 3).get F.SNS_STATE_STATE 0 ≠ 1 ∧
    (up.putB F.HOLD_STAT_HOLD true 7).flag F.HOLD_STAT_HOLD 7 = true := by decide +kernel

theorem wit_capture : (((strm 1 3).modStream 0 (fun x => { x with capturing := true })).stream 0).capturing = true ∧
    (List.replicate 32 [0]).length = 16 + 16 * 2 ^ ((strm 1 3).put F.SHD_CFG_REF_LINES 0 0).get F.SHD_CFG_REF_LINES 0 ∧
    ((strm 1 3).stream 0).capturing = false := by decide +kernel

/-! ## Witnesses: records, key-value edits, adaptation -/

/-- Submitting session 31 open, its stream as given, with items. -/
def subs (y : Subm) (l : List Item) (skip : Bool := false) : Chip :=
  ((up.put F.SUB_CFG_STATE 3 31).modSess 95 (fun x => { x with open_ := true })).updItems (fun I => { I with list := l })
    |>.modSubm 31 (fun _ => { y with skipAll := skip })

/-- A record item of session 31, two bytes of which are to come. -/
def rec0 : Item := { Item.blank 9 47 1 true ⟨0, 0⟩ with recCodec := 1, recWidth := 8, recHeight := 1 }

theorem wit_records : up.Up ∧ (up.sess 95).open_ = false ∧
    (let c := subs { Subm.cold with item := some 9, need := 2, version := 3 } [rec0]
     (c.sess 95).open_ = true ∧ (c.sess 95).inbox = [] ∧ (c.subm 31).skipAll = false ∧ (c.subm 31).skip = 0 ∧
     (c.subm 31).item = some rec0.num ∧ c.items.list = [rec0] ∧ (c.subm 31).buf = [] ∧
     [(0x55 : Byte)].length < (c.subm 31).need ∧ [(0x55 : Byte), 0xAA].length = (c.subm 31).need ∧ (c.subm 31).version = 3) ∧
    (∃ e, containerVersion [0x00] = .bad e) ∧
    (let c := subs Subm.cold []
     (c.subm 31).skipAll = false ∧ (c.subm 31).need = 0 ∧ (c.subm 31).item = none ∧ (c.subm 31).buf = [] ∧ c.subOff 31 = false) ∧
    rec0.ended = none ∧ rec0.complete = false ∧ ({ rec0 with complete := true }).decoding = false ∧
    (let c := { parted with clock := { parted.clock with now := ⟨0, 16 * 125000⟩ } }
     c.decodeDue { rec0 with arrived := 15 } = true ∧ c.decodeDue { rec0 with arrived := 16 } = false) :=
  ⟨by decide +kernel, by decide +kernel, by decide +kernel, ⟨_, rfl⟩, by decide +kernel, rfl, rfl, rfl, by decide +kernel⟩

/-- An item whose sequence is in table slot 3, of one layer. -/
def seqItem : Item := { Item.blank 9 0 0 true ⟨0, 0⟩ with kvSlot := some 3 }
/-- A device with that item, `pages` pages in its pool. -/
def cached (pages : Nat) : Chip :=
  (((up.put F.KV_POOL_CFG_PAGES pages).put F.KV_POOL_STAT_FREE pages).updItems (fun I => { I with list := [seqItem] })).modKvSlot 3
    (fun _ => { KvSlot.cold with used := true, layers := 1 })

/-- The item manager's core has a write in flight. -/
def publishing : Chip := (cached 1).updMem (fun m => { m with moves := [flying 0 ⟨.core 7, none⟩] })

/-- A table slot without an owner; an anchor in slot 4; set 0 trains on slot 3. -/
def anchored : Chip :=
  (((cached 1).modKvSlot 4 (fun _ => { KvSlot.cold with used := true, anchor := true, layers := 1, copy0 := [kvEntry false 7] })).updItems
    (fun I => { I with list := [seqItem] })).modSet 0 (fun a => { a with kvSlot := some 3 })

theorem wit_kv : (cached 1).Up ∧ (cached 1).item seqItem.num = some seqItem ∧ seqItem.kvSlot = some 3 ∧ (cached 1).kv.waiting = [] ∧
    (cached 1).itemMoves = false ∧ publishing.itemMoves = true ∧ (cached 1).kvMustWait 3 = false ∧
    (cached 1).kvEditSlot (.append 9 false) = some 3 ∧ ((cached 1).kvSlot 3).entries = [] ∧
    (let c0 := fun n => (cached n).updKv (fun k => { k with waiting := [], counted := false })
     (c0 0).kvAlloc ((c0 0).lcWork 0 false) 1 = none ∧ ((c0 1).kvAlloc ((c0 1).lcWork 0 false) 1).isSome = true ∧
     (c0 0).kvAlloc false 1 = none ∧ ((c0 1).kvAlloc false 1).isSome = true) ∧
    (let c := ((cached 1).modKvSlot 3 (fun s => { s with retire1 := 5 })).setRun 0
       (some { run0 { stp [] with kv := true } with epoch := 4 })
     c.kvMustWait 3 = true ∧ c.kv.counted = false) := by decide +kernel

theorem wit_kv_more : (anchored.kvSlot 4).anchor = true ∧ (anchored.kvSlot 3).entries = [] ∧ 16 % 16 = 0 ∧
    (anchored.kvSlot 4).entries.take (16 / 16) = [kvEntry false 7] ∧ (anchored.adSet 0).kvSlot = some 3 ∧ anchored.itemMoves = false ∧
    anchored.kvMustWait 3 = false ∧ anchored.kvMustWait 4 = false ∧ (anchored.kvSlot 4).used = true ∧
    (∀ j, j ∈ anchored.items.list → j.kvSlot ≠ some 4) ∧ (∀ e, e ∈ anchored.adapt.sets → e.2.kvSlot ≠ some 4) ∧
    256 ≤ (((cached 1).modKvSlot 3 (fun s => { s with copy0 := List.replicate 256 (kvEntry false 7) })).kvSlot 3).entries.length := by
  decide +kernel

/-- Adaptation ENABLED with set 0, a recognition set, serving stream 0, and a sample of item 9. -/
def learning : Chip :=
  { (((up.put F.ADAPT_CTRL_STATE 3).putB F.ADAPT_SET_VALID true 0).putB F.ADAPT_SET_MODEL false 0).modSess 5
      (fun x => { x with open_ := true, roles := 2 }) with
    image := { ImageConfig.blank with symbols := [[0x41]], adapt := [⟨[0], [], 0, 0, 0, 0, 0, 0x3F800000, []⟩] } }
    |>.updAdapt (fun a => { a with samples := [⟨9, 0, none, [0], 0, [], [], 0, 0, [[1]], []⟩] })

/-- A correction of its first line. -/
def fix : CorrIn := ⟨9, true, 0, [0x41]⟩
/-- An example. -/
def ex0 (tries : Nat) : Example := ⟨9, true, 0, [], [0, 1], [1], 0, tries⟩

theorem wit_correction : learning.Up ∧ (learning.sess 5).open_ = true ∧ bitOf (learning.sess 5).roles 1 = true ∧
    (up.sess 5).open_ = false := by decide +kernel

theorem wit_accept : learning.corrCheck fix = (0, some (0, ex0 0)) := by decide +kernel

theorem wit_update : (let c := ((learning.put F.PART_CFG_STATE 3 (learning.get F.ADAPT_CTRL_PART)).put F.ADAPT_CTRL_BATCH 0).modSet 0 (fun a => { a with queue := [ex0 0] })
      c.get F.ADAPT_CTRL_STATE = 3 ∧ c.get F.PART_CFG_STATE (c.get F.ADAPT_CTRL_PART) = 3 ∧ (c.adSet 0).running = none ∧
      c.get F.ADAPT_CTRL_BATCH + 1 ≤ (c.adSet 0).queue.length ∧
      (let d := { c.put F.ADAPT_CTRL_BATCH 7 with clock := { c.clock with up := 1000000000 * 3600 } }
       ¬ d.get F.ADAPT_CTRL_BATCH + 1 ≤ (d.adSet 0).queue.length ∧
       (ex0 0).at_ + actsAs (d.get F.ADAPT_CTRL_FLUSH_S) 1 * 1000000000 ≤ d.upNs)) ∧
    (let c := learning.modSet 0 (fun a => { a with running := some [ex0 0, ex0 1], train := ⟨[0x3F80], ⟨0, [], []⟩, ⟨0, [], []⟩⟩ })
     (c.adSet 0).running = some [ex0 0, ex0 1] ∧ (c.adSet 0).cancel = false ∧ (c.image.adapt[0]?).isSome = true) ∧
    ((learning.modSet 0 (fun a => { a with running := some [ex0 0], cancel := true })).adSet 0).cancel = true ∧
    (learning.adSet 0).queue = [] := by decide +kernel

theorem wit_applied : (applyUpdate ⟨[0], [], 0, 0, 0, 0, 0, 0x3F800000, []⟩ ⟨[0x3F80], ⟨0, [], []⟩, ⟨0, [], []⟩⟩ 1 [[0x3F800000]]).isSome = true := by
  decide +kernel

theorem wit_publish : (let c := learning.modSet 0 (fun a => { a with cand := some [1] })
      (c.adSet 0).cand = some [1] ∧ (c.adSet 0).flip = false ∧ c.copyFree 0 (1 - c.get F.ADAPT_SET_CUR 0) = true) ∧
    (let c := ((learning.put F.ADAPT_SET_CUR 1 0).modSet 0 (fun a => { a with cand := some [1] }))
       |>.updItems (fun I => { I with list := [{ seqItem with copies := [(0, 0)] }] })
     c.copyFree 0 (1 - c.get F.ADAPT_SET_CUR 0) = false ∧ (c.adSet 0).waited = false) := by decide +kernel

/-! ## Witnesses: partitions and failures -/

/-- Partition 1, live critical, lent to partition 15. -/
def lentTo : Chip := (((parted.putB F.PART_CFG_KIND false 1).putB F.PART_CFG_LENT true 1).put F.PART_CFG_BORROWER 15 1)

theorem wit_preempt : lentTo.Up ∧ lentTo.flag F.PART_CFG_LENT 1 = true ∧ lentTo.flag F.PART_CFG_KIND 1 = false ∧
    smGet none lentTo.sched.preempt 1 = none ∧ smGet 0 lentTo.sched.lendAt 1 = 0 ∧ lentTo.get F.PART_CFG_BORROWER 1 = 15 ∧
    (let c := lentTo.updSched (fun s => { s with lendAt := smSet 0 s.lendAt 1 1 })
     smGet 0 c.sched.lendAt 1 = c.courseK + 1) ∧
    up.flag F.PART_CFG_LENT 15 = false ∧ up.switchTakes 15 = false ∧ (page true).part = 1 ∧ (page true).origin < 16 ∧
    ((lentTo.updItems (fun I => { I with list := [page true] })).inFlight.any (fun i => decide (i.part = 1))) = true := by
  decide +kernel

/-- A switch takes the blocks of BE partition 2. -/
def gives : Chip :=
  let c := ((up.putB F.PART_CFG_VALID true 2).putB F.PART_CFG_KIND true 2).putB F.VAR_STAT_SWITCHING true
  { c with recov := { c.recov with target := some 7 }, image := { ImageConfig.blank with variants := [{ var0 [] [] with id := 7, takesFromBe := [2] }] } }

theorem wit_spill : gives.switchTakes 2 = true ∧ (let x : Preempt := ⟨15, 0, false, [31], []⟩
    let c := (lentTo.put F.PART_BLK_BLOCKS (2 ^ 31) 1).updSched (fun s => { s with preempt := smSet none s.preempt 1 (some x) })
    smGet none c.sched.preempt 1 = some x ∧ c.partUnits 1 = [31] ∧ (∀ u, u ∈ c.partUnits 1 → u ∈ x.stopped) ∧
    c.get F.PART_CFG_BORROWER 1 ≠ 1) := by decide +kernel

/-- The last logical block of partition 1 with a handle of borrower 15 in its spill set. -/
def spilled : Chip :=
  { (lentTo.put F.PART_BLK_BLOCKS (2 ^ 31) 1) with image := { ImageConfig.blank with spillSets := [(15, [64 * 31 + 63])] } }
    |>.updSched (fun s => { s with spillSet := smSet [] s.spillSet 15 [2047] })

theorem wit_restore : (2047, 0) ∈ spilled.spillList 15 ∧ spilled.flag F.PART_CFG_KIND 1 = false ∧ spilled.get F.PART_CFG_BORROWER 1 = 15 ∧
    (smGet [] spilled.sched.spillSet 15).filter (fun k => (spilled.borrowed 15).contains (k / 64)) = [2047] := by decide +kernel

theorem wit_cutoff : ({ page true with deadline := some ⟨0, 1⟩ } : Item).ended = none ∧ (page true).endNext = none ∧ (page true).cutWhy = [] ∧
    (paged true []).itemRuns 0 = false ∧ (page false).live = false ∧
    Stamp.toNs ⟨0, 1⟩ ≤ ((paged true []).slotNo + 1) * 125000 + (paged true []).egressNs 0 ∧
    (let c := (paged true []).setRun 32 (some (run0 { stp [] with item := some 0 }))
     c.itemRuns 0 = true) := by decide +kernel

theorem wit_drain : up.drained (.stream 15) = false ∧
    (let c := ((up.put F.SUB_CFG_STATE 4 31).updSched (fun s => { s with drain := smSet none s.drain 47 (some 0) }))
     c.drained (.submit 31) = true ∧ smGet false c.sched.enableAfter 47 = false ∧
     (let d := c.updSched (fun s => { s with enableAfter := smSet false s.enableAfter 47 true })
      d.drained (.submit 31) = true ∧ smGet false d.sched.enableAfter 47 = true)) ∧
    (let c := (parted.put F.PART_CFG_STATE 4 1).updSched (fun s => { s with drain := smSet none s.drain 113 (some 0) })
     c.drained (.partition 1) = true ∧ c.draining 113 = true ∧ (c.items.list.map (·.num)).Nodup) ∧ up.draining 112 = false := by
  decide +kernel

theorem wit_cell : up.cellBad 287 = false ∧ up.mapSoon .CELL_MAP 3 8 = up.word .CELL_MAP 3 8 ∧
    bitOf (up.get F.SPARE_HEALTH_MSPARE 3) 7 = false ∧ bitsOf (up.mapSoon .CELL_MAP 3 7) 9 3 = 3 ∧
    (∀ k, k < 3 → bitsOf (up.mapSoon .CELL_MAP 3 7) (3 * k) 3 ≠ 3) ∧
    (∀ k, k < 8 → smGet false up.recov.failedNow (8 * (9 * 3 + 7) + k) = false) ∧
    ({ up with recov := { up.recov with failedCell := [(287, true)] } } : Chip).cellBad 287 = true ∧
    up.cellBad 292 = false ∧ up.cellBad 297 = false := by decide +kernel

theorem wit_block : bitOf (up.get F.SPARE_HEALTH_BLK_FAILED 3) 8 = false ∧
    (List.range 8).find? (fun l => bitsOf (up.mapSoon .REGION_MAP 3 0) (4 * l) 4 = 7) = some 7 ∧
    bitOf ((up.put F.SPARE_HEALTH_BLK_FAILED 256 3).get F.SPARE_HEALTH_BLK_FAILED 3) 8 = true := by decide +kernel

theorem wit_core : bitOf (up.get F.CORE_STAT_CORE_FAILED) 8 = false ∧ up.get F.UNIT_MAP_SPARE_ROLE = 15 ∧ up.recov.takeover = none ∧
    bitOf (up.get F.CORE_STAT_CORE_FAILED) 9 = false ∧
    bitOf ((up.put F.CORE_STAT_CORE_FAILED 512).get F.CORE_STAT_CORE_FAILED) 9 = true := by decide +kernel

/-- An item to be re-run, with RERUN_MAX 1. -/
def rerunning (i : Item) : Chip :=
  { (up.put F.FAULT_CFG_RERUN_MAX 1).updItems (fun I => { I with list := [i] }) with recov := { up.recov with rerun := [i.num] } }

theorem wit_rerun : 0 ∉ up.recov.rerun ∧ (∀ i, i = page false ∨ i = { page false with lost := true } ∨ i = { page false with reruns := 1 } →
    i.num ∈ (rerunning i).recov.rerun ∧ (rerunning i).items.list = [i] ∧ i.ended = none ∧ i.endNext = none ∧
    (rerunning i).itemRuns i.num = false ∧ (rerunning i).get F.FAULT_CFG_RERUN_MAX = 1 ∧ (rerunning i).inputPoisoned i = false ∧
    i.kvSlot = none) := by
  refine ⟨by decide +kernel, ?_⟩
  rintro i (rfl | rfl | rfl) <;> decide +kernel

/-- A variant for one lost text unit, which takes the blocks of partition 1. -/
def var1 : Variant := { var0 [] [] with id := 7, degr := [.textUnit], takesFromBe := [1] }
/-- A device at a course boundary where a text unit's degradation waits. -/
def switching (l : List Variant) : Chip :=
  { up.put F.FAULT_CFG_DEPTH 1 with
    recov := { up.recov with waiting := [.textUnit] }, image := { ImageConfig.blank with variants := l }
    clock := { up.clock with lastCourse := some 0 } }
/-- The same with the blocks of partition 1 taken. -/
def yielded : Chip := (switching [var1]).updSched (fun s => { s with preempt := smSet none s.preempt 1 (some ⟨1, 0, true, [], []⟩) })

theorem wit_switch : up.recov.waiting = [] ∧ (switching []).recov.waiting = [.textUnit] ∧ (switching []).Up ∧
    (switching []).successor (addDegr [] .textUnit) = none ∧ (switching [var1]).successor (addDegr [] .textUnit) = some var1 ∧
    (switching [var1]).atBoundary = true ∧ up.atBoundary = false ∧ true ∉ yielded.fabric.late ∧ yielded.fabric.mapPend = [] ∧
    yielded.kv.waiting = [] ∧ yielded.atBoundary = true ∧ smGet none yielded.sched.preempt 1 = some ⟨1, 0, true, [], []⟩ ∧
    smGet none (switching [var1]).sched.preempt 1 = none := by decide +kernel

theorem wit_lost : bitOf (up.get F.VAR_STAT_DDR_LOST) 1 = false ∧ bitOf ((up.put F.VAR_STAT_DDR_LOST 2).get F.VAR_STAT_DDR_LOST) 1 = true ∧
    up.recov.degr = [] ∧ bitOf (up.get F.VAR_STAT_PORT_LOST) 1 = false ∧ up.portUsed 0 = false ∧
    (up.put F.PORT_CFG_MODE 5 1).portUsed 1 = true := by decide +kernel

/-! ## Witnesses: ports, time, the Jorrak Result Transport -/

theorem wit_holds : up.running = true ∧ boots.running = false ∧
    ((up.putB F.HOLD_STAT_FORCE true 7).holdReasons 7).any id = true := by decide +kernel

/-- A running device whose port 1 has a mode; its link is up. -/
def ported (mode : Nat) : Chip := (up.put F.PORT_CFG_MODE mode 1).putB F.PORT_STAT_LINK true 1

theorem wit_link : (ported 5).Linked ∧ up.portUsed 1 = false ∧ up.flag F.PORT_STAT_LINK 1 = false ∧ (ported 5).portUsed 1 = true ∧
    (false && (modeRates 5).contains 4) = false ∧ (true && (modeRates 5).contains 2) = true ∧ (ported 4).portUsed 1 = true ∧
    (ported 4).flag F.PORT_STAT_LINK 1 = true ∧ ((ported 4).putB F.PORT_CFG_DHCP true 1).get F.PORT_STAT_DHCP 1 ≠ 2 ∧
    ((ported 4).put F.PORT_IP4_ADDR 5 1).ownAddrs 1 = [⟨false, 5⟩] ∧ (ported 4).get F.PORT_STAT_VERIFY 1 = 0 ∧
    ((ported 4).put F.PORT_STAT_VERIFY 1 1).get F.PORT_STAT_VERIFY 1 = 1 := by decide +kernel

/-- A frame that waits in queue 7, of session 63's lane 1. -/
def waits : TxFrame := ⟨7, .jrt 63 true (some 3), ⟨false, 9⟩, 700, [], none⟩
/-- Its datagram. -/
def out3 (sent : Bool) : OutDg := ⟨3, [1], 0, sent, 0, 500, 0, [], [], [], 0, none, none⟩
/-- A port with that frame in its queue, its peer resolved. -/
def queued : Chip := ((ported 4).put F.PORT_STAT_RATE 4 1).modPort 1 (fun p => { p with
    queues := [(7, [waits])], cache := [(⟨false, 9⟩, 1), (⟨false, 0⟩, 1)] })
  |>.modSess 63 (fun x => { x with open_ := true, lane1 := { Lane.cold with out := [out3 true] } })

/-- A port whose preempted frame of queue 0 may go on. -/
def cutOff : Chip := (ported 4).modPort 1 (fun p => { p with cut := some (0, 99) })

theorem wit_transmit : queued.pickQueue 1 = some (7, waits) ∧ (ported 4).pickQueue 1 = none ∧ (ported 4).canResume 1 = false ∧
    cutOff.pickQueue 1 = none ∧ (cutOff.port 1).cut = some (0, 99) ∧ cutOff.canResume 1 = true ∧ cutOff.sending 1 = false ∧
    ((queued.sess 63).lane true).out.find? (fun o => o.num = 3) = some (out3 true) := by decide +kernel

/-- A frame as long as one may be. -/
def frm (len : Nat) (l : L3) (full : Bool) : FrameIn := ⟨len, true, [], none, 0, 0, l, full⟩
/-- A UDP datagram for the JRT port. -/
def dgram (port : Nat) : L3 := .ipv4 8 5 false (.udp 600 port [1])
/-- A port with an address. -/
def addressed : Chip := (ported 4).put F.PORT_IP4_ADDR 5 1
/-- Flows of no byte at all. -/
def noFlow : Filter := ⟨true, 0, 0, ⟨false, 0⟩, 0, 0, [], 0, 0, 0, 0⟩

theorem wit_receive : addressed.flag F.PORT_STAT_LINK 1 = true ∧ (frm 1522 (dgram 51740) false).fcsOk = true ∧
    addressed.tagOk 1 (frm 1522 (dgram 51740) false) = true ∧ (addressed.police 1 (frm 1522 (dgram 51740) false)).1 = true ∧
    (addressed.eliminate (frm 1522 (dgram 51740) false)).1 = true ∧ addressed.dstOk 1 ⟨false, 5⟩ = true ∧
    (addressed.putB F.PORT_CFG_TAGGED true 1).tagOk 1 (frm 64 .pause false) = false ∧
    (addressed.putB F.PORT_CFG_TAGGED true 1).tagOk 1 (frm 64 (.arpReply 1 2) false) = false ∧
    ({ addressed with image := { ImageConfig.blank with ports := [⟨0, 0, 0, none, 0, 0, [], noFlow⟩, ⟨0, 0, 0, none, 0, 0, [], noFlow⟩] } }
      |>.police 1 (frm 1522 (dgram 51740) false)).1 = false ∧ decide ((frm 1523 .pause false).len ≤ 1522) = false := by decide +kernel

/-- A device that has taken sequence number 7 of a replicated stream. -/
def recovered : Chip := { addressed with
  image := { ImageConfig.blank with frer := [⟨true, 0, 0, ⟨false, 0⟩, 0, 16, 100⟩] }
  net := { addressed.net with frer := [(0, ⟨some 7, [true]⟩)] } }

theorem wit_eliminate : (recovered.eliminate { frm 64 (.arpReply 1 2) false with rtag := some 7 }).1 = false ∧
    (recovered.eliminate { frm 64 (.arpReply 1 2) false with rtag := some 8 }).1 = true := by decide +kernel

/-- A variant with a gate control list on port 1. -/
def gated : Chip := { up with image := { ImageConfig.blank with variants := [{ var0 [] [] with gcl := [[], [⟨0, 255, 1⟩, ⟨1, 1, 2⟩]] }] } }

theorem wit_gates : gated.running = true ∧ gated.gcl 0 = [] ∧
    (gated.gcl 1)[((gated.port 1).entry + 1) % (gated.gcl 1).length]? = some ⟨1, 1, 2⟩ ∧
    (let f : TxFrame := { waits with queue := 1 }
     let c := (gated.put F.QUEUE_MAP_PMAC 2 1).modPort 1 (fun p => { p with preemptOn := true, txEnd := 500, lastTx := some (f, ⟨0, 0⟩, []) })
     c.sending 1 = true ∧ c.preemptable 1 f.queue = true ∧ bitOf (⟨1, 1, 2⟩ : GateEntry).gates f.queue = false) := by decide +kernel

/-- A port with a bound lease. -/
def leased : Chip := (addressed.put F.PORT_STAT_DHCP 2 1).modPort 1 (fun p => { p with lease := some (5, 0, 7, 60) })

theorem wit_addresses : leased.Linked ∧ leased.get F.PORT_STAT_DHCP 1 = 2 ∧ leased.flag F.PORT_STAT_LINK 1 = true ∧
    (leased.port 1).lease = some (5, 0, 7, 60) ∧ leased.get F.PORT_IP4_ADDR 1 ≠ 0 ∧ addressed.get F.PORT_STAT_DHCP 1 ≠ 2 ∧
    (let c := leased.modSess 63 (fun x => { x with open_ := true, port := 1, addr := ⟨false, 8⟩, alt := some ⟨false, 9⟩ })
     (c.sess 63).open_ = true ∧ (c.sess 63).port = 1 ∧ (c.sess 63).addr.v6 = false ∧ (c.sess 63).alt = some ⟨false, 9⟩) ∧
    (let c := addressed.putB F.PORT_CFG_IPV6 true 1
     (⟨true, c.linkLocal 1⟩ : Addr) ∈ c.ownAddrs 1) := by decide +kernel

/-- A device that has found its offset. -/
def locking : Chip := ({ up with clock := { up.clock with lastCourse := some 0 } } : Chip).updServo (fun v => { v with stepDue := some (5, 0) })
/-- A device with port 1 as its source, first lock as given. -/
def sourced (l : Bool) : Chip := ((up.put F.TIME_STAT_SOURCE 2).putB F.TIME_STAT_FIRST_LOCK l).modPort 1 (fun p => { p with delays := [100] })
/-- A Sync on port 1 whose offset is `e` ns. -/
def syn (e : Int) : SyncIn := ⟨1, ⟨0, 500⟩, ⟨0, 400⟩, e, 125000000⟩

theorem wit_lock : locking.Up ∧ locking.atBoundary = true ∧ up.atBoundary = false ∧ locking.servo.stepDue = some (5, 0) ∧ locking.locked = false ∧ up.servo.stepDue = none := by decide +kernel

theorem wit_sync : (sourced true).source = some 1 ∧ (sourced true).pathDelay 1 = some 100 ∧ (sourced true).locked = true ∧
    (sourced false).locked = false ∧ (sourced false).servo.stepDue = none ∧ (sourced false).servo.syncs.length < 3 ∧
    up.source ≠ some 1 ∧
    (let c := (sourced false).updServo (fun v => { v with syncs := [(0, 0, 0), (1, 1, 0), (2, 2, 0)] })
     c.servo.syncs = [(0, 0, 0), (1, 1, 0), (2, 2, 0)]) ∧
    (let e := fun (w : SyncIn) => ((Stamp.toNs w.origin : Int) + w.correction + 100) - (Stamp.toNs w.rx : Int)
     let tdeg : Int := actsAs ((sourced true).get F.TIME_LIM_TDEG_NS) 1
     let slew : Int := actsAs ((sourced true).get F.TIME_LIM_SLEW_NS) 1
     e (syn 0) = 0 ∧ |e (syn 0)| ≤ slew ∧ |e (syn 65536)| > slew ∧ |e (syn 65536)| > tdeg ∧ 2 * |e (syn 0)| ≤ tdeg) ∧
    (let c := ((sourced true).putB F.TIME_STAT_ALARM true).updServo (fun v => { v with good := 15 })
     c.flag F.TIME_STAT_ALARM = true ∧ 15 ≤ c.servo.good) := by decide +kernel

/-- An Announce on port 0. -/
def ann (rank : Nat) : AnnounceIn := ⟨0, true, [rank], 37, true⟩

theorem wit_sources : ((up.put F.PORT_CFG_MODE 1 0).putB F.PORT_CFG_PTP true 0).ptpOn 0 = true ∧ up.ptpOn 0 = false ∧ up.source = none ∧
    (let c := (sourced true).modPort 1 (fun p => { p with announce := some ([2], 37, true) })
     c.source = some 1 ∧ (c.port 1).announce = some ([2], 37, true) ∧ ranksBetter [1] [2] = true ∧ ranksBetter [3] [2] = false) ∧
    (let c := ((sourced true).modPort 0 (fun p => { p with announce := some ([2], 37, true) })).putB F.PORT_CFG_PTP true 0 |>.put F.PORT_CFG_MODE 1 0
     c.source = some 1 ∧ (c.port (1 - 1)).announce.isSome = true ∧ c.ptpOn (1 - 1) = true) ∧
    ((sourced true).port 0).announce = none ∧ |(sourced true).servo.ri| ≤ maxRate := by decide +kernel

theorem wit_messages : ((ported 4).putB F.PORT_CFG_PTP true 1).ptpOn 1 = true ∧ (ported 4).flag F.PORT_STAT_LINK 1 = true ∧
    up.get F.TIME_CTRL_PROFILE = 0 ∧ rnaDiv (800 + 800) 2 = 800 ∧ decide (rnaDiv (801 + 801) 2 > 800) = true ∧
    (let c := ((up.putB F.TIME_STAT_FIRST_LOCK true).put F.PPS_CFG_MODE 1)
     c.locked = true ∧ c.get F.PPS_CFG_MODE = 1 ∧ c.flag F.PPS_CFG_GATE = false) ∧
    bitOf ((up.put F.EVT_CFG_EDGES 2).get F.EVT_CFG_EDGES) (b2n true) = true ∧
    bitOf ((up.put F.EVT_CFG_EDGES 2).get F.EVT_CFG_EDGES) (b2n false) = false ∧ up.servo.events.length < 16 ∧
    16 ≤ (up.updServo (fun v => { v with events := List.replicate 16 (⟨0, 0⟩, true, true, false) })).servo.events.length := by decide +kernel

/-- The peer. -/
def peer (bytes : List Byte) : DgIn := ⟨1, ⟨false, 8⟩, 700, bytes⟩
/-- An OPEN for a result session with two LIMITs. -/
def openBytes : List Byte := dgBytes 2 0 0 0 0 0 0 0xFFFF (recordMap [(70, .uint 0), (75, .arr [.uint 10, .uint 20])]).enc
/-- A device that admits everyone to result sessions. -/
def admits : Chip := { up.put F.JRT_SPOOL_AREA_MIB 512 with image := { ImageConfig.blank with admission := [⟨⟨false, 0⟩, 0, 1⟩] } }
/-- A device with result session 63 open to the peer, its lane 0 as given. -/
def opened (l : Lane) (f : Session → Session) : Chip := up.modSess 63 (fun x => f { x with
  open_ := true, addr := ⟨false, 8⟩, udp := 700, gen := 4, expect := 6, grant := 10, lane0 := l })
/-- A datagram of that session. -/
def sessDg (type num ack : Nat) (recs : List Byte) : DgIn := peer (dgBytes type 0 63 4 num ack 0 0 recs)

/-- What a device answers to the peer's OPEN, of Table 15-4. -/
def opens (c : Chip) : Option (Nat × Nat) :=
  match parseHdr openBytes with
  | some h => if h.type = 2 then (openReq h.recs).map (c.openCheck (peer openBytes)) else none
  | none => none

theorem wit_open : admits.Up ∧ admits.boot.closing = none ∧ opens admits = some (0, 0) ∧ opens up = some (2, 0) ∧ parseHdr [0] = none ∧
    (∀ n, n < 96 → (admits.sess n).open_ = false) ∧ ((opened Lane.cold id).sess 63).open_ = true ∧
    ((opened Lane.cold id).sess 63).addr = (peer openBytes).src ∧ ((opened Lane.cold id).sess 63).udp = (peer openBytes).udp := by
  decide +kernel

theorem wit_close : (∃ h, parseHdr (sessDg 4 0 0 []).payload = some h ∧ (opened Lane.cold id).boundSess (sessDg 4 0 0 []) h = some 63 ∧
      h.type = 4 ∧ up.boundSess (sessDg 4 0 0 []) h = none ∧ (up.sess h.sess).closed = none) ∧
    (opened Lane.cold id).idle 63 = true ∧ up.idle 63 = false :=
  ⟨⟨_, rfl, by decide +kernel, rfl, by decide +kernel, by decide +kernel⟩, by decide +kernel, by decide +kernel⟩

theorem wit_ack : (∃ h, parseHdr (sessDg 1 0 4 []).payload = some h ∧
    (let c := opened { Lane.cold with next := 5, ack := 3, out := [out3 true, { out3 true with num := 4 }] } id
     c.boundSess (sessDg 1 0 4 []) h = some 63 ∧ h.type = 1 ∧ h.recs = [] ∧ h.lane1 = false ∧
     serLt (c.sess 63).lane0.ack h.ack = true ∧ serLt (c.sess 63).lane0.next h.ack = false)) := ⟨_, rfl, by decide +kernel⟩

theorem wit_data : ∀ k, k = 6 ∨ k = 5 ∨ k = 7 ∨ k = 10 → ∃ h, parseHdr (sessDg 0 k 0 [1]).payload = some h ∧
    (opened Lane.cold id).boundSess (sessDg 0 k 0 [1]) h = some 63 ∧ h.type = 0 ∧ h.lane1 = false ∧ h.num = k ∧
    serLt h.num ((opened Lane.cold id).sess 63).grant = decide (k < 10) ∧ serLt h.num ((opened Lane.cold id).sess 63).expect = decide (k < 6) ∧
    ((opened Lane.cold id).sess 63).later = [] := by
  rintro k (rfl | rfl | rfl | rfl) <;> exact ⟨_, rfl, by decide +kernel⟩

theorem wit_timers : (let c := opened { Lane.cold with out := [out3 true] } (fun x => { x with ackDue := true })
     ((c.sess 63).lane false).out.find? (fun o => o.num = 3) = some (out3 true) ∧ (out3 true).sent = true ∧
     c.flag F.SESS_STAT_PATH_LOST 63 = false ∧ (c.sess 63).ackDue = true ∧ (c.sess 63).holds = true ∧
     c.flag F.SESS_STAT_STALLED 63 = false ∧
     (let d := ((c.put F.JRT_TMR_ABANDON_S 1).putB F.SESS_STAT_STALLED true 63).put F.SESS_MAND_CLASSES 1 63
      d.get F.JRT_TMR_ABANDON_S ≠ 0 ∧ d.flag F.SESS_STAT_STALLED 63 = true ∧ d.get F.SESS_MAND_CLASSES 63 ≠ 0)) ∧
    (out3 false).sent = false ∧ ((opened Lane.cold id).sess 63).lane0.out = [] := by decide +kernel

/-! ## Witnesses: management -/

/-- The part of a request of role 3 under BOOT_ID 0 that is signed (Table 16-11). -/
def reqBytes (type num : Nat) (body : List Byte) : List Byte :=
  beBytes 2 0x4E4D ++ beBytes 1 1 ++ beBytes 1 type ++ beBytes 1 3 ++ [0] ++ beBytes 2 body.length ++ beBytes 8 0 ++ beBytes 8 num ++ body

/-- Request 7 of the peer, signed. -/
def request (type : Nat) (body : List Byte) : DgIn := peer (reqBytes type 7 body ++ hmac384 [1] (reqBytes type 7 body))

/-- The header of a signed request says what it is, and its body reads as an action. -/
def asks (type : Nat) (body : List Byte) (a : NmpAct) : Bool :=
  let m := reqBytes type 7 body
  let n := fun o k => beNat ((m.drop o).take k)
  decide (24 ≤ m.length) && decide (n 0 2 = 0x4E4D) && decide (n 2 1 = 1) && decide (n 4 1 = 3) && decide (m.length = 24 + n 6 2) &&
    decide (n 3 1 = type) && decide (n 8 8 = 0) && decide (n 16 8 = 7) && decide ((m.drop 24).take (n 6 2) = body) &&
    (match parseCbor body with
     | .ok (.map l, _) [] => decide (nmpAct type (.map l) = a)
     | _ => false)

theorem sha384_length (m : List Byte) : (sha384 m).length = 48 := by
  have h : ∀ w : BitVec 64, (beBytes 8 w.toNat).length = 8 := by intro w; simp [beBytes, leBytes]
  have round : ∀ (k w : W64) (s : List W64), s.length = 8 → (shaRound k w s).length = 8 := by
    rintro k w s hs
    unfold shaRound
    split
    · rfl
    · exact hs
  have rounds : ∀ win s, s.length = 8 → (shaRounds win s).length = 8 := by
    intro win s hs
    unfold shaRounds
    suffices ∀ (l : List W64) (x : List W64 × List W64), x.2.length = 8 → (l.foldl (fun (x : List W64 × List W64) k =>
        (x.1.drop 1 ++ [shaNext x.1], shaRound k (x.1.getD 0 0) x.2)) x).2.length = 8 from this _ _ hs
    intro l
    induction l with
    | nil => intro x hx; exact hx
    | cons k l ih => intro x hx; exact ih _ (round _ _ _ hx)
  have block : ∀ s b, s.length = 8 → (shaBlock s b).length = 8 := by
    intro s b hs; simp [shaBlock, hs, rounds _ _ hs]
  have all : ∀ (l : List (List Byte)) s, s.length = 8 → (l.foldl shaBlock s).length = 8 := by
    intro l
    induction l with
    | nil => intro s hs; exact hs
    | cons b l ih => intro s hs; exact ih _ (block _ _ hs)
  have start : shaInit.length = 8 := by
    have : shaPrimes.length = 80 := by decide +kernel
    simp [shaInit, this]
  have six : ∀ l : List W64, (l.flatMap (fun w => beBytes 8 w.toNat)).length = 8 * l.length := by
    intro l
    induction l with
    | nil => rfl
    | cons w l ih => simp only [List.flatMap_cons, List.length_append, ih, h, List.length_cons]; omega
  simp only [sha384, six, List.length_take, all _ _ start]
  rfl

theorem hmac384_length (k m : List Byte) : (hmac384 k m).length = 48 := by unfold hmac384; exact sha384_length _

/-- A signed request passes the checks of its form. -/
theorem nmpIn_signed (m t : List Byte) (type bid num len : Nat) (h24 : 24 ≤ m.length) (h0 : beNat (m.take 2) = 0x4E4D)
    (h2 : beNat ((m.drop 2).take 1) = 1) (h3 : beNat ((m.drop 3).take 1) = type) (h4 : beNat ((m.drop 4).take 1) = 3)
    (h6 : beNat ((m.drop 6).take 2) = len) (h8 : beNat ((m.drop 8).take 8) = bid) (h16 : beNat ((m.drop 16).take 8) = num)
    (hl : m.length = 24 + len) (ht : t.length = 48) : nmpIn (m ++ t) = .ok ⟨type, 3, bid, num, m.drop 24, m, t⟩ := by
  have key : ∀ o k, o + k ≤ 24 → ((m ++ t).drop o).take k = (m.drop o).take k := by
    intro o k h
    rw [List.drop_append_of_le_length (by omega), List.take_append_of_le_length (by simp; omega)]
  have k0 := key 0 2 (by omega)
  simp only [List.drop_zero] at k0
  unfold nmpIn
  simp only [k0, key 2 1 (by omega), key 3 1 (by omega), key 4 1 (by omega), key 6 2 (by omega), key 8 8 (by omega),
    key 16 8 (by omega), List.drop_zero, h0, h2, h3, h4, h6, h8, h16]
  have hd : (m ++ t).drop 24 = m.drop 24 ++ t := List.drop_append_of_le_length (by omega)
  have e1 : (m.drop 24 ++ t).take len = m.drop 24 := by
    have : (m.drop 24).length = len := by simp; omega
    rw [← this, List.take_left]
  have e2 : (m ++ t).take (24 + len) = m := by rw [← hl, List.take_left]
  have e3 : (m ++ t).drop (24 + len) = t := by rw [← hl, List.drop_left]
  rw [if_neg (by simp; omega), if_neg (by simp; omega), hd, e1, e2, e3]

/-- A running device whose role 3 has a key. -/
structure Managed (c : Chip) : Prop where
  served : c.nmpServed = true
  open_ : c.safeHold = false
  key : c.roleKey 3 = some [1]
  boot : c.bootId = 0
  last : (c.role 3).last = none

/-- Such a device accepts a request that asks for an action. -/
theorem Managed.accepts {c : Chip} (hc : Managed c) {type : Nat} {body : List Byte} {a : NmpAct} (h : asks type body a = true)
    (hb : ∀ n, a ≠ .bad n) (hn : a.needs ≤ 3) : ∃ q, c.Accepts (request type body) q a := by
  simp only [asks, Bool.and_eq_true, decide_eq_true_eq, List.drop_zero] at h
  obtain ⟨⟨⟨⟨⟨⟨⟨⟨⟨h24, h0⟩, h2⟩, h4⟩, hl⟩, h3⟩, h8⟩, h16⟩, hbody⟩, hp⟩ := h
  refine ⟨_, ⟨⟨hc.served, nmpIn_signed _ _ type 0 7 _ h24 h0 h2 h3 h4 rfl h8 h16 hl (hmac384_length _ _), ?_, ?_, ?_⟩, ?_, hb, ?_⟩⟩
  · intro _; simp only [hc.key, Option.map_some]
  · intro _; exact hc.boot.symm
  · intro _ l hl; simp [hc.last] at hl
  · have hd : (reqBytes type 7 body).drop 24 = body := by
      rw [List.take_of_length_le (by simp; omega)] at hbody
      exact hbody
    simp only [hd]
    split at hp
    · rename_i l x hp'
      exact ⟨l, x, hp', by simpa using hp⟩
    · cases hp
  · simp only [hc.open_, Bool.false_eq_true, if_false]; exact hn

/-- A running device with a key for role 3. -/
def managed : Chip := up.updMgmt (fun m => { m with keys := [(3, [1])] })

theorem managed_ok : Managed managed := ⟨by decide +kernel, by decide +kernel, by decide +kernel, by decide +kernel, by decide +kernel⟩

/-- A request body. -/
def body (l : List (Nat × Nat)) : List Byte := (recordMap (l.map (fun e => (e.1, .uint e.2)))).enc

theorem wit_unserved : boots.nmpServed = false ∧ up.nmpServed = true ∧ nmpIn [] = .drop ∧ nmpIn [0x4E, 0x4D, 1] = .malformed 0 0 ∧
    nmpRows.length = 30 := by decide +kernel

/-- A READ by nobody, of the word at 0. -/
def anon : List Byte :=
  beBytes 2 0x4E4D ++ beBytes 1 1 ++ beBytes 1 2 ++ [0, 0] ++ beBytes 2 (body [(1, 0)]).length ++ beBytes 8 0 ++ beBytes 8 7 ++ body [(1, 0)]

theorem wit_role : ∃ q l x, up.Authentic (peer anon) q ∧ parseCbor q.body = .ok (.map l, x) [] ∧ nmpAct q.type (.map l) = .read 0 1 ∧
    up.safeHold = false ∧ q.role < (NmpAct.read 0 1).needs := by
  refine ⟨⟨2, 0, 0, 7, body [(1, 0)], anon, []⟩, [(.uint 1, .uint 0)], 0, ⟨by decide +kernel, by decide +kernel, ?_, ?_, ?_⟩, rfl, by decide +kernel,
    by decide +kernel, by decide⟩
  all_goals intro h; exact absurd rfl h

/-- The tag of a request of role 3 is right, wrong, or its SEQ is used. -/
theorem wit_tag : managed.nmpServed = true ∧ (managed.roleKey 3).isSome = true ∧ up.roleKey 3 = none ∧
    ((managed.modRole 3 (fun r => { r with last := some (7, [1]) })).role 3).last = some (7, [1]) := by decide +kernel

/-- Every action that a request can ask for is asked for by some datagram that the device accepts. -/
theorem wit_requests {c : Chip} (hc : Managed c) :
    (∃ d q, c.Accepts d q .hello) ∧ (∃ d q, c.Accepts d q (.read 0x10FFFC 1)) ∧ (∃ d q, c.Accepts d q (.write 0x100000 1 1)) ∧
    (∃ d q, c.Accepts d q (.control (.stream 15) 1)) ∧ (∃ d q, c.Accepts d q (.control (.stream 15) 0)) ∧
    (∃ d q, c.Accepts d q (.control (.submit 31) 1)) ∧ (∃ d q, c.Accepts d q (.control (.submit 31) 0)) ∧
    (∃ d q, c.Accepts d q (.control (.result 63) 0)) ∧ (∃ d q, c.Accepts d q (.control (.result 63) 1)) ∧
    (∃ d q, c.Accepts d q (.control (.result 63) 2)) ∧ (∃ d q, c.Accepts d q (.control (.partition 1) 1)) ∧
    (∃ d q, c.Accepts d q (.control (.partition 1) 0)) ∧ (∃ d q, c.Accepts d q (.control .adaptation 1)) ∧
    (∃ d q, c.Accepts d q (.control .adaptation 0)) ∧
    (∃ d q, c.Accepts d q .restart) ∧ (∃ d q, c.Accepts d q (.attest (List.replicate 16 0))) ∧ (∃ d q, c.Accepts d q (.commit false)) ∧
    (∃ d q, c.Accepts d q .scrub) ∧ (∃ d q, c.Accepts d q .selfTest) ∧ (∃ d q, c.Accepts d q (.status 1)) ∧
    (∃ d q, c.Accepts d q (.abort 65535)) ∧ (∃ d q, c.Accepts d q (.data (some 1) 0x1000 [5])) ∧ (∃ d q, c.Accepts d q (.token [1])) := by
  have go : ∀ (type : Nat) (b : List Byte) (a : NmpAct), asks type b a = true → (∀ n, a ≠ .bad n) → a.needs ≤ 3 → ∃ d q, c.Accepts d q a :=
    fun type b a h hb hn => let ⟨q, hq⟩ := hc.accepts h hb hn; ⟨_, q, hq⟩
  refine ⟨go 1 (body []) _ ?_ ?_ ?_, go 2 (body [(1, 0x10FFFC)]) _ ?_ ?_ ?_, go 3 (body [(1, 0x100000), (4, 1), (5, 1)]) _ ?_ ?_ ?_,
    go 4 (body [(6, 0), (7, 15), (8, 1)]) _ ?_ ?_ ?_, go 4 (body [(6, 0), (7, 15), (8, 0)]) _ ?_ ?_ ?_,
    go 4 (body [(6, 1), (7, 31), (8, 1)]) _ ?_ ?_ ?_, go 4 (body [(6, 1), (7, 31), (8, 0)]) _ ?_ ?_ ?_,
    go 4 (body [(6, 2), (7, 63), (8, 0)]) _ ?_ ?_ ?_, go 4 (body [(6, 2), (7, 63), (8, 1)]) _ ?_ ?_ ?_,
    go 4 (body [(6, 2), (7, 63), (8, 2)]) _ ?_ ?_ ?_, go 4 (body [(6, 3), (7, 1), (8, 1)]) _ ?_ ?_ ?_,
    go 4 (body [(6, 3), (7, 1), (8, 0)]) _ ?_ ?_ ?_, go 4 (body [(6, 4), (8, 1)]) _ ?_ ?_ ?_, go 4 (body [(6, 4), (8, 0)]) _ ?_ ?_ ?_,
    go 5 (body []) _ ?_ ?_ ?_, go 6 (recordMap [(9, .bytes (List.replicate 16 0))]).enc _ ?_ ?_ ?_, go 7 (body [(11, 3)]) _ ?_ ?_ ?_,
    go 7 (body [(11, 4)]) _ ?_ ?_ ?_, go 7 (body [(11, 5)]) _ ?_ ?_ ?_, go 8 (body [(13, 1)]) _ ?_ ?_ ?_, go 9 (body [(13, 65535)]) _ ?_ ?_ ?_,
    go 10 (recordMap [(13, .uint 1), (17, .uint 0x1000), (18, .bytes [5])]).enc _ ?_ ?_ ?_, go 11 (recordMap [(19, .bytes [1])]).enc _ ?_ ?_ ?_⟩
  all_goals first | (intro n h; cases h) | decide +kernel

/-- A LONG_START body with one argument. -/
def startBody (kind : Nat) (v : Fin 24) (n : Nat) : List Byte :=
  (recordMap [(11, .uint kind), (12, recordMap [(v.val, .uint n)])]).enc

/-- A header is right whatever the body reads as. -/
def formed (type : Nat) (body : List Byte) : Bool :=
  let m := reqBytes type 7 body
  let n := fun o k => beNat ((m.drop o).take k)
  decide (24 ≤ m.length) && decide (n 0 2 = 0x4E4D) && decide (n 2 1 = 1) && decide (n 4 1 = 3) && decide (m.length = 24 + n 6 2) &&
    decide (n 3 1 = type) && decide (n 8 8 = 0) && decide (n 16 8 = 7) && decide ((m.drop 24).take (n 6 2) = body)

theorem start_formed : ∀ v : Fin 24, formed 7 (startBody 1 v 8192) = true ∧ formed 7 (startBody 2 v 15) = true := by decide +kernel

theorem start_parse (v : Fin 24) :
    (∃ x, parseCbor (startBody 1 v 8192) = .ok (.map [(.uint 11, .uint 1), (.uint 12, .map [(.uint v.val, .uint 8192)])], x) []) ∧
    (∃ x, parseCbor (startBody 2 v 15) = .ok (.map [(.uint 11, .uint 2), (.uint 12, .map [(.uint v.val, .uint 15)])], x) []) := by
  fin_cases v <;> exact ⟨⟨_, rfl⟩, ⟨_, rfl⟩⟩

theorem asks_stage : asks 7 (startBody 1 (Config.argKeyOf 1 0) 8192) (.stage 8192 none) = true := by
  obtain ⟨x, hx⟩ := (start_parse (Config.argKeyOf 1 0)).1
  have h : nmpAct 7 (.map [(.uint 11, .uint 1), (.uint 12, .map [(.uint (Config.argKeyOf 1 0).val, .uint 8192)])]) = .stage 8192 none := by
    by_cases e : (Config.argKeyOf 1 0).val = (Config.argKeyOf 1 1).val
    · simp [nmpAct, startReq, Cbor.nat, Cbor.key, Config.argKey, e]
    · simp [nmpAct, startReq, Cbor.nat, Cbor.key, Config.argKey, e]
  have f := (start_formed (Config.argKeyOf 1 0)).1
  unfold formed at f
  unfold asks
  simp only [hx, h, f, decide_true, Bool.and_self]

theorem asks_capture : asks 7 (startBody 2 (Config.argKeyOf 2 0) 15) (.capture 15) = true := by
  obtain ⟨x, hx⟩ := (start_parse (Config.argKeyOf 2 0)).2
  have h : nmpAct 7 (.map [(.uint 11, .uint 2), (.uint 12, .map [(.uint (Config.argKeyOf 2 0).val, .uint 15)])]) = .capture 15 := by
    simp [nmpAct, startReq, Cbor.nat, Cbor.key, Config.argKey]
  have f := (start_formed (Config.argKeyOf 2 0)).2
  unfold formed at f
  unfold asks
  simp only [hx, h, f, decide_true, Bool.and_self]

theorem wit_starts {c : Chip} (hc : Managed c) : (∃ d q, c.Accepts d q (.stage 8192 none)) ∧ (∃ d q, c.Accepts d q (.capture 15)) := by
  obtain ⟨q, hq⟩ := hc.accepts asks_stage (fun n h => by cases h) (by decide)
  obtain ⟨p, hp⟩ := hc.accepts asks_capture (fun n h => by cases h) (by decide)
  exact ⟨⟨_, q, hq⟩, ⟨_, p, hp⟩⟩


/-- Managed, as a test. -/
def isManaged (c : Chip) : Bool :=
  c.nmpServed && !c.safeHold && decide (c.roleKey 3 = some [1]) && decide (c.bootId = 0) && decide ((c.role 3).last = none)

theorem isManaged_ok {c : Chip} (h : isManaged c = true) : Managed c := by
  simp only [isManaged, Bool.and_eq_true, Bool.not_eq_true', decide_eq_true_eq] at h
  exact ⟨h.1.1.1.1, h.1.1.1.2, h.1.1.2, h.1.2, h.2⟩

theorem wit_map : findReg 0x10FFFC = none ∧ findReg (Reg.addr .BOOT_STAT 0 0) = some (.BOOT_STAT, 0, 0) ∧
    managed.special 3 .BOOT_STAT 0 = none ∧ managed.declared .BOOT_STAT 0 = true := by decide +kernel

/-- A WRITE of a word: whether it is legal, in the terms of R524. -/
def legalWrite (c : Chip) (a value mask : Nat) : Bool :=
  match findReg a with
  | none => false
  | some (r, _, _) =>
    let diff := (c.peek 3 a ^^^ value) &&& mask &&& (2 ^ 32 - 1 - (r.info.resv ||| r.info.w1c))
    decide ((diff ||| r.info.rw) = r.info.rw)

theorem wit_write : legalWrite managed (Reg.addr .GOV_CTRL 0 0) 0 (Reg.info .GOV_CTRL).rw = true := by
  decide +kernel

theorem wit_write_illegal : legalWrite managed (Reg.addr .BOOT_STAT 0 0) 0 0xFFFFFFFF = false ∧
    (NmpAct.write (Reg.addr .BOOT_STAT 0 0) 0 0xFFFFFFFF).ownWrite = false ∧ findReg (Reg.addr .BOOT_STAT 0 0) = some (.BOOT_STAT, 0, 0) := by
  decide +kernel

theorem wit_own_writes : legalWrite managed (Reg.addr .HOLD_STAT 7 0) 256 256 = true ∧
    legalWrite managed (Reg.addr .LDG_STAT 0 0) 1 1 = true ∧ legalWrite managed (Reg.addr .EVT_CFG 0 0) (2 ^ 24) (2 ^ 24) = true ∧
    legalWrite managed (Reg.addr .ADAPT_CTRL 0 0) (2 ^ 30) (2 ^ 30) = true := by decide +kernel

theorem wit_control : isManaged ((managed.put F.SNS_CFG_GEN 2 15).put F.SNS_STATE_STATE 3 15) = true ∧
    (let c := (managed.put F.SNS_CFG_GEN 2 15).put F.SNS_STATE_STATE 3 15
     c.undeclared (.stream 15) = false ∧ c.get F.SNS_STATE_STATE 15 = 3) ∧
    (let c := managed.put F.SNS_CFG_GEN 1 15
     isManaged c = true ∧ c.undeclared (.stream 15) = false ∧ c.get F.SNS_STATE_STATE 15 = 0 ∧ c.get F.SNS_CFG_GEN 15 = 1) ∧
    (let c := (managed.put F.SNS_CFG_GEN 2 15).put F.SNS_STATE_STATE 4 15
     isManaged c = true ∧ c.get F.SNS_STATE_STATE 15 = 4) ∧
    (let c := (managed.put F.SNS_CFG_GEN 2 15).put F.SNS_STATE_STATE 5 15
     isManaged c = true ∧ c.get F.SNS_STATE_STATE 15 = 5) ∧
    isManaged managed = true ∧ managed.undeclared (.submit 31) = false ∧ managed.get F.SUB_CFG_STATE 31 = 0 ∧
    (let c := managed.put F.SUB_CFG_STATE 3 31
     isManaged c = true ∧ c.get F.SUB_CFG_STATE 31 = 3) := by decide +kernel

/-- Stream 15 with a reference set from the image whose one pixel is defective. -/
def spotted : Chip :=
  ((managed.put F.SNS_CFG_GEN 2 15).put F.SNS_SEG_PIXELS 1 15 0).modStream 15 (fun x => { x with refs := some ⟨[0, 0, 0], [0, 0, 0], [true, true, true], []⟩ })

theorem wit_control_fault : (let c := managed.put F.SNS_CFG_GEN 1 15
      isManaged c = true ∧ c.undeclared (.stream 15) = false ∧ c.get F.SNS_STATE_STATE 15 = 0 ∧ c.get F.SNS_CFG_GEN 15 = 1 ∧ 3 < (15 : Fin 16).val) ∧
    isManaged spotted = true ∧ spotted.undeclared (.stream 15) = false ∧ spotted.get F.SNS_STATE_STATE 15 = 0 ∧
    spotted.flag F.SHD_CFG_REF_SRC 15 = false ∧ (∃ r, (spotted.stream 15).refs = some r ∧ spotted.defectRun 15 r = true) :=
  ⟨by decide +kernel, by decide +kernel, by decide +kernel, by decide +kernel, by decide +kernel, _, rfl, by decide +kernel⟩

theorem wit_control_more : (let c := (managed.modSess 63 (fun x => { x with open_ := true })).put F.SESS_STAT_STATE 3 63
      isManaged c = true ∧ c.undeclared (.result 63) = false ∧ c.get F.SESS_STAT_STATE 63 = 3) ∧
    (let c := (managed.modSess 63 (fun x => { x with open_ := true })).put F.SESS_STAT_STATE 4 63
     isManaged c = true ∧ c.get F.SESS_STAT_STATE 63 = 4) ∧ (managed.sess 63).open_ = false ∧
    (∀ st, st = 0 ∨ st = 3 ∨ st = 4 →
      let c := (managed.putB F.PART_CFG_VALID true 1).put F.PART_CFG_STATE st 1
      isManaged c = true ∧ c.undeclared (.partition 1) = false ∧ c.get F.PART_CFG_STATE 1 = st) ∧
    (∀ st, st = 0 ∨ st = 3 ∨ st = 4 →
      let c := (managed.putB F.ADAPT_SET_VALID true 0).put F.ADAPT_CTRL_STATE st
      isManaged c = true ∧ c.undeclared .adaptation = false ∧ c.get F.ADAPT_CTRL_STATE = st) := by
  refine ⟨by decide +kernel, by decide +kernel, by decide +kernel, ?_, ?_⟩ <;> rintro st (rfl | rfl | rfl) <;> decide +kernel

/-- An enable or a disable of partition 15 or of adaptation by its ENABLE bit. -/
theorem wit_enable_writes : asks 3 (body [(1, Reg.addr .PART_CTRL 15 0), (4, 2 ^ 31), (5, 2 ^ 31)]) (.write (Reg.addr .PART_CTRL 15 0) (2 ^ 31) (2 ^ 31)) = true ∧
    asks 3 (body [(1, Reg.addr .ADAPT_CTRL 0 0), (4, 0), (5, 2 ^ 31)]) (.write (Reg.addr .ADAPT_CTRL 0 0) 0 (2 ^ 31)) = true ∧
    managed.flag F.PART_CTRL_ENABLE 15 = false ∧ managed.flag F.ADAPT_CTRL_ENABLE = false ∧
    (managed.putB F.PART_CFG_VALID true 15).flag F.PART_CFG_VALID 15 = true := by decide +kernel

/-- A device with an operation of a kind in entry 7, in a state, with handle 65,535. -/
def working (kind state : Nat) (o : LongOp) : Chip :=
  (((managed.put F.LONG_STAT_KIND kind 7).put F.LONG_STAT_STATE state 7).put F.LONG_HND_HANDLE 65535 7).modOp 7 (fun _ => o)

theorem wit_operations : (∀ st, st < 5 → isManaged (working 1 st LongOp.cold) = true ∧
      (working 1 st LongOp.cold).opOfHandle 65535 = some 7 ∧ (working 1 st LongOp.cold).get F.LONG_STAT_STATE 7 = st) ∧
    managed.opOfHandle 1 = none ∧ (working 1 1 LongOp.cold).opOfKind 1 = some 7 ∧ (working 3 0 LongOp.cold).opOpen 7 = true ∧
    managed.opOfKind 1 = none ∧ (List.range 8).find? (fun h => !managed.opLive h) = some 0 ∧ managed.secure = true ∧
    managed.mgmt.nextHandle < 65536 ∧ isManaged (managed.putB F.VAR_STAT_SEC_LOST true) = true ∧
    (managed.putB F.VAR_STAT_SEC_LOST true).secure = false ∧
    (let c := (List.range 8).foldl (fun c h => c.put F.LONG_STAT_KIND 5 h) managed
     isManaged c = true ∧ (List.range 8).find? (fun h => !c.opLive h) = none ∧ c.opOfKind 4 = none) := by
  refine ⟨?_, by decide +kernel, by decide +kernel, by decide +kernel, by decide +kernel, by decide +kernel, by decide +kernel,
    by decide +kernel, by decide +kernel, by decide +kernel, by decide +kernel⟩
  intro st h; interval_cases st <;> decide +kernel

theorem wit_may_start : (let c := { managed with fuses := { managed.fuses with customer := some [1] } }
      isManaged c = true ∧ c.fuses.customer.isSome = true) ∧
    (let c := ((managed.put F.SNS_STATE_STATE 3 15).putB F.HOLD_STAT_FORCE true 7)
     isManaged c = true ∧ (c.stream 15).page = none ∧ c.get F.SNS_STATE_STATE 15 = 3 ∧ c.flag F.HOLD_STAT_FORCE (15 / 2) = true) ∧
    (let c := managed.modStream 15 (fun x => { x with page := some (Capture.fresh none) })
     isManaged c = true ∧ (c.stream 15).page.isSome = true) := by decide +kernel

theorem wit_stage_data : (let c := working 1 1 { LongOp.cold with len := 0x1001 }
      isManaged c = true ∧ (c.op 7).bad = false ∧ (decide (0x1000 ≤ 0x1000) && decide (0x1000 + [(5 : Byte)].length ≤ (c.op 7).len)) = true ∧
      (c.op 7).got = [] ∧ (c.op 7).target < c.flash.length) ∧ gotAt [] 0x1000 = false ∧
    (let c := working 1 1 { LongOp.cold with len := 0x1000 }
     (decide (0x1000 ≤ 0x1000) && decide (0x1000 + [(5 : Byte)].length ≤ (c.op 7).len)) = false) := by decide +kernel

theorem wit_attest : managed.get F.FUSE_STAT_JTAG ≠ 2 ∧ (let c := managed.put F.FUSE_STAT_JTAG 2
      isManaged c = true ∧ c.get F.FUSE_STAT_JTAG = 2) ∧
    (let c := { managed.put F.ATT_STAT_LEAVES 1 with boot := { managed.boot with tree := some 1023 } }
     isManaged c = true ∧ c.boot.tree = some 1023 ∧ 0 < c.get F.ATT_STAT_LEAVES) ∧ managed.boot.tree = none ∧ managed.nextTree < 1024 ∧
    (let c := { managed with flash := [{ Flash.erased with trees := [1023] }, Flash.erased] }
     isManaged c = true ∧ 1024 ≤ c.nextTree) ∧ managed.boot.closing = none := by decide +kernel

theorem wit_op_ends : (working 5 1 LongOp.cold).On ∧ (working 5 1 LongOp.cold).opOfHandle 65535 = some 7 ∧
    (working 5 1 { LongOp.cold with abort := true }).get F.LONG_STAT_STATE 7 = 1 ∧ (working 2 1 LongOp.cold).get F.LONG_STAT_KIND 7 = 2 ∧
    (let c := working 1 1 { LongOp.cold with len := 2, got := [(0x1000, 2)] }
     (c.op 7).got = [(0x1000, (c.op 7).len)] ∧ ¬ (∃ g, g < 8 ∧ c.opOpen g = true ∧ c.get F.LONG_STAT_STATE g = 0) ∧ (c.op 7).rank + 1 < 2 ^ 64) ∧
    (∃ g, g < 8 ∧ (working 3 0 LongOp.cold).opOpen g = true ∧ (working 3 0 LongOp.cold).get F.LONG_STAT_STATE g = 0) ∧
    (working 3 2 { LongOp.cold with endedAt := some 5 }).opOfHandle 65535 = some 7 := by decide +kernel

theorem wit_fuses : managed.get F.FUSE_STAT_JTAG ≠ 3 ∧ (managed.put F.FUSE_STAT_JTAG 3).get F.FUSE_STAT_JTAG = 3 ∧
    managed.fuses.customer = none ∧ managed.fuses.wrap = none ∧ (List.replicate 48 (0 : Byte)).length = 48 ∧
    (List.replicate 32 (0 : Byte)).length = 32 ∧ ([] : List Byte).length < 2 := by decide +kernel

/-! ## Results that the spec works out -/

/-- 02_fabric_hierarchy.md, worked example of R41 and R42: lower, lower, hold, raise, hold. -/
theorem test_governor : (govern 912 760 0 0 18 26).request = some 755 ∧ (govern 901 755 0 0 18 26).request = some 750 ∧
    (govern 889 750 0 0 18 26).request = none ∧ (govern 871 750 0 0 18 26).request = some 760 ∧ (govern 885 760 0 0 18 26).request = none := by
  decide +kernel

/-- 02_fabric_hierarchy.md, worked example of R61 to R63. -/
theorem test_maps : (let c := (up.setWord .REGION_MAP 2 0 0x78543210).setWord .CELL_MAP 2 5 0x86A0
    c.physBlock 2 5 = 5 ∧ c.physMatrix 2 5 1 = 4 ∧ c.physMatrix 2 5 0 = 0 ∧ c.physBlock 2 6 = 8 ∧ c.physMatrix 2 8 3 = 3) := by
  decide +kernel

/-- 03_buffers_handles.md, worked example of shared-memory banks. -/
theorem test_shared_bank : sharedBank false 0x01234567 = 29 ∧ 0x01234567 / 64 / 128 = 2330 ∧ 0x01234567 % 64 = 39 := by decide +kernel

/-- 03_buffers_handles.md, worked example of R94 and R95: 133 present bytes, four granules. -/
theorem test_packed_page : (let els := [5, 0, 64, 12, 3, 0, 40, 9].flatMap (fun n => List.replicate n 1 ++ List.replicate (64 - n) 0)
    pagePresent false (packPage false 0 els) = 133 ∧ (packPage false 0 els).length = 256 ∧
      unpackPage false 0 (packPage false 0 els) = els) := by decide +kernel

/-- 05_image_conditioning.md, Table 5-3. -/
theorem test_seam : refGain 240 20 2048 52000 = 5038 ∧ shade 20 2048 5038 40000 = 182 ∧
    fillDefects [false, true, false] [180, 0, 182] = [180, 181, 182] ∧ (offsetLine 64 [170, 150, 148]).take 2 = [165, 150] ∧
    joinSegs [([182], 1), ([165], 0)] = [182, 174, 165] := by decide +kernel

/-- 06_record_decode.md, worked example of R190: 42,254,096 steps. -/
theorem test_decode_cost : decodeCost8 3 2480 3508 3 1203712 1 2 2 = 8 * 42254096 := by decide +kernel

/-- 07_numbers_quant.md, worked example of R208 to R213: M and SHIFT, the accumulator, the output code. -/
theorem test_requant : deriveM (3 / 128) 63 = (0x60000000, 36) ∧
    dotInt .int8 .int8 32 (-12) 0 (-2996) [17, 0xFB, 100, 3] [4, 0xFE, 1, 2] = -2752 ∧
    requantClamp .int8 (rnaDiv (-2752 * 1610612736) (2 ^ 36) + 5) (-128) 127 false = (0xC4, ⟨0, 0, 0, 0⟩) := by decide +kernel

/-- 07_numbers_quant.md, worked example of R216 to R219. -/
theorem test_dynamic_block : (let r := dynBlock .int8 300 (List.replicate 32 (fpOf .fp16 0xC248))
    r.1 = 0x2C000000C0490000 ∧ r.2.1 = List.replicate 32 0x80) := by decide +kernel

/-- 07_numbers_quant.md, worked example of R223. -/
theorem test_wide : wideCond ⟨0, 328, 1, 0⟩ 41 8192 = false ∧ wideCond ⟨0, 328, 1, 0⟩ 45 8192 = true := by decide +kernel

/-- 08_convolution.md, worked example of R235 to R237. -/
theorem test_padding : outSize 5 3 1 6 6 6 = 5 ∧ [(-6 : Int), 6, -4, 8, -2, 10].map (foldCoord 5) = [2, 2, 4, 0, 2, 2] ∧
    tapCoord 2 5 (-6) = some 0 ∧ tapCoord 2 5 10 = some 4 := by decide +kernel

/-- 09_attention_kv.md, worked example of R284 to R287: code 0x3C08. -/
theorem test_softmax : (softRow .e4m3 .fp16 (.num 1) 1 [
    (some (.num 3, [.num 2]) :: List.replicate 15 (some (.num 1, [.num (1 / 2)]))),
    (some (.num 6, [.num 1]) :: some (.num 4, [.num 3]) :: some (.num 3, [.num (-2)]) :: List.replicate 13 none)]).1 = [0x3C08] := by
  decide +kernel

/-- 10_text_grammar.md, worked example of R305 and R306. -/
theorem test_stop : (let stop : List (List Byte) := [[0xC2, 0xA7, 0xC2, 0xA7]]
    stopAt stop [0x54, 0x6F, 0x74, 0x61, 0x6C, 0x20, 0x39] = none ∧ utf8Tail [0x38, 0x20, 0xC2] = 1 ∧ stopTail stop [0x38, 0x20, 0xC2] = 1 ∧
    utf8Tail [0xC2, 0xA7] = 0 ∧ stopTail stop [0xC2, 0xA7] = 2 ∧ stopAt stop [0xC2, 0xA7, 0xC2, 0xA7, 0x78] = some 0) := by decide +kernel

/-- R436: one edge of PTP_REFCLK at RATE 0 is 8 ns. -/
theorem test_clock : (aft .ptpRefclkEdge up).clock.now = ⟨0, 8⟩ := by decide +kernel

/-- FIPS 180-4's example of SHA-384: the first 8 bytes of the hash of "abc". -/
theorem test_sha384 : (sha384 [0x61, 0x62, 0x63]).take 8 = [0xCB, 0x00, 0x75, 0x3F, 0x45, 0xA3, 0x5E, 0x8B] := by decide +kernel

/-- Table 16-18's caption gives the address; the table of commands gives no row a word. -/
theorem test_address : Reg.addr .BOOT_STAT 0 0 = 0x00100000 ∧ decodeTableWord 16 0 = none := by decide +kernel

end Sys2Proof.Tests
end

section
/-!
PROOFS. Signed register fields, what settling leaves of the registers of the time unit, the servo of a locked device,
the acquisition before first lock, and first lock itself.
-/

namespace Sys2Proof.Machine

/-! ## Signed fields -/

/-- A signed number that fits its field reads back. -/
theorem signedOf_toField {x : Int} {w : Nat} (hw : 0 < w) (lo : -(2 ^ (w - 1)) ≤ x) (hi : x < 2 ^ (w - 1)) :
    signedOf (toField x w % 2 ^ w) w = x := by
  obtain ⟨n, rfl⟩ : ∃ n, w = n + 1 := ⟨w - 1, by omega⟩
  have hp : (2 : Int) ^ (n + 1) = 2 * 2 ^ n := by ring
  have hn : (2 : Nat) ^ (n + 1) = 2 * 2 ^ n := by ring
  have hc : ((2 ^ n : Nat) : Int) = 2 ^ n := by push_cast; rfl
  have hpos := Nat.two_pow_pos n
  simp only [signedOf, toField, Nat.add_sub_cancel] at lo hi ⊢
  rw [hp, hn]
  generalize (2 : Int) ^ n = P at *
  subst hc
  generalize 2 ^ n = N at *
  rcases lt_or_ge x 0 with h | h
  · have e : x % (2 * N : Int) = x + 2 * N := by
      rw [← Int.add_emod_right, Int.emod_eq_of_lt (by omega) (by omega)]
    rw [e, Nat.mod_eq_of_lt (by omega)]
    split <;> omega
  · rw [Int.emod_eq_of_lt h (by omega), Nat.mod_eq_of_lt (by omega)]
    split <;> omega

/-- A signed field that was written. -/
theorem Chip.getS_putS_self (c : Chip) (f : Fld) (v : Int) (i j : Nat) (hr : f.reg.has i j = true) (h : f.lo + f.w ≤ 32)
    (hw : 0 < f.w) (lo : -(2 ^ (f.w - 1)) ≤ v) (hi : v < 2 ^ (f.w - 1)) : (c.putS f v i j).getS f i j = v := by
  unfold Chip.getS Chip.putS
  rw [Chip.get_put_self _ _ _ _ _ hr h, signedOf_toField hw lo hi]

theorem clampInt_mem {lo hi : Int} (h : lo ≤ hi) (x : Int) : lo ≤ clampInt lo hi x ∧ clampInt lo hi x ≤ hi := by
  unfold clampInt
  split
  · omega
  · split <;> omega

/-- The range of RATE and RI (R442, R443). -/
theorem clampRate_mem (x : Int) : -maxRate ≤ clampRate x ∧ clampRate x ≤ maxRate := clampInt_mem (by decide) x

/-- First lock's RATE is in range (R442). -/
theorem lockRate_mem (r dm dl : Int) : -maxRate ≤ lockRate r dm dl ∧ lockRate r dm dl ≤ maxRate := by
  unfold lockRate
  split <;> exact clampRate_mem _

/-- RATE holds every rate in range. -/
theorem Chip.rate_putS (c : Chip) {r : Int} (h : -maxRate ≤ r ∧ r ≤ maxRate) : (c.putS F.TIME_RATE_RATE r).rate = r := by
  obtain ⟨lo, hi⟩ := h
  unfold maxRate at lo hi
  exact Chip.getS_putS_self c _ r 0 0 (by decide) (by decide) (by decide) (by norm_num [F.TIME_RATE_RATE]; omega)
    (by norm_num [F.TIME_RATE_RATE]; omega)

/-- TIME_OFFSET holds the offset, saturated (R443). -/
theorem Chip.getS_putSat_offset (c : Chip) (o : Int) :
    (c.putSat F.TIME_OFFSET_OFFSET o).getS F.TIME_OFFSET_OFFSET = clampInt (-(2 ^ 31)) (2 ^ 31 - 1) o := by
  obtain ⟨lo, hi⟩ := clampInt_mem (lo := -(2 ^ 31)) (hi := 2 ^ 31 - 1) (by decide) o
  exact Chip.getS_putS_self c _ _ 0 0 (by decide) (by decide) (by decide) lo (Int.lt_of_le_sub_one hi)

/-- A field of another register instance than the signed one that was written. -/
theorem Chip.get_putS_ne (c : Chip) (f g : Fld) (v : Int) (i j i' j' : Nat) (h : g.reg.addr i' j' ≠ f.reg.addr i j) :
    (c.putS f v i j).get g i' j' = c.get g i' j' := Chip.get_put_ne _ _ _ _ _ _ _ _ h

theorem Chip.get_putB_ne (c : Chip) (f g : Fld) (b : Bool) (i j i' j' : Nat) (h : g.reg.addr i' j' ≠ f.reg.addr i j) :
    (c.putB f b i j).get g i' j' = c.get g i' j' := Chip.get_put_ne _ _ _ _ _ _ _ _ h

/-- Another field of the register instance whose one-bit field was written. -/
theorem Chip.get_putB_field (c : Chip) (f g : Fld) (b : Bool) (i j : Nat) (hg : g.reg = f.reg) (h : f.lo + f.w ≤ 32)
    (hd : g.lo + g.w ≤ f.lo ∨ f.lo + f.w ≤ g.lo) : (c.putB f b i j).get g i j = c.get g i j :=
  Chip.get_put_field _ _ _ _ _ _ hg h hd

theorem Chip.get_bump_ne (c : Chip) (f g : Fld) (i j n i' j' : Nat) (h : g.reg.addr i' j' ≠ f.reg.addr i j) :
    (c.bump f i j n).get g i' j' = c.get g i' j' := Chip.get_put_ne _ _ _ _ _ _ _ _ h

/-- A field depends on the registers alone. -/
theorem Chip.get_congr {a b : Chip} (h : a.regs = b.regs) (f : Fld) (i j : Nat) : a.get f i j = b.get f i j := by
  unfold Chip.get Chip.word
  rw [h]

theorem Chip.flag_congr {a b : Chip} {f : Fld} {i j : Nat} (h : a.get f i j = b.get f i j) : a.flag f i j = b.flag f i j := by
  unfold Chip.flag
  rw [h]

theorem Chip.getS_congr {a b : Chip} {f : Fld} {i j : Nat} (h : a.get f i j = b.get f i j) : a.getS f i j = b.getS f i j := by
  unfold Chip.getS
  rw [h]

theorem Chip.rate_congr {a b : Chip} (h : a.get F.TIME_RATE_RATE = b.get F.TIME_RATE_RATE) : a.rate = b.rate := Chip.getS_congr h

/-! ## What stays -/

/-- From `a` to `b` memories and everything of `Core` stay. -/
structure Chip.Steady (a b : Chip) : Prop extends Chip.Core a b where
  mem : b.mem = a.mem

theorem Chip.Steady.trans {a b c : Chip} (h : a.Steady b) (k : b.Steady c) : a.Steady c :=
  ⟨⟨k.image.trans h.image, k.clock.trans h.clock, k.fuses.trans h.fuses, k.flash.trans h.flash, k.boot.trans h.boot,
    k.mgmt.trans h.mgmt⟩, k.mem.trans h.mem⟩

theorem Chip.put_steady (c : Chip) (f : Fld) (v i j : Nat) : c.Steady (c.put f v i j) :=
  ⟨⟨rfl, rfl, rfl, rfl, rfl, rfl⟩, rfl⟩
theorem Chip.updServo_steady (c : Chip) (f : Servo → Servo) : c.Steady (c.updServo f) :=
  ⟨⟨rfl, rfl, rfl, rfl, rfl, rfl⟩, rfl⟩

/-- From `a` to `b` only registers, submission credits and formed records change. -/
structure Chip.Admits (a b : Chip) : Prop extends Chip.Steady a b where
  items : b.items = a.items
  servo : b.servo = a.servo

theorem Chip.Admits.refl (a : Chip) : a.Admits a := ⟨⟨⟨rfl, rfl, rfl, rfl, rfl, rfl⟩, rfl⟩, rfl, rfl⟩

theorem Chip.Admits.trans {a b c : Chip} (h : a.Admits b) (k : b.Admits c) : a.Admits c :=
  ⟨h.toSteady.trans k.toSteady, k.items.trans h.items, k.servo.trans h.servo⟩

theorem Chip.put_admits (c : Chip) (f : Fld) (v i j : Nat) : c.Admits (c.put f v i j) := ⟨c.put_steady f v i j, rfl, rfl⟩

theorem Calm.admits {a b : Chip} (h : Calm a b) : a.Admits b :=
  ⟨⟨⟨h.image, h.clock, h.fuses, h.flash, h.boot, h.mgmt⟩, h.mem⟩, h.items, h.servo⟩

/-- Settling is part of what admission may change. -/
theorem Chip.settle_admits (c : Chip) : c.Admits c.settle := c.settle_calm.admits

/-! ## Settling and the time unit -/

/-- The registers of the time unit, TIME_CTRL at 0xE1000 and on (Table 17-10), and those above them are no HOLD_STAT. -/
theorem Chip.settle_get_time (c : Chip) (f : Fld) {i j : Nat} (h : 0xE1000 ≤ f.reg.addr i j) :
    c.settle.get f i j = c.get f i j := by
  refine Chip.settle_get c f i j (fun k hk => ?_)
  generalize f.reg.addr i j = a at *
  simp only [Reg.addr, Reg.info]
  omega

theorem Chip.settle_flag_time (c : Chip) (f : Fld) {i j : Nat} (h : 0xE1000 ≤ f.reg.addr i j) :
    c.settle.flag f i j = c.flag f i j := Chip.flag_congr (Chip.settle_get_time _ _ h)

@[simp] theorem Chip.settle_rate (c : Chip) : c.settle.rate = c.rate := Chip.rate_congr (Chip.settle_get_time _ _ (by decide))

/-! ## The alarm -/

@[simp] theorem Chip.updServo_servo (c : Chip) (f : Servo → Servo) : (c.updServo f).servo = f c.servo := rfl

/-- An update of one item after another is one update of the items. -/
theorem Chip.foldl_modItem (f : Item → Item) (l : List Nat) (c : Chip) :
    ∃ g, l.foldl (fun c n => c.modItem n f) c = c.updItems g := by
  induction l generalizing c with
  | nil => exact ⟨id, rfl⟩
  | cons n l ih =>
    obtain ⟨g, hg⟩ := ih (c.modItem n f)
    exact ⟨fun _ => g (c.modItem n f).items, hg⟩

theorem Chip.flagDegraded_items (c : Chip) : ∃ g, c.flagDegraded = c.updItems g := Chip.foldl_modItem _ _ _

@[simp] theorem Chip.flagDegraded_get (c : Chip) (f : Fld) (i j : Nat) : c.flagDegraded.get f i j = c.get f i j := by
  obtain ⟨g, hg⟩ := c.flagDegraded_items
  rw [hg, Chip.updItems_get]

@[simp] theorem Chip.flagDegraded_servo (c : Chip) : c.flagDegraded.servo = c.servo := by
  obtain ⟨g, hg⟩ := c.flagDegraded_items
  rw [hg, Chip.updItems_servo]

theorem Chip.flagDegraded_steady (c : Chip) : c.Steady c.flagDegraded := by
  obtain ⟨g, hg⟩ := c.flagDegraded_items
  rw [hg]
  exact ⟨⟨rfl, rfl, rfl, rfl, rfl, rfl⟩, rfl⟩

/-- A raise of the alarm before ALARM itself: the count of good Syncs starts again, TIME_STAT.STATE is 3. -/
def Chip.alarming (c : Chip) : Chip := (c.updServo (fun s => { s with good := 0 })).put F.TIME_STAT_STATE 3

theorem Chip.raiseAlarm_eq (c : Chip) : c.raiseAlarm = if c.alarming.flag F.TIME_STAT_ALARM = true then c.alarming
    else ((c.alarming.putB F.TIME_STAT_ALARM true).bump F.TIME_CNT_ALARMS).flagDegraded := rfl

theorem Chip.alarming_get (c : Chip) (f : Fld) (i j : Nat) (hs : f.reg.addr i j ≠ Reg.addr .TIME_STAT 0 0) :
    c.alarming.get f i j = c.get f i j := by
  rw [Chip.alarming, Chip.get_put_ne _ _ _ _ _ _ _ _ hs, Chip.updServo_get]

theorem Chip.alarming_state (c : Chip) : c.alarming.get F.TIME_STAT_STATE = 3 :=
  Chip.get_put_self _ _ _ _ _ (by decide) (by decide)

theorem Chip.alarming_ri (c : Chip) : c.alarming.servo.ri = c.servo.ri := by
  rw [Chip.alarming, Chip.put_servo, Chip.updServo_servo]

theorem Chip.alarming_steady (c : Chip) : c.Steady c.alarming := (c.updServo_steady _).trans (Chip.put_steady _ _ _ _ _)

/-- TIME_STAT and TIME_CNT apart, a raise of the alarm leaves the registers. -/
theorem Chip.raiseAlarm_get (c : Chip) (f : Fld) (i j : Nat) (hs : f.reg.addr i j ≠ Reg.addr .TIME_STAT 0 0)
    (hc : f.reg.addr i j ≠ Reg.addr .TIME_CNT 0 0) : c.raiseAlarm.get f i j = c.get f i j := by
  rw [Chip.raiseAlarm_eq]
  split
  · exact c.alarming_get f i j hs
  · rw [Chip.flagDegraded_get, Chip.get_bump_ne _ _ _ _ _ _ _ _ hc, Chip.get_putB_ne _ _ _ _ _ _ _ _ hs,
      Chip.alarming_get _ _ _ _ hs]

theorem Chip.raiseAlarm_steady (c : Chip) : c.Steady c.raiseAlarm := by
  rw [Chip.raiseAlarm_eq]
  split
  · exact c.alarming_steady
  · exact ((c.alarming_steady.trans (Chip.put_steady _ _ _ _ _)).trans (Chip.put_steady _ _ _ _ _)).trans
      (Chip.flagDegraded_steady _)

theorem Chip.raiseAlarm_ri (c : Chip) : c.raiseAlarm.servo.ri = c.servo.ri := by
  rw [Chip.raiseAlarm_eq]
  split
  · exact c.alarming_ri
  · rw [Chip.flagDegraded_servo, Chip.bump_servo, Chip.putB_servo, Chip.alarming_ri]

/-- The alarm is raised, and TIME_STAT.STATE is 3 (R444). -/
theorem Chip.raiseAlarm_stat (c : Chip) :
    c.raiseAlarm.flag F.TIME_STAT_ALARM = true ∧ c.raiseAlarm.get F.TIME_STAT_STATE = 3 := by
  rw [Chip.raiseAlarm_eq]
  split
  · next h => exact ⟨h, c.alarming_state⟩
  · have hd : ∀ g : Fld, g.reg = .TIME_STAT →
        ((c.alarming.putB F.TIME_STAT_ALARM true).bump F.TIME_CNT_ALARMS).flagDegraded.get g =
          (c.alarming.putB F.TIME_STAT_ALARM true).get g := by
      intro g hg
      rw [Chip.flagDegraded_get, Chip.get_bump_ne _ _ _ _ _ _ _ _ (by rw [hg]; decide)]
    constructor
    · unfold Chip.flag
      rw [hd _ rfl]
      exact Chip.flag_putB_self _ F.TIME_STAT_ALARM true 0 0 (by decide) (by decide) rfl
    · rw [hd _ rfl, Chip.get_putB_field _ F.TIME_STAT_ALARM F.TIME_STAT_STATE _ _ _ rfl (by decide) (by decide),
        Chip.alarming_state]

/-! ## The servo of a locked device -/

theorem servoStep_rate_mem (e ri si slew kp ki : Int) :
    -maxRate ≤ (servoStep e ri si slew kp ki).2 ∧ (servoStep e ri si slew kp ki).2 ≤ maxRate := by
  unfold servoStep
  split <;> exact clampRate_mem _

/-- The servo's new RI and RATE for an offset from the master `e`, at the device's limits and gains. -/
def Chip.servoOut (c : Chip) (e : Int) (si : Nat) : Int × Int :=
  servoStep e c.servo.ri si (actsAs (c.get F.TIME_LIM_SLEW_NS) 1) (c.get F.TIME_SERVO_KP) (c.get F.TIME_SERVO_KI)

/-- Beyond SLEW_NS the offset is slewed away over one Sync interval and RI stays (R443). -/
theorem Chip.servoOut_slew (c : Chip) {e : Int} {si : Nat} (h : |e| > actsAs (c.get F.TIME_LIM_SLEW_NS) 1) (hs : 0 < si) :
    c.servoOut e si = (c.servo.ri, clampRate (c.servo.ri + rnaDiv (e * 2 ^ 32) si)) := by
  unfold Chip.servoOut servoStep
  rw [if_pos h, if_neg (by omega), Int.toNat_natCast]

/-- Within SLEW_NS the integral and proportional terms act (R443). -/
theorem Chip.servoOut_track (c : Chip) {e : Int} {si : Nat} (h : |e| ≤ actsAs (c.get F.TIME_LIM_SLEW_NS) 1) :
    let ri := clampRate (c.servo.ri + rnaDiv (e * c.get F.TIME_SERVO_KI) 256)
    c.servoOut e si = (ri, clampRate (ri + rnaDiv (e * c.get F.TIME_SERVO_KP) 256)) := by
  unfold Chip.servoOut servoStep
  rw [if_neg (not_lt.mpr h)]

/-- RI and RATE are set. -/
def Chip.steer (c : Chip) (p : Int × Int) : Chip := (c.updServo (fun s => { s with ri := p.1 })).putS F.TIME_RATE_RATE p.2

/-- One more Sync within half of TDEG in succession. -/
def Chip.tally (c : Chip) : Chip := c.updServo (fun s => { s with good := c.servo.good + 1 })

/-- The alarm is cleared (R444). -/
def Chip.clearAlarm (c : Chip) : Chip :=
  ((c.putB F.TIME_STAT_ALARM false).putB F.TIME_STAT_HOLDOVER false).put F.TIME_STAT_STATE 2

/-- The alarm after a Sync (R444). -/
def Chip.watch (c : Chip) (e tdeg : Int) : Chip :=
  if |e| > tdeg then c.raiseAlarm
  else if 2 * |e| ≤ tdeg then
    if c.tally.flag F.TIME_STAT_ALARM = true ∧ c.servo.good + 1 ≥ 16 then c.tally.clearAlarm else c.tally
  else c.updServo (fun s => { s with good := 0 })

/-- A Sync of a locked device steers the clock, then watches the alarm. -/
theorem Chip.servoSync_eq (c : Chip) (e : Int) (si : Nat) :
    c.servoSync e si = (c.steer (c.servoOut e si)).watch e (actsAs (c.get F.TIME_LIM_TDEG_NS) 1) := by
  unfold Chip.servoSync Chip.servoOut
  dsimp only
  rw [← Chip.steer]
  generalize c.steer _ = b
  rfl

@[simp] theorem Chip.steer_servo (c : Chip) (p : Int × Int) : (c.steer p).servo = { c.servo with ri := p.1 } := rfl

theorem Chip.steer_rate (c : Chip) (e : Int) (si : Nat) : (c.steer (c.servoOut e si)).rate = (c.servoOut e si).2 :=
  Chip.rate_putS _ (servoStep_rate_mem _ _ _ _ _ _)

theorem Chip.steer_get (c : Chip) (p : Int × Int) (f : Fld) (i j : Nat) (h : f.reg.addr i j ≠ Reg.addr .TIME_RATE 0 0) :
    (c.steer p).get f i j = c.get f i j := Chip.get_put_ne _ _ _ _ _ _ _ _ h

theorem Chip.tally_steady (c : Chip) : c.Steady c.tally := c.updServo_steady _

theorem Chip.clearAlarm_steady (c : Chip) : c.Steady c.clearAlarm :=
  ((Chip.put_steady _ _ _ _ _).trans (Chip.put_steady _ _ _ _ _)).trans (Chip.put_steady _ _ _ _ _)

@[simp] theorem Chip.clearAlarm_servo (c : Chip) : c.clearAlarm.servo = c.servo := by
  rw [Chip.clearAlarm, Chip.put_servo, Chip.putB_servo, Chip.putB_servo]

theorem Chip.clearAlarm_get (c : Chip) (f : Fld) (i j : Nat) (hs : f.reg.addr i j ≠ Reg.addr .TIME_STAT 0 0) :
    c.clearAlarm.get f i j = c.get f i j := by
  rw [Chip.clearAlarm, Chip.get_put_ne _ _ _ _ _ _ _ _ hs, Chip.get_putB_ne _ _ _ _ _ _ _ _ hs,
    Chip.get_putB_ne _ _ _ _ _ _ _ _ hs]

theorem Chip.clearAlarm_stat (c : Chip) :
    c.clearAlarm.flag F.TIME_STAT_ALARM = false ∧ c.clearAlarm.get F.TIME_STAT_STATE = 2 := by
  refine ⟨?_, Chip.get_put_self _ _ _ _ _ (by decide) (by decide)⟩
  unfold Chip.clearAlarm Chip.flag
  rw [Chip.get_put_field _ F.TIME_STAT_STATE F.TIME_STAT_ALARM _ _ _ rfl (by decide) (by decide),
    Chip.get_putB_field _ F.TIME_STAT_HOLDOVER F.TIME_STAT_ALARM _ _ _ rfl (by decide) (by decide)]
  exact Chip.flag_putB_self _ F.TIME_STAT_ALARM false 0 0 (by decide) (by decide) rfl

theorem Chip.watch_steady (c : Chip) (e tdeg : Int) : c.Steady (c.watch e tdeg) := by
  unfold Chip.watch
  split
  · exact c.raiseAlarm_steady
  · split
    · split
      · exact c.tally_steady.trans c.tally.clearAlarm_steady
      · exact c.tally_steady
    · exact c.updServo_steady _

theorem Chip.watch_ri (c : Chip) (e tdeg : Int) : (c.watch e tdeg).servo.ri = c.servo.ri := by
  unfold Chip.watch
  split
  · exact c.raiseAlarm_ri
  · split
    · split
      · rw [Chip.clearAlarm_servo, Chip.tally, Chip.updServo_servo]
      · rw [Chip.tally, Chip.updServo_servo]
    · rw [Chip.updServo_servo]

/-- TIME_STAT and TIME_CNT apart, the watch leaves the registers. -/
theorem Chip.watch_get (c : Chip) (e tdeg : Int) (f : Fld) (i j : Nat) (hs : f.reg.addr i j ≠ Reg.addr .TIME_STAT 0 0)
    (hc : f.reg.addr i j ≠ Reg.addr .TIME_CNT 0 0) : (c.watch e tdeg).get f i j = c.get f i j := by
  unfold Chip.watch
  split
  · exact c.raiseAlarm_get f i j hs hc
  · split
    · split
      · rw [Chip.clearAlarm_get _ _ _ _ hs, Chip.tally, Chip.updServo_get]
      · rw [Chip.tally, Chip.updServo_get]
    · rw [Chip.updServo_get]

theorem Chip.watch_rate (c : Chip) (e tdeg : Int) : (c.watch e tdeg).rate = c.rate :=
  Chip.rate_congr (Chip.watch_get _ _ _ _ _ _ (by decide) (by decide))

/-- Beyond TDEG the alarm is raised (R444). -/
theorem Chip.watch_late (c : Chip) {e tdeg : Int} (h : |e| > tdeg) : c.watch e tdeg = c.raiseAlarm := if_pos h

/-- Within half of TDEG a Sync counts, and the sixteenth in succession clears the alarm (R444). -/
theorem Chip.watch_good (c : Chip) {e tdeg : Int} (h : 2 * |e| ≤ tdeg) (ha : c.flag F.TIME_STAT_ALARM = true) :
    c.watch e tdeg = if 15 ≤ c.servo.good then c.tally.clearAlarm else c.tally := by
  have hl : ¬ |e| > tdeg := by have := abs_nonneg e; omega
  have ht : c.tally.flag F.TIME_STAT_ALARM = true := ha
  unfold Chip.watch
  rw [if_neg hl, if_pos h]
  exact if_congr (by simp only [ht, true_and]; omega) rfl rfl

theorem Chip.watch_clears (c : Chip) {e tdeg : Int} (h : 2 * |e| ≤ tdeg) (ha : c.flag F.TIME_STAT_ALARM = true)
    (hg : 15 ≤ c.servo.good) :
    (c.watch e tdeg).flag F.TIME_STAT_ALARM = false ∧ (c.watch e tdeg).get F.TIME_STAT_STATE = 2 := by
  rw [c.watch_good h ha, if_pos hg]
  exact c.tally.clearAlarm_stat

theorem Chip.watch_counts (c : Chip) {e tdeg : Int} (h : 2 * |e| ≤ tdeg) (ha : c.flag F.TIME_STAT_ALARM = true)
    (hg : c.servo.good < 15) :
    (c.watch e tdeg).flag F.TIME_STAT_ALARM = true ∧ (c.watch e tdeg).servo.good = c.servo.good + 1 := by
  rw [c.watch_good h ha, if_neg (by omega)]
  exact ⟨ha, rfl⟩

theorem Chip.servoSync_steady (c : Chip) (e : Int) (si : Nat) : c.Steady (c.servoSync e si) := by
  rw [Chip.servoSync_eq]
  exact ((c.updServo_steady _).trans (Chip.put_steady _ _ _ _ _)).trans (Chip.watch_steady _ _ _)

theorem Chip.servoSync_ri (c : Chip) (e : Int) (si : Nat) : (c.servoSync e si).servo.ri = (c.servoOut e si).1 := by
  rw [Chip.servoSync_eq, Chip.watch_ri, Chip.steer_servo]

theorem Chip.servoSync_rate (c : Chip) (e : Int) (si : Nat) : (c.servoSync e si).rate = (c.servoOut e si).2 := by
  rw [Chip.servoSync_eq, Chip.watch_rate, Chip.steer_rate]

/-! ## Syncs before first lock -/

/-- Before first lock, with no step due, every Sync is collected (R442). -/
theorem Chip.acquireSync_syncs (c : Chip) (m l o : Int) (h : c.servo.stepDue = none) :
    (c.acquireSync m l o).servo.syncs = c.servo.syncs ++ [(m, l, o)] := by
  unfold Chip.acquireSync
  rw [h, if_neg (by decide)]
  generalize c.servo.syncs ++ [(m, l, o)] = syncs
  dsimp only
  split
  · rfl
  · rfl

theorem Chip.acquireSync_steady (c : Chip) (m l o : Int) : c.Steady (c.acquireSync m l o) := by
  unfold Chip.acquireSync
  generalize c.servo.syncs ++ [(m, l, o)] = syncs
  dsimp only
  split
  · exact ⟨⟨rfl, rfl, rfl, rfl, rfl, rfl⟩, rfl⟩
  · split
    · exact ((c.updServo_steady _).trans (Chip.put_steady _ _ _ _ _)).trans (Chip.updServo_steady _ _)
    · exact c.updServo_steady _

@[simp] theorem Chip.acquireSync_items (c : Chip) (m l o : Int) : (c.acquireSync m l o).items = c.items := by
  unfold Chip.acquireSync
  generalize c.servo.syncs ++ [(m, l, o)] = syncs
  dsimp only
  split
  · rfl
  · split
    · rfl
    · rfl

/-- The first three Syncs are only collected (R442). -/
theorem Chip.acquireSync_few (c : Chip) (m l o : Int) (h : c.servo.stepDue = none) (hl : c.servo.syncs.length < 3) :
    c.acquireSync m l o = c.updServo (fun s => { s with syncs := c.servo.syncs ++ [(m, l, o)] }) := by
  unfold Chip.acquireSync
  rw [h, if_neg (by decide)]
  generalize hs : c.servo.syncs ++ [(m, l, o)] = syncs
  have hlen : syncs.length < 4 := by rw [← hs, List.length_append]; exact Nat.succ_lt_succ hl
  dsimp only
  split
  · simp only [List.length_cons] at hlen
    omega
  · rfl

/-- The fourth gives RATE and makes the step due (R442). -/
theorem Chip.acquireSync_fourth (c : Chip) (m l o m1 l1 o1 : Int) (x y : Int × Int × Int) (h : c.servo.stepDue = none)
    (hs : c.servo.syncs = [(m1, l1, o1), x, y]) : (c.acquireSync m l o).servo.stepDue = some (o, l) ∧
      (c.acquireSync m l o).rate = lockRate c.rate (m - m1) (l - l1) ∧
      (c.acquireSync m l o).servo.ri = (c.acquireSync m l o).rate := by
  have hr : (c.acquireSync m l o).rate = lockRate c.rate (m - m1) (l - l1) := by
    unfold Chip.acquireSync
    rw [h, hs]
    exact Chip.rate_putS _ (lockRate_mem _ _ _)
  refine ⟨?_, hr, hr ▸ ?_⟩
  · unfold Chip.acquireSync
    rw [h, hs]
    rfl
  · unfold Chip.acquireSync
    rw [h, hs]
    rfl

/-! ## SYNC_RECEIVED -/

/-- A Sync of a port that is not the source, or before a path delay is known, is dropped (R441). -/
theorem Chip.sync_dropped (c : Chip) (w : SyncIn) (h : c.source ≠ some w.port.val ∨ c.pathDelay w.port.val = none) :
    c.sync w = c := by
  unfold Chip.sync
  split
  · rfl
  · next hs =>
    rw [h.resolve_left hs]

/-- The offset of a Sync is shown in TIME_OFFSET. -/
def Chip.showOffset (c : Chip) (o : Int) : Chip := c.putSat F.TIME_OFFSET_OFFSET o

@[simp] theorem Chip.showOffset_servo (c : Chip) (o : Int) : (c.showOffset o).servo = c.servo := rfl
@[simp] theorem Chip.showOffset_items (c : Chip) (o : Int) : (c.showOffset o).items = c.items := rfl
theorem Chip.showOffset_steady (c : Chip) (o : Int) : c.Steady (c.showOffset o) := Chip.put_steady _ _ _ _ _

theorem Chip.showOffset_get (c : Chip) (o : Int) (f : Fld) (i j : Nat) (h : f.reg.addr i j ≠ Reg.addr .TIME_OFFSET 0 0) :
    (c.showOffset o).get f i j = c.get f i j := Chip.get_putS_ne _ _ _ _ _ _ _ _ h

theorem Chip.showOffset_rate (c : Chip) (o : Int) : (c.showOffset o).rate = c.rate :=
  Chip.rate_congr (Chip.showOffset_get _ _ _ _ _ (by decide))

theorem Chip.showOffset_servoOut (c : Chip) (o e : Int) (si : Nat) : (c.showOffset o).servoOut e si = c.servoOut e si := by
  unfold Chip.servoOut
  rw [Chip.showOffset_get _ _ F.TIME_LIM_SLEW_NS _ _ (by decide), Chip.showOffset_get _ _ F.TIME_SERVO_KP _ _ (by decide),
    Chip.showOffset_get _ _ F.TIME_SERVO_KI _ _ (by decide), Chip.showOffset_servo]

/-- A Sync that counts: the offset is shown, then the servo or the acquisition takes it (R441). -/
theorem Chip.sync_taken (c : Chip) (w : SyncIn) {d m l : Int} (hs : c.source = some w.port.val)
    (hd : c.pathDelay w.port.val = some d) (hm : m = Stamp.toNs w.origin + w.correction + d) (hl : l = Stamp.toNs w.rx) :
    c.sync w = if c.locked = true then (c.showOffset (-(m - l))).servoSync (m - l) w.interval
      else (c.showOffset (-(m - l))).acquireSync m l (-(m - l)) := by
  have hb : (c.showOffset (l - m)).locked = c.locked := Chip.flag_congr (Chip.showOffset_get _ _ _ _ _ (by decide))
  unfold Chip.sync
  rw [if_neg (not_not.mpr hs), hd]
  simp only [← hm, ← hl, neg_sub]
  rw [← Chip.showOffset, hb]

/-- What a Sync with offset from the master `e` leaves of a locked device (R443, R444). -/
structure Chip.Steered (c t : Chip) (e : Int) (si : Nat) : Prop extends Chip.Steady c t where
  offset : t.getS F.TIME_OFFSET_OFFSET = clampInt (-(2 ^ 31)) (2 ^ 31 - 1) (-e)
  ri : t.servo.ri = (c.servoOut e si).1
  rate : t.rate = (c.servoOut e si).2
  late : |e| > actsAs (c.get F.TIME_LIM_TDEG_NS) 1 → t.flag F.TIME_STAT_ALARM = true ∧ t.get F.TIME_STAT_STATE = 3
  clears : 2 * |e| ≤ actsAs (c.get F.TIME_LIM_TDEG_NS) 1 → c.flag F.TIME_STAT_ALARM = true → 15 ≤ c.servo.good →
    t.flag F.TIME_STAT_ALARM = false ∧ t.get F.TIME_STAT_STATE = 2
  counts : 2 * |e| ≤ actsAs (c.get F.TIME_LIM_TDEG_NS) 1 → c.flag F.TIME_STAT_ALARM = true → c.servo.good < 15 →
    t.flag F.TIME_STAT_ALARM = true ∧ t.servo.good = c.servo.good + 1

theorem Chip.showOffset_servoSync_steered (c : Chip) (e : Int) (si : Nat) :
    c.Steered ((c.showOffset (-e)).servoSync e si) e si := by
  have hsteady := (c.showOffset_steady (-e)).trans (Chip.servoSync_steady _ e si)
  have hri := Chip.servoSync_ri (c.showOffset (-e)) e si
  have hrate := Chip.servoSync_rate (c.showOffset (-e)) e si
  rw [Chip.showOffset_servoOut] at hri hrate
  have hget : ∀ p : Int × Int, ∀ f : Fld, f.reg.addr 0 0 ≠ Reg.addr .TIME_RATE 0 0 →
      f.reg.addr 0 0 ≠ Reg.addr .TIME_OFFSET 0 0 → ((c.showOffset (-e)).steer p).get f = c.get f :=
    fun p f h h' => by rw [Chip.steer_get _ _ _ _ _ h, Chip.showOffset_get _ _ _ _ _ h']
  have halarm : ∀ p, ((c.showOffset (-e)).steer p).flag F.TIME_STAT_ALARM = c.flag F.TIME_STAT_ALARM :=
    fun p => Chip.flag_congr (hget p _ (by decide) (by decide))
  have htdeg : (c.showOffset (-e)).get F.TIME_LIM_TDEG_NS = c.get F.TIME_LIM_TDEG_NS :=
    Chip.showOffset_get _ _ _ _ _ (by decide)
  have heq := Chip.servoSync_eq (c.showOffset (-e)) e si
  rw [htdeg] at heq
  exact {
    toSteady := hsteady
    ri := hri
    rate := hrate
    offset := by
      rw [heq, Chip.getS_congr (Chip.watch_get _ _ _ _ _ _ (by decide) (by decide)),
        Chip.getS_congr (Chip.steer_get _ _ _ _ _ (by decide))]
      exact Chip.getS_putSat_offset c (-e)
    late := fun h => by
      rw [heq, Chip.watch_late _ h]
      exact Chip.raiseAlarm_stat _
    clears := fun h ha hg => by
      rw [heq]
      exact Chip.watch_clears _ h ((halarm _).trans ha) hg
    counts := fun h ha hg => by
      rw [heq]
      exact Chip.watch_counts _ h ((halarm _).trans ha) hg }

theorem Chip.Steered.settle {c t : Chip} {e : Int} {si : Nat} (h : c.Steered t e si) : c.Steered t.settle e si where
  toSteady := h.toSteady.trans t.settle_admits.toSteady
  offset := (Chip.getS_congr (Chip.settle_get_time _ _ (by decide))).trans h.offset
  ri := by rw [Chip.settle_servo, h.ri]
  rate := by rw [Chip.settle_rate, h.rate]
  late := by rw [Chip.settle_flag_time _ _ (by decide), Chip.settle_get_time _ _ (by decide)]; exact h.late
  clears := by rw [Chip.settle_flag_time _ _ (by decide), Chip.settle_get_time _ _ (by decide)]; exact h.clears
  counts := by rw [Chip.settle_flag_time _ _ (by decide), Chip.settle_servo]; exact h.counts

/-- What a Sync leaves of a device before first lock that has no step due: the master's time `m` and the local time `l` are
collected with their offset `o`, and the fourth gives RATE (R442). -/
structure Chip.Acquired (c t : Chip) (m l o : Int) : Prop extends Chip.Steady c t where
  items : t.items = c.items
  syncs : t.servo.syncs = c.servo.syncs ++ [(m, l, o)]
  few : c.servo.syncs.length < 3 → t.rate = c.rate ∧ t.servo.stepDue = none
  fourth : ∀ m1 l1 o1 x y, c.servo.syncs = [(m1, l1, o1), x, y] → t.servo.stepDue = some (o, l) ∧
    t.rate = lockRate c.rate (m - m1) (l - l1) ∧ t.servo.ri = t.rate

theorem Chip.showOffset_acquireSync_acquired (c : Chip) (m l o : Int) (hdue : c.servo.stepDue = none) :
    c.Acquired ((c.showOffset o).acquireSync m l o) m l o where
  toSteady := (c.showOffset_steady o).trans (Chip.acquireSync_steady _ m l o)
  items := by rw [Chip.acquireSync_items, Chip.showOffset_items]
  syncs := Chip.acquireSync_syncs _ m l o hdue
  few := fun h => by
    rw [Chip.acquireSync_few (c.showOffset o) m l o hdue h]
    exact ⟨c.showOffset_rate o, hdue⟩
  fourth := fun m1 l1 o1 x y h => by
    rw [← c.showOffset_rate o]
    exact Chip.acquireSync_fourth _ m l o m1 l1 o1 x y hdue h

theorem Chip.Acquired.settle {c t : Chip} {m l o : Int} (h : c.Acquired t m l o) : c.Acquired t.settle m l o where
  toSteady := h.toSteady.trans t.settle_admits.toSteady
  items := by rw [Chip.settle_items, h.items]
  syncs := by rw [Chip.settle_servo, h.syncs]
  few := by rw [Chip.settle_rate, Chip.settle_servo]; exact h.few
  fourth := by rw [Chip.settle_rate, Chip.settle_servo]; exact h.fourth

/-- A Sync of a locked device steers it (R443, R444). -/
theorem Chip.sync_steers (c : Chip) (w : SyncIn) {d : Int} (hs : c.source = some w.port.val)
    (hd : c.pathDelay w.port.val = some d) (hl : c.locked = true) :
    c.Steered (c.sync w) (Stamp.toNs w.origin + w.correction + d - Stamp.toNs w.rx) w.interval := by
  rw [c.sync_taken w hs hd rfl rfl, if_pos hl]
  exact Chip.showOffset_servoSync_steered _ _ _

/-- A Sync before first lock is collected (R442). -/
theorem Chip.sync_acquires (c : Chip) (w : SyncIn) {d : Int} (hs : c.source = some w.port.val)
    (hd : c.pathDelay w.port.val = some d) (hl : c.locked = false) (hdue : c.servo.stepDue = none) :
    c.Acquired (c.sync w) (Stamp.toNs w.origin + w.correction + d) (Stamp.toNs w.rx)
      (-(Stamp.toNs w.origin + w.correction + d - Stamp.toNs w.rx)) := by
  rw [c.sync_taken w hs hd rfl rfl, if_neg (by rw [hl]; decide)]
  exact Chip.showOffset_acquireSync_acquired _ _ _ _ hdue

/-! ## Admission at first lock -/

/-- A credit that is granted is no register. -/
theorem Chip.grant_get (c : Chip) (k : Nat) (f : Fld) (i j : Nat) : (c.grant k).get f i j = c.get f i j := by
  refine Chip.get_congr ?_ f i j
  unfold Chip.grant
  extract_lets x g d
  split
  · rfl
  · split
    · rfl
    · rfl

/-- What waits for first lock, its field `f` at 2, is ENABLED, 3; `post` follows it. -/
def Chip.promote (f : Fld) (post : Chip → Nat → Chip) (c : Chip) (n : Nat) : Chip :=
  if c.get f n = 2 then post (c.put f 3 n) n else c

section
variable {f : Fld} {post : Chip → Nat → Chip}

theorem Chip.promote_admits (hp : ∀ c n, Chip.Admits c (post c n)) (c : Chip) (n : Nat) : c.Admits (c.promote f post n) := by
  unfold Chip.promote
  split
  · exact (c.put_admits _ _ _ _).trans (hp _ _)
  · exact Chip.Admits.refl c

theorem Chip.foldl_promote_admits (hp : ∀ c n, Chip.Admits c (post c n)) (l : List Nat) (c : Chip) :
    c.Admits (l.foldl (Chip.promote f post) c) := by
  induction l generalizing c with
  | nil => exact Chip.Admits.refl c
  | cons n l ih => exact (Chip.promote_admits hp c n).trans (ih _)

variable (hp : ∀ c n (g : Fld) i j, (post c n).get g i j = c.get g i j)
include hp

theorem Chip.promote_get_ne (c : Chip) (n : Nat) (g : Fld) (i j : Nat) (h : g.reg.addr i j ≠ f.reg.addr n 0) :
    (c.promote f post n).get g i j = c.get g i j := by
  unfold Chip.promote
  split
  · rw [hp, Chip.get_put_ne _ _ _ _ _ _ _ _ h]
  · rfl

/-- Other registers stay. -/
theorem Chip.foldl_promote_get_ne (g : Fld) (i j : Nat) (l : List Nat) (c : Chip)
    (h : ∀ n ∈ l, g.reg.addr i j ≠ f.reg.addr n 0) : (l.foldl (Chip.promote f post) c).get g i j = c.get g i j := by
  induction l generalizing c with
  | nil => rfl
  | cons n l ih =>
    rw [List.foldl_cons, ih _ (fun k hk => h k (List.mem_cons_of_mem _ hk)),
      Chip.promote_get_ne hp _ _ _ _ _ (h n List.mem_cons_self)]

/-- What is ENABLED stays so, and what waits and is reached becomes so, when no two instances share an address. -/
theorem Chip.foldl_promote_state (hf : f.lo + f.w ≤ 32) (h3 : 3 < 2 ^ f.w) (m : Nat) (hm : f.reg.has m 0 = true)
    (ha : ∀ n, n ≠ m → f.reg.addr m 0 ≠ f.reg.addr n 0) (l : List Nat) (c : Chip)
    (h : c.get f m = 3 ∨ m ∈ l ∧ c.get f m = 2) : (l.foldl (Chip.promote f post) c).get f m = 3 := by
  induction l generalizing c with
  | nil => exact h.resolve_right (fun x => List.not_mem_nil x.1)
  | cons n l ih =>
    refine ih _ ?_
    by_cases hn : n = m
    · subst hn
      left
      unfold Chip.promote
      split
      · rw [hp, Chip.get_put_self _ _ _ _ _ hm hf, Nat.mod_eq_of_lt h3]
      · next h2 => exact h.resolve_right (fun x => h2 x.2)
    · rw [Chip.promote_get_ne hp _ _ _ _ _ (ha n hn)]
      exact h.imp_right (fun x => ⟨(List.mem_cons.1 x.1).resolve_left (Ne.symm hn), x.2⟩)

end

/-- What first lock brings to streams and submitting sessions that wait for it (R24, R170). -/
def Chip.admitAll (c : Chip) : Chip := foldN 32 (Chip.promote F.SUB_CFG_STATE Chip.grant) c.lockStreams

theorem Chip.lockStreams_eq (c : Chip) :
    c.lockStreams = (List.range 16).foldl (Chip.promote F.SNS_STATE_STATE (fun c _ => c)) c := rfl

theorem Chip.admitAll_admits (c : Chip) : c.Admits c.admitAll :=
  (Chip.foldl_promote_admits (fun c _ => Chip.Admits.refl c) _ c).trans
    (Chip.foldl_promote_admits (fun c k => (c.grant_calm k).admits) _ _)

/-- The registers of the time unit and above stay. -/
theorem Chip.admitAll_get_time (c : Chip) (f : Fld) {i j : Nat} (h : 0xE1000 ≤ f.reg.addr i j) :
    c.admitAll.get f i j = c.get f i j := by
  have hsub : ∀ n ∈ List.range 32, f.reg.addr i j ≠ F.SUB_CFG_STATE.reg.addr n 0 := by
    intro n hn
    have := List.mem_range.1 hn
    generalize f.reg.addr i j = a at *
    simp only [Reg.addr, Reg.info, F.SUB_CFG_STATE]
    omega
  have hsns : ∀ n ∈ List.range 16, f.reg.addr i j ≠ F.SNS_STATE_STATE.reg.addr n 0 := by
    intro n hn
    have := List.mem_range.1 hn
    generalize f.reg.addr i j = a at *
    simp only [Reg.addr, Reg.info, F.SNS_STATE_STATE]
    omega
  unfold Chip.admitAll foldN
  rw [Chip.foldl_promote_get_ne Chip.grant_get _ _ _ _ _ hsub, Chip.lockStreams_eq,
    Chip.foldl_promote_get_ne (fun _ _ _ _ _ => rfl) _ _ _ _ _ hsns]

/-- A stream that waited for lock is ENABLED (R24). -/
theorem Chip.admitAll_stream (c : Chip) {n : Nat} (hn : n < 16) (h : c.get F.SNS_STATE_STATE n = 2) :
    c.admitAll.get F.SNS_STATE_STATE n = 3 := by
  have hsub : ∀ k ∈ List.range 32, F.SNS_STATE_STATE.reg.addr n 0 ≠ F.SUB_CFG_STATE.reg.addr k 0 := by
    intro k hk
    simp only [Reg.addr, Reg.info, F.SNS_STATE_STATE, F.SUB_CFG_STATE]
    omega
  unfold Chip.admitAll foldN
  rw [Chip.foldl_promote_get_ne Chip.grant_get _ _ _ _ _ hsub]
  exact Chip.foldl_promote_state (fun _ _ _ _ _ => rfl) (by decide) (by decide) n
    (by simp [Reg.has, Reg.info, F.SNS_STATE_STATE, hn]) (fun k hk => by simp only [Reg.addr, Reg.info, F.SNS_STATE_STATE]; omega)
    _ c (.inr ⟨List.mem_range.2 hn, h⟩)

/-- A submitting session that waited for lock is ENABLED (R170). -/
theorem Chip.admitAll_session (c : Chip) {n : Nat} (hn : n < 32) (h : c.get F.SUB_CFG_STATE n = 2) :
    c.admitAll.get F.SUB_CFG_STATE n = 3 := by
  have hsns : ∀ k ∈ List.range 16, F.SUB_CFG_STATE.reg.addr n 0 ≠ F.SNS_STATE_STATE.reg.addr k 0 := by
    intro k hk
    have := List.mem_range.1 hk
    simp only [Reg.addr, Reg.info, F.SNS_STATE_STATE, F.SUB_CFG_STATE]
    omega
  have h2 : c.lockStreams.get F.SUB_CFG_STATE n = 2 := by
    rw [Chip.lockStreams_eq, Chip.foldl_promote_get_ne (fun _ _ _ _ _ => rfl) _ _ _ _ _ hsns, h]
  exact Chip.foldl_promote_state Chip.grant_get (by decide) (by decide) n
    (by simp [Reg.has, Reg.info, F.SUB_CFG_STATE, hn]) (fun k hk => by simp only [Reg.addr, Reg.info, F.SUB_CFG_STATE]; omega)
    _ _ (.inr ⟨List.mem_range.2 hn, h2⟩)

/-- Settling changes none of the switch states. -/
theorem Chip.settle_get_stream (c : Chip) (n : Nat) : c.settle.get F.SNS_STATE_STATE n = c.get F.SNS_STATE_STATE n :=
  Chip.settle_get _ _ _ _ (fun k hk => by simp only [Reg.addr, Reg.info, F.SNS_STATE_STATE]; omega)

theorem Chip.settle_get_session (c : Chip) (n : Nat) : c.settle.get F.SUB_CFG_STATE n = c.get F.SUB_CFG_STATE n :=
  Chip.settle_get _ _ _ _ (fun k hk => by simp only [Reg.addr, Reg.info, F.SUB_CFG_STATE]; omega)

/-! ## FIRST_LOCK -/

/-- Without a step due, after first lock or away from a course boundary nothing happens (R437, R442). -/
theorem Chip.firstLock_idle (c : Chip) (h : c.servo.stepDue = none ∨ c.locked = true ∨ c.atBoundary = false) :
    c.firstLock = c := by
  unfold Chip.firstLock
  split
  · rfl
  · next o l hs =>
    rw [hs] at h
    rw [if_pos (by simpa using h)]

/-- The clock after the step by `o`, in the course and the slot of its new time. -/
def Clock.stepBy (k : Clock) (t : Nat) : Clock :=
  let n := normStamp 0 t
  { k with now := n, lastCourse := some (n.sec * 500 + n.ns / 2000000), lastSlot := some (n.sec * 8000 + n.ns / 125000) }

/-- An update of one transport after another touches the transports alone. -/
theorem Chip.foldl_modTransport (f : Transport → Transport) (l : List Nat) (c : Chip) :
    ∃ tr, l.foldl (fun c k => c.modTransport k f) c = { c with transports := tr } := by
  induction l generalizing c with
  | nil => exact ⟨c.transports, rfl⟩
  | cons n l ih => exact ih (c.modTransport n f)

/-- From `a` to `b` the clock is stepped by `o`, and no step is due any more; triggers' times and the scheduler's resume
course follow. -/
structure Chip.Stepped (a b : Chip) (o : Int) : Prop where
  clock : b.clock = a.clock.stepBy ((a.nowNs : Int) - o).toNat
  due : b.servo.stepDue = none
  regs : b.regs = a.regs
  items : b.items = a.items
  mem : b.mem = a.mem
  image : b.image = a.image
  fuses : b.fuses = a.fuses
  flash : b.flash = a.flash
  boot : b.boot = a.boot

/-- First lock: the clock is stepped, and TIME_STAT shows the lock (R437, R442). -/
theorem Chip.firstLock_steps (c : Chip) {o l : Int} (hs : c.servo.stepDue = some (o, l)) (hl : c.locked = false)
    (hb : c.atBoundary = true) :
    ∃ b, c.Stepped b o ∧ c.firstLock = (b.putB F.TIME_STAT_FIRST_LOCK true).put F.TIME_STAT_STATE 2 := by
  unfold Chip.firstLock foldN
  rw [hs]
  dsimp only
  rw [hl, hb, if_neg (by decide)]
  refine ⟨_, ?_, rfl⟩
  obtain ⟨tr, htr⟩ := Chip.foldl_modTransport _ (List.range 8) _
  rw [htr]
  exact ⟨rfl, rfl, rfl, rfl, rfl, rfl, rfl, rfl, rfl⟩

/-- TIME_STAT apart the registers stay. -/
theorem Chip.firstLock_get (c : Chip) {o l : Int} (hs : c.servo.stepDue = some (o, l)) (hl : c.locked = false)
    (hb : c.atBoundary = true) (f : Fld) (i j : Nat) (hf : f.reg.addr i j ≠ Reg.addr .TIME_STAT 0 0) :
    c.firstLock.get f i j = c.get f i j := by
  obtain ⟨b, hst, h⟩ := c.firstLock_steps hs hl hb
  rw [h, Chip.get_put_ne _ _ _ _ _ _ _ _ hf, Chip.get_putB_ne _ _ _ _ _ _ _ _ hf, Chip.get_congr hst.regs]

/-- TIME_STAT shows FIRST_LOCK and STATE 2. -/
theorem Chip.firstLock_stat (c : Chip) {o l : Int} (hs : c.servo.stepDue = some (o, l)) (hl : c.locked = false)
    (hb : c.atBoundary = true) : c.firstLock.locked = true ∧ c.firstLock.get F.TIME_STAT_STATE = 2 := by
  obtain ⟨b, -, h⟩ := c.firstLock_steps hs hl hb
  rw [h]
  refine ⟨?_, Chip.get_put_self _ _ _ _ _ (by decide) (by decide)⟩
  unfold Chip.locked Chip.flag
  rw [Chip.get_put_field _ F.TIME_STAT_STATE F.TIME_STAT_FIRST_LOCK _ _ _ rfl (by decide) (by decide)]
  exact Chip.flag_putB_self _ F.TIME_STAT_FIRST_LOCK true 0 0 (by decide) (by decide) rfl

/-! ## The two commands -/

/-- The work of FIRST_LOCK: the step, and admission when it locked the device. -/
theorem exec_firstLock_up (s : State) (hup : s.chip.Up) : exec .firstLock s = .next ⟨s.pending,
    (if s.chip.firstLock.locked = true ∧ ¬ s.chip.locked = true then s.chip.firstLock.admitAll
      else s.chip.firstLock).settle⟩ := by
  obtain ⟨hh, hr⟩ := hup
  simp only [exec_firstLock, Chip.serving_eq _ hh hr]
  rfl

theorem exec_syncReceived_up (s : State) (w : SyncIn) (hup : s.chip.Up) :
    exec (.syncReceived w) s = .next ⟨s.pending, (s.chip.sync w).settle⟩ := by
  obtain ⟨hh, hr⟩ := hup
  simp only [exec_syncReceived, Chip.serving_eq _ hh hr]

/-- FIRST_LOCK does nothing without a step due, in a locked device, or away from a course boundary. -/
theorem exec_firstLock_idle (s : State) (hup : s.chip.Up)
    (h : s.chip.servo.stepDue = none ∨ s.chip.locked = true ∨ s.chip.atBoundary = false) :
    exec .firstLock s = .next ⟨s.pending, s.chip.settle⟩ := by
  rw [exec_firstLock_up s hup, Chip.firstLock_idle _ h, if_neg (fun x => x.2 x.1)]

/-- FIRST_LOCK of a device that a step is due in, at a course boundary. -/
theorem exec_firstLock_due (s : State) (hup : s.chip.Up) {o l : Int} (hs : s.chip.servo.stepDue = some (o, l))
    (hl : s.chip.locked = false) (hb : s.chip.atBoundary = true) :
    exec .firstLock s = .next ⟨s.pending, s.chip.firstLock.admitAll.settle⟩ := by
  rw [exec_firstLock_up s hup, if_pos ⟨(Chip.firstLock_stat _ hs hl hb).1, by simp [hl]⟩]

/-- What the device is after FIRST_LOCK has stepped the clock by `o`. -/
structure Chip.FirstLocked (c t : Chip) (o : Int) : Prop where
  clock : t.clock = c.clock.stepBy ((c.nowNs : Int) - o).toNat
  rate : t.rate = c.rate
  locked : t.locked = true
  state : t.get F.TIME_STAT_STATE = 2
  due : t.servo.stepDue = none
  streams : ∀ n, n < 16 → c.get F.SNS_STATE_STATE n = 2 → t.get F.SNS_STATE_STATE n = 3
  sessions : ∀ n, n < 32 → c.get F.SUB_CFG_STATE n = 2 → t.get F.SUB_CFG_STATE n = 3
  items : t.items = c.items
  mem : t.mem = c.mem
  image : t.image = c.image
  fuses : t.fuses = c.fuses
  flash : t.flash = c.flash
  boot : t.boot = c.boot

/-- First lock with the admission and the settling that follow it. -/
theorem Chip.firstLock_locks (c : Chip) {o l : Int} (hs : c.servo.stepDue = some (o, l)) (hl : c.locked = false)
    (hb : c.atBoundary = true) : c.FirstLocked c.firstLock.admitAll.settle o := by
  obtain ⟨b, hst, heq⟩ := c.firstLock_steps hs hl hb
  obtain ⟨hlocked, hstate⟩ := c.firstLock_stat hs hl hb
  have hget := c.firstLock_get hs hl hb
  have had : b.Admits c.firstLock.admitAll.settle := by
    rw [heq]
    exact (((b.put_admits _ _ _ _).trans (Chip.put_admits _ _ _ _ _)).trans (Chip.admitAll_admits _)).trans
      (Chip.settle_admits _)
  have htime : ∀ f : Fld, 0xE1000 ≤ f.reg.addr 0 0 → c.firstLock.admitAll.settle.get f = c.firstLock.get f :=
    fun f hf => by rw [Chip.settle_get_time _ _ hf, Chip.admitAll_get_time _ _ hf]
  have hsns : ∀ n, n < 16 → F.SNS_STATE_STATE.reg.addr n 0 ≠ Reg.addr .TIME_STAT 0 0 := fun n hn => by
    simp only [Reg.addr, Reg.info, F.SNS_STATE_STATE]; omega
  have hsub : ∀ n, n < 32 → F.SUB_CFG_STATE.reg.addr n 0 ≠ Reg.addr .TIME_STAT 0 0 := fun n hn => by
    simp only [Reg.addr, Reg.info, F.SUB_CFG_STATE]; omega
  exact {
    clock := had.clock.trans hst.clock
    rate := Chip.rate_congr ((htime _ (by decide)).trans (hget _ 0 0 (by decide)))
    locked := (Chip.flag_congr (htime F.TIME_STAT_FIRST_LOCK (by decide))).trans hlocked
    state := (htime _ (by decide)).trans hstate
    due := (congrArg Servo.stepDue had.servo).trans hst.due
    streams := fun n hn h => by
      rw [Chip.settle_get_stream]
      exact Chip.admitAll_stream _ hn ((hget _ n 0 (hsns n hn)).trans h)
    sessions := fun n hn h => by
      rw [Chip.settle_get_session]
      exact Chip.admitAll_session _ hn ((hget _ n 0 (hsub n hn)).trans h)
    items := had.items.trans hst.items
    mem := had.mem.trans hst.mem
    image := had.image.trans hst.image
    fuses := had.fuses.trans hst.fuses
    flash := had.flash.trans hst.flash
    boot := had.boot.trans hst.boot }

/-! ## The obligation -/

/-- Settles O50: FIRST_LOCK by the step of the clock and the admission that follows it, SYNC_RECEIVED by the servo's
steering and the alarm's watch in a locked device and by the collection of Syncs before. -/
theorem lockAndServo : Obligations.LockAndServo := by
  unfold Obligations.LockAndServo
  intro s hup c
  refine ⟨exec_firstLock_idle s hup, fun o l hs hl hb => ?_, fun w => ⟨fun h => ?_, fun d hs hd => ?_⟩⟩
  · have h := c.firstLock_locks hs hl hb
    refine ⟨_, exec_firstLock_due s hup hs hl hb, rfl, ?_⟩
    have hk := h.clock
    exact ⟨congrArg Clock.now hk, (congrArg Clock.frac hk).trans rfl, (congrArg Clock.up hk).trans rfl,
      by rw [Chip.courseK, hk]; rfl, by rw [Chip.slotNo, hk]; rfl, h.rate, h.locked, h.state, h.due, h.streams, h.sessions,
      h.items, h.mem, h.image, h.fuses, h.flash, h.boot⟩
  · rw [exec_syncReceived_up s w hup, Chip.sync_dropped _ _ h]
  · refine ⟨fun hl => ?_, fun hl hdue => ?_⟩
    · have h := (c.sync_steers w hs hd hl).settle
      refine ⟨_, exec_syncReceived_up s w hup, rfl, h.offset, fun he hi => ?_, fun he => ?_, h.late, h.clears, h.counts, h.mem,
        h.toCore⟩
      · have hout := c.servoOut_slew he hi
        exact ⟨h.ri.trans (congrArg Prod.fst hout), h.rate.trans (congrArg Prod.snd hout)⟩
      · have hout := c.servoOut_track (si := w.interval) he
        have hri := h.ri.trans (congrArg Prod.fst hout)
        exact ⟨hri, hri ▸ h.rate.trans (congrArg Prod.snd hout)⟩
    · have h := (c.sync_acquires w hs hd hl hdue).settle
      exact ⟨_, exec_syncReceived_up s w hup, rfl, h.syncs, h.few, h.fourth, h.mem, h.items, h.toCore⟩

end Sys2Proof.Machine
end

section
/-!
PROOFS. A pace window: its pace in CUR and LOW, and what the ring keeps.
-/

namespace Sys2Proof.Machine

/-- A pace reading fits its field of 12 bits (R39). -/
theorem paceOf_lt (k count : Nat) : paceOf k count < 2 ^ 12 := Nat.lt_succ_of_le (Nat.min_le_right _ _)

theorem lowest_le (o : Option Nat) (v : Nat) : lowest o v ≤ v := by
  cases o with
  | none => exact Nat.le_refl v
  | some m => exact Nat.min_le_right m v

/-- Every ring has its register (Table 2-4). -/
theorem ringReg_has (ring : Ring) : (ringReg ring).1.has (ringReg ring).2.1 (ringReg ring).2.2 = true := by
  cases ring with
  | blk r b => exact decide_eq_true ⟨r.isLt, b.isLt⟩
  | mem q => exact decide_eq_true ⟨q.isLt, Nat.one_pos⟩

/-- What a ring keeps after a window of pace `v`. -/
def RingMem.close (x : RingMem) (v : Nat) : RingMem := ⟨some v, some (lowest x.min v), some (lowest x.low v)⟩

/-- A window writes CUR and LOW of its ring's register, and what is kept of the ring. -/
theorem Chip.paceWindow_eq (c : Chip) (ring : Ring) (count : Nat) : c.paceWindow ring count =
    (c.setWord (ringReg ring).1 (ringReg ring).2.1 (ringReg ring).2.2
      (putBits (putBits (c.word (ringReg ring).1 (ringReg ring).2.1 (ringReg ring).2.2) 20 12 (paceOf (ringNo ring) count)) 8 12
        (lowest (c.ring (ringNo ring)).low (paceOf (ringNo ring) count)))).modRing (ringNo ring)
      (fun x => x.close (paceOf (ringNo ring) count)) := rfl

/-- The register of the ring after a window: CUR and LOW are written, the rest of the word stays. -/
theorem Chip.paceWindow_word (c : Chip) (ring : Ring) (count : Nat) :
    (c.paceWindow ring count).word (ringReg ring).1 (ringReg ring).2.1 (ringReg ring).2.2 =
      putBits (putBits (c.word (ringReg ring).1 (ringReg ring).2.1 (ringReg ring).2.2) 20 12 (paceOf (ringNo ring) count)) 8 12
        (lowest (c.ring (ringNo ring)).low (paceOf (ringNo ring) count)) := by
  rw [Chip.paceWindow_eq, Chip.modRing_word, Chip.word_setWord_self _ _ _ _ _ (ringReg_has ring), Nat.mod_eq_of_lt]
  exact putBits_lt (putBits_lt (c.word_lt _ _ _) (by decide)) (by decide)

theorem Chip.paceWindow_word_ne (c : Chip) (ring : Ring) (count : Nat) (r : Reg) (i j : Nat)
    (h : r.addr i j ≠ (ringReg ring).1.addr (ringReg ring).2.1 (ringReg ring).2.2) :
    (c.paceWindow ring count).word r i j = c.word r i j := by
  rw [Chip.paceWindow_eq, Chip.modRing_word, Chip.word_setWord_ne _ _ h]

theorem Chip.ring_modRing_self (c : Chip) (k : Nat) (f : RingMem → RingMem) : (c.modRing k f).ring k = f (c.ring k) :=
  smGet_smMod_self _ _ _

theorem Chip.ring_modRing_ne (c : Chip) {k k' : Nat} (f : RingMem → RingMem) (h : k' ≠ k) :
    (c.modRing k f).ring k' = c.ring k' := smGet_smMod_ne _ _ h

/-- Settles O23: the fields of the ring's register and what is kept of the ring, read back after the window. -/
theorem paceWindowReports : Obligations.PaceWindowReports := by
  unfold Obligations.PaceWindowReports
  intro s ring count hon k v r old least
  have hleast : ∀ o, least o = lowest o v := fun o => by cases o <;> rfl
  have hv : v < 2 ^ 12 := paceOf_lt k count
  have hlow : lowest old.low v < 2 ^ 12 := Nat.lt_of_le_of_lt (lowest_le _ _) hv
  refine ⟨⟨s.pending, s.chip.paceWindow ring count⟩, ?_, rfl, ?_, ?_, ?_, ?_, ?_, ?_, rfl⟩
  · simp only [exec_paceWindow, Chip.awake_eq _ hon]
  · rw [Chip.paceWindow_word, bitsOf_putBits_ne _ _ _ _ _ _ (by decide), bitsOf_putBits_self]
    exact Nat.mod_eq_of_lt hv
  · rw [Chip.paceWindow_word, bitsOf_putBits_self, hleast]
    exact Nat.mod_eq_of_lt hlow
  · rw [Chip.paceWindow_word, bitsOf_putBits_ne _ _ _ _ _ _ (by decide), bitsOf_putBits_ne _ _ _ _ _ _ (by decide)]
  · exact s.chip.paceWindow_word_ne ring count
  · rw [hleast, hleast]
    exact Chip.ring_modRing_self _ _ _
  · exact fun k' h => Chip.ring_modRing_ne _ _ h

end Sys2Proof.Machine
end

section
/-!
PROOFS. What the landing of a move, the loss of a step and a log entry leave alone: the moves in flight, the requests at
hedged resources, the key-value cache, the fabric's own state and the schedule counters.
-/

namespace Sys2Proof.Machine

/-! ## Registers apart -/

/-- The last address of a register. -/
def Reg.last (r : Reg) : Nat := r.addr (r.info.n1 - 1) (r.info.n2 - 1)

/-- All addresses of one register lie below all of the other. -/
def Reg.apart (r q : Reg) : Bool := decide (r.last < q.info.base ∨ q.last < r.info.base)

theorem Reg.addr_bounds {r : Reg} {i j : Nat} (h : r.has i j = true) : r.info.base ≤ r.addr i j ∧ r.addr i j ≤ r.last := by
  obtain ⟨hi, hj⟩ := of_decide_eq_true h
  have h1 := Nat.mul_le_mul_left r.info.s1 (Nat.le_sub_one_of_lt hi)
  have h2 := Nat.mul_le_mul_left r.info.s2 (Nat.le_sub_one_of_lt hj)
  unfold Reg.last Reg.addr
  omega

/-- A word of a register apart from the one that is written. -/
theorem Chip.word_setWord_apart (c : Chip) {r q : Reg} (i j v k l : Nat) (h : r.apart q = true) :
    (c.setWord r i j v).word q k l = c.word q k l := by
  cases hr : r.has i j with
  | false => rw [Chip.setWord_none _ _ _ _ _ hr]
  | true =>
    cases hq : q.has k l with
    | false => unfold Chip.word; rw [hq]; rfl
    | true =>
      refine Chip.word_setWord_ne _ _ (fun he => ?_)
      have := Reg.addr_bounds hr
      have := Reg.addr_bounds hq
      have := of_decide_eq_true h
      omega

/-! ## The relation -/

/-- From `a` to `b` the moves in flight, the requests at hedged resources, the key-value cache, the fabric's own state and
the schedule counters stay. -/
structure Beside (a b : Chip) : Prop where
  moves : b.mem.moves = a.mem.moves
  hedges : b.mem.hedges = a.mem.hedges
  kv : b.kv = a.kv
  fabric : b.fabric = a.fabric
  counts : ∀ k, b.word .SCHED_CNT k 0 = a.word .SCHED_CNT k 0

theorem Beside.refl (a : Chip) : Beside a a := ⟨rfl, rfl, rfl, rfl, fun _ => rfl⟩

theorem Beside.trans {a b c : Chip} (h : Beside a b) (k : Beside b c) : Beside a c :=
  ⟨k.moves.trans h.moves, k.hedges.trans h.hedges, k.kv.trans h.kv, k.fabric.trans h.fabric,
    fun n => (k.counts n).trans (h.counts n)⟩

theorem Beside.foldl {β : Type} {g : Chip → β → Chip} (hg : ∀ c x, Beside c (g c x)) (l : List β) (c : Chip) :
    Beside c (l.foldl g c) := by
  induction l generalizing c with
  | nil => exact Beside.refl c
  | cons x l ih => exact (hg c x).trans (ih _)

variable (c : Chip)

/-! ## Updates -/

theorem Chip.setWord_beside (r : Reg) (i j v : Nat) (h : r.apart .SCHED_CNT = true) : Beside c (c.setWord r i j v) :=
  ⟨rfl, rfl, rfl, rfl, fun _ => c.word_setWord_apart _ _ _ _ _ h⟩
theorem Chip.put_beside (f : Fld) (v i j : Nat) (h : f.reg.apart .SCHED_CNT = true) : Beside c (c.put f v i j) :=
  c.setWord_beside _ _ _ _ h
theorem Chip.putB_beside (f : Fld) (v : Bool) (i j : Nat) (h : f.reg.apart .SCHED_CNT = true) : Beside c (c.putB f v i j) :=
  c.put_beside _ _ _ _ h
theorem Chip.bump_beside (f : Fld) (i j n : Nat) (h : f.reg.apart .SCHED_CNT = true) : Beside c (c.bump f i j n) :=
  c.put_beside _ _ _ _ h
theorem Chip.wrap_beside (f : Fld) (i j n : Nat) (h : f.reg.apart .SCHED_CNT = true) : Beside c (c.wrap f i j n) :=
  c.put_beside _ _ _ _ h
theorem Chip.updSched_beside (f : Sched → Sched) : Beside c (c.updSched f) := ⟨rfl, rfl, rfl, rfl, fun _ => rfl⟩
theorem Chip.updRecov_beside (f : Recov → Recov) : Beside c (c.updRecov f) := ⟨rfl, rfl, rfl, rfl, fun _ => rfl⟩
/-- An update of the memories that leaves moves and requests. -/
theorem Chip.updMem_beside {f : Mem → Mem} (hm : (f c.mem).moves = c.mem.moves) (hh : (f c.mem).hedges = c.mem.hedges) :
    Beside c (c.updMem f) := ⟨hm, hh, rfl, rfl, fun _ => rfl⟩
theorem Chip.setRun_beside (u : Nat) (r : Option StepRun) : Beside c (c.setRun u r) := c.updSched_beside _
theorem Chip.answer_beside (r : ReadRes) : Beside c (c.answer r) := c.updMem_beside rfl rfl
theorem Chip.setHndValid_beside (k : Nat) (v : Bool) : Beside c (c.setHndValid k v) := c.updMem_beside rfl rfl
theorem Chip.freeSite_beside (r b site : Nat) : Beside c (c.freeSite r b site) := c.updMem_beside rfl rfl
theorem Chip.freeBlock_beside (u : Nat) : Beside c (c.freeBlock u) := Beside.foldl (fun c _ => c.freeSite_beside _ _ _) _ c
theorem Chip.serveFrom_beside (u k : Nat) : Beside c (c.serveFrom u k) := c.updSched_beside _

/-! ## A log entry -/

theorem Chip.log_beside (code : Nat) (l : Loc) (stated : Option Nat) : Beside c (c.log code l stated) := by
  unfold Chip.log
  extract_lets detail c1 e c2 c3 c4 c5 c6
  have h1 : Beside c c1 := by
    unfold c1
    split
    · exact Beside.refl c
    · exact ⟨rfl, rfl, rfl, rfl, fun _ => rfl⟩
  exact (((((h1.trans (c1.setWord_beside _ _ _ _ (by decide))).trans (c2.setWord_beside _ _ _ _ (by decide))).trans
    (c3.setWord_beside _ _ _ _ (by decide))).trans (c4.setWord_beside _ _ _ _ (by decide))).trans
    (c5.put_beside _ _ _ _ (by decide))).trans (c6.wrap_beside _ _ _ _ (by decide))

/-! ## The loss of a step -/

theorem Chip.needRerun_beside (n : Option Nat) : Beside c (c.needRerun n) := by
  unfold Chip.needRerun
  split
  · exact Beside.refl c
  · split
    · exact Beside.refl c
    · exact c.updRecov_beside _

theorem Chip.stopFor_beside (u p : Nat) (x : Preempt) : Beside c (c.stopFor u p x) := by
  unfold Chip.stopFor
  split
  · exact Beside.refl c
  · exact (Beside.foldl (fun c k => c.setHndValid_beside k false) _ c).trans (Chip.updSched_beside _ _)

theorem Chip.stopBlock_beside (u : Nat) : Beside c (c.stopBlock u) := by
  refine Beside.foldl (fun c e => ?_) _ c
  split
  · exact c.stopFor_beside _ _ _
  · exact Beside.refl c

theorem Chip.setLent_beside (p : Nat) (on : Bool) : Beside c (c.setLent p on) :=
  (c.putB_beside _ _ _ _ (by decide)).trans (Chip.putB_beside _ _ _ _ _ (by decide))

theorem Chip.giveBack_beside (b u : Nat) : Beside c (c.giveBack b u) :=
  ((Beside.foldl (fun c k => c.setHndValid_beside k false) _ c).trans (Chip.freeBlock_beside _ u)).trans
    (Chip.serveFrom_beside _ _ _)

theorem Chip.unlend_beside (p : Nat) : Beside c (c.unlend p) :=
  (c.setLent_beside p false).trans (Beside.foldl (fun c u => c.giveBack_beside _ u) _ _)

theorem Chip.returnLent_beside : Beside c c.returnLent := by
  refine Beside.foldl (fun c p => ?_) _ c
  dsimp only
  split
  · exact c.unlend_beside p
  · exact Beside.refl c

theorem Chip.boundary_beside (u : Nat) : Beside c (c.boundary u) := (c.stopBlock_beside u).trans (Chip.returnLent_beside _)

theorem Chip.loseStep_beside (u : Nat) : Beside c (c.loseStep u) := by
  unfold Chip.loseStep
  split
  · exact Beside.refl c
  · exact ((c.setRun_beside u none).trans (Chip.boundary_beside _ u)).trans (Chip.needRerun_beside _ _)

theorem Chip.consumePoison_beside (who : Issuer) : Beside c (c.consumePoison who) := by
  unfold Chip.consumePoison
  split
  · exact c.loseStep_beside _
  · exact Beside.refl c

/-! ## The landing of a move -/

theorem Chip.countUncorr_beside (g : Gran) : Beside c (c.countUncorr g) := by
  unfold Chip.countUncorr
  split
  · exact c.bump_beside _ _ _ _ (by decide)
  · split
    · exact c.bump_beside _ _ _ _ (by decide)
    · exact c.updMem_beside rfl rfl

theorem Chip.meet_beside (g : Gran) : Beside c (c.meet g).1 := by
  unfold Chip.meet
  split
  · exact (c.countUncorr_beside g).trans (Chip.log_beside _ _ _ _)
  · exact Beside.refl c

theorem Chip.meetAll_beside (l : List Gran) : Beside c (c.meetAll l).1 := by
  suffices h : ∀ a : Chip × Bool, Beside a.1
      (l.foldl (fun (a : Chip × Bool) g => ((a.1.meet g).1, a.2 || (a.1.meet g).2)) a).1 from h (c, false)
  induction l with
  | nil => exact fun a => Beside.refl a.1
  | cons g l ih => exact fun a => (a.1.meet_beside g).trans (ih ((a.1.meet g).1, a.2 || (a.1.meet g).2))

theorem Mem.setNo_moves (m : Mem) (sel : Nat) (v : Memory) : (m.setNo sel v).moves = m.moves ∧ (m.setNo sel v).hedges = m.hedges := by
  unfold Mem.setNo
  split
  · exact ⟨rfl, rfl⟩
  · split
    · exact ⟨rfl, rfl⟩
    · exact ⟨rfl, rfl⟩

theorem Mem.writeGran_moves (m : Mem) (g : Gran) (d : List Byte) :
    (m.writeGran g d).moves = m.moves ∧ (m.writeGran g d).hedges = m.hedges := m.setNo_moves _ _

theorem Mem.copyGran_moves (m : Mem) (s d : Gran) : (m.copyGran s d).moves = m.moves ∧ (m.copyGran s d).hedges = m.hedges :=
  m.writeGran_moves d _

theorem Chip.carry_beside (pairs : List (Gran × Gran)) : Beside c (c.carry pairs).1 :=
  (c.meetAll_beside _).trans (Beside.foldl (fun c e =>
    c.updMem_beside (c.mem.copyGran_moves e.1 e.2).1 (c.mem.copyGran_moves e.1 e.2).2) _ _)

theorem Chip.writeGran_beside (g : Gran) (d : List Byte) : Beside c (c.writeGran g d) := by
  have h : ∀ l, Beside c (c.updMem (fun m => m.writeGran g l)) :=
    fun l => c.updMem_beside (c.mem.writeGran_moves g l).1 (c.mem.writeGran_moves g l).2
  unfold Chip.writeGran
  extract_lets n c1
  split
  · exact h _
  · exact (h _).trans ⟨rfl, rfl, rfl, rfl, fun _ => rfl⟩

theorem Chip.writeSlot_beside (s : SlotId) (o : Nat) (d : List Byte) : Beside c (c.writeSlot s o d) := by
  unfold Chip.writeSlot
  split
  · exact c.updMem_beside rfl rfl
  · exact Beside.refl c

theorem Chip.setFull_beside (s : SlotId) (v : Bool) : Beside c (c.setFull s v) := by
  unfold Chip.setFull
  split
  · exact c.updMem_beside rfl rfl
  · exact Beside.refl c

theorem Chip.land_beside (m : Move) : Beside c (c.land m) := by
  unfold Chip.land
  split
  · extract_lets r
    have h : Beside c r.1 := c.carry_beside _
    split
    · exact h.trans (Chip.answer_beside _ _)
    · exact h
  · extract_lets r d
    have h : Beside c r.1 := c.meetAll_beside _
    split
    · exact (h.trans (Chip.answer_beside _ _)).trans (Chip.consumePoison_beside _ _)
    · have hw : Beside c d := h.trans (r.1.writeSlot_beside _ _ _)
      split
      · exact hw.trans (Chip.setFull_beside _ _ _)
      · exact hw
  · exact Beside.foldl (fun c e => c.writeGran_beside _ _) _ c
  · exact Beside.refl c

/-! ## The ledger -/

theorem Chip.ledger_beside : Beside c c.ledger := by
  refine Beside.foldl (fun c e => ?_) _ c
  exact ((((c.log_beside _ _ _).trans (Chip.put_beside _ _ _ _ _ (by decide))).trans
    (Chip.bump_beside _ _ _ _ _ (by decide))).trans (Chip.put_beside _ _ _ _ _ (by decide)))

end Sys2Proof.Machine
end

section
/-!
PROOFS. Moves performed in order, and the three fences that wait for them.
-/

namespace Sys2Proof.Machine

/-! ## Hedged resources -/

theorem mem_takeUnit {who : Nat} {l : List HedgeReq} {q : HedgeReq} (h : q ∈ takeUnit who l) : ∃ p ∈ l, p.id = q.id := by
  induction l with
  | nil => exact absurd h List.not_mem_nil
  | cons r l ih =>
    unfold takeUnit at h
    split at h
    · rcases List.mem_cons.1 h with rfl | h
      · exact ⟨r, List.mem_cons_self, rfl⟩
      · exact ⟨q, List.mem_cons_of_mem _ h, rfl⟩
    · rcases List.mem_cons.1 h with rfl | h
      · exact ⟨q, List.mem_cons_self, rfl⟩
      · obtain ⟨p, hp, hid⟩ := ih h
        exact ⟨p, List.mem_cons_of_mem _ hp, hid⟩

/-- Serving adds no request. -/
theorem HedgeRes.mem_serve {lo hi : Nat → Nat} {id : Nat} {q : HedgeReq} : ∀ {f : Nat} {h : HedgeRes},
    q ∈ (HedgeRes.serve lo hi id f h).1.wait → ∃ p ∈ h.wait, p.id = q.id := by
  intro f
  induction f with
  | zero => exact fun hq => ⟨q, hq, rfl⟩
  | succ f ih =>
    intro h hq
    unfold HedgeRes.serve at hq
    split at hq
    · exact ⟨q, (List.mem_filter.1 hq).1, rfl⟩
    · split at hq
      · obtain ⟨p, hp, hid⟩ := ih hq
        obtain ⟨p', hp', hid'⟩ := mem_takeUnit hp
        exact ⟨p', hp', hid'.trans hid⟩
      · split at hq
        · exact ⟨q, hq, rfl⟩
        · obtain ⟨p, hp, hid⟩ := ih hq
          exact ⟨p, hp, hid⟩

/-- Who has no request is served. -/
theorem HedgeRes.serve_idle {lo hi : Nat → Nat} {id f : Nat} {h : HedgeRes} (hid : ∀ q ∈ h.wait, q.id ≠ id) :
    (HedgeRes.serve lo hi id (f + 1) h).2 = true := by
  have hany : h.wait.any (fun r => r.id = id && decide (0 < r.left)) = false :=
    List.any_eq_false.2 (fun q hq => by simp [hid q hq])
  unfold HedgeRes.serve
  rw [hany]
  rfl

/-- From `a` to `b` moves and requests at hedged resources end, none begins; the key-value cache, the fabric's own state and
the schedule counters stay. -/
structure Eases (a b : Chip) : Prop where
  moves : b.mem.moves ⊆ a.mem.moves
  asks : ∀ x, ∀ q ∈ (b.hedge x).wait, ∃ p ∈ (a.hedge x).wait, p.id = q.id
  kv : b.kv = a.kv
  fabric : b.fabric = a.fabric
  counts : ∀ k, b.word .SCHED_CNT k 0 = a.word .SCHED_CNT k 0

theorem Beside.eases {a b : Chip} (h : Beside a b) : Eases a b :=
  ⟨h.moves ▸ List.Subset.refl _, fun x q hq => ⟨q, by unfold Chip.hedge at hq ⊢; rwa [← h.hedges], rfl⟩, h.kv, h.fabric, h.counts⟩

theorem Eases.refl (a : Chip) : Eases a a := (Beside.refl a).eases

theorem Eases.trans {a b c : Chip} (h : Eases a b) (k : Eases b c) : Eases a c where
  moves := fun _ hm => h.moves (k.moves hm)
  asks := fun x q hq => by
    obtain ⟨p, hp, hid⟩ := k.asks x q hq
    obtain ⟨p', hp', hid'⟩ := h.asks x p hp
    exact ⟨p', hp', hid'.trans hid⟩
  kv := k.kv.trans h.kv
  fabric := k.fabric.trans h.fabric
  counts := fun n => (k.counts n).trans (h.counts n)

theorem Chip.hedge_modHedge (c : Chip) (x y : Nat) (f : HedgeRes → HedgeRes) :
    (c.modHedge x f).hedge y = if y = x then f (c.hedge x) else c.hedge y := smGet_smMod _ _ _ _

theorem Chip.hedgeServe_eases (c : Chip) (x id : Nat) : Eases c (c.hedgeServe x id).1 where
  moves := List.Subset.refl _
  asks := fun y q hq => by
    unfold Chip.hedgeServe at hq
    rw [Chip.hedge_modHedge] at hq
    split at hq
    · next hy =>
      subst hy
      obtain ⟨p, hp, hid⟩ := HedgeRes.mem_serve hq
      exact ⟨p, (List.mem_filter.1 hp).1, hid⟩
    · exact ⟨q, hq, rfl⟩
  kv := rfl
  fabric := rfl
  counts := fun _ => rfl

theorem Chip.hedgeServe_idle (c : Chip) (x id : Nat) (h : ∀ q ∈ (c.hedge x).wait, q.id ≠ id) : (c.hedgeServe x id).2 = true :=
  HedgeRes.serve_idle (fun q hq => h q (List.mem_filter.1 hq).1)

/-- Serving at several resources, from an answer so far. -/
def Chip.serveFold (id : Nat) (l : List Nat) (a : Chip × Bool) : Chip × Bool :=
  l.foldl (fun (a : Chip × Bool) x => ((a.1.hedgeServe x id).1, a.2 && (a.1.hedgeServe x id).2)) a

theorem Chip.serveFold_eases (id : Nat) (l : List Nat) (a : Chip × Bool) :
    Eases a.1 (Chip.serveFold id l a).1 ∧ (Chip.serveFold id l a).1.mem.moves = a.1.mem.moves := by
  induction l generalizing a with
  | nil => exact ⟨Eases.refl _, rfl⟩
  | cons x l ih =>
    obtain ⟨he, hm⟩ := ih ((a.1.hedgeServe x id).1, a.2 && (a.1.hedgeServe x id).2)
    exact ⟨(a.1.hedgeServe_eases x id).trans he, hm⟩

theorem Chip.serveFold_idle (id : Nat) (l : List Nat) (a : Chip × Bool) (ha : a.2 = true)
    (h : ∀ x, ∀ q ∈ (a.1.hedge x).wait, q.id ≠ id) : (Chip.serveFold id l a).2 = true := by
  induction l generalizing a with
  | nil => exact ha
  | cons x l ih =>
    refine ih ((a.1.hedgeServe x id).1, a.2 && (a.1.hedgeServe x id).2) ?_ (fun y q hq => ?_)
    · rw [ha, a.1.hedgeServe_idle x id (h x)]
      rfl
    · obtain ⟨p, hp, hid⟩ := (a.1.hedgeServe_eases x id).asks y q hq
      exact hid ▸ h y p hp

/-! ## One move -/

/-- A move between memories that no hedged resource keeps waiting. -/
def Chip.Served (c : Chip) (m : Move) : Prop :=
  (∃ r, m.src = .mem r) ∧ (∃ r, m.dst = .mem r) ∧ ∀ x q, q ∈ (c.hedge x).wait → q.id ≠ m.id + 1

theorem Chip.Served.eases {a b : Chip} {m : Move} (h : a.Served m) (k : Eases a b) : b.Served m := by
  obtain ⟨hs, hd, hw⟩ := h
  refine ⟨hs, hd, fun x q hq => ?_⟩
  obtain ⟨p, hp, hid⟩ := k.asks x q hq
  exact hid ▸ hw x p hp

/-- Such a move waits for no slot. -/
theorem Chip.Served.moveWaits {c : Chip} {m : Move} (h : c.Served m) : c.moveWaits m = false := by
  obtain ⟨⟨r, hs⟩, ⟨r', hd⟩, -⟩ := h
  unfold Chip.moveWaits
  rw [hs, hd]
  rfl

/-- Nor for a hedged resource. -/
theorem Chip.Served.hedgeServeAll {c : Chip} {m : Move} (h : c.Served m) (l : List Nat) :
    (c.hedgeServeAll (m.id + 1) l).2 = true := Chip.serveFold_idle _ l (c, true) rfl h.2.2

/-- The moves in flight without those of a number. -/
def Chip.dropMove (c : Chip) (id : Nat) : Chip :=
  c.updMem (fun x => { x with moves := x.moves.filter (fun y => y.id ≠ id) })

theorem Chip.dropMove_eases (c : Chip) (id : Nat) : Eases c (c.dropMove id) :=
  ⟨fun _ h => (List.mem_filter.1 h).1, fun _ q hq => ⟨q, hq, rfl⟩, rfl, rfl, fun _ => rfl⟩

theorem Chip.performMove_eq (c : Chip) (m : Move) : c.performMove m =
    if c.moveDead m then ((c.dropMove m.id).answer .error).consumePoison m.issuer
    else if c.moveWaits m then c
    else if (c.hedgeServeAll (m.id + 1) (m.uses.map (·.1))).2
      then ((c.hedgeServeAll (m.id + 1) (m.uses.map (·.1))).1.dropMove m.id).land m
      else (c.hedgeServeAll (m.id + 1) (m.uses.map (·.1))).1 := rfl

/-- A move that is performed leaves the flight, or it is not served and every move stays. -/
theorem Chip.performMove_cases (c : Chip) (m : Move) : Eases c (c.performMove m) ∧
    ((c.performMove m).mem.moves = c.mem.moves.filter (fun y => y.id ≠ m.id) ∨
      (c.performMove m).mem.moves = c.mem.moves ∧ ¬ c.Served m) := by
  rw [Chip.performMove_eq]
  split
  · have h := ((c.dropMove m.id).answer_beside .error).trans (Chip.consumePoison_beside _ m.issuer)
    exact ⟨(c.dropMove_eases m.id).trans h.eases, .inl h.moves⟩
  · split
    · next hw => exact ⟨Eases.refl c, .inr ⟨rfl, fun hs => by rw [hs.moveWaits] at hw; cases hw⟩⟩
    · obtain ⟨he, hm⟩ := Chip.serveFold_eases (m.id + 1) (m.uses.map (·.1)) (c, true)
      split
      · have h := Chip.land_beside ((c.hedgeServeAll (m.id + 1) (m.uses.map (·.1))).1.dropMove m.id) m
        exact ⟨(he.trans (Chip.dropMove_eases _ m.id)).trans h.eases, .inl (h.moves.trans (congrArg _ hm))⟩
      · next hn => exact ⟨he, .inr ⟨hm, fun hs => hn (hs.hedgeServeAll _)⟩⟩

/-! ## Moves in order -/

theorem Chip.runMoves_eases (l : List Move) (c : Chip) : Eases c (Chip.runMoves l c) := by
  induction l generalizing c with
  | nil => exact Eases.refl c
  | cons m l ih =>
    have h := (c.performMove_cases m).1
    unfold Chip.runMoves
    split
    · exact h
    · exact h.trans (ih _)

/-- Moves of other numbers stay. -/
theorem Chip.runMoves_others (own : Move → Bool) (l : List Move) (c : Chip)
    (h : ∀ m ∈ l, ∀ y ∈ c.mem.moves, y.id = m.id → own y = true) :
    (Chip.runMoves l c).mem.moves.filter (fun m => !own m) = c.mem.moves.filter (fun m => !own m) := by
  induction l generalizing c with
  | nil => rfl
  | cons m l ih =>
    obtain ⟨he, hm⟩ := c.performMove_cases m
    have h1 : (c.performMove m).mem.moves.filter (fun m => !own m) = c.mem.moves.filter (fun m => !own m) := by
      rcases hm with hm | ⟨hm, -⟩
      · rw [hm, List.filter_filter]
        refine List.filter_congr (fun y hy => ?_)
        by_cases hid : y.id = m.id
        · simp [h m List.mem_cons_self y hy hid]
        · simp [hid]
      · rw [hm]
    unfold Chip.runMoves
    split
    · exact h1
    · rw [ih _ (fun x hx y hy => h x (List.mem_cons_of_mem _ hx) y (he.moves hy)), h1]

/-- Moves that are served all leave the flight. -/
theorem Chip.runMoves_served (l : List Move) (c : Chip) (h : ∀ m ∈ l, c.Served m) :
    ∀ m ∈ l, ∀ y ∈ (Chip.runMoves l c).mem.moves, y.id ≠ m.id := by
  induction l generalizing c with
  | nil => exact fun m hm => absurd hm List.not_mem_nil
  | cons m l ih =>
    obtain ⟨he, hm⟩ := c.performMove_cases m
    have hgone := hm.resolve_right (fun x => x.2 (h m List.mem_cons_self))
    have hout : ∀ y ∈ (c.performMove m).mem.moves, y.id ≠ m.id := fun y hy => by
      rw [hgone] at hy
      exact of_decide_eq_true (List.mem_filter.1 hy).2
    have hfly : (c.performMove m).flying m.id = false := List.any_eq_false.2 (fun y hy => by simp [hout y hy])
    have ih := ih (c.performMove m) (fun x hx => (h x (List.mem_cons_of_mem _ hx)).eases he)
    unfold Chip.runMoves
    rw [hfly, if_neg Bool.false_ne_true]
    intro x hx y hy
    rcases List.mem_cons.1 hx with rfl | hx
    · exact hout y ((Chip.runMoves_eases l _).moves hy)
    · exact ih x hx y hy

/-! ## What a fence waits for -/

/-- From `c` to `t` the moves in flight that `own` picks complete once their hedged resources have served them; the others
stay (R52, R53). -/
def Chip.Completes (c t : Chip) (own : Move → Bool) : Prop :=
  t.mem.moves.filter (fun m => !own m) = c.mem.moves.filter (fun m => !own m) ∧
  ((∀ m, m ∈ c.mem.moves → own m = true → c.Served m) → ∀ m, m ∈ t.mem.moves → own m = false)

theorem Chip.drainMoves_completes (c : Chip) (own : Move → Bool) (hnd : (c.mem.moves.map (·.id)).Nodup) :
    c.Completes (c.drainMoves own) own := by
  have hinj : ∀ m ∈ c.mem.moves, ∀ y ∈ c.mem.moves, y.id = m.id → y = m :=
    fun m hm y hy hid => List.inj_on_of_nodup_map hnd hy hm hid
  refine ⟨Chip.runMoves_others own _ c (fun m hm y hy hid => ?_), fun hs m hm => ?_⟩
  · obtain ⟨hm, hown⟩ := List.mem_filter.1 hm
    rw [hinj m hm y hy hid, hown]
  · have hc := (Chip.runMoves_eases (c.mem.moves.filter own) c).moves hm
    cases hown : own m with
    | false => rfl
    | true =>
      refine absurd rfl (Chip.runMoves_served _ c (fun x hx => ?_) m (List.mem_filter.2 ⟨hc, hown⟩) m hm)
      exact hs x (List.mem_filter.1 hx).1 (List.mem_filter.1 hx).2

theorem Chip.drainMoves_eases (c : Chip) (own : Move → Bool) : Eases c (c.drainMoves own) := Chip.runMoves_eases _ c

/-- With none of its moves in flight a fence has nothing to complete. -/
theorem Chip.drainMoves_none (c : Chip) (own : Move → Bool) (h : ∀ m, m ∈ c.mem.moves → own m = false) :
    c.drainMoves own = c := by
  unfold Chip.drainMoves
  rw [List.filter_eq_nil_iff.2 (fun m hm => by rw [h m hm]; decide)]
  rfl

theorem Chip.any_own_false {c : Chip} {own : Move → Bool} (h : ∀ m, m ∈ c.mem.moves → own m = false) :
    c.mem.moves.any own = false := List.any_eq_false.2 (fun m hm => by rw [h m hm]; decide)

/-! ## The publication fence -/

/-- With no edit waiting none runs. -/
theorem Chip.kvRun_idle (c : Chip) (h : c.kv.waiting = []) : c.kvRun = c := by
  unfold Chip.kvRun
  rw [h]
  unfold kvDrain
  rw [h]

/-- Every walker's entry buffer is discarded. -/
def Chip.dropBufs (c : Chip) : Chip := c.updKv (fun v => { v with bufs := [] })

/-- The moves that a control core has issued. -/
def coreMoves (k : Fin 10) (m : Move) : Bool := decide (m.issuer.u = .core k)

theorem Chip.publicationFence_eq (c : Chip) (k : Fin 10) : c.publicationFence k =
    if (c.drainMoves (coreMoves k)).mem.moves.any (coreMoves k) then c.drainMoves (coreMoves k)
    else (c.drainMoves (coreMoves k)).dropBufs.kvRun := rfl

/-- A publication fence that finds no edit waiting. -/
theorem Chip.publicationFence_idle (c : Chip) (k : Fin 10) (h : c.kv.waiting = []) : c.publicationFence k =
    if (c.drainMoves (coreMoves k)).mem.moves.any (coreMoves k) then c.drainMoves (coreMoves k)
    else (c.drainMoves (coreMoves k)).dropBufs := by
  have hw : (c.drainMoves (coreMoves k)).dropBufs.kv.waiting = [] :=
    (congrArg Kv.waiting (c.drainMoves_eases (coreMoves k)).kv).trans h
  rw [Chip.publicationFence_eq, Chip.kvRun_idle _ hw]

/-! ## The course fence -/

/-- A region that was late is late no more, and the course is counted. -/
def Chip.countLate (c : Chip) (r : Nat) : Chip :=
  ({ c with fabric := { c.fabric with late := c.fabric.late.set r false } } : Chip).bump F.SCHED_CNT_OVR_COURSE r

/-- What a region's course fence does once its moves have completed. -/
def Chip.endFence (c : Chip) (r : Nat) : Chip :=
  if c.fabric.late.getD r false then
    if (c.countLate r).fabric.late.any id then c.countLate r else (c.countLate r).ledger
  else { c with fabric := { c.fabric with fenceDone := c.fabric.fenceDone.set r true } }

theorem Chip.courseFence_eq (c : Chip) (r : Fin 4) : c.courseFence r =
    if (c.drainMoves (Chip.regionMoves r.val)).mem.moves.any (Chip.regionMoves r.val) then c.drainMoves (Chip.regionMoves r.val)
    else (c.drainMoves (Chip.regionMoves r.val)).endFence r.val := rfl

/-- From `a` to `b` only registers and the count of free values drawn change. -/
def OnlyRegs (a b : Chip) : Prop := ∃ r f, b = { a with regs := r, free := f }

theorem OnlyRegs.refl (a : Chip) : OnlyRegs a a := ⟨_, _, rfl⟩

theorem OnlyRegs.trans {a b c : Chip} (h : OnlyRegs a b) (k : OnlyRegs b c) : OnlyRegs a c := by
  obtain ⟨r, f, rfl⟩ := h
  obtain ⟨r', f', rfl⟩ := k
  exact ⟨r', f', rfl⟩

theorem Chip.put_onlyRegs (c : Chip) (f : Fld) (v i j : Nat) : OnlyRegs c (c.put f v i j) := ⟨_, c.free, rfl⟩

theorem Chip.log_onlyRegs (c : Chip) (code : Nat) (l : Loc) (stated : Option Nat) : OnlyRegs c (c.log code l stated) := by
  unfold Chip.log
  cases stated with
  | none => exact ⟨_, _, rfl⟩
  | some d => exact ⟨_, _, rfl⟩

theorem Chip.ledger_onlyRegs (c : Chip) : OnlyRegs c c.ledger := by
  unfold Chip.ledger
  generalize (List.range 16).flatMap _ = l
  induction l generalizing c with
  | nil => exact OnlyRegs.refl c
  | cons e l ih => exact ((((c.log_onlyRegs _ _ _).trans (Chip.put_onlyRegs _ _ _ _ _)).trans
    (Chip.put_onlyRegs _ _ _ _ _)).trans (Chip.put_onlyRegs _ _ _ _ _)).trans (ih _)

/-- What a course fence leaves that completes after its boundary: the region is late no more, and the course is counted. -/
structure Chip.Overran (c t : Chip) (r : Nat) : Prop extends Chip.Core c t where
  fabric : t.fabric = { c.fabric with late := c.fabric.late.set r false }
  counted : c.Counted t F.SCHED_CNT_OVR_COURSE r
  items : t.items = c.items
  mem : t.mem = c.mem

/-- The count of late courses is a field of the schedule counters. -/
theorem Chip.get_ovr_congr {a b : Chip} {r : Nat} (h : b.word .SCHED_CNT r 0 = a.word .SCHED_CNT r 0) :
    b.get F.SCHED_CNT_OVR_COURSE r = a.get F.SCHED_CNT_OVR_COURSE r :=
  congrArg (fun w => bitsOf w F.SCHED_CNT_OVR_COURSE.lo F.SCHED_CNT_OVR_COURSE.w) h

theorem Chip.countLate_overran (c : Chip) (r : Nat) (hr : r < 4) : c.Overran (c.countLate r) r where
  toCore := ⟨rfl, rfl, rfl, rfl, rfl, rfl⟩
  fabric := rfl
  counted := Chip.get_bump_self _ F.SCHED_CNT_OVR_COURSE r 0 1 (decide_eq_true ⟨hr, Nat.one_pos⟩) (by decide)
  items := rfl
  mem := rfl

/-- The ledger check leaves the rest. -/
theorem Chip.Overran.ledger {c t : Chip} {r : Nat} (h : c.Overran t r) : c.Overran t.ledger r := by
  have hcount : c.Counted t.ledger F.SCHED_CNT_OVR_COURSE r :=
    (Chip.get_ovr_congr (t.ledger_beside.counts r)).trans h.counted
  obtain ⟨g, f, hl⟩ := t.ledger_onlyRegs
  rw [hl] at hcount ⊢
  exact ⟨⟨h.image, h.clock, h.fuses, h.flash, h.boot, h.mgmt⟩, h.fabric, hcount, h.items, h.mem⟩

theorem Chip.endFence_late (c : Chip) (r : Nat) (hr : r < 4) (h : c.fabric.late.getD r false = true) :
    c.Overran (c.endFence r) r := by
  unfold Chip.endFence
  rw [if_pos h]
  split
  · exact c.countLate_overran r hr
  · exact (c.countLate_overran r hr).ledger

theorem Chip.endFence_intime (c : Chip) (r : Nat) (h : c.fabric.late.getD r false = false) :
    c.endFence r = { c with fabric := { c.fabric with fenceDone := c.fabric.fenceDone.set r true } } := by
  unfold Chip.endFence
  rw [h, if_neg Bool.false_ne_true]

theorem Chip.endFence_mem (c : Chip) (r : Nat) (hr : r < 4) : (c.endFence r).mem = c.mem := by
  cases h : c.fabric.late.getD r false with
  | false => rw [c.endFence_intime r h]
  | true => exact (c.endFence_late r hr h).mem

/-- Settling leaves the schedule counters. -/
theorem Chip.settle_get_ovr (c : Chip) (r : Nat) (hr : r < 4) :
    c.settle.get F.SCHED_CNT_OVR_COURSE r = c.get F.SCHED_CNT_OVR_COURSE r :=
  Chip.settle_get _ _ _ _ (fun k hk => by simp only [Reg.addr, Reg.info, F.SCHED_CNT_OVR_COURSE]; omega)

theorem Chip.Overran.settle {c t : Chip} {r : Nat} (h : c.Overran t r) (hr : r < 4) : c.Overran t.settle r where
  toCore := ⟨t.settle_image.trans h.image, t.settle_clock.trans h.clock, t.settle_fuses.trans h.fuses,
    t.settle_flash.trans h.flash, t.settle_boot.trans h.boot, t.settle_mgmt.trans h.mgmt⟩
  fabric := t.settle_fabric.trans h.fabric
  counted := (t.settle_get_ovr r hr).trans h.counted
  items := t.settle_items.trans h.items
  mem := t.settle_mem.trans h.mem

/-! ## The obligation -/

theorem exec_courseFenceDone_up (s : State) (r : Fin 4) (hon : s.chip.On) (hr : s.chip.running = true) :
    exec (.courseFenceDone r) s = .next ⟨s.pending, (s.chip.courseFence r).settle⟩ := by
  simp only [exec_courseFenceDone, Chip.serving_eq _ hon hr]

/-- MEMORY_FENCE_DONE completes its issuer's moves. -/
theorem memoryFenceDone_completes (s : State) (u : Issuer) (hon : s.chip.On) (hnd : (s.chip.mem.moves.map (·.id)).Nodup) :
    ∃ t, exec (.memoryFenceDone u) s = .next t ∧ t.pending = s.pending ∧
      s.chip.Completes t.chip (fun m => m.issuer = u) ∧ ((∀ m, m ∈ s.chip.mem.moves → m.issuer ≠ u) → t = s) := by
  refine ⟨⟨s.pending, s.chip.memoryFence u⟩, ?_, rfl, s.chip.drainMoves_completes _ hnd, fun h => ?_⟩
  · simp only [exec_memoryFenceDone, Chip.awake_eq _ hon]
  · rw [Chip.memoryFence, Chip.drainMoves_none _ _ (fun m hm => decide_eq_false (h m hm))]

/-- PUBLICATION_FENCE_DONE completes the core's moves and discards the entry buffers. -/
theorem publicationFenceDone_completes (s : State) (k : Fin 10) (hon : s.chip.On)
    (hnd : (s.chip.mem.moves.map (·.id)).Nodup) (hkv : s.chip.kv.waiting = []) :
    ∃ t, exec (.publicationFenceDone k) s = .next t ∧ t.pending = s.pending ∧ s.chip.Completes t.chip (coreMoves k) ∧
      ((∀ m, m ∈ s.chip.mem.moves → m.issuer.u = .core k → s.chip.Served m) → t.chip.kv = { s.chip.kv with bufs := [] }) ∧
      ((∀ m, m ∈ s.chip.mem.moves → m.issuer.u ≠ .core k) → t.chip = s.chip.dropBufs) := by
  have hc := s.chip.drainMoves_completes (coreMoves k) hnd
  have he := s.chip.drainMoves_eases (coreMoves k)
  have heq := s.chip.publicationFence_idle k hkv
  refine ⟨⟨s.pending, s.chip.publicationFence k⟩, ?_, rfl, ?_, fun hs => ?_, fun h => ?_⟩
  · simp only [exec_publicationFenceDone, Chip.awake_eq _ hon]
  · dsimp only
    rw [heq]
    split
    · exact hc
    · exact hc
  · have hdone := hc.2 (fun m hm ho => hs m hm (of_decide_eq_true ho))
    dsimp only
    rw [heq, Chip.any_own_false hdone, if_neg Bool.false_ne_true]
    exact congrArg (fun v : Kv => { v with bufs := [] }) he.kv
  · have hnone : ∀ m, m ∈ s.chip.mem.moves → coreMoves k m = false := fun m hm => decide_eq_false (h m hm)
    dsimp only
    rw [heq, Chip.drainMoves_none _ _ hnone, Chip.any_own_false hnone, if_neg Bool.false_ne_true]

/-- COURSE_FENCE_DONE completes the moves of the region's blocks; it is noted, or counts the course. -/
theorem courseFenceDone_completes (s : State) (r : Fin 4) (hon : s.chip.On) (hrun : s.chip.running = true)
    (hnd : (s.chip.mem.moves.map (·.id)).Nodup) :
    ∃ t, exec (.courseFenceDone r) s = .next t ∧ t.pending = s.pending ∧ s.chip.Completes t.chip (Chip.regionMoves r.val) ∧
      ((∀ m, m ∈ s.chip.mem.moves → Chip.regionMoves r.val m = true → s.chip.Served m) →
        (s.chip.fabric.late.getD r.val false = false → t.chip.fabric.fenceDone = s.chip.fabric.fenceDone.set r.val true) ∧
        (s.chip.fabric.late.getD r.val false = true → t.chip.fabric.late = s.chip.fabric.late.set r.val false ∧
          s.chip.Counted t.chip F.SCHED_CNT_OVR_COURSE r.val)) := by
  have hc := s.chip.drainMoves_completes (Chip.regionMoves r.val) hnd
  have he := s.chip.drainMoves_eases (Chip.regionMoves r.val)
  have heq := s.chip.courseFence_eq r
  generalize s.chip.drainMoves (Chip.regionMoves r.val) = d at hc he heq
  have hmem : (s.chip.courseFence r).settle.mem = d.mem := by
    rw [Chip.settle_mem, heq]
    split
    · rfl
    · exact d.endFence_mem r.val r.isLt
  refine ⟨_, exec_courseFenceDone_up s r hon hrun, rfl, ?_, fun hs => ?_⟩
  · unfold Chip.Completes
    rw [hmem]
    exact hc
  · rw [heq, Chip.any_own_false (hc.2 hs), if_neg Bool.false_ne_true, ← he.fabric]
    refine ⟨fun hl => ?_, fun hl => ?_⟩
    · rw [d.endFence_intime r.val hl, Chip.settle_fabric]
    · have ho := (d.endFence_late r.val r.isLt hl).settle r.isLt
      refine ⟨congrArg Fabric.late ho.fabric, ?_⟩
      unfold Chip.Counted
      rw [← Chip.get_ovr_congr (he.counts r.val)]
      exact ho.counted

/-- Settles O28: each fence drains its issuer's moves in order; the publication fence then discards the entry buffers, and the
course fence is noted or counts the course. -/
theorem fencesComplete : Obligations.FencesComplete := by
  unfold Obligations.FencesComplete
  intro s hon hnd c served completes
  refine ⟨fun u => memoryFenceDone_completes s u hon hnd, fun k hkv => publicationFenceDone_completes s k hon hnd hkv,
    fun r hrun => ⟨courseFenceDone_completes s r hon hrun hnd, fun h => ?_⟩⟩
  have heq : c.courseFence r = c.endFence r.val := by
    rw [Chip.courseFence_eq, Chip.drainMoves_none _ _ h, Chip.any_own_false h, if_neg Bool.false_ne_true]
  refine ⟨fun hl => ?_, fun hl => ?_⟩
  · rw [exec_courseFenceDone_up s r hon hrun, heq, c.endFence_intime r.val hl]
  · have ho := (c.endFence_late r.val r.isLt hl).settle r.isLt
    rw [← heq] at ho
    exact ⟨_, exec_courseFenceDone_up s r hon hrun, rfl, ho.fabric, ho.counted, ho.items, ho.mem, ho.toCore⟩

end Sys2Proof.Machine
end

section
/-!
PROOFS. The work of a course boundary outside the governor leaves the fabric's own state: lost steps and failures, memories,
records, the key-value cache, adaptation, the ends of items, lending, lost channels, the reports.  Each function of the model
has one equation here, which goes through its arms.  simp keeps the lemmas it has used in its proofs (-implicitDefEqProofs):
left to definitional unfolding, the kernel would compare two devices part by part.
-/

namespace Sys2Proof.Machine

theorem foldl_fabric {β : Type} {g : Chip → β → Chip} (hg : ∀ c x, (g c x).fabric = c.fabric) (l : List β) (c : Chip) :
    (l.foldl g c).fabric = c.fabric := by
  induction l generalizing c with
  | nil => rfl
  | cons x l ih => exact (ih _).trans (hg c x)

theorem foldN_fabric {g : Chip → Nat → Chip} (hg : ∀ c x, (g c x).fabric = c.fabric) (n : Nat) (c : Chip) :
    (foldN n g c).fabric = c.fabric := foldl_fabric hg _ c

theorem ite_fabric {p : Prop} [Decidable p] {c a b : Chip} (ha : a.fabric = c.fabric) (hb : b.fabric = c.fabric) :
    (if p then a else b).fabric = c.fabric := by
  split
  · exact ha
  · exact hb

variable (c : Chip)

/-! ## Lost steps and failures -/

@[simp] theorem Chip.log_fabric (code : Nat) (l : Loc) (stated : Option Nat) : (c.log code l stated).fabric = c.fabric :=
  (c.log_beside code l stated).fabric
@[simp] theorem Chip.loseStep_fabric (u : Nat) : (c.loseStep u).fabric = c.fabric := (c.loseStep_beside u).fabric
@[simp] theorem Chip.carry_fabric (pairs : List (Gran × Gran)) : (c.carry pairs).1.fabric = c.fabric :=
  (c.carry_beside pairs).fabric
@[simp] theorem Chip.ledger_fabric : c.ledger.fabric = c.fabric := c.ledger_beside.fabric
@[simp] theorem Chip.freeSite_fabric (r b site : Nat) : (c.freeSite r b site).fabric = c.fabric :=
  (c.freeSite_beside r b site).fabric
@[simp] theorem Chip.setHndValid_fabric (k : Nat) (v : Bool) : (c.setHndValid k v).fabric = c.fabric :=
  (c.setHndValid_beside k v).fabric
@[simp] theorem Chip.serveFrom_fabric (u k : Nat) : (c.serveFrom u k).fabric = c.fabric := (c.serveFrom_beside u k).fabric
@[simp] theorem Chip.setLent_fabric (p : Nat) (on : Bool) : (c.setLent p on).fabric = c.fabric := (c.setLent_beside p on).fabric

@[simp] theorem Chip.stopItem_fabric (n : Nat) (why : List Byte) : (c.stopItem n why).fabric = c.fabric := by
  unfold Chip.stopItem
  split
  · rfl
  · split
    · rfl
    · simp -implicitDefEqProofs

@[simp] theorem Chip.degrade_fabric (d : Degradation) : (c.degrade d).fabric = c.fabric := by
  unfold Chip.degrade Chip.retarget
  dsimp only
  split
  · rfl
  · split
    · simp -implicitDefEqProofs
    · simp -implicitDefEqProofs

@[simp] theorem Chip.markBlock_fabric (r b : Nat) : (c.markBlock r b).fabric = c.fabric := by
  unfold Chip.markBlock
  dsimp only
  split
  · simp -implicitDefEqProofs
  · simp -implicitDefEqProofs

@[simp] theorem Chip.regionFail_fabric (r : Nat) : (c.regionFail r).fabric = c.fabric := by
  unfold Chip.regionFail
  extract_lets c1 c2 c3
  have h3 : c3.fabric = c.fabric := by
    unfold c3
    rw [foldl_fabric (fun c lb => c.loseStep_fabric (8 * r + lb))]
    simp -implicitDefEqProofs [c2, c1]
  split
  · rfl
  · split
    · rw [Chip.degrade_fabric, h3]
    · exact h3

@[simp] theorem Chip.faultHold_fabric : c.faultHold.fabric = c.fabric := by
  unfold Chip.faultHold
  dsimp only
  split
  · rfl
  · rw [foldl_fabric (fun c n => c.stopItem_fabric n _)]
    simp -implicitDefEqProofs

@[simp] theorem Chip.roleLost_fabric (role : Nat) : (c.roleLost role).fabric = c.fabric := by
  unfold Chip.roleLost
  split
  · simp -implicitDefEqProofs
  · simp -implicitDefEqProofs

@[simp] theorem Chip.coreFail_fabric (k : Nat) : (c.coreFail k).fabric = c.fabric := by
  unfold Chip.coreFail
  extract_lets held c1 c2
  have h2 : c2.fabric = c.fabric := by simp -implicitDefEqProofs [c2, c1]
  clear_value c2
  split
  · rfl
  · split
    · simpa -implicitDefEqProofs using h2
    · split
      · split
        · simpa -implicitDefEqProofs using h2
        · split
          · exact h2
          · simpa -implicitDefEqProofs using h2
      · split
        · simpa -implicitDefEqProofs using h2
        · simpa -implicitDefEqProofs using h2

@[simp] theorem Chip.timingChecks_fabric (bad : List (Fin 4)) : (c.timingChecks bad).fabric = c.fabric := by
  unfold Chip.timingChecks
  exact foldl_fabric (fun c r => by simp -implicitDefEqProofs) bad c

/-- The log entries of one rename map's changes. -/
theorem foldl_logGraft_fabric {p : Nat → Prop} [DecidablePred p] (code : Nat) (loc : Chip → Nat → Loc) (f : Fld) (l : List Nat) (c : Chip) :
    (l.foldl (fun c k => if p k then c else (c.log code (loc c k)).bump f) c).fabric = c.fabric := by
  refine foldl_fabric (fun c k => ?_) l c
  split
  · rfl
  · simp -implicitDefEqProofs

@[simp] theorem Chip.logGraft_fabric (r : Reg) (i j old new : Nat) : (c.logGraft r i j old new).fabric = c.fabric := by
  unfold Chip.logGraft
  split
  · exact foldl_logGraft_fabric _ _ _ _ c
  · exact foldl_logGraft_fabric _ _ _ _ c
  · extract_lets c1 role
    have h1 : c1.fabric = c.fabric := foldl_logGraft_fabric _ _ _ _ c
    clear_value c1
    split
    · exact h1
    · simpa -implicitDefEqProofs using h1
  · rfl

@[simp] theorem Chip.spareBank_fabric (bank : Nat) : (c.spareBank bank).fabric = c.fabric := by
  unfold Chip.spareBank
  split
  · rfl
  · split
    · simp -implicitDefEqProofs
    · simp -implicitDefEqProofs

/-! ## Records and the ends of items -/

@[simp] theorem Chip.enterGate_fabric (x i start : Nat) : (c.enterGate x i start).fabric = c.fabric := by
  unfold Chip.enterGate
  split
  · simp -implicitDefEqProofs
  · simp -implicitDefEqProofs

@[simp] theorem Chip.gclCourse_fabric : c.gclCourse.fabric = c.fabric := by
  unfold Chip.gclCourse
  refine foldl_fabric (fun c x => ?_) _ c
  dsimp only
  split
  · simp -implicitDefEqProofs
  · split
    · simp -implicitDefEqProofs
    · rfl

@[simp] theorem Chip.showSpool_fabric (s : Nat) : (c.showSpool s).fabric = c.fabric := by
  unfold Chip.showSpool
  split
  · dsimp only
    split
    · simp -implicitDefEqProofs
    · simp -implicitDefEqProofs
  · rfl

@[simp] theorem Chip.giveSpool_fabric (s n : Nat) : (c.giveSpool s n).fabric = c.fabric := by
  unfold Chip.giveSpool
  simp -implicitDefEqProofs

@[simp] theorem Chip.addGap_fabric (s cls item : Nat) (why : List Byte) : (c.addGap s cls item why).fabric = c.fabric := by
  unfold Chip.addGap
  simp -implicitDefEqProofs

@[simp] theorem Chip.addGaps_fabric (s o item : Nat) (why : List Byte) : (c.addGaps s o item why).fabric = c.fabric := by
  unfold Chip.addGaps
  exact foldl_fabric (fun c k => by simp -implicitDefEqProofs) _ c

@[simp] theorem Chip.form_fabric (i : Item) (d : Deliv) (kind : Nat) (bytes : List Byte) :
    (c.form i d kind bytes).fabric = c.fabric := by
  unfold Chip.form
  simp -implicitDefEqProofs

/-- Records formed for those deliveries that are not cut. -/
theorem foldl_form_fabric {p : Deliv → Prop} [DecidablePred p] (i : Item) (kind : Nat) (bytes : Deliv → List Byte) (l : List Deliv)
    (c : Chip) : (l.foldl (fun c d => if p d then c else c.form i d kind (bytes d)) c).fabric = c.fabric := by
  refine foldl_fabric (fun c d => ?_) l c
  split
  · rfl
  · simp -implicitDefEqProofs

@[simp] theorem Chip.formBegin_fabric (n : Nat) : (c.formBegin n).fabric = c.fabric := by
  unfold Chip.formBegin
  split
  · rfl
  · split
    · rfl
    · dsimp only
      rw [foldl_form_fabric]
      simp -implicitDefEqProofs

@[simp] theorem Chip.beginItems_fabric : c.beginItems.fabric = c.fabric := by
  unfold Chip.beginItems
  exact foldl_fabric (fun c i => by simp -implicitDefEqProofs) _ c

@[simp] theorem Chip.formField_fabric (n k : Nat) : (c.formField n k).fabric = c.fabric := by
  unfold Chip.formField
  split
  · rfl
  · split
    · rfl
    · dsimp only
      refine foldl_fabric (fun c d => ?_) _ c
      split
      · rfl
      · split
        · simp -implicitDefEqProofs
        · simp -implicitDefEqProofs

@[simp] theorem Chip.grant_fabric (s : Nat) : (c.grant s).fabric = c.fabric := (c.grant_calm s).fabric

@[simp] theorem Chip.creditReturn_fabric (n : Nat) : (c.creditReturn n).fabric = c.fabric := by
  unfold Chip.creditReturn
  split
  · rfl
  · extract_lets c1 c2 c3 s c4
    have h3 : c3.fabric = c.fabric := by simp -implicitDefEqProofs [c3, c2, c1]
    clear_value c3
    split
    · split
      · simpa -implicitDefEqProofs using h3
      · split
        · simpa -implicitDefEqProofs using h3
        · exact h3
    · rw [Chip.grant_fabric]
      unfold c4
      split
      · simpa -implicitDefEqProofs using h3
      · exact h3

@[simp] theorem Chip.sessionDone_fabric (s n : Nat) : (c.sessionDone s n).fabric = c.fabric := by
  unfold Chip.sessionDone
  split
  · rfl
  · dsimp only
    split
    · simp -implicitDefEqProofs
    · simp -implicitDefEqProofs

@[simp] theorem Chip.endCore_fabric (n : Nat) (v : Verdict) : (c.endCore n v).fabric = c.fabric := by
  unfold Chip.endCore
  split
  · rfl
  · extract_lets op c1 c2 c3 c4
    have h3 : c3.fabric = c.fabric := by simp -implicitDefEqProofs [c3, c2, c1]
    clear_value c3
    have h4 : c4.fabric = c.fabric := by
      unfold c4
      split
      · exact h3
      · rw [foldl_fabric (fun c k => c.formField_fabric n k), h3]
    clear_value c4
    split
    · rfl
    · split
      · exact h4
      · extract_lets kinds c5
        have h5 : c5.fabric = c.fabric := (foldl_form_fabric _ _ _ _ c4).trans h4
        clear_value c5
        split
        · exact h5
        · extract_lets c6 mand wait c7 c8
          have h6 : c6.fabric = c.fabric := by
            refine (foldl_fabric (fun c d => ?_) _ c5).trans h5
            split
            · rfl
            · simp -implicitDefEqProofs
          clear_value c6
          have h8 : c8.fabric = c.fabric := by simpa [c8, c7] using h6
          clear_value c8
          split
          · simpa -implicitDefEqProofs using h8
          · exact h8

/-! ## The key-value cache -/

@[simp] theorem Chip.showKv_fabric : c.showKv.fabric = c.fabric := by
  unfold Chip.showKv
  simp -implicitDefEqProofs

/-- What an allocation answers is the cache with one more page set. -/
theorem Chip.kvAlloc_some {lcWork : Bool} {pages : Nat} {d : Chip} {k : KvSet} (h : c.kvAlloc lcWork pages = some (d, k)) :
    d = (c.updKv (fun v => { v with sets := v.sets ++ [k] })).showKv := by
  unfold Chip.kvAlloc at h
  extract_lets free left pool ovf take at h
  have ht : ∀ s, take s = some (d, k) → d = (c.updKv (fun v => { v with sets := v.sets ++ [k] })).showKv := by
    intro s hs
    cases hs
    rfl
  clear_value pool ovf take
  split at h
  · split at h
    · exact ht _ h
    · split at h
      · exact ht _ h
      · cases h
  · split at h
    · exact ht _ h
    · split at h
      · exact ht _ h
      · cases h
  · cases h
  · split at h
    · exact ht _ h
    · cases h

theorem Chip.kvAlloc_fabric {lcWork : Bool} {pages : Nat} {d : Chip} {k : KvSet} (h : c.kvAlloc lcWork pages = some (d, k)) :
    d.fabric = c.fabric := by
  rw [c.kvAlloc_some h]
  simp -implicitDefEqProofs

@[simp] theorem Chip.kvRecount_fabric (old new : List (BitVec 32)) (t : Nat) : (c.kvRecount old new t).fabric = c.fabric := by
  unfold Chip.kvRecount
  simp -implicitDefEqProofs

@[simp] theorem Chip.kvPublish_fabric (q : Nat) (new : List (BitVec 32)) : (c.kvPublish q new).fabric = c.fabric := by
  unfold Chip.kvPublish
  simp -implicitDefEqProofs

@[simp] theorem Chip.kvTake_fabric (n : Nat) : (c.kvTake n).1.fabric = c.fabric := by
  unfold Chip.kvTake
  split
  · rfl
  · split
    · rfl
    · split
      · rfl
      · simp -implicitDefEqProofs

@[simp] theorem Chip.kvTakeTrain_fabric (set : Nat) : (c.kvTakeTrain set).1.fabric = c.fabric := by
  unfold Chip.kvTakeTrain
  split
  · rfl
  · split
    · rfl
    · simp -implicitDefEqProofs

@[simp] theorem Chip.kvCopySet_fabric (a b : KvSet) : (c.kvCopySet a b).fabric = c.fabric := by
  unfold Chip.kvCopySet
  simp -implicitDefEqProofs

/-- Work that carries a further value along. -/
theorem foldl_fst_fabric {α : Type} {g : Chip × α → Nat → Chip × α} (hg : ∀ a x, (g a x).1.fabric = a.1.fabric)
    (l : List Nat) (a : Chip × α) : (l.foldl g a).1.fabric = a.1.fabric := by
  induction l generalizing a with
  | nil => rfl
  | cons x l ih => exact (ih _).trans (hg a x)

@[simp] theorem Chip.kvEdit_fabric (e : KvEdit) : (c.kvEdit e).fabric = c.fabric := by
  cases e with
  | train k =>
    have ht := c.kvTakeTrain_fabric k.val
    unfold Chip.kvEdit
    dsimp only
    split
    · next he => rwa [he] at ht
    · next he =>
      rw [he] at ht
      split
      · exact ht
      · split
        · simpa -implicitDefEqProofs using ht
        · next ha => simpa -implicitDefEqProofs using (Chip.kvAlloc_fabric _ ha).trans ht
  | trainEnd k =>
    unfold Chip.kvEdit
    dsimp only
    split
    · rfl
    · simp -implicitDefEqProofs
  | append n ov =>
    have ht := c.kvTake_fabric n
    unfold Chip.kvEdit
    dsimp only
    split
    · next he => rwa [he] at ht
    · next he =>
      rw [he] at ht
      split
      · exact ht
      · split
        · simpa -implicitDefEqProofs using ht
        · next ha => simpa -implicitDefEqProofs using (Chip.kvAlloc_fabric _ ha).trans ht
  | attach n a pos =>
    have ht := c.kvTake_fabric n
    unfold Chip.kvEdit
    dsimp only
    split
    · next he => rwa [he] at ht
    · next he =>
      rw [he] at ht
      split
      · exact ht
      · split
        · simpa -implicitDefEqProofs using ht
        · split
          · next ha _ =>
            have hd := (Chip.kvAlloc_fabric _ ha).trans ht
            split
            · simpa -implicitDefEqProofs using hd
            · simpa -implicitDefEqProofs using hd
          · simpa -implicitDefEqProofs using ht
  | release n j =>
    unfold Chip.kvEdit
    dsimp only
    split
    · rfl
    · simp -implicitDefEqProofs
  | anchor q k =>
    unfold Chip.kvEdit
    dsimp only
    split
    · rfl
    · rw [Chip.kvPublish_fabric, foldl_fst_fabric (fun a x => ?_)]
      · simp -implicitDefEqProofs
      · split
        · next ha => exact a.1.kvAlloc_fabric ha
        · rfl
  | clear q =>
    unfold Chip.kvEdit
    dsimp only
    split
    · rfl
    · simp -implicitDefEqProofs

@[simp] theorem kvDrain_fabric (fuel : Nat) : (kvDrain fuel c).fabric = c.fabric := by
  induction fuel generalizing c with
  | zero => rfl
  | succ fuel ih =>
    unfold kvDrain
    split
    · rfl
    · refine ite_fabric rfl (ite_fabric (ite_fabric rfl ?_) ?_)
      · simp -implicitDefEqProofs
      · simp -implicitDefEqProofs [ih]

@[simp] theorem Chip.kvRun_fabric : c.kvRun.fabric = c.fabric := kvDrain_fabric c _
@[simp] theorem Chip.kvTableEdit_fabric (e : KvEdit) : (c.kvTableEdit e).fabric = c.fabric := by
  unfold Chip.kvTableEdit
  simp -implicitDefEqProofs
@[simp] theorem Chip.limboReturn_fabric : c.limboReturn.fabric = c.fabric := by
  unfold Chip.limboReturn
  simp -implicitDefEqProofs

@[simp] theorem Chip.kvFreeItem_fabric (n : Nat) : (c.kvFreeItem n).fabric = c.fabric := by
  unfold Chip.kvFreeItem
  split
  · rfl
  · simp -implicitDefEqProofs

@[simp] theorem Chip.writeSample_fabric (i : Item) (status : Nat) : (c.writeSample i status).fabric = c.fabric := by
  unfold Chip.writeSample
  dsimp only
  split
  · rfl
  · simp -implicitDefEqProofs

@[simp] theorem Chip.endItem_fabric (n : Nat) (v : Verdict) : (c.endItem n v).fabric = c.fabric := by
  unfold Chip.endItem
  split
  · rfl
  · dsimp only
    split
    · rfl
    · split
      · simp -implicitDefEqProofs
      · simp -implicitDefEqProofs

@[simp] theorem Chip.endDue_fabric (n : Nat) : (c.endDue n).fabric = c.fabric := by
  unfold Chip.endDue
  split
  · rfl
  · split
    · rfl
    · split
      · rfl
      · simp -implicitDefEqProofs

/-! ## Adaptation -/

@[simp] theorem Chip.showAdapt_fabric : c.showAdapt.fabric = c.fabric := by
  unfold Chip.showAdapt
  dsimp only
  rw [foldl_fabric (fun c s => by simp -implicitDefEqProofs)]
  simp -implicitDefEqProofs

@[simp] theorem Chip.trainRelease_fabric (set : Fin 8) : (c.trainRelease set).fabric = c.fabric := by
  unfold Chip.trainRelease
  split
  · simp -implicitDefEqProofs
  · rfl

@[simp] theorem Chip.adaptCourse_fabric : c.adaptCourse.fabric = c.fabric := by
  unfold Chip.adaptCourse
  dsimp only
  rw [Chip.updAdapt_fabric]
  refine foldl_fabric (fun c s => ?_) _ c
  split
  · simp -implicitDefEqProofs
  · rfl

@[simp] theorem Chip.adaptRelease_fabric : c.adaptRelease.fabric = c.fabric := by
  unfold Chip.adaptRelease
  dsimp only
  rw [Chip.showAdapt_fabric, Chip.updAdapt_fabric]
  exact foldl_fabric (fun c s => by simp -implicitDefEqProofs) _ c

@[simp] theorem Chip.adaptLost_fabric : c.adaptLost.fabric = c.fabric := by
  unfold Chip.adaptLost
  refine (foldl_fabric (fun c s => ?_) _ _).trans c.adaptRelease_fabric
  split
  · simp -implicitDefEqProofs
  · rfl

/-! ## Bands and lending -/

@[simp] theorem Chip.freeRing_fabric (item : Nat) : (c.freeRing item).fabric = c.fabric := by
  unfold Chip.freeRing
  split
  · rfl
  · simp -implicitDefEqProofs

@[simp] theorem Chip.dropBand_fabric (item band : Nat) : (c.dropBand item band).fabric = c.fabric := by
  unfold Chip.dropBand
  split
  · rfl
  · dsimp only
    split
    · simp -implicitDefEqProofs
    · simp -implicitDefEqProofs

@[simp] theorem Chip.staleBands_fabric : c.staleBands.fabric = c.fabric := by
  unfold Chip.staleBands
  exact foldl_fabric (fun c i => foldl_fabric (fun c b => by simp -implicitDefEqProofs) _ c) _ c

@[simp] theorem Chip.lendBlock_fabric (b u : Nat) : (c.lendBlock b u).fabric = c.fabric := by
  unfold Chip.lendBlock
  rw [Chip.serveFrom_fabric]
  exact foldl_fabric (fun c k => by simp -implicitDefEqProofs) _ c

@[simp] theorem Chip.lend_fabric (p : Nat) : (c.lend p).fabric = c.fabric := by
  unfold Chip.lend
  dsimp only
  rw [foldl_fabric (fun c u => c.lendBlock_fabric _ u)]
  simp -implicitDefEqProofs

@[simp] theorem Chip.lending_fabric : c.lending.fabric = c.fabric := by
  unfold Chip.lending
  refine foldl_fabric (fun c p => ?_) _ c
  split
  · rfl
  · refine ite_fabric ?_ ?_
    · simp -implicitDefEqProofs
    · simp -implicitDefEqProofs

/-! ## Lost channels -/

@[simp] theorem Chip.loseInputs_fabric (ch : Nat) : (c.loseInputs ch).fabric = c.fabric := by
  unfold Chip.loseInputs
  refine foldl_fabric (fun c i => ?_) _ c
  extract_lets d
  have hd : d.fabric = c.fabric := by
    unfold d
    split
    · simp -implicitDefEqProofs
    · rfl
  clear_value d
  split
  · exact hd
  · simpa -implicitDefEqProofs using hd

@[simp] theorem Chip.loseWork_fabric (ch : Nat) : (c.loseWork ch).fabric = c.fabric := by
  unfold Chip.loseWork
  dsimp only
  rw [foldl_fabric (fun c p => by simp -implicitDefEqProofs)]
  exact foldl_fabric (fun c i => by simp -implicitDefEqProofs) _ c

@[simp] theorem Chip.loseSpool_fabric (ch s : Nat) : (c.loseSpool ch s).fabric = c.fabric := by
  unfold Chip.loseSpool
  extract_lets x hit outs clean c1 c2 c3
  have h2 : c2.fabric = c.fabric := by simp -implicitDefEqProofs [c2, c1]
  clear_value c2
  have h3 : c3.fabric = c.fabric := by
    refine (foldl_fabric (fun c n => ?_) _ c2).trans h2
    split
    · simp -implicitDefEqProofs
    · simp -implicitDefEqProofs
  split
  · rfl
  · rw [foldl_fabric (fun c n => c.sessionDone_fabric s n), h3]

@[simp] theorem Chip.halveQuota_fabric (s : Nat) : (c.halveQuota s).fabric = c.fabric := by
  unfold Chip.halveQuota
  dsimp only
  split
  · rfl
  · simp -implicitDefEqProofs

@[simp] theorem Chip.showFree_fabric : c.showFree.fabric = c.fabric := by
  unfold Chip.showFree
  simp -implicitDefEqProofs

@[simp] theorem Chip.ddrLost_fabric (ch : Fin 2) : (c.ddrLost ch).fabric = c.fabric := by
  unfold Chip.ddrLost
  extract_lets c1 c2 c3 c4
  have h2 : c2.fabric = c.fabric := by simp -implicitDefEqProofs [c2, c1]
  clear_value c2
  have h4 : c4.fabric = c.fabric := by
    refine (foldN_fabric (fun c s => by simp -implicitDefEqProofs) _ c3).trans ?_
    simpa [c3] using h2
  clear_value c4
  split
  · rfl
  · split
    · exact h2
    · simpa -implicitDefEqProofs using h4

@[simp] theorem Chip.ddrCheck_fabric : c.ddrCheck.fabric = c.fabric := by
  unfold Chip.ddrCheck
  refine foldl_fabric (fun c ch => ?_) _ c
  split
  · simp -implicitDefEqProofs
  · rfl

/-! ## Reports -/

@[simp] theorem Chip.summary_fabric : c.summary.fabric = c.fabric := by
  unfold Chip.summary
  extract_lets +onlyGivenNames old c1 c2
  have h1 : c1.fabric = c.fabric := foldl_fabric (fun c e => by simp -implicitDefEqProofs) _ c
  clear_value c1
  have h2 : c2.fabric = c.fabric := by
    unfold c2
    split
    · simpa -implicitDefEqProofs using h1
    · exact h1
  clear_value c2
  simpa -implicitDefEqProofs using h2

@[simp] theorem Chip.reloadBlock_fabric (r p : Nat) : (c.reloadBlock r p).fabric = c.fabric := by
  unfold Chip.reloadBlock
  split
  · rfl
  · dsimp only
    rw [Chip.updRecov_fabric]
    exact foldl_fabric (fun c e => by simp -implicitDefEqProofs) _ c

@[simp] theorem Chip.reloads_fabric : c.reloads.fabric = c.fabric := by
  unfold Chip.reloads
  exact foldl_fabric (fun c e => by simp -implicitDefEqProofs) _ c

@[simp] theorem Chip.windowCourse_fabric : c.windowCourse.fabric = c.fabric := by
  unfold Chip.windowCourse
  dsimp only
  split
  · simp -implicitDefEqProofs
  · simp -implicitDefEqProofs

@[simp] theorem Chip.lagCourse_fabric : c.lagCourse.fabric = c.fabric := by
  unfold Chip.lagCourse
  dsimp only
  rw [Chip.updSched_fabric]
  exact foldN_fabric (fun c r => by simp -implicitDefEqProofs) _ c

end Sys2Proof.Machine
end

section
/-!
PROOFS. The governor's requests: their range, AT_MAX, and what a course boundary leaves of the last one.
-/

namespace Sys2Proof.Machine

/-! ## The decision table -/

/-- No request leaves the range of R42. -/
theorem govern_request_mem {pmin v pout cap hyst margin q : Nat} {was : Bool}
    (h : (govern pmin v pout cap hyst margin was).request = some q) : 650 ≤ q ∧ q ≤ 900 := by
  have hclip : ∀ x : Nat, 650 ≤ Nat.min 900 (Nat.max 650 x) ∧ Nat.min 900 (Nat.max 650 x) ≤ 900 := fun x =>
    ⟨Nat.le_min.2 ⟨by decide, Nat.le_max_left _ _⟩, Nat.min_le_left _ _⟩
  unfold govern at h
  extract_lets target cap' tooMuch low at h
  have hlow : 650 ≤ low ∧ low ≤ 900 := hclip (v - 5)
  clear_value low
  split at h
  · cases h
    decide
  · split at h
    · cases h
      exact hclip _
    · split at h
      · split at h
        · cases h
        · cases h
          exact hlow
      · split at h
        · cases h
          exact hlow
        · cases h

/-- A raise beyond 0.900 V is clipped (R42). -/
theorem govern_clips {pmin v margin : Nat} (pout cap hyst : Nat) (was : Bool) (h1 : 850 ≤ pmin)
    (h2 : pmin < 850 + Nat.max margin 26) (h3 : 900 < v + 10) :
    (govern pmin v pout cap hyst margin was).request = some 900 ∧ (govern pmin v pout cap hyst margin was).atMax = true := by
  have hv : Nat.min 900 (Nat.max 650 (v + 10)) = 900 :=
    Nat.min_eq_left (Nat.le_trans (Nat.le_of_lt h3) (Nat.le_max_right _ _))
  unfold govern
  rw [if_neg (Nat.not_lt.2 h1), if_pos h2]
  exact ⟨congrArg some hv, decide_eq_true h3⟩

/-! ## One evaluation -/

section
variable (c : Chip)

/-- The counts and CAP_UNMET that an evaluation leaves. -/
def Chip.governCounts (a : GovAct) : Chip :=
  let c := c.putB F.GOV_STATUS_CAP_UNMET a.unmet
  let c := if a.raised then c.bump F.GOV_POWER_RAISE_CNT else c
  if a.lowered then c.bump F.GOV_POWER_LOWER_CNT else c

theorem Chip.governAct_none (a : GovAct) (h : a.request = none) : c.governAct a = c.governCounts a := by
  unfold Chip.governAct
  rw [h]
  rfl

theorem Chip.governAct_some (a : GovAct) {v : Nat} (h : a.request = some v) : c.governAct a =
    { (c.governCounts a).putB F.GOV_STATUS_AT_MAX a.atMax with fabric := { (c.governCounts a).fabric with request := v } } := by
  unfold Chip.governAct
  rw [h]
  rfl

/-- A counter of the governor is no field of GOV_STATUS. -/
theorem Chip.flag_bump_power (b : Chip) (f : Fld) (hf : f.reg = .GOV_POWER) :
    (b.bump f).flag F.GOV_STATUS_AT_MAX = b.flag F.GOV_STATUS_AT_MAX :=
  Chip.flag_congr (Chip.get_bump_ne _ _ _ _ _ _ _ _ (by rw [hf]; decide))

theorem Chip.governCounts_atMax (a : GovAct) :
    (c.governCounts a).flag F.GOV_STATUS_AT_MAX = c.flag F.GOV_STATUS_AT_MAX := by
  have h0 : (c.putB F.GOV_STATUS_CAP_UNMET a.unmet).flag F.GOV_STATUS_AT_MAX = c.flag F.GOV_STATUS_AT_MAX :=
    Chip.flag_congr (Chip.get_putB_field _ _ _ _ _ _ rfl (by decide) (by decide))
  unfold Chip.governCounts
  extract_lets c1 c2
  have h2 : c2.flag F.GOV_STATUS_AT_MAX = c.flag F.GOV_STATUS_AT_MAX := by
    unfold c2
    split
    · exact (c1.flag_bump_power _ rfl).trans h0
    · exact h0
  split
  · exact (c2.flag_bump_power _ rfl).trans h2
  · exact h2

theorem Chip.governCounts_fabric (a : GovAct) : (c.governCounts a).fabric = c.fabric := by
  unfold Chip.governCounts
  refine ite_fabric ?_ ?_
  · rw [Chip.bump_fabric]
    exact ite_fabric (by simp -implicitDefEqProofs) (by simp -implicitDefEqProofs)
  · exact ite_fabric (by simp -implicitDefEqProofs) (by simp -implicitDefEqProofs)

/-- AT_MAX speaks of the last request (Table 2-6). -/
theorem Chip.governAct_atMax (a : GovAct) : (c.governAct a).flag F.GOV_STATUS_AT_MAX =
    if a.request.isSome then a.atMax else c.flag F.GOV_STATUS_AT_MAX := by
  cases h : a.request with
  | none => rw [c.governAct_none a h, c.governCounts_atMax]; rfl
  | some v =>
    rw [c.governAct_some a h]
    exact Chip.flag_putB_self (c.governCounts a) F.GOV_STATUS_AT_MAX a.atMax 0 0 (by decide) (by decide) rfl

theorem Chip.governAct_request (a : GovAct) : (c.governAct a).fabric.request = a.request.getD c.fabric.request := by
  cases h : a.request with
  | none => rw [c.governAct_none a h, c.governCounts_fabric]; rfl
  | some v => rw [c.governAct_some a h]; rfl

@[simp] theorem Chip.modRing_request (k : Nat) (f : RingMem → RingMem) : (c.modRing k f).fabric.request = c.fabric.request := rfl

theorem foldl_request {β : Type} {g : Chip → β → Chip} (hg : ∀ c x, (g c x).fabric.request = c.fabric.request) (l : List β)
    (c : Chip) : (l.foldl g c).fabric.request = c.fabric.request := by
  induction l generalizing c with
  | nil => rfl
  | cons x l ih => exact (ih _).trans (hg c x)

theorem ite_request {p : Prop} [Decidable p] {c a b : Chip} (ha : a.fabric.request = c.fabric.request)
    (hb : b.fabric.request = c.fabric.request) : (if p then a else b).fabric.request = c.fabric.request := by
  split
  · exact ha
  · exact hb

@[simp] theorem Chip.clearMinima_request : c.clearMinima.fabric.request = c.fabric.request :=
  foldl_request (fun c k => c.modRing_request k _) _ c

@[simp] theorem Chip.pmbRead_request (a : Option PmbIn) : (c.pmbRead a).fabric.request = c.fabric.request := by
  unfold Chip.pmbRead Chip.pmbFault
  split
  · simp -implicitDefEqProofs
  · dsimp only
    split
    · simp -implicitDefEqProofs
    · rfl

@[simp] theorem Chip.reportPmin_request : c.reportPmin.fabric.request = c.fabric.request := by
  unfold Chip.reportPmin
  split
  · rfl
  · simp -implicitDefEqProofs

/-- The last request stays, or a new one lies in the range of R42. -/
def Chip.RequestKept (c t : Chip) : Prop :=
  t.fabric.request = c.fabric.request ∨ 650 ≤ t.fabric.request ∧ t.fabric.request ≤ 900

theorem Chip.governAct_kept {pmin v pout cap hyst margin : Nat} {was : Bool} :
    c.RequestKept (c.governAct (govern pmin v pout cap hyst margin was)) := by
  unfold Chip.RequestKept
  rw [Chip.governAct_request]
  cases h : (govern pmin v pout cap hyst margin was).request with
  | none => exact .inl rfl
  | some q => exact .inr (govern_request_mem h)

theorem Chip.governor_kept (a : Option PmbIn) : c.RequestKept (c.governor a) := by
  unfold Chip.governor Chip.RequestKept
  extract_lets c1 c2
  have h1 : c1.fabric.request = c.fabric.request := by simp [c1]
  have h2 : c1.RequestKept c2 := by
    unfold c2
    split
    · exact .inl rfl
    · split
      · exact .inl rfl
      · exact c1.governAct_kept
  rwa [Chip.clearMinima_request, ← h1]

/-! ## The rest of a course boundary -/

@[simp] theorem Chip.mapLater_request (r : Reg) (i j w : Nat) : (c.mapLater r i j w).fabric.request = c.fabric.request := rfl

@[simp] theorem Chip.applyMaps_request (ready : Nat → Bool) : (c.applyMaps ready).fabric.request = c.fabric.request := by
  unfold Chip.applyMaps
  dsimp only
  refine foldl_request (fun c e => ?_) _ c
  split
  · rfl
  · rfl

/-- The loss of a block without a spare, in a region that exists. -/
theorem Chip.degradeBlock_fabric (r : Nat) : (if h : r < 4 then c.degrade (.block ⟨r, h⟩) else c).fabric = c.fabric := by
  split
  · simp
  · rfl

@[simp] theorem Chip.blockFail_request (r b : Nat) : (c.blockFail r b).fabric.request = c.fabric.request := by
  unfold Chip.blockFail
  extract_lets lb c1 spare c2 fab c3
  have h3 : c3.fabric.request = c.fabric.request := by simp -implicitDefEqProofs [c3, fab, c2, c1]
  clear_value c3 fab c2 spare c1 lb
  split
  · rfl
  · cases lb with
    | none => simpa -implicitDefEqProofs using h3
    | some lb =>
      have hlost : (c3.loseStep (8 * r + lb)).fabric.request = c.fabric.request := by rw [Chip.loseStep_fabric, h3]
      cases spare with
      | none => exact (congrArg Fabric.request (Chip.degradeBlock_fabric _ r)).trans hlost
      | some p =>
        refine ite_request ?_ ?_
        · exact (congrArg Fabric.request (Chip.degradeBlock_fabric _ r)).trans hlost
        · simpa -implicitDefEqProofs using h3

@[simp] theorem Chip.spareRow_request (row : Nat) : (c.spareRow row).fabric.request = c.fabric.request := by
  unfold Chip.spareRow
  dsimp only
  split
  · split
    · simp -implicitDefEqProofs
    · simp -implicitDefEqProofs
  · split
    · simp -implicitDefEqProofs
    · simp -implicitDefEqProofs

@[simp] theorem Chip.sparing_request : c.sparing.fabric.request = c.fabric.request := by
  unfold Chip.sparing
  dsimp only
  rw [foldl_request (fun c s => ?_), foldl_request (fun c row => c.spareRow_request row)]
  split
  · simp -implicitDefEqProofs
  · rfl

/-- Work done for those that a condition does not leave out. -/
theorem foldl_unless_request {p : Nat → Prop} [DecidablePred p] {g : Chip → Nat → Chip}
    (hg : ∀ c k, (g c k).fabric.request = c.fabric.request) (l : List Nat) (c : Chip) :
    (l.foldl (fun c k => if p k then c else g c k) c).fabric.request = c.fabric.request := by
  refine foldl_request (fun c k => ?_) l c
  split
  · rfl
  · exact hg c k

@[simp] theorem Chip.graftDue_request (ready : Nat → Bool) : (c.graftDue ready).fabric.request = c.fabric.request := by
  unfold Chip.graftDue
  refine (foldl_request (fun d e => ?_) _ _).trans (c.applyMaps_request ready)
  split
  · dsimp only
    split
    · rw [foldl_unless_request (fun d k => by simp), Chip.logGraft_fabric]
    · rw [foldl_unless_request (fun d k => foldl_request (fun d s => by simp) _ d), Chip.logGraft_fabric]
    · rw [Chip.logGraft_fabric]
  · rfl

@[simp] theorem Chip.takeRole_request : c.takeRole.fabric.request = c.fabric.request := by
  unfold Chip.takeRole
  split
  · rfl
  · simp -implicitDefEqProofs

@[simp] theorem Chip.kicks_request (missed : List (Fin 10)) : (c.kicks missed).fabric.request = c.fabric.request := by
  unfold Chip.kicks
  refine foldl_request (fun c k => ?_) _ c
  extract_lets n fab d
  have hd : d.fabric.request = c.fabric.request := rfl
  clear_value d n
  split
  · rwa [Chip.coreFail_fabric]
  · exact hd

@[simp] theorem Chip.fenceCourse_request : c.fenceCourse.fabric.request = c.fabric.request := rfl

/-- What comes before the governor leaves the last request, and so does what follows it. -/
theorem Chip.courseWork_kept (w : CourseIn) : c.RequestKept (c.courseWork w) := by
  unfold Chip.courseWork
  extract_lets c1 late c2 c3 c4 c5 c6 c7
  have h3 : c3.fabric.request = c.fabric.request := by simp -implicitDefEqProofs [c3, c2, c1]
  have h4 : c3.RequestKept c4 := c3.governor_kept w.pmb
  have h6 : c6.fabric.request = c4.fabric.request := by simp -implicitDefEqProofs [c6, c5]
  have h7 : c7.fabric.request = c6.fabric.request := by
    unfold c7
    split
    · rfl
    · simp
  unfold Chip.RequestKept at h4 ⊢
  rw [Chip.summary_fabric, Chip.settle_fabric, h7, h6, ← h3]
  exact h4

@[simp] theorem Chip.toCourse_fabric : c.toCourse.fabric = c.fabric := rfl

theorem Chip.courseBoundary_kept (w : CourseIn) : c.RequestKept (c.courseBoundary w) := by
  unfold Chip.courseBoundary
  split
  · exact .inl rfl
  · extract_lets c1 c2
    have h2 : c2.fabric = c.fabric := by simp -implicitDefEqProofs [c2, c1]
    clear_value c2
    have hw := c2.courseWork_kept w
    have hg := c2.governor_kept w.pmb
    unfold Chip.RequestKept at hw hg ⊢
    rw [← h2]
    split
    · exact hw
    · rw [Chip.summary_fabric]
      split
      · exact hg
      · exact .inl rfl

end

/-! ## The obligation -/

/-- Settles O22: the decision table clips every request, AT_MAX is written with a request alone, and at a course boundary only
the governor requests. -/
theorem governorStaysInRange : Obligations.GovernorStaysInRange := by
  unfold Obligations.GovernorStaysInRange
  refine ⟨fun pmin v pout cap hyst margin was => ⟨fun q => govern_request_mem, govern_clips pout cap hyst was⟩,
    Chip.governAct_atMax, fun s t w h => ?_⟩
  rw [exec_courseBoundary] at h
  cases h
  exact s.chip.courseBoundary_kept w

end Sys2Proof.Machine
end

section
/-!
PROOFS. The fault log, and what a fault brings beside its log entry: steps that end at a step boundary, failures, grafts and
degradations.
-/

namespace Sys2Proof.Machine

/-! ## The fault log -/

/-- From `a` to `b` the fault log has taken `k` entries; entries at other positions stay (Tables 13-14, 13-15). -/
structure LogGrows (k : Nat) (a b : Chip) : Prop where
  next : b.get F.FAULT_LOG_PTR_NEXT = (a.get F.FAULT_LOG_PTR_NEXT + k) % 256
  stays : ∀ e, (∀ i, i < k → e ≠ (a.get F.FAULT_LOG_PTR_NEXT + i) % 256) →
    b.word .FAULT_LOG_W2 e 0 = a.word .FAULT_LOG_W2 e 0

theorem Chip.get_of_word {a b : Chip} (f : Fld) {i j : Nat} (h : b.word f.reg i j = a.word f.reg i j) : b.get f i j = a.get f i j :=
  congrArg (fun w => bitsOf w f.lo f.w) h

theorem Chip.logNext_lt (c : Chip) : c.get F.FAULT_LOG_PTR_NEXT < 256 := c.get_lt _ _ _

/-- The log's registers as they are: it has taken nothing. -/
theorem LogGrows.none {a b : Chip} (hp : b.word .FAULT_LOG_PTR 0 0 = a.word .FAULT_LOG_PTR 0 0)
    (hw : ∀ e, b.word .FAULT_LOG_W2 e 0 = a.word .FAULT_LOG_W2 e 0) : LogGrows 0 a b where
  next := (Chip.get_of_word _ hp).trans (Nat.mod_eq_of_lt a.logNext_lt).symm
  stays := fun e _ => hw e

theorem LogGrows.trans {k l : Nat} {a b c : Chip} (h : LogGrows k a b) (h' : LogGrows l b c) : LogGrows (k + l) a c where
  next := by
    rw [h'.next, h.next]
    omega
  stays := fun e he => by
    rw [h'.stays e (fun i hi => ?_), h.stays e (fun i hi => he i (by omega))]
    have := he (k + i) (by omega)
    rw [h.next]
    omega

theorem logW2_lt (code : Nat) (l : Loc) : logW2 code l < 2 ^ 32 := by
  unfold logW2
  omega

/-- The registers of the log lie apart from register `r`. -/
def Reg.offLog (r : Reg) : Bool :=
  Reg.apart .FAULT_LOG_W0 r && Reg.apart .FAULT_LOG_W1 r && Reg.apart .FAULT_LOG_W2 r && Reg.apart .FAULT_LOG_W3 r &&
    Reg.apart .FAULT_LOG_PTR r

/-- A log entry leaves every other register. -/
theorem Chip.log_word (c : Chip) (code : Nat) (l : Loc) (stated : Option Nat) (r : Reg) (i j : Nat) (h : r.offLog = true) :
    (c.log code l stated).word r i j = c.word r i j := by
  simp only [Reg.offLog, Bool.and_eq_true] at h
  obtain ⟨⟨⟨⟨h0, h1⟩, h2⟩, h3⟩, hp⟩ := h
  unfold Chip.log
  extract_lets detail c1 e c2 c3 c4 c5 c6
  have hc1 : c1.word r i j = c.word r i j := by
    unfold c1
    split <;> rfl
  calc (c6.wrap F.FAULT_LOG_PTR_COUNT).word r i j = c6.word r i j := c6.word_setWord_apart _ _ _ _ _ hp
    _ = c5.word r i j := c5.word_setWord_apart _ _ _ _ _ hp
    _ = c4.word r i j := c4.word_setWord_apart _ _ _ _ _ h3
    _ = c3.word r i j := c3.word_setWord_apart _ _ _ _ _ h2
    _ = c2.word r i j := c2.word_setWord_apart _ _ _ _ _ h1
    _ = c1.word r i j := c1.word_setWord_apart _ _ _ _ _ h0
    _ = c.word r i j := hc1

theorem Chip.log_get (c : Chip) (code : Nat) (l : Loc) (stated : Option Nat) (f : Fld) (i j : Nat) (h : f.reg.offLog = true) :
    (c.log code l stated).get f i j = c.get f i j := Chip.get_of_word f (c.log_word code l stated _ i j h)

/-- The words of class and place after a log entry, and the next position. -/
theorem Chip.log_entry (c : Chip) (code : Nat) (l : Loc) (stated : Option Nat) :
    (c.log code l stated).word .FAULT_LOG_W2 (c.get F.FAULT_LOG_PTR_NEXT) 0 = logW2 code l ∧
    LogGrows 1 c (c.log code l stated) := by
  have hlt := c.logNext_lt
  unfold Chip.log
  extract_lets detail c1 e c2 c3 c4 c5 c6
  have hc1 : ∀ r i j, c1.word r i j = c.word r i j := fun r i j => by
    unfold c1
    split <;> rfl
  have he : e = c.get F.FAULT_LOG_PTR_NEXT := Chip.get_of_word F.FAULT_LOG_PTR_NEXT (hc1 _ 0 0)
  -- the four words of the entry lie side by side
  have h2 : ∀ k, c3.word .FAULT_LOG_W2 k 0 = c.word .FAULT_LOG_W2 k 0 := fun k => by
    unfold c3 c2
    rw [Chip.word_setWord_ne _ _ (by simp only [Reg.addr, Reg.info]; omega),
      Chip.word_setWord_ne _ _ (by simp only [Reg.addr, Reg.info]; omega), hc1]
  have hw : ∀ k, (c6.wrap F.FAULT_LOG_PTR_COUNT).word .FAULT_LOG_W2 k 0 = c4.word .FAULT_LOG_W2 k 0 := fun k => by
    unfold Chip.wrap Chip.put
    rw [Chip.word_setWord_apart _ _ _ _ _ _ (by decide)]
    unfold c6 Chip.put c5
    rw [Chip.word_setWord_apart _ _ _ _ _ _ (by decide), Chip.word_setWord_ne _ _ (by simp only [Reg.addr, Reg.info]; omega)]
  have h5 : c5.get F.FAULT_LOG_PTR_NEXT = e := by
    have hp : c5.word .FAULT_LOG_PTR 0 0 = c1.word .FAULT_LOG_PTR 0 0 := by
      unfold c5 c4 c3 c2
      rw [Chip.word_setWord_apart _ _ _ _ _ _ (by decide), Chip.word_setWord_apart _ _ _ _ _ _ (by decide),
        Chip.word_setWord_apart _ _ _ _ _ _ (by decide), Chip.word_setWord_apart _ _ _ _ _ _ (by decide)]
    exact Chip.get_of_word F.FAULT_LOG_PTR_NEXT hp
  refine ⟨?_, ?_, fun k hk => ?_⟩
  · rw [hw, ← he]
    unfold c4
    rw [Chip.word_setWord_self _ _ _ _ _ (decide_eq_true ⟨he ▸ hlt, Nat.one_pos⟩), Nat.mod_eq_of_lt (logW2_lt code l)]
  · unfold Chip.wrap
    rw [Chip.get_put_field c6 F.FAULT_LOG_PTR_COUNT F.FAULT_LOG_PTR_NEXT _ _ _ rfl (by decide) (by decide)]
    unfold c6
    rw [Chip.get_put_self _ _ _ _ _ (by decide) (by decide), he]
    rfl
  · have hne : k ≠ e := by
      have := hk 0 Nat.one_pos
      omega
    rw [hw]
    unfold c4
    rw [Chip.word_setWord_ne _ _ (by simp only [Reg.addr, Reg.info]; omega), h2]

theorem Chip.log_grows (c : Chip) (code : Nat) (l : Loc) (stated : Option Nat) : LogGrows 1 c (c.log code l stated) :=
  (c.log_entry code l stated).2

/-- An entry stands while fewer than 256 follow it. -/
theorem LogGrows.logged {a b : Chip} {k code : Nat} {l : Loc} {stated : Option Nat} (h : LogGrows k (a.log code l stated) b)
    (hk : k < 256) : a.Logged b code l := by
  have hlt := a.logNext_lt
  obtain ⟨hentry, hgrows⟩ := a.log_entry code l stated
  unfold Chip.Logged
  rw [h.stays _ (fun i hi => ?_), hentry]
  rw [hgrows.next]
  omega

/-- An entry that is logged after work that logs nothing. -/
theorem Chip.Logged.of_next {a b t : Chip} {code : Nat} {l : Loc} (h : a.Logged t code l)
    (hn : a.get F.FAULT_LOG_PTR_NEXT = b.get F.FAULT_LOG_PTR_NEXT) : b.Logged t code l := by
  unfold Chip.Logged at h ⊢
  rwa [← hn]

/-- A word of class and place as it was. -/
theorem Chip.Logged.of_word {a t u : Chip} {code : Nat} {l : Loc} (h : a.Logged t code l)
    (hw : ∀ e, u.word .FAULT_LOG_W2 e 0 = t.word .FAULT_LOG_W2 e 0) : a.Logged u code l :=
  (hw _).trans h

/-! ## Slot tokens and handles at a step boundary -/

theorem Mem.SameData.trans {m n p : Mem} (h : m.SameData n) (k : n.SameData p) : m.SameData p := by
  unfold Mem.SameData at h k ⊢
  rw [k, h]

/-- A map without the entries of some keys. -/
theorem smGet_filter_key {α : Type} (d : α) (p : Nat → Bool) (m : SMap α) (k : Nat) :
    smGet d (m.filter (fun e => p e.1)) k = if p k then smGet d m k else d := by
  induction m with
  | nil => simp [smGet]
  | cons e m ih =>
    obtain ⟨x, v⟩ := e
    by_cases hx : x = k
    · subst hx
      cases hp : p x with
      | true => simp [hp, smGet]
      | false => simpa [hp] using ih
    · cases hp : p x with
      | true => simpa [hp, smGet, hx] using ih
      | false => simpa [hp, smGet, hx] using ih

/-- What the step boundary of a unit can bring beside the end of its step, as blocks stop, are lent and come back: handles and
slots are returned and PART_CFG follows; no step starts or ends (R369, R375, R376). -/
structure Passes (a b : Chip) : Prop where
  only : b = { a with regs := b.regs, mem := b.mem, sched := b.sched }
  data : a.mem.SameData b.mem
  falls : ∀ k, smGet false b.mem.slotFull k = true → smGet false a.mem.slotFull k = true
  running : b.sched.running = a.sched.running
  word : ∀ r i j, Reg.apart .PART_CFG r = true → b.word r i j = a.word r i j

theorem Passes.refl (a : Chip) : Passes a a := ⟨rfl, rfl, fun _ h => h, rfl, fun _ _ _ _ => rfl⟩

theorem Passes.trans {a b c : Chip} (h : Passes a b) (k : Passes b c) : Passes a c where
  only := k.only.trans (by rw [h.only])
  data := h.data.trans k.data
  falls := fun n hn => h.falls n (k.falls n hn)
  running := k.running.trans h.running
  word := fun r i j hr => (k.word r i j hr).trans (h.word r i j hr)

theorem Passes.foldl {β : Type} {g : Chip → β → Chip} (hg : ∀ c x, Passes c (g c x)) (l : List β) (c : Chip) :
    Passes c (l.foldl g c) := by
  induction l generalizing c with
  | nil => exact Passes.refl c
  | cons x l ih => exact (hg c x).trans (ih _)

variable (c : Chip)

/-- An update of the schedule that starts and ends no step. -/
theorem Chip.updSched_passes {f : Sched → Sched} (h : (f c.sched).running = c.sched.running) : Passes c (c.updSched f) :=
  ⟨rfl, rfl, fun _ hk => hk, h, fun _ _ _ _ => rfl⟩

/-- An update of handles and slot tokens that fills no slot. -/
theorem Chip.updMem_passes {f : Mem → Mem} {h : SMap (BitVec 64)} {x : SMap Bool}
    (hf : f c.mem = { c.mem with blockHnd := h, slotFull := x })
    (hx : ∀ k, smGet false x k = true → smGet false c.mem.slotFull k = true) : Passes c (c.updMem f) where
  only := rfl
  data := by
    unfold Chip.updMem Mem.SameData
    rw [hf]
  falls := by
    unfold Chip.updMem
    rw [hf]
    exact hx
  running := rfl
  word := fun _ _ _ _ => rfl

theorem Chip.setHndValid_passes (k : Nat) (v : Bool) : Passes c (c.setHndValid k v) :=
  c.updMem_passes rfl (fun _ hk => hk)

theorem Chip.freeSite_passes (r b site : Nat) : Passes c (c.freeSite r b site) := by
  refine c.updMem_passes rfl (fun k hk => ?_)
  rw [smGet_filter_key false (fun n => decide (n / 32 ≠ 8 * (9 * r + b) + site))] at hk
  split at hk
  · exact hk
  · cases hk

theorem Chip.serveFrom_passes (u k : Nat) : Passes c (c.serveFrom u k) := c.updSched_passes rfl

theorem Chip.freeBlock_passes (u : Nat) : Passes c (c.freeBlock u) := Passes.foldl (fun c _ => c.freeSite_passes _ _ _) _ c

theorem Chip.setHndsInvalid_passes (l : List Nat) : Passes c (l.foldl (fun c k => c.setHndValid k false) c) :=
  Passes.foldl (fun c k => c.setHndValid_passes k false) l c

theorem Chip.stopFor_passes (u p : Nat) (x : Preempt) : Passes c (c.stopFor u p x) := by
  unfold Chip.stopFor
  split
  · exact Passes.refl c
  · exact (c.setHndsInvalid_passes _).trans (Chip.updSched_passes _ rfl)

theorem Chip.stopBlock_passes (u : Nat) : Passes c (c.stopBlock u) := by
  refine Passes.foldl (fun c e => ?_) _ c
  split
  · exact c.stopFor_passes _ _ _
  · exact Passes.refl c

theorem Chip.putLent_passes (v : Bool) (p : Nat) : Passes c (c.putB F.PART_CFG_LENT v p) :=
  ⟨rfl, rfl, fun _ hk => hk, rfl, fun _ _ _ hr => c.word_setWord_apart _ _ _ _ _ hr⟩

theorem Chip.setLent_passes (p : Nat) (on : Bool) : Passes c (c.setLent p on) :=
  (c.putLent_passes on p).trans (Chip.putLent_passes _ _ _)

theorem Chip.giveBack_passes (b u : Nat) : Passes c (c.giveBack b u) :=
  ((c.setHndsInvalid_passes _).trans (Chip.freeBlock_passes _ u)).trans (Chip.serveFrom_passes _ _ _)

theorem Chip.unlend_passes (p : Nat) : Passes c (c.unlend p) :=
  (c.setLent_passes p false).trans (Passes.foldl (fun c u => c.giveBack_passes _ u) _ _)

theorem Chip.returnLent_passes : Passes c c.returnLent := by
  refine Passes.foldl (fun c p => ?_) _ c
  dsimp only
  split
  · exact c.unlend_passes p
  · exact Passes.refl c

theorem Chip.boundary_passes (u : Nat) : Passes c (c.boundary u) := (c.stopBlock_passes u).trans (Chip.returnLent_passes _)

theorem foldl_same {α β : Type} {g : α → β → α} {a : α} {l : List β} (h : ∀ x ∈ l, g a x = a) : l.foldl g a = a := by
  induction l with
  | nil => rfl
  | cons x l ih => rw [List.foldl_cons, h x List.mem_cons_self, ih (fun y hy => h y (List.mem_cons_of_mem _ hy))]

/-- With no block lent and no pre-emption under way the boundary brings nothing. -/
theorem Chip.boundary_quiet {c : Chip} (h : c.Quiet) (u : Nat) : c.boundary u = c := by
  obtain ⟨hp, hl⟩ := h
  have hs : c.stopBlock u = c := by
    unfold Chip.stopBlock
    rw [hp]
    rfl
  unfold Chip.boundary
  rw [hs]
  unfold Chip.returnLent
  refine foldl_same (fun p hmem => ?_)
  rw [hl p (List.mem_range.1 hmem)]
  rfl

/-! ## What follows a fault -/

/-- From `a` to `b` steps have ended, units have failed, grafts and degradations are noted, with at most `n` log entries; data in
memory, items and the rest of the device stay, no slot is filled, and where no block is lent and none is pre-empted the memories
stay as they are. -/
structure Fallout (n : Nat) (a b : Chip) : Prop where
  only : b = { a with regs := b.regs, free := b.free, fabric := b.fabric, mem := b.mem, sched := b.sched, recov := b.recov }
  data : a.mem.SameData b.mem
  falls : ∀ k, smGet false b.mem.slotFull k = true → smGet false a.mem.slotFull k = true
  quiet : a.Quiet → b.Quiet ∧ b.mem = a.mem
  logs : ∃ k ≤ n, LogGrows k a b

theorem Fallout.core {n : Nat} {a b : Chip} (h : Fallout n a b) : a.Core b := by
  rw [h.only]
  exact ⟨rfl, rfl, rfl, rfl, rfl, rfl⟩

theorem Fallout.items {n : Nat} {a b : Chip} (h : Fallout n a b) : b.items = a.items := by
  rw [h.only]

theorem Fallout.trans {n m : Nat} {a b c : Chip} (h : Fallout n a b) (k : Fallout m b c) : Fallout (n + m) a c where
  only := k.only.trans (by rw [h.only])
  data := h.data.trans k.data
  falls := fun n hn => h.falls n (k.falls n hn)
  quiet := fun hq =>
    have ⟨hb, hm⟩ := h.quiet hq
    have ⟨hc, hm'⟩ := k.quiet hb
    ⟨hc, hm'.trans hm⟩
  logs := by
    obtain ⟨i, hi, hl⟩ := h.logs
    obtain ⟨j, hj, hl'⟩ := k.logs
    exact ⟨i + j, Nat.add_le_add hi hj, hl.trans hl'⟩

theorem Fallout.mono {n m : Nat} {a b : Chip} (h : Fallout n a b) (hn : n ≤ m) : Fallout m a b :=
  { h with logs := have ⟨k, hk, hl⟩ := h.logs; ⟨k, Nat.le_trans hk hn, hl⟩ }

/-- The registers that show whether partitions lend blocks, and the log's, are apart from register `r`. -/
def Reg.aside (r : Reg) : Bool := r.apart .PART_CFG && r.apart .FAULT_LOG_PTR && r.apart .FAULT_LOG_W2

/-- Work that logs nothing and leaves the memories, pre-emptions and lending. -/
theorem Fallout.silent {a b : Chip}
    (only : b = { a with regs := b.regs, free := b.free, fabric := b.fabric, mem := b.mem, sched := b.sched, recov := b.recov })
    (hm : b.mem = a.mem) (hs : b.sched.preempt = a.sched.preempt)
    (hw : ∀ r, r = .PART_CFG ∨ r = .FAULT_LOG_PTR ∨ r = .FAULT_LOG_W2 → ∀ i, b.word r i 0 = a.word r i 0) :
    Fallout 0 a b where
  only := only
  data := by
    rw [hm]
    rfl
  falls := fun k hk => by rwa [hm] at hk
  quiet := fun ⟨hp, hl⟩ => ⟨⟨hs.trans hp, fun p h =>
    (Chip.flag_congr (Chip.get_of_word F.PART_CFG_LENT (hw _ (.inl rfl) p))).trans (hl p h)⟩, hm⟩
  logs := ⟨0, Nat.le_refl 0, .none (hw _ (.inr (.inl rfl)) 0) (hw _ (.inr (.inr rfl)))⟩

theorem Fallout.refl (n : Nat) (a : Chip) : Fallout n a a :=
  (Fallout.silent rfl rfl rfl (fun _ _ _ => rfl)).mono (Nat.zero_le n)

theorem Chip.put_fallout (f : Fld) (v i j : Nat) (h : f.reg.aside = true) : Fallout 0 c (c.put f v i j) := by
  simp only [Reg.aside, Bool.and_eq_true] at h
  obtain ⟨⟨hc, hp⟩, hw⟩ := h
  refine .silent rfl rfl rfl (fun r hr k => ?_)
  rcases hr with rfl | rfl | rfl
  · exact c.word_setWord_apart _ _ _ _ _ hc
  · exact c.word_setWord_apart _ _ _ _ _ hp
  · exact c.word_setWord_apart _ _ _ _ _ hw

theorem Chip.putB_fallout (f : Fld) (v : Bool) (i j : Nat) (h : f.reg.aside = true) : Fallout 0 c (c.putB f v i j) :=
  c.put_fallout _ _ _ _ h

theorem Chip.updRecov_fallout (f : Recov → Recov) : Fallout 0 c (c.updRecov f) := .silent rfl rfl rfl (fun _ _ _ => rfl)

theorem Chip.setRun_fallout (u : Nat) (r : Option StepRun) : Fallout 0 c (c.setRun u r) := .silent rfl rfl rfl (fun _ _ _ => rfl)

theorem Chip.setFabric_fallout (x : Fabric) : Fallout 0 c { c with fabric := x } := .silent rfl rfl rfl (fun _ _ _ => rfl)

theorem Chip.mapLater_fallout (r : Reg) (i j w : Nat) : Fallout 0 c (c.mapLater r i j w) := c.setFabric_fallout _

theorem Chip.log_fallout (code : Nat) (l : Loc) (stated : Option Nat) : Fallout 1 c (c.log code l stated) := by
  have hlent : ∀ p, (c.log code l stated).flag F.PART_CFG_LENT p = c.flag F.PART_CFG_LENT p :=
    fun p => Chip.flag_congr (c.log_get code l stated F.PART_CFG_LENT p 0 (by decide))
  have hlog := c.log_grows code l stated
  obtain ⟨g, f, h⟩ := c.log_onlyRegs code l stated
  rw [h] at hlent hlog ⊢
  exact ⟨rfl, rfl, fun _ hk => hk, fun ⟨hp, hl⟩ => ⟨⟨hp, fun p hp => (hlent p).trans (hl p hp)⟩, rfl⟩, 1, Nat.le_refl 1, hlog⟩

theorem Chip.boundary_fallout (u : Nat) : Fallout 0 c (c.boundary u) where
  only := (c.boundary_passes u).only.trans (by rw [(c.boundary_passes u).only])
  data := (c.boundary_passes u).data
  falls := (c.boundary_passes u).falls
  quiet := fun hq => by
    rw [Chip.boundary_quiet hq]
    exact ⟨hq, rfl⟩
  logs := ⟨0, Nat.le_refl 0, .none ((c.boundary_passes u).word _ _ _ (by decide))
    (fun _ => (c.boundary_passes u).word _ _ _ (by decide))⟩

theorem Chip.needRerun_fallout (n : Option Nat) : Fallout 0 c (c.needRerun n) := by
  unfold Chip.needRerun
  split
  · exact Fallout.refl 0 c
  · split
    · exact Fallout.refl 0 c
    · exact c.updRecov_fallout _

theorem Chip.loseStep_fallout (u : Nat) : Fallout 0 c (c.loseStep u) := by
  unfold Chip.loseStep
  split
  · exact Fallout.refl 0 c
  · exact ((c.setRun_fallout u none).trans (Chip.boundary_fallout _ u)).trans (Chip.needRerun_fallout _ _)

theorem Chip.loseCellStep_fallout (u l : Nat) : Fallout 0 c (c.loseCellStep u l) := by
  unfold Chip.loseCellStep
  split
  · split
    · exact c.loseStep_fallout u
    · exact Fallout.refl 0 c
  · exact Fallout.refl 0 c

theorem Chip.consumePoison_fallout (who : Issuer) : Fallout 0 c (c.consumePoison who) := by
  unfold Chip.consumePoison
  split
  · exact c.loseStep_fallout _
  · exact Fallout.refl 0 c

theorem Chip.retarget_fallout : Fallout 0 c c.retarget := by
  unfold Chip.retarget
  exact c.updRecov_fallout _

theorem Chip.degrade_fallout (d : Degradation) : Fallout 0 c (c.degrade d) := by
  unfold Chip.degrade
  dsimp only
  split
  · exact Fallout.refl 0 c
  · split
    · exact c.updRecov_fallout _
    · exact ((c.putB_fallout F.VAR_STAT_SWITCHING true 0 0 (by decide)).trans (Chip.updRecov_fallout _ _)).trans
        (Chip.retarget_fallout _)

/-- A degradation of a block's region, where that exists. -/
theorem Chip.degradeBlock_fallout (r : Nat) : Fallout 0 c (if h : r < 4 then c.degrade (.block ⟨r, h⟩) else c) := by
  split
  · exact c.degrade_fallout _
  · exact Fallout.refl 0 c

theorem Chip.markBlock_fallout (r b : Nat) : Fallout 0 c (c.markBlock r b) := by
  have h := c.put_fallout F.SPARE_HEALTH_BLK_FAILED (c.get F.SPARE_HEALTH_BLK_FAILED r ||| 2 ^ b) r 0 (by decide)
  unfold Chip.markBlock
  dsimp only
  split
  · exact h
  · exact h.trans (Chip.putB_fallout _ _ _ _ _ (by decide))

theorem Chip.blockFail_fallout (r b : Nat) : Fallout 1 c (c.blockFail r b) := by
  unfold Chip.blockFail
  extract_lets lb c1 spare c2 fab c3
  have h3 : Fallout 1 c c3 := ((c.log_fallout _ _ _).trans (c1.markBlock_fallout r b)).trans (c2.setFabric_fallout _)
  clear_value c3 spare lb
  split
  · exact Fallout.refl 1 c
  · split
    · exact h3.trans (Chip.putB_fallout _ _ _ _ _ (by decide))
    · next lb _ =>
      extract_lets c4
      have h4 : Fallout 1 c c4 := h3.trans (c3.loseStep_fallout _)
      clear_value c4
      split
      · split
        · exact h4.trans (c4.degradeBlock_fallout r)
        · exact ((h4.trans (Chip.mapLater_fallout _ _ _ _ _)).trans (Chip.putB_fallout _ _ _ _ _ (by decide))).trans
            (Chip.updRecov_fallout _ _)
      · exact h4.trans (c4.degradeBlock_fallout r)

/-- The block that fails with a cell, or the graft of the block's spare site. -/
theorem Chip.siteFail_fallout (r b site : Nat) : Fallout 2 c (c.siteFail r b site) := by
  unfold Chip.siteFail
  extract_lets n c1 twice c2 matrix spareFld spareGone w lo cnt phys log c3 c4
  have haside : spareFld.reg.aside = true := by
    unfold spareFld
    split <;> decide
  have h2 : Fallout 1 c c2 := (c.log_fallout _ _ _).trans (c1.updRecov_fallout _)
  have h3 : Fallout 1 c c3 := by
    unfold c3
    split
    · exact h2.trans (c2.loseCellStep_fallout _ _)
    · exact h2
  have h4 : Fallout 1 c c4 := by
    unfold c4
    split
    · exact h3.trans (c3.put_fallout _ _ _ _ haside)
    · exact h3
  clear_value c4 spareFld log twice spareGone
  have hblock : Fallout 2 c (c4.blockFail r b) := h4.trans (c4.blockFail_fallout r b)
  split
  · exact Fallout.refl 2 c
  · split
    · split
      · exact hblock
      · exact h4.mono (by decide)
    · split
      · exact hblock
      · exact ((h4.trans (Chip.mapLater_fallout _ _ _ _ _)).trans (Chip.put_fallout _ _ _ _ _ haside)).mono (by decide)

/-- A text cell or a decode lane fails: its spare is grafted in, or a degradation is due. -/
theorem Chip.textFail_fallout (t : Nat) : Fallout 1 c (c.textFail t) := by
  unfold Chip.textFail
  extract_lets log c1 c2 c3
  have h3 : Fallout 1 c c3 := ((c.log_fallout _ _ _).trans (c1.updRecov_fallout _)).trans (c2.put_fallout _ _ _ _ (by decide))
  clear_value c3 log
  split
  · exact Fallout.refl 1 c
  · split
    · exact h3
    · extract_lets c4 w spare
      have h4 : Fallout 1 c c4 := h3.trans (c3.loseStep_fallout _)
      clear_value spare
      split
      · exact h4.trans (c4.mapLater_fallout _ _ _ _)
      · exact h4.trans (c4.degrade_fallout _)

theorem Chip.laneFail_fallout (d : Nat) : Fallout 1 c (c.laneFail d) := by
  unfold Chip.laneFail
  extract_lets log c1 c2 c3
  have h3 : Fallout 1 c c3 := ((c.log_fallout _ _ _).trans (c1.updRecov_fallout _)).trans (c2.put_fallout _ _ _ _ (by decide))
  clear_value c3 log
  split
  · exact Fallout.refl 1 c
  · split
    · exact h3
    · extract_lets c4 w spare
      have h4 : Fallout 1 c c4 := h3.trans (c3.loseStep_fallout _)
      clear_value spare
      split
      · exact h4.trans (c4.mapLater_fallout _ _ _ _)
      · exact h4.trans (c4.degrade_fallout _)

/-- A unit that holds slots fails. -/
theorem Chip.unitFail_fallout {u : UnitId} {n : Nat} (h : cellNo u = some n) : Fallout 2 c (c.unitFail u) := by
  cases u with
  | cell r b s => exact c.siteFail_fallout _ _ _
  | text t => exact (c.textFail_fallout _).mono (by decide)
  | lane d => exact (c.laneFail_fallout _).mono (by decide)
  | walker | block | region | core | port | chip => cases h

/-- A fault is logged, with what follows it. -/
theorem Fallout.logged {a b : Chip} {n code : Nat} {l : Loc} {stated : Option Nat} (h : Fallout n (a.log code l stated) b)
    (hn : n < 256) : a.Logged b code l :=
  have ⟨_, hk, hl⟩ := h.logs
  hl.logged (Nat.lt_of_le_of_lt hk hn)

/-! ## A handle or move-overlap fault -/

/-- The counts and the error indication of a handle fault (0x12) or a move-overlap fault (0x13), R72 and R98. -/
def Chip.countHandleFault (code table : Nat) : Chip := c.updMem (fun m =>
  if code = 0x13 then { m with mvFaults := smMod 0 m.mvFaults table (· + 1), readOut := .error }
  else { m with hndFaults := smMod 0 m.hndFaults table (· + 1), readOut := .error })

/-- Once counted the fault is logged; the step is re-executed, or its block fails. -/
theorem Chip.handleFault_fallout (code : Nat) (who : Issuer) (table : Nat) :
    Fallout 1 ((c.countHandleFault code table).log code (c.locOf who.u ((who.part.map (·.val)).getD 0)))
      (c.handleFault code who table) := by
  unfold Chip.handleFault
  extract_lets c1 c2
  have hc2 : c2 = (c.countHandleFault code table).log code (c.locOf who.u ((who.part.map (·.val)).getD 0)) := rfl
  rw [← hc2]
  clear_value c2
  split
  · split
    · exact Fallout.refl 1 c2
    · split
      · exact (c2.setRun_fallout _ _).mono (by decide)
      · exact c2.blockFail_fallout _ _
  · exact Fallout.refl 1 c2

end Sys2Proof.Machine
end

section
/-!
PROOFS. Slot tokens: fences, releases, and the wait for a token that does not come.
-/

namespace Sys2Proof.Machine

variable (c : Chip)

/-! ## Tokens -/

theorem slotNo_of_cell {x : SlotId} {n : Nat} (h : cellNo x.u = some n) : slotNo' x = some (n * 32 + x.slot.val) := by
  unfold slotNo'
  rw [h]
  rfl

theorem Chip.slotFull_of_slotNo {x : SlotId} {k : Nat} (h : slotNo' x = some k) : c.slotFull x = smGet false c.mem.slotFull k := by
  unfold Chip.slotFull
  rw [h]

theorem Chip.slotFull_congr {a b : Chip} (h : b.mem.slotFull = a.mem.slotFull) (y : SlotId) : b.slotFull y = a.slotFull y := by
  unfold Chip.slotFull
  rw [h]

/-- Slots fall from FULL where the tokens do. -/
theorem Chip.slotFull_falls {a b : Chip} (h : ∀ k, smGet false b.mem.slotFull k = true → smGet false a.mem.slotFull k = true)
    (y : SlotId) (hy : b.slotFull y = true) : a.slotFull y = true := by
  unfold Chip.slotFull at hy ⊢
  split at hy
  · exact h _ hy
  · cases hy

theorem Chip.setFull_of_slotNo {x : SlotId} {k : Nat} (h : slotNo' x = some k) (v : Bool) :
    c.setFull x v = c.updMem (fun m => { m with slotFull := smSet false m.slotFull k v }) := by
  unfold Chip.setFull
  rw [h]

theorem Chip.setFull_self {x : SlotId} {k : Nat} (h : slotNo' x = some k) (v : Bool) : (c.setFull x v).slotFull x = v := by
  rw [Chip.slotFull_of_slotNo _ h, c.setFull_of_slotNo h]
  exact smGet_smSet_self _ _ _

theorem Chip.setFull_ne {x y : SlotId} (h : slotNo' y ≠ slotNo' x) (v : Bool) : (c.setFull x v).slotFull y = c.slotFull y := by
  cases hx : slotNo' x with
  | none =>
    unfold Chip.setFull
    rw [hx]
  | some k =>
    cases hy : slotNo' y with
    | none =>
      unfold Chip.slotFull
      rw [hy]
    | some j =>
      rw [hx, hy] at h
      rw [Chip.slotFull_of_slotNo _ hy, Chip.slotFull_of_slotNo _ hy, c.setFull_of_slotNo hx]
      exact smGet_smSet_ne _ _ (fun e => h (congrArg some e))

/-! ## The slot fence -/

theorem exec_slotFenceDone_on (s : State) (u : Issuer) (x : SlotId) (hon : s.chip.On) :
    exec (.slotFenceDone ⟨u, x⟩) s = .next ⟨s.pending, s.chip.slotFence u x⟩ := by
  simp only [exec_slotFenceDone, Chip.awake_eq _ hon]

/-- The fence of a slot that is FULL, or at a failed site, waits. -/
theorem Chip.slotFence_waits {u : Issuer} {x : SlotId} (h : c.slotFull x = true ∨ c.unitDead x.u = true) :
    c.slotFence u x = c := by
  unfold Chip.slotFence
  rw [if_pos]
  rcases h with h | h <;> simp [h]

/-- Who has no move in flight has nothing to wait for. -/
theorem Chip.movesOf_none {who : Issuer} (h : ∀ m, m ∈ c.mem.moves → m.issuer ≠ who) (id : Nat) :
    c.movesOf who id = [] := by
  unfold Chip.movesOf
  rw [List.filter_eq_nil_iff.2 (fun m hm => by simp [h m hm])]
  rfl

theorem Chip.slotFence_fills {u : Issuer} {x : SlotId} {n : Nat} (hx : cellNo x.u = some n) (hfree : c.slotFull x = false)
    (hdead : c.unitDead x.u = false) (hm : ∀ m, m ∈ c.mem.moves → m.issuer ≠ u) : c.slotFence u x = c.setFull x true := by
  unfold Chip.slotFence
  rw [hfree, hdead, slotNo_of_cell hx, c.movesOf_none hm]
  rfl

/-! ## The release -/

theorem exec_slotRelease_on (s : State) (x : SlotId) (hon : s.chip.On) :
    exec (.slotRelease x) s = .next ⟨s.pending, s.chip.slotRelease x⟩ := by
  simp only [exec_slotRelease, Chip.awake_eq _ hon]

/-- The step that runs on the slot's unit keeps what it releases (R83). -/
def Chip.noteFreed (c : Chip) (x : SlotId) (k : Nat) : Chip :=
  match c.unitOf x.u with
  | some u => c.modRun u (fun r => { r with freed := r.freed ++ [(k, c.slotData x)] })
  | none => c

theorem Chip.slotRelease_full {x : SlotId} {n : Nat} (hx : cellNo x.u = some n) (hfull : c.slotFull x = true) :
    c.slotRelease x = (c.noteFreed x (n * 32 + x.slot.val)).setFull x false := by
  unfold Chip.slotRelease Chip.noteFreed
  rw [hx, hfull, slotNo_of_cell hx]
  dsimp only
  rw [if_pos rfl]
  cases c.unitOf x.u <;> rfl

theorem Chip.modRun_eq (u : Nat) (f : StepRun → StepRun) : c.modRun u f = { c with sched := (c.modRun u f).sched } := by
  unfold Chip.modRun
  split
  · rfl
  · rfl

theorem Chip.noteFreed_eq (x : SlotId) (k : Nat) : c.noteFreed x k = { c with sched := (c.noteFreed x k).sched } := by
  unfold Chip.noteFreed
  split
  · exact c.modRun_eq _ _
  · rfl

theorem Chip.noteFreed_idle {x : SlotId} (k : Nat) (h : (c.unitOf x.u).bind c.runOf = none) : c.noteFreed x k = c := by
  unfold Chip.noteFreed
  cases hu : c.unitOf x.u with
  | none => rfl
  | some u =>
    rw [hu] at h
    dsimp only
    unfold Chip.modRun
    rw [show c.runOf u = none from h]

theorem Chip.runOf_setRun_self (u : Nat) (r : Option StepRun) : (c.setRun u r).runOf u = r := smGet_smSet_self _ _ _

theorem Chip.noteFreed_runOf {x : SlotId} {k u : Nat} {run : StepRun} (hu : c.unitOf x.u = some u) (hr : c.runOf u = some run) :
    (c.noteFreed x k).runOf u = some { run with freed := run.freed ++ [(k, c.slotData x)] } := by
  unfold Chip.noteFreed
  rw [hu]
  dsimp only
  unfold Chip.modRun
  rw [hr]
  exact c.runOf_setRun_self _ _

/-- What the release of a FULL slot leaves. -/
structure Chip.Released (c t : Chip) (x : SlotId) (n : Nat) : Prop where
  free : t.slotFull x = false
  others : ∀ y, slotNo' y ≠ slotNo' x → t.slotFull y = c.slotFull y
  only : t = { c with mem := { c.mem with slotFull := t.mem.slotFull }, sched := t.sched }
  idle : (c.unitOf x.u).bind c.runOf = none → t.sched = c.sched
  keeps : ∀ v run, c.unitOf x.u = some v → c.runOf v = some run →
    t.runOf v = some { run with freed := run.freed ++ [(32 * n + x.slot.val, c.slotData x)] }

theorem Chip.slotRelease_released {x : SlotId} {n : Nat} (hx : cellNo x.u = some n) (hfull : c.slotFull x = true) :
    c.Released (c.slotRelease x) x n := by
  have hno := slotNo_of_cell hx
  have hd := c.noteFreed_eq x (n * 32 + x.slot.val)
  have hidle := fun h => c.noteFreed_idle (x := x) (n * 32 + x.slot.val) h
  have hkeeps := fun v run (hu : c.unitOf x.u = some v) (hr : c.runOf v = some run) =>
    c.noteFreed_runOf (k := n * 32 + x.slot.val) hu hr
  rw [c.slotRelease_full hx hfull]
  generalize c.noteFreed x (n * 32 + x.slot.val) = d at hd hidle hkeeps
  have hset := d.setFull_of_slotNo hno false
  refine ⟨d.setFull_self hno false, fun y hy => ?_, ?_, fun h => ?_, fun v run hu hr => ?_⟩
  · rw [d.setFull_ne hy]
    exact Chip.slotFull_congr (by rw [hd]) y
  · rw [hset, hd]
    rfl
  · rw [hset, hidle h]
    rfl
  · rw [hset, Nat.mul_comm 32 n]
    exact hkeeps v run hu hr

/-- The count of slot-token faults of a cell. -/
def Chip.countTokenFault (c : Chip) (n : Nat) : Chip :=
  c.updMem (fun m => { m with tokenFaults := smMod 0 m.tokenFaults n (· + 1) })

/-- The release of a FREE slot is counted and logged, and its cell fails (R79, Table 13-1). -/
theorem Chip.slotRelease_free {x : SlotId} {n : Nat} (hx : cellNo x.u = some n) (hfree : c.slotFull x = false) :
    Fallout 2 ((c.countTokenFault n).log 0x04 (c.locOf x.u)) (c.slotRelease x) := by
  have h : c.slotRelease x = ((c.countTokenFault n).log 0x04 (c.locOf x.u)).unitFail x.u := by
    unfold Chip.slotRelease
    rw [hx, hfree]
    rfl
  rw [h]
  exact Chip.unitFail_fallout _ hx

/-- What the release of a FREE slot leaves. -/
structure Chip.TokenFault (c t : Chip) (x : SlotId) (n : Nat) : Prop where
  falls : ∀ y, t.slotFull y = true → c.slotFull y = true
  quiet : c.Quiet → t.mem.slotFull = c.mem.slotFull
  counted : smGet 0 t.mem.tokenFaults n = smGet 0 c.mem.tokenFaults n + 1
  logged : c.Logged t 0x04 (c.locOf x.u)

theorem Chip.slotRelease_tokenFault {x : SlotId} {n : Nat} (hx : cellNo x.u = some n) (hfree : c.slotFull x = false) :
    c.TokenFault (c.slotRelease x) x n := by
  have hlast := c.slotRelease_free hx hfree
  have hall := ((c.countTokenFault n).log_fallout 0x04 (c.locOf x.u) none).trans hlast
  have hcount : (c.slotRelease x).mem.tokenFaults = (c.countTokenFault n).mem.tokenFaults := by rw [hall.data]
  refine ⟨Chip.slotFull_falls (fun k hk => hall.falls k hk), fun hq => (congrArg Mem.slotFull (hall.quiet hq).2 :), ?_,
    (hlast.logged (by decide)).of_next rfl⟩
  rw [hcount]
  exact smGet_smMod_self c.mem.tokenFaults n (· + 1)

/-! ## The loss of a step -/

theorem Chip.needRerun_sched (n : Option Nat) : (c.needRerun n).sched = c.sched := by
  unfold Chip.needRerun
  split
  · rfl
  · split
    · rfl
    · rfl

theorem Chip.mem_needRerun (n : Nat) : n ∈ (c.needRerun (some n)).recov.rerun := by
  unfold Chip.needRerun
  dsimp only
  split
  · next h => exact List.contains_iff_mem.1 h
  · exact List.mem_append_right _ (List.mem_singleton_self n)

/-- A step that is lost runs no more. -/
theorem Chip.loseStep_runOf (u : Nat) : (c.loseStep u).runOf u = none := by
  unfold Chip.loseStep
  split
  · next h => exact h
  · unfold Chip.runOf
    rw [Chip.needRerun_sched, (Chip.boundary_passes _ u).running]
    exact c.runOf_setRun_self u none

/-- Its item is re-run. -/
theorem Chip.loseStep_rerun {u k : Nat} {run : StepRun} (hr : c.runOf u = some run) (hk : run.desc.item = some k) :
    k ∈ (c.loseStep u).recov.rerun := by
  unfold Chip.loseStep
  rw [hr]
  dsimp only
  rw [hk]
  exact Chip.mem_needRerun _ k

/-! ## The wait for a token -/

theorem exec_slotWaitFault_up (s : State) (x : SlotId) (awaited : Bool) (u : StepUnit) (hon : s.chip.On)
    (hr : s.chip.running = true) :
    exec (.slotWaitFault x awaited u) s = .next ⟨s.pending, (s.chip.slotWaitFault x awaited u).settle⟩ := by
  simp only [exec_slotWaitFault, Chip.serving_eq _ hon hr]

/-- The memories with the moves in flight that do not wait for a token of slot `x`. -/
def Mem.dropWaiting (m : Mem) (x : SlotId) (awaited : Bool) : Mem :=
  { m with moves := m.moves.filter (fun m => !m.awaits x awaited) }

/-- The device with those moves. -/
def Chip.dropWaiting (c : Chip) (x : SlotId) (awaited : Bool) : Chip := c.updMem (fun m => m.dropWaiting x awaited)

theorem Chip.slotWaitFault_met {x : SlotId} {awaited : Bool} {u : StepUnit} (h : c.slotFull x = awaited) :
    c.slotWaitFault x awaited u = c := by
  unfold Chip.slotWaitFault
  split
  · rfl
  · rw [if_pos h]

theorem Chip.slotWaitFault_unmet {x : SlotId} {awaited : Bool} {u : StepUnit} {run : StepRun} (hr : c.runOf (unitNo u) = some run)
    (h : c.slotFull x ≠ awaited) : c.slotWaitFault x awaited u =
      ((c.dropWaiting x awaited).log 0x03 (c.locOf x.u run.desc.part.val)
        (some (Config.slotWaitDetail x.slot.val awaited))).loseStep (unitNo u) := by
  unfold Chip.slotWaitFault
  rw [hr]
  dsimp only
  rw [if_neg h]
  rfl

/-- What a slot-wait fault leaves of a device whose unit `u` runs a step. -/
structure Chip.WaitFault (c t : Chip) (x : SlotId) (awaited : Bool) (u : StepUnit) (run : StepRun) : Prop where
  ended : t.runOf (unitNo u) = none
  data : (c.mem.dropWaiting x awaited).SameData t.mem
  quiet : c.Quiet → t.mem = c.mem.dropWaiting x awaited
  logged : c.Logged t 0x03 (c.locOf x.u run.desc.part.val)
  rerun : ∀ k, run.desc.item = some k → k ∈ t.recov.rerun
  items : t.items = c.items
  core : c.Core t

theorem Chip.log_sched (code : Nat) (l : Loc) (stated : Option Nat) : (c.log code l stated).sched = c.sched := by
  obtain ⟨g, f, h⟩ := c.log_onlyRegs code l stated
  rw [h]

theorem Chip.slotWaitFault_faults {x : SlotId} {awaited : Bool} {u : StepUnit} {run : StepRun}
    (hr : c.runOf (unitNo u) = some run) (h : c.slotFull x ≠ awaited) :
    c.WaitFault (c.slotWaitFault x awaited u) x awaited u run := by
  have heq := c.slotWaitFault_unmet hr h
  have hlog := (c.dropWaiting x awaited).log_fallout 0x03 (c.locOf x.u run.desc.part.val)
    (some (Config.slotWaitDetail x.slot.val awaited))
  have hlast := Chip.loseStep_fallout ((c.dropWaiting x awaited).log 0x03 (c.locOf x.u run.desc.part.val)
    (some (Config.slotWaitDetail x.slot.val awaited))) (unitNo u)
  have hrun : ((c.dropWaiting x awaited).log 0x03 (c.locOf x.u run.desc.part.val)
      (some (Config.slotWaitDetail x.slot.val awaited))).runOf (unitNo u) = some run := by
    unfold Chip.runOf
    rw [Chip.log_sched]
    exact hr
  have hend := Chip.loseStep_runOf ((c.dropWaiting x awaited).log 0x03 (c.locOf x.u run.desc.part.val)
    (some (Config.slotWaitDetail x.slot.val awaited))) (unitNo u)
  have hrerun := fun k hk => Chip.loseStep_rerun (k := k) _ hrun hk
  rw [← heq] at hlast hend hrerun
  generalize c.slotWaitFault x awaited u = t at hlast hend hrerun
  have hall := hlog.trans hlast
  exact ⟨hend, hall.data, fun hq => (hall.quiet hq).2, (hlast.logged (by decide)).of_next rfl, hrerun, hall.items,
    ⟨hall.core.image, hall.core.clock, hall.core.fuses, hall.core.flash, hall.core.boot, hall.core.mgmt⟩⟩

/-- Settling changes nothing of this. -/
theorem Chip.WaitFault.settle {c t : Chip} {x : SlotId} {awaited : Bool} {u : StepUnit} {run : StepRun}
    (h : c.WaitFault t x awaited u run) : c.WaitFault t.settle x awaited u run where
  ended := by
    unfold Chip.runOf
    rw [Chip.settle_sched]
    exact h.ended
  data := t.settle_mem ▸ h.data
  quiet := fun hq => t.settle_mem.trans (h.quiet hq)
  logged := h.logged.of_word (fun e => t.settle_calm.word _ _ _ (fun k hk => by simp only [Reg.addr, Reg.info]; omega))
  rerun := fun k hk => t.settle_recov ▸ h.rerun k hk
  items := t.settle_items.trans h.items
  core := ⟨t.settle_image.trans h.core.image, t.settle_clock.trans h.core.clock, t.settle_fuses.trans h.core.fuses,
    t.settle_flash.trans h.core.flash, t.settle_boot.trans h.core.boot, t.settle_mgmt.trans h.core.mgmt⟩

/-! ## The obligation -/

/-- Settles O27: a fence fills a FREE slot, a release frees a FULL one, and the two faults go through what follows a fault. -/
theorem slotTokens : Obligations.SlotTokens := by
  unfold Obligations.SlotTokens
  intro s x n hon hx c others
  have hno := slotNo_of_cell hx
  refine ⟨fun hfull => ⟨fun u => ?_, ?_⟩, fun hfree => ⟨fun u hdead => ?_, fun u hdead hm => ?_, ?_⟩,
    fun awaited u run hrun hr => ⟨fun hmet => ?_, fun hunmet => ?_⟩⟩
  · rw [exec_slotFenceDone_on s u x hon, c.slotFence_waits (.inl hfull)]
  · obtain ⟨hx0, hothers, honly, hidle, hkeeps⟩ := c.slotRelease_released hx hfull
    exact ⟨_, exec_slotRelease_on s x hon, rfl, hx0, hothers, honly, hidle, hkeeps⟩
  · rw [exec_slotFenceDone_on s u x hon, c.slotFence_waits (.inr hdead)]
  · refine ⟨_, exec_slotFenceDone_on s u x hon, rfl, ?_⟩
    rw [c.slotFence_fills hx hfree hdead hm]
    refine ⟨c.setFull_self hno true, fun y hy => c.setFull_ne hy true, ?_⟩
    rw [c.setFull_of_slotNo hno]
    rfl
  · obtain ⟨hfalls, hquiet, hcount, hlogged⟩ := c.slotRelease_tokenFault hx hfree
    exact ⟨_, exec_slotRelease_on s x hon, rfl, hfalls, hquiet, hcount, hlogged⟩
  · rw [exec_slotWaitFault_up s x awaited u hon hrun, c.slotWaitFault_met hmet]
  · obtain ⟨hend, hdata, hquiet, hlogged, hrerun, hitems, hcore⟩ := (c.slotWaitFault_faults hr hunmet).settle
    exact ⟨_, exec_slotWaitFault_up s x awaited u hon hrun, rfl, hend, ⟨hdata, hquiet⟩, hlogged, hrerun, hitems, hcore⟩

end Sys2Proof.Machine
end

section
/-!
PROOFS. What the operations of the memories change: the bytes, the hedged resources, what the correction path notes, what a
refused operation leaves.
-/

namespace Sys2Proof.Machine

/-! ## Bytes -/

/-- From `m` to `n` the bytes of every memory stay. -/
structure Mem.SameBytes (m n : Mem) : Prop where
  block : n.block = m.block
  shared : n.shared = m.shared
  ddr : n.ddr = m.ddr

theorem Mem.SameBytes.trans {m n p : Mem} (h : m.SameBytes n) (k : n.SameBytes p) : m.SameBytes p :=
  ⟨k.block.trans h.block, k.shared.trans h.shared, k.ddr.trans h.ddr⟩

theorem Mem.SameData.bytes {m n : Mem} (h : m.SameData n) : m.SameBytes n := by
  rw [h]
  exact ⟨rfl, rfl, rfl⟩

theorem Mem.SameBytes.byNo {m n : Mem} (h : m.SameBytes n) (sel : Nat) : n.byNo sel = m.byNo sel := by
  unfold Mem.byNo
  rw [h.block, h.shared, h.ddr]

theorem Mem.SameBytes.readGran {m n : Mem} (h : m.SameBytes n) (g : Gran) : n.readGran g = m.readGran g := by
  unfold Mem.readGran
  rw [h.byNo]

theorem Mem.poisoned_congr {m n : Mem} (h : n.poison = m.poison) (g : Gran) : n.poisoned g = m.poisoned g := by
  unfold Mem.poisoned
  rw [h]

theorem Chip.log_mem (c : Chip) (code : Nat) (l : Loc) (stated : Option Nat) : (c.log code l stated).mem = c.mem := by
  obtain ⟨g, f, h⟩ := c.log_onlyRegs code l stated
  rw [h]

/-! ## Hedged resources -/

/-- From `a` to `b` only what hedged resources keep changes. -/
def OnlyHedges (a b : Chip) : Prop := b = { a with mem := { a.mem with hedges := b.mem.hedges } }

theorem OnlyHedges.refl (a : Chip) : OnlyHedges a a := rfl

theorem OnlyHedges.trans {a b c : Chip} (h : OnlyHedges a b) (k : OnlyHedges b c) : OnlyHedges a c := by
  unfold OnlyHedges at h k ⊢
  exact k.trans (by rw [h])

theorem OnlyHedges.foldl {β : Type} {g : Chip → β → Chip} (hg : ∀ c x, OnlyHedges c (g c x)) (l : List β) (c : Chip) :
    OnlyHedges c (l.foldl g c) := by
  induction l generalizing c with
  | nil => exact OnlyHedges.refl c
  | cons x l ih => exact (hg c x).trans (ih _)

theorem OnlyHedges.mem {a b : Chip} (h : OnlyHedges a b) : b.mem = { a.mem with hedges := b.mem.hedges } := congrArg Chip.mem h

theorem OnlyHedges.rest {a b : Chip} (h : OnlyHedges a b) : b = { a with mem := b.mem } := by
  unfold OnlyHedges at h
  rw [h]

/-- Shares are set in registers. -/
theorem OnlyHedges.hedgeHi {a b : Chip} (h : OnlyHedges a b) (x who : Nat) : b.hedgeHi x who = a.hedgeHi x who := by
  unfold OnlyHedges at h
  rw [h]
  rfl

theorem Chip.modHedge_onlyHedges (c : Chip) (x : Nat) (f : HedgeRes → HedgeRes) : OnlyHedges c (c.modHedge x f) := rfl

theorem Chip.hedgeAsk_onlyHedges (c : Chip) (x id who n : Nat) : OnlyHedges c (c.hedgeAsk x id who n) := c.modHedge_onlyHedges _ _

theorem Chip.hedgeServe_onlyHedges (c : Chip) (x id : Nat) : OnlyHedges c (c.hedgeServe x id).1 := c.modHedge_onlyHedges _ _

theorem Chip.serveFold_onlyHedges (id : Nat) (l : List Nat) (a : Chip × Bool) : OnlyHedges a.1 (Chip.serveFold id l a).1 := by
  induction l generalizing a with
  | nil => exact OnlyHedges.refl a.1
  | cons x l ih => exact (a.1.hedgeServe_onlyHedges x id).trans (ih ((a.1.hedgeServe x id).1, a.2 && (a.1.hedgeServe x id).2))

theorem Chip.hedgeServeAll_onlyHedges (c : Chip) (id : Nat) (l : List Nat) : OnlyHedges c (c.hedgeServeAll id l).1 :=
  Chip.serveFold_onlyHedges id l (c, true)

/-- Requests of one requester begin to wait at several resources. -/
def Chip.askAll (c : Chip) (id who : Nat) (l : List (Nat × Nat)) : Chip := l.foldl (fun c e => c.hedgeAsk e.1 id who e.2) c

theorem Chip.askAll_onlyHedges (c : Chip) (id who : Nat) (l : List (Nat × Nat)) : OnlyHedges c (c.askAll id who l) :=
  OnlyHedges.foldl (fun c _ => c.hedgeAsk_onlyHedges _ _ _ _) l c

theorem Chip.hedgeAsk_hedge (c : Chip) (x id who n y : Nat) : (c.hedgeAsk x id who n).hedge y =
    if y = x then { c.hedge x with wait := (c.hedge x).wait ++ [⟨id, who, n⟩] } else c.hedge y := c.hedge_modHedge _ _ _

/-- Requests that wait go on waiting. -/
theorem Chip.askAll_wait (c : Chip) (id who : Nat) (l : List (Nat × Nat)) (y : Nat) :
    (c.hedge y).wait ⊆ ((c.askAll id who l).hedge y).wait := by
  induction l generalizing c with
  | nil => exact List.Subset.refl _
  | cons e l ih =>
    refine List.Subset.trans (fun q hq => ?_) (ih (c.hedgeAsk e.1 id who e.2))
    rw [Chip.hedgeAsk_hedge]
    split
    · next h => exact List.mem_append_left _ (h ▸ hq)
    · exact hq

theorem Chip.mem_askAll (c : Chip) (id who : Nat) {l : List (Nat × Nat)} {e : Nat × Nat} (he : e ∈ l) :
    ⟨id, who, e.2⟩ ∈ ((c.askAll id who l).hedge e.1).wait := by
  induction l generalizing c with
  | nil => cases he
  | cons x l ih =>
    rcases List.mem_cons.1 he with rfl | he
    · refine (c.hedgeAsk e.1 id who e.2).askAll_wait id who l e.1 ?_
      rw [Chip.hedgeAsk_hedge, if_pos rfl]
      exact List.mem_append_right _ (List.mem_singleton_self _)
    · exact ih _ he

/-- A resource that nobody asks. -/
theorem Chip.askAll_hedge_ne (c : Chip) (id who : Nat) {l : List (Nat × Nat)} {y : Nat} (h : y ∉ l.map (·.1)) :
    (c.askAll id who l).hedge y = c.hedge y := by
  induction l generalizing c with
  | nil => rfl
  | cons e l ih =>
    rw [List.map_cons, List.mem_cons, not_or] at h
    exact (ih (c.hedgeAsk e.1 id who e.2) h.2).trans ((c.hedgeAsk_hedge _ _ _ _ _).trans (if_neg h.1))

/-- A resource that is asked once, of several different ones. -/
theorem Chip.askAll_hedge (c : Chip) (id who : Nat) {l : List (Nat × Nat)} (hnd : (l.map (·.1)).Nodup) {e : Nat × Nat}
    (he : e ∈ l) :
    (c.askAll id who l).hedge e.1 = { c.hedge e.1 with wait := (c.hedge e.1).wait ++ [⟨id, who, e.2⟩] } := by
  induction l generalizing c with
  | nil => cases he
  | cons x l ih =>
    rw [List.map_cons, List.nodup_cons] at hnd
    rcases List.mem_cons.1 he with rfl | he
    · exact ((c.hedgeAsk e.1 id who e.2).askAll_hedge_ne id who hnd.1).trans ((c.hedgeAsk_hedge _ _ _ _ _).trans (if_pos rfl))
    · have hne : e.1 ≠ x.1 := fun h => hnd.1 (h ▸ List.mem_map_of_mem he)
      have hx : (c.hedgeAsk x.1 id who x.2).hedge e.1 = c.hedge e.1 := (c.hedgeAsk_hedge _ _ _ _ _).trans (if_neg hne)
      rw [← hx]
      exact ih (c.hedgeAsk x.1 id who x.2) hnd.2 he

/-! ## One request alone -/

/-- A resource with one request of one unit, in a period that has delivered nothing. -/
structure HedgeRes.Single (h : HedgeRes) (who : Nat) : Prop where
  got : h.got = []
  wait : h.wait = [⟨0, who, 1⟩]

variable {h : HedgeRes} {who : Nat} {lo hi : Nat → Nat}

theorem HedgeRes.Single.asking (hs : h.Single who) (w : Nat) : h.asking w = true ↔ w = who := by
  unfold HedgeRes.asking
  rw [hs.wait]
  simp [eq_comm]

/-- Who asks alone is the next to be served, where its cap is not 0. -/
theorem HedgeRes.Single.next (hs : h.Single who) (hw : who < 18) (hhi : 0 < hi who) : h.next lo hi h.asking = some who := by
  unfold HedgeRes.next
  extract_lets order
  have honly : ∀ w ∈ order, w = who := fun w hw => (hs.asking w).1 (List.mem_filter.1 hw).2
  have hmem : who ∈ order := by
    refine List.mem_filter.2 ⟨List.mem_map.2 ⟨(who + 18 - h.turn % 18) % 18, ?_, ?_⟩, (hs.asking who).2 rfl⟩
    · exact List.mem_range.2 (Nat.mod_lt _ (by decide))
    · omega
  have hhad : h.had who < hi who := by
    unfold HedgeRes.had
    rw [hs.got]
    exact hhi
  clear_value order
  split
  · next w hfind => rw [honly w (List.mem_of_find?_eq_some hfind)]
  · cases hfind : order.find? (fun w => h.had w < hi w) with
    | none => exact absurd (decide_eq_true hhad) (List.find?_eq_none.1 hfind who hmem)
    | some w => rw [honly w (List.mem_of_find?_eq_some hfind)]

/-- Such a request is served. -/
theorem HedgeRes.Single.serve (hs : h.Single who) (hw : who < 18) (hhi : 0 < hi who) (f : Nat) :
    (HedgeRes.serve lo hi 0 (f + 2) h).2 = true := by
  have hwaits : h.wait.any (fun r => r.id = 0 && decide (0 < r.left)) = true := by
    rw [hs.wait]
    rfl
  have hdone : ∀ q ∈ takeUnit who h.wait, ¬ 0 < q.left := by
    rw [hs.wait]
    simp [takeUnit]
  have hnone : (takeUnit who h.wait).any (fun r => r.id = 0 && decide (0 < r.left)) = false :=
    List.any_eq_false.2 (fun q hq => by simp [hdone q hq])
  unfold HedgeRes.serve
  rw [hwaits, hs.next hw hhi]
  dsimp only
  rw [if_neg (by decide)]
  unfold HedgeRes.serve
  dsimp only
  rw [hnone]
  rfl

theorem Chip.hedgeServe_single {c : Chip} {x : Nat} (hs : (c.hedge x).Single who) (hw : who < 18)
    (hhi : 0 < c.hedgeHi x who) : (c.hedgeServe x 0).2 = true := by
  have hlive : (c.hedge x).wait.filter (fun r => r.id = 0 || c.mem.moves.any (fun m => m.id + 1 = r.id)) = [⟨0, who, 1⟩] := by
    rw [hs.wait]
    rfl
  unfold Chip.hedgeServe
  dsimp only
  rw [hlive]
  exact HedgeRes.Single.serve (h := { c.hedge x with wait := [⟨0, who, 1⟩] }) ⟨hs.got, rfl⟩ hw hhi 2

theorem Chip.hedgeServe_hedge_ne (c : Chip) {x y : Nat} (id : Nat) (hne : y ≠ x) : (c.hedgeServe x id).1.hedge y = c.hedge y :=
  (c.hedge_modHedge _ _ _).trans (if_neg hne)

/-- Different resources, each with one such request, serve them all. -/
theorem Chip.serveFold_single {l : List Nat} (hnd : l.Nodup) (hw : who < 18) (a : Chip × Bool) (ha : a.2 = true)
    (hs : ∀ x ∈ l, (a.1.hedge x).Single who) (hhi : ∀ x ∈ l, 0 < a.1.hedgeHi x who) : (Chip.serveFold 0 l a).2 = true := by
  induction l generalizing a with
  | nil => exact ha
  | cons x l ih =>
    obtain ⟨hx, hnd⟩ := List.nodup_cons.1 hnd
    have hserve := Chip.hedgeServe_single (hs x List.mem_cons_self) hw (hhi x List.mem_cons_self)
    refine ih hnd ((a.1.hedgeServe x 0).1, a.2 && (a.1.hedgeServe x 0).2) ?_ (fun y hy => ?_) (fun y hy => ?_)
    · rw [ha, hserve]
      rfl
    · have hne : y ≠ x := fun e => hx (e ▸ hy)
      rw [Chip.hedgeServe_hedge_ne _ _ hne]
      exact hs y (List.mem_cons_of_mem _ hy)
    · rw [(a.1.hedgeServe_onlyHedges x 0).hedgeHi]
      exact hhi y (List.mem_cons_of_mem _ hy)

/-- One request of its own leaves everything but what the resources keep. -/
theorem Chip.hedgeOnce_onlyHedges (c : Chip) (who : Nat) (l : List (Nat × Nat)) : OnlyHedges c (c.hedgeOnce who l).1 :=
  ((c.askAll_onlyHedges 0 who l).trans (Chip.hedgeServeAll_onlyHedges _ 0 (l.map (·.1)))).trans
    (OnlyHedges.foldl (fun c _ => c.modHedge_onlyHedges _ _) l _)

theorem Chip.hedgeOnce_none (c : Chip) (who : Nat) : c.hedgeOnce who [] = (c, true) := rfl

/-- A request of one unit at each of different resources that nobody has used is served where its caps are not 0. -/
theorem Chip.hedgeOnce_served {c : Chip} {l : List (Nat × Nat)} (hc : c.mem.hedges = []) (hnd : (l.map (·.1)).Nodup)
    (hone : ∀ e ∈ l, e.2 = 1) (hw : who < 18) (hhi : ∀ e ∈ l, 0 < c.hedgeHi e.1 who) : (c.hedgeOnce who l).2 = true := by
  have hcold : ∀ x, c.hedge x = HedgeRes.cold := fun x => by
    unfold Chip.hedge
    rw [hc]
    rfl
  refine Chip.serveFold_single hnd hw (c.askAll 0 who l, true) rfl (fun x hx => ?_) (fun x hx => ?_)
  · obtain ⟨e, he, rfl⟩ := List.mem_map.1 hx
    have h := c.askAll_hedge 0 who hnd he
    rw [hcold, hone e he] at h
    exact ⟨congrArg HedgeRes.got h, congrArg HedgeRes.wait h⟩
  · obtain ⟨e, he, rfl⟩ := List.mem_map.1 hx
    rw [(c.askAll_onlyHedges 0 who l).hedgeHi]
    exact hhi e he

theorem hedgeWho_lt {u : Issuer} (h : hedgeWho u = some who) : who < 18 := by
  unfold hedgeWho at h
  split at h
  · next p _ =>
    cases h
    exact Nat.lt_trans p.isLt (by decide)
  · split at h
    · cases h
      decide
    · cases h
  · cases h

theorem blockOf_lt {u : UnitId} {r b : Nat} (h : blockOf u = some (r, b)) : r < 4 := by
  cases u <;> cases h <;> exact Fin.isLt _

/-- The links that the read of a granule crosses are different ones, and it asks each for one unit. -/
theorem hedgeUse_one (u : UnitId) (sel : Nat) :
    ((hedgeUse u [sel] 1).map (·.1)).Nodup ∧ ∀ e ∈ hedgeUse u [sel] 1, e.2 = 1 := by
  rcases Nat.lt_or_ge sel 36 with hsel | hsel
  · have hn : hedgeUse u [sel] 1 = [] := by
      have h36 : sel ≠ 36 := by omega
      have h37 : sel ≠ 37 := by omega
      simp [hedgeUse, hsel, h36.symm, h37.symm]
    rw [hn]
    exact ⟨List.nodup_nil, fun e he => by cases he⟩
  · have hout : ¬ sel < 36 := Nat.not_lt.2 hsel
    cases hb : blockOf u with
    | none =>
      by_cases h36 : sel = 36
      · subst h36
        simp [hedgeUse, hb, dedup]
      · by_cases h37 : sel = 37
        · subst h37
          simp [hedgeUse, hb, dedup]
        · simp [hedgeUse, hb, dedup, hout, Ne.symm h36, Ne.symm h37]
    | some p =>
      obtain ⟨r, b⟩ := p
      have hr : r ≠ 5 := Nat.ne_of_lt (Nat.lt_trans (blockOf_lt hb) (by decide))
      by_cases h37 : sel = 37
      · subst h37
        simp [hedgeUse, hb, dedup, hr]
      · simp [hedgeUse, hb, dedup, hout, hsel, Ne.symm h37]

/-! ## The correction path -/

variable (c : Chip)

/-- What is noted of a corrected word: its bit, and the row's mark at the second correction there (R86, R88). -/
def Mem.noteCorr (m : Mem) (g : Gran) (q bit : Nat) : Mem :=
  { m with corrAt := smSet [] m.corrAt q (smGet [] m.corrAt q ++ [bit])
           rowMark := if bit ∈ smGet [] m.corrAt q ∧ g.sel < 37 then smMod 0 m.rowMark g.rowNo (Nat.max 1) else m.rowMark }

/-- What is noted of an uncorrectable word: it is poisoned, and its row is marked (R87, R88). -/
def Mem.noteUncorr (m : Mem) (g : Gran) (q : Nat) : Mem :=
  { m with poison := smSet false m.poison q true
           rowMark := if g.sel < 37 then smMod 0 m.rowMark g.rowNo (Nat.max 2) else m.rowMark }

theorem Chip.countCorr_mem (g : Gran) : (c.countCorr g).mem = c.mem := by
  unfold Chip.countCorr
  split
  · rfl
  · split <;> rfl

theorem Chip.correct_single {g : Gran} {k : Fin 16} {q : Nat} (bit : Fin 72) (h : g.rowWords[k.val]? = some q) :
    c.correct g (.single k bit) = (c.countCorr g).updMem (fun m => m.noteCorr g q bit.val) := by
  have hm := c.countCorr_mem g
  unfold Chip.correct
  dsimp only
  rw [h]
  dsimp only
  generalize c.countCorr g = d
  unfold Mem.noteCorr
  by_cases hb : bit.val ∈ smGet [] d.mem.corrAt q
  · rw [if_pos (List.contains_iff_mem.2 hb)]
    unfold Chip.markRow
    by_cases hg : g.sel < 37
    · rw [if_neg (by omega)]
      simp only [Chip.updMem, hb, hg, and_self, if_true]
    · rw [if_pos (by omega)]
      simp only [Chip.updMem, hg, and_false, if_false]
  · rw [if_neg (fun h => hb (List.contains_iff_mem.1 h))]
    simp only [Chip.updMem, hb, false_and, if_false]

theorem Chip.correct_double {g : Gran} {k : Fin 16} {q : Nat} (h : g.rowWords[k.val]? = some q) :
    c.correct g (.double k) = c.updMem (fun m => m.noteUncorr g q) := by
  unfold Chip.correct
  dsimp only
  rw [h]
  dsimp only
  unfold Chip.markRow Mem.noteUncorr
  by_cases hg : g.sel < 37
  · rw [if_neg (by omega)]
    simp only [Chip.updMem, hg, if_true]
  · rw [if_pos (by omega)]
    simp only [Chip.updMem, hg, if_false]

theorem Mem.poison_noteUncorr (m : Mem) (g : Gran) (q : Nat) : smGet false (m.noteUncorr g q).poison q = true := by
  rw [show (m.noteUncorr g q).poison = smSet false m.poison q true from rfl]
  exact smGet_smSet_self m.poison q true

/-- A word of the row that is poisoned. -/
theorem Mem.poisoned_noteUncorr (m : Mem) {g : Gran} {k q : Nat} (h : g.rowWords[k]? = some q) :
    (m.noteUncorr g q).poisoned g = true := by
  have hmem := List.mem_of_getElem? h
  unfold Mem.poisoned
  rw [List.any_eq_true]
  exact ⟨q, hmem, m.poison_noteUncorr g q⟩

theorem Chip.meet_clean {g : Gran} (h : c.mem.poisoned g = false) : c.meet g = (c, false) := by
  unfold Chip.meet
  rw [h]
  rfl

theorem Chip.meet_poisoned {g : Gran} (h : c.mem.poisoned g = true) :
    c.meet g = ((c.countUncorr g).log (uncorrClass g.sel) (c.memLoc g.sel), true) := by
  unfold Chip.meet
  rw [h]
  rfl

/-- The count of an uncorrectable word is kept apart from the log, memories and all. -/
theorem Chip.countUncorr_mem (g : Gran) : (c.countUncorr g).mem = { c.mem with ddrUnc := (c.countUncorr g).mem.ddrUnc } := by
  unfold Chip.countUncorr
  split
  · rfl
  · split <;> rfl

theorem Chip.countUncorr_logNext (g : Gran) : (c.countUncorr g).get F.FAULT_LOG_PTR_NEXT = c.get F.FAULT_LOG_PTR_NEXT := by
  unfold Chip.countUncorr
  split
  · exact Chip.get_of_word F.FAULT_LOG_PTR_NEXT (c.word_setWord_apart _ _ _ _ _ (by decide))
  · split
    · exact Chip.get_of_word F.FAULT_LOG_PTR_NEXT (c.word_setWord_apart _ _ _ _ _ (by decide))
    · rfl

theorem Chip.bump_counted (f : Fld) {i j : Nat} (hr : f.reg.has i j = true) (hw : f.lo + f.w ≤ 32) :
    c.Counted2 (c.bump f i j) f i j := c.get_bump_self f i j 1 hr hw

/-- Every block memory has its counters (Table 17-10). -/
theorem bmEcc_has {sel : Nat} (h : sel < 36) : Reg.has .BM_ECC (sel / 9) (sel % 9) = true :=
  decide_eq_true ⟨Nat.div_lt_of_lt_mul h, Nat.mod_lt _ (by decide)⟩

theorem Chip.countCorr_block {g : Gran} (h : g.sel < 36) : c.countCorr g = c.bump F.BM_ECC_CORR (g.sel / 9) (g.sel % 9) := by
  unfold Chip.countCorr
  rw [if_pos h]

theorem Chip.countUncorr_block {g : Gran} (h : g.sel < 36) :
    c.countUncorr g = c.bump F.BM_ECC_UNCORR (g.sel / 9) (g.sel % 9) := by
  unfold Chip.countUncorr
  rw [if_pos h]

theorem Chip.countUncorr_core (g : Gran) : c.Core (c.countUncorr g) := by
  unfold Chip.countUncorr
  split
  · exact ⟨rfl, rfl, rfl, rfl, rfl, rfl⟩
  · split <;> exact ⟨rfl, rfl, rfl, rfl, rfl, rfl⟩

theorem Chip.Core.trans {a b c : Chip} (h : a.Core b) (k : b.Core c) : a.Core c :=
  ⟨k.image.trans h.image, k.clock.trans h.clock, k.fuses.trans h.fuses, k.flash.trans h.flash, k.boot.trans h.boot,
    k.mgmt.trans h.mgmt⟩

/-- What the correction path leaves of the row of an uncorrectable word `q`: the word is poisoned and the row marked, it is
counted, and the log entry stands while fewer than 256 follow it (R87, R88). -/
structure Chip.Met (c e : Chip) (g : Gran) (q : Nat) : Prop where
  bytes : c.mem.SameBytes e.mem
  poison : smGet false e.mem.poison q = true
  marked : g.sel < 37 → 2 ≤ smGet 0 e.mem.rowMark g.rowNo
  counted : g.sel < 36 → c.Counted2 e F.BM_ECC_UNCORR (g.sel / 9) (g.sel % 9)
  logged : ∀ n t, LogGrows n e t → n < 256 → c.Logged t (uncorrClass g.sel) (c.memLoc g.sel)
  core : c.Core e

theorem Mem.rowMark_noteUncorr (m : Mem) {g : Gran} (q : Nat) (h : g.sel < 37) :
    2 ≤ smGet 0 (m.noteUncorr g q).rowMark g.rowNo := by
  rw [show (m.noteUncorr g q).rowMark = smMod 0 m.rowMark g.rowNo (Nat.max 2) from if_pos h, smGet_smMod_self]
  exact Nat.le_max_left _ _

/-- A row in which the correction path finds an uncorrectable word. -/
theorem Chip.meet_double {g : Gran} {k : Fin 16} {q : Nat} (hq : g.rowWords[k.val]? = some q) :
    ∃ e, (c.correct g (.double k)).meet g = (e, true) ∧ c.Met e g q := by
  rw [c.correct_double hq, Chip.meet_poisoned _ (c.mem.poisoned_noteUncorr hq)]
  refine ⟨_, rfl, ?_⟩
  generalize hb : c.updMem (fun m => m.noteUncorr g q) = b
  have hbmem : b.mem = c.mem.noteUncorr g q := by rw [← hb]; rfl
  have hbcore : c.Core b := by rw [← hb]; exact ⟨rfl, rfl, rfl, rfl, rfl, rfl⟩
  have hloc : b.memLoc g.sel = c.memLoc g.sel := by rw [← hb]; rfl
  have hget : ∀ f i j, b.get f i j = c.get f i j := by rw [← hb]; exact fun _ _ _ => rfl
  have hmem := b.countUncorr_mem g
  have hlog := (b.countUncorr g).log_fallout (uncorrClass g.sel) (b.memLoc g.sel) none
  rw [hloc] at hlog ⊢
  refine ⟨?_, ?_, fun h => ?_, fun h => ?_, fun n t hn hlt => ?_, (hbcore.trans (b.countUncorr_core g)).trans hlog.core⟩
  · rw [Chip.log_mem, hmem, hbmem]
    exact ⟨rfl, rfl, rfl⟩
  · rw [Chip.log_mem, hmem, hbmem]
    exact c.mem.poison_noteUncorr g q
  · rw [Chip.log_mem, hmem, hbmem]
    exact c.mem.rowMark_noteUncorr q h
  · unfold Chip.Counted2
    rw [Chip.log_get _ _ _ _ _ _ _ (by decide), b.countUncorr_block h, ← hget]
    exact b.bump_counted F.BM_ECC_UNCORR (bmEcc_has h) (by decide)
  · exact (hn.logged hlt).of_next ((b.countUncorr_logNext g).trans (hget _ _ _))

/-! ## A refused operation -/

/-- What a handle fault (0x12) or a move-overlap fault (0x13) of an issuer leaves: its count and the error indication, which no
work that follows changes. -/
structure Chip.Refuses (c t : Chip) (code : Nat) (who : Issuer) (table : Nat) : Prop where
  data : (c.countHandleFault code table).mem.SameData t.mem
  falls : ∀ y, t.slotFull y = true → c.slotFull y = true
  logged : c.Logged t code (c.locOf who.u ((who.part.map (·.val)).getD 0))

theorem Chip.countHandleFault_slotFull (code table : Nat) : (c.countHandleFault code table).mem.slotFull = c.mem.slotFull := by
  unfold Chip.countHandleFault Chip.updMem
  dsimp only
  split <;> rfl

theorem Chip.handleFault_refuses (code : Nat) (who : Issuer) (table : Nat) :
    c.Refuses (c.handleFault code who table) code who table := by
  have hlast := c.handleFault_fallout code who table
  have hall := (Chip.log_fallout _ _ _ _).trans hlast
  refine ⟨hall.data, Chip.slotFull_falls (fun k hk => ?_), (hlast.logged (by decide)).of_next rfl⟩
  rw [← c.countHandleFault_slotFull code table]
  exact hall.falls k hk

theorem Chip.Refuses.bytes {c t : Chip} {code table : Nat} {who : Issuer} (h : c.Refuses t code who table) :
    c.mem.SameBytes t.mem := by
  have hc : c.mem.SameBytes (c.countHandleFault code table).mem := by
    unfold Chip.countHandleFault Chip.updMem
    dsimp only
    split <;> exact ⟨rfl, rfl, rfl⟩
  exact hc.trans h.data.bytes

/-- Moves in flight and slot data stay. -/
theorem Chip.Refuses.moves {c t : Chip} {code table : Nat} {who : Issuer} (h : c.Refuses t code who table) :
    t.mem.moves = c.mem.moves ∧ t.mem.slotData = c.mem.slotData := by
  rw [h.data]
  unfold Chip.countHandleFault Chip.updMem
  dsimp only
  split <;> exact ⟨rfl, rfl⟩

theorem Chip.Refuses.hndFaults {c t : Chip} {table : Nat} {who : Issuer} (h : c.Refuses t 0x12 who table) :
    smGet 0 t.mem.hndFaults table = smGet 0 c.mem.hndFaults table + 1 := by
  rw [h.data]
  exact smGet_smMod_self c.mem.hndFaults table (· + 1)

theorem Chip.Refuses.mvFaults {c t : Chip} {table : Nat} {who : Issuer} (h : c.Refuses t 0x13 who table) :
    smGet 0 t.mem.mvFaults table = smGet 0 c.mem.mvFaults table + 1 := by
  rw [h.data]
  exact smGet_smMod_self c.mem.mvFaults table (· + 1)

theorem Chip.Refuses.readOut {c t : Chip} {code table : Nat} {who : Issuer} (h : c.Refuses t code who table) :
    t.mem.readOut = .error := by
  rw [h.data]
  unfold Chip.countHandleFault Chip.updMem
  dsimp only
  split <;> rfl

end Sys2Proof.Machine
end

section
/-!
PROOFS. What a read delivers: of a slot, of a granule that its issuer may read, through a handle.
-/

namespace Sys2Proof.Machine

theorem exec_mortarRead_on (s : State) (w : MortarIn) (hon : s.chip.On) (he : s.chip.readExists w = true) :
    exec (.mortarRead w) s = .next ⟨s.pending, s.chip.mortarRead w⟩ := by
  have h : exec (.mortarRead w) s = execMortarRead w s := rfl
  rw [h]
  unfold execMortarRead
  rw [show s.chip.boot.held = false from hon, he]
  rfl

variable (c : Chip)

/-! ## Slots -/

theorem Chip.readSlot_dead {y : SlotId} (p : Parity) (h : c.unitDead y.u = true) : c.readSlot y p = c.answer .error := by
  unfold Chip.readSlot
  rw [if_pos h]

theorem Chip.readSlot_waits {y : SlotId} (p : Parity) (hd : c.unitDead y.u = false) (h : c.slotFull y = false) :
    c.readSlot y p = c.answer .wait := by
  unfold Chip.readSlot
  rw [hd, h]
  rfl

theorem Chip.readSlot_good {y : SlotId} (hd : c.unitDead y.u = false) (h : c.slotFull y = true) :
    c.readSlot y .good = c.answer (.data (c.slotData y)) := by
  unfold Chip.readSlot
  rw [hd, h]
  rfl

theorem Chip.readSlot_firstOnly {y : SlotId} {n : Nat} (hd : c.unitDead y.u = false) (h : c.slotFull y = true)
    (hn : cellNo y.u = some n) : c.readSlot y .firstOnly =
      c.updMem (fun m => { m with parity := smMod 0 m.parity n (· + 1), readOut := .data (c.slotData y) }) := by
  unfold Chip.readSlot
  rw [hd, h, hn]
  rfl

theorem Chip.mortarRead_slot {w : MortarIn} {x : SlotId} {p : Parity} (hl : w.linkError = false) (ht : w.target = .slot x p) :
    c.mortarRead w = c.readSlot (c.readSlotOf w.issuer x) p := by
  unfold Chip.mortarRead
  rw [hl, ht]
  rfl

/-- What a read of a slot delivers. -/
theorem mortarRead_slot_delivers (s : State) (w : MortarIn) (x : SlotId) (p : Parity) (hon : s.chip.On) (hl : w.linkError = false)
    (ht : w.target = .slot x p) :
    let c := s.chip
    let y := c.readSlotOf w.issuer x
    let only := fun (r : ReadRes) => exec (.mortarRead w) s = .next ⟨s.pending, c.answer r⟩
    (c.unitDead y.u = true → only .error) ∧
    (c.unitDead y.u = false → c.slotFull y = false → only .wait) ∧
    (c.unitDead y.u = false → c.slotFull y = true → p = .good → only (.data (c.slotData y))) ∧
    (∀ n, c.unitDead y.u = false → c.slotFull y = true → p = .firstOnly → cellNo y.u = some n →
      ∃ t, exec (.mortarRead w) s = .next t ∧ t.pending = s.pending ∧ t.chip.mem.readOut = .data (c.slotData y) ∧
        smGet 0 t.chip.mem.parity n = smGet 0 c.mem.parity n + 1 ∧
        (∀ k, k ≠ n → smGet 0 t.chip.mem.parity k = smGet 0 c.mem.parity k) ∧
        t.chip = c.updMem (fun m => { m with readOut := t.chip.mem.readOut, parity := t.chip.mem.parity })) := by
  intro c y only
  have hexec : exec (.mortarRead w) s = .next ⟨s.pending, c.readSlot y p⟩ := by
    rw [exec_mortarRead_on s w hon (by unfold Chip.readExists; rw [ht]), s.chip.mortarRead_slot hl ht]
  refine ⟨fun hd => ?_, fun hd hf => ?_, fun hd hf hp => ?_, fun n hd hf hp hn => ?_⟩
  · exact hexec.trans (by rw [c.readSlot_dead p hd])
  · exact hexec.trans (by rw [c.readSlot_waits p hd hf])
  · subst hp
    exact hexec.trans (by rw [c.readSlot_good hd hf])
  · subst hp
    rw [c.readSlot_firstOnly hd hf hn] at hexec
    exact ⟨_, hexec, rfl, rfl, smGet_smMod_self c.mem.parity n (· + 1),
      fun k hk => smGet_smMod_ne c.mem.parity (· + 1) hk, rfl⟩

/-! ## Granules -/

/-- The links that an issuer's read of a granule crosses, if its traffic is regulated. -/
def crossedBy (who : Issuer) (g : Gran) : List (Nat × Nat) :=
  match hedgeWho who with
  | none => []
  | some _ => hedgeUse who.u [g.sel] 1

variable {who : Issuer} {g : Gran}

/-- A read of an issuer without moves in flight, whose traffic is not regulated. -/
theorem Chip.readOf_free (f : Finding) (hd : c.memDead g.sel = false) (hm : ∀ m, m ∈ c.mem.moves → m.issuer ≠ who)
    (hw : hedgeWho who = none) : c.readOf who g f = c.readGranule who g f := by
  unfold Chip.readOf
  rw [hd, c.movesOf_none hm, hw]
  rfl

/-- One whose request at the links that it crosses is served. -/
theorem Chip.readOf_asked {w : Nat} (f : Finding) (hd : c.memDead g.sel = false) (hm : ∀ m, m ∈ c.mem.moves → m.issuer ≠ who)
    (hw : hedgeWho who = some w) (hs : (c.hedgeOnce w (hedgeUse who.u [g.sel] 1)).2 = true) :
    c.readOf who g f = (c.hedgeOnce w (hedgeUse who.u [g.sel] 1)).1.readGranule who g f := by
  have h : c.readOf who g f = if (c.hedgeOnce w (hedgeUse who.u [g.sel] 1)).2
      then (c.hedgeOnce w (hedgeUse who.u [g.sel] 1)).1.readGranule who g f
      else (c.hedgeOnce w (hedgeUse who.u [g.sel] 1)).1.answer .wait := by
    unfold Chip.readOf
    rw [hd, c.movesOf_none hm, hw]
    rfl
  rw [h, if_pos hs]

theorem Chip.readOf_uncrossed (f : Finding) (hd : c.memDead g.sel = false) (hm : ∀ m, m ∈ c.mem.moves → m.issuer ≠ who)
    (hx : crossedBy who g = []) : c.readOf who g f = c.readGranule who g f := by
  unfold crossedBy at hx
  cases hw : hedgeWho who with
  | none => exact c.readOf_free f hd hm hw
  | some w =>
    rw [hw] at hx
    have hone : c.hedgeOnce w (hedgeUse who.u [g.sel] 1) = (c, true) := by
      rw [show hedgeUse who.u [g.sel] 1 = [] from hx, Chip.hedgeOnce_none]
    rw [c.readOf_asked f hd hm hw (by rw [hone]), hone]

theorem Chip.readGranule_clean (who : Issuer) (hp : c.mem.poisoned g = false) :
    c.readGranule who g .clean = c.answer (.data (c.mem.readGran g)) := by
  unfold Chip.readGranule
  rw [show c.correct g .clean = c from rfl, c.meet_clean hp]
  rfl

/-- A clean read whose links nobody has used is served, and leaves what they have delivered. -/
theorem Chip.readOf_served (hd : c.memDead g.sel = false) (hm : ∀ m, m ∈ c.mem.moves → m.issuer ≠ who)
    (hp : c.mem.poisoned g = false) (hc : c.mem.hedges = [])
    (hhi : ∀ w, hedgeWho who = some w → ∀ e, e ∈ crossedBy who g → 0 < c.hedgeHi e.1 w) :
    ∃ h, c.readOf who g .clean = c.updMem (fun m => { m with readOut := .data (c.mem.readGran g), hedges := h }) := by
  unfold crossedBy at hhi
  cases hw : hedgeWho who with
  | none =>
    rw [c.readOf_free .clean hd hm hw, c.readGranule_clean who hp]
    exact ⟨c.mem.hedges, rfl⟩
  | some w =>
    rw [hw] at hhi
    obtain ⟨hnd, hone⟩ := hedgeUse_one who.u g.sel
    rw [c.readOf_asked .clean hd hm hw (Chip.hedgeOnce_served hc hnd hone (hedgeWho_lt hw) (hhi w rfl))]
    have ho := c.hedgeOnce_onlyHedges w (hedgeUse who.u [g.sel] 1)
    generalize (c.hedgeOnce w (hedgeUse who.u [g.sel] 1)).1 = d at ho
    unfold OnlyHedges at ho
    generalize d.mem.hedges = h at ho
    subst ho
    exact ⟨h, Chip.readGranule_clean _ who hp⟩

/-- What the read of a row with an uncorrectable word leaves (R87). -/
structure Chip.Poisons (c t : Chip) (g : Gran) (q : Nat) : Prop where
  readOut : t.mem.readOut = .poison (c.mem.readGran g)
  poison : smGet false t.mem.poison q = true
  bytes : c.mem.SameBytes t.mem
  logged : c.Logged t (uncorrClass g.sel) (c.memLoc g.sel)

theorem Chip.readGranule_poisons (who : Issuer) {k : Fin 16} {q : Nat} (hq : g.rowWords[k.val]? = some q) :
    c.Poisons (c.readGranule who g (.double k)) g q := by
  obtain ⟨e, he, hmet⟩ := c.meet_double hq
  have h : c.readGranule who g (.double k) = (e.answer (.poison (c.mem.readGran g))).consumePoison who := by
    unfold Chip.readGranule
    rw [he, ← hmet.bytes.readGran]
    rfl
  have hlast := (e.answer (.poison (c.mem.readGran g))).consumePoison_fallout who
  rw [h]
  generalize (e.answer (.poison (c.mem.readGran g))).consumePoison who = t at hlast
  have hanswer : LogGrows 0 e (e.answer (.poison (c.mem.readGran g))) := .none rfl (fun _ => rfl)
  obtain ⟨n, hn, hgrows⟩ := hlast.logs
  refine ⟨?_, ?_, hmet.bytes.trans ?_, hmet.logged _ t (hanswer.trans hgrows) (by omega)⟩
  · rw [hlast.data]
    rfl
  · rw [hlast.data]
    exact hmet.poison
  · rw [hlast.data]
    exact ⟨rfl, rfl, rfl⟩

/-- What a read of granule `g` delivers, where the issuer's access leads to it. -/
theorem mortarRead_granule_delivers (s : State) (w : MortarIn) (g : Gran)
    (hm : ∀ m, m ∈ s.chip.mem.moves → m.issuer ≠ w.issuer)
    (hexec : exec (.mortarRead w) s = .next ⟨s.pending, s.chip.readOf w.issuer g w.finding⟩) :
    let c := s.chip
    c.memDead g.sel = false →
    (w.finding = .clean → c.mem.poisoned g = false →
      (crossedBy w.issuer g = [] → exec (.mortarRead w) s = .next ⟨s.pending, c.answer (.data (c.mem.readGran g))⟩) ∧
      (c.mem.hedges = [] → (∀ who, hedgeWho w.issuer = some who → ∀ e, e ∈ crossedBy w.issuer g → 0 < c.hedgeHi e.1 who) →
        ∃ t, exec (.mortarRead w) s = .next t ∧ t.pending = s.pending ∧ t.chip.mem.readOut = .data (c.mem.readGran g) ∧
          t.chip = c.updMem (fun m => { m with readOut := t.chip.mem.readOut, hedges := t.chip.mem.hedges }))) ∧
    (∀ k q, w.finding = .double k → g.rowWords[k.val]? = some q → crossedBy w.issuer g = [] →
      ∃ t, exec (.mortarRead w) s = .next t ∧ t.pending = s.pending ∧ t.chip.mem.readOut = .poison (c.mem.readGran g) ∧
        smGet false t.chip.mem.poison q = true ∧
        t.chip.mem.block = c.mem.block ∧ t.chip.mem.shared = c.mem.shared ∧ t.chip.mem.ddr = c.mem.ddr ∧
        c.Logged t.chip (uncorrClass g.sel) (c.memLoc g.sel)) := by
  intro c hd
  refine ⟨fun hf hp => ⟨fun hx => ?_, fun hc hhi => ?_⟩, fun k q hf hq hx => ?_⟩
  · rw [hexec, hf, s.chip.readOf_uncrossed _ hd hm hx, s.chip.readGranule_clean _ hp]
  · obtain ⟨h, hr⟩ := c.readOf_served hd hm hp hc hhi
    rw [hf, hr] at hexec
    exact ⟨_, hexec, rfl, rfl, rfl⟩
  · rw [hf, s.chip.readOf_uncrossed _ hd hm hx] at hexec
    obtain ⟨hread, hpoison, hbytes, hlogged⟩ := c.readGranule_poisons w.issuer hq
    exact ⟨_, hexec, rfl, hread, hpoison, hbytes.block, hbytes.shared, hbytes.ddr, hlogged⟩

/-! ## Handles and physical addresses -/

section
variable {w : MortarIn} {h : HRef} (hl : w.linkError = false) (ht : w.target = .handle h)
include hl ht

/-- No access leads an issuer to memory that it does not reach (R47, R69). -/
theorem Chip.mortarRead_unreached (hr : readReaches w.issuer.u h.space = false) : c.mortarRead w = c := by
  unfold Chip.mortarRead
  rw [hl, ht]
  dsimp only
  rw [hr]
  rfl

theorem Chip.mortarRead_refused {k : Nat} (hr : readReaches w.issuer.u h.space = true)
    (hk : c.checkHandle w.issuer { h with off := h.off / 64 * 64 } false 64 = some k) :
    c.mortarRead w = c.handleFault 0x12 w.issuer (tableNo h.space) := by
  unfold Chip.mortarRead
  rw [hl, ht]
  dsimp only
  rw [hr, hk]
  rfl

theorem Chip.mortarRead_passed (hr : readReaches w.issuer.u h.space = true)
    (hk : c.checkHandle w.issuer { h with off := h.off / 64 * 64 } false 64 = none) :
    c.mortarRead w = c.readOf w.issuer (c.granOf h h.off) w.finding := by
  unfold Chip.mortarRead
  rw [hl, ht]
  dsimp only
  rw [hr, hk]
  rfl

end

theorem Chip.mortarRead_phys {w : MortarIn} {sp : Space} {a : Nat} (hl : w.linkError = false) (ht : w.target = .phys sp a) :
    c.mortarRead w = if readReaches w.issuer.u sp then c.readOf w.issuer (c.physPlace sp a).gran w.finding else c := by
  unfold Chip.mortarRead
  rw [hl, ht]
  rfl

/-- Settles O29: a slot by its state, a granule by what its issuer may read and what its links can serve. -/
theorem readDelivers : Obligations.ReadDelivers := by
  unfold Obligations.ReadDelivers
  intro s w hon hl hm c only crossed granule
  refine ⟨fun x p ht => mortarRead_slot_delivers s w x p hon hl ht, fun h ht => ?_, fun sp a ht hok => ?_⟩
  · have hexec : exec (.mortarRead w) s = .next ⟨s.pending, s.chip.mortarRead w⟩ :=
      exec_mortarRead_on s w hon (by unfold Chip.readExists; rw [ht])
    refine ⟨fun hr => ?_, fun hr hbad => ?_, fun hr hbad => ?_⟩
    · rw [hexec, s.chip.mortarRead_unreached hl ht hr]
    · obtain ⟨k, hk⟩ := Option.ne_none_iff_exists'.1 hbad
      rw [s.chip.mortarRead_refused hl ht hr hk] at hexec
      have hrefused := c.handleFault_refuses 0x12 w.issuer (tableNo h.space)
      exact ⟨_, hexec, rfl, hrefused.readOut, hrefused.hndFaults, hrefused.bytes.block, hrefused.bytes.shared,
        hrefused.bytes.ddr, hrefused.logged⟩
    · rw [s.chip.mortarRead_passed hl ht hr hbad] at hexec
      exact mortarRead_granule_delivers s w _ hm hexec
  · have hexec : exec (.mortarRead w) s = .next ⟨s.pending, s.chip.mortarRead w⟩ :=
      exec_mortarRead_on s w hon (by unfold Chip.readExists; rw [ht]; exact hok)
    rw [s.chip.mortarRead_phys hl ht] at hexec
    refine ⟨fun hr => ?_, fun hr => ?_⟩
    · rw [hexec, hr]
      rfl
    · rw [if_pos hr] at hexec
      exact mortarRead_granule_delivers s w _ hm hexec

end Sys2Proof.Machine
end

section
/-!
PROOFS. The issue of a move: its checks in order, and its requests at the resources it uses.
-/

namespace Sys2Proof.Machine

theorem exec_moveIssue_on (s : State) (d : MoveDesc) (hon : s.chip.On) :
    exec (.moveIssue d) s = .next ⟨s.pending, s.chip.moveIssue d⟩ := by
  simp only [exec_moveIssue, Chip.awake_eq _ hon]

variable (c : Chip) (d : MoveDesc)

/-- The move in flight that a descriptor leads to: a number of its own and its ends translated (R49, R71). -/
def Chip.moveOf (c : Chip) (d : MoveDesc) : Move :=
  { id := c.mem.nextMove, issuer := d.issuer, src := c.endOf d.src (mvSrcRanges d), dst := c.endOf d.dst (mvDstRanges d),
    bytes := d.rows * d.rowLen * 64, comp := d.comp, wide16 := d.wide16, zero := d.zero, elems := mvCount d,
    raiseFull := d.raiseFull }

/-- The table that a move-overlap fault is counted at: its destination's, or 32 for a slot (R98). -/
def moveFaultTable (d : MoveDesc) : Nat :=
  match d.dst with
  | .handle h => tableNo h.space
  | .slot _ _ => 32

/-- Both ends have a physical granule in common (R98). -/
def Move.Overlaps (m : Move) : Prop := ∃ g, g ∈ m.src.grans m.bytes ∧ g ∈ m.dst.grans m.bytes

theorem Move.overlaps_iff (m : Move) : (m.src.grans m.bytes).any m.writes.contains = true ↔ m.Overlaps := by
  unfold Move.Overlaps Move.writes
  simp only [List.any_eq_true, List.contains_iff_mem]

/-- The move is put in flight. -/
def Chip.fly (c : Chip) (m : Move) : Chip :=
  c.updMem (fun x => { x with moves := x.moves ++ [m], nextMove := x.nextMove + 1 })

/-! ## The checks in order -/

theorem Chip.moveIssue_unlisted (hk : c.moveKind d = false) : c.moveIssue d = c := by
  unfold Chip.moveIssue
  rw [hk]
  rfl

section
variable {c d} (hk : c.moveKind d = true)
include hk

theorem Chip.moveIssue_srcBad {k : Nat} (hs : c.checkRanges d.issuer d.src false (mvSrcRanges d) = some k) :
    c.moveIssue d = c.handleFault 0x12 d.issuer k := by
  unfold Chip.moveIssue
  rw [hk, hs]
  rfl

variable (hs : c.checkRanges d.issuer d.src false (mvSrcRanges d) = none)
include hs

theorem Chip.moveIssue_dstBad {k : Nat} (hd : c.checkRanges d.issuer d.dst true (mvDstRanges d) = some k) :
    c.moveIssue d = c.handleFault 0x12 d.issuer k := by
  unfold Chip.moveIssue
  rw [hk, hs, hd]
  rfl

variable (hd : c.checkRanges d.issuer d.dst true (mvDstRanges d) = none)
include hd

theorem Chip.moveIssue_passed : c.moveIssue d =
    if ((c.moveOf d).src.grans (c.moveOf d).bytes).any (c.moveOf d).writes.contains
    then c.handleFault 0x13 d.issuer (moveFaultTable d)
    else (c.fly (c.moveOf d)).hedgeMove (c.moveOf d) := by
  unfold Chip.moveIssue
  rw [hk, hs, hd]
  rfl

theorem Chip.moveIssue_overlap (ho : (c.moveOf d).Overlaps) : c.moveIssue d = c.handleFault 0x13 d.issuer (moveFaultTable d) := by
  rw [Chip.moveIssue_passed hk hs hd, if_pos ((c.moveOf d).overlaps_iff.2 ho)]

theorem Chip.moveIssue_flies (ho : ¬ (c.moveOf d).Overlaps) : c.moveIssue d = (c.fly (c.moveOf d)).hedgeMove (c.moveOf d) := by
  rw [Chip.moveIssue_passed hk hs hd, if_neg (fun h => ho ((c.moveOf d).overlaps_iff.1 h))]

end

/-! ## The requests -/

theorem Chip.hedgeMove_free {m : Move} (h : hedgeWho m.issuer = none) : c.hedgeMove m = c := by
  unfold Chip.hedgeMove
  rw [h]

theorem Chip.hedgeMove_asks {m : Move} {who : Nat} (h : hedgeWho m.issuer = some who) :
    c.hedgeMove m = c.askAll (m.id + 1) who m.uses := by
  unfold Chip.hedgeMove
  rw [h]
  rfl

theorem Chip.hedgeMove_onlyHedges (m : Move) : OnlyHedges c (c.hedgeMove m) := by
  cases h : hedgeWho m.issuer with
  | none =>
    rw [c.hedgeMove_free h]
    exact OnlyHedges.refl c
  | some who =>
    rw [c.hedgeMove_asks h]
    exact c.askAll_onlyHedges _ _ _

/-! ## The obligation -/

/-- A refused move: its fault is counted and logged, and nothing is written (R72, R98, R99). -/
theorem moveIssue_refused (s : State) (d : MoveDesc) (code table : Nat) (hon : s.chip.On)
    (h : s.chip.moveIssue d = s.chip.handleFault code d.issuer table) :
    ∃ t, exec (.moveIssue d) s = .next t ∧ t.pending = s.pending ∧ t.chip.mem.moves = s.chip.mem.moves ∧
      t.chip.mem.block = s.chip.mem.block ∧ t.chip.mem.shared = s.chip.mem.shared ∧ t.chip.mem.ddr = s.chip.mem.ddr ∧
      t.chip.mem.slotData = s.chip.mem.slotData ∧ s.chip.Refuses t.chip code d.issuer table := by
  have hr := s.chip.handleFault_refuses code d.issuer table
  have hexec := exec_moveIssue_on s d hon
  rw [h] at hexec
  obtain ⟨hmoves, hslots⟩ := hr.moves
  exact ⟨_, hexec, rfl, hmoves, hr.bytes.block, hr.bytes.shared, hr.bytes.ddr, hslots, hr⟩

/-- Settles O30: the checks of source, destination and overlap in order, then the requests of the move in flight. -/
theorem movesAreChecked : Obligations.MovesAreChecked := by
  unfold Obligations.MovesAreChecked
  intro s d hon c srcBad dstBad m overlap refused
  have handle : ∀ k, c.moveIssue d = c.handleFault 0x12 d.issuer k → refused 0x12 (fun x => smGet 0 x.hndFaults k) := fun k h => by
    obtain ⟨t, hexec, hp, hmoves, hblock, hshared, hddr, hslots, hr⟩ := moveIssue_refused s d 0x12 k hon h
    exact ⟨t, hexec, hp, hmoves, hblock, hshared, hddr, hslots, hr.falls, hr.hndFaults, hr.logged⟩
  refine ⟨fun hk => ?_, fun hk => ⟨fun k hs => handle k (Chip.moveIssue_srcBad hk hs),
    fun k hs hd => handle k (Chip.moveIssue_dstBad hk hs hd), fun hs hd ho => ?_, fun hs hd ho => ?_⟩⟩
  · rw [exec_moveIssue_on s d hon, Chip.moveIssue_unlisted _ d hk]
  · obtain ⟨t, hexec, hp, hmoves, hblock, hshared, hddr, hslots, hr⟩ :=
      moveIssue_refused s d 0x13 (moveFaultTable d) hon (Chip.moveIssue_overlap hk hs hd ho)
    exact ⟨t, hexec, hp, hmoves, hblock, hshared, hddr, hslots, hr.falls, hr.mvFaults, hr.logged⟩
  · have hexec := exec_moveIssue_on s d hon
    rw [Chip.moveIssue_flies hk hs hd ho] at hexec
    have honly := (c.fly m).hedgeMove_onlyHedges m
    refine ⟨_, hexec, rfl, honly.rest, honly.mem, fun hw => ?_, fun who hw e he => ?_⟩
    · rw [Chip.hedgeMove_free _ hw]
      rfl
    · rw [Chip.hedgeMove_asks _ hw]
      exact (c.fly m).mem_askAll _ _ he

end Sys2Proof.Machine
end

section
/-!
PROOFS. A move between memories that completes: the granules it writes, and what they then hold.
-/

namespace Sys2Proof.Machine

/-! ## Granules of the memories -/

/-- Where a granule lies: its memory, DDR4 for every number from 37 on, and its number there. -/
def Gran.place (g : Gran) : Nat × Nat := (Nat.min g.sel 37, g.no)

/-- Two numbers of the same memory. -/
def SameMemory (sel sel' : Nat) : Prop := Nat.min sel 37 = Nat.min sel' 37

theorem sameMemory_iff {sel sel' : Nat} : SameMemory sel sel' ↔ sel = sel' ∨ 36 < sel ∧ 36 < sel' := by
  change min sel 37 = min sel' 37 ↔ _
  omega

section
variable (m : Mem) {sel sel' : Nat} (v : Memory)

theorem Mem.byNo_block (h : sel < 36) : m.byNo sel = smGet [] m.block sel := if_pos h

theorem Mem.byNo_shared : m.byNo 36 = m.shared := rfl

theorem Mem.byNo_ddr (h : 36 < sel) : m.byNo sel = m.ddr := by
  unfold Mem.byNo
  rw [if_neg (by omega), if_neg (by omega)]

theorem Mem.setNo_block (h : sel < 36) : m.setNo sel v = { m with block := smSet [] m.block sel v } := if_pos h

theorem Mem.setNo_shared : m.setNo 36 v = { m with shared := v } := rfl

theorem Mem.setNo_ddr (h : 36 < sel) : m.setNo sel v = { m with ddr := v } := by
  unfold Mem.setNo
  rw [if_neg (by omega), if_neg (by omega)]

theorem Mem.byNo_congr (h : SameMemory sel sel') : m.byNo sel = m.byNo sel' := by
  rcases sameMemory_iff.1 h with rfl | ⟨h, h'⟩
  · rfl
  · rw [m.byNo_ddr h, m.byNo_ddr h']

theorem Mem.byNo_setNo_self : (m.setNo sel v).byNo sel = v := by
  rcases Nat.lt_trichotomy sel 36 with h | rfl | h
  · rw [m.setNo_block v h, Mem.byNo_block _ h]
    exact smGet_smSet_self m.block sel v
  · rw [m.setNo_shared, Mem.byNo_shared]
  · rw [m.setNo_ddr v h, Mem.byNo_ddr _ h]

theorem Mem.byNo_setNo_ne (h : ¬ SameMemory sel sel') : (m.setNo sel v).byNo sel' = m.byNo sel' := by
  rw [sameMemory_iff] at h
  have hne : sel' ≠ sel := fun e => h (.inl e.symm)
  rcases Nat.lt_trichotomy sel 36 with hs | rfl | hs
  · rw [m.setNo_block v hs]
    unfold Mem.byNo
    dsimp only
    rw [smGet_smSet_ne m.block v hne]
  · rw [m.setNo_shared]
    unfold Mem.byNo
    rw [if_neg hne, if_neg hne]
  · rw [m.setNo_ddr v hs]
    unfold Mem.byNo
    split
    · rfl
    · rw [if_pos (by omega), if_pos (by omega)]

end

theorem Mem.markGran_bytes (m : Mem) (g : Gran) (v : Nat → Bool) : m.SameBytes (m.markGran g v) := ⟨rfl, rfl, rfl⟩

theorem Mem.byNo_writeGran_self (m : Mem) (g : Gran) (d : List Byte) {sel : Nat} (h : SameMemory g.sel sel) :
    (m.writeGran g d).byNo sel = memWrites (m.byNo g.sel) (g.no * 64) (d.take 64) := by
  unfold Mem.writeGran
  rw [(Mem.markGran_bytes _ _ _).byNo, ← Mem.byNo_congr _ h, Mem.byNo_setNo_self]

theorem Mem.byNo_writeGran_ne (m : Mem) (g : Gran) (d : List Byte) {sel : Nat} (h : ¬ SameMemory g.sel sel) :
    (m.writeGran g d).byNo sel = m.byNo sel := by
  unfold Mem.writeGran
  rw [(Mem.markGran_bytes _ _ _).byNo, Mem.byNo_setNo_ne _ _ h]

/-- A byte outside the granule that is written. -/
theorem Mem.memRead_writeGran_out (m : Mem) (g : Gran) (d : List Byte) {sel a : Nat} (h : g.place ≠ (Nat.min sel 37, a / 64)) :
    memRead ((m.writeGran g d).byNo sel) a = memRead (m.byNo sel) a := by
  by_cases hs : SameMemory g.sel sel
  · have hno : g.no ≠ a / 64 := fun hno => h (Prod.ext hs hno)
    have hlen : (d.take 64).length ≤ 64 := List.length_take_le 64 d
    rw [m.byNo_writeGran_self g d hs, memRead_memWrites_out _ _ _ _ (by omega), m.byNo_congr hs]
  · rw [m.byNo_writeGran_ne g d hs]

/-- A granule that is written whole. -/
theorem Mem.readGran_writeGran (m : Mem) (g : Gran) {d : List Byte} (h : d.length = 64) : (m.writeGran g d).readGran g = d := by
  unfold Mem.readGran
  rw [m.byNo_writeGran_self g d rfl, List.take_of_length_le (Nat.le_of_eq h), ← h]
  exact memReads_memWrites d _ _

theorem memReads_length (m : Memory) (a n : Nat) : (memReads m a n).length = n := by
  induction n generalizing a with
  | zero => rfl
  | succ n ih => exact congrArg (· + 1) (ih (a + 1))

theorem memReads_getElem? (m : Memory) {k n : Nat} (a : Nat) (h : k < n) : (memReads m a n)[k]? = some (memRead m (a + k)) := by
  induction n generalizing a k with
  | zero => exact absurd h (Nat.not_lt_zero k)
  | succ n ih =>
    cases k with
    | zero => rfl
    | succ k =>
      refine (ih (a + 1) (Nat.lt_of_succ_lt_succ h)).trans ?_
      rw [Nat.add_assoc, Nat.add_comm 1 k]

theorem memReads_congr {m m' : Memory} {n : Nat} (a : Nat) (h : ∀ k, k < n → memRead m' (a + k) = memRead m (a + k)) :
    memReads m' a n = memReads m a n := by
  refine List.ext_getElem? (fun k => ?_)
  rcases Nat.lt_or_ge k n with hk | hk
  · rw [memReads_getElem? _ _ hk, memReads_getElem? _ _ hk, h k hk]
  · rw [List.getElem?_eq_none (by rwa [memReads_length]), List.getElem?_eq_none (by rwa [memReads_length])]

/-- Bytes of granules that hold the same. -/
theorem Mem.memRead_of_readGran {m n : Mem} {g g' : Gran} (h : n.readGran g' = m.readGran g) {k : Nat} (hk : k < 64) :
    memRead (n.byNo g'.sel) (g'.no * 64 + k) = memRead (m.byNo g.sel) (g.no * 64 + k) := by
  have hget := congrArg (·[k]?) h
  unfold Mem.readGran at hget
  rw [memReads_getElem? _ _ hk, memReads_getElem? _ _ hk] at hget
  exact Option.some.inj hget

/-! ## Copies -/

theorem Mem.readGran_copyGran (m : Mem) (s d : Gran) : (m.copyGran s d).readGran d = m.readGran s := by
  unfold Mem.copyGran
  rw [(Mem.markGran_bytes _ _ _).readGran]
  exact m.readGran_writeGran d (memReads_length _ _ _)

theorem Mem.memRead_copyGran_out (m : Mem) (s d : Gran) {sel a : Nat} (h : d.place ≠ (Nat.min sel 37, a / 64)) :
    memRead ((m.copyGran s d).byNo sel) a = memRead (m.byNo sel) a := by
  unfold Mem.copyGran
  rw [(Mem.markGran_bytes _ _ _).byNo]
  exact m.memRead_writeGran_out d _ h

/-- Copies of granules in order. -/
def Mem.copyAll (m : Mem) (pairs : List (Gran × Gran)) : Mem := pairs.foldl (fun m e => m.copyGran e.1 e.2) m

theorem Mem.copyAll_moves (m : Mem) (pairs : List (Gran × Gran)) : (m.copyAll pairs).moves = m.moves := by
  induction pairs generalizing m with
  | nil => rfl
  | cons e l ih => exact (ih _).trans (m.copyGran_moves e.1 e.2).1

/-- No byte outside the granules that are written changes. -/
theorem Mem.memRead_copyAll_out (m : Mem) {pairs : List (Gran × Gran)} {sel a : Nat}
    (h : ∀ p, p ∈ pairs → p.2.place ≠ (Nat.min sel 37, a / 64)) :
    memRead ((m.copyAll pairs).byNo sel) a = memRead (m.byNo sel) a := by
  induction pairs generalizing m with
  | nil => rfl
  | cons e l ih =>
    exact (ih (m.copyGran e.1 e.2) (fun p hp => h p (List.mem_cons_of_mem _ hp))).trans
      (m.memRead_copyGran_out e.1 e.2 (h e List.mem_cons_self))

theorem Mem.readGran_copyAll_out (m : Mem) {pairs : List (Gran × Gran)} {g : Gran} (h : ∀ p, p ∈ pairs → p.2.place ≠ g.place) :
    (m.copyAll pairs).readGran g = m.readGran g := by
  refine memReads_congr _ (fun k hk => m.memRead_copyAll_out (fun p hp => ?_))
  rw [show (g.no * 64 + k) / 64 = g.no by omega]
  exact h p hp

/-- Where the granules written are distinct and none of them is read, each holds what its source held. -/
theorem Mem.readGran_copyAll (m : Mem) {pairs : List (Gran × Gran)} (hnd : (pairs.map (fun p => p.2.place)).Nodup)
    (hsep : ∀ p q, p ∈ pairs → q ∈ pairs → p.1.place ≠ q.2.place) {p : Gran × Gran} (hp : p ∈ pairs) :
    (m.copyAll pairs).readGran p.2 = m.readGran p.1 := by
  induction pairs generalizing m with
  | nil => cases hp
  | cons e l ih =>
    rw [List.map_cons, List.nodup_cons] at hnd
    obtain ⟨he, hnd⟩ := hnd
    rcases List.mem_cons.1 hp with rfl | hl
    · have hlater : ∀ q, q ∈ l → q.2.place ≠ p.2.place := fun q hq h => he (h ▸ List.mem_map_of_mem hq)
      exact ((m.copyGran p.1 p.2).readGran_copyAll_out hlater).trans (m.readGran_copyGran p.1 p.2)
    · have hsrc : ∀ q, q ∈ [e] → q.2.place ≠ p.1.place := fun q hq => by
        rw [List.mem_singleton.1 hq]
        exact (hsep p e hp List.mem_cons_self).symm
      refine (ih (m.copyGran e.1 e.2) hnd (fun x y hx hy => ?_) hl).trans (m.readGran_copyAll_out hsrc)
      exact hsep x y (List.mem_cons_of_mem _ hx) (List.mem_cons_of_mem _ hy)

/-! ## The move -/

variable (c : Chip)

/-- The granules that a move copies, each with where it goes: of compressed pages the occupied ones (R95, R97). -/
def Chip.copyPairs (c : Chip) (m : Move) (rows drows : List (List Gran)) : List (Gran × Gran) :=
  (rows.zip drows).flatMap (fun e =>
    (c.occupied m e.1).filterMap (fun k => (e.1[k]?).bind (fun a => (e.2[k]?).map (fun b => (a, b)))))

theorem Chip.occupied_congr {a b : Chip} (h : a.mem.SameBytes b.mem) (m : Move) (row : List Gran) :
    b.occupied m row = a.occupied m row := by
  unfold Chip.occupied
  simp only [h.readGran]

theorem Chip.copyPairs_congr {a b : Chip} (h : a.mem.SameBytes b.mem) (m : Move) (rows drows : List (List Gran)) :
    b.copyPairs m rows drows = a.copyPairs m rows drows := by
  unfold Chip.copyPairs
  simp only [Chip.occupied_congr h]

theorem Chip.meetAll_clean (h : ∀ g, c.mem.poisoned g = false) (l : List Gran) : c.meetAll l = (c, false) := by
  unfold Chip.meetAll
  refine foldl_same (fun g _ => ?_)
  rw [c.meet_clean (h g)]
  rfl

theorem Chip.foldl_copyGran (pairs : List (Gran × Gran)) :
    pairs.foldl (fun c e => c.updMem (fun x => x.copyGran e.1 e.2)) c = c.updMem (fun m => m.copyAll pairs) := by
  induction pairs generalizing c with
  | nil => rfl
  | cons e l ih => exact ih _

theorem Chip.carry_clean (h : ∀ g, c.mem.poisoned g = false) (pairs : List (Gran × Gran)) :
    c.carry pairs = (c.updMem (fun m => m.copyAll pairs), false) := by
  unfold Chip.carry
  rw [c.meetAll_clean h, ← c.foldl_copyGran]

theorem Chip.land_clean {m : Move} {rows drows : List (List Gran)} (hs : m.src = .mem rows) (hd : m.dst = .mem drows)
    (h : ∀ g, c.mem.poisoned g = false) : c.land m = c.updMem (fun x => x.copyAll (c.copyPairs m rows drows)) := by
  have hcarry := c.carry_clean h (c.copyPairs m rows drows)
  unfold Chip.copyPairs at hcarry ⊢
  unfold Chip.land
  rw [hs, hd]
  dsimp only
  rw [hcarry]
  rfl

theorem exec_moveComplete_on (s : State) (e : MoveFin) (hon : s.chip.On) :
    exec (.moveComplete e) s = .next ⟨s.pending, s.chip.moveComplete e.id e.finds⟩ := by
  simp only [exec_moveComplete, Chip.awake_eq _ hon]

/-- The only move in flight waits for no other. -/
theorem Chip.moveComplete_alone {m : Move} (h : c.mem.moves = [m]) : c.moveComplete m.id [] = c.performMove m := by
  have hfind : c.mem.moves.find? (fun x => x.id = m.id) = some m := by
    rw [h]
    exact List.find?_cons_of_pos (decide_eq_true rfl)
  have hbefore : c.movesOf m.issuer m.id = [] := by
    unfold Chip.movesOf
    rw [h]
    simp
  unfold Chip.moveComplete
  rw [hfind]
  dsimp only
  rw [hbefore]
  rfl

/-- A move between memories lands once its hedged resources have served it (R96, R359). -/
theorem Chip.performMove_memory {m : Move} {rows drows : List (List Gran)} (hs : m.src = .mem rows) (hd : m.dst = .mem drows)
    (hdead : c.moveDead m = false) : c.performMove m =
      if (c.hedgeServeAll (m.id + 1) (m.uses.map (·.1))).2
      then ((c.hedgeServeAll (m.id + 1) (m.uses.map (·.1))).1.dropMove m.id).land m
      else (c.hedgeServeAll (m.id + 1) (m.uses.map (·.1))).1 := by
  have hwaits : c.moveWaits m = false := by
    unfold Chip.moveWaits
    rw [hs, hd]
    rfl
  rw [Chip.performMove_eq, hdead, hwaits]
  rfl

/-- What a device keeps once the resources have served a move and it has left the flight: all but its hedges, and the moves. -/
structure Chip.Leaves (c e : Chip) (id : Nat) : Prop where
  bytes : c.mem.SameBytes e.mem
  poison : e.mem.poison = c.mem.poison
  moves : e.mem.moves = c.mem.moves.filter (fun y => y.id ≠ id)
  rest : e = { c with mem := e.mem }

theorem OnlyHedges.leaves {c b : Chip} (h : OnlyHedges c b) (id : Nat) : c.Leaves (b.dropMove id) id where
  bytes := by
    have hb : c.mem.SameBytes b.mem := by
      rw [h.mem]
      exact ⟨rfl, rfl, rfl⟩
    exact hb.trans ⟨rfl, rfl, rfl⟩
  poison := (congrArg Mem.poison h.mem :)
  moves := (congrArg (fun m : Mem => m.moves.filter (fun y => y.id ≠ id)) h.mem :)
  rest := by
    rw [h.rest]
    rfl

/-- A served move between memories without poisoned words is the copy of its granules. -/
theorem Chip.performMove_served {m : Move} {rows drows : List (List Gran)} (hs : m.src = .mem rows) (hd : m.dst = .mem drows)
    (hdead : c.moveDead m = false) (hclean : ∀ g, c.mem.poisoned g = false)
    (hserved : (c.hedgeServeAll (m.id + 1) (m.uses.map (·.1))).2 = true) :
    ∃ e, c.Leaves e m.id ∧ c.performMove m = e.updMem (fun x => x.copyAll (c.copyPairs m rows drows)) := by
  have hleaves := (c.hedgeServeAll_onlyHedges (m.id + 1) (m.uses.map (·.1))).leaves m.id
  refine ⟨_, hleaves, ?_⟩
  rw [c.performMove_memory hs hd hdead, if_pos hserved, ← Chip.copyPairs_congr hleaves.bytes]
  exact Chip.land_clean _ hs hd (fun g => (Mem.poisoned_congr hleaves.poison g).trans (hclean g))

/-- Settles O31: the move waits at its hedged resources, or lands as copies of granules. -/
theorem moveWrites : Obligations.MoveWrites := by
  unfold Obligations.MoveWrites
  intro s mv rows drows hon hmoves hs hd hdead hclean c pairs place servedNow
  have hexec : exec (.moveComplete ⟨mv.id, []⟩) s = .next ⟨s.pending, c.performMove mv⟩ := by
    rw [exec_moveComplete_on s _ hon, c.moveComplete_alone hmoves]
  cases hserved : servedNow with
  | false =>
    have hhedges := c.hedgeServeAll_onlyHedges (mv.id + 1) (mv.uses.map (·.1))
    rw [c.performMove_memory hs hd hdead, if_neg (fun h => Bool.false_ne_true (hserved.symm.trans h))] at hexec
    exact ⟨_, hexec, rfl, hhedges.rest, fun _ => hhedges.mem, fun h => absurd h Bool.false_ne_true⟩
  | true =>
    obtain ⟨e, hleaves, he⟩ := c.performMove_served hs hd hdead hclean hserved
    rw [he] at hexec
    refine ⟨_, hexec, rfl, ?_, fun h => absurd h.symm Bool.false_ne_true, fun _ =>
      ⟨?_, fun sel a hsel h => ?_, fun hnd hsep p k hp hk => ?_⟩⟩
    · rw [hleaves.rest]
      rfl
    · refine (e.mem.copyAll_moves pairs).trans (hleaves.moves.trans ?_)
      rw [show c.mem.moves = [mv] from hmoves]
      simp
    · rw [← hleaves.bytes.byNo]
      refine e.mem.memRead_copyAll_out (fun p hp => ?_)
      rw [show Nat.min sel 37 = sel from Nat.min_eq_left (Nat.le_of_lt_succ hsel)]
      exact h p hp
    · rw [← hleaves.bytes.byNo]
      exact Mem.memRead_of_readGran (e.mem.readGran_copyAll hnd hsep hp) hk

end Sys2Proof.Machine
end

section
/-!
PROOFS. Scrub reads of physical rows, and the copies of banks.
-/

namespace Sys2Proof.Machine

/-! ## Physical rows -/

/-- The number of a row of a block memory: its bank, and the row within it. -/
def blockRow (r : Fin 4) (b : Fin 9) (bank : Fin 16) (k : Nat) : Nat := ((9 * r.val + b.val) * 16 + bank.val) * 2 ^ 20 + k

/-- The first granule of a row of a block memory. -/
theorem rowGran_blockRow (r : Fin 4) (b : Fin 9) (bank : Fin 16) {k : Nat} (hk : k < 1024) :
    rowGran (blockRow r b bank k) = ⟨9 * r.val + b.val, (k * 16 + bank.val) * 2⟩ := by
  have hr := r.isLt
  have hb := b.isLt
  have hbank := bank.isLt
  have hdiv : blockRow r b bank k / 2 ^ 20 = (9 * r.val + b.val) * 16 + bank.val := by
    unfold blockRow
    omega
  have hmod : blockRow r b bank k % 2 ^ 20 = k := by
    unfold blockRow
    omega
  unfold rowGran
  rw [hdiv, hmod]
  dsimp only
  rw [if_pos (by omega), show ((9 * r.val + b.val) * 16 + bank.val) / 16 = 9 * r.val + b.val by omega,
    show ((9 * r.val + b.val) * 16 + bank.val) % 16 = bank.val by omega]

variable (c : Chip)

/-- A row of a block memory holds its own content, unless a spare row stands in for it (R88). -/
theorem Chip.rowIn_block (r : Fin 4) (b : Fin 9) (bank : Fin 16) {k : Nat} (hk : k < 1024) :
    c.rowIn (.block r b bank k) =
      if smGet none c.mem.rowSpare (blockRow r b bank k) = none then some (blockRow r b bank k) else none := by
  have h : c.rowIn (.block r b bank k) = if k < 1024
      then if (smGet none c.mem.rowSpare (blockRow r b bank k)).isNone then some (blockRow r b bank k) else none
      else (c.mem.rowSpare.find? (fun e => e.1 / 2 ^ 20 = (9 * r.val + b.val) * 16 + bank.val ∧ e.2 = some (k - 1024))).map (·.1) :=
    rfl
  rw [h, if_pos hk]
  simp only [Option.isNone_iff_eq_none]

/-! ## Scrub reads -/

theorem exec_patrolScrubRead_on (s : State) (loc : RowLoc) (f : Finding) (hon : s.chip.On) :
    exec (.patrolScrubRead loc f) s = .next ⟨s.pending, s.chip.scrub loc f⟩ := by
  simp only [exec_patrolScrubRead, Chip.awake_eq _ hon]

theorem Chip.scrub_content {loc : RowLoc} {row : Nat} (h : c.rowIn loc = some row) (f : Finding) :
    c.scrub loc f = ((c.correct (rowGran row) f).meet (rowGran row)).1 := by
  unfold Chip.scrub
  rw [h]

theorem Chip.scrub_idle {loc : RowLoc} (h : c.rowIn loc = none) (f : Finding) : c.scrub loc f = c.countIdle loc f := by
  unfold Chip.scrub
  rw [h]

/-- What a corrected word of a block memory leaves: it is counted and remembered, and a second correction at its bit marks the
row (R86, R88). -/
structure Chip.Corrected (c t : Chip) (g : Gran) (q bit : Nat) : Prop where
  counted : c.Counted2 t F.BM_ECC_CORR (g.sel / 9) (g.sel % 9)
  remembered : smGet [] t.mem.corrAt q = smGet [] c.mem.corrAt q ++ [bit]
  marked : bit ∈ smGet [] c.mem.corrAt q → 1 ≤ smGet 0 t.mem.rowMark g.rowNo
  unmarked : bit ∉ smGet [] c.mem.corrAt q → t.mem.rowMark = c.mem.rowMark
  block : t.mem.block = c.mem.block
  poison : t.mem.poison = c.mem.poison
  core : c.Core t

theorem Mem.rowMark_noteCorr_second (m : Mem) {g : Gran} {q bit : Nat} (h : bit ∈ smGet [] m.corrAt q) (hg : g.sel < 37) :
    1 ≤ smGet 0 (m.noteCorr g q bit).rowMark g.rowNo := by
  rw [show (m.noteCorr g q bit).rowMark = smMod 0 m.rowMark g.rowNo (Nat.max 1) from if_pos ⟨h, hg⟩, smGet_smMod_self]
  exact Nat.le_max_left _ _

theorem Chip.correct_corrected {g : Gran} {k : Fin 16} {q : Nat} (bit : Fin 72) (hq : g.rowWords[k.val]? = some q)
    (hg : g.sel < 36) : c.Corrected (c.correct g (.single k bit)) g q bit.val := by
  rw [c.correct_single bit hq, c.countCorr_block hg]
  exact ⟨c.bump_counted F.BM_ECC_CORR (bmEcc_has hg) (by decide), smGet_smSet_self c.mem.corrAt q _,
    fun h => c.mem.rowMark_noteCorr_second h (Nat.lt_succ_of_lt hg), fun h => if_neg (fun x => h x.1), rfl, rfl,
    ⟨rfl, rfl, rfl, rfl, rfl, rfl⟩⟩

/-- A scrub read that corrects a word, in a row without an uncorrectable one. -/
theorem Chip.scrub_single {loc : RowLoc} {row : Nat} (h : c.rowIn loc = some row) {k : Fin 16} {q : Nat} (bit : Fin 72)
    (hq : (rowGran row).rowWords[k.val]? = some q) (hg : (rowGran row).sel < 36) (hp : c.mem.poisoned (rowGran row) = false) :
    c.Corrected (c.scrub loc (.single k bit)) (rowGran row) q bit.val := by
  have hc := c.correct_corrected bit hq hg
  rw [c.scrub_content h, Chip.meet_clean _ ((Mem.poisoned_congr hc.poison _).trans hp)]
  exact hc

/-- A scrub read that finds an uncorrectable word. -/
theorem Chip.scrub_double {loc : RowLoc} {row : Nat} (h : c.rowIn loc = some row) {k : Fin 16} {q : Nat}
    (hq : (rowGran row).rowWords[k.val]? = some q) : c.Met (c.scrub loc (.double k)) (rowGran row) q := by
  obtain ⟨e, he, hmet⟩ := c.meet_double hq
  rw [c.scrub_content h, he]
  exact hmet

theorem uncorrClass_block {sel : Nat} (h : sel < 36) : uncorrClass sel = 0x10 := if_pos h

/-! ## Copies of banks -/

theorem exec_bankCopyDone_on (s : State) (bank : Fin 128) (hon : s.chip.On) :
    exec (.bankCopyDone bank) s = .next ⟨s.pending, s.chip.bankCopyDone bank.val⟩ := by
  simp only [exec_bankCopyDone, Chip.awake_eq _ hon]

/-- Whether spare bank `x` takes the copy of a bank (R90). -/
abbrev Chip.copies (c : Chip) (bank x : Nat) : Prop := c.flag F.SM_SPARE_COPYING x = true ∧ c.get F.SM_SPARE_BANK x = bank

/-- The first spare bank that takes the bank's copy is noted. -/
theorem Chip.bankCopyDone_noted {bank x : Nat} (hx : x < 4) (h : c.copies bank x) (hfirst : ∀ y, y < x → ¬ c.copies bank y) :
    c.bankCopyDone bank = c.updMem (fun m => { m with bankCopied := m.bankCopied.set x true }) := by
  have hfind : (List.range 4).find? (fun s => c.flag F.SM_SPARE_COPYING s ∧ c.get F.SM_SPARE_BANK s = bank) = some x := by
    refine List.find?_range_eq_some.2 ⟨decide_eq_true h, List.mem_range.2 hx, fun y hy => ?_⟩
    rw [decide_eq_false (hfirst y hy)]
    rfl
  unfold Chip.bankCopyDone
  rw [hfind]

theorem Chip.bankCopyDone_none {bank : Nat} (h : ∀ y, y < 4 → ¬ c.copies bank y) : c.bankCopyDone bank = c := by
  have hfind : (List.range 4).find? (fun s => c.flag F.SM_SPARE_COPYING s ∧ c.get F.SM_SPARE_BANK s = bank) = none :=
    List.find?_eq_none.2 (fun y hy hc => h y (List.mem_range.1 hy) (of_decide_eq_true hc))
  unfold Chip.bankCopyDone
  rw [hfind]

/-! ## The obligation -/

/-- A scrub read of a row that holds content. -/
theorem patrolScrubRead_content (s : State) {loc : RowLoc} {row : Nat} (hon : s.chip.On) (hrow : s.chip.rowIn loc = some row) :
    (s.chip.mem.poisoned (rowGran row) = false → exec (.patrolScrubRead loc .clean) s = .next s) ∧
    ∀ (k : Fin 16) (bit : Fin 72) q, (rowGran row).rowWords[k.val]? = some q → (rowGran row).sel < 36 →
      (s.chip.mem.poisoned (rowGran row) = false → ∃ t, exec (.patrolScrubRead loc (.single k bit)) s = .next t ∧
        t.pending = s.pending ∧ s.chip.Corrected t.chip (rowGran row) q bit.val) ∧
      ∃ t, exec (.patrolScrubRead loc (.double k)) s = .next t ∧ t.pending = s.pending ∧ s.chip.Met t.chip (rowGran row) q := by
  refine ⟨fun hp => ?_, fun k bit q hq hg => ⟨fun hp => ?_, ?_⟩⟩
  · rw [exec_patrolScrubRead_on s _ _ hon, s.chip.scrub_content hrow, show s.chip.correct (rowGran row) .clean = s.chip from rfl,
      s.chip.meet_clean hp]
  · exact ⟨_, exec_patrolScrubRead_on s _ _ hon, rfl, s.chip.scrub_single hrow bit hq hg hp⟩
  · exact ⟨_, exec_patrolScrubRead_on s _ _ hon, rfl, s.chip.scrub_double hrow hq⟩

/-- One of a row that holds none. -/
theorem patrolScrubRead_idle (s : State) {loc : RowLoc} (hon : s.chip.On) (hrow : s.chip.rowIn loc = none) (f : Finding) :
    exec (.patrolScrubRead loc f) s = .next ⟨s.pending, s.chip.countIdle loc f⟩ := by
  rw [exec_patrolScrubRead_on s _ _ hon, s.chip.scrub_idle hrow]

/-- Settles O32: a row with content goes through correction, one without is counted only, a copied bank is noted. -/
theorem scrubAndSpare : Obligations.ScrubAndSpare := by
  unfold Obligations.ScrubAndSpare
  intro s hon c
  refine ⟨fun r b bank k hk => ⟨c.rowIn_block r b bank hk, rowGran_blockRow r b bank hk⟩, fun loc row hrow => ?_,
    fun r b bank row k bit hrow => ⟨patrolScrubRead_idle s hon hrow _, patrolScrubRead_idle s hon hrow _,
      patrolScrubRead_idle s hon hrow _⟩, fun bank x hx _ hcopy hbank hfirst => ?_, fun bank h => ?_⟩
  · obtain ⟨hclean, hfound⟩ := patrolScrubRead_content s hon hrow
    refine ⟨hclean, fun k bit q hq hg => ?_⟩
    obtain ⟨hsingle, t, hexec, hp, hmet⟩ := hfound k bit q hq hg
    refine ⟨fun hpoison => ?_, t, hexec, hp, hmet.counted hg, hmet.poison, hmet.marked (Nat.lt_succ_of_lt hg), ?_,
      hmet.bytes.block, hmet.core⟩
    · obtain ⟨u, hexec, hp, hc⟩ := hsingle hpoison
      exact ⟨u, hexec, hp, hc.counted, hc.remembered, hc.marked, hc.unmarked, hc.block, hc.poison, hc.core⟩
    · rw [← uncorrClass_block hg]
      exact hmet.logged 0 _ (.none rfl (fun _ => rfl)) (by decide)
  · rw [exec_bankCopyDone_on s bank hon, s.chip.bankCopyDone_noted hx ⟨hcopy, hbank⟩ hfirst]
  · rw [exec_bankCopyDone_on s bank hon, s.chip.bankCopyDone_none h]

end Sys2Proof.Machine
end

section
/-!
PROOFS. What follows every command of a running device, in full: which transports are held, which are released, and what
record credit a session is granted.
-/

namespace Sys2Proof.Machine

/-! ## A read after an update -/

theorem Chip.transport_modTransport (c : Chip) (k k' : Nat) (f : Transport → Transport) :
    (c.modTransport k f).transport k' = if k' = k then f (c.transport k) else c.transport k' := smGet_smMod ..

@[simp] theorem Chip.transport_modTransport_self (c : Chip) (k : Nat) (f : Transport → Transport) :
    (c.modTransport k f).transport k = f (c.transport k) := smGet_smMod_self ..

theorem Chip.subm_modSubm (c : Chip) (s s' : Nat) (f : Subm → Subm) :
    (c.modSubm s f).subm s' = if s' = s then f (c.subm s) else c.subm s' := smGet_smMod ..

/-- Another field of a HOLD_STAT, or a field of another transport's. -/
theorem Chip.get_putB_hold (c : Chip) {f g : Fld} (v : Bool) (i k : Nat) (hf : f.reg = .HOLD_STAT) (hg : g.reg = .HOLD_STAT)
    (hw : f.lo + f.w ≤ 32) (h : k ≠ i ∨ g.lo + g.w ≤ f.lo ∨ f.lo + f.w ≤ g.lo) : (c.putB f v i).get g k = c.get g k := by
  by_cases hk : k = i
  · subst hk
    exact Chip.get_putB_field _ _ _ _ _ _ (hg.trans hf.symm) hw (h.resolve_left (fun hne => hne rfl))
  · refine Chip.get_putB_ne _ _ _ _ _ _ _ _ ?_
    rw [hf, hg]
    simp only [Reg.addr, Reg.info]
    omega

/-! ## The relation -/

theorem Calm.word_apart {a b : Chip} (h : Calm a b) {r : Reg} (i j : Nat) (hr : Reg.apart .HOLD_STAT r = true) :
    b.word r i j = a.word r i j := by
  cases hi : r.has i j with
  | false =>
    unfold Chip.word
    rw [hi]
    rfl
  | true =>
    refine h.word _ _ _ (fun k hk he => ?_)
    have := Reg.addr_bounds (r := .HOLD_STAT) (decide_eq_true ⟨hk, Nat.one_pos⟩)
    have := Reg.addr_bounds hi
    have := of_decide_eq_true hr
    omega

theorem Calm.get_apart {a b : Chip} (h : Calm a b) {f : Fld} {i j : Nat} (hf : Reg.apart .HOLD_STAT f.reg = true) :
    b.get f i j = a.get f i j := Chip.get_of_word f (h.word_apart i j hf)

theorem Calm.flag_apart {a b : Chip} (h : Calm a b) {f : Fld} {i j : Nat} (hf : Reg.apart .HOLD_STAT f.reg = true) :
    b.flag f i j = a.flag f i j := Chip.flag_congr (h.get_apart hf)

theorem Calm.sess {a b : Chip} (h : Calm a b) (n : Nat) : b.sess n = a.sess n := congrArg (smGet Session.cold · n) h.sessions

theorem Calm.classCovers {a b : Chip} (h : Calm a b) (k o : Nat) : b.classCovers k o = a.classCovers k o := by
  unfold Chip.classCovers
  rw [h.flag_apart (by decide), h.get_apart (by decide), h.get_apart (by decide)]

theorem Calm.itemSpool {a b : Chip} (h : Calm a b) : b.itemSpool = a.itemSpool := by
  unfold Chip.itemSpool
  rw [h.get_apart (by decide)]

theorem Calm.spoolShort {a b : Chip} (h : Calm a b) (n : Nat) : b.spoolShort n = a.spoolShort n := by
  unfold Chip.spoolShort Chip.pagesAfter
  simp only [h.sess, h.itemSpool, h.classCovers, h.get_apart (f := F.SNS_CREDIT_N) (by decide),
    h.get_apart (f := F.SESS_MAND_CLASSES) (by decide)]

/-- Whether credits are withheld depends on nothing that settling changes. -/
theorem Calm.grantBlocked {a b : Chip} (h : Calm a b) (s : Nat) : b.grantBlocked s = a.grantBlocked s := by
  unfold Chip.grantBlocked
  simp only [h.sess, h.itemSpool, h.classCovers, h.get_apart (f := F.SUB_CFG_STATE) (by decide),
    h.flag_apart (f := F.VAR_STAT_HOLD) (by decide), h.get_apart (f := F.VAR_SHED_SUB_SHED) (by decide),
    h.get_apart (f := F.SESS_MAND_CLASSES) (by decide)]

/-- From `a` to `b` only what shows or times a hold, credits granted, and records that carry them have changed. -/
structure Settles (a b : Chip) : Prop extends Calm a b where
  force : ∀ k, b.get F.HOLD_STAT_FORCE k = a.get F.HOLD_STAT_FORCE k
  transport : ∀ k, { b.transport k with holdSince := none } = { a.transport k with holdSince := none }
  subm : ∀ x, { b.subm x with granted := 0 } = { a.subm x with granted := 0 }
  formed : ∃ more, b.formed = a.formed ++ more

theorem Settles.refl (a : Chip) : Settles a a :=
  ⟨Calm.refl a, fun _ => rfl, fun _ => rfl, fun _ => rfl, [], (List.append_nil _).symm⟩

theorem Settles.trans {a b c : Chip} (h : Settles a b) (k : Settles b c) : Settles a c where
  toCalm := h.toCalm.trans k.toCalm
  force := fun i => (k.force i).trans (h.force i)
  transport := fun i => (k.transport i).trans (h.transport i)
  subm := fun x => (k.subm x).trans (h.subm x)
  formed := by
    obtain ⟨l, hl⟩ := h.formed
    obtain ⟨m, hm⟩ := k.formed
    exact ⟨l ++ m, by rw [hm, hl, List.append_assoc]⟩

theorem Settles.foldl {β : Type} {g : Chip → β → Chip} (hg : ∀ c x, Settles c (g c x)) (l : List β) (c : Chip) :
    Settles c (l.foldl g c) := by
  induction l generalizing c with
  | nil => exact Settles.refl c
  | cons x l ih => exact (hg c x).trans (ih _)

/-- The reasons to hold a transport stay. -/
theorem Settles.holdReasons {a b : Chip} (h : Settles a b) (k : Nat) : b.holdReasons k = a.holdReasons k := by
  have hforce : b.flag F.HOLD_STAT_FORCE k = a.flag F.HOLD_STAT_FORCE k := Chip.flag_congr (h.force k)
  unfold Chip.holdReasons Chip.pagesAfter Chip.locked
  simp only [hforce, h.spoolShort, h.get_apart (f := F.SNS_CFG_GEN) (by decide), h.get_apart (f := F.SNS_STATE_STATE) (by decide),
    h.get_apart (f := F.SNS_CREDIT_FREE) (by decide), h.get_apart (f := F.SNS_CREDIT_N) (by decide),
    h.flag_apart (f := F.SNS_CREDIT_EMERG_HELD) (by decide), h.flag_apart (f := F.SNS_CFG_LIVE) (by decide),
    h.flag_apart (f := F.TIME_STAT_FIRST_LOCK) (by decide), h.get_apart (f := F.VAR_STAT_SHED_TR) (by decide),
    h.flag_apart (f := F.VAR_STAT_HOLD) (by decide)]

variable (c : Chip)

theorem Chip.putB_settles {f : Fld} (v : Bool) (k : Nat) (hf : f.reg = .HOLD_STAT) (hw : f.lo + f.w ≤ 32)
    (h : 9 ≤ f.lo ∨ f.lo + f.w ≤ 8) : Settles c (c.putB f v k) where
  toCalm := Calm.putB c f v k hf
  force := fun i => c.get_putB_hold v k i hf rfl hw (.inr h)
  transport := fun _ => rfl
  subm := fun _ => rfl
  formed := ⟨[], (List.append_nil _).symm⟩

/-- A hold begins or ends: the time of its begin is the one part of a transport that changes. -/
theorem Chip.holdSince_settles (k : Nat) (v : Option Nat) : Settles c (c.modTransport k (fun t => { t with holdSince := v })) where
  toCalm := Calm.modTransport c k _
  force := fun _ => rfl
  transport := fun i => by
    rw [Chip.transport_modTransport]
    split
    · next h => rw [h]
    · rfl
  subm := fun _ => rfl
  formed := ⟨[], (List.append_nil _).symm⟩

/-! ## Feed hold -/

/-- HOLD_STAT shows the first six reasons of R131. -/
def Chip.showReasons (c : Chip) (k : Nat) : Chip :=
  let r := c.holdReasons k
  let b := fun i => r.getD i false
  (((((c.putB F.HOLD_STAT_CREDIT (b 0) k).putB F.HOLD_STAT_EMERG (b 1) k).putB F.HOLD_STAT_LOCK (b 2) k).putB
    F.HOLD_STAT_DRAIN (b 3) k).putB F.HOLD_STAT_SPOOL (b 4) k).putB F.HOLD_STAT_SHED (b 5) k

/-- ENCk_HOLD_N is driven low, if it is not yet. -/
def Chip.assertHold (c : Chip) (k : Nat) : Chip :=
  if c.flag F.HOLD_STAT_HOLD k then c
  else (c.putB F.HOLD_STAT_HOLD true k).modTransport k (fun t => { t with holdSince := some c.upNs })

/-- ENCk_HOLD_N is released, once its shortest time has passed. -/
def Chip.releaseHold (c : Chip) (k : Nat) : Chip :=
  match (c.transport k).holdSince with
  | none => c.putB F.HOLD_STAT_HOLD false k
  | some t =>
    if c.upNs ≥ t + 2000000 then (c.putB F.HOLD_STAT_HOLD false k).modTransport k (fun t => { t with holdSince := none })
    else c

theorem Chip.refreshHold_eq (k : Nat) : c.refreshHold k =
    if (c.holdReasons k).any id then (c.showReasons k).assertHold k else (c.showReasons k).releaseHold k := rfl

theorem Chip.showReasons_settles (k : Nat) : Settles c (c.showReasons k) :=
  (((((c.putB_settles _ k rfl (by decide) (by decide)).trans (Chip.putB_settles _ _ k rfl (by decide) (by decide))).trans
    (Chip.putB_settles _ _ k rfl (by decide) (by decide))).trans (Chip.putB_settles _ _ k rfl (by decide) (by decide))).trans
    (Chip.putB_settles _ _ k rfl (by decide) (by decide))).trans (Chip.putB_settles _ _ k rfl (by decide) (by decide))

theorem Chip.showReasons_hold (k i : Nat) : (c.showReasons k).get F.HOLD_STAT_HOLD i = c.get F.HOLD_STAT_HOLD i := by
  have hold : ∀ (c : Chip) {f : Fld} (v : Bool), f.reg = .HOLD_STAT → f.lo + f.w ≤ 31 →
      (c.putB f v k).get F.HOLD_STAT_HOLD i = c.get F.HOLD_STAT_HOLD i := fun c f v hf h =>
    c.get_putB_hold v k i hf rfl (Nat.le_succ_of_le h) (.inr (.inr h))
  unfold Chip.showReasons
  rw [hold _ _ rfl (by decide), hold _ _ rfl (by decide), hold _ _ rfl (by decide), hold _ _ rfl (by decide),
    hold _ _ rfl (by decide), hold _ _ rfl (by decide)]

theorem Chip.assertHold_settles (k : Nat) : Settles c (c.assertHold k) := by
  unfold Chip.assertHold
  split
  · exact Settles.refl c
  · exact (c.putB_settles _ _ rfl (by decide) (by decide)).trans (Chip.holdSince_settles _ _ _)

theorem Chip.releaseHold_settles (k : Nat) : Settles c (c.releaseHold k) := by
  unfold Chip.releaseHold
  split
  · exact c.putB_settles _ _ rfl (by decide) (by decide)
  · split
    · exact (c.putB_settles _ _ rfl (by decide) (by decide)).trans (Chip.holdSince_settles _ _ _)
    · exact Settles.refl c

theorem Chip.refreshHold_settles (k : Nat) : Settles c (c.refreshHold k) := by
  rw [Chip.refreshHold_eq]
  split
  · exact (c.showReasons_settles k).trans (Chip.assertHold_settles _ k)
  · exact (c.showReasons_settles k).trans (Chip.releaseHold_settles _ k)

theorem Chip.hold_has {k : Nat} (hk : k < 8) : Reg.has .HOLD_STAT k 0 = true := decide_eq_true ⟨hk, Nat.one_pos⟩

theorem Chip.flag_assertHold {k : Nat} (hk : k < 8) : (c.assertHold k).flag F.HOLD_STAT_HOLD k = true := by
  unfold Chip.assertHold
  split
  · assumption
  · rw [Chip.modTransport_flag]
    exact Chip.flag_putB_self _ _ _ _ _ (Chip.hold_has hk) (by decide) rfl

theorem Chip.showReasons_transport (k i : Nat) : (c.showReasons k).transport i = c.transport i := rfl

/-- From `a` to `b` whether transport `i` is held stays, and since when. -/
def SameHold (a b : Chip) (i : Nat) : Prop :=
  b.get F.HOLD_STAT_HOLD i = a.get F.HOLD_STAT_HOLD i ∧ b.transport i = a.transport i

theorem Chip.putHold_same {k i : Nat} (v : Bool) (h : i ≠ k) : SameHold c (c.putB F.HOLD_STAT_HOLD v k) i :=
  ⟨c.get_putB_hold v k i rfl rfl (by decide) (.inl h), rfl⟩

theorem Chip.putHoldSince_same {k i : Nat} (v : Bool) (f : Transport → Transport) (h : i ≠ k) :
    SameHold c ((c.putB F.HOLD_STAT_HOLD v k).modTransport k f) i :=
  ⟨(c.putHold_same v h).1, by rw [Chip.transport_modTransport, if_neg h, (c.putHold_same v h).2]⟩

theorem Chip.assertHold_same {k i : Nat} (h : i ≠ k) : SameHold c (c.assertHold k) i := by
  unfold Chip.assertHold
  split
  · exact ⟨rfl, rfl⟩
  · exact c.putHoldSince_same _ _ h

theorem Chip.releaseHold_same {k i : Nat} (h : i ≠ k) : SameHold c (c.releaseHold k) i := by
  unfold Chip.releaseHold
  split
  · exact c.putHold_same _ h
  · split
    · exact c.putHoldSince_same _ _ h
    · exact ⟨rfl, rfl⟩

/-- Work on one transport leaves the hold of another. -/
theorem Chip.refreshHold_same {k i : Nat} (h : i ≠ k) : SameHold c (c.refreshHold k) i := by
  have hshow : SameHold c (c.showReasons k) i := ⟨c.showReasons_hold k i, c.showReasons_transport k i⟩
  rw [Chip.refreshHold_eq]
  split
  · exact ⟨((c.showReasons k).assertHold_same h).1.trans hshow.1, ((c.showReasons k).assertHold_same h).2.trans hshow.2⟩
  · exact ⟨((c.showReasons k).releaseHold_same h).1.trans hshow.1, ((c.showReasons k).releaseHold_same h).2.trans hshow.2⟩

theorem Chip.releaseHold_none {k : Nat} (h : (c.transport k).holdSince = none) :
    c.releaseHold k = c.putB F.HOLD_STAT_HOLD false k := by
  unfold Chip.releaseHold
  rw [h]

/-- Transport `k` has a reason and is held. -/
structure Chip.Held (c : Chip) (k : Nat) : Prop where
  reason : (c.holdReasons k).any id = true
  held : c.flag F.HOLD_STAT_HOLD k = true

/-- Transport `k` has no reason, is not held, and no shortest time runs. -/
structure Chip.Unheld (c : Chip) (k : Nat) : Prop where
  reason : (c.holdReasons k).any id = false
  held : c.flag F.HOLD_STAT_HOLD k = false
  since : (c.transport k).holdSince = none

theorem Chip.refreshHold_held {k : Nat} (hk : k < 8) (h : (c.holdReasons k).any id = true) : (c.refreshHold k).Held k where
  reason := by rw [(c.refreshHold_settles k).holdReasons, h]
  held := by
    rw [Chip.refreshHold_eq, if_pos h]
    exact Chip.flag_assertHold _ hk

theorem Chip.Held.refreshHold {c : Chip} {i : Nat} (h : c.Held i) (hi : i < 8) (k : Nat) : (c.refreshHold k).Held i := by
  by_cases hk : i = k
  · subst hk
    exact c.refreshHold_held hi h.reason
  · exact ⟨by rw [(c.refreshHold_settles k).holdReasons, h.reason], (Chip.flag_congr (c.refreshHold_same hk).1).trans h.held⟩

theorem Chip.Unheld.refreshHold {c : Chip} {i : Nat} (h : c.Unheld i) (hi : i < 8) (k : Nat) : (c.refreshHold k).Unheld i := by
  have hreason : ((c.refreshHold k).holdReasons i).any id = false := by rw [(c.refreshHold_settles k).holdReasons, h.reason]
  by_cases hk : i = k
  · subst hk
    have he : c.refreshHold i = (c.showReasons i).putB F.HOLD_STAT_HOLD false i := by
      rw [Chip.refreshHold_eq, if_neg (Bool.eq_false_iff.1 h.reason), Chip.releaseHold_none]
      rw [Chip.showReasons_transport, h.since]
    refine ⟨hreason, ?_, ?_⟩
    · rw [he]
      exact Chip.flag_putB_self _ _ _ _ _ (Chip.hold_has hi) (by decide) rfl
    · rw [he]
      exact h.since
  · exact ⟨hreason, (Chip.flag_congr (c.refreshHold_same hk).1).trans h.held,
      (congrArg Transport.holdSince (c.refreshHold_same hk).2).trans h.since⟩

theorem foldl_refreshHold_held {i : Nat} (hi : i < 8) (l : List Nat) (c : Chip) (h : (c.holdReasons i).any id = true)
    (hl : i ∈ l ∨ c.flag F.HOLD_STAT_HOLD i = true) : (l.foldl Chip.refreshHold c).Held i := by
  induction l generalizing c with
  | nil => exact ⟨h, hl.resolve_left List.not_mem_nil⟩
  | cons k l ih =>
    have hr : ((c.refreshHold k).holdReasons i).any id = true := by rw [(c.refreshHold_settles k).holdReasons, h]
    refine ih _ hr ?_
    by_cases hk : i = k
    · subst hk
      exact .inr (c.refreshHold_held hi h).held
    · exact hl.imp (fun hm => (List.mem_cons.1 hm).resolve_left hk) (fun hh => (Chip.Held.refreshHold ⟨h, hh⟩ hi k).held)

theorem foldl_refreshHold_unheld {i : Nat} (hi : i < 8) (l : List Nat) (c : Chip) (h : c.Unheld i) :
    (l.foldl Chip.refreshHold c).Unheld i := by
  induction l generalizing c with
  | nil => exact h
  | cons k l ih => exact ih _ (h.refreshHold hi k)

/-! ## Record credit -/

/-- The credits that R168 grants a session whose credits are not withheld. -/
def Subm.due (x : Subm) : Nat := Nat.max x.granted (x.used + x.free)

theorem Subm.due_of_ge {x : Subm} (h : x.granted ≥ x.used + x.free) : x.due = x.granted := Nat.max_eq_left h
theorem Subm.due_of_not_ge {x : Subm} (h : ¬ x.granted ≥ x.used + x.free) : x.due = x.used + x.free :=
  Nat.max_eq_right (Nat.le_of_not_le h)
/-- What has been granted as due stays so. -/
theorem Subm.due_granted (x : Subm) : { x with granted := x.due }.due = x.due := Subm.due_of_ge (Nat.le_max_right _ _)

theorem Chip.grant_eq (s : Nat) : c.grant s =
    if (!(c.sess (64 + s)).open_ || c.grantBlocked s) = true then c
    else if (c.subm s).granted ≥ (c.subm s).used + (c.subm s).free then c
    else (c.modSubm s (fun x => { x with granted := (c.subm s).used + (c.subm s).free })).formLoose (64 + s) 10
      (recordMap [(0, .uint 10), (54, .uint ((c.subm s).used + (c.subm s).free))]).enc := rfl

theorem Chip.formLoose_subm (s kind : Nat) (bytes : List Byte) (x : Nat) : (c.formLoose s kind bytes).subm x = c.subm x := rfl

/-- Credits are granted to one session. -/
theorem Chip.grant_subm_ne {s x : Nat} (h : x ≠ s) : (c.grant s).subm x = c.subm x := by
  rw [Chip.grant_eq]
  split
  · rfl
  · split
    · rfl
    · rw [Chip.formLoose_subm, Chip.subm_modSubm, if_neg h]

/-- A session that is open and whose credits are not withheld has what is due; a grant changes nothing else of it. -/
theorem Chip.grant_subm_self {s : Nat} (hopen : (c.sess (64 + s)).open_ = true) (hfree : c.grantBlocked s = false) :
    (c.grant s).subm s = { c.subm s with granted := (c.subm s).due } := by
  rw [Chip.grant_eq, hopen, hfree, if_neg (by decide)]
  split
  · next h => rw [Subm.due_of_ge h]
  · next h => rw [Chip.formLoose_subm, Chip.subm_modSubm, if_pos rfl, Subm.due_of_not_ge h]

theorem Chip.grant_settles (s : Nat) : Settles c (c.grant s) where
  toCalm := c.grant_calm s
  force := fun _ => c.grant_get _ _ _ _
  transport := fun k => by
    rw [Chip.grant_eq]
    split
    · rfl
    · split <;> rfl
  subm := fun x => by
    rw [Chip.grant_eq]
    split
    · rfl
    · split
      · rfl
      · rw [Chip.formLoose_subm, Chip.subm_modSubm]
        split
        · next h => rw [h]
        · rfl
  formed := by
    rw [Chip.grant_eq]
    split
    · exact ⟨[], (List.append_nil _).symm⟩
    · split
      · exact ⟨[], (List.append_nil _).symm⟩
      · exact ⟨_, rfl⟩

theorem Chip.grant_transport (s k : Nat) : (c.grant s).transport k = c.transport k := by
  rw [Chip.grant_eq]
  split
  · rfl
  · split <;> rfl

theorem foldl_grant_due (x : Nat) (l : List Nat) (c : Chip) (hopen : (c.sess (64 + x)).open_ = true)
    (hfree : c.grantBlocked x = false) :
    ((l.foldl Chip.grant c).subm x).granted = if x ∈ l then (c.subm x).due else (c.subm x).granted := by
  induction l generalizing c with
  | nil => rfl
  | cons s l ih =>
    have hcalm := c.grant_calm s
    rw [List.foldl_cons, ih _ (by rw [hcalm.sess, hopen]) (by rw [hcalm.grantBlocked, hfree])]
    by_cases hs : x = s
    · subst hs
      rw [c.grant_subm_self hopen hfree, if_pos List.mem_cons_self]
      split
      · exact Subm.due_granted _
      · rfl
    · rw [c.grant_subm_ne hs]
      simp only [List.mem_cons, hs, false_or]

theorem foldl_grant_same (l : List Nat) (c : Chip) (k : Nat) : SameHold c (l.foldl Chip.grant c) k := by
  induction l generalizing c with
  | nil => exact ⟨rfl, rfl⟩
  | cons s l ih => exact ⟨(ih _).1.trans (c.grant_get _ _ _ _), (ih _).2.trans (c.grant_transport s k)⟩

/-! ## Settling -/

theorem Chip.refreshHold_subm (k x : Nat) : (c.refreshHold k).subm x = c.subm x := by
  rw [Chip.refreshHold_eq]
  unfold Chip.assertHold Chip.releaseHold
  split
  · split <;> rfl
  · split
    · rfl
    · split <;> rfl

theorem foldl_refreshHold_subm (l : List Nat) (c : Chip) (x : Nat) : (l.foldl Chip.refreshHold c).subm x = c.subm x := by
  induction l generalizing c with
  | nil => rfl
  | cons k l ih => exact (ih _).trans (c.refreshHold_subm k x)

/-- In state RUNNING holds follow their reasons, then credits what is free. -/
theorem Chip.settle_running_eq (h : c.running = true) :
    c.settle = (List.range 32).foldl Chip.grant ((List.range 8).foldl Chip.refreshHold c) := by
  unfold Chip.settle Chip.refreshHolds
  rw [if_pos h, if_pos h]

theorem Chip.settle_idle (h : c.running = false) : c.settle = c := if_neg (Bool.eq_false_iff.1 h)

theorem Chip.settle_settles : Settles c c.settle := by
  cases h : c.running with
  | false =>
    rw [c.settle_idle h]
    exact Settles.refl c
  | true =>
    rw [c.settle_running_eq h]
    exact (Settles.foldl Chip.refreshHold_settles _ c).trans (Settles.foldl Chip.grant_settles _ _)

/-- A transport with a reason is held (R131). -/
theorem Chip.settle_held (h : c.running = true) {k : Nat} (hk : k < 8) (hr : (c.holdReasons k).any id = true) :
    c.settle.flag F.HOLD_STAT_HOLD k = true := by
  rw [c.settle_running_eq h]
  exact (Chip.flag_congr (foldl_grant_same _ _ k).1).trans
    (foldl_refreshHold_held hk _ c hr (.inl (List.mem_range.2 hk))).held

/-- One without a reason, released, stays released (R133). -/
theorem Chip.settle_unheld (h : c.running = true) {k : Nat} (hk : k < 8) (hu : c.Unheld k) :
    c.settle.flag F.HOLD_STAT_HOLD k = false := by
  rw [c.settle_running_eq h]
  exact (Chip.flag_congr (foldl_grant_same _ _ k).1).trans (foldl_refreshHold_unheld hk _ c hu).held

/-- An open session whose credits are not withheld is granted what is free (R168). -/
theorem Chip.settle_due (h : c.running = true) {x : Nat} (hx : x < 32) (hopen : (c.sess (64 + x)).open_ = true)
    (hfree : c.grantBlocked x = false) : (c.settle.subm x).granted = (c.subm x).due := by
  have hcalm : Calm c ((List.range 8).foldl Chip.refreshHold c) := Calm.foldl Chip.refreshHold_calm _ c
  rw [c.settle_running_eq h, foldl_grant_due x _ _ (by rw [hcalm.sess, hopen]) (by rw [hcalm.grantBlocked, hfree]),
    if_pos (List.mem_range.2 hx), foldl_refreshHold_subm]

theorem Calm.eq {a b : Chip} (h : Calm a b) :
    b = { a with regs := b.regs, transports := b.transports, subs := b.subs, formed := b.formed } := by
  cases b
  obtain ⟨rfl, rfl, rfl, rfl, rfl, rfl, rfl, rfl, rfl, rfl, rfl, rfl, rfl, rfl, rfl, rfl, rfl, rfl, -⟩ := h
  rfl

/-- Settles O46: settling is the work of eight holds and 32 grants, of which none changes what the others depend on. -/
theorem holdsAndCreditsFollow : Obligations.HoldsAndCreditsFollow := by
  unfold Obligations.HoldsAndCreditsFollow
  intro c
  have h := c.settle_settles
  exact ⟨c.settle_idle, h.toCalm.eq, h.word, h.transport, h.subm, h.formed, fun hrun =>
    ⟨fun k hk => c.settle_held hrun hk, fun k _ => Chip.flag_congr (h.force k), fun x hx => c.settle_due hrun hx⟩⟩

end Sys2Proof.Machine
end

section
/-!
PROOFS. Drive events, encoder edges and triggers.
-/

namespace Sys2Proof.Machine

/-! ## Updates in succession -/

theorem smDel_smDel {α : Type} (m : SMap α) (k : Nat) : smDel (smDel m k) k = smDel m k := by
  induction m with
  | nil => rfl
  | cons e r ih =>
    obtain ⟨a, w⟩ := e
    by_cases h : a = k
    · rw [smDel, if_pos h, ih]
    · rw [smDel, if_neg h, smDel, if_neg h, ih]

theorem smDel_smIns {α : Type} (m : SMap α) (k : Nat) (v : α) : smDel (smIns k v m) k = smDel m k := by
  induction m with
  | nil => exact if_pos rfl
  | cons e r ih =>
    obtain ⟨a, w⟩ := e
    unfold smIns
    split
    · exact if_pos rfl
    · rw [smDel, smDel, ih]

/-- The last of two writes of a key stands. -/
theorem smSet_smSet {α : Type} [DecidableEq α] (d : α) (m : SMap α) (k : Nat) (v w : α) :
    smSet d (smSet d m k v) k w = smSet d m k w := by
  have h : smDel (smSet d m k v) k = smDel m k := by
    unfold smSet
    split
    · exact smDel_smDel m k
    · exact (smDel_smIns _ k v).trans (smDel_smDel m k)
  rw [smSet, h]
  rfl

theorem smMod_smMod {α : Type} [DecidableEq α] (d : α) (m : SMap α) (k : Nat) (f g : α → α) :
    smMod d (smMod d m k f) k g = smMod d m k (fun x => g (f x)) := by
  rw [smMod, smGet_smMod_self]
  exact smSet_smSet d m k _ _

variable (c : Chip)

theorem Chip.modTransport_modTransport (k : Nat) (f g : Transport → Transport) :
    (c.modTransport k f).modTransport k g = c.modTransport k (fun x => g (f x)) :=
  congrArg (fun m => { c with transports := m }) (smMod_smMod Transport.cold c.transports k f g)

theorem Chip.modStream_modStream (n : Nat) (f g : Stream → Stream) :
    (c.modStream n f).modStream n g = c.modStream n (fun x => g (f x)) :=
  congrArg (fun m => { c with streams := m }) (smMod_smMod Stream.cold c.streams n f g)

theorem Chip.stream_modStream (n n' : Nat) (f : Stream → Stream) :
    (c.modStream n f).stream n' = if n' = n then f (c.stream n) else c.stream n' := smGet_smMod ..

@[simp] theorem Chip.stream_modStream_self (n : Nat) (f : Stream → Stream) : (c.modStream n f).stream n = f (c.stream n) :=
  smGet_smMod_self ..

theorem Chip.stream_congr {a b : Chip} (h : a.streams = b.streams) (n : Nat) : a.stream n = b.stream n :=
  congrArg (smGet Stream.cold · n) h

@[simp] theorem Chip.settle_stream (n : Nat) : c.settle.stream n = c.stream n := Chip.stream_congr c.settle_streams n

theorem Chip.modStream_admits (n : Nat) (f : Stream → Stream) : c.Admits (c.modStream n f) :=
  ⟨⟨⟨rfl, rfl, rfl, rfl, rfl, rfl⟩, rfl⟩, rfl, rfl⟩

/-! ## Drive events -/

theorem exec_driveEvent_up (s : State) (n : Fin 16) (e : Drive) (hup : s.chip.Up) :
    exec (.driveEvent n e) s = .next ⟨s.pending, (s.chip.driveEvent n.val e).settle⟩ := by
  simp only [exec_driveEvent, Chip.serving_eq _ hup.1 hup.2]

section
variable {c} {n : Nat}

theorem Chip.driveEvent_idle (hc : (c.stream n).capturing = false) (ht : c.takesTriggers n = false) (e : Drive) :
    c.driveEvent n e = c := by
  unfold Chip.driveEvent
  rw [hc, ht, if_neg (by decide), if_pos (by decide)]

theorem Chip.driveEvent_capturing (hc : (c.stream n).capturing = true) (e : Drive) : c.driveEvent n e = c.captureEvent n e :=
  if_pos hc

/-- A stream on which a capture runs takes no triggers. -/
theorem Chip.not_capturing_of_takesTriggers (ht : c.takesTriggers n = true) : (c.stream n).capturing = false := by
  unfold Chip.takesTriggers at ht
  simpa using (Bool.and_eq_true_iff.1 ht).2

section
variable (ht : c.takesTriggers n = true)
include ht

theorem Chip.driveEvent_spRise : c.driveEvent n .spRise = c.modStream n (fun x => { x with sp := true }) := by
  unfold Chip.driveEvent
  rw [not_capturing_of_takesTriggers ht, ht, if_neg (by decide), if_neg (by decide)]

theorem Chip.driveEvent_spFall :
    c.driveEvent n .spFall = c.modStream n (fun x => { x with sp := false, counting := true }) := by
  unfold Chip.driveEvent
  rw [not_capturing_of_takesTriggers ht, ht, if_neg (by decide), if_neg (by decide)]

theorem Chip.driveEvent_ledOn (col : Fin 3) : c.driveEvent n (.ledOn col) =
    if c.lights n col.val then c.modStream n (fun x => { x with
      leds := x.leds.set col.val true
      ledOn := some (earliest x.ledOn (c.afterTrigger n (c.get F.SNS_EXP_START n col.val))) })
    else c := by
  unfold Chip.driveEvent
  rw [not_capturing_of_takesTriggers ht, ht, if_neg (by decide), if_neg (by decide)]

theorem Chip.driveEvent_ledOff (col : Fin 3) : c.driveEvent n (.ledOff col) =
    if c.lights n col.val then c.modStream n (fun x => { x with
      leds := x.leds.set col.val false
      ledOff := some (latest x.ledOff (c.afterTrigger n (c.get F.SNS_EXP_START n col.val + c.get F.SNS_EXP_ON n col.val))) })
    else c.modStream n (fun x => { x with leds := x.leds.set col.val false }) := by
  unfold Chip.driveEvent
  rw [not_capturing_of_takesTriggers ht, ht, if_neg (by decide), if_neg (by decide)]

end

/-- A colour lights in the capture's line in progress: one of the white reference (R140). -/
def Chip.CaptureLights (c : Chip) (n : Nat) (col : Fin 3) : Prop :=
  c.captureLines n * (if c.seqMode n then 3 else 1) < (c.stream n).capTrig ∧ 0 < c.get F.SNS_EXP_ON n col.val ∧
    (c.seqMode n = true → ((c.stream n).capTrig + 2) % 3 = col.val)

theorem Chip.captureEvent_ledOn_lit {col : Fin 3} (h : c.CaptureLights n col) :
    c.captureEvent n (.ledOn col) = c.modStream n (fun x => { x with leds := x.leds.set col.val true }) := by
  obtain ⟨hwhite, hon, hseq⟩ := h
  refine if_pos ?_
  cases hs : c.seqMode n <;> simp_all

theorem Chip.captureEvent_ledOn_dark {col : Fin 3} (h : ¬ c.CaptureLights n col) : c.captureEvent n (.ledOn col) = c := by
  refine if_neg (fun hc => h ?_)
  unfold Chip.CaptureLights
  cases hs : c.seqMode n <;> simp_all

end

/-- Settles O34: every event in the two modes of a stream, taking triggers and capturing. -/
theorem driveEventsExpose : Obligations.DriveEventsExpose := by
  unfold Obligations.DriveEventsExpose
  intro s n hup c y quiet does
  have hquiet : ∀ e, c.driveEvent n.val e = c → quiet e := fun e h => by
    unfold quiet
    rw [exec_driveEvent_up s n e hup]
    exact congrArg (fun d => Host.Outcome.next (State.mk s.pending (Chip.settle d))) h
  have hdoes : ∀ e f, c.driveEvent n.val e = c.modStream n.val f → does e f := fun e f h => by
    unfold does
    rw [exec_driveEvent_up s n e hup]
    exact congrArg (fun d => Host.Outcome.next (State.mk s.pending (Chip.settle d))) h
  refine ⟨fun hc ht e => hquiet e (Chip.driveEvent_idle hc ht e), fun ht => ?_, fun hc => ?_, fun x a b he ha hb => ?_⟩
  · refine ⟨hdoes _ _ (Chip.driveEvent_spRise ht), hdoes _ _ (Chip.driveEvent_spFall ht),
      fun col => ⟨fun hl => ?_, fun hl => ?_⟩⟩
    · exact ⟨hdoes _ _ ((Chip.driveEvent_ledOn ht col).trans (if_pos hl)),
        hdoes _ _ ((Chip.driveEvent_ledOff ht col).trans (if_pos hl))⟩
    · have hd := Bool.eq_false_iff.1 hl
      exact ⟨hquiet _ ((Chip.driveEvent_ledOn ht col).trans (if_neg hd)),
        hdoes _ _ ((Chip.driveEvent_ledOff ht col).trans (if_neg hd))⟩
  · refine ⟨hdoes _ _ (Chip.driveEvent_capturing hc _), hdoes _ _ (Chip.driveEvent_capturing hc _),
      fun col => ⟨fun hl => ?_, fun hl => ?_, ?_⟩⟩
    · exact hdoes _ _ ((Chip.driveEvent_capturing hc _).trans (Chip.captureEvent_ledOn_lit hl))
    · exact hquiet _ ((Chip.driveEvent_capturing hc _).trans (Chip.captureEvent_ledOn_dark hl))
    · exact hdoes _ _ (Chip.driveEvent_capturing hc _)
  · unfold Stream.midpoint
    rw [he, ha, hb]

/-! ## Triggers -/

section
variable {k : Nat}

/-- A trigger changes streams, free values and its transport. -/
theorem Chip.nextPeriod_eq (k n : Nat) (t : Stamp) :
    ∃ free streams, c.nextPeriod k n t = { c with free := free, streams := streams } := by
  unfold Chip.nextPeriod
  extract_lets x seq idx y last r
  have hr : ∃ free, r.1 = { c with free := free } := by
    unfold r
    split
    · exact ⟨_, rfl⟩
    · split
      · exact ⟨_, rfl⟩
      · exact ⟨_, rfl⟩
  obtain ⟨free, hfree⟩ := hr
  rw [hfree]
  exact ⟨_, _, rfl⟩

theorem Chip.foldl_nextPeriod_eq (k : Nat) (t : Stamp) (l : List Nat) (c : Chip) :
    ∃ free streams, l.foldl (fun c n => c.nextPeriod k n t) c = { c with free := free, streams := streams } := by
  induction l generalizing c with
  | nil => exact ⟨_, _, rfl⟩
  | cons n l ih =>
    obtain ⟨f, m, h⟩ := c.nextPeriod_eq k n t
    obtain ⟨f', m', h'⟩ := ih (c.nextPeriod k n t)
    exact ⟨f', m', by rw [List.foldl_cons, h', h]⟩

/-- A transport's own part in a trigger at `t`. -/
def Transport.issue (t : Stamp) (lines : Nat) (x : Transport) : Transport :=
  { x with lastTrig := some t, trigs := x.trigs + x.after + 1, deferred := false, after := x.skipped, skipped := 0, lines := lines }

theorem Chip.issueTrigger_eq (k : Nat) (t : Stamp) : ∃ free streams, ∃ lines : Transport → Nat,
    c.issueTrigger k t = { c with free := free, streams := streams }.modTransport k (fun x => x.issue t (lines x)) := by
  unfold Chip.issueTrigger
  extract_lets seq d
  obtain ⟨free, streams, h⟩ := Chip.foldl_nextPeriod_eq k t (c.trigStreams k) c
  rw [show d = _ from h]
  exact ⟨free, streams, fun x => if seq then ceilDiv (x.trigs + x.after + 1) 3 else x.trigs + x.after + 1, rfl⟩

/-- A trigger at a time, with the accumulator as given: what it leaves of the transport that was `x`. -/
structure Chip.Issues (c t : Chip) (k : Nat) (x : Transport) (at_ : Stamp) : Prop extends Chip.Core c t where
  lastTrig : (t.transport k).lastTrig = some at_
  acc : (t.transport k).acc = x.acc
  deferred : (t.transport k).deferred = false
  trigs : (t.transport k).trigs = x.trigs + x.after + 1
  after : (t.transport k).after = x.skipped
  skipped : (t.transport k).skipped = 0
  items : t.items = c.items
  mem : t.mem = c.mem

theorem Chip.issueTrigger_issues (k : Nat) (t : Stamp) : c.Issues (c.issueTrigger k t) k (c.transport k) t := by
  obtain ⟨free, streams, lines, h⟩ := c.issueTrigger_eq k t
  have hx : (c.issueTrigger k t).transport k = (c.transport k).issue t (lines (c.transport k)) := by
    rw [h, Chip.transport_modTransport_self]
    rfl
  constructor
  case toCore => rw [h]; exact ⟨rfl, rfl, rfl, rfl, rfl, rfl⟩
  case items => rw [h]; rfl
  case mem => rw [h]; rfl
  all_goals rw [hx]; rfl

/-- Of a transport settling changes the time of its hold alone. -/
theorem Chip.settle_transport {α : Type} (p : Transport → α) (hp : ∀ x, p { x with holdSince := none } = p x) (k : Nat) :
    p (c.settle.transport k) = p (c.transport k) := by
  rw [← hp, c.settle_settles.transport k, hp]

/-- A transport that has changed, after settling. -/
theorem Chip.settle_modTransport {α : Type} (p : Transport → α) (hp : ∀ x, p { x with holdSince := none } = p x) (k : Nat)
    (f : Transport → Transport) : p ((c.modTransport k f).settle.transport k) = p (f (c.transport k)) := by
  rw [Chip.settle_transport _ p hp, Chip.transport_modTransport_self]

theorem Chip.Issues.settle {c t : Chip} {x : Transport} {at_ : Stamp} (h : c.Issues t k x at_) : c.Issues t.settle k x at_ where
  toCore := h.toCore.trans t.settle_admits.toCore
  lastTrig := (t.settle_transport Transport.lastTrig (fun _ => rfl) k).trans h.lastTrig
  acc := (t.settle_transport Transport.acc (fun _ => rfl) k).trans h.acc
  deferred := (t.settle_transport Transport.deferred (fun _ => rfl) k).trans h.deferred
  trigs := (t.settle_transport Transport.trigs (fun _ => rfl) k).trans h.trigs
  after := (t.settle_transport Transport.after (fun _ => rfl) k).trans h.after
  skipped := (t.settle_transport Transport.skipped (fun _ => rfl) k).trans h.skipped
  items := t.settle_items.trans h.items
  mem := t.settle_mem.trans h.mem

/-- MIN_PERIOD has passed since the last trigger of a transport (R116). -/
def Chip.inTime (c : Chip) (k : Nat) : Bool :=
  match (c.transport k).lastTrig with
  | none => true
  | some t => decide (c.nowNs ≥ Stamp.toNs t + c.minPeriodNs k)

/-- A trigger that falls due too early. -/
def Chip.defer (c : Chip) (k : Nat) : Chip :=
  (c.modTransport k (fun x => { x with deferred := true })).bump F.ENC_STAT_DEFERRED k

theorem Chip.triggerDue_eq (k : Nat) : c.triggerDue k =
    if (c.transport k).deferred then c.modTransport k (fun x => { x with skipped := x.skipped + 1 })
    else if c.inTime k then c.issueTrigger k c.clock.now
    else c.defer k := by
  unfold Chip.triggerDue Chip.inTime
  cases h : (c.transport k).lastTrig with
  | none => simp only [h, if_true]
  | some t =>
    simp only [h, decide_eq_true_eq]
    rfl

theorem Chip.inTime_modTransport {f : Transport → Transport} (h : (f (c.transport k)).lastTrig = (c.transport k).lastTrig) :
    (c.modTransport k f).inTime k = c.inTime k := by
  unfold Chip.inTime
  rw [Chip.transport_modTransport_self, h]
  rfl

/-- A trigger on time, once the transport has changed by `f`. -/
theorem Chip.triggerDue_issues {f : Transport → Transport} (hl : (f (c.transport k)).lastTrig = (c.transport k).lastTrig)
    (hd : (f (c.transport k)).deferred = false) (ht : c.inTime k = true) :
    c.Issues ((c.modTransport k f).triggerDue k) k (f (c.transport k)) c.clock.now := by
  rw [Chip.triggerDue_eq, Chip.transport_modTransport_self, hd, if_neg (by decide), c.inTime_modTransport hl, ht, if_pos rfl]
  have h := (c.modTransport k f).issueTrigger_issues k c.clock.now
  rw [Chip.transport_modTransport_self] at h
  exact { h with }

/-- One that falls due too early. -/
theorem Chip.triggerDue_early {f : Transport → Transport} (hl : (f (c.transport k)).lastTrig = (c.transport k).lastTrig)
    (hd : (f (c.transport k)).deferred = false) (ht : c.inTime k = false) :
    (c.modTransport k f).triggerDue k = (c.modTransport k f).defer k := by
  rw [Chip.triggerDue_eq, Chip.transport_modTransport_self, hd, if_neg (by decide), c.inTime_modTransport hl, ht,
    if_neg (by decide)]

/-- One that falls due while another is deferred. -/
theorem Chip.triggerDue_skipped {f : Transport → Transport} (hd : (f (c.transport k)).deferred = true) :
    (c.modTransport k f).triggerDue k =
      c.modTransport k (fun x => { f x with skipped := (f x).skipped + 1 }) := by
  rw [Chip.triggerDue_eq, Chip.transport_modTransport_self, hd, if_pos rfl, Chip.modTransport_modTransport]

/-- What a trigger too early leaves, once the transport has become `x`: it is deferred and counted (R116). -/
structure Chip.Defers (c t : Chip) (k : Nat) (x : Transport) : Prop extends Chip.Core c t where
  deferred : (t.transport k).deferred = true
  lastTrig : (t.transport k).lastTrig = x.lastTrig
  acc : (t.transport k).acc = x.acc
  counted : c.Counted t F.ENC_STAT_DEFERRED k
  streams : t.streams = c.streams
  items : t.items = c.items
  mem : t.mem = c.mem

theorem Chip.defer_transport (k : Nat) : (c.defer k).transport k = { c.transport k with deferred := true } :=
  c.transport_modTransport_self k (fun x => { x with deferred := true })

theorem Chip.settle_get_encStat (k : Nat) : c.settle.get F.ENC_STAT_DEFERRED k = c.get F.ENC_STAT_DEFERRED k :=
  Chip.settle_get _ _ _ _ (fun i _ => by simp only [Reg.addr, Reg.info, F.ENC_STAT_DEFERRED]; omega)

theorem Chip.defer_defers (f : Transport → Transport) (hk : k < 8) :
    c.Defers ((c.modTransport k f).defer k).settle k (f (c.transport k)) := by
  have hx : ((c.modTransport k f).defer k).transport k = { f (c.transport k) with deferred := true } := by
    rw [Chip.defer_transport, Chip.transport_modTransport_self]
  have hadm := ((c.modTransport k f).defer k).settle_admits
  constructor
  case toCore => exact { hadm.toCore with }
  case deferred => rw [Chip.settle_transport _ Transport.deferred (fun _ => rfl), hx]
  case lastTrig => rw [Chip.settle_transport _ Transport.lastTrig (fun _ => rfl), hx]
  case acc => rw [Chip.settle_transport _ Transport.acc (fun _ => rfl), hx]
  case counted =>
    unfold Chip.Counted
    rw [Chip.settle_get_encStat, Chip.defer, Chip.get_bump_self _ _ _ _ _ (decide_eq_true ⟨hk, Nat.one_pos⟩) (by decide)]
    rfl
  case streams => exact Chip.settle_streams _
  case items => exact hadm.items
  case mem => exact hadm.mem

end

/-! ## Encoder edges -/

/-- The steps of the forward cycle from the accepted levels of a transport to others. -/
def Chip.turn (c : Chip) (k : Nat) (a b : Bool) : Nat :=
  (quadPos a b + 4 - quadPos (c.transport k).a (c.transport k).b) % 4

/-- The step that is a forward count: ENC_CFG.INVERT exchanges the directions (R111). -/
def Chip.forward (c : Chip) (k : Nat) : Nat := if c.flag F.ENC_CFG_INVERT k then 3 else 1

/-- A transport with other accepted levels. -/
def Chip.setLevels (c : Chip) (k : Nat) (a b : Bool) : Chip := c.modTransport k (fun x => { x with a := a, b := b })

/-- A change of the accepted levels. -/
def Chip.levels (c : Chip) (k : Nat) (a b : Bool) : Chip :=
  let d := c.turn k a b
  if d = 0 then c.setLevels k a b
  else if d = 2 then (c.setLevels k a b).bump F.ENC_STAT_ENC_FAULT k
  else if c.flag F.ENC_CFG_SRC k then c.setLevels k a b
  else if (d == 1) != c.flag F.ENC_CFG_INVERT k then (c.setLevels k a b).countForward k
  else (c.setLevels k a b).modTransport k (fun x => { x with acc := wrap34 (x.acc - 65536) })

/-- What a transport accepts of two levels (R111). -/
theorem Chip.encoderEdge_eq (k : Nat) (a b : Bool) (ta tb : Nat) : c.encoderEdge k a b ta tb =
    c.levels k (if c.get F.ENC_CFG_FILT k ≤ ta then a else (c.transport k).a)
      (if c.get F.ENC_CFG_FILT k ≤ tb then b else (c.transport k).b) := rfl

section
variable {c} {k : Nat} {a b : Bool}

theorem Chip.levels_still (h : c.turn k a b = 0) : c.levels k a b = c.setLevels k a b := if_pos h

theorem Chip.levels_fault (h : c.turn k a b = 2) : c.levels k a b = (c.setLevels k a b).bump F.ENC_STAT_ENC_FAULT k := by
  unfold Chip.levels
  rw [h, if_neg (by decide), if_pos rfl]

variable (h0 : c.turn k a b ≠ 0) (h2 : c.turn k a b ≠ 2)
include h0 h2

theorem Chip.levels_timer (hs : c.flag F.ENC_CFG_SRC k = true) : c.levels k a b = c.setLevels k a b := by
  unfold Chip.levels
  rw [if_neg h0, if_neg h2, if_pos hs]

/-- A turn by one step is a forward count exactly in the forward direction. -/
theorem Chip.turn_forward : ((c.turn k a b == 1) != c.flag F.ENC_CFG_INVERT k) = decide (c.turn k a b = c.forward k) := by
  have h4 : c.turn k a b < 4 := Nat.mod_lt _ (by decide)
  have h13 : c.turn k a b = 1 ∨ c.turn k a b = 3 := by omega
  unfold Chip.forward
  rcases h13 with h | h <;> rw [h] <;> cases c.flag F.ENC_CFG_INVERT k <;> rfl

theorem Chip.levels_reverse (hs : c.flag F.ENC_CFG_SRC k = false) (hd : c.turn k a b ≠ c.forward k) :
    c.levels k a b = c.modTransport k (fun x => { x with a := a, b := b, acc := wrap34 (x.acc - 65536) }) := by
  unfold Chip.levels
  rw [if_neg h0, if_neg h2, hs, if_neg (by decide), Chip.turn_forward h0 h2, if_neg (by simpa using hd), Chip.setLevels,
    Chip.modTransport_modTransport]

end

theorem Chip.forward_ne (k : Nat) : c.forward k ≠ 0 ∧ c.forward k ≠ 2 := by
  unfold Chip.forward
  split <;> exact ⟨by decide, by decide⟩

/-- The accumulator after a forward count (R113). -/
def Chip.counted (c : Chip) (k : Nat) : Int := wrap34 ((c.transport k).acc + 65536)

theorem Chip.countForward_eq (k : Nat) : c.countForward k =
    if c.counted k ≥ (c.get F.ENC_DIV_DIV k : Int) then
      (c.modTransport k (fun x => { x with acc := wrap34 (c.counted k - (c.get F.ENC_DIV_DIV k : Int)) })).triggerDue k
    else c.modTransport k (fun x => { x with acc := c.counted k }) := rfl

theorem Chip.setLevels_get (k : Nat) (a b : Bool) (f : Fld) (i j : Nat) : (c.setLevels k a b).get f i j = c.get f i j := rfl

theorem Chip.setLevels_counted (k : Nat) (a b : Bool) : (c.setLevels k a b).counted k = c.counted k := by
  unfold Chip.counted Chip.setLevels
  rw [Chip.transport_modTransport_self]

section
variable {c} {k : Nat} {a b : Bool} (hd : c.turn k a b = c.forward k) (hs : c.flag F.ENC_CFG_SRC k = false)
include hd hs

theorem Chip.levels_forward : c.levels k a b = (c.setLevels k a b).countForward k := by
  have h0 : c.turn k a b ≠ 0 := hd ▸ (c.forward_ne k).1
  have h2 : c.turn k a b ≠ 2 := hd ▸ (c.forward_ne k).2
  unfold Chip.levels
  rw [if_neg h0, if_neg h2, hs, if_neg (by decide), Chip.turn_forward h0 h2, if_pos (decide_eq_true hd)]

/-- A forward count below ENC_DIV. -/
theorem Chip.levels_counts (h : c.counted k < (c.get F.ENC_DIV_DIV k : Int)) :
    c.levels k a b = c.modTransport k (fun x => { x with a := a, b := b, acc := c.counted k }) := by
  rw [Chip.levels_forward hd hs, Chip.countForward_eq, Chip.setLevels_counted, Chip.setLevels_get, if_neg (Int.not_le.2 h),
    Chip.setLevels, Chip.modTransport_modTransport]

/-- A forward count that reaches ENC_DIV (R112). -/
theorem Chip.levels_due (h : (c.get F.ENC_DIV_DIV k : Int) ≤ c.counted k) :
    c.levels k a b = (c.modTransport k (fun x =>
      { x with a := a, b := b, acc := wrap34 (c.counted k - (c.get F.ENC_DIV_DIV k : Int)) })).triggerDue k := by
  rw [Chip.levels_forward hd hs, Chip.countForward_eq, Chip.setLevels_counted, Chip.setLevels_get, if_pos h,
    Chip.setLevels, Chip.modTransport_modTransport]

end

/-! ## The timer, and triggers that were deferred -/

section
variable {c} {k : Nat}

theorem Chip.timerTrigger_idle (h : c.flag F.ENC_CFG_SRC k = false) : c.timerTrigger k = c := by
  unfold Chip.timerTrigger
  rw [h, if_pos (by decide)]

/-- The accumulator once the ticks that it lacks have passed and a trigger has fallen due (R114). -/
def Chip.ticked (c : Chip) (k : Nat) : Int :=
  wrap34 ((c.transport k).acc +
    65536 * (ceilDiv ((c.get F.ENC_DIV_DIV k : Int) - (c.transport k).acc).toNat 65536 : Nat) - (c.get F.ENC_DIV_DIV k : Int))

theorem Chip.timerTrigger_due (h : c.flag F.ENC_CFG_SRC k = true) :
    c.timerTrigger k = (c.modTransport k (fun x => { x with acc := c.ticked k })).triggerDue k := by
  unfold Chip.timerTrigger
  rw [h, if_neg (by decide)]
  rfl

theorem Chip.deferredTrigger_idle (h : (c.transport k).deferred = false) : c.deferredTrigger k = c := by
  unfold Chip.deferredTrigger
  exact if_pos (by rw [h]; rfl)

theorem Chip.deferredTrigger_issues {p : Stamp} (h : (c.transport k).deferred = true) (hp : (c.transport k).lastTrig = some p) :
    c.deferredTrigger k = c.issueTrigger k (nsStamp (Stamp.toNs p + c.minPeriodNs k)) := by
  unfold Chip.deferredTrigger
  simp only [h, hp]
  rfl

end

/-! ## The obligation -/

theorem exec_encoderEdge_up (s : State) (k : Fin 8) (p q : EncLevel) (hup : s.chip.Up) :
    exec (.encoderEdge k p q) s = .next ⟨s.pending, (s.chip.levels k.val
      (if s.chip.get F.ENC_CFG_FILT k.val ≤ p.stable then p.high else (s.chip.transport k.val).a)
      (if s.chip.get F.ENC_CFG_FILT k.val ≤ q.stable then q.high else (s.chip.transport k.val).b)).settle⟩ := by
  simp only [exec_encoderEdge, Chip.serving_eq _ hup.1 hup.2, Chip.encoderEdge_eq]

theorem exec_timerTrigger_up (s : State) (k : Fin 8) (hup : s.chip.Up) :
    exec (.timerTrigger k) s = .next ⟨s.pending, (s.chip.timerTrigger k.val).settle⟩ := by
  simp only [exec_timerTrigger, Chip.serving_eq _ hup.1 hup.2]

theorem exec_deferredTrigger_up (s : State) (k : Fin 8) (hup : s.chip.Up) :
    exec (.deferredTrigger k) s = .next ⟨s.pending, (s.chip.deferredTrigger k.val).settle⟩ := by
  simp only [exec_deferredTrigger, Chip.serving_eq _ hup.1 hup.2]

/-- Settles O33: the four turns of an encoder edge, the two sources, and the three fates of a trigger that falls due. -/
theorem encoderTriggers : Obligations.EncoderTriggers := by
  unfold Obligations.EncoderTriggers
  intro s k hup c x div src inTime issued
  have hissued : ∀ (i : Instr) (e : Chip) (y : Transport) (at_ : Stamp), exec i s = .next ⟨s.pending, e.settle⟩ →
      c.Issues e k.val y at_ → y.trigs = x.trigs → y.after = x.after → y.skipped = x.skipped → issued i at_ y.acc :=
    fun i e y at_ hexec h htrigs hafter hskipped => by
      have hs := h.settle
      exact ⟨_, hexec, rfl, hs.lastTrig, hs.acc, hs.deferred, htrigs ▸ hafter ▸ hs.trigs, hskipped ▸ hs.after, hs.skipped,
        hs.items, hs.mem, hs.toCore⟩
  refine ⟨fun p q => ?_, fun hsrc => ?_, fun hsrc hdef htime => ?_, fun hdef => ?_, fun p hdef hp => ?_⟩
  · intro a b d fwd acc moved only
    have hexec : exec (.encoderEdge k p q) s = .next ⟨s.pending, (c.levels k.val a b).settle⟩ := exec_encoderEdge_up s k p q hup
    have hlevels : ∀ e, c.levels k.val a b = e → exec (.encoderEdge k p q) s = .next ⟨s.pending, e.settle⟩ :=
      fun e he => he ▸ hexec
    refine ⟨fun hd => hlevels _ (Chip.levels_still hd), fun hd => hlevels _ (Chip.levels_fault hd),
      fun h0 h2 hsrc => hlevels _ (Chip.levels_timer h0 h2 hsrc), fun h0 h2 hsrc hd => hlevels _ (Chip.levels_reverse h0 h2 hsrc hd),
      fun hd hsrc hacc => hlevels _ (Chip.levels_counts hd hsrc hacc), fun hd hsrc hacc => ?_⟩
    have hdue := Chip.levels_due hd hsrc hacc
    refine ⟨fun hdef htime => ?_, fun hdef htime => ?_, fun hdef => ?_⟩
    · exact hissued _ _ _ _ (hlevels _ hdue) (c.triggerDue_issues rfl hdef htime) rfl rfl rfl
    · have h := c.defer_defers (fun x => { x with a := a, b := b, acc := wrap34 (acc - div) }) k.isLt
      exact ⟨_, hlevels _ (hdue.trans (c.triggerDue_early rfl hdef htime)), rfl, h.deferred, h.lastTrig, h.acc, h.counted, h.streams,
        h.items, h.mem, h.toCore⟩
    · have hadm := (c.modTransport k.val (fun x =>
        { x with a := a, b := b, acc := wrap34 (acc - div), skipped := x.skipped + 1 })).settle_admits
      exact ⟨_, hlevels _ (hdue.trans (c.triggerDue_skipped hdef)), rfl, c.settle_modTransport Transport.lastTrig (fun _ => rfl) _ _,
        c.settle_modTransport Transport.acc (fun _ => rfl) _ _,
        (c.settle_modTransport Transport.deferred (fun _ => rfl) _ _).trans hdef,
        c.settle_modTransport Transport.skipped (fun _ => rfl) _ _, Chip.settle_streams _,
        hadm.items, hadm.mem, { hadm.toCore with }⟩
  · exact (exec_timerTrigger_up s k hup).trans (by rw [Chip.timerTrigger_idle hsrc])
  · have h : c.Issues (c.timerTrigger k.val) k.val { x with acc := c.ticked k.val } c.clock.now := by
      rw [Chip.timerTrigger_due hsrc]
      exact c.triggerDue_issues rfl hdef htime
    exact hissued _ _ _ _ (exec_timerTrigger_up s k hup) h rfl rfl rfl
  · exact (exec_deferredTrigger_up s k hup).trans (by rw [Chip.deferredTrigger_idle hdef])
  · exact hissued _ _ _ _ (exec_deferredTrigger_up s k hup)
      (Chip.deferredTrigger_issues hdef hp ▸ c.issueTrigger_issues _ _) rfl rfl rfl

end Sys2Proof.Machine
end

section
/-!
PROOFS. The states of a stream: the end of an AFE configuration, sync that fails, the release of feed hold, and reference
capture.
-/

namespace Sys2Proof.Machine

variable (c : Chip)

/-! ## Updates -/

theorem Chip.get_put_apart (f g : Fld) (v i j i' j' : Nat) (h : f.reg.apart g.reg = true) :
    (c.put f v i j).get g i' j' = c.get g i' j' := Chip.get_of_word g (c.word_setWord_apart _ _ _ _ _ h)

theorem OnlyRegs.admits {a b : Chip} (h : OnlyRegs a b) : a.Admits b := by
  obtain ⟨r, f, rfl⟩ := h
  exact ⟨⟨⟨rfl, rfl, rfl, rfl, rfl, rfl⟩, rfl⟩, rfl, rfl⟩

theorem Chip.log_admits (code : Nat) (l : Loc) (stated : Option Nat) : c.Admits (c.log code l stated) :=
  (c.log_onlyRegs code l stated).admits

theorem snsState_has {n : Nat} (hn : n < 16) : Reg.has .SNS_STATE n 0 = true := decide_eq_true ⟨hn, Nat.one_pos⟩

/-! ## FAULT -/

/-- A stream has gone to FAULT, with a log entry of class AFE (R125). -/
structure Chip.Faulted (c t : Chip) (n : Nat) : Prop extends Chip.Core c t where
  state : t.get F.SNS_STATE_STATE n = 5
  afe : t.flag F.SNS_STATE_AFE_FAULT n = true
  logged : c.Logged t 0x41 Loc.none
  items : t.items = c.items
  mem : t.mem = c.mem

theorem Chip.streamFault_faulted {n : Nat} (hn : n < 16) : c.Faulted (c.streamFault n) n := by
  have hhas := snsState_has hn
  have hadm := ((c.put_admits F.SNS_STATE_STATE 5 n 0).trans (Chip.put_admits _ F.SNS_STATE_AFE_FAULT (b2n true) n 0)).trans
    (Chip.log_admits _ 0x41 Loc.none none)
  have hnext : ((c.put F.SNS_STATE_STATE 5 n).putB F.SNS_STATE_AFE_FAULT true n).get F.FAULT_LOG_PTR_NEXT =
      c.get F.FAULT_LOG_PTR_NEXT :=
    (Chip.get_put_apart _ _ _ _ _ _ _ _ (by decide)).trans (c.get_put_apart _ _ _ _ _ _ _ (by decide))
  unfold Chip.streamFault
  refine ⟨hadm.toCore, ?_, ?_, ?_, hadm.items, hadm.mem⟩
  · rw [Chip.log_get _ _ _ _ _ _ _ (by decide),
      Chip.get_putB_field _ F.SNS_STATE_AFE_FAULT F.SNS_STATE_STATE _ _ _ rfl (by decide) (by decide),
      Chip.get_put_self _ _ _ _ _ hhas (by decide)]
    rfl
  · exact (Chip.flag_congr (Chip.log_get _ _ _ _ _ _ _ (by decide))).trans (Chip.flag_putB_self _ _ _ _ _ hhas (by decide) rfl)
  · exact Chip.Logged.of_next (Chip.log_entry _ _ _ _).1 hnext

theorem Chip.Faulted.settle {c t : Chip} {n : Nat} (h : c.Faulted t n) : c.Faulted t.settle n where
  toCore := h.toCore.trans t.settle_admits.toCore
  state := (t.settle_get_stream n).trans h.state
  afe := (t.settle_calm.flag_apart (by decide)).trans h.afe
  logged := h.logged.of_word (fun _ => t.settle_calm.word_apart _ _ (by decide))
  items := t.settle_items.trans h.items
  mem := t.settle_mem.trans h.mem

/-! ## The end of ENABLING -/

/-- The state of a stream that is configured: WAIT_LOCK or ENABLED (R24, R125). -/
def Chip.readyState (c : Chip) (n : Nat) : Nat := if c.flag F.SNS_CFG_LIVE n = true ∧ c.locked = false then 2 else 3

theorem Chip.readyState_lt (n : Nat) : c.readyState n < 2 ^ 3 := by
  unfold Chip.readyState
  split <;> decide

theorem Chip.streamReady_eq (n : Nat) : c.streamReady n = c.put F.SNS_STATE_STATE (c.readyState n) n := by
  unfold Chip.streamReady Chip.readyState
  simp only [Bool.not_eq_true]

theorem Chip.enablingDone_ready {n : Nat} (hst : c.get F.SNS_STATE_STATE n = 1) (hafe : (c.stream n).afeDone = true)
    (hsync : c.get F.SNS_CFG_GEN n = 1 ∨ c.flag F.SNS_STATE_SYNC n = true) :
    c.enablingDone n = c.put F.SNS_STATE_STATE (c.readyState n) n :=
  (if_pos ⟨hst, hafe, hsync⟩).trans (c.streamReady_eq n)

theorem Chip.get_put_state {n : Nat} (hn : n < 16) {v : Nat} (hv : v < 2 ^ 3) :
    (c.put F.SNS_STATE_STATE v n).get F.SNS_STATE_STATE n = v :=
  (Chip.get_put_self _ _ _ _ _ (snsState_has hn) (by decide)).trans (Nat.mod_eq_of_lt hv)

/-! ## AFE configuration -/

/-- What the frames of a stream's AFE list that are marked for verification read back as, if written (R125). -/
def Chip.afeMarked (c : Chip) (n : Nat) : List Nat := ((c.afeList n).filter (·.2)).map (·.1)

/-- A stream whose AFE is configured, in sync (R125). -/
structure Chip.Configured (c t : Chip) (n : Nat) : Prop extends Chip.Admits c t where
  state : t.get F.SNS_STATE_STATE n = c.readyState n
  afe : (t.stream n).afe = (c.afeList n).map (·.1)

theorem Chip.Configured.settle {c t : Chip} {n : Nat} (h : c.Configured t n) : c.Configured t.settle n where
  toAdmits := h.toAdmits.trans t.settle_admits
  state := (t.settle_get_stream n).trans h.state
  afe := (congrArg Stream.afe (t.settle_stream n)).trans h.afe

section
variable {c} {n : Nat}

theorem Chip.afeConfigDone_idle (h : c.get F.SNS_STATE_STATE n ≠ 1) (reads : List Nat) : c.afeConfigDone n reads = c := if_pos h

variable (h : c.get F.SNS_STATE_STATE n = 1)
include h

theorem Chip.afeConfigDone_faulted (hn : n < 16) {reads : List Nat} (hr : reads ≠ c.afeMarked n) :
    c.Faulted (c.afeConfigDone n reads) n := by
  have he : c.afeConfigDone n reads = (c.modStream n (fun s => { s with afe := (c.afeList n).map (·.1) })).streamFault n :=
    (if_neg (not_not.2 h)).trans (if_neg hr)
  rw [he]
  exact { Chip.streamFault_faulted (c.modStream n (fun s => { s with afe := (c.afeList n).map (·.1) })) hn with }

theorem Chip.afeConfigDone_configured (hn : n < 16) (hsync : c.get F.SNS_CFG_GEN n = 1 ∨ c.flag F.SNS_STATE_SYNC n = true) :
    c.Configured (c.afeConfigDone n (c.afeMarked n)) n := by
  have he : c.afeConfigDone n (c.afeMarked n) = ((c.modStream n (fun s => { s with afe := (c.afeList n).map (·.1) })).modStream n
      (fun s => { s with afeDone := true })).put F.SNS_STATE_STATE (c.readyState n) n :=
    ((if_neg (not_not.2 h)).trans (if_pos rfl)).trans
      (Chip.enablingDone_ready _ h (by rw [Chip.stream_modStream_self]) hsync)
  rw [he]
  refine ⟨((c.modStream_admits _ _).trans (Chip.modStream_admits _ _ _)).trans (Chip.put_admits _ _ _ _ _),
    Chip.get_put_state _ hn (c.readyState_lt n), ?_⟩
  rw [Chip.stream_congr (Chip.put_streams _ _ _ _ _), Chip.stream_modStream_self, Chip.stream_modStream_self]

end

section
variable {c} {n : Nat}

theorem Chip.afeSyncTimeout_idle (h : c.get F.SNS_STATE_STATE n ≠ 1 ∨ c.flag F.SNS_STATE_SYNC n = true) :
    c.afeSyncTimeout n = c :=
  if_neg (fun ⟨hst, _, hsync⟩ => h.elim (fun hne => hne hst) hsync)

theorem Chip.afeSyncTimeout_faulted (hst : c.get F.SNS_STATE_STATE n = 1) (hgen : 2 ≤ c.get F.SNS_CFG_GEN n)
    (hsync : c.flag F.SNS_STATE_SYNC n = false) (hn : n < 16) : c.Faulted (c.afeSyncTimeout n) n := by
  have he : c.afeSyncTimeout n = c.streamFault n := if_pos ⟨hst, hgen, Bool.eq_false_iff.1 hsync⟩
  rw [he]
  exact c.streamFault_faulted hn

end

/-! ## Feed hold -/

theorem Settles.running {a b : Chip} (h : Settles a b) : b.running = a.running := by
  unfold Chip.running
  rw [h.get_apart (by decide)]

theorem Chip.holdMinExpire_settles (k : Nat) : Settles c (c.holdMinExpire k) := by
  unfold Chip.holdMinExpire
  split
  · exact Settles.refl c
  · split
    · exact (c.refreshHold_settles k).trans (Chip.holdSince_settles _ _ _)
    · exact (c.putB_settles _ _ rfl (by decide) (by decide)).trans (Chip.holdSince_settles _ _ _)

/-- The end of a hold's shortest time: held on with a reason, released without (R133). -/
theorem Chip.holdMinExpire_hold (hrun : c.running = true) {k : Nat} (hk : k < 8) (h : c.flag F.HOLD_STAT_HOLD k = true) :
    (c.holdMinExpire k).settle.flag F.HOLD_STAT_HOLD k = (c.holdReasons k).any id := by
  have hs := c.holdMinExpire_settles k
  have hrun' : (c.holdMinExpire k).running = true := hs.running.trans hrun
  cases hr : (c.holdReasons k).any id with
  | true => exact Chip.settle_held _ hrun' hk (by rw [hs.holdReasons, hr])
  | false =>
    refine Chip.settle_unheld _ hrun' hk ⟨by rw [hs.holdReasons, hr], ?_, ?_⟩
    all_goals unfold Chip.holdMinExpire; rw [if_neg (not_not.2 h), hr, if_neg (by decide)]
    · exact Chip.flag_putB_self _ _ _ _ _ (Chip.hold_has hk) (by decide) rfl
    · rw [Chip.transport_modTransport_self]

/-! ## Reference capture -/

/-- The lines of a capture are those that are discarded and those that REF_LINES asks for, of either reference (R140). -/
def Chip.CaptureWhole (c : Chip) (n : Nat) (w : CaptureIn) : Prop :=
  (c.stream n).capturing = true ∧ w.black.length = c.captureLines n ∧ w.white.length = c.captureLines n

/-- The set that a whole capture gives (R140). -/
def Chip.capturedSet (c : Chip) (n : Nat) (w : CaptureIn) : RefSet :=
  c.deriveRefs n (16 * 2 ^ c.get F.SHD_CFG_REF_LINES n) ⟨w.black.drop 16, w.white.drop 16⟩

/-- A whole capture is over; its set is the next one, unless it fails the defect test (R140, R143). -/
def Chip.takeSet (c : Chip) (n : Nat) (w : CaptureIn) : Chip :=
  if c.defectRun n (c.capturedSet n w) then c.captureOver n
  else (c.captureOver n).modStream n (fun s => { s with nextRefs := some (c.capturedSet n w), refDigest := c.boot.digest })

section
variable {c} {n : Nat} {w : CaptureIn}

theorem Chip.captureRefs_partial (h : ¬ c.CaptureWhole n w) (digest : List Byte) : c.captureRefs n w digest = (c, none) := by
  refine if_pos ?_
  unfold Chip.CaptureWhole at h
  rw [Bool.or_eq_true, Bool.not_eq_true', decide_eq_true_eq]
  by_contra hw
  push Not at hw
  exact h ⟨Bool.eq_true_of_not_eq_false hw.1, hw.2⟩

theorem Chip.captureRefs_whole (h : c.CaptureWhole n w) :
    c.captureRefs n w c.boot.digest = (c.takeSet n w, some (!c.defectRun n (c.capturedSet n w))) := by
  obtain ⟨hc, hb, hw⟩ := h
  have hlines : c.captureLines n - 16 = 16 * 2 ^ c.get F.SHD_CFG_REF_LINES n := Nat.add_sub_cancel_left ..
  unfold Chip.captureRefs
  extract_lets lines r d
  rw [if_neg (by simp [hc, hb, hw, lines])]
  have hr : r = c.capturedSet n w := by
    unfold r lines
    rw [hlines]
    rfl
  have hd : d.defectRun n r = c.defectRun n (c.capturedSet n w) := hr ▸ rfl
  rw [hd, Chip.takeSet]
  split
  · next h => rw [h]; rfl
  · next h => rw [Bool.eq_false_iff.2 h, hr]; rfl

theorem Chip.takeSet_stream :
    ((c.takeSet n w).stream n).capturing = false ∧ ((c.takeSet n w).stream n).refs = (c.stream n).refs ∧
    ((c.takeSet n w).stream n).nextRefs =
      (if c.defectRun n (c.capturedSet n w) then (c.stream n).nextRefs else some (c.capturedSet n w)) := by
  unfold Chip.takeSet Chip.captureOver
  split
  · rw [Chip.stream_modStream_self]
    exact ⟨rfl, rfl, rfl⟩
  · rw [Chip.stream_modStream_self, Chip.stream_modStream_self]
    exact ⟨rfl, rfl, rfl⟩

theorem Chip.takeSet_admits : c.Admits (c.takeSet n w) := by
  unfold Chip.takeSet
  split
  · exact c.modStream_admits _ _
  · exact (c.modStream_admits _ _).trans (Chip.modStream_admits _ _ _)

theorem Chip.takeSet_opOfKind (kind : Nat) : (c.takeSet n w).opOfKind kind = c.opOfKind kind := by
  unfold Chip.takeSet
  split <;> rfl

end

theorem Chip.captureDone_partial {n : Nat} {w : CaptureIn} (h : ¬ c.CaptureWhole n w) : c.captureDone n w = c := by
  unfold Chip.captureDone
  rw [Chip.captureRefs_partial h]

/-- What is left of an operation that ends besides registers and its record. -/
theorem Chip.opEnds_same (h state result : Nat) : (c.opEnds h state result).streams = c.streams ∧
    (c.opEnds h state result).items = c.items ∧ (c.opEnds h state result).mem = c.mem := by
  unfold Chip.opEnds
  extract_lets d e
  unfold e
  split <;> exact ⟨rfl, rfl, rfl⟩

theorem Chip.opEnds_state {h state : Nat} (result : Nat) (hh : h < 8) (hs : state < 2 ^ 3) :
    (c.opEnds h state result).get F.LONG_STAT_STATE h = state := by
  have hput : ∀ (c : Chip) (g : Fld) v, g.reg = .LONG_STAT → g.lo + g.w ≤ 32 → (g.lo + g.w ≤ 13 ∨ 16 ≤ g.lo) →
      (c.put g v h).get F.LONG_STAT_STATE h = c.get F.LONG_STAT_STATE h := fun c g v hg hw hd =>
    c.get_put_field g F.LONG_STAT_STATE v h 0 hg.symm hw hd.symm
  have hstate : (c.put F.LONG_STAT_STATE state h).get F.LONG_STAT_STATE h = state :=
    (Chip.get_put_self _ _ _ _ _ (decide_eq_true ⟨hh, Nat.one_pos⟩) (by decide)).trans (Nat.mod_eq_of_lt hs)
  unfold Chip.opEnds
  extract_lets d e
  rw [Chip.modOp_get]
  unfold e d
  split
  · rw [hput _ _ _ rfl (by decide) (by decide), hput _ _ _ rfl (by decide) (by decide), hstate]
  · rw [hput _ _ _ rfl (by decide) (by decide), hstate]

theorem Chip.opOfKind_lt {c : Chip} {kind h : Nat} (ho : c.opOfKind kind = some h) : h < 8 :=
  List.mem_range.1 (List.mem_of_find?_eq_some ho)

/-- A whole capture: its set, and the operation that asked for it DONE or FAILED (Table 16-16). -/
theorem Chip.captureDone_whole {n : Nat} {w : CaptureIn} (h : c.CaptureWhole n w) :
    (c.captureDone n w).streams = (c.takeSet n w).streams ∧ (c.captureDone n w).items = c.items ∧
    (c.captureDone n w).mem = c.mem ∧ ∀ o, c.opOfKind 2 = some o →
      (c.captureDone n w).get F.LONG_STAT_STATE o = (if c.defectRun n (c.capturedSet n w) then 3 else 2) := by
  have hadm := Chip.takeSet_admits (c := c) (n := n) (w := w)
  unfold Chip.captureDone
  simp only [Chip.captureRefs_whole h, Chip.takeSet_opOfKind]
  cases ho : c.opOfKind 2 with
  | none => exact ⟨rfl, hadm.items, hadm.mem, fun o h => by cases h⟩
  | some o =>
    obtain ⟨hstreams, hitems, hmem⟩ := Chip.opEnds_same (c.takeSet n w) o
      (if (!c.defectRun n (c.capturedSet n w)) = true then 2 else 3)
      (if (!c.defectRun n (c.capturedSet n w)) = true then 0 else Config.resultCode 2)
    refine ⟨hstreams, hitems.trans hadm.items, hmem.trans hadm.mem, fun p hp => ?_⟩
    cases hp
    rw [Chip.opEnds_state _ _ (Chip.opOfKind_lt ho) (by split <;> decide)]
    cases c.defectRun n (c.capturedSet n w) <;> rfl

/-! ## The obligation -/

theorem exec_afeConfigDone_up (s : State) (n : Fin 16) (reads : List Nat) (hup : s.chip.Up) :
    exec (.afeConfigDone n reads) s = .next ⟨s.pending, (s.chip.afeConfigDone n.val reads).settle⟩ := by
  simp only [exec_afeConfigDone, Chip.serving_eq _ hup.1 hup.2]

theorem exec_afeSyncTimeout_up (s : State) (n : Fin 16) (hup : s.chip.Up) :
    exec (.afeSyncTimeout n) s = .next ⟨s.pending, (s.chip.afeSyncTimeout n.val).settle⟩ := by
  simp only [exec_afeSyncTimeout, Chip.serving_eq _ hup.1 hup.2]

theorem exec_holdMinExpire_up (s : State) (k : Fin 8) (hup : s.chip.Up) :
    exec (.holdMinExpire k) s = .next ⟨s.pending, (s.chip.holdMinExpire k.val).settle⟩ := by
  simp only [exec_holdMinExpire, Chip.serving_eq _ hup.1 hup.2]

theorem exec_captureReferences_up (s : State) (n : Fin 16) (w : CaptureIn) (hup : s.chip.Up) :
    exec (.captureReferences n w) s = .next ⟨s.pending, (s.chip.captureDone n.val w).settle⟩ := by
  simp only [exec_captureReferences, Chip.serving_eq _ hup.1 hup.2]

/-- Settles O37: the outcomes of the four commands, each followed by the holds and credits, which leave them. -/
theorem streamStates : Obligations.StreamStates := by
  unfold Obligations.StreamStates
  intro s n hup c st afe marked faulted
  have hidle : ∀ i e, exec i s = .next ⟨s.pending, e.settle⟩ → e = c → exec i s = .next ⟨s.pending, c.settle⟩ :=
    fun i e hexec he => he ▸ hexec
  have hfaulted : ∀ i e, exec i s = .next ⟨s.pending, e.settle⟩ → c.Faulted e n.val → faulted i := fun i e hexec h => by
    have hs := h.settle
    exact ⟨_, hexec, rfl, hs.state, hs.afe, hs.logged, hs.items, hs.mem, hs.toCore⟩
  refine ⟨fun reads hst => ?_, fun reads hst hr => ?_, fun hst hsync => ?_, fun hst hgen hsync => ?_, fun h => ?_, fun k => ?_,
    fun w => ?_⟩
  · exact hidle _ _ (exec_afeConfigDone_up s n reads hup) (Chip.afeConfigDone_idle hst reads)
  · exact hfaulted _ _ (exec_afeConfigDone_up s n reads hup) (Chip.afeConfigDone_faulted hst n.isLt hr)
  · have hs := (Chip.afeConfigDone_configured hst n.isLt hsync).settle
    exact ⟨_, exec_afeConfigDone_up s n marked hup, rfl, hs.state, hs.afe, hs.items, hs.mem, hs.toCore⟩
  · exact hfaulted _ _ (exec_afeSyncTimeout_up s n hup)
      (Chip.afeSyncTimeout_faulted hst hgen hsync n.isLt)
  · exact hidle _ _ (exec_afeSyncTimeout_up s n hup) (Chip.afeSyncTimeout_idle h)
  · have hs := (c.holdMinExpire_settles k.val).trans (Chip.settle_settles _)
    exact ⟨_, exec_holdMinExpire_up s k hup, rfl, c.holdMinExpire_hold hup.2 k.isLt, hs.items, hs.mem, hs.admits.toCore⟩
  · intro lines whole refs
    refine ⟨fun h => hidle _ _ (exec_captureReferences_up s n w hup) (c.captureDone_partial h), fun h => ?_⟩
    obtain ⟨hstreams, hitems, hmem, hop⟩ := c.captureDone_whole h
    obtain ⟨hcapturing, hrefs, hnext⟩ := Chip.takeSet_stream (c := c) (n := n.val) (w := w)
    have hx : (c.captureDone n.val w).settle.stream n.val = (c.takeSet n.val w).stream n.val :=
      (Chip.settle_stream _ _).trans (Chip.stream_congr hstreams _)
    refine ⟨_, exec_captureReferences_up s n w hup, rfl, hx ▸ hcapturing, hx ▸ hrefs, hx ▸ hnext, fun o ho => ?_,
      (Chip.settle_items _).trans hitems, (Chip.settle_mem _).trans hmem⟩
    exact ((Chip.settle_calm _).get_apart (by decide)).trans (hop o ho)

end Sys2Proof.Machine
end

section
/-!
PROOFS. Readouts: the line that one brings to a stream that waits for its lock, and the readout that reaches sync.
-/

namespace Sys2Proof.Machine

variable (c : Chip)

/-! ## A readout that does nothing -/

theorem exec_readoutComplete_closing (s : State) (n : Fin 16) (w : Readout) (hup : s.chip.Up)
    (h : s.chip.boot.closing.isSome = true) : exec (.readoutComplete n w) s = .next ⟨s.pending, s.chip.settle⟩ := by
  simp only [exec_readoutComplete, Chip.serving_eq _ hup.1 hup.2, h, if_true]

theorem exec_readoutComplete_up (s : State) (n : Fin 16) (w : Readout) (hup : s.chip.Up) (h : s.chip.boot.closing = none) :
    exec (.readoutComplete n w) s = .next ⟨s.pending, (s.chip.readout n.val w).settle⟩ := by
  simp only [exec_readoutComplete, Chip.serving_eq _ hup.1 hup.2, h, Option.isSome_none, Bool.false_eq_true, if_false]

theorem Chip.readout_idle {n : Nat} (h : c.takesTriggers n = false) (w : Readout) : c.readout n w = c :=
  if_pos (by rw [h]; rfl)

/-! ## Lines -/

/-- A stream has taken a line with its midpoint, from the oldest period that waited. -/
structure Chip.Lined (c t : Chip) (n : Nat) (l : List Nat) (m : Stamp) : Prop extends Chip.Admits c t where
  hist : (t.stream n).hist = ((l, m) :: (c.stream n).hist).take 96
  mids : (t.stream n).mids = (c.stream n).mids.drop 1
  others : ∀ j, j ≠ n → t.stream j = c.stream j

theorem Chip.Lined.settle {c t : Chip} {n : Nat} {l : List Nat} {m : Stamp} (h : c.Lined t n l m) : c.Lined t.settle n l m where
  toAdmits := h.toAdmits.trans t.settle_admits
  hist := (congrArg Stream.hist (t.settle_stream n)).trans h.hist
  mids := (congrArg Stream.mids (t.settle_stream n)).trans h.mids
  others := fun j hj => (t.settle_stream j).trans (h.others j hj)

/-- No line of a stream that waits for its lock meets the page edge detector (R149). -/
theorem Chip.pageLine_waits {n : Nat} (hp : (c.stream n).page = none) (hst : c.get F.SNS_STATE_STATE n = 2) (t : Stamp) (sub : Bool) :
    c.pageLine n t sub = c := by
  unfold Chip.pageLine
  simp only [hp, hst]
  rfl

/-- A line enters a stream's history. -/
def Stream.addLine (l : List Nat) (t : Stamp) (s : Stream) : Stream := { s with hist := ((l, t) :: s.hist).take 96 }

theorem Chip.lineIn_waits {n : Nat} (hp : (c.stream n).page = none) (hst : c.get F.SNS_STATE_STATE n = 2)
    (raw : List Nat) (t : Stamp) : c.lineIn n raw t = c.modStream n (Stream.addLine raw t) :=
  Chip.pageLine_waits (c.modStream n (Stream.addLine raw t)) ((congrArg Stream.page (c.stream_modStream_self n _)).trans hp) hst _ _

theorem Chip.Counted.of_get {c t u : Chip} {f : Fld} {i : Nat} (h : c.Counted t f i)
    (hg : u.get f i = t.get f i) : c.Counted u f i := by
  unfold Chip.Counted at h ⊢
  rw [hg, h]

theorem snsCnt_has {n : Nat} (hn : n < 16) : Reg.has .SNS_CNT0 n 0 = true := decide_eq_true ⟨hn, Nat.one_pos⟩

/-- A count of SNS_CNT0 leaves SNS_STATE. -/
theorem Chip.get_bump_lineSub (n : Nat) : (c.bump F.SNS_CNT0_LINE_SUB n).get F.SNS_STATE_STATE n = c.get F.SNS_STATE_STATE n :=
  c.get_bump_ne _ _ _ _ _ _ _ (by simp only [Reg.addr, Reg.info, F.SNS_STATE_STATE, F.SNS_CNT0_LINE_SUB]; omega)

/-- The line that stands in for one received in error (R110). -/
def Chip.standIn (c : Chip) (n : Nat) : List Nat := ((c.stream n).hist.headD ([], c.clock.now)).1

theorem Chip.lineSubst_waits {n : Nat} (hp : (c.stream n).page = none) (hst : c.get F.SNS_STATE_STATE n = 2) (m : Stamp) :
    c.lineSubst n (some m) = (c.bump F.SNS_CNT0_LINE_SUB n).modStream n (Stream.addLine (c.standIn n) m) :=
  Chip.pageLine_waits ((c.bump F.SNS_CNT0_LINE_SUB n).modStream n (Stream.addLine (c.standIn n) m))
    ((congrArg Stream.page (Chip.stream_modStream_self _ n _)).trans hp) ((c.get_bump_lineSub n).trans hst) _ _

/-! ## Gen 1 -/

theorem Chip.missing_uncounted {r : Received} (n : Nat) (h : r.count = none) : c.missing n r = 0 := by
  unfold Chip.missing
  rw [h]
  cases (c.stream n).count <;> rfl

section
variable {c} {n : Nat} (hgen : c.get F.SNS_CFG_GEN n = 1)
include hgen

theorem Chip.received_gen1 (w : Readout) : c.received n w = receive1 (c.get F.SNS_RX_FIRST_WORD n) (c.get F.SNS_IF_SAMPLES n)
    (if (c.stream n).counting then w.halves else []) := by
  unfold Chip.received
  rw [hgen]
  rfl

theorem Chip.align_gen1 (good : Bool) : c.align n good = c := if_pos hgen

/-- The one error of a Gen 1 readout is that words are missing (R104, R109). -/
theorem Chip.readoutBad_gen1 {r : Received} (hf : r.framing = false) (sync : Bool) : c.readoutBad n r sync = !r.ended := by
  unfold Chip.readoutBad
  simp [hgen, hf]

/-- A Gen 1 readout of a stream that is configured ends the wait for words and is read as a line. -/
theorem Chip.readout_gen1 {w : Readout} (ht : c.takesTriggers n = true) (hst : c.get F.SNS_STATE_STATE n = 2)
    (hx : w.crossingFull = false) : c.readout n w =
      (c.modStream n (fun s => { s with counting := false })).lineRead n (c.received n w).samples (!(c.received n w).ended) := by
  have hcount : (c.received n w).count = none := by
    rw [Chip.received_gen1 hgen]
    rfl
  have hbad : ∀ sync, c.readoutBad n (c.received n w) sync = !(c.received n w).ended :=
    Chip.readoutBad_gen1 hgen (by rw [Chip.received_gen1 hgen]; rfl)
  unfold Chip.readout
  simp only [ht, hst, hx, hcount, hbad, Chip.align_gen1 hgen, c.missing_uncounted n hcount, Bool.or_false, Bool.not_true,
    Bool.false_eq_true, if_false, Option.isSome_none]
  rfl

end

/-- The readout of a line with its midpoint, alone in its period. -/
theorem Chip.lineRead_line {n k : Nat} {m : Option Stamp} {sk : Bool} {rest : List Period} (hseq : c.seqMode n = false)
    (hmids : (c.stream n).mids = ⟨k, m, sk, true⟩ :: rest) (hrest : rest.takeWhile (·.skipped) = []) (samples : List Nat)
    (bad : Bool) : c.lineRead n samples bad = (c.modStream n (fun s => { s with mids := s.mids.drop 1 })).lineDone n samples m bad := by
  have hseq' : (c.modStream n (fun s => { s with mids := s.mids.drop 1 })).seqMode n = false := hseq
  unfold Chip.lineRead
  rw [hmids]
  dsimp only
  rw [hrest, List.foldl_nil, Chip.periodRead]
  dsimp only
  rw [hseq', if_neg (by decide), if_neg (by decide)]

/-- The oldest waiting period of a stream is read. -/
def Chip.nextLine (c : Chip) (n : Nat) : Chip :=
  (c.modStream n (fun s => { s with counting := false })).modStream n (fun s => { s with mids := s.mids.drop 1 })

theorem Chip.nextLine_stream (n : Nat) :
    (c.nextLine n).stream n = { c.stream n with counting := false, mids := (c.stream n).mids.drop 1 } := by
  unfold Chip.nextLine
  rw [Chip.stream_modStream_self, Chip.stream_modStream_self]

theorem Chip.nextLine_stream_ne {n j : Nat} (h : j ≠ n) : (c.nextLine n).stream j = c.stream j := by
  unfold Chip.nextLine
  rw [Chip.stream_modStream, if_neg h, Chip.stream_modStream, if_neg h]

theorem Chip.nextLine_standIn (n : Nat) : (c.nextLine n).standIn n = c.standIn n := by
  unfold Chip.standIn
  rw [Chip.nextLine_stream]
  rfl

/-- A line enters the history once its period is read, whatever registers count beside it. -/
theorem Chip.addLine_lined {d : Chip} {n : Nat} (hadm : (c.nextLine n).Admits d) (hs : d.streams = (c.nextLine n).streams)
    (l : List Nat) (m : Stamp) : c.Lined (d.modStream n (Stream.addLine l m)) n l m := by
  have hx : (d.modStream n (Stream.addLine l m)).stream n = Stream.addLine l m ((c.nextLine n).stream n) := by
    rw [Chip.stream_modStream_self, Chip.stream_congr hs]
  refine ⟨(((c.modStream_admits _ _).trans (Chip.modStream_admits _ _ _)).trans hadm).trans (d.modStream_admits _ _), ?_, ?_,
    fun j hj => ?_⟩
  · rw [hx, Chip.nextLine_stream]
    rfl
  · rw [hx, Chip.nextLine_stream]
    rfl
  · rw [Chip.stream_modStream, if_neg hj, Chip.stream_congr hs, Chip.nextLine_stream_ne _ hj]

theorem Chip.nextLine_get (n : Nat) (f : Fld) (i j : Nat) : (c.nextLine n).get f i j = c.get f i j := rfl

theorem Chip.nextLine_page {n : Nat} (h : (c.stream n).page = none) : ((c.nextLine n).stream n).page = none := by
  rw [Chip.nextLine_stream]
  exact h

theorem Chip.lineDone_good (n : Nat) (raw : List Nat) (m : Stamp) : c.lineDone n raw (some m) false = c.lineIn n raw m := rfl
theorem Chip.lineDone_bad (n : Nat) (raw : List Nat) (m : Stamp) : c.lineDone n raw (some m) true = c.lineSubst n (some m) := rfl

/-- The words that reach a Gen 1 stream from FIRST_WORD on (R104). -/
def Chip.lineWords (c : Chip) (n : Nat) (w : Readout) : List Nat :=
  (halfWords (if (c.stream n).counting then w.halves else [])).drop (c.get F.SNS_RX_FIRST_WORD n)

section
variable {c} {n k : Nat} {w : Readout} {m : Stamp} {sk : Bool} {rest : List Period}
  (hgen : c.get F.SNS_CFG_GEN n = 1) (ht : c.takesTriggers n = true) (hst : c.get F.SNS_STATE_STATE n = 2)
  (hx : w.crossingFull = false) (hseq : c.seqMode n = false) (hp : (c.stream n).page = none)
  (hmids : (c.stream n).mids = ⟨k, some m, sk, true⟩ :: rest) (hrest : rest.takeWhile (·.skipped) = [])
include hgen ht hst hx hseq hmids hrest

theorem Chip.readout_line : c.readout n w = (c.nextLine n).lineDone n ((c.lineWords n w).take (c.get F.SNS_IF_SAMPLES n)) (some m)
    (!decide (((c.lineWords n w).take (c.get F.SNS_IF_SAMPLES n)).length = c.get F.SNS_IF_SAMPLES n)) := by
  rw [Chip.readout_gen1 hgen ht hst hx, Chip.received_gen1 hgen,
    Chip.lineRead_line (c.modStream n (fun s => { s with counting := false })) hseq
      ((congrArg Stream.mids (c.stream_modStream_self n _)).trans hmids) hrest]
  rfl

include hp

/-- A complete line. -/
theorem Chip.readout_complete (hlen : c.get F.SNS_IF_SAMPLES n ≤ (c.lineWords n w).length) :
    c.Lined (c.readout n w) n ((c.lineWords n w).take (c.get F.SNS_IF_SAMPLES n)) m ∧
      (c.readout n w).get F.SNS_CNT0_LINE_SUB n = c.get F.SNS_CNT0_LINE_SUB n := by
  have he : c.readout n w =
      (c.nextLine n).modStream n (Stream.addLine ((c.lineWords n w).take (c.get F.SNS_IF_SAMPLES n)) m) := by
    rw [Chip.readout_line hgen ht hst hx hseq hmids hrest, List.length_take_of_le hlen, decide_eq_true rfl, Bool.not_true,
      Chip.lineDone_good, Chip.lineIn_waits _ (c.nextLine_page hp) hst]
  rw [he, Chip.modStream_get, Chip.nextLine_get]
  exact ⟨c.addLine_lined (Chip.Admits.refl _) rfl _ _, rfl⟩

/-- One with words missing: counted, and the previous line stands in (R110). -/
theorem Chip.readout_short (hn : n < 16) (hlen : (c.lineWords n w).length < c.get F.SNS_IF_SAMPLES n) :
    c.Lined (c.readout n w) n (c.standIn n) m ∧ c.Counted (c.readout n w) F.SNS_CNT0_LINE_SUB n := by
  have he : c.readout n w =
      ((c.nextLine n).bump F.SNS_CNT0_LINE_SUB n).modStream n (Stream.addLine (c.standIn n) m) := by
    rw [Chip.readout_line hgen ht hst hx hseq hmids hrest, List.take_of_length_le hlen.le, decide_eq_false hlen.ne, Bool.not_false,
      Chip.lineDone_bad, Chip.lineSubst_waits _ (c.nextLine_page hp) hst, c.nextLine_standIn n]
  rw [he]
  refine ⟨c.addLine_lined (Chip.put_admits _ _ _ _ _) (Chip.bump_streams _ _ _ _ _) _ _, ?_⟩
  unfold Chip.Counted
  rw [Chip.modStream_get, Chip.get_bump_self _ _ _ _ _ (snsCnt_has hn) (by decide), Chip.nextLine_get]

end

/-! ## Sync -/

/-- The fourth good readout in succession (R106, R107). -/
theorem Chip.align_fourth {n : Nat} (hgen : c.get F.SNS_CFG_GEN n ≠ 1) (hgood : (c.stream n).good = 3) :
    c.align n true = (c.modStream n (fun s => { s with good := 4, bad := 0 })).putB F.SNS_STATE_SYNC true n := by
  unfold Chip.align
  rw [if_neg hgen, if_pos rfl]
  simp only [hgood]
  rfl

/-- A readout of a stream in ENABLING ends the wait for words and its period; nothing is read of it (R125). -/
theorem Chip.readout_enabling {n : Nat} {w : Readout} (ht : c.takesTriggers n = true) (hst : c.get F.SNS_STATE_STATE n = 1)
    (hgen : c.get F.SNS_CFG_GEN n ≠ 3) (hx : w.crossingFull = false) :
    ∃ f : Stream → Stream, (∀ s, (f s).afeDone = s.afeDone) ∧
    c.readout n w = ((c.align n (!(c.received n w).framing)).modStream n f).enablingDone n := by
  refine ⟨fun s => { s with
    counting := false, count := if (c.received n w).count.isSome then (c.received n w).count else s.count
    mids := s.mids.drop 1 }, fun s => rfl, ?_⟩
  unfold Chip.readout
  simp only [ht, hst, hgen, hx, Bool.not_true, Bool.false_eq_true, if_false, if_true, Chip.modStream_modStream]

/-- A stream has reached sync and is configured (R106, R125). -/
structure Chip.Synced (c t : Chip) (n : Nat) : Prop extends Chip.Admits c t where
  sync : t.flag F.SNS_STATE_SYNC n = true
  state : t.get F.SNS_STATE_STATE n = c.readyState n

theorem Chip.Synced.settle {c t : Chip} {n : Nat} (h : c.Synced t n) : c.Synced t.settle n where
  toAdmits := h.toAdmits.trans t.settle_admits
  sync := (t.settle_calm.flag_apart (by decide)).trans h.sync
  state := (t.settle_get_stream n).trans h.state

/-- SYNC decides nothing of whether a stream waits for its lock. -/
theorem Chip.putSync_readyState (n : Nat) (v : Bool) : (c.putB F.SNS_STATE_SYNC v n).readyState n = c.readyState n := by
  have hlive : (c.putB F.SNS_STATE_SYNC v n).flag F.SNS_CFG_LIVE n = c.flag F.SNS_CFG_LIVE n :=
    Chip.flag_congr (c.get_putB_ne _ _ _ _ _ _ _ (by simp only [Reg.addr, Reg.info, F.SNS_STATE_SYNC, F.SNS_CFG_LIVE]; omega))
  have hlocked : (c.putB F.SNS_STATE_SYNC v n).locked = c.locked := Chip.flag_congr (c.get_put_apart _ _ _ _ _ _ _ (by decide))
  unfold Chip.readyState
  rw [hlive, hlocked]

theorem Chip.enablingDone_synced {n : Nat} (hn : n < 16) (hst : c.get F.SNS_STATE_STATE n = 1)
    (hafe : (c.stream n).afeDone = true) (hsync : c.flag F.SNS_STATE_SYNC n = true) : c.Synced (c.enablingDone n) n := by
  rw [c.enablingDone_ready hst hafe (.inr hsync)]
  refine ⟨c.put_admits _ _ _ _, ?_, Chip.get_put_state _ hn (c.readyState_lt n)⟩
  exact (Chip.flag_congr (c.get_put_field F.SNS_STATE_STATE F.SNS_STATE_SYNC _ _ _ rfl (by decide) (by decide))).trans hsync

theorem Chip.Synced.of_admits {c d t : Chip} {n : Nat} (h : d.Synced t n) (hadm : c.Admits d) (hr : d.readyState n = c.readyState n) :
    c.Synced t n := ⟨hadm.trans h.toAdmits, h.sync, h.state.trans hr⟩

/-- A stream that counts as in sync. -/
def Chip.setSync (c : Chip) (n : Nat) : Chip := c.putB F.SNS_STATE_SYNC true n

theorem Chip.setSync_state {n : Nat} : (c.setSync n).get F.SNS_STATE_STATE n = c.get F.SNS_STATE_STATE n :=
  c.get_putB_field F.SNS_STATE_SYNC F.SNS_STATE_STATE _ _ _ rfl (by decide) (by decide)

/-- In ENABLING, its AFE configured, a stream leaves it with its fourth good readout. -/
theorem Chip.readout_synced {n : Nat} {w : Readout} (hn : n < 16) (ht : c.takesTriggers n = true)
    (hst : c.get F.SNS_STATE_STATE n = 1) (hgen : c.get F.SNS_CFG_GEN n = 2) (hframing : (c.received n w).framing = false)
    (hx : w.crossingFull = false) (hgood : (c.stream n).good = 3) (hafe : (c.stream n).afeDone = true) :
    c.Synced (c.readout n w) n := by
  obtain ⟨f, hf, he⟩ := c.readout_enabling ht hst (by rw [hgen]; decide) hx
  rw [hframing, Bool.not_false, c.align_fourth (by rw [hgen]; decide) hgood] at he
  let b := c.modStream n (fun s => { s with good := 4, bad := 0 })
  let d := (b.setSync n).modStream n f
  have hd : c.readout n w = d.enablingDone n := he
  have hdone : (d.stream n).afeDone = true := by
    rw [Chip.stream_modStream_self, hf, Chip.setSync, Chip.stream_congr (Chip.putB_streams _ _ _ _ _), Chip.stream_modStream_self]
    exact hafe
  have hadm : c.Admits d := ((c.modStream_admits _ _).trans (b.put_admits _ _ _ _)).trans (Chip.modStream_admits _ _ _)
  have hsync : (b.setSync n).flag F.SNS_STATE_SYNC n = true := Chip.flag_putB_self _ _ _ _ _ (snsState_has hn) (by decide) rfl
  rw [hd]
  exact (d.enablingDone_synced hn (b.setSync_state.trans hst) hdone hsync).of_admits hadm (b.putSync_readyState n true)

/-! ## The obligation -/

/-- Settles O35: the readouts that do nothing, the two lines of a stream that waits for its lock, and the one that reaches sync. -/
theorem readoutsMakeLines : Obligations.ReadoutsMakeLines := by
  unfold Obligations.ReadoutsMakeLines
  intro s n w hup c x r idle
  refine ⟨exec_readoutComplete_closing s n w hup, fun hclosing ht => ?_,
    fun hclosing ht hst hgen hseq hp hx k m sk rest hmids hrest => ?_,
    fun hclosing ht hst hgen hframing hx hgood hafe => ?_⟩
  · exact (exec_readoutComplete_up s n w hup hclosing).trans (by rw [Chip.readout_idle _ ht])
  · intro line words
    have hexec := exec_readoutComplete_up s n w hup hclosing
    have hline : ∀ l, c.Lined (c.readout n.val w) n.val l m → line l ⟨s.pending, (c.readout n.val w).settle⟩ := fun l h => by
      have hs := h.settle
      exact ⟨hexec, rfl, hs.hist, hs.mids.trans (by rw [hmids]; rfl), hs.others, hs.items, hs.mem, hs.toCore⟩
    have hcount : (c.readout n.val w).settle.get F.SNS_CNT0_LINE_SUB n.val = (c.readout n.val w).get F.SNS_CNT0_LINE_SUB n.val :=
      (Chip.settle_calm _).get_apart (by decide)
    refine ⟨fun hlen => ?_, fun hlen => ?_⟩
    · obtain ⟨h, hsub⟩ := Chip.readout_complete hgen ht hst hx hseq hp hmids hrest hlen
      exact ⟨_, hline _ h, hcount.trans hsub⟩
    · obtain ⟨h, hsub⟩ := Chip.readout_short hgen ht hst hx hseq hp hmids hrest n.isLt hlen
      have hprev : c.standIn n.val = (x.hist.headD ([], m)).1 := by
        unfold Chip.standIn x
        cases (c.stream n.val).hist <;> rfl
      rw [hprev] at h
      exact ⟨_, hline _ h, hsub.of_get hcount⟩
  · have hs := (c.readout_synced n.isLt ht hst hgen hframing hx hgood hafe).settle
    exact ⟨_, exec_readoutComplete_up s n w hup hclosing, rfl, hs.sync, hs.state, hs.items, hs.mem, hs.toCore⟩

end Sys2Proof.Machine
end

section
/-!
PROOFS. The end of an item: what the work around it leaves alone, the verdict it is given, and what returns with its credit.
-/

namespace Sys2Proof.Machine

/-! ## Work on the memories -/

/-- The registers that the end of an item writes, but for the credit of a stream. -/
def endRegs : List Reg :=
  [.FAULT_LOG_W0, .FAULT_LOG_W1, .FAULT_LOG_W2, .FAULT_LOG_W3, .FAULT_LOG_PTR, .BM_ECC, .SM_ECC, .KV_POOL_STAT, .KV_RESV, .KV_OVF,
    .KV_EPOCH_LO, .KV_CNT1, .PART_CNT, .TXT_CNT2, .SESS_SPOOL, .HOLD_STAT]

/-- Those registers lie apart from register `r`. -/
def Reg.offEnd (r : Reg) : Bool := endRegs.all (fun q => q.apart r)

theorem Reg.apart_of_offEnd {r q : Reg} (h : r.offEnd = true) (hq : q ∈ endRegs) : q.apart r = true := List.all_eq_true.1 h q hq

theorem Reg.offLog_of_offEnd {r : Reg} (h : r.offEnd = true) : r.offLog = true := by
  have hq : ∀ q ∈ [Reg.FAULT_LOG_W0, .FAULT_LOG_W1, .FAULT_LOG_W2, .FAULT_LOG_W3, .FAULT_LOG_PTR], q.apart r = true :=
    fun q hq => Reg.apart_of_offEnd h (List.mem_append_left _ hq)
  simpa [Reg.offLog, and_assoc] using hq

/-- From `a` to `b` only memories change, and with them the log and the counts of uncorrectable words. -/
structure MemWork (a b : Chip) : Prop where
  only : b = { a with regs := b.regs, free := b.free, mem := b.mem }
  word : ∀ r i j, r.offEnd = true → b.word r i j = a.word r i j

theorem MemWork.refl (a : Chip) : MemWork a a := ⟨rfl, fun _ _ _ _ => rfl⟩

theorem MemWork.trans {a b c : Chip} (h : MemWork a b) (k : MemWork b c) : MemWork a c where
  only := k.only.trans (by rw [h.only])
  word := fun r i j hr => (k.word r i j hr).trans (h.word r i j hr)

theorem MemWork.foldl {β : Type} {g : Chip → β → Chip} (hg : ∀ c x, MemWork c (g c x)) (l : List β) (c : Chip) :
    MemWork c (l.foldl g c) := by
  induction l generalizing c with
  | nil => exact MemWork.refl c
  | cons x l ih => exact (hg c x).trans (ih _)

theorem MemWork.items {a b : Chip} (h : MemWork a b) : b.items = a.items := by rw [h.only]

theorem MemWork.streams {a b : Chip} (h : MemWork a b) : b.streams = a.streams := by rw [h.only]

theorem MemWork.core {a b : Chip} (h : MemWork a b) : a.Core b := by
  rw [h.only]
  exact ⟨rfl, rfl, rfl, rfl, rfl, rfl⟩

variable (c : Chip)

theorem Chip.updMem_memWork (f : Mem → Mem) : MemWork c (c.updMem f) := ⟨rfl, fun _ _ _ _ => rfl⟩

theorem Chip.bump_memWork (f : Fld) (i j n : Nat) (h : f.reg ∈ endRegs) : MemWork c (c.bump f i j n) :=
  ⟨rfl, fun _ _ _ hr => c.word_setWord_apart _ _ _ _ _ (Reg.apart_of_offEnd hr h)⟩

theorem Chip.log_memWork (code : Nat) (l : Loc) (stated : Option Nat) : MemWork c (c.log code l stated) where
  only := by
    obtain ⟨g, f, h⟩ := c.log_onlyRegs code l stated
    rw [h]
  word := fun r i j hr => c.log_word code l stated r i j (Reg.offLog_of_offEnd hr)

theorem Chip.countUncorr_memWork (g : Gran) : MemWork c (c.countUncorr g) := by
  unfold Chip.countUncorr
  split
  · exact c.bump_memWork _ _ _ _ (by decide)
  · split
    · exact c.bump_memWork _ _ _ _ (by decide)
    · exact c.updMem_memWork _

theorem Chip.meet_memWork (g : Gran) : MemWork c (c.meet g).1 := by
  unfold Chip.meet
  split
  · exact (c.countUncorr_memWork g).trans (Chip.log_memWork _ _ _ _)
  · exact MemWork.refl c

/-- Work that carries a further value along. -/
theorem MemWork.foldl_fst {α β : Type} {g : Chip × α → β → Chip × α} (hg : ∀ a x, MemWork a.1 (g a x).1) (l : List β)
    (a : Chip × α) : MemWork a.1 (l.foldl g a).1 := by
  induction l generalizing a with
  | nil => exact MemWork.refl a.1
  | cons x l ih => exact (hg a x).trans (ih _)

theorem Chip.meetAll_memWork (l : List Gran) : MemWork c (c.meetAll l).1 := by
  refine MemWork.foldl_fst (fun a g => ?_) l (c, false)
  exact a.1.meet_memWork g

theorem Chip.carry_memWork (pairs : List (Gran × Gran)) : MemWork c (c.carry pairs).1 :=
  (c.meetAll_memWork _).trans
    (MemWork.foldl (fun c (e : Gran × Gran) => c.updMem_memWork (fun x => x.copyGran e.1 e.2)) _ _)

/-! ## Work that ends no item -/

/-- The items that are kept, each with its verdict. -/
def Items.verdicts (I : Items) : List (Nat × Option Verdict) := I.list.map (fun i => (i.num, i.ended))

theorem Chip.item_verdict (n : Nat) :
    (c.item n).map (fun i => (i.num, i.ended)) = c.items.verdicts.find? (fun e => e.1 = n) := by
  unfold Chip.item Items.verdicts
  rw [List.find?_map]
  rfl

/-- From `a` to `b` no item has come, gone or ended; streams, the counts of ends and what a command of the data path leaves stay. -/
structure NoEnd (a b : Chip) : Prop extends a.Core b where
  streams : b.streams = a.streams
  verdicts : b.items.verdicts = a.items.verdicts
  ends : b.items.ends = a.items.ends
  word : ∀ r i j, r.offEnd = true → b.word r i j = a.word r i j

theorem NoEnd.trans {a b c : Chip} (h : NoEnd a b) (k : NoEnd b c) : NoEnd a c where
  toCore := h.toCore.trans k.toCore
  streams := k.streams.trans h.streams
  verdicts := k.verdicts.trans h.verdicts
  ends := k.ends.trans h.ends
  word := fun r i j hr => (k.word r i j hr).trans (h.word r i j hr)

theorem MemWork.noEnd {a b : Chip} (h : MemWork a b) : NoEnd a b :=
  ⟨h.core, h.streams, congrArg Items.verdicts h.items, congrArg Items.ends h.items, h.word⟩

theorem NoEnd.refl (a : Chip) : NoEnd a a := (MemWork.refl a).noEnd

/-- An update of sessions and their records, of the key-value cache or of adaptation. -/
theorem NoEnd.aside {a b : Chip} (h : b = { a with
    free := b.free, formed := b.formed, sessions := b.sessions, kv := b.kv, adapt := b.adapt }) : NoEnd a b := by
  rw [h]
  exact ⟨⟨rfl, rfl, rfl, rfl, rfl, rfl⟩, rfl, rfl, rfl, fun _ _ _ _ => rfl⟩

theorem NoEnd.foldl {β : Type} {g : Chip → β → Chip} (hg : ∀ c x, NoEnd c (g c x)) (l : List β) (c : Chip) :
    NoEnd c (l.foldl g c) := by
  induction l generalizing c with
  | nil => exact NoEnd.refl c
  | cons x l ih => exact (hg c x).trans (ih _)

/-- Work that carries a further value along. -/
theorem NoEnd.foldl_fst {α β : Type} {g : Chip × α → β → Chip × α} (hg : ∀ a x, NoEnd a.1 (g a x).1) (l : List β)
    (a : Chip × α) : NoEnd a.1 (l.foldl g a).1 := by
  induction l generalizing a with
  | nil => exact NoEnd.refl a.1
  | cons x l ih => exact (hg a x).trans (ih _)

/-- An item is found again, with its verdict. -/
theorem NoEnd.item {a b : Chip} (h : NoEnd a b) {n : Nat} {i : Item} (hi : a.item n = some i) :
    ∃ j, b.item n = some j ∧ j.ended = i.ended := by
  have hb := b.item_verdict n
  rw [h.verdicts, ← a.item_verdict n, hi] at hb
  obtain ⟨j, hj, he⟩ := Option.map_eq_some_iff.1 hb
  exact ⟨j, hj, congrArg Prod.snd he⟩

theorem Chip.put_noEnd (f : Fld) (v i j : Nat) (h : f.reg ∈ endRegs) : NoEnd c (c.put f v i j) :=
  ⟨⟨rfl, rfl, rfl, rfl, rfl, rfl⟩, rfl, rfl, rfl, fun _ _ _ hr => c.word_setWord_apart _ _ _ _ _ (Reg.apart_of_offEnd hr h)⟩

theorem Chip.bump_noEnd (f : Fld) (i j n : Nat) (h : f.reg ∈ endRegs) : NoEnd c (c.bump f i j n) := c.put_noEnd _ _ _ _ h

theorem Chip.updKv_noEnd (f : Kv → Kv) : NoEnd c (c.updKv f) := .aside rfl

theorem Chip.modKvSlot_noEnd (q : Nat) (f : KvSlot → KvSlot) : NoEnd c (c.modKvSlot q f) := .aside rfl

theorem Chip.modSess_noEnd (s : Nat) (f : Session → Session) : NoEnd c (c.modSess s f) := .aside rfl

/-- An update of an item that leaves its number and its verdict. -/
theorem Chip.modItem_noEnd (n : Nat) {f : Item → Item}
    (hf : ∀ i, (f i).num = i.num ∧ (f i).ended = i.ended := by exact fun _ => ⟨rfl, rfl⟩) : NoEnd c (c.modItem n f) := by
  refine ⟨⟨rfl, rfl, rfl, rfl, rfl, rfl⟩, rfl, ?_, rfl, fun _ _ _ _ => rfl⟩
  refine (List.map_map (l := c.items.list)).trans (List.map_congr_left (fun i _ => ?_))
  rw [Function.comp_apply]
  split
  · rw [(hf i).1, (hf i).2]
  · rfl

/-! ## Records -/

theorem Chip.showSpool_noEnd (s : Nat) : NoEnd c (c.showSpool s) := by
  unfold Chip.showSpool
  split
  · extract_lets x c1 y
    have h : NoEnd c c1 := by
      unfold c1
      split
      · exact c.modSess_noEnd _ _
      · exact NoEnd.refl c
    exact (h.trans (c1.put_noEnd _ _ _ _ (by decide))).trans (Chip.put_noEnd _ _ _ _ _ (by decide))
  · exact NoEnd.refl c

theorem Chip.giveSpool_noEnd (s n : Nat) : NoEnd c (c.giveSpool s n) := (c.modSess_noEnd _ _).trans (Chip.showSpool_noEnd _ s)

theorem Chip.form_noEnd (i : Item) (d : Deliv) (kind : Nat) (bytes : List Byte) : NoEnd c (c.form i d kind bytes) := by
  unfold Chip.form
  extract_lets c1
  exact (NoEnd.aside rfl : NoEnd c c1).trans (c1.modItem_noEnd _)

/-- Work for those deliveries that are not cut. -/
theorem NoEnd.foldl_uncut {g : Chip → Deliv → Chip} (hg : ∀ c d, NoEnd c (g c d)) (l : List Deliv) (c : Chip) :
    NoEnd c (l.foldl (fun c d => if d.cut then c else g c d) c) := by
  refine NoEnd.foldl (fun c d => ?_) l c
  split
  · exact NoEnd.refl c
  · exact hg c d

theorem Chip.formBegin_noEnd (n : Nat) : NoEnd c (c.formBegin n) := by
  unfold Chip.formBegin
  split
  · exact NoEnd.refl c
  · split
    · exact NoEnd.refl c
    · next i _ _ =>
      exact (c.modItem_noEnd n).trans (NoEnd.foldl_uncut (fun c d => c.form_noEnd i d 1 (beginRec i d.cls)) _ _)

theorem Chip.formField_noEnd (n k : Nat) : NoEnd c (c.formField n k) := by
  unfold Chip.formField
  split
  · exact NoEnd.refl c
  · split
    · exact NoEnd.refl c
    · dsimp only
      refine NoEnd.foldl (fun c d => ?_) _ c
      split
      · exact NoEnd.refl c
      · split
        · exact c.form_noEnd _ _ _ _
        · exact (c.form_noEnd _ _ _ _).trans (Chip.modItem_noEnd _ n)

/-! ## The key-value cache -/

theorem Chip.showKv_noEnd : NoEnd c c.showKv := by
  unfold Chip.showKv
  extract_lets inPool limbo ovf c1 c2 c3 c4
  exact ((((c.put_noEnd _ _ _ _ (by decide)).trans (c1.put_noEnd _ _ _ _ (by decide))).trans
    (c2.put_noEnd _ _ _ _ (by decide))).trans (c3.put_noEnd _ _ _ _ (by decide))).trans (c4.put_noEnd _ _ _ _ (by decide))

theorem Chip.kvAlloc_noEnd {lcWork : Bool} {pages : Nat} {d : Chip} {k : KvSet} (h : c.kvAlloc lcWork pages = some (d, k)) :
    NoEnd c d := by
  rw [c.kvAlloc_some h]
  exact (c.updKv_noEnd _).trans (Chip.showKv_noEnd _)

theorem Chip.kvPublish_noEnd (q : Nat) (new : List (BitVec 32)) : NoEnd c (c.kvPublish q new) := by
  unfold Chip.kvPublish Chip.kvRecount
  exact ((((c.modKvSlot_noEnd _ _).trans (Chip.updKv_noEnd _ _)).trans (Chip.showKv_noEnd _)).trans (Chip.updKv_noEnd _ _)).trans
    (Chip.showKv_noEnd _)

theorem Chip.kvTake_noEnd (n : Nat) : NoEnd c (c.kvTake n).1 := by
  unfold Chip.kvTake
  split
  · exact NoEnd.refl c
  · split
    · exact NoEnd.refl c
    · split
      · exact NoEnd.refl c
      · exact (c.modItem_noEnd n).trans (Chip.modKvSlot_noEnd _ _ _)

theorem Chip.kvTakeTrain_noEnd (set : Nat) : NoEnd c (c.kvTakeTrain set).1 := by
  unfold Chip.kvTakeTrain
  split
  · exact NoEnd.refl c
  · split
    · exact NoEnd.refl c
    · exact .aside rfl

theorem Chip.kvCopySet_noEnd (a b : KvSet) : NoEnd c (c.kvCopySet a b) := (c.carry_memWork _).noEnd

/-- One more page set for a slot, where there is room and a free run: what training and an append have in common. -/
theorem Chip.kvGrow_noEnd {q : Nat} {lcWork : Bool} {l : Nat} {f g : KvSlot → KvSlot} {p : Prop} [Decidable p]
    {new : KvSet → List (BitVec 32)} :
    NoEnd c (if p then c else match c.kvAlloc lcWork l with
      | none => c.modKvSlot q f
      | some (d, x) => (d.modKvSlot q g).kvPublish q (new x)) := by
  split
  · exact NoEnd.refl c
  · split
    · exact c.modKvSlot_noEnd _ _
    · next ha => exact ((c.kvAlloc_noEnd ha).trans (Chip.modKvSlot_noEnd _ _ _)).trans (Chip.kvPublish_noEnd _ _ _)

theorem Chip.kvEdit_noEnd (e : KvEdit) : NoEnd c (c.kvEdit e) := by
  cases e with
  | train k =>
    have ht := c.kvTakeTrain_noEnd k.val
    unfold Chip.kvEdit
    dsimp only
    split
    · next he => rwa [he] at ht
    · next he =>
      rw [he] at ht
      exact ht.trans (Chip.kvGrow_noEnd _)
  | trainEnd k =>
    unfold Chip.kvEdit
    dsimp only
    split
    · exact NoEnd.refl c
    · exact (NoEnd.aside rfl).trans ((Chip.kvPublish_noEnd { c with adapt := _ } _ _).trans (Chip.modKvSlot_noEnd _ _ _))
  | append n ov =>
    have ht := c.kvTake_noEnd n
    unfold Chip.kvEdit
    dsimp only
    split
    · next he => rwa [he] at ht
    · next he =>
      rw [he] at ht
      exact ht.trans (Chip.kvGrow_noEnd _)
  | attach n a pos =>
    have ht := c.kvTake_noEnd n
    unfold Chip.kvEdit
    dsimp only
    split
    · next he => rwa [he] at ht
    · next he =>
      rw [he] at ht
      refine ht.trans ?_
      split
      · exact NoEnd.refl _
      · split
        · exact Chip.kvPublish_noEnd _ _ _
        · split
          · next ha _ =>
            refine ((Chip.kvAlloc_noEnd _ ha).trans ?_).trans (Chip.kvPublish_noEnd _ _ _)
            split
            · exact Chip.kvCopySet_noEnd _ _ _
            · exact NoEnd.refl _
          · exact Chip.modKvSlot_noEnd _ _ _
  | release n j =>
    unfold Chip.kvEdit
    dsimp only
    split
    · exact NoEnd.refl c
    · exact c.kvPublish_noEnd _ _
  | anchor q k =>
    unfold Chip.kvEdit
    dsimp only
    split
    · exact NoEnd.refl c
    · refine ((c.modKvSlot_noEnd _ _).trans (NoEnd.foldl_fst (fun a x => ?_) _ (_, []))).trans (Chip.kvPublish_noEnd _ _ _)
      split
      · next ha => exact a.1.kvAlloc_noEnd ha
      · exact NoEnd.refl a.1
  | clear q =>
    unfold Chip.kvEdit
    dsimp only
    split
    · exact NoEnd.refl c
    · exact (c.kvPublish_noEnd _ _).trans (Chip.modKvSlot_noEnd _ _ _)

theorem kvDrain_noEnd (fuel : Nat) : NoEnd c (kvDrain fuel c) := by
  induction fuel generalizing c with
  | zero => exact NoEnd.refl c
  | succ fuel ih =>
    unfold kvDrain
    split
    · exact NoEnd.refl c
    · split
      · exact NoEnd.refl c
      · split_ifs
        · exact NoEnd.refl c
        · exact (c.bump_noEnd _ _ _ _ (by decide)).trans (Chip.updKv_noEnd _ _)
        · exact ((c.updKv_noEnd _).trans (Chip.kvEdit_noEnd _ _)).trans (ih _)

theorem Chip.kvFreeItem_noEnd (n : Nat) : NoEnd c (c.kvFreeItem n) := by
  unfold Chip.kvFreeItem Chip.kvTableEdit Chip.kvRun
  split
  · exact NoEnd.refl c
  · exact (((c.updKv_noEnd _).trans (Chip.modItem_noEnd _ n)).trans (Chip.updKv_noEnd _ _)).trans
      (kvDrain_noEnd _ _)

theorem Chip.writeSample_noEnd (i : Item) (status : Nat) : NoEnd c (c.writeSample i status) := by
  unfold Chip.writeSample
  dsimp only
  split
  · exact NoEnd.refl c
  · exact .aside rfl

/-! ## The return of a credit -/

/-- An item is gone with what it held; a page in capture stays (R128). -/
structure Chip.Returned (c t : Chip) (n : Nat) : Prop extends c.Core t where
  list : t.items.list = c.items.list.filter (fun j => j.num ≠ n)
  ends : t.items.ends = c.items.ends
  capture : ∀ k, (t.stream k).page = (c.stream k).page ∧ (t.stream k).closed = (c.stream k).closed
  word : ∀ r i j, r.offEnd = true → (∀ k, r.addr i j ≠ Reg.addr .SNS_CREDIT k 0) → t.word r i j = c.word r i j

theorem Chip.Returned.calm {c d t : Chip} {n : Nat} (h : c.Returned d n) (k : Calm d t) : c.Returned t n where
  toCore := h.toCore.trans k.admits.toCore
  list := (congrArg Items.list k.items).trans h.list
  ends := (congrArg Items.ends k.items).trans h.ends
  capture := fun x => by
    rw [Chip.stream_congr k.streams x]
    exact h.capture x
  word := fun r i j hr hc => (k.word_apart i j (Reg.apart_of_offEnd hr (by decide))).trans (h.word r i j hr hc)

/-- A stream's credit is written. -/
theorem Chip.Returned.put {c d : Chip} {n : Nat} (h : c.Returned d n) {f : Fld} (hf : f.reg = .SNS_CREDIT) (v k : Nat) :
    c.Returned (d.put f v k) n :=
  { h with word := fun r i j hr hc => (Chip.word_setWord_ne _ _ (hf ▸ hc k)).trans (h.word r i j hr hc) }

theorem Chip.creditReturn_returned {n : Nat} {i : Item} (hi : c.item n = some i) : c.Returned (c.creditReturn n) n := by
  unfold Chip.creditReturn
  rw [hi]
  dsimp -zeta only
  extract_lets c1 c2 c3 s c4
  have h3 : c.Returned c3 n := by
    refine ⟨⟨rfl, rfl, rfl, rfl, rfl, rfl⟩, rfl, rfl, fun k => ?_, fun _ _ _ _ _ => rfl⟩
    unfold c3
    rw [Chip.stream_modStream]
    split
    · next hk => exact hk ▸ ⟨rfl, rfl⟩
    · exact ⟨rfl, rfl⟩
  have h4 : c.Returned c4 n := by
    unfold c4
    split
    · exact { h3 with }
    · exact h3
  clear_value c3 c4
  split
  · split
    · exact h3.put rfl _ _
    · split
      · exact h3.put rfl _ _
      · exact h3
  · exact h4.calm (c4.grant_calm s)

/-! ## The end -/

/-- Item `n` has ended with verdict `v`, and is gone or waits for its records; pages in capture stay, and so do all streams while
it waits. -/
structure Chip.Ended (c t : Chip) (n : Nat) (v : Verdict) : Prop extends c.Core t where
  verdict : ∀ j ∈ t.items.list, j.num = n → j.ended = some v
  nums : ∀ j ∈ t.items.list, ∃ i ∈ c.items.list, i.num = j.num
  ends : t.items.ends = c.items.ends.modify v.status (· + 1)
  capture : ∀ k, (t.stream k).page = (c.stream k).page ∧ (t.stream k).closed = (c.stream k).closed
  waits : ∀ j ∈ t.items.list, j.num = n → t.streams = c.streams
  word : ∀ r i j, r.offEnd = true → (∀ k, r.addr i j ≠ Reg.addr .SNS_CREDIT k 0) → t.word r i j = c.word r i j

theorem Items.mem_verdicts {I : Items} {j : Item} (h : j ∈ I.list) : (j.num, j.ended) ∈ I.verdicts := List.mem_map_of_mem h

theorem NoEnd.mem {a b : Chip} (h : NoEnd a b) {j : Item} (hj : j ∈ b.items.list) :
    ∃ i ∈ a.items.list, i.num = j.num ∧ i.ended = j.ended := by
  have hm := Items.mem_verdicts hj
  rw [h.verdicts] at hm
  obtain ⟨i, hi, he⟩ := List.mem_map.1 hm
  exact ⟨i, hi, congrArg Prod.fst he, congrArg Prod.snd he⟩

theorem NoEnd.ended {a c t : Chip} {n : Nat} {v : Verdict} (h : NoEnd a c) (k : c.Ended t n v) : a.Ended t n v where
  toCore := h.toCore.trans k.toCore
  verdict := k.verdict
  nums := fun j hj => by
    obtain ⟨x, hx, hn⟩ := k.nums j hj
    obtain ⟨i, hi, he, _⟩ := h.mem hx
    exact ⟨i, hi, he.trans hn⟩
  ends := k.ends.trans (by rw [h.ends])
  capture := fun x => by
    rw [← Chip.stream_congr h.streams x]
    exact k.capture x
  waits := fun j hj hn => (k.waits j hj hn).trans h.streams
  word := fun r i j hr hc => (k.word r i j hr hc).trans (h.word r i j hr)

theorem Chip.Ended.creditReturn {c t : Chip} {n : Nat} {v : Verdict} (h : c.Ended t n v) {i : Item} (hi : t.item n = some i) :
    c.Ended (t.creditReturn n) n v := by
  have hr := t.creditReturn_returned hi
  have hgone : ∀ j ∈ (t.creditReturn n).items.list, j ∈ t.items.list ∧ j.num ≠ n := fun j hj => by
    rw [hr.list, List.mem_filter] at hj
    exact ⟨hj.1, of_decide_eq_true hj.2⟩
  exact {
    toCore := h.toCore.trans hr.toCore
    verdict := fun j hj hn => absurd hn (hgone j hj).2
    nums := fun j hj => h.nums j (hgone j hj).1
    ends := hr.ends.trans h.ends
    capture := fun k => ⟨(hr.capture k).1.trans (h.capture k).1, (hr.capture k).2.trans (h.capture k).2⟩
    waits := fun j hj hn => absurd hn (hgone j hj).2
    word := fun r i j ho hc => (hr.word r i j ho hc).trans (h.word r i j ho hc) }

theorem Chip.Ended.settle {c t : Chip} {n : Nat} {v : Verdict} (h : c.Ended t n v) : c.Ended t.settle n v where
  toCore := h.toCore.trans t.settle_admits.toCore
  verdict := fun j hj => h.verdict j (by rwa [t.settle_items] at hj)
  nums := fun j hj => h.nums j (by rwa [t.settle_items] at hj)
  ends := (congrArg Items.ends t.settle_items).trans h.ends
  capture := fun k => by
    rw [t.settle_stream]
    exact h.capture k
  waits := fun j hj hn => t.settle_streams.trans (h.waits j (by rwa [t.settle_items] at hj) hn)
  word := fun r i j hr hc => (t.settle_calm.word_apart i j (Reg.apart_of_offEnd hr (by decide))).trans (h.word r i j hr hc)

/-- The ledger takes the end of an item that has been given its verdict. -/
theorem Chip.Ended.of_noEnd {c d : Chip} {n : Nat} {v : Verdict} {f : Item → Item} {g : Items → Items}
    (h : NoEnd (c.modItem n f) d) (hf : ∀ i, (f i).num = i.num ∧ (f i).ended = some v)
    (hlist : (g d.items).list = d.items.list) (hends : (g d.items).ends = d.items.ends.modify v.status (· + 1)) :
    c.Ended (d.updItems g) n v := by
  have hmem : ∀ j ∈ (d.updItems g).items.list, ∃ i ∈ c.items.list, i.num = j.num ∧ (j.num = n → j.ended = some v) := by
    intro j hj
    obtain ⟨x, hx, hnum, hended⟩ := h.mem (hlist ▸ hj : j ∈ d.items.list)
    obtain ⟨i, hi, rfl⟩ := List.mem_map.1 hx
    by_cases hn : i.num = n
    · rw [if_pos hn] at hnum hended
      exact ⟨i, hi, (hf i).1.symm.trans hnum, fun _ => hended.symm.trans (hf i).2⟩
    · rw [if_neg hn] at hnum
      exact ⟨i, hi, hnum, fun h => absurd (hnum.trans h) hn⟩
  exact {
    toCore := ⟨h.image, h.clock, h.fuses, h.flash, h.boot, h.mgmt⟩
    verdict := fun j hj => (hmem j hj).choose_spec.2.2
    nums := fun j hj => have ⟨i, hi, hn, _⟩ := hmem j hj; ⟨i, hi, hn⟩
    ends := hends.trans (by rw [h.ends]; rfl)
    capture := fun k => by
      rw [show (d.updItems g).stream k = c.stream k from Chip.stream_congr h.streams k]
      exact ⟨rfl, rfl⟩
    waits := fun _ _ _ => h.streams
    word := fun r i j hr _ => h.word r i j hr }

theorem Chip.item_modItem {n : Nat} {i : Item} (hi : c.item n = some i) {f : Item → Item} (hf : ∀ i, (f i).num = i.num) :
    (c.modItem n f).item n = some (f i) := by
  have hn : i.num = n := of_decide_eq_true (List.find?_some (p := fun i : Item => decide (i.num = n)) hi)
  unfold Chip.item Chip.modItem Chip.updItems
  dsimp only
  have hcomp : (fun i : Item => decide (i.num = n)) ∘ (fun i => if i.num = n then f i else i) = fun i => decide (i.num = n) := by
    funext j
    dsimp only [Function.comp_apply]
    split
    · next h => rw [hf j]
    · rfl
  rw [List.find?_map, hcomp]
  unfold Chip.item at hi
  rw [hi, Option.map_some, if_pos hn]

theorem Chip.endCore_ended {n : Nat} {i : Item} (hi : c.item n = some i) (he : i.ended = none) (v : Verdict) :
    c.Ended (c.endCore n v) n v := by
  unfold Chip.endCore
  rw [hi]
  dsimp -zeta only
  rw [he, if_neg (by decide)]
  extract_lets op c1 c2 c3 c4
  have h2 : NoEnd c c2 := (c.formBegin_noEnd n).trans (c1.bump_noEnd _ _ _ _ (by decide))
  obtain ⟨i2, hi2, _⟩ := h2.item hi
  have hi3 : c3.item n = some _ := c2.item_modItem hi2 (fun _ => rfl)
  have h4 : NoEnd c3 c4 := by
    unfold c4
    split
    · exact NoEnd.refl c3
    · exact NoEnd.foldl (fun c k => c.formField_noEnd n k) _ _
  obtain ⟨i4, hi4, _⟩ := h4.item hi3
  rw [hi4]
  dsimp -zeta only
  extract_lets kinds c5
  have h5 : NoEnd c3 c5 := h4.trans (NoEnd.foldl_uncut (fun c d => c.form_noEnd i4 d 4 (endRec i4 v d kinds)) _ _)
  obtain ⟨i5, hi5, _⟩ := h5.item hi3
  rw [hi5]
  dsimp -zeta only
  extract_lets c6 mand wait c7 c8
  have h7 : NoEnd c3 c7 := (h5.trans (NoEnd.foldl_uncut (fun c d => c.giveSpool_noEnd d.sess d.left) _ _)).trans (c6.modItem_noEnd n)
  obtain ⟨i7, hi7, _⟩ := h7.item hi3
  have h8 : c.Ended c8 n v := h2.ended (Chip.Ended.of_noEnd h7 (fun _ => ⟨rfl, rfl⟩) rfl rfl)
  change c.Ended (if wait = [] then c8.creditReturn n else c8) n v
  split
  · exact h8.creditReturn (i := i7) hi7
  · exact h8

/-- The end of an item that has not ended (R9, R317, R365). -/
theorem Chip.endItem_ended {n : Nat} {i : Item} (hi : c.item n = some i) (he : i.ended = none) (v : Verdict) :
    c.Ended (c.endItem n v) n v := by
  unfold Chip.endItem
  rw [hi]
  dsimp -zeta only
  rw [he, if_neg (by decide)]
  extract_lets c1 c2 c3
  have h1 : NoEnd c c1 := by
    unfold c1
    split
    · exact c.bump_noEnd _ _ _ _ (by decide)
    · exact NoEnd.refl c
  have h3 : NoEnd c c3 := (h1.trans (c1.kvFreeItem_noEnd n)).trans (c2.writeSample_noEnd i v.status)
  have h := h3.trans (c3.modItem_noEnd n (f := fun i => { i with copies := [] }))
  obtain ⟨j, hj, hje⟩ := h.item hi
  exact h.ended (Chip.endCore_ended _ hj (hje.trans he) v)

end Sys2Proof.Machine
end

section
/-!
PROOFS. Bands and their ring buffers, retention copies, transport stops.
-/

namespace Sys2Proof.Machine

variable (c : Chip)

/-! ## Writes of the intake -/

theorem Chip.writeGran_memWork (g : Gran) (d : List Byte) : MemWork c (c.writeGran g d) := by
  unfold Chip.writeGran
  extract_lets n c1
  split
  · exact c.updMem_memWork _
  · exact ⟨rfl, fun _ _ _ _ => rfl⟩

theorem Chip.writeHandle_memWork (h : HRef) (d : List Byte) : MemWork c (c.writeHandle h d) := by
  refine MemWork.foldl (fun c e => ?_) _ c
  exact c.writeGran_memWork _ _

/-- The intake runs no step that a handle fault could end. -/
theorem Chip.intakeWrite_memWork (h : HRef) (d : List Byte) : MemWork c (c.intakeWrite h d) := by
  unfold Chip.intakeWrite
  split
  · exact (c.updMem_memWork _).trans (Chip.log_memWork _ 0x12 _ _)
  · exact c.writeHandle_memWork h d

theorem Chip.intakeWrite_passed {h : HRef} {d : List Byte} (hc : c.checkHandle ⟨.chip, none⟩ h true d.length = none) :
    c.intakeWrite h d = c.writeHandle h d := by
  unfold Chip.intakeWrite
  rw [hc]

theorem Chip.intakeCopy_passed {src dst : HRef} {n : Nat} (hs : c.checkHandle ⟨.chip, none⟩ src false n = none)
    (hd : c.checkHandle ⟨.chip, none⟩ dst true n = none) : c.intakeCopy src dst n = (c.carry (c.granPairs src dst n)).1 := by
  unfold Chip.intakeCopy
  dsimp only
  rw [hs, hd]

/-! ## A device whose link has served a band -/

/-- The device with other streams and other requests at hedged resources. -/
def Chip.withServed (streams : SMap Stream) (hedges : SMap HedgeRes) : Chip :=
  { c with streams := streams, mem := { c.mem with hedges := hedges } }

theorem Mem.writeGran_hedges (m : Mem) (hedges : SMap HedgeRes) (g : Gran) (d : List Byte) :
    ({ m with hedges := hedges } : Mem).writeGran g d = { m.writeGran g d with hedges := hedges } := by
  unfold Mem.writeGran Mem.markGran Mem.setNo Mem.byNo
  split
  · rfl
  · split
    · rfl
    · rfl

theorem Chip.writeGran_withServed (ss : SMap Stream) (hs : SMap HedgeRes) (g : Gran) (d : List Byte) :
    (c.withServed ss hs).writeGran g d = (c.writeGran g d).withServed ss hs := by
  have hm : ∀ l, (c.withServed ss hs).updMem (fun m => m.writeGran g l) = (c.updMem (fun m => m.writeGran g l)).withServed ss hs :=
    fun l => congrArg (fun m => { c with streams := ss, mem := m }) (c.mem.writeGran_hedges hs g l)
  unfold Chip.writeGran
  dsimp only
  rw [show (c.withServed ss hs).free = c.free from rfl, hm]
  split
  · rfl
  · rfl

/-- Bytes written go to the same places. -/
theorem Chip.writeHandle_withServed (ss : SMap Stream) (hs : SMap HedgeRes) (h : HRef) (d : List Byte) :
    (c.withServed ss hs).writeHandle h d = (c.writeHandle h d).withServed ss hs := by
  unfold Chip.writeHandle
  exact List.foldl_hom (fun c : Chip => c.withServed ss hs) (fun x e => Chip.writeGran_withServed x ss hs _ _)

theorem Chip.hedgeServe_modStream (n : Nat) (f : Stream → Stream) (x id : Nat) :
    (c.modStream n f).hedgeServe x id = ((c.hedgeServe x id).1.modStream n f, (c.hedgeServe x id).2) := rfl

theorem Chip.hedgeAsk_modStream (n : Nat) (f : Stream → Stream) (x id who m : Nat) :
    (c.modStream n f).hedgeAsk x id who m = (c.hedgeAsk x id who m).modStream n f := rfl

theorem Chip.modHedge_modStream (n : Nat) (f : Stream → Stream) (x : Nat) (g : HedgeRes → HedgeRes) :
    (c.modStream n f).modHedge x g = (c.modHedge x g).modStream n f := rfl

/-- A request at one resource does not look at the streams. -/
theorem Chip.hedgeOnce_modStream (n : Nat) (f : Stream → Stream) (who : Nat) (e : Nat × Nat) :
    (c.modStream n f).hedgeOnce who [e] = ((c.hedgeOnce who [e]).1.modStream n f, (c.hedgeOnce who [e]).2) := by
  simp only [Chip.hedgeOnce, Chip.hedgeServeAll, List.map_cons, List.map_nil, List.foldl_cons, List.foldl_nil,
    Chip.hedgeAsk_modStream, Chip.hedgeServe_modStream, Chip.modHedge_modStream]

/-! ## A band of a page past its end -/

/-- The request of the intake for a band at the chip-unit link (R359). -/
def Chip.askBand (c : Chip) (n : Nat) : Chip × Bool := c.hedgeOnce 16 [(4, ceilDiv (c.bandSize n) 64)]

/-- The lowest free buffer of a stream's ring. -/
def Chip.freeBuffer (c : Chip) (n : Nat) : Option Nat :=
  (List.range (c.ringCount n)).find? (fun k => !((c.stream n).ringUsed.any (fun e => e.2 = k)))

/-- One more band of a page of the stream is written. -/
def Stream.bandDone (cap : Capture) (s : Stream) : Stream :=
  let cap' := { cap with banded := cap.banded + 1 }
  if s.page = some cap then { s with page := some cap' }
  else { s with tail := s.tail.flatMap (fun x => if x = cap then
    (if cap.past && decide (128 * cap'.banded ≥ cap.lines.length) then [] else [cap']) else [x]) }

theorem Stream.bandDone_ringUsed (cap : Capture) (s : Stream) : (s.bandDone cap).ringUsed = s.ringUsed := by
  unfold Stream.bandDone
  dsimp only
  split
  · rfl
  · rfl

/-- The device once the link has served a band of the page. -/
def Chip.bandServed (c : Chip) (n : Nat) (cap : Capture) : Chip := (c.askBand n).1.modStream n (Stream.bandDone cap)

theorem Chip.bandDone_eq (n : Nat) (cap : Capture) : c.bandDone n cap = c.modStream n (Stream.bandDone cap) := rfl

theorem Chip.item_single {i : Item} (h : c.items.list = [i]) : c.item i.num = some i := by
  unfold Chip.item
  rw [h]
  exact List.find?_cons_of_pos (decide_eq_true rfl)

theorem Chip.modItem_single {i : Item} (h : c.items.list = [i]) (f : Item → Item) :
    (c.modItem i.num f).items.list = [f i] := by
  unfold Chip.modItem Chip.updItems
  dsimp only
  rw [h, List.map_singleton, if_pos rfl]

section
variable {c} {n : Nat} {cap : Capture} {i : Item}
  (hpage : (c.stream n).page = none) (htail : (c.stream n).tail = [cap]) (hitem : cap.item = some i.num)
  (hlist : c.items.list = [i]) (hended : i.ended = none) (hpast : cap.past = true) (hskew : cap.skew.isSome = true)
  (hlines : 128 * cap.banded < cap.lines.length)
include hpage htail hitem hlist hended hpast hskew hlines

theorem Chip.bandWritten_eq : c.bandWritten n cap.banded = if (c.askBand n).2
    then (c.bandServed n cap).putBand i cap.banded (Nat.min 128 (cap.lines.length - 128 * cap.banded))
      (c.bandOf n cap i cap.banded)
    else c := by
  have hready : c.bandReady n cap cap.banded = true := by
    obtain ⟨m, hm⟩ := Option.isSome_iff_exists.1 hskew
    unfold Chip.bandReady
    rw [hm]
    dsimp only
    rw [if_pos hpast]
    exact decide_eq_true hlines
  have hfind : ((c.stream n).tail ++ (c.stream n).page.toList).find?
      (fun x => x.item.isSome && x.banded = cap.banded && c.bandReady n x cap.banded) = some cap := by
    rw [hpage, htail]
    refine List.find?_cons_of_pos ?_
    simp [hitem, hready]
  have hbind : cap.item.bind c.item = some i := by
    rw [hitem]
    exact c.item_single hlist
  have hlast : bandLines cap.past cap.lines.length cap.banded = Nat.min 128 (cap.lines.length - 128 * cap.banded) := if_pos hpast
  have hserved : (c.bandDone n cap).hedgeOnce 16 [(4, ceilDiv (c.bandSize n) 64)] = (c.bandServed n cap, (c.askBand n).2) := by
    rw [Chip.bandDone_eq]
    exact c.hedgeOnce_modStream n (Stream.bandDone cap) 16 _
  unfold Chip.bandWritten
  dsimp only
  rw [hfind]
  dsimp only
  rw [hbind, hserved, hlast]
  dsimp only
  rw [hended]
  cases (c.askBand n).2
  · rfl
  · rfl

end

/-! ## Where a band goes -/

/-- One more band of an item. -/
def Item.addBand (b : Band) (i : Item) : Item := { i with bands := i.bands ++ [b] }

/-- A ring buffer in use for an item. -/
def Stream.useBuffer (num k : Nat) (s : Stream) : Stream := { s with ringUsed := s.ringUsed ++ [(num, k)] }

/-- The only item has one more band. -/
structure Chip.Banded (c t : Chip) (i : Item) (b : Band) : Prop extends c.Core t where
  list : t.items.list = [i.addBand b]

theorem Chip.Banded.settle {c t : Chip} {i : Item} {b : Band} (h : c.Banded t i b) : c.Banded t.settle i b where
  toCore := h.toCore.trans t.settle_admits.toCore
  list := (congrArg Items.list t.settle_items).trans h.list

theorem condCnt_has {n : Nat} (hn : n < 16) : Reg.has .COND_CNT n 0 = true := decide_eq_true ⟨hn, Nat.one_pos⟩

/-- No stream's credit lies at the address of its counters. -/
theorem condCnt_ne_credit (n k : Nat) : Reg.addr .COND_CNT n 0 ≠ Reg.addr .SNS_CREDIT k 0 := by
  simp only [Reg.addr, Reg.info]
  omega

theorem Chip.retSlot_only (o item : Nat) : (c.retSlot o item).1 = { c with streams := (c.retSlot o item).1.streams } := by
  unfold Chip.retSlot
  dsimp only
  split
  · rfl
  · rfl

theorem Chip.retSlot_ringUsed (o item n : Nat) : ((c.retSlot o item).1.stream n).ringUsed = (c.stream n).ringUsed := by
  unfold Chip.retSlot
  dsimp only
  split
  · rfl
  · rw [Chip.stream_modStream]
    split
    · next h => rw [h]
    · rfl

/-- A band is written to the retention area alone. -/
def Chip.retain (c : Chip) (n item idx : Nat) (data : List Byte) : Chip :=
  (c.retSlot n item).1.intakeWrite (c.retRef n (c.retSlot n item).2 idx) data

/-- Of the streams only the retention pages of one change. -/
theorem Chip.retain_spares (n item idx : Nat) (data : List Byte) : (c.retain n item idx data).items = c.items ∧
    c.Core (c.retain n item idx data) ∧ ((c.retain n item idx data).stream n).ringUsed = (c.stream n).ringUsed ∧
    ∀ r i j, r.offEnd = true → (c.retain n item idx data).word r i j = c.word r i j := by
  have hr := c.retSlot_only n item
  have hd : c.Core (c.retSlot n item).1 := by
    rw [hr]
    exact ⟨rfl, rfl, rfl, rfl, rfl, rfl⟩
  have hw : MemWork (c.retSlot n item).1 (c.retain n item idx data) := Chip.intakeWrite_memWork _ _ _
  have hitems : (c.retSlot n item).1.items = c.items := by rw [hr]
  refine ⟨hw.items.trans hitems, hd.trans hw.core,
    (congrArg Stream.ringUsed (Chip.stream_congr hw.streams n)).trans (c.retSlot_ringUsed n item n), fun r i j ho => ?_⟩
  rw [hw.word r i j ho, hr]
  rfl

theorem Chip.modItem_core (n : Nat) (f : Item → Item) : c.Core (c.modItem n f) := ⟨rfl, rfl, rfl, rfl, rfl, rfl⟩

section
variable {c} {n : Nat} {i : Item} (hn : n < 16) (ho : i.origin = n) (hlist : c.items.list = [i]) (idx cnt : Nat) (data : List Byte)
include hn ho

theorem Chip.putBand_some {k : Nat} (hk : c.freeBuffer n = some k) : c.putBand i idx cnt data =
    ((c.intakeWrite (c.ringRef n k) data).modStream n (Stream.useBuffer i.num k)).modItem i.num
      (Item.addBand (Band.fresh idx cnt (c.intakeWrite (c.ringRef n k) data).clock.now (some k))) := by
  subst ho
  have hsize : c.ringSize i.origin = c.ringCount i.origin := if_pos hn
  unfold Chip.freeBuffer at hk
  unfold Chip.putBand
  dsimp only
  rw [hsize, hk]
  rfl

theorem Chip.putBand_none (hk : c.freeBuffer n = none) : c.putBand i idx cnt data =
    if i.live then (c.bump F.COND_CNT_RING_FULL n).endItem i.num ⟨2, txt "no-band-buffer"⟩
    else ((c.bump F.COND_CNT_RING_FULL n).retain n i.num idx data).modItem i.num
      (Item.addBand (Band.fresh idx cnt ((c.bump F.COND_CNT_RING_FULL n).retain n i.num idx data).clock.now none)) := by
  subst ho
  have hsize : c.ringSize i.origin = c.ringCount i.origin := if_pos hn
  unfold Chip.freeBuffer at hk
  unfold Chip.putBand
  dsimp only
  rw [hsize, hk, if_pos hn]
  rfl

include hlist

/-- A free buffer takes the band (R161). -/
theorem Chip.putBand_buffered {k : Nat} (hk : c.freeBuffer n = some k)
    (hc : c.checkHandle ⟨.chip, none⟩ (c.ringRef n k) true data.length = none) :
    c.Banded (c.putBand i idx cnt data) i (Band.fresh idx cnt c.clock.now (some k)) ∧
    (c.putBand i idx cnt data).mem = (c.writeHandle (c.ringRef n k) data).mem ∧
    ((c.putBand i idx cnt data).stream n).ringUsed = (c.stream n).ringUsed ++ [(i.num, k)] := by
  have hw := c.intakeWrite_memWork (c.ringRef n k) data
  rw [Chip.putBand_some hn ho _ _ _ hk, hw.core.clock]
  rw [c.intakeWrite_passed hc] at hw ⊢
  refine ⟨⟨(hw.core.trans (Chip.modStream_admits _ n _).toCore).trans (Chip.modItem_core _ _ _),
    Chip.modItem_single (Chip.modStream _ n _) (hw.items ▸ hlist) _⟩, rfl, ?_⟩
  rw [← Chip.stream_congr hw.streams n]
  exact congrArg Stream.ringUsed (Chip.stream_modStream_self _ n (Stream.useBuffer i.num k))

/-- A band of a batch item that finds no buffer is counted and goes to retention only (R161, R162). -/
theorem Chip.putBand_retained (hk : c.freeBuffer n = none) (hlive : i.live = false) :
    c.Banded (c.putBand i idx cnt data) i (Band.fresh idx cnt c.clock.now none) ∧
    c.Counted (c.putBand i idx cnt data) F.COND_CNT_RING_FULL n ∧
    ((c.putBand i idx cnt data).stream n).ringUsed = (c.stream n).ringUsed := by
  obtain ⟨hitems, hcore, hring, hword⟩ := (c.bump F.COND_CNT_RING_FULL n).retain_spares n i.num idx data
  rw [Chip.putBand_none hn ho _ _ _ hk, if_neg (Bool.eq_false_iff.1 hlive), hcore.clock]
  refine ⟨⟨((c.put_admits _ _ n 0).toCore.trans hcore).trans (Chip.modItem_core _ _ _),
    Chip.modItem_single _ (hitems ▸ hlist) _⟩, ?_, hring⟩
  exact Chip.Counted.of_get (c.bump_counted F.COND_CNT_RING_FULL (condCnt_has hn) (by decide))
    (Chip.get_of_word F.COND_CNT_RING_FULL (hword _ _ _ (by decide)))

/-- A live item whose band finds no buffer ends (R162). -/
theorem Chip.putBand_late (hk : c.freeBuffer n = none) (hlive : i.live = true) (hended : i.ended = none) :
    (c.bump F.COND_CNT_RING_FULL n).Ended (c.putBand i idx cnt data) i.num ⟨2, txt "no-band-buffer"⟩ := by
  rw [Chip.putBand_none hn ho _ _ _ hk, if_pos hlive]
  exact (c.bump F.COND_CNT_RING_FULL n).endItem_ended (Chip.item_single _ hlist) hended _

end

/-- After the end of the only item an item that is left has its verdict. -/
theorem Chip.Ended.all {c t : Chip} {i : Item} {v : Verdict} (h : c.Ended t i.num v) (hlist : c.items.list = [i]) {j : Item}
    (hj : j ∈ t.items.list) : j.num = i.num ∧ j.ended = some v := by
  obtain ⟨x, hx, hn⟩ := h.nums j hj
  rw [hlist] at hx
  have hnum : j.num = i.num := by rw [← hn, List.mem_singleton.1 hx]
  exact ⟨hnum, h.verdict j hj hnum⟩

/-! ## A served band -/

/-- What a served band finds: the device but for its requests at the link and the pages of the stream. -/
structure Chip.ServedBand (c d : Chip) (n : Nat) : Prop where
  only : d = c.withServed d.streams d.mem.hedges
  ringUsed : (d.stream n).ringUsed = (c.stream n).ringUsed

theorem OnlyHedges.servedBand {c e : Chip} (h : OnlyHedges c e) {n : Nat} {f : Stream → Stream}
    (hf : ∀ x, (f x).ringUsed = x.ringUsed) : c.ServedBand (e.modStream n f) n where
  only := by
    rw [h.rest, h.mem]
    rfl
  ringUsed := by
    have hs : e.streams = c.streams := by rw [h.rest]
    rw [Chip.stream_modStream_self, hf, Chip.stream_congr hs]

theorem Chip.bandServed_served (c : Chip) (n : Nat) (cap : Capture) : c.ServedBand (c.bandServed n cap) n :=
  (c.hedgeOnce_onlyHedges 16 _).servedBand (Stream.bandDone_ringUsed cap)

section
variable {c d : Chip} {n : Nat} (h : c.ServedBand d n)
include h

theorem Chip.ServedBand.core : c.Core d := by
  rw [h.only]
  exact ⟨rfl, rfl, rfl, rfl, rfl, rfl⟩

theorem Chip.ServedBand.items : d.items = c.items := by
  rw [h.only]
  rfl

theorem Chip.ServedBand.get (f : Fld) (i : Nat) : d.get f i = c.get f i := by
  rw [h.only]
  rfl

theorem Chip.ServedBand.freeBuffer : d.freeBuffer n = c.freeBuffer n := by
  have hcount : d.ringCount n = c.ringCount n := congrArg (Nat.max 2) (h.get F.BAND_CFG_COUNT n)
  unfold Chip.freeBuffer
  rw [hcount, h.ringUsed]

theorem Chip.ServedBand.ringRef (k : Nat) : d.ringRef n k = c.ringRef n k := by
  rw [h.only]
  rfl

theorem Chip.ServedBand.checkHandle (who : Issuer) (r : HRef) (write : Bool) (len : Nat) :
    d.checkHandle who r write len = c.checkHandle who r write len := by
  rw [h.only]
  rfl

theorem Chip.ServedBand.writeHandle_mem (r : HRef) (data : List Byte) :
    (d.writeHandle r data).mem = { (c.writeHandle r data).mem with hedges := d.mem.hedges } := by
  rw [h.only, c.writeHandle_withServed]
  rfl

end

section
variable {c : Chip} {n : Nat} {cap : Capture} {i : Item} (hn : n < 16) (ho : i.origin = n) (hlist : c.items.list = [i])
  (idx cnt : Nat) {data : List Byte}
include hn ho hlist

/-- A served band takes the lowest free buffer (R161). -/
theorem Chip.putServed_buffered {k : Nat} (hk : c.freeBuffer n = some k)
    (hc : c.checkHandle ⟨.chip, none⟩ (c.ringRef n k) true data.length = none) :
    c.Banded ((c.bandServed n cap).putBand i idx cnt data) i (Band.fresh idx cnt c.clock.now (some k)) ∧
    ((c.bandServed n cap).putBand i idx cnt data).mem = { (c.writeHandle (c.ringRef n k) data).mem with
      hedges := ((c.bandServed n cap).putBand i idx cnt data).mem.hedges } ∧
    (((c.bandServed n cap).putBand i idx cnt data).stream n).ringUsed = (c.stream n).ringUsed ++ [(i.num, k)] := by
  have hd := c.bandServed_served n cap
  generalize c.bandServed n cap = d at hd ⊢
  rw [← hd.freeBuffer] at hk
  rw [← hd.checkHandle, ← hd.ringRef] at hc
  obtain ⟨hbanded, hmem, hring⟩ := Chip.putBand_buffered hn ho (hd.items ▸ hlist) idx cnt data hk hc
  rw [hd.core.clock] at hbanded
  rw [hd.ringRef, hd.writeHandle_mem] at hmem
  refine ⟨⟨hd.core.trans hbanded.toCore, hbanded.list⟩, ?_, hring.trans (by rw [hd.ringUsed])⟩
  rw [hmem]

theorem Chip.putServed_retained (hk : c.freeBuffer n = none) (hlive : i.live = false) :
    c.Banded ((c.bandServed n cap).putBand i idx cnt data) i (Band.fresh idx cnt c.clock.now none) ∧
    c.Counted ((c.bandServed n cap).putBand i idx cnt data) F.COND_CNT_RING_FULL n ∧
    (((c.bandServed n cap).putBand i idx cnt data).stream n).ringUsed = (c.stream n).ringUsed := by
  have hd := c.bandServed_served n cap
  generalize c.bandServed n cap = d at hd ⊢
  rw [← hd.freeBuffer] at hk
  obtain ⟨hbanded, hcount, hring⟩ := Chip.putBand_retained hn ho (hd.items ▸ hlist) idx cnt data hk hlive
  rw [hd.core.clock] at hbanded
  unfold Chip.Counted at hcount
  rw [hd.get] at hcount
  exact ⟨⟨hd.core.trans hbanded.toCore, hbanded.list⟩, hcount, hring.trans hd.ringUsed⟩

/-- The end of a live item whose served band finds no buffer (R162). -/
theorem Chip.putServed_late (hk : c.freeBuffer n = none) (hlive : i.live = true) (hended : i.ended = none) :
    ((c.bandServed n cap).bump F.COND_CNT_RING_FULL n).Ended ((c.bandServed n cap).putBand i idx cnt data) i.num
      ⟨2, txt "no-band-buffer"⟩ := by
  have hd := c.bandServed_served n cap
  generalize c.bandServed n cap = d at hd ⊢
  exact Chip.putBand_late hn ho (hd.items ▸ hlist) idx cnt data (hd.freeBuffer.trans hk) hlive hended

end

theorem Chip.bandServed_ends {c t : Chip} {n : Nat} {cap : Capture} {i : Item} {v : Verdict} (hn : n < 16)
    (hlist : c.items.list = [i]) (h : ((c.bandServed n cap).bump F.COND_CNT_RING_FULL n).Ended t i.num v) :
    c.Counted t F.COND_CNT_RING_FULL n ∧ (∀ j, j ∈ t.items.list → j.ended = some v) ∧
    t.items.ends = c.items.ends.modify v.status (· + 1) ∧ c.Core t := by
  have hd := c.bandServed_served n cap
  generalize c.bandServed n cap = d at hd h
  have hitems : (d.bump F.COND_CNT_RING_FULL n).items = c.items := hd.items
  have hcore := (hd.core.trans (d.put_admits F.COND_CNT_RING_FULL _ n 0).toCore).trans h.toCore
  refine ⟨?_, fun j hj => (h.all (hitems ▸ hlist) hj).2, hitems ▸ h.ends, hcore⟩
  unfold Chip.Counted
  rw [← hd.get]
  exact Chip.Counted.of_get (d.bump_counted F.COND_CNT_RING_FULL (condCnt_has hn) (by decide))
    (Chip.get_of_word F.COND_CNT_RING_FULL (h.word _ _ _ (by decide) (condCnt_ne_credit n)))

/-! ## Retention copies -/

theorem Chip.freeRing_held {i : Item} {b : Band} (hlist : c.items.list = [i]) (hb : i.bands = [b]) (hr : b.released = false)
    (hd : b.dropped = false) : (c.freeRing i.num).items.list = [i] ∧ (∀ j, (c.freeRing i.num).stream j = c.stream j) ∧
    (c.freeRing i.num).mem = c.mem ∧ c.Core (c.freeRing i.num) := by
  have hheld : (b.retained && (b.released || b.dropped)) = false := by rw [hr, hd, Bool.or_false, Bool.and_false]
  unfold Chip.freeRing
  rw [c.item_single hlist]
  dsimp only
  refine ⟨?_, fun j => ?_, rfl, ⟨rfl, rfl, rfl, rfl, rfl, rfl⟩⟩
  · refine (Chip.modItem_single _ hlist _).trans ?_
    rw [hb, List.map_singleton, if_neg (Bool.eq_false_iff.1 hheld), ← hb]
  · rw [Chip.stream_congr (Chip.modItem_streams _ _ _), Chip.stream_modStream]
    split
    · next h =>
      rw [h, hb]
      simp [hheld]
    · rfl

/-- The band of a number has its retention copy. -/
def Item.retain (idx : Nat) (i : Item) : Item :=
  { i with bands := i.bands.map (fun x => if x.idx = idx then { x with retained := true } else x) }

section
variable {c} {o k slot : Nat} {i : Item} {b : Band} (hlist : c.items.list = [i]) (ho : i.origin = o) (hb : i.bands = [b])
  (hk : b.buffer = some k) (hret : b.retained = false) (hslot : (c.stream o).retained = [(i.num, slot)])
  (hsrc : c.checkHandle ⟨.chip, none⟩ (c.ringRef o k) false (c.bandSize o) = none)
  (hdst : c.checkHandle ⟨.chip, none⟩ (c.retRef o slot b.idx) true (c.bandSize o) = none)
include hlist ho hb hk hret hslot hsrc hdst

theorem Chip.retentionDone_eq : c.retentionDone o i.num b.idx =
    ((c.carry (c.granPairs (c.ringRef o k) (c.retRef o slot b.idx) (c.bandSize o))).1.modItem i.num (Item.retain b.idx)).freeRing
      i.num := by
  have hplace : c.retSlot o i.num = (c, slot) := by
    unfold Chip.retSlot
    simp [hslot]
  have hfind : i.bands.find? (fun x => x.idx = b.idx) = some b := by
    rw [hb]
    exact List.find?_cons_of_pos (decide_eq_true rfl)
  unfold Chip.retentionDone
  rw [c.item_single hlist]
  dsimp only
  rw [hfind]
  dsimp only
  rw [hk]
  dsimp only
  rw [if_neg (by simp [ho, hret]), hplace]
  dsimp only
  rw [c.intakeCopy_passed hsrc hdst]
  rfl

/-- A retention copy of the only band (R161). -/
theorem Chip.retentionDone_copied (hr : b.released = false) (hd : b.dropped = false) :
    (c.retentionDone o i.num b.idx).items.list = [{ i with bands := [{ b with retained := true }] }] ∧
    (∀ j, (c.retentionDone o i.num b.idx).stream j = c.stream j) ∧
    (c.retentionDone o i.num b.idx).mem = (c.carry (c.granPairs (c.ringRef o k) (c.retRef o slot b.idx) (c.bandSize o))).1.mem ∧
    c.Core (c.retentionDone o i.num b.idx) := by
  have hdone := Chip.retentionDone_eq hlist ho hb hk hret hslot hsrc hdst
  have hw := c.carry_memWork (c.granPairs (c.ringRef o k) (c.retRef o slot b.idx) (c.bandSize o))
  generalize (c.carry (c.granPairs (c.ringRef o k) (c.retRef o slot b.idx) (c.bandSize o))).1 = d at hw hdone ⊢
  have hmod := d.modItem_single (hw.items ▸ hlist) (Item.retain b.idx)
  have hone : i.retain b.idx = { i with bands := [{ b with retained := true }] } := by
    unfold Item.retain
    rw [hb, List.map_singleton, if_pos rfl]
  rw [hone] at hmod
  obtain ⟨hl, hs, hm, hc⟩ := Chip.freeRing_held _ hmod rfl hr hd
  rw [hdone]
  exact ⟨hl, fun j => (hs j).trans (Chip.stream_congr hw.streams j), hm, (hw.core.trans (d.modItem_core _ _)).trans hc⟩

end

/-! ## Transport stops -/

/-- The page in capture of a stream ends with its transport; its lines are kept while its item is (R118). -/
def Stream.stop (cap : Capture) (s : Stream) : Stream :=
  { s with page := none, closed := true, run := 0, kept := s.kept ++ [cap] }

theorem Chip.transportStop_idle {k : Nat} (h : ∀ j, j = 2 * k ∨ j = 2 * k + 1 → (c.stream j).page = none) :
    c.transportStop k = c := by
  have hnone : [2 * k, 2 * k + 1].filter (fun n => (c.stream n).page.isSome) = [] := by
    simp [h (2 * k) (.inl rfl), h (2 * k + 1) (.inr rfl)]
  unfold Chip.transportStop
  dsimp only
  rw [hnone]
  rfl

/-- Of the two streams of a transport one alone has a page in capture. -/
theorem Chip.transportStop_single {k n : Nat} {cap : Capture} {num : Nat} (hk : n / 2 = k)
    (hother : (c.stream (if n % 2 = 0 then n + 1 else n - 1)).page = none) (hpage : (c.stream n).page = some cap)
    (hitem : cap.item = some num) :
    c.transportStop k = (c.modStream n (Stream.stop cap)).endItem num ⟨3, txt "transport-stop"⟩ := by
  have hcap : [2 * k, 2 * k + 1].filter (fun n => (c.stream n).page.isSome) = [n] := by
    rcases Nat.mod_two_eq_zero_or_one n with h | h
    · have h0 : 2 * k = n := by omega
      rw [if_pos h] at hother
      rw [h0]
      simp [hpage, hother]
    · have h1 : 2 * k + 1 = n := by omega
      have h0 : 2 * k = n - 1 := by omega
      rw [if_neg (by omega)] at hother
      rw [h1, h0]
      simp [hpage, hother]
  unfold Chip.transportStop
  dsimp only
  rw [hcap]
  simp only [List.all_cons, List.all_nil, Nat.le_refl, decide_true, Bool.and_self, List.filter_cons_of_pos, List.filter_nil,
    List.foldl_cons, List.foldl_nil, hpage, hitem, Option.bind_some, Option.filter_some, Option.isSome_some, if_true,
    Option.toList_some]
  rfl

/-! ## The obligation -/

theorem exec_bandWritten_up (s : State) (n : Fin 16) (band : Nat) (hup : s.chip.Up) {d : Chip}
    (h : s.chip.bandWritten n.val band = d) : exec (.bandWritten n band) s = .next ⟨s.pending, d.settle⟩ := by
  simp only [exec_bandWritten, Chip.serving_eq _ hup.1 hup.2, h]

theorem exec_retentionCopyDone_up (s : State) (o : Fin 48) (item band : Nat) (hup : s.chip.Up) :
    exec (.retentionCopyDone o item band) s = .next ⟨s.pending, (s.chip.retentionDone o.val item band).settle⟩ := by
  simp only [exec_retentionCopyDone, Chip.serving_eq _ hup.1 hup.2]

theorem exec_transportStop_up (s : State) (k : Fin 8) (hup : s.chip.Up) {d : Chip} (h : s.chip.transportStop k.val = d) :
    exec (.transportStop k) s = .next ⟨s.pending, d.settle⟩ := by
  simp only [exec_transportStop, Chip.serving_eq _ hup.1 hup.2, h]

/-- Settles O36: a served band in a buffer, in retention alone, or with the end of its item; the copy of a band; the end of the
page in capture with that of its item. -/
theorem bandsAndStops : Obligations.BandsAndStops := by
  unfold Obligations.BandsAndStops
  intro s n hup c x
  refine ⟨fun cap num i hpage htail hitem hnum horigin hlist hended hpast hskew hlines => ?_,
    fun o i b k slot hlist horigin hb hk hr hd hret hslot => ?_, fun k hnone => ?_,
    fun k cap i hk hother hpage hitem hlist hended => ?_⟩
  · intro b band data free served
    subst hnum
    have hdone := Chip.bandWritten_eq hpage htail hitem hlist hended hpast hskew hlines
    have hput : served = true → exec (.bandWritten n b) s = .next ⟨s.pending, ((c.bandServed n.val cap).putBand i b
        (Nat.min 128 (cap.lines.length - 128 * b)) data).settle⟩ :=
      fun h => exec_bandWritten_up s n b hup (hdone.trans (if_pos h))
    refine ⟨fun h => ?_, fun k h hk hcheck => ?_, fun h hk hlive => ?_, fun h hk hlive => ?_⟩
    · exact exec_bandWritten_up s n b hup (hdone.trans (if_neg (Bool.eq_false_iff.1 h)))
    · obtain ⟨hbanded, hmem, hring⟩ := Chip.putServed_buffered (cap := cap) n.isLt horigin hlist b
        (Nat.min 128 (cap.lines.length - 128 * b)) hk hcheck
      exact ⟨_, hput h, rfl, hbanded.settle.list, (congrArg Stream.ringUsed (Chip.settle_stream _ _)).trans hring,
        (Chip.settle_mem _).trans (hmem.trans (by rw [Chip.settle_mem])), hbanded.settle.toCore⟩
    · obtain ⟨hbanded, hcount, hring⟩ := Chip.putServed_retained (cap := cap) n.isLt horigin hlist b
        (Nat.min 128 (cap.lines.length - 128 * b)) (data := data) hk hlive
      exact ⟨_, hput h, rfl, hcount.of_get ((Chip.settle_calm _).get_apart (by decide)), hbanded.settle.list,
        (congrArg Stream.ringUsed (Chip.settle_stream _ _)).trans hring, hbanded.settle.toCore⟩
    · have hlate := Chip.putServed_late (cap := cap) n.isLt horigin hlist b (Nat.min 128 (cap.lines.length - 128 * b))
        (data := data) hk hlive hended
      exact ⟨_, hput h, rfl, Chip.bandServed_ends n.isLt hlist hlate.settle⟩
  · intro src dst hsrc hdst
    obtain ⟨hl, hs, hm, hcore⟩ := Chip.retentionDone_copied hlist horigin hb hk hret hslot hsrc hdst hr hd
    exact ⟨_, exec_retentionCopyDone_up s o i.num b.idx hup, rfl, (congrArg Items.list (Chip.settle_items _)).trans hl,
      fun j => (Chip.settle_stream _ j).trans (hs j), (Chip.settle_mem _).trans hm, hcore.trans (Chip.settle_admits _).toCore⟩
  · exact exec_transportStop_up s k hup (Chip.transportStop_idle _ hnone)
  · have hexec := exec_transportStop_up s k hup (Chip.transportStop_single _ hk hother hpage hitem)
    have hend := ((c.modStream n.val (Stream.stop cap)).endItem_ended (Chip.item_single _ hlist) hended
      ⟨3, txt "transport-stop"⟩).settle
    have hstop := c.stream_modStream_self n.val (Stream.stop cap)
    obtain ⟨hpage', hclosed⟩ := hend.capture n.val
    rw [hstop] at hpage' hclosed
    refine ⟨_, hexec, rfl, hpage', hclosed, fun j hj => ?_, hend.ends, (c.modStream_admits n.val _).toCore.trans hend.toCore⟩
    obtain ⟨hj', hv⟩ := hend.all hlist hj
    exact ⟨hv, congrArg Stream.kept ((Chip.stream_congr (hend.waits j hj hj') n.val).trans hstop)⟩

end Sys2Proof.Machine
end

section
/-!
PROOFS. What the admission and the end of an item leave alone: edits of the key-value cache, records formed for sessions, spool
reservations, and of a submission everything but its credits.
-/

namespace Sys2Proof.Machine

/-! ## Work on the key-value cache -/

/-- From `a` to `b` nothing but the cache changes, with its registers, its pages, its owners' slots and the log. -/
structure KvWork (a b : Chip) : Prop where
  only : b = { a with
    regs := b.regs, free := b.free, mem := b.mem, items := { a.items with list := b.items.list }, kv := b.kv, adapt := b.adapt }

theorem KvWork.refl (a : Chip) : KvWork a a := ⟨rfl⟩

theorem KvWork.trans {a b c : Chip} (h : KvWork a b) (k : KvWork b c) : KvWork a c := ⟨k.only.trans (by rw [h.only])⟩

theorem MemWork.kvWork {a b : Chip} (h : MemWork a b) : KvWork a b := ⟨by rw [h.only]⟩

theorem KvWork.subs {a b : Chip} (h : KvWork a b) : b.subs = a.subs := by rw [h.only]

variable (c : Chip)

theorem Chip.updKv_kvWork (f : Kv → Kv) : KvWork c (c.updKv f) := ⟨rfl⟩

theorem Chip.modKvSlot_kvWork (q : Nat) (f : KvSlot → KvSlot) : KvWork c (c.modKvSlot q f) := ⟨rfl⟩

theorem Chip.adapt_kvWork (a : Adapt) : KvWork c { c with adapt := a } := ⟨rfl⟩

theorem Chip.modItem_kvWork (n : Nat) (f : Item → Item) : KvWork c (c.modItem n f) := ⟨rfl⟩

theorem Chip.put_kvWork (f : Fld) (v i j : Nat) : KvWork c (c.put f v i j) := ⟨rfl⟩

theorem Chip.bump_kvWork (f : Fld) (i j n : Nat) : KvWork c (c.bump f i j n) := ⟨rfl⟩

theorem Chip.showKv_kvWork : KvWork c c.showKv := by
  unfold Chip.showKv
  extract_lets inPool limbo ovf c1 c2 c3 c4
  exact ((((c.put_kvWork _ _ _ _).trans (c1.put_kvWork _ _ _ _)).trans (c2.put_kvWork _ _ _ _)).trans
    (c3.put_kvWork _ _ _ _)).trans (c4.put_kvWork _ _ _ _)

theorem Chip.kvPublish_kvWork (q : Nat) (new : List (BitVec 32)) : KvWork c (c.kvPublish q new) := by
  unfold Chip.kvPublish Chip.kvRecount
  exact ((((c.modKvSlot_kvWork _ _).trans (Chip.updKv_kvWork _ _)).trans (Chip.showKv_kvWork _)).trans
    (Chip.updKv_kvWork _ _)).trans (Chip.showKv_kvWork _)

theorem Chip.kvAlloc_kvWork {lcWork : Bool} {pages : Nat} {d : Chip} {k : KvSet} (h : c.kvAlloc lcWork pages = some (d, k)) :
    KvWork c d := by
  rw [c.kvAlloc_some h]
  exact (c.updKv_kvWork _).trans (Chip.showKv_kvWork _)

theorem Chip.kvTake_kvWork (n : Nat) : KvWork c (c.kvTake n).1 := by
  unfold Chip.kvTake
  split
  · exact KvWork.refl c
  · split
    · exact KvWork.refl c
    · split
      · exact KvWork.refl c
      · exact ⟨rfl⟩

theorem Chip.kvTakeTrain_kvWork (set : Nat) : KvWork c (c.kvTakeTrain set).1 := by
  unfold Chip.kvTakeTrain
  split
  · exact KvWork.refl c
  · split
    · exact KvWork.refl c
    · exact ⟨rfl⟩

/-- One more page set for a slot, where there is room and a free run. -/
theorem Chip.kvGrow_kvWork {q : Nat} {lcWork : Bool} {l : Nat} {f g : KvSlot → KvSlot} {p : Prop} [Decidable p]
    {new : KvSet → List (BitVec 32)} :
    KvWork c (if p then c else match c.kvAlloc lcWork l with
      | none => c.modKvSlot q f
      | some (d, x) => (d.modKvSlot q g).kvPublish q (new x)) := by
  split
  · exact KvWork.refl c
  · split
    · exact c.modKvSlot_kvWork q f
    · next ha => exact (c.kvAlloc_kvWork ha).trans ((Chip.modKvSlot_kvWork _ q g).trans (Chip.kvPublish_kvWork _ q _))

/-- Page sets taken one after another. -/
theorem KvWork.foldl_fst {α β : Type} {g : Chip × α → β → Chip × α} (hg : ∀ a x, KvWork a.1 (g a x).1) (l : List β)
    (a : Chip × α) : KvWork a.1 (l.foldl g a).1 := by
  induction l generalizing a with
  | nil => exact KvWork.refl a.1
  | cons x l ih => exact (hg a x).trans (ih _)

theorem Chip.kvEdit_kvWork (e : KvEdit) : KvWork c (c.kvEdit e) := by
  cases e with
  | train k =>
    have ht := c.kvTakeTrain_kvWork k.val
    unfold Chip.kvEdit
    dsimp only
    split
    · next he => rwa [he] at ht
    · next he =>
      rw [he] at ht
      exact ht.trans (Chip.kvGrow_kvWork _)
  | trainEnd k =>
    unfold Chip.kvEdit
    dsimp only
    split
    · exact KvWork.refl c
    · exact ((c.adapt_kvWork _).trans (Chip.kvPublish_kvWork _ _ _)).trans (Chip.modKvSlot_kvWork _ _ _)
  | append n ov =>
    have ht := c.kvTake_kvWork n
    unfold Chip.kvEdit
    dsimp only
    split
    · next he => rwa [he] at ht
    · next he =>
      rw [he] at ht
      exact ht.trans (Chip.kvGrow_kvWork _)
  | attach n a pos =>
    have ht := c.kvTake_kvWork n
    unfold Chip.kvEdit
    dsimp only
    split
    · next he => rwa [he] at ht
    · next he =>
      rw [he] at ht
      refine ht.trans ?_
      split_ifs
      · exact KvWork.refl _
      · exact Chip.kvPublish_kvWork _ _ _
      · split
        · next ha _ =>
          refine ((Chip.kvAlloc_kvWork _ ha).trans ?_).trans (Chip.kvPublish_kvWork _ _ _)
          split
          · exact (Chip.carry_memWork _ _).kvWork
          · exact KvWork.refl _
        · exact Chip.modKvSlot_kvWork _ _ _
  | release n j =>
    unfold Chip.kvEdit
    dsimp only
    split
    · exact KvWork.refl c
    · exact c.kvPublish_kvWork _ _
  | anchor q k =>
    unfold Chip.kvEdit
    dsimp only
    split
    · exact KvWork.refl c
    · refine ((c.modKvSlot_kvWork _ _).trans (KvWork.foldl_fst (fun a x => ?_) _ (_, []))).trans (Chip.kvPublish_kvWork _ _ _)
      split
      · next ha => exact a.1.kvAlloc_kvWork ha
      · exact KvWork.refl a.1
  | clear q =>
    unfold Chip.kvEdit
    dsimp only
    split
    · exact KvWork.refl c
    · exact (c.kvPublish_kvWork _ _).trans (Chip.modKvSlot_kvWork _ _ _)

theorem kvDrain_kvWork (fuel : Nat) : KvWork c (kvDrain fuel c) := by
  induction fuel generalizing c with
  | zero => exact KvWork.refl c
  | succ fuel ih =>
    unfold kvDrain
    split
    · exact KvWork.refl c
    · split_ifs
      · exact KvWork.refl c
      · exact KvWork.refl c
      · exact (c.bump_kvWork _ _ _ _).trans (Chip.updKv_kvWork _ _)
      · exact ((c.updKv_kvWork _).trans (Chip.kvEdit_kvWork _ _)).trans (ih _)

theorem Chip.kvFreeItem_kvWork (n : Nat) : KvWork c (c.kvFreeItem n) := by
  unfold Chip.kvFreeItem Chip.kvTableEdit Chip.kvRun
  split
  · exact KvWork.refl c
  · exact (((c.updKv_kvWork _).trans (Chip.modItem_kvWork _ n _)).trans (Chip.updKv_kvWork _ _)).trans (kvDrain_kvWork _ _)

/-- An item that has no table slot leaves the cache. -/
theorem Chip.kvFreeItem_none {n : Nat} (h : (c.item n).bind (·.kvSlot) = none) : c.kvFreeItem n = c := by
  unfold Chip.kvFreeItem
  rw [h]

/-! ## Records formed for sessions -/

/-- From `a` to `b` records are formed, for the items that there are: their numbers, the memories, the submissions stay. -/
structure FormWork (a b : Chip) : Prop where
  only : b = { a with
    regs := b.regs, formed := b.formed, sessions := b.sessions
    items := { b.items with next := a.items.next, created := a.items.created } }

theorem FormWork.refl (a : Chip) : FormWork a a := ⟨rfl⟩

theorem FormWork.trans {a b c : Chip} (h : FormWork a b) (k : FormWork b c) : FormWork a c := ⟨k.only.trans (by rw [h.only])⟩

theorem FormWork.foldl {β : Type} {g : Chip → β → Chip} (hg : ∀ c x, FormWork c (g c x)) (l : List β) (c : Chip) :
    FormWork c (l.foldl g c) := by
  induction l generalizing c with
  | nil => exact FormWork.refl c
  | cons x l ih => exact (hg c x).trans (ih _)

/-- Work for those deliveries that are not cut. -/
theorem FormWork.foldl_uncut {g : Chip → Deliv → Chip} (hg : ∀ c d, FormWork c (g c d)) (l : List Deliv) (c : Chip) :
    FormWork c (l.foldl (fun c d => if d.cut then c else g c d) c) := by
  refine FormWork.foldl (fun c d => ?_) l c
  split
  · exact FormWork.refl c
  · exact hg c d

theorem Chip.form_formWork (i : Item) (d : Deliv) (kind : Nat) (bytes : List Byte) : FormWork c (c.form i d kind bytes) := ⟨rfl⟩

theorem Chip.formBegin_formWork (n : Nat) : FormWork c (c.formBegin n) := by
  unfold Chip.formBegin
  split
  · exact FormWork.refl c
  · next i _ =>
    split
    · exact FormWork.refl c
    · exact (⟨rfl⟩ : FormWork c (c.modItem n _)).trans
        (FormWork.foldl_uncut (fun c d => c.form_formWork i d 1 (beginRec i d.cls)) _ _)

theorem Chip.formField_formWork (n k : Nat) : FormWork c (c.formField n k) := by
  unfold Chip.formField
  split
  · exact FormWork.refl c
  · split
    · exact FormWork.refl c
    · dsimp only
      refine FormWork.foldl (fun c d => ?_) _ c
      split_ifs
      · exact FormWork.refl c
      · exact c.form_formWork _ _ _ _
      · exact ⟨rfl⟩

/-! ## Spool -/

/-- From `a` to `b` sessions change, with what shows their spool. -/
structure SpoolWork (a b : Chip) : Prop where
  only : b = { a with regs := b.regs, sessions := b.sessions }
  word : ∀ r i j, Reg.apart .SESS_SPOOL r = true → Reg.apart .SESS_CNT1 r = true → b.word r i j = a.word r i j

theorem SpoolWork.refl (a : Chip) : SpoolWork a a := ⟨rfl, fun _ _ _ _ _ => rfl⟩

theorem SpoolWork.trans {a b c : Chip} (h : SpoolWork a b) (k : SpoolWork b c) : SpoolWork a c where
  only := k.only.trans (by rw [h.only])
  word := fun r i j hs hc => (k.word r i j hs hc).trans (h.word r i j hs hc)

theorem SpoolWork.foldl {β : Type} {g : Chip → β → Chip} (hg : ∀ c x, SpoolWork c (g c x)) (l : List β) (c : Chip) :
    SpoolWork c (l.foldl g c) := by
  induction l generalizing c with
  | nil => exact SpoolWork.refl c
  | cons x l ih => exact (hg c x).trans (ih _)

/-- Work that carries a further value along. -/
theorem SpoolWork.foldl_fst {α β : Type} {g : Chip × α → β → Chip × α} (hg : ∀ a x, SpoolWork a.1 (g a x).1) (l : List β)
    (a : Chip × α) : SpoolWork a.1 (l.foldl g a).1 := by
  induction l generalizing a with
  | nil => exact SpoolWork.refl a.1
  | cons x l ih => exact (hg a x).trans (ih _)

theorem SpoolWork.items {a b : Chip} (h : SpoolWork a b) : b.items = a.items := by rw [h.only]

theorem SpoolWork.mem {a b : Chip} (h : SpoolWork a b) : b.mem = a.mem := by rw [h.only]

theorem SpoolWork.core {a b : Chip} (h : SpoolWork a b) : a.Core b := by
  rw [h.only]
  exact ⟨rfl, rfl, rfl, rfl, rfl, rfl⟩

theorem SpoolWork.formWork {a b : Chip} (h : SpoolWork a b) : FormWork a b := ⟨by rw [h.only]⟩

theorem Chip.modSess_spoolWork (s : Nat) (f : Session → Session) : SpoolWork c (c.modSess s f) := ⟨rfl, fun _ _ _ _ _ => rfl⟩

theorem Chip.putSpool_spoolWork (f : Fld) (v i : Nat) (hf : f.reg = .SESS_SPOOL) : SpoolWork c (c.put f v i) :=
  ⟨rfl, fun _ _ _ hs _ => c.word_setWord_apart _ _ _ _ _ (hf ▸ hs)⟩

theorem Chip.bumpSess_spoolWork (f : Fld) (i : Nat) (hf : f.reg = .SESS_CNT1) : SpoolWork c (c.bump f i) :=
  ⟨rfl, fun _ _ _ _ hc => c.word_setWord_apart _ _ _ _ _ (hf ▸ hc)⟩

theorem Chip.showSpool_spoolWork (s : Nat) : SpoolWork c (c.showSpool s) := by
  unfold Chip.showSpool
  split
  · extract_lets x c1 y
    have h : SpoolWork c c1 := by
      unfold c1
      split
      · exact c.modSess_spoolWork _ _
      · exact SpoolWork.refl c
    exact (h.trans (c1.putSpool_spoolWork _ _ _ rfl)).trans (Chip.putSpool_spoolWork _ _ _ _ rfl)
  · exact SpoolWork.refl c

/-- Held spool of a session changes and is shown. -/
theorem Chip.hold_spoolWork (s : Nat) (f : Session → Session) : SpoolWork c ((c.modSess s f).showSpool s) :=
  (c.modSess_spoolWork s f).trans (Chip.showSpool_spoolWork _ s)

theorem Chip.addGaps_spoolWork (s o item : Nat) (why : List Byte) : SpoolWork c (c.addGaps s o item why) := by
  unfold Chip.addGaps
  exact SpoolWork.foldl (fun c k => c.modSess_spoolWork s _) _ c

theorem Chip.reserve_spoolWork (d : Deliv) (o item : Nat) : SpoolWork c (c.reserve d o item).1 := by
  unfold Chip.reserve
  dsimp only
  split_ifs
  · exact c.addGaps_spoolWork _ _ _ _
  · exact c.hold_spoolWork _ _
  · exact c.addGaps_spoolWork _ _ _ _
  · exact (c.bumpSess_spoolWork F.SESS_CNT1_OVERDRAW _ rfl).trans (Chip.hold_spoolWork _ _ _)
  · exact (c.addGaps_spoolWork _ _ _ _).trans (Chip.bumpSess_spoolWork _ F.SESS_CNT1_ABANDON _ rfl)

theorem Chip.fixSessions_spoolWork (o item : Nat) : SpoolWork c (c.fixSessions o item).1 := by
  unfold Chip.fixSessions
  refine SpoolWork.foldl_fst (fun a s => ?_) _ (c, [])
  split
  · exact SpoolWork.refl a.1
  · next d _ =>
    have h := a.1.reserve_spoolWork d o item
    dsimp only
    split
    · exact h
    · exact h

/-! ## The end of an item -/

/-- A submission but for its credits. -/
def Subm.bare (y : Subm) : Subm := { y with free := 0, granted := 0 }

section
variable {y z : Subm} (h : y.bare = z.bare)
include h

theorem Subm.item_of_bare : y.item = z.item := by
  injection h

theorem Subm.need_of_bare : y.need = z.need := by
  injection h

theorem Subm.skipAll_of_bare : y.skipAll = z.skipAll := by
  injection h

end

/-- From `a` to `b` memories, the numbers of items, and the submissions but for their credits stay. -/
structure SameBooks (a b : Chip) : Prop where
  mem : b.mem = a.mem
  next : b.items.next = a.items.next
  created : b.items.created = a.items.created
  subm : ∀ x, (b.subm x).bare = (a.subm x).bare

theorem SameBooks.refl (a : Chip) : SameBooks a a := ⟨rfl, rfl, rfl, fun _ => rfl⟩

theorem SameBooks.trans {a b c : Chip} (h : SameBooks a b) (k : SameBooks b c) : SameBooks a c :=
  ⟨k.mem.trans h.mem, k.next.trans h.next, k.created.trans h.created, fun x => (k.subm x).trans (h.subm x)⟩

theorem Chip.subm_congr {a b : Chip} (h : b.subs = a.subs) (x : Nat) : b.subm x = a.subm x := by
  unfold Chip.subm
  rw [h]

theorem FormWork.sameBooks {a b : Chip} (h : FormWork a b) : SameBooks a b := by
  rw [h.only]
  exact ⟨rfl, rfl, rfl, fun _ => rfl⟩

theorem Settles.sameBooks {a b : Chip} (h : Settles a b) : SameBooks a b :=
  ⟨h.mem, by rw [h.items], by rw [h.items], fun x => congrArg (fun y : Subm => { y with free := 0 }) (h.subm x)⟩

/-- A credit of a submission is written. -/
theorem Chip.modSubm_sameBooks (s : Nat) {f : Subm → Subm} (hf : ∀ y, (f y).bare = y.bare) : SameBooks c (c.modSubm s f) := by
  refine ⟨rfl, rfl, rfl, fun x => ?_⟩
  rw [Chip.subm_modSubm]
  split
  · next h => rw [h, hf]
  · rfl

theorem Chip.modItem_sameBooks (n : Nat) (f : Item → Item) : SameBooks c (c.modItem n f) := ⟨rfl, rfl, rfl, fun _ => rfl⟩

theorem Chip.creditReturn_sameBooks (n : Nat) : SameBooks c (c.creditReturn n) := by
  unfold Chip.creditReturn
  split
  · exact SameBooks.refl c
  · extract_lets c1 c2 c3 s c4
    have h3 : SameBooks c c3 := ⟨rfl, rfl, rfl, fun _ => rfl⟩
    have h4 : SameBooks c c4 := by
      unfold c4
      split
      · exact h3.trans (c3.modSubm_sameBooks s (fun _ => rfl))
      · exact h3
    clear_value c3 c4
    split_ifs
    · exact h3.trans ⟨rfl, rfl, rfl, fun _ => rfl⟩
    · exact h3.trans ⟨rfl, rfl, rfl, fun _ => rfl⟩
    · exact h3
    · exact h4.trans (c4.grant_settles s).sameBooks

theorem Chip.endCore_sameBooks (n : Nat) (v : Verdict) : SameBooks c (c.endCore n v) := by
  unfold Chip.endCore
  split
  · exact SameBooks.refl c
  · split
    · exact SameBooks.refl c
    · extract_lets op c1 c2 c3 c4
      have h3 : FormWork c c3 := (c.formBegin_formWork n).trans ⟨rfl⟩
      have h4 : FormWork c c4 := by
        unfold c4
        split
        · exact h3
        · exact h3.trans (FormWork.foldl (fun c k => c.formField_formWork n k) _ c3)
      clear_value c4
      split
      · exact h4.sameBooks
      · next i _ =>
        extract_lets kinds c5
        have h5 : FormWork c c5 :=
          h4.trans (FormWork.foldl_uncut (fun c d => c.form_formWork i d 4 (endRec i v d kinds)) _ c4)
        clear_value c5
        split
        · exact h5.sameBooks
        · extract_lets c6 mand wait c7 c8
          have h6 : FormWork c c6 :=
            h5.trans (FormWork.foldl_uncut (fun c d => (c.hold_spoolWork d.sess _).formWork) _ c5)
          have h8 : FormWork c c8 := h6.trans ⟨rfl⟩
          clear_value c8
          split
          · exact h8.sameBooks.trans (c8.creditReturn_sameBooks n)
          · exact h8.sameBooks

theorem Chip.writeSample_subs (i : Item) (status : Nat) : (c.writeSample i status).subs = c.subs := by
  unfold Chip.writeSample
  dsimp only
  split
  · rfl
  · rfl

/-- The end of an item returns credits, and leaves the rest of every submission. -/
theorem Chip.endItem_subm (n : Nat) (v : Verdict) (x : Nat) : ((c.endItem n v).subm x).bare = (c.subm x).bare := by
  unfold Chip.endItem
  split
  · rfl
  · next i _ =>
    split
    · rfl
    · extract_lets c1 c2 c3
      have h1 : c1.subs = c.subs := by
        unfold c1
        split
        · rfl
        · rfl
      have h3 : c3.subs = c.subs := ((c2.writeSample_subs i v.status).trans (c1.kvFreeItem_kvWork n).subs).trans h1
      refine ((Chip.endCore_sameBooks _ n v).subm x).trans (congrArg Subm.bare ?_)
      exact (Chip.subm_congr (Chip.modItem_subs c3 n _) x).trans (Chip.subm_congr h3 x)

/-- The end of a dropped item that has no table slot: there is no sample, and nothing of the cache to free. -/
theorem Chip.endItem_dropped {n : Nat} {i : Item} (hi : c.item n = some i) (hk : i.kvSlot = none) (why : List Byte) :
    SameBooks c (c.endItem n ⟨5, why⟩) := by
  have hfree : c.kvFreeItem n = c := c.kvFreeItem_none (by rw [hi, Option.bind_some, hk])
  unfold Chip.endItem
  rw [hi]
  dsimp only
  rw [if_neg (by simp : ¬ ((5 : Nat) = 2 ∧ i.overflow = true)), hfree]
  split
  · exact SameBooks.refl c
  · have hs : c.writeSample i 5 = c := if_pos (.inr (.inl (by decide)))
    rw [hs]
    exact (c.modItem_sameBooks n _).trans (Chip.endCore_sameBooks _ n _)

end Sys2Proof.Machine
end

section
/-!
PROOFS. Records: their bytes on the way to the reassembly space, submissions refused or cancelled, the start of decoding.
-/

namespace Sys2Proof.Machine

variable (c : Chip)

/-! ## Sessions -/

theorem Chip.subm_modSubm_self (s : Nat) (f : Subm → Subm) : (c.modSubm s f).subm s = f (c.subm s) := by
  rw [Chip.subm_modSubm, if_pos rfl]

theorem Chip.settle_bare (s : Nat) : (c.settle.subm s).bare = (c.subm s).bare := c.settle_settles.sameBooks.subm s

theorem subCnt_has {s : Nat} (hs : s < 32) : Reg.has .SUB_CNT s 0 = true := decide_eq_true ⟨hs, Nat.one_pos⟩

/-- No stream's credit lies at the address of a session's counters. -/
theorem subCnt_ne_credit (s k : Nat) : Reg.addr .SUB_CNT s 0 ≠ Reg.addr .SNS_CREDIT k 0 := by
  simp only [Reg.addr, Reg.info]
  omega

theorem Chip.submit_closed {s : Nat} (bytes : List Byte) (last : Bool) (h : (c.sess (64 + s)).open_ = false) :
    c.submit s bytes last = c := by
  unfold Chip.submit
  dsimp only
  rw [h]
  rfl

/-- Bytes of an open session for which none waits. -/
theorem Chip.submit_open {s : Nat} (bytes : List Byte) (ho : (c.sess (64 + s)).open_ = true)
    (hi : (c.sess (64 + s)).inbox = []) : c.submit s bytes false =
      Chip.feed s c.clock.now ((c.subm s).buf.length + 2 * bytes.length + 4) c bytes := by
  unfold Chip.submit
  dsimp only
  rw [ho, hi]
  rfl

theorem Chip.feed_nil (s : Nat) (t : Stamp) (fuel : Nat) : Chip.feed s t fuel c [] = c := by
  cases fuel with
  | zero => rfl
  | succ fuel =>
    unfold Chip.feed
    exact if_pos (.inl rfl)

/-! ## The bytes of an admitted record -/

/-- Bytes of record `i` in its reassembly space, with the rest that its session's stream still waits for (R178). -/
def Chip.gather (c : Chip) (s : Nat) (i : Item) (bytes : List Byte) : Chip :=
  ((c.updMem (fun m => m.writeAt (c.recPlace i i.got) bytes)).modItem i.num
    (fun i => { i with got := i.got + bytes.length })).modSubm s (fun y => { y with need := y.need - bytes.length })

section
variable {c} {s : Nat} {i : Item} (hlist : c.items.list = [i]) (bytes : List Byte)

theorem Chip.gather_need : ((c.gather s i bytes).subm s) = { c.subm s with need := (c.subm s).need - bytes.length } :=
  Chip.subm_modSubm_self _ s _

theorem Chip.gather_core : c.Core (c.gather s i bytes) := ⟨rfl, rfl, rfl, rfl, rfl, rfl⟩

include hlist

theorem Chip.gather_list : (c.gather s i bytes).items.list = [{ i with got := i.got + bytes.length }] :=
  Chip.modItem_single (c.updMem _) hlist _

/-- No more bytes than are still to come go to the record. -/
theorem Chip.feed_gather (t : Stamp) (fuel : Nat) (hskipAll : (c.subm s).skipAll = false) (hskip : (c.subm s).skip = 0)
    (hitem : (c.subm s).item = some i.num) (hne : bytes ≠ []) (hle : bytes.length ≤ (c.subm s).need) :
    Chip.feed s t (fuel + 1) c bytes =
      if bytes.length = (c.subm s).need then (c.gather s i bytes).recordWhole s t else c.gather s i bytes := by
  have hpos : 0 < (c.subm s).need := Nat.lt_of_lt_of_le (List.length_pos_iff.2 hne) hle
  have hzero : ((c.gather s i bytes).subm s).need = 0 ↔ bytes.length = (c.subm s).need := by
    rw [Chip.gather_need]
    exact Nat.sub_eq_zero_iff_le.trans ⟨fun h => Nat.le_antisymm hle h, fun h => h.ge⟩
  unfold Chip.feed
  dsimp only
  rw [if_neg (by simp [hne, hskipAll]), if_neg (by omega), if_pos hpos, List.take_of_length_le hle,
    List.drop_of_length_le hle, Chip.feed_nil]
  simp only [hitem, c.item_single hlist]
  change (if ((c.gather s i bytes).subm s).need = 0 then (c.gather s i bytes).recordWhole s t else c.gather s i bytes) = _
  simp only [hzero]

end

/-- A record whose last byte has arrived at `t`, in session `s` (R30). -/
def Item.whole (c : Chip) (s : Nat) (t : Stamp) (i : Item) : Item :=
  { i with
    complete := true, stamp := t, arrived := c.slotNo
    deadline := if c.flag F.SUB_CFG_LIVE s then some (nsStamp (Stamp.toNs t + c.get F.SUB_CFG_BOUND_MS s * 1000000)) else none }

theorem Chip.recordWhole_some {s n : Nat} {t : Stamp} (h : (c.subm s).item = some n) : c.recordWhole s t =
    (c.modItem n (Item.whole c s t)).modSubm s
      (fun y => { y with item := none, need := 0, skipAll := y.skipAll || decide (y.version ≠ 3) }) := by
  unfold Chip.recordWhole
  rw [h]
  rfl

/-- The last byte of the only item. -/
theorem Chip.recordWhole_single {s : Nat} {i : Item} (t : Stamp) (hlist : c.items.list = [i])
    (hitem : (c.subm s).item = some i.num) : (c.recordWhole s t).items.list = [i.whole c s t] ∧
    ((c.recordWhole s t).subm s).item = none ∧ (c.recordWhole s t).mem = c.mem ∧ c.Core (c.recordWhole s t) := by
  rw [c.recordWhole_some hitem]
  refine ⟨c.modItem_single hlist _, ?_, rfl, ⟨rfl, rfl, rfl, rfl, rfl, rfl⟩⟩
  rw [Chip.subm_modSubm_self]

/-! ## A new item -/

/-- An item as it is admitted (R467, R464, R465, R322). -/
def Chip.numbered (c : Chip) (i : Item) : Item :=
  { i with
    num := c.items.next, deliv := (c.fixSessions i.origin c.items.next).2
    fields := List.replicate (((c.schemaOf i.origin).map (·.fields.length)).getD 0) FieldSt.fresh
    copies := c.takeCopies i.origin }

/-- From `c` to `d` item `j` has been admitted; of the registers only what shows the spool of sessions changes. -/
structure Chip.Takes (c d : Chip) (j : Item) : Prop extends c.Core d where
  items : d.items = { c.items with
    list := c.items.list ++ [j], next := (c.items.next + 1) % 2 ^ 32, created := c.items.created + 1 }
  mem : d.mem = c.mem
  word : ∀ r i j, Reg.apart .SESS_SPOOL r = true → Reg.apart .SESS_CNT1 r = true → d.word r i j = c.word r i j

theorem Chip.takeItem_takes (i : Item) : c.Takes (c.takeItem i) (c.numbered i) := by
  have hspool := c.fixSessions_spoolWork i.origin c.items.next
  have heq : c.takeItem i = (c.fixSessions i.origin c.items.next).1.updItems (fun I => { I with
      list := I.list ++ [c.numbered i], next := (c.items.next + 1) % 2 ^ 32, created := I.created + 1 }) := rfl
  rw [heq]
  generalize (c.fixSessions i.origin c.items.next).1 = d at hspool ⊢
  refine ⟨hspool.core.trans ⟨rfl, rfl, rfl, rfl, rfl, rfl⟩, ?_, hspool.mem, hspool.word⟩
  rw [Chip.updItems, hspool.items]

/-- A session's stream is past a record that it has not taken. -/
def Subm.passRecord (y : Subm) : Subm := { y with index := y.index + 1, used := y.used + 1, buf := [] }

/-- A record without a header takes a new number, its SUB_RESULT is formed, and it is counted as refused (R169, R488). -/
def Chip.enrolRefused (c : Chip) (s : Nat) (why : List Byte) : Chip :=
  ((((c.recordItem s none).1.takeItem (c.recordItem s none).2).subResult s c.items.next why).bump F.SUB_CNT_REFUSED s).modSubm s
    Subm.passRecord

theorem Chip.refuse_eq (s : Nat) (why : List Byte) :
    c.refuse s none why true = ((c.enrolRefused s why).endItem c.items.next ⟨5, why⟩).grant s := rfl

theorem Chip.recordItem_core (s : Nat) : c.Core (c.recordItem s none).1 := ⟨rfl, rfl, rfl, rfl, rfl, rfl⟩

/-- What it enrols is an item that has not ended and has no table slot. -/
theorem Chip.enrolRefused_takes (s : Nat) (why : List Byte) : ∃ (d : Chip) (j : Item), c.Takes d j ∧ j.num = c.items.next ∧
    j.ended = none ∧ j.kvSlot = none ∧ c.enrolRefused s why =
      ((d.subResult s c.items.next why).bump F.SUB_CNT_REFUSED s).modSubm s
        Subm.passRecord := by
  have h := (c.recordItem s none).1.takeItem_takes (c.recordItem s none).2
  exact ⟨_, _, ⟨(c.recordItem_core s).trans h.toCore, h.items, h.mem, h.word⟩, rfl, rfl, rfl, rfl⟩

/-- From `c` to `d` item `j` has come, counted as refused in session `s`. -/
structure Chip.Enrolled (c d : Chip) (s : Nat) (j : Item) : Prop extends c.Core d where
  items : d.items = { c.items with
    list := c.items.list ++ [j], next := (c.items.next + 1) % 2 ^ 32, created := c.items.created + 1 }
  mem : d.mem = c.mem
  counted : c.Counted d F.SUB_CNT_REFUSED s

theorem Chip.enrolRefused_enrolled {s : Nat} (hs : s < 32) (why : List Byte) :
    ∃ j : Item, j.num = c.items.next ∧ j.ended = none ∧ j.kvSlot = none ∧ c.Enrolled (c.enrolRefused s why) s j := by
  obtain ⟨d, j, htakes, hnum, hended, hslot, hd⟩ := c.enrolRefused_takes s why
  have hcount := d.bump_counted F.SUB_CNT_REFUSED (subCnt_has hs) (by decide)
  rw [Chip.Counted2, Chip.get_of_word F.SUB_CNT_REFUSED (htakes.word .SUB_CNT s 0 (by decide) (by decide))] at hcount
  rw [hd]
  exact ⟨j, hnum, hended, hslot, htakes.toCore.trans ⟨rfl, rfl, rfl, rfl, rfl, rfl⟩, htakes.items, htakes.mem, hcount⟩

/-- A record of session `s` has been refused: its item has come and has been dropped, and it is counted. -/
structure Chip.Refused (c t : Chip) (s : Nat) : Prop extends c.Core t where
  counted : c.Counted t F.SUB_CNT_REFUSED s
  created : t.items.created = c.items.created + 1
  ends : t.items.ends = c.items.ends.modify 5 (· + 1)
  next : t.items.next = (c.items.next + 1) % 2 ^ 32
  mem : t.mem = c.mem

theorem Chip.Refused.settles {c t u : Chip} {s : Nat} (h : c.Refused t s) (k : Settles t u) : c.Refused u s where
  toCore := h.toCore.trans k.admits.toCore
  counted := h.counted.of_get (k.get_apart (by decide))
  created := (congrArg Items.created k.items).trans h.created
  ends := (congrArg Items.ends k.items).trans h.ends
  next := (congrArg Items.next k.items).trans h.next
  mem := k.mem.trans h.mem

theorem Chip.Refused.modSubm {c t : Chip} {s : Nat} (h : c.Refused t s) (f : Subm → Subm) : c.Refused (t.modSubm s f) s :=
  ⟨⟨h.image, h.clock, h.fuses, h.flash, h.boot, h.mgmt⟩, h.counted, h.created, h.ends, h.next, h.mem⟩

theorem Chip.refuse_refused {s : Nat} (hs : s < 32) (hlist : c.items.list = []) (why : List Byte) :
    c.Refused (c.refuse s none why true) s := by
  obtain ⟨j, hnum, hended, hslot, henrolled⟩ := c.enrolRefused_enrolled hs why
  rw [Chip.refuse_eq]
  generalize c.enrolRefused s why = e at henrolled ⊢
  have hitem : e.item c.items.next = some j := by
    rw [← hnum]
    exact e.item_single (by rw [henrolled.items, hlist, List.nil_append])
  have hend := e.endItem_ended hitem hended ⟨5, why⟩
  have hbooks := e.endItem_dropped hitem hslot why
  refine Chip.Refused.settles (t := e.endItem c.items.next ⟨5, why⟩) ?_ (Chip.grant_settles _ s)
  exact {
    toCore := henrolled.toCore.trans hend.toCore
    counted := henrolled.counted.of_get
      (Chip.get_of_word F.SUB_CNT_REFUSED (hend.word .SUB_CNT s 0 (by decide) (subCnt_ne_credit s)))
    created := hbooks.created.trans (by rw [henrolled.items])
    ends := hend.ends.trans (by rw [henrolled.items])
    next := hbooks.next.trans (by rw [henrolled.items])
    mem := hbooks.mem.trans henrolled.mem }

/-- What remains of a submission is discarded. -/
def Subm.discard (y : Subm) : Subm := { y with skipAll := true, buf := [] }

/-- Bytes that start no container: the record is refused, and the rest of the submission discarded (R169, R177). -/
theorem Chip.feed_refused {s : Nat} {bytes : List Byte} {e : HdrErr} (t : Stamp) (fuel : Nat)
    (hskipAll : (c.subm s).skipAll = false) (hskip : (c.subm s).skip = 0) (hneed : (c.subm s).need = 0)
    (hbuf : (c.subm s).buf = []) (hversion : (c.subm s).version = 0) (hne : bytes ≠ [])
    (hbad : containerVersion bytes = .bad e) (hoff : c.subOff s = false) :
    Chip.feed s t (fuel + 1) c bytes = (c.refuse s none (hdrReason e) true).modSubm s Subm.discard := by
  have hstep : c.headerStep s bytes = ((c.refuse s none (hdrReason e) true).modSubm s Subm.discard, some []) := by
    unfold Chip.headerStep
    rw [if_pos hversion, hbad]
    dsimp only
    rw [hoff, if_neg Bool.false_ne_true]
    rfl
  unfold Chip.feed
  dsimp only
  rw [if_neg (by simp [hne, hskipAll]), if_neg (by omega), if_neg (by omega), hbuf, List.nil_append, hstep]
  dsimp only
  rw [Chip.feed_nil]

/-! ## A record that is cancelled -/

/-- A session's stream gives up the record that it waits for (R172). -/
def Subm.giveUp (y : Subm) : Subm :=
  { y with item := none, skip := y.need, need := 0, skipAll := y.skipAll || decide (y.version ≠ 3) }

theorem Chip.cancelRecord_none {s : Nat} (why : List Byte) (h : (c.subm s).item = none) : c.cancelRecord s why = c := by
  unfold Chip.cancelRecord
  dsimp only
  rw [h]

theorem Chip.cancelRecord_some {s : Nat} {i : Item} (why : List Byte) (h : (c.subm s).item = some i.num)
    (hlist : c.items.list = [i]) (hended : i.ended = none) : c.cancelRecord s why =
      ((c.modSubm s Subm.giveUp).bump F.SUB_CNT_CANCELLED s).endItem i.num ⟨4, why⟩ := by
  unfold Chip.cancelRecord
  dsimp only
  rw [h]
  dsimp only
  rw [Chip.item_single (c.modSubm s _) hlist]
  dsimp only
  rw [hended]
  rfl

/-- The record that session `s` waited for has ended CANCELLED, for the reason `why`; items left have that verdict. -/
structure Chip.Cancelled (c t : Chip) (s : Nat) (why : List Byte) : Prop extends c.Core t where
  counted : c.Counted t F.SUB_CNT_CANCELLED s
  verdict : ∀ j, j ∈ t.items.list → j.ended = some ⟨4, why⟩
  ends : t.items.ends = c.items.ends.modify 4 (· + 1)
  item : (t.subm s).item = none

theorem Chip.Cancelled.settle {c t : Chip} {s : Nat} {why : List Byte} (h : c.Cancelled t s why) : c.Cancelled t.settle s why where
  toCore := h.toCore.trans t.settle_admits.toCore
  counted := h.counted.of_get (t.settle_calm.get_apart (by decide))
  verdict := fun j hj => h.verdict j (by rwa [t.settle_items] at hj)
  ends := (congrArg Items.ends t.settle_items).trans h.ends
  item := (Subm.item_of_bare (t.settle_bare s)).trans h.item

/-- The only item, cancelled while its bytes arrive. -/
theorem Chip.cancelRecord_cancelled {s : Nat} (hs : s < 32) {i : Item} (why : List Byte) (h : (c.subm s).item = some i.num)
    (hlist : c.items.list = [i]) (hended : i.ended = none) : c.Cancelled (c.cancelRecord s why) s why := by
  rw [c.cancelRecord_some why h hlist hended]
  have hcount := (c.modSubm s Subm.giveUp).bump_counted F.SUB_CNT_CANCELLED (subCnt_has hs) (by decide)
  have hgive : (((c.modSubm s Subm.giveUp).bump F.SUB_CNT_CANCELLED s).subm s).item = none :=
    congrArg Subm.item (c.subm_modSubm_self s Subm.giveUp)
  have hcore : c.Core ((c.modSubm s Subm.giveUp).bump F.SUB_CNT_CANCELLED s) := ⟨rfl, rfl, rfl, rfl, rfl, rfl⟩
  have hitems : ((c.modSubm s Subm.giveUp).bump F.SUB_CNT_CANCELLED s).items = c.items := rfl
  generalize (c.modSubm s Subm.giveUp).bump F.SUB_CNT_CANCELLED s = d at hcount hgive hcore hitems ⊢
  have hone : d.items.list = [i] := by rw [hitems, hlist]
  have hend := d.endItem_ended (d.item_single hone) hended ⟨4, why⟩
  exact {
    toCore := hcore.trans hend.toCore
    counted := Chip.Counted.of_get hcount
      (Chip.get_of_word F.SUB_CNT_CANCELLED (hend.word .SUB_CNT s 0 (by decide) (subCnt_ne_credit s)))
    verdict := fun j hj => (hend.all hone hj).2
    ends := hend.ends.trans (by rw [hitems])
    item := (Subm.item_of_bare (d.endItem_subm i.num ⟨4, why⟩ s)).trans hgive }

/-! ## The start of decoding -/

/-- Whether a record costs more than its session's envelope and is not yet overflow work of an LC partition (R190, R191). -/
def Chip.passesOver (c : Chip) (i : Item) : Bool :=
  decide (c.itemCost8 i > 8 * c.get F.SUB_ENV_ENV_STEPS (i.origin - 16)) && !i.overflow && !c.flag F.PART_CFG_KIND i.part

theorem Chip.passesOver_iff (i : Item) : c.passesOver i = true ↔
    c.itemCost8 i > 8 * c.get F.SUB_ENV_ENV_STEPS (i.origin - 16) ∧
      ¬ (i.overflow = true ∨ c.flag F.PART_CFG_KIND i.part = true) := by
  unfold Chip.passesOver
  simp only [Bool.and_eq_true, decide_eq_true_eq, Bool.not_eq_true', not_or, Bool.not_eq_true, and_assoc]

/-- A record whose decoding has begun, as overflow work when it is `beyond` its envelope (R362). -/
def Item.beginDecode (beyond : Bool) (i : Item) : Item :=
  { i with decoding := true, overflow := i.overflow || beyond, flags := if beyond then i.flags ||| 4096 else i.flags }

/-- Decoding of a record begins. -/
def Item.markDecoding (i : Item) : Item := { i with decoding := true }

/-- An item's work is overflow work. -/
def Item.markOverflow (i : Item) : Item := { i with overflow := true }

/-- Item `n` of partition `p` passes to overflow: the mark, the flag, the count (R362, R363). -/
def Chip.passOver (c : Chip) (n p : Nat) : Chip :=
  ((c.modItem n Item.markOverflow).flagItem n 4096).bump F.PART_CNT_OVF_ITEMS p

theorem Item.beginDecode_within (i : Item) : i.beginDecode false = i.markDecoding := by
  unfold Item.beginDecode Item.markDecoding
  rw [Bool.or_false, if_neg Bool.false_ne_true]

theorem Item.beginDecode_beyond (i : Item) :
    i.beginDecode true = { i.markDecoding.markOverflow with flags := i.flags ||| 4096 } := by
  unfold Item.beginDecode Item.markDecoding Item.markOverflow
  rw [Bool.or_true, if_pos rfl]

/-- The decoding of the only item has begun. -/
structure Chip.Decodes (c t : Chip) (i : Item) (beyond : Bool) : Prop extends c.Core t where
  mem : t.mem = c.mem
  list : t.items.list = [i.beginDecode beyond]
  counted : beyond = true → i.part < 16 → c.Counted t F.PART_CNT_OVF_ITEMS i.part

theorem Chip.Decodes.settle {c t : Chip} {i : Item} {beyond : Bool} (h : c.Decodes t i beyond) : c.Decodes t.settle i beyond where
  toCore := h.toCore.trans t.settle_admits.toCore
  mem := t.settle_mem.trans h.mem
  list := (congrArg Items.list t.settle_items).trans h.list
  counted := fun hb hp => (h.counted hb hp).of_get (t.settle_calm.get_apart (by decide))

theorem partCnt_has {p : Nat} (hp : p < 16) : Reg.has .PART_CNT p 0 = true := decide_eq_true ⟨hp, Nat.one_pos⟩

section
variable {c} {i : Item} (hlist : c.items.list = [i])
include hlist

theorem Chip.passOver_list (p : Nat) :
    (c.passOver i.num p).items.list = [{ i.markOverflow with flags := i.flags ||| 4096 }] :=
  Chip.modItem_single (c.modItem i.num Item.markOverflow) (i := i.markOverflow) (c.modItem_single hlist Item.markOverflow) _

theorem Chip.overflowItem_idle (h : i.overflow = true ∨ c.flag F.PART_CFG_KIND i.part = true) : c.overflowItem i.num = c := by
  unfold Chip.overflowItem
  rw [c.item_single hlist]
  exact if_pos h

theorem Chip.overflowItem_passes (h : ¬ (i.overflow = true ∨ c.flag F.PART_CFG_KIND i.part = true)) : 
    c.overflowItem i.num = c.passOver i.num i.part := by
  unfold Chip.overflowItem
  rw [c.item_single hlist]
  exact if_neg h

theorem Chip.decodeStart_idle (h : i.complete = false ∨ i.decoding = true ∨ i.ended.isSome = true ∨ c.decodeDue i = false) :
    c.decodeStart i.num = c := by
  have hwait : (!i.complete || i.decoding || i.ended.isSome || !c.decodeDue i) = true := by
    rcases h with h | h | h | h <;> simp [h]
  unfold Chip.decodeStart
  rw [c.item_single hlist]
  dsimp only
  rw [if_pos hwait]

section
variable (hcomplete : i.complete = true) (hdecoding : i.decoding = false) (hended : i.ended = none) (hdue : c.decodeDue i = true)
include hcomplete hdecoding hended hdue

theorem Chip.decodeStart_due : c.decodeStart i.num =
    if c.itemCost8 i > 8 * c.get F.SUB_ENV_ENV_STEPS (i.origin - 16)
    then (c.modItem i.num Item.markDecoding).overflowItem i.num
    else c.modItem i.num Item.markDecoding := by
  unfold Chip.decodeStart
  rw [c.item_single hlist]
  dsimp only
  rw [hcomplete, hdecoding, hended, hdue]
  rfl

/-- A due record is decoded, as overflow work when it is beyond its envelope (R191, R192). -/
theorem Chip.decodeStart_decodes : c.Decodes (c.decodeStart i.num) i (c.passesOver i) := by
  have hone := c.modItem_single hlist Item.markDecoding
  have hwithin : c.Decodes (c.modItem i.num Item.markDecoding) i false :=
    ⟨c.modItem_core _ _, rfl, hone.trans (by rw [Item.beginDecode_within]), fun h => absurd h Bool.false_ne_true⟩
  rw [Chip.decodeStart_due hlist hcomplete hdecoding hended hdue]
  split
  · next hcost =>
    by_cases hstay : i.overflow = true ∨ c.flag F.PART_CFG_KIND i.part = true
    · have hover : c.passesOver i = false := Bool.eq_false_iff.2 (fun h => ((c.passesOver_iff i).1 h).2 hstay)
      rw [hover]
      exact (Chip.overflowItem_idle hone hstay).symm ▸ hwithin
    · have hlast : ((c.modItem i.num Item.markDecoding).passOver i.num i.part).items.list = [i.beginDecode true] :=
        (Chip.passOver_list hone i.part).trans (congrArg (fun j => [j]) i.beginDecode_beyond.symm)
      have hbeyond : c.Decodes ((c.modItem i.num Item.markDecoding).passOver i.num i.part) i true :=
        ⟨⟨rfl, rfl, rfl, rfl, rfl, rfl⟩, rfl, hlast, fun _ hp => Chip.bump_counted _ _ (partCnt_has hp) (by decide)⟩
      rw [(c.passesOver_iff i).2 ⟨hcost, hstay⟩]
      exact (Chip.overflowItem_passes hone hstay).symm ▸ hbeyond
  · next hcost =>
    have hover : c.passesOver i = false := Bool.eq_false_iff.2 (fun h => hcost ((c.passesOver_iff i).1 h).1)
    rw [hover]
    exact hwithin

end
end

/-! ## The obligation -/

theorem exec_submitRecord_up (s : State) (x : Fin 32) (bytes : List Byte) (last : Bool) (hup : s.chip.Up)
    (hc : s.chip.boot.closing = none) :
    exec (.submitRecord x bytes last) s = .next ⟨s.pending, (s.chip.submit x.val bytes last).settle⟩ := by
  simp only [exec_submitRecord, Chip.serving_eq _ hup.1 hup.2, hc, Option.isSome_none, Bool.false_eq_true, if_false]

theorem exec_submitRecord_idle (s : State) (x : Fin 32) (bytes : List Byte) (last : Bool) (hup : s.chip.Up)
    (h : s.chip.boot.closing.isSome = true ∨ (s.chip.sess (64 + x.val)).open_ = false) :
    exec (.submitRecord x bytes last) s = .next ⟨s.pending, s.chip.settle⟩ := by
  simp only [exec_submitRecord, Chip.serving_eq _ hup.1 hup.2]
  rcases h with h | h
  · rw [if_pos h]
  · rw [Chip.submit_closed _ _ _ h, ite_self]

theorem exec_submitTimeout_up (s : State) (x : Fin 32) (hup : s.chip.Up) {d : Chip}
    (h : s.chip.cancelRecord x.val (txt "submit-timeout") = d) :
    exec (.submitTimeout x) s = .next ⟨s.pending, d.settle⟩ := by
  simp only [exec_submitTimeout, Chip.serving_eq _ hup.1 hup.2, Chip.submitTimeout, h]

theorem exec_decodeStart_up (s : State) (n : Nat) (hup : s.chip.Up) :
    exec (.decodeStart n) s = .next ⟨s.pending, (s.chip.decodeStart n).settle⟩ := by
  simp only [exec_decodeStart, Chip.serving_eq _ hup.1 hup.2]

/-- Settles O38: bytes gathered, the last of them, bytes refused, a record cancelled, the start of decoding; settling leaves what
each of them has done. -/
theorem recordsArrive : Obligations.RecordsArrive := by
  unfold Obligations.RecordsArrive
  intro s x hup c y open_
  have hfeed : ∀ bytes, open_ → y.buf = [] → exec (.submitRecord x bytes false) s =
      .next ⟨s.pending, (Chip.feed x.val c.clock.now (2 * bytes.length + 3 + 1) c bytes).settle⟩ := by
    rintro bytes ⟨hclosing, ho, hinbox⟩ hbuf
    rw [exec_submitRecord_up s x bytes false hup hclosing, Chip.submit_open _ bytes ho hinbox,
      show (s.chip.subm x.val).buf = [] from hbuf, List.length_nil, Nat.zero_add]
  refine ⟨fun bytes last h => exec_submitRecord_idle s x bytes last hup h,
    fun bytes i ho hskipAll hskip hitem hlist hne hbuf => ⟨fun hlt => ?_, fun heq hversion => ?_⟩,
    fun bytes e ho hskipAll hskip hneed hitem hbuf hversion hne hbad hoff hlist => ?_,
    fun h => exec_submitTimeout_up s x hup (Chip.cancelRecord_none _ _ h), fun i hitem hlist hended => ?_,
    fun i hlist => ⟨fun h => ?_, fun hcomplete hdecoding hended hdue => ?_⟩⟩
  · have hgather := Chip.feed_gather hlist bytes c.clock.now (2 * bytes.length + 3) hskipAll hskip hitem hne hlt.le
    rw [if_neg hlt.ne] at hgather
    refine ⟨_, hfeed bytes ho hbuf, rfl, ?_⟩
    rw [hgather]
    exact ⟨(congrArg Items.list (Chip.settle_items _)).trans (Chip.gather_list hlist bytes),
      (Subm.need_of_bare (Chip.settle_bare _ x.val)).trans (congrArg Subm.need (Chip.gather_need bytes)),
      Chip.settle_mem _, (Chip.gather_core bytes).trans (Chip.settle_admits _).toCore⟩
  · have hgather := Chip.feed_gather hlist bytes c.clock.now (2 * bytes.length + 3) hskipAll hskip hitem hne heq.le
    rw [if_pos heq] at hgather
    have hwait : ((c.gather x.val i bytes).subm x.val).item = some i.num :=
      (congrArg Subm.item (Chip.gather_need bytes)).trans hitem
    obtain ⟨hl, hnone, hmem, hcore⟩ :=
      (c.gather x.val i bytes).recordWhole_single c.clock.now (Chip.gather_list hlist bytes) hwait
    refine ⟨_, hfeed bytes ho hbuf, rfl, ?_⟩
    rw [hgather]
    exact ⟨(congrArg Items.list (Chip.settle_items _)).trans hl,
      (Subm.item_of_bare (Chip.settle_bare _ x.val)).trans hnone, (Chip.settle_mem _).trans hmem,
      ((Chip.gather_core bytes).trans hcore).trans (Chip.settle_admits _).toCore⟩
  · have hrefused := c.refuse_refused x.isLt hlist (hdrReason e)
    have hdone := c.feed_refused c.clock.now (2 * bytes.length + 3) hskipAll hskip hneed hbuf hversion hne hbad hoff
    refine ⟨_, hfeed bytes ho hbuf, rfl, ?_⟩
    have hskipped : (((c.refuse x.val none (hdrReason e) true).modSubm x.val Subm.discard).subm x.val).skipAll = true := by
      rw [Chip.subm_modSubm_self]
      rfl
    have h := (hrefused.modSubm Subm.discard).settles (Chip.settle_settles _)
    rw [hdone]
    exact ⟨h.counted, (Subm.skipAll_of_bare (Chip.settle_bare _ x.val)).trans hskipped,
      h.created, h.ends, h.next, h.mem, h.toCore⟩
  · have h := (c.cancelRecord_cancelled x.isLt (txt "submit-timeout") hitem hlist hended).settle
    exact ⟨_, exec_submitTimeout_up s x hup rfl, rfl, h.counted, h.verdict, h.ends, h.item, h.toCore⟩
  · rw [exec_decodeStart_up s i.num hup, Chip.decodeStart_idle hlist h]
  · have h := (Chip.decodeStart_decodes hlist hcomplete hdecoding hended hdue).settle
    exact ⟨_, exec_decodeStart_up s i.num hup, rfl, h.mem, h.toCore, h.list, h.counted⟩

end Sys2Proof.Machine
end

section
/-!
PROOFS. Edits of the key-value tables: the queue of edits and what it waits for, what a publication writes, and what each kind of
edit does to its table slot.
-/

namespace Sys2Proof.Machine

variable (c : Chip)

/-! ## Reads after updates -/

theorem Chip.kvSlot_modKvSlot_self (q : Nat) (f : KvSlot → KvSlot) : (c.modKvSlot q f).kvSlot q = f (c.kvSlot q) :=
  smGet_smMod_self ..

theorem Chip.kvSlot_modKvSlot_ne {q p : Nat} (h : p ≠ q) (f : KvSlot → KvSlot) : (c.modKvSlot q f).kvSlot p = c.kvSlot p :=
  smGet_smMod_ne _ _ h

theorem Chip.adSet_modSet_self (k : Nat) (f : AdSet → AdSet) : (c.modSet k f).adSet k = f (c.adSet k) := smGet_smMod_self ..

theorem KvSlot.copy_setCopy_self (s : KvSlot) (x : Nat) (l : List (BitVec 32)) : (s.setCopy x l).copy x = l := by
  unfold KvSlot.setCopy KvSlot.copy
  split <;> rfl

theorem KvSlot.copy_setRetire (s : KvSlot) (x t y : Nat) : (s.setRetire x t).copy y = s.copy y := by
  unfold KvSlot.setRetire
  split <;> rfl

/-- A slot whose copy `x` was current publishes `l` in the other one (R272). -/
def KvSlot.publish (s : KvSlot) (x e : Nat) (l : List (BitVec 32)) : KvSlot :=
  { (s.setCopy (1 - x) l).setRetire x e with gen := e, prev := s.gen, cur := 1 - x }

theorem KvSlot.entries_publish (s : KvSlot) (x e : Nat) (l : List (BitVec 32)) : (s.publish x e l).entries = l :=
  ((s.setCopy (1 - x) l).copy_setRetire x e (1 - x)).trans (s.copy_setCopy_self (1 - x) l)

/-! ## What an edit changes -/

/-- From `c` to `t` no table slot but `q` has changed, no edit has come to wait, and no page has been written. -/
structure Chip.EditsSlot (c t : Chip) (q : Nat) : Prop extends c.Core t where
  others : ∀ p, p ≠ q → t.kvSlot p = c.kvSlot p
  waiting : t.kv.waiting = c.kv.waiting
  items : t.items = c.items
  mem : t.mem = c.mem

/-- An allocation for slot `q` has failed: its entries stay, and no epoch begins (R266). -/
structure Chip.Starves (c t : Chip) (q : Nat) : Prop extends c.EditsSlot t q where
  starved : (t.kvSlot q).starved = true
  entries : (t.kvSlot q).entries = (c.kvSlot q).entries
  epoch : t.kv.epoch = c.kv.epoch

/-- Slot `q` publishes the entries `l` under the next epoch, and walkers keep nothing read ahead (R272, R68). -/
structure Chip.Publishes (c t : Chip) (q : Nat) (l : List (BitVec 32)) : Prop extends c.EditsSlot t q where
  entries : (t.kvSlot q).entries = l
  epoch : t.kv.epoch = c.kv.epoch + 1
  bufs : t.kv.bufs = []

/-- Slot `q` is free again: its sequence is empty, and it is used no more. -/
structure Chip.Frees (c t : Chip) (q : Nat) : Prop extends c.Publishes t q [] where
  used : (t.kvSlot q).used = false

theorem Chip.modKvSlot_editsSlot (q : Nat) (f : KvSlot → KvSlot) : c.EditsSlot (c.modKvSlot q f) q :=
  ⟨⟨rfl, rfl, rfl, rfl, rfl, rfl⟩, fun _ hp => c.kvSlot_modKvSlot_ne hp f, rfl, rfl, rfl⟩

theorem Chip.modSet_editsSlot (q k : Nat) (f : AdSet → AdSet) : c.EditsSlot (c.modSet k f) q :=
  ⟨⟨rfl, rfl, rfl, rfl, rfl, rfl⟩, fun _ _ => rfl, rfl, rfl, rfl⟩

/-! ## What settling leaves -/

theorem Chip.settle_kvSlot (p : Nat) : c.settle.kvSlot p = c.kvSlot p :=
  congrArg (fun k : Kv => smGet KvSlot.cold k.slots p) c.settle_kv

theorem Chip.settle_adSet (k : Nat) : c.settle.adSet k = c.adSet k :=
  congrArg (fun a : Adapt => smGet AdSet.cold a.sets k) c.settle_adapt

section
variable {c} {d t : Chip} {q : Nat} {l : List (BitVec 32)}

theorem Chip.EditsSlot.trans (h : c.EditsSlot d q) (k : d.EditsSlot t q) : c.EditsSlot t q where
  toCore := h.toCore.trans k.toCore
  others := fun p hp => (k.others p hp).trans (h.others p hp)
  waiting := k.waiting.trans h.waiting
  items := k.items.trans h.items
  mem := k.mem.trans h.mem

theorem Chip.EditsSlot.settle (h : c.EditsSlot t q) : c.EditsSlot t.settle q where
  toCore := h.toCore.trans t.settle_admits.toCore
  others := fun p hp => (t.settle_kvSlot p).trans (h.others p hp)
  waiting := (congrArg Kv.waiting t.settle_kv).trans h.waiting
  items := t.settle_items.trans h.items
  mem := t.settle_mem.trans h.mem

theorem Chip.Starves.settle (h : c.Starves t q) : c.Starves t.settle q where
  toEditsSlot := h.toEditsSlot.settle
  starved := (congrArg KvSlot.starved (t.settle_kvSlot q)).trans h.starved
  entries := (congrArg KvSlot.entries (t.settle_kvSlot q)).trans h.entries
  epoch := (congrArg Kv.epoch t.settle_kv).trans h.epoch

theorem Chip.Publishes.settle (h : c.Publishes t q l) : c.Publishes t.settle q l where
  toEditsSlot := h.toEditsSlot.settle
  entries := (congrArg KvSlot.entries (t.settle_kvSlot q)).trans h.entries
  epoch := (congrArg Kv.epoch t.settle_kv).trans h.epoch
  bufs := (congrArg Kv.bufs t.settle_kv).trans h.bufs

theorem Chip.Frees.settle (h : c.Frees t q) : c.Frees t.settle q where
  toPublishes := h.toPublishes.settle
  used := (congrArg KvSlot.used (t.settle_kvSlot q)).trans h.used

/-- A slot whose sequence has been emptied is left. -/
theorem Chip.Publishes.frees (h : c.Publishes t q []) {f : KvSlot → KvSlot} (hf : ∀ s, (f s).entries = s.entries)
    (hu : ∀ s, (f s).used = false) : c.Frees (t.modKvSlot q f) q where
  toEditsSlot := h.toEditsSlot.trans (t.modKvSlot_editsSlot q f)
  entries := (congrArg KvSlot.entries (t.kvSlot_modKvSlot_self q f)).trans ((hf _).trans h.entries)
  epoch := h.epoch
  bufs := h.bufs
  used := (congrArg KvSlot.used (t.kvSlot_modKvSlot_self q f)).trans (hu _)

/-! ## Allocation and publication -/

/-- An allocation changes the sets alone. -/
theorem Chip.kvAlloc_kv {lcWork : Bool} {pages : Nat} {k : KvSet} (h : c.kvAlloc lcWork pages = some (d, k)) :
    d.kv = { c.kv with sets := c.kv.sets ++ [k] } := by
  rw [c.kvAlloc_some h]
  rfl

theorem Chip.kvAlloc_editsSlot {lcWork : Bool} {pages : Nat} {k : KvSet} (h : c.kvAlloc lcWork pages = some (d, k)) (q : Nat) :
    c.EditsSlot d q := by
  rw [c.kvAlloc_some h]
  exact ⟨⟨rfl, rfl, rfl, rfl, rfl, rfl⟩, fun _ _ => rfl, rfl, rfl, rfl⟩

/-- Of the table slots a publication updates its own. -/
theorem Chip.kvPublish_kvSlot (p : Nat) : (c.kvPublish q l).kvSlot p =
    (c.modKvSlot q (fun s => s.publish (c.kvSlot q).cur (c.kv.epoch + 1) l)).kvSlot p := rfl

theorem Chip.kvPublish_publishes : c.Publishes (c.kvPublish q l) q l where
  toCore := ⟨rfl, rfl, rfl, rfl, rfl, rfl⟩
  others := fun p hp => (Chip.kvPublish_kvSlot p).trans (c.kvSlot_modKvSlot_ne hp _)
  waiting := rfl
  items := rfl
  mem := rfl
  entries := by rw [Chip.kvPublish_kvSlot, Chip.kvSlot_modKvSlot_self, KvSlot.entries_publish]
  epoch := rfl
  bufs := rfl

/-- Work that begins no epoch may come before a publication. -/
theorem Chip.EditsSlot.publishes (h : c.EditsSlot d q) (he : d.kv.epoch = c.kv.epoch) : c.Publishes (d.kvPublish q l) q l where
  toEditsSlot := h.trans d.kvPublish_publishes.toEditsSlot
  entries := d.kvPublish_publishes.entries
  epoch := congrArg (· + 1) he
  bufs := rfl

end

/-! ## One more page set -/

/-- What an append and a step of training have in common: one more page set for slot `q`, where it has room. -/
def Chip.kvGrow (c : Chip) (q : Nat) (lcWork : Bool) : Chip :=
  if (c.kvSlot q).entries.length ≥ 256 then c
  else
    match c.kvAlloc lcWork (c.kvSlot q).layers with
    | none => c.modKvSlot q (fun s => { s with starved := true })
    | some (d, k) => (d.modKvSlot q (fun s => { s with starved := false })).kvPublish q
        ((c.kvSlot q).entries ++ [kvEntry k.ovf k.base])

section
variable {c} {q : Nat} {lcWork : Bool}

theorem Chip.kvGrow_full (h : 256 ≤ (c.kvSlot q).entries.length) : c.kvGrow q lcWork = c := if_pos h

theorem Chip.kvGrow_starves (h : (c.kvSlot q).entries.length < 256) (ha : c.kvAlloc lcWork (c.kvSlot q).layers = none) :
    c.Starves (c.kvGrow q lcWork) q := by
  unfold Chip.kvGrow
  rw [if_neg (by omega), ha]
  exact ⟨c.modKvSlot_editsSlot q _, by rw [Chip.kvSlot_modKvSlot_self], by rw [Chip.kvSlot_modKvSlot_self]; rfl, rfl⟩

theorem Chip.kvGrow_publishes {d : Chip} {k : KvSet} (h : (c.kvSlot q).entries.length < 256)
    (ha : c.kvAlloc lcWork (c.kvSlot q).layers = some (d, k)) :
    c.Publishes (c.kvGrow q lcWork) q ((c.kvSlot q).entries ++ [kvEntry k.ovf k.base]) := by
  unfold Chip.kvGrow
  rw [if_neg (by omega), ha]
  have hepoch : d.kv.epoch = c.kv.epoch := by rw [Chip.kvAlloc_kv ha]
  exact ((Chip.kvAlloc_editsSlot ha q).trans (d.modKvSlot_editsSlot q _)).publishes hepoch

end

/-! ## The kinds of edit -/

section
variable {c} {i : Item} {n q : Nat} (hi : c.item n = some i) (hq : i.kvSlot = some q)
include hi hq

theorem Chip.itemSlot_eq : (c.item n).bind (·.kvSlot) = some q := by rw [hi]; exact hq

/-- An item that has a table slot uses that one. -/
theorem Chip.kvTake_owned : c.kvTake n = (c, some q) := by
  unfold Chip.kvTake
  simp only [hi, hq]

theorem Chip.kvEdit_append (ov : Bool) : c.kvEdit (.append n ov) = c.kvGrow q (c.lcWork (c.kvSlot q).owner ov) := by
  unfold Chip.kvEdit
  simp only [Chip.kvTake_owned hi hq]
  rfl

/-- An attach at a page boundary takes the anchor's whole pages (R278). -/
theorem Chip.kvEdit_attach_whole {a pos : Nat} (ha : (c.kvSlot a).anchor = true) (he : (c.kvSlot q).entries = [])
    (hpos : pos % 16 = 0) : c.kvEdit (.attach n a pos) = c.kvPublish q ((c.kvSlot a).entries.take (pos / 16)) := by
  have hfresh : ¬ ((!(c.kvSlot a).anchor) = true ∨ (c.kvSlot q).entries ≠ []) := by rw [ha, he]; decide
  unfold Chip.kvEdit
  simp only [Chip.kvTake_owned hi hq]
  rw [if_neg hfresh, if_pos hpos]

theorem Chip.kvEdit_release (j : Nat) : c.kvEdit (.release n j) = c.kvPublish q ((c.kvSlot q).entries.take j) := by
  unfold Chip.kvEdit
  simp only [Chip.itemSlot_eq hi hq]

end

section
variable {c} {q : Nat}

theorem Chip.kvEdit_train {k : Fin 8} (h : (c.adSet k.val).kvSlot = some q) : c.kvEdit (.train k) = c.kvGrow q false := by
  have htake : c.kvTakeTrain k.val = (c, some q) := by
    unfold Chip.kvTakeTrain
    rw [show (smGet AdSet.cold c.adapt.sets k.val).kvSlot = some q from h]
  unfold Chip.kvEdit
  simp only [htake]
  rfl

/-- The set trains no more. -/
def AdSet.endTraining (a : AdSet) : AdSet := { a with kvSlot := none }

/-- A table slot that its sequence has left. -/
def KvSlot.leave (s : KvSlot) : KvSlot := { s with used := false, starved := false }

/-- The end of training frees the table slot of its set. -/
theorem Chip.kvEdit_trainEnd {k : Fin 8} (h : (c.adSet k.val).kvSlot = some q) :
    c.Frees (c.kvEdit (.trainEnd k)) q ∧ ((c.kvEdit (.trainEnd k)).adSet k.val).kvSlot = none := by
  have hedit : c.kvEdit (.trainEnd k) = ((c.modSet k.val AdSet.endTraining).kvPublish q []).modKvSlot q KvSlot.leave := by
    unfold Chip.kvEdit
    simp only [show (smGet AdSet.cold c.adapt.sets k.val).kvSlot = some q from h]
    rfl
  have hempty := (c.modSet_editsSlot q k.val AdSet.endTraining).publishes (l := []) rfl
  rw [hedit]
  exact ⟨hempty.frees (f := KvSlot.leave) (fun _ => rfl) (fun _ => rfl),
    congrArg AdSet.kvSlot (c.adSet_modSet_self k.val AdSet.endTraining)⟩

/-- An anchor in a slot that is used already does nothing. -/
theorem Chip.kvEdit_anchor_used (k : Nat) (h : (c.kvSlot q).used = true) : c.kvEdit (.anchor q k) = c := by
  unfold Chip.kvEdit
  exact if_pos (Or.inl h)

/-- A table slot that is free again, an anchor's too. -/
def KvSlot.clear (s : KvSlot) : KvSlot := { s.leave with anchor := false }

/-- A clear frees a slot that no item and no set holds (R280). -/
theorem Chip.kvEdit_clear (h : (c.kvSlot q).used = true) (hitems : ∀ j, j ∈ c.items.list → j.kvSlot ≠ some q)
    (hsets : ∀ e, e ∈ c.adapt.sets → e.2.kvSlot ≠ some q) :
    c.Frees (c.kvEdit (.clear q)) q ∧ ((c.kvEdit (.clear q)).kvSlot q).anchor = false := by
  have hfree : ¬ ((!(c.kvSlot q).used) = true ∨ c.items.list.any (fun i => i.kvSlot = some q) = true ∨
      c.adapt.sets.any (fun e => e.2.kvSlot = some q) = true) := by
    simpa [h] using ⟨hitems, fun a b hm => hsets (a, b) hm⟩
  have hedit : c.kvEdit (.clear q) = (c.kvPublish q []).modKvSlot q KvSlot.clear := by
    unfold Chip.kvEdit
    exact if_neg hfree
  rw [hedit]
  exact ⟨Chip.kvPublish_publishes.frees (f := KvSlot.clear) (fun _ => rfl) (fun _ => rfl),
    congrArg KvSlot.anchor (Chip.kvSlot_modKvSlot_self _ q KvSlot.clear)⟩

end

/-! ## The queue of edits -/

/-- The queue without its one edit, once that may run. -/
def Chip.unqueued (c : Chip) : Chip := c.updKv (fun k => { k with waiting := [], counted := false })

/-- The queue with one edit. -/
def Chip.withEdit (c : Chip) (e : KvEdit) : Chip := c.updKv (fun k => { k with waiting := [e] })

/-- The head of the queue, which waits for walkers, is counted once. -/
def Chip.countWait (c : Chip) : Chip :=
  if c.kv.counted then c else (c.bump F.KV_CNT1_EDIT_WAIT).updKv (fun k => { k with counted := true })

/-- Whether an edit waits for the walkers of its slot. -/
def Chip.editWaits (c : Chip) (e : KvEdit) : Bool :=
  match c.kvEditSlot e with
  | some q => c.kvMustWait q
  | none => false

theorem Chip.editWaits_of_slot {c : Chip} {e : KvEdit} {q : Nat} (h : c.kvEditSlot e = some q) : c.editWaits e = c.kvMustWait q := by
  unfold Chip.editWaits
  rw [h]

theorem Chip.editWaits_withEdit (e : KvEdit) : (c.withEdit e).editWaits e = c.editWaits e := by
  have hslot : (c.withEdit e).kvEditSlot e = c.kvEditSlot e := by cases e <;> rfl
  unfold Chip.editWaits
  rw [hslot]
  rfl

section
variable {c} {e : KvEdit} (hw : c.kv.waiting = [])
include hw

/-- The turns of the one edit in the queue: the fence of its issuer, its walkers, its work, and what waits then (R270, R272). -/
theorem Chip.kvTableEdit_eq : c.kvTableEdit e =
    if c.itemMoves then c.withEdit e
    else if c.editWaits e then (c.withEdit e).countWait
    else kvDrain 1 (c.unqueued.kvEdit e) := by
  have hqueue : c.updKv (fun k => { k with waiting := k.waiting ++ [e] }) = c.withEdit e :=
    congrArg (fun w => c.updKv (fun k => { k with waiting := w ++ [e] })) hw
  have hturn : (c.withEdit e).kvRun = if c.itemMoves then c.withEdit e
      else if (c.withEdit e).editWaits e then (c.withEdit e).countWait
      else kvDrain 1 (c.unqueued.kvEdit e) := rfl
  unfold Chip.kvTableEdit
  rw [hqueue, hturn, Chip.editWaits_withEdit]

/-- An edit waits while its issuer has writes in flight (Table 2-10). -/
theorem Chip.kvTableEdit_fenced (hm : c.itemMoves = true) : c.kvTableEdit e = c.withEdit e := by
  rw [Chip.kvTableEdit_eq hw, if_pos hm]

variable (hm : c.itemMoves = false) {q : Nat} (hs : c.kvEditSlot e = some q)
include hm hs

/-- An edit waits while walkers hold the copy it is to write, and is counted (R272). -/
theorem Chip.kvTableEdit_waits (hq : c.kvMustWait q = true) (hc : c.kv.counted = false) : c.kvTableEdit e =
    ((c.withEdit e).bump F.KV_CNT1_EDIT_WAIT).updKv (fun k => { k with counted := true }) := by
  rw [Chip.kvTableEdit_eq hw, hm, if_neg Bool.false_ne_true, Chip.editWaits_of_slot hs, if_pos hq]
  exact if_neg (Bool.eq_false_iff.1 hc)

/-- An edit that need not wait runs. -/
theorem Chip.kvTableEdit_runs (hq : c.kvMustWait q = false) {d : Chip} (hd : c.unqueued.kvEdit e = d) (hdw : d.kv.waiting = []) :
    c.kvTableEdit e = d := by
  rw [Chip.kvTableEdit_eq hw, hm, if_neg Bool.false_ne_true, Chip.editWaits_of_slot hs, hq, if_neg Bool.false_ne_true, hd]
  unfold kvDrain
  rw [hdw]

end

/-! ## The obligation -/

theorem exec_kvTableEdit_up (s : State) (e : KvEdit) (hup : s.chip.Up) {d : Chip} (h : s.chip.kvTableEdit e = d) :
    exec (.kvTableEdit e) s = .next ⟨s.pending, d.settle⟩ := by
  simp only [exec_kvTableEdit, Chip.serving_eq _ hup.1 hup.2, h]

/-- Settles O39: an edit alone in the queue waits or runs; what runs grows its slot, publishes the first of some entries, or frees
its slot. -/
theorem kvEditsPublish : Obligations.KvEditsPublish := by
  unfold Obligations.KvEditsPublish
  intro s i q hup hi hq hw c old c0
  have hslot : (c.item i.num).bind (·.kvSlot) = some q := Chip.itemSlot_eq hi hq
  have hruns : c.itemMoves = false → ∀ e p d, c.kvEditSlot e = some p → c.kvMustWait p = false → c0.kvEdit e = d →
      d.kv.waiting = [] → exec (.kvTableEdit e) s = .next ⟨s.pending, d.settle⟩ :=
    fun hm e p d hs hp hd hdw => exec_kvTableEdit_up s e hup (Chip.kvTableEdit_runs hw hm hs hp hd hdw)
  refine ⟨fun e hm => exec_kvTableEdit_up s e hup (Chip.kvTableEdit_fenced hw hm),
    fun e hm hs hp hc => exec_kvTableEdit_up s e hup (Chip.kvTableEdit_waits hw hm hs hp hc),
    fun hm hp => ?_, fun p hm hp => ⟨fun k hused => ?_, fun hused hitems hsets => ?_⟩⟩
  · intro others starves publishes
    have hstarves : ∀ e, c.kvEditSlot e = some q → c0.Starves (c0.kvEdit e) q → starves e := fun e hs h =>
      have k := h.settle
      ⟨_, hruns hm e q _ hs hp rfl h.waiting, rfl, k.starved, k.entries, k.epoch, k.mem, k.others, k.items, { k.toCore with }⟩
    have hpublishes : ∀ e l, c.kvEditSlot e = some q → c0.Publishes (c0.kvEdit e) q l → publishes e l := fun e l hs h =>
      have k := h.settle
      ⟨_, hruns hm e q _ hs hp rfl h.waiting, rfl, k.entries, k.epoch, k.bufs, k.waiting, k.mem, k.others, k.items,
        { k.toCore with }⟩
    have hi0 : c0.item i.num = some i := hi
    refine ⟨fun ov hroom => ?_, fun ov hfull => ?_, fun a pos ha he hpos => ?_, fun j => ?_, fun k hk hroom => ?_, fun k hk => ?_⟩
    · have hedit := Chip.kvEdit_append hi0 hq ov
      exact ⟨fun ha => hstarves _ hslot (hedit ▸ Chip.kvGrow_starves hroom ha),
        fun d k ha => hpublishes _ _ hslot (hedit ▸ Chip.kvGrow_publishes hroom ha)⟩
    · exact hruns hm _ q _ hslot hp ((Chip.kvEdit_append hi0 hq ov).trans (Chip.kvGrow_full hfull)) rfl
    · exact hpublishes _ _ hslot (Chip.kvEdit_attach_whole hi0 hq ha he hpos ▸ Chip.kvPublish_publishes)
    · exact hpublishes _ _ hslot (Chip.kvEdit_release hi0 hq j ▸ Chip.kvPublish_publishes)
    · have hedit := Chip.kvEdit_train (c := c0) hk
      exact ⟨fun ha => hstarves _ hk (hedit ▸ Chip.kvGrow_starves hroom ha),
        fun d x ha => hpublishes _ _ hk (hedit ▸ Chip.kvGrow_publishes hroom ha)⟩
    · obtain ⟨hfree, hset⟩ := Chip.kvEdit_trainEnd (c := c0) hk
      have h := hfree.settle
      exact ⟨_, hruns hm _ q _ hk hp rfl hfree.waiting, rfl, (congrArg AdSet.kvSlot (Chip.settle_adSet _ k.val)).trans hset,
        h.used, h.entries, h.mem, h.others, h.items, { h.toCore with }⟩
  · exact hruns hm _ p _ rfl hp (Chip.kvEdit_anchor_used k hused) rfl
  · obtain ⟨hfree, hanchor⟩ := Chip.kvEdit_clear (c := c0) hused hitems hsets
    have h := hfree.settle
    exact ⟨_, hruns hm _ p _ rfl hp rfl hfree.waiting, rfl, h.used, (congrArg KvSlot.anchor (Chip.settle_kvSlot _ p)).trans hanchor,
      h.entries, h.epoch, h.others, h.mem, h.items, { h.toCore with }⟩

end Sys2Proof.Machine
end

section
/-!
PROOFS. Resets that end everything at once: a fall of PORST_N, an undervoltage, an over-temperature trip.
-/

namespace Sys2Proof.Machine

variable (c : Chip)

/-- Without an adapter commit nothing of the flash devices is cut off (R335). -/
theorem Chip.cutFlash_of_no_commit (h : c.opOfKind 3 = none) : c.cutFlash = c := by
  unfold Chip.cutFlash
  rw [h]

/-- What is left of a device that a reset has ended: it is held, by its temperature where it is `hot`, with VIO or without. -/
def Chip.gone (hot vio : Bool) : Chip :=
  { Chip.powerOn with
    free := c.free, fuses := c.fuses, flash := c.flash
    boot := { Boot.powerOn with pin := hot, hot := hot, vio := vio, xspiRst := if vio then some false else none,
                                straps := c.boot.straps } }

theorem Chip.holdReset_gone (hot : Bool) (hon : c.On) (h : c.opOfKind 3 = none) : c.holdReset hot = c.gone hot c.boot.vio := by
  unfold Chip.holdReset
  rw [if_neg (ne_true_of_eq_false hon), c.cutFlash_of_no_commit h]
  rfl

/-- A rail has been lost and has taken VIO with it, or not, as a free value says (R542). -/
def Chip.undervolted : Chip :=
  ({ c with free := c.free + 1 } : Chip).updBoot (fun b => { b with vio := b.vio && Config.vioStays c.free })

theorem Chip.undervolted_opOfKind (k : Nat) : c.undervolted.opOfKind k = c.opOfKind k := rfl

theorem Chip.railLost_gone (hon : c.On) (h : c.opOfKind 3 = none) :
    c.railLost = { c.gone false (c.boot.vio && Config.vioStays c.free) with free := c.free + 1 } :=
  c.undervolted.holdReset_gone false hon ((c.undervolted_opOfKind 3).trans h)

/-- Settles O9: each of the three holds the device in reset with nothing cut off. -/
theorem resetEndsEverything : Obligations.ResetEndsEverything := by
  unfold Obligations.ResetEndsEverything
  intro s hon hop
  refine ⟨congrArg (fun c => Host.Outcome.next (State.mk s.pending c)) (s.chip.holdReset_gone false hon hop),
    ⟨_, fun hv => (Bool.and_eq_true_iff.1 hv).1,
      congrArg (fun c => Host.Outcome.next (State.mk s.pending c)) (s.chip.railLost_gone hon hop)⟩,
    congrArg (fun c => Host.Outcome.next (State.mk s.pending c)) (s.chip.holdReset_gone true hon hop)⟩

end Sys2Proof.Machine
end

section
/-!
PROOFS. Adaptation: a correction and its answer, the start and the end of an update, the copy that a candidate is written into.
-/

namespace Sys2Proof.Machine

variable (c : Chip)

/-! ## What stays -/

/-- From `c` to `t` memories, items and everything of `Core` stay. -/
structure Chip.Learns (c t : Chip) : Prop extends c.Core t where
  mem : t.mem = c.mem
  items : t.items = c.items

theorem Chip.Admits.learns {a b : Chip} (h : a.Admits b) : a.Learns b := ⟨h.toCore, h.mem, h.items⟩

theorem Chip.Learns.trans {a b c : Chip} (h : a.Learns b) (k : b.Learns c) : a.Learns c :=
  ⟨h.toCore.trans k.toCore, k.mem.trans h.mem, k.items.trans h.items⟩

theorem Chip.Learns.settle {t : Chip} (h : c.Learns t) : c.Learns t.settle := h.trans t.settle_admits.learns

theorem Chip.modSet_learns (k : Nat) (f : AdSet → AdSet) : c.Learns (c.modSet k f) := ⟨⟨rfl, rfl, rfl, rfl, rfl, rfl⟩, rfl, rfl⟩

theorem Chip.put_learns (f : Fld) (v i j : Nat) : c.Learns (c.put f v i j) := (c.put_admits f v i j).learns

theorem Chip.bump_learns (f : Fld) (i j n : Nat) : c.Learns (c.bump f i j n) := c.put_learns ..

/-- A count of another device whose counter stood the same. -/
theorem Chip.Counted.of_start {b t : Chip} {f : Fld} {i : Nat} (h : b.Counted t f i) (hg : b.get f i = c.get f i) :
    c.Counted t f i := by
  unfold Chip.Counted at h ⊢
  rw [h, hg]

theorem Chip.Counted.settle {t : Chip} {f : Fld} {i : Nat} (h : c.Counted t f i) (hf : Reg.apart .HOLD_STAT f.reg = true) :
    c.Counted t.settle f i := h.of_get (t.settle_calm.get_apart hf)

/-! ## QUEUED and HOLDOUT -/

theorem foldl_onlyRegs {β : Type} {g : Chip → β → Chip} (hg : ∀ c x, OnlyRegs c (g c x)) (l : List β) (c : Chip) :
    OnlyRegs c (l.foldl g c) := by
  induction l generalizing c with
  | nil => exact OnlyRegs.refl c
  | cons x l ih => exact (hg c x).trans (ih _)

theorem Chip.showAdapt_onlyRegs : OnlyRegs c c.showAdapt :=
  (c.put_onlyRegs _ _ _ _).trans (foldl_onlyRegs (fun c _ => c.put_onlyRegs _ _ _ _) _ _)

theorem Chip.showAdapt_learns : c.Learns c.showAdapt := c.showAdapt_onlyRegs.admits.learns

theorem Chip.showAdapt_adapt : c.showAdapt.adapt = c.adapt := by
  obtain ⟨r, f, h⟩ := c.showAdapt_onlyRegs
  rw [h]

theorem Chip.showAdapt_adSet (k : Nat) : c.showAdapt.adSet k = c.adSet k := congrArg (fun a : Adapt => smGet AdSet.cold a.sets k) c.showAdapt_adapt

theorem Chip.showAdapt_formed : c.showAdapt.formed = c.formed := by
  obtain ⟨r, f, h⟩ := c.showAdapt_onlyRegs
  rw [h]

theorem Chip.showAdapt_get {f : Fld} {i j : Nat} (hs : Reg.apart .ADAPT_STAT f.reg = true)
    (hh : Reg.apart .ADAPT_SCORE f.reg = true) : c.showAdapt.get f i j = c.get f i j := by
  have hfold : ∀ (l : List Nat) (d : Chip),
      (l.foldl (fun c s => c.put F.ADAPT_SCORE_HOLDOUT (c.adSet s).holdout.length s) d).get f i j = d.get f i j := by
    intro l
    induction l with
    | nil => exact fun _ => rfl
    | cons s l ih => exact fun d => (ih _).trans (d.get_put_apart _ _ _ _ _ _ _ hh)
  exact (hfold _ _).trans (c.get_put_apart _ _ _ _ _ _ _ hs)

/-! ## Corrections -/

/-- What the outcome of a correction's checks brings: its example enters its set, or nothing does; both are counted. -/
def Chip.noteCorr (c : Chip) : Option (Nat × Example) → Chip
  | some (set, e) => ((c.addExample set e).bump F.ADAPT_CNT0_ACCEPTED).showAdapt
  | none => c.bump F.ADAPT_CNT0_REFUSED

/-- The record that answers a correction (R487). -/
def corrResult (w : CorrIn) (code : Nat) : List Byte :=
  (recordMap [(0, .uint 7), (1, .uint w.item), (40, .uint (b2n w.line)), (41, .uint w.index), (43, .uint code)]).enc

/-- The correction awaits no answer any more. -/
def Chip.takeCorr (c : Chip) (s : Nat) (w : CorrIn) : Chip := c.modSess s (fun x => { x with corrs := x.corrs.erase w })

theorem Chip.walk_takeCorr (s : Nat) (w : CorrIn) (d : Nat) (l : List Nat) (q : Nat) :
    (c.takeCorr s w).walk d q l = c.walk d q l := by
  induction l generalizing q with
  | nil => rfl
  | cons t r ih =>
    unfold Chip.walk
    simp only [ih]
    rfl

theorem Chip.grammarCheck_takeCorr (s : Nat) (w : CorrIn) : (c.takeCorr s w).grammarCheck = c.grammarCheck := by
  funext f value
  unfold Chip.grammarCheck
  simp only [Chip.walk_takeCorr]
  rfl

/-- No check of a correction looks at the sessions. -/
theorem Chip.corrCheck_takeCorr (s : Nat) (w v : CorrIn) : (c.takeCorr s w).corrCheck v = c.corrCheck v := by
  unfold Chip.corrCheck
  rw [Chip.grammarCheck_takeCorr]
  rfl

section
variable {c} {s : Nat}

/-- A session that is closed, or without the role, does nothing. -/
theorem Chip.correction_idle (h : (c.sess s).open_ = false ∨ bitOf (c.sess s).roles 1 = false) (w : CorrIn) :
    c.correction s w = c :=
  if_pos (by rcases h with h | h <;> simp [h])

theorem Chip.correction_eq (ho : (c.sess s).open_ = true) (hr : bitOf (c.sess s).roles 1 = true) (w : CorrIn) :
    c.correction s w = ((c.takeCorr s w).noteCorr (c.corrCheck w).2).formLoose s 7 (corrResult w (c.corrCheck w).1) := by
  unfold Chip.correction
  rw [if_neg (by simp [ho, hr])]
  change ((match ((c.takeCorr s w).corrCheck w).2 with
    | some (set, e) => (((c.takeCorr s w).addExample set e).bump F.ADAPT_CNT0_ACCEPTED).showAdapt
    | none => (c.takeCorr s w).bump F.ADAPT_CNT0_REFUSED).formLoose s 7 (corrResult w ((c.takeCorr s w).corrCheck w).1)) = _
  rw [Chip.corrCheck_takeCorr]
  cases (c.corrCheck w).2 <;> rfl

end

/-- From `c` to `t` a correction whose checks gave `r` has been noted. -/
structure Chip.Notes (c t : Chip) (r : Option (Nat × Example)) : Prop extends c.Learns t where
  formed : t.formed = c.formed
  refused : r = none → c.Counted t F.ADAPT_CNT0_REFUSED ∧ t.adapt = c.adapt
  accepted : ∀ set e, r = some (set, e) → c.Counted t F.ADAPT_CNT0_ACCEPTED ∧
    (t.adSet set).accepted = (c.adSet set).accepted + 1 ∧
    (c.get F.ADAPT_CTRL_HOLD = 0 → (t.adSet set).queue = (c.adSet set).queue ++ [e])

/-- The `n`th accepted example of a set enters its hold-out list, one in every `hold`, else its queue (R328). -/
def AdSet.accept (hold n : Nat) (e : Example) (a : AdSet) : AdSet :=
  if hold ≠ 0 ∧ n % hold = 0 then { a with accepted := n, holdout := a.holdout.drop (a.holdout.length - 63) ++ [e] }
  else { a with accepted := n, queue := a.queue ++ [e] }

theorem Chip.addExample_adSet (set : Nat) (e : Example) : (c.addExample set e).adSet set =
    (c.adSet set).accept (c.get F.ADAPT_CTRL_HOLD) ((c.adSet set).accepted + 1) e :=
  c.adSet_modSet_self set (AdSet.accept (c.get F.ADAPT_CTRL_HOLD) ((c.adSet set).accepted + 1) e)

theorem AdSet.accept_accepted (hold n : Nat) (e : Example) (a : AdSet) : (a.accept hold n e).accepted = n := by
  unfold AdSet.accept
  split <;> rfl

theorem AdSet.accept_queue (n : Nat) (e : Example) (a : AdSet) : (a.accept 0 n e).queue = a.queue ++ [e] := rfl

theorem Chip.addExample_learns (set : Nat) (e : Example) : c.Learns (c.addExample set e) :=
  ⟨⟨rfl, rfl, rfl, rfl, rfl, rfl⟩, rfl, rfl⟩

theorem Chip.noteCorr_some (set : Nat) (e : Example) :
    c.noteCorr (some (set, e)) = ((c.addExample set e).bump F.ADAPT_CNT0_ACCEPTED).showAdapt := rfl

theorem Chip.noteCorr_notes (r : Option (Nat × Example)) : c.Notes (c.noteCorr r) r := by
  cases r with
  | none =>
    exact ⟨c.bump_learns _ _ _ _, rfl, fun _ => ⟨c.bump_counted _ (by decide) (by decide), rfl⟩, (fun _ _ h => nomatch h)⟩
  | some r =>
    obtain ⟨set, e⟩ := r
    have hadd := c.addExample_learns set e
    have hset := c.addExample_adSet set e
    have hformed : (c.addExample set e).formed = c.formed := rfl
    have hstart : (c.addExample set e).get F.ADAPT_CNT0_ACCEPTED = c.get F.ADAPT_CNT0_ACCEPTED := rfl
    rw [Chip.noteCorr_some]
    generalize c.addExample set e = d at hadd hset hformed hstart ⊢
    have hcount : d.Counted (d.bump F.ADAPT_CNT0_ACCEPTED) F.ADAPT_CNT0_ACCEPTED :=
      d.bump_counted _ (by decide) (by decide)
    have hshow : (d.bump F.ADAPT_CNT0_ACCEPTED).showAdapt.adSet set = d.adSet set := Chip.showAdapt_adSet _ set
    refine ⟨(hadd.trans (d.bump_learns _ _ _ _)).trans (Chip.showAdapt_learns _), (Chip.showAdapt_formed _).trans hformed,
      (fun h => nomatch h), fun set' e' h => ?_⟩
    cases h
    rw [hshow, hset]
    exact ⟨(hcount.of_start _ hstart).of_get (Chip.showAdapt_get _ (by decide) (by decide)), AdSet.accept_accepted _ _ _ _,
      fun hh => by rw [hh, AdSet.accept_queue]⟩

/-! ## The start of an update -/

theorem Chip.updateDue_iff (a : AdSet) : c.updateDue a = true ↔ c.get F.ADAPT_CTRL_BATCH + 1 ≤ a.queue.length ∨
    ∃ e rest, a.queue = e :: rest ∧ e.at_ + actsAs (c.get F.ADAPT_CTRL_FLUSH_S) 1 * 1000000000 ≤ c.upNs := by
  unfold Chip.updateDue
  cases a.queue <;> simp

section
variable {c} {k : Nat}

theorem Chip.updateStart_idle (h : ¬ (c.get F.ADAPT_CTRL_STATE = 3 ∧ c.get F.PART_CFG_STATE (c.get F.ADAPT_CTRL_PART) = 3) ∨
    (c.adSet k).running.isSome = true ∨ ¬ c.updateDue (c.adSet k) = true) : c.updateStart k = c := by
  refine if_pos ?_
  simpa only [ne_eq, Bool.not_eq_true', Bool.not_eq_true, not_and_or, or_assoc] using h

theorem Chip.updateStart_due (h : c.get F.ADAPT_CTRL_STATE = 3 ∧ c.get F.PART_CFG_STATE (c.get F.ADAPT_CTRL_PART) = 3)
    (hr : (c.adSet k).running = none) (hd : c.updateDue (c.adSet k) = true) :
    c.updateStart k = c.modSet k (fun a => { a with
      running := some (a.queue.take (c.get F.ADAPT_CTRL_BATCH + 1)), cancel := false
      queue := a.queue.drop (c.get F.ADAPT_CTRL_BATCH + 1) }) :=
  if_neg (by simp [h, hr, hd])

end

/-! ## The release of training -/

/-- From `c` to `t` set `k` has left its table slot, or waits to; the memories, the items and the other parts of the set stay. -/
structure Chip.Unslots (c t : Chip) (k : Nat) : Prop extends NoEnd c t where
  mem : t.mem = c.mem
  items : t.items = c.items
  set : (t.adSet k).endTraining = (c.adSet k).endTraining

theorem Chip.Unslots.learns {c t : Chip} {k : Nat} (h : c.Unslots t k) : c.Learns t := ⟨h.toCore, h.mem, h.items⟩

theorem Chip.Unslots.get {c t : Chip} {k : Nat} (h : c.Unslots t k) {f : Fld} (hf : f.reg.offEnd = true) (i j : Nat) :
    t.get f i j = c.get f i j := Chip.get_of_word f (h.word _ _ _ hf)

/-- Any part of the set but its table slot. -/
theorem Chip.Unslots.part {c t : Chip} {k : Nat} {α : Type} (h : c.Unslots t k) (f : AdSet → α)
    (hf : ∀ a, f a.endTraining = f a := by exact fun _ => rfl) : f (t.adSet k) = f (c.adSet k) := by
  rw [← hf, h.set, hf]

theorem Chip.kvEdit_trainEnd_set (k : Fin 8) : ((c.kvEdit (.trainEnd k)).adSet k.val).endTraining = (c.adSet k.val).endTraining := by
  unfold Chip.kvEdit
  dsimp only
  split
  · rfl
  · exact (congrArg AdSet.endTraining (c.adSet_modSet_self k.val AdSet.endTraining) :)

/-- The edit that ends a set's training runs at once or waits in the queue (R280, R337). -/
theorem Chip.trainRelease_unslots {k : Fin 8} (h : (c.adSet k.val).kvSlot = none ∨ c.kv.waiting = []) :
    c.Unslots (c.trainRelease k) k.val := by
  unfold Chip.trainRelease
  cases hq : (c.adSet k.val).kvSlot with
  | none => exact ⟨NoEnd.refl c, rfl, rfl, rfl⟩
  | some q =>
    have hw : c.kv.waiting = [] := h.resolve_left (by simp [hq])
    have hfree : c.unqueued.Frees (c.unqueued.kvEdit (.trainEnd k)) q := (Chip.kvEdit_trainEnd (c := c.unqueued) hq).1
    have hdrain : kvDrain 1 (c.unqueued.kvEdit (.trainEnd k)) = c.unqueued.kvEdit (.trainEnd k) := by
      unfold kvDrain
      rw [hfree.waiting]
      rfl
    rw [if_pos Option.isSome_some]
    rw [Chip.kvTableEdit_eq hw, hdrain]
    split
    · exact ⟨c.updKv_noEnd _, rfl, rfl, rfl⟩
    · split
      · unfold Chip.countWait
        split
        · exact ⟨c.updKv_noEnd _, rfl, rfl, rfl⟩
        · exact ⟨((c.updKv_noEnd _).trans (Chip.bump_noEnd _ _ _ _ _ (by decide))).trans (Chip.updKv_noEnd _ _), rfl, rfl, rfl⟩
      · exact ⟨(c.updKv_noEnd _).trans (Chip.kvEdit_noEnd _ _), hfree.mem, hfree.items, Chip.kvEdit_trainEnd_set c.unqueued k⟩

/-! ## The end of an update -/

/-- An update that is not under way, or that a disable has cancelled, ends without effect (R337). -/
theorem Chip.updateEnd_idle {c : Chip} {w : UpdateIn}
    (h : (c.adSet w.set.val).running = none ∨ (c.adSet w.set.val).cancel = true) : c.updateEnd w = c := by
  refine if_neg ?_
  unfold Chip.updateLive
  rcases h with h | h <;> simp [h]

theorem Chip.updateEnd_live {c : Chip} {w : UpdateIn} {l : List Example} (hr : (c.adSet w.set.val).running = some l)
    (hc : (c.adSet w.set.val).cancel = false) : c.updateEnd w = (c.trainRelease w.set).updateOver w :=
  if_pos (by simp [Chip.updateLive, hr, hc])

/-- From `c` to `t` an update of set `k` has ended; memories and items stay. -/
structure Chip.Finishes (c t : Chip) (k : Nat) : Prop extends c.Learns t where
  running : (t.adSet k).running = none

/-- An update of examples `l` has failed: those that have failed once before are discarded (R332). -/
structure Chip.Abandons (c t : Chip) (k : Nat) (l : List Example) : Prop extends c.Finishes t k where
  counted : c.Counted t F.ADAPT_CNT1_STEP_FAIL
  queue : (t.adSet k).queue =
    ((l.filter (fun e => e.tries = 0)).map (fun e => { e with tries := e.tries + 1 })) ++ (c.adSet k).queue
  train : (t.adSet k).train = (c.adSet k).train

/-- An update has had no finite gradient: its examples are discarded (R331). -/
structure Chip.Discards (c t : Chip) (k : Nat) : Prop extends c.Finishes t k where
  train : (t.adSet k).train = (c.adSet k).train
  updates : (t.adSet k).updates = (c.adSet k).updates
  queue : (t.adSet k).queue = (c.adSet k).queue

/-- The publication gate follows the update of set `k` that ends (R333). -/
def Chip.gateDue (c : Chip) (k : Nat) : Bool :=
  decide ((c.adSet k).sinceGate + 1 ≥ actsAs (c.get F.ADAPT_CTRL_PUB_EVERY) 1)

/-- An update has advanced set `k` to the training state `tr` (R331). -/
structure Chip.Advances (c t : Chip) (k : Nat) (tr : Train) : Prop extends c.Finishes t k where
  train : (t.adSet k).train = tr
  prev : (t.adSet k).prev = (c.adSet k).train
  updates : (t.adSet k).updates = (c.adSet k).updates + 1
  copy0 : (t.adSet k).copy0 = (c.adSet k).copy0
  copy1 : (t.adSet k).copy1 = (c.adSet k).copy1
  cand : c.gateDue k = false → (t.adSet k).cand = (c.adSet k).cand

/-- The set after an update. -/
def AdSet.advance (tr : Train) (batch : List GradBlk) (due : Bool) (a : AdSet) : AdSet :=
  { a with running := none, prev := a.train, train := tr, batch := batch, updates := a.updates + 1
           sinceGate := if due then 0 else a.sinceGate + 1 }

/-- An update that ends with training state `tr`, before the gate. -/
def Chip.advanceSet (c : Chip) (k : Nat) (tr : Train) (batch : List GradBlk) : Chip :=
  (c.modSet k (AdSet.advance tr batch (c.gateDue k))).wrap F.ADAPT_UPD_UPDATES k

/-- The examples that a failed update leaves are those that have not failed before. -/
theorem filter_tries_succ (l : List Example) :
    (l.map (fun e => { e with tries := e.tries + 1 })).filter (fun e => e.tries < 2) =
      (l.filter (fun e => e.tries = 0)).map (fun e => { e with tries := e.tries + 1 }) := by
  rw [List.filter_map]
  congr 1
  exact List.filter_congr (fun e _ => decide_eq_decide.2 (by simp only; omega))

theorem Chip.advanceSet_adSet (k : Nat) (tr : Train) (batch : List GradBlk) :
    (c.advanceSet k tr batch).adSet k = (c.adSet k).advance tr batch (c.gateDue k) := c.adSet_modSet_self k _

theorem Chip.gate_adSet (k : Nat) (w : UpdateIn) : (c.gate k w).adSet k = c.adSet k ∨
    (c.gate k w).adSet k = { c.adSet k with cand := some (c.adSet k).train.w, waited := false } := by
  unfold Chip.gate
  dsimp only
  split
  · exact .inr (c.adSet_modSet_self k _)
  · exact .inl rfl

theorem Chip.gate_learns (k : Nat) (w : UpdateIn) : c.Learns (c.gate k w) := by
  unfold Chip.gate
  extract_lets a n cs ps d
  have hd : c.Learns d := (c.put_learns _ _ _ _).trans (Chip.put_learns _ _ _ _ _)
  split
  · exact hd.trans (d.modSet_learns _ _)
  · exact hd.trans (d.bump_learns _ _ _ _)

theorem Chip.abandonUpdate_abandons (k : Nat) (l : List Example) : c.Abandons (c.abandonUpdate k l).showAdapt k l := by
  unfold Chip.abandonUpdate
  extract_lets l' keep d
  have hkeep : keep = (l.filter (fun e => e.tries = 0)).map (fun e => { e with tries := e.tries + 1 }) := filter_tries_succ l
  have hlearns : c.Learns d := c.modSet_learns _ _
  have hset : d.adSet k = { c.adSet k with running := none, queue := keep ++ (c.adSet k).queue } := c.adSet_modSet_self k _
  have hstart : d.get F.ADAPT_CNT1_STEP_FAIL = c.get F.ADAPT_CNT1_STEP_FAIL := rfl
  clear_value keep d
  have hcount : c.Counted (d.bump F.ADAPT_CNT1_STEP_FAIL) F.ADAPT_CNT1_STEP_FAIL :=
    Chip.Counted.of_start _ (d.bump_counted _ (by decide) (by decide)) hstart
  have hshow : ((d.bump F.ADAPT_CNT1_STEP_FAIL).bump F.ADAPT_CNT1_DISCARD 0 0 (l'.length - keep.length)).showAdapt.adSet k =
      d.adSet k := Chip.showAdapt_adSet _ k
  refine ⟨⟨((hlearns.trans (d.bump_learns _ _ _ _)).trans (Chip.bump_learns _ _ _ _ _)).trans (Chip.showAdapt_learns _), ?_⟩,
    hcount.of_get ?_, ?_, ?_⟩
  · rw [hshow, hset]
  · exact (Chip.showAdapt_get _ (by decide) (by decide)).trans (Chip.get_put_field _ _ _ _ _ _ rfl (by decide) (by decide))
  · rw [hshow, hset, hkeep]
  · rw [hshow, hset]

theorem Chip.stopUpdate_discards (k n : Nat) :
    c.Discards ((c.modSet k (fun a => { a with running := none })).bump F.ADAPT_CNT1_DISCARD 0 0 n).showAdapt k := by
  have hshow : ((c.modSet k (fun a => { a with running := none })).bump F.ADAPT_CNT1_DISCARD 0 0 n).showAdapt.adSet k =
      { c.adSet k with running := none } := (Chip.showAdapt_adSet _ k).trans (c.adSet_modSet_self k _)
  refine ⟨⟨((c.modSet_learns _ _).trans (Chip.bump_learns _ _ _ _ _)).trans (Chip.showAdapt_learns _), ?_⟩, ?_, ?_, ?_⟩ <;> rw [hshow]

theorem Chip.advanceSet_advances (w : UpdateIn) (k : Nat) (tr : Train) (batch : List GradBlk) : c.Advances
    (if c.gateDue k then (c.advanceSet k tr batch).gate k w else c.advanceSet k tr batch).showAdapt k tr := by
  have hset := c.advanceSet_adSet k tr batch
  have hlearns : c.Learns (c.advanceSet k tr batch) := (c.modSet_learns _ _).trans (Chip.put_learns _ _ _ _ _)
  generalize c.advanceSet k tr batch = d at hset hlearns ⊢
  have hshow := Chip.showAdapt_adSet (if c.gateDue k then d.gate k w else d) k
  cases hdue : c.gateDue k with
  | false =>
    rw [hdue] at hshow
    rw [if_neg Bool.false_ne_true] at hshow ⊢
    refine ⟨⟨hlearns.trans (Chip.showAdapt_learns _), ?_⟩, ?_, ?_, ?_, ?_, ?_, fun _ => ?_⟩ <;> rw [hshow, hset] <;> rfl
  | true =>
    rw [hdue] at hshow
    rw [if_pos rfl] at hshow ⊢
    refine ⟨⟨(hlearns.trans (d.gate_learns k w)).trans (Chip.showAdapt_learns _), ?_⟩, ?_, ?_, ?_, ?_, ?_,
      fun h => Bool.noConfusion (h.symm.trans hdue)⟩ <;> rw [hshow] <;>
      rcases d.gate_adSet k w with h | h <;> rw [h, hset] <;> rfl

section
variable {c} {w : UpdateIn} {l : List Example} {cfg : AdaptCfg} (hr : (c.adSet w.set.val).running = some l)
  (hcfg : c.image.adapt[w.set.val]? = some cfg)
include hr hcfg

/-- What the end of a live update comes to. -/
theorem Chip.updateOver_eq : c.updateOver w =
    if w.failed then (c.abandonUpdate w.set.val l).showAdapt
    else
      match applyUpdate cfg (c.adSet w.set.val).train ((c.adSet w.set.val).updates + 1) (w.grads.take l.length) with
      | none => ((c.modSet w.set.val (fun a => { a with running := none })).bump F.ADAPT_CNT1_DISCARD 0 0 l.length).showAdapt
      | some (tr, batch) => (if c.gateDue w.set.val then (c.advanceSet w.set.val tr batch).gate w.set.val w
          else c.advanceSet w.set.val tr batch).showAdapt := by
  unfold Chip.updateOver
  simp only [hr, hcfg]
  rfl

end

/-- The release of training changes nothing that an update works on. -/
theorem Chip.Unslots.abandons {c d t : Chip} {k : Nat} {l : List Example} (h : c.Unslots d k) (ht : d.Abandons t k l) :
    c.Abandons t k l where
  toLearns := h.learns.trans ht.toLearns
  running := ht.running
  counted := ht.counted.of_start _ (h.get (by decide) _ _)
  queue := ht.queue.trans (congrArg (_ ++ ·) (h.part AdSet.queue))
  train := ht.train.trans (h.part AdSet.train)

theorem Chip.Unslots.discards {c d t : Chip} {k : Nat} (h : c.Unslots d k) (ht : d.Discards t k) : c.Discards t k where
  toLearns := h.learns.trans ht.toLearns
  running := ht.running
  train := ht.train.trans (h.part AdSet.train)
  updates := ht.updates.trans (h.part AdSet.updates)
  queue := ht.queue.trans (h.part AdSet.queue)

theorem Chip.Unslots.gateDue {c d : Chip} {k : Nat} (h : c.Unslots d k) : d.gateDue k = c.gateDue k := by
  have hsince : (d.adSet k).sinceGate = (c.adSet k).sinceGate := h.part AdSet.sinceGate
  unfold Chip.gateDue
  rw [hsince, h.get (by decide)]

theorem Chip.Unslots.advances {c d t : Chip} {k : Nat} {tr : Train} (h : c.Unslots d k) (ht : d.Advances t k tr) :
    c.Advances t k tr where
  toLearns := h.learns.trans ht.toLearns
  running := ht.running
  train := ht.train
  prev := ht.prev.trans (h.part AdSet.train)
  updates := ht.updates.trans (h.part (AdSet.updates · + 1))
  copy0 := ht.copy0.trans (h.part AdSet.copy0)
  copy1 := ht.copy1.trans (h.part AdSet.copy1)
  cand := fun hdue => (ht.cand (h.gateDue.trans hdue)).trans (h.part AdSet.cand)

section
variable {c} {w : UpdateIn} {l : List Example} {cfg : AdaptCfg} (hr : (c.adSet w.set.val).running = some l)
  (hc : (c.adSet w.set.val).cancel = false) (hcfg : c.image.adapt[w.set.val]? = some cfg)
  (hkv : (c.adSet w.set.val).kvSlot = none ∨ c.kv.waiting = [])
include hr hc hcfg hkv

/-- The training state that an update computes is that of the set before the release. -/
theorem Chip.updateEnd_eq : ∃ d, c.Unslots d w.set.val ∧ c.updateEnd w =
    if w.failed then (d.abandonUpdate w.set.val l).showAdapt
    else
      match applyUpdate cfg (c.adSet w.set.val).train ((c.adSet w.set.val).updates + 1) (w.grads.take l.length) with
      | none => ((d.modSet w.set.val (fun a => { a with running := none })).bump F.ADAPT_CNT1_DISCARD 0 0 l.length).showAdapt
      | some (tr, batch) => (if d.gateDue w.set.val then (d.advanceSet w.set.val tr batch).gate w.set.val w
          else d.advanceSet w.set.val tr batch).showAdapt := by
  have hd := c.trainRelease_unslots hkv
  refine ⟨_, hd, ?_⟩
  have hrun : ((c.trainRelease w.set).adSet w.set.val).running = some l := (hd.part AdSet.running).trans hr
  have htrain : ((c.trainRelease w.set).adSet w.set.val).train = (c.adSet w.set.val).train := hd.part AdSet.train
  have hupd : ((c.trainRelease w.set).adSet w.set.val).updates = (c.adSet w.set.val).updates := hd.part AdSet.updates
  rw [Chip.updateEnd_live hr hc, Chip.updateOver_eq hrun (by rw [hd.image, hcfg]), htrain, hupd]

theorem Chip.updateEnd_abandons (hf : w.failed = true) : c.Abandons (c.updateEnd w) w.set.val l := by
  obtain ⟨d, hd, heq⟩ := Chip.updateEnd_eq hr hc hcfg hkv
  rw [heq, if_pos hf]
  exact hd.abandons (d.abandonUpdate_abandons _ _)

theorem Chip.updateEnd_discards (hf : w.failed = false)
    (ha : applyUpdate cfg (c.adSet w.set.val).train ((c.adSet w.set.val).updates + 1) (w.grads.take l.length) = none) :
    c.Discards (c.updateEnd w) w.set.val := by
  obtain ⟨d, hd, heq⟩ := Chip.updateEnd_eq hr hc hcfg hkv
  rw [heq, if_neg (ne_true_of_eq_false hf), ha]
  exact hd.discards (d.stopUpdate_discards _ _)

theorem Chip.updateEnd_advances {tr : Train} {batch : List GradBlk} (hf : w.failed = false)
    (ha : applyUpdate cfg (c.adSet w.set.val).train ((c.adSet w.set.val).updates + 1) (w.grads.take l.length) =
      some (tr, batch)) : c.Advances (c.updateEnd w) w.set.val tr := by
  obtain ⟨d, hd, heq⟩ := Chip.updateEnd_eq hr hc hcfg hkv
  rw [heq, if_neg (ne_true_of_eq_false hf), ha]
  exact hd.advances (d.advanceSet_advances _ _ _ _)

end

/-! ## Publication -/

/-- The candidate `v` is written into copy `x`; CUR flips at the next course boundary (R323). -/
def AdSet.publishInto (x : Nat) (v : List Nat) (a : AdSet) : AdSet :=
  if x = 0 then { a with cand := none, waited := false, flip := true, copy0 := v }
  else { a with cand := none, waited := false, flip := true, copy1 := v }

theorem AdSet.publishInto_cand (x : Nat) (v : List Nat) (a : AdSet) : (a.publishInto x v).cand = none := by
  unfold AdSet.publishInto
  split <;> rfl

theorem AdSet.publishInto_flip (x : Nat) (v : List Nat) (a : AdSet) : (a.publishInto x v).flip = true := by
  unfold AdSet.publishInto
  split <;> rfl

/-- The other copy stays. -/
theorem AdSet.publishInto_copies (x : Nat) (v : List Nat) (a : AdSet) :
    if x = 0 then (a.publishInto x v).copy0 = v ∧ (a.publishInto x v).copy1 = a.copy1
    else (a.publishInto x v).copy1 = v ∧ (a.publishInto x v).copy0 = a.copy0 := by
  unfold AdSet.publishInto
  split <;> exact ⟨rfl, rfl⟩

/-- From `c` to `t` the candidate `v` of set `k` has been written into copy `x`, and CUR stays. -/
structure Chip.Stores (c t : Chip) (k x : Nat) (v : List Nat) : Prop extends c.Learns t where
  set : t.adSet k = (c.adSet k).publishInto x v
  cur : t.get F.ADAPT_SET_CUR k = c.get F.ADAPT_SET_CUR k

/-- From `c` to `t` a candidate of set `k` has come to wait for its copy, and is counted. -/
structure Chip.Awaits (c t : Chip) (k : Nat) : Prop extends c.Learns t where
  set : t.adSet k = { c.adSet k with waited := true }
  counted : c.Counted t F.ADAPT_CNT1_PUB_WAIT

/-- The number of the copy of set `k` that is not published. -/
def Chip.spareCopy (c : Chip) (k : Nat) : Nat := 1 - c.get F.ADAPT_SET_CUR k

section
variable {c} {k : Nat} {v : List Nat}

theorem Chip.publish_none (h : (c.adSet k).cand = none) : c.publish k = c := by
  unfold Chip.publish
  simp only [h]

variable (h : (c.adSet k).cand = some v) (hflip : (c.adSet k).flip = false)
include h hflip

theorem Chip.publish_stores (hfree : c.copyFree k (c.spareCopy k) = true) :
    c.Stores (c.publish k).settle k (c.spareCopy k) v := by
  have heq : c.publish k = c.modSet k (AdSet.publishInto (c.spareCopy k) v) := by
    unfold Chip.publish
    simp only [h, hflip, Bool.false_eq_true, if_false]
    exact if_pos hfree
  rw [heq]
  exact ⟨(c.modSet_learns k _).settle, (Chip.settle_adSet _ _).trans (c.adSet_modSet_self k _),
    (Chip.settle_calm _).get_apart (by decide)⟩

theorem Chip.publish_awaits (hfree : c.copyFree k (c.spareCopy k) = false) (hw : (c.adSet k).waited = false) :
    c.Awaits (c.publish k).settle k := by
  have heq : c.publish k = (c.modSet k (fun a => { a with waited := true })).bump F.ADAPT_CNT1_PUB_WAIT := by
    unfold Chip.publish
    simp only [h, hflip, hw, Bool.false_eq_true, if_false]
    exact if_neg (ne_true_of_eq_false hfree)
  rw [heq]
  exact ⟨((c.modSet_learns k _).trans (Chip.bump_learns _ _ _ _ _)).settle, (Chip.settle_adSet _ _).trans (c.adSet_modSet_self k _),
    Chip.Counted.settle _ (Chip.Counted.of_start _ (Chip.bump_counted _ _ (by decide) (by decide)) rfl) (by decide)⟩

end

/-! ## The obligation -/

theorem exec_correction_up (s : State) (x : Fin 64) (w : CorrIn) (hup : s.chip.Up) {d : Chip}
    (h : s.chip.correction x.val w = d) : exec (.correction x w) s = .next ⟨s.pending, d.settle⟩ := by
  simp only [exec_correction, Chip.serving_eq _ hup.1 hup.2, h]

theorem exec_adaptUpdateStart_up (s : State) (k : Fin 8) (hup : s.chip.Up) {d : Chip} (h : s.chip.updateStart k.val = d) :
    exec (.adaptUpdateStart k) s = .next ⟨s.pending, d.settle⟩ := by
  simp only [exec_adaptUpdateStart, Chip.serving_eq _ hup.1 hup.2, h]

theorem exec_adaptUpdateEnd_up (s : State) (w : UpdateIn) (hup : s.chip.Up) {d : Chip} (h : s.chip.updateEnd w = d) :
    exec (.adaptUpdateEnd w) s = .next ⟨s.pending, d.settle⟩ := by
  simp only [exec_adaptUpdateEnd, Chip.serving_eq _ hup.1 hup.2, h]

theorem exec_adaptPublish_up (s : State) (k : Fin 8) (hup : s.chip.Up) {d : Chip} (h : s.chip.publish k.val = d) :
    exec (.adaptPublish k) s = .next ⟨s.pending, d.settle⟩ := by
  simp only [exec_adaptPublish, Chip.serving_eq _ hup.1 hup.2, h]

/-- An accepted correction, answered. -/
theorem Chip.correction_notes {s : Nat} (ho : (c.sess s).open_ = true) (hr : bitOf (c.sess s).roles 1 = true) (w : CorrIn) :
    ∃ d, c.Notes d (c.corrCheck w).2 ∧ c.correction s w = d.formLoose s 7 (corrResult w (c.corrCheck w).1) := by
  have h := (c.takeCorr s w).noteCorr_notes (c.corrCheck w).2
  exact ⟨_, ⟨⟨⟨h.image, h.clock, h.fuses, h.flash, h.boot, h.mgmt⟩, h.mem, h.items⟩, h.formed, h.refused, h.accepted⟩,
    Chip.correction_eq ho hr w⟩

/-- Settles O40: corrections, the start and the end of an update, and publication, each by its cases. -/
theorem adaptationLearns : Obligations.AdaptationLearns := by
  unfold Obligations.AdaptationLearns
  intro s hup c
  refine ⟨fun x w h => exec_correction_up s x w hup (Chip.correction_idle h w), fun x w ho hr => ?_, fun set => ?_⟩
  · obtain ⟨d, hd, heq⟩ := c.correction_notes ho hr w
    generalize hmade : d.formLoose x.val 7 (corrResult w (c.corrCheck w).1) = m at heq
    have hm : d.Learns m := hmade ▸ ⟨⟨rfl, rfl, rfl, rfl, rfl, rfl⟩, rfl, rfl⟩
    have hadapt : m.settle.adapt = d.adapt := m.settle_adapt.trans (hmade ▸ rfl)
    have hset : ∀ k, m.settle.adSet k = d.adSet k := fun k => congrArg (fun a : Adapt => smGet AdSet.cold a.sets k) hadapt
    have hget : ∀ f : Fld, Reg.apart .HOLD_STAT f.reg = true → m.settle.get f = d.get f := fun f hf =>
      (m.settle_calm.get_apart hf).trans (hmade ▸ rfl)
    obtain ⟨more, hmore⟩ := m.settle_settles.formed
    have hlearns := (hd.toLearns.trans hm).settle
    refine ⟨_, more, exec_correction_up s x w hup heq, rfl, ?_, fun hn => ?_, fun k e ha => ?_, hlearns.items, hlearns.mem,
      hlearns.toCore⟩
    · rw [hmore, ← hmade]
      exact congrArg (· ++ _ ++ more) hd.formed
    · obtain ⟨hcount, hsame⟩ := hd.refused hn
      exact ⟨hcount.of_get (hget _ (by decide)), hadapt.trans hsame⟩
    · obtain ⟨hcount, hacc, hqueue⟩ := hd.accepted k e ha
      exact ⟨hcount.of_get (hget _ (by decide)), (congrArg AdSet.accepted (hset k)).trans hacc,
        fun hh => (congrArg AdSet.queue (hset k)).trans (hqueue hh)⟩
  · intro a on n due
    have hdue : c.updateDue a = true ↔ due := c.updateDue_iff a
    refine ⟨fun h => ?_, fun hon hrun hd => ?_, fun w hw h => ?_, fun w l cfg hw hrun hcancel hcfg hkv => ?_, fun h => ?_,
      fun v hv hflip => ?_⟩
    · exact exec_adaptUpdateStart_up s set hup (Chip.updateStart_idle (h.imp_right (Or.imp_right (mt hdue.1))))
    · exact exec_adaptUpdateStart_up s set hup (Chip.updateStart_due hon hrun (hdue.2 hd))
    · subst hw
      exact exec_adaptUpdateEnd_up s w hup (Chip.updateEnd_idle h)
    · subst hw
      intro gateDue ends
      have hends : ∀ P, c.Finishes (c.updateEnd w) w.set.val →
          P ((c.updateEnd w).adSet w.set.val) (c.updateEnd w).settle → ends P := fun P hfin hP =>
        have hset := (c.updateEnd w).settle_adSet w.set.val
        have hl := hfin.toLearns.settle
        ⟨_, exec_adaptUpdateEnd_up s w hup rfl, rfl, (congrArg AdSet.running hset).trans hfin.running, by rwa [hset], hl.mem,
          hl.items, hl.toCore⟩
      clear_value ends
      refine ⟨fun hf => ?_, fun hf ha => ?_, fun tr g hf ha => ?_⟩
      · have h := Chip.updateEnd_abandons hrun hcancel hcfg hkv hf
        exact hends _ h.toFinishes ⟨h.counted.settle _ (by decide), h.queue, h.train⟩
      · have h := Chip.updateEnd_discards hrun hcancel hcfg hkv hf ha
        exact hends _ h.toFinishes ⟨h.train, h.updates, h.queue⟩
      · have h := Chip.updateEnd_advances hrun hcancel hcfg hkv hf ha
        exact hends _ h.toFinishes ⟨h.train, h.prev, h.updates, h.copy0, h.copy1, h.cand⟩
    · exact exec_adaptPublish_up s set hup (Chip.publish_none h)
    · intro x
      refine ⟨fun hfree => ?_, fun hfree hwaited => ?_⟩
      · have h : c.Stores (c.publish set.val).settle set.val x v := Chip.publish_stores hv hflip hfree
        exact ⟨_, exec_adaptPublish_up s set hup rfl, rfl, (congrArg AdSet.cand h.set).trans (a.publishInto_cand x v),
          (congrArg AdSet.flip h.set).trans (a.publishInto_flip x v), h.set ▸ a.publishInto_copies x v, h.cur, h.mem, h.items,
          h.toCore⟩
      · have h : c.Awaits (c.publish set.val).settle set.val := Chip.publish_awaits hv hflip hfree hwaited
        exact ⟨_, exec_adaptPublish_up s set hup rfl, rfl, h.counted, (congrArg AdSet.cand h.set).trans hv,
          (congrArg AdSet.copy0 h.set :),
          (congrArg AdSet.copy1 h.set :), h.mem, h.toCore⟩

end Sys2Proof.Machine
end

section
/-!
PROOFS. The local clock, the configuration image and the flash devices change by few commands only.  What the model's functions
keep of the three is said in the order of the model, one equation per function, which goes through its branches; the functions
that change one of the three have the two others.  simp keeps the lemmas it has used in its proofs (-implicitDefEqProofs): left
to definitional unfolding, the kernel would compare two devices part by part.
-/

namespace Sys2Proof.Machine

/-- What few commands change: the local clock, the configuration image and the flash devices. -/
def Chip.lasting (c : Chip) : Clock × ImageConfig × List Flash := (c.clock, c.image, c.flash)

/-- A device that is new in other parts only; `(rfl)` rather than `rfl`, so that simp cites the lemma in its proof. -/
@[simp] theorem lasting_mk (c : Chip) {re fr fa me sc rc st tr it su fo ne sv ss kv ad bo fu mg} :
    (⟨re, fr, c.image, c.clock, fa, me, sc, rc, st, tr, it, su, fo, ne, sv, ss, kv, ad, bo, fu, c.flash, mg⟩ : Chip).lasting =
      c.lasting := (rfl)

@[simp] theorem lasting_ite {p : Prop} [Decidable p] (a b : Chip) :
    (if p then a else b).lasting = if p then a.lasting else b.lasting := apply_ite ..

@[simp] theorem lasting_fst_ite {α : Type} {p : Prop} [Decidable p] (a b : Chip × α) :
    (if p then a else b).1.lasting = if p then a.1.lasting else b.1.lasting :=
  apply_ite (fun x : Chip × α => x.1.lasting) p a b

@[simp] theorem foldl_lasting {β : Type} {g : Chip → β → Chip} (hg : ∀ c x, (g c x).lasting = c.lasting) (l : List β)
    (c : Chip) : (l.foldl g c).lasting = c.lasting := by
  induction l generalizing c with
  | nil => rfl
  | cons x l ih => exact (ih _).trans (hg c x)

@[simp] theorem foldN_lasting {g : Chip → Nat → Chip} (hg : ∀ c x, (g c x).lasting = c.lasting) (n : Nat) (c : Chip) :
    (foldN n g c).lasting = c.lasting := foldl_lasting hg _ c

@[simp] theorem foldl_fst_lasting {α β : Type} {g : Chip × α → β → Chip × α} (hg : ∀ a x, (g a x).1.lasting = a.1.lasting)
    (l : List β) (a : Chip × α) : (l.foldl g a).1.lasting = a.1.lasting := by
  induction l generalizing a with
  | nil => rfl
  | cons x l ih => exact (ih _).trans (hg a x)

@[simp] theorem Chip.setWord_lasting (c : Chip) (r : Reg) (i j v : Nat) : (c.setWord r i j v).lasting = c.lasting := (rfl)
@[simp] theorem Chip.updMem_lasting (c : Chip) (f : Mem → Mem) : (c.updMem f).lasting = c.lasting := (rfl)
@[simp] theorem Chip.updBoot_lasting (c : Chip) (f : Boot → Boot) : (c.updBoot f).lasting = c.lasting := (rfl)

variable (c : Chip)

/-! ## Registers -/

@[simp] theorem Chip.put_lasting (f : Fld) (v : Nat) (i j : Nat) : (c.put f v i j).lasting = c.lasting := by
  simp -implicitDefEqProofs [Chip.put]

@[simp] theorem Chip.putB_lasting (f : Fld) (v : Bool) (i j : Nat) : (c.putB f v i j).lasting = c.lasting := by
  simp -implicitDefEqProofs [Chip.putB]

@[simp] theorem Chip.bump_lasting (f : Fld) (i j n : Nat) : (c.bump f i j n).lasting = c.lasting := by
  simp -implicitDefEqProofs [Chip.bump]

@[simp] theorem Chip.wrap_lasting (f : Fld) (i j n : Nat) : (c.wrap f i j n).lasting = c.lasting := by
  simp -implicitDefEqProofs [Chip.wrap]

@[simp] theorem loadImageWord_lasting (warm : Bool) (c : Chip) (aw : Nat × Word) :
    (loadImageWord warm c aw).lasting = c.lasting := by
  unfold loadImageWord
  split <;> simp -implicitDefEqProofs

/-! ## Fabric -/

@[simp] theorem Chip.mapLater_lasting (r : Reg) (i j w : Nat) : (c.mapLater r i j w).lasting = c.lasting := by
  simp -implicitDefEqProofs [Chip.mapLater]

@[simp] theorem Chip.applyMaps_lasting (ready : Nat → Bool) : (c.applyMaps ready).lasting = c.lasting := by
  unfold Chip.applyMaps
  refine (lasting_mk _).trans (foldl_lasting (fun c e => ?_) _ c)
  split
  · exact c.setWord_lasting _ _ _ _
  · rfl

@[simp] theorem Chip.modRing_lasting (k : Nat) (f : RingMem → RingMem) : (c.modRing k f).lasting = c.lasting := by
  simp -implicitDefEqProofs [Chip.modRing]

@[simp] theorem Chip.paceWindow_lasting (ring : Ring) (count : Nat) : (c.paceWindow ring count).lasting = c.lasting := by
  simp -implicitDefEqProofs [Chip.paceWindow]

@[simp] theorem Chip.lowRead_lasting (r : Reg) (i j : Nat) : (c.lowRead r i j).lasting = c.lasting := by
  unfold Chip.lowRead
  split <;> simp -implicitDefEqProofs

@[simp] theorem Chip.reportPmin_lasting : c.reportPmin.lasting = c.lasting := by
  unfold Chip.reportPmin
  split <;> simp -implicitDefEqProofs

@[simp] theorem Chip.pmbFault_lasting : c.pmbFault.lasting = c.lasting := by
  simp -implicitDefEqProofs [Chip.pmbFault]

@[simp] theorem Chip.pmbRead_lasting (a : Option PmbIn) : (c.pmbRead a).lasting = c.lasting := by
  unfold Chip.pmbRead
  split <;> simp -implicitDefEqProofs

@[simp] theorem Chip.clearMinima_lasting : c.clearMinima.lasting = c.lasting := by
  simp -implicitDefEqProofs [Chip.clearMinima]

@[simp] theorem Chip.governAct_lasting (a : GovAct) : (c.governAct a).lasting = c.lasting := by
  unfold Chip.governAct
  dsimp only
  split <;> simp -implicitDefEqProofs

@[simp] theorem Chip.governor_lasting (a : Option PmbIn) : (c.governor a).lasting = c.lasting := by
  unfold Chip.governor
  dsimp only
  repeat' split
  all_goals simp -implicitDefEqProofs

/-! ## Log and counters -/

@[simp] theorem Chip.log_lasting (code : Nat) (l : Loc) (stated : Option Nat) : (c.log code l stated).lasting = c.lasting := by
  simp -implicitDefEqProofs [Chip.log]

@[simp] theorem Chip.updSched_lasting (f : Sched → Sched) : (c.updSched f).lasting = c.lasting := by
  simp -implicitDefEqProofs [Chip.updSched]

@[simp] theorem Chip.updRecov_lasting (f : Recov → Recov) : (c.updRecov f).lasting = c.lasting := by
  simp -implicitDefEqProofs [Chip.updRecov]

@[simp] theorem Chip.updItems_lasting (f : Items → Items) : (c.updItems f).lasting = c.lasting := by
  simp -implicitDefEqProofs [Chip.updItems]

@[simp] theorem Chip.modStream_lasting (n : Nat) (f : Stream → Stream) : (c.modStream n f).lasting = c.lasting := by
  simp -implicitDefEqProofs [Chip.modStream]

@[simp] theorem Chip.modTransport_lasting (k : Nat) (f : Transport → Transport) : (c.modTransport k f).lasting = c.lasting := by
  simp -implicitDefEqProofs [Chip.modTransport]

@[simp] theorem Chip.modSubm_lasting (s : Nat) (f : Subm → Subm) : (c.modSubm s f).lasting = c.lasting := by
  simp -implicitDefEqProofs [Chip.modSubm]

@[simp] theorem Chip.modItem_lasting (n : Nat) (f : Item → Item) : (c.modItem n f).lasting = c.lasting := by
  simp -implicitDefEqProofs [Chip.modItem]

@[simp] theorem Chip.setRun_lasting (u : Nat) (r : Option StepRun) : (c.setRun u r).lasting = c.lasting := by
  simp -implicitDefEqProofs [Chip.setRun]

@[simp] theorem Chip.modRun_lasting (u : Nat) (f : StepRun → StepRun) : (c.modRun u f).lasting = c.lasting := by
  unfold Chip.modRun
  split <;> simp -implicitDefEqProofs

@[simp] theorem Chip.stopItem_lasting (n : Nat) (why : List Byte) : (c.stopItem n why).lasting = c.lasting := by
  unfold Chip.stopItem
  split <;> simp -implicitDefEqProofs

/-! ## Handles and granules -/

@[simp] theorem Chip.writeGran_lasting (g : Gran) (d : List Byte) : (c.writeGran g d).lasting = c.lasting := by
  simp -implicitDefEqProofs [Chip.writeGran]

@[simp] theorem Chip.writeHandle_lasting (h : HRef) (d : List Byte) : (c.writeHandle h d).lasting = c.lasting := by
  simp -implicitDefEqProofs [Chip.writeHandle]

/-! ## Faults and poison -/

@[simp] theorem Chip.needRerun_lasting (n : Option Nat) : (c.needRerun n).lasting = c.lasting := by
  unfold Chip.needRerun
  split <;> simp -implicitDefEqProofs

@[simp] theorem Chip.freeSite_lasting (r b site : Nat) : (c.freeSite r b site).lasting = c.lasting := by
  simp -implicitDefEqProofs [Chip.freeSite]

@[simp] theorem Chip.freeBlock_lasting (u : Nat) : (c.freeBlock u).lasting = c.lasting := by
  simp -implicitDefEqProofs [Chip.freeBlock]

@[simp] theorem Chip.setHndValid_lasting (k : Nat) (v : Bool) : (c.setHndValid k v).lasting = c.lasting := by
  simp -implicitDefEqProofs [Chip.setHndValid]

@[simp] theorem Chip.stopFor_lasting (u p : Nat) (x : Preempt) : (c.stopFor u p x).lasting = c.lasting := by
  simp -implicitDefEqProofs [Chip.stopFor]

@[simp] theorem Chip.stopBlock_lasting (u : Nat) : (c.stopBlock u).lasting = c.lasting := by
  unfold Chip.stopBlock
  refine foldl_lasting (fun c e => ?_) _ c
  split
  · exact c.stopFor_lasting u _ _
  · rfl

@[simp] theorem Chip.serveFrom_lasting (u k : Nat) : (c.serveFrom u k).lasting = c.lasting := by
  simp -implicitDefEqProofs [Chip.serveFrom]

@[simp] theorem Chip.setLent_lasting (p : Nat) (on : Bool) : (c.setLent p on).lasting = c.lasting := by
  simp -implicitDefEqProofs [Chip.setLent]

@[simp] theorem Chip.giveBack_lasting (b u : Nat) : (c.giveBack b u).lasting = c.lasting := by
  simp -implicitDefEqProofs [Chip.giveBack]

@[simp] theorem Chip.unlend_lasting (p : Nat) : (c.unlend p).lasting = c.lasting := by
  simp -implicitDefEqProofs [Chip.unlend]

@[simp] theorem Chip.returnLent_lasting : c.returnLent.lasting = c.lasting := by
  simp -implicitDefEqProofs [Chip.returnLent]

@[simp] theorem Chip.boundary_lasting (u : Nat) : (c.boundary u).lasting = c.lasting := by
  simp -implicitDefEqProofs [Chip.boundary]

@[simp] theorem Chip.loseStep_lasting (u : Nat) : (c.loseStep u).lasting = c.lasting := by
  unfold Chip.loseStep
  split <;> simp -implicitDefEqProofs

@[simp] theorem Chip.markBlock_lasting (r b : Nat) : (c.markBlock r b).lasting = c.lasting := by
  simp -implicitDefEqProofs [Chip.markBlock]

@[simp] theorem Chip.retarget_lasting : c.retarget.lasting = c.lasting := by
  simp -implicitDefEqProofs [Chip.retarget]

@[simp] theorem Chip.degrade_lasting (d : Degradation) : (c.degrade d).lasting = c.lasting := by
  simp -implicitDefEqProofs [Chip.degrade]

@[simp] theorem Chip.regionFail_lasting (r : Nat) : (c.regionFail r).lasting = c.lasting := by
  unfold Chip.regionFail
  repeat' split
  all_goals simp -implicitDefEqProofs

@[simp] theorem Chip.blockFail_lasting (r b : Nat) : (c.blockFail r b).lasting = c.lasting := by
  unfold Chip.blockFail
  dsimp only
  repeat' split
  all_goals simp -implicitDefEqProofs

@[simp] theorem Chip.loseCellStep_lasting (u l : Nat) : (c.loseCellStep u l).lasting = c.lasting := by
  unfold Chip.loseCellStep
  split <;> simp -implicitDefEqProofs

@[simp] theorem Chip.siteFail_lasting (r b site : Nat) : (c.siteFail r b site).lasting = c.lasting := by
  unfold Chip.siteFail
  dsimp only
  repeat' split
  all_goals simp -implicitDefEqProofs

@[simp] theorem Chip.textFail_lasting (t : Nat) : (c.textFail t).lasting = c.lasting := by
  unfold Chip.textFail
  dsimp only
  repeat' split
  all_goals simp -implicitDefEqProofs

@[simp] theorem Chip.laneFail_lasting (d : Nat) : (c.laneFail d).lasting = c.lasting := by
  unfold Chip.laneFail
  dsimp only
  repeat' split
  all_goals simp -implicitDefEqProofs

@[simp] theorem Chip.walkerFail_lasting (r b : Nat) : (c.walkerFail r b).lasting = c.lasting := by
  simp -implicitDefEqProofs [Chip.walkerFail]

@[simp] theorem Chip.unitFail_lasting (u : UnitId) : (c.unitFail u).lasting = c.lasting := by
  unfold Chip.unitFail
  split <;> simp -implicitDefEqProofs

@[simp] theorem Chip.reexecuted_lasting (u : UnitId) : (c.reexecuted u).lasting = c.lasting := by
  unfold Chip.reexecuted
  split <;> simp -implicitDefEqProofs

@[simp] theorem Chip.cellError_lasting (u : Nat) (site : UnitId) (reserved : Bool) :
    (c.cellError u site reserved).lasting = c.lasting := by
  unfold Chip.cellError
  dsimp only
  repeat' split
  all_goals simp -implicitDefEqProofs

@[simp] theorem Chip.faultHold_lasting : c.faultHold.lasting = c.lasting := by
  simp -implicitDefEqProofs [Chip.faultHold]

@[simp] theorem Chip.logGraft_lasting (r : Reg) (i j old new : Nat) : (c.logGraft r i j old new).lasting = c.lasting := by
  unfold Chip.logGraft
  split <;> simp -implicitDefEqProofs

@[simp] theorem Chip.graftDue_lasting (ready : Nat → Bool) : (c.graftDue ready).lasting = c.lasting := by
  unfold Chip.graftDue
  refine (foldl_lasting (fun d e => ?_) _ _).trans (c.applyMaps_lasting ready)
  split
  · dsimp only
    split <;> simp -implicitDefEqProofs
  · rfl

@[simp] theorem Chip.roleLost_lasting (role : Nat) : (c.roleLost role).lasting = c.lasting := by
  simp -implicitDefEqProofs [Chip.roleLost]

@[simp] theorem Chip.coreFail_lasting (k : Nat) : (c.coreFail k).lasting = c.lasting := by
  unfold Chip.coreFail
  dsimp only
  repeat' split
  all_goals simp -implicitDefEqProofs

@[simp] theorem Chip.takeRole_lasting : c.takeRole.lasting = c.lasting := by
  unfold Chip.takeRole
  split <;> simp -implicitDefEqProofs

/-! ## Hedged moves -/

@[simp] theorem Chip.modHedge_lasting (x : Nat) (f : HedgeRes → HedgeRes) : (c.modHedge x f).lasting = c.lasting := by
  simp -implicitDefEqProofs [Chip.modHedge]

@[simp] theorem Chip.hedgeAsk_lasting (x id who n : Nat) : (c.hedgeAsk x id who n).lasting = c.lasting := by
  simp -implicitDefEqProofs [Chip.hedgeAsk]

@[simp] theorem Chip.hedgeServe_lasting (x id : Nat) : (c.hedgeServe x id).1.lasting = c.lasting := by
  simp -implicitDefEqProofs [Chip.hedgeServe]

@[simp] theorem Chip.hedgeServeAll_lasting (id : Nat) (l : List Nat) : (c.hedgeServeAll id l).1.lasting = c.lasting := by
  simp -implicitDefEqProofs [Chip.hedgeServeAll]

@[simp] theorem Chip.hedgeOnce_lasting (who : Nat) (l : List (Nat × Nat)) : (c.hedgeOnce who l).1.lasting = c.lasting := by
  simp -implicitDefEqProofs [Chip.hedgeOnce]

/-! ## Memory, moves and fences -/

@[simp] theorem Chip.handleFault_lasting (code : Nat) (who : Issuer) (table : Nat) :
    (c.handleFault code who table).lasting = c.lasting := by
  unfold Chip.handleFault
  dsimp only
  repeat' split
  all_goals simp -implicitDefEqProofs

@[simp] theorem Chip.setFull_lasting (s : SlotId) (v : Bool) : (c.setFull s v).lasting = c.lasting := by
  unfold Chip.setFull
  split <;> simp -implicitDefEqProofs

@[simp] theorem Chip.writeSlot_lasting (s : SlotId) (o : Nat) (d : List Byte) : (c.writeSlot s o d).lasting = c.lasting := by
  unfold Chip.writeSlot
  split <;> simp -implicitDefEqProofs

@[simp] theorem Chip.slotRelease_lasting (s : SlotId) : (c.slotRelease s).lasting = c.lasting := by
  unfold Chip.slotRelease
  repeat' split
  all_goals simp -implicitDefEqProofs

@[simp] theorem Chip.slotWaitFault_lasting (s : SlotId) (awaited : Bool) (u : StepUnit) :
    (c.slotWaitFault s awaited u).lasting = c.lasting := by
  unfold Chip.slotWaitFault
  split <;> simp -implicitDefEqProofs

@[simp] theorem Chip.undoSlots_lasting (u : Nat) : (c.undoSlots u).lasting = c.lasting := by
  unfold Chip.undoSlots
  split <;> simp -implicitDefEqProofs

@[simp] theorem Chip.countCorr_lasting (g : Gran) : (c.countCorr g).lasting = c.lasting := by
  simp -implicitDefEqProofs [Chip.countCorr]

@[simp] theorem Chip.countUncorr_lasting (g : Gran) : (c.countUncorr g).lasting = c.lasting := by
  simp -implicitDefEqProofs [Chip.countUncorr]

@[simp] theorem Chip.markRow_lasting (g : Gran) (lvl : Nat) : (c.markRow g lvl).lasting = c.lasting := by
  simp -implicitDefEqProofs [Chip.markRow]

@[simp] theorem Chip.correct_lasting (g : Gran) (f : Finding) : (c.correct g f).lasting = c.lasting := by
  unfold Chip.correct
  repeat' split
  all_goals simp -implicitDefEqProofs

@[simp] theorem Chip.meet_lasting (g : Gran) : (c.meet g).1.lasting = c.lasting := by
  simp -implicitDefEqProofs [Chip.meet]

@[simp] theorem Chip.meetAll_lasting (l : List Gran) : (c.meetAll l).1.lasting = c.lasting := by
  simp -implicitDefEqProofs [Chip.meetAll]

@[simp] theorem Chip.carry_lasting (pairs : List (Gran × Gran)) : (c.carry pairs).1.lasting = c.lasting := by
  simp -implicitDefEqProofs [Chip.carry]

@[simp] theorem Chip.answer_lasting (r : ReadRes) : (c.answer r).lasting = c.lasting := by
  simp -implicitDefEqProofs [Chip.answer]

@[simp] theorem Chip.consumePoison_lasting (who : Issuer) : (c.consumePoison who).lasting = c.lasting := by
  unfold Chip.consumePoison
  split <;> simp -implicitDefEqProofs

@[simp] theorem Chip.readGranule_lasting (who : Issuer) (g : Gran) (f : Finding) : (c.readGranule who g f).lasting = c.lasting := by
  simp -implicitDefEqProofs [Chip.readGranule]

@[simp] theorem Chip.readSlot_lasting (s : SlotId) (p : Parity) : (c.readSlot s p).lasting = c.lasting := by
  unfold Chip.readSlot
  repeat' split
  all_goals simp -implicitDefEqProofs

@[simp] theorem Chip.linkError_lasting (who : Issuer) : (c.linkError who).lasting = c.lasting := by
  simp -implicitDefEqProofs [Chip.linkError]

@[simp] theorem Chip.spareBank_lasting (bank : Nat) : (c.spareBank bank).lasting = c.lasting := by
  unfold Chip.spareBank
  repeat' split
  all_goals simp -implicitDefEqProofs

@[simp] theorem Chip.spareRow_lasting (row : Nat) : (c.spareRow row).lasting = c.lasting := by
  simp -implicitDefEqProofs [Chip.spareRow]

@[simp] theorem Chip.sparing_lasting : c.sparing.lasting = c.lasting := by
  simp -implicitDefEqProofs [Chip.sparing]

@[simp] theorem Chip.bankCopyDone_lasting (bank : Nat) : (c.bankCopyDone bank).lasting = c.lasting := by
  unfold Chip.bankCopyDone
  split <;> simp -implicitDefEqProofs

@[simp] theorem Chip.countIdle_lasting (loc : RowLoc) (f : Finding) : (c.countIdle loc f).lasting = c.lasting := by
  unfold Chip.countIdle
  split <;> simp -implicitDefEqProofs

@[simp] theorem Chip.scrub_lasting (loc : RowLoc) (f : Finding) : (c.scrub loc f).lasting = c.lasting := by
  unfold Chip.scrub
  split <;> simp -implicitDefEqProofs

@[simp] theorem Chip.hedgeMove_lasting (m : Move) : (c.hedgeMove m).lasting = c.lasting := by
  unfold Chip.hedgeMove
  split <;> simp -implicitDefEqProofs

@[simp] theorem Chip.moveIssue_lasting (d : MoveDesc) : (c.moveIssue d).lasting = c.lasting := by
  unfold Chip.moveIssue
  repeat' split
  all_goals simp -implicitDefEqProofs

@[simp] theorem Chip.land_lasting (m : Move) : (c.land m).lasting = c.lasting := by
  unfold Chip.land
  split <;> simp -implicitDefEqProofs

@[simp] theorem Chip.performMove_lasting (m : Move) : (c.performMove m).lasting = c.lasting := by
  simp -implicitDefEqProofs [Chip.performMove]

@[simp] theorem Chip.runMoves_lasting (l : List Move) (c : Chip) : (Chip.runMoves l c).lasting = c.lasting := by
  induction l generalizing c with
  | nil => rfl
  | cons m l ih =>
    rw [Chip.runMoves]
    split <;> simp -implicitDefEqProofs [ih]

@[simp] theorem Chip.moveComplete_lasting (id : Nat) (finds : List MvFind) : (c.moveComplete id finds).lasting = c.lasting := by
  unfold Chip.moveComplete
  split
  · rfl
  · extract_lets all before d src e
    have hd : d.lasting = c.lasting := Chip.runMoves_lasting ..
    have he : e.lasting = d.lasting := foldl_lasting (fun c f => by
      split
      · exact Chip.correct_lasting ..
      · rfl) _ _
    split
    · exact hd
    · rw [Chip.performMove_lasting, he, hd]

@[simp] theorem Chip.slotFence_lasting (who : Issuer) (s : SlotId) : (c.slotFence who s).lasting = c.lasting := by
  simp -implicitDefEqProofs [Chip.slotFence]

@[simp] theorem Chip.drainMoves_lasting (sel : Move → Bool) : (c.drainMoves sel).lasting = c.lasting := by
  simp -implicitDefEqProofs [Chip.drainMoves]

@[simp] theorem Chip.memoryFence_lasting (who : Issuer) : (c.memoryFence who).lasting = c.lasting := by
  simp -implicitDefEqProofs [Chip.memoryFence]

@[simp] theorem Chip.readOf_lasting (who : Issuer) (g : Gran) (f : Finding) : (c.readOf who g f).lasting = c.lasting := by
  unfold Chip.readOf
  repeat' split
  all_goals simp -implicitDefEqProofs

@[simp] theorem Chip.mortarRead_lasting (w : MortarIn) : (c.mortarRead w).lasting = c.lasting := by
  unfold Chip.mortarRead
  repeat' split
  all_goals simp -implicitDefEqProofs

/-! ## Time -/

@[simp] theorem Chip.putS_lasting (f : Fld) (v : Int) (i j : Nat) : (c.putS f v i j).lasting = c.lasting := by
  simp -implicitDefEqProofs [Chip.putS]

@[simp] theorem Chip.putSat_lasting (f : Fld) (v : Int) : (c.putSat f v).lasting = c.lasting := by
  simp -implicitDefEqProofs [Chip.putSat]

@[simp] theorem Chip.modPort_lasting (x : Nat) (f : Port → Port) : (c.modPort x f).lasting = c.lasting := by
  simp -implicitDefEqProofs [Chip.modPort]

@[simp] theorem Chip.updServo_lasting (f : Servo → Servo) : (c.updServo f).lasting = c.lasting := by
  simp -implicitDefEqProofs [Chip.updServo]

@[simp] theorem Chip.flagDegraded_lasting : c.flagDegraded.lasting = c.lasting := by
  simp -implicitDefEqProofs [Chip.flagDegraded]

@[simp] theorem Chip.raiseAlarm_lasting : c.raiseAlarm.lasting = c.lasting := by
  simp -implicitDefEqProofs [Chip.raiseAlarm]

@[simp] theorem Chip.acquireState_lasting : c.acquireState.lasting = c.lasting := by
  unfold Chip.acquireState
  repeat' split
  all_goals simp -implicitDefEqProofs

@[simp] theorem Chip.setSource_lasting (x : Option Nat) : (c.setSource x).lasting = c.lasting := by
  unfold Chip.setSource
  dsimp only
  repeat' split
  all_goals simp -implicitDefEqProofs

@[simp] theorem Chip.loseSource_lasting : c.loseSource.lasting = c.lasting := by
  unfold Chip.loseSource
  split <;> simp -implicitDefEqProofs

@[simp] theorem Chip.sourceTimeout_lasting : c.sourceTimeout.lasting = c.lasting := by
  simp -implicitDefEqProofs [Chip.sourceTimeout]

@[simp] theorem Chip.announce_lasting (w : AnnounceIn) : (c.announce w).lasting = c.lasting := by
  unfold Chip.announce
  dsimp only
  repeat' split
  all_goals simp -implicitDefEqProofs

@[simp] theorem Chip.delayResponse_lasting (w : DelayIn) : (c.delayResponse w).lasting = c.lasting := by
  simp -implicitDefEqProofs [Chip.delayResponse]

@[simp] theorem Chip.servoSync_lasting (e : Int) (si : Nat) : (c.servoSync e si).lasting = c.lasting := by
  simp -implicitDefEqProofs [Chip.servoSync]

@[simp] theorem Chip.acquireSync_lasting (m l o : Int) : (c.acquireSync m l o).lasting = c.lasting := by
  unfold Chip.acquireSync
  dsimp only
  repeat' split
  all_goals simp -implicitDefEqProofs

@[simp] theorem Chip.sync_lasting (w : SyncIn) : (c.sync w).lasting = c.lasting := by
  unfold Chip.sync
  repeat' split
  all_goals simp -implicitDefEqProofs

@[simp] theorem Chip.ppsPulse_lasting : c.ppsPulse.lasting = c.lasting := by
  simp -implicitDefEqProofs [Chip.ppsPulse]

@[simp] theorem Chip.evtEdge_lasting (falling : Bool) : (c.evtEdge falling).lasting = c.lasting := by
  simp -implicitDefEqProofs [Chip.evtEdge]

/-! ## Ports -/

@[simp] theorem Chip.push_lasting (x : Nat) (f : TxFrame) : (c.push x f).lasting = c.lasting := by
  simp -implicitDefEqProofs [Chip.push]

@[simp] theorem Chip.discardDown_lasting (x : Nat) : (c.discardDown x).lasting = c.lasting := by
  simp -implicitDefEqProofs [Chip.discardDown]

@[simp] theorem Chip.sendReports_lasting (x : Nat) : (c.sendReports x).lasting = c.lasting := by
  simp -implicitDefEqProofs [Chip.sendReports]

@[simp] theorem Chip.announceAddrs_lasting (x : Nat) : (c.announceAddrs x).lasting = c.lasting := by
  simp -implicitDefEqProofs [Chip.announceAddrs]

@[simp] theorem Chip.linkDownPort_lasting (x : Nat) : (c.linkDownPort x).lasting = c.lasting := by
  simp -implicitDefEqProofs [Chip.linkDownPort]

@[simp] theorem Chip.linkUpPort_lasting (x rate : Nat) (full : Bool) : (c.linkUpPort x rate full).lasting = c.lasting := by
  simp -implicitDefEqProofs [Chip.linkUpPort]

@[simp] theorem Chip.preemptVerify_lasting (x : Nat) (ok : Bool) : (c.preemptVerify x ok).lasting = c.lasting := by
  simp -implicitDefEqProofs [Chip.preemptVerify]

@[simp] theorem Chip.learn_lasting (x : Nat) (a : Addr) (mac : Nat) : (c.learn x a mac).lasting = c.lasting := by
  simp -implicitDefEqProofs [Chip.learn]

@[simp] theorem Chip.cacheExpire_lasting (x : Nat) (a : Addr) : (c.cacheExpire x a).lasting = c.lasting := by
  simp -implicitDefEqProofs [Chip.cacheExpire]

@[simp] theorem Chip.duplicate_lasting (x : Nat) (a : Addr) : (c.duplicate x a).lasting = c.lasting := by
  simp -implicitDefEqProofs [Chip.duplicate]

@[simp] theorem Chip.dhcpRequest_lasting (x : Nat) (dst : Addr) : (c.dhcpRequest x dst).lasting = c.lasting := by
  simp -implicitDefEqProofs [Chip.dhcpRequest]

@[simp] theorem Chip.leaseExpire_lasting (x : Nat) : (c.leaseExpire x).lasting = c.lasting := by
  simp -implicitDefEqProofs [Chip.leaseExpire]

@[simp] theorem Chip.dhcpMessage_lasting (x : Nat) (m : List Byte) : (c.dhcpMessage x m).lasting = c.lasting := by
  unfold Chip.dhcpMessage
  dsimp only
  split <;> simp -implicitDefEqProofs

@[simp] theorem Chip.enterGate_lasting (x i start : Nat) : (c.enterGate x i start).lasting = c.lasting := by
  unfold Chip.enterGate
  split <;> simp -implicitDefEqProofs

@[simp] theorem Chip.startLists_lasting : c.startLists.lasting = c.lasting := by
  simp -implicitDefEqProofs [Chip.startLists]

@[simp] theorem Chip.gclCourse_lasting : c.gclCourse.lasting = c.lasting := by
  simp -implicitDefEqProofs [Chip.gclCourse]

@[simp] theorem Chip.pushTo_lasting (x : Nat) (f : TxFrame) : (c.pushTo x f).lasting = c.lasting := by
  simp -implicitDefEqProofs [Chip.pushTo]

@[simp] theorem Chip.resumeFrame_lasting (x : Nat) : (c.resumeFrame x).lasting = c.lasting := by
  unfold Chip.resumeFrame
  split <;> simp -implicitDefEqProofs

@[simp] theorem Chip.transmit_lasting (x : Nat) : (c.transmit x).1.lasting = c.lasting := by
  unfold Chip.transmit
  repeat' split
  all_goals simp -implicitDefEqProofs

@[simp] theorem Chip.preemptFrame_lasting (x : Nat) : (c.preemptFrame x).lasting = c.lasting := by
  unfold Chip.preemptFrame
  dsimp only
  split <;> simp -implicitDefEqProofs

@[simp] theorem Chip.gateEntry_lasting (x : Nat) : (c.gateEntry x).lasting = c.lasting := by
  simp -implicitDefEqProofs [Chip.gateEntry]

@[simp] theorem Chip.police_lasting (x : Nat) (f : FrameIn) : (c.police x f).2.lasting = c.lasting := by
  unfold Chip.police
  dsimp only
  repeat' split
  all_goals simp -implicitDefEqProofs

@[simp] theorem Chip.eliminate_lasting (f : FrameIn) : (c.eliminate f).2.lasting = c.lasting := by
  unfold Chip.eliminate
  split <;> simp -implicitDefEqProofs

@[simp] theorem Chip.frerReset_lasting (i : Nat) : (c.frerReset i).lasting = c.lasting := by
  simp -implicitDefEqProofs [Chip.frerReset]

@[simp] theorem Chip.echo_lasting (x : Nat) (src : Addr) (ident num : Nat) (data : List Byte) :
    (c.echo x src ident num data).lasting = c.lasting := by
  simp -implicitDefEqProofs [Chip.echo]

@[simp] theorem Chip.udpIn_lasting (x : Nat) (src : Addr) (sport dport : Nat) (payload : List Byte) :
    (c.udpIn x src sport dport payload).lasting = c.lasting := by
  simp -implicitDefEqProofs [Chip.udpIn]

@[simp] theorem Chip.l4In_lasting (x : Nat) (src dst : Addr) (l : L4) : (c.l4In x src dst l).lasting = c.lasting := by
  unfold Chip.l4In
  split <;> simp -implicitDefEqProofs

@[simp] theorem Chip.ipIn_lasting (x : Nat) (f : FrameIn) : (c.ipIn x f).lasting = c.lasting := by
  unfold Chip.ipIn
  repeat' split
  all_goals simp -implicitDefEqProofs

@[simp] theorem Chip.receive_lasting (x : Nat) (f : FrameIn) : (c.receive x f).lasting = c.lasting := by
  simp -implicitDefEqProofs [Chip.receive]

@[simp] theorem Chip.delayRequest_lasting (x : Nat) : (c.delayRequest x).lasting = c.lasting := by
  simp -implicitDefEqProofs [Chip.delayRequest]

@[simp] theorem Chip.pdelayReq_lasting (x : Nat) (_payload : List Byte) : (c.pdelayReq x _payload).lasting = c.lasting := by
  simp -implicitDefEqProofs [Chip.pdelayReq]

/-! ## Items and result sessions -/

@[simp] theorem Chip.modSess_lasting (s : Nat) (f : Session → Session) : (c.modSess s f).lasting = c.lasting := by
  simp -implicitDefEqProofs [Chip.modSess]

@[simp] theorem Chip.showSpool_lasting (s : Nat) : (c.showSpool s).lasting = c.lasting := by
  unfold Chip.showSpool
  dsimp only
  repeat' split
  all_goals simp -implicitDefEqProofs

@[simp] theorem Chip.giveSpool_lasting (s n : Nat) : (c.giveSpool s n).lasting = c.lasting := by
  simp -implicitDefEqProofs [Chip.giveSpool]

@[simp] theorem Chip.addGap_lasting (s cls item : Nat) (why : List Byte) : (c.addGap s cls item why).lasting = c.lasting := by
  simp -implicitDefEqProofs [Chip.addGap]

@[simp] theorem Chip.addGaps_lasting (s o item : Nat) (why : List Byte) : (c.addGaps s o item why).lasting = c.lasting := by
  simp -implicitDefEqProofs [Chip.addGaps]

@[simp] theorem Chip.reserve_lasting (d : Deliv) (o item : Nat) : (c.reserve d o item).1.lasting = c.lasting := by
  simp -implicitDefEqProofs [Chip.reserve]

@[simp] theorem Chip.fixSessions_lasting (o item : Nat) : (c.fixSessions o item).1.lasting = c.lasting := by
  unfold Chip.fixSessions
  refine foldl_fst_lasting (fun a s => ?_) _ _
  split
  · rfl
  · dsimp only
    split <;> exact a.1.reserve_lasting ..

@[simp] theorem Chip.takeItem_lasting (i : Item) : (c.takeItem i).lasting = c.lasting := by
  simp -implicitDefEqProofs [Chip.takeItem]

@[simp] theorem Chip.form_lasting (i : Item) (d : Deliv) (kind : Nat) (bytes : List Byte) :
    (c.form i d kind bytes).lasting = c.lasting := by
  simp -implicitDefEqProofs [Chip.form]

@[simp] theorem Chip.formLoose_lasting (s kind : Nat) (bytes : List Byte) : (c.formLoose s kind bytes).lasting = c.lasting := by
  simp -implicitDefEqProofs [Chip.formLoose]

@[simp] theorem Chip.formBegin_lasting (n : Nat) : (c.formBegin n).lasting = c.lasting := by
  unfold Chip.formBegin
  split <;> simp -implicitDefEqProofs

@[simp] theorem Chip.formField_lasting (n k : Nat) : (c.formField n k).lasting = c.lasting := by
  unfold Chip.formField
  repeat' split
  all_goals simp -implicitDefEqProofs

@[simp] theorem Chip.formPart_lasting (n k off : Nat) (chunk : List Byte) : (c.formPart n k off chunk).lasting = c.lasting := by
  unfold Chip.formPart
  split <;> simp -implicitDefEqProofs

@[simp] theorem Chip.refreshHold_lasting (k : Nat) : (c.refreshHold k).lasting = c.lasting := by
  unfold Chip.refreshHold
  dsimp only
  repeat' split
  all_goals simp -implicitDefEqProofs

@[simp] theorem Chip.refreshHolds_lasting : c.refreshHolds.lasting = c.lasting := by
  simp -implicitDefEqProofs [Chip.refreshHolds]

@[simp] theorem Chip.holdMinExpire_lasting (k : Nat) : (c.holdMinExpire k).lasting = c.lasting := by
  simp -implicitDefEqProofs [Chip.holdMinExpire]

@[simp] theorem Chip.grant_lasting (s : Nat) : (c.grant s).lasting = c.lasting := by
  simp -implicitDefEqProofs [Chip.grant]

@[simp] theorem Chip.creditReturn_lasting (n : Nat) : (c.creditReturn n).lasting = c.lasting := by
  unfold Chip.creditReturn
  split <;> simp -implicitDefEqProofs

@[simp] theorem Chip.sessionDone_lasting (s n : Nat) : (c.sessionDone s n).lasting = c.lasting := by
  unfold Chip.sessionDone
  split <;> simp -implicitDefEqProofs

@[simp] theorem Chip.endCore_lasting (n : Nat) (v : Verdict) : (c.endCore n v).lasting = c.lasting := by
  unfold Chip.endCore
  dsimp only
  repeat' split
  all_goals simp -implicitDefEqProofs

@[simp] theorem Chip.endSoon_lasting (n : Nat) (v : Verdict) : (c.endSoon n v).lasting = c.lasting := by
  simp -implicitDefEqProofs [Chip.endSoon]

/-! ## JRT sessions -/

@[simp] theorem Chip.takeIn_lasting (d : DgIn) : (c.takeIn d).lasting = c.lasting := by
  simp -implicitDefEqProofs [Chip.takeIn]

@[simp] theorem Chip.badDgram_lasting : c.badDgram.lasting = c.lasting := by
  simp -implicitDefEqProofs [Chip.badDgram]

@[simp] theorem Chip.sendCtl_lasting (s type : Nat) (recs : List Byte) : (c.sendCtl s type recs).lasting = c.lasting := by
  simp -implicitDefEqProofs [Chip.sendCtl]

@[simp] theorem Chip.sendData_lasting (s : Nat) (lane1 : Bool) (o : OutDg) : (c.sendData s lane1 o).lasting = c.lasting := by
  unfold Chip.sendData
  dsimp only
  split <;> simp -implicitDefEqProofs

@[simp] theorem Chip.modOut_lasting (s : Nat) (lane1 : Bool) (num : Nat) (f : OutDg → OutDg) :
    (c.modOut s lane1 num f).lasting = c.lasting := by
  simp -implicitDefEqProofs [Chip.modOut]

@[simp] theorem Chip.pump_lasting (s : Nat) (lane1 : Bool) : (c.pump s lane1).lasting = c.lasting := by
  simp -implicitDefEqProofs [Chip.pump]

@[simp] theorem Chip.addOut_lasting (s : Nat) (lane1 : Bool) (recs : List Byte) (recOff : Nat) (ps : List Formed) :
    (c.addOut s lane1 recs recOff ps).lasting = c.lasting := by
  simp -implicitDefEqProofs [Chip.addOut]

@[simp] theorem Chip.build0_lasting (s : Nat) (l : List Formed) : (c.build0 s l).lasting = c.lasting := by
  simp -implicitDefEqProofs [Chip.build0]

@[simp] theorem Chip.build1_lasting (s : Nat) (l : List Formed) : (c.build1 s l).lasting = c.lasting := by
  simp -implicitDefEqProofs [Chip.build1]

@[simp] theorem Chip.gapRecs_lasting (s : Nat) : (c.gapRecs s).1.lasting = c.lasting := by
  simp -implicitDefEqProofs [Chip.gapRecs]

@[simp] theorem Chip.build_lasting (formed : List Formed) : (c.build formed).lasting = c.lasting := by
  simp -implicitDefEqProofs [Chip.build]

@[simp] theorem Chip.resume_lasting (s : Nat) : (c.resume s).lasting = c.lasting := by
  simp -implicitDefEqProofs [Chip.resume]

@[simp] theorem Chip.applyAck_lasting (s : Nat) (lane1 : Bool) (ack : Nat) : (c.applyAck s lane1 ack).lasting = c.lasting := by
  simp -implicitDefEqProofs [Chip.applyAck]

@[simp] theorem Chip.applyLimit_lasting (s : Nat) (lane1 : Bool) (limit : Nat) :
    (c.applyLimit s lane1 limit).lasting = c.lasting := by
  simp -implicitDefEqProofs [Chip.applyLimit]

@[simp] theorem Chip.resend_lasting (s : Nat) (lane1 : Bool) (o : OutDg) (rto : Nat) :
    (c.resend s lane1 o rto).lasting = c.lasting := by
  simp -implicitDefEqProofs [Chip.resend]

@[simp] theorem Chip.applyBitmap_lasting (s : Nat) (lane1 : Bool) (ack bits : Nat) :
    (c.applyBitmap s lane1 ack bits).lasting = c.lasting := by
  simp -implicitDefEqProofs [Chip.applyBitmap]

@[simp] theorem Chip.applyHdr_lasting (s : Nat) (h : Hdr) : (c.applyHdr s h).lasting = c.lasting := by
  simp -implicitDefEqProofs [Chip.applyHdr]

@[simp] theorem Chip.jrtAck_lasting (d : DgIn) : (c.jrtAck d).lasting = c.lasting := by
  unfold Chip.jrtAck
  dsimp only
  repeat' split
  all_goals simp -implicitDefEqProofs

@[simp] theorem Chip.showMand_lasting : c.showMand.lasting = c.lasting := by
  simp -implicitDefEqProofs [Chip.showMand]

@[simp] theorem Chip.subscribe_lasting (s cls mode : Nat) : (c.subscribe s cls mode).lasting = c.lasting := by
  simp -implicitDefEqProofs [Chip.subscribe]

theorem Chip.peerAct_lasting (s : Nat) (r : PeerRec) {d : Chip} (h : c.peerAct s r = some d) : d.lasting = c.lasting := by
  unfold Chip.peerAct at h
  split at h <;> split at h <;> cases h
  · exact c.subscribe_lasting ..
  · exact c.modSess_lasting ..
  · exact c.modSess_lasting ..

@[simp] theorem Chip.parseRecs_lasting (s n : Nat) (c : Chip) (l : List Byte) : (Chip.parseRecs s n c l).lasting = c.lasting := by
  induction n generalizing c l with
  | zero => rfl
  | succ n ih =>
    rw [Chip.parseRecs]
    split
    · exact c.modSess_lasting ..
    · split
      · exact c.modSess_lasting ..
      · simp -implicitDefEqProofs
      · split
        · next h =>
          obtain ⟨r, _, hr⟩ := Option.bind_eq_some_iff.mp h
          exact (ih _ _).trans (c.peerAct_lasting s r hr)
        · simp -implicitDefEqProofs

@[simp] theorem Chip.deliver_lasting (s : Nat) (recs : List Byte) (off : Nat) (rx : Stamp) :
    (c.deliver s recs off rx).lasting = c.lasting := by
  simp -implicitDefEqProofs [Chip.deliver]

@[simp] theorem Chip.deliverLater_lasting (s n : Nat) (c : Chip) : (Chip.deliverLater s n c).lasting = c.lasting := by
  induction n generalizing c with
  | zero => rfl
  | succ n ih =>
    rw [Chip.deliverLater]
    dsimp only
    split <;> simp -implicitDefEqProofs [ih]

@[simp] theorem Chip.jrtData_lasting (d : DgIn) : (c.jrtData d).lasting = c.lasting := by
  unfold Chip.jrtData
  dsimp only
  repeat' split
  all_goals simp -implicitDefEqProofs

@[simp] theorem Chip.showFree_lasting : c.showFree.lasting = c.lasting := by
  simp -implicitDefEqProofs [Chip.showFree]

@[simp] theorem Chip.showBinding_lasting (s : Nat) : (c.showBinding s).lasting = c.lasting := by
  simp -implicitDefEqProofs [Chip.showBinding]

@[simp] theorem Chip.bind_lasting (d : DgIn) (r : OpenReq) (s : Nat) : (c.bind d r s).lasting = c.lasting := by
  simp -implicitDefEqProofs [Chip.bind]

@[simp] theorem Chip.jrtOpen_lasting (d : DgIn) : (c.jrtOpen d).lasting = c.lasting := by
  unfold Chip.jrtOpen
  dsimp only
  repeat' split
  all_goals simp -implicitDefEqProofs

@[simp] theorem Chip.abandon_lasting (s : Nat) : (c.abandon s).lasting = c.lasting := by
  simp -implicitDefEqProofs [Chip.abandon]

@[simp] theorem Chip.closeSess_lasting (s : Nat) : (c.closeSess s).lasting = c.lasting := by
  simp -implicitDefEqProofs [Chip.closeSess]

@[simp] theorem Chip.sendClose_lasting (s type : Nat) : (c.sendClose s type).lasting = c.lasting := by
  simp -implicitDefEqProofs [Chip.sendClose]

@[simp] theorem Chip.jrtClose_lasting (d : DgIn) : (c.jrtClose d).1.lasting = c.lasting := by
  unfold Chip.jrtClose
  dsimp only
  repeat' split
  all_goals simp -implicitDefEqProofs

@[simp] theorem Chip.retransmit_lasting (s : Nat) (lane1 : Bool) (num : Nat) : (c.retransmit s lane1 num).lasting = c.lasting := by
  unfold Chip.retransmit
  dsimp only
  split <;> simp -implicitDefEqProofs

@[simp] theorem Chip.ackDelay_lasting (s : Nat) : (c.ackDelay s).lasting = c.lasting := by
  simp -implicitDefEqProofs [Chip.ackDelay]

@[simp] theorem Chip.idleAck_lasting (s : Nat) : (c.idleAck s).lasting = c.lasting := by
  simp -implicitDefEqProofs [Chip.idleAck]

@[simp] theorem Chip.cutOptional_lasting (s : Nat) (why : List Byte) : (c.cutOptional s why).lasting = c.lasting := by
  unfold Chip.cutOptional
  refine foldl_lasting (fun c i => ?_) _ c
  split <;> simp -implicitDefEqProofs

@[simp] theorem Chip.stall_lasting (s : Nat) : (c.stall s).lasting = c.lasting := by
  simp -implicitDefEqProofs [Chip.stall]

@[simp] theorem Chip.abandonStalled_lasting (s : Nat) : (c.abandonStalled s).lasting = c.lasting := by
  simp -implicitDefEqProofs [Chip.abandonStalled]

@[simp] theorem Chip.rebind_lasting (s : Nat) : (c.rebind s).lasting = c.lasting := by
  unfold Chip.rebind
  dsimp only
  split <;> simp -implicitDefEqProofs

@[simp] theorem Chip.rebindAll_lasting (x : Nat) (sel : Session → Bool) : (c.rebindAll x sel).lasting = c.lasting := by
  simp -implicitDefEqProofs [Chip.rebindAll]

@[simp] theorem Chip.pathBack_lasting (x : Nat) (sel : Session → Bool) : (c.pathBack x sel).lasting = c.lasting := by
  simp -implicitDefEqProofs [Chip.pathBack]

@[simp] theorem Chip.onSent_lasting (f : TxFrame) (t : Nat) : (c.onSent f t).lasting = c.lasting := by
  unfold Chip.onSent
  repeat' split
  all_goals simp -implicitDefEqProofs

/-! ## Streams and long operations -/

@[simp] theorem Chip.updMgmt_lasting (f : Mgmt → Mgmt) : (c.updMgmt f).lasting = c.lasting := by
  simp -implicitDefEqProofs [Chip.updMgmt]

@[simp] theorem Chip.modRole_lasting (r : Nat) (f : NmpRole → NmpRole) : (c.modRole r f).lasting = c.lasting := by
  simp -implicitDefEqProofs [Chip.modRole]

@[simp] theorem Chip.modOp_lasting (h : Nat) (f : LongOp → LongOp) : (c.modOp h f).lasting = c.lasting := by
  simp -implicitDefEqProofs [Chip.modOp]

@[simp] theorem Chip.opEnds_lasting (h state result : Nat) : (c.opEnds h state result).lasting = c.lasting := by
  simp -implicitDefEqProofs [Chip.opEnds]

@[simp] theorem Chip.abortCapture_lasting (n : Nat) : (c.abortCapture n).lasting = c.lasting := by
  unfold Chip.abortCapture
  split <;> simp -implicitDefEqProofs

/-! ## Key-value cache -/

@[simp] theorem Chip.updKv_lasting (f : Kv → Kv) : (c.updKv f).lasting = c.lasting := by
  simp -implicitDefEqProofs [Chip.updKv]

@[simp] theorem Chip.modKvSlot_lasting (q : Nat) (f : KvSlot → KvSlot) : (c.modKvSlot q f).lasting = c.lasting := by
  simp -implicitDefEqProofs [Chip.modKvSlot]

@[simp] theorem Chip.showKv_lasting : c.showKv.lasting = c.lasting := by
  simp -implicitDefEqProofs [Chip.showKv]

theorem Chip.kvAlloc_lasting {lcWork : Bool} {pages : Nat} {d : Chip} {k : KvSet}
    (h : c.kvAlloc lcWork pages = some (d, k)) : d.lasting = c.lasting := by
  rw [c.kvAlloc_some h]
  simp -implicitDefEqProofs

@[simp] theorem Chip.kvRecount_lasting (old new : List (BitVec 32)) (t : Nat) : (c.kvRecount old new t).lasting = c.lasting := by
  simp -implicitDefEqProofs [Chip.kvRecount]

@[simp] theorem Chip.kvPublish_lasting (q : Nat) (new : List (BitVec 32)) : (c.kvPublish q new).lasting = c.lasting := by
  simp -implicitDefEqProofs [Chip.kvPublish]

@[simp] theorem Chip.kvTake_lasting (n : Nat) : (c.kvTake n).1.lasting = c.lasting := by
  unfold Chip.kvTake
  repeat' split
  all_goals simp -implicitDefEqProofs

@[simp] theorem Chip.kvTakeTrain_lasting (set : Nat) : (c.kvTakeTrain set).1.lasting = c.lasting := by
  unfold Chip.kvTakeTrain
  repeat' split
  all_goals simp -implicitDefEqProofs

@[simp] theorem Chip.kvCopySet_lasting (a b : KvSet) : (c.kvCopySet a b).lasting = c.lasting := by
  simp -implicitDefEqProofs [Chip.kvCopySet]

@[simp] theorem Chip.kvEdit_lasting (e : KvEdit) : (c.kvEdit e).lasting = c.lasting := by
  cases e with
  | train k =>
    have ht := c.kvTakeTrain_lasting k.val
    unfold Chip.kvEdit
    dsimp only
    split
    · next he => rwa [he] at ht
    · next he =>
      rw [he] at ht
      split
      · exact ht
      · split
        · simpa -implicitDefEqProofs using ht
        · next ha => simpa -implicitDefEqProofs using (Chip.kvAlloc_lasting _ ha).trans ht
  | trainEnd k =>
    unfold Chip.kvEdit
    dsimp only
    split
    · rfl
    · simp -implicitDefEqProofs
  | append n ov =>
    have ht := c.kvTake_lasting n
    unfold Chip.kvEdit
    dsimp only
    split
    · next he => rwa [he] at ht
    · next he =>
      rw [he] at ht
      split
      · exact ht
      · split
        · simpa -implicitDefEqProofs using ht
        · next ha => simpa -implicitDefEqProofs using (Chip.kvAlloc_lasting _ ha).trans ht
  | attach n a pos =>
    have ht := c.kvTake_lasting n
    unfold Chip.kvEdit
    dsimp only
    split
    · next he => rwa [he] at ht
    · next he =>
      rw [he] at ht
      split
      · exact ht
      · split
        · simpa -implicitDefEqProofs using ht
        · split
          · next ha _ =>
            have hd := (Chip.kvAlloc_lasting _ ha).trans ht
            split <;> simpa -implicitDefEqProofs using hd
          · simpa -implicitDefEqProofs using ht
  | release n j =>
    unfold Chip.kvEdit
    dsimp only
    split
    · rfl
    · simp -implicitDefEqProofs
  | anchor q k =>
    unfold Chip.kvEdit
    dsimp only
    split
    · rfl
    · rw [Chip.kvPublish_lasting, foldl_fst_lasting (fun a x => ?_)]
      · simp -implicitDefEqProofs
      · split
        · next ha => exact a.1.kvAlloc_lasting ha
        · rfl
  | clear q =>
    unfold Chip.kvEdit
    dsimp only
    split
    · rfl
    · simp -implicitDefEqProofs

@[simp] theorem kvDrain_lasting (n : Nat) (c : Chip) : (kvDrain n c).lasting = c.lasting := by
  induction n generalizing c with
  | zero => rfl
  | succ n ih =>
    rw [kvDrain]
    split
    · rfl
    · split
      · rfl
      · split <;> simp -implicitDefEqProofs [ih]

@[simp] theorem Chip.kvRun_lasting : c.kvRun.lasting = c.lasting := by
  simp -implicitDefEqProofs [Chip.kvRun]

@[simp] theorem Chip.kvTableEdit_lasting (e : KvEdit) : (c.kvTableEdit e).lasting = c.lasting := by
  simp -implicitDefEqProofs [Chip.kvTableEdit]

@[simp] theorem Chip.kvFreeItem_lasting (n : Nat) : (c.kvFreeItem n).lasting = c.lasting := by
  unfold Chip.kvFreeItem
  split <;> simp -implicitDefEqProofs

@[simp] theorem Chip.limboReturn_lasting : c.limboReturn.lasting = c.lasting := by
  simp -implicitDefEqProofs [Chip.limboReturn]

/-! ## Ends of items -/

@[simp] theorem Chip.updAdapt_lasting (f : Adapt → Adapt) : (c.updAdapt f).lasting = c.lasting := by
  simp -implicitDefEqProofs [Chip.updAdapt]

@[simp] theorem Chip.writeSample_lasting (i : Item) (status : Nat) : (c.writeSample i status).lasting = c.lasting := by
  simp -implicitDefEqProofs [Chip.writeSample]

@[simp] theorem Chip.endItem_lasting (n : Nat) (v : Verdict) : (c.endItem n v).lasting = c.lasting := by
  unfold Chip.endItem
  split <;> simp -implicitDefEqProofs

@[simp] theorem Chip.settleItem_lasting (n : Nat) (why : Option (List Byte)) : (c.settleItem n why).lasting = c.lasting := by
  unfold Chip.settleItem
  repeat' split
  all_goals simp -implicitDefEqProofs

@[simp] theorem Chip.failFields_lasting (n : Nat) (ks : List Nat) (why : List Byte) :
    (c.failFields n ks why).lasting = c.lasting := by
  unfold Chip.failFields
  split <;> simp -implicitDefEqProofs

@[simp] theorem Chip.kvExhausted_lasting (n : Nat) : (c.kvExhausted n).lasting = c.lasting := by
  unfold Chip.kvExhausted
  split <;> simp -implicitDefEqProofs

@[simp] theorem Chip.kvFault_lasting (n : Nat) (l : Loc) : (c.kvFault n l).lasting = c.lasting := by
  unfold Chip.kvFault
  split <;> simp -implicitDefEqProofs

@[simp] theorem Chip.flagItem_lasting (n bits : Nat) : (c.flagItem n bits).lasting = c.lasting := by
  simp -implicitDefEqProofs [Chip.flagItem]

@[simp] theorem Chip.overflowItem_lasting (n : Nat) : (c.overflowItem n).lasting = c.lasting := by
  unfold Chip.overflowItem
  split <;> simp -implicitDefEqProofs

@[simp] theorem Chip.endDue_lasting (n : Nat) : (c.endDue n).lasting = c.lasting := by
  unfold Chip.endDue
  repeat' split
  all_goals simp -implicitDefEqProofs

/-! ## Text output -/

@[simp] theorem Chip.modField_lasting (n k : Nat) (f : FieldSt → FieldSt) : (c.modField n k f).lasting = c.lasting := by
  simp -implicitDefEqProofs [Chip.modField]

@[simp] theorem Chip.emitText_lasting (n k : Nat) (b : List Byte) : (c.emitText n k b).lasting = c.lasting := by
  unfold Chip.emitText
  split <;> simp -implicitDefEqProofs

@[simp] theorem Chip.flushHeld_lasting (n k : Nat) : (c.flushHeld n k).lasting = c.lasting := by
  unfold Chip.flushHeld
  split <;> simp -implicitDefEqProofs

@[simp] theorem Chip.dropDecoding_lasting (n k : Nat) : (c.dropDecoding n k).lasting = c.lasting := by
  unfold Chip.dropDecoding
  split <;> simp -implicitDefEqProofs

@[simp] theorem Chip.endField_lasting (n k code : Nat) (why : List Byte) : (c.endField n k code why).lasting = c.lasting := by
  unfold Chip.endField
  split <;> simp -implicitDefEqProofs

@[simp] theorem Chip.markStart_lasting (n k : Nat) : (c.markStart n k).lasting = c.lasting := by
  simp -implicitDefEqProofs [Chip.markStart]

@[simp] theorem skipDead_lasting (k : Nat) (c : Chip) (n : Nat) : (skipDead k c n).lasting = c.lasting := by
  induction k generalizing c with
  | zero => rfl
  | succ k ih =>
    rw [skipDead]
    repeat' split
    all_goals simp -implicitDefEqProofs [ih]

@[simp] theorem Chip.overflowDue_lasting (n : Nat) : (c.overflowDue n).lasting = c.lasting := by
  unfold Chip.overflowDue
  split <;> simp -implicitDefEqProofs

@[simp] theorem Chip.nextField_lasting (n : Nat) : (c.nextField n).lasting = c.lasting := by
  unfold Chip.nextField
  split <;> simp -implicitDefEqProofs

@[simp] theorem Chip.countToken_lasting (n k t : Nat) : (c.countToken n k t).lasting = c.lasting := by
  simp -implicitDefEqProofs [Chip.countToken]

@[simp] theorem Chip.endTest_lasting (n k : Nat) (d : FDesc) (q : Nat) : (c.endTest n k d q).lasting = c.lasting := by
  unfold Chip.endTest
  split <;> simp -implicitDefEqProofs

@[simp] theorem Chip.detok_lasting (n k : Nat) (d : FDesc) (t q : Nat) : (c.detok n k d t q).lasting = c.lasting := by
  unfold Chip.detok
  dsimp only
  repeat' split
  all_goals simp -implicitDefEqProofs

@[simp] theorem Chip.fieldToken_lasting (n : Nat) (fp32 : Bool) (logits : List (Nat × Nat)) :
    (c.fieldToken n fp32 logits).lasting = c.lasting := by
  unfold Chip.fieldToken
  dsimp only
  repeat' split
  all_goals simp -implicitDefEqProofs

@[simp] theorem Chip.prefill_lasting (n : Nat) : (c.prefill n).lasting = c.lasting := by
  unfold Chip.prefill
  repeat' split
  all_goals simp -implicitDefEqProofs

@[simp] theorem Chip.recognise_lasting (n line chars : Nat) (text image : List Byte) (inField : Bool) :
    (c.recognise n line chars text image inField).lasting = c.lasting := by
  unfold Chip.recognise
  split <;> simp -implicitDefEqProofs

/-! ## Attention -/

@[simp] theorem Chip.walkAhead_lasting (w q epoch j : Nat) : (c.walkAhead w q epoch j).lasting = c.lasting := by
  simp -implicitDefEqProofs [Chip.walkAhead]

@[simp] theorem Chip.kvPut_lasting (k : KvSet) (layer : Nat) (f : Fmt) (hkv d head tok : Nat) (value : Bool) (codes : List Nat) :
    (c.kvPut k layer f hkv d head tok value codes).lasting = c.lasting := by
  simp -implicitDefEqProofs [Chip.kvPut]

/-! ## Adaptation -/

@[simp] theorem Chip.modSet_lasting (s : Nat) (f : AdSet → AdSet) : (c.modSet s f).lasting = c.lasting := by
  simp -implicitDefEqProofs [Chip.modSet]

@[simp] theorem Chip.showAdapt_lasting : c.showAdapt.lasting = c.lasting := by
  simp -implicitDefEqProofs [Chip.showAdapt]

@[simp] theorem Chip.addExample_lasting (set : Nat) (e : Example) : (c.addExample set e).lasting = c.lasting := by
  simp -implicitDefEqProofs [Chip.addExample]

@[simp] theorem Chip.correction_lasting (s : Nat) (w : CorrIn) : (c.correction s w).lasting = c.lasting := by
  unfold Chip.correction
  dsimp only
  repeat' split
  all_goals simp -implicitDefEqProofs

@[simp] theorem Chip.updateStart_lasting (set : Nat) : (c.updateStart set).lasting = c.lasting := by
  simp -implicitDefEqProofs [Chip.updateStart]

@[simp] theorem Chip.gate_lasting (set : Nat) (w : UpdateIn) : (c.gate set w).lasting = c.lasting := by
  simp -implicitDefEqProofs [Chip.gate]

@[simp] theorem Chip.abandonUpdate_lasting (set : Nat) (l : List Example) : (c.abandonUpdate set l).lasting = c.lasting := by
  simp -implicitDefEqProofs [Chip.abandonUpdate]

@[simp] theorem Chip.trainRelease_lasting (set : Fin 8) : (c.trainRelease set).lasting = c.lasting := by
  simp -implicitDefEqProofs [Chip.trainRelease]

@[simp] theorem Chip.updateOver_lasting (w : UpdateIn) : (c.updateOver w).lasting = c.lasting := by
  unfold Chip.updateOver
  dsimp only
  repeat' split
  all_goals simp -implicitDefEqProofs

@[simp] theorem Chip.updateEnd_lasting (w : UpdateIn) : (c.updateEnd w).lasting = c.lasting := by
  simp -implicitDefEqProofs [Chip.updateEnd]

@[simp] theorem Chip.publish_lasting (set : Nat) : (c.publish set).lasting = c.lasting := by
  unfold Chip.publish
  dsimp only
  split <;> simp -implicitDefEqProofs

@[simp] theorem Chip.adaptCourse_lasting : c.adaptCourse.lasting = c.lasting := by
  simp -implicitDefEqProofs [Chip.adaptCourse]

@[simp] theorem Chip.adaptRelease_lasting : c.adaptRelease.lasting = c.lasting := by
  simp -implicitDefEqProofs [Chip.adaptRelease]

@[simp] theorem Chip.adaptLost_lasting : c.adaptLost.lasting = c.lasting := by
  simp -implicitDefEqProofs [Chip.adaptLost]

/-! ## Conditioning -/

@[simp] theorem Chip.useRefs_lasting (n : Nat) (r : Option RefSet) (captured : Bool) :
    (c.useRefs n r captured).lasting = c.lasting := by
  unfold Chip.useRefs
  split <;> simp -implicitDefEqProofs

/-! ## Intake -/

@[simp] theorem Chip.beginDrain_lasting (t : Nat) : (c.beginDrain t).lasting = c.lasting := by
  simp -implicitDefEqProofs [Chip.beginDrain]

@[simp] theorem Chip.nextPeriod_lasting (k n : Nat) (t : Stamp) : (c.nextPeriod k n t).lasting = c.lasting := by
  unfold Chip.nextPeriod
  dsimp only
  split <;> simp -implicitDefEqProofs

@[simp] theorem Chip.issueTrigger_lasting (k : Nat) (t : Stamp) : (c.issueTrigger k t).lasting = c.lasting := by
  simp -implicitDefEqProofs [Chip.issueTrigger]

@[simp] theorem Chip.triggerDue_lasting (k : Nat) : (c.triggerDue k).lasting = c.lasting := by
  unfold Chip.triggerDue
  dsimp only
  repeat' split
  all_goals simp -implicitDefEqProofs

@[simp] theorem Chip.deferredTrigger_lasting (k : Nat) : (c.deferredTrigger k).lasting = c.lasting := by
  unfold Chip.deferredTrigger
  dsimp only
  repeat' split
  all_goals simp -implicitDefEqProofs

@[simp] theorem Chip.countForward_lasting (k : Nat) : (c.countForward k).lasting = c.lasting := by
  simp -implicitDefEqProofs [Chip.countForward]

@[simp] theorem Chip.encoderEdge_lasting (k : Nat) (a b : Bool) (ta tb : Nat) :
    (c.encoderEdge k a b ta tb).lasting = c.lasting := by
  simp -implicitDefEqProofs [Chip.encoderEdge]

@[simp] theorem Chip.timerTrigger_lasting (k : Nat) : (c.timerTrigger k).lasting = c.lasting := by
  simp -implicitDefEqProofs [Chip.timerTrigger]

@[simp] theorem Chip.captureEvent_lasting (n : Nat) (e : Drive) : (c.captureEvent n e).lasting = c.lasting := by
  unfold Chip.captureEvent
  split <;> simp -implicitDefEqProofs

@[simp] theorem Chip.driveEvent_lasting (n : Nat) (e : Drive) : (c.driveEvent n e).lasting = c.lasting := by
  unfold Chip.driveEvent
  repeat' split
  all_goals simp -implicitDefEqProofs

@[simp] theorem Chip.takeSheet_lasting (n : Nat) : (c.takeSheet n).1.lasting = c.lasting := by
  unfold Chip.takeSheet
  dsimp only
  repeat' split
  all_goals simp -implicitDefEqProofs

@[simp] theorem Chip.dropPage_lasting (n : Nat) (i : Item) (why : List Byte) : (c.dropPage n i why).lasting = c.lasting := by
  simp -implicitDefEqProofs [Chip.dropPage]

@[simp] theorem Chip.pageAdmit_lasting (n : Nat) (t : Stamp) : (c.pageAdmit n t).lasting = c.lasting := by
  unfold Chip.pageAdmit
  dsimp only
  repeat' split
  all_goals simp -implicitDefEqProofs

@[simp] theorem Chip.skewEnd_lasting (n : Nat) (cap : Capture) : (c.skewEnd n cap).1.lasting = c.lasting := by
  unfold Chip.skewEnd
  dsimp only
  split <;> simp -implicitDefEqProofs

@[simp] theorem Chip.skewLine_lasting (n idx : Nat) (cap : Capture) (l : List (List Nat)) :
    (c.skewLine n idx cap l).1.lasting = c.lasting := by
  simp -implicitDefEqProofs [Chip.skewLine]

@[simp] theorem Chip.pageEnd_lasting (n : Nat) (cap : Capture) (long : Bool) : (c.pageEnd n cap long).lasting = c.lasting := by
  unfold Chip.pageEnd
  dsimp only
  split <;> simp -implicitDefEqProofs

@[simp] theorem Chip.capturedLine_lasting (n : Nat) (cap : Capture) (l : List (List Nat)) (t : Stamp) (sub : Bool) :
    (c.capturedLine n cap l t sub).lasting = c.lasting := by
  unfold Chip.capturedLine
  dsimp only
  repeat' split
  all_goals simp -implicitDefEqProofs

@[simp] theorem Chip.pageLine_lasting (n : Nat) (t : Stamp) (sub : Bool) : (c.pageLine n t sub).lasting = c.lasting := by
  unfold Chip.pageLine
  dsimp only
  repeat' split
  all_goals simp -implicitDefEqProofs

@[simp] theorem Chip.lineIn_lasting (n : Nat) (raw : List Nat) (t : Stamp) : (c.lineIn n raw t).lasting = c.lasting := by
  simp -implicitDefEqProofs [Chip.lineIn]

@[simp] theorem Chip.lineSubst_lasting (n : Nat) (t : Option Stamp) : (c.lineSubst n t).lasting = c.lasting := by
  simp -implicitDefEqProofs [Chip.lineSubst]

@[simp] theorem Chip.streamReady_lasting (n : Nat) : (c.streamReady n).lasting = c.lasting := by
  simp -implicitDefEqProofs [Chip.streamReady]

@[simp] theorem Chip.enablingDone_lasting (n : Nat) : (c.enablingDone n).lasting = c.lasting := by
  simp -implicitDefEqProofs [Chip.enablingDone]

@[simp] theorem Chip.align_lasting (n : Nat) (good : Bool) : (c.align n good).lasting = c.lasting := by
  simp -implicitDefEqProofs [Chip.align]

@[simp] theorem Chip.lineDone_lasting (n : Nat) (raw : List Nat) (m : Option Stamp) (bad : Bool) :
    (c.lineDone n raw m bad).lasting = c.lasting := by
  simp -implicitDefEqProofs [Chip.lineDone]

@[simp] theorem Chip.periodRead_lasting (n : Nat) (p : Period) (samples : List Nat) (bad : Bool) :
    (c.periodRead n p samples bad).lasting = c.lasting := by
  simp -implicitDefEqProofs [Chip.periodRead]

@[simp] theorem Chip.lineRead_lasting (n : Nat) (samples : List Nat) (bad : Bool) :
    (c.lineRead n samples bad).lasting = c.lasting := by
  unfold Chip.lineRead
  split <;> simp -implicitDefEqProofs

@[simp] theorem Chip.readout_lasting (n : Nat) (w : Readout) : (c.readout n w).lasting = c.lasting := by
  simp -implicitDefEqProofs [Chip.readout]

@[simp] theorem Chip.intakeWrite_lasting (h : HRef) (d : List Byte) : (c.intakeWrite h d).lasting = c.lasting := by
  unfold Chip.intakeWrite
  split <;> simp -implicitDefEqProofs

@[simp] theorem Chip.intakeCopy_lasting (src dst : HRef) (n : Nat) : (c.intakeCopy src dst n).lasting = c.lasting := by
  unfold Chip.intakeCopy
  dsimp only
  split <;> simp -implicitDefEqProofs

@[simp] theorem Chip.retSlot_lasting (n item : Nat) : (c.retSlot n item).1.lasting = c.lasting := by
  unfold Chip.retSlot
  dsimp only
  split <;> simp -implicitDefEqProofs

@[simp] theorem Chip.bandDone_lasting (n : Nat) (cap : Capture) : (c.bandDone n cap).lasting = c.lasting := by
  simp -implicitDefEqProofs [Chip.bandDone]

@[simp] theorem Chip.putBand_lasting (i : Item) (idx cnt : Nat) (data : List Byte) :
    (c.putBand i idx cnt data).lasting = c.lasting := by
  unfold Chip.putBand
  dsimp only
  split <;> simp -implicitDefEqProofs

@[simp] theorem Chip.bandWritten_lasting (n band : Nat) : (c.bandWritten n band).lasting = c.lasting := by
  unfold Chip.bandWritten
  dsimp only
  repeat' split
  all_goals simp -implicitDefEqProofs

@[simp] theorem Chip.freeRing_lasting (item : Nat) : (c.freeRing item).lasting = c.lasting := by
  unfold Chip.freeRing
  split <;> simp -implicitDefEqProofs

@[simp] theorem Chip.retentionDone_lasting (n item band : Nat) : (c.retentionDone n item band).lasting = c.lasting := by
  unfold Chip.retentionDone
  repeat' split
  all_goals simp -implicitDefEqProofs

@[simp] theorem Chip.dropBand_lasting (item band : Nat) : (c.dropBand item band).lasting = c.lasting := by
  unfold Chip.dropBand
  split <;> simp -implicitDefEqProofs

@[simp] theorem Chip.staleBands_lasting : c.staleBands.lasting = c.lasting := by
  simp -implicitDefEqProofs [Chip.staleBands]

@[simp] theorem Chip.transportStop_lasting (k : Nat) : (c.transportStop k).lasting = c.lasting := by
  unfold Chip.transportStop
  refine foldl_lasting (fun c n => ?_) _ c
  dsimp only
  split <;> simp -implicitDefEqProofs

@[simp] theorem Chip.streamFault_lasting (n : Nat) : (c.streamFault n).lasting = c.lasting := by
  simp -implicitDefEqProofs [Chip.streamFault]

@[simp] theorem Chip.afeConfigDone_lasting (n : Nat) (reads : List Nat) : (c.afeConfigDone n reads).lasting = c.lasting := by
  simp -implicitDefEqProofs [Chip.afeConfigDone]

@[simp] theorem Chip.afeSyncTimeout_lasting (n : Nat) : (c.afeSyncTimeout n).lasting = c.lasting := by
  simp -implicitDefEqProofs [Chip.afeSyncTimeout]

@[simp] theorem Chip.checkFault_lasting (n : Nat) : (c.checkFault n).lasting = c.lasting := by
  simp -implicitDefEqProofs [Chip.checkFault]

@[simp] theorem Chip.streamEnabling_lasting (n : Nat) : (c.streamEnabling n).lasting = c.lasting := by
  simp -implicitDefEqProofs [Chip.streamEnabling]

@[simp] theorem Chip.streamOff_lasting (n : Nat) : (c.streamOff n).lasting = c.lasting := by
  simp -implicitDefEqProofs [Chip.streamOff]

@[simp] theorem Chip.lockStreams_lasting : c.lockStreams.lasting = c.lasting := by
  simp -implicitDefEqProofs [Chip.lockStreams]

@[simp] theorem Chip.captureBegin_lasting (n : Nat) : (c.captureBegin n).lasting = c.lasting := by
  simp -implicitDefEqProofs [Chip.captureBegin]

@[simp] theorem Chip.captureOver_lasting (n : Nat) : (c.captureOver n).lasting = c.lasting := by
  simp -implicitDefEqProofs [Chip.captureOver]

@[simp] theorem Chip.captureRefs_lasting (n : Nat) (w : CaptureIn) (digest : List Byte) :
    (c.captureRefs n w digest).1.lasting = c.lasting := by
  simp -implicitDefEqProofs [Chip.captureRefs]

/-! ## Records -/

@[simp] theorem Chip.subResult_lasting (s num : Nat) (why : List Byte) : (c.subResult s num why).lasting = c.lasting := by
  simp -implicitDefEqProofs [Chip.subResult]

@[simp] theorem Chip.recordItem_lasting (s : Nat) (h : Option RecHdr) : (c.recordItem s h).1.lasting = c.lasting := by
  unfold Chip.recordItem
  split <;> simp -implicitDefEqProofs

@[simp] theorem Chip.refuse_lasting (s : Nat) (h : Option RecHdr) (why : List Byte) (counted : Bool) :
    (c.refuse s h why counted).lasting = c.lasting := by
  simp -implicitDefEqProofs [Chip.refuse]

@[simp] theorem Chip.admitRecord_lasting (s : Nat) (h : RecHdr) (planes : Nat) :
    (c.admitRecord s h planes).lasting = c.lasting := by
  simp -implicitDefEqProofs [Chip.admitRecord]

@[simp] theorem Chip.skipRecord_lasting (s : Nat) (buf : List Byte) (skip : Option Nat) :
    (c.skipRecord s buf skip).1.lasting = c.lasting := by
  unfold Chip.skipRecord
  split <;> simp -implicitDefEqProofs

@[simp] theorem Chip.headerStep_lasting (s : Nat) (buf : List Byte) : (c.headerStep s buf).1.lasting = c.lasting := by
  unfold Chip.headerStep
  dsimp only
  repeat' split
  all_goals simp -implicitDefEqProofs

@[simp] theorem Chip.recordWhole_lasting (s : Nat) (t : Stamp) : (c.recordWhole s t).lasting = c.lasting := by
  unfold Chip.recordWhole
  split <;> simp -implicitDefEqProofs

@[simp] theorem Chip.feed_lasting (s : Nat) (t : Stamp) (k : Nat) (c : Chip) (l : List Byte) :
    (Chip.feed s t k c l).lasting = c.lasting := by
  induction k generalizing c l with
  | zero => rfl
  | succ k ih =>
    rw [Chip.feed]
    dsimp only
    split
    · rfl
    · split
      · simp -implicitDefEqProofs [ih]
      · split
        · rw [ih]
          repeat' split
          all_goals simp -implicitDefEqProofs
        · have hh := c.headerStep_lasting s ((c.subm s).buf ++ l)
          split <;> next he => simpa -implicitDefEqProofs [he, ih] using hh

@[simp] theorem Chip.submissionEnd_lasting (s : Nat) (t : Stamp) : (c.submissionEnd s t).lasting = c.lasting := by
  simp -implicitDefEqProofs [Chip.submissionEnd]

@[simp] theorem Chip.submitBytes_lasting (s : Nat) (bytes : List Byte) (last : Bool) (t whole : Stamp) :
    (c.submitBytes s bytes last t whole).lasting = c.lasting := by
  simp -implicitDefEqProofs [Chip.submitBytes]

@[simp] theorem Chip.submitWaiting_lasting (s : Nat) (w : Inbox) : (c.submitWaiting s w).lasting = c.lasting := by
  simp -implicitDefEqProofs [Chip.submitWaiting]

@[simp] theorem Chip.submit_lasting (s : Nat) (bytes : List Byte) (last : Bool) : (c.submit s bytes last).lasting = c.lasting := by
  unfold Chip.submit
  dsimp only
  repeat' split
  all_goals simp -implicitDefEqProofs

@[simp] theorem Chip.cancelRecord_lasting (s : Nat) (why : List Byte) : (c.cancelRecord s why).lasting = c.lasting := by
  unfold Chip.cancelRecord
  dsimp only
  repeat' split
  all_goals simp -implicitDefEqProofs

@[simp] theorem Chip.submitTimeout_lasting (s : Nat) : (c.submitTimeout s).lasting = c.lasting := by
  simp -implicitDefEqProofs [Chip.submitTimeout]

@[simp] theorem Chip.submClosed_lasting (s : Nat) : (c.submClosed s).lasting = c.lasting := by
  simp -implicitDefEqProofs [Chip.submClosed]

@[simp] theorem Chip.endSess_lasting (x type : Nat) : (c.endSess x type).lasting = c.lasting := by
  simp -implicitDefEqProofs [Chip.endSess]

@[simp] theorem Chip.decodeStart_lasting (n : Nat) : (c.decodeStart n).lasting = c.lasting := by
  unfold Chip.decodeStart
  split <;> simp -implicitDefEqProofs

@[simp] theorem Chip.decodeStep_lasting (n : Nat) : (c.decodeStep n).lasting = c.lasting := by
  unfold Chip.decodeStep
  split <;> simp -implicitDefEqProofs

/-! ## Scheduling -/

@[simp] theorem Chip.noteLag_lasting (u : StepUnit) (ns : Nat) : (c.noteLag u ns).lasting = c.lasting := by
  unfold Chip.noteLag
  split <;> simp -implicitDefEqProofs

@[simp] theorem Chip.takeBand_lasting (n b : Nat) : (c.takeBand n b).lasting = c.lasting := by
  unfold Chip.takeBand
  repeat' split
  all_goals simp -implicitDefEqProofs

@[simp] theorem Chip.serveSlot_lasting (d : StepDesc) : (c.serveSlot d).lasting = c.lasting := by
  unfold Chip.serveSlot
  dsimp only
  split <;> simp -implicitDefEqProofs

@[simp] theorem Chip.stepStart_lasting (d : StepDesc) : (c.stepStart d).lasting = c.lasting := by
  unfold Chip.stepStart
  dsimp only
  repeat' split
  all_goals simp -implicitDefEqProofs

@[simp] theorem Chip.countQ_lasting (q : QCnt) : (c.countQ q).lasting = c.lasting := by
  simp -implicitDefEqProofs [Chip.countQ]

@[simp] theorem Chip.writeOut_lasting (who : Issuer) (run : StepRun) (d : Dest) (b : List Byte) :
    (c.writeOut who run d b).1.lasting = c.lasting := by
  unfold Chip.writeOut
  repeat' split
  all_goals simp -implicitDefEqProofs

@[simp] theorem Chip.unitFree_lasting (u : Nat) (item : Option Nat) : (c.unitFree u item).lasting = c.lasting := by
  unfold Chip.unitFree
  split <;> simp -implicitDefEqProofs

@[simp] theorem Chip.rollBack_lasting (u : Nat) : (c.rollBack u).lasting = c.lasting := by
  unfold Chip.rollBack
  split <;> simp -implicitDefEqProofs

@[simp] theorem Chip.stepLost_lasting (u : StepUnit) (cls : Nat) : (c.stepLost u cls).lasting = c.lasting := by
  unfold Chip.stepLost
  split <;> simp -implicitDefEqProofs

@[simp] theorem Chip.skewFail_lasting (run : StepRun) (fields : List Nat) : (c.skewFail run fields).lasting = c.lasting := by
  unfold Chip.skewFail
  dsimp only
  repeat' split
  all_goals simp -implicitDefEqProofs

@[simp] theorem Chip.skewAgain_lasting (run : StepRun) : (c.skewAgain run).lasting = c.lasting := by
  simp -implicitDefEqProofs [Chip.skewAgain]

@[simp] theorem Chip.wideWrite_lasting (who : Issuer) (run : StepRun) (t : WideTile) (o : QOut) :
    (c.wideWrite who run t o).1.lasting = c.lasting := by
  unfold Chip.wideWrite
  split <;> simp -implicitDefEqProofs

@[simp] theorem Chip.wideMet_lasting (who : Issuer) (run : StepRun) (t : WideTile) (o : QOut) :
    (c.wideMet who run t o).1.lasting = c.lasting := by
  unfold Chip.wideMet
  repeat' split
  all_goals simp -implicitDefEqProofs

@[simp] theorem Chip.kvMiss_lasting (run : StepRun) (k : KvUse) : (c.kvMiss run k).lasting = c.lasting := by
  unfold Chip.kvMiss
  split <;> simp -implicitDefEqProofs

@[simp] theorem Chip.attendStep_lasting (who : Issuer) (run : StepRun) (w : AttnWork) (d : Dest) :
    (c.attendStep who run w d).1.lasting = c.lasting := by
  unfold Chip.attendStep
  dsimp only
  repeat' split
  all_goals simp -implicitDefEqProofs

@[simp] theorem Chip.kvWriteStep_lasting (run : StepRun) (seq layer pos hkv dim head : Nat) (f : Fmt) (proj : MatWork) :
    (c.kvWriteStep run seq layer pos hkv dim head f proj).1.lasting = c.lasting := by
  unfold Chip.kvWriteStep
  dsimp only
  repeat' split
  all_goals simp -implicitDefEqProofs

@[simp] theorem Chip.layoutStep_lasting (who : Issuer) (n band steer : Nat) :
    (c.layoutStep who n band steer).1.lasting = c.lasting := by
  unfold Chip.layoutStep
  repeat' split
  all_goals simp -implicitDefEqProofs

@[simp] theorem Chip.laneStep_lasting (run : StepRun) (n : Nat) : (c.laneStep run n).1.lasting = c.lasting := by
  unfold Chip.laneStep
  split <;> simp -implicitDefEqProofs

@[simp] theorem Chip.itemWork_lasting (who : Issuer) (run : StepRun) (n : Nat) (w : StepWork) :
    (c.itemWork who run n w).1.lasting = c.lasting := by
  unfold Chip.itemWork
  repeat' split
  all_goals simp -implicitDefEqProofs

@[simp] theorem Chip.outStep_lasting (who : Issuer) (run : StepRun) (w : StepWork) (d : Dest) (o : QOut) (scales : List ScaleEntry) :
    (c.outStep who run w d o scales).1.lasting = c.lasting := by
  unfold Chip.outStep
  dsimp only
  repeat' split
  all_goals simp -implicitDefEqProofs

@[simp] theorem Chip.perform_lasting (run : StepRun) (w : StepEndIn) : (c.perform run w).1.lasting = c.lasting := by
  unfold Chip.perform
  dsimp only
  repeat' split
  all_goals simp -implicitDefEqProofs

@[simp] theorem Chip.commitPoint_lasting (n : Nat) : (c.commitPoint n).lasting = c.lasting := by
  simp -implicitDefEqProofs [Chip.commitPoint]

@[simp] theorem Chip.releaseBands_lasting (n : Nat) (bs : List Nat) : (c.releaseBands n bs).lasting = c.lasting := by
  simp -implicitDefEqProofs [Chip.releaseBands]

@[simp] theorem Chip.countOverrun_lasting (run : StepRun) : (c.countOverrun run).lasting = c.lasting := by
  unfold Chip.countOverrun
  split <;> simp -implicitDefEqProofs

@[simp] theorem Chip.stepDone_lasting (run : StepRun) (w : StepEndIn) : (c.stepDone run w).lasting = c.lasting := by
  unfold Chip.stepDone
  repeat' split
  all_goals simp -implicitDefEqProofs

@[simp] theorem Chip.stepEnd_lasting (w : StepEndIn) : (c.stepEnd w).lasting = c.lasting := by
  unfold Chip.stepEnd
  repeat' split
  all_goals simp -implicitDefEqProofs

@[simp] theorem Chip.itemCutoff_lasting (n : Nat) : (c.itemCutoff n).lasting = c.lasting := by
  unfold Chip.itemCutoff
  repeat' split
  all_goals simp -implicitDefEqProofs

/-! ## Partitions -/

@[simp] theorem Chip.lendBlock_lasting (b u : Nat) : (c.lendBlock b u).lasting = c.lasting := by
  simp -implicitDefEqProofs [Chip.lendBlock]

@[simp] theorem Chip.lend_lasting (p : Nat) : (c.lend p).lasting = c.lasting := by
  simp -implicitDefEqProofs [Chip.lend]

@[simp] theorem Chip.lending_lasting : c.lending.lasting = c.lasting := by
  simp -implicitDefEqProofs [Chip.lending]

@[simp] theorem Chip.setPreempt_lasting (p : Nat) (x : Option Preempt) : (c.setPreempt p x).lasting = c.lasting := by
  simp -implicitDefEqProofs [Chip.setPreempt]

@[simp] theorem Chip.undoLending_lasting (p : Nat) : (c.undoLending p).lasting = c.lasting := by
  simp -implicitDefEqProofs [Chip.undoLending]

@[simp] theorem Chip.yieldLanes_lasting (b : Nat) : (c.yieldLanes b).lasting = c.lasting := by
  unfold Chip.yieldLanes
  refine foldl_lasting (fun c u => ?_) _ c
  split <;> simp -implicitDefEqProofs

@[simp] theorem Chip.yieldBlock_lasting (u : Nat) : (c.yieldBlock u).lasting = c.lasting := by
  unfold Chip.yieldBlock
  split <;> simp -implicitDefEqProofs

@[simp] theorem Chip.preemption_lasting (p : Nat) : (c.preemption p).lasting = c.lasting := by
  simp -implicitDefEqProofs [Chip.preemption]

@[simp] theorem Chip.spillComplete_lasting (p : Nat) : (c.spillComplete p).lasting = c.lasting := by
  unfold Chip.spillComplete
  split <;> simp -implicitDefEqProofs

@[simp] theorem Chip.preemptTick_lasting : c.preemptTick.lasting = c.lasting := by
  unfold Chip.preemptTick
  refine foldl_lasting (fun c e => ?_) _ c
  split <;> simp -implicitDefEqProofs

@[simp] theorem Chip.spillRestore_lasting (p : Nat) : (c.spillRestore p).lasting = c.lasting := by
  simp -implicitDefEqProofs [Chip.spillRestore]

@[simp] theorem Chip.cancelBe_lasting (sel : Item → Bool) : (c.cancelBe sel).lasting = c.lasting := by
  simp -implicitDefEqProofs [Chip.cancelBe]

@[simp] theorem Chip.disableStream_lasting (n : Nat) : (c.disableStream n).lasting = c.lasting := by
  unfold Chip.disableStream
  dsimp only
  split <;> simp -implicitDefEqProofs

@[simp] theorem Chip.enableStream_lasting (n : Nat) : (c.enableStream n).lasting = c.lasting := by
  unfold Chip.enableStream
  split <;> simp -implicitDefEqProofs

@[simp] theorem Chip.disableSub_lasting (s : Nat) : (c.disableSub s).lasting = c.lasting := by
  simp -implicitDefEqProofs [Chip.disableSub]

@[simp] theorem Chip.enableSub_lasting (s : Nat) : (c.enableSub s).lasting = c.lasting := by
  unfold Chip.enableSub
  split <;> simp -implicitDefEqProofs

@[simp] theorem Chip.disableResult_lasting (s : Nat) : (c.disableResult s).lasting = c.lasting := by
  simp -implicitDefEqProofs [Chip.disableResult]

@[simp] theorem Chip.enableResult_lasting (s : Nat) : (c.enableResult s).lasting = c.lasting := by
  simp -implicitDefEqProofs [Chip.enableResult]

@[simp] theorem Chip.disablePart_lasting (p : Nat) : (c.disablePart p).lasting = c.lasting := by
  simp -implicitDefEqProofs [Chip.disablePart]

@[simp] theorem Chip.enablePart_lasting (p : Nat) : (c.enablePart p).lasting = c.lasting := by
  unfold Chip.enablePart
  dsimp only
  split <;> simp -implicitDefEqProofs

@[simp] theorem Chip.disableAdapt_lasting : c.disableAdapt.lasting = c.lasting := by
  simp -implicitDefEqProofs [Chip.disableAdapt]

@[simp] theorem Chip.enableAdapt_lasting : c.enableAdapt.lasting = c.lasting := by
  unfold Chip.enableAdapt
  dsimp only
  split <;> simp -implicitDefEqProofs

@[simp] theorem Chip.enable_lasting (t : Target) : (c.enable t).lasting = c.lasting := by
  unfold Chip.enable
  split <;> simp -implicitDefEqProofs

@[simp] theorem Chip.disable_lasting (t : Target) : (c.disable t).lasting = c.lasting := by
  unfold Chip.disable
  split <;> simp -implicitDefEqProofs

@[simp] theorem Chip.switchOff_lasting (t : Target) : (c.switchOff t).lasting = c.lasting := by
  unfold Chip.switchOff
  split <;> simp -implicitDefEqProofs

@[simp] theorem Chip.drainComplete_lasting (t : Target) : (c.drainComplete t).lasting = c.lasting := by
  simp -implicitDefEqProofs [Chip.drainComplete]

@[simp] theorem Chip.drainTimeout_lasting (p : Nat) : (c.drainTimeout p).lasting = c.lasting := by
  simp -implicitDefEqProofs [Chip.drainTimeout]

/-! ## Recovery -/

@[simp] theorem Chip.settle_lasting : c.settle.lasting = c.lasting := by
  simp -implicitDefEqProofs [Chip.settle]

@[simp] theorem Chip.itemRerun_lasting (n : Nat) : (c.itemRerun n).lasting = c.lasting := by
  unfold Chip.itemRerun
  dsimp only
  repeat' split
  all_goals simp -implicitDefEqProofs

@[simp] theorem loadHedge_lasting (aw : Nat × Word) : (loadHedge c aw).lasting = c.lasting := by
  unfold loadHedge
  split <;> simp -implicitDefEqProofs

@[simp] theorem Chip.useVariant_lasting (v : Variant) : (c.useVariant v).lasting = c.lasting := by
  simp -implicitDefEqProofs [Chip.useVariant]

@[simp] theorem Chip.variantSwitch_lasting : c.variantSwitch.lasting = c.lasting := by
  unfold Chip.variantSwitch
  dsimp only
  repeat' split
  all_goals simp -implicitDefEqProofs

@[simp] theorem Chip.loseInputs_lasting (ch : Nat) : (c.loseInputs ch).lasting = c.lasting := by
  simp -implicitDefEqProofs [Chip.loseInputs]

@[simp] theorem Chip.loseWork_lasting (ch : Nat) : (c.loseWork ch).lasting = c.lasting := by
  simp -implicitDefEqProofs [Chip.loseWork]

@[simp] theorem Chip.loseSpool_lasting (ch s : Nat) : (c.loseSpool ch s).lasting = c.lasting := by
  unfold Chip.loseSpool
  dsimp only
  split
  · rfl
  · refine (foldl_lasting (fun c n => c.sessionDone_lasting s n) _ _).trans ((foldl_lasting (fun c n => ?_) _ _).trans ?_)
    · split <;> simp -implicitDefEqProofs
    · simp -implicitDefEqProofs

@[simp] theorem Chip.halveQuota_lasting (s : Nat) : (c.halveQuota s).lasting = c.lasting := by
  simp -implicitDefEqProofs [Chip.halveQuota]

@[simp] theorem Chip.ddrLost_lasting (ch : Fin 2) : (c.ddrLost ch).lasting = c.lasting := by
  simp -implicitDefEqProofs [Chip.ddrLost]

@[simp] theorem Chip.ddrCheck_lasting : c.ddrCheck.lasting = c.lasting := by
  simp -implicitDefEqProofs [Chip.ddrCheck]

@[simp] theorem Chip.portLost_lasting (x : Fin 2) : (c.portLost x).lasting = c.lasting := by
  simp -implicitDefEqProofs [Chip.portLost]

@[simp] theorem Chip.scheduleFault_lasting (r : Fin 4) : (c.scheduleFault r).lasting = c.lasting := by
  simp -implicitDefEqProofs [Chip.scheduleFault]

@[simp] theorem Chip.scheduleFail_lasting (r : Fin 4) : (c.scheduleFail r).lasting = c.lasting := by
  unfold Chip.scheduleFail
  split <;> simp -implicitDefEqProofs

@[simp] theorem Chip.blockSilent_lasting (r : Fin 4) (b : Fin 9) : (c.blockSilent r b).lasting = c.lasting := by
  simp -implicitDefEqProofs [Chip.blockSilent]

@[simp] theorem Chip.paceFault_lasting : c.paceFault.lasting = c.lasting := by
  simp -implicitDefEqProofs [Chip.paceFault]

@[simp] theorem Chip.ledger_lasting : c.ledger.lasting = c.lasting := by
  simp -implicitDefEqProofs [Chip.ledger]

@[simp] theorem Chip.publicationFence_lasting (core : Fin 10) : (c.publicationFence core).lasting = c.lasting := by
  simp -implicitDefEqProofs [Chip.publicationFence]

@[simp] theorem Chip.courseFence_lasting (r : Fin 4) : (c.courseFence r).lasting = c.lasting := by
  simp -implicitDefEqProofs [Chip.courseFence]

@[simp] theorem Chip.summary_lasting : c.summary.lasting = c.lasting := by
  simp -implicitDefEqProofs [Chip.summary]

/-! ## Course boundary -/

@[simp] theorem Chip.reloadBlock_lasting (r p : Nat) : (c.reloadBlock r p).lasting = c.lasting := by
  unfold Chip.reloadBlock
  split <;> simp -implicitDefEqProofs

@[simp] theorem Chip.reloads_lasting : c.reloads.lasting = c.lasting := by
  simp -implicitDefEqProofs [Chip.reloads]

@[simp] theorem Chip.windowCourse_lasting : c.windowCourse.lasting = c.lasting := by
  simp -implicitDefEqProofs [Chip.windowCourse]

@[simp] theorem Chip.fenceCourse_lasting : c.fenceCourse.lasting = c.lasting := by
  simp -implicitDefEqProofs [Chip.fenceCourse]

@[simp] theorem Chip.lagCourse_lasting : c.lagCourse.lasting = c.lasting := by
  simp -implicitDefEqProofs [Chip.lagCourse]

@[simp] theorem Chip.kicks_lasting (missed : List (Fin 10)) : (c.kicks missed).lasting = c.lasting := by
  simp -implicitDefEqProofs [Chip.kicks]

@[simp] theorem Chip.timingChecks_lasting (bad : List (Fin 4)) : (c.timingChecks bad).lasting = c.lasting := by
  simp -implicitDefEqProofs [Chip.timingChecks]

@[simp] theorem Chip.beginItems_lasting : c.beginItems.lasting = c.lasting := by
  simp -implicitDefEqProofs [Chip.beginItems]

@[simp] theorem Chip.courseWork_lasting (w : CourseIn) : (c.courseWork w).lasting = c.lasting := by
  simp -implicitDefEqProofs [Chip.courseWork]

@[simp] theorem Chip.egressPort_lasting (x : Nat) : (c.egressPort x).lasting = c.lasting := by
  simp -implicitDefEqProofs [Chip.egressPort]

@[simp] theorem Chip.egress_lasting : c.egress.lasting = c.lasting := by
  simp -implicitDefEqProofs [Chip.egress]

@[simp] theorem Chip.closeAll_lasting : c.closeAll.lasting = c.lasting := by
  simp -implicitDefEqProofs [Chip.closeAll]

/-! ## Boot -/

@[simp] theorem Chip.random_lasting (w : Nat) : (c.random w).1.lasting = c.lasting := by
  simp -implicitDefEqProofs [Chip.random]

@[simp] theorem Chip.enterSafeHold_lasting : c.enterSafeHold.lasting = c.lasting := by
  simp -implicitDefEqProofs [Chip.enterSafeHold]

@[simp] theorem Chip.bootReason_lasting (d r : Nat) : (c.bootReason d r).lasting = c.lasting := by
  simp -implicitDefEqProofs [Chip.bootReason]

@[simp] theorem Chip.candidateFails_lasting (d r : Nat) : (c.candidateFails d r).lasting = c.lasting := by
  simp -implicitDefEqProofs [Chip.candidateFails]

@[simp] theorem Chip.senseFuses_lasting : c.senseFuses.lasting = c.lasting := by
  simp -implicitDefEqProofs [Chip.senseFuses]

@[simp] theorem Chip.showTrees_lasting : c.showTrees.lasting = c.lasting := by
  simp -implicitDefEqProofs [Chip.showTrees]

@[simp] theorem Chip.stageA_lasting : c.stageA.lasting = c.lasting := by
  simp -implicitDefEqProofs [Chip.stageA]

@[simp] theorem Chip.imageVerify_lasting : c.imageVerify.lasting = c.lasting := by
  unfold Chip.imageVerify
  repeat' split
  all_goals simp -implicitDefEqProofs

@[simp] theorem Chip.firmwareStart_lasting (linear16 : Bool) : (c.firmwareStart linear16).lasting = c.lasting := by
  unfold Chip.firmwareStart
  repeat' split
  all_goals simp -implicitDefEqProofs

@[simp] theorem Chip.bootRefs_lasting (n : Nat) : (c.bootRefs n).lasting = c.lasting := by
  simp -implicitDefEqProofs [Chip.bootRefs]

@[simp] theorem Chip.ddrTrained_lasting (aOk bOk : Bool) : (c.ddrTrained aOk bOk).lasting = c.lasting := by
  simp -implicitDefEqProofs [Chip.ddrTrained]

@[simp] theorem Chip.ddrInit_lasting : c.ddrInit.lasting = c.lasting := by
  simp -implicitDefEqProofs [Chip.ddrInit]

@[simp] theorem Chip.selfTest_lasting (r : SelfTestIn) : (c.selfTest r).lasting = c.lasting := by
  unfold Chip.selfTest
  split
  · rfl
  · dsimp only
    rw [Chip.updBoot_lasting, Chip.graftDue_lasting, Chip.takeRole_lasting, foldl_lasting (fun c u => ?_)]
    · simp -implicitDefEqProofs
    · split <;> simp -implicitDefEqProofs

@[simp] theorem Chip.adaptersVerified_lasting : c.adaptersVerified.lasting = c.lasting := by
  unfold Chip.adaptersVerified
  split
  · rfl
  · extract_lets area d e
    have hd : d.lasting = c.lasting := foldN_lasting (fun c s => by
      split
      · rfl
      · split <;> simp -implicitDefEqProofs) _ _
    have he : e.lasting = d.lasting := by
      unfold e area
      split
      · exact d.put_lasting ..
      · rfl
    rw [Chip.updBoot_lasting, he, hd]

@[simp] theorem Chip.bootVariant_lasting : c.bootVariant.lasting = c.lasting := by
  unfold Chip.bootVariant
  split <;> simp -implicitDefEqProofs

@[simp] theorem Chip.fillPools_lasting : c.fillPools.lasting = c.lasting := by
  simp -implicitDefEqProofs [Chip.fillPools]

@[simp] theorem Chip.enableBoot_lasting : c.enableBoot.lasting = c.lasting := by
  simp -implicitDefEqProofs [Chip.enableBoot]

@[simp] theorem Chip.portAddrs_lasting : c.portAddrs.lasting = c.lasting := by
  simp -implicitDefEqProofs [Chip.portAddrs]

@[simp] theorem Chip.placeContent_lasting : c.placeContent.lasting = c.lasting := by
  simp -implicitDefEqProofs [Chip.placeContent]

@[simp] theorem Chip.showImage_lasting : c.showImage.lasting = c.lasting := by
  unfold Chip.showImage
  split <;> simp -implicitDefEqProofs

@[simp] theorem Chip.bootStageI_lasting (ms : Nat) : (c.bootStageI ms).lasting = c.lasting := by
  simp -implicitDefEqProofs [Chip.bootStageI]

/-! ## Management -/

@[simp] theorem Chip.nmpSend_lasting (d : DgIn) (l : List (List Byte)) : (c.nmpSend d l).lasting = c.lasting := by
  simp -implicitDefEqProofs [Chip.nmpSend]

@[simp] theorem Chip.readDone_lasting (role a : Nat) : (c.readDone role a).lasting = c.lasting := by
  unfold Chip.readDone
  repeat' split
  all_goals simp -implicitDefEqProofs

@[simp] theorem Chip.readWords_lasting (role n : Nat) (c : Chip) (x : Nat) : (Chip.readWords role n c x).1.lasting = c.lasting := by
  induction n generalizing c x with
  | zero => rfl
  | succ n ih => simp -implicitDefEqProofs [Chip.readWords, ih]

@[simp] theorem Chip.nmpRead_lasting (role : Nat) (a : NmpAct) : (c.nmpRead role a).1.lasting = c.lasting := by
  unfold Chip.nmpRead
  split <;> simp -implicitDefEqProofs

@[simp] theorem Chip.switch_lasting (t : Target) (on : Bool) : (c.switch t on).lasting = c.lasting := by
  simp -implicitDefEqProofs [Chip.switch]

@[simp] theorem Chip.nmpWrite_lasting (role : Nat) (a : NmpAct) : (c.nmpWrite role a).1.lasting = c.lasting := by
  unfold Chip.nmpWrite
  dsimp only
  repeat' split
  all_goals simp -implicitDefEqProofs

@[simp] theorem Chip.nmpControl_lasting (role : Nat) (a : NmpAct) : (c.nmpControl role a).1.lasting = c.lasting := by
  unfold Chip.nmpControl
  repeat' split
  all_goals simp -implicitDefEqProofs

@[simp] theorem Chip.nmpHello_lasting (role : Nat) (a : NmpAct) : (c.nmpHello role a).1.lasting = c.lasting := by
  simp -implicitDefEqProofs [Chip.nmpHello]

/-! ## Long operations -/

@[simp] theorem Chip.commitBegins_lasting (h : Nat) : (c.commitBegins h).lasting = c.lasting := by
  simp -implicitDefEqProofs [Chip.commitBegins]

@[simp] theorem Chip.newOp_lasting (h kind : Nat) (o : LongOp) : (c.newOp h kind o).lasting = c.lasting := by
  simp -implicitDefEqProofs [Chip.newOp]

theorem Chip.longStart_cases (kind : Nat) (o : LongOp) (why : Option (List Byte)) (first : Chip → Nat → Chip) :
    (c.longStart kind o why first).1 = c ∨ ∃ h, (c.longStart kind o why first).1 = first (c.newOp h kind o) h := by
  unfold Chip.longStart
  split
  · exact .inl rfl
  · split
    · exact .inl rfl
    · split
      · exact .inl rfl
      · exact .inl rfl
      · exact .inr ⟨_, rfl⟩

theorem Chip.longStart_lasting {kind : Nat} {o : LongOp} {why : Option (List Byte)} {first : Chip → Nat → Chip}
    (hf : ∀ d h, (first d h).lasting = d.lasting) : (c.longStart kind o why first).1.lasting = c.lasting := by
  obtain h | ⟨k, h⟩ := c.longStart_cases kind o why first
  · rw [h]
  · rw [h, hf, Chip.newOp_lasting]

@[simp] theorem Chip.captureStart_lasting (role : Nat) (a : NmpAct) : (c.captureStart role a).1.lasting = c.lasting := by
  unfold Chip.captureStart
  split
  · exact c.longStart_lasting (fun d _ => d.captureBegin_lasting _)
  · rfl

@[simp] theorem Chip.commitStart_lasting (role : Nat) (a : NmpAct) : (c.commitStart role a).1.lasting = c.lasting := by
  unfold Chip.commitStart
  split
  · refine c.longStart_lasting (fun d h => ?_)
    split
    · exact d.commitBegins_lasting h
    · rfl
  · rfl

@[simp] theorem Chip.scrubStart_lasting (role : Nat) (a : NmpAct) : (c.scrubStart role a).1.lasting = c.lasting :=
  c.longStart_lasting (fun _ _ => rfl)

@[simp] theorem Chip.spareTestStart_lasting (role : Nat) (a : NmpAct) : (c.spareTestStart role a).1.lasting = c.lasting :=
  c.longStart_lasting (fun _ _ => rfl)

@[simp] theorem Chip.longStatus_lasting (role : Nat) (a : NmpAct) : (c.longStatus role a).1.lasting = c.lasting := by
  unfold Chip.longStatus
  repeat' split
  all_goals simp -implicitDefEqProofs

@[simp] theorem Chip.longAbort_lasting (role : Nat) (a : NmpAct) : (c.longAbort role a).1.lasting = c.lasting := by
  unfold Chip.longAbort
  repeat' split
  all_goals simp -implicitDefEqProofs

@[simp] theorem Chip.commitOver_lasting : c.commitOver.lasting = c.lasting := by
  simp -implicitDefEqProofs [Chip.commitOver]

@[simp] theorem Chip.captureStops_lasting (h : Nat) : (c.captureStops h).lasting = c.lasting := by
  simp -implicitDefEqProofs [Chip.captureStops]

@[simp] theorem Chip.captureDone_lasting (n : Nat) (w : CaptureIn) : (c.captureDone n w).lasting = c.lasting := by
  unfold Chip.captureDone
  dsimp only
  split <;> simp -implicitDefEqProofs

@[simp] theorem Chip.handleExpire_lasting (handle : Nat) : (c.handleExpire handle).lasting = c.lasting := by
  unfold Chip.handleExpire
  split <;> simp -implicitDefEqProofs

@[simp] theorem Chip.tokenIn_lasting (t : List Byte) : (c.tokenIn t).1.lasting = c.lasting := by
  unfold Chip.tokenIn
  split <;> simp -implicitDefEqProofs

@[simp] theorem Chip.nmpToken_lasting (role : Nat) (a : NmpAct) : (c.nmpToken role a).1.lasting = c.lasting := by
  unfold Chip.nmpToken
  split <;> simp -implicitDefEqProofs

@[simp] theorem Chip.jtagLoad_lasting (i : JtagInstr) : (c.jtagLoad i).lasting = c.lasting := by
  simp -implicitDefEqProofs [Chip.jtagLoad]

@[simp] theorem Chip.i2cIndex_lasting (b : List Byte) : (c.i2cIndex b).lasting = c.lasting := by
  unfold Chip.i2cIndex
  split <;> simp -implicitDefEqProofs

@[simp] theorem Chip.i2cRead_lasting (n : Nat) : (c.i2cRead n).lasting = c.lasting := by
  simp -implicitDefEqProofs [Chip.i2cRead]

/-! ## Management rows -/

theorem Chip.nmpServe_cases (role : Nat) (a : NmpAct) (act : Chip → Nat → NmpAct → Chip × NmpReply) :
    (c.nmpServe role a act).1 = c ∨ (c.nmpServe role a act).1 = (act c role a).1 := by
  unfold Chip.nmpServe
  repeat' split
  all_goals simp

/-- A management row keeps what lasts, or changes of it what its act changes. -/
theorem Chip.nmp_lasting_cases (d : DgIn) (mine : NmpAct → Bool) (act : Chip → Nat → NmpAct → Chip × NmpReply) :
    (c.nmp d mine act).lasting = c.lasting ∨
      ∃ role a, (c.nmp d mine act).lasting = (act (c.takeIn d) role a).1.lasting := by
  unfold Chip.nmp
  split
  · exact .inl rfl
  dsimp only
  split
  · exact .inl (by simp -implicitDefEqProofs)
  · exact .inl (by simp -implicitDefEqProofs)
  · next r _ =>
    split
    · exact .inl (by simp -implicitDefEqProofs)
    split
    · exact .inl (by simp -implicitDefEqProofs)
    split
    · exact .inl (by simp -implicitDefEqProofs)
    split
    · exact .inl (by simp -implicitDefEqProofs)
    split
    · next l _ _ =>
      split
      · exact .inl rfl
      · obtain hs | hs := (c.takeIn d).nmpServe_cases r.role (nmpAct r.type (.map l)) act
        · exact .inl (by split <;> split <;> simp -implicitDefEqProofs [hs])
        · exact .inr ⟨r.role, nmpAct r.type (.map l), by split <;> split <;> simp -implicitDefEqProofs [hs]⟩
    · exact .inl (by simp -implicitDefEqProofs)

@[simp] theorem Chip.nmp_lasting (d : DgIn) (mine : NmpAct → Bool) {act : Chip → Nat → NmpAct → Chip × NmpReply}
    (hact : ∀ t role a, (act t role a).1.lasting = t.lasting) : (c.nmp d mine act).lasting = c.lasting := by
  obtain h | ⟨role, a, h⟩ := c.nmp_lasting_cases d mine act
  · exact h
  · rw [h, hact, Chip.takeIn_lasting]

@[simp] theorem Chip.writeRow_lasting (d : DgIn) (mine : NmpAct → Bool) : (c.writeRow d mine).lasting = c.lasting :=
  c.nmp_lasting d _ Chip.nmpWrite_lasting

@[simp] theorem Chip.controlRow_lasting (d : DgIn) (kind : Target → Bool) (acts : List Nat) :
    (c.controlRow d kind acts).lasting = c.lasting :=
  c.nmp_lasting d _ Chip.nmpControl_lasting

/-! ## Commands of the ports -/

@[simp] theorem Chip.followAddr_lasting (x old : Nat) : (c.followAddr x old).lasting = c.lasting := by
  simp -implicitDefEqProofs [Chip.followAddr]

/-! ## The commands that change nothing of it -/

@[simp] theorem Chip.awake_lasting {f : Chip → Chip} (hf : ∀ d, (f d).lasting = d.lasting) : (c.awake f).lasting = c.lasting := by
  unfold Chip.awake
  split
  · rfl
  · exact hf c

@[simp] theorem Chip.serving_lasting {f : Chip → Chip} (hf : ∀ d, (f d).lasting = d.lasting) :
    (c.serving f).lasting = c.lasting := by
  unfold Chip.serving
  split
  · rfl
  · exact (Chip.settle_lasting _).trans (hf c)

@[simp] theorem Chip.online_lasting {f : Chip → Chip} (hf : ∀ d, (f d).lasting = d.lasting) : (c.online f).lasting = c.lasting := by
  unfold Chip.online
  split
  · rfl
  · exact hf c

@[simp] theorem Chip.svnAdvance_lasting : c.svnAdvance.lasting = c.lasting := by
  simp -implicitDefEqProofs [Chip.svnAdvance]

@[simp] theorem Chip.fuseProg_lasting (w : FuseIn) : (c.fuseProg w).lasting = c.lasting := by
  simp -implicitDefEqProofs [Chip.fuseProg]

/-- The commands that change the local clock, the image or flash. -/
def changesLasting : Instr → Bool
  | .ptpRefclkEdge | .courseBoundary _ | .slotTick | .firstLock | .warmRestartStart | .sectionsLoaded _ | .restart _ | .attest _
  | .stageImage _ | .stageData _ | .longOpEnd _ _ => true
  | c => isReset c

theorem exec_lasting {c : Instr} {s t : State} (h : exec c s = .next t) (hc : changesLasting c = false) :
    t.chip.lasting = s.chip.lasting := by
  cases c
  case porstNFall | porstNRise | railUndervoltage | overTemperatureTrip | overTemperatureRelease | ptpRefclkEdge |
    courseBoundary | slotTick | firstLock | warmRestartStart | sectionsLoaded | restart | attest | stageImage | stageData |
    longOpEnd => cases hc
  case mortarRead w =>
    have he : exec (.mortarRead w) s = execMortarRead w s := rfl
    rw [he, execMortarRead] at h
    split at h
    · cases h
      rfl
    · split at h
      · cases h
        simp -implicitDefEqProofs
      · cases h
  case cellFailed u =>
    cases h
    rw [Chip.serving_lasting _ (fun d => ?_)]
    split <;> simp -implicitDefEqProofs
  case frameTransmit x =>
    cases h
    rw [Chip.online_lasting _ (fun d => ?_)]
    dsimp only
    split <;> simp -implicitDefEqProofs
  case jrtClose d =>
    cases h
    rw [Chip.serving_lasting _ (fun d => ?_)]
    dsimp only
    split <;> simp -implicitDefEqProofs
  case jtagToken w =>
    cases w <;> cases h <;> simp -implicitDefEqProofs
  all_goals -- each of the others is one work of the device, which has its equation above
    cases h
    simp -implicitDefEqProofs

/-! ## Flash is written -/

/-- The local clock and the image. -/
def Chip.setting (c : Chip) : Clock × ImageConfig := (c.clock, c.image)

theorem setting_of_lasting {c d : Chip} (h : c.lasting = d.lasting) : c.setting = d.setting :=
  congrArg (fun x => (x.1, x.2.1)) h

theorem Chip.modFlash_setting (d : Nat) (f : Flash → Flash) : (c.modFlash d f).setting = c.setting := rfl

theorem Chip.cutFlash_setting : c.cutFlash.setting = c.setting := by
  have hr : (c.random 1).1.setting = c.setting := setting_of_lasting (c.random_lasting 1)
  unfold Chip.cutFlash
  split
  · rfl
  · split
    · rfl
    · dsimp only
      split
      · exact hr
      · exact hr

theorem Chip.abortOps_setting : c.abortOps.setting = c.setting :=
  (setting_of_lasting (by simp -implicitDefEqProofs [Chip.abortOps])).trans c.cutFlash_setting

theorem Chip.nmpRestart_setting (role : Nat) (a : NmpAct) : (c.nmpRestart role a).1.setting = c.setting := by
  unfold Chip.nmpRestart
  split
  · rfl
  · extract_lets d e f
    have hd : d.setting = c.setting := (Chip.abortOps_setting _).trans rfl
    exact (setting_of_lasting (by simp -implicitDefEqProofs [f, e])).trans hd

theorem Chip.newTree_setting {d : Chip} {t : Nat} (h : c.newTree = some (d, t)) : d.setting = c.setting := by
  unfold Chip.newTree at h
  extract_lets n e at h
  have he : e.setting = c.setting := rfl
  split at h
  · cases h
  · obtain ⟨rfl, -⟩ := Prod.mk.inj (Option.some.inj h)
    rw [setting_of_lasting (Chip.put_lasting ..), setting_of_lasting (Chip.showTrees_lasting _),
      setting_of_lasting (Chip.updBoot_lasting ..), he]

theorem Chip.takeTree_setting {d : Chip} {t : Nat} (h : c.takeTree = some (d, t)) : d.setting = c.setting := by
  unfold Chip.takeTree at h
  split at h
  · split at h
    · exact c.newTree_setting h
    · cases h
      rfl
  · exact c.newTree_setting h

theorem Chip.nmpAttest_setting (role : Nat) (a : NmpAct) : (c.nmpAttest role a).1.setting = c.setting := by
  unfold Chip.nmpAttest
  split
  · split
    · rfl
    · split
      · rfl
      · split
        · rfl
        · next ht => exact (setting_of_lasting (by simp -implicitDefEqProofs)).trans (c.takeTree_setting ht)
  · rfl

theorem Chip.stageBegins_setting (h : Nat) : (c.stageBegins h).setting = c.setting := by
  unfold Chip.stageBegins
  dsimp only
  rw [setting_of_lasting (Chip.put_lasting ..), Chip.modFlash_setting, setting_of_lasting (Chip.modOp_lasting ..)]

theorem Chip.startQueued_setting : c.startQueued.setting = c.setting := by
  unfold Chip.startQueued
  split
  · rfl
  · split
    · exact c.stageBegins_setting _
    · exact setting_of_lasting (c.commitBegins_lasting _)

theorem Chip.longStart_setting {kind : Nat} {o : LongOp} {why : Option (List Byte)} {first : Chip → Nat → Chip}
    (hf : ∀ d h, (first d h).setting = d.setting) : (c.longStart kind o why first).1.setting = c.setting := by
  obtain h | ⟨k, h⟩ := c.longStart_cases kind o why first
  · rw [h]
  · rw [h, hf, setting_of_lasting (Chip.newOp_lasting ..)]

theorem Chip.stageStart_setting (role : Nat) (a : NmpAct) : (c.stageStart role a).1.setting = c.setting := by
  unfold Chip.stageStart
  split
  · refine c.longStart_setting (fun d h => ?_)
    split
    · exact d.stageBegins_setting h
    · rfl
  · rfl

theorem Chip.stageData_setting (role : Nat) (a : NmpAct) : (c.stageData role a).1.setting = c.setting := by
  unfold Chip.stageData
  split
  · split
    · rfl
    · dsimp only
      split
      · exact setting_of_lasting (c.modOp_lasting ..)
      · rw [setting_of_lasting (Chip.put_lasting ..), setting_of_lasting (Chip.modOp_lasting ..), Chip.modFlash_setting]
  · rfl

theorem Chip.activate_setting (d rank : Nat) : (c.activate d rank).setting = c.setting := by
  unfold Chip.activate
  split
  · rfl
  · exact c.modFlash_setting ..

theorem Chip.opEnds_setting (h state code : Nat) : (c.opEnds h state code).setting = c.setting :=
  setting_of_lasting (c.opEnds_lasting h state code)

theorem Chip.stageEnds_setting {h : Nat} {e : LongEnd} {d : Chip} (hd : c.stageEnds h e = some d) : d.setting = c.setting := by
  unfold Chip.stageEnds at hd
  dsimp only at hd
  split at hd
  · cases hd
    exact c.opEnds_setting ..
  · split at hd
    · cases hd
      exact c.opEnds_setting ..
    · split at hd
      · cases hd
      · split at hd
        · cases hd
          exact (Chip.opEnds_setting ..).trans (c.activate_setting ..)
        · cases hd
          exact c.opEnds_setting ..

theorem Chip.commitEnds_setting (h : Nat) (e : LongEnd) : (c.commitEnds h e).setting = c.setting := by
  have hover : ∀ d : Chip, d.commitOver.setting = d.setting := fun d => setting_of_lasting d.commitOver_lasting
  cases e with
  | done => exact (Chip.opEnds_setting ..).trans (hover _)
  | failed code => exact (Chip.opEnds_setting ..).trans ((hover _).trans c.cutFlash_setting)
  | aborted => exact (Chip.opEnds_setting ..).trans ((hover _).trans c.cutFlash_setting)

theorem Chip.captureStops_opEnds_setting (h state code : Nat) : ((c.captureStops h).opEnds h state code).setting = c.setting :=
  (Chip.opEnds_setting ..).trans (setting_of_lasting (c.captureStops_lasting h))

theorem Chip.longEnd_setting (handle : Nat) (e : LongEnd) : (c.longEnd handle e).setting = c.setting := by
  unfold Chip.longEnd
  split
  · rfl
  · dsimp only
    split
    · rfl
    · split
      · rfl
      · split
        · exact (Chip.startQueued_setting _).trans (c.opEnds_setting ..)
        · cases hs : c.stageEnds _ _ with
          | none => rfl
          | some d => exact (Chip.startQueued_setting d).trans (c.stageEnds_setting hs)
        · exact c.captureStops_opEnds_setting ..
        · exact c.captureStops_opEnds_setting ..
        · rfl
        · exact (Chip.startQueued_setting _).trans (c.commitEnds_setting ..)
        · exact c.opEnds_setting ..
        · exact c.opEnds_setting ..
        · exact c.opEnds_setting ..

theorem Chip.nmp_setting (d : DgIn) (mine : NmpAct → Bool) {act : Chip → Nat → NmpAct → Chip × NmpReply}
    (hact : ∀ t role a, (act t role a).1.setting = t.setting) : (c.nmp d mine act).setting = c.setting := by
  obtain h | ⟨role, a, h⟩ := c.nmp_lasting_cases d mine act
  · exact setting_of_lasting h
  · exact (setting_of_lasting h).trans ((hact ..).trans (setting_of_lasting (c.takeIn_lasting d)))

theorem Chip.awake_setting {f : Chip → Chip} (hf : ∀ d, (f d).setting = d.setting) : (c.awake f).setting = c.setting := by
  unfold Chip.awake
  split
  · rfl
  · exact hf c

/-! ## The clock moves -/

/-- The image and the flash devices. -/
def Chip.stored (c : Chip) : ImageConfig × List Flash := (c.image, c.flash)

theorem stored_of_lasting {c d : Chip} (h : c.lasting = d.lasting) : c.stored = d.stored := congrArg Prod.snd h

theorem Chip.courseBoundary_stored (w : CourseIn) : (c.courseBoundary w).stored = c.stored := by
  unfold Chip.courseBoundary
  split
  · rfl
  · dsimp only
    refine (stored_of_lasting ?_).trans (show c.toCourse.stored = c.stored from rfl)
    split
    · simp -implicitDefEqProofs
    · split <;> simp -implicitDefEqProofs

theorem Chip.slotTick_stored : c.slotTick.stored = c.stored := by
  unfold Chip.slotTick
  split
  · rfl
  · dsimp only
    refine (stored_of_lasting ?_).trans (show c.toSlot.stored = c.stored from rfl)
    split
    · rfl
    · simp -implicitDefEqProofs

theorem Chip.firstLock_stored : c.firstLock.stored = c.stored := by
  unfold Chip.firstLock
  split
  · rfl
  · split
    · rfl
    · extract_lets t k d l e f g h
      have he : e.stored = c.stored := rfl
      rw [← he]
      refine stored_of_lasting ?_
      simp -implicitDefEqProofs [h, g, f]

theorem Chip.serving_stored {f : Chip → Chip} (hf : ∀ d, (f d).stored = d.stored) : (c.serving f).stored = c.stored := by
  unfold Chip.serving
  split
  · rfl
  · exact (stored_of_lasting (Chip.settle_lasting _)).trans (hf c)

/-! ## The image is loaded -/

theorem Chip.loadImage_lasting (h : ImgHdr) (img : ImageConfig) :
    (c.loadImage h img).lasting = ({ c with image := img } : Chip).lasting := by
  unfold Chip.loadImage
  simp -implicitDefEqProofs

/-- The local clock and the flash devices. -/
def Chip.hardware (c : Chip) : Clock × List Flash := (c.clock, c.flash)

theorem hardware_of_lasting {c d : Chip} (h : c.lasting = d.lasting) : c.hardware = d.hardware :=
  congrArg (fun x => (x.1, x.2.2)) h

theorem Chip.sectionsLoaded_hardware (img : ImageConfig) : (c.sectionsLoaded img).hardware = c.hardware := by
  unfold Chip.sectionsLoaded
  split
  · rfl
  · split
    · rfl
    · split
      · rw [hardware_of_lasting (Chip.updBoot_lasting ..), hardware_of_lasting (Chip.loadImage_lasting ..)]
        rfl
      · exact hardware_of_lasting (c.candidateFails_lasting ..)

theorem Chip.warmReset_flash : c.warmReset.flash = c.flash := by
  have hf : ∀ {a b : Chip}, a.lasting = b.lasting → a.flash = b.flash := fun h => congrArg (fun x => x.2.2) h
  unfold Chip.warmReset
  extract_lets d lock on clk mem servo boot mgmt n m
  have hd : d.lasting = c.lasting := by simp -implicitDefEqProofs [d]
  have hn : n.flash = d.flash := rfl
  have hm : m.lasting = n.lasting := by simp -implicitDefEqProofs [m]
  rw [hf m.stageA_lasting, hf hm, hn, hf hd]

theorem exec_warmRestartStart_flash {s t : State} (h : exec .warmRestartStart s = .next t) : t.chip.flash = s.chip.flash := by
  cases h
  dsimp only
  split
  · exact s.chip.warmReset_flash
  · rfl

theorem exec_courseBoundary_stored {w : CourseIn} {s t : State} (h : exec (.courseBoundary w) s = .next t) :
    t.chip.stored = s.chip.stored := by
  cases h
  exact s.chip.courseBoundary_stored w

theorem exec_slotTick_stored {s t : State} (h : exec .slotTick s = .next t) : t.chip.stored = s.chip.stored := by
  cases h
  exact s.chip.slotTick_stored

theorem exec_sectionsLoaded_hardware {img : ImageConfig} {s t : State} (h : exec (.sectionsLoaded img) s = .next t) :
    t.chip.hardware = s.chip.hardware := by
  cases h
  exact s.chip.sectionsLoaded_hardware img

theorem exec_restart_setting {d : DgIn} {s t : State} (h : exec (.restart d) s = .next t) : t.chip.setting = s.chip.setting := by
  cases h
  exact s.chip.nmp_setting d _ Chip.nmpRestart_setting

theorem exec_attest_setting {d : DgIn} {s t : State} (h : exec (.attest d) s = .next t) : t.chip.setting = s.chip.setting := by
  cases h
  exact s.chip.nmp_setting d _ Chip.nmpAttest_setting

theorem exec_stageImage_setting {d : DgIn} {s t : State} (h : exec (.stageImage d) s = .next t) :
    t.chip.setting = s.chip.setting := by
  cases h
  exact s.chip.nmp_setting d _ Chip.stageStart_setting

theorem exec_stageData_setting {d : DgIn} {s t : State} (h : exec (.stageData d) s = .next t) :
    t.chip.setting = s.chip.setting := by
  cases h
  exact s.chip.nmp_setting d _ Chip.stageData_setting

theorem exec_longOpEnd_setting {n : Nat} {e : LongEnd} {s t : State} (h : exec (.longOpEnd n e) s = .next t) :
    t.chip.setting = s.chip.setting := by
  cases h
  exact s.chip.awake_setting (fun d => d.longEnd_setting n e)

theorem exec_firstLock_stored {s t : State} (h : exec .firstLock s = .next t) : t.chip.stored = s.chip.stored := by
  cases h
  rw [Chip.serving_stored _ (fun d => ?_)]
  rw [← d.firstLock_stored]
  refine stored_of_lasting ?_
  dsimp only
  split
  · simp -implicitDefEqProofs
  · rfl

theorem exec_ptpRefclkEdge_stored {s t : State} (h : exec .ptpRefclkEdge s = .next t) : t.chip.stored = s.chip.stored := by
  cases h
  dsimp only
  unfold Chip.awake
  split <;> rfl

/-- Settles O21: every function of the model keeps the clock, the image and the flash devices, or is the work of one of the
named commands, and then keeps the two that the command has no business with. -/
theorem fewCommandsMoveClock : Obligations.FewCommandsMoveClock := by
  unfold Obligations.FewCommandsMoveClock
  intro c s t h hc
  cases hl : changesLasting c with
  | false =>
    have hs := exec_lasting h hl
    have hclock : t.chip.clock = s.chip.clock := congrArg Prod.fst hs
    have himage : t.chip.image = s.chip.image := congrArg (fun x => x.2.1) hs
    have hflash : t.chip.flash = s.chip.flash := congrArg (fun x => x.2.2) hs
    exact ⟨by split <;> trivial, by split <;> trivial, by split <;> trivial⟩
  | true =>
    have hclock : ∀ {d e : Chip}, d.stored = e.stored → True ∧ d.image = e.image ∧ d.flash = e.flash :=
      fun h => ⟨trivial, Prod.mk.inj h⟩
    have hflash : ∀ {d e : Chip}, d.setting = e.setting → d.clock = e.clock ∧ d.image = e.image ∧ True := fun h =>
      ⟨(Prod.mk.inj h).1, (Prod.mk.inj h).2, trivial⟩
    unfold changesLasting at hl
    split at hl
    · exact hclock (exec_ptpRefclkEdge_stored h)
    · exact hclock (exec_courseBoundary_stored h)
    · exact hclock (exec_slotTick_stored h)
    · exact hclock (exec_firstLock_stored h)
    · exact ⟨trivial, trivial, exec_warmRestartStart_flash h⟩
    · obtain ⟨hc, hf⟩ := Prod.mk.inj (exec_sectionsLoaded_hardware h)
      exact ⟨hc, trivial, hf⟩
    · exact hflash (exec_restart_setting h)
    · exact hflash (exec_attest_setting h)
    · exact hflash (exec_stageImage_setting h)
    · exact hflash (exec_stageData_setting h)
    · exact hflash (exec_longOpEnd_setting h)
    · rw [hc] at hl
      cases hl

end Sys2Proof.Machine
end

section
/-!
PROOFS. Course and slot boundaries: the multiples they lie at.
-/

namespace Sys2Proof.Machine

variable (c : Chip)

/-! ## The clock reaches a multiple -/

/-- A time that is set reads back, SEC wrapped at 2⁴⁸ (R435). -/
theorem normStamp_toNs (ns : Nat) : Stamp.toNs (normStamp 0 ns) = ns % (2 ^ 48 * 1000000000) := by
  unfold normStamp Stamp.toNs
  dsimp only
  omega

/-- What a boundary leaves of the clock: its own multiple is noted as the last one, by `note`; a clock that had noted the present
one has gone on to the next multiple of `unit`, and one that had not stays. -/
structure Chip.Strikes (c t : Chip) (note : Clock → Option Nat) (number : Chip → Nat) (unit : Nat) : Prop where
  noted : note t.clock = some (number t)
  goesOn : note c.clock = some (number c) →
    t.nowNs = (c.nowNs / unit + 1) * unit % (2 ^ 48 * 1000000000) ∧ t.clock.frac = 0
  stays : note c.clock ≠ some (number c) → t.clock.now = c.clock.now ∧ t.clock.frac = c.clock.frac

theorem Chip.toCourse_strikes : c.Strikes c.toCourse Clock.lastCourse Chip.courseK 2000000 where
  noted := rfl
  goesOn := fun h => by
    unfold Chip.toCourse
    dsimp only
    rw [if_pos h]
    exact ⟨normStamp_toNs _, rfl⟩
  stays := fun h => by
    unfold Chip.toCourse
    dsimp only
    rw [if_neg h]
    exact ⟨rfl, rfl⟩

theorem Chip.toSlot_strikes : c.Strikes c.toSlot Clock.lastSlot Chip.slotNo 125000 where
  noted := rfl
  goesOn := fun h => by
    unfold Chip.toSlot
    dsimp only
    rw [if_pos h]
    exact ⟨normStamp_toNs _, rfl⟩
  stays := fun h => by
    unfold Chip.toSlot
    dsimp only
    rw [if_neg h]
    exact ⟨rfl, rfl⟩

/-- The course number and the slot number are numbers of the clock alone. -/
theorem Chip.courseK_congr {a b : Chip} (h : a.clock = b.clock) : a.courseK = b.courseK := by unfold Chip.courseK; rw [h]

theorem Chip.slotNo_congr {a b : Chip} (h : a.clock = b.clock) : a.slotNo = b.slotNo := by unfold Chip.slotNo; rw [h]

theorem Chip.nowNs_congr {a b : Chip} (h : a.clock = b.clock) : a.nowNs = b.nowNs := by unfold Chip.nowNs; rw [h]

/-- Work after the boundary that leaves the clock. -/
theorem Chip.Strikes.clock {c d t : Chip} {note : Clock → Option Nat} {number : Chip → Nat} {unit : Nat}
    (h : c.Strikes d note number unit) (ht : t.clock = d.clock) (hn : number t = number d) : c.Strikes t note number unit where
  noted := by rw [ht, hn]; exact h.noted
  goesOn := fun hc => by rw [Chip.nowNs_congr ht, ht]; exact h.goesOn hc
  stays := fun hc => by rw [ht]; exact h.stays hc

/-! ## The commands -/

theorem Chip.courseBoundary_clock (hon : c.On) (w : CourseIn) : (c.courseBoundary w).clock = c.toCourse.clock := by
  have hl : (c.courseBoundary w).lasting = c.toCourse.lasting := by
    unfold Chip.courseBoundary
    rw [if_neg (ne_true_of_eq_false hon)]
    dsimp only
    split
    · simp -implicitDefEqProofs
    · split <;> simp -implicitDefEqProofs
  exact congrArg Prod.fst hl

theorem Chip.slotTick_clock (hon : c.On) : c.slotTick.clock = c.toSlot.clock := by
  have hl : c.slotTick.lasting = c.toSlot.lasting := by
    unfold Chip.slotTick
    rw [if_neg (ne_true_of_eq_false hon)]
    dsimp only
    split
    · rfl
    · simp -implicitDefEqProofs
  exact congrArg Prod.fst hl

theorem Chip.courseBoundary_strikes (hon : c.On) (w : CourseIn) :
    c.Strikes (c.courseBoundary w) Clock.lastCourse Chip.courseK 2000000 :=
  c.toCourse_strikes.clock (c.courseBoundary_clock hon w) (Chip.courseK_congr (c.courseBoundary_clock hon w))

theorem Chip.slotTick_strikes (hon : c.On) : c.Strikes c.slotTick Clock.lastSlot Chip.slotNo 125000 :=
  c.toSlot_strikes.clock (c.slotTick_clock hon) (Chip.slotNo_congr (c.slotTick_clock hon))

/-- Settles O20: the clock is the boundary's own, and everything that follows leaves it, the image, the fuses and the flash
devices. -/
theorem boundariesLieOnMultiples : Obligations.BoundariesLieOnMultiples := by
  unfold Obligations.BoundariesLieOnMultiples
  intro s hon _
  refine ⟨fun w => ?_, ?_⟩
  · obtain ⟨hnoted, hgoes, hstays⟩ := s.chip.courseBoundary_strikes hon w
    obtain ⟨himage, hflash⟩ := Prod.mk.inj (s.chip.courseBoundary_stored w)
    refine ⟨_, exec_courseBoundary w s, rfl, hnoted, ?_, himage, (s.chip.courseBoundary_keeps w (Keeps.refl _)).fuses, hflash⟩
    split
    · next h => exact hgoes h
    · next h => exact hstays h
  · obtain ⟨hnoted, hgoes, hstays⟩ := s.chip.slotTick_strikes hon
    obtain ⟨himage, hflash⟩ := Prod.mk.inj s.chip.slotTick_stored
    refine ⟨_, exec_slotTick s, rfl, hnoted, ?_, himage, (s.chip.slotTick_keeps (Keeps.refl _)).fuses, hflash⟩
    split
    · next h => exact hgoes h
    · next h => exact hstays h

end Sys2Proof.Machine
end

section
/-!
PROOFS. The start of a step: its run, its slot, its lag, and the first of its handles that fails.
-/

namespace Sys2Proof.Machine

variable (c : Chip)

/-! ## What settling leaves -/

theorem Chip.settle_core : c.Core c.settle := c.settle_admits.toCore

theorem Chip.settle_runOf (u : Nat) : c.settle.runOf u = c.runOf u := by
  unfold Chip.runOf
  rw [Chip.settle_sched]

variable {c} in
theorem Chip.Logged.settle {t : Chip} {code : Nat} {l : Loc} (h : c.Logged t code l) : c.Logged t.settle code l :=
  h.of_word (fun e => t.settle_calm.word_apart e 0 (by decide))

/-! ## The run of a unit -/

theorem Chip.runOf_setRun_ne {u v : Nat} (h : v ≠ u) (r : Option StepRun) : (c.setRun u r).runOf v = c.runOf v :=
  smGet_smSet_ne c.sched.running r h

/-- A step that has started: its unit holds it, its slot is served and its region's lag takes it in (R345, R351). -/
def Chip.started (c : Chip) (d : StepDesc) : Chip :=
  ((c.setRun (unitNo d.unit) (some (c.runNow d))).serveSlot d).noteLag d.unit (c.nowNs - d.slot * 125000)

/-- The slot from which the unit's next step comes (R345). -/
def slotAfter (d : StepDesc) : Nat :=
  match d.unit, d.kind with
  | .block _ _, .soak => d.slot
  | .block _ _, _ => d.slot + d.span + 1
  | _, _ => d.slot

/-- The schedule with a step's slot served. -/
def Sched.serve (x : Sched) (d : StepDesc) : Sched := { x with served := smMod 0 x.served (unitNo d.unit) (Nat.max (slotAfter d)) }

/-- What the start of a step leaves, beside its handles. -/
structure Chip.Starts (c t : Chip) (d : StepDesc) : Prop where
  only : t = { c with mem := { c.mem with hedges := t.mem.hedges }, sched := t.sched }
  run : t.runOf (unitNo d.unit) = some (c.runNow d)
  others : ∀ u, u ≠ unitNo d.unit → t.runOf u = c.runOf u
  block : ∀ r, unitRegion d.unit = some r → t.mem = c.mem
  lag : ∀ r, unitRegion d.unit = some r → r < c.sched.lag.length →
    t.sched.lag.getD r 0 = Nat.max (c.nowNs - d.slot * 125000) (c.sched.lag.getD r 0)
  served : ∀ r, unitRegion d.unit = some r → d.kind ≠ .soak →
    smGet 0 t.sched.served (unitNo d.unit) = Nat.max (d.slot + d.span + 1) (smGet 0 c.sched.served (unitNo d.unit))

theorem Chip.serveSlot_block {d : StepDesc} {r : Fin 4} {b : Fin 8} (h : d.unit = .block r b) :
    c.serveSlot d = c.updSched (fun x => x.serve d) := by
  unfold Chip.serveSlot Sched.serve slotAfter
  cases hd : d.kind <;> simp only [h]

/-- The service of a text cell's slot can change its partition's share, and nothing else. -/
theorem Chip.serveSlot_table {d : StepDesc} (h : unitRegion d.unit = none) :
    OnlyHedges (c.updSched (fun x => x.serve d)) (c.serveSlot d) := by
  unfold Chip.serveSlot Sched.serve slotAfter
  cases hu : d.unit with
  | block r b =>
    rw [hu] at h
    cases h
  | text t =>
    dsimp only
    split
    · exact Chip.modHedge_onlyHedges _ _ _
    · rfl
  | lane l => rfl

theorem slotAfter_block {d : StepDesc} {r : Nat} (h : unitRegion d.unit = some r) (hk : d.kind ≠ .soak) :
    slotAfter d = d.slot + d.span + 1 := by
  unfold slotAfter
  cases hu : d.unit with
  | block r b =>
    cases hd : d.kind with
    | soak => exact absurd hd hk
    | lc | be => rfl
  | text t | lane l =>
    rw [hu] at h
    cases h

/-- The lag of a region that a step starts in. -/
theorem getD_modify_max {l : List Nat} {r : Nat} (n : Nat) (h : r < l.length) :
    (l.modify r (Nat.max n)).getD r 0 = Nat.max n (l.getD r 0) := by
  simp [List.getD, h]

theorem Chip.started_block {d : StepDesc} {r : Fin 4} {b : Fin 8} (h : d.unit = .block r b) : c.Starts (c.started d) d := by
  have hr : ∀ k, unitRegion d.unit = some k → k = r.val := fun k hk => by
    rw [h] at hk
    exact (Option.some.inj hk).symm
  have hs : (c.started d).sched =
      { ({ c.sched with running := smSet none c.sched.running (unitNo d.unit) (some (c.runNow d)) } : Sched).serve d with
        lag := c.sched.lag.modify r.val (Nat.max (c.nowNs - d.slot * 125000)) } ∧
      c.started d = { c with sched := (c.started d).sched } := by
    unfold Chip.started
    rw [Chip.serveSlot_block _ h]
    unfold Chip.noteLag
    rw [h]
    exact ⟨rfl, rfl⟩
  obtain ⟨hs, honly⟩ := hs
  generalize c.started d = t at hs honly
  have hrun : ∀ u, t.runOf u = (c.setRun (unitNo d.unit) (some (c.runNow d))).runOf u := fun u => by
    unfold Chip.runOf
    rw [hs]
    rfl
  refine ⟨?_, ?_, fun u hu => ?_, fun _ _ => ?_, fun k hk hlt => ?_, fun k hk hkind => ?_⟩
  · rw [honly]
  · exact (hrun _).trans (c.runOf_setRun_self _ _)
  · exact (hrun u).trans (c.runOf_setRun_ne hu _)
  · rw [honly]
  · rw [hs, hr k hk]
    exact getD_modify_max _ (hr k hk ▸ hlt)
  · rw [hs, ← slotAfter_block hk hkind]
    exact smGet_smMod_self _ _ _

theorem Chip.started_table {d : StepDesc} (h : unitRegion d.unit = none) : c.Starts (c.started d) d := by
  have hs : OnlyHedges ((c.setRun (unitNo d.unit) (some (c.runNow d))).updSched (fun x => x.serve d)) (c.started d) := by
    unfold Chip.started Chip.noteLag
    rw [h]
    exact Chip.serveSlot_table _ h
  have hnone : ∀ {p : Prop} {r : Nat}, unitRegion d.unit = some r → p := fun hr => by
    rw [h] at hr
    cases hr
  generalize c.started d = t at hs
  have hrun : ∀ u, t.runOf u = (c.setRun (unitNo d.unit) (some (c.runNow d))).runOf u := fun u => by
    rw [hs]
    rfl
  refine ⟨?_, (hrun _).trans (c.runOf_setRun_self _ _), fun u hu => (hrun u).trans (c.runOf_setRun_ne hu _),
    fun _ => hnone, fun _ => hnone, fun _ => hnone⟩
  rw [hs]
  rfl

theorem Chip.started_starts (d : StepDesc) : c.Starts (c.started d) d := by
  cases h : d.unit with
  | block r b => exact c.started_block h
  | text t => exact c.started_table (by rw [h]; rfl)
  | lane l => exact c.started_table (by rw [h]; rfl)

/-! ## The check of the handles -/

/-- What a handle comes to does not depend on the schedule and the shares. -/
theorem Chip.Starts.checkHandle {c t : Chip} {d : StepDesc} (h : c.Starts t d) (who : Issuer) (r : HRef) (w : Bool) (n : Nat) :
    t.checkHandle who r w n = c.checkHandle who r w n := by
  rw [h.only]
  rfl

theorem Chip.Starts.core {c t : Chip} {d : StepDesc} (h : c.Starts t d) : c.Core t := by
  rw [h.only]
  exact ⟨rfl, rfl, rfl, rfl, rfl, rfl⟩

theorem Chip.Starts.rest {c t : Chip} {d : StepDesc} (h : c.Starts t d) : t.items = c.items ∧ t.kv = c.kv := by
  rw [h.only]
  exact ⟨rfl, rfl⟩

theorem Chip.Starts.mem {c t : Chip} {d : StepDesc} (h : c.Starts t d) : t.mem = { c.mem with hedges := t.mem.hedges } :=
  congrArg Chip.mem h.only

/-- The issuer that a step's accesses name. -/
def Chip.stepIssuer (c : Chip) (d : StepDesc) : Issuer := ⟨c.physUnit d.unit, some d.part⟩

/-- The first handle of a step that fails its check is a handle fault (R72). -/
def Chip.checkFirst (c : Chip) (d : StepDesc) : Chip :=
  match d.handles.find? (fun x => (c.checkHandle (c.stepIssuer d) x.ref x.write x.len).isSome) with
  | some x => c.handleFault 0x12 (c.stepIssuer d) (tableNo x.ref.space)
  | none => c

theorem Chip.stepStart_not {d : StepDesc} (h : c.canStart d = false) : c.stepStart d = c := by
  unfold Chip.stepStart
  rw [h]
  rfl

theorem Chip.itemReady_of_canStart {d : StepDesc} (h : c.canStart d = true) : c.itemReady d = true := by
  unfold Chip.canStart at h
  simp only [Bool.and_eq_true] at h
  obtain ⟨⟨⟨_, hitem⟩, _⟩, _⟩ := h
  exact hitem

/-- A step that takes no bands starts, and its handles are checked. -/
theorem Chip.stepStart_starts {d : StepDesc} (h : c.canStart d = true) (hb : d.item = none ∨ d.bands = []) :
    c.stepStart d = (c.started d).checkFirst d := by
  unfold Chip.stepStart
  rcases hb with hn | hn
  · rw [h, hn]
    dsimp only
    rw [c.itemReady_of_canStart h]
    rfl
  · rw [h, hn]
    cases d.item with
    | none | some n =>
      dsimp only [List.foldl_nil]
      rw [c.itemReady_of_canStart h]
      rfl

theorem Chip.Starts.stepIssuer {c t : Chip} {d : StepDesc} (h : c.Starts t d) : t.stepIssuer d = c.stepIssuer d := by
  rw [h.only]
  rfl

theorem Chip.stepStart_passed {d : StepDesc} (h : c.canStart d = true) (hb : d.item = none ∨ d.bands = [])
    (hc : ∀ x, x ∈ d.handles → c.checkHandle (c.stepIssuer d) x.ref x.write x.len = none) : c.stepStart d = c.started d := by
  have hst := c.started_starts d
  rw [c.stepStart_starts h hb]
  unfold Chip.checkFirst
  rw [hst.stepIssuer, List.find?_eq_none.2 (fun x hx => by rw [hst.checkHandle, hc x hx]; exact Bool.false_ne_true)]

theorem Chip.stepStart_failed {d : StepDesc} {x : HUse} {rest : List HUse} (h : c.canStart d = true)
    (hb : d.item = none ∨ d.bands = []) (hd : d.handles = x :: rest)
    (hc : c.checkHandle (c.stepIssuer d) x.ref x.write x.len ≠ none) :
    c.stepStart d = (c.started d).handleFault 0x12 (c.stepIssuer d) (tableNo x.ref.space) := by
  have hst := c.started_starts d
  rw [c.stepStart_starts h hb]
  unfold Chip.checkFirst
  rw [hst.stepIssuer, hd, List.find?_cons_of_pos (by rw [hst.checkHandle]; exact Option.isSome_iff_ne_none.2 hc)]

/-- What a handle fault at the start of a step leaves. -/
structure Chip.FaultsAtStart (c t : Chip) (d : StepDesc) (x : HUse) : Prop where
  logged : c.Logged t 0x12 (c.locOf (c.physUnit d.unit) d.part.val)
  counted : smGet 0 t.mem.hndFaults (tableNo x.ref.space) = smGet 0 c.mem.hndFaults (tableNo x.ref.space) + 1
  items : t.items = c.items
  bytes : c.mem.SameBytes t.mem
  core : c.Core t

variable {c} in
theorem Chip.FaultsAtStart.settle {t : Chip} {d : StepDesc} {x : HUse} (h : c.FaultsAtStart t d x) :
    c.FaultsAtStart t.settle d x where
  logged := h.logged.settle
  counted := t.settle_mem ▸ h.counted
  items := t.settle_items.trans h.items
  bytes := t.settle_mem ▸ h.bytes
  core := h.core.trans t.settle_core

variable {c} in
theorem Chip.Starts.faults {t : Chip} {d : StepDesc} (h : c.Starts t d) (x : HUse) :
    c.FaultsAtStart (t.handleFault 0x12 (c.stepIssuer d) (tableNo x.ref.space)) d x := by
  have href := t.handleFault_refuses 0x12 (c.stepIssuer d) (tableNo x.ref.space)
  have hfall := (Chip.log_fallout _ _ _ _).trans (t.handleFault_fallout 0x12 (c.stepIssuer d) (tableNo x.ref.space))
  have hloc : t.locOf (c.physUnit d.unit) d.part.val = c.locOf (c.physUnit d.unit) d.part.val := by
    rw [h.only]
    rfl
  have hnext : t.get F.FAULT_LOG_PTR_NEXT = c.get F.FAULT_LOG_PTR_NEXT := by
    rw [h.only]
    rfl
  have hbytes : c.mem.SameBytes t.mem := by
    rw [h.mem]
    exact ⟨rfl, rfl, rfl⟩
  have hcounts : t.Core (t.countHandleFault 0x12 (tableNo x.ref.space)) := ⟨rfl, rfl, rfl, rfl, rfl, rfl⟩
  generalize t.handleFault 0x12 (c.stepIssuer d) (tableNo x.ref.space) = e at href hfall
  refine ⟨?_, ?_, hfall.items.trans h.rest.1, hbytes.trans href.bytes, (h.core.trans hcounts).trans hfall.core⟩
  · rw [← hloc]
    exact href.logged.of_next hnext
  · rw [href.hndFaults, h.mem]

/-! ## The obligation -/

theorem exec_stepStart_up (s : State) (d : StepDesc) (hup : s.chip.Up) :
    exec (.stepStart d) s = .next ⟨s.pending, (s.chip.stepStart d).settle⟩ := by
  simp only [exec_stepStart, Chip.serving_eq _ hup.1 hup.2]

/-- Settles O25: what `Chip.started` leaves, and the handle fault of the first check that fails. -/
theorem stepStarts : Obligations.StepStarts := by
  unfold Obligations.StepStarts
  intro s d hup c who run
  have hst := c.started_starts d
  refine ⟨fun hno => ?_, fun hcan hb hpass => ?_, fun hcan hb x rest hd hfail => ?_⟩
  · rw [exec_stepStart_up s d hup, c.stepStart_not hno]
  · refine ⟨_, exec_stepStart_up s d hup, rfl, ?_⟩
    dsimp only
    rw [c.stepStart_passed hcan hb hpass]
    simp only [Chip.settle_runOf, Chip.settle_mem, Chip.settle_sched, Chip.settle_items, Chip.settle_kv]
    exact ⟨hst.run, hst.others, fun r hr => ⟨hst.block r hr, hst.lag r hr, hst.served r hr⟩, hst.mem,
      hst.rest.1, hst.rest.2, hst.core.trans (Chip.settle_core _)⟩
  · obtain ⟨hlogged, hcounted, hitems, ⟨hblock, hshared, hddr⟩, hcore⟩ := (hst.faults x).settle
    rw [← c.stepStart_failed hcan hb hd hfail] at hlogged hcounted hitems hblock hshared hddr hcore
    exact ⟨_, exec_stepStart_up s d hup, rfl, hlogged, hcounted, hitems, hshared, hddr, hblock, hcore⟩

end Sys2Proof.Machine
end

section
/-!
PROOFS. Faults of schedule and pace: a region that lags, a block that stays silent, a block below the floor.
-/

namespace Sys2Proof.Machine

variable (c : Chip)

/-! ## The fate of a region's steps -/

theorem Chip.needRerun_failedRegion (n : Option Nat) : (c.needRerun n).recov.failedRegion = c.recov.failedRegion := by
  unfold Chip.needRerun
  split
  · rfl
  · split <;> rfl

theorem Chip.loseStep_failedRegion (u : Nat) : (c.loseStep u).recov.failedRegion = c.recov.failedRegion := by
  unfold Chip.loseStep
  split
  · rfl
  · rw [Chip.needRerun_failedRegion, (Chip.boundary_passes _ u).only]
    rfl

/-- The loss of a unit's step leaves every other unit's. -/
theorem Chip.loseStep_runOf_ne {u v : Nat} (h : v ≠ u) : (c.loseStep u).runOf v = c.runOf v := by
  unfold Chip.loseStep
  split
  · rfl
  · unfold Chip.runOf
    rw [Chip.needRerun_sched, (Chip.boundary_passes _ u).running]
    exact c.runOf_setRun_ne h none

theorem Chip.needRerun_regs (n : Option Nat) : (c.needRerun n).regs = c.regs := by
  unfold Chip.needRerun
  split
  · rfl
  · split <;> rfl

/-- A register's word depends on the registers alone. -/
theorem Chip.word_congr {a b : Chip} (h : b.regs = a.regs) (r : Reg) (i j : Nat) : b.word r i j = a.word r i j := by
  unfold Chip.word
  rw [h]

theorem Chip.loseStep_word (u : Nat) {r : Reg} (i j : Nat) (h : Reg.apart .PART_CFG r = true) :
    (c.loseStep u).word r i j = c.word r i j := by
  unfold Chip.loseStep
  split
  · rfl
  · rw [Chip.word_congr (Chip.needRerun_regs _ _)]
    exact (Chip.boundary_passes _ u).word r i j h

/-- What a degradation changes: VAR_STAT, and the degradations that are recorded. -/
structure Degrades (a b : Chip) : Prop where
  only : b = { a with regs := b.regs, recov := b.recov }
  failedRegion : b.recov.failedRegion = a.recov.failedRegion
  word : ∀ r i j, Reg.apart .VAR_STAT r = true → b.word r i j = a.word r i j

theorem Degrades.trans {a b c : Chip} (h : Degrades a b) (k : Degrades b c) : Degrades a c where
  only := k.only.trans (by rw [h.only])
  failedRegion := k.failedRegion.trans h.failedRegion
  word := fun r i j hr => (k.word r i j hr).trans (h.word r i j hr)

theorem Chip.updRecov_degrades {f : Recov → Recov} (h : (f c.recov).failedRegion = c.recov.failedRegion) :
    Degrades c (c.updRecov f) := ⟨rfl, h, fun _ _ _ _ => rfl⟩

theorem Chip.word_put_apart (f : Fld) (v i j : Nat) {q : Reg} (k l : Nat) (h : f.reg.apart q = true) :
    (c.put f v i j).word q k l = c.word q k l := c.word_setWord_apart _ _ _ _ _ h

theorem Chip.putB_degrades {f : Fld} (v : Bool) (i j : Nat) (hf : f.reg = .VAR_STAT) : Degrades c (c.putB f v i j) :=
  ⟨rfl, rfl, fun _ k l h => c.word_put_apart f (b2n v) i j k l (hf ▸ h)⟩

theorem Chip.retarget_degrades : Degrades c c.retarget := by
  unfold Chip.retarget
  exact c.updRecov_degrades rfl

theorem Chip.degrade_degrades (d : Degradation) : Degrades c (c.degrade d) := by
  unfold Chip.degrade
  dsimp only
  split
  · exact ⟨rfl, rfl, fun _ _ _ _ => rfl⟩
  · split
    · exact c.updRecov_degrades rfl
    · exact ((c.putB_degrades true 0 0 rfl).trans (Chip.updRecov_degrades _ rfl)).trans (Chip.retarget_degrades _)

variable {c} in
theorem Degrades.runOf {t : Chip} (h : Degrades c t) (u : Nat) : t.runOf u = c.runOf u := by
  rw [h.only]
  rfl

/-- The steps of the first `n` blocks of region `r` are lost. -/
def Chip.loseRegion (c : Chip) (r n : Nat) : Chip := (List.range n).foldl (fun c lb => c.loseStep (8 * r + lb)) c

theorem Chip.loseRegion_succ (r n : Nat) : c.loseRegion r (n + 1) = (c.loseRegion r n).loseStep (8 * r + n) := by
  unfold Chip.loseRegion
  rw [List.range_succ, List.foldl_append]
  rfl

theorem Chip.loseRegion_fallout (r n : Nat) : Fallout 0 c (c.loseRegion r n) := by
  induction n with
  | zero => exact Fallout.refl 0 c
  | succ n ih =>
    rw [c.loseRegion_succ]
    exact ih.trans (Chip.loseStep_fallout _ _)

theorem Chip.loseRegion_failedRegion (r n : Nat) : (c.loseRegion r n).recov.failedRegion = c.recov.failedRegion := by
  induction n with
  | zero => rfl
  | succ n ih => rw [c.loseRegion_succ, Chip.loseStep_failedRegion, ih]

theorem Chip.loseRegion_runOf {r n b : Nat} (h : b < n) : (c.loseRegion r n).runOf (8 * r + b) = none := by
  induction n with
  | zero => cases h
  | succ n ih =>
    rw [c.loseRegion_succ]
    by_cases hb : b = n
    · rw [hb]
      exact Chip.loseStep_runOf _ _
    · rw [Chip.loseStep_runOf_ne _ (by omega)]
      exact ih (by omega)

/-! ## The failure of a region -/

/-- What the failure of a region leaves (R409). -/
structure Chip.RegionFails (c t : Chip) (r : Nat) : Prop where
  failed : t.recov.failedRegion.getD r true = true
  ended : ∀ b, b < 8 → t.runOf (8 * r + b) = none
  logged : c.Logged t 0x25 ⟨r, 15, 31, 15, 31, 0⟩
  data : c.mem.SameData t.mem
  core : c.Core t

variable {c} in
theorem Chip.RegionFails.settle {t : Chip} {r : Nat} (h : c.RegionFails t r) : c.RegionFails t.settle r where
  failed := t.settle_recov ▸ h.failed
  ended := fun b hb => (t.settle_runOf _).trans (h.ended b hb)
  logged := h.logged.settle
  data := t.settle_mem ▸ h.data
  core := h.core.trans t.settle_core

/-- The region is marked as failed. -/
def Chip.markRegion (c : Chip) (r : Nat) : Chip := c.updRecov (fun v => { v with failedRegion := v.failedRegion.set r true })

theorem Chip.markRegion_failed (r : Nat) : (c.markRegion r).recov.failedRegion.getD r true = true := by
  change (c.recov.failedRegion.set r true).getD r true = true
  by_cases h : r < c.recov.failedRegion.length <;> simp [List.getD, h]

theorem Chip.regionFail_fails {r : Nat} (hr : r < 4) (h : c.recov.failedRegion.getD r true = false) :
    c.RegionFails (c.regionFail r) r := by
  have heq : c.regionFail r = (((c.log 0x25 ⟨r, 15, 31, 15, 31, 0⟩).markRegion r).loseRegion r 8).degrade (.region ⟨r, hr⟩) := by
    unfold Chip.regionFail
    rw [h, if_neg Bool.false_ne_true]
    exact dif_pos hr
  have hmark : Fallout 0 _ ((c.log 0x25 ⟨r, 15, 31, 15, 31, 0⟩).markRegion r) := Chip.updRecov_fallout _ _
  have hlost := Chip.loseRegion_fallout ((c.log 0x25 ⟨r, 15, 31, 15, 31, 0⟩).markRegion r) r 8
  have hdegr := Chip.degrade_degrades (((c.log 0x25 ⟨r, 15, 31, 15, 31, 0⟩).markRegion r).loseRegion r 8) (.region ⟨r, hr⟩)
  have hlast := (hmark.trans hlost).trans (Chip.degrade_fallout _ (.region ⟨r, hr⟩))
  have hall := (c.log_fallout 0x25 ⟨r, 15, 31, 15, 31, 0⟩ none).trans hlast
  rw [heq]
  refine ⟨?_, fun b hb => ?_, hlast.logged (by decide), hall.data, hall.core⟩
  · rw [hdegr.failedRegion, Chip.loseRegion_failedRegion]
    exact Chip.markRegion_failed _ r
  · rw [hdegr.runOf]
    exact Chip.loseRegion_runOf _ hb

/-! ## The failure of a block -/

theorem bitOf_eq_testBit (v i : Nat) : bitOf v i = v.testBit i := by
  unfold bitOf bitsOf
  rw [Nat.testBit_eq_decide_div_mod_eq, Nat.shiftRight_eq_div_pow, Nat.pow_one]

/-- A bit that is set in a field of `w` bits. -/
theorem bitOf_or_two_pow (v : Nat) {w b : Nat} (h : b < w) : bitOf ((v ||| 2 ^ b) % 2 ^ w) b = true := by
  rw [bitOf_eq_testBit, Nat.testBit_mod_two_pow, Nat.testBit_or, Nat.testBit_two_pow_self]
  simp [h]

theorem spareHealth_has {r : Nat} (h : r < 4) : Reg.has .SPARE_HEALTH r 0 = true := decide_eq_true ⟨h, Nat.one_pos⟩

/-- A block is marked as failed in its region. -/
def Chip.Marked (c : Chip) (r b : Nat) : Prop := bitOf (c.get F.SPARE_HEALTH_BLK_FAILED r) b = true

/-- A write of BSPARE leaves BLK_FAILED. -/
theorem Chip.putB_bspare_get (v : Bool) (r : Nat) :
    (c.putB F.SPARE_HEALTH_BSPARE v r).get F.SPARE_HEALTH_BLK_FAILED r = c.get F.SPARE_HEALTH_BLK_FAILED r :=
  Chip.get_putB_field c _ _ v r 0 rfl (by decide) (.inr (by decide))

variable {c} in
theorem Chip.Marked.of_get {t : Chip} {r b : Nat} (h : c.Marked r b)
    (hg : t.get F.SPARE_HEALTH_BLK_FAILED r = c.get F.SPARE_HEALTH_BLK_FAILED r) : t.Marked r b := by
  unfold Chip.Marked at h ⊢
  rw [hg, h]

theorem Chip.markBlock_marked {r b : Nat} (hr : r < 4) (hb : b < 9) : (c.markBlock r b).Marked r b := by
  have hput : (c.put F.SPARE_HEALTH_BLK_FAILED (c.get F.SPARE_HEALTH_BLK_FAILED r ||| 2 ^ b) r).Marked r b := by
    unfold Chip.Marked
    rw [Chip.get_put_self _ _ _ _ _ (spareHealth_has hr) (by decide)]
    exact bitOf_or_two_pow _ hb
  unfold Chip.markBlock
  dsimp only
  split
  · exact hput
  · exact hput.of_get (Chip.putB_bspare_get _ _ _)

theorem Chip.loseStep_blkFailed (u r : Nat) :
    (c.loseStep u).get F.SPARE_HEALTH_BLK_FAILED r = c.get F.SPARE_HEALTH_BLK_FAILED r :=
  Chip.get_of_word _ (c.loseStep_word u r 0 (by decide))

theorem Chip.degrade_blkFailed (d : Degradation) (r : Nat) :
    (c.degrade d).get F.SPARE_HEALTH_BLK_FAILED r = c.get F.SPARE_HEALTH_BLK_FAILED r :=
  Chip.get_of_word _ ((c.degrade_degrades d).word _ r 0 (by decide))

/-- A block that fails is marked, whatever takes its place (R386). -/
theorem Chip.blockFail_marked {r b : Nat} (hr : r < 4) (hb : b < 9) : (c.blockFail r b).Marked r b := by
  unfold Chip.blockFail
  extract_lets lb c1 spare c2 fab c3
  have h3 : c3.Marked r b := (c1.markBlock_marked hr hb).of_get rfl
  clear_value c3 spare lb
  split
  · next h => exact h
  · split
    · exact h3.of_get (c3.putB_bspare_get _ _)
    · next lb _ =>
      extract_lets c4
      have h4 : c4.Marked r b := h3.of_get (c3.loseStep_blkFailed _ r)
      clear_value c4
      split
      · split
        · exact h4.of_get (c4.degrade_blkFailed _ r)
        · extract_lets c5 c6
          have h6 : c6.Marked r b := Chip.Marked.of_get (c := c5) (h4.of_get rfl) (c5.putB_bspare_get _ _)
          exact h6.of_get rfl
      · exact h4.of_get (c4.degrade_blkFailed _ r)

/-- What a fault of class `code` that fails a block leaves. -/
structure Chip.BlockFails (c t : Chip) (r b code : Nat) (l : Loc) : Prop where
  marked : t.Marked r b
  logged : c.Logged t code l
  request : t.fabric.request = c.fabric.request
  data : c.mem.SameData t.mem
  core : c.Core t

variable {c} in
theorem Chip.BlockFails.settle {t : Chip} {r b code : Nat} {l : Loc} (h : c.BlockFails t r b code l) :
    c.BlockFails t.settle r b code l where
  marked := h.marked.of_get (t.settle_calm.get_apart (by decide))
  logged := h.logged.settle
  request := t.settle_fabric ▸ h.request
  data := t.settle_mem ▸ h.data
  core := h.core.trans t.settle_core

theorem Chip.log_blockFail {r b : Nat} (hr : r < 4) (hb : b < 9) (code : Nat) (l : Loc) :
    c.BlockFails ((c.log code l).blockFail r b) r b code l where
  marked := Chip.blockFail_marked _ hr hb
  logged := (Chip.blockFail_fallout _ r b).logged (by decide)
  request := by rw [Chip.blockFail_request, Chip.log_fabric]
  data := ((c.log_fallout code l none).trans (Chip.blockFail_fallout _ r b)).data
  core := ((c.log_fallout code l none).trans (Chip.blockFail_fallout _ r b)).core

theorem Chip.blockSilent_fails {r : Fin 4} {b : Fin 9} (hf : bitOf (c.get F.SPARE_HEALTH_BLK_FAILED r.val) b.val = false)
    (h : b.val ∈ c.scheduled r.val) : c.blockSilent r b = (c.log 0x21 (c.locOf (.block r b))).blockFail r.val b.val := by
  unfold Chip.blockSilent
  rw [hf, List.contains_iff_mem.2 h]
  rfl

/-- A block that the region's map does not schedule is not probed. -/
theorem Chip.blockSilent_unscheduled {r : Fin 4} {b : Fin 9} (h : b.val ∉ c.scheduled r.val) : c.blockSilent r b = c := by
  unfold Chip.blockSilent
  rw [if_pos]
  simp [h]

/-! ## The schedule fault -/

theorem actsAs_one (v : Nat) : actsAs v 1 = Nat.max 1 v := by
  unfold actsAs
  rcases Nat.eq_zero_or_pos v with h | h
  · rw [h]
    rfl
  · rw [if_neg (Nat.ne_of_gt h)]
    exact (Nat.max_eq_right h).symm

/-- LAG_MAX of 0 acts as one course (R354). -/
theorem Chip.lagging_iff (r : Nat) :
    c.lagging r = true ↔ c.sched.lagAt.getD r 0 > Nat.max 1 (c.get F.SCHED_CFG_LAG_MAX) * 2000000 := by
  unfold Chip.lagging
  rw [actsAs_one, decide_eq_true_iff]

theorem Chip.scheduleFault_none {r : Fin 4} (h : ¬ c.lagging r.val = true ∨ c.recov.takeover = some r.val ∨
    c.recov.failedRegion.getD r.val true = true) : c.scheduleFault r = c := by
  unfold Chip.scheduleFault
  rw [if_pos]
  rcases h with h | h | h
  · exact .inr (.inr (Bool.eq_false_iff.2 h))
  · exact .inl h
  · exact .inr (.inl h)

theorem Chip.scheduleFail_none {r : Fin 4} (h : ¬ c.lagging r.val = true ∨
    ∀ k, c.sched.faultAt.getD r.val none = some k → c.courseK < k + 8) : c.scheduleFail r = c := by
  unfold Chip.scheduleFail
  split
  · next k hk =>
    rw [if_neg]
    rintro ⟨hle, hlag⟩
    rcases h with h | h
    · exact h hlag
    · exact absurd (h k hk) (Nat.not_lt.2 hle)
  · rfl

theorem Chip.scheduleFail_fails {r : Fin 4} {k : Nat} (hlag : c.lagging r.val = true)
    (hk : c.sched.faultAt.getD r.val none = some k) (hle : k + 8 ≤ c.courseK) : c.scheduleFail r = c.regionFail r.val := by
  unfold Chip.scheduleFail
  rw [hk]
  exact if_pos ⟨hle, hlag⟩

/-- The schedule with the course of a region's first fault. -/
def Chip.noteFault (c : Chip) (r k : Nat) : Chip :=
  c.updSched (fun s => { s with faultAt := s.faultAt.modify r (fun f => some (f.getD k)) })

/-- What a schedule fault leaves (R354, R409). -/
structure Chip.FaultsSchedule (c t : Chip) (r : Fin 4) : Prop where
  first : r.val < c.sched.faultAt.length →
    t.sched.faultAt.getD r.val none = some ((c.sched.faultAt.getD r.val none).getD c.courseK)
  logged : c.Logged t 0x23 (c.locOf (.region r))
  counted : c.Counted t F.SCHED_CNT_SCHED_FAULT r.val
  items : t.items = c.items
  mem : t.mem = c.mem
  core : c.Core t

variable {c} in
theorem Chip.FaultsSchedule.settle {t : Chip} {r : Fin 4} (h : c.FaultsSchedule t r) : c.FaultsSchedule t.settle r where
  first := t.settle_sched ▸ h.first
  logged := h.logged.settle
  counted := Chip.Counted.settle c h.counted (by decide)
  items := t.settle_items.trans h.items
  mem := t.settle_mem.trans h.mem
  core := h.core.trans t.settle_core

theorem Chip.scheduleFault_faults {r : Fin 4} (hlag : c.lagging r.val = true) (ht : c.recov.takeover ≠ some r.val)
    (hf : c.recov.failedRegion.getD r.val true = false) : c.FaultsSchedule (c.scheduleFault r) r := by
  have heq : c.scheduleFault r =
      ((c.noteFault r.val c.courseK).log 0x23 (c.locOf (.region r))).bump F.SCHED_CNT_SCHED_FAULT r.val := by
    unfold Chip.scheduleFault
    rw [if_neg]
    · rfl
    · rintro (h | h | h)
      · exact ht h
      · exact Bool.false_ne_true (hf.symm.trans h)
      · exact Bool.false_ne_true (h.symm.trans hlag)
  have hnote : c.Core (c.noteFault r.val c.courseK) := ⟨rfl, rfl, rfl, rfl, rfl, rfl⟩
  have hsched : (c.noteFault r.val c.courseK).sched.faultAt =
      c.sched.faultAt.modify r.val (fun f => some (f.getD c.courseK)) := rfl
  have hget : (c.noteFault r.val c.courseK).get F.SCHED_CNT_SCHED_FAULT r.val = c.get F.SCHED_CNT_SCHED_FAULT r.val := rfl
  have hitems : (c.noteFault r.val c.courseK).items = c.items := rfl
  have hmem : (c.noteFault r.val c.courseK).mem = c.mem := rfl
  have hnext : (c.noteFault r.val c.courseK).get F.FAULT_LOG_PTR_NEXT = c.get F.FAULT_LOG_PTR_NEXT := rfl
  rw [heq]
  generalize c.noteFault r.val c.courseK = d at hnote hsched hget hitems hmem hnext
  have hbump := Chip.put_fallout (d.log 0x23 (c.locOf (.region r))) F.SCHED_CNT_SCHED_FAULT
    (Nat.min ((d.log 0x23 (c.locOf (.region r))).get F.SCHED_CNT_SCHED_FAULT r.val + 1) (2 ^ F.SCHED_CNT_SCHED_FAULT.w - 1))
    r.val 0 (by decide)
  have hall := (d.log_fallout 0x23 (c.locOf (.region r)) none).trans hbump
  refine ⟨fun hlt => ?_, (hbump.logged (by decide)).of_next hnext, ?_, hall.items.trans hitems, ?_, hnote.trans hall.core⟩
  · rw [Chip.bump_sched, Chip.log_sched, hsched]
    simp [List.getD, hlt]
  · refine Chip.Counted.of_start c (b := d.log 0x23 (c.locOf (.region r))) ?_ ?_
    · exact Chip.bump_counted _ _ (decide_eq_true ⟨r.isLt, Nat.one_pos⟩) (by decide)
    · rw [Chip.log_get _ _ _ _ _ _ _ (by decide), hget]
  · rw [Chip.bump_mem, Chip.log_mem, hmem]

/-! ## The pace fault -/

/-- The block that a pace fault names: the slowest governed one (R44). -/
def Chip.paceLoc (c : Chip) : Loc :=
  let blk := c.get F.GOV_STATUS_PMIN_BLK
  ⟨blk / 9, blk % 9, 31, (c.logBlock (blk / 9) (blk % 9)).getD 15, 31, 0⟩

/-- Twice the median pace of the governed blocks. -/
def Chip.paceMedian2 (c : Chip) : Nat := median2 (c.governed.map (fun e => c.get F.PACE_BLK_CUR e.1 e.2))

theorem Chip.paceFault_none (h : c.fabric.belowAtMax = false) : c.paceFault = c := by
  unfold Chip.paceFault
  rw [h]
  rfl

theorem Chip.paceFault_logs (h : c.fabric.belowAtMax = true) (hp : 19 * c.paceMedian2 ≤ 40 * c.get F.GOV_STATUS_PMIN) :
    c.paceFault = c.log 0x35 c.paceLoc := by
  unfold Chip.paceFault
  rw [h]
  exact if_neg (Nat.not_lt.2 hp)

theorem Chip.paceFault_fails (h : c.fabric.belowAtMax = true) (hp : 40 * c.get F.GOV_STATUS_PMIN < 19 * c.paceMedian2) :
    c.paceFault = (c.log 0x35 c.paceLoc).blockFail (c.get F.GOV_STATUS_PMIN_BLK / 9) (c.get F.GOV_STATUS_PMIN_BLK % 9) := by
  unfold Chip.paceFault
  rw [h]
  exact if_pos hp

/-! ## The obligation -/

theorem exec_scheduleFault_up (s : State) (r : Fin 4) (hup : s.chip.Up) :
    exec (.scheduleFault r) s = .next ⟨s.pending, (s.chip.scheduleFault r).settle⟩ := by
  simp only [exec_scheduleFault, Chip.serving_eq _ hup.1 hup.2]

theorem exec_scheduleFaultRegionFail_up (s : State) (r : Fin 4) (hup : s.chip.Up) :
    exec (.scheduleFaultRegionFail r) s = .next ⟨s.pending, (s.chip.scheduleFail r).settle⟩ := by
  simp only [exec_scheduleFaultRegionFail, Chip.serving_eq _ hup.1 hup.2]

theorem exec_blockSilent_up (s : State) (r : Fin 4) (b : Fin 9) (hup : s.chip.Up) :
    exec (.blockSilent r b) s = .next ⟨s.pending, (s.chip.blockSilent r b).settle⟩ := by
  simp only [exec_blockSilent, Chip.serving_eq _ hup.1 hup.2]

theorem exec_paceBelowFloor_up (s : State) (hup : s.chip.Up) :
    exec .paceBelowFloor s = .next ⟨s.pending, s.chip.paceFault.settle⟩ := by
  simp only [exec_paceBelowFloor, Chip.serving_eq _ hup.1 hup.2]

/-- Settles O24: what a schedule fault notes, what the failure of a region and of a block leave, and which of the two a pace
fault is. -/
theorem scheduleAndPaceFaults : Obligations.ScheduleAndPaceFaults := by
  unfold Obligations.ScheduleAndPaceFaults
  intro s r hup late nothing
  have hlate : late ↔ s.chip.lagging r.val = true := (s.chip.lagging_iff r.val).symm
  clear_value late
  refine ⟨fun hl ht hf hlt => ?_, fun h => ?_, fun k hl hk hle hf => ?_, fun h => ?_, fun b hb => ⟨fun hs => ?_, fun hs => ?_⟩,
    fun h => ?_, fun h => ⟨fun hp => ?_, fun hp hblk => ?_⟩⟩
  · obtain ⟨hfirst, hlogged, hcounted, hitems, hmem, hcore⟩ := (s.chip.scheduleFault_faults (hlate.1 hl) ht hf).settle
    exact ⟨_, exec_scheduleFault_up s r hup, rfl, hfirst hlt, hlogged, hcounted, hitems, hmem, hcore⟩
  · rw [hlate] at h
    exact (exec_scheduleFault_up s r hup).trans (by rw [s.chip.scheduleFault_none h])
  · obtain ⟨hfailed, hended, hlogged, hdata, hcore⟩ := (s.chip.regionFail_fails r.isLt hf).settle
    rw [← s.chip.scheduleFail_fails (hlate.1 hl) hk hle] at hfailed hended hlogged hdata hcore
    exact ⟨_, exec_scheduleFaultRegionFail_up s r hup, rfl, hfailed, hended, hlogged, hdata, hcore⟩
  · rw [hlate] at h
    exact (exec_scheduleFaultRegionFail_up s r hup).trans (by rw [s.chip.scheduleFail_none h])
  · obtain ⟨hmarked, hlogged, _, hdata, hcore⟩ := (s.chip.log_blockFail r.isLt b.isLt 0x21 (s.chip.locOf (.block r b))).settle
    rw [← s.chip.blockSilent_fails hb hs] at hmarked hlogged hdata hcore
    exact ⟨_, exec_blockSilent_up s r b hup, rfl, hmarked, hlogged, hdata, hcore⟩
  · exact (exec_blockSilent_up s r b hup).trans (by rw [s.chip.blockSilent_unscheduled hs])
  · exact (exec_paceBelowFloor_up s hup).trans (by rw [s.chip.paceFault_none h])
  · rw [exec_paceBelowFloor_up s hup, s.chip.paceFault_logs h hp]
    rfl
  · obtain ⟨hmarked, hlogged, hrequest, hdata, _⟩ := (s.chip.log_blockFail (Nat.div_lt_of_lt_mul (k := 4) (n := 9) hblk)
      (Nat.mod_lt _ (by decide)) 0x35 s.chip.paceLoc).settle
    rw [← s.chip.paceFault_fails h hp] at hmarked hlogged hrequest hdata
    exact ⟨_, exec_paceBelowFloor_up s hup, rfl, hmarked, hlogged, hrequest, hdata⟩

end Sys2Proof.Machine
end

section
/-!
PROOFS. Cut-offs and drains: the end of an item at its cut-off, the report of DISABLED, a drain that passes its limit.
-/

namespace Sys2Proof.Machine

variable (c : Chip)

/-! ## Work that leaves what a command of the data path leaves -/

theorem Chip.Core.refl : c.Core c := ⟨rfl, rfl, rfl, rfl, rfl, rfl⟩

theorem Chip.Core.foldl {β : Type} {g : Chip → β → Chip} (hg : ∀ (c : Chip) x, c.Core (g c x)) (l : List β) (c : Chip) :
    c.Core (l.foldl g c) := by
  induction l generalizing c with
  | nil => exact Chip.Core.refl c
  | cons x l ih => exact (hg c x).trans (ih _)

theorem OnlyRegs.core {a b : Chip} (h : OnlyRegs a b) : a.Core b := h.admits.toCore

theorem Passes.core {a b : Chip} (h : Passes a b) : a.Core b := by
  rw [h.only]
  exact ⟨rfl, rfl, rfl, rfl, rfl, rfl⟩

theorem Chip.put_core (f : Fld) (v i j : Nat) : c.Core (c.put f v i j) := (c.put_admits f v i j).toCore

theorem Chip.updSched_core (f : Sched → Sched) : c.Core (c.updSched f) := ⟨rfl, rfl, rfl, rfl, rfl, rfl⟩

/-! ## Cut-off -/

theorem exec_itemCutoff_up (s : State) (n : Nat) (hup : s.chip.Up) :
    exec (.itemCutoff n) s = .next ⟨s.pending, (s.chip.itemCutoff n).settle⟩ := by
  simp only [exec_itemCutoff, Chip.serving_eq _ hup.1 hup.2]

section
variable {c} {i : Item} (hlist : c.items.list = [i])
include hlist

/-- An item that is no live one in flight with a deadline has no cut-off. -/
theorem Chip.itemCutoff_none (h : i.live = false ∨ i.ended.isSome = true ∨ i.deadline = none) : c.itemCutoff i.num = c := by
  unfold Chip.itemCutoff
  rw [c.item_single hlist]
  dsimp only
  rcases h with h | h | h
  · rw [h]
    rfl
  · rw [Option.isNone_eq_false_iff.2 h, Bool.and_false]
  · rw [h]
    cases i.live && i.ended.isNone <;> rfl

theorem Chip.itemCutoff_early {d : Stamp} (hd : i.deadline = some d)
    (h : c.slotNo * 125000 + c.egressNs i.origin < Stamp.toNs d) : c.itemCutoff i.num = c := by
  unfold Chip.itemCutoff
  rw [c.item_single hlist]
  dsimp only
  rw [hd]
  cases i.live && i.ended.isNone with
  | false => rfl
  | true => exact if_pos h

theorem Chip.itemCutoff_due {d : Stamp} (hl : i.live = true) (he : i.ended = none) (hd : i.deadline = some d)
    (h : Stamp.toNs d ≤ c.slotNo * 125000 + c.egressNs i.origin) :
    c.itemCutoff i.num = (c.endSoon i.num ⟨2, []⟩).endDue i.num := by
  unfold Chip.itemCutoff
  rw [c.item_single hlist]
  dsimp only
  rw [hd, hl, he]
  exact if_neg (Nat.not_lt.2 h)

/-- The verdict that an item waits for (R548). -/
theorem Chip.endSoon_list (he : i.ended = none) (hn : i.endNext = none) (v : Verdict) :
    (c.endSoon i.num v).items.list = [{ i with endNext := some v }] := by
  refine (c.modItem_single hlist _).trans ?_
  rw [if_neg]
  simp [he, hn]

end

/-- An item that waits for its end while one of its steps runs. -/
theorem Chip.endDue_runs {n : Nat} (h : c.itemRuns n = true) : c.endDue n = c := by
  unfold Chip.endDue
  split
  · rfl
  · split
    · rfl
    · rw [if_pos h]

theorem Chip.endDue_ends {n : Nat} {i : Item} {v : Verdict} (hi : c.item n = some i) (hv : i.endNext = some v) (hw : i.cutWhy = [])
    (h : c.itemRuns n = false) : c.endDue n = c.endItem n v := by
  unfold Chip.endDue
  rw [hi]
  dsimp only
  rw [hv]
  dsimp only
  rw [h, if_neg Bool.false_ne_true, if_pos hw]

/-! ## The end of a drain: what each function gives back -/

theorem exec_drainComplete_up (s : State) (t : Target) (hup : s.chip.Up) :
    exec (.drainComplete t) s = .next ⟨s.pending, (s.chip.drainComplete t).settle⟩ := by
  simp only [exec_drainComplete, Chip.serving_eq _ hup.1 hup.2]

theorem Chip.drainComplete_not {t : Target} (h : c.drained t = false) : c.drainComplete t = c := by
  unfold Chip.drainComplete
  rw [h]
  rfl

/-- The drain of a function is over. -/
def Chip.endDrain (c : Chip) (k : Nat) : Chip := c.updSched (fun s => { s with
  drain := smSet none s.drain k none, enableAfter := smSet false s.enableAfter k false })

theorem Chip.drainComplete_off {t : Target} (h : c.drained t = true) (ha : smGet false c.sched.enableAfter (targetNo t) = false) :
    c.drainComplete t = (c.switchOff t).endDrain (targetNo t) := by
  unfold Chip.drainComplete
  rw [h]
  dsimp only
  rw [ha]
  rfl

theorem Chip.drainComplete_again {t : Target} (h : c.drained t = true) (ha : smGet false c.sched.enableAfter (targetNo t) = true) :
    c.drainComplete t = ((c.switchOff t).endDrain (targetNo t)).enable t := by
  unfold Chip.drainComplete
  rw [h]
  dsimp only
  rw [ha]
  rfl

theorem Chip.endDrain_over (k : Nat) : smGet none (c.endDrain k).sched.drain k = none  :=
  smGet_smSet_self c.sched.drain k none

/-! ### Streams and submissions -/

/-- What the report of a stream leaves (Table 4-6). -/
structure Chip.StreamIsOff (c : Chip) (n : Nat) : Prop where
  state : c.get F.SNS_STATE_STATE n = 0
  mclk : (c.stream n).mclk = false
  leds : (c.stream n).leds = [false, false, false]
  sp : (c.stream n).sp = false

theorem Chip.streamOff_state {n : Nat} (hn : n < 16) : (c.streamOff n).get F.SNS_STATE_STATE n = 0 := by
  unfold Chip.streamOff
  rw [Chip.modStream_get, Chip.get_putB_field _ F.SNS_STATE_AFE_FAULT F.SNS_STATE_STATE _ _ _ rfl (by decide) (.inr (by decide)),
    Chip.get_putB_field _ F.SNS_STATE_SYNC F.SNS_STATE_STATE _ _ _ rfl (by decide) (.inr (by decide)),
    Chip.get_put_self _ _ _ _ _ (snsState_has hn) (by decide)]
  rfl

theorem Chip.streamOff_off {n : Nat} (hn : n < 16) : (c.streamOff n).StreamIsOff n := by
  have hs : (c.streamOff n).stream n = { (c.stream n).restart with mclk := false } := Chip.stream_modStream_self _ n _
  exact ⟨c.streamOff_state hn, by rw [hs], by rw [hs]; rfl, by rw [hs]; rfl⟩

theorem Chip.streamOff_core (n : Nat) : c.Core (c.streamOff n) := by
  unfold Chip.streamOff
  exact ((c.put_core _ _ _ _).trans ((Chip.put_core _ _ _ _ _).trans (Chip.put_core _ _ _ _ _))).trans
    (Chip.modStream_admits _ n _).toCore

theorem subCfg_has {n : Nat} (hn : n < 32) : Reg.has .SUB_CFG n 0 = true := decide_eq_true ⟨hn, Nat.one_pos⟩

/-- A submission that is DISABLED and enabled again waits for the clock, or is ENABLED (R170). -/
theorem Chip.enableSub_state {n : Nat} (hn : n < 32) (h : c.get F.SUB_CFG_STATE n = 0) :
    (c.enableSub n).get F.SUB_CFG_STATE n = if c.flag F.SUB_CFG_LIVE n = true ∧ c.locked = false then 2 else 3 := by
  have heq : c.enableSub n = (c.put F.SUB_CFG_STATE (if c.flag F.SUB_CFG_LIVE n ∧ ¬ c.locked then 2 else 3) n).grant n := by
    unfold Chip.enableSub
    rw [h]
    rfl
  rw [heq, (Chip.grant_calm _ n).get_apart (by decide), Chip.get_put_self _ _ _ _ _ (subCfg_has hn) (by decide)]
  simp only [Bool.not_eq_true]
  split <;> rfl

/-! ### Result sessions -/

theorem Chip.push_core (x : Nat) (f : TxFrame) : c.Core (c.push x f) ∧ (c.push x f).sessions = c.sessions := by
  unfold Chip.push
  split
  · exact ⟨Chip.Core.refl c, rfl⟩
  · exact ⟨⟨rfl, rfl, rfl, rfl, rfl, rfl⟩, rfl⟩

theorem Chip.pushTo_core (x : Nat) (f : TxFrame) : c.Core (c.pushTo x f) ∧ (c.pushTo x f).sessions = c.sessions := by
  unfold Chip.pushTo
  dsimp only
  split
  · exact c.push_core x f
  · have h := c.push_core x (ctlFrame (if (c.nextHop x f.dst).v6 then .nd else .arp) (c.nextHop x f.dst) [])
    have k := Chip.push_core (c.push x (ctlFrame (if (c.nextHop x f.dst).v6 then .nd else .arp) (c.nextHop x f.dst) [])) x f
    exact ⟨h.1.trans k.1, k.2.trans h.2⟩

theorem Chip.sess_modSess_self (s : Nat) (f : Session → Session) : (c.modSess s f).sess s = f (c.sess s) := smGet_smMod_self _ _ _

theorem Chip.modSess_core (s : Nat) (f : Session → Session) : c.Core (c.modSess s f) := ⟨rfl, rfl, rfl, rfl, rfl, rfl⟩

/-- A control datagram leaves its session open or closed. -/
theorem Chip.sendCtl_core (s type : Nat) (recs : List Byte) :
    c.Core (c.sendCtl s type recs) ∧ ((c.sendCtl s type recs).sess s).open_ = (c.sess s).open_ := by
  unfold Chip.sendCtl
  dsimp only
  have h := Chip.pushTo_core (c.modSess s (fun x => { x with ackDue := false })) (c.sess s).port
    ⟨4, .jrt s false none, (c.sess s).addr, (c.sess s).udp,
      dgBytes type 0 s (c.sess s).gen (c.sess s).lane0.next (c.sess s).expect (c.sess s).grant 0xFFFF recs, none⟩
  refine ⟨(c.modSess_core s _).trans h.1, ?_⟩
  refine (congrArg (fun m => (smGet Session.cold m s).open_) h.2).trans ?_
  exact (congrArg Session.open_ (c.sess_modSess_self s (fun x => { x with ackDue := false })) :)

theorem Chip.creditReturn_core (n : Nat) : c.Core (c.creditReturn n) := by
  cases hi : c.item n with
  | none =>
    unfold Chip.creditReturn
    rw [hi]
    exact Chip.Core.refl c
  | some i => exact (c.creditReturn_returned hi).toCore

theorem Chip.sessionDone_core (s n : Nat) : c.Core (c.sessionDone s n) := by
  unfold Chip.sessionDone
  split
  · exact Chip.Core.refl c
  · dsimp only
    split
    · exact (c.modItem_core n _).trans (Chip.creditReturn_core _ n)
    · exact c.modItem_core n _

theorem Chip.abandon_core (s : Nat) : c.Core (c.abandon s) := by
  unfold Chip.abandon
  refine Chip.Core.trans (b := { c with formed := c.formed.filter (fun f => f.sess ≠ s) }) ⟨rfl, rfl, rfl, rfl, rfl, rfl⟩ ?_
  refine Chip.Core.foldl (fun c i => ?_) _ _
  exact ((c.put_core _ _ _ _).trans (Chip.modItem_core _ _ _)).trans (Chip.sessionDone_core _ s i.num)

theorem Chip.setWord_onlyRegs (r : Reg) (i j v : Nat) : OnlyRegs c (c.setWord r i j v) := ⟨_, _, rfl⟩

theorem Chip.showBinding_onlyRegs (s : Nat) : OnlyRegs c (c.showBinding s) := by
  unfold Chip.showBinding
  extract_lets x port
  generalize (if s < 64 then ((.RSB_ADDR, .RSB_PORT, .RSB_ALT, .RSB_OPEN, s) : Reg × Reg × Reg × Reg × Nat)
    else (.SSB_ADDR, .SSB_PORT, .SSB_ALT, .SSB_OPEN, s - 64)) = regs
  obtain ⟨rA, rP, rL, rO, k⟩ := regs
  dsimp -zeta only
  extract_lets c1 c2 c3
  have h1 : OnlyRegs c c1 := foldl_onlyRegs (fun c i => (c.setWord_onlyRegs _ _ _ _).trans (Chip.setWord_onlyRegs _ _ _ _ _)) _ c
  have h2 : OnlyRegs c c2 := h1.trans (c1.setWord_onlyRegs _ _ _ _)
  have h3 : OnlyRegs c c3 := by
    unfold c3
    split
    · exact h2
    · exact h2.trans (c2.setWord_onlyRegs _ _ _ _)
  clear_value c3
  split
  · exact (h3.trans (c3.put_onlyRegs _ _ _ _)).trans (Chip.put_onlyRegs _ _ _ _ _)
  · exact h3

theorem Chip.showMand_onlyRegs : OnlyRegs c c.showMand := by
  unfold Chip.showMand foldN
  refine foldl_onlyRegs (fun c k => ?_) _ c
  split
  · exact c.put_onlyRegs _ _ _ _
  · exact OnlyRegs.refl c

theorem Chip.showMand_word {r : Reg} (i j : Nat) (h : Reg.apart .CLASS_CFG r = true) : c.showMand.word r i j = c.word r i j := by
  suffices hs : ∀ (l : List Nat) (c : Chip), (l.foldl (fun c k => if c.flag F.CLASS_CFG_VALID k then
      c.put F.CLASS_CFG_MAND_NOW (Nat.min 63 (c.mandCount k)) k else c) c).word r i j = c.word r i j from hs _ c
  intro l
  induction l with
  | nil => exact fun _ => rfl
  | cons k l ih =>
    intro c
    rw [List.foldl_cons, ih]
    split
    · exact c.word_put_apart F.CLASS_CFG_MAND_NOW _ _ _ _ _ h
    · rfl

theorem OnlyRegs.sess {a b : Chip} (h : OnlyRegs a b) (s : Nat) : b.sess s = a.sess s := by
  obtain ⟨r, f, rfl⟩ := h
  rfl

theorem sessStat_has {n : Nat} (hn : n < 64) : Reg.has .SESS_STAT n 0 = true := decide_eq_true ⟨hn, Nat.one_pos⟩

/-- The registers of a result session's number are cleared (R522). -/
def Chip.clearSess (c : Chip) (s : Nat) : Chip :=
  [Reg.SESS_STAT, .SESS_MAND, .SESS_OPT, .SESS_SPOOL, .SESS_CNT0, .SESS_CNT1].foldl (fun c r => c.setWord r s 0 0) c

theorem Chip.clearSess_onlyRegs (s : Nat) : OnlyRegs c (c.clearSess s) :=
  foldl_onlyRegs (fun c r => c.setWord_onlyRegs r s 0 0) _ c

theorem Chip.clearSess_word {s : Nat} (hs : s < 64) : (c.clearSess s).word .SESS_STAT s = 0 := by
  unfold Chip.clearSess
  simp only [List.foldl_cons, List.foldl_nil]
  have hne : ∀ r ∈ [Reg.SESS_MAND, .SESS_OPT, .SESS_SPOOL, .SESS_CNT0, .SESS_CNT1], Reg.addr .SESS_STAT s 0 ≠ r.addr s 0 := by
    simp [Reg.addr, Reg.info]
  rw [Chip.word_setWord_ne _ _ (hne .SESS_CNT1 (by decide)), Chip.word_setWord_ne _ _ (hne .SESS_CNT0 (by decide)),
    Chip.word_setWord_ne _ _ (hne .SESS_SPOOL (by decide)), Chip.word_setWord_ne _ _ (hne .SESS_OPT (by decide)),
    Chip.word_setWord_ne _ _ (hne .SESS_MAND (by decide)), Chip.word_setWord_self _ _ _ _ _ (sessStat_has hs)]
  rfl

/-- What the close of a result session leaves. -/
structure Chip.Closes (c t : Chip) (s : Nat) : Prop extends c.Core t where
  closed : (t.sess s).open_ = false
  state : (c.sess s).open_ = true → t.get F.SESS_STAT_STATE s = 0

theorem Chip.closeSess_closes {s : Nat} (hs : s < 64) : c.Closes (c.closeSess s) s := by
  unfold Chip.closeSess
  extract_lets x c1 cold c2 c3 c4
  have h1 : c.Core c1 := by
    unfold c1
    rw [if_pos hs]
    exact c.abandon_core s
  have hb := c2.showBinding_onlyRegs s
  have h2 : (c2.sess s).open_ = false := congrArg Session.open_ (c1.sess_modSess_self s _)
  have h3 : OnlyRegs c2 c4 := hb.trans (c3.clearSess_onlyRegs s)
  have hw : c4.word .SESS_STAT s = 0 := c3.clearSess_word hs
  clear_value c1 c4
  split
  · next h =>
    have ho : (c.sess s).open_ = false := by simpa using h
    exact ⟨Chip.Core.refl c, ho, fun hopen => absurd (hopen.symm.trans ho) Bool.true_eq_false_eq_False⟩
  · have hlast : OnlyRegs c2 (c4.showMand.showFree) := (h3.trans c4.showMand_onlyRegs).trans (Chip.put_onlyRegs _ _ _ _ _)
    refine ⟨(h1.trans (c1.modSess_core s _)).trans hlast.core, ?_, fun _ => ?_⟩
    · rw [hlast.sess]
      exact h2
    · refine (Chip.get_put_apart _ _ _ _ _ _ _ _ (by decide)).trans ?_
      unfold Chip.get
      rw [Chip.showMand_word _ _ _ (by decide)]
      exact congrArg (fun w => bitsOf w _ _) hw

/-! ### Partitions -/

/-- From `a` to `b` handles and slots of blocks have been given back, and units step on from a later slot. -/
def OnlyFreed (a b : Chip) : Prop := b = { a with mem := b.mem, sched := { a.sched with served := b.sched.served } }

theorem OnlyFreed.refl (a : Chip) : OnlyFreed a a := rfl

theorem OnlyFreed.trans {a b c : Chip} (h : OnlyFreed a b) (k : OnlyFreed b c) : OnlyFreed a c := by
  unfold OnlyFreed at h k ⊢
  exact k.trans (by rw [h])

theorem OnlyFreed.foldl {β : Type} {g : Chip → β → Chip} (hg : ∀ c x, OnlyFreed c (g c x)) (l : List β) (c : Chip) :
    OnlyFreed c (l.foldl g c) := by
  induction l generalizing c with
  | nil => exact OnlyFreed.refl c
  | cons x l ih => exact (hg c x).trans (ih _)

theorem Chip.updMem_onlyFreed (f : Mem → Mem) : OnlyFreed c (c.updMem f) := rfl

theorem Chip.setHndValid_onlyFreed (k : Nat) (v : Bool) : OnlyFreed c (c.setHndValid k v) := c.updMem_onlyFreed _

theorem Chip.freeSite_onlyFreed (r b site : Nat) : OnlyFreed c (c.freeSite r b site) := c.updMem_onlyFreed _

theorem Chip.setHndsInvalid_onlyFreed (l : List Nat) : OnlyFreed c (l.foldl (fun c k => c.setHndValid k false) c) :=
  OnlyFreed.foldl (fun c k => c.setHndValid_onlyFreed k false) l c

theorem Chip.freeBlock_onlyFreed (u : Nat) : OnlyFreed c (c.freeBlock u) :=
  OnlyFreed.foldl (fun c _ => c.freeSite_onlyFreed _ _ _) _ c

theorem Chip.freeBlocks_onlyFreed (l : List Nat) : OnlyFreed c (l.foldl Chip.freeBlock c) :=
  OnlyFreed.foldl (fun c u => c.freeBlock_onlyFreed u) l c

theorem Chip.serveFrom_onlyFreed (u k : Nat) : OnlyFreed c (c.serveFrom u k) := rfl

theorem Chip.giveBack_onlyFreed (b u : Nat) : OnlyFreed c (c.giveBack b u) :=
  ((c.setHndsInvalid_onlyFreed _).trans (Chip.freeBlock_onlyFreed _ u)).trans (Chip.serveFrom_onlyFreed _ _ _)

theorem Chip.unlend_onlyFreed (p : Nat) : OnlyFreed (c.setLent p false) (c.unlend p) :=
  OnlyFreed.foldl (fun c u => c.giveBack_onlyFreed _ u) _ _

/-- A field of PART_CFG other than LENT. -/
def Fld.offLent (f : Fld) : Bool := decide (f.reg = .PART_CFG ∧ (f.lo + f.w ≤ 26 ∨ 27 ≤ f.lo))

theorem Chip.putB_lent_get {f : Fld} (hf : f.offLent = true) (v : Bool) (p i : Nat) :
    (c.putB F.PART_CFG_LENT v p).get f i = c.get f i := by
  obtain ⟨hreg, hd⟩ := of_decide_eq_true hf
  by_cases h : i = p
  · rw [h]
    exact c.get_putB_field _ _ _ _ _ hreg (by decide) hd
  · refine c.get_putB_ne _ _ _ _ _ _ _ ?_
    rw [hreg]
    simp only [Reg.addr, Reg.info, F.PART_CFG_LENT]
    omega

/-- Blocks have come back: of the schedule only the units' next slots change, of PART_CFG only which partitions are lent. -/
structure Unlends (a b : Chip) : Prop extends a.Core b where
  sched : b.sched = { a.sched with served := b.sched.served }
  get : ∀ f i, Fld.offLent f = true → b.get f i = a.get f i

theorem Unlends.trans {a b c : Chip} (h : Unlends a b) (k : Unlends b c) : Unlends a c where
  toCore := h.toCore.trans k.toCore
  sched := k.sched.trans (by rw [h.sched])
  get := fun f i hf => (k.get f i hf).trans (h.get f i hf)

theorem Unlends.refl (a : Chip) : Unlends a a := ⟨Chip.Core.refl a, rfl, fun _ _ _ => rfl⟩

theorem Unlends.foldl {β : Type} {g : Chip → β → Chip} (hg : ∀ c x, Unlends c (g c x)) (l : List β) (c : Chip) :
    Unlends c (l.foldl g c) := by
  induction l generalizing c with
  | nil => exact Unlends.refl c
  | cons x l ih => exact (hg c x).trans (ih _)

theorem OnlyFreed.unlends {a b : Chip} (h : OnlyFreed a b) : Unlends a b := by
  unfold OnlyFreed at h
  rw [h]
  exact ⟨⟨rfl, rfl, rfl, rfl, rfl, rfl⟩, rfl, fun _ _ _ => rfl⟩

theorem Chip.putB_lent_unlends (v : Bool) (p : Nat) : Unlends c (c.putB F.PART_CFG_LENT v p) :=
  ⟨c.put_core _ _ _ _, rfl, fun _ _ hf => c.putB_lent_get hf v p _⟩

theorem Chip.setLent_unlends (p : Nat) (on : Bool) : Unlends c (c.setLent p on) :=
  (c.putB_lent_unlends on p).trans (Chip.putB_lent_unlends _ _ _)

theorem Chip.unlend_unlends (p : Nat) : Unlends c (c.unlend p) := (c.setLent_unlends p false).trans (c.unlend_onlyFreed p).unlends

theorem partCfg_has {p : Nat} (hp : p < 16) : Reg.has .PART_CFG p 0 = true := decide_eq_true ⟨hp, Nat.one_pos⟩

/-- A partition is DISABLED: no spilled work is kept for it. -/
def Chip.clearPart (c : Chip) (p : Nat) : Chip := (c.put F.PART_CFG_STATE 0 p).updSched (fun s => { s with
  spillSet := smSet [] s.spillSet p [], drainOver := smSet false s.drainOver p false })

/-- The blocks that a DISABLED partition no longer holds come back (R376). -/
theorem Chip.switchOff_partition (p : Fin 16) : Unlends (c.clearPart p.val) (c.switchOff (.partition p)) := by
  unfold Chip.switchOff
  dsimp -zeta only
  extract_lets c1 c2 c3
  have h2 : Unlends (c.clearPart p.val) c2 := Unlends.refl _
  have h3 : Unlends (c.clearPart p.val) c3 := by
    unfold c3
    split
    · exact h2
    · exact h2.trans (c2.freeBlocks_onlyFreed _).unlends
  clear_value c3
  split
  · refine h3.trans (Unlends.foldl (fun c q => ?_) _ _)
    split
    · exact c.unlend_unlends q
    · exact Unlends.refl c
  · exact h3

/-! ### Adaptation -/

theorem adaptCtrl_has : Reg.has .ADAPT_CTRL 0 0 = true := decide_eq_true ⟨Nat.one_pos, Nat.one_pos⟩

theorem Chip.trainRelease_noEnd (k : Fin 8) : NoEnd c (c.trainRelease k) := by
  unfold Chip.trainRelease Chip.kvTableEdit Chip.kvRun
  split
  · exact (c.updKv_noEnd _).trans (kvDrain_noEnd _ _)
  · exact NoEnd.refl c

theorem Chip.updAdapt_core (f : Adapt → Adapt) : c.Core (c.updAdapt f) := ⟨rfl, rfl, rfl, rfl, rfl, rfl⟩

/-- What the release of adaptation leaves (R337). -/
structure Chip.AdaptFreed (c t : Chip) : Prop extends c.Core t where
  state : t.get F.ADAPT_CTRL_STATE = c.get F.ADAPT_CTRL_STATE
  samples : t.adapt.samples = []

theorem Chip.adaptRelease_freed : c.AdaptFreed c.adaptRelease := by
  unfold Chip.adaptRelease
  extract_lets d
  have hd : NoEnd c d := NoEnd.foldl (fun c k => c.trainRelease_noEnd k) _ c
  clear_value d
  refine ⟨hd.toCore.trans ((Chip.updAdapt_core d _).trans (Chip.showAdapt_onlyRegs _).core), ?_, ?_⟩
  · rw [Chip.showAdapt_get _ (by decide) (by decide)]
    exact Chip.get_of_word _ (hd.word _ 0 0 (by decide))
  · rw [Chip.showAdapt_adapt]
    rfl

/-! ### DISABLED is reported -/

/-- What a function that has become DISABLED shows. -/
def Chip.IsOff (c t : Chip) : Target → Prop
  | .stream n => t.StreamIsOff n.val
  | .submit n => t.get F.SUB_CFG_STATE n.val = 0
  | .result n => (t.sess n.val).open_ = false ∧ ((c.sess n.val).open_ = true → t.get F.SESS_STAT_STATE n.val = 0)
  | .partition n => t.get F.PART_CFG_STATE n.val = 0 ∧ smGet [] t.sched.spillSet n.val = []
  | .adaptation => t.get F.ADAPT_CTRL_STATE = 0 ∧ t.adapt.samples = []

theorem Chip.switchOff_isOff (x : Target) : c.Core (c.switchOff x) ∧ c.IsOff (c.switchOff x) x := by
  cases x with
  | stream n => exact ⟨c.streamOff_core n.val, c.streamOff_off n.isLt⟩
  | submit n =>
    exact ⟨c.put_core _ _ _ _, Chip.get_put_self _ _ _ _ _ (subCfg_has n.isLt) (by decide)⟩
  | result n =>
    have hs := c.sendCtl_core n.val 4 []
    have hc := (c.sendCtl n.val 4 []).closeSess_closes n.isLt
    exact ⟨hs.1.trans hc.toCore, hc.closed, fun h => hc.state (hs.2.trans h)⟩
  | partition n =>
    have h := c.switchOff_partition n
    have hstate : (c.clearPart n.val).get F.PART_CFG_STATE n.val = 0 :=
      Chip.get_put_self _ _ _ _ _ (partCfg_has n.isLt) (by decide)
    have hspill : smGet [] (c.clearPart n.val).sched.spillSet n.val = [] := smGet_smSet_self c.sched.spillSet n.val []
    refine ⟨((c.put_core _ _ _ _).trans (Chip.updSched_core _ _)).trans h.toCore, (h.get _ _ (by decide)).trans hstate, ?_⟩
    rw [h.sched]
    exact hspill
  | adaptation =>
    have h := (c.put F.ADAPT_CTRL_STATE 0).adaptRelease_freed
    exact ⟨(c.put_core _ _ _ _).trans h.toCore,
      h.state.trans (Chip.get_put_self _ _ _ _ _ adaptCtrl_has (by decide)), h.samples⟩

variable {c} in
/-- The end of the drain and settling show it still. -/
theorem Chip.IsOff.settle {t : Chip} {x : Target} (h : c.IsOff t x) (k : Nat) : c.IsOff (t.endDrain k).settle x := by
  have hget : ∀ (f : Fld) i, Reg.apart .HOLD_STAT f.reg = true → (t.endDrain k).settle.get f i = t.get f i :=
    fun f i hf => (t.endDrain k).settle_calm.get_apart hf
  cases x with
  | stream n =>
    have hs : (t.endDrain k).settle.stream n.val = t.stream n.val := Chip.settle_stream _ _
    exact ⟨(hget _ _ (by decide)).trans h.state, hs ▸ h.mclk, hs ▸ h.leds, hs ▸ h.sp⟩
  | submit n => exact (hget _ _ (by decide)).trans h
  | result n => exact ⟨((t.endDrain k).settle_calm.sess n.val).symm ▸ h.1, fun ho => (hget _ _ (by decide)).trans (h.2 ho)⟩
  | partition n => exact ⟨(hget _ _ (by decide)).trans h.1, (t.endDrain k).settle_sched.symm ▸ h.2⟩
  | adaptation => exact ⟨(hget _ _ (by decide)).trans h.1, (t.endDrain k).settle_adapt.symm ▸ h.2⟩

/-- A submission that is enabled again as its drain ends. -/
theorem Chip.drainComplete_submit {n : Fin 32} (h : c.drained (.submit n) = true)
    (ha : smGet false c.sched.enableAfter (16 + n.val) = true) : (c.drainComplete (.submit n)).get F.SUB_CFG_STATE n.val =
      if c.flag F.SUB_CFG_LIVE n.val = true ∧ c.locked = false then 2 else 3 := by
  have hoff : ((c.switchOff (.submit n)).endDrain (16 + n.val)).get F.SUB_CFG_STATE n.val = 0 := (c.switchOff_isOff (.submit n)).2
  have hlive : ((c.switchOff (.submit n)).endDrain (16 + n.val)).flag F.SUB_CFG_LIVE n.val = c.flag F.SUB_CFG_LIVE n.val :=
    Chip.flag_congr (Chip.get_put_field _ _ _ _ _ _ rfl (by decide) (.inl (by decide)))
  have hlocked : ((c.switchOff (.submit n)).endDrain (16 + n.val)).locked = c.locked :=
    Chip.flag_congr (c.get_put_apart _ _ _ _ _ _ _ (by decide))
  rw [c.drainComplete_again h ha]
  refine (Chip.enableSub_state _ n.isLt hoff).trans ?_
  rw [hlive, hlocked]

/-! ## A drain that passes its limit -/

theorem exec_drainTimeout_up (s : State) (p : Fin 16) (hup : s.chip.Up) :
    exec (.drainTimeout p) s = .next ⟨s.pending, (s.chip.drainTimeout p.val).settle⟩ := by
  simp only [exec_drainTimeout, Chip.serving_eq _ hup.1 hup.2]

/-- An item of a partition whose drain has passed its limit waits for its end (R377). -/
def Item.timeOut (i : Item) : Item := { i with endNext := some ⟨4, txt "drain-timeout"⟩ }

theorem Chip.drainTimeout_not {p : Nat} (h : c.draining (112 + p) = false) : c.drainTimeout p = c := by
  unfold Chip.drainTimeout
  rw [h]
  rfl

/-- The drain of a partition has passed its limit. -/
def Chip.noteOver (c : Chip) (p : Nat) : Chip := c.updSched (fun s => { s with drainOver := smSet false s.drainOver p true })

theorem Chip.drainTimeout_due {p : Nat} (h : c.draining (112 + p) = true) : c.drainTimeout p =
    (((c.inFlight.filter (fun i => i.part = p)).map (·.num)).foldl (fun c n => c.modItem n Item.timeOut) (c.noteOver p)) := by
  unfold Chip.drainTimeout
  rw [h, List.foldl_map]
  rfl

/-- An update of some items that leaves their numbers, each item once or more often. -/
theorem Chip.foldl_modItem_list {f : Item → Item} (hn : ∀ i, (f i).num = i.num) (hf : ∀ i, f (f i) = f i) (l : List Nat) :
    (l.foldl (fun c n => c.modItem n f) c).items.list = c.items.list.map (fun i => if i.num ∈ l then f i else i) := by
  induction l generalizing c with
  | nil => simp
  | cons n l ih =>
    rw [List.foldl_cons, ih]
    refine (List.map_map (l := c.items.list)).trans (List.map_congr_left (fun i _ => ?_))
    rw [Function.comp_apply]
    by_cases h : i.num = n
    · rw [if_pos h, hn, if_pos (List.mem_cons.2 (.inl h)), hf]
      exact ite_self _
    · rw [if_neg h]
      exact (if_congr (by rw [List.mem_cons, or_iff_right h]) rfl rfl).symm

/-- In a list of items with numbers of their own, an item's number tells it. -/
theorem num_mem_filter {l : List Item} (hnd : (l.map (·.num)).Nodup) (q : Item → Bool) {i : Item} (hi : i ∈ l) :
    i.num ∈ (l.filter q).map (·.num) ↔ q i = true := by
  constructor
  · intro h
    obtain ⟨j, hj, hnum⟩ := List.mem_map.1 h
    obtain ⟨hjl, hq⟩ := List.mem_filter.1 hj
    rwa [← List.inj_on_of_nodup_map hnd hjl hi hnum]
  · exact fun h => List.mem_map_of_mem (List.mem_filter.2 ⟨hi, h⟩)

theorem Chip.drainTimeout_list {p : Nat} (h : c.draining (112 + p) = true) (hnd : (c.items.list.map (·.num)).Nodup) :
    (c.drainTimeout p).items.list = c.items.list.map (fun i => if i.ended = none ∧ i.part = p then i.timeOut else i) := by
  rw [c.drainTimeout_due h, Chip.foldl_modItem_list (f := Item.timeOut) _ (fun _ => rfl) (fun _ => rfl)]
  refine List.map_congr_left (fun i hi => ?_)
  have hmem : i.num ∈ (c.inFlight.filter (fun i => i.part = p)).map (·.num) ↔ i.ended = none ∧ i.part = p := by
    unfold Chip.inFlight
    rw [List.filter_filter, num_mem_filter hnd _ hi]
    simp [and_comm]
  exact if_congr hmem rfl rfl

/-- What a drain that passes its limit leaves, beside the items. -/
theorem Chip.drainTimeout_rest {p : Nat} (h : c.draining (112 + p) = true) :
    smGet false (c.drainTimeout p).sched.drainOver p = true ∧ (c.drainTimeout p).mem = c.mem ∧ c.Core (c.drainTimeout p) := by
  rw [c.drainTimeout_due h]
  obtain ⟨g, hg⟩ := Chip.foldl_modItem Item.timeOut ((c.inFlight.filter (fun i => i.part = p)).map (·.num)) (c.noteOver p)
  rw [hg]
  exact ⟨smGet_smSet_self c.sched.drainOver p true, rfl, ⟨rfl, rfl, rfl, rfl, rfl, rfl⟩⟩

/-! ## The obligation -/

/-- Settles O42: the verdict of a cut-off, what each function gives back when its drain is complete, and the items that a drain
past its limit cancels. -/
theorem cutoffsAndDrains : Obligations.CutoffsAndDrains := by
  unfold Obligations.CutoffsAndDrains
  intro s hup c
  refine ⟨fun i hlist => ⟨fun h => ?_, fun d hd h => ?_, fun d hl he hd h hn hw => ⟨fun hr => ?_, fun hr => ?_⟩⟩, fun x hx => ?_,
    fun x hx ha => ?_, fun n hx ha => ?_, fun p h => ?_, fun p h hnd => ?_⟩
  · rw [exec_itemCutoff_up s i.num hup, Chip.itemCutoff_none hlist h]
  · rw [exec_itemCutoff_up s i.num hup, Chip.itemCutoff_early hlist hd h]
  · have hsoon := Chip.endSoon_list hlist he hn ⟨2, []⟩
    have hends := (c.endSoon i.num ⟨2, []⟩).endDue_ends ((c.endSoon i.num ⟨2, []⟩).item_single hsoon) rfl hw hr
    have hend := ((c.endSoon i.num ⟨2, []⟩).endItem_ended ((c.endSoon i.num ⟨2, []⟩).item_single hsoon) he ⟨2, []⟩).settle
    refine ⟨_, exec_itemCutoff_up s i.num hup, rfl, ?_⟩
    dsimp only
    rw [Chip.itemCutoff_due hlist hl he hd h, hends]
    exact ⟨fun j hj => (hend.all hsoon hj).2, hend.ends, (c.modItem_core _ _).trans hend.toCore⟩
  · refine ⟨_, exec_itemCutoff_up s i.num hup, rfl, ?_⟩
    dsimp only
    rw [Chip.itemCutoff_due hlist hl he hd h, (c.endSoon i.num ⟨2, []⟩).endDue_runs hr, Chip.settle_items, Chip.settle_mem]
    exact ⟨Chip.endSoon_list hlist he hn _, rfl, (c.modItem_core _ _).trans (Chip.settle_core _)⟩
  · rw [exec_drainComplete_up s x hup, c.drainComplete_not hx]
  · obtain ⟨hcore, hoff⟩ := c.switchOff_isOff x
    refine ⟨_, exec_drainComplete_up s x hup, rfl, ?_⟩
    dsimp only
    rw [c.drainComplete_off hx ha]
    refine ⟨(Chip.settle_sched _).symm ▸ Chip.endDrain_over _ _, ?_, (hcore.trans (Chip.updSched_core _ _)).trans (Chip.settle_core _)⟩
    have hset := hoff.settle (targetNo x)
    cases x with
    | stream n => exact ⟨hset.state, hset.mclk, hset.leds, hset.sp⟩
    | submit n | result n | partition n | adaptation => exact hset
  · refine ⟨_, exec_drainComplete_up s (.submit n) hup, rfl, ?_⟩
    exact ((Chip.settle_calm _).get_apart (by decide)).trans (c.drainComplete_submit hx ha)
  · rw [exec_drainTimeout_up s p hup, c.drainTimeout_not h]
  · obtain ⟨hover, hmem, hcore⟩ := c.drainTimeout_rest h
    refine ⟨_, exec_drainTimeout_up s p hup, rfl, ?_⟩
    dsimp only
    rw [Chip.settle_sched, Chip.settle_items, Chip.settle_mem]
    exact ⟨hover, c.drainTimeout_list h hnd, hmem, hcore.trans (Chip.settle_core _)⟩

end Sys2Proof.Machine
end

section
/-!
PROOFS. The end of a step: its outputs and counts, its roll-back, its loss, its re-execution after a first cell error.
-/

namespace Sys2Proof.Machine

variable (c : Chip)

/-! ## Outputs -/

/-- From `a` to `b` data have been written into memories or slots. -/
def OnlyData (a b : Chip) : Prop := b = { a with free := b.free, mem := b.mem }

theorem OnlyData.refl (a : Chip) : OnlyData a a := rfl

theorem OnlyData.trans {a b c : Chip} (h : OnlyData a b) (k : OnlyData b c) : OnlyData a c := by
  unfold OnlyData at h k ⊢
  exact k.trans (by rw [h])

theorem OnlyData.foldl {β : Type} {g : Chip → β → Chip} (hg : ∀ c x, OnlyData c (g c x)) (l : List β) (c : Chip) :
    OnlyData c (l.foldl g c) := by
  induction l generalizing c with
  | nil => exact OnlyData.refl c
  | cons x l ih => exact (hg c x).trans (ih _)

theorem Chip.writeGran_onlyData (x : Gran) (d : List Byte) : OnlyData c (c.writeGran x d) := by
  unfold Chip.writeGran
  dsimp only
  split <;> rfl

theorem Chip.writeHandle_onlyData (h : HRef) (d : List Byte) : OnlyData c (c.writeHandle h d) := by
  refine OnlyData.foldl (fun c e => ?_) _ c
  exact c.writeGran_onlyData _ _

theorem Chip.writeSlot_onlyData (x : SlotId) (o : Nat) (d : List Byte) : OnlyData c (c.writeSlot x o d) := by
  unfold Chip.writeSlot
  split
  · rfl
  · exact OnlyData.refl c

/-- Outputs that pass their handle check are written, and nothing else happens. -/
theorem Chip.writeOut_onlyData {who : Issuer} {run : StepRun} {d : Dest} {b : List Byte} (h : (c.writeOut who run d b).2 = true) :
    OnlyData c (c.writeOut who run d b).1 := by
  unfold Chip.writeOut at h ⊢
  cases d with
  | nowhere => exact OnlyData.refl c
  | slot x => exact c.writeSlot_onlyData _ _ _
  | handle r =>
    dsimp only at h ⊢
    split
    · next he =>
      rw [he] at h
      cases h
    · exact c.writeHandle_onlyData r b

/-! ### A write after an update of the schedule -/

theorem Chip.writeGran_updSched (g : Sched → Sched) (x : Gran) (d : List Byte) :
    (c.updSched g).writeGran x d = (c.writeGran x d).updSched g := by
  unfold Chip.writeGran
  dsimp only
  split <;> rfl

theorem Chip.writeHandle_updSched (g : Sched → Sched) (h : HRef) (d : List Byte) :
    (c.updSched g).writeHandle h d = (c.writeHandle h d).updSched g := by
  unfold Chip.writeHandle
  generalize (chunksOf 64 d.length d).zipIdx = l
  induction l generalizing c with
  | nil => rfl
  | cons e l ih =>
    rw [List.foldl_cons, List.foldl_cons, ← ih, ← Chip.writeGran_updSched]
    rfl

theorem Chip.writeSlot_updSched (g : Sched → Sched) (x : SlotId) (o : Nat) (d : List Byte) :
    (c.updSched g).writeSlot x o d = (c.writeSlot x o d).updSched g := by
  unfold Chip.writeSlot
  split <;> rfl

theorem Chip.writeOut_updSched (g : Sched → Sched) {who : Issuer} {run : StepRun} {d : Dest} {b : List Byte}
    (h : (c.writeOut who run d b).2 = true) :
    (c.updSched g).writeOut who run d b = ((c.writeOut who run d b).1.updSched g, true) := by
  unfold Chip.writeOut at h ⊢
  cases d with
  | nowhere => rfl
  | slot x => exact congrArg (·, true) (c.writeSlot_updSched g _ _ _)
  | handle r =>
    have hc : (c.updSched g).checkHandle who r true b.length = c.checkHandle who r true b.length := rfl
    dsimp only at h ⊢
    rw [hc]
    cases he : c.checkHandle who r true b.length with
    | none => exact congrArg (·, true) (c.writeHandle_updSched g r b)
    | some k =>
      rw [he] at h
      cases h

/-! ## Work whose outputs are written at once -/

/-- An update of the schedule that starts no step and takes no block. -/
def Sched.SameRuns (g : Sched → Sched) : Prop := ∀ x, (g x).running = x.running ∧ (g x).preempt = x.preempt

theorem Chip.outStep_writes {who : Issuer} {run : StepRun} {w : StepWork} {d : Dest} {o : QOut} {sc : List ScaleEntry}
    (hw : ∀ q, wideTileOf w = some q → c.wideDoes run q = false ∧ wideCond q.quant o.cnt.sat o.codes.length = false)
    (h : (c.writeOut who run d (outBytes o sc)).2 = true) :
    ∃ g, Sched.SameRuns g ∧
      c.outStep who run w d o sc = ((((c.writeOut who run d (outBytes o sc)).1.updSched g).countQ o.cnt), true) := by
  unfold Chip.outStep
  dsimp only
  split
  · exact ⟨id, fun _ => ⟨rfl, rfl⟩, if_pos h⟩
  · next q hq =>
    obtain ⟨hdoes, hcond⟩ := hw q hq
    rw [hdoes, hcond]
    refine ⟨fun x => { x with
      wideTile := x.wideTile.filter (· ≠ tileKey run q.quant.layer q.tile)
      wideDue := x.wideDue.filter (· ≠ tileKey run q.quant.layer q.tile) }, fun _ => ⟨rfl, rfl⟩, ?_⟩
    rw [Bool.false_and, if_neg Bool.false_ne_true]
    simp only [c.writeOut_updSched _ h, if_true, Bool.and_false, Bool.false_eq_true, if_false]

theorem Chip.perform_out {run : StepRun} {w : StepEndIn} {o : QOut} {sc : List ScaleEntry}
    (hs : workScales (c.chosenWork run w) = none) (hcan : unitCan run.desc (c.chosenWork run w) = true)
    (ho : workOut (c.chosenWork run w) = .out o sc) :
    c.perform run w = c.outStep ⟨c.physUnit w.unit, some run.desc.part⟩ run (c.chosenWork run w) w.dst o sc := by
  unfold Chip.perform
  dsimp only
  rw [hs]
  dsimp only
  rw [hcan, ho]
  rfl

/-! ## The overrun -/

theorem Chip.tableEntry_congr {a b : Chip} (hi : b.image = a.image) (hw : ∀ r ∈ [Reg.PART_CFG, .PART_BLK, .SCHED_CFG],
    ∀ i, b.word r i 0 = a.word r i 0) (r k lb : Nat) : b.tableEntry r k lb = a.tableEntry r k lb := by
  have hget : ∀ (f : Fld) i, f.reg ∈ [Reg.PART_CFG, .PART_BLK, .SCHED_CFG] → b.get f i = a.get f i :=
    fun f i hf => Chip.get_of_word f (hw _ hf i)
  have hflag : ∀ (f : Fld) i, f.reg ∈ [Reg.PART_CFG, .PART_BLK, .SCHED_CFG] → b.flag f i = a.flag f i :=
    fun f i hf => Chip.flag_congr (hget f i hf)
  have hv : b.variant = a.variant := by
    unfold Chip.variant
    rw [hi, hget F.SCHED_CFG_VARIANT 0 (by decide)]
  have hp : b.blockPart r lb = a.blockPart r lb := by
    unfold Chip.blockPart
    simp only [hget F.PART_BLK_BLOCKS _ (by decide), hflag F.PART_CFG_VALID _ (by decide)]
  have hl : ∀ p, b.lends p = a.lends p := fun p => by
    unfold Chip.lends
    rw [hflag F.PART_CFG_LENT p (by decide), hflag F.PART_CFG_KIND p (by decide)]
  unfold Chip.tableEntry Chip.tableOf
  rw [hv, hp]
  simp only [hl]

/-- Whether a step ends late is a matter of the clock and the tables. -/
theorem Chip.overruns_congr {a b : Chip} (hi : b.image = a.image) (hc : b.clock = a.clock)
    (hw : ∀ r ∈ [Reg.PART_CFG, .PART_BLK, .SCHED_CFG], ∀ i, b.word r i 0 = a.word r i 0) (run : StepRun) :
    b.overruns run = a.overruns run := by
  unfold Chip.overruns
  simp only [Chip.tableEntry_congr hi hw, Chip.slotNo_congr hc, Chip.nowNs_congr hc]

/-- A step that is late (R352, R357). -/
def Chip.Late (c : Chip) (u : StepUnit) (run : StepRun) (r : Nat) : Prop :=
  match u, run.desc.kind with
  | .block _ lb, .soak => ∃ k, run.at_ < k ∧ k ≤ c.slotNo ∧ bitsOf (c.tableEntry r k lb.val) 58 2 = 1 ∧ c.nowNs > k * 125000
  | _, _ => c.nowNs > (run.at_ + run.desc.span + 1) * 125000

theorem Chip.overruns_iff_late {u : StepUnit} {run : StepRun} {r : Nat} (hu : run.desc.unit = u) (hr : unitRegion u = some r) :
    c.overruns run = true ↔ c.Late u run r := by
  unfold Chip.overruns Chip.Late
  rw [hu]
  cases u with
  | text t | lane l => cases hr
  | block rb lb =>
    have hrb : rb.val = r := Option.some.inj hr
    cases hk : run.desc.kind with
    | lc | be => exact decide_eq_true_iff
    | soak =>
      simp only [List.any_eq_true, List.mem_range, Bool.and_eq_true, decide_eq_true_eq, hrb]
      constructor
      · rintro ⟨j, hj, hlc, hlate⟩
        exact ⟨run.at_ + 1 + j, by omega, by omega, hlc, hlate⟩
      · rintro ⟨k, hlo, hhi, hlc, hlate⟩
        obtain ⟨j, rfl⟩ : ∃ j, k = run.at_ + 1 + j := ⟨k - (run.at_ + 1), by omega⟩
        exact ⟨j, by omega, hlc, hlate⟩

/-! ## The unit is free -/

theorem Chip.updSched_fallout {g : Sched → Sched} (h : (g c.sched).preempt = c.sched.preempt) : Fallout 0 c (c.updSched g) :=
  .silent rfl rfl h (fun _ _ _ => rfl)

theorem Chip.countQ_fallout (q : QCnt) : Fallout 0 c (c.countQ q) :=
  ((c.put_fallout _ _ _ _ (by decide)).trans (Chip.put_fallout _ _ _ _ _ (by decide))).trans
    (Chip.put_fallout _ _ _ _ _ (by decide))

theorem Chip.countOverrun_fallout (run : StepRun) : Fallout 0 c (c.countOverrun run) := by
  unfold Chip.countOverrun
  split
  · split
    · exact c.put_fallout _ _ _ _ (by decide)
    · exact Fallout.refl 0 c
  · exact Fallout.refl 0 c

theorem Fallout.kv {n : Nat} {a b : Chip} (h : Fallout n a b) : b.kv = a.kv := by
  rw [h.only]

/-- The step of unit `u` has ended, and what its boundary brings. -/
def Chip.vacate (c : Chip) (u : Nat) : Chip := (c.setRun u none).boundary u

theorem Chip.vacate_fallout (u : Nat) : Fallout 0 c (c.vacate u) := (c.setRun_fallout u none).trans (Chip.boundary_fallout _ u)

theorem Chip.vacate_runOf (u : Nat) : (c.vacate u).runOf u = none := by
  unfold Chip.vacate Chip.runOf
  rw [(Chip.boundary_passes _ u).running]
  exact c.runOf_setRun_self u none

theorem Chip.vacate_runOf_ne {u v : Nat} (h : v ≠ u) : (c.vacate u).runOf v = c.runOf v := by
  unfold Chip.vacate Chip.runOf
  rw [(Chip.boundary_passes _ u).running]
  exact c.runOf_setRun_ne h none

theorem Chip.vacate_word (u : Nat) {r : Reg} (i j : Nat) (h : Reg.apart .PART_CFG r = true) :
    (c.vacate u).word r i j = c.word r i j := (Chip.boundary_passes _ u).word r i j h

/-- With no edit waiting and no item to end, a free unit is vacated and no more. -/
theorem Chip.unitFree_idle {u : Nat} {item : Option Nat} (hkv : c.kv.waiting = [])
    (hi : ∀ n i, item = some n → c.item n = some i → i.endNext = none) : c.unitFree u item = c.vacate u := by
  have hv := c.vacate_fallout u
  have hrun : (c.vacate u).kvRun = c.vacate u := Chip.kvRun_idle _ (by rw [hv.kv, hkv])
  unfold Chip.unitFree
  change (match item with
    | some n => (c.vacate u).kvRun.endDue n
    | none => (c.vacate u).kvRun) = _
  rw [hrun]
  cases item with
  | none => rfl
  | some n =>
    have hitem : (c.vacate u).item n = c.item n := by
      unfold Chip.item
      rw [hv.items]
    dsimp only
    unfold Chip.endDue
    rw [hitem]
    cases h : c.item n with
    | none => rfl
    | some i =>
      dsimp only
      rw [hi n i rfl h]

/-! ## A step that has run to its end -/

theorem exec_stepEnd_up (s : State) (w : StepEndIn) (hup : s.chip.Up) :
    exec (.stepEnd w) s = .next ⟨s.pending, (s.chip.stepEnd w).settle⟩ := by
  simp only [exec_stepEnd, Chip.serving_eq _ hup.1 hup.2]

theorem Chip.stepEnd_none {w : StepEndIn} (h : c.runOf (unitNo w.unit) = none) : c.stepEnd w = c := by
  unfold Chip.stepEnd
  rw [h]

theorem Chip.slotWaitFault_none {x : SlotId} {awaited : Bool} {u : StepUnit} (h : c.runOf (unitNo u) = none) :
    c.slotWaitFault x awaited u = c := by
  unfold Chip.slotWaitFault
  rw [h]

section
variable {c} {w : StepEndIn} {run : StepRun} (hr : c.runOf (unitNo w.unit) = some run)
include hr

/-- A step whose outputs cannot be at their place, or whose output slot is FULL, does not end. -/
theorem Chip.stepEnd_waits (ho : w.outcome = .done) (h : c.destOk run.desc w.dst = false ∨ c.destWaits run w.dst = true) :
    c.stepEnd w = c := by
  unfold Chip.stepEnd
  rw [hr, ho]
  dsimp only
  rw [if_pos]
  rcases h with h | h <;> simp [h]

/-- A step without an item does its work, is counted where it is late, and leaves its unit. -/
theorem Chip.stepEnd_done (ho : w.outcome = .done) (hi : run.desc.item = none) (hok : c.destOk run.desc w.dst = true)
    (hwait : c.destWaits run w.dst = false) {d : Chip} (hp : c.perform run w = (d, true)) :
    c.stepEnd w = (d.countOverrun run).unitFree (unitNo w.unit) none := by
  have hfits : c.workFits run w.work = true := by
    unfold Chip.workFits
    rw [hi]
    rfl
  unfold Chip.stepEnd
  rw [hr, ho]
  dsimp only
  rw [hok, hwait, hfits]
  unfold Chip.stepDone
  rw [hp, hi]
  rfl

end

/-- What the end of a step leaves whose outputs `o` have been written (R352). -/
structure Chip.StepDone (c o t : Chip) (u : StepUnit) (run : StepRun) : Prop where
  free : t.runOf (unitNo u) = none
  others : ∀ v, v ≠ unitNo u → t.runOf v = c.runOf v
  data : o.mem.SameData t.mem
  quiet : c.Quiet → t.mem = o.mem
  late : ∀ r, unitRegion u = some r → c.Late u run r →
    t.get F.SCHED_CNT_OVR_STEP r = Nat.min (c.get F.SCHED_CNT_OVR_STEP r + 1) 65535
  inTime : ∀ r, unitRegion u = some r → ¬ c.Late u run r → t.get F.SCHED_CNT_OVR_STEP r = c.get F.SCHED_CNT_OVR_STEP r
  items : t.items = c.items
  kv : t.kv = c.kv
  core : c.Core t

variable {c} in
theorem Chip.StepDone.settle {o t : Chip} {u : StepUnit} {run : StepRun} (h : c.StepDone o t u run) :
    c.StepDone o t.settle u run where
  free := (t.settle_runOf _).trans h.free
  others := fun v hv => (t.settle_runOf v).trans (h.others v hv)
  data := t.settle_mem ▸ h.data
  quiet := fun hq => t.settle_mem.trans (h.quiet hq)
  late := fun r hr hl => (t.settle_calm.get_apart (by decide)).trans (h.late r hr hl)
  inTime := fun r hr hl => (t.settle_calm.get_apart (by decide)).trans (h.inTime r hr hl)
  items := t.settle_items.trans h.items
  kv := t.settle_kv.trans h.kv
  core := h.core.trans t.settle_core

/-- From `c` to `d` a step's outputs have been written and its arithmetic counted. -/
structure Chip.Wrote (c o d : Chip) : Prop where
  data : OnlyData c o
  falls : Fallout 0 o d
  running : d.sched.running = o.sched.running
  word : ∀ r i j, Reg.apart .QNT_FP r = true → d.word r i j = o.word r i j

theorem Chip.countQ_word (q : QCnt) {r : Reg} (i j : Nat) (h : Reg.apart .QNT_FP r = true) :
    (c.countQ q).word r i j = c.word r i j := by
  unfold Chip.countQ Chip.bump
  rw [Chip.word_put_apart _ F.QNT_FP_OVF_SAT _ _ _ _ _ h, Chip.word_put_apart _ F.QNT_FP_BAD_SCALE _ _ _ _ _ h,
    Chip.word_put_apart _ F.QNT_FP_NAN _ _ _ _ _ h]

variable {c} in
theorem OnlyData.wrote {o : Chip} (h : OnlyData c o) {g : Sched → Sched} (hg : Sched.SameRuns g) (q : QCnt) :
    c.Wrote o ((o.updSched g).countQ q) where
  data := h
  falls := (o.updSched_fallout (hg _).2).trans (Chip.countQ_fallout _ q)
  running := (hg o.sched).1
  word := fun _ i j hr => Chip.countQ_word _ q i j hr

theorem unitRegion_lt {u : StepUnit} {r : Nat} (h : unitRegion u = some r) : r < 4 := by
  cases u with
  | block rb lb =>
    have hrb : rb.val = r := Option.some.inj h
    omega
  | text t | lane l => cases h

theorem schedCnt_has {r : Nat} (hr : r < 4) : Reg.has .SCHED_CNT r 0 = true := decide_eq_true ⟨hr, Nat.one_pos⟩

theorem Chip.countOverrun_late {run : StepRun} {r : Nat} (hr : unitRegion run.desc.unit = some r) (h : c.overruns run = true) :
    (c.countOverrun run).get F.SCHED_CNT_OVR_STEP r = Nat.min (c.get F.SCHED_CNT_OVR_STEP r + 1) 65535 := by
  unfold Chip.countOverrun
  rw [hr]
  dsimp only
  rw [if_pos h, Chip.get_bump_self _ _ _ _ _ (schedCnt_has (unitRegion_lt hr)) (by decide)]
  rfl

theorem Chip.countOverrun_inTime {run : StepRun} (h : c.overruns run = false) : c.countOverrun run = c := by
  unfold Chip.countOverrun
  rw [h]
  split <;> rfl

theorem Chip.countOverrun_sched (run : StepRun) : (c.countOverrun run).sched = c.sched := by
  unfold Chip.countOverrun
  split
  · split <;> rfl
  · rfl

variable {c} in
/-- The unit is freed once the outputs are written and a late end is counted. -/
theorem Chip.Wrote.done {o d : Chip} (h : c.Wrote o d) {u : StepUnit} {run : StepRun} (hu : run.desc.unit = u)
    (hkv : c.kv.waiting = []) : c.StepDone o ((d.countOverrun run).unitFree (unitNo u) none) u run := by
  have hfall : Fallout 0 o ((d.countOverrun run).vacate (unitNo u)) :=
    (h.falls.trans (d.countOverrun_fallout run)).trans (Chip.vacate_fallout _ _)
  have hdata := h.data
  have hword : ∀ r i, Reg.apart .QNT_FP r = true → d.word r i 0 = c.word r i 0 := fun r i hr =>
    (h.word r i 0 hr).trans (by rw [hdata]; rfl)
  have hover : d.overruns run = c.overruns run := by
    refine Chip.overruns_congr ?_ ?_ (fun r hr i => hword r i ?_) run
    · rw [h.falls.core.image, hdata]
    · rw [h.falls.core.clock, hdata]
    · simp only [List.mem_cons, List.not_mem_nil, or_false] at hr
      rcases hr with rfl | rfl | rfl <;> decide
  have hget : ∀ r, d.get F.SCHED_CNT_OVR_STEP r = c.get F.SCHED_CNT_OVR_STEP r :=
    fun r => Chip.get_of_word _ (hword _ r (by decide))
  have hvacate : ∀ r, ((d.countOverrun run).vacate (unitNo u)).get F.SCHED_CNT_OVR_STEP r =
      (d.countOverrun run).get F.SCHED_CNT_OVR_STEP r :=
    fun r => Chip.get_of_word _ (Chip.vacate_word _ _ r 0 (by decide))
  have hwaiting : (d.countOverrun run).kv.waiting = [] := by
    rw [(d.countOverrun_fallout run).kv, h.falls.kv, hdata]
    exact hkv
  rw [Chip.unitFree_idle _ hwaiting (fun _ _ hn => by cases hn)]
  refine ⟨Chip.vacate_runOf _ _, fun v hv => ?_, hfall.data, fun hq => (hfall.quiet ?_).2, fun r hr hl => ?_, fun r hr hl => ?_,
    ?_, ?_, ?_⟩
  · rw [Chip.vacate_runOf_ne _ hv]
    unfold Chip.runOf
    rw [Chip.countOverrun_sched, h.running, hdata]
  · rw [hdata]
    exact hq
  · rw [hvacate, d.countOverrun_late (hu ▸ hr) (hover.trans ((c.overruns_iff_late hu hr).2 hl)), hget]
  · rw [hvacate, d.countOverrun_inTime (hover.trans (Bool.eq_false_iff.2 (mt (c.overruns_iff_late hu hr).1 hl))), hget]
  · rw [hfall.items, hdata]
  · rw [hfall.kv, hdata]
  · refine Chip.Core.trans ?_ hfall.core
    rw [hdata]
    exact ⟨rfl, rfl, rfl, rfl, rfl, rfl⟩

/-! ## A step that is rolled back -/

/-- The slots that a step has released are FULL again. -/
theorem smGet_foldl_true {α : Type} (l : List (Nat × α)) (m : SMap Bool) {k : Nat}
    (h : smGet false m k = true ∨ ∃ e ∈ l, e.1 = k) : smGet false (l.foldl (fun d e => smSet false d e.1 true) m) k = true := by
  induction l generalizing m with
  | nil => exact h.resolve_right (by rintro ⟨e, he, _⟩; cases he)
  | cons x l ih =>
    rw [List.foldl_cons]
    refine ih _ ?_
    by_cases hx : x.1 = k
    · exact .inl (by rw [hx]; exact smGet_smSet_self _ _ _)
    · refine h.imp (fun hk => (smGet_smSet_ne _ _ (Ne.symm hx)).trans hk) (fun ⟨e, he, hek⟩ => ⟨e, ?_, hek⟩)
      exact (List.mem_cons.1 he).resolve_left (fun heq => hx (heq ▸ hek))

/-- What the roll-back of the step on a unit does to the memories: its fills end, its slots are FULL again (R83). -/
structure Chip.Undone (c t : Chip) (u : Nat) (run : StepRun) : Prop where
  only : t = { c with mem := { c.mem with moves := t.mem.moves, slotData := t.mem.slotData, slotFull := t.mem.slotFull } }
  moves : ∀ m, m ∈ t.mem.moves → m ∈ c.mem.moves ∧
    ¬ (run.firstMove ≤ m.id ∧ c.unitOf m.issuer.u = some u ∧ ∃ x o, m.dst = .slot x o)
  full : ∀ e, e ∈ run.freed → smGet false t.mem.slotFull e.1 = true
  same : run.freed = [] → c.mem.moves = [] → t = c

theorem Chip.undoSlots_undone {u : Nat} {run : StepRun} (hr : c.runOf u = some run) : c.Undone (c.undoSlots u) u run := by
  unfold Chip.undoSlots
  rw [hr]
  dsimp only
  refine ⟨rfl, fun m hm => ?_, fun e he => smGet_foldl_true _ _ (.inr ⟨e, he, rfl⟩), fun hf hm => ?_⟩
  · obtain ⟨hmem, hmine⟩ := List.mem_filter.1 hm
    refine ⟨hmem, fun ⟨hid, hunit, x, o, hdst⟩ => ?_⟩
    rw [hdst] at hmine
    simp [hid, hunit] at hmine
  · unfold Chip.updMem
    dsimp only
    rw [hf, List.filter_eq_self.2 (fun m hmem => absurd (hm ▸ hmem) List.not_mem_nil)]
    rfl

/-- What the roll-back of a step leaves (R83, R370). -/
structure Chip.RolledBack (c t : Chip) (u : Nat) (run : StepRun) : Prop where
  free : t.runOf u = none
  bytes : c.mem.SameBytes t.mem
  moves : ∀ m, m ∈ t.mem.moves → m ∈ c.mem.moves ∧
    ¬ (run.firstMove ≤ m.id ∧ c.unitOf m.issuer.u = some u ∧ ∃ x o, m.dst = .slot x o)
  full : c.Quiet → ∀ e, e ∈ run.freed → smGet false t.mem.slotFull e.1 = true
  items : t.items = c.items
  kv : t.kv = c.kv
  core : c.Core t
  same : c.Quiet → run.freed = [] → c.mem.moves = [] → t = c.setRun u none

theorem Chip.rollBack_rolledBack {u : Nat} {run : StepRun} (hr : c.runOf u = some run) (hkv : c.kv.waiting = [])
    (hi : ∀ n i, run.desc.item = some n → c.item n = some i → i.endNext = none) : c.RolledBack (c.rollBack u) u run := by
  have hundo := c.undoSlots_undone hr
  have heq : c.rollBack u = (c.undoSlots u).vacate u := by
    unfold Chip.rollBack
    rw [hr]
    dsimp only
    refine Chip.unitFree_idle _ ?_ ?_
    · rw [hundo.only]
      exact hkv
    · rw [hundo.only]
      exact hi
  rw [heq]
  generalize c.undoSlots u = d at hundo
  have hfall := d.vacate_fallout u
  have hquiet : c.Quiet → d.Quiet := fun hq => by
    rw [hundo.only]
    exact hq
  have hbytes : c.mem.SameBytes d.mem := by
    rw [hundo.only]
    exact ⟨rfl, rfl, rfl⟩
  have hcore : c.Core d := by
    rw [hundo.only]
    exact ⟨rfl, rfl, rfl, rfl, rfl, rfl⟩
  refine ⟨Chip.vacate_runOf _ _, hbytes.trans hfall.data.bytes, fun m hm => hundo.moves m ?_, fun hq e he => ?_, ?_, ?_,
    hcore.trans hfall.core, fun hq hf hm => ?_⟩
  · rw [hfall.data] at hm
    exact hm
  · rw [(hfall.quiet (hquiet hq)).2]
    exact hundo.full e he
  · rw [hfall.items, hundo.only]
  · rw [hfall.kv, hundo.only]
  · rw [hundo.same hf hm]
    exact Chip.boundary_quiet (c := c.setRun u none) hq u

variable {c} in
theorem Chip.RolledBack.settle {t : Chip} {u : Nat} {run : StepRun} (h : c.RolledBack t u run) :
    t.settle.runOf u = none ∧ c.mem.SameBytes t.settle.mem ∧ t.settle.items = c.items ∧ t.settle.kv = c.kv ∧ c.Core t.settle :=
  ⟨(t.settle_runOf u).trans h.free, t.settle_mem ▸ h.bytes, t.settle_items.trans h.items, t.settle_kv.trans h.kv,
    h.core.trans t.settle_core⟩

/-! ## A step that is lost -/

/-- What the loss of a step leaves (R391). -/
structure Chip.StepLost (c t : Chip) (u : StepUnit) (run : StepRun) (cls : Nat) : Prop where
  free : t.runOf (unitNo u) = none
  data : c.mem.SameData t.mem
  rerun : ∀ n, run.desc.item = some n → n ∈ t.recov.rerun
  logged : cls ∈ lossClasses → c.Logged t cls (c.locOf (c.physUnit u) run.desc.part.val)
  items : t.items = c.items
  core : c.Core t

/-- A loss of a class that is logged. -/
def Chip.logLoss (c : Chip) (u : StepUnit) (run : StepRun) (cls : Nat) : Chip :=
  if lossClasses.contains cls then c.log cls (c.locOf (c.physUnit u) run.desc.part.val) else c

theorem Chip.logLoss_fallout (u : StepUnit) (run : StepRun) (cls : Nat) : Fallout 1 c (c.logLoss u run cls) := by
  unfold Chip.logLoss
  split
  · exact c.log_fallout _ _ _
  · exact Fallout.refl 1 c

theorem Chip.logLoss_sched (u : StepUnit) (run : StepRun) (cls : Nat) : (c.logLoss u run cls).sched = c.sched := by
  unfold Chip.logLoss
  split
  · exact c.log_sched _ _ _
  · rfl

theorem Chip.stepLost_lost {u : StepUnit} {run : StepRun} (hr : c.runOf (unitNo u) = some run) (hkv : c.kv.waiting = [])
    (cls : Nat) : c.StepLost (c.stepLost u cls) u run cls := by
  have hlog := c.logLoss_fallout u run cls
  have hlast := (c.logLoss u run cls).loseStep_fallout (unitNo u)
  have hrun : (c.logLoss u run cls).runOf (unitNo u) = some run := by
    unfold Chip.runOf
    rw [Chip.logLoss_sched]
    exact hr
  have heq : c.stepLost u cls = (c.logLoss u run cls).loseStep (unitNo u) := by
    unfold Chip.stepLost
    rw [hr]
    refine Chip.kvRun_idle ((c.logLoss u run cls).loseStep (unitNo u)) ?_
    rw [hlast.kv, hlog.kv, hkv]
  have hlogged : cls ∈ lossClasses →
      c.Logged ((c.logLoss u run cls).loseStep (unitNo u)) cls (c.locOf (c.physUnit u) run.desc.part.val) := fun hc => by
    have he : c.logLoss u run cls = c.log cls (c.locOf (c.physUnit u) run.desc.part.val) :=
      if_pos (List.contains_iff_mem.2 hc)
    rw [he] at hlast ⊢
    exact hlast.logged (by decide)
  rw [heq]
  exact ⟨Chip.loseStep_runOf _ _, (hlog.trans hlast).data, fun n hn => Chip.loseStep_rerun _ hrun hn, hlogged,
    (hlog.trans hlast).items, (hlog.trans hlast).core⟩

variable {c} in
theorem Chip.StepLost.settle {t : Chip} {u : StepUnit} {run : StepRun} {cls : Nat} (h : c.StepLost t u run cls) :
    c.StepLost t.settle u run cls where
  free := (t.settle_runOf _).trans h.free
  data := t.settle_mem ▸ h.data
  rerun := fun n hn => t.settle_recov ▸ h.rerun n hn
  logged := fun hc => (h.logged hc).settle
  items := t.settle_items.trans h.items
  core := h.core.trans t.settle_core

/-! ## A first cell error -/

/-- What a first cell error of a step leaves (R61). -/
structure Chip.Reexecutes (c t : Chip) (u k : Nat) (run : StepRun) : Prop where
  run : t.runOf u = some { run with tries := 1 }
  counted : c.Counted t F.FAULT_CNT0_REEXEC
  cell : smGet 0 t.recov.reexec k = smGet 0 c.recov.reexec k + 1
  mem : t.mem = c.mem
  items : t.items = c.items
  core : c.Core t

/-- The re-execution counted for the device and for the cell. -/
def Chip.countReexec (c : Chip) (k : Nat) : Chip :=
  let c := c.bump F.FAULT_CNT0_REEXEC
  c.updRecov (fun v => { v with reexec := smSet 0 v.reexec k (smGet 0 c.recov.reexec k + 1) })

theorem Chip.countReexec_cell (k : Nat) : smGet 0 (c.countReexec k).recov.reexec k = smGet 0 c.recov.reexec k + 1 := by
  unfold Chip.countReexec
  exact smGet_smSet_self c.recov.reexec k (smGet 0 c.recov.reexec k + 1)

theorem Chip.countReexec_core (k : Nat) : c.Core (c.countReexec k) := by
  unfold Chip.countReexec
  exact ((c.put_fallout _ _ _ _ (by decide)).trans (Chip.updRecov_fallout _ _)).core

theorem Chip.reexecuted_counts {site : UnitId} {k : Nat} (hk : cellNo site = some k)
    (h : smGet 0 c.recov.reexec k + 1 ≤ actsAs (c.get F.FAULT_CFG_CELL_THR) 1) : c.reexecuted site = c.countReexec k := by
  have hthr : (c.bump F.FAULT_CNT0_REEXEC).get F.FAULT_CFG_CELL_THR = c.get F.FAULT_CFG_CELL_THR :=
    c.get_put_apart F.FAULT_CNT0_REEXEC F.FAULT_CFG_CELL_THR _ _ _ _ _ (by decide)
  unfold Chip.reexecuted Chip.countReexec
  rw [hk]
  dsimp only
  rw [Chip.updRecov_get, hthr, Chip.bump_recov, if_neg (Nat.not_lt.2 h)]

theorem faultCnt_has : Reg.has .FAULT_CNT0 0 0 = true := decide_eq_true ⟨Nat.one_pos, Nat.one_pos⟩

theorem Chip.cellError_reexecutes {u k : Nat} {run : StepRun} {site : UnitId} (hr : c.runOf u = some run)
    (hk : cellNo site = some k) (ht : run.tries = 0)
    (h : smGet 0 c.recov.reexec k + 1 ≤ actsAs (c.get F.FAULT_CFG_CELL_THR) 1) :
    c.Reexecutes (c.cellError u site false) u k run := by
  have hrun : (c.countReexec k).runOf u = some run := hr
  have heq : c.cellError u site false = (c.countReexec k).setRun u (some { run with tries := 1 }) := by
    unfold Chip.cellError
    rw [hr]
    dsimp only
    rw [if_neg Bool.false_ne_true, if_pos ht, c.reexecuted_counts hk h, hrun]
  rw [heq]
  exact ⟨Chip.runOf_setRun_self _ _ _, c.bump_counted F.FAULT_CNT0_REEXEC faultCnt_has (by decide),
    c.countReexec_cell k, rfl, rfl, (c.countReexec_core k).trans ⟨rfl, rfl, rfl, rfl, rfl, rfl⟩⟩

/-! ## The obligation -/

section
variable {c} {w : StepEndIn} {run : StepRun} (hr : c.runOf (unitNo w.unit) = some run)
include hr

theorem Chip.stepEnd_rollBack (ho : w.outcome = .rolledBack) : c.stepEnd w = c.rollBack (unitNo w.unit) := by
  unfold Chip.stepEnd
  rw [hr, ho]

theorem Chip.stepEnd_lost {cls : Nat} (ho : w.outcome = .lost cls) : c.stepEnd w = c.stepLost w.unit cls := by
  unfold Chip.stepEnd
  rw [hr, ho]

theorem Chip.stepEnd_reexecuted {site : UnitId} (ho : w.outcome = .reexecuted site) (hs : c.errorSite run.desc site = true) :
    c.stepEnd w = c.cellError (unitNo w.unit) site false := by
  unfold Chip.stepEnd
  rw [hr, ho]
  exact if_pos hs

end

variable {c} in
theorem Chip.Reexecutes.settle {t : Chip} {u k : Nat} {run : StepRun} (h : c.Reexecutes t u k run) :
    c.Reexecutes t.settle u k run where
  run := (t.settle_runOf u).trans h.run
  counted := Chip.Counted.settle c h.counted (by decide)
  cell := t.settle_recov ▸ h.cell
  mem := t.settle_mem.trans h.mem
  items := t.settle_items.trans h.items
  core := h.core.trans t.settle_core

/-- Settles O26: the outcomes of a step's end, each with what it leaves. -/
theorem stepEnds : Obligations.StepEnds := by
  unfold Obligations.StepEnds
  refine ⟨fun s w x awaited hup hr => ⟨?_, ?_⟩, fun s w run hup hr => ?_⟩
  · rw [exec_stepEnd_up s w hup, s.chip.stepEnd_none hr]
  · rw [exec_slotWaitFault_up s x awaited w.unit hup.1 hup.2, s.chip.slotWaitFault_none hr]
  intro c u work
  have hexec := exec_stepEnd_up s w hup
  refine ⟨fun ho h => ?_, fun ho hu hi hkv hok hwait hs hcan o sc hout hwide hsnd => ?_, fun ho hkv hi => ?_,
    fun cls ho hkv => ?_, fun site k ho hsite hk ht hthr => ?_⟩
  · rw [hexec, Chip.stepEnd_waits hr ho h]
  · obtain ⟨g, hg, hwrites⟩ := c.outStep_writes hwide hsnd
    have hdone := (((c.writeOut_onlyData hsnd).wrote hg o.cnt).done hu hkv).settle
    have hp := (c.perform_out hs hcan hout).trans hwrites
    rw [← Chip.stepEnd_done hr ho hi hok hwait hp] at hdone
    refine ⟨_, hexec, rfl, hdone.free, hdone.data, hdone.quiet, hdone.others, fun r hreg => ?_, hdone.items, hdone.kv, hdone.core⟩
    exact ⟨hdone.late r hreg, hdone.inTime r hreg⟩
  · have h := c.rollBack_rolledBack hr hkv hi
    obtain ⟨hfree, ⟨hblock, hshared, hddr⟩, hitems, hkv', hcore⟩ := h.settle
    refine ⟨_, hexec, rfl, ?_⟩
    dsimp only
    rw [Chip.stepEnd_rollBack hr ho]
    refine ⟨hfree, hblock, hshared, hddr, ?_, ?_, hitems, hkv', hcore, fun hq hf hm => congrArg Chip.settle (h.same hq hf hm)⟩
    · rw [Chip.settle_mem]
      exact h.moves
    · rw [Chip.settle_mem]
      exact h.full
  · obtain ⟨hfree, hdata, hrerun, hlogged, hitems, hcore⟩ := (c.stepLost_lost hr hkv cls).settle
    rw [← Chip.stepEnd_lost hr ho] at hfree hdata hrerun hlogged hitems hcore
    exact ⟨_, hexec, rfl, hfree, hdata, hrerun, hlogged, hitems, hcore⟩
  · obtain ⟨hrun, hcounted, hcell, hmem, hitems, hcore⟩ := (c.cellError_reexecutes hr hk ht hthr).settle
    rw [← Chip.stepEnd_reexecuted hr ho hsite] at hrun hcounted hcell hmem hitems hcore
    exact ⟨_, hexec, rfl, hrun, hcounted, hcell, hmem, hitems, hcore⟩

end Sys2Proof.Machine
end

section
/-!
PROOFS. What the end of an item leaves alone: which steps run, the pre-emptions under way, the blocks of the partitions and the
counts of the pre-emptions.
-/

namespace Sys2Proof.Machine

/-- The registers of the partitions lie apart from register `r`. -/
def Reg.offParts (r : Reg) : Bool := r.apart .PART_CFG && r.apart .PART_CNT && r.apart .PART_BLK

/-- From `a` to `b` no step starts or ends and no pre-emption changes; the partitions' settings, blocks and counts of
pre-emptions stay. -/
structure SameSteps (a b : Chip) : Prop extends a.Core b where
  running : b.sched.running = a.sched.running
  preempt : b.sched.preempt = a.sched.preempt
  cfg : ∀ p, b.word .PART_CFG p 0 = a.word .PART_CFG p 0
  count : ∀ p, b.get F.PART_CNT_PREEMPT p = a.get F.PART_CNT_PREEMPT p
  units : ∀ p, b.partUnits p = a.partUnits p

theorem SameSteps.trans {a b c : Chip} (h : SameSteps a b) (k : SameSteps b c) : SameSteps a c where
  toCore := h.toCore.trans k.toCore
  running := k.running.trans h.running
  preempt := k.preempt.trans h.preempt
  cfg := fun p => (k.cfg p).trans (h.cfg p)
  count := fun p => (k.count p).trans (h.count p)
  units := fun p => (k.units p).trans (h.units p)

theorem Chip.partUnits_of_word {a b : Chip} {p : Nat} (h : b.word .PART_BLK p 0 = a.word .PART_BLK p 0) :
    b.partUnits p = a.partUnits p := congrArg (maskBits 32) (Chip.get_of_word F.PART_BLK_BLOCKS h)

/-- The counts and the blocks lie in their registers. -/
theorem SameSteps.of_word {a b : Chip} (hc : a.Core b) (hr : b.sched.running = a.sched.running)
    (hp : b.sched.preempt = a.sched.preempt) (hcfg : ∀ p, b.word .PART_CFG p 0 = a.word .PART_CFG p 0)
    (hcnt : ∀ p, b.word .PART_CNT p 0 = a.word .PART_CNT p 0)
    (hblk : ∀ p, b.word .PART_BLK p 0 = a.word .PART_BLK p 0) : SameSteps a b :=
  ⟨hc, hr, hp, hcfg, fun p => Chip.get_of_word _ (hcnt p), fun p => Chip.partUnits_of_word (hblk p)⟩

/-- Work beside the registers and the schedule. -/
theorem SameSteps.aside {a b : Chip} (h : b = { a with
    free := b.free, mem := b.mem, streams := b.streams, items := b.items, subs := b.subs, formed := b.formed, sessions := b.sessions
    kv := b.kv, adapt := b.adapt }) : SameSteps a b := by
  rw [h]
  exact ⟨⟨rfl, rfl, rfl, rfl, rfl, rfl⟩, rfl, rfl, fun _ => rfl, fun _ => rfl, fun _ => rfl⟩

theorem SameSteps.refl (a : Chip) : SameSteps a a := .aside rfl

theorem SameSteps.foldl {β : Type} {g : Chip → β → Chip} (hg : ∀ c x, SameSteps c (g c x)) (l : List β) (c : Chip) :
    SameSteps c (l.foldl g c) := by
  induction l generalizing c with
  | nil => exact SameSteps.refl c
  | cons x l ih => exact (hg c x).trans (ih _)

/-- Work that carries a further value along. -/
theorem SameSteps.foldl_fst {α β : Type} {g : Chip × α → β → Chip × α} (hg : ∀ a x, SameSteps a.1 (g a x).1) (l : List β)
    (a : Chip × α) : SameSteps a.1 (l.foldl g a).1 := by
  induction l generalizing a with
  | nil => exact SameSteps.refl a.1
  | cons x l ih => exact (hg a x).trans (ih _)

theorem SameSteps.foldl_uncut {g : Chip → Deliv → Chip} (hg : ∀ c d, SameSteps c (g c d)) (l : List Deliv) (c : Chip) :
    SameSteps c (l.foldl (fun c d => if d.cut then c else g c d) c) := by
  refine SameSteps.foldl (fun c d => ?_) l c
  split
  · exact SameSteps.refl c
  · exact hg c d

variable (c : Chip)

theorem Chip.put_sameSteps (f : Fld) (v i j : Nat) (h : f.reg.offParts = true) : SameSteps c (c.put f v i j) := by
  obtain ⟨hcfg, hcnt, hblk⟩ : f.reg.apart .PART_CFG = true ∧ f.reg.apart .PART_CNT = true ∧ f.reg.apart .PART_BLK = true := by
    simpa [Reg.offParts, and_assoc] using h
  exact .of_word (c.put_core _ _ _ _) rfl rfl (fun p => c.word_put_apart f v i j p 0 hcfg)
    (fun p => c.word_put_apart f v i j p 0 hcnt) (fun p => c.word_put_apart f v i j p 0 hblk)

theorem Chip.bump_sameSteps (f : Fld) (i j n : Nat) (h : f.reg.offParts = true) : SameSteps c (c.bump f i j n) :=
  c.put_sameSteps _ _ _ _ h

theorem Calm.sameSteps {a b : Chip} (h : Calm a b) : SameSteps a b where
  toCore := h.admits.toCore
  running := by rw [h.sched]
  preempt := by rw [h.sched]
  cfg := fun p => h.word_apart p 0 (by decide)
  count := fun p => Chip.get_of_word _ (h.word_apart p 0 (by decide))
  units := fun p => Chip.partUnits_of_word (h.word_apart p 0 (by decide))

theorem Chip.log_sameSteps (code : Nat) (l : Loc) (stated : Option Nat) : SameSteps c (c.log code l stated) where
  toCore := (c.log_onlyRegs code l stated).core
  running := by rw [c.log_sched]
  preempt := by rw [c.log_sched]
  cfg := fun p => c.log_word code l stated _ p 0 (by decide)
  count := fun p => Chip.get_of_word _ (c.log_word code l stated _ p 0 (by decide))
  units := fun p => Chip.partUnits_of_word (c.log_word code l stated _ p 0 (by decide))

/-! ## Memories -/

theorem Chip.countUncorr_sameSteps (g : Gran) : SameSteps c (c.countUncorr g) := by
  unfold Chip.countUncorr
  split
  · exact c.bump_sameSteps _ _ _ _ (by decide)
  · split
    · exact c.bump_sameSteps _ _ _ _ (by decide)
    · exact .aside rfl

theorem Chip.meet_sameSteps (g : Gran) : SameSteps c (c.meet g).1 := by
  unfold Chip.meet
  split
  · exact (c.countUncorr_sameSteps g).trans (Chip.log_sameSteps _ _ _ _)
  · exact SameSteps.refl c

theorem Chip.updMem_sameSteps (f : Mem → Mem) : SameSteps c (c.updMem f) := .aside rfl

theorem Chip.carry_sameSteps (pairs : List (Gran × Gran)) : SameSteps c (c.carry pairs).1 := by
  refine SameSteps.trans (b := (c.meetAll (pairs.map (·.1))).1) ?_ ?_
  · refine SameSteps.foldl_fst (fun a g => ?_) _ (c, false)
    exact a.1.meet_sameSteps g
  · exact SameSteps.foldl (fun c (e : Gran × Gran) => c.updMem_sameSteps (fun x => x.copyGran e.1 e.2)) _ _

/-! ## The key-value cache -/

/-- A relation that the steps of an edit of the key-value cache keep. -/
structure KvClosed (R : Chip → Chip → Prop) : Prop where
  refl : ∀ c, R c c
  trans : ∀ {a b c}, R a b → R b c → R a c
  updKv : ∀ c f, R c (c.updKv f)
  modKvSlot : ∀ c q f, R c (c.modKvSlot q f)
  modItem : ∀ (c : Chip) n f, R c (c.modItem n f)
  adapt : ∀ c a, R c { c with adapt := a }
  showKv : ∀ c, R c c.showKv
  carry : ∀ c l, R c (c.carry l).1
  wait : ∀ c : Chip, R c (c.bump F.KV_CNT1_EDIT_WAIT)

section
variable {c} {R : Chip → Chip → Prop} (hR : KvClosed R)
include hR

theorem KvClosed.alloc {lcWork : Bool} {pages : Nat} {d : Chip} {k : KvSet} (h : c.kvAlloc lcWork pages = some (d, k)) : R c d := by
  rw [c.kvAlloc_some h]
  exact hR.trans (hR.updKv _ _) (hR.showKv _)

theorem KvClosed.publish (c : Chip) (q : Nat) (new : List (BitVec 32)) : R c (c.kvPublish q new) := by
  unfold Chip.kvPublish Chip.kvRecount
  exact hR.trans (hR.trans (hR.trans (hR.trans (hR.modKvSlot _ _ _) (hR.updKv _ _)) (hR.showKv _)) (hR.updKv _ _)) (hR.showKv _)

theorem KvClosed.take (c : Chip) (n : Nat) : R c (c.kvTake n).1 := by
  unfold Chip.kvTake
  split
  · exact hR.refl c
  · split
    · exact hR.refl c
    · split
      · exact hR.refl c
      · exact hR.trans (hR.modItem _ _ _) (hR.modKvSlot _ _ _)

theorem KvClosed.takeTrain (c : Chip) (set : Nat) : R c (c.kvTakeTrain set).1 := by
  unfold Chip.kvTakeTrain
  split
  · exact hR.refl c
  · split
    · exact hR.refl c
    · exact hR.trans (hR.modKvSlot _ _ _) (hR.adapt _ _)

/-- One more page set for a slot, where there is room and a free run: what training and an append have in common. -/
theorem KvClosed.grow (c : Chip) {q : Nat} {lcWork : Bool} {l : Nat} {f g : KvSlot → KvSlot} {p : Prop} [Decidable p]
    {new : KvSet → List (BitVec 32)} :
    R c (if p then c else match c.kvAlloc lcWork l with
      | none => c.modKvSlot q f
      | some (d, x) => (d.modKvSlot q g).kvPublish q (new x)) := by
  split
  · exact hR.refl c
  · split
    · exact hR.modKvSlot _ _ _
    · next ha => exact hR.trans (hR.trans (hR.alloc ha) (hR.modKvSlot _ _ _)) (hR.publish _ _ _)

/-- Work that carries a further value along. -/
theorem KvClosed.foldl_fst {α β : Type} {g : Chip × α → β → Chip × α} (hg : ∀ a x, R a.1 (g a x).1) (l : List β)
    (a : Chip × α) : R a.1 (l.foldl g a).1 := by
  induction l generalizing a with
  | nil => exact hR.refl a.1
  | cons x l ih => exact hR.trans (hg a x) (ih _)

theorem KvClosed.kvEdit (c : Chip) (e : KvEdit) : R c (c.kvEdit e) := by
  unfold Chip.kvEdit
  cases e with
  | train k =>
    have ht := hR.takeTrain c k.val
    dsimp only
    split
    · next he => rwa [he] at ht
    · next he =>
      rw [he] at ht
      exact hR.trans ht (hR.grow _)
  | trainEnd k =>
    dsimp only
    split
    · exact hR.refl c
    · exact hR.trans (hR.trans (hR.adapt _ _) (hR.publish _ _ _)) (hR.modKvSlot _ _ _)
  | append n ov =>
    have ht := hR.take c n
    dsimp only
    split
    · next he => rwa [he] at ht
    · next he =>
      rw [he] at ht
      exact hR.trans ht (hR.grow _)
  | attach n a pos =>
    have ht := hR.take c n
    dsimp only
    split
    · next he => rwa [he] at ht
    · next he =>
      rw [he] at ht
      refine hR.trans ht ?_
      split_ifs
      · exact hR.refl _
      · exact hR.publish _ _ _
      · split
        · next ha _ =>
          refine hR.trans (hR.trans (hR.alloc ha) ?_) (hR.publish _ _ _)
          split
          · exact hR.carry _ _
          · exact hR.refl _
        · exact hR.modKvSlot _ _ _
  | release n j =>
    dsimp only
    split
    · exact hR.refl c
    · exact hR.publish c _ _
  | anchor q k =>
    dsimp only
    split
    · exact hR.refl c
    · refine hR.trans (hR.trans (hR.modKvSlot _ _ _) (hR.foldl_fst (fun a x => ?_) _ (_, []))) (hR.publish _ _ _)
      split
      · next ha => exact hR.alloc ha
      · exact hR.refl a.1
  | clear q =>
    dsimp only
    split
    · exact hR.refl c
    · exact hR.trans (hR.publish _ _ _) (hR.modKvSlot _ _ _)

theorem KvClosed.kvDrain (fuel : Nat) (c : Chip) : R c (kvDrain fuel c) := by
  induction fuel generalizing c with
  | zero => exact hR.refl c
  | succ fuel ih =>
    unfold Machine.kvDrain
    split
    · exact hR.refl c
    · split_ifs
      · exact hR.refl c
      · exact hR.refl c
      · exact hR.trans (hR.wait c) (hR.updKv _ _)
      · exact hR.trans (hR.trans (hR.updKv _ _) (hR.kvEdit _ _)) (ih _)

theorem KvClosed.kvRun (c : Chip) : R c c.kvRun := hR.kvDrain _ c

theorem KvClosed.kvFreeItem (c : Chip) (n : Nat) : R c (c.kvFreeItem n) := by
  unfold Chip.kvFreeItem Chip.kvTableEdit
  split
  · exact hR.refl c
  · exact hR.trans (hR.trans (hR.trans (hR.updKv _ _) (hR.modItem _ n _)) (hR.updKv _ _)) (hR.kvRun _)

end

theorem Chip.showKv_sameSteps : SameSteps c c.showKv := by
  unfold Chip.showKv
  extract_lets inPool limbo ovf c1 c2 c3 c4
  exact ((((c.put_sameSteps _ _ _ _ (by decide)).trans (c1.put_sameSteps _ _ _ _ (by decide))).trans
    (c2.put_sameSteps _ _ _ _ (by decide))).trans (c3.put_sameSteps _ _ _ _ (by decide))).trans (c4.put_sameSteps _ _ _ _ (by decide))

theorem sameSteps_kvClosed : KvClosed SameSteps where
  refl := SameSteps.refl
  trans := SameSteps.trans
  updKv := fun _ _ => .aside rfl
  modKvSlot := fun _ _ _ => .aside rfl
  modItem := fun _ _ _ => .aside rfl
  adapt := fun _ _ => .aside rfl
  showKv := Chip.showKv_sameSteps
  carry := Chip.carry_sameSteps
  wait := fun c => c.bump_sameSteps _ _ _ _ (by decide)

/-! ## Records -/

theorem Chip.modItem_sameSteps (n : Nat) (f : Item → Item) : SameSteps c (c.modItem n f) := .aside rfl

theorem Chip.showSpool_sameSteps (s : Nat) : SameSteps c (c.showSpool s) := by
  have h := c.showSpool_spoolWork s
  refine .of_word h.core ?_ ?_ (fun p => h.word _ p 0 (by decide) (by decide)) (fun p => h.word _ p 0 (by decide) (by decide))
    (fun p => h.word _ p 0 (by decide) (by decide))
  · rw [h.only]
  · rw [h.only]

theorem Chip.giveSpool_sameSteps (s n : Nat) : SameSteps c (c.giveSpool s n) :=
  (SameSteps.aside rfl : SameSteps c (c.modSess s _)).trans (Chip.showSpool_sameSteps _ s)

theorem Chip.form_sameSteps (i : Item) (d : Deliv) (kind : Nat) (bytes : List Byte) : SameSteps c (c.form i d kind bytes) :=
  .aside rfl

theorem Chip.formBegin_sameSteps (n : Nat) : SameSteps c (c.formBegin n) := by
  unfold Chip.formBegin
  split
  · exact SameSteps.refl c
  · split
    · exact SameSteps.refl c
    · next i _ _ => exact (c.modItem_sameSteps n _).trans (SameSteps.foldl_uncut (fun c d => c.form_sameSteps i d _ _) _ _)

theorem Chip.formField_sameSteps (n k : Nat) : SameSteps c (c.formField n k) := by
  unfold Chip.formField
  split
  · exact SameSteps.refl c
  · split
    · exact SameSteps.refl c
    · dsimp only
      refine SameSteps.foldl (fun c d => ?_) _ c
      split_ifs
      · exact SameSteps.refl c
      · exact c.form_sameSteps _ _ _ _
      · exact (c.form_sameSteps _ _ _ _).trans (Chip.modItem_sameSteps _ n _)

/-! ## The end of an item -/

theorem Chip.creditReturn_sameSteps (n : Nat) : SameSteps c (c.creditReturn n) := by
  unfold Chip.creditReturn
  split
  · exact SameSteps.refl c
  · extract_lets c1 c2 c3 s c4
    have h3 : SameSteps c c3 :=
      .of_word ⟨rfl, rfl, rfl, rfl, rfl, rfl⟩ rfl rfl (fun _ => rfl) (fun _ => rfl) (fun _ => rfl)
    have h4 : SameSteps c c4 := by
      unfold c4
      split
      · exact h3.trans (.aside rfl)
      · exact h3
    clear_value c3 c4
    split_ifs
    · exact h3.trans (c3.put_sameSteps _ _ _ _ (by decide))
    · exact h3.trans (c3.put_sameSteps _ _ _ _ (by decide))
    · exact h3
    · exact h4.trans (c4.grant_calm s).sameSteps

theorem Chip.endCore_sameSteps (n : Nat) (v : Verdict) : SameSteps c (c.endCore n v) := by
  unfold Chip.endCore
  split
  · exact SameSteps.refl c
  · split
    · exact SameSteps.refl c
    · extract_lets op c1 c2 c3 c4
      have h3 : SameSteps c c3 :=
        ((c.formBegin_sameSteps n).trans (c1.bump_sameSteps _ _ _ _ (by decide))).trans (c2.modItem_sameSteps n _)
      have h4 : SameSteps c c4 := by
        unfold c4
        split
        · exact h3
        · exact h3.trans (SameSteps.foldl (fun c k => c.formField_sameSteps n k) _ c3)
      clear_value c4
      split
      · exact h4
      · next i _ =>
        extract_lets kinds c5
        have h5 : SameSteps c c5 :=
          h4.trans (SameSteps.foldl_uncut (fun c d => c.form_sameSteps i d 4 (endRec i v d kinds)) _ c4)
        clear_value c5
        split
        · exact h5
        · extract_lets c6 mand wait c7 c8
          have h8 : SameSteps c c8 :=
            (h5.trans (SameSteps.foldl_uncut (fun c d => c.giveSpool_sameSteps d.sess d.left) _ c5)).trans (.aside rfl)
          clear_value c8
          split
          · exact h8.trans (c8.creditReturn_sameSteps n)
          · exact h8

/-- The count of overflow work that ends LATE shares its register with the count of pre-emptions. -/
theorem Chip.bumpOvfLate_sameSteps (i : Nat) : SameSteps c (c.bump F.PART_CNT_OVF_LATE i) where
  toCore := c.put_core _ _ _ _
  running := rfl
  preempt := rfl
  cfg := fun p => c.word_setWord_ne _ (by simp only [Reg.addr, Reg.info, F.PART_CNT_OVF_LATE]; omega)
  count := fun p => by
    by_cases h : p = i
    · rw [h]
      exact c.get_put_field _ _ _ _ _ rfl (by decide) (by decide)
    · refine c.get_put_ne _ _ _ _ _ _ _ ?_
      simp only [Reg.addr, Reg.info, F.PART_CNT_OVF_LATE, F.PART_CNT_PREEMPT]
      omega
  units := fun p => Chip.partUnits_of_word (c.word_setWord_ne _ (by simp only [Reg.addr, Reg.info, F.PART_CNT_OVF_LATE]; omega))

theorem Chip.writeSample_sameSteps (i : Item) (status : Nat) : SameSteps c (c.writeSample i status) := by
  unfold Chip.writeSample
  dsimp only
  split
  · exact SameSteps.refl c
  · exact .aside rfl

theorem Chip.endItem_sameSteps (n : Nat) (v : Verdict) : SameSteps c (c.endItem n v) := by
  unfold Chip.endItem
  split
  · exact SameSteps.refl c
  · next i _ =>
    split
    · exact SameSteps.refl c
    · extract_lets c1 c2 c3
      have h1 : SameSteps c c1 := by
        unfold c1
        split
        · exact c.bumpOvfLate_sameSteps _
        · exact SameSteps.refl c
      exact (((h1.trans (sameSteps_kvClosed.kvFreeItem c1 n)).trans (c2.writeSample_sameSteps i _)).trans
        (c3.modItem_sameSteps n _)).trans (Chip.endCore_sameSteps _ n v)

theorem Chip.endDue_sameSteps (n : Nat) : SameSteps c (c.endDue n) := by
  unfold Chip.endDue
  split
  · exact SameSteps.refl c
  · split
    · exact SameSteps.refl c
    · split
      · exact SameSteps.refl c
      · exact c.endItem_sameSteps n _

end Sys2Proof.Machine
end

section
/-!
PROOFS. Pre-emption: what a pre-emption under way holds as blocks stop and steps are asked to yield (R369, R370).
-/

namespace Sys2Proof.Machine

/-! ## A pre-emption under way -/

theorem mem_smIns {α : Type} {m : SMap α} {k : Nat} {v : α} {e : Nat × α} (h : e ∈ smIns k v m) : e = (k, v) ∨ e ∈ m := by
  induction m with
  | nil => exact .inl (List.mem_singleton.1 h)
  | cons x r ih =>
    unfold smIns at h
    split at h
    · exact (List.mem_cons.1 h)
    · rcases List.mem_cons.1 h with h | h
      · exact .inr (h ▸ List.mem_cons_self)
      · exact (ih h).imp_right (List.mem_cons_of_mem _)

theorem mem_smSet {α : Type} [DecidableEq α] {d : α} {m : SMap α} {k : Nat} {v : α} {e : Nat × α} (h : e ∈ smSet d m k v) :
    e = (k, v) ∨ e ∈ m ∧ e.1 ≠ k := by
  unfold smSet at h
  split at h
  · exact .inr (mem_smDel h)
  · exact (mem_smIns h).imp_right mem_smDel

theorem mem_of_smGet {α : Type} {d v : α} {m : SMap α} {k : Nat} (h : smGet d m k = v) (hv : v ≠ d) : (k, v) ∈ m := by
  induction m with
  | nil => exact absurd h.symm hv
  | cons x r ih =>
    unfold smGet at h
    split at h
    · next hk => exact List.mem_cons.2 (.inl (by rw [← h, ← hk]))
    · exact List.mem_cons_of_mem _ (ih h)

/-- The pre-emption `x` of partition `p`'s blocks is under way, and no other of these blocks. -/
structure Chip.Taken (c : Chip) (p : Nat) (x : Preempt) : Prop where
  found : smGet none c.sched.preempt p = some x
  only : ∀ e ∈ c.sched.preempt, e.1 = p → e.2 = some x

/-- A pre-emption goes on: more blocks may have stopped. -/
structure Preempt.Grows (x y : Preempt) : Prop where
  victim : y.victim = x.victim
  start : y.start = x.start
  spilled : y.spilled = x.spilled
  stopped : ∀ u ∈ x.stopped, u ∈ y.stopped

theorem Preempt.Grows.refl (x : Preempt) : x.Grows x := ⟨rfl, rfl, rfl, fun _ h => h⟩

theorem Preempt.Grows.trans {x y z : Preempt} (h : x.Grows y) (k : y.Grows z) : x.Grows z :=
  ⟨k.victim.trans h.victim, k.start.trans h.start, k.spilled.trans h.spilled, fun u hu => k.stopped u (h.stopped u hu)⟩

variable {c : Chip} {p : Nat} {x : Preempt}

theorem Chip.Taken.congr {d : Chip} (h : c.Taken p x) (hd : d.sched.preempt = c.sched.preempt) : d.Taken p x := by
  obtain ⟨hfound, honly⟩ := h
  rw [← hd] at hfound honly
  exact ⟨hfound, honly⟩

theorem Chip.setPreempt_taken (c : Chip) (p : Nat) (x : Preempt) : (c.setPreempt p (some x)).Taken p x where
  found := smGet_smSet_self c.sched.preempt p (some x)
  only := fun e he hp => by
    change e ∈ smSet none c.sched.preempt p (some x) at he
    exact (mem_smSet he).elim (congrArg Prod.snd) (fun h => absurd hp h.2)

theorem Chip.Taken.setPreempt_ne (h : c.Taken p x) {q : Nat} (hq : q ≠ p) (y : Option Preempt) : (c.setPreempt q y).Taken p x where
  found := (smGet_smSet_ne _ _ hq.symm).trans h.found
  only := fun e he hp => by
    change e ∈ smSet none c.sched.preempt q y at he
    exact (mem_smSet he).elim (fun k => absurd ((congrArg Prod.fst k).symm.trans hp) hq) (fun k => h.only e k.1 hp)

/-! ## A block stops -/

theorem Chip.stopFor_regs (c : Chip) (u q : Nat) (z : Preempt) : (c.stopFor u q z).regs = c.regs := by
  unfold Chip.stopFor
  split
  · rfl
  · have h := c.setHndsInvalid_onlyFreed (c.liveKeys z.victim u)
    exact (congrArg Chip.regs h :)

/-- A block that must stop stops: the pre-emption takes it in. -/
theorem Chip.stopFor_due (c : Chip) {u q : Nat} {z : Preempt} (h : z.spilled = false) (hu : u ∉ z.stopped)
    (hq : u ∈ c.partUnits q) : ∃ (d : Chip) (l : List (Nat × List Gran)), d.sched.preempt = c.sched.preempt ∧
      c.stopFor u q z = d.setPreempt q (some { z with stopped := z.stopped ++ [u], out := l }) := by
  refine ⟨(c.liveKeys z.victim u).foldl (fun c k => c.setHndValid k false) c, z.out ++ ((c.liveKeys z.victim u).filter
    (fun k => !(smGet [] c.sched.spillSet z.victim).contains k)).map (fun k => (k, c.handleGrans (keyRef k))), ?_, ?_⟩
  · have h := c.setHndsInvalid_onlyFreed (c.liveKeys z.victim u)
    exact (congrArg (fun d : Chip => d.sched.preempt) h :)
  · unfold Chip.stopFor
    rw [if_neg (by simp [h, hu, hq])]
    rfl

theorem Chip.stopFor_not_due (c : Chip) {u q : Nat} {z : Preempt} (h : ¬ (z.spilled = false ∧ u ∉ z.stopped ∧ u ∈ c.partUnits q)) :
    c.stopFor u q z = c := by
  unfold Chip.stopFor
  refine if_pos ?_
  by_contra hn
  exact h (by simpa [and_assoc] using hn)

/-- A stop of a block leaves a pre-emption under way, and takes the block in where it is one of the pre-empted ones. -/
theorem Chip.Taken.stopFor {y : Preempt} (h : c.Taken p y) (hg : x.Grows y) {u q : Nat} {z : Preempt} (hz : q = p → z = x) :
    ∃ y', (c.stopFor u q z).Taken p y' ∧ x.Grows y' ∧ (u ∈ y.stopped → u ∈ y'.stopped) ∧
      (q = p → x.spilled = false → u ∈ c.partUnits p → u ∈ y'.stopped) := by
  by_cases hdue : z.spilled = false ∧ u ∉ z.stopped ∧ u ∈ c.partUnits q
  · obtain ⟨hs, hu, hq⟩ := hdue
    obtain ⟨d, l, hd, heq⟩ := c.stopFor_due hs hu hq
    rw [heq]
    by_cases hqp : q = p
    · obtain rfl := hz hqp
      obtain rfl := hqp
      have hin : u ∈ z.stopped ++ [u] := List.mem_append_right _ List.mem_cons_self
      exact ⟨_, d.setPreempt_taken q _, ⟨rfl, rfl, rfl, fun _ h => List.mem_append_left _ h⟩, fun _ => hin, fun _ _ _ => hin⟩
    · exact ⟨y, (h.congr hd).setPreempt_ne hqp _, hg, id, fun h => absurd h hqp⟩
  · rw [c.stopFor_not_due hdue]
    refine ⟨y, h, hg, id, fun hqp hs hu => ?_⟩
    obtain rfl := hz hqp
    obtain rfl := hqp
    by_contra hny
    exact hdue ⟨hs, fun hx => hny (hg.stopped u hx), hu⟩

/-- A block stops for each pre-emption of a list. -/
def Chip.stopAll (c : Chip) (u : Nat) (l : SMap (Option Preempt)) : Chip := l.foldl (fun c e => match e.2 with
  | some x => c.stopFor u e.1 x
  | none => c) c

theorem Chip.stopAll_regs (c : Chip) (u : Nat) (l : SMap (Option Preempt)) : (c.stopAll u l).regs = c.regs := by
  induction l generalizing c with
  | nil => rfl
  | cons e l ih =>
    refine (ih _).trans ?_
    dsimp only
    split
    · exact c.stopFor_regs _ _ _
    · rfl

theorem Chip.Taken.stopAll {y : Preempt} (h : c.Taken p y) (hg : x.Grows y) (u : Nat) {l : SMap (Option Preempt)}
    (hl : ∀ e ∈ l, e.1 = p → e.2 = some x) :
    ∃ y', (c.stopAll u l).Taken p y' ∧ x.Grows y' ∧ (u ∈ y.stopped → u ∈ y'.stopped) ∧
      ((∃ e ∈ l, e.1 = p) → x.spilled = false → u ∈ c.partUnits p → u ∈ y'.stopped) := by
  induction l generalizing c y with
  | nil => exact ⟨y, h, hg, id, fun ⟨_, he, _⟩ => absurd he List.not_mem_nil⟩
  | cons e l ih =>
    have hrest := fun e he => hl e (List.mem_cons_of_mem _ he)
    have hhead := hl e List.mem_cons_self
    obtain ⟨q, z | z⟩ := e
    · obtain ⟨y', hy, hgy, hkeep, hnew⟩ := ih h hg hrest
      refine ⟨y', hy, hgy, hkeep, fun ⟨e, he, hp⟩ => hnew ?_⟩
      rcases List.mem_cons.1 he with rfl | he
      · exact absurd (hhead hp) (by simp)
      · exact ⟨e, he, hp⟩
    · obtain ⟨y₁, h₁, hg₁, hkeep₁, hnew₁⟩ := h.stopFor hg (u := u) (q := q) (z := z) (fun hp => Option.some.inj (hhead hp))
      obtain ⟨y', hy, hgy, hkeep, hnew⟩ := ih h₁ hg₁ hrest
      refine ⟨y', hy, hgy, fun hu => hkeep (hkeep₁ hu), fun ⟨e, he, hp⟩ hs hu => ?_⟩
      rcases List.mem_cons.1 he with rfl | he
      · exact hkeep (hnew₁ hp hs hu)
      · refine hnew ⟨e, he, hp⟩ hs ?_
        unfold Chip.partUnits
        rwa [Chip.get_congr (c.stopFor_regs u q z)]

theorem Chip.Taken.stopBlock (h : c.Taken p x) (u : Nat) :
    ∃ y, (c.stopBlock u).Taken p y ∧ x.Grows y ∧ (x.spilled = false → u ∈ c.partUnits p → u ∈ y.stopped) := by
  obtain ⟨y, hy, hg, _, hnew⟩ := h.stopAll (Preempt.Grows.refl x) u h.only
  exact ⟨y, hy, hg, hnew ⟨_, mem_of_smGet h.found (Option.some_ne_none x), rfl⟩⟩

/-! ## Yield requests -/

/-- From `a` to `b` steps may have ended and blocks stopped or come back: what is under way against partition `p` goes on; its
count of pre-emptions and the partitions' blocks stay. -/
structure Yields (p : Nat) (a b : Chip) : Prop extends a.Core b where
  count : b.get F.PART_CNT_PREEMPT p = a.get F.PART_CNT_PREEMPT p
  units : ∀ q, b.partUnits q = a.partUnits q
  held : ∀ x, a.Taken p x → ∃ y, b.Taken p y ∧ x.Grows y

theorem Yields.trans {a b c : Chip} (h : Yields p a b) (k : Yields p b c) : Yields p a c where
  toCore := h.toCore.trans k.toCore
  count := k.count.trans h.count
  units := fun q => (k.units q).trans (h.units q)
  held := fun x hx => by
    obtain ⟨y, hy, hxy⟩ := h.held x hx
    obtain ⟨z, hz, hyz⟩ := k.held y hy
    exact ⟨z, hz, hxy.trans hyz⟩

theorem SameSteps.yields {a b : Chip} (h : SameSteps a b) : Yields p a b :=
  ⟨h.toCore, h.count p, h.units, fun x hx => ⟨x, hx.congr h.preempt, Preempt.Grows.refl x⟩⟩

theorem Yields.refl (a : Chip) : Yields p a a := (SameSteps.refl a).yields

theorem Yields.foldl {β : Type} {g : Chip → β → Chip} (hg : ∀ c x, Yields p c (g c x)) (l : List β) (c : Chip) :
    Yields p c (l.foldl g c) := by
  induction l generalizing c with
  | nil => exact Yields.refl c
  | cons x l ih => exact (hg c x).trans (ih _)

/-- The registers stay, and so do the pre-emptions. -/
theorem Yields.of_regs {a b : Chip} (hc : a.Core b) (hr : b.regs = a.regs)
    (hh : ∀ x, a.Taken p x → ∃ y, b.Taken p y ∧ x.Grows y) : Yields p a b :=
  ⟨hc, Chip.get_congr hr _ _ _, fun _ => congrArg (maskBits 32) (Chip.get_congr hr _ _ _), hh⟩

variable (c)

theorem Chip.setRun_yields (u : Nat) (r : Option StepRun) : Yields p c (c.setRun u r) :=
  .of_regs (c.updSched_core _) rfl (fun x hx => ⟨x, hx.congr rfl, Preempt.Grows.refl x⟩)

theorem Chip.stopBlock_yields (u : Nat) : Yields p c (c.stopBlock u) :=
  .of_regs (c.stopBlock_passes u).core (c.stopAll_regs u _) (fun _ hx => have ⟨y, hy, hg, _⟩ := hx.stopBlock u; ⟨y, hy, hg⟩)

/-- LENT lies apart from the counts and the blocks. -/
theorem Chip.putLent_yields (v : Bool) (q : Nat) : Yields p c (c.putB F.PART_CFG_LENT v q) where
  toCore := c.put_core _ _ _ _
  count := c.get_putB_ne _ _ _ _ _ _ _ (by simp only [Reg.addr, Reg.info, F.PART_CFG_LENT, F.PART_CNT_PREEMPT]; omega)
  units := fun k => congrArg (maskBits 32)
    (c.get_putB_ne _ _ _ _ _ _ _ (by simp only [Reg.addr, Reg.info, F.PART_CFG_LENT, F.PART_BLK_BLOCKS]; omega))
  held := fun x hx => ⟨x, hx.congr rfl, Preempt.Grows.refl x⟩

theorem Chip.setLent_yields (q : Nat) (on : Bool) : Yields p c (c.setLent q on) :=
  (c.putLent_yields on q).trans (Chip.putLent_yields _ _ _)

theorem Chip.unlend_yields (q : Nat) : Yields p c (c.unlend q) := by
  refine (c.setLent_yields q false).trans ?_
  have h := c.unlend_onlyFreed q
  exact .of_regs h.unlends.toCore (congrArg Chip.regs h :)
    (fun x hx => ⟨x, hx.congr (congrArg Sched.preempt h.unlends.sched :), Preempt.Grows.refl x⟩)

theorem Chip.returnLent_yields : Yields p c c.returnLent := by
  refine Yields.foldl (fun c q => ?_) _ c
  dsimp only
  split
  · exact c.unlend_yields q
  · exact Yields.refl c

theorem Chip.vacate_yields (u : Nat) : Yields p c (c.vacate u) :=
  ((c.setRun_yields u none).trans (Chip.stopBlock_yields _ u)).trans (Chip.returnLent_yields _)

/-- A unit that its step has left is vacated; then waiting edits run and an item may end. -/
theorem Chip.unitFree_sameSteps (u : Nat) (item : Option Nat) : SameSteps (c.vacate u) (c.unitFree u item) := by
  have h := sameSteps_kvClosed.kvRun (c.vacate u)
  cases item with
  | none => exact h
  | some n => exact h.trans (Chip.endDue_sameSteps _ n)

theorem Chip.undoSlots_sameSteps (u : Nat) : SameSteps c (c.undoSlots u) := by
  cases hr : c.runOf u with
  | none =>
    unfold Chip.undoSlots
    rw [hr]
    exact SameSteps.refl c
  | some run =>
    rw [(c.undoSlots_undone hr).only]
    exact .aside rfl

theorem SameSteps.runOf {a b : Chip} (h : SameSteps a b) (u : Nat) : b.runOf u = a.runOf u := by
  unfold Chip.runOf
  rw [h.running]

section
variable {c} {u : Nat} {run : StepRun} (hr : c.runOf u = some run)
include hr

theorem Chip.rollBack_eq : c.rollBack u = (c.undoSlots u).unitFree u run.desc.item := by
  unfold Chip.rollBack
  rw [hr]

theorem Chip.rollBack_runOf_self : (c.rollBack u).runOf u = none := by
  rw [Chip.rollBack_eq hr, (Chip.unitFree_sameSteps _ u _).runOf, Chip.vacate_runOf]

theorem Chip.rollBack_runOf_ne {v : Nat} (hv : v ≠ u) : (c.rollBack u).runOf v = c.runOf v := by
  rw [Chip.rollBack_eq hr, (Chip.unitFree_sameSteps _ u _).runOf, Chip.vacate_runOf_ne _ hv, (c.undoSlots_sameSteps u).runOf]

theorem Chip.rollBack_yields : Yields p c (c.rollBack u) := by
  rw [Chip.rollBack_eq hr]
  exact ((c.undoSlots_sameSteps u).yields.trans (Chip.vacate_yields _ u)).trans (Chip.unitFree_sameSteps _ u _).yields

end

/-- What a yield request makes of the step it reaches. -/
def StepRun.yielded (run : StepRun) : Option StepRun := if run.desc.ext then none else some { run with yield := true }

theorem Chip.yieldBlock_idle {u : Nat} (hr : c.runOf u = none) : c.yieldBlock u = c.stopBlock u := by
  unfold Chip.yieldBlock
  rw [hr]

theorem Chip.yieldBlock_busy {u : Nat} {run : StepRun} (hr : c.runOf u = some run) :
    c.yieldBlock u = if run.desc.ext then c.rollBack u else c.setRun u (some { run with yield := true }) := by
  unfold Chip.yieldBlock Chip.modRun
  rw [hr]

theorem Chip.yieldBlock_runOf_ne {u v : Nat} (hv : v ≠ u) : (c.yieldBlock u).runOf v = c.runOf v := by
  cases hr : c.runOf u with
  | none =>
    rw [c.yieldBlock_idle hr]
    unfold Chip.runOf
    rw [(c.stopBlock_passes u).running]
  | some run =>
    rw [c.yieldBlock_busy hr]
    split
    · exact Chip.rollBack_runOf_ne hr hv
    · exact c.runOf_setRun_ne hv _

theorem Chip.yieldBlock_runOf_self {u : Nat} {run : StepRun} (hr : c.runOf u = some run) :
    (c.yieldBlock u).runOf u = run.yielded := by
  rw [c.yieldBlock_busy hr]
  unfold StepRun.yielded
  split
  · exact Chip.rollBack_runOf_self hr
  · exact c.runOf_setRun_self _ _

theorem Chip.yieldBlock_yields (u : Nat) : Yields p c (c.yieldBlock u) := by
  cases hr : c.runOf u with
  | none =>
    rw [c.yieldBlock_idle hr]
    exact c.stopBlock_yields u
  | some run =>
    rw [c.yieldBlock_busy hr]
    split
    · exact Chip.rollBack_yields hr
    · exact c.setRun_yields _ _

/-! ## All blocks of a partition -/

theorem Chip.yieldBlocks_runOf_ne {l : List Nat} {v : Nat} (hv : v ∉ l) : (l.foldl Chip.yieldBlock c).runOf v = c.runOf v := by
  induction l generalizing c with
  | nil => rfl
  | cons u l ih =>
    obtain ⟨hvu, hvl⟩ := not_or.1 (mt List.mem_cons.2 hv)
    exact (ih _ hvl).trans (c.yieldBlock_runOf_ne hvu)

theorem Chip.yieldBlocks_runOf {l : List Nat} (hl : l.Nodup) {u : Nat} (hu : u ∈ l) {run : StepRun} (hr : c.runOf u = some run) :
    (l.foldl Chip.yieldBlock c).runOf u = run.yielded := by
  induction l generalizing c with
  | nil => cases hu
  | cons v l ih =>
    obtain ⟨hv, hl⟩ := List.nodup_cons.1 hl
    rw [List.foldl_cons]
    by_cases h : u = v
    · rw [← h, Chip.yieldBlocks_runOf_ne _ (h ▸ hv), c.yieldBlock_runOf_self hr]
    · exact ih _ hl ((List.mem_cons.1 hu).resolve_left h) ((c.yieldBlock_runOf_ne h).trans hr)

/-- Every idle block has stopped. -/
theorem Chip.Taken.yieldBlocks {c : Chip} {x : Preempt} (h : c.Taken p x) (hs : x.spilled = false) {l : List Nat} (hl : l.Nodup)
    (hp : ∀ u ∈ l, u ∈ c.partUnits p) :
    ∃ y, (l.foldl Chip.yieldBlock c).Taken p y ∧ x.Grows y ∧ ∀ u ∈ l, c.runOf u = none → u ∈ y.stopped := by
  induction l generalizing c x with
  | nil => exact ⟨x, h, Preempt.Grows.refl x, fun _ hu => absurd hu List.not_mem_nil⟩
  | cons v l ih =>
    obtain ⟨hv, hl⟩ := List.nodup_cons.1 hl
    have hstep : ∃ y, (c.yieldBlock v).Taken p y ∧ x.Grows y ∧ (c.runOf v = none → v ∈ y.stopped) := by
      cases hr : c.runOf v with
      | none =>
        obtain ⟨y, hy, hg, hstop⟩ := h.stopBlock v
        rw [c.yieldBlock_idle hr]
        exact ⟨y, hy, hg, fun _ => hstop hs (hp v List.mem_cons_self)⟩
      | some run =>
        obtain ⟨y, hy, hg⟩ := (c.yieldBlock_yields v).held x h
        exact ⟨y, hy, hg, fun h => nomatch h⟩
    obtain ⟨y, hy, hxy, hstop⟩ := hstep
    obtain ⟨z, hz, hyz, hrest⟩ := ih hy (hxy.spilled.trans hs) hl
      (fun u hu => ((c.yieldBlock_yields (p := p) v).units p) ▸ hp u (List.mem_cons_of_mem _ hu))
    refine ⟨z, hz, hxy.trans hyz, fun u hu hr => ?_⟩
    rcases List.mem_cons.1 hu with rfl | hu
    · exact hyz.stopped u (hstop hr)
    · exact hrest u hu ((c.yieldBlock_runOf_ne (fun e : u = v => hv (e ▸ hu))).trans hr)

/-! ## Decode lanes -/

/-- A decode lane abandons its step of partition `b` where that waits for a record still arriving. -/
def Chip.yieldLane (b : Nat) (c : Chip) (u : Nat) : Chip :=
  match c.runOf u with
  | some run =>
    if run.desc.part.val = b ∧ run.desc.ext = true ∧ (run.desc.item.bind c.item).any (fun i => !i.complete) = true
    then c.rollBack u else c
  | none => c

theorem Chip.yieldLanes_eq (b : Nat) : c.yieldLanes b = [36, 37, 38, 39].foldl (Chip.yieldLane b) c := rfl

theorem Chip.yieldLane_yields (b u : Nat) : Yields p c (Chip.yieldLane b c u) := by
  unfold Chip.yieldLane
  split
  · next hr =>
    split
    · exact Chip.rollBack_yields hr
    · exact Yields.refl c
  · exact Yields.refl c

theorem Chip.yieldLane_runOf_ne (b : Nat) {u v : Nat} (hv : v ≠ u) : (Chip.yieldLane b c u).runOf v = c.runOf v := by
  unfold Chip.yieldLane
  split
  · next hr =>
    split
    · exact Chip.rollBack_runOf_ne hr hv
    · rfl
  · rfl

theorem Chip.yieldLanes_yields (b : Nat) : Yields p c (c.yieldLanes b) := Yields.foldl (fun c u => c.yieldLane_yields b u) _ c

/-- The blocks go on with their steps. -/
theorem Chip.yieldLanes_runOf (b : Nat) {v : Nat} (hv : v < 36) : (c.yieldLanes b).runOf v = c.runOf v := by
  rw [c.yieldLanes_eq]
  simp only [List.foldl_cons, List.foldl_nil]
  rw [Chip.yieldLane_runOf_ne _ b (by omega), Chip.yieldLane_runOf_ne _ b (by omega), Chip.yieldLane_runOf_ne _ b (by omega),
    Chip.yieldLane_runOf_ne _ b (by omega)]

end Sys2Proof.Machine
end

section
/-!
PROOFS. Pre-emption of a partition's blocks, lending that is undone, the spill and the restore of what a borrower holds there.
-/

namespace Sys2Proof.Machine

variable (c : Chip) {p : Nat}

/-! ## The beginning of a pre-emption -/

theorem exec_preemption_up (s : State) (p : Fin 16) (hup : s.chip.Up) :
    exec (.preemption p) s = .next ⟨s.pending, (s.chip.preemption p.val).settle⟩ := by
  simp only [exec_preemption, Chip.serving_eq _ hup.1 hup.2]

theorem Chip.preemption_not (h : (c.wantsBack p || c.switchTakes p) = false ∨ (smGet none c.sched.preempt p).isSome = true) :
    c.preemption p = c := by
  unfold Chip.preemption
  rw [if_pos]
  rcases h with h | h <;> simp [h]

/-- Lending that has not yet taken effect is undone (R374). -/
theorem Chip.preemption_early (hback : (c.wantsBack p || c.switchTakes p) = true)
    (hbusy : (smGet none c.sched.preempt p).isSome = false) (hl : c.lends p = true)
    (hat : smGet 0 c.sched.lendAt p = c.courseK + 1) : c.preemption p = c.undoLending p := by
  unfold Chip.preemption
  rw [if_neg (by simp [hback, hbusy]), if_pos ⟨hl, hat⟩]

/-- A pre-emption of partition `p`'s blocks begins and is counted. -/
def Chip.beginPreempt (c : Chip) (p victim : Nat) : Chip :=
  (c.setPreempt p (some ⟨victim, c.upNs, false, [], []⟩)).bump F.PART_CNT_PREEMPT p

theorem Chip.preemption_due (hback : (c.wantsBack p || c.switchTakes p) = true)
    (hbusy : (smGet none c.sched.preempt p).isSome = false)
    (hearly : ¬ (c.lends p = true ∧ smGet 0 c.sched.lendAt p = c.courseK + 1)) {victim : Nat}
    (hv : victim = if c.lends p then c.get F.PART_CFG_BORROWER p else p) :
    c.preemption p = ((c.beginPreempt p victim).partUnits p).foldl Chip.yieldBlock ((c.beginPreempt p victim).yieldLanes victim) := by
  unfold Chip.preemption
  rw [if_neg (by simp [hback, hbusy]), if_neg hearly, hv]
  rfl

/-- Blocks are taken from the borrower of an LC partition, and from a BE partition itself. -/
theorem Chip.victim_eq (hback : (c.wantsBack p || c.switchTakes p) = true) :
    (if c.flag F.PART_CFG_KIND p then p else c.get F.PART_CFG_BORROWER p) =
      if c.lends p then c.get F.PART_CFG_BORROWER p else p := by
  unfold Chip.wantsBack Chip.switchTakes Chip.lends at hback
  unfold Chip.lends
  cases hk : c.flag F.PART_CFG_KIND p with
  | true => simp
  | false =>
    have hl : c.flag F.PART_CFG_LENT p = true := by
      rw [hk] at hback
      simp at hback
      exact hback.1
    simp [hl]

theorem Chip.partUnits_nodup (p : Nat) : (c.partUnits p).Nodup := List.nodup_range.filter _

theorem Chip.partUnits_lt {u : Nat} (h : u ∈ c.partUnits p) : u < 32 := List.mem_range.1 (List.mem_filter.1 h).1

section
variable (victim : Nat)

theorem Chip.beginPreempt_units : (c.beginPreempt p victim).partUnits p = c.partUnits p :=
  congrArg (maskBits 32) (Chip.get_put_ne _ F.PART_CNT_PREEMPT F.PART_BLK_BLOCKS _ p 0 p 0
    (by simp only [Reg.addr, Reg.info, F.PART_CNT_PREEMPT, F.PART_BLK_BLOCKS]; omega))

theorem Chip.beginPreempt_taken : (c.beginPreempt p victim).Taken p ⟨victim, c.upNs, false, [], []⟩ :=
  (c.setPreempt_taken p _).congr rfl

theorem Chip.beginPreempt_counted (hp : p < 16) : c.Counted (c.beginPreempt p victim) F.PART_CNT_PREEMPT p :=
  (c.setPreempt p (some ⟨victim, c.upNs, false, [], []⟩)).bump_counted F.PART_CNT_PREEMPT (partCnt_has hp) (by decide)

theorem Chip.beginPreempt_core : c.Core (c.beginPreempt p victim) := (c.updSched_core _).trans (Chip.put_core _ _ _ _ _)

/-- The blocks of a partition are pre-empted: steps are asked to yield, idle blocks have stopped. -/
structure Chip.Preempted (c t : Chip) (p victim : Nat) : Prop extends c.Core t where
  taken : ∃ x, t.Taken p x ∧ x.start = c.upNs ∧ x.spilled = false ∧ x.victim = victim ∧
    ∀ u ∈ c.partUnits p, c.runOf u = none → u ∈ x.stopped
  counted : c.Counted t F.PART_CNT_PREEMPT p
  yields : ∀ u run, u ∈ c.partUnits p → c.runOf u = some run → t.runOf u = run.yielded

theorem Chip.beginPreempt_preempted (hp : p < 16) : c.Preempted
    (((c.beginPreempt p victim).partUnits p).foldl Chip.yieldBlock ((c.beginPreempt p victim).yieldLanes victim)) p victim := by
  have hlanes := (c.beginPreempt p victim).yieldLanes_yields (p := p) victim
  have hall := hlanes.trans (Yields.foldl (fun c u => c.yieldBlock_yields u) ((c.beginPreempt p victim).partUnits p) _)
  have hrun : ∀ u ∈ c.partUnits p, ((c.beginPreempt p victim).yieldLanes victim).runOf u = c.runOf u := fun u hu =>
    Chip.yieldLanes_runOf _ victim (Nat.lt_trans (c.partUnits_lt hu) (by decide))
  have hunits := c.beginPreempt_units (p := p) victim
  obtain ⟨y, hy, hgy⟩ := hlanes.held _ (c.beginPreempt_taken victim)
  obtain ⟨z, hz, hyz, hstop⟩ := hy.yieldBlocks hgy.spilled (Chip.partUnits_nodup _ p) (fun u hu => (hlanes.units p).symm ▸ hu)
  have hxz := hgy.trans hyz
  refine { toCore := (c.beginPreempt_core victim).trans hall.toCore, taken := ?_, counted := ?_, yields := fun u run hu hr => ?_ }
  · refine ⟨z, hz, hxz.start, hxz.spilled, hxz.victim, fun u hu hr => hstop u (hunits ▸ hu) ?_⟩
    rw [hrun u hu, hr]
  · exact hall.count.trans (c.beginPreempt_counted victim hp)
  · exact Chip.yieldBlocks_runOf _ (Chip.partUnits_nodup _ p) (hunits ▸ hu) ((hrun u hu).trans hr)

end

theorem Chip.Preempted.settle {c t : Chip} {victim : Nat} (h : c.Preempted t p victim) : c.Preempted t.settle p victim where
  toCore := h.toCore.trans (Chip.settle_core t)
  taken := have ⟨x, hx, hrest⟩ := h.taken; ⟨x, hx.congr (congrArg Sched.preempt t.settle_sched), hrest⟩
  counted := Chip.Counted.settle c h.counted (by decide)
  yields := fun u run hu hr => (Chip.settle_runOf t u).trans (h.yields u run hu hr)

/-! ## Loans that end -/

theorem OnlyFreed.regs {a b : Chip} (h : OnlyFreed a b) : b.regs = a.regs := by
  unfold OnlyFreed at h
  rw [h]

/-- A partition that is its own borrower apart, its blocks are lent no more. -/
theorem Chip.setLent_lent (hp : p < 16) (hb : c.get F.PART_CFG_BORROWER p ≠ p) :
    (c.setLent p false).flag F.PART_CFG_LENT p = false := by
  unfold Chip.setLent
  extract_lets b c1
  have h1 : c1.flag F.PART_CFG_LENT p = false := c.flag_putB_self F.PART_CFG_LENT false p 0 (partCfg_has hp) (by decide) rfl
  refine (Chip.flag_congr (c1.get_putB_ne _ _ _ _ _ _ _ ?_)).trans h1
  simp only [Reg.addr, Reg.info, F.PART_CFG_LENT]
  omega

theorem Chip.unlend_lent (hp : p < 16) (hb : c.get F.PART_CFG_BORROWER p ≠ p) : (c.unlend p).flag F.PART_CFG_LENT p = false :=
  (Chip.flag_congr (Chip.get_congr (c.unlend_onlyFreed p).regs _ _ _)).trans (c.setLent_lent hp hb)

theorem Chip.undoLending_lent (hp : p < 16) (hb : c.get F.PART_CFG_BORROWER p ≠ p) :
    (c.undoLending p).flag F.PART_CFG_LENT p = false := c.unlend_lent hp hb

theorem Chip.undoLending_core (p : Nat) : c.Core (c.undoLending p) := (c.unlend_unlends p).toCore.trans (Chip.updSched_core _ _)

theorem Chip.undoLending_preempt (p : Nat) : (c.undoLending p).sched.preempt = c.sched.preempt :=
  (congrArg Sched.preempt (c.unlend_unlends p).sched :)

/-! ## The spill -/

theorem exec_spillComplete_up (s : State) (p : Fin 16) (hup : s.chip.Up) :
    exec (.spillComplete p) s = .next ⟨s.pending, (s.chip.spillComplete p.val).settle⟩ := by
  simp only [exec_spillComplete, Chip.serving_eq _ hup.1 hup.2]

theorem Chip.spillComplete_none (h : (smGet none c.sched.preempt p).isSome = false) : c.spillComplete p = c := by
  unfold Chip.spillComplete
  rw [Option.isNone_iff_eq_none.1 (Option.isSome_eq_false_iff.1 h)]

theorem Chip.spillComplete_waits {x : Preempt} (hx : smGet none c.sched.preempt p = some x)
    (h : ∃ u, u ∈ c.partUnits p ∧ u ∉ x.stopped) : c.spillComplete p = c := by
  obtain ⟨u, hu, hn⟩ := h
  have hall : (c.partUnits p).all x.stopped.contains = false := List.all_eq_false.2 ⟨u, hu, by simpa using hn⟩
  unfold Chip.spillComplete
  rw [hx]
  dsimp only
  rw [hall, if_pos (by simp)]

/-- What the spill of the blocks of partition `p` for pre-emption `x` brings. -/
structure Chip.Spilled (c t : Chip) (p : Nat) (x : Preempt) : Prop extends c.Core t where
  preempt : smGet none t.sched.preempt p = some { x with spilled := true }
  spills : c.get F.PART_CFG_STATE x.victim = 3 →
    smGet [] t.sched.spillSet x.victim = smGet [] c.sched.spillSet x.victim ++ x.out.map (·.1)
  lent : c.flag F.PART_CFG_KIND p = false → t.flag F.PART_CFG_LENT p = false

theorem KvWork.sched {a b : Chip} (h : KvWork a b) : b.sched = a.sched := by rw [h.only]

theorem Chip.kvRun_sched : c.kvRun.sched = c.sched := (kvDrain_kvWork c _).sched

theorem MemWork.sched {a b : Chip} (h : MemWork a b) : b.sched = a.sched := by rw [h.only]

theorem Chip.setPreempt_regs (q : Nat) (x : Option Preempt) : (c.setPreempt q x).regs = c.regs := rfl

theorem Chip.setPreempt_spillSet (q : Nat) (x : Option Preempt) : (c.setPreempt q x).sched.spillSet = c.sched.spillSet := rfl

theorem Chip.spillComplete_spilled {x : Preempt} (hx : smGet none c.sched.preempt p = some x) (hs : x.spilled = false)
    (hall : ∀ u, u ∈ c.partUnits p → u ∈ x.stopped) (hp : p < 16) (hb : c.get F.PART_CFG_BORROWER p ≠ p) :
    c.Spilled (c.spillComplete p) p x := by
  have hstop : (c.partUnits p).all x.stopped.contains = true := List.all_eq_true.2 fun u hu => by simpa using hall u hu
  unfold Chip.spillComplete
  rw [hx]
  dsimp -zeta only
  rw [if_neg (by simp [hs, hstop])]
  extract_lets b c1 c2 keep c3 c4
  have h1 : SameSteps c c1 := SameSteps.foldl (fun c _ => c.carry_sameSteps _) _ _
  have hm1 : MemWork c c1 := MemWork.foldl (fun c _ => c.carry_memWork _) _ _
  have h2 : OnlyFreed c1 c2 := c1.freeBlocks_onlyFreed _
  have hcfg : ∀ f i, f.reg = .PART_CFG → c2.get f i = c.get f i := fun f i hf =>
    (Chip.get_congr h2.regs _ _ _).trans (Chip.get_of_word f (hf ▸ h1.cfg i))
  have hset : c2.sched.spillSet = c.sched.spillSet := by rw [h2.unlends.sched, hm1.sched]
  have hregs3 : c3.regs = c2.regs := rfl
  have hset3 : c3.sched.spillSet = if keep then smMod [] c2.sched.spillSet b (· ++ x.out.map (·.1)) else c2.sched.spillSet := rfl
  have h4 : Unlends c3 c4 := by
    unfold c4
    split
    · exact Unlends.refl c3
    · exact c3.setLent_unlends p false
  have h5 := sameSteps_kvClosed.kvRun (c4.setPreempt p (some { x with spilled := true }))
  refine { toCore := ?_, preempt := ?_, spills := fun hst => ?_, lent := fun hk => ?_ }
  · exact ((((h1.toCore.trans h2.unlends.toCore).trans (c2.updSched_core _)).trans h4.toCore).trans
      (c4.updSched_core _)).trans h5.toCore
  · rw [Chip.kvRun_sched]
    exact (c4.setPreempt_taken p _).found
  · have hkeep : keep = true := decide_eq_true ((hcfg F.PART_CFG_STATE b rfl).trans hst)
    rw [Chip.kvRun_sched, Chip.setPreempt_spillSet, h4.sched, hset3, if_pos hkeep, hset, smGet_smMod, if_pos rfl]
  · have hk3 : c3.flag F.PART_CFG_KIND p = false :=
      (Chip.flag_congr ((Chip.get_congr hregs3 _ _ _).trans (hcfg F.PART_CFG_KIND p rfl))).trans hk
    have hb3 : c3.get F.PART_CFG_BORROWER p ≠ p := fun h =>
      hb ((hcfg F.PART_CFG_BORROWER p rfl).symm.trans ((Chip.get_congr hregs3 _ _ _).symm.trans h))
    have hc4 : c4 = c3.setLent p false := if_neg (by simp [hk3])
    have hl4 : c4.flag F.PART_CFG_LENT p = false := by
      rw [hc4]
      exact c3.setLent_lent hp hb3
    exact (Chip.flag_congr (Chip.get_of_word F.PART_CFG_LENT (h5.cfg p))).trans
      ((Chip.flag_congr (Chip.get_congr (c4.setPreempt_regs p _) _ _ _)).trans hl4)

theorem Chip.Spilled.settle {c t : Chip} {x : Preempt} (h : c.Spilled t p x) : c.Spilled t.settle p x where
  toCore := h.toCore.trans (Chip.settle_core t)
  preempt := by
    rw [t.settle_sched]
    exact h.preempt
  spills := by
    rw [t.settle_sched]
    exact h.spills
  lent := fun hk => (Chip.flag_congr (t.settle_calm.get_apart (by decide))).trans (h.lent hk)

/-! ## The restore -/

theorem exec_spillRestore_up (s : State) (p : Fin 16) (hup : s.chip.Up) :
    exec (.spillRestore p) s = .next ⟨s.pending, (s.chip.spillRestore p.val).settle⟩ := by
  simp only [exec_spillRestore, Chip.serving_eq _ hup.1 hup.2]

/-- The borrower of an LC partition's blocks, or the BE partition itself. -/
def Chip.borrowerOf (c : Chip) (p : Nat) : Nat := if c.flag F.PART_CFG_KIND p then p else c.get F.PART_CFG_BORROWER p

/-- The spilled handles of a partition whose blocks it borrows again. -/
def Chip.restorable (c : Chip) (b : Nat) : List Nat :=
  (smGet [] c.sched.spillSet b).filter (fun k => (c.borrowed b).contains (k / 64))

/-- The content of a spilled handle is copied back to its block. -/
def Chip.restoreKey (b : Nat) (c : Chip) (k : Nat) : Chip := (c.carry ((c.spillGrans b k).zip (c.handleGrans (keyRef k)))).1

theorem Chip.restoreKeys_memWork (b : Nat) (l : List Nat) : MemWork c (l.foldl (Chip.restoreKey b) c) :=
  MemWork.foldl (fun c _ => c.carry_memWork _) l c

/-- The handles that are copied back wait no more. -/
def Chip.unspill (c : Chip) (b : Nat) (back : List Nat) : Chip :=
  c.updSched (fun s => { s with spillSet := smMod [] s.spillSet b (fun l => l.filter (fun k => !back.contains k)) })

theorem Chip.unspill_core (b : Nat) (back : List Nat) : c.Core (c.unspill b back) := c.updSched_core _

theorem Chip.spillRestore_eq (p : Nat) : c.spillRestore p =
    ((c.restorable (c.borrowerOf p)).foldl (Chip.restoreKey (c.borrowerOf p)) c).unspill (c.borrowerOf p)
      (c.restorable (c.borrowerOf p)) := rfl

theorem Chip.spillRestore_mem (p : Nat) :
    (c.spillRestore p).mem = ((c.restorable (c.borrowerOf p)).foldl (Chip.restoreKey (c.borrowerOf p)) c).mem := rfl

theorem Chip.spillRestore_spillSet (p : Nat) : smGet [] (c.spillRestore p).sched.spillSet (c.borrowerOf p) =
    (smGet [] c.sched.spillSet (c.borrowerOf p)).filter (fun k => !(c.borrowed (c.borrowerOf p)).contains (k / 64)) := by
  have hm := c.restoreKeys_memWork (c.borrowerOf p) (c.restorable (c.borrowerOf p))
  rw [c.spillRestore_eq, hm.only]
  refine (smGet_smMod _ _ _ _).trans ((if_pos rfl).trans (List.filter_congr fun k hk => ?_))
  simp only [Chip.restorable, List.contains_eq_mem, List.mem_filter, hk, true_and, decide_eq_true_eq]

theorem Chip.spillRestore_core (p : Nat) : c.Core (c.spillRestore p) := by
  rw [c.spillRestore_eq]
  exact (c.restoreKeys_memWork (c.borrowerOf p) (c.restorable (c.borrowerOf p))).core.trans (Chip.unspill_core _ _ _)

theorem Chip.spillRestore_items (p : Nat) : (c.spillRestore p).items = c.items :=
  (c.restoreKeys_memWork (c.borrowerOf p) (c.restorable (c.borrowerOf p))).items

/-! ## The obligation -/

/-- Settles O41: the pre-emption begun is followed through the yield requests to decode lanes and blocks, which leave it under way
with every idle block stopped; the spill and the restore write memories, and the loan ends on PART_CFG alone. -/
theorem preemptionTakesBlocks : Obligations.PreemptionTakesBlocks := by
  unfold Obligations.PreemptionTakesBlocks
  intro s p hup
  set c := s.chip with hc
  refine ⟨fun h => ?_, fun h hbusy hearly => ?_, fun h hbusy hearly hb => ?_, fun h => ?_,
    fun x hx hs => ⟨fun h => ?_, fun hall hb => ?_⟩, ?_⟩
  · rw [exec_preemption_up s p hup, c.preemption_not h]
  · have heq := c.preemption_due h hbusy (fun ⟨hl, hat⟩ => hearly ?_) (c.victim_eq h)
    · have hpre := heq ▸ (c.beginPreempt_preempted _ p.isLt).settle
      obtain ⟨x, hx, hstart, hspill, hvictim, hstop⟩ := hpre.taken
      exact ⟨_, x, exec_preemption_up s p hup, rfl, hx.found, hstart, hspill, hvictim, hpre.counted, hpre.yields, hstop,
        hpre.toCore⟩
    · obtain ⟨hlent, hkind⟩ := Bool.and_eq_true_iff.1 hl
      exact ⟨hlent, by simpa using hkind, hat⟩
  · obtain ⟨hlent, hkind, hat⟩ := hearly
    have hl : c.lends p.val = true := by
      unfold Chip.lends
      rw [hlent, hkind]
      rfl
    have hwant : (c.wantsBack p.val || c.switchTakes p.val) = true := Bool.or_eq_true_iff.2 (.inl h)
    have hpass := c.unlend_passes p.val
    refine ⟨_, exec_preemption_up s p hup, rfl, ?_⟩
    dsimp only
    rw [← hc, c.preemption_early hwant hbusy hl hat, Chip.settle_sched, Chip.settle_mem, Chip.settle_items]
    refine ⟨(Chip.flag_congr ((Chip.settle_calm _).get_apart (by decide))).trans (c.undoLending_lent p.isLt hb),
      c.undoLending_preempt p.val, hpass.running, hpass.data, ?_, (c.undoLending_core p.val).trans (Chip.settle_core _)⟩
    exact (congrArg Chip.items hpass.only :)
  · rw [exec_spillComplete_up s p hup, c.spillComplete_none h]
  · rw [exec_spillComplete_up s p hup, c.spillComplete_waits hx h]
  · have hspill := (c.spillComplete_spilled hx hs hall p.isLt hb).settle
    exact ⟨_, exec_spillComplete_up s p hup, rfl, hspill.preempt, hspill.spills, hspill.lent, hspill.toCore⟩
  · refine ⟨_, exec_spillRestore_up s p hup, rfl, ?_⟩
    dsimp only
    rw [← hc, Chip.settle_sched, Chip.settle_mem, Chip.settle_items, c.spillRestore_mem]
    refine ⟨c.spillRestore_spillSet p.val, fun h => ?_, fun k h => ?_, c.spillRestore_items p.val,
      (c.spillRestore_core p.val).trans (Chip.settle_core _)⟩
    · exact congrArg (fun l : List Nat => (l.foldl (Chip.restoreKey (c.borrowerOf p.val)) c).mem) h
    · exact congrArg (fun l : List Nat => (l.foldl (Chip.restoreKey (c.borrowerOf p.val)) c).mem) h

end Sys2Proof.Machine
end

section
/-!
PROOFS. Failed sites, units, blocks and control cores: what is marked, what is due in the maps, and what follows.
-/

namespace Sys2Proof.Machine

/-! ## What a failure leaves alone -/

/-- The registers that a failure and what follows it write, beside the log and its own mark. -/
def failRegs : List Reg := [.PART_CFG, .VAR_STAT, .SPARE_HEALTH, .FAULT_CNT1]

/-- Those registers and the log's lie apart from register `r`. -/
def Reg.offFail (r : Reg) : Bool := r.offLog && failRegs.all (fun q => q.apart r)

/-- From `a` to `b` no further cell fails, and registers apart from those of failures stay. -/
structure Follows (a b : Chip) : Prop where
  failedCell : b.recov.failedCell = a.recov.failedCell
  word : ∀ r i j, r.offFail = true → b.word r i j = a.word r i j

theorem Follows.refl (a : Chip) : Follows a a := ⟨rfl, fun _ _ _ _ => rfl⟩

theorem Follows.trans {a b c : Chip} (h : Follows a b) (k : Follows b c) : Follows a c where
  failedCell := k.failedCell.trans h.failedCell
  word := fun r i j hr => (k.word r i j hr).trans (h.word r i j hr)

theorem Follows.foldl {β : Type} {g : Chip → β → Chip} (hg : ∀ c x, Follows c (g c x)) (l : List β) (c : Chip) :
    Follows c (l.foldl g c) := by
  induction l generalizing c with
  | nil => exact Follows.refl c
  | cons x l ih => exact (hg c x).trans (ih _)

theorem Follows.get {a b : Chip} (h : Follows a b) (f : Fld) (i j : Nat) (hf : f.reg.offFail = true) : b.get f i j = a.get f i j :=
  Chip.get_of_word f (h.word _ i j hf)

theorem Follows.cellBad {a b : Chip} (h : Follows a b) (n : Nat) : b.cellBad n = a.cellBad n :=
  congrArg (fun m => smGet false m n) h.failedCell

theorem Reg.apart_of_offFail {r q : Reg} (h : r.offFail = true) (hq : q ∈ failRegs) : q.apart r = true :=
  List.all_eq_true.1 (Bool.and_eq_true_iff.1 h).2 q hq

variable (c : Chip)

theorem Chip.put_follows (f : Fld) (v i j : Nat) (h : f.reg ∈ failRegs) : Follows c (c.put f v i j) :=
  ⟨rfl, fun _ k l hr => c.word_put_apart f v i j k l (Reg.apart_of_offFail hr h)⟩

theorem Chip.updRecov_follows {f : Recov → Recov} (h : (f c.recov).failedCell = c.recov.failedCell) :
    Follows c (c.updRecov f) := ⟨h, fun _ _ _ _ => rfl⟩

theorem Chip.log_follows (code : Nat) (l : Loc) (stated : Option Nat) : Follows c (c.log code l stated) where
  failedCell := by
    obtain ⟨g, f, h⟩ := c.log_onlyRegs code l stated
    rw [h]
  word := fun r i j hr => c.log_word code l stated r i j (Bool.and_eq_true_iff.1 hr).1

theorem Chip.mapLater_follows (r : Reg) (i j w : Nat) : Follows c (c.mapLater r i j w) := ⟨rfl, fun _ _ _ _ => rfl⟩

theorem Chip.needRerun_failedCell (n : Option Nat) : (c.needRerun n).recov.failedCell = c.recov.failedCell := by
  unfold Chip.needRerun
  split
  · rfl
  · split <;> rfl

theorem Chip.loseStep_follows (u : Nat) : Follows c (c.loseStep u) where
  failedCell := by
    unfold Chip.loseStep
    split
    · rfl
    · rw [Chip.needRerun_failedCell, (Chip.boundary_passes _ u).only]
      rfl
  word := fun _ i j hr => c.loseStep_word u i j (Reg.apart_of_offFail hr (by decide))

theorem Chip.loseCellStep_follows (u l : Nat) : Follows c (c.loseCellStep u l) := by
  unfold Chip.loseCellStep
  split
  · split
    · exact c.loseStep_follows u
    · exact Follows.refl c
  · exact Follows.refl c

theorem Chip.degrade_follows (d : Degradation) : Follows c (c.degrade d) := by
  unfold Chip.degrade Chip.retarget
  dsimp only
  split
  · exact Follows.refl c
  · split
    · exact c.updRecov_follows rfl
    · exact ((c.put_follows _ _ _ _ (by decide)).trans (Chip.updRecov_follows _ rfl)).trans (Chip.updRecov_follows _ rfl)

theorem Chip.degradeBlock_follows (r : Nat) : Follows c (if h : r < 4 then c.degrade (.block ⟨r, h⟩) else c) := by
  split
  · exact c.degrade_follows _
  · exact Follows.refl c

/-! ## A block -/

theorem Chip.markBlock_follows (r b : Nat) : Follows c (c.markBlock r b) := by
  unfold Chip.markBlock
  dsimp only
  split
  · exact c.put_follows _ _ _ _ (by decide)
  · exact (c.put_follows _ _ _ _ (by decide)).trans (Chip.put_follows _ _ _ _ _ (by decide))

theorem Chip.setFabric_follows (x : Fabric) : Follows c { c with fabric := x } := ⟨rfl, fun _ _ _ _ => rfl⟩

/-- The logical block that is to run on physical block `b` of region `r`. -/
def Chip.lblockSoon (c : Chip) (r b : Nat) : Option Nat :=
  (List.range 8).find? (fun l => bitsOf (c.mapSoon .REGION_MAP r 0) (4 * l) 4 = b)

/-- A block that has not failed yet is marked, and its cells' own changes of the map are due no more. -/
def Chip.dropBlock (c : Chip) (r b : Nat) : Chip :=
  let c := (c.log 0x17 ⟨r, b, 31, (c.lblockSoon r b).getD 15, 31, 0⟩).markBlock r b
  { c with fabric := { c.fabric with mapPend := smSet none c.fabric.mapPend (Reg.addr .CELL_MAP r b) none } }

/-- A spare block takes the place of logical block `lb`, and its persistent handles are to be reloaded (R387). -/
def Chip.graftBlock (c : Chip) (r lb p : Nat) : Chip :=
  ((c.mapLater .REGION_MAP r 0 (putBits (c.mapSoon .REGION_MAP r 0) (4 * lb) 4 p)).putB F.SPARE_HEALTH_BSPARE true r).updRecov
    (fun v => { v with reload := smSet false v.reload (9 * r + p) true })

/-- What a block that fails brings: nothing is mapped to it, or its logical block's step is lost, and a spare block is grafted in
or a degradation is due (R386 to R388). -/
theorem Chip.blockFail_cases {r b : Nat} (h : bitOf (c.get F.SPARE_HEALTH_BLK_FAILED r) b = false) :
    (c.lblockSoon r b = none ∧ c.blockFail r b = (c.dropBlock r b).putB F.SPARE_HEALTH_BSPARE true r) ∨
    ∃ lb, c.lblockSoon r b = some lb ∧
      let d := (c.dropBlock r b).loseStep (8 * r + lb)
      (c.blockFail r b = (if h : r < 4 then d.degrade (.block ⟨r, h⟩) else d)) ∨ ∃ p, c.blockFail r b = d.graftBlock r lb p := by
  unfold Chip.blockFail
  rw [h, if_neg Bool.false_ne_true]
  extract_lets lb c1 spare c2 fab c3
  have h3 : c3 = c.dropBlock r b := rfl
  have hlb : lb = c.lblockSoon r b := rfl
  rw [← h3, ← hlb]
  clear_value c3 spare lb
  cases lb with
  | none => exact .inl ⟨rfl, rfl⟩
  | some lb =>
    refine .inr ⟨lb, rfl, ?_⟩
    cases spare with
    | none => exact .inl rfl
    | some p =>
      dsimp only
      split
      · exact .inl rfl
      · exact .inr ⟨p, rfl⟩

theorem Chip.blockFail_again {r b : Nat} (h : bitOf (c.get F.SPARE_HEALTH_BLK_FAILED r) b = true) : c.blockFail r b = c := by
  unfold Chip.blockFail
  rw [if_pos h]

theorem Chip.dropBlock_follows (r b : Nat) : Follows c (c.dropBlock r b) :=
  ((c.log_follows _ _ _).trans (Chip.markBlock_follows _ r b)).trans (Chip.setFabric_follows _ _)

theorem Chip.graftBlock_follows (r lb p : Nat) : Follows c (c.graftBlock r lb p) :=
  ((c.mapLater_follows _ _ _ _).trans (Chip.put_follows _ _ _ _ _ (by decide))).trans (Chip.updRecov_follows _ rfl)

theorem Chip.blockFail_follows (r b : Nat) : Follows c (c.blockFail r b) := by
  cases h : bitOf (c.get F.SPARE_HEALTH_BLK_FAILED r) b with
  | true =>
    rw [c.blockFail_again h]
    exact Follows.refl c
  | false =>
    have hd := c.dropBlock_follows r b
    rcases c.blockFail_cases h with ⟨_, he⟩ | ⟨lb, _, he | ⟨p, he⟩⟩
    · rw [he]
      exact hd.trans (Chip.put_follows _ _ _ _ _ (by decide))
    · rw [he]
      exact (hd.trans (Chip.loseStep_follows _ _)).trans (Chip.degradeBlock_follows _ r)
    · rw [he]
      exact (hd.trans (Chip.loseStep_follows _ _)).trans (Chip.graftBlock_follows _ r lb p)

/-- Of region `r` block `b` is marked as failed, and no other block that was not (Table 13-9). -/
structure Chip.MarksBlock (c t : Chip) (r b : Nat) : Prop where
  marked : bitOf (t.get F.SPARE_HEALTH_BLK_FAILED r) b = true
  others : ∀ k, k < 9 → k ≠ b → bitOf (t.get F.SPARE_HEALTH_BLK_FAILED r) k = bitOf (c.get F.SPARE_HEALTH_BLK_FAILED r) k

variable {c} in
theorem Chip.MarksBlock.of_get {t u : Chip} {r b : Nat} (h : c.MarksBlock t r b)
    (hg : u.get F.SPARE_HEALTH_BLK_FAILED r = t.get F.SPARE_HEALTH_BLK_FAILED r) : c.MarksBlock u r b :=
  ⟨hg ▸ h.marked, hg ▸ h.others⟩

/-- A bit of a field of `w` bits where another bit is set. -/
theorem bitOf_or_two_pow_ne (v : Nat) {w b k : Nat} (hk : k < w) (h : k ≠ b) : bitOf ((v ||| 2 ^ b) % 2 ^ w) k = bitOf v k := by
  rw [bitOf_eq_testBit, bitOf_eq_testBit, Nat.testBit_mod_two_pow, Nat.testBit_or, Nat.testBit_two_pow_of_ne (Ne.symm h)]
  simp [hk]

theorem Chip.markBlock_get {r b : Nat} (hr : r < 4) :
    (c.markBlock r b).get F.SPARE_HEALTH_BLK_FAILED r = (c.get F.SPARE_HEALTH_BLK_FAILED r ||| 2 ^ b) % 2 ^ 9 := by
  have hput := c.get_put_self F.SPARE_HEALTH_BLK_FAILED (c.get F.SPARE_HEALTH_BLK_FAILED r ||| 2 ^ b) r 0 (spareHealth_has hr) (by decide)
  unfold Chip.markBlock
  dsimp only
  split
  · exact hput
  · exact (Chip.putB_bspare_get _ _ _).trans hput

theorem Chip.dropBlock_marks {r b : Nat} (hr : r < 4) (hb : b < 9) : c.MarksBlock (c.dropBlock r b) r b := by
  have hget : (c.dropBlock r b).get F.SPARE_HEALTH_BLK_FAILED r = (c.get F.SPARE_HEALTH_BLK_FAILED r ||| 2 ^ b) % 2 ^ 9 := by
    refine (Chip.markBlock_get _ hr).trans ?_
    rw [Chip.log_get _ _ _ _ _ _ _ (by decide)]
  exact ⟨hget ▸ bitOf_or_two_pow _ hb, fun k hk hne => hget ▸ bitOf_or_two_pow_ne _ hk hne⟩

theorem Chip.blockFail_marks {r b : Nat} (hr : r < 4) (hb : b < 9) : c.MarksBlock (c.blockFail r b) r b := by
  cases h : bitOf (c.get F.SPARE_HEALTH_BLK_FAILED r) b with
  | true =>
    rw [c.blockFail_again h]
    exact ⟨h, fun _ _ _ => rfl⟩
  | false =>
    have hm := c.dropBlock_marks hr hb
    rcases c.blockFail_cases h with ⟨_, he⟩ | ⟨lb, _, he | ⟨p, he⟩⟩
    · rw [he]
      exact hm.of_get (Chip.putB_bspare_get _ _ _)
    · rw [he, dif_pos hr]
      exact (hm.of_get (Chip.loseStep_blkFailed _ _ r)).of_get (Chip.degrade_blkFailed _ _ r)
    · rw [he]
      exact (hm.of_get (Chip.loseStep_blkFailed _ _ r)).of_get (Chip.putB_bspare_get _ _ _)

/-- The step of the block that fails is lost. -/
theorem Chip.blockFail_runOf {r b l : Nat} (hr : r < 4) (h : bitOf (c.get F.SPARE_HEALTH_BLK_FAILED r) b = false)
    (hl : c.lblockSoon r b = some l) : (c.blockFail r b).runOf (8 * r + l) = none := by
  rcases c.blockFail_cases h with ⟨hn, _⟩ | ⟨lb, hlb, he⟩
  · rw [hn] at hl
    cases hl
  · obtain rfl : lb = l := Option.some.inj (hlb.symm.trans hl)
    have hlost := (c.dropBlock r b).loseStep_runOf (8 * r + lb)
    rcases he with he | ⟨p, he⟩
    · rw [he, dif_pos hr, (Chip.degrade_degrades _ _).runOf]
      exact hlost
    · rw [he]
      exact hlost

theorem Chip.blockFail_logged {r b : Nat} (h : bitOf (c.get F.SPARE_HEALTH_BLK_FAILED r) b = false) :
    c.Logged (c.blockFail r b) 0x17 ⟨r, b, 31, (c.lblockSoon r b).getD 15, 31, 0⟩ := by
  have hd : Fallout 0 (c.log 0x17 ⟨r, b, 31, (c.lblockSoon r b).getD 15, 31, 0⟩) (c.dropBlock r b) :=
    (Chip.markBlock_fallout _ r b).trans (Chip.setFabric_fallout _ _)
  rcases c.blockFail_cases h with ⟨_, he⟩ | ⟨lb, _, he | ⟨p, he⟩⟩
  · rw [he]
    exact (hd.trans (Chip.putB_fallout _ _ _ _ _ (by decide))).logged (by decide)
  · rw [he]
    exact ((hd.trans (Chip.loseStep_fallout _ _)).trans (Chip.degradeBlock_fallout _ r)).logged (by decide)
  · rw [he]
    exact (((hd.trans (Chip.loseStep_fallout _ _)).trans (Chip.mapLater_fallout _ _ _ _ _)).trans
      ((Chip.putB_fallout _ _ _ _ _ (by decide)).trans (Chip.updRecov_fallout _ _))).logged (by decide)

/-- The place of a walker. -/
def Chip.walkerPlace (c : Chip) (r b : Nat) : Loc := ⟨r, b, 8, (c.logBlock r b).getD 15, 8, 0⟩

/-- The log entry and the record of a walker that fails. -/
def Chip.dropWalker (c : Chip) (r b : Nat) : Chip :=
  (c.log 0x15 (c.walkerPlace r b)).updRecov (fun v => { v with failedWalker := smSet false v.failedWalker (9 * r + b) true })

/-- A walker has no spare: its block fails. -/
theorem Chip.walkerFail_eq {r b : Nat} (h : smGet false c.recov.failedWalker (9 * r + b) = false) :
    c.walkerFail r b = (c.dropWalker r b).blockFail r b := by
  unfold Chip.walkerFail
  rw [h]
  rfl

theorem Chip.dropWalker_fallout (r b : Nat) : Fallout 0 (c.log 0x15 (c.walkerPlace r b)) (c.dropWalker r b) :=
  Chip.updRecov_fallout _ _

theorem Chip.dropWalker_get (r b : Nat) :
    (c.dropWalker r b).get F.SPARE_HEALTH_BLK_FAILED r = c.get F.SPARE_HEALTH_BLK_FAILED r := by
  unfold Chip.dropWalker
  rw [Chip.get_congr (Chip.updRecov_regs _ _), c.log_get _ _ _ _ _ _ (by decide)]

/-! ## What a failure leaves of the memories -/

/-- No memory changes but by the step boundary that a lost step brings, and what a command of the data path leaves stays. -/
structure Chip.SameStore (c t : Chip) : Prop where
  data : c.mem.SameData t.mem
  quiet : c.Quiet → t.mem = c.mem
  core : c.Core t

theorem Fallout.sameStore {n : Nat} {a b : Chip} (h : Fallout n a b) : a.SameStore b.settle where
  data := b.settle_mem.symm ▸ h.data
  quiet := fun hq => b.settle_mem.trans (h.quiet hq).2
  core := h.core.trans b.settle_core

variable {c} in
theorem Chip.MarksBlock.settle {t : Chip} {r b : Nat} (h : c.MarksBlock t r b) : c.MarksBlock t.settle r b :=
  h.of_get (t.settle_calm.get_apart (by decide))

/-- The failure of a walker is its block's as well. -/
theorem Chip.walkerFail_fails {r b : Nat} (hr : r < 4) (hb : b < 9) (h : smGet false c.recov.failedWalker (9 * r + b) = false) :
    c.MarksBlock (c.walkerFail r b).settle r b ∧ c.Logged (c.walkerFail r b).settle 0x15 (c.walkerPlace r b) ∧
      c.SameStore (c.walkerFail r b).settle := by
  have hmarks := ((c.dropWalker r b).blockFail_marks hr hb).settle
  have hfall := (c.dropWalker_fallout r b).trans ((c.dropWalker r b).blockFail_fallout r b)
  rw [c.walkerFail_eq h]
  refine ⟨⟨hmarks.marked, fun k hk hne => ?_⟩, (hfall.logged (by decide)).settle, ((c.log_fallout _ _ _).trans hfall).sameStore⟩
  rw [hmarks.others k hk hne, c.dropWalker_get]

variable {c} in
theorem Follows.settle {t : Chip} (h : Follows c t) (n : Nat) : t.settle.cellBad n = c.cellBad n :=
  (congrArg (fun v : Recov => smGet false v.failedCell n) t.settle_recov).trans (h.cellBad n)

/-! ## A matrix or vector site -/

/-- A cell that fails is recorded, also among those of this course (R386). -/
def Chip.noteCell (c : Chip) (n : Nat) : Chip := c.updRecov (fun v =>
  { v with failedCell := smSet false v.failedCell n true, failedNow := smSet false v.failedNow n true })

/-- The place of the log entry of a site's failure. -/
def Chip.siteLoc (c : Chip) (r b site : Nat) : Loc :=
  ⟨r, b, site, (c.logBlock r b).getD 15, c.logSite r b site, 0⟩

/-- The log entry and the record of a site that fails. -/
def Chip.dropSite (c : Chip) (r b site : Nat) : Chip :=
  (c.log 0x02 (c.siteLoc r b site)).noteCell (8 * (9 * r + b) + site)

theorem Chip.siteFail_again {r b site : Nat} (h : c.cellBad (8 * (9 * r + b) + site) = true) : c.siteFail r b site = c := by
  unfold Chip.siteFail
  exact if_pos h

/-- What follows the record of a site's failure: at most its block fails as well. -/
theorem Chip.siteFail_after {r b site : Nat} (h : c.cellBad (8 * (9 * r + b) + site) = false) :
    Fallout 1 (c.dropSite r b site) (c.siteFail r b site) ∧ Follows (c.dropSite r b site) (c.siteFail r b site) := by
  unfold Chip.siteFail
  extract_lets n c1 twice c2 matrix spareFld spareGone w lo cnt phys log c3 c4
  have hreg : spareFld.reg = .SPARE_HEALTH := by
    unfold spareFld
    split <;> rfl
  have hput : ∀ (d : Chip) v i j, Fallout 0 d (d.put spareFld v i j) ∧ Follows d (d.put spareFld v i j) := fun d v i j =>
    ⟨d.put_fallout _ _ _ _ (hreg ▸ rfl), d.put_follows _ _ _ _ (hreg ▸ by decide)⟩
  have h3 : Fallout 0 c2 c3 ∧ Follows c2 c3 := by
    unfold c3
    split
    · exact ⟨c2.loseCellStep_fallout _ _, c2.loseCellStep_follows _ _⟩
    · exact ⟨Fallout.refl 0 c2, Follows.refl c2⟩
  have h4 : Fallout 0 c2 c4 ∧ Follows c2 c4 := by
    unfold c4
    split
    · exact ⟨h3.1.trans (hput _ _ _ _).1, h3.2.trans (hput _ _ _ _).2⟩
    · exact h3
  rw [if_neg (Bool.eq_false_iff.1 h)]
  change Fallout 1 c2 _ ∧ Follows c2 _
  clear_value c4 c2 spareFld log twice spareGone
  have hblock : Fallout 1 c2 (c4.blockFail r b) ∧ Follows c2 (c4.blockFail r b) :=
    ⟨h4.1.trans (c4.blockFail_fallout r b), h4.2.trans (c4.blockFail_follows r b)⟩
  split
  · split
    · exact hblock
    · exact ⟨h4.1.mono (by decide), h4.2⟩
  · split
    · exact hblock
    · exact ⟨((h4.1.trans (Chip.mapLater_fallout _ _ _ _ _)).trans (hput _ _ _ _).1).mono (by decide),
        (h4.2.trans (Chip.mapLater_follows _ _ _ _ _)).trans (hput _ _ _ _).2⟩

theorem Chip.dropSite_cellBad (r b site : Nat) : (c.dropSite r b site).cellBad (8 * (9 * r + b) + site) = true :=
  smGet_smSet_self (c.log 0x02 (c.siteLoc r b site)).recov.failedCell _ true

theorem Chip.dropSite_fallout (r b site : Nat) : Fallout 0 (c.log 0x02 (c.siteLoc r b site)) (c.dropSite r b site) := by
  unfold Chip.dropSite Chip.noteCell
  exact Chip.updRecov_fallout _ _

/-! ### The graft of a spare site -/

theorem Chip.mapSoon_lt (r : Reg) (i j : Nat) : c.mapSoon r i j < 2 ^ 32 := by
  unfold Chip.mapSoon
  split
  · exact BitVec.isLt _
  · exact c.word_lt r i j

/-- A word of a rename map that is made due. -/
theorem Chip.mapSoon_mapLater (r : Reg) (i j : Nat) {w : Nat} (h : w < 2 ^ 32) : (c.mapLater r i j w).mapSoon r i j = w := by
  unfold Chip.mapSoon Chip.mapLater
  dsimp only
  rw [smGet_smSet_self]
  exact (BitVec.toNat_ofNat w 32).trans (Nat.mod_eq_of_lt h)

theorem Chip.mapSoon_congr {a b : Chip} {r : Reg} {i j : Nat} (hf : b.fabric = a.fabric) (hw : b.word r i j = a.word r i j) :
    b.mapSoon r i j = a.mapSoon r i j := by
  unfold Chip.mapSoon
  rw [hf, hw]

theorem Chip.dropSite_mapSoon (r b site : Nat) (q : Reg) (i j : Nat) (hq : q.offLog = true) :
    (c.dropSite r b site).mapSoon q i j = c.mapSoon q i j :=
  Chip.mapSoon_congr (a := c) (b := c.dropSite r b site) (c.log_fabric 0x02 (c.siteLoc r b site) none)
    (c.log_word 0x02 (c.siteLoc r b site) none q i j hq)

theorem Chip.log_recov (code : Nat) (l : Loc) (stated : Option Nat) : (c.log code l stated).recov = c.recov := by
  obtain ⟨g, f, h⟩ := c.log_onlyRegs code l stated
  rw [h]

/-- A matrix site whose block has its spare site and no second failure of this course: the spare site is due in its place. -/
theorem Chip.siteFail_grafts {r b site l : Nat} (h : c.cellBad (8 * (9 * r + b) + site) = false) (hl : l < 4) (hsite : site < 4)
    (hnow : ∀ k, k < 8 → smGet false c.recov.failedNow (8 * (9 * r + b) + k) = false)
    (hspare : bitOf (c.get F.SPARE_HEALTH_MSPARE r) b = false)
    (hmap : bitsOf (c.mapSoon .CELL_MAP r b) (3 * l) 3 = site)
    (hfirst : ∀ k, k < l → bitsOf (c.mapSoon .CELL_MAP r b) (3 * k) 3 ≠ site) :
    ∃ d : Chip, c.siteFail r b site = (d.mapLater .CELL_MAP r b (putBits (c.mapSoon .CELL_MAP r b) (3 * l) 3 4)).put
      F.SPARE_HEALTH_MSPARE (d.get F.SPARE_HEALTH_MSPARE r ||| 2 ^ b) r := by
  unfold Chip.siteFail
  extract_lets n c1 twice c2 matrix spareFld spareGone w lo cnt phys log c3 c4
  have hmatrix : matrix = true := decide_eq_true (by omega)
  have hfld : spareFld = F.SPARE_HEALTH_MSPARE := if_pos hmatrix
  have hlo : lo = 0 := if_pos hmatrix
  have hcnt : cnt = 4 := if_pos hmatrix
  have hphys : phys = site := if_pos hmatrix
  have hw : w = c.mapSoon .CELL_MAP r b := c.dropSite_mapSoon r b site .CELL_MAP r b (by decide)
  have htwice : twice = false := by
    refine List.any_eq_false.2 (fun k hk => ?_)
    rw [c.log_recov, hnow k (List.mem_range.1 hk)]
    exact Bool.false_ne_true
  have hgone : spareGone = false := by
    unfold spareGone
    rw [hfld]
    refine (congrArg (fun v => bitOf v b) ?_).trans hspare
    exact c.log_get _ _ _ F.SPARE_HEALTH_MSPARE r 0 (by decide)
  have hlog : log = some l := by
    unfold log
    rw [hcnt, hlo, hphys, hw, List.find?_range_eq_some]
    exact ⟨by simpa using hmap, List.mem_range.2 hl, fun k hk => by simpa using hfirst k hk⟩
  rw [if_neg (Bool.eq_false_iff.1 h), hlog]
  clear_value c4 w
  dsimp -zeta only
  rw [htwice, hgone, hphys, if_neg (by simp [hcnt]; omega)]
  refine ⟨c4, ?_⟩
  rw [hfld, hlo, hcnt, hw, Nat.zero_add]
  rfl

theorem Chip.siteFail_grafted {r b site l : Nat} (h : c.cellBad (8 * (9 * r + b) + site) = false) (hl : l < 4) (hr : r < 4) (hb : b < 9)
    (hsite : site < 4) (hnow : ∀ k, k < 8 → smGet false c.recov.failedNow (8 * (9 * r + b) + k) = false)
    (hspare : bitOf (c.get F.SPARE_HEALTH_MSPARE r) b = false)
    (hmap : bitsOf (c.mapSoon .CELL_MAP r b) (3 * l) 3 = site)
    (hfirst : ∀ k, k < l → bitsOf (c.mapSoon .CELL_MAP r b) (3 * k) 3 ≠ site) :
    bitsOf ((c.siteFail r b site).settle.mapSoon .CELL_MAP r b) (3 * l) 3 = 4 ∧
      bitOf ((c.siteFail r b site).settle.get F.SPARE_HEALTH_MSPARE r) b = true := by
  obtain ⟨d, hd⟩ := c.siteFail_grafts h hl hsite hnow hspare hmap hfirst
  rw [hd]
  constructor
  · rw [Chip.mapSoon_congr (Chip.settle_fabric _) ((Chip.settle_calm _).word_apart r b (by decide)),
      Chip.mapSoon_congr (Chip.put_fabric _ _ _ _ _) (Chip.word_put_apart _ _ _ _ _ _ _ (by decide)),
      Chip.mapSoon_mapLater _ _ _ _ (putBits_lt (c.mapSoon_lt _ _ _) (by omega)), bitsOf_putBits_self]
    rfl
  · rw [(Chip.settle_calm _).get_apart (by decide), Chip.get_put_self _ _ _ _ _ (spareHealth_has hr) (by decide)]
    exact bitOf_or_two_pow _ hb

/-! ## A text cell or a decode lane -/

/-- The log entry, the record and the mark of a text cell or a decode lane that fails. -/
def Chip.dropUnit (c : Chip) (n : Nat) (at_ : Loc) (f : Fld) (k : Nat) : Chip :=
  let c := (c.log 0x02 at_).updRecov (fun v => { v with failedCell := smSet false v.failedCell n true })
  c.put f (c.get f ||| 2 ^ k)

/-- From `d` to `e`: nothing was mapped to the failed site, or its logical unit's step is lost and a spare site or a degradation is
due (R385). -/
def Chip.Replaced (d e : Chip) : Prop :=
  e = d ∨ ∃ u, (∃ w, e = (d.loseStep u).mapLater .UNIT_MAP 0 0 w) ∨ ∃ x, e = (d.loseStep u).degrade x

theorem Chip.Replaced.after {d e : Chip} (h : d.Replaced e) : Fallout 0 d e ∧ Follows d e := by
  rcases h with rfl | ⟨u, ⟨w, rfl⟩ | ⟨x, rfl⟩⟩
  · exact ⟨Fallout.refl 0 e, Follows.refl e⟩
  · exact ⟨(d.loseStep_fallout u).trans (Chip.mapLater_fallout _ _ _ _ _), (d.loseStep_follows u).trans (Chip.mapLater_follows _ _ _ _ _)⟩
  · exact ⟨(d.loseStep_fallout u).trans (Chip.degrade_fallout _ x), (d.loseStep_follows u).trans (Chip.degrade_follows _ x)⟩

theorem Chip.textFail_replaced {t : Nat} (h : c.cellBad (288 + t) = false) :
    ∃ at_, (c.dropUnit (288 + t) at_ F.CORE_STAT_T_FAILED t).Replaced (c.textFail t) := by
  unfold Chip.textFail
  extract_lets log c1 c2 c3
  rw [if_neg (Bool.eq_false_iff.1 h)]
  refine ⟨⟨0, 15, 9 + t, 15, (log.map (· + 9)).getD 31, 0⟩, ?_⟩
  change c3.Replaced _
  clear_value c3
  cases log with
  | none => exact .inl rfl
  | some l =>
    refine .inr ⟨32 + l, ?_⟩
    dsimp only
    split
    · exact .inl ⟨_, rfl⟩
    · exact .inr ⟨_, rfl⟩

theorem Chip.laneFail_replaced {d : Nat} (h : c.cellBad (293 + d) = false) :
    ∃ at_, (c.dropUnit (293 + d) at_ F.CORE_STAT_D_FAILED d).Replaced (c.laneFail d) := by
  unfold Chip.laneFail
  extract_lets log c1 c2 c3
  rw [if_neg (Bool.eq_false_iff.1 h)]
  refine ⟨⟨0, 15, 14 + d, 15, (log.map (· + 14)).getD 31, 0⟩, ?_⟩
  change c3.Replaced _
  clear_value c3
  cases log with
  | none => exact .inl rfl
  | some l =>
    refine .inr ⟨36 + l, ?_⟩
    dsimp only
    split
    · exact .inl ⟨_, rfl⟩
    · exact .inr ⟨_, rfl⟩

theorem coreStat_has : Reg.has .CORE_STAT 0 0 = true := decide_eq_true ⟨Nat.one_pos, Nat.one_pos⟩

theorem Chip.put_or_bit {f : Fld} (hf : f.reg = .CORE_STAT) (hw : f.lo + f.w ≤ 32) {k : Nat} (hk : k < f.w) (v : Nat) :
    bitOf ((c.put f (v ||| 2 ^ k)).get f) k = true := by
  rw [Chip.get_put_self _ _ _ _ _ (hf ▸ coreStat_has) hw]
  exact bitOf_or_two_pow _ hk

/-- What the failure of a text cell or a decode lane leaves: the record, the mark in CORE_STAT, the memories. -/
theorem Chip.Replaced.fails {n k : Nat} {at_ : Loc} {f : Fld} {e : Chip} (h : (c.dropUnit n at_ f k).Replaced e)
    (hf : f.reg = .CORE_STAT) (hw : f.lo + f.w ≤ 32) (hk : k < f.w) :
    e.settle.cellBad n = true ∧ bitOf (e.settle.get f) k = true ∧ c.SameStore e.settle := by
  obtain ⟨hfall, hfol⟩ := h.after
  refine ⟨?_, ?_, ?_⟩
  · rw [hfol.settle]
    exact smGet_smSet_self (c.log 0x02 at_).recov.failedCell n true
  · rw [e.settle_calm.get_apart (hf ▸ by decide), hfol.get _ _ _ (hf ▸ by decide)]
    exact Chip.put_or_bit _ hf hw hk _
  · have hdrop : Fallout 1 c (c.dropUnit n at_ f k) :=
      ((c.log_fallout 0x02 at_ none).trans (Chip.updRecov_fallout _ _)).trans (Chip.put_fallout _ _ _ _ _ (hf ▸ by decide))
    exact (hdrop.trans hfall).sameStore

/-! ## A control core -/

theorem Chip.stopItem_follows (n : Nat) (why : List Byte) : Follows c (c.stopItem n why) := by
  unfold Chip.stopItem
  split
  · exact Follows.refl c
  · split
    · exact Follows.refl c
    · exact Follows.trans (b := c.modItem n _) ⟨rfl, fun _ _ _ _ => rfl⟩ (Chip.put_follows _ _ _ _ _ (by decide))

theorem Chip.faultHold_follows : Follows c c.faultHold := by
  unfold Chip.faultHold
  split
  · exact Follows.refl c
  · exact ((c.put_follows _ _ _ _ (by decide)).trans (Chip.log_follows _ _ _ _)).trans
      (Follows.foldl (fun c n => c.stopItem_follows n _) _ _)

theorem Chip.regionFail_follows (r : Nat) : Follows c (c.regionFail r) := by
  unfold Chip.regionFail
  extract_lets c1 c2 c3
  have h3 : Follows c c3 := ((c.log_follows _ _ _).trans (c1.updRecov_follows rfl)).trans
    (Follows.foldl (fun c lb => c.loseStep_follows _) _ _)
  clear_value c3
  split
  · exact Follows.refl c
  · split
    · exact h3.trans (c3.degrade_follows _)
    · exact h3

theorem Chip.roleLost_follows (role : Nat) : Follows c (c.roleLost role) := by
  unfold Chip.roleLost
  split
  · exact c.regionFail_follows role
  · exact c.faultHold_follows

/-- The mark of a control core that fails. -/
def Chip.markCore (c : Chip) (k : Nat) : Chip := c.put F.CORE_STAT_CORE_FAILED (c.get F.CORE_STAT_CORE_FAILED ||| 2 ^ k)

/-- The role that the spare core holds with it is lost, or another failed core's role is not taken over. -/
def Chip.spareFails (c : Chip) (held : Nat) : Chip :=
  match c.recov.takeover with
  | some role => (c.updRecov (fun v => { v with takeover := none })).roleLost role
  | none => if held = 15 then c else c.roleLost held

theorem Chip.spareFails_follows (held : Nat) : Follows c (c.spareFails held) := by
  unfold Chip.spareFails
  split
  · exact (c.updRecov_follows rfl).trans (Chip.roleLost_follows _ _)
  · split
    · exact Follows.refl c
    · exact c.roleLost_follows held

theorem Chip.coreFail_again {k : Nat} (h : bitOf (c.get F.CORE_STAT_CORE_FAILED) k = true) : c.coreFail k = c := by
  unfold Chip.coreFail
  exact if_pos h

/-- The place of the log entry of a core's failure: the failed core, or the role of a spare core that fails. -/
def Chip.coreLoc (c : Chip) (k : Nat) : Loc :=
  ⟨if k < 4 then k else 0, 15, 19 + k, 15,
    19 + (if k = 9 ∧ c.get F.UNIT_MAP_SPARE_ROLE ≠ 15 then c.get F.UNIT_MAP_SPARE_ROLE else k), 0⟩

/-- The mark and the log entry of a control core that fails. -/
def Chip.dropCore (c : Chip) (k : Nat) : Chip := (c.markCore k).log 0x36 (c.coreLoc k)

/-- A core that fails is marked and logged; then the security role is lost, the spare core fails, the spare takes the role or it is
lost (R405, R407, R408). -/
theorem Chip.coreFail_eq {k : Nat} (h : bitOf (c.get F.CORE_STAT_CORE_FAILED) k = false) : c.coreFail k =
    if k = 8 then (c.dropCore k).putB F.VAR_STAT_SEC_LOST true
    else if k = 9 then (c.dropCore k).spareFails (c.get F.UNIT_MAP_SPARE_ROLE)
    else if c.get F.UNIT_MAP_SPARE_ROLE ≠ 15 ∨ (c.dropCore k).recov.takeover.isSome ∨
      bitOf ((c.dropCore k).get F.CORE_STAT_CORE_FAILED) 9 then (c.dropCore k).roleLost k
    else (c.dropCore k).updRecov (fun v => { v with takeover := some k }) := by
  unfold Chip.coreFail
  rw [if_neg (Bool.eq_false_iff.1 h)]
  rfl

theorem Chip.dropCore_recov (k : Nat) : (c.dropCore k).recov = c.recov := by
  unfold Chip.dropCore Chip.markCore
  rw [Chip.log_recov, Chip.put_recov]

theorem Chip.dropCore_get (k : Nat) :
    (c.dropCore k).get F.CORE_STAT_CORE_FAILED = (c.get F.CORE_STAT_CORE_FAILED ||| 2 ^ k) % 2 ^ 10 := by
  unfold Chip.dropCore Chip.markCore
  rw [Chip.log_get _ _ _ _ _ _ _ (by decide), Chip.get_put_self _ _ _ _ _ coreStat_has (by decide)]
  rfl

theorem Chip.coreFail_follows {k : Nat} (h : bitOf (c.get F.CORE_STAT_CORE_FAILED) k = false) :
    Follows (c.dropCore k) (c.coreFail k) := by
  rw [c.coreFail_eq h]
  split_ifs
  · exact Chip.put_follows _ _ _ _ _ (by decide)
  · exact Chip.spareFails_follows _ _
  · exact Chip.roleLost_follows _ _
  · exact Chip.updRecov_follows _ rfl

theorem Chip.coreFail_marked {k : Nat} (hk : k < 10) (h : bitOf (c.get F.CORE_STAT_CORE_FAILED) k = false) :
    bitOf ((c.coreFail k).get F.CORE_STAT_CORE_FAILED) k = true := by
  rw [(c.coreFail_follows h).get _ _ _ (by decide), c.dropCore_get]
  exact bitOf_or_two_pow _ hk

theorem varStat_has : Reg.has .VAR_STAT 0 0 = true := decide_eq_true ⟨Nat.one_pos, Nat.one_pos⟩

/-- The security core has no spare (R408). -/
theorem Chip.coreFail_security (h : bitOf (c.get F.CORE_STAT_CORE_FAILED) 8 = false) :
    (c.coreFail 8).flag F.VAR_STAT_SEC_LOST = true ∧ (c.coreFail 8).recov = c.recov := by
  rw [c.coreFail_eq h, if_pos rfl, Chip.putB_recov, c.dropCore_recov]
  exact ⟨Chip.flag_putB_self _ _ _ _ _ varStat_has (by decide) (by decide), rfl⟩

/-- A spare core that is free is to take the role (R407). -/
theorem Chip.coreFail_takeover {k : Nat} (h : bitOf (c.get F.CORE_STAT_CORE_FAILED) k = false) (hk : k < 8)
    (hrole : c.get F.UNIT_MAP_SPARE_ROLE = 15) (htake : c.recov.takeover = none)
    (hspare : bitOf (c.get F.CORE_STAT_CORE_FAILED) 9 = false) :
    (c.coreFail k).recov = { c.recov with takeover := some k } := by
  have hbit : bitOf ((c.dropCore k).get F.CORE_STAT_CORE_FAILED) 9 = false := by
    rw [c.dropCore_get]
    exact (bitOf_or_two_pow_ne _ (by decide) (by omega)).trans hspare
  rw [c.coreFail_eq h, if_neg (by omega), if_neg (by omega), if_neg (by simp [hrole, c.dropCore_recov, htake, hbit]),
    ← c.dropCore_recov k]
  rfl

/-! ## The obligation -/

theorem exec_cellFailed_up (s : State) {u : UnitId} {n : Nat} (hu : cellNo u = some n) (hup : s.chip.Up) :
    exec (.cellFailed u) s = .next ⟨s.pending, (s.chip.unitFail u).settle⟩ := by
  simp only [exec_cellFailed, Chip.serving_eq _ hup.1 hup.2]
  cases u with
  | cell | text | lane => rfl
  | walker | block | region | core | port | chip => cases hu

theorem exec_walkerFailed_up (s : State) (r : Fin 4) (b : Fin 9) (hup : s.chip.Up) :
    exec (.cellFailed (.walker r b)) s = .next ⟨s.pending, (s.chip.walkerFail r.val b.val).settle⟩ := by
  simp only [exec_cellFailed, Chip.serving_eq _ hup.1 hup.2]
  rfl

theorem exec_blockFailed_up (s : State) (r : Fin 4) (b : Fin 9) (hup : s.chip.Up) :
    exec (.blockFailed r b) s = .next ⟨s.pending, (s.chip.blockFail r.val b.val).settle⟩ := by
  simp only [exec_blockFailed, Chip.serving_eq _ hup.1 hup.2]

theorem exec_controlCoreFailed_up (s : State) (k : Fin 10) (hup : s.chip.Up) :
    exec (.controlCoreFailed k) s = .next ⟨s.pending, (s.chip.coreFail k.val).settle⟩ := by
  simp only [exec_controlCoreFailed, Chip.serving_eq _ hup.1 hup.2]

/-- Settles O43: what the failure of a site, a text cell, a decode lane, a walker, a block and a control core marks, logs and makes
due. -/
theorem failuresAreRecorded : Obligations.FailuresAreRecorded := by
  unfold Obligations.FailuresAreRecorded
  intro s hup c same
  refine ⟨fun r b site => ⟨fun h => ?_, fun h => ?_⟩, fun d h => ?_, fun d h => ?_, fun r b => ⟨fun h => ?_, fun h => ?_, fun h => ?_⟩,
    fun k => ⟨fun h => ?_, fun h => ?_⟩⟩
  · exact (exec_cellFailed_up s rfl hup).trans (by rw [Chip.unitFail, c.siteFail_again h])
  · obtain ⟨hfall, hfol⟩ := c.siteFail_after h
    have hlog := (c.dropSite_fallout r.val b.val site.val).trans hfall
    have hstore := ((c.log_fallout 0x02 (c.siteLoc r.val b.val site.val) none).trans hlog).sameStore
    refine ⟨_, exec_cellFailed_up s rfl hup, rfl, (hfol.settle _).trans (c.dropSite_cellBad _ _ _), (hlog.logged (by decide)).settle,
      ⟨hstore.data, hstore.quiet, hstore.core⟩, fun l hl hsite hnow hspare hmap hfirst => ?_⟩
    obtain ⟨d, hd⟩ := c.siteFail_grafts h hl hsite hnow hspare hmap hfirst
    exact c.siteFail_grafted h hl r.isLt b.isLt hsite hnow hspare hmap hfirst
  · obtain ⟨at_, hr⟩ := c.textFail_replaced h
    obtain ⟨hbad, hbit, hstore⟩ := hr.fails c rfl (by decide) d.isLt
    exact ⟨_, exec_cellFailed_up s rfl hup, rfl, hbad, hbit, hstore.data, hstore.quiet, hstore.core⟩
  · obtain ⟨at_, hr⟩ := c.laneFail_replaced h
    obtain ⟨hbad, hbit, hstore⟩ := hr.fails c rfl (by decide) d.isLt
    exact ⟨_, exec_cellFailed_up s rfl hup, rfl, hbad, hbit, hstore.data, hstore.quiet, hstore.core⟩
  · exact (exec_blockFailed_up s r b hup).trans (by rw [c.blockFail_again h])
  · obtain ⟨hmarks, hlogged, hstore⟩ := c.walkerFail_fails r.isLt b.isLt h
    exact ⟨_, exec_walkerFailed_up s r b hup, rfl, ⟨hmarks.marked, hmarks.others⟩, hlogged, hstore.data, hstore.quiet, hstore.core⟩
  · have hmarks := (c.blockFail_marks r.isLt b.isLt).settle
    have hstore := (c.blockFail_fallout r.val b.val).sameStore
    refine ⟨_, exec_blockFailed_up s r b hup, rfl, ⟨hmarks.marked, hmarks.others⟩, fun l hl => ?_, (c.blockFail_logged h).settle,
      hstore.data, hstore.quiet, hstore.core⟩
    exact (Chip.settle_runOf _ _).trans (c.blockFail_runOf r.isLt h hl)
  · exact (exec_controlCoreFailed_up s k hup).trans (by rw [c.coreFail_again h])
  · refine ⟨_, exec_controlCoreFailed_up s k hup, rfl, ?_, fun hk => ?_, fun hk hrole htake hspare => ?_⟩
    · exact (congrArg (bitOf · k.val) ((Chip.settle_calm _).get_apart (by decide))).trans (c.coreFail_marked k.isLt h)
    · obtain ⟨hlost, hrecov⟩ := c.coreFail_security (hk ▸ h)
      rw [hk]
      exact ⟨((Chip.settle_calm _).flag_apart (by decide)).trans hlost, (Chip.settle_recov _).trans hrecov⟩
    · exact (Chip.settle_recov _).trans (c.coreFail_takeover h hk hrole htake hspare)

end Sys2Proof.Machine
end

section
/-!
PROOFS. What the ends of items and the losses of their records and copies leave alone: the recovery state, the state of the
variants, and the fault log while no edit of the key-value cache that waits copies pages.
-/

namespace Sys2Proof.Machine

/-! ## The relation -/

/-- The registers that the ends of items and the losses of a channel write, beside the log and the counts of uncorrectable words. -/
def lossRegs : List Reg :=
  [.KV_POOL_STAT, .KV_RESV, .KV_OVF, .KV_EPOCH_LO, .KV_CNT1, .PART_CNT, .TXT_CNT2, .SESS_SPOOL, .SESS_CNT1, .HOLD_STAT, .SNS_CREDIT,
    .FAULT_CNT1, .ADAPT_STAT, .ADAPT_SCORE, .JRT_QUOTA]

/-- Those registers lie apart from register `r`. -/
def Reg.offLoss (r : Reg) : Bool := r.offEnd && lossRegs.all (fun q => q.apart r)

/-- An edit that only gives pages back. -/
def kvFrees : KvEdit → Bool
  | .clear _ | .trainEnd _ => true
  | _ => false

/-- Every edit that waits only gives pages back. -/
def Kv.OnlyFrees (k : Kv) : Prop := ∀ e ∈ k.waiting, kvFrees e = true

/-- The words of class and place of the fault log are the same. -/
def SameLog (a b : Chip) : Prop := ∀ e, b.word .FAULT_LOG_W2 e 0 = a.word .FAULT_LOG_W2 e 0

/-- From `a` to `b` items end and what they held is given back; the recovery state, what a command of the data path leaves and the
registers apart stay, and nothing is logged while the edits that wait only give pages back. -/
structure Sheds (a b : Chip) : Prop extends a.Core b where
  recov : b.recov = a.recov
  word : ∀ r i j, r.offLoss = true → b.word r i j = a.word r i j
  log : a.kv.OnlyFrees → b.kv.OnlyFrees ∧ SameLog a b

theorem Sheds.refl (a : Chip) : Sheds a a := ⟨⟨rfl, rfl, rfl, rfl, rfl, rfl⟩, rfl, fun _ _ _ _ => rfl, fun h => ⟨h, fun _ => rfl⟩⟩

theorem Sheds.trans {a b c : Chip} (h : Sheds a b) (k : Sheds b c) : Sheds a c where
  toCore := h.toCore.trans k.toCore
  recov := k.recov.trans h.recov
  word := fun r i j hr => (k.word r i j hr).trans (h.word r i j hr)
  log := fun ha =>
    have ⟨hb, hl⟩ := h.log ha
    have ⟨hc, hl'⟩ := k.log hb
    ⟨hc, fun e => (hl' e).trans (hl e)⟩

theorem Sheds.foldl {β : Type} {g : Chip → β → Chip} (hg : ∀ c x, Sheds c (g c x)) (l : List β) (c : Chip) :
    Sheds c (l.foldl g c) := by
  induction l generalizing c with
  | nil => exact Sheds.refl c
  | cons x l ih => exact (hg c x).trans (ih _)

/-- Work for those deliveries that are not cut. -/
theorem Sheds.foldl_uncut {g : Chip → Deliv → Chip} (hg : ∀ c d, Sheds c (g c d)) (l : List Deliv) (c : Chip) :
    Sheds c (l.foldl (fun c d => if d.cut then c else g c d) c) := by
  refine Sheds.foldl (fun c d => ?_) l c
  split
  · exact Sheds.refl c
  · exact hg c d

/-- Work beside the registers that makes no edit wait. -/
theorem Sheds.aside {a b : Chip} (h : b = { a with
    free := b.free, mem := b.mem, sched := b.sched, streams := b.streams, items := b.items, subs := b.subs, formed := b.formed
    sessions := b.sessions, kv := b.kv, adapt := b.adapt })
    (hw : b.kv.waiting ⊆ a.kv.waiting := by exact fun _ he => he) : Sheds a b where
  toCore := by
    rw [h]
    exact ⟨rfl, rfl, rfl, rfl, rfl, rfl⟩
  recov := by rw [h]
  word := fun _ _ _ _ => by
    rw [h]
    rfl
  log := fun ha => ⟨fun e he => ha e (hw he), fun _ => by
    rw [h]
    rfl⟩

theorem Reg.apart_of_offLoss {r q : Reg} (h : r.offLoss = true) (hq : q ∈ lossRegs) : q.apart r = true :=
  List.all_eq_true.1 (Bool.and_eq_true_iff.1 h).2 q hq

theorem lossRegs_offLog {q : Reg} (h : q ∈ lossRegs) : q.apart .FAULT_LOG_W2 = true :=
  List.all_eq_true.1 (by decide : lossRegs.all (fun q => q.apart .FAULT_LOG_W2) = true) q h

variable (c : Chip)

theorem Chip.put_sheds (f : Fld) (v i j : Nat) (h : f.reg ∈ lossRegs) : Sheds c (c.put f v i j) where
  toCore := c.put_core f v i j
  recov := rfl
  word := fun _ k l hr => c.word_put_apart f v i j k l (Reg.apart_of_offLoss hr h)
  log := fun ha => ⟨ha, fun e => c.word_put_apart f v i j e 0 (lossRegs_offLog h)⟩

theorem Chip.bump_sheds (f : Fld) (i j n : Nat) (h : f.reg ∈ lossRegs) : Sheds c (c.bump f i j n) := c.put_sheds _ _ _ _ h

theorem Chip.modItem_sheds (n : Nat) (f : Item → Item) : Sheds c (c.modItem n f) := .aside rfl

theorem SpoolWork.sheds {a b : Chip} (h : SpoolWork a b) : Sheds a b where
  toCore := h.core
  recov := by rw [h.only]
  word := fun r i j hr => h.word r i j (Reg.apart_of_offLoss hr (by decide)) (Reg.apart_of_offLoss hr (by decide))
  log := fun ha => ⟨by rwa [h.only], fun e => h.word _ e 0 (by decide) (by decide)⟩

theorem Calm.sheds {a b : Chip} (h : Calm a b) : Sheds a b where
  toCore := h.admits.toCore
  recov := h.recov
  word := fun _ i j hr => h.word_apart i j (Reg.apart_of_offLoss hr (by decide))
  log := fun ha => ⟨by rwa [h.kv], fun e => h.word_apart e 0 (by decide)⟩

/-! ## Edits that give pages back -/

theorem Chip.modKvSlot_sheds (q : Nat) (f : KvSlot → KvSlot) : Sheds c (c.modKvSlot q f) := .aside rfl

theorem Chip.setAdapt_sheds (a : Adapt) : Sheds c { c with adapt := a } := .aside rfl

/-- An update of the cache that makes no edit wait. -/
theorem Chip.updKv_sheds {f : Kv → Kv} (h : (f c.kv).waiting ⊆ c.kv.waiting) : Sheds c (c.updKv f) := .aside rfl h

theorem Chip.showKv_sheds : Sheds c c.showKv := by
  unfold Chip.showKv
  extract_lets inPool limbo ovf c1 c2 c3 c4
  exact ((((c.put_sheds _ _ _ _ (by decide)).trans (c1.put_sheds _ _ _ _ (by decide))).trans
    (c2.put_sheds _ _ _ _ (by decide))).trans (c3.put_sheds _ _ _ _ (by decide))).trans (c4.put_sheds _ _ _ _ (by decide))

theorem Chip.kvPublish_sheds (q : Nat) (new : List (BitVec 32)) : Sheds c (c.kvPublish q new) := by
  unfold Chip.kvPublish Chip.kvRecount
  exact ((((c.modKvSlot_sheds q _).trans (Chip.updKv_sheds _ (fun _ he => he))).trans (Chip.showKv_sheds _)).trans
    (Chip.updKv_sheds _ (fun _ he => he))).trans (Chip.showKv_sheds _)

theorem Chip.kvEdit_sheds {e : KvEdit} (h : kvFrees e = true) : Sheds c (c.kvEdit e) := by
  unfold Chip.kvEdit
  cases e with
  | clear q =>
    dsimp only
    split
    · exact Sheds.refl c
    · exact (c.kvPublish_sheds q []).trans (Chip.modKvSlot_sheds _ q _)
  | trainEnd k =>
    dsimp only
    split
    · exact Sheds.refl c
    · exact ((c.setAdapt_sheds _).trans (Chip.kvPublish_sheds _ _ [])).trans (Chip.modKvSlot_sheds _ _ _)
  | train | append | attach | release | anchor => cases h

/-- Edits that only give pages back log nothing as they run. -/
theorem kvDrain_log (fuel : Nat) {c : Chip} (h : c.kv.OnlyFrees) : (kvDrain fuel c).kv.OnlyFrees ∧ SameLog c (kvDrain fuel c) := by
  induction fuel generalizing c with
  | zero => exact ⟨h, fun _ => rfl⟩
  | succ fuel ih =>
    unfold kvDrain
    split
    · exact ⟨h, fun _ => rfl⟩
    · next e r hw =>
      split_ifs
      · exact ⟨h, fun _ => rfl⟩
      · exact ⟨h, fun _ => rfl⟩
      · exact ((c.bump_sheds F.KV_CNT1_EDIT_WAIT 0 0 1 (by decide)).trans (Chip.updKv_sheds _ (fun _ he => he))).log h
      · have hrest : ({ c.kv with waiting := r, counted := false } : Kv).OnlyFrees := fun x hx =>
          h x (hw ▸ List.mem_cons_of_mem e hx)
        obtain ⟨hfrees, hlog⟩ := ((c.updKv (fun k => { k with waiting := r, counted := false })).kvEdit_sheds
          (h e (hw ▸ List.mem_cons_self))).log hrest
        obtain ⟨hlast, hdrain⟩ := ih hfrees
        exact ⟨hlast, fun x => (hdrain x).trans (hlog x)⟩

/-- An edit that only gives pages back, after those that wait. -/
theorem Chip.kvTableEdit_sheds {e : KvEdit} (h : kvFrees e = true) : Sheds c (c.kvTableEdit e) := by
  have hend : NoEnd c (c.kvTableEdit e) := (c.updKv_noEnd _).trans (kvDrain_noEnd _ _)
  have hwork : KvWork c (c.kvTableEdit e) := (c.updKv_kvWork _).trans (kvDrain_kvWork _ _)
  refine ⟨hend.toCore, ?_, fun r i j hr => hend.word r i j (Bool.and_eq_true_iff.1 hr).1, fun ha => ?_⟩
  · rw [hwork.only]
  · refine kvDrain_log _ (fun x hx => ?_)
    rcases List.mem_append.1 hx with hx | hx
    · exact ha x hx
    · rwa [List.mem_singleton.1 hx]

theorem Chip.kvFreeItem_sheds (n : Nat) : Sheds c (c.kvFreeItem n) := by
  unfold Chip.kvFreeItem
  split
  · exact Sheds.refl c
  · exact ((c.updKv_sheds (fun _ he => (List.mem_filter.1 he).1)).trans (Chip.modItem_sheds _ n _)).trans (Chip.kvTableEdit_sheds _ rfl)

/-! ## The end of an item -/

theorem Chip.form_sheds (i : Item) (d : Deliv) (kind : Nat) (bytes : List Byte) : Sheds c (c.form i d kind bytes) := .aside rfl

theorem Chip.formBegin_sheds (n : Nat) : Sheds c (c.formBegin n) := by
  unfold Chip.formBegin
  split
  · exact Sheds.refl c
  · split
    · exact Sheds.refl c
    · next i _ _ => exact (c.modItem_sheds n _).trans (Sheds.foldl_uncut (fun c d => c.form_sheds i d _ _) _ _)

theorem Chip.formField_sheds (n k : Nat) : Sheds c (c.formField n k) := by
  unfold Chip.formField
  split
  · exact Sheds.refl c
  · split
    · exact Sheds.refl c
    · dsimp only
      refine Sheds.foldl (fun c d => ?_) _ c
      split_ifs
      · exact Sheds.refl c
      · exact c.form_sheds _ _ _ _
      · exact (c.form_sheds _ _ _ _).trans (Chip.modItem_sheds _ n _)

theorem Chip.giveSpool_sheds (s n : Nat) : Sheds c (c.giveSpool s n) := (c.hold_spoolWork s _).sheds

theorem Chip.creditReturn_sheds (n : Nat) : Sheds c (c.creditReturn n) := by
  unfold Chip.creditReturn
  split
  · exact Sheds.refl c
  · extract_lets c1 c2 c3 s c4
    have h3 : Sheds c c3 := .aside rfl
    have h4 : Sheds c c4 := by
      unfold c4
      split
      · exact h3.trans (.aside rfl)
      · exact h3
    clear_value c3 c4
    split_ifs
    · exact h3.trans (c3.put_sheds _ _ _ _ (by decide))
    · exact h3.trans (c3.put_sheds _ _ _ _ (by decide))
    · exact h3
    · exact h4.trans (c4.grant_calm s).sheds

theorem Chip.endCore_sheds (n : Nat) (v : Verdict) : Sheds c (c.endCore n v) := by
  unfold Chip.endCore
  split
  · exact Sheds.refl c
  · split
    · exact Sheds.refl c
    · extract_lets op c1 c2 c3 c4
      have h3 : Sheds c c3 :=
        ((c.formBegin_sheds n).trans (c1.bump_sheds _ _ _ _ (by decide))).trans (c2.modItem_sheds n _)
      have h4 : Sheds c c4 := by
        unfold c4
        split
        · exact h3
        · exact h3.trans (Sheds.foldl (fun c k => c.formField_sheds n k) _ c3)
      clear_value c4
      split
      · exact h4
      · next i _ =>
        extract_lets kinds c5
        have h5 : Sheds c c5 := h4.trans (Sheds.foldl_uncut (fun c d => c.form_sheds i d 4 (endRec i v d kinds)) _ c4)
        clear_value c5
        split
        · exact h5
        · extract_lets c6 mand wait c7 c8
          have h8 : Sheds c c8 :=
            (h5.trans (Sheds.foldl_uncut (fun c d => c.giveSpool_sheds d.sess d.left) _ c5)).trans (.aside rfl)
          clear_value c8
          split
          · exact h8.trans (c8.creditReturn_sheds n)
          · exact h8

theorem Chip.writeSample_sheds (i : Item) (status : Nat) : Sheds c (c.writeSample i status) := by
  unfold Chip.writeSample
  dsimp only
  split
  · exact Sheds.refl c
  · exact .aside rfl

theorem Chip.endItem_sheds (n : Nat) (v : Verdict) : Sheds c (c.endItem n v) := by
  unfold Chip.endItem
  split
  · exact Sheds.refl c
  · next i _ =>
    split
    · exact Sheds.refl c
    · extract_lets c1 c2 c3
      have h1 : Sheds c c1 := by
        unfold c1
        split
        · exact c.bump_sheds _ _ _ _ (by decide)
        · exact Sheds.refl c
      exact (((h1.trans (c1.kvFreeItem_sheds n)).trans (c2.writeSample_sheds i _)).trans (c3.modItem_sheds n _)).trans
        (Chip.endCore_sheds _ n v)

theorem Chip.endDue_sheds (n : Nat) : Sheds c (c.endDue n) := by
  unfold Chip.endDue
  split
  · exact Sheds.refl c
  · split
    · exact Sheds.refl c
    · split
      · exact Sheds.refl c
      · exact c.endItem_sheds n _

/-! ## An item that is stopped -/

theorem Chip.stopItem_sheds (n : Nat) (why : List Byte) : Sheds c (c.stopItem n why) := by
  unfold Chip.stopItem
  split
  · exact Sheds.refl c
  · split
    · exact Sheds.refl c
    · exact (c.modItem_sheds n _).trans (Chip.bump_sheds _ _ _ _ _ (by decide))

theorem Chip.stopItem_formWork (n : Nat) (why : List Byte) : FormWork c (c.stopItem n why) := by
  unfold Chip.stopItem
  split
  · exact FormWork.refl c
  · split
    · exact FormWork.refl c
    · exact ⟨rfl⟩

end Sys2Proof.Machine
end

section
/-!
PROOFS. Re-runs and the switch of variants: an item that resumes or is stopped, the tables of the variant that takes over, and the
hold without a successor.
-/

namespace Sys2Proof.Machine

variable (c : Chip)

/-! ## An item that is stopped and has no step running -/

/-- An item that is marked to end as R393 states. -/
def Item.stopWith (why : List Byte) (i : Item) : Item := { i with endNext := some (i.r393 why), cutWhy := why }

/-- An item has been stopped, for a reason that its verdict gives where no field has ended valid (R393). -/
structure Chip.Stops (c t : Chip) (i : Item) (why : List Byte) : Prop extends c.Core t where
  verdict : ∀ j ∈ t.items.list, j.ended = some (i.r393 why)
  counted : c.Counted t F.FAULT_CNT1_RERUN_FAIL
  recov : t.recov = c.recov

theorem faultCnt1_has : Reg.has .FAULT_CNT1 0 0 = true := decide_eq_true ⟨Nat.one_pos, Nat.one_pos⟩

theorem faultCnt1_ne_credit (k : Nat) : Reg.addr .FAULT_CNT1 0 0 ≠ Reg.addr .SNS_CREDIT k 0 := by
  simp only [Reg.addr, Reg.info]
  omega

section
variable {c} {i : Item} (hlist : c.items.list = [i]) (he : i.ended = none)
include hlist he

theorem Chip.stopItem_single (why : List Byte) :
    c.stopItem i.num why = (c.modItem i.num (Item.stopWith why)).bump F.FAULT_CNT1_RERUN_FAIL := by
  unfold Chip.stopItem
  rw [c.item_single hlist]
  dsimp only
  rw [he]
  rfl

theorem Chip.stopItem_stops (hruns : c.itemRuns i.num = false) {why : List Byte} (hwhy : why ≠ []) :
    c.Stops ((c.stopItem i.num why).endDue i.num) i why := by
  have hsheds := (c.stopItem_sheds i.num why).trans (Chip.endDue_sheds _ i.num)
  have hmod : (c.modItem i.num (Item.stopWith why)).items.list = [i.stopWith why] := c.modItem_single hlist _
  have hcount := Chip.bump_counted (c.modItem i.num (Item.stopWith why)) F.FAULT_CNT1_RERUN_FAIL faultCnt1_has (by decide)
  rw [Chip.stopItem_single hlist he] at hsheds ⊢
  have hstop : ((c.modItem i.num (Item.stopWith why)).bump F.FAULT_CNT1_RERUN_FAIL).items.list = [i.stopWith why] := hmod
  have hrun : ((c.modItem i.num (Item.stopWith why)).bump F.FAULT_CNT1_RERUN_FAIL).itemRuns i.num = false := hruns
  generalize (c.modItem i.num (Item.stopWith why)).bump F.FAULT_CNT1_RERUN_FAIL = d at *
  have hitem : d.item i.num = some (i.stopWith why) := d.item_single hstop
  have hdue : d.endDue i.num = d.endItem i.num (i.r393 why) := by
    unfold Chip.endDue
    rw [hitem]
    dsimp only [Item.stopWith]
    rw [hrun, if_neg Bool.false_ne_true, if_neg hwhy]
    rfl
  have hended : d.Ended (d.endItem i.num (i.r393 why)) i.num (i.r393 why) := d.endItem_ended hitem he _
  rw [hdue] at hsheds ⊢
  refine ⟨hsheds.toCore, fun j hj => (hended.all (i := i.stopWith why) hstop hj).2, ?_, hsheds.recov⟩
  exact Chip.Counted.of_get (c := c) hcount (Chip.get_of_word _ (hended.word _ _ _ (by decide) faultCnt1_ne_credit))

end

/-! ## Re-runs -/

/-- An item is taken off those that are to be re-run. -/
def Chip.takeRerun (c : Chip) (n : Nat) : Chip := c.updRecov (fun v => { v with rerun := v.rerun.filter (· ≠ n) })

theorem Chip.takeRerun_not_mem (n : Nat) : n ∉ (c.takeRerun n).recov.rerun := fun h => by
  simpa using (List.mem_filter.1 h).2

theorem Chip.takeRerun_core (n : Nat) : c.Core (c.takeRerun n) := ⟨rfl, rfl, rfl, rfl, rfl, rfl⟩

/-- An item that resumes from its last commit point (R391). -/
def Item.resume (i : Item) : Item := { i with reruns := i.reruns + 1, wides := i.wideMark }

/-- An item resumes from its last commit point and is counted. -/
def Chip.resumed (c : Chip) (n : Nat) : Chip := ((c.takeRerun n).modItem n Item.resume).bump F.FAULT_CNT1_RERUN

theorem Chip.itemRerun_none {n : Nat} (h : n ∉ c.recov.rerun) : c.itemRerun n = c := by
  unfold Chip.itemRerun
  rw [if_pos (by simpa using h)]

section
variable {c} {i : Item} (hmem : i.num ∈ c.recov.rerun) (hlist : c.items.list = [i]) (he : i.ended = none) (hn : i.endNext = none)
include hmem hlist he hn

/-- An item that waits for its re-run and for no end: it is stopped at the limit or when an input is lost, else it resumes. -/
theorem Chip.itemRerun_cases : c.itemRerun i.num =
    if c.get F.FAULT_CFG_RERUN_MAX ≤ i.reruns then ((c.takeRerun i.num).stopItem i.num (txt "rerun-limit")).endDue i.num
    else if i.lost || c.inputPoisoned i then ((c.takeRerun i.num).stopItem i.num (txt "input-lost")).endDue i.num
    else
      if i.kvSlot.isSome then (c.resumed i.num).kvTableEdit (.release i.num i.kvMark) else c.resumed i.num := by
  unfold Chip.itemRerun
  rw [if_neg (by simpa using hmem)]
  have hitem : (c.takeRerun i.num).item i.num = some i := (c.takeRerun i.num).item_single hlist
  unfold Chip.takeRerun at hitem
  dsimp only
  rw [hitem]
  dsimp only
  rw [he, hn]
  rfl

end

/-- An item leaves the re-runs stopped. -/
structure Chip.StopsRerun (c t : Chip) (i : Item) (why : List Byte) : Prop extends c.Core t where
  verdict : ∀ j ∈ t.items.list, j.ended = some (i.r393 why)
  taken : i.num ∉ t.recov.rerun
  counted : c.Counted t F.FAULT_CNT1_RERUN_FAIL

theorem Chip.takeRerun_stops {i : Item} (hlist : c.items.list = [i]) (he : i.ended = none) (hruns : c.itemRuns i.num = false)
    {why : List Byte} (hwhy : why ≠ []) : c.StopsRerun (((c.takeRerun i.num).stopItem i.num why).endDue i.num).settle i why := by
  have hstop := Chip.stopItem_stops (c := c.takeRerun i.num) hlist he hruns hwhy
  generalize ((c.takeRerun i.num).stopItem i.num why).endDue i.num = t at hstop
  refine ⟨(c.takeRerun_core _).trans (hstop.toCore.trans t.settle_core), fun j hj => hstop.verdict j (by rwa [Chip.settle_items] at hj), ?_,
    Chip.Counted.settle c (Chip.Counted.of_start c hstop.counted rfl) (by decide)⟩
  rw [Chip.settle_recov, hstop.recov]
  exact c.takeRerun_not_mem _

theorem Chip.resumed_list {i : Item} (hlist : c.items.list = [i]) : (c.resumed i.num).items.list = [i.resume] :=
  (c.takeRerun i.num).modItem_single hlist _

theorem Chip.resumed_counted (n : Nat) : c.Counted (c.resumed n) F.FAULT_CNT1_RERUN :=
  Chip.Counted.of_start c (Chip.bump_counted _ F.FAULT_CNT1_RERUN faultCnt1_has (by decide)) rfl

theorem Chip.resumed_resumes {i : Item} (hlist : c.items.list = [i]) :
    (c.resumed i.num).settle.items.list = [i.resume] ∧ c.Counted (c.resumed i.num).settle F.FAULT_CNT1_RERUN ∧
      i.num ∉ (c.resumed i.num).settle.recov.rerun ∧ (c.resumed i.num).settle.mem = c.mem ∧ c.Core (c.resumed i.num).settle := by
  have hcore : c.Core (c.resumed i.num) := ⟨rfl, rfl, rfl, rfl, rfl, rfl⟩
  rw [Chip.settle_items, Chip.settle_recov, Chip.settle_mem]
  exact ⟨c.resumed_list hlist, Chip.Counted.settle c (c.resumed_counted _) (by decide), c.takeRerun_not_mem _, rfl,
    hcore.trans (Chip.settle_core _)⟩

/-! ## The tables of a variant -/

/-- From `a` to `b` registers of the list `l`, the layout of DDR4, the gate lists in force and the slots that blocks serve next have
changed. -/
structure Retables (l : List Reg) (a b : Chip) : Prop where
  only : b = { a with regs := b.regs, mem := { a.mem with ddrHnd := b.mem.ddrHnd }, sched := { a.sched with served := b.sched.served }
                      net := b.net }
  word : ∀ r i j, (∀ q ∈ l, q.apart r = true) → b.word r i j = a.word r i j

theorem Retables.refl (l : List Reg) (a : Chip) : Retables l a a := ⟨rfl, fun _ _ _ _ => rfl⟩

theorem Retables.trans {l : List Reg} {a b c : Chip} (h : Retables l a b) (k : Retables l b c) : Retables l a c where
  only := k.only.trans (by rw [h.only])
  word := fun r i j hr => (k.word r i j hr).trans (h.word r i j hr)

theorem Retables.foldl {β : Type} {l : List Reg} {g : Chip → β → Chip} (hg : ∀ c x, Retables l c (g c x)) (xs : List β) (c : Chip) :
    Retables l c (xs.foldl g c) := by
  induction xs generalizing c with
  | nil => exact Retables.refl l c
  | cons x xs ih => exact (hg c x).trans (ih _)

theorem Retables.mono {l m : List Reg} {a b : Chip} (h : Retables l a b) (hm : ∀ q ∈ l, q ∈ m) : Retables m a b :=
  ⟨h.only, fun r i j hr => h.word r i j (fun q hq => hr q (hm q hq))⟩

theorem Retables.get {l : List Reg} {a b : Chip} (h : Retables l a b) (f : Fld) (i j : Nat) (hf : ∀ q ∈ l, q.apart f.reg = true) :
    b.get f i j = a.get f i j := Chip.get_of_word f (h.word _ i j hf)

theorem Chip.setWord_retables {l : List Reg} {r : Reg} (i j v : Nat) (h : r ∈ l) : Retables l c (c.setWord r i j v) :=
  ⟨rfl, fun _ _ _ hr => c.word_setWord_apart _ _ _ _ _ (hr r h)⟩

theorem Chip.put_retables {l : List Reg} {f : Fld} (v i j : Nat) (h : f.reg ∈ l) : Retables l c (c.put f v i j) :=
  c.setWord_retables _ _ _ h

/-- The registers of a variant's hedges, and those that show which variant runs and what it sheds. -/
def hedgeRegs : List Reg := [.HEDGE, .HEDGE_SYS]

/-- The registers that show the depth, what is shed and the length of the table. -/
def depthRegs : List Reg := [.VAR_STAT, .VAR_SHED_SUB, .SCHED_STAT]

def variantRegs : List Reg := hedgeRegs ++ .SCHED_CFG :: depthRegs

theorem loadHedge_retables (aw : Nat × Word) : Retables hedgeRegs c (loadHedge c aw) := by
  unfold loadHedge
  split
  · exact c.setWord_retables _ _ _ (by decide)
  · exact c.setWord_retables _ _ _ (by decide)
  · exact Retables.refl _ c

theorem loadHedge_onlyRegs (aw : Nat × Word) : OnlyRegs c (loadHedge c aw) := by
  unfold loadHedge
  split
  · exact c.setWord_onlyRegs _ _ _ _
  · exact c.setWord_onlyRegs _ _ _ _
  · exact OnlyRegs.refl c

theorem OnlyRegs.mem {a b : Chip} (h : OnlyRegs a b) : b.mem = a.mem := by
  obtain ⟨r, f, rfl⟩ := h
  rfl

/-- The hedges, the layout of DDR4 and the number of a variant. -/
def Chip.layOut (c : Chip) (v : Variant) : Chip :=
  ((v.hedges.foldl loadHedge c).updMem (fun m => { m with
    ddrHnd := v.ddrHandles.foldl (fun t e => smSet 0 t e.1 e.2) m.ddrHnd })).put F.SCHED_CFG_VARIANT v.id

theorem Chip.layOut_retables (v : Variant) : Retables variantRegs c (c.layOut v) :=
  have hhedges : Retables variantRegs c (v.hedges.foldl loadHedge c) :=
    (Retables.foldl loadHedge_retables v.hedges c).mono (by decide)
  have hlayout : Retables variantRegs c ((v.hedges.foldl loadHedge c).updMem (fun m => { m with
      ddrHnd := v.ddrHandles.foldl (fun t e => smSet 0 t e.1 e.2) m.ddrHnd })) := hhedges.trans ⟨rfl, fun _ _ _ _ => rfl⟩
  hlayout.trans (Chip.put_retables _ _ _ _ (by decide))

theorem Chip.layOut_ddrHnd (v : Variant) :
    (c.layOut v).mem.ddrHnd = v.ddrHandles.foldl (fun m e => smSet 0 m e.1 e.2) c.mem.ddrHnd :=
  congrArg (fun m : Mem => v.ddrHandles.foldl (fun (t : SMap (BitVec 64)) (e : Nat × BitVec 64) => smSet 0 t e.1 e.2) m.ddrHnd)
    (foldl_onlyRegs loadHedge_onlyRegs v.hedges c).mem

theorem schedCfg_has : Reg.has .SCHED_CFG 0 0 = true := decide_eq_true ⟨Nat.one_pos, Nat.one_pos⟩

theorem Chip.layOut_variant (v : Variant) : (c.layOut v).get F.SCHED_CFG_VARIANT = v.id % 4096 :=
  Chip.get_put_self _ _ _ _ _ schedCfg_has (by decide)

theorem Chip.useVariant_shows (v : Variant) : OnlyRegs (c.layOut v) (c.useVariant v) ∧ Retables depthRegs (c.layOut v) (c.useVariant v) := by
  unfold Chip.useVariant foldN
  extract_lets c1 c2 c3 c4 c5 c6
  have h3 : c3 = c.layOut v := rfl
  rw [← h3]
  clear_value c3
  exact ⟨((c3.put_onlyRegs _ _ _ _).trans ((c4.put_onlyRegs _ _ _ _).trans (c5.put_onlyRegs _ _ _ _))).trans
      (foldl_onlyRegs (fun c r => c.put_onlyRegs _ _ _ _) _ _),
    ((c3.put_retables _ _ _ (by decide)).trans ((c4.put_retables _ _ _ (by decide)).trans (c5.put_retables _ _ _ (by decide)))).trans
      (Retables.foldl (fun c r => c.put_retables _ _ _ (by decide)) _ _)⟩

theorem Chip.useVariant_retables (v : Variant) : Retables variantRegs c (c.useVariant v) :=
  (c.layOut_retables v).trans ((c.useVariant_shows v).2.mono (by decide))

theorem Chip.useVariant_variant (v : Variant) : (c.useVariant v).get F.SCHED_CFG_VARIANT = v.id % 4096 :=
  ((c.useVariant_shows v).2.get _ _ _ (by decide)).trans (c.layOut_variant v)

theorem Chip.useVariant_ddrHnd (v : Variant) :
    (c.useVariant v).mem.ddrHnd = v.ddrHandles.foldl (fun m e => smSet 0 m e.1 e.2) c.mem.ddrHnd :=
  (congrArg Mem.ddrHnd (c.useVariant_shows v).1.mem).trans (c.layOut_ddrHnd v)

/-- A block serves the tables from the slot that the clock is in on. -/
def Chip.serveNow (c : Chip) (u : Nat) : Chip := c.serveFrom u c.slotNo

/-- All blocks serve from there on, and the gate lists start. -/
def Chip.restart (c : Chip) : Chip := (foldN 40 Chip.serveNow c).startLists

theorem Chip.serveNow_retables (l : List Reg) (u : Nat) : Retables l c (c.serveNow u) := ⟨rfl, fun _ _ _ _ => rfl⟩

theorem Chip.serveNow_mem (u : Nat) : (c.serveNow u).mem = c.mem := rfl

theorem Chip.enterGate_retables (l : List Reg) (x i start : Nat) : Retables l c (c.enterGate x i start) := by
  unfold Chip.enterGate
  split <;> exact ⟨rfl, fun _ _ _ _ => rfl⟩

theorem Chip.restart_retables (l : List Reg) : Retables l c c.restart :=
  (Retables.foldl (fun c u => c.serveNow_retables l u) _ c).trans (Retables.foldl (fun c x => c.enterGate_retables l x 0 _) _ _)

theorem foldl_mem {β : Type} {g : Chip → β → Chip} (hg : ∀ c x, (g c x).mem = c.mem) (l : List β) (c : Chip) :
    (l.foldl g c).mem = c.mem := by
  induction l generalizing c with
  | nil => rfl
  | cons x l ih => exact (ih _).trans (hg c x)

theorem Chip.enterGate_mem (x i start : Nat) : (c.enterGate x i start).mem = c.mem := by
  unfold Chip.enterGate
  split <;> rfl

theorem Chip.restart_mem : c.restart.mem = c.mem :=
  (foldl_mem (fun c x => c.enterGate_mem x 0 _) _ _).trans (foldl_mem (fun c u => c.serveNow_mem u) _ c)

/-- With no change of the rename maps due, none takes effect. -/
theorem Chip.graftDue_none (h : c.fabric.mapPend = []) (ready : Nat → Bool) : c.graftDue ready = c := by
  have hmaps : c.applyMaps ready = c := by
    unfold Chip.applyMaps
    rw [h]
    dsimp only [List.filter_nil, List.foldl_nil]
    rw [← h]
  unfold Chip.graftDue
  rw [h, hmaps]
  rfl

/-! ## The switch -/

/-- All steps have been lost and the variant's tables serve. -/
def Chip.switched (c : Chip) (v : Variant) : Chip := ((c.loseRegion 0 40).useVariant v).restart

/-- The degradations that the variants cover from here on, and those that wait. -/
def Chip.noteDegr (c : Chip) (l rest : List Degradation) : Chip := c.updRecov (fun v => { v with degr := l, waiting := rest })

/-- The switch is counted, and whether another one follows is shown. -/
def Chip.countSwitch (c : Chip) (rest : List Degradation) : Chip :=
  ((c.bump F.FAULT_CNT1_SWITCH).putB F.VAR_STAT_SWITCHING (rest ≠ [])).retarget

/-- The switch is recorded, logged and counted. -/
def Chip.endSwitch (c : Chip) (l rest : List Degradation) (detail : Nat) : Chip :=
  ((c.noteDegr l rest).log 0x39 Loc.none (some detail)).countSwitch rest

theorem Chip.loseRegion_beside (r n : Nat) : Beside c (c.loseRegion r n) := Beside.foldl (fun c _ => c.loseStep_beside _) _ c

theorem Chip.loseRegion_get (r n : Nat) {f : Fld} (i j : Nat) (h : Reg.apart .PART_CFG f.reg = true) :
    (c.loseRegion r n).get f i j = c.get f i j := by
  induction n with
  | zero => rfl
  | succ n ih =>
    rw [c.loseRegion_succ, ← ih]
    exact Chip.get_of_word f (Chip.loseStep_word _ _ i j h)

theorem Chip.loseAll_eq : foldN 40 (fun c u => c.loseStep u) c = c.loseRegion 0 40 := by
  unfold foldN Chip.loseRegion
  simp only [Nat.mul_zero, Nat.zero_add]

theorem Retables.kv {l : List Reg} {a b : Chip} (h : Retables l a b) : b.kv = a.kv := by
  rw [h.only]

theorem Retables.core {l : List Reg} {a b : Chip} (h : Retables l a b) : a.Core b := by
  rw [h.only]
  exact ⟨rfl, rfl, rfl, rfl, rfl, rfl⟩

theorem Retables.runOf {l : List Reg} {a b : Chip} (h : Retables l a b) (u : Nat) : b.runOf u = a.runOf u := by
  unfold Chip.runOf
  rw [h.only]

theorem Retables.mem {l : List Reg} {a b : Chip} (h : Retables l a b) : { b.mem with ddrHnd := a.mem.ddrHnd } = a.mem := by
  rw [h.only]

/-- What the tables of the variant that takes over leave. -/
structure Chip.Switched (c t : Chip) (v : Variant) : Prop extends c.Core t where
  variant : t.get F.SCHED_CFG_VARIANT = v.id % 4096
  ended : ∀ u, u < 40 → t.runOf u = none
  data : c.mem.SameData { t.mem with ddrHnd := c.mem.ddrHnd }
  layout : t.mem.ddrHnd = v.ddrHandles.foldl (fun m e => smSet 0 m e.1 e.2) c.mem.ddrHnd
  kv : t.kv = c.kv
  switches : t.get F.FAULT_CNT1_SWITCH = c.get F.FAULT_CNT1_SWITCH
  next : t.get F.FAULT_LOG_PTR_NEXT = c.get F.FAULT_LOG_PTR_NEXT

theorem Chip.switched_switched (v : Variant) : c.Switched (c.switched v) v := by
  have hlost := c.loseRegion_fallout 0 40
  have hd : (c.loseRegion 0 40).mem.ddrHnd = c.mem.ddrHnd := by
    rw [hlost.data]
  have hv := (c.loseRegion 0 40).useVariant_retables v
  have ht : Retables variantRegs (c.loseRegion 0 40) (c.switched v) := hv.trans (Chip.restart_retables _ _)
  have hget : ∀ f : Fld, Reg.apart .PART_CFG f.reg = true → (∀ q ∈ variantRegs, q.apart f.reg = true) →
      (c.switched v).get f = c.get f := fun f hp hr => (ht.get f 0 0 hr).trans (c.loseRegion_get 0 40 0 0 hp)
  exact {
    toCore := hlost.core.trans ht.core
    variant := ((Chip.restart_retables _ []).get _ _ _ (by decide)).trans (Chip.useVariant_variant _ v)
    ended := fun u hu => (ht.runOf u).trans (by simpa using c.loseRegion_runOf (r := 0) hu)
    data := by
      rw [← hd, ht.mem]
      exact hlost.data
    layout := by
      rw [← hd]
      exact (congrArg Mem.ddrHnd (Chip.restart_mem _)).trans (Chip.useVariant_ddrHnd _ v)
    kv := ht.kv.trans (c.loseRegion_beside 0 40).kv
    switches := hget _ (by decide) (by decide)
    next := hget _ (by decide) (by decide) }

theorem OnlyRegs.retarget {a b : Chip} (h : OnlyRegs a b) : ∃ r f x,
    b.retarget = { a with regs := r, free := f, recov := { a.recov with target := x } } := by
  obtain ⟨r, f, rfl⟩ := h
  exact ⟨_, _, _, rfl⟩

theorem Chip.bump_onlyRegs (f : Fld) (i j n : Nat) : OnlyRegs c (c.bump f i j n) := ⟨_, c.free, rfl⟩

theorem Chip.putB_onlyRegs (f : Fld) (v : Bool) (i j : Nat) : OnlyRegs c (c.putB f v i j) := ⟨_, c.free, rfl⟩

theorem Chip.word_bump_apart (f : Fld) (i j n : Nat) {q : Reg} (k l : Nat) (h : f.reg.apart q = true) :
    (c.bump f i j n).word q k l = c.word q k l := c.word_setWord_apart _ _ _ _ _ h

theorem Chip.word_putB_apart (f : Fld) (v : Bool) (i j : Nat) {q : Reg} (k l : Nat) (h : f.reg.apart q = true) :
    (c.putB f v i j).word q k l = c.word q k l := c.word_setWord_apart _ _ _ _ _ h

theorem Chip.retarget_word (r : Reg) (i j : Nat) : c.retarget.word r i j = c.word r i j := rfl

theorem Chip.countSwitch_word (rest : List Degradation) (r : Reg) (i : Nat) (hc : Reg.apart .FAULT_CNT1 r = true)
    (hv : Reg.apart .VAR_STAT r = true) : (c.countSwitch rest).word r i 0 = c.word r i 0 :=
  (Chip.retarget_word _ r i 0).trans
    ((Chip.word_putB_apart _ F.VAR_STAT_SWITCHING _ 0 0 i 0 hv).trans (Chip.word_bump_apart _ F.FAULT_CNT1_SWITCH 0 0 1 i 0 hc))

theorem Chip.countSwitch_counted (rest : List Degradation) : c.Counted (c.countSwitch rest) F.FAULT_CNT1_SWITCH :=
  Chip.Counted.of_get (c := c) (c.bump_counted F.FAULT_CNT1_SWITCH faultCnt1_has (by decide))
    (Chip.get_of_word F.FAULT_CNT1_SWITCH ((Chip.retarget_word _ _ _ _).trans (Chip.word_putB_apart _ F.VAR_STAT_SWITCHING _ 0 0 0 0 (by decide))))

theorem Chip.countSwitch_only (rest : List Degradation) : ∃ r f x,
    c.countSwitch rest = { c with regs := r, free := f, recov := { c.recov with target := x } } :=
  ((c.bump_onlyRegs F.FAULT_CNT1_SWITCH 0 0 1).trans (Chip.putB_onlyRegs _ F.VAR_STAT_SWITCHING _ 0 0)).retarget

theorem Chip.endSwitch_only (l rest : List Degradation) (n : Nat) : ∃ r f x, c.endSwitch l rest n =
    { c with regs := r, free := f, recov := { c.recov with degr := l, waiting := rest, target := x } } := by
  obtain ⟨r, f, hlog⟩ := (c.noteDegr l rest).log_onlyRegs 0x39 Loc.none (some n)
  obtain ⟨r', f', x, hcount⟩ := ((c.noteDegr l rest).log 0x39 Loc.none (some n)).countSwitch_only rest
  refine ⟨r', f', x, hcount.trans ?_⟩
  rw [hlog]
  rfl

/-- What the record of the switch leaves. -/
structure Chip.EndsSwitch (c t : Chip) : Prop where
  variant : t.get F.SCHED_CFG_VARIANT = c.get F.SCHED_CFG_VARIANT
  counted : c.Counted t F.FAULT_CNT1_SWITCH
  logged : c.Logged t 0x39 Loc.none

theorem Chip.endSwitch_ends (l rest : List Degradation) (n : Nat) : c.EndsSwitch (c.endSwitch l rest n) := by
  unfold Chip.endSwitch
  have hentry : c.Logged ((c.noteDegr l rest).log 0x39 Loc.none (some n)) 0x39 Loc.none := (Chip.log_entry _ _ _ _).1
  have hget : ∀ f : Fld, f.reg.offLog = true → ((c.noteDegr l rest).log 0x39 Loc.none (some n)).get f = c.get f :=
    fun f hf => Chip.log_get _ _ _ _ f 0 0 hf
  generalize (c.noteDegr l rest).log 0x39 Loc.none (some n) = a at *
  exact ⟨(Chip.get_of_word F.SCHED_CFG_VARIANT (a.countSwitch_word rest _ 0 (by decide) (by decide))).trans (hget _ (by decide)),
    Chip.Counted.of_start c (a.countSwitch_counted rest) (hget F.FAULT_CNT1_SWITCH (by decide)),
    hentry.of_word (fun e => a.countSwitch_word rest _ e (by decide) (by decide))⟩

/-- A switch that can be made, with no graft due and no edit waiting. -/
theorem Chip.variantSwitch_switches {d : Degradation} {rest : List Degradation} {v : Variant} (hw : c.recov.waiting = d :: rest)
    (hv : c.successor (addDegr c.recov.degr d) = some v) (hready : c.switchReady v = true) (hmap : c.fabric.mapPend = [])
    (hkv : c.kv.waiting = []) : ∃ n, c.variantSwitch = (c.switched v).endSwitch (addDegr c.recov.degr d) rest n := by
  have hlist : (c.loseRegion 0 40).fabric.mapPend = [] := by rw [(c.loseRegion_beside 0 40).fabric, hmap]
  have hidle : ∀ l n, ((c.switched v).endSwitch l rest n).kv.waiting = [] := fun l n => by
    obtain ⟨_, _, _, hend⟩ := (c.switched v).endSwitch_only l rest n
    rw [hend]
    exact (congrArg Kv.waiting (c.switched_switched v).kv).trans hkv
  refine ⟨c.get F.SCHED_CFG_VARIANT * 2 ^ 20 + v.id * 2 ^ 8, ?_⟩
  unfold Chip.variantSwitch
  rw [hw]
  dsimp only
  rw [hv]
  dsimp only
  rw [hready, if_neg (by decide), c.loseAll_eq, Chip.graftDue_none _ hlist]
  exact Chip.kvRun_idle _ (hidle _ _)

theorem Chip.switchReady_iff (v : Variant) : c.switchReady v = true ↔ c.atBoundary = true ∧ true ∉ c.fabric.late ∧
    ∀ p ∈ v.takesFromBe, ∃ x, smGet none c.sched.preempt p.val = some x ∧ x.spilled = true := by
  have htaken : ∀ p : Fin 16, (match smGet none c.sched.preempt p.val with | some x => x.spilled | none => false) = true ↔
      ∃ x, smGet none c.sched.preempt p.val = some x ∧ x.spilled = true := fun p => by
    cases smGet none c.sched.preempt p.val <;> simp
  unfold Chip.switchReady
  rw [Bool.and_eq_true, Bool.and_eq_true, List.all_eq_true, and_assoc]
  refine and_congr Iff.rfl (and_congr (by simp) (forall₂_congr fun p _ => ?_))
  exact htaken p

theorem Chip.variantSwitch_none (h : c.recov.waiting = []) : c.variantSwitch = c := by
  unfold Chip.variantSwitch
  rw [h]

theorem Chip.variantSwitch_waits {d : Degradation} {rest : List Degradation} {v : Variant} (hw : c.recov.waiting = d :: rest)
    (hv : c.successor (addDegr c.recov.degr d) = some v) (hready : c.switchReady v = false) : c.variantSwitch = c := by
  unfold Chip.variantSwitch
  rw [hw]
  dsimp only
  rw [hv]
  dsimp only
  rw [hready]
  rfl

/-- The device holds its transports for good, and every item in flight is to end (R400). -/
structure Chip.Holds (c t : Chip) : Prop extends c.Core t where
  hold : t.flag F.VAR_STAT_HOLD = true
  recov : t.recov = c.recov
  mem : t.mem = c.mem

/-- All items in flight are stopped. -/
theorem Chip.faultHold_holds : c.Holds c.faultHold := by
  unfold Chip.faultHold
  split
  case isTrue h => exact ⟨⟨rfl, rfl, rfl, rfl, rfl, rfl⟩, h, rfl, rfl⟩
  case isFalse =>
    dsimp only
    have hflag : ((c.putB F.VAR_STAT_HOLD true).log 0x3A Loc.none).flag F.VAR_STAT_HOLD = true := by
      unfold Chip.flag
      rw [Chip.log_get _ _ _ _ _ _ _ (by decide)]
      exact c.flag_putB_self F.VAR_STAT_HOLD true 0 0 varStat_has (by decide) (by decide)
    have hrecov : ((c.putB F.VAR_STAT_HOLD true).log 0x3A Loc.none).recov = c.recov :=
      (Chip.log_recov _ _ _ _).trans (Chip.putB_recov _ _ _ _ _)
    have honly := (c.putB_onlyRegs F.VAR_STAT_HOLD true 0 0).trans (Chip.log_onlyRegs _ 0x3A Loc.none none)
    generalize (c.putB F.VAR_STAT_HOLD true).log 0x3A Loc.none = d at *
    have hshed := Sheds.foldl (fun c n => Chip.stopItem_sheds c n (txt "fault-hold")) (d.inFlight.map (·.num)) d
    have hwork := FormWork.foldl (fun c n => Chip.stopItem_formWork c n (txt "fault-hold")) (d.inFlight.map (·.num)) d
    refine ⟨honly.core.trans hshed.toCore, ?_, hshed.recov.trans hrecov, hwork.sameBooks.mem.trans honly.mem⟩
    rw [← hflag]
    unfold Chip.flag
    rw [Chip.get_of_word F.VAR_STAT_HOLD (hshed.word _ 0 0 (by decide))]

/-- A degradation that has no successor is recorded before the device holds (R400). -/
def Chip.runOut (c : Chip) (l rest : List Degradation) : Chip :=
  ((c.noteDegr l rest).putB F.VAR_STAT_SWITCHING (rest ≠ [])).retarget

theorem Chip.variantSwitch_runOut {d : Degradation} {rest : List Degradation} (hw : c.recov.waiting = d :: rest)
    (hv : c.successor (addDegr c.recov.degr d) = none) : c.variantSwitch = (c.runOut (addDegr c.recov.degr d) rest).faultHold := by
  unfold Chip.variantSwitch
  rw [hw]
  dsimp only
  rw [hv]
  rfl

theorem Chip.runOut_only (l rest : List Degradation) : ∃ r f x,
    c.runOut l rest = { c with regs := r, free := f, recov := { c.recov with degr := l, waiting := rest, target := x } } :=
  ((c.noteDegr l rest).putB_onlyRegs F.VAR_STAT_SWITCHING (rest ≠ []) 0 0).retarget

/-- The device holds, and the degradation is recorded. -/
theorem Chip.variantSwitch_holds {d : Degradation} {rest : List Degradation} (hw : c.recov.waiting = d :: rest)
    (hv : c.successor (addDegr c.recov.degr d) = none) :
    ∃ x, ({ c with recov := { c.recov with degr := addDegr c.recov.degr d, waiting := rest, target := x } } : Chip).Holds c.variantSwitch := by
  obtain ⟨r, f, x, hrun⟩ := c.runOut_only (addDegr c.recov.degr d) rest
  obtain ⟨hcore, hflag, hrecov, hmem⟩ := (c.runOut (addDegr c.recov.degr d) rest).faultHold_holds
  rw [← c.variantSwitch_runOut hw hv, hrun] at hcore hrecov hmem
  rw [← c.variantSwitch_runOut hw hv] at hflag
  exact ⟨x, ⟨hcore.image, hcore.clock, hcore.fuses, hcore.flash, hcore.boot, hcore.mgmt⟩, hflag, hrecov, hmem⟩

variable {c} in
theorem Chip.Holds.settle {t : Chip} (h : c.Holds t) : c.Holds t.settle where
  toCore := h.toCore.trans t.settle_core
  hold := (t.settle_calm.flag_apart (by decide)).trans h.hold
  recov := t.settle_recov.trans h.recov
  mem := t.settle_mem.trans h.mem

/-- The variant `v` serves for the degradations `l`, and `rest` waits. -/
structure Chip.Serves (c t : Chip) (v : Variant) (l rest : List Degradation) : Prop extends c.Core t where
  variant : t.get F.SCHED_CFG_VARIANT = v.id % 4096
  degr : t.recov.degr = l
  waiting : t.recov.waiting = rest
  ended : ∀ u, u < 40 → t.runOf u = none
  counted : c.Counted t F.FAULT_CNT1_SWITCH
  logged : c.Logged t 0x39 Loc.none
  data : c.mem.SameData { t.mem with ddrHnd := c.mem.ddrHnd }
  layout : t.mem.ddrHnd = v.ddrHandles.foldl (fun m e => smSet 0 m e.1 e.2) c.mem.ddrHnd

theorem Chip.endSwitch_serves (v : Variant) (l rest : List Degradation) (n : Nat) : c.Serves ((c.switched v).endSwitch l rest n) v l rest := by
  have hsw := c.switched_switched v
  obtain ⟨hvar, hcount, hlog⟩ := (c.switched v).endSwitch_ends l rest n
  obtain ⟨r, f, x, honly⟩ := (c.switched v).endSwitch_only l rest n
  have hmem : ((c.switched v).endSwitch l rest n).mem = (c.switched v).mem := by rw [honly]
  have hcore : (c.switched v).Core ((c.switched v).endSwitch l rest n) := by
    rw [honly]
    exact ⟨rfl, rfl, rfl, rfl, rfl, rfl⟩
  have hrun : ∀ u, ((c.switched v).endSwitch l rest n).runOf u = (c.switched v).runOf u := fun u => by
    rw [honly]
    rfl
  exact {
    toCore := hsw.toCore.trans hcore
    variant := hvar.trans hsw.variant
    degr := by rw [honly]
    waiting := by rw [honly]
    ended := fun u hu => (hrun u).trans (hsw.ended u hu)
    counted := Chip.Counted.of_start c hcount hsw.switches
    logged := hlog.of_next hsw.next
    data := by
      rw [hmem]
      exact hsw.data
    layout := (congrArg Mem.ddrHnd hmem).trans hsw.layout }

variable {c} in
theorem Chip.Serves.settle {t : Chip} {v : Variant} {l rest : List Degradation} (h : c.Serves t v l rest) : c.Serves t.settle v l rest where
  toCore := h.toCore.trans t.settle_core
  variant := (t.settle_calm.get_apart (by decide)).trans h.variant
  degr := (congrArg Recov.degr t.settle_recov).trans h.degr
  waiting := (congrArg Recov.waiting t.settle_recov).trans h.waiting
  ended u hu := (t.settle_runOf u).trans (h.ended u hu)
  counted := Chip.Counted.settle c h.counted (by decide)
  logged := h.logged.settle
  data := by
    rw [t.settle_mem]
    exact h.data
  layout := (congrArg Mem.ddrHnd t.settle_mem).trans h.layout

/-! ## The obligation -/

theorem exec_itemRerun_up (s : State) (n : Nat) (hup : s.chip.Up) :
    exec (.itemRerun n) s = .next ⟨s.pending, (s.chip.itemRerun n).settle⟩ := by
  simp only [exec_itemRerun, Chip.serving_eq _ hup.1 hup.2]

theorem exec_variantSwitch_up (s : State) (hup : s.chip.Up) :
    exec .variantSwitch s = .next ⟨s.pending, s.chip.variantSwitch.settle⟩ := by
  simp only [exec_variantSwitch, Chip.serving_eq _ hup.1 hup.2]

/-- Settles O44: when an item resumes, when it is stopped, and when the variants switch. -/
theorem rerunsAndSwitches : Obligations.RerunsAndSwitches := by
  unfold Obligations.RerunsAndSwitches
  intro s hup c
  refine ⟨fun n h => ?_, fun i hmem hlist he hn hruns => ?_, fun h => ?_, fun d rest hw => ⟨fun hv => ?_, fun v hv => ⟨fun hnot => ?_, ?_⟩⟩⟩
  · exact (exec_itemRerun_up s n hup).trans (by rw [c.itemRerun_none h])
  · have hcases := Chip.itemRerun_cases hmem hlist he hn
    have hstops : ∀ why, why ≠ [] → c.itemRerun i.num = ((c.takeRerun i.num).stopItem i.num why).endDue i.num →
        ∃ t, exec (.itemRerun i.num) s = .next t ∧ t.pending = s.pending ∧ (∀ j, j ∈ t.chip.items.list → j.ended = some (i.r393 why)) ∧
          i.num ∉ t.chip.recov.rerun ∧ c.Counted t.chip F.FAULT_CNT1_RERUN_FAIL ∧ c.Core t.chip := fun why hwhy heq => by
      have hstop := c.takeRerun_stops hlist he hruns hwhy
      rw [← heq] at hstop
      exact ⟨_, exec_itemRerun_up s i.num hup, rfl, hstop.verdict, hstop.taken, hstop.counted, hstop.toCore⟩
    refine ⟨fun hlim => ?_, fun hlim hlost => ?_, fun hlim hpois => ?_, fun hlim hlost hpois hslot => ?_⟩
    · exact hstops _ (by decide) (by rw [hcases, if_pos hlim])
    · exact hstops _ (by decide) (by rw [hcases, if_neg (Nat.not_le.2 hlim), hlost, Bool.true_or, if_pos rfl])
    · exact hstops _ (by decide) (by rw [hcases, if_neg (Nat.not_le.2 hlim), hpois, Bool.or_true, if_pos rfl])
    · rw [if_neg (Nat.not_le.2 hlim), hlost, hpois, Bool.or_false, if_neg Bool.false_ne_true, hslot, Option.isSome_none,
        if_neg Bool.false_ne_true] at hcases
      have hresumes := c.resumed_resumes hlist
      rw [← hcases] at hresumes
      exact ⟨_, exec_itemRerun_up s i.num hup, rfl, hresumes⟩
  · exact (exec_variantSwitch_up s hup).trans (by rw [Chip.variantSwitch_none c h])
  · obtain ⟨x, hholds⟩ := c.variantSwitch_holds hw hv
    obtain ⟨hcore, hflag, hrecov, hmem⟩ := hholds.settle
    exact ⟨_, exec_variantSwitch_up s hup, rfl, hflag, congrArg Recov.degr hrecov, congrArg Recov.waiting hrecov, hmem,
      hcore.image, hcore.clock, hcore.fuses, hcore.flash, hcore.boot, hcore.mgmt⟩
  · have hready : c.switchReady v = false := by
      rw [Bool.eq_false_iff, Ne, c.switchReady_iff]
      rintro ⟨hbound, hlate, htaken⟩
      rcases hnot with h | h | ⟨p, hp, h⟩
      · rw [h] at hbound
        cases hbound
      · exact hlate h
      · exact h (htaken p hp)
    exact (exec_variantSwitch_up s hup).trans (by rw [c.variantSwitch_waits hw hv hready])
  · intro hbound hlate htaken hmap hkv
    obtain ⟨n, heq⟩ := c.variantSwitch_switches hw hv ((c.switchReady_iff v).2 ⟨hbound, hlate, htaken⟩) hmap hkv
    have hserves := (c.endSwitch_serves v (addDegr c.recov.degr d) rest n).settle
    rw [← heq] at hserves
    exact ⟨_, exec_variantSwitch_up s hup, rfl, hserves.variant, hserves.degr, hserves.waiting, hserves.ended, hserves.counted,
      hserves.logged, hserves.data, hserves.layout, hserves.toCore⟩

end Sys2Proof.Machine
end

section
/-!
PROOFS. The loss of a DDR4 channel and of a port: what is recorded and logged, and what the work on sessions, items and training
that follows leaves alone.
-/

namespace Sys2Proof.Machine

variable (c : Chip)

/-! ## A loss that is recorded, logged and a degradation -/

/-- A loss is marked in bit `k` of a field of VAR_STAT and logged. -/
def Chip.markLoss (c : Chip) (f : Fld) (k code : Nat) (l : Loc) : Chip := (c.put f (c.get f ||| 2 ^ k)).log code l

theorem Chip.markLoss_onlyRegs (f : Fld) (k code : Nat) (l : Loc) : OnlyRegs c (c.markLoss f k code l) :=
  (c.put_onlyRegs f _ 0 0).trans (Chip.log_onlyRegs _ _ _ _)

theorem Chip.markLoss_word (f : Fld) (k code : Nat) (l : Loc) (r : Reg) (i j : Nat) (hl : r.offLog = true) (hr : f.reg.apart r = true) :
    (c.markLoss f k code l).word r i j = c.word r i j :=
  (Chip.log_word _ _ _ _ r i j hl).trans (c.word_put_apart f _ 0 0 i j hr)

theorem Chip.markLoss_bit {f : Fld} (hf : f.reg = .VAR_STAT) (hw : f.lo + f.w ≤ 32) {k : Nat} (hk : k < f.w) (code : Nat) (l : Loc) :
    bitOf ((c.markLoss f k code l).get f) k = true := by
  unfold Chip.markLoss
  rw [Chip.log_get _ _ _ _ f 0 0 (by rw [hf]; decide), Chip.get_put_self _ _ _ _ _ (by rw [hf]; exact varStat_has) hw]
  exact bitOf_or_two_pow _ hk

theorem Chip.markLoss_logged {f : Fld} (hf : f.reg = .VAR_STAT) (k code : Nat) (l : Loc) : c.Logged (c.markLoss f k code l) code l :=
  Chip.Logged.of_next (Chip.log_entry _ code l none).1 (Chip.get_put_apart c f F.FAULT_LOG_PTR_NEXT _ 0 0 0 0 (by rw [hf]; decide))

/-- A degradation waits for its switch, and the variant that the first one leads to is due. -/
def Chip.enqueue (c : Chip) (d : Degradation) : Chip := (c.updRecov (fun v => { v with waiting := v.waiting ++ [d] })).retarget

theorem Chip.enqueue_get (d : Degradation) (f : Fld) : (c.enqueue d).get f = c.get f := rfl

theorem Chip.enqueue_flag (d : Degradation) (f : Fld) : (c.enqueue d).flag f = c.flag f := rfl

theorem Chip.enqueue_waiting (d : Degradation) : (c.enqueue d).recov.waiting = c.recov.waiting ++ [d] := rfl

theorem addDegr_nil (d : Degradation) : addDegr [] d = [d] := by
  cases d <;> rfl

theorem sameDegr_nil (d : Degradation) : sameDegr [d] [] = false := by
  simp [sameDegr]

/-- The first degradation of a device that serves waits for its switch. -/
theorem Chip.degrade_first (hw : c.recov.waiting = []) (hd : c.recov.degr = []) (hr : c.running = true) (d : Degradation) :
    (c.degrade d).recov.waiting = [d] ∧ (c.degrade d).flag F.VAR_STAT_SWITCHING = true := by
  have heq : c.degrade d = (c.putB F.VAR_STAT_SWITCHING true).enqueue d := by
    unfold Chip.degrade
    dsimp only
    rw [hw, hd, List.foldl_nil, addDegr_nil, sameDegr_nil, hr]
    rfl
  rw [heq, Chip.enqueue_waiting, Chip.enqueue_flag, Chip.putB_recov, hw]
  exact ⟨rfl, c.flag_putB_self F.VAR_STAT_SWITCHING true 0 0 varStat_has (by decide) (by decide)⟩

/-- Of VAR_STAT a degradation writes SWITCHING alone. -/
theorem Chip.degrade_varStat (d : Degradation) (f : Fld) (hf : f.reg = .VAR_STAT)
    (ho : f.lo + f.w ≤ F.VAR_STAT_SWITCHING.lo ∨ F.VAR_STAT_SWITCHING.lo + F.VAR_STAT_SWITCHING.w ≤ f.lo) :
    (c.degrade d).get f = c.get f := by
  unfold Chip.degrade
  dsimp only
  split
  · rfl
  · split
    · rfl
    · exact (Chip.enqueue_get _ d f).trans (c.get_putB_field F.VAR_STAT_SWITCHING f true 0 0 hf (by decide) ho)

/-- A loss is marked and logged, and is a degradation. -/
def Chip.recordLoss (c : Chip) (f : Fld) (k code : Nat) (l : Loc) (d : Degradation) : Chip := (c.markLoss f k code l).degrade d

theorem Degrades.mem {a b : Chip} (h : Degrades a b) : b.mem = a.mem := by rw [h.only]

theorem OnlyRegs.kv {a b : Chip} (h : OnlyRegs a b) : b.kv = a.kv := by
  obtain ⟨r, f, rfl⟩ := h
  rfl

theorem Chip.recordLoss_mem (f : Fld) (k code : Nat) (l : Loc) (d : Degradation) : (c.recordLoss f k code l d).mem = c.mem :=
  (Chip.degrade_degrades _ d).mem.trans (c.markLoss_onlyRegs f k code l).mem

theorem Chip.recordLoss_kv (f : Fld) (k code : Nat) (l : Loc) (d : Degradation) : (c.recordLoss f k code l d).kv = c.kv :=
  (Chip.degrade_fallout _ d).kv.trans (OnlyRegs.kv (c.markLoss_onlyRegs f k code l))

theorem Chip.recordLoss_word {f : Fld} (hf : f.reg = .VAR_STAT) (k code : Nat) (l : Loc) (d : Degradation) (r : Reg) (i j : Nat)
    (hl : r.offLog = true) (hr : Reg.apart .VAR_STAT r = true) : (c.recordLoss f k code l d).word r i j = c.word r i j :=
  ((Chip.degrade_degrades _ d).word r i j hr).trans (c.markLoss_word f k code l r i j hl (hf ▸ hr))

/-- What the record of a loss leaves. -/
structure Chip.NotesLoss (c t : Chip) (f : Fld) (k code : Nat) (l : Loc) (d : Degradation) : Prop extends c.Core t where
  bit : bitOf (t.get f) k = true
  logged : c.Logged t code l
  running : t.running = true
  waits : c.recov.waiting = [] → c.recov.degr = [] → t.recov.waiting = [d] ∧ t.flag F.VAR_STAT_SWITCHING = true

theorem Chip.recordLoss_notes (hr : c.running = true) {f : Fld} (hf : f.reg = .VAR_STAT) (hw : f.lo + f.w ≤ 32)
    (ho : f.lo + f.w ≤ F.VAR_STAT_SWITCHING.lo ∨ F.VAR_STAT_SWITCHING.lo + F.VAR_STAT_SWITCHING.w ≤ f.lo)
    {k : Nat} (hk : k < f.w) (code : Nat) (l : Loc) (d : Degradation) :
    c.NotesLoss (c.recordLoss f k code l d) f k code l d := by
  unfold Chip.recordLoss
  have honly := c.markLoss_onlyRegs f k code l
  have hrun : (c.markLoss f k code l).running = true := by
    unfold Chip.running at hr ⊢
    rw [Chip.get_of_word F.BOOT_STAT_STATE (c.markLoss_word f k code l _ 0 0 (by decide) (by rw [hf]; decide))]
    exact hr
  have hdeg := (c.markLoss f k code l).degrade_degrades d
  have hrecov : (c.markLoss f k code l).recov = c.recov := (Chip.log_recov _ _ _ _).trans (Chip.put_recov _ _ _ _ _)
  refine ⟨honly.core.trans ?_, ?_, (c.markLoss_logged hf k code l).of_word (fun e => hdeg.word _ e 0 (by decide)), ?_, fun hwait hdegr =>
    Chip.degrade_first _ (hrecov ▸ hwait) (hrecov ▸ hdegr) hrun d⟩
  · rw [hdeg.only]
    exact ⟨rfl, rfl, rfl, rfl, rfl, rfl⟩
  · rw [Chip.degrade_varStat _ d f hf ho]
    exact c.markLoss_bit hf hw hk code l
  · unfold Chip.running at hrun ⊢
    rw [Chip.get_of_word F.BOOT_STAT_STATE (hdeg.word _ 0 0 (by decide))]
    exact hrun

/-! ## A DDR4 channel -/

theorem Chip.loseInputs_sheds (ch : Nat) : Sheds c (c.loseInputs ch) := by
  unfold Chip.loseInputs
  refine Sheds.foldl (fun c i => ?_) _ c
  extract_lets d
  have hlost : Sheds c d := by
    unfold d
    split
    · exact c.modItem_sheds _ _
    · exact Sheds.refl c
  split
  · exact hlost
  · exact hlost.trans (d.modItem_sheds _ _)

theorem Chip.updSched_sheds (f : Sched → Sched) : Sheds c (c.updSched f) := .aside rfl

theorem Chip.loseWork_sheds (ch : Nat) : Sheds c (c.loseWork ch) := by
  unfold Chip.loseWork
  exact (Sheds.foldl (fun c (i : Item) => (c.stopItem_sheds i.num _).trans (Chip.endDue_sheds _ i.num)) _ c).trans
    (Sheds.foldl (fun c p => c.updSched_sheds _) _ _)

theorem Chip.sessionDone_sheds (s n : Nat) : Sheds c (c.sessionDone s n) := by
  unfold Chip.sessionDone
  split
  · exact Sheds.refl c
  · dsimp only
    split
    · exact (c.modItem_sheds n _).trans (Chip.creditReturn_sheds _ n)
    · exact c.modItem_sheds n _

theorem Chip.modSess_sheds (s : Nat) (f : Session → Session) : Sheds c (c.modSess s f) := (c.modSess_spoolWork s f).sheds

theorem Chip.loseSpool_sheds (ch s : Nat) : Sheds c (c.loseSpool ch s) := by
  unfold Chip.loseSpool
  dsimp only
  split
  · exact Sheds.refl c
  · refine (((c.modSess_sheds s _).trans (Chip.giveSpool_sheds _ s _)).trans (Sheds.foldl (fun c n => ?_) _ _)).trans
      (Sheds.foldl (fun c n => c.sessionDone_sheds s n) _ _)
    split
    · exact (c.addGaps_spoolWork s _ n _).sheds.trans (Chip.bump_sheds _ F.SESS_CNT1_ABANDON s 0 1 (by decide))
    · exact c.bump_sheds F.SESS_CNT1_ABANDON s 0 1 (by decide)

theorem Chip.halveQuota_sheds (s : Nat) : Sheds c (c.halveQuota s) := by
  unfold Chip.halveQuota
  dsimp only
  split
  · exact Sheds.refl c
  · exact (c.hold_spoolWork s _).sheds

theorem Chip.trainRelease_sheds (set : Fin 8) : Sheds c (c.trainRelease set) := by
  unfold Chip.trainRelease
  split
  · exact c.kvTableEdit_sheds rfl
  · exact Sheds.refl c

theorem Chip.showAdapt_sheds : Sheds c c.showAdapt := by
  unfold Chip.showAdapt
  exact (c.put_sheds F.ADAPT_STAT_QUEUED _ 0 0 (by decide)).trans
    (Sheds.foldl (fun c s => c.put_sheds F.ADAPT_SCORE_HOLDOUT _ s 0 (by decide)) _ _)

theorem Chip.updAdapt_sheds (f : Adapt → Adapt) : Sheds c (c.updAdapt f) := c.setAdapt_sheds (f c.adapt)

theorem Chip.adaptRelease_sheds : Sheds c c.adaptRelease := by
  unfold Chip.adaptRelease
  exact ((Sheds.foldl (fun c set => c.trainRelease_sheds set) _ c).trans (Chip.updAdapt_sheds _ _)).trans (Chip.showAdapt_sheds _)

theorem Chip.adaptLost_sheds : Sheds c c.adaptLost := by
  unfold Chip.adaptLost
  refine c.adaptRelease_sheds.trans (Sheds.foldl (fun c s => ?_) _ _)
  split
  · exact c.updAdapt_sheds _
  · exact Sheds.refl c

/-- Copies, records, items, spooled datagrams and training on a lost channel are gone. -/
def Chip.loseChannel (c : Chip) (ch : Nat) : Chip :=
  (foldN 64 (fun c s => (c.loseSpool ch s).halveQuota s) ((c.loseInputs ch).loseWork ch)).adaptLost.showFree

theorem Chip.loseChannel_sheds (ch : Nat) : Sheds c (c.loseChannel ch) :=
  ((((c.loseInputs_sheds ch).trans (Chip.loseWork_sheds _ ch)).trans
    (Sheds.foldl (fun c s => (c.loseSpool_sheds ch s).trans (Chip.halveQuota_sheds _ s)) _ _)).trans (Chip.adaptLost_sheds _)).trans
      (Chip.put_sheds _ F.JRT_QUOTA_FREE_MIB _ 0 0 (by decide))

/-! ## A port -/

/-- The registers of sessions' bindings and states, of their spool, and of the clock's source. -/
def pathRegs : List Reg :=
  [.RSB_ADDR, .RSB_PORT, .RSB_ALT, .RSB_OPEN, .SSB_ADDR, .SSB_PORT, .SSB_ALT, .SSB_OPEN, .SESS_STAT, .SESS_CNT0, .SESS_CNT1, .SESS_SPOOL,
    .TIME_STAT, .TIME_CNT, .TIME_PATH, .TIME_RATE]

/-- From `a` to `b` sessions take another path or none, optional items are cut, and the clock takes another source or none. -/
structure Repaths (a b : Chip) : Prop where
  only : b = { a with
    regs := b.regs, items := b.items, formed := b.formed, net := b.net, servo := b.servo, sessions := b.sessions }
  word : ∀ r i j, (∀ q ∈ pathRegs, q.apart r = true) → b.word r i j = a.word r i j

theorem Repaths.refl (a : Chip) : Repaths a a := ⟨rfl, fun _ _ _ _ => rfl⟩

theorem Repaths.trans {a b c : Chip} (h : Repaths a b) (k : Repaths b c) : Repaths a c where
  only := k.only.trans (by rw [h.only])
  word := fun r i j hr => (k.word r i j hr).trans (h.word r i j hr)

theorem Repaths.foldl {β : Type} {g : Chip → β → Chip} (hg : ∀ c x, Repaths c (g c x)) (l : List β) (c : Chip) :
    Repaths c (l.foldl g c) := by
  induction l generalizing c with
  | nil => exact Repaths.refl c
  | cons x l ih => exact (hg c x).trans (ih _)

theorem Repaths.mem {a b : Chip} (h : Repaths a b) : b.mem = a.mem := by rw [h.only]

theorem Repaths.recov {a b : Chip} (h : Repaths a b) : b.recov = a.recov := by rw [h.only]

theorem Repaths.core {a b : Chip} (h : Repaths a b) : a.Core b := by
  rw [h.only]
  exact ⟨rfl, rfl, rfl, rfl, rfl, rfl⟩

theorem Repaths.get {a b : Chip} (h : Repaths a b) (f : Fld) (i : Nat) (hf : ∀ q ∈ pathRegs, q.apart f.reg = true) :
    b.get f i = a.get f i := Chip.get_of_word f (h.word _ i 0 hf)

theorem Chip.setWord_repaths {r : Reg} (i j v : Nat) (h : r ∈ pathRegs) : Repaths c (c.setWord r i j v) :=
  ⟨rfl, fun _ _ _ hr => c.word_setWord_apart _ _ _ _ _ (hr r h)⟩

theorem Chip.put_repaths (f : Fld) (v i j : Nat) (h : f.reg ∈ pathRegs) : Repaths c (c.put f v i j) := c.setWord_repaths _ _ _ h

theorem Chip.putB_repaths (f : Fld) (v : Bool) (i j : Nat) (h : f.reg ∈ pathRegs) : Repaths c (c.putB f v i j) := c.setWord_repaths _ _ _ h

theorem Chip.bump_repaths (f : Fld) (i j n : Nat) (h : f.reg ∈ pathRegs) : Repaths c (c.bump f i j n) := c.setWord_repaths _ _ _ h

theorem Chip.putS_repaths (f : Fld) (v : Int) (i j : Nat) (h : f.reg ∈ pathRegs) : Repaths c (c.putS f v i j) := c.setWord_repaths _ _ _ h

theorem SpoolWork.repaths {a b : Chip} (h : SpoolWork a b) : Repaths a b where
  only := by rw [h.only]
  word := fun r i j hr => h.word r i j (hr _ (by decide)) (hr _ (by decide))

theorem Chip.modItem_repaths (n : Nat) (f : Item → Item) : Repaths c (c.modItem n f) := ⟨rfl, fun _ _ _ _ => rfl⟩

theorem Chip.modPort_repaths (x : Nat) (f : Port → Port) : Repaths c (c.modPort x f) := ⟨rfl, fun _ _ _ _ => rfl⟩

theorem Chip.updServo_repaths (f : Servo → Servo) : Repaths c (c.updServo f) := ⟨rfl, fun _ _ _ _ => rfl⟩

theorem Chip.setFormed_repaths (l : List Formed) : Repaths c { c with formed := l } := ⟨rfl, fun _ _ _ _ => rfl⟩

theorem Chip.showBinding_repaths (s : Nat) : Repaths c (c.showBinding s) := by
  have hregs : ∀ x : Reg × Reg × Reg × Reg × Nat, x = (if s < 64 then (.RSB_ADDR, .RSB_PORT, .RSB_ALT, .RSB_OPEN, s)
      else (.SSB_ADDR, .SSB_PORT, .SSB_ALT, .SSB_OPEN, s - 64)) →
      x.1 ∈ pathRegs ∧ x.2.1 ∈ pathRegs ∧ x.2.2.1 ∈ pathRegs ∧ x.2.2.2.1 ∈ pathRegs := fun x hx => by
    rw [hx]
    split <;> (dsimp only; decide)
  unfold Chip.showBinding
  extract_lets x port
  generalize hx : (if s < 64 then ((.RSB_ADDR, .RSB_PORT, .RSB_ALT, .RSB_OPEN, s) : Reg × Reg × Reg × Reg × Nat)
    else (.SSB_ADDR, .SSB_PORT, .SSB_ALT, .SSB_OPEN, s - 64)) = regs
  obtain ⟨hA, hP, hL, hO⟩ := hregs regs hx.symm
  obtain ⟨rA, rP, rL, rO, k⟩ := regs
  dsimp -zeta only
  extract_lets c1 c2 c3
  have h1 : Repaths c c1 :=
    Repaths.foldl (fun c i => (c.setWord_repaths _ _ _ hA).trans (Chip.setWord_repaths _ _ _ _ hL)) _ c
  have h2 : Repaths c c2 := h1.trans (c1.setWord_repaths _ _ _ hP)
  have h3 : Repaths c c3 := by
    unfold c3
    split
    · exact h2
    · exact h2.trans (c2.setWord_repaths _ _ _ hO)
  clear_value c3
  split
  · exact (h3.trans (c3.put_repaths F.SESS_STAT_PORT _ s 0 (by decide))).trans (Chip.putB_repaths _ F.SESS_STAT_ALT _ s 0 (by decide))
  · exact h3

theorem Chip.cutOptional_repaths (s : Nat) (why : List Byte) : Repaths c (c.cutOptional s why) := by
  unfold Chip.cutOptional
  refine Repaths.foldl (fun c i => ?_) _ c
  split
  · exact Repaths.refl c
  · exact (((c.setFormed_repaths _).trans (Chip.modItem_repaths _ i.num _)).trans (Chip.hold_spoolWork _ s _).repaths).trans
      (Chip.addGaps_spoolWork _ s i.origin i.num why).repaths

theorem Chip.stall_repaths (s : Nat) : Repaths c (c.stall s) := by
  unfold Chip.stall
  split
  · exact Repaths.refl c
  · exact ((c.putB_repaths F.SESS_STAT_STALLED true s 0 (by decide)).trans (Chip.bump_repaths _ F.SESS_CNT0_STALLS s 0 1 (by decide))).trans
      (Chip.cutOptional_repaths _ s _)

theorem Chip.rebind_repaths (s : Nat) : Repaths c (c.rebind s) := by
  unfold Chip.rebind
  dsimp only
  split
  · exact (c.modSess_spoolWork s _).repaths.trans (Chip.showBinding_repaths _ s)
  · split
    · exact (c.putB_repaths F.SESS_STAT_PATH_LOST true s 0 (by decide)).trans (Chip.stall_repaths _ s)
    · exact Repaths.refl c

theorem Chip.rebindAll_repaths (x : Nat) (sel : Session → Bool) : Repaths c (c.rebindAll x sel) := by
  unfold Chip.rebindAll
  refine Repaths.foldl (fun c s => ?_) _ c
  dsimp only
  split
  · exact c.rebind_repaths s
  · exact Repaths.refl c

theorem Chip.acquireState_repaths : Repaths c c.acquireState := by
  unfold Chip.acquireState
  split
  · exact Repaths.refl c
  · split
    · exact (c.put_repaths F.TIME_STAT_STATE 0 0 0 (by decide)).trans (Chip.updServo_repaths _ _)
    · split <;> exact c.put_repaths F.TIME_STAT_STATE _ 0 0 (by decide)

theorem Chip.flagDegraded_repaths : Repaths c c.flagDegraded := by
  obtain ⟨g, hg⟩ := c.flagDegraded_items
  rw [hg]
  exact ⟨rfl, fun _ _ _ _ => rfl⟩

theorem Chip.raiseAlarm_repaths : Repaths c c.raiseAlarm := by
  have halarm : Repaths c c.alarming := (c.updServo_repaths _).trans (Chip.put_repaths _ F.TIME_STAT_STATE 3 0 0 (by decide))
  rw [Chip.raiseAlarm_eq]
  split
  · exact halarm
  · exact ((halarm.trans (Chip.putB_repaths _ F.TIME_STAT_ALARM true 0 0 (by decide))).trans
      (Chip.bump_repaths _ F.TIME_CNT_ALARMS 0 0 1 (by decide))).trans (Chip.flagDegraded_repaths _)

/-- The servo's registers follow the port that serves. -/
def Chip.follow (c : Chip) (x : Nat) : Chip :=
  let c := c.putB F.TIME_STAT_HOLDOVER false
  let c := match (c.port x).announce with
    | some (_, off, v) => (c.putS F.TIME_STAT_UTC_OFFSET off).putB F.TIME_STAT_UTC_VALID v
    | none => c
  (c.put F.TIME_PATH_PATH (toField ((c.pathDelay x).getD 0) 32)).acquireState

theorem Chip.follow_repaths (x : Nat) : Repaths c (c.follow x) := by
  unfold Chip.follow
  extract_lets c1 c2
  have h1 : Repaths c c1 := c.putB_repaths F.TIME_STAT_HOLDOVER false 0 0 (by decide)
  have h2 : Repaths c c2 := by
    unfold c2
    split
    · exact (h1.trans (c1.putS_repaths F.TIME_STAT_UTC_OFFSET _ 0 0 (by decide))).trans
        (Chip.putB_repaths _ F.TIME_STAT_UTC_VALID _ 0 0 (by decide))
    · exact h1
  exact (h2.trans (c2.put_repaths F.TIME_PATH_PATH _ 0 0 (by decide))).trans (Chip.acquireState_repaths _)

theorem Chip.setSource_repaths (x : Option Nat) : Repaths c (c.setSource x) := by
  unfold Chip.setSource
  extract_lets old c1 c2 c3
  have h2 : Repaths c c2 := (c.put_repaths F.TIME_STAT_SOURCE _ 0 0 (by decide)).trans (c1.updServo_repaths _)
  have h3 : Repaths c c3 := by
    unfold c3
    split
    · exact h2.trans (c2.bump_repaths F.TIME_CNT_SRC_CHG 0 0 1 (by decide))
    · exact h2
  clear_value c3
  split
  · exact Repaths.refl c
  · cases x with
    | some y => exact h3.trans (c3.follow_repaths y)
    | none =>
      dsimp only
      split
      · exact ((h3.trans c3.raiseAlarm_repaths).trans (Chip.putB_repaths _ F.TIME_STAT_HOLDOVER true 0 0 (by decide))).trans
          (Chip.putS_repaths _ F.TIME_RATE_RATE _ 0 0 (by decide))
      · exact h3.trans c3.acquireState_repaths

theorem Chip.loseSource_repaths : Repaths c c.loseSource := by
  unfold Chip.loseSource
  split
  · exact Repaths.refl c
  · next x _ =>
    dsimp only
    split
    · exact (c.modPort_repaths x _).trans (Chip.setSource_repaths _ _)
    · exact (c.modPort_repaths x _).trans (Chip.setSource_repaths _ _)

theorem portStat_has {x : Nat} (hx : x < 2) : Reg.has .PORT_STAT x 0 = true := decide_eq_true ⟨hx, Nat.one_pos⟩

/-- The registers of port `x` show that its link is down. -/
def Chip.showDown (c : Chip) (x : Nat) : Chip :=
  ((((c.putB F.PORT_STAT_LINK false x).put F.PORT_STAT_RATE 0 x).putB F.PORT_STAT_PCS_LOCK false x).put F.PORT_STAT_VERIFY 0 x).bump
    F.PORT_CNT1_LINK_DOWN x

theorem Chip.linkDownPort_eq {x : Nat} (h : c.flag F.PORT_STAT_LINK x = true) : c.linkDownPort x =
    (c.showDown x).modPort x (fun p => { p with preemptOn := false, txEnd := 0, cut := none }) := by
  unfold Chip.linkDownPort
  rw [if_neg (not_not.2 h)]
  rfl

/-- The count of a port's link losses lies beside its state. -/
theorem Chip.bump_linkDown_link (x : Nat) : (c.bump F.PORT_CNT1_LINK_DOWN x).get F.PORT_STAT_LINK x = c.get F.PORT_STAT_LINK x := by
  have hne : Reg.addr .PORT_STAT x 0 ≠ Reg.addr .PORT_CNT1 x 0 := by
    simp only [Reg.addr, Reg.info]
    omega
  exact Chip.get_of_word F.PORT_STAT_LINK (c.word_setWord_ne _ hne)

theorem Chip.showDown_link {x : Nat} (hx : x < 2) : (c.showDown x).flag F.PORT_STAT_LINK x = false := by
  unfold Chip.showDown Chip.flag
  rw [Chip.bump_linkDown_link, Chip.get_put_field _ F.PORT_STAT_VERIFY F.PORT_STAT_LINK _ _ _ rfl (by decide) (by decide),
    Chip.get_putB_field _ F.PORT_STAT_PCS_LOCK F.PORT_STAT_LINK _ _ _ rfl (by decide) (by decide),
    Chip.get_put_field _ F.PORT_STAT_RATE F.PORT_STAT_LINK _ _ _ rfl (by decide) (by decide)]
  exact c.flag_putB_self F.PORT_STAT_LINK false x 0 (portStat_has hx) (by decide) (by decide)

theorem Chip.showDown_onlyRegs (x : Nat) : OnlyRegs c (c.showDown x) :=
  ((((c.putB_onlyRegs F.PORT_STAT_LINK false x 0).trans (Chip.put_onlyRegs _ F.PORT_STAT_RATE 0 x 0)).trans
    (Chip.putB_onlyRegs _ F.PORT_STAT_PCS_LOCK false x 0)).trans (Chip.put_onlyRegs _ F.PORT_STAT_VERIFY 0 x 0)).trans
      (Chip.bump_onlyRegs _ F.PORT_CNT1_LINK_DOWN x 0 1)

theorem Chip.showDown_word (x : Nat) (r : Reg) (i j : Nat) (hs : Reg.apart .PORT_STAT r = true) (hc : Reg.apart .PORT_CNT1 r = true) :
    (c.showDown x).word r i j = c.word r i j :=
  (Chip.word_bump_apart _ F.PORT_CNT1_LINK_DOWN x 0 1 i j hc).trans ((Chip.word_put_apart _ F.PORT_STAT_VERIFY 0 x 0 i j hs).trans
    ((Chip.word_putB_apart _ F.PORT_STAT_PCS_LOCK false x 0 i j hs).trans
      ((Chip.word_put_apart _ F.PORT_STAT_RATE 0 x 0 i j hs).trans (c.word_putB_apart F.PORT_STAT_LINK false x 0 i j hs))))

/-- The registers of a port and the state of the ports alone change, and the port's link is down. -/
structure Chip.Unlinks (c t : Chip) (x : Nat) : Prop extends c.Core t where
  mem : t.mem = c.mem
  recov : t.recov = c.recov
  word : ∀ r i j, Reg.apart .PORT_STAT r = true → Reg.apart .PORT_CNT1 r = true → t.word r i j = c.word r i j
  link : t.flag F.PORT_STAT_LINK x = false

variable {c} in
theorem Chip.Unlinks.modPort {t : Chip} {x : Nat} (h : c.Unlinks t x) (y : Nat) (f : Port → Port) : c.Unlinks (t.modPort y f) x :=
  ⟨⟨h.image, h.clock, h.fuses, h.flash, h.boot, h.mgmt⟩, h.mem, h.recov, h.word, h.link⟩

theorem Chip.showDown_unlinks {x : Nat} (hx : x < 2) : c.Unlinks (c.showDown x) x := by
  have honly := c.showDown_onlyRegs x
  have hrecov : (c.showDown x).recov = c.recov := by
    obtain ⟨r, f, hr⟩ := honly
    rw [hr]
  exact ⟨honly.core, honly.mem, hrecov, c.showDown_word x, c.showDown_link hx⟩

/-- The link of a port goes down where it is up. -/
def Chip.dropLink (c : Chip) (x : Nat) : Chip := if c.flag F.PORT_STAT_LINK x then c.linkDownPort x else c

theorem Chip.dropLink_unlinks {x : Nat} (hx : x < 2) : c.Unlinks (c.dropLink x) x := by
  unfold Chip.dropLink
  split
  case isTrue h =>
    rw [c.linkDownPort_eq h]
    exact (c.showDown_unlinks hx).modPort x _
  case isFalse h => exact ⟨⟨rfl, rfl, rfl, rfl, rfl, rfl⟩, rfl, rfl, fun _ _ _ _ _ => rfl, Bool.eq_false_iff.2 h⟩

/-- The link of a lost port, and its announced clock unless it is the source. -/
def Chip.unlink (c : Chip) (x : Nat) : Chip :=
  (c.dropLink x).modPort x (fun p => { p with announce := if (c.dropLink x).source = some x then p.announce else none })

theorem Chip.unlink_unlinks {x : Nat} (hx : x < 2) : c.Unlinks (c.unlink x) x := (c.dropLink_unlinks hx).modPort x _

/-- The sessions of a lost port and the source of time. -/
def Chip.leavePort (c : Chip) (x : Nat) : Chip :=
  let c := c.rebindAll x (fun _ => true)
  if c.source = some x then c.loseSource else c

theorem Chip.leavePort_repaths (x : Nat) : Repaths c (c.leavePort x) := by
  unfold Chip.leavePort
  dsimp only
  split
  · exact (c.rebindAll_repaths x _).trans (Chip.loseSource_repaths _)
  · exact c.rebindAll_repaths x _

/-! ## The obligation -/

theorem Chip.ddrLost_again {ch : Fin 2} (h : bitOf (c.get F.VAR_STAT_DDR_LOST) ch.val = true) : c.ddrLost ch = c := by
  unfold Chip.ddrLost
  rw [if_pos h]

theorem Chip.ddrLost_eq {ch : Fin 2} (h : bitOf (c.get F.VAR_STAT_DDR_LOST) ch.val = false)
    (hr : (c.recordLoss F.VAR_STAT_DDR_LOST ch.val 0x34 Loc.none (.ddr ch)).running = true) :
    c.ddrLost ch = (c.recordLoss F.VAR_STAT_DDR_LOST ch.val 0x34 Loc.none (.ddr ch)).loseChannel ch.val := by
  unfold Chip.ddrLost
  rw [if_neg (Bool.eq_false_iff.1 h)]
  unfold Chip.recordLoss Chip.markLoss at hr ⊢
  dsimp only
  rw [hr]
  rfl

theorem Chip.portLost_again {x : Fin 2} (h : bitOf (c.get F.VAR_STAT_PORT_LOST) x.val = true ∨ c.portUsed x.val = false) :
    c.portLost x = c := by
  unfold Chip.portLost
  rw [if_pos (by rcases h with h | h <;> simp [h])]

theorem Chip.portLost_eq {x : Fin 2} (h : bitOf (c.get F.VAR_STAT_PORT_LOST) x.val = false) (hu : c.portUsed x.val = true) :
    c.portLost x = ((c.unlink x.val).recordLoss F.VAR_STAT_PORT_LOST x.val 0x38 (c.locOf (.port x)) (.port x)).leavePort x.val := by
  unfold Chip.portLost
  rw [h, hu, if_neg (by decide)]
  rfl

theorem exec_ddr4ChannelLost_up (s : State) (ch : Fin 2) (hup : s.chip.Up) :
    exec (.ddr4ChannelLost ch) s = .next ⟨s.pending, (s.chip.ddrLost ch).settle⟩ := by
  simp only [exec_ddr4ChannelLost, Chip.serving_eq _ hup.1 hup.2]

theorem exec_portLost_up (s : State) (x : Fin 2) (hup : s.chip.Up) :
    exec (.portLost x) s = .next ⟨s.pending, (s.chip.portLost x).settle⟩ := by
  simp only [exec_portLost, Chip.serving_eq _ hup.1 hup.2]

/-- What the loss of a channel records stays while what lay on it is lost. -/
theorem Chip.ddrLost_notes (hr : c.running = true) {ch : Fin 2} (h : bitOf (c.get F.VAR_STAT_DDR_LOST) ch.val = false) :
    ∃ a, c.NotesLoss a F.VAR_STAT_DDR_LOST ch.val 0x34 Loc.none (.ddr ch) ∧ a.kv = c.kv ∧ Sheds a (c.ddrLost ch) := by
  have hnotes := c.recordLoss_notes hr (f := F.VAR_STAT_DDR_LOST) rfl (by decide) (by decide) ch.isLt 0x34 Loc.none (.ddr ch)
  refine ⟨_, hnotes, c.recordLoss_kv _ _ _ _ _, ?_⟩
  rw [c.ddrLost_eq h hnotes.running]
  exact Chip.loseChannel_sheds _ ch.val

/-- What the loss of a port records stays while its sessions and the clock take other paths. -/
theorem Chip.portLost_notes (hr : c.running = true) {x : Fin 2} (h : bitOf (c.get F.VAR_STAT_PORT_LOST) x.val = false)
    (hu : c.portUsed x.val = true) : ∃ a b, c.Unlinks a x.val ∧
      a.NotesLoss b F.VAR_STAT_PORT_LOST x.val 0x38 (c.locOf (.port x)) (.port x) ∧ b.mem = a.mem ∧
        b.flag F.PORT_STAT_LINK x.val = a.flag F.PORT_STAT_LINK x.val ∧ Repaths b (c.portLost x) := by
  have hun := c.unlink_unlinks x.isLt
  have hrun : (c.unlink x.val).running = true := by
    unfold Chip.running at hr ⊢
    rw [Chip.get_of_word F.BOOT_STAT_STATE (hun.word _ 0 0 (by decide) (by decide))]
    exact hr
  have hnotes := Chip.recordLoss_notes (c.unlink x.val) hrun (f := F.VAR_STAT_PORT_LOST) rfl (by decide) (by decide) x.isLt 0x38
    (c.locOf (.port x)) (.port x)
  refine ⟨_, _, hun, hnotes, Chip.recordLoss_mem _ _ _ _ _ _, ?_, ?_⟩
  · exact congrArg (fun v => decide (v ≠ 0)) (Chip.get_of_word F.PORT_STAT_LINK
      (Chip.recordLoss_word _ (f := F.VAR_STAT_PORT_LOST) rfl _ _ _ _ _ x.val 0 (by decide) (by decide)))
  · rw [c.portLost_eq h hu]
    exact Chip.leavePort_repaths _ x.val

/-- Settles O45: a lost channel or port is marked and logged once, and the first degradation waits for its switch. -/
theorem lostChannelsAndPorts : Obligations.LostChannelsAndPorts := by
  unfold Obligations.LostChannelsAndPorts
  intro s x hup c
  refine ⟨fun h => ?_, fun h => ?_, fun h => ?_, fun h hu => ?_⟩
  · exact (exec_ddr4ChannelLost_up s x hup).trans (by rw [c.ddrLost_again h])
  · obtain ⟨a, hnotes, hkv, hsheds⟩ := c.ddrLost_notes hup.2 h
    have hvar : ∀ f : Fld, f.reg = .VAR_STAT → (c.ddrLost x).settle.get f = a.get f := fun f hf =>
      ((c.ddrLost x).settle_calm.get_apart (by rw [hf]; decide)).trans (Chip.get_of_word f (hsheds.word _ 0 0 (by rw [hf]; decide)))
    have hrecov : (c.ddrLost x).settle.recov = a.recov := (Chip.settle_recov _).trans hsheds.recov
    refine ⟨_, exec_ddr4ChannelLost_up s x hup, rfl, ?_, fun hwait => ?_, ?_, fun hwait hdegr => ⟨?_, ?_⟩⟩
    · exact (congrArg (bitOf · x.val) (hvar F.VAR_STAT_DDR_LOST rfl)).trans hnotes.bit
    · have hfrees : a.kv.OnlyFrees := fun e he => by
        rw [hkv, hwait] at he
        cases he
      exact (hnotes.logged.of_word (hsheds.log hfrees).2).settle
    · exact (hnotes.toCore.trans hsheds.toCore).trans (Chip.settle_core _)
    · exact (congrArg Recov.waiting hrecov).trans (hnotes.waits hwait hdegr).1
    · exact (congrArg (fun v => decide (v ≠ 0)) (hvar F.VAR_STAT_SWITCHING rfl)).trans (hnotes.waits hwait hdegr).2
  · exact (exec_portLost_up s x hup).trans (by rw [c.portLost_again h])
  · obtain ⟨a, b, hun, hnotes, hmem, hlink, hpaths⟩ := c.portLost_notes hup.2 h hu
    have hlogged : c.Logged b 0x38 (c.locOf (.port x)) :=
      hnotes.logged.of_next (Chip.get_of_word F.FAULT_LOG_PTR_NEXT (hun.word _ 0 0 (by decide) (by decide)))
    refine ⟨_, exec_portLost_up s x hup, rfl, ?_, ?_, ?_, ?_, ?_, fun hwait hdegr => ?_⟩
    · exact (congrArg (bitOf · x.val) (((Chip.settle_calm _).get_apart (by decide)).trans (hpaths.get F.VAR_STAT_PORT_LOST 0 (by decide)))).trans
        hnotes.bit
    · exact ((Chip.settle_calm _).flag_apart (by decide)).trans
        ((congrArg (fun v => decide (v ≠ 0)) (hpaths.get F.PORT_STAT_LINK x.val (by decide))).trans (hlink.trans hun.link))
    · exact (hlogged.of_word (fun e => hpaths.word _ e 0 (by decide))).settle
    · exact (Chip.settle_mem _).trans (hpaths.mem.trans (hmem.trans hun.mem))
    · exact ((hun.toCore.trans hnotes.toCore).trans hpaths.core).trans (Chip.settle_core _)
    · have hwaits := (hnotes.waits (by rw [hun.recov]; exact hwait) (by rw [hun.recov]; exact hdegr)).1
      exact (congrArg Recov.waiting ((Chip.settle_recov _).trans hpaths.recov)).trans hwaits

end Sys2Proof.Machine
end
